-- ==== Sys2Proof/Word.lean ====
section
/-! DEFINITION. The plain word types of the model: physical page addresses, register words and
counters. Bit vectors stand only where the manual reads a value as bits. -/

namespace Sys2Proof

/-- A physical page address, 40 bits (R25, Table 2.1). -/
abbrev Ppa := BitVec 40

/-- A 32-bit register word of a BAR window. -/
abbrev Word32 := BitVec 32

/-- A 64-bit word of a structure in memory, on flash or in Codex. -/
abbrev Word64 := BitVec 64

/-- One byte. -/
abbrev Byte := BitVec 8

end Sys2Proof
end

