-- ==== Sys2Proof/Syntax.lean ====
section
/-! DEFINITION. The commands of the block: one constructor of `Instr` per row of
spec/opcode_table.json. An operand names the object of the step (a command
slot, a die, a port) or carries what the surroundings decide (a decode outcome, a measured time). -/

namespace Sys2Proof

/-- What a submission queue entry carries, as far as a rule reads it (R213, Tables 10.10, 10.11): `psdt` and
`fuse` are PSDT and FUSE of dword 0, `sgl` the descriptor types that an SGL of the entry uses, and `aligned` says that their
addresses and lengths are whole dwords. -/
structure SqEntry where
  cid    : Nat
  opcode : Nat
  nsid   : Nat
  dw10   : Nat
  dw11   : Nat
  dw12   : Nat
  dw13   : Nat
  dw14   : Nat
  dw15   : Nat
  psdt   : Nat := 0
  sgl    : List Nat := []
  aligned : Bool := true
  fuse   : Nat := 0
  dw2    : Nat := 0
  dw3    : Nat := 0
  deriving DecidableEq, Repr

/-- What a poisoned TLP, or a TLP with an ECRC error, was (Table 9.5). -/
inductive TlpKind where
  | dataOf  (slot : Nat)            -- completion carrying data of the command in this slot
  | entryOf (qid cid : Nat)         -- completion carrying a submission entry
  | barWrite                        -- memory write to a BAR
  deriving DecidableEq, Repr

/-- Why a hard decode of a codeword ended as it did (R140, R142, R143). -/
inductive DecodeOutcome where
  | ok (minSum : Bool) (weight : Nat) (corrected : Bool) (up down : List (Nat × Nat))
      -- decodes, on the fast path or by min-sum; `weight` unsatisfied checks at first; up and down errors
      -- by read level (R146)
  | fail                            -- no codeword found in steps 1 and 2
  | unavailable                     -- returned unread by the tile (R131)
  deriving DecidableEq, Repr


/-- What the checks of Table 18.5 find in the bytes of a bundle (crypto is not computed here). -/
structure BundleFacts where
  headerOk    : Bool                -- MAGIC, FORMAT, CRC, DEVICE_ID, STEPPING, COMPONENTS, manifest
  vendorKeyOk : Bool
  signatureOk : Bool
  hashesOk    : Bool
  ldpcSame    : Bool                -- base matrices equal those of the set that ran last
  tablesOk    : Bool                -- the table CRCs of components 5 and 6 (step 6)
  hitless     : List Bool           -- HITLESS of components 1 to 7, in order
  schema      : Nat
  schemaMin   : Nat
  version     : Nat
  fwRev       : Nat
  deriving DecidableEq, Repr

/-- One die profile of a Folio (Table 15.12), times in µs, maxima. -/
structure DieProfile where
  valid        : Bool
  cell         : Nat                -- 0 TLC, 1 QLC
  planes       : Nat
  densityTb    : Nat
  blocks       : Nat
  pages        : Nat
  pslcPages    : Nat
  spareBytes   : Nat
  maxRate      : Nat
  tRead        : Nat
  tReadPslc    : Nat
  tProg        : Nat
  tProgPslc    : Nat
  tErase       : Nat
  tErasePslc   : Nat
  tPsusp       : Nat
  tEsusp       : Nat
  tReset       : Nat
  minRunProg   : Nat
  minRunErase  : Nat
  retryCount   : Nat
  offsetMin    : Int
  offsetMax    : Int
  soft2Step    : Nat := 0           -- soft-strobe spacing in DAC steps
  soft3Step    : Nat := 0
  tSoft2       : Nat := 0           -- sense of a soft read, data transfer excluded
  tSoft3       : Nat := 0
  retries      : List (List Int) := []         -- RETRY[r]: the offsets of levels 1 to 15
  functions    : List (Nat × Nat × Nat) := []  -- FUNCTION, FEATURE, PREFIX of each feature entry in use
  timing       : List (Nat × Nat) := []        -- VALID timing sets: number, data rate
  deriving DecidableEq, Repr

/-- A Roster source entry (Table 15.11). -/
structure RosterSource where
  channel     : Nat
  present     : BitVec 32
  ldpcProfile : Nat
  dieProfile  : Nat
  deriving DecidableEq, Repr

/-- A lane-table entry with VALID set (Table 15.11). -/
structure LaneEntry where
  channel : Nat
  target  : Nat
  lane    : Nat
  slot    : Nat
  deriving DecidableEq, Repr

/-- A valid entry of the echelon table (Table 15.9). -/
structure EchelonEntry where
  echelon   : Nat
  k         : Nat
  positions : List Nat
  spares    : List Nat
  nsid      : Nat
  capacity  : Nat
  lbaf      : Nat
  deriving DecidableEq, Repr

/-- A valid namespace default entry (Table 15.10). -/
structure NsDefault where
  nsid : Nat
  size : Nat
  lbaf : Nat
  deriving DecidableEq, Repr

/-- What a Folio bank or a staged Folio image spells (R348 to R363). Slot fields are held by their
identifier (slot offset divided by 4, R352); a slot not listed holds its default. -/
structure FolioImage where
  headerOk   : Bool                 -- MAGIC, FORMAT
  crcOk      : Bool                 -- the bank CRC of R349
  reservedOk : Bool                 -- reserved bytes and encodings are zero (R7)
  schema     : Nat
  sequence   : Nat
  slots      : List (Nat × Nat)     -- (FIELD, value)
  model      : Nat                  -- MN, 40 bytes
  fru        : Nat                  -- FRU data, 256 bytes
  profiles   : List DieProfile      -- die profiles 0 to 15
  roster     : List RosterSource
  lanes      : List LaneEntry
  echelons   : List EchelonEntry
  namespaces : List NsDefault
  maxFlashRate : Nat := 4800        -- MT/s (Table 5.10)
  layoutDigest : Nat                -- R362, of these bytes
  folioDigest  : Nat                -- R319, of these bytes
  rest         : List (Nat × Nat) := []  -- (offset, byte) of what no other field spells, zeros left out
  deriving DecidableEq, Repr

/-- What a structure of the Codex die spells once a raw program is in it: a Folio bank, or the bundle of an
endpaper block. -/
inductive CodexSpell where
  | folio  (f : FolioImage)
  | bundle (f : BundleFacts)
  deriving DecidableEq, Repr

/-- Training values of one CE# target (Table 5.5); `wrWidth`: the width of the write window (R127). -/
structure CeTrain where
  ce       : Nat
  dqRd     : List Nat
  dqsRd    : Nat
  reDly    : Nat
  dqsWr    : Nat
  dfe      : Nat
  ctle     : Nat
  duty     : Nat
  vref     : Nat
  eyeWidth : Nat
  wrWidth  : Nat := 64
  deriving DecidableEq, Repr

/-- How one flash channel passes step 4 of start-up or a retraining (R127 to R129). -/
structure TrainResult where
  channel : Nat
  swept   : Bool                    -- a narrow sweep moved its centres
  full    : Bool                    -- full training ran
  set     : Nat                     -- the timing set that passed; 0: failed at set 1
  missing : List Nat                -- targets whose die did not answer in step 1 of R127
  temp    : Int
  centres : List CeTrain := []      -- what the sweep or the full training found at `set`, by target
  deriving DecidableEq, Repr

/-- A request at a DRAM subchannel (R335): its port, 0 to 4, 5 channel transfer staging, 6 Peloton ingress, 7
scrub; when it arrived; the row it goes to; its bursts. -/
structure DramReq where
  port      : Nat
  arrivedNs : Nat
  rank      : Nat
  bg        : Nat
  bank      : Nat
  row       : Nat
  bursts    : Nat
  deriving DecidableEq, Repr

/-- What a DRAM word holds: a region code of Table 14.4 and the number of its object there. -/
structure DramLoss where
  region : Nat
  owner  : Nat
  deriving DecidableEq, Repr

/-- The requests that have arrived at a subchannel since its last word, and the time of the choice. -/
structure DramTurn where
  arrived : List DramReq
  nowNs   : Nat
  deriving DecidableEq, Repr

/-- What the surroundings show one start-up (Table 8.4): times, training, media and key outcomes. -/
structure StartFacts where
  stepMs       : List Nat           -- end of steps 1 to 6, in ms
  lockstepBad  : Nat                -- lockstep failures in step 2: 0, 1 or 2
  dramFull     : Bool               -- a lane failed the narrow sweep, or no stored record matches
  dramRate     : Nat                -- the rate that passed; 0: a subchannel failed at 4,800 MT/s
  training     : List TrainResult   -- channels that did not just pass the check of R129
  coresBad     : List Nat           -- cipher cores that failed the known-answer test (R246)
  unwrapBad    : List (Nat × Nat)   -- (slot, 1 WRAPLEN, 2 ICV, 3 BIND) of Table 11.6
  rootBad      : Bool               -- a directory or Index snapshot page fails ladder step 6 (0x08)
  tornPages    : List Ppa           -- card positions of pages found torn (R180)
  unbuildable  : List Ppa           -- torn mapped positions that their die stripe cannot rebuild
  ledgerEnd    : Nat                -- sequence number of the last Ledger record replay reads
  picks        : List Nat           -- choices the manual leaves to the write scheduler
  rosterBad    : List Nat := []     -- channels whose tile finds its Roster entry's CRC wrong (R116)
  deriving DecidableEq, Repr

/-- Requesters of the pools (R14, R15): the host front end for a command slot, the Librarian, or
another engine by its requester number. -/
inductive Requester where
  | slot      (n : Nat)
  | librarian
  | engine    (n : Nat)
  deriving DecidableEq, Repr

/-- The header of a Peloton packet (Table 12.6), with the port it came in on. -/
structure PacketHdr where
  port    : Nat
  src     : Nat
  dst     : Nat
  ttl     : Nat
  ptype   : Nat
  rank    : Nat
  ordered : Bool
  fox     : Bool
  locked  : Bool
  tag     : Nat                     -- [15:12] generation, [11:0] index
  seq     : Nat
  arg0    : Nat
  arg1    : Nat
  deriving DecidableEq, Repr

/-- A PULSE or HELLO body (Table 12.4). -/
structure PulseBody where
  serial   : Nat
  digest   : Nat
  pelotonId : Nat
  pulseNum : Nat
  partners : List Nat
  linked   : List Bool
  compat   : List Bool
  mode     : Nat
  assigned : Bool
  captain  : Bool
  member   : Nat
  deriving DecidableEq, Repr

/-- The echelon command descriptor (Table 13.5). -/
structure EcDesc where
  echelon   : Nat
  stripe    : Nat
  viewNum   : Nat
  role      : Nat
  cardFirst : Nat
  cardsM1   : Nat
  full      : Bool
  fua       : Bool
  dealloc   : Bool
  dataIndex : Nat
  deriving DecidableEq, Repr

/-- A view record (Table 13.2). -/
structure ViewRec where
  viewNum : Nat
  echelon : Nat
  holder  : Nat
  places  : List (Nat × Nat)        -- (MEMBER, STATE) of positions 0 to w − 1
  deriving DecidableEq, Repr

/-- A flit as the receiver sees it (Table 12.2). -/
structure FlitIn where
  fseq  : Nat
  ack   : Nat
  nak   : Bool
  fcrcOk : Bool
  creditRank : Nat
  credit : Nat
  rank  : Nat
  sop   : Bool
  eop   : Bool
  ctrl  : Bool
  idle  : Bool
  hdr   : Option PacketHdr          -- the packet header, in a SOP flit
  deriving DecidableEq, Repr

/-- Sensor readings of one 1 ms sample (R377): TS0 to TS11 in 0.125 °C, the rails in mV, V12 in 10 mV. -/
structure SensorReadings where
  ts    : List Int
  rails : List Nat
  v12   : Nat
  deriving DecidableEq, Repr

/-- The commands, one per row of spec/opcode_table.json: those with operands in the table's order, then those
without (Lean's compiler takes no operands on a constructor after the 245th). -/
inductive Instr where
  /-- PERST# rises with every rail in range; start-up runs (R190, Table 8.4). -/
  | perstDeassert (f : StartFacts)
  /-- PERST# falls; `lowNs` is how long the low pulse lasts (R174, R445). -/
  | perstAssert (lowNs : Nat)
  /-- The link first reaches L0 (R191): ms from PERST# deassertion, rate in 0.1 GT/s, width. -/
  | linkUp (ms rate width : Nat) (flit : Bool)
  /-- To D3hot (`true`) or back to D0 (R206). -/
  | dStateChange (d3hot : Bool)
  | poisonedTlp (k : TlpKind) (ecrc : Bool)
  | completionTimeout (k : TlpKind)
  | unsupportedRequest (nonPosted : Bool)
  /-- 0 malformed TLP, 1 receiver overflow, 2 flow-control protocol (Table 9.5). -/
  | malformedTlp (kind : Nat)
  /-- 0 receiver, 1 bad flit, 2 replay timer, 3 replay rollover (Table 9.5). -/
  | correctableLinkError (kind : Nat)
  | sqTailDoorbell (qid tail : Nat)
  | cqHeadDoorbell (qid head : Nat)
  /-- Fetch of the entry at the head of `qid` into the free command slot `slot` (R215, R217). -/
  | commandFetch (slot qid : Nat) (e : SqEntry)
  | interruptCoalesceExpiry (vector : Nat)
  /-- A host write of `size` bytes at `off` of BAR `bar` (R207, R213). -/
  | registerWrite (bar off size value : Nat)
  /-- An RW1C write to the sticky register at INDEX `idx` (R208, R381). -/
  | stickyRw1cWrite (idx : Nat) (mask : Word32)
  | ksPoolClear (value : Word32)
  | ksEscClear (value : Word32)
  | ksDramClear (value : Word32)
  | ksHoldupRun (value : Word32)
  | ksCxPageWrite (value : Word32)
  | ksCxAddrWrite (value : Word32)
  /-- One pass-through cycle; `gapNs` since the last cycle of the sequence (R400, R414); `spell`: what the
  programmed structure spells once the sequence that this cycle ends is in. -/
  | ksCxDataWrite (value : Word32) (gapNs : Nat) (spell : Option CodexSpell)
  | deleteIoSubmissionQueue (slot : Nat)
  | createIoSubmissionQueue (slot : Nat)
  | getLogPage (slot : Nat)
  | deleteIoCompletionQueue (slot : Nat)
  | createIoCompletionQueue (slot : Nat)
  | identify (slot : Nat)
  | abort (slot : Nat)
  | setFeaturesArbitration (slot : Nat)
  | setFeaturesPowerManagement (slot : Nat)
  | setFeaturesTemperatureThreshold (slot : Nat)
  | setFeaturesNumberOfQueues (slot : Nat)
  | setFeaturesInterruptCoalescing (slot : Nat)
  | setFeaturesIntVectorConfig (slot : Nat)
  | setFeaturesWriteAtomicity (slot : Nat)
  | setFeaturesAsyncEventConfig (slot : Nat)
  /-- `ms` is the 48-bit host timestamp in the command's data (R394). -/
  | setFeaturesTimestamp (slot ms : Nat)
  | setFeaturesUnsupported (slot : Nat)
  | getFeatures (slot : Nat)
  | asynchronousEventRequest (slot : Nat)
  /-- The data structure of the create: NSZE, NCAP in LBAs, LBAF, protection type (R228). -/
  | namespaceCreate (slot nsze ncap lbaf pi : Nat)
  | namespaceDelete (slot : Nat)
  | namespaceAttach (slot : Nat)
  | namespaceDetach (slot : Nat)
  /-- `facts`: what the whole staged bundle's bytes spell once this portion is in. -/
  | firmwareImageDownload (slot : Nat) (facts : BundleFacts)
  | firmwareCommitWrite (slot : Nat) (readBackOk : Bool)
  | firmwareCommitWriteArm (slot : Nat) (readBackOk : Bool)
  | firmwareCommitArm (slot : Nat)
  | firmwareCommitActivate (slot : Nat) (readBackOk : Bool)
  | firmwareCommitInvalid (slot : Nat)
  | formatNvmRelease (slot : Nat)
  | formatNvmCryptoErase (slot : Nat)
  | securityReceive (slot : Nat)
  /-- GenKey on locking range `r` of namespace `nsid` in Opal session `session`. -/
  | opalGenkey (slot session nsid r : Nat)
  /-- Set of RangeStart and RangeLength, in bytes. -/
  | opalSetRange (slot session nsid r start len : Nat)
  | opalSetLocking (slot session nsid r : Nat) (readLocked writeLocked : Bool)
  | opalRevert (slot session : Nat)
  /-- 0 StartSession with `authority`, 1 EndSession, 2 Authenticate, 3 Get, 4 Set of LockOnReset
  (`arg`: bit 0 PowerCycle, bit 1 Hot Reset) of range `r`; `authOk`: the credential checks. -/
  | opalSessionMethod (slot session method authority nsid r arg : Nat) (authOk : Bool)
  | sanitizeCryptoErase (slot : Nat)
  | sanitizeBlockErase (slot : Nat)
  | sanitizeInvalid (slot : Nat)
  | stickyClear (slot : Nat)
  /-- `value`: the LEN bytes of data, little-endian. -/
  | liveFieldSet (slot value : Nat)
  | liveFieldGet (slot : Nat)
  | retireDie (slot : Nat)
  | retireChannel (slot : Nat)
  | folioStage (slot : Nat)
  /-- `img`: what the staged bytes spell; `readBackOk`: step 6 of R368. -/
  | folioCommit (slot : Nat) (img : FolioImage) (readBackOk : Bool)
  | foxReport (slot : Nat)
  | invalidAdminOpcode (slot : Nat)
  | flush (slot : Nat)
  | write (slot : Nat)
  | read (slot : Nat)
  /-- `data`: the compare data, one value per 512-byte sector. -/
  | compare (slot : Nat) (data : List Nat)
  | writeZeroes (slot : Nat)
  /-- `ranges`: (starting LBA, length in LBAs), at most 256. -/
  | datasetManagement (slot : Nat) (ranges : List (Nat × Nat))
  | orderedWrite (slot : Nat)
  | orderedWriteStart (slot : Nat)
  | invalidIoOpcode (slot : Nat)
  /-- One request for all buffers of a unit of work: set 0 transit, 1 work; sizes in KiB (R14, R17). -/
  | poolRequest (set : Nat) (who : Requester) (sizesKiB : List Nat)
  | poolFree (pool addr : Nat)
  | poolStallServed (set : Nat)
  /-- `data`: one value per 512-byte sector; `picks`: the scheduler's open choices;
  `info`: guard, application tag and reference tag of each logical block, where the host transfers them (R230). -/
  | writeDataArrived (slot : Nat) (data : List Nat) (picks : List Nat) (info : List (Nat × Nat × Nat))

  /-- `fresh`: the card placed takes a new row; else `picks` names the open row. -/
  | cardLockGrant (slot shelf card : Nat) (fresh : Bool) (picks : List Nat)
  | seqDetectorExpiry (index : Nat)
  /-- The carrel page of row `row`, page offset and data index, has waited for the seal delay. -/
  | sealDelayExpiry (row page dataIndex : Nat)
  | rowIdleSeal (row : Nat)
  /-- The program in progress on (channel, target) ends with success. -/
  | pageProgramDone (channel target : Nat)
  | programFail (channel target : Nat) (picks : List Nat)
  | ledgerCardProgrammed (firstSeq : Nat)
  /-- A miss read of shelf page (`page = true`) or of the fine segment of `index`. -/
  | mapMissReadDone (page : Bool) (index : Nat)
  | shelfRelease (shelf : Nat)
  /-- The spine record being written reads back (`ok`) or not. -/
  | spineRecordReadback (ok : Bool)
  | shelfPageLoad (page : Nat)
  /-- `fresh`: the unit's first cards take a new row; `picks` chooses the row of the ones after them. -/
  | foldUnit (fresh : Bool) (picks : List Nat)
  | foldRowProgrammed (row : Nat)
  | weedingVictimSelect (planeGroup : Nat)
  | weedingCopy (planeGroup : Nat) (fresh : Bool) (picks : List Nat)
  | rotationStart (planeGroup : Nat)
  | eraseGateOpen (entry : Nat)
  | eraseIntentDurable (entry : Nat)
  /-- `failed`: lane-table positions whose member erase failed. -/
  | blockEraseDone (entry : Nat) (failed : List Nat)
  /-- `bad`: positions that fail the erased check twice (R88). -/
  | startupReerase (entry : Nat) (bad : List Nat)
  | laneRebuildStep (lane : Nat) (picks : List Nat)
  | laneRebuildEnd (lane : Nat)
  | rosterSync (channel : Nat)
  | rosterLoad (channel : Nat) (crcOk : Bool)
  | flashReadIssue (channel target : Nat)
  /-- `wrongCard`: the shelfmark does not match (misdirected data). -/
  | flashReadDone (channel target : Nat) (outcome : DecodeOutcome) (wrongCard : Bool)
  | arrayOpIssue (channel target : Nat)
  | issueLimitExpiry (channel target : Nat)
  | eraseWaitExpiry (channel target : Nat)
  /-- `ranUs`: how long the operation has run since issue or resume. -/
  | readWaitLimitExpiry (channel target ranUs : Nat)
  | suspendReady (channel target : Nat)
  | suspendedReadsDone (channel target : Nat)
  | zqIntervalExpiry (channel ce : Nat)
  | dieTempRead (channel target : Nat) (temp : Int)
  /-- A narrow sweep of each target in Service; `ok`: every target met the criterion. -/
  | recentreSweep (channel : Nat) (centres : List CeTrain) (temp : Int)
  | dieTimeout (channel target : Nat)
  | resetLunDone (channel target : Nat)
  /-- 0 not ready after Reset LUN, 1 fails Read ID, 2 reaches the timeout count (R132). -/
  | dieNotAnswering (channel target cause : Nat)
  | channelFault (channel : Nat) (r : TrainResult)
  /-- The failed codeword at `ppa`, wanted by `who`; class 0 or 1; `entry` ladder step (3 or 6). -/
  | escalationEntry (ppa : Ppa) (cls : Nat) (step : Nat)
  | contextFree (lane block page : Nat)
  /-- `fresh` and `picks`: the row that a rewritten card takes. -/
  | ladderStepDone (ppa : Ppa) (fresh : Bool) (picks : List Nat)
  | escalationBudgetExpiry (lane block page : Nat)
  /-- A unit of `len` bytes for `slot` submitted to core `core`, 0 decrypt, 1 encrypt, 2 test. -/
  | cipherUnit (core slot len kind : Nat)
  /-- The decrypt unit of the card at `ppa` ends; `intact`: stored bytes and tag are as written. -/
  | cipherUnitDone (ppa : Ppa) (intact : Bool)
  /-- PWRFAIL_N low for `ns`. -/
  | pwrfailNLow (ns : Nat)
  /-- V12_SENSE below the threshold for `us`. -/
  | v12BelowThreshold (mv us : Nat)
  | coastComplete (readBackOk : Bool)
  /-- 0 policy set to not armed, 1 hold-up test failed (Table 16.12). -/
  | coastDisarm (cause : Nat)
  /-- `retest`: the 60 s retest while disarmed. -/
  | holdupTestIntervalExpiry (retest : Bool)
  | holdupDischargeEnd (tdUs : Nat)
  /-- 0 channel tile, 1 hard LDPC, 2 soft LDPC, 3 cipher core, 4 Peloton port, 5 engines. -/
  | unitWake (unit index : Nat)
  | sensorSample (r : SensorReadings)
  | railOutOfRange (rail mv : Nat)
  /-- The duty the monitors ask for, in 1/1000. -/
  | coreVsetUpdate (duty : Nat)
  /-- A source other than a modelled step enters a record; `source` its number. -/
  | daybookRecordEntry (source event : Nat) (payload : List (Nat × Nat))
  | renewSlot (slot : Nat)
  | sweepDurable (slot : Nat)
  | keygenTimeout (slot : Nat)
  /-- The instruction loaded: 0 BYPASS, 1 IDCODE, 2 a boundary instruction, else another. -/
  | jtagInstructionLoad (kind : Nat)
  | partnerAliveRise (port : Nat)
  | partnerAliveLow (port : Nat) (ns : Nat)
  /-- FEC locks at width code 1, 2 or 3 of Table 12.11. -/
  | portFecLock (port width : Nat)
  | trainingRetryExpiry (port : Nat)
  | hello (h : PacketHdr) (b : PulseBody) (level1 numberingAuto : Bool)
  | helloAssign (h : PacketHdr) (b : PulseBody) (number serial : Nat)
  | pulse (h : PacketHdr) (b : PulseBody)
  | pulseTimeout (serial : Nat)
  | flitReceive (port : Nat) (f : FlitIn)
  | flitNak (port ack : Nat)
  | fecLockLoss (port : Nat)
  /-- `prefer`: the order in which the Librarian prefers ports among paths of equal length. -/
  | routingTableWrite (prefer : List Nat)
  | cmd (h : PacketHdr) (d : EcDesc)
  | go (h : PacketHdr)
  | data (h : PacketHdr) (sectors : List Nat)
  | done (h : PacketHdr)
  | lock (h : PacketHdr)
  | unlock (h : PacketHdr)
  | backoff (h : PacketHdr)
  | backoffRetryExpiry (dst index : Nat)
  | relay (h : PacketHdr) (len origin action : Nat) (facts : BundleFacts)
  | intent (h : PacketHdr) (d : EcDesc) (kind dataMask position : Nat)
  | reservedPacket (h : PacketHdr)
  | packetCrcFail (port : Nat)
  | memberTimeout (dst index : Nat)
  | forwardWrite (h : PacketHdr) (d : EcDesc)
  | ecRead (h : PacketHdr) (d : EcDesc)
  | ecWrite (h : PacketHdr) (d : EcDesc) (picks : List Nat)
  /-- `fresh` and `picks`: the rows that the new parity cards take. -/
  | delta (h : PacketHdr) (d : EcDesc) (fresh : Bool) (picks : List Nat)
  | parity (h : PacketHdr) (d : EcDesc) (picks : List Nat)
  /-- `order`: the positions that a reconstruction reads first; the spec leaves their order open. -/
  | readChecked (h : PacketHdr) (d : EcDesc) (order : List Nat)
  | repair (h : PacketHdr) (d : EcDesc) (picks : List Nat)
  | ecFormat (h : PacketHdr) (nsid ses : Nat)
  | view (h : PacketHdr) (v : ViewRec) (crcOk : Bool)
  | timeoutReport (h : PacketHdr) (echelon member ms : Nat)
  | ecReservedOperation (h : PacketHdr)
  /-- `order`: the positions read first; `picks`: the rows that parity cards of this member take. -/
  | intentSettle (echelon stripe : Nat) (order picks : List Nat)
  | intentAgeExpiry (echelon stripe : Nat)
  /-- `order`: the positions read first. -/
  | lagRepair (echelon stripe position : Nat) (order : List Nat)
  /-- `order`: the positions read first; `picks`: the rows that the rebuilt cards take. -/
  | rebuildStripe (echelon : Nat) (order picks : List Nat)
  | rebuildPointerStore (echelon : Nat)
  | relayCommit (readBackOk : Bool)
  /-- Bits in error among the 80 of a word of subchannel `u` at the row named; `miscorrected`: a
  word of 4 or more errors was miscorrected; `lost`: what stands in the word; `turn`: the requests that came before it. -/
  | dramReadDecode (u rank bg bank row errors : Nat) (miscorrected : Bool) (lost : DramLoss)
      (turn : DramTurn)
  | patrolScrub (u rank bg bank row errors : Nat) (writeIntervened : Bool)
  | refreshTick (u : Nat) (urgent : Bool)
  /-- MR4 of a rank: doubled rate wanted, beyond the refresh ranges, upper end of its range in °C. -/
  | mr4Read (rank : Nat) (doubled beyond : Bool) (tempTop : Int)
  | dqsOscillatorRead (rank : Nat) (change : Int)
  /-- Real-time port 0 channel transfer staging, 1 Peloton ingress; fill in percent. -/
  | brakeRaise (port fill : Nat)
  | brakeLower (port : Nat)
  | rowRetire (u rank bg bank row : Nat) (wholeBank : Bool)
  /-- KIND 1 flash channel, 2 DRAM subchannel; UNIT; RATE; MATCH. -/
  | trainingRecordAppend (kind unit rate matchWord : Nat)
  | liveFieldBoundary (field : Nat)
  | codexArrayErase (passThrough : Bool)
  | codexContinuousReadEnter (addr : Nat)
  /-- `who`: 0 Librarian, 1 AOC, 2 boot ROM, 3 pass-through, 4 Catalogue engine or Coast. -/
  | codexSectorErase (who addr : Nat)
  | codexProgram (who addr : Nat) (bytes : List Byte) (spell : Option CodexSpell)
  | codexFlagCellQuery (addr : Nat)
  | colophonProgram (addr : Nat) (bytes : List Byte)
  | colophonLock (mask : Nat)
  | endpaperSwap (who target : Nat)
  | codexProgramDone (readBackOk : Bool)
  | codexEraseDone (verifyOk : Bool)
  /-- `ran5ms`: the running erase has run for 5 ms since it began or was resumed. -/
  | codexRequestServe (ran5ms : Bool)
  /-- 0 subsystem information, 1 port information, 2 controller list. -/
  | nvmeMiReadDataStructure (kind : Nat)
  /-- 1 SMBus frequency, 3 MCTP transmission unit. -/
  | nvmeMiConfigurationGet (id : Nat)
  | nvmeMiConfigurationSet (id value : Nat)
  | nvmeMiVpdRead (offset len : Nat)
  | nvmeMiVpdWrite (offset len : Nat)
  | nvmeMiTunnelledAdmin (e : SqEntry)
  | nvmeMiInvalidCommand (opcode : Nat)
  | recoveryFirmwareDownload (slot : Nat) (facts : BundleFacts)
  | recoveryRelaySend (port : Nat)
  | failedTrainingAttempt (port : Nat)
  | noViewHolderReachable (echelon : Nat)
  /-- Enters (`true`) or leaves ASPM L1, L1.1 (1) or L1.2 (2), 0 plain L1. -/
  | aspmL1 (enter : Bool) (substate : Nat)
  /-- VDD_AON in range with PERST# asserted (R188). -/
  | powerOnAon
  | linkDown
  | hotReset
  | functionLevelReset
  | unexpectedCompletion
  | ccEnSet
  | ccEnClear
  | shutdownNormal
  | shutdownAbrupt
  | completionPost
  | ledgerIdleClose
  | ledgerSpaceFreed
  | pendingUpdateRoom
  | inventoryPassStart
  | checkpointIntervalExpiry
  | inventoryPassComplete
  | warmingEnd
  | foldStart
  | idleFoldDelayExpiry
  | retireEvaluate
  | preserveEntry
  | coastProgramsDone
  | ackDrainDone
  | holdupTestStart
  | holdupMaxDischargeExpiry
  | holdupRecharged
  | holdupRechargeExpiry
  | holdupLowOutsideTest
  | idleServiceEntry
  | idleServiceExit
  | dramSelfRefreshEntry
  | lockstepMismatch
  | watchdogExpiry
  | librarianRestartEnd
  | heldPauseEnd
  | daybookFlush
  | daybookFlushDone
  | noiseHealthFail
  | drbgReseed
  | testModeAssert
  | pulseSend
  | roadCaptainStable
  | relaySend
  | relayRoundRestart
  | rowErrorLogHalve
  | codexContinuousReadExit
  | codexEraseSuspend
  | codexEraseResume
  | codexStatus
  | codexSequenceError
  | nvmeMiBasicManagement
  | nvmeMiSubsystemHealthPoll
  | nvmeMiControllerHealthPoll
  | lossOfPower
  deriving DecidableEq, Repr

end Sys2Proof
end

