-- ==== Sys2Proof/Decode.lean ====
section
/-! DEFINITION. The commands of spec/opcode_table.json carry no bits (every row's "fields" is empty),
so no word spells one. -/

namespace Sys2Proof

/-- The command that a word of `nbits` bits spells: none, since the table gives no row any bits. -/
def decodeTableWord (_nbits _w : Nat) : Option Instr := none

end Sys2Proof
end

