-- ==== Sys2Proof/Config.lean ====
section
/-! DEFINITION. The values the manual leaves open, as constants with no body: nothing can be proved
about what they are. Each is applied to `State.free`, the model's own count of the free values drawn
so far, or to the operands it depends on. -/

namespace Sys2Proof

/-- An open bit: whether a pulse between the two bounds of a pin is recognised (R166, R445). -/
opaque Config.freeBit : Nat → Bool

/-- The contents of one 512-byte sector of data that the manual does not fix. -/
opaque Config.freeSector : Nat → Nat

/-- A byte of a Codex page programmed more than eight times (R398). -/
opaque Config.freeByte : Nat → Byte

/-- The progress figure of a running Sanitize (R266), of 16 bits. -/
opaque Config.freeProgress : Nat → BitVec 16

/-- DNR of a status for which the manual states none; the operands are the status code type and code. -/
opaque Config.freeDnr : Nat → Nat → Bool

/-- GENERATION of the Roster entry of a channel as it is built at boot (R116); the operands are the
power-cycle count and the channel. -/
opaque Config.freeGeneration : Nat → Nat → BitVec 16

/-- DRIVE and ODT of the Roster entry of a channel (R116): no field of the Folio gives them. -/
opaque Config.driveCode : Nat → BitVec 4
opaque Config.odtCode : Nat → BitVec 4

/-- AES-256-GCM, which this model does not compute (R244, R247, R248): the stored sector of a plaintext sector under a
key, by accession number and place in the card; and the tag of a card by key, accession number, NSID, card LBA and
plaintext. -/
opaque Config.cipherText : Nat → Nat → Nat → Nat → Nat
opaque Config.gcmTag : Nat → Nat → Nat → Nat → List Nat → BitVec 128

/-- The 256 bits of the key that a key id stands for, and the RFC 3394 wrap of 48 bytes under the root key (R253). -/
opaque Config.keyBits : Nat → BitVec 256
opaque Config.wrap : BitVec 384 → BitVec 448

/-- The base matrix of an LDPC profile in the accession bundle: by profile, row and column, the rotation of its circulant,
none where it holds a zero block (R139). -/
opaque Config.ldpcBase : Nat → Nat → Nat → Option Nat

/-- Refreshes that DDR5 lets a controller postpone (R338). -/
opaque Config.postponeLimit : Nat

/-- The Base ComID of the TPer (Table 11.9 gives their number, one, and no value). -/
opaque Config.baseComId : BitVec 16

end Sys2Proof
end

