-- ==== Sys2Proof/Machine/State.lean ====
section
/-! DEFINITION. The state of the KS9640 as plain data: every register, buffer, queue, counter, mode
and pin the manual names, grouped by the chapter that owns it; the closed reasons a step can stop;
and the state after reset. A map keyed by numbers is a list of pairs in rising key order that does not
list an entry equal to its default. -/

namespace Sys2Proof.Machine

/-! ## Chapters 7, 8 and 19: modes, time, pins -/

/-- The operating modes of Table 8.1, and no power at all. -/
inductive Mode where
  | unpowered | dormant | rising | warming | service | degraded | preserve | coast | recovery
  deriving DecidableEq, Repr

/-- Time as the device counts it (R375, R376). -/
structure Clock where
  us      : Nat        -- µs since VDD_AON came into range
  opMs    : Nat        -- operating time in ms, 48 bits
  rebased : Bool       -- the base of R375 has been added in this start
  deriving DecidableEq, Repr

/-- Pins and rails as the device senses and drives them (R439, R440, R442 to R445, R450). -/
structure Pins where
  aonOk         : Bool          -- VDD_AON in its operating range
  railOk        : List Bool     -- rails 0 to 9 of R379 in range
  perstN        : Bool
  pwrfailN      : Bool
  testMode      : Bool
  holdupSupLow  : Bool          -- the supervisor drives HOLDUP_OK low
  holdupDevLow  : Bool          -- the device drives HOLDUP_OK low
  thermAlertLow : Bool          -- the device drives THERM_ALERT_N low
  coreVset      : Nat           -- high fraction d of CORE_VSET, in 1/1000 (R444)
  jtagBoundary  : Bool          -- a boundary instruction is in force (R450)
  deriving DecidableEq, Repr

/-- Power gates of Table 8.6 and clock gating of Table 19.10: the units that are gated. -/
structure Gates where
  tiles   : List Nat            -- gated channel tiles
  hardDec : List Nat            -- gated hard-decision units, 0 to 127
  softDec : List Nat            -- gated soft-decision units, 0 to 23
  cores   : List Nat            -- gated cipher cores
  ports   : List Nat            -- gated Peloton ports
  engines : Bool                -- Bufold engines and crossbar gated
  pcie    : Bool                -- PCIe PHY and core gated, in L1.2 (R447)
  dram    : Bool                -- DRAM PHYs and controllers gated, in self-refresh (R447)
  lastUse : List (Nat × Nat) := []  -- last use of a unit in µs, by 256 times its kind plus its number (Table 8.6)
  deriving DecidableEq, Repr

/-- A start in progress (Table 8.4): what it meets, the steps that have ended, and the time of PERST# deassertion. -/
structure StartRun where
  facts : StartFacts
  ended : Nat
  us    : Nat
  deriving DecidableEq, Repr

/-- Mode, conditions and the record of the last start (R186 to R188, Table 8.2). -/
structure ModeSt where
  mode         : Mode
  preservePend : Bool           -- the Preserve condition holds (COND_PRESERVE)
  degraded     : Bool           -- a lane or echelon rebuild is running (COND_DEGRADED)
  warm         : Bool           -- shelf pages remain to be loaded (COND_WARM)
  idle         : Bool           -- IDLE
  reason       : Nat            -- REASON of Table 8.5
  timeMs       : Nat            -- KS_MODE_TIME
  startLog     : List Nat       -- KS_START_LOG[1] to [6]
  startLink    : Nat            -- KS_START_LINK
  folioBankB   : Bool
  schema3      : Bool
  keyFail      : Bool
  oldSet       : Bool
  fullFlash    : Bool
  fullDram     : Bool
  libRetry     : Bool
  firstStart   : Bool
  warmTotal    : Nat            -- shelf pages to be loaded in this Warming
  pagesLoaded  : Nat            -- of those, loaded
  ready        : Bool           -- the ready point, or the minimal controller's readiness, has come
  manufacturing : Bool          -- manufacturing mode (R414)
  gates        : Gates
  startRun     : Option StartRun := none  -- the start in progress
  deriving DecidableEq, Repr

/-- Where a running hold-up test stands (R175, R176). -/
inductive HoldupTest where
  | none | requested | discharging | recharging (tdUs : Nat)
  deriving DecidableEq, Repr

/-- Where a running Coast stands (R168). -/
inductive CoastPhase where
  | none
  | programs      -- steps 1 and 2 done; the programs of step 3 run
  | record        -- step 4: the spine record of KIND 2 is being written and read back
  | hold          -- step 5: complete; the device holds
  deriving DecidableEq, Repr

/-- What entered a Coast: the causes of COAST_ENTRY (Table 16.12). -/
inductive CoastCause where
  | pwrfail | v12 | perst | normal | abrupt
  deriving DecidableEq, Repr

/-- One entry of HISTORY in log page C3h (Table 16.10). -/
structure HoldupResult where
  cycles : Nat
  tdUs   : Nat
  result : Nat
  timeMs : Nat
  deriving DecidableEq, Repr

/-- An extreme record of log page C2h (R385). -/
structure Extreme where
  sensor  : Nat                 -- sensor index, or the target of the die
  channel : Nat
  reading : Int                 -- 0.125 °C
  cycles  : Nat
  timeMs  : Nat
  deriving DecidableEq, Repr

/-- The counts since manufacture, as last saved with a checkpoint spine record or in Coast (R119, R225). -/
structure SavedLogs where
  c1        : List Nat          -- log page C1h
  smart     : List Nat
  wear      : List Nat          -- counts of log page C0h
  ctrlBins  : List Nat
  flashBins : List Nat
  extremes  : List (Option Extreme)
  holdup    : List Nat          -- counts of log page C3h
  history   : List HoldupResult
  tout      : List (Nat × Nat)  -- KS_CHAN_TOUT by channel
  deriving DecidableEq, Repr

/-- Coast, its arming, and the hold-up test (R166 to R177, R183, R386). -/
structure Coast where
  phase        : CoastPhase
  cause        : CoastCause
  modeAt       : Mode           -- the mode at Coast entry
  perstFacts   : Option StartFacts  -- PERST# was released during the running Coast: what its start meets
  armed        : Bool
  draining     : Bool           -- step 3 of R70 runs
  drainLeft    : List Ppa       -- acknowledged cards step 3 of R70 still has to program
  recordDue    : Bool           -- a place for the KIND 2 record existed (R53)
  stripes      : List Nat       -- block-table entries of the Coast block stripes (R170)
  reserve      : List Nat       -- block-table entries of the last-write, Ledger and Daybook reserves (R104)
  failCount    : Nat            -- consecutive hold-up test failures
  lossBefore   : Nat            -- KS_COAST_STAT [7:6]
  test         : HoldupTest
  holdupLast   : Nat            -- KS_HOLDUP_LAST
  lastArmed    : Bool           -- the last arming record in the Daybook shows Coast armed (R182)
  sticky       : Word32         -- KS_STICKY_POWER
  history      : List HoldupResult
  abandoned    : Nat
  passes       : Nat
  fails        : Nat
  disarmedMin  : Nat
  tdMin        : Nat
  tdMax        : Nat
  coastsDone   : Nat
  coastsNot    : Nat
  lastCoastUs  : Nat
  entryUs      : Nat            -- clock at Coast entry
  deriving DecidableEq, Repr

/-! ## Chapter 1: buffer pools -/

/-- One pool: the free list threaded through the free buffers (R13) and its counters (Table 1.6). -/
structure Pool where
  sizeKiB : Nat
  total   : Nat
  head    : Nat                     -- address of the first free buffer; 0 ends the list
  next    : List (Nat × Nat)        -- first 8 bytes of a free buffer; unlisted: the buffer after it in
                                    -- address order, 0 for the pool's last buffer (the list made at boot)
  free    : Nat
  minFree : Nat
  fall    : Nat
  stall   : Nat
  stallUs : Nat
  deriving DecidableEq, Repr

/-- A stalled request (R15). -/
structure PoolReq where
  who   : Requester
  sizes : List Nat                  -- KiB
  deriving DecidableEq, Repr

/-- The pool manager (R13 to R20). -/
structure Pools where
  pool    : List Pool               -- transit 0 to 3, work 4 to 7
  waitT   : List PoolReq            -- stalled requests of the transit set, oldest first
  waitW   : List PoolReq            -- stalled requests of the work set
  held    : List (Requester × Nat × Nat)  -- buffers handed out: requester, pool, address
  holdTab : List (Nat × Nat)        -- the Librarian's hold table, at most 16
  deriving DecidableEq, Repr

/-! ## Chapters 2 and 3: the Catalogue, the Ledger, the write path -/

/-- A Ledger record (Table 2.9). -/
structure LedgerRec where
  seq       : Nat
  typ       : Nat                   -- Table 2.10
  card      : Nat
  shelf     : Nat
  oldPpa    : Ppa
  newPpa    : Ppa
  accession : Nat
  deriving DecidableEq, Repr

/-- A shelf entry (Tables 2.2, 2.3), decoded. -/
structure ShelfEntry where
  form     : Nat
  age      : Nat
  ppa      : Ppa
  presence : BitVec 16
  prevForm : Nat
  relSeq   : Nat                        -- number of the SHELF_DEALLOC while FORM is 3, for GATE_SEQ
  deriving DecidableEq, Repr

/-- A card entry of a fine segment (Table 2.6). -/
structure CardEntry where
  ppa   : Ppa
  age   : Nat
  fox   : Bool
  valid : Bool
  deriving DecidableEq, Repr

/-- A fine segment with its trailer (Tables 2.5, 2.7); `slot` is its DRAM slot when RESIDENT. -/
structure Segment where
  shelf   : Nat
  nsid    : Nat
  cards   : List CardEntry
  slot    : Option Nat
  flashed : Bool
  dirty   : Bool
  ref     : Bool
  locator : Ppa
  deriving DecidableEq, Repr

/-- An Index entry (Table 2.8). -/
structure IndexEntry where
  state  : Nat
  loaded : Bool
  dirty  : Bool
  ppa    : Ppa
  deriving DecidableEq, Repr

/-- The Catalogue (R26 to R42). -/
structure Catalogue where
  shelves  : List (Nat × ShelfEntry)    -- unlisted: FORM 0
  segs     : List Segment
  index    : List (Nat × IndexEntry)    -- unlisted: STATE 0
  pend     : List LedgerRec             -- the pending-update table, in sequence order (R39)
  misses   : List (Bool × Nat)          -- loads in flight: (shelf page?, page or shelf)
  hand     : Nat                        -- the eviction sweep's next slot (R37)
  slotCap  : Nat                        -- resident segment slots (R57)
  nextAcc  : Nat                        -- the next accession number to be issued (R30)
  stalledUpd : List LedgerRec           -- updates stalled on a full pending-update table (R39)
  arrived  : List (Bool × Nat × Ppa)    -- cards of loads in flight that have been read
  warmLoads : List Nat := []            -- shelf pages that are loaded in the background of Warming (R121, R194)
  deriving DecidableEq, Repr

/-- A block-table entry (Table 4.1); EXCLUDED by lane-table position. -/
structure BlockEntry where
  gateSeq  : Nat
  closed   : Nat
  listPpa  : Ppa
  excluded : BitVec 64
  state    : Nat                        -- 0 free … 5 retired
  carrel   : Bool
  stream   : Nat
  width    : Nat
  valid    : Nat
  erases   : Nat
  listRows : Nat
  forced   : Bool                       -- a forced victim (R101)
  retireAtErase : List Nat              -- positions to be excluded at the next erase (Table 4.4)
  rowsUsed  : Nat                       -- rows opened so far while open
  exclOpen  : BitVec 64                 -- EXCLUDED when it was opened; its layout follows this
  examined  : Nat                       -- shelf-list positions examined while a victim or fold source
  listCards : List Ppa                  -- every card of its shelf list on flash, the first at SHELF_LIST
  closedSeq : Nat                       -- the next Ledger number when it became full
  deriving DecidableEq, Repr

/-- A map state that a completed Inventory pass wrote (R47). -/
structure MapSnap where
  redo    : Nat
  dir     : Ppa                         -- its first directory page
  shelves : List (Nat × ShelfEntry)
  segs    : List Segment
  index   : List (Nat × IndexEntry)
  blocks  : List (Nat × BlockEntry)
  lists   : List (Nat × List (Nat × Nat × Nat))
  idxPages : List (Nat × Ppa)           -- Index snapshot pages: number, card 0
  tblPages : List (Nat × Ppa)           -- block-table pages
  dirPages : List Ppa
  deriving DecidableEq, Repr

/-- A spine record (Table 2.11). `torn`: its CRC fails. -/
structure SpineRec where
  spineSeq  : Nat
  redoSeq   : Nat
  redoCard  : Ppa
  walkStart : Ppa
  directory : Ppa
  accFloor  : Nat
  timeMs    : Nat
  kind      : Nat
  torn      : Bool
  deriving DecidableEq, Repr

/-- The Ledger (R43 to R46, R48, R55, R66, R171). -/
structure Ledger where
  nextSeq    : Nat
  region     : List LedgerRec           -- records in the Ledger region, not yet programmed
  placed     : List Nat                 -- first numbers of the cards placed for programming
  progSeq    : Nat                      -- the programmed sequence (R96); next number not covered
  durable    : Nat                      -- the published durable sequence (R46)
  onFlash    : List LedgerRec           -- records programmed, oldest first
  extentSeq  : Nat                      -- number of the EXTENT_START of the current extent
  extentPpa  : Ppa                      -- card 0 of the current extent
  nextExtent : Ppa                      -- card 0 of the next extent, kept erased (R66)
  stalled    : List LedgerRec           -- appends stalled on a full region, without numbers (R45)
  extents    : List (Nat × Ppa)         -- extents on flash: number of the EXTENT_START, PPA of card 0
  spineSeqAt : Nat                      -- Ledger number at the last spine record (8 GiB mark of R49)
  deriving DecidableEq, Repr

/-- A record of what an EXTENT_START or a spine record publishes when it counts (R48). -/
structure Publication where
  extentStart : Nat                     -- sequence number of the EXTENT_START that names it
  snap        : MapSnap
  deriving DecidableEq, Repr

/-- Inventory passes and spine records (R47 to R53). -/
structure Inventory where
  running     : Option MapSnap          -- the pass in progress: its captured state
  completed   : Option MapSnap          -- the newest completed pass
  publishing  : List Publication        -- published, not counting yet
  published   : MapSnap                 -- the newest pass whose publication counts
  ckptDue     : Bool                    -- the checkpoint interval has elapsed since the last spine record
  passDue     : Bool                    -- it has elapsed since the start of the previous pass
  spine0      : List SpineRec           -- spine sector 0 (sector 128), in order
  spine1      : List SpineRec           -- spine sector 1 (sector 129)
  activeSpine : Nat
  erasingOther : Bool                   -- the erase of the other sector has been asked for (R52)
  otherErased : Bool                    -- the other sector is erased and ready
  writing     : Option SpineRec         -- programmed, being read back
  refFloor    : Nat                     -- A_s of R34
  nextSpine   : Nat
  spineSnap   : MapSnap                 -- the pass the newest spine record read back names (R50)
  counted     : List Publication := []  -- the passes whose EXTENT_START counts, since the newest spine record (R54)
  superseded  : List (Ppa × Nat)        -- system cards superseded, each with the next Ledger number then (R50)
  spineMs     : Nat                     -- operating time of the last spine record (R49)
  passMs      : Nat                     -- operating time of the start of the previous pass (R48)
  interval    : Nat                     -- the checkpoint interval in force, in s (R49)
  deriving DecidableEq, Repr

/-- Card metadata (Table 3.1) with what the shelfmark and the tag bind: the card LBA (or the PPA of
a system card) and the key generation it was encrypted under. -/
structure CardMeta where
  accession : Nat
  nsid      : Nat
  lba       : Nat
  age       : Nat
  stream    : Nat
  plain     : Bool
  pad       : Bool
  fox       : Bool
  keyGen    : Nat
  deriving DecidableEq, Repr

/-- A card as stored: eight 512-byte sectors, each the number its bytes spell, and its metadata. -/
structure Stored where
  data : List Nat
  md   : CardMeta
  deriving DecidableEq, Repr

/-- A card in transit (R58, R64). -/
structure TransitCard where
  ppa      : Ppa
  nsid     : Nat
  shelf    : Nat
  card     : Nat
  owner    : Option Nat                 -- command slot
  group    : Nat                        -- the write whose buffers it lies in
  card4k   : Stored
  isAcked  : Bool
  pageDone : Bool                       -- the program of its own page has ended
  parLeft  : Nat                        -- P and Q programs of its die stripe still to end
  foxFlag  : Bool                       -- the granule's fox flag (Table 6.6)
  move     : Option (Ppa)               -- fold or weeding copy: its PPA before
  run      : Bool                       -- copied as part of a run
  deriving DecidableEq, Repr

/-- An open row (R61, R64, R65). A filled place: position in the row, and the PPA of its card. -/
structure OpenRow where
  id       : Nat
  entry    : Nat                        -- block-table entry
  page     : Nat                        -- first of its four pages
  stream   : Nat
  filled   : List Nat                   -- positions that hold a card, PAD cards included
  sealed   : Bool                       -- no card can be placed any more
  queued   : List Nat                   -- program units handed to the tiles
  ended    : List Nat                   -- program units that have ended
  buffer   : Option (Nat × Nat)         -- its pool 3 buffer with the P and Q accumulators
  engine   : Nat                        -- 0 host, 1 fold, 2 weeding, 3 rotation, 4 lane rebuild, 5 system
  deriving DecidableEq, Repr

/-- A sequential detector (R80). -/
structure Detector where
  nsid  : Nat
  next  : Nat
  bytes : Nat
  stamp : Nat
  deriving DecidableEq, Repr

/-- A card lock (R73). -/
structure CardLock where
  shelf   : Nat
  card    : Nat
  holder  : Nat
  granted : Bool                        -- the holder obtains the old contents, or has them
  waiters : List Nat
  deriving DecidableEq, Repr

/-- The write path, the carrel and the fold (R58 to R82). -/
structure WritePath where
  flash     : List (Nat × Stored)       -- programmed card positions, by PPA
  parity    : List (Nat × List Nat × Nat)  -- programmed P and Q positions: sectors, and metadata as a number
  fetched   : List (Nat × Ppa × Bool)   -- cards that a move engine has read into its buffer: engine, PPA, and the fox
                                        -- bit of the buffer's words (Table 6.6)
  transit   : List TransitCard
  rows      : List OpenRow
  nextRow   : Nat
  nextGroup : Nat
  locks     : List CardLock
  detectors : List Detector
  folding   : Bool
  idleFold  : Bool                      -- the fold in progress is an idle fold
  foldSource : Option Nat
  idleSeen  : Bool                      -- no host command fetched for the idle fold delay
  overflow  : Bool
  handed    : List Ppa                  -- cards handed to the escalation engine by a move engine
  again     : List Ppa                  -- cards of failed pages that wait for another place (R149)
  foldCards : Nat                       -- FOLD_CARDS (Table 16.8)
  hostCards : Nat
  bypassCards : Nat
  weedCards : Nat
  carrelPages : Nat
  stacksPages : Nat
  deriving DecidableEq, Repr

/-! ## Chapter 4: block life -/

/-- A block stripe being erased (R97, R88). -/
structure EraseJob where
  entry   : Nat
  intent  : Nat                         -- sequence number of its ERASE_INTENT
  issued  : Bool
  restart : Bool                        -- a re-erase of R88
  failed  : List Nat                    -- positions whose member erase has failed
  atUs    : Nat := 0                    -- when its member erases joined their queues
  phase   : Nat := 0                    -- of a re-erase: 1, 4 erases run; 2, 5 they have ended and the check runs;
                                        -- 3 the second erase is to be issued
  again   : List Nat := []              -- of a re-erase: the members that failed the first check
  deriving DecidableEq, Repr

/-- A weeding or rotation victim in progress in a plane group (R92, R98). -/
structure Victim where
  planeGroup : Nat
  entry      : Nat
  rotation   : Bool
  forced     : Bool
  dest       : Option Nat               -- a rotation's destination block stripe (R98)
  deriving DecidableEq, Repr

/-- A lane rebuild (R102): the retired dies of the lane and the step in progress. -/
structure LaneRebuild where
  lane  : Nat
  step  : Nat
  dies  : List (Nat × Nat)
  deriving DecidableEq, Repr

/-- The block table, wear and retirement (R83 to R106). -/
structure Blocks where
  table     : List (Nat × BlockEntry)   -- unlisted: free, never erased
  lists     : List (Nat × List (Nat × Nat × Nat))  -- shelf lists: position, SHELF, card
  listsDue  : List Nat                  -- full block stripes whose shelf list waits to be placed
  erases    : List EraseJob
  victims   : List Victim
  rotating  : List Nat                  -- plane groups in rotation
  rebuilds  : List LaneRebuild
  softReads : List ((Nat × Nat × Nat × Nat) × Nat)  -- (channel, target, plane, block): soft reads
  badBlocks : List (Nat × Nat × Nat × Nat)          -- retired die blocks
  credits   : List (Nat × Nat × Nat × Nat)  -- per plane group: stacks programs in the present window of 64, those
                                        -- of weeding, and of them those of rotation (R93, R98)
  headroom  : Nat                       -- H of R103
  belowBoot : Bool := false             -- H has been below the floor since step 5 of this start (R105, R106)
  headFull0 : Nat                       -- H_full0 of R383
  weedVictims : Nat
  rotVictims : Nat
  forcedVictims : Nat
  eraseFails : Nat
  deriving DecidableEq, Repr

/-! ## Chapter 5: channels and dies -/


/-- A Roster entry (Table 5.5). -/
structure Roster where
  generation : Nat
  chState    : Nat
  dieProfile : Nat
  ldpc       : Nat
  present    : BitVec 32
  retired    : BitVec 32
  reasons    : List (Nat × Nat)         -- target, RETIRE_REASON
  timingSet  : Nat
  dataRate   : Nat
  zqInterval : Nat
  drive      : Nat
  odt        : Nat
  training   : List CeTrain
  trainTime  : Nat
  trainCount : Nat
  trainTemp  : Int
  deriving DecidableEq, Repr

/-- A channel tile and its Librarian copy (R115 to R119, R126, R134). -/
structure Channel where
  inForce   : Roster
  copy      : Roster                    -- the entry in DRAM
  sync      : Bool                      -- a sync write waits for its operation boundary
  training  : Bool
  held      : Bool                      -- every die of the channel held (R134)
  retrainNext : Bool                    -- the next boot runs full training (R130)
  tout      : Nat
  susp      : Nat
  capped    : Nat
  iface     : List (Nat × Nat)          -- targets switched to NV-LPDDR4 since the channel's reset, with their
                                        -- timing set; one not listed is in SDR timing mode 0 (R111)
  zqTemp    : List (Nat × Int)          -- CE#: its mean temperature at the last ZQ calibration
  zqDue     : List Nat := []            -- CE#s whose calibration waits for the end of an operation (R126)
  zqDone    : Nat                       -- ZQ Calibration Shorts issued
  toutAt    : List (Nat × Nat)          -- recent timeouts: (target, µs)
  deriving DecidableEq, Repr

/-- Why a codeword is read. -/
inductive ReadFor where
  | nobody                              -- the command that asked is gone
  | host (slot lba age : Nat)           -- Read or Compare: card LBA, AGE the map held at lookup
  | merge (slot shelf card lba age : Nat)  -- old contents of a card that a write covers in part (R73)
  | map (page : Bool) (index : Nat)     -- a shelf page, or the segment of a shelf (R38, R55)
  | move (engine : Nat)                 -- fold, weeding, rotation, lane rebuild
  | share (src tag off lba age : Nat)   -- a card of a member's share (R305): transaction, card of the chunk
  | ladder (soft : Nat)                 -- a read of step 3 (0), or a 2-bit or 3-bit soft read
  | comp (ppa : Ppa)                    -- a companion of the codeword at `ppa`, for its step 6
  deriving DecidableEq, Repr

/-- A queued read (R120, R121). -/
structure ReadReq where
  ppa : Ppa
  cls : Nat
  why : ReadFor
  deriving DecidableEq, Repr

/-- A queued program: the row, its unit (data index, or 64 P, 65 Q), and its pages. -/
structure ProgReq where
  row    : Nat
  unit   : Nat
  page   : Option Nat                   -- page offset in the row; none: the word line of the stacks
  system : Bool
  coast  : Bool
  atUs   : Nat := 0                     -- when it joined its queue
  deriving DecidableEq, Repr

/-- The array operation of a die. -/
inductive ArrayOp where
  | reads (rs : List ReadReq)
  | program (p : ProgReq)
  | erase (entry : Nat)
  deriving DecidableEq, Repr

/-- A die and its queues (R120 to R132). -/
structure Die where
  channel   : Nat
  target    : Nat
  held      : Bool
  resetting : Bool
  timedOut  : Option ArrayOp            -- the operation that timed out, kept until the reset ends
  readQ     : List ReadReq
  progQ     : List ProgReq
  eraseQ    : List Nat
  op        : Option ArrayOp
  suspends  : Nat
  suspended : Option ArrayOp            -- the program or erase that is suspended
  suspending : Bool                     -- a suspend has been issued and the die is not ready yet
  suspReads : List ReadReq              -- reads issued in the suspension
  run0      : Nat                       -- consecutive class 0 reads since the last class 1 read
  eraseNext : Bool                      -- an erase has waited 50 ms (R122)
  limitNext : Option ArrayOp            -- the program or erase that has waited the issue limit (R122)
  cycles    : List Nat := []            -- command cycles of what was last issued to the die (R109)
  cap       : Nat := 0                  -- suspend cap of the operation in progress (R123, R136)
  joined    : List ArrayOp := []        -- the other planes of a multi-plane program or erase in progress (R109)
  lastPage  : Option Ppa := none        -- the page last read, while a cache read can go on from it (R109)
  caching   : Bool := false             -- a cache read runs
  tempRead  : Bool := false             -- its temperature has been read since boot
  temp      : Int
  offsets   : List Int                  -- read offsets last set in the die
  toutAt    : List Nat                  -- µs of recent timeouts
  deriving DecidableEq, Repr

/-- Channels and dies. -/
structure Flash where
  chans : List (Nat × Channel)
  dies  : List Die
  deriving DecidableEq, Repr

/-! ## Chapter 6: integrity -/

/-- A codeword in the ladder (R142, R150). -/
structure LadderWord where
  ppa    : Ppa
  step   : Nat
  cls    : Nat
  why    : List ReadFor                 -- every request that waits for its result
  decoded : Bool                        -- a decode attempt produced output
  places : Nat                          -- entries of the escalation queue that it holds
  tries  : Nat := 0                     -- reads of step 3 that have ended
  result : Option DecodeOutcome := none -- how the last read of the present step ended
  known  : List Ppa := []               -- companions read for step 6
  deriving DecidableEq, Repr

/-- An escalation context: a die stripe (R150). -/
structure EscContext where
  lane   : Nat
  block  : Nat
  plane  : Nat
  page   : Nat
  words  : List LadderWord
  budget : Bool                         -- the escalation budget has elapsed
  deriving DecidableEq, Repr

/-- A drift-table entry (Table 6.5). -/
structure Drift where
  freshSw  : Nat
  agedSw   : Nat
  freshOfs : List Int
  agedOfs  : List Int
  deriving DecidableEq, Repr

/-- The context word of a check-value unit (Table 6.8). -/
structure CheckContext where
  running : Word64
  count   : Nat
  cls     : Nat
  deriving DecidableEq, Repr

/-- The escalation engine and the fox-mark carriers (R150 to R163). -/
structure Escalation where
  contexts : List EscContext
  failed   : List LadderWord            -- held by the decoders that gave up on them
  queue    : List LadderWord            -- errors that wait for a context
  stalled  : List LadderWord            -- codewords kept by stalled decoders (R151)
  drift    : List ((Nat × Nat × Nat × Nat) × Drift)  -- (channel, target, plane, group)
  cipherIn : List (Ppa × ReadFor)       -- decrypt units in the cores
  checkCtx : List (Nat × CheckContext)  -- context words of idle check-value units
  qMax     : Nat
  stallUs  : Nat
  steps    : List Nat                   -- KS_ESC_STEP[1] to [7]
  foxSet   : Nat
  foxBite  : Nat
  tagFail  : Nat
  sticky   : Word32                     -- KS_STICKY_INTEG
  deriving DecidableEq, Repr

/-! ## Chapters 9 and 10: PCIe and NVMe -/

/-- The configuration registers that the host can change (Tables 9.3 to 9.5). -/
structure PcieCfg where
  memory       : Bool              -- memory space is enabled
  master       : Bool              -- bus mastering is enabled
  bars         : List Nat          -- the bases of BAR0/1, BAR2/3 and BAR4/5
  mps          : Nat               -- Max Payload Size in force: 128 × 2^mps bytes
  mrrs         : Nat               -- Max Read Request Size in force: 128 × 2^mrrs bytes
  relaxed      : Bool              -- Relaxed Ordering is enabled
  timeoutRange : Nat               -- completion timeout range; 0 is 50 ms
  ltr          : Bool              -- Latency Tolerance Reporting is enabled
  l1ss         : Nat               -- L1 PM Substates enables
  severity     : Nat               -- AER Uncorrectable Error Severity, a 1 is fatal
  ecrcGen      : Bool              -- ECRC generation is enabled
  deriving DecidableEq, Repr

/-- The PCIe link and function (R198 to R206). -/
structure Link where
  up        : Bool
  seenL0    : Bool
  rate      : Nat                       -- 0.1 GT/s
  width     : Nat
  flit      : Bool
  d3hot     : Bool
  aspm      : Nat                       -- 0 L0; 1 L1; 2 L1.1; 3 L1.2
  ecrcCheck : Bool
  corrErrs  : Nat                       -- Flit Logging and AER correctable counts
  uncorr    : List Nat                  -- AER errors logged, by row of Table 9.5
  dropped   : Nat                       -- unexpected completions dropped
  urSent    : Nat                       -- Unsupported Request completions sent
  fatal     : Bool                      -- link left for recovery by the host
  cfg       : PcieCfg                   -- configuration registers
  errMsgs   : List (Nat × Nat)          -- errors reported: row of Table 9.5; 0 correctable, 1 non-fatal, 2 fatal
  flitErrs  : Nat                       -- bad flits, of the Flit Logging capability
  ltrSent   : Nat                       -- Latency Tolerance messages sent
  deriving DecidableEq, Repr

/-- A submission queue (R214, R215). -/
structure Sq where
  qid   : Nat
  size  : Nat
  cqid  : Nat
  prio  : Nat
  tail  : Nat
  head  : Nat
  fence : Option Nat                    -- slot of the outstanding Ordered Write of this queue (R71)
  deriving DecidableEq, Repr

/-- A completion queue (R218, R219). -/
structure Cq where
  qid    : Nat
  size   : Nat
  vector : Nat
  ien    : Bool                         -- interrupts enabled at its creation
  head   : Nat
  tail   : Nat
  deriving DecidableEq, Repr

/-- A completion (R217, R218, R243). -/
structure Completion where
  sq   : Nat
  cq   : Nat
  cid  : Nat
  slot : Nat
  sct  : Nat
  sc   : Nat
  dnr  : Bool
  dw0  : Nat
  deriving DecidableEq, Repr

/-- Where a fetched command stands. -/
inductive CmdPhase where
  | fetched            -- not started
  | waiting            -- an Ordered Write that waits under R71
  | stalled            -- waits for its transit buffers (R58)
  | buffered           -- holds its buffers; its data moves
  | running            -- started
  | placed             -- cards placed; waits for its completion point
  | held               -- held, not failed (R21)
  deriving DecidableEq, Repr

/-- A failing card of a command (R162): its first LBA and status. -/
structure CardFail where
  lba : Nat
  sct : Nat
  sc  : Nat
  fox : Bool := false                   -- a fox status, which KS_FOX_BITE counts (R163)
  deriving DecidableEq, Repr

/-- A fetched command in its slot (R215, R217). -/
structure Cmd where
  slot    : Nat
  qid     : Nat
  cq      : Nat                         -- its completion queue
  e       : SqEntry
  phase   : CmdPhase
  armed   : Bool                        -- Coast was armed when it started (Table 3.4)
  bypass  : Bool                        -- it extends a detector that holds 1 MiB (R81)
  past    : Bool                        -- carrel bypass was on when it was fetched (R82)
  ceiling : Nat                         -- the carrel ceiling when it was fetched (R82)
  inDrain : Bool                        -- it was fetched while step 3 of R70 ran (R69)
  want    : List (Nat × Nat)            -- cards still to be read: (shelf, card)
  got     : List (Nat × List Nat)       -- cards delivered: card LBA, sectors
  fails   : List CardFail
  data    : List Nat                    -- write or compare data, one value per 512-byte sector
  group   : Nat                         -- its transit buffers' group once cards are placed
  needSeq : Nat                         -- its last Ledger record; 0: none
  needPpa : List Ppa                    -- its cards still to be programmed (write-through)
  deriving DecidableEq, Repr

/-- A layout of bytes: fields (byte offset, bytes, value), little-endian; other bytes are zero. -/
structure Blob where
  len    : Nat
  fields : List (Nat × Nat × Nat)
  deriving DecidableEq, Repr

/-- An Error Information log entry (R243). -/
structure ErrEntry where
  count : Nat
  sq    : Nat
  cid   : Nat
  sct   : Nat
  sc    : Nat
  lba   : Nat
  nsid  : Nat
  deriving DecidableEq, Repr

/-- A namespace (R24, R227 to R231, R297, R300). -/
structure Namespace where
  nsid     : Nat
  shelves  : Nat                        -- c ÷ 65,536 rounded up
  nsze     : Nat                        -- LBAs
  lbaf     : Nat
  pi       : Nat
  extents  : List (Nat × Nat)           -- (first shelf, shelves), at most 16
  attached : Bool
  spanned  : Option Nat                 -- its echelon
  extended : Bool := false              -- FLBAS bit 4: metadata as part of an extended LBA (R227)
  deriving DecidableEq, Repr

/-- Interrupt coalescing state of a vector (R219). -/
structure VectorSt where
  vector  : Nat
  waiting : Nat                         -- entries posted since the last interrupt
  noCoal  : Bool
  deriving DecidableEq, Repr

/-- An asynchronous event to report (R215, R224): type and information. -/
structure AsyncEvent where
  typ  : Nat
  info : Nat
  deriving DecidableEq, Repr

/-- The features of Table 10.4. -/
structure Features where
  arbBurst  : Nat
  arbHigh   : Nat
  arbMed    : Nat
  arbLow    : Nat
  power     : Nat
  overTemp  : List Nat                  -- composite, then sensors 1 to 8, in K
  underTemp : List Nat
  coalThr   : Nat
  coalTime  : Nat
  atomicity : Nat
  async     : Word32
  stampMs   : Nat                       -- host timestamp last set
  stampAt   : Nat                       -- operating time of that set
  stampOrigin : Nat
  deriving DecidableEq, Repr

/-- The NVMe controller (R213 to R243) and its SMART counts (R382). -/
structure Nvme where
  cc       : Word32
  rdy      : Bool
  shst     : Nat
  cfs      : Bool
  aqa      : Word32
  asq      : Word64
  acq      : Word64
  intms    : Word32
  sqs      : List Sq
  cqs      : List Cq
  cmds     : List Cmd
  waiting  : List Completion            -- completions not posted yet, in order (R218)
  posted   : List Completion            -- entries written to host memory, oldest first
  msix     : List Nat                   -- vectors whose message was sent, oldest first
  vectors  : List VectorSt
  msixTab  : List (Nat × Nat)           -- dwords of the MSI-X table; unlisted: 0, vector control 1
  pba      : List Nat                   -- vectors whose message is pending behind their mask bit
  aers     : List Nat                   -- slots of outstanding Asynchronous Event Requests
  events   : List AsyncEvent            -- events not reported yet
  dataOut  : List (Nat × Blob)          -- structures sent to the host: CID and bytes
  readOut  : List (Nat × Nat × List Nat × Bool)  -- card data sent: CID, card LBA, sectors, EP
  infoOut  : List (Nat × Nat × Nat × Nat × Nat)  -- protection information sent: CID, LBA, guard, tags
  feat     : Features
  nss      : List Namespace
  exclusive : List (Nat × Nat)          -- Format, Sanitize, Namespace Management: slot, NSID (R222)
  errLog   : List ErrEntry              -- newest first, at most 256
  errCount : Nat
  c1       : List Nat                   -- log page C1h, by (offset − 0x40) ÷ 8
  unitsRd  : Nat                        -- host data read, in 512-byte units
  unitsWr  : Nat
  cmdsRd   : Nat
  cmdsWr   : Nat
  busyMin  : Nat
  mediaErr : Nat
  unsafeSd : Nat
  warnMin  : Nat
  critMin  : Nat
  saved    : SavedLogs
  rrLast   : List Nat                   -- submission queue last served, by class
  rrCount  : List Nat                   -- commands fetched from it in this burst
  wrrUsed  : List Nat                   -- commands fetched in this round: high, medium, low class
  warned   : Nat                        -- Critical Warning as last reported by an event
  anaCount : Nat                        -- changes of an ANA state
  deriving DecidableEq, Repr

/-! ## Chapter 11: keys -/

/-- A key record of the Strongroom (Table 11.4). The key's bits stay behind `keyId`. -/
structure KeyRec where
  slot      : Nat
  gen       : Nat
  accFrom   : Nat
  keyId     : Nat
  sweepDone : Bool
  zeroised  : Bool
  wrapped   : BitVec 448 := 0           -- WRAPPED (R253)
  deriving DecidableEq, Repr

/-- A locking range of a namespace (Table 11.9). -/
structure LockRange where
  nsid        : Nat
  r           : Nat
  start       : Nat
  len         : Nat
  readLocked  : Bool
  writeLocked : Bool
  onPower     : Bool                    -- LockOnReset PowerCycle
  onHot       : Bool                    -- LockOnReset Hot Reset
  deriving DecidableEq, Repr

/-- A renewal of a key slot in progress (R260), or a release of a slot's cards that needs no new key
(R265, R321). -/
structure Renewal where
  slot    : Nat
  cmd     : Option Nat                  -- command slot that waits for it
  session : Option Nat                  -- Opal session that waits for it
  reply   : Option (Nat × Nat × Nat)    -- member, tag and rank that the DONE of a FORMAT goes to
  before  : List Nat                    -- commands outstanding when it was asked for
  rekey   : Bool                        -- the slot gets a new key
  whole   : Bool                        -- its sweep covers the whole namespace
  loaded  : Bool                        -- the new key is in force, or none is needed and the sweep runs
  lastSeq : Nat                         -- last record of its sweep; 0: the sweep is still to be appended
  deriving DecidableEq, Repr

/-- Cipher cores, key slots, Strongroom, DRBG and Opal (R244 to R267). -/
structure Keys where
  loaded    : List (Nat × Nat)          -- key slot registers: slot, key id
  testKey   : Bool
  fenced    : List Nat                  -- fenced cores
  unitsRun  : List (Nat × Nat)          -- units in the cores: core, key id latched
  ring      : List (List KeyRec)        -- key sectors 0 to 5, in append order
  headSect  : Nat
  nextKey   : Nat                       -- key ids drawn so far
  drbgOk    : Bool
  drbgUsed  : Nat                       -- requests since the last reseed
  ranges    : List LockRange
  sessions  : List (Nat × Nat)          -- Opal sessions: number, authority
  renewals  : List Renewal
  sanitize  : Nat                       -- 0 none; 1 crypto erase; 2 block erase running
  sanStatus : Nat                       -- of the last Sanitize: 0 none, 1 completed, 2 in progress, 3 failed
  sanDw     : Nat                       -- dword 10 of the last Sanitize
  sanForced : List Nat                  -- block stripes a block erase still has to erase
  sticky    : Word32                    -- KS_STICKY_CIPHER
  opalOut   : List (Nat × Nat × List Nat)  -- Opal responses waiting: session, status, values
  deriving DecidableEq, Repr

/-! ## Chapters 12 and 13: Peloton and echelons -/

/-- A Peloton port (R269 to R275, Table 12.11). -/
structure Port where
  state     : Nat                       -- Table 12.3
  partner   : Bool                      -- partner's PLp_ALIVE
  aliveTx   : Bool
  level1    : Bool
  width     : Nat
  member    : Nat
  rate      : Nat
  fence     : Nat
  masked    : Bool
  attempt   : Nat                       -- width being tried: 0 x4, 1 x2 low, 2 x2 high
  retryWait : Bool                      -- waits for the training retry interval
  crcErr    : Nat
  replays   : Nat
  txSeq     : Nat                       -- FSEQ of the next new flit
  replay    : List (Nat × Nat)          -- replay buffer: (FSEQ, packet), at most 512
  rxSeq     : Nat                       -- last FSEQ received good and in order
  nakOut    : Bool                      -- the next flit sent carries NAK
  inRow     : Nat                       -- replays of the present flit in a row
  credits   : List Nat                  -- flit credits per rank 0 to 4
  serial    : Nat := 0                  -- the partner's serial, from its HELLO
  deriving DecidableEq, Repr

/-- What PULSE has shown of a member (R275, R277, R320). -/
structure Seen where
  serial   : Nat
  digest   : Nat
  member   : Nat
  assigned : Bool
  captain  : Bool
  mode     : Nat
  pulseNum : Nat
  atUs     : Nat
  partners : List Nat                   -- members its linked ports reach
  compat   : List Bool
  deriving DecidableEq, Repr

/-- The payload of a packet (Table 12.7). -/
inductive PktBody where
  | empty
  | pulse  (b : PulseBody)
  | desc   (d : EcDesc)
  | view   (v : ViewRec)
  | card   (sectors : List Nat)
  | intent (d : EcDesc) (kind dataMask position : Nat)
  | bundle (len : Nat)
  deriving DecidableEq, Repr

/-- What a request of this member serves. -/
inductive ReqOwner where
  | none
  | host (slot : Nat)                   -- a host command, at its entry member
  | run  (id : Nat)                     -- a sequence this member runs
  | pass (src tag : Nat)                -- a part of a full-stripe write passed on
  | relay
  deriving DecidableEq, Repr

/-- An outstanding request of this member (R284, R292). `hdr` is sent again as it stands. -/
structure OutReq where
  dst      : Nat
  index    : Nat
  gen      : Nat
  hdr      : PacketHdr
  body     : PktBody
  op       : Nat                        -- echelon operation, for a CMD
  owner    : ReqOwner
  desc     : EcDesc
  payload  : List (List Nat)            -- cards to send on GO
  data     : List (Nat × List Nat × Bool)  -- cards received: card offset, sectors, fox
  refused  : Nat
  retryUs  : Nat                        -- when it is sent again, after a refusal
  sentUs   : Nat                        -- when it was last sent
  deriving DecidableEq, Repr

/-- A transaction this member serves as target (R285, R286). -/
structure InTxn where
  src     : Nat
  tag     : Nat
  rank    : Nat
  locked  : Bool
  nsid    : Nat
  ordered : Bool
  op      : Nat
  cards   : Nat
  desc    : EcDesc
  data    : List (Nat × List Nat)       -- cards received, by card offset
  started : Bool
  needSeq : Nat                         -- last Ledger record of its cards
  armed   : Bool                        -- Coast was armed when it started
  want    : List Nat := []              -- cards of the chunk that are still to be read
  got     : List (Nat × List Nat × Bool) := []  -- cards read: card of the chunk, sectors, fox mark
  fails   : List (Nat × Nat) := []      -- statuses of cards whose read failed
  deriving DecidableEq, Repr

/-- A packet waiting at an egress, or sent and not acknowledged yet (R270, R280, R289). -/
structure OutPkt where
  id    : Nat
  port  : Nat                           -- egress; 4: local
  req   : Nat                           -- requester: 0 local, 1 + p ingress p
  hdr   : PacketHdr
  body  : PktBody
  total : Nat                           -- its flits
  sent  : Nat                           -- its progress count
  whole : Bool                          -- every flit of it has arrived
  first : Bool := false                 -- queued again at the head of its rank (R280)
  deriving DecidableEq, Repr

/-- An egress arbiter (R289). -/
structure Egress where
  inProg  : List (Nat × Nat)            -- rank, requester of the packet in progress
  lastReq : List (Nat × Nat)            -- rank, requester last served
  ctrlGap : Nat                         -- slots since the last control flit
  deriving DecidableEq, Repr

/-- The Peloton router and its fabric agent (R268 to R295). -/
structure Peloton where
  ports    : List Port
  assigned : Bool
  self     : Nat
  captain  : Bool
  capMember : Nat
  pulseNum : Nat
  seen     : List Seen
  routes   : List (Nat × BitVec 16)
  failover : Nat
  backoffs : Nat
  dups     : Nat
  stale    : Nat
  unroute  : Nat
  out      : List OutReq
  gens     : List ((Nat × Nat) × Nat)   -- (destination, index): generation last used
  txSeq    : List (Nat × Nat)           -- SEQ last sent per destination
  rxWin    : List (Nat × List Nat)      -- SEQ values accepted, per source
  txns     : List InTxn
  locks    : List (Nat × Nat × Nat)     -- keeper's lock table: echelon, stripe, holder
  send     : List OutPkt
  nextPkt  : Nat
  egress   : List Egress
  recSent  : List Nat                   -- ports whose recovering member has had its stream (R430)
  deriving DecidableEq, Repr

/-- An intent or a lagging entry (Table 13.6), with its local slot. -/
structure IntentRec where
  slotNo   : Nat
  echelon  : Nat
  stripe   : Nat
  kind     : Nat
  position : Nat
  dataMask : Nat
  steward  : Nat
  cardFirst : Nat
  cardsM1  : Nat
  viewNum  : Nat
  timeMs   : Nat
  settling : Bool
  deriving DecidableEq, Repr

/-- A sequence over a stripe that this member runs (R308, R309, R313). -/
structure Steward where
  id        : Nat
  kind      : Nat                       -- 0 small write; 1 full-stripe write; 2 reconstruction for a read;
                                        -- 3 READ_CHECKED; 4 settlement; 5 lag repair; 6 rebuild
  echelon   : Nat
  stripe    : Nat
  dataIdx   : Nat
  cardFirst : Nat
  cards     : Nat
  fua       : Bool
  dealloc   : Bool
  phase     : Nat                       -- 1 lock; 2 intents and reads; 3 writes; 5, 6 other reads; 7 repair or parity
  new       : List (List Nat)           -- cards; of a full stripe, the chunks in data-index order
  old       : List (Nat × List Nat × Bool)     -- cards read from the data holder: offset, sectors, fox
  others    : List (Nat × Nat × List Nat)      -- reconstruction: position, card offset, sectors
  failed    : List Nat                  -- positions that failed, timed out or answered an error
  entries   : List (Nat × Nat × Nat)    -- who gets the DONE: member, tag, rank
  slot      : Option Nat                -- the host command of a reconstruction
  own       : Bool := false             -- this keeper holds the stripe lock for it
  lent      : Bool := false             -- the sequence that asked holds the stripe lock
  again     : List Nat := []            -- positions whose transfer a rebuild has requested twice (R329)
  deriving DecidableEq, Repr

/-- This member's state of one echelon (R297 to R318, Table 13.10). -/
structure EchelonSt where
  echelon  : Nat
  view     : ViewRec
  storing  : Bool                       -- a view is being stored under R301
  waiting  : Bool                       -- from start until the view in force is sent
  unreach  : Bool                       -- 10 s after start with no view holder reachable
  dropped  : Bool
  ana      : Nat
  pointer  : Nat                        -- rebuild pointer, as used
  stored   : Nat                        -- rebuild pointer in Codex
  reports  : List (Nat × Nat)           -- TIMEOUT_REPORTs: member, ms
  refDigest : Nat
  deriving DecidableEq, Repr

/-- Echelons (R296 to R323). -/
structure Echelons where
  ech      : List EchelonSt
  intents  : List IntentRec
  stewards : List Steward
  nextRun  : Nat
  deriving DecidableEq, Repr

/-! ## Chapter 14: DRAM -/

/-- A row of a bank (Table 14.7, Table 15.16). -/
structure RowAddr where
  u    : Nat
  rank : Nat
  bg   : Nat
  bank : Nat
  row  : Nat
  deriving DecidableEq, Repr

/-- A row-error log entry (Table 14.7). -/
structure RowErr where
  addr    : RowAddr
  single  : Nat
  double  : Nat
  uncorr  : Nat
  lastMs  : Nat
  retired : Bool
  deriving DecidableEq, Repr

/-- An entry of the spare map (Table 15.16). -/
structure SpareEntry where
  addr  : RowAddr
  whole : Bool                          -- a bank
  spare : Nat
  deriving DecidableEq, Repr

/-- The DRAM subsystem (R324 to R346). -/
structure Dram where
  rate     : Nat
  brake    : List Bool                  -- per real-time port
  hold     : List Bool                  -- per real-time port, source held
  doubled  : List Nat                   -- ranks at the doubled refresh rate
  selfRef  : Bool
  postponed : List Nat                  -- refreshes postponed per subchannel
  refreshes : List Nat                  -- same-bank refresh groups issued per subchannel
  writeDly : List (Nat × Int)           -- write delay moves per rank
  corr     : List Nat
  uncorr   : List Nat
  late     : List Nat
  brakes   : Nat
  log      : List RowErr
  map      : List SpareEntry            -- the spare map in force
  sticky   : Word32                     -- KS_STICKY_DRAM
  scrubbed : Nat                        -- words scrubbed in this pass
  rankTemp : List (Nat × Int)
  discards : Nat                        -- work-pool buffers discarded under Table 14.4
  centreTemp : Int                      -- DRAM PHY temperature at the last centring (R334)
  reqs     : List (Nat × DramReq)       -- requests that wait, with their subchannel, in order of arrival (R335)
  openRows : List RowAddr               -- rows open in their banks (R336)
  rtRun    : List Nat                   -- per subchannel: real-time bursts served while a request of urgency 2
                                        -- waited (R336)
  repeats  : List Ppa                   -- cards whose work-pool copy was lost once and is read again (Table 14.4)
  deriving DecidableEq, Repr

/-! ## Chapter 15: Folio -/

/-- A Folio bank in Codex. -/
inductive Bank where
  | empty
  | image (f : FolioImage)
  deriving DecidableEq, Repr

/-- A runtime setting record (Table 15.15). -/
structure RtRec where
  key     : Nat
  schema  : Nat
  binding : Nat
  seq     : Nat
  value   : Nat
  deriving DecidableEq, Repr

/-- A training record (Table 15.17); the payload of KIND 1 as its fields. -/
structure TrainRec where
  kind : Nat
  unit : Nat
  seq  : Nat
  rate : Nat
  mtch : Nat
  timeMs : Nat
  centres    : List CeTrain := []
  trainTime  : Nat := 0
  trainCount : Nat := 0
  trainTemp  : Int := 0
  deriving DecidableEq, Repr

/-- The Folio, runtime settings, training area and staged bank (R347 to R369). -/
structure Folio where
  bankA    : Bank
  bankB    : Bank
  inForce  : Option Bool                -- some false: A; some true: B
  live     : List (Nat × Nat)           -- live values in force that differ from the bank's
  pend     : List (Nat × Nat)           -- pending values
  rt0      : List RtRec                 -- runtime-setting sector 0
  rt1      : List RtRec
  rtActive : Nat
  rtSeq    : Nat
  staged   : List Nat                   -- 4 KiB units of the stage image written
  commit   : Bool                       -- a bank has been committed since boot: training records go to both
  committing : Option (Nat × FolioImage) -- command slot of a commit whose erases run, and the image to program
  trainA   : List TrainRec              -- training area of bank A
  trainB   : List TrainRec
  trSeq    : Nat
  trHalf   : Nat
  rtWait   : List (Nat × Nat × Nat)     -- settings that wait for an erased sector: key, binding, value (R408)
  profOf   : List Nat                   -- per parameter of Table 3.7: the set its value comes from (R82)
  deriving DecidableEq, Repr

/-! ## Chapter 16: Librarian, sensors, Daybook -/

/-- A change of a view that waits for the Librarian (R373). -/
inductive ViewJob where
  | view  (h : PacketHdr) (v : ViewRec)   -- a VIEW received: stored and answered later
  | eject (e m : Nat)
  | place (e p st : Nat)                  -- position `p` of echelon `e` takes state `st`
  deriving DecidableEq, Repr

/-- The Librarian (R371 to R374). -/
structure Librarian where
  state     : Nat                       -- 0 running; 1 restarting; 2 halted
  restartsMs : List Nat                 -- operating times of recent restarts
  restarts  : Nat                       -- since boot
  heldAdmin : List Nat                  -- command slots held
  started   : Bool                      -- released from reset in this start
  heldMi    : List Instr                -- NVMe-MI requests held
  cause     : Nat                       -- cause of the restart that runs
  hitless   : Bool                      -- this restart activates a hitless set
  waitingRet : List (Nat × Nat × Nat)   -- retirements that wait: channel, target (32: the channel), reason
  waitingSync : List Nat                -- channels whose Roster sync waits
  viewJobs  : List ViewJob
  cutCmds   : List Nat                  -- command slots of commits that this restart cut (R373, R421)
  deriving DecidableEq, Repr

/-- Sensors (R377 to R379, Table 16.4). -/
structure Sensors where
  sampled   : Bool                      -- a sample has been taken since boot
  ts        : List Int
  tsMax     : List Int
  rails     : List Nat
  v12       : Nat
  throttle  : Bool
  cap10     : Bool
  minuteHot : Int                       -- highest controller reading of this minute
  minuteFl  : Int                       -- highest flash reading of this minute
  ctrlBins  : List Nat
  flashBins : List Nat
  extremes  : List (Option Extreme)     -- CTRL_MAX, CTRL_MIN, FLASH_MAX, FLASH_MIN
  deriving DecidableEq, Repr

/-- A Daybook record (Table 16.11). PAYLOAD: fields (bytes, value), packed in order. -/
structure DayRec where
  seq     : Nat
  timeMs  : Nat
  fault   : Bool
  mode    : Nat
  cycles  : Nat
  event   : Nat
  payload : List (Nat × Nat)
  deriving DecidableEq, Repr

/-- The Daybook (R387 to R394). -/
structure Daybook where
  next     : Nat                        -- the next DB_SEQ
  known    : Bool                       -- the first DB_SEQ of this start is known (R389)
  buffer   : List DayRec                -- entered, not flushed
  flushing : List DayRec                -- in cards being programmed
  ring     : List DayRec                -- on flash, oldest first
  tail     : List DayRec                -- the newest 64, for BAR2
  flushDue : Bool
  flushed  : Nat                        -- newest DB_SEQ programmed
  stallUs  : Nat
  stalled  : List DayRec                -- records of sources that wait for a place
  sticky   : Word32                     -- KS_STICKY_MGMT
  stripe   : Nat                        -- open Daybook block stripe
  prevStripe : Nat
  stripes  : List (Nat × Nat)           -- Daybook block stripes, oldest first: entry, newest DB_SEQ in it
  coastWrote : Bool                     -- Coast wrote into the Daybook reserve
  cards      : Nat                      -- Daybook cards placed in the open Daybook block stripe
  deriving DecidableEq, Repr

/-! ## Chapters 17 and 18: Codex die and accession sets -/

/-- A request that waits at the Codex interface (R406). -/
structure CodexReq where
  rank  : Nat                           -- 1 to 7
  erase : Bool
  addr  : Nat
  bytes : List Byte
  who   : Nat
  spell : Option CodexSpell
  deriving DecidableEq, Repr

/-- A Colophon segment (Table 17.5). -/
structure ColSegment where
  locked : Bool
  crcOk  : Bool
  bytes  : List (Nat × Byte)            -- unlisted: 0xFF
  deriving DecidableEq, Repr

/-- The Codex die, its interface and the pass-through (R395 to R415). -/
structure Codex where
  mem       : List (Nat × Byte)         -- array bytes; unlisted reads 0xFF (erased)
  pageProgs : List (Nat × Nat)          -- programs of a 256-byte page since its sector's erase
  flags     : List Nat                  -- sectors whose flag cell is set
  erasing   : Option Nat
  erSusp    : Bool
  lastErase : Nat
  progging  : Option CodexReq           -- program in progress
  arrayErase : Bool
  cont      : Option Nat                -- continuous read: next address
  eFail     : Bool
  pFail     : Bool
  seqErr    : Bool
  locked    : Bool
  statusNext : Bool                     -- the next read returns the status byte
  flagNext  : Option Nat                -- the next read returns this sector's flag cell
  colophon  : List ColSegment
  swap0     : Option Nat                -- generation of a valid swap cell
  swap1     : Option Nat
  requests  : List CodexReq
  eFails    : Nat                       -- KS_CX_EFAIL
  cxPage    : Nat
  cxAddr    : Nat
  cycles    : List (Nat × Nat)          -- cycles of the pass-through sequence so far: offset, byte
  powerCycles : Nat
  pcRecords : Nat                       -- records in the active power-cycle sector
  recRecords : List DayRec              -- Recovery records
  serial    : Nat
  deriving DecidableEq, Repr

/-- One endpaper block with its set area. -/
structure SetBlock where
  written   : Bool                      -- holds a bundle's bytes
  facts     : BundleFacts
  arm       : Bool
  reject    : Bool
  confirmed : Bool
  flagged   : Bool                      -- a sector of it has its flag cell set
  deriving DecidableEq, Repr

/-- Chain relay (R425 to R430): the stream this member sends, and the one it receives. -/
structure Relay where
  state    : Nat                        -- 0 idle; 2 sending; 3 waiting for own activation
  origin   : Nat
  next     : Nat
  skipped  : Nat
  bytes    : Nat                        -- acknowledged by the next member
  sent     : Nat                        -- stream offset of the next packet to send
  action   : Nat
  rounds   : Nat                        -- rounds to the next member begun again
  waitRound : Bool                      -- the wait of 1 s before the next round
  single   : Bool                       -- one packet outstanding: the stream to a recovering member
  facts    : BundleFacts
  rx       : Bool                       -- receiving
  rxOrigin : Nat
  rxAction : Nat
  got      : Nat                        -- bytes received
  rxFacts  : BundleFacts
  deriving DecidableEq, Repr

/-- Who writes the inactive block: a Firmware Commit, or the commit of a relay received. -/
inductive Writer where
  | command (slot : Nat)
  | relay
  deriving DecidableEq, Repr

/-- Accession sets, staging and chain relay (R416 to R431). -/
structure Update where
  block0   : SetBlock
  block1   : SetBlock
  staged   : List Nat                   -- 4 KiB units of the stage image written
  stFacts  : BundleFacts
  writing  : Option Writer              -- the commit that erases and writes the inactive block (STAGING)
  held     : Bool                       -- held pause (R424)
  lastCheck : Nat
  commitCmd : Option Nat                -- command slot of a CA 3 that activates
  relay    : Relay
  recBytes : Nat                        -- Recovery download: bytes programmed in order
  loaded   : Bool                       -- component tables of the running set are in the engines
  identLo  : Nat                        -- KS_ID_SET_LO and HI as one version
  identOn  : Bool                       -- the identity registers have been loaded in step 1
  miOut    : List (Nat × Nat × Blob)    -- NVMe-MI answers: command, status, body
  miFreq   : Nat                        -- SMBus frequency in use
  deriving DecidableEq, Repr

/-- The state of the block, and the queue of commands that wait. -/
structure State where
  clock   : Clock
  pins    : Pins
  mode    : ModeSt
  coast   : Coast
  pools   : Pools
  cat     : Catalogue
  led     : Ledger
  inv     : Inventory
  wr      : WritePath
  blk     : Blocks
  fl      : Flash
  esc     : Escalation
  link    : Link
  nv      : Nvme
  key     : Keys
  pel     : Peloton
  ech     : Echelons
  dram    : Dram
  fol     : Folio
  lib     : Librarian
  sens    : Sensors
  day     : Daybook
  cdx     : Codex
  upd     : Update
  free    : Nat                         -- the model's own: index of the next free value
  pending : List Instr
  deriving DecidableEq, Repr

/-! ## The state after reset -/

/-- No facts of a bundle. -/
def noFacts : BundleFacts :=
  { headerOk := false, vendorKeyOk := false, signatureOk := false, hashesOk := false,
    ldpcSame := false, tablesOk := false, hitless := [], schema := 0, schemaMin := 0, version := 0,
    fwRev := 0 }

/-- The bundle of the endpaper block the part is made with: version 1, schema 4, complete (the manual
gives no set; DESIGN CHOICE, log entry 6). -/
def firstFacts : BundleFacts :=
  { headerOk := true, vendorKeyOk := true, signatureOk := true, hashesOk := true, ldpcSame := true,
    tablesOk := true, hitless := [false, false, false, false, false, false, false], schema := 4,
    schemaMin := 3, version := 1, fwRev := 0 }

/-- An empty endpaper block. -/
def emptyBlock : SetBlock :=
  { written := false, facts := noFacts, arm := false, reject := false, confirmed := false,
    flagged := false }

/-- An erased Colophon segment, locked or not. -/
def emptySegment (locked : Bool) : ColSegment := { locked := locked, crcOk := locked, bytes := [] }

/-- Segment 0, identity: FORMAT, the stepping and the Revision ID of Table 17.5; the SERIAL of the part, which the manual
does not give, is 0 (DESIGN CHOICE, log entry 169). -/
def identitySegment : ColSegment :=
  { locked := true, crcOk := true
    bytes := (0, 0x01) :: (0x10, 0xB0) :: (0x11, 0x10) :: (List.range 8).map fun i => (8 + i, 0x00) }

/-- The key sectors 0 to 5, all erased (R252). -/
def emptyRing : List (List KeyRec) := [[], [], [], [], [], []]

/-- A pool of `n` buffers of `kib` KiB, every one on its free list in rising address order; `base` is
the address of its first buffer (R13, Table 1.6). -/
def freshPool (base kib n : Nat) : Pool :=
  { sizeKiB := kib, total := n, head := if n = 0 then 0 else base, next := [], free := n,
    minFree := n, fall := 0, stall := 0, stallUs := 0 }

/-- The address of the first buffer of pool `n`: the pools lie apart (DESIGN CHOICE, log entry 8). -/
def poolBase (n : Nat) : Nat := (n + 1) * 4294967296

/-- An empty map state. -/
def emptySnap : MapSnap :=
  { redo := 0, dir := 0, shelves := [], segs := [], index := [], blocks := [], lists := [],
    idxPages := [], tblPages := [], dirPages := [] }

/-- The features at their defaults (Table 10.4). -/
def freshFeatures : Features :=
  { arbBurst := 7, arbHigh := 0, arbMed := 0, arbLow := 0, power := 0,
    overTemp := [358, 65535, 65535, 65535, 65535, 65535, 65535, 65535, 65535],
    underTemp := [0, 0, 0, 0, 0, 0, 0, 0, 0], coalThr := 0, coalTime := 0, atomicity := 0,
    async := 0, stampMs := 0, stampAt := 0, stampOrigin := 0 }

/-- Counts of a new part. -/
def noSaved : SavedLogs :=
  { c1 := List.replicate 20 0, smart := List.replicate 10 0, wear := List.replicate 9 0, ctrlBins := [],
    flashBins := [], extremes := [none, none, none, none], holdup := List.replicate 9 0, history := [],
    tout := [] }

/-- A port that is Down (Table 12.3). -/
def downPort : Port :=
  { state := 0, partner := false, aliveTx := false, level1 := false, width := 0, member := 0,
    rate := 0, fence := 0, masked := false, attempt := 0, retryWait := false, crcErr := 0,
    replays := 0, txSeq := 0, replay := [], rxSeq := 0, nakOut := false, inRow := 0,
    credits := [64, 64, 64, 64, 64] }

/-- The configuration registers after a reset: the severities of Table 9.5, the rest as the PCI Express base specification
resets it (PRESUMED, log entry 170). -/
def resetCfg : PcieCfg :=
  { memory := false, master := false, bars := [0, 0, 0], mps := 0, mrrs := 2, relaxed := true, timeoutRange := 0,
    ltr := false, l1ss := 0, severity := 0x062000, ecrcGen := false }

/-- The part with no power, as made: every volatile register at its reset value (R9), an erased Codex array
with both Folio banks erased (the chapter on the Folio: a new part has both banks erased), Colophon
segments 0 to 3 and 5 to 7 locked, and one confirmed accession set in endpaper block 0. -/
def State.reset : State where
  clock := { us := 0, opMs := 0, rebased := false }
  pins :=
    { aonOk := false,
      railOk := [false, false, false, false, false, false, false, false, false, false],
      perstN := false, pwrfailN := true, testMode := false, holdupSupLow := false,
      holdupDevLow := false, thermAlertLow := false, coreVset := 500, jtagBoundary := false }
  mode :=
    { mode := .unpowered, preservePend := false, degraded := false, warm := false, idle := false,
      reason := 0, timeMs := 0, startLog := [0, 0, 0, 0, 0, 0], startLink := 0, folioBankB := false,
      schema3 := false, keyFail := false, oldSet := false, fullFlash := false, fullDram := false,
      libRetry := false, firstStart := false, warmTotal := 0, pagesLoaded := 0, ready := false,
      manufacturing := false,
      gates := { tiles := [], hardDec := [], softDec := [], cores := [], ports := [],
                 engines := false, pcie := false, dram := false } }
  coast :=
    { phase := .none, cause := .pwrfail, modeAt := .unpowered, perstFacts := none, armed := false,
      draining := false, drainLeft := [], recordDue := false, stripes := [], reserve := [],
      failCount := 0, lossBefore := 0, test := .none, holdupLast := 0, lastArmed := false, sticky := 0,
      history := [], abandoned := 0, passes := 0, fails := 0, disarmedMin := 0, tdMin := 0, tdMax := 0,
      coastsDone := 0, coastsNot := 0, lastCoastUs := 0, entryUs := 0 }
  pools :=
    { pool := [freshPool (poolBase 0) 4 8192, freshPool (poolBase 1) 16 1024,
               freshPool (poolBase 2) 64 512, freshPool (poolBase 3) 256 127,
               freshPool (poolBase 4) 4 0, freshPool (poolBase 5) 16 0, freshPool (poolBase 6) 64 0,
               freshPool (poolBase 7) 256 0],
      waitT := [], waitW := [], held := [], holdTab := [] }
  cat :=
    { shelves := [], segs := [], index := [], pend := [], misses := [], hand := 0, slotCap := 0,
      nextAcc := 1, stalledUpd := [], arrived := [] }
  led :=
    { nextSeq := 128, region := [], placed := [], progSeq := 0, durable := 0,
      onFlash := [], extentSeq := 0, extentPpa := 0, nextExtent := 0,
      stalled := [], extents := [], spineSeqAt := 0 }
  inv :=
    { running := none, completed := none, publishing := [], published := emptySnap, ckptDue := false,
      passDue := false, spine0 := [], spine1 := [], activeSpine := 0, erasingOther := false,
      otherErased := true, writing := none, refFloor := 0, nextSpine := 1, spineSnap := emptySnap,
      superseded := [], spineMs := 0, passMs := 0, interval := 30 }
  wr :=
    { flash := [], parity := [], fetched := [], transit := [], rows := [], nextRow := 0, nextGroup := 0, locks := [], detectors := [],
      folding := false, idleFold := false, foldSource := none, idleSeen := false, overflow := false,
      handed := [], again := [], foldCards := 0, hostCards := 0, bypassCards := 0, weedCards := 0,
      carrelPages := 0, stacksPages := 0 }
  blk :=
    { table := [], lists := [], listsDue := [], erases := [], victims := [], rotating := [], rebuilds := [],
      softReads := [], badBlocks := [], credits := [], headroom := 0, headFull0 := 0,
      weedVictims := 0, rotVictims := 0, forcedVictims := 0, eraseFails := 0 }
  fl := { chans := [], dies := [] }
  esc :=
    { contexts := [], failed := [], queue := [], stalled := [], drift := [], cipherIn := [], checkCtx := [],
      qMax := 0, stallUs := 0, steps := [0, 0, 0, 0, 0, 0, 0], foxSet := 0, foxBite := 0,
      tagFail := 0, sticky := 0 }
  link :=
    { up := false, seenL0 := false, rate := 0, width := 0, flit := false, d3hot := false, aspm := 0,
      ecrcCheck := false, corrErrs := 0, uncorr := [], dropped := 0, urSent := 0, fatal := false,
      cfg := resetCfg, errMsgs := [], flitErrs := 0, ltrSent := 0 }
  nv :=
    { cc := 0, rdy := false, shst := 0, cfs := false, aqa := 0, asq := 0, acq := 0, intms := 0,
      sqs := [], cqs := [], cmds := [], waiting := [], posted := [], msix := [], vectors := [], msixTab := [], pba := [],
      aers := [], events := [], dataOut := [], readOut := [], infoOut := [], feat := freshFeatures, nss := [],
      exclusive := [], errLog := [], errCount := 0, c1 := List.replicate 20 0, unitsRd := 0,
      unitsWr := 0, cmdsRd := 0, cmdsWr := 0, busyMin := 0, mediaErr := 0, unsafeSd := 0,
      warnMin := 0, critMin := 0, saved := noSaved, rrLast := [0, 0, 0, 0], rrCount := [0, 0, 0, 0],
      wrrUsed := [0, 0, 0],
      warned := 0, anaCount := 0 }
  key :=
    { loaded := [], testKey := false, fenced := [], unitsRun := [], ring := emptyRing, headSect := 0,
      nextKey := 0, drbgOk := false, drbgUsed := 0, ranges := [], sessions := [], renewals := [],
      sanitize := 0, sanStatus := 0, sanDw := 0, sanForced := [], sticky := 0,
      opalOut := [] }
  pel :=
    { ports := [downPort, downPort, downPort, downPort], assigned := false, self := 0,
      captain := false, capMember := 0, pulseNum := 0, seen := [], routes := [], failover := 0,
      backoffs := 0, dups := 0, stale := 0, unroute := 0, out := [], gens := [], txSeq := [],
      rxWin := [], txns := [], locks := [], send := [], nextPkt := 0, egress := [],
      recSent := [] }
  ech := { ech := [], intents := [], stewards := [], nextRun := 0 }
  dram :=
    { rate := 0, brake := [false, false], hold := [false, false], doubled := [], selfRef := false,
      postponed := List.replicate 8 0, refreshes := List.replicate 8 0, writeDly := [],
      corr := List.replicate 8 0, uncorr := List.replicate 8 0, late := List.replicate 5 0,
      brakes := 0, log := [], map := [], sticky := 0, scrubbed := 0, rankTemp := [], discards := 0,
      centreTemp := 0, reqs := [], openRows := [], rtRun := List.replicate 8 0, repeats := [] }
  fol :=
    { bankA := .empty, bankB := .empty, inForce := none, live := [], pend := [], rt0 := [], rt1 := [],
      rtActive := 0, rtSeq := 0, staged := [], commit := false, committing := none, trainA := [], trainB := [],
      trSeq := 0, trHalf := 0, rtWait := [], profOf := [1, 1, 1, 1, 1, 1, 1] }
  lib :=
    { state := 2, restartsMs := [], restarts := 0, heldAdmin := [], started := false, heldMi := [], cause := 0,
      hitless := false, waitingRet := [], waitingSync := [], viewJobs := [], cutCmds := [] }
  sens :=
    { sampled := false, ts := List.replicate 12 0, tsMax := List.replicate 12 0, rails := List.replicate 10 0, v12 := 0,
      throttle := false, cap10 := false, minuteHot := -440, minuteFl := -440,
      ctrlBins := [], flashBins := [], extremes := [none, none, none, none] }
  day :=
    { next := 1, known := false, buffer := [], flushing := [], ring := [], tail := [],
      flushDue := false, flushed := 0, stallUs := 0, stalled := [], sticky := 0, stripe := 0,
      prevStripe := 0, stripes := [], coastWrote := false, cards := 0 }
  cdx :=
    { mem := [], pageProgs := [], flags := [], erasing := none, erSusp := false, lastErase := 0,
      progging := none, arrayErase := false, cont := none, eFail := false, pFail := false,
      seqErr := false, locked := false, statusNext := false, flagNext := none,
      colophon := [identitySegment, emptySegment true, emptySegment true, emptySegment true,
                   emptySegment false, emptySegment true, emptySegment true, emptySegment true],
      swap0 := some 1, swap1 := none, requests := [], eFails := 0, cxPage := 0, cxAddr := 0,
      cycles := [], powerCycles := 0, pcRecords := 0, recRecords := [], serial := 0 }
  upd :=
    { block0 := { written := true, facts := firstFacts, arm := false, reject := false,
                  confirmed := true, flagged := false },
      block1 := emptyBlock, staged := [], stFacts := noFacts, writing := none, held := false,
      lastCheck := 0, commitCmd := none,
      relay := { state := 0, origin := 0, next := 0, skipped := 0, bytes := 0, sent := 0, action := 0,
                 rounds := 0, waitRound := false, single := false, facts := noFacts, rx := false,
                 rxOrigin := 0, rxAction := 0, got := 0, rxFacts := noFacts },
      recBytes := 0, loaded := false, identLo := 0, identOn := false, miOut := [], miFreq := 1 }
  free := 0
  pending := []

/-- Why a step stops with a fault: no command of this block does, so there is no constructor. -/
inductive Fault
  deriving DecidableEq, Repr

/-- Why a step is refused. -/
inductive Refusal where
  /-- Raised by an arm of `exec` whose instruction has no meaning yet. Safe. -/
  | notModelled (mnemonic : String)
  deriving DecidableEq, Repr

end Sys2Proof.Machine
end

