-- ==== Sys2Proof/Machine/Ops.lean ====
section
/-! DEFINITION. The named operations every meaning is written with: keyed lists in one canonical form,
saturating counts, the fields of the Folio, modes, Daybook records and NVMe completions. -/

namespace Sys2Proof.Machine

/-- The outcome of a command. -/
abbrev Outcome := Host.Outcome State Fault Refusal

/-! ## Keyed lists -/

/-- The value listed under `k`. -/
def mapGet {α : Type} (k : Nat) : List (Nat × α) → Option α
  | [] => none
  | (a, v) :: l => if a = k then some v else mapGet k l

/-- `l` with `v` under `k`, keys rising. -/
def mapSet {α : Type} (k : Nat) (v : α) : List (Nat × α) → List (Nat × α)
  | [] => [(k, v)]
  | (a, w) :: l =>
    if k < a then (k, v) :: (a, w) :: l
    else if a = k then (k, v) :: l
    else (a, w) :: mapSet k v l

/-- `l` with nothing under `k`. -/
def mapDel {α : Type} (k : Nat) : List (Nat × α) → List (Nat × α)
  | [] => []
  | (a, w) :: l => if a = k then mapDel k l else (a, w) :: mapDel k l

/-- `l` with `v` under `k`, or nothing there when `v` is the default `d` of unlisted keys. -/
def mapPut {α : Type} [DecidableEq α] (d : α) (k : Nat) (v : α) (l : List (Nat × α)) :
    List (Nat × α) :=
  if v = d then mapDel k l else mapSet k v l

/-- The value under `k`, `d` when unlisted. -/
def mapAt {α : Type} (d : α) (k : Nat) (l : List (Nat × α)) : α := (mapGet k l).getD d

/-- `l` with `f` applied to every element that `p` picks. -/
def modWhere {α : Type} (p : α → Bool) (f : α → α) (l : List α) : List α :=
  l.map fun x => if p x then f x else x

/-- `l` with `f` applied to element `n`. -/
def modAt {α : Type} (n : Nat) (f : α → α) : List α → List α
  | [] => []
  | x :: l => match n with
    | 0 => f x :: l
    | m + 1 => x :: modAt m f l

/-- `l` without its first element that `p` picks. -/
def dropFirst {α : Type} (p : α → Bool) : List α → List α
  | [] => []
  | x :: l => if p x then l else x :: dropFirst p l

/-- Insertion of `x` before the first element that `before x` precedes. -/
def insertBy {α : Type} (before : α → α → Bool) (x : α) : List α → List α
  | [] => [x]
  | y :: l => if before x y then x :: y :: l else y :: insertBy before x l

/-- The list sorted by `before`, equal elements in their order. -/
def sortBy {α : Type} (before : α → α → Bool) : List α → List α
  | [] => []
  | x :: l => insertBy (fun a b => ! before b a) x (sortBy before l)

/-- The least number that `p` accepts among `n`, `n + 1`, … (`fuel` of them). -/
def firstNat (p : Nat → Bool) : Nat → Nat → Option Nat
  | 0, _ => none
  | fuel + 1, n => if p n then some n else firstNat p fuel (n + 1)

/-- Element `n`, 0 past the end. -/
def natAt (l : List Nat) (n : Nat) : Nat := l.getD n 0

/-! ## Counters -/

/-- The largest 32-bit count. -/
def max32 : Nat := 4294967295

/-- The largest 64-bit count. -/
def max64 : Nat := 18446744073709551615

/-- A 32-bit count that saturates. -/
def sat32 (n : Nat) : Nat := min n max32

/-- A 64-bit count that saturates. -/
def sat64 (n : Nat) : Nat := min n max64

/-- An index that rises by 1, counters of 32 bits. -/
def bumpAt (n : Nat) (l : List Nat) : List Nat := modAt n (fun c => sat32 (c + 1)) l

/-- ⌈a ÷ b⌉. -/
def ceilDiv (a b : Nat) : Nat := (a + b - 1) / b

/-! ## The fields of the Folio -/

/-- A slot field of Tables 15.4 to 15.10: offset, bytes, kind (0 boot-only, 1 live, 2 boot-only in
echelon scope), the bits it holds, its range and its default. -/
structure FieldRow where
  off  : Nat
  len  : Nat
  kind : Nat
  bits : Nat
  lo   : Nat
  hi   : Nat
  dflt : Nat
  deriving DecidableEq, Repr

/-- A live field in a slot of 4 bytes. -/
def liveRow (off bits lo hi dflt : Nat) : FieldRow :=
  { off := off, len := 4, kind := 1, bits := bits, lo := lo, hi := hi, dflt := dflt }

/-- A boot-only field. -/
def bootRow (off len bits lo hi dflt : Nat) : FieldRow :=
  { off := off, len := len, kind := 0, bits := bits, lo := lo, hi := hi, dflt := dflt }

/-- A boot-only field in echelon scope. -/
def scopeRow (off bits lo hi dflt : Nat) : FieldRow :=
  { off := off, len := 4, kind := 2, bits := bits, lo := lo, hi := hi, dflt := dflt }

/-- The live parameters (Table 15.6), with the defaults and ranges of the tables it names (R107, R164, R184). -/
def liveRows : List FieldRow :=
  [liveRow 0x600 9 10 300 30, liveRow 0x604 7 5 80 20, liveRow 0x608 10 8 512 64,
   liveRow 0x60C 11 8 1024 128, liveRow 0x610 5 1 16 4, liveRow 0x614 7 50 100 95,
   liveRow 0x618 14 1 10080 60, liveRow 0x61C 7 0 64 16, liveRow 0x620 14 50 10000 500,
   liveRow 0x624 14 10 10000 100, liveRow 0x628 4 0 10 2, liveRow 0x62C 6 1 32 8,
   liveRow 0x630 8 4 255 16, liveRow 0x634 7 5 100 20, liveRow 0x640 13 20 5000 100,
   liveRow 0x644 4 0 15 4, liveRow 0x648 6 0 63 16, liveRow 0x64C 9 2 500 10,
   liveRow 0x650 14 100 10000 1000, liveRow 0x654 6 5 60 20, liveRow 0x658 4 1 15 3,
   liveRow 0x65C 12 1 3600 60] ++
  [liveRow 0x680 9 5 500 20, liveRow 0x684 7 1 64 4, liveRow 0x688 14 10 10080 1440,
   liveRow 0x68C 1 0 1 0, liveRow 0x690 8 0 255 0, liveRow 0x6C0 1 0 1 1,
   liveRow 0x6C4 7 90 114 102, liveRow 0x6C8 10 1 720 24, liveRow 0x6CC 10 1 1000 20,
   liveRow 0x6D0 14 1 10000 200, liveRow 0x6D4 6 1 60 5, liveRow 0x700 7 85 105 100,
   liveRow 0x704 6 10 55 25, liveRow 0x740 8 0 255 255, liveRow 0x780 10 1 600 10,
   liveRow 0x784 9 5 160 20, liveRow 0x788 9 5 320 160, liveRow 0x7C0 8 1 168 24,
   liveRow 0x7C4 6 5 40 10, liveRow 0x7C8 16 1 65535 16, liveRow 0x7CC 8 1 255 1,
   liveRow 0x7D0 13 8 4096 64]

/-- Parameter set `i` of Table 15.7 with its defaults of Table 3.7. -/
def profileRows (i bypass start stop ceil idle delay cap : Nat) : List FieldRow :=
  [liveRow (0xA40 + 0x40 * i) 1 0 1 bypass, liveRow (0xA44 + 0x40 * i) 7 20 95 start,
   liveRow (0xA48 + 0x40 * i) 7 10 90 stop, liveRow (0xA4C + 0x40 * i) 7 50 98 ceil,
   liveRow (0xA50 + 0x40 * i) 14 10 10000 idle, liveRow (0xA54 + 0x40 * i) 10 0 1000 delay,
   liveRow (0xA58 + 0x40 * i) 6 10 55 cap]

/-- The namespace default slots of entry `m` (Table 15.10). -/
def nsDefaultRows (m : Nat) : List FieldRow :=
  [bootRow (0x3000 + 16 * m) 8 64 0 max64 0, bootRow (0x3008 + 16 * m) 4 32 0 max32 0]

/-- Every slot field with an identifier (R352 to R359). -/
def fieldRows : List FieldRow :=
  [bootRow 0x100 4 32 0 max32 0, bootRow 0x104 4 2 0 1 0, bootRow 0x108 4 32 0 max32 0,
   bootRow 0x400 4 1 0 1 0, bootRow 0x404 4 7 0x08 0x77 0x1D, bootRow 0x408 4 2 0 2 1,
   bootRow 0x500 8 64 0 512000000000000 0, bootRow 0x508 4 6 14 62 0, bootRow 0x50C 4 11 1 1024 0,
   bootRow 0x510 4 7 16 96 64, bootRow 0x514 4 16 0 65535 8192, bootRow 0x518 4 16 0 65535 1024,
   bootRow 0x51C 4 16 0 65535 512, bootRow 0x520 4 16 0 65535 127, bootRow 0x524 4 2 0 3 3] ++
  liveRows ++ [liveRow 0xA00 2 0 3 1] ++
  profileRows 0 0 50 30 90 20 0 55 ++ profileRows 1 1 70 40 95 100 10 55 ++
  profileRows 2 0 85 60 95 1000 20 55 ++ profileRows 3 1 70 50 95 5000 50 25 ++
  [scopeRow 0xC00 32 1 max32 0, scopeRow 0xC04 1 0 1 0, scopeRow 0xC08 10 5 1000 40,
   scopeRow 0xC0C 4 1 15 3, bootRow 0xC40 4 4 0 15 0, bootRow 0xC44 4 4 0 15 0,
   bootRow 0xC48 4 8 0 255 0, bootRow 0x2000 4 17 0 131071 0, bootRow 0x2004 4 16 4800 8800 8800,
   bootRow 0x2008 4 4 0 8 4] ++
  nsDefaultRows 0 ++ nsDefaultRows 1 ++ nsDefaultRows 2 ++ nsDefaultRows 3 ++
  nsDefaultRows 4 ++ nsDefaultRows 5 ++ nsDefaultRows 6 ++ nsDefaultRows 7

/-- The field of identifier `id`: its slot offset divided by 4 (R352). -/
def fieldRow (id : Nat) : Option FieldRow := fieldRows.find? fun r => r.off = 4 * id

/-- The image in a bank. -/
def Bank.image? : Bank → Option FolioImage
  | .empty => none
  | .image f => some f

/-- The bank in force (R347). -/
def folioInForce (s : State) : Option FolioImage :=
  match s.fol.inForce with
  | none => none
  | some false => s.fol.bankA.image?
  | some true => s.fol.bankB.image?

/-- The fields that schema version 4 adds (Table 15.14). -/
def schema4Fields : List Nat := [0x7C4, 0x784, 0x780, 0x704, 0x700, 0x690, 0x604]

/-- The value an image gives the field of identifier `id`; a slot not listed holds its default, and so does a
field that the image's schema does not have (R363). -/
def imageField (f : FolioImage) (id : Nat) : Nat :=
  match (if f.schema = 3 && schema4Fields.contains (4 * id) then none else mapGet id f.slots) with
  | some v => v
  | none => match fieldRow id with
    | some r => r.dflt
    | none => 0

/-- The value the bank in force holds in the slot at `off`. -/
def bankField (s : State) (off : Nat) : Nat :=
  match folioInForce s with
  | some f => imageField f (off / 4)
  | none => match fieldRow (off / 4) with
    | some r => r.dflt
    | none => 0

/-- The value in force of the field whose slot lies at `off`. -/
def fld (s : State) (off : Nat) : Nat :=
  match mapGet (off / 4) s.fol.live with
  | some v => v
  | none => bankField s off

/-- Parameter `k` of Table 3.7 in force (0 bypass, 1 fold start, 2 fold stop, 3 ceiling, 4 idle fold
delay, 5 seal delay, 6 power cap), from the set R82 has it taken from. -/
def profileParam (s : State) (k : Nat) : Nat :=
  fld s (0xA40 + 0x40 * natAt s.fol.profOf k + 4 * k)

/-- The die profiles, Roster source and lane table of the bank in force. -/
def lanesInForce (s : State) : List LaneEntry :=
  match folioInForce s with
  | some f => f.lanes
  | none => []

/-- The lane-table entry of a die. -/
def laneOf (s : State) (channel target : Nat) : Option LaneEntry :=
  (lanesInForce s).find? fun e => e.channel = channel && e.target = target

/-- The Roster source entry of a channel. -/
def sourceOf (s : State) (channel : Nat) : Option RosterSource :=
  match folioInForce s with
  | some f => f.roster.find? fun r => r.channel = channel
  | none => none

/-- Die profile `i` of the bank in force. -/
def profileAt (s : State) (i : Nat) : Option DieProfile :=
  match folioInForce s with
  | some f => f.profiles[i]?
  | none => none

/-- The die profile of a channel's dies. -/
def profileOf (s : State) (channel : Nat) : Option DieProfile :=
  match sourceOf s channel with
  | some r => profileAt s r.dieProfile
  | none => none

/-! ## Modes -/

/-- The mode code of Table 8.1; with no power the register file cannot be read. -/
def modeCode : Mode → Nat
  | .unpowered => 0
  | .dormant => 0
  | .rising => 1
  | .warming => 2
  | .service => 3
  | .degraded => 4
  | .preserve => 5
  | .coast => 6
  | .recovery => 7

/-- Host commands are served (Table 8.1). -/
def serving (s : State) : Bool :=
  match s.mode.mode with
  | .warming | .service | .degraded | .preserve => true
  | _ => false

/-- The rails beyond the always-on domain serve the register file: every mode but Dormant. -/
def awake (s : State) : Bool :=
  match s.mode.mode with
  | .unpowered | .dormant => false
  | _ => true

/-- The memory windows answer: awake and not in D3hot (R206, R207). -/
def barOn (s : State) : Bool := awake s && ! s.link.d3hot

/-! ## The Daybook's record port -/

/-- Value `n` of a payload. -/
def payAt (payload : List (Nat × Nat)) (n : Nat) : Nat := (payload.getD n (0, 0)).2

/-- The Kind column of Table 16.12: 0 Fault, 1 Required, 2 Informational. -/
def recordKind (event : Nat) (payload : List (Nat × Nat)) : Nat :=
  match event with
  | 0x0702 => if payAt payload 0 ≤ 1 then 2 else 0
  | 0x0701 => if payAt payload 0 = 3 then 1 else 0
  | 0x0601 => if payAt payload 0 = 0 then 2 else if payAt payload 0 = 1 then 1 else 0
  | 0x0502 => if payAt payload 1 = 0 then 2 else if payAt payload 1 = 4 then 1 else 0
  | 0x0501 => if payAt payload 1 = 0 then 1 else 0
  | 0x0403 => 2
  | 0x0402 => 2
  | 0x0401 => 1
  | 0x0201 => 1
  | 0x0009 => 1
  | 0x0008 => 2
  | 0x0006 => if payAt payload 0 = 0 then 2 else 0
  | 0x0005 => 1
  | 0x0004 => if payAt payload 0 = 1 then 1 else if payAt payload 1 = 2 then 1 else 0
  | 0x0003 => 1
  | 0x0001 => 1
  | 0x0000 => 1
  | _ => 0

/-- Informational records of a class whose bit is clear are not written (R388); class 0 is. -/
def recordWanted (s : State) (event : Nat) (payload : List (Nat × Nat)) : Bool :=
  recordKind event payload != 2 || (event / 256) % 8 == 0
    || (fld s 0x740).testBit ((event / 256) % 8)

/-- The places of the record buffer in use (R390). -/
def bufferUse (s : State) : Nat := s.day.buffer.length + s.day.flushing.length

/-- The record as the port makes it, DB_SEQ 0 while the first number of the start is not known. -/
def makeRecord (s : State) (event : Nat) (payload : List (Nat × Nat)) : DayRec :=
  { seq := if s.day.known then s.day.next else 0, timeMs := s.clock.opMs,
    fault := recordKind event payload == 0, mode := modeCode s.mode.mode,
    cycles := s.cdx.powerCycles, event := event, payload := payload }

/-- The newest 64 records (R392). -/
def tailPush (r : DayRec) (l : List DayRec) : List DayRec :=
  if l.length < 64 then l ++ [r] else l.drop 1 ++ [r]

/-- A record takes a place of the buffer; a Fault or COAST_ARM record, or a full buffer, starts a
flush (R389, R390). -/
def placeRecord (r : DayRec) (s : State) : State :=
  { s with day := { s.day with
      next := if s.day.known then s.day.next + 1 else s.day.next
      buffer := s.day.buffer ++ [r]
      tail := tailPush r s.day.tail
      flushDue := s.day.flushDue || r.fault || r.event == 0x0004
        || s.day.buffer.length + 1 ≥ 4096 } }

/-- A record that finds no free place: its source stalls, and DB_STALL is set (R390). -/
def stallRecord (r : DayRec) (s : State) : State :=
  { s with day := { s.day with stalled := s.day.stalled ++ [r], sticky := s.day.sticky ||| 0x20 } }

/-- A source enters a record (R388 to R390). In Recovery the boot ROM writes it to Codex (R193); in
Dormant nothing of the record port is powered, and a running Coast enters none once its cards are built (R168). -/
def record (event : Nat) (payload : List (Nat × Nat)) (s : State) : State :=
  if ! awake s || (s.mode.mode = .coast && s.coast.phase != .none) then s
  else if ! recordWanted s event payload then s
  else if s.mode.mode = .recovery then
    { s with cdx := { s.cdx with recRecords := s.cdx.recRecords ++ [makeRecord s event payload] } }
  else if bufferUse s < 4096 && s.day.stalled.isEmpty then placeRecord (makeRecord s event payload) s
  else stallRecord (makeRecord s event payload) s

/-- Unit `i` of a kind is gated no longer. -/
def ungate (unit i : Nat) (g : Gates) : Gates :=
  let cut := fun (l : List Nat) => l.filter fun x => x != i
  match unit with
  | 0 => { g with tiles := cut g.tiles }
  | 1 => { g with hardDec := cut g.hardDec }
  | 2 => { g with softDec := cut g.softDec }
  | 3 => { g with cores := cut g.cores }
  | 4 => { g with ports := cut g.ports }
  | _ => g

/-- Unit `i` of a kind is in use: it is awake, and its idle time begins anew (Table 8.6). A request that finds its unit gated
waits for the wake alone, whose time is left out (R196). -/
def useUnit (unit i : Nat) (s : State) : State :=
  { s with mode := { s.mode with gates :=
      { ungate unit i s.mode.gates with lastUse := mapSet (256 * unit + i) s.clock.us s.mode.gates.lastUse } } }

/-- Idle Service ends; the engines and the crossbar run again, and DRAM leaves self-refresh (R197,
R339). -/
def leaveIdle (s : State) : State :=
  { s with
    mode := { s.mode with
      idle := false, gates := { s.mode.gates with engines := false, dram := false } }
    dram := { s.dram with selfRef := false }
    link := { s.link with ltrSent := if s.mode.idle && s.link.cfg.ltr then s.link.ltrSent + 1 else s.link.ltrSent } }

/-- The device takes mode `m`; a change is a MODE record and starts KS_MODE_TIME again (R187). -/
def setMode (m : Mode) (s : State) : State :=
  if s.mode.mode = m then s
  else
    let t := leaveIdle s
    let s1 : State := { t with mode := { t.mode with mode := m, timeMs := 0 } }
    record 0x0008 [(1, modeCode s.mode.mode), (1, modeCode m)] s1

/-! ## NVMe completions and events -/

/-- The sector-level constants of Table 10.12, as (type, code). -/
def scSuccess : Nat × Nat := (0, 0)
def scOpcode : Nat × Nat := (0, 0x01)
def scField : Nat × Nat := (0, 0x02)
def scTransfer : Nat × Nat := (0, 0x04)
def scInternal : Nat × Nat := (0, 0x06)
def scAborted : Nat × Nat := (0, 0x07)
def scNsFormat : Nat × Nat := (0, 0x0B)
def scSequence : Nat × Nat := (0, 0x0C)
def scProtected : Nat × Nat := (0, 0x20)
def scRange : Nat × Nat := (0, 0x80)
def scNotReady : Nat × Nat := (0, 0x82)
def scUnrecovered : Nat × Nat := (2, 0x81)
def scCompare : Nat × Nat := (2, 0x85)
def scDenied : Nat × Nat := (2, 0x86)
def scTagFail : Nat × Nat := (7, 0xC0)
def scParityLost : Nat × Nat := (7, 0xC1)
def scSteward : Nat × Nat := (7, 0xC2)

/-- The statuses that KS_FOX_BITE counts, met on a card (R163). -/
def foxStatus (st : Nat × Nat) : Bool := st = scUnrecovered || st = scTagFail

/-- The command in slot `n`. -/
def cmdAt (s : State) (n : Nat) : Option Cmd := s.nv.cmds.find? fun c => c.slot = n

/-- Commands that complete together are kept in the order of their slots, lowest first (R218). -/
def inSlotOrder (f : State → State) (s : State) : State :=
  let t := f s
  let n := s.nv.waiting.length
  { t with nv := { t.nv with
      waiting := t.nv.waiting.take n ++ sortBy (fun a b => decide (a.slot < b.slot)) (t.nv.waiting.drop n) } }

/-- The slots of the commands that `p` selects, lowest first: the order in which completions of one step are collected
(R218). -/
def slotsWhere (p : Cmd → Bool) (s : State) : List Nat :=
  sortBy (fun a b => decide (a < b)) ((s.nv.cmds.filter p).map fun c => c.slot)

/-- The command in slot `n`, changed by `f`. -/
def modCmd (n : Nat) (f : Cmd → Cmd) (s : State) : State :=
  { s with nv := { s.nv with cmds := modWhere (fun c => c.slot = n) f s.nv.cmds } }

/-- DNR of a status: as R243 states for the media and vendor statuses, clear for Namespace Not Ready
(R222, R260), and free where the manual states none. `lr`: a Read with Limited Retry. -/
def dnrOf (st : Nat × Nat) (lr : Bool) : Bool :=
  match st with
  | (2, 0x81) => ! lr
  | (7, 0xC0) => true
  | (7, 0xC1) => true
  | (7, 0xC2) => false
  | (0, 0x82) => false
  | (0, 0x00) => false
  | (sct, sc) => Config.freeDnr sct sc

/-- A status other than Successful Completion adds an Error Information entry (R243). -/
def addError (c : Cmd) (st : Nat × Nat) (lba : Nat) (s : State) : State :=
  if st = scSuccess then s
  else
    { s with nv := { s.nv with
        errCount := sat64 (s.nv.errCount + 1)
        errLog := ({ count := s.nv.errCount + 1, sq := c.qid, cid := c.e.cid, sct := st.1,
                     sc := st.2, lba := lba, nsid := c.e.nsid } :: s.nv.errLog).take 256
        mediaErr := if st = (2, 0x81) || st = (7, 0xC0) || st = (7, 0xC1) then
          sat64 (s.nv.mediaErr + 1) else s.nv.mediaErr } }

/-- The command's completion joins the waiting completions (R217, R218); `lba` is the LBA its Error
Information entry names. The command leaves the list of running commands; its slot stays taken until
the entry is written. -/
def finishAt (slot : Nat) (st : Nat × Nat) (lba : Nat) (dnr : Bool) (dw0 : Nat) (s : State) : State :=
  match cmdAt s slot with
  | none => s
  | some c =>
    let s1 := addError c st lba s
    { s1 with nv := { s1.nv with
        cmdsRd := if c.qid != 0 && (c.e.opcode = 0x02 || c.e.opcode = 0x05) then
          s1.nv.cmdsRd + 1 else s1.nv.cmdsRd
        cmdsWr := if c.qid != 0 && (c.e.opcode = 0x01 || c.e.opcode = 0x81 || c.e.opcode = 0x08) then
          s1.nv.cmdsWr + 1 else s1.nv.cmdsWr
        cmds := s1.nv.cmds.filter fun x => x.slot != slot
        exclusive := s1.nv.exclusive.filter fun x => x.1 != slot
        waiting := s1.nv.waiting ++
          [{ sq := c.qid, cq := c.cq, cid := c.e.cid, slot := slot, sct := st.1, sc := st.2, dnr := dnr,
             dw0 := dw0 }] } }

/-- The starting LBA of an I/O command: dwords 10 and 11. -/
def slbaOf (e : SqEntry) : Nat := e.dw10 % 4294967296 + 4294967296 * (e.dw11 % 4294967296)

/-- Opcodes whose entry holds a starting LBA (Tables 10.9, 10.10): Write, Read, Compare, Write
Zeroes, Ordered Write. -/
def hasLba (c : Cmd) : Bool :=
  c.qid != 0 && (c.e.opcode == 0x01 || c.e.opcode == 0x02 || c.e.opcode == 0x05 ||
    c.e.opcode == 0x08 || c.e.opcode == 0x81)

/-- The LBA field of the entry of a status that no card caused (R243). -/
def lbaField (c : Cmd) : Nat := if hasLba c then slbaOf c.e else 0

/-- A command completes with a status that no card caused. -/
def finish (slot : Nat) (st : Nat × Nat) (dw0 : Nat) (s : State) : State :=
  match cmdAt s slot with
  | none => s
  | some c => finishAt slot st (lbaField c) (dnrOf st false) dw0 s

/-- A command completes with Successful Completion and dword 0 `dw0`. -/
def finishOk (slot dw0 : Nat) (s : State) : State := finish slot scSuccess dw0 s

/-- A command completes with status `st`. -/
def finishErr (slot : Nat) (st : Nat × Nat) (s : State) : State := finish slot st 0 s

/-- Structure `b` goes to the host memory of the command in slot `n`. -/
def sendData (slot : Nat) (b : Blob) (s : State) : State :=
  match cmdAt s slot with
  | none => s
  | some c => { s with nv := { s.nv with dataOut := s.nv.dataOut ++ [(c.e.cid, b)] } }

/-- The log page that dword 0 of an asynchronous event names in [23:16], by the NVMe base specification:
01h for an error, 02h for a SMART event, and for a notice 04h, 03h or 0Ch. -/
def eventPage (typ info : Nat) : Nat :=
  match typ with
  | 0 => 0x01
  | 1 => 0x02
  | _ => if info = 0 then 0x04 else if info = 1 then 0x03 else 0x0C

/-- A notice (type 2) is raised only while Asynchronous Event Configuration enables it: bit 8 namespace
attributes, 9 firmware activation, 11 ANA change (R224). -/
def noticeOn (s : State) (typ info : Nat) : Bool :=
  typ != 2 || s.nv.feat.async.getLsbD (if info = 0 then 8 else if info = 1 then 9 else 11)

/-- An event to be reported; the oldest Asynchronous Event Request carries it when one waits. Dword 0:
type in [2:0], information in [15:8], log page in [23:16]. -/
def asyncEvent (typ info : Nat) (s : State) : State :=
  if ! noticeOn s typ info then s
  else match s.nv.aers with
  | [] => { s with nv := { s.nv with events := s.nv.events ++ [{ typ := typ, info := info }] } }
  | a :: rest =>
    finishOk a (typ + 256 * info + 65536 * eventPage typ info) { s with nv := { s.nv with aers := rest } }

/-- Counter `n` of log page C1h: (offset − 0x40) ÷ 8 of Table 10.7, saturating. -/
def countC1 (n : Nat) (s : State) : State :=
  { s with nv := { s.nv with c1 := modAt n (fun c => sat64 (c + 1)) s.nv.c1 } }

/-- A free value is drawn: the model's own count moves on. -/
def drawFree (s : State) : State := { s with free := s.free + 1 }

end Sys2Proof.Machine
end

