-- ==== Sys2Proof/Machine/Operands.lean ====
section
/-! DEFINITION. The operand forms: physical page addresses and their places in rows and block stripes, and
the fields of NVMe command words. -/

namespace Sys2Proof.Machine

/-! ## Physical page addresses (R25, Table 2.1) -/

def ppaChannel (p : Ppa) : Nat := (p.extractLsb' 34 6).toNat
def ppaTarget (p : Ppa) : Nat := (p.extractLsb' 29 5).toNat
def ppaPlane (p : Ppa) : Nat := (p.extractLsb' 26 3).toNat
def ppaBlock (p : Ppa) : Nat := (p.extractLsb' 13 13).toNat
def ppaPage (p : Ppa) : Nat := (p.extractLsb' 2 11).toNat
def ppaSlot (p : Ppa) : Nat := (p.extractLsb' 0 2).toNat

/-- The PPA of the fields of Table 2.1. -/
def mkPpa (channel target plane block page slot : Nat) : Ppa :=
  BitVec.ofNat 6 channel ++ BitVec.ofNat 5 target ++ BitVec.ofNat 3 plane ++ BitVec.ofNat 13 block ++
    BitVec.ofNat 11 page ++ BitVec.ofNat 2 slot

/-- Card i of a run lies at the PPA plus i, added as an integer (R27). -/
def runCard (p : Ppa) (i : Nat) : Ppa := p + BitVec.ofNat 40 i

/-- The AGE stamp: bits [13:8] of an accession number (R31). -/
def ageOf (accession : Nat) : Nat := (accession / 256) % 64

/-! ## Geometry of the build -/

/-- The die profile that gives the build's geometry: that of the first lane-table entry. -/
def geometry (s : State) : Option DieProfile :=
  match lanesInForce s with
  | [] => none
  | e :: _ => profileOf s e.channel

def planesOf (s : State) : Nat := match geometry s with | some g => g.planes | none => 1
def blocksOf (s : State) : Nat := match geometry s with | some g => g.blocks | none => 1

/-- Lanes of the build. -/
def laneCount (s : State) : Nat := (lanesInForce s).foldl (fun m e => max m (e.lane + 1)) 0

/-- Plane groups of the build: lane × planes + plane. -/
def groupCount (s : State) : Nat := laneCount s * planesOf s

/-- Block-table entry number (R84). -/
def entryNo (s : State) (lane plane block : Nat) : Nat :=
  (lane * planesOf s + plane) * blocksOf s + block

def entryBlock (s : State) (n : Nat) : Nat := n % blocksOf s
def entryGroup (s : State) (n : Nat) : Nat := n / blocksOf s
def entryPlane (s : State) (n : Nat) : Nat := entryGroup s n % planesOf s
def entryLane (s : State) (n : Nat) : Nat := entryGroup s n / planesOf s

/-- The lowest block indexes of a plane group are its carrel (R83). -/
def inCarrel (s : State) (n : Nat) : Bool := decide (entryBlock s n < fld s 0x50C)

/-- Pages of a block that form rows: pSLC pages in the carrel; the last (pages mod 4) of them form none (R114). -/
def pagesOf (s : State) (n : Nat) : Nat :=
  match geometry s with
  | none => 0
  | some g => (if inCarrel s n then g.pslcPages else g.pages) / 4 * 4

/-- A free block stripe that has never been erased. -/
def freeEntry (carrel : Bool) : BlockEntry :=
  { gateSeq := 0, closed := 0, listPpa := 0, excluded := 0, state := 0, carrel := carrel, stream := 0,
    width := 0, valid := 0, erases := 0, listRows := 0, forced := false, retireAtErase := [],
    rowsUsed := 0, exclOpen := 0, examined := 0, listCards := [], closedSeq := 0 }

/-- The dies of a lane in slot order. -/
def laneDies (s : State) (lane : Nat) : List LaneEntry :=
  sortBy (fun a b => decide (a.slot < b.slot)) ((lanesInForce s).filter fun e => e.lane = lane)

/-- The die is retired in the Librarian's copy of its Roster entry. -/
def dieRetired (s : State) (ch t : Nat) : Bool :=
  match mapGet ch s.fl.chans with
  | some c => c.copy.retired.getLsbD t
  | none => false

/-- The lane-table positions of a lane's retired dies: excluded in every block stripe of the lane (Table
4.4). -/
def retiredMask (s : State) (lane : Nat) : BitVec 64 :=
  (laneDies s lane).foldl (fun m e =>
    if dieRetired s e.channel e.target then m ||| BitVec.ofNat 64 (2 ^ e.slot) else m) 0

/-- The lane slots that an EXCLUDED mask leaves. -/
def slotsLeft (s : State) (lane : Nat) (excluded : BitVec 64) : Nat :=
  ((laneDies s lane).filter fun e => ! excluded.getLsbD e.slot).length

/-- The block-table entry of block stripe `n`; one not listed is free and was never erased. Retired dies are
excluded, and a free one with fewer than 8 lane slots is retired (Tables 4.2, 4.4). -/
def blkAt (s : State) (n : Nat) : BlockEntry :=
  let b := mapAt (freeEntry (inCarrel s n)) n s.blk.table
  let x := b.excluded ||| retiredMask s (entryLane s n)
  { b with
    excluded := x
    state := if b.state = 0 && decide (slotsLeft s (entryLane s n) x < 8) then 5 else b.state }

/-- The block-table entry of block stripe `n`, changed by `f`. -/
def modBlk (n : Nat) (f : BlockEntry → BlockEntry) (s : State) : State :=
  { s with blk := { s.blk with
      table := mapPut (freeEntry (inCarrel s n)) n (f (blkAt s n)) s.blk.table } }

/-- The members of a block stripe under an EXCLUDED mask: the dies of the lane, the excluded positions
skipped (R85). -/
def membersUnder (s : State) (n : Nat) (excluded : BitVec 64) : List LaneEntry :=
  (laneDies s (entryLane s n)).filter fun e => ! excluded.getLsbD e.slot

/-- The members a block stripe has now. -/
def membersNow (s : State) (n : Nat) : List LaneEntry := membersUnder s n (blkAt s n).excluded

/-- The members its layout follows: those it had when it was opened. -/
def members (s : State) (n : Nat) : List LaneEntry :=
  if (blkAt s n).state = 0 || (blkAt s n).state = 5 then membersNow s n
  else membersUnder s n (blkAt s n).exclOpen

/-- Data dies of a block stripe: k = w − 2. -/
def dataWidth (s : State) (n : Nat) : Nat := (members s n).length - 2

/-- The lane slot of the P page and of the Q page (R62). -/
def pSlot (s : State) (n : Nat) : Nat := entryBlock s n % (members s n).length
def qSlot (s : State) (n : Nat) : Nat := (entryBlock s n + 1) % (members s n).length

/-- The member slots that hold data, in rising order: data index j is element j (R62). -/
def dataSlots (s : State) (n : Nat) : List Nat :=
  (List.range (members s n).length).filter fun i => i != pSlot s n && i != qSlot s n

/-- The member slot of a program unit: data index, 64 for P, 65 for Q. -/
def unitSlot (s : State) (n unit : Nat) : Nat :=
  if unit = 64 then pSlot s n else if unit = 65 then qSlot s n else natAt (dataSlots s n) unit

/-- The die of a program unit of block stripe `n`. -/
def unitDie (s : State) (n unit : Nat) : Option LaneEntry := (members s n)[unitSlot s n unit]?

/-- Card positions of a block stripe at its recorded width. -/
def stripeCards (s : State) (n : Nat) : Nat := 4 * pagesOf s n * dataWidth s n

/-- Page, data index and SLOT of position `pos` of a row of `k` data dies (R66, R89). -/
def posPage (k pos : Nat) : Nat := pos / (4 * k)
def posData (k pos : Nat) : Nat := pos / 4 % k
def posSlot (pos : Nat) : Nat := pos % 4

/-- The position of page `page`, data index `j`, SLOT `slot`. -/
def posOf (k page j slot : Nat) : Nat := page * (4 * k) + 4 * j + slot

/-- The PPA of position `pos` of block stripe `n`, counted from its page 0 (R89). -/
def posPpa (s : State) (n pos : Nat) : Ppa :=
  match unitDie s n (posData (dataWidth s n) pos) with
  | none => 0
  | some d => mkPpa d.channel d.target (entryPlane s n) (entryBlock s n)
      (posPage (dataWidth s n) pos) (posSlot pos)

/-- The block stripe a PPA lies in. -/
def ppaEntry (s : State) (p : Ppa) : Option Nat :=
  (laneOf s (ppaChannel p) (ppaTarget p)).map fun e => entryNo s e.lane (ppaPlane p) (ppaBlock p)

/-- Place of `x` in a list. -/
def indexIn (x : Nat) (l : List Nat) : Option Nat := firstNat (fun i => l[i]? = some x) l.length 0

/-- The data index of a PPA in block stripe `n`; 64 when it is the P page, 65 the Q page. -/
def ppaUnit (s : State) (n : Nat) (p : Ppa) : Option Nat :=
  match firstNat (fun i => match (members s n)[i]? with
      | some d => d.channel = ppaChannel p && d.target = ppaTarget p
      | none => false) (members s n).length 0 with
  | none => none
  | some slot =>
    if slot = pSlot s n then some 64
    else if slot = qSlot s n then some 65
    else indexIn slot (dataSlots s n)

/-- The position of a PPA in block stripe `n` (R89). -/
def ppaPos (s : State) (n : Nat) (p : Ppa) : Option Nat :=
  match ppaUnit s n p with
  | none => none
  | some j => if j ≥ 64 then none else some (posOf (dataWidth s n) (ppaPage p) j (ppaSlot p))

/-! ## Shelves (R24) -/

/-- The shelf number of card index `c` of a namespace: its extents in order, each of whole shelves. -/
def shelfIn : List (Nat × Nat) → Nat → Option Nat
  | [], _ => none
  | (base, len) :: l, sh => if sh < len then some (base + sh) else shelfIn l (sh - len)

/-- Namespace `nsid`. -/
def nsAt (s : State) (nsid : Nat) : Option Namespace := s.nv.nss.find? fun n => n.nsid = nsid

/-- Bytes of data in one LBA (Table 10.8). -/
def lbaBytes (n : Namespace) : Nat := if n.lbaf ≤ 1 then 512 else 4096

/-- 512-byte sectors of one LBA. -/
def lbaSectors (n : Namespace) : Nat := if n.lbaf ≤ 1 then 1 else 8

/-- Shelf and card of card index `c` of a namespace. -/
def cardPlace (n : Namespace) (c : Nat) : Option (Nat × Nat) :=
  (shelfIn n.extents (c / 16)).map fun sh => (sh, c % 16)

/-- The namespace and extent position that a shelf belongs to: NSID and the shelf's index in it. -/
def shelfOwner (s : State) (shelf : Nat) : Option (Namespace × Nat) :=
  let rec go : List (Nat × Nat) → Nat → Option Nat
    | [], _ => none
    | (base, len) :: l, sum =>
      if base ≤ shelf && shelf < base + len then some (sum + (shelf - base)) else go l (sum + len)
  s.nv.nss.findSome? fun n => (go n.extents 0).map fun i => (n, i)

/-- The first LBA of a card of a namespace. -/
def cardLba (n : Namespace) (c : Nat) : Nat := if n.lbaf ≤ 1 then 8 * c else c

/-- The card index of a shelf's card in its namespace. -/
def cardIndex (s : State) (shelf card : Nat) : Option (Namespace × Nat) :=
  (shelfOwner s shelf).map fun x => (x.1, 16 * x.2 + card)

/-! ## Command words -/

/-- Bits [hi:lo] of a dword. -/
def bitsOf (w hi lo : Nat) : Nat := w / 2 ^ lo % 2 ^ (hi - lo + 1)

/-- Number of logical blocks: NLB + 1 (Table 10.10). -/
def nlbOf (e : SqEntry) : Nat := bitsOf e.dw12 15 0 + 1

/-- FUA: dword 12 bit 30. -/
def fuaOf (e : SqEntry) : Bool := e.dw12.testBit 30

/-- LR: dword 12 bit 31. -/
def lrOf (e : SqEntry) : Bool := e.dw12.testBit 31

/-- DEAC of Write Zeroes: dword 12 bit 25. -/
def deacOf (e : SqEntry) : Bool := e.dw12.testBit 25

/-- First sector and number of sectors of an I/O command's LBA range. -/
def firstSector (n : Namespace) (e : SqEntry) : Nat := slbaOf e * lbaSectors n
def sectorCount (n : Namespace) (e : SqEntry) : Nat := nlbOf e * lbaSectors n

/-- The range stays inside the namespace (Table 10.12, LBA Out of Range). -/
def rangeOk (n : Namespace) (e : SqEntry) : Bool := decide (slbaOf e + nlbOf e ≤ n.nsze)

/-- The cards a range of sectors touches. -/
def cardsOf (first count : Nat) : List Nat :=
  if count = 0 then [] else
    (List.range ((first + count - 1) / 8 - first / 8 + 1)).map fun i => first / 8 + i

/-- A card that the range covers whole. -/
def wholeCard (first count c : Nat) : Bool := decide (first ≤ 8 * c) && decide (8 * c + 8 ≤ first + count)

/-- The sectors of card `c` in data that starts at sector `first`, over the old sectors `old`. -/
def mergeCard (first : Nat) (data : List Nat) (c : Nat) (old : List Nat) : List Nat :=
  (List.range 8).map fun i =>
    if first ≤ 8 * c + i && 8 * c + i < first + data.length then natAt data (8 * c + i - first)
    else natAt old i

end Sys2Proof.Machine
end

