-- ==== Sys2Proof/Machine/Layout.lean ====
section
/-! DEFINITION. The bytes of the structures that the device stores (R6, R26 to R51, R59, R84, R89), little-endian, with
the CRC-32C that several of them end in (R160). -/

namespace Sys2Proof.Machine

/-! ## Bytes -/

/-- The low `n` bytes of a number, little-endian. -/
def leBytes (n x : Nat) : List Byte := (List.range n).map fun i => BitVec.ofNat 8 (x / 256 ^ i)

/-- The number that bytes spell, little-endian. -/
def numLe (l : List Byte) : Nat := l.foldr (fun b n => b.toNat + 256 * n) 0

/-- The eight sectors of a card from its first bytes; the others are zero. -/
def sectorsOf (l : List Byte) : List Nat := (List.range 8).map fun i => numLe ((l.drop (512 * i)).take 512)

/-! ## CRC-32C (R160) -/

/-- One step of CRC-32C over a bit. -/
def crcBit (c : Word32) : Word32 :=
  if c.getLsbD 0 then (c >>> 1) ^^^ 0x82F63B78#32 else c >>> 1

/-- One byte of CRC-32C (R160). -/
def crcByte (c : Word32) (b : Byte) : Word32 :=
  crcBit (crcBit (crcBit (crcBit (crcBit (crcBit (crcBit (crcBit (c ^^^ b.setWidth 32))))))))

/-- CRC-32C: initial value and final XOR of all ones, reflected form (R160). -/
def crc32c (l : List Byte) : Word32 := ~~~ (l.foldl crcByte 0xFFFFFFFF#32)

/-! ## The guards of protection information, and FCRC (R160, R270) -/

/-- One bit of the 16-bit CRC with polynomial 0x8BB7, the highest bit first. -/
def t10Bit (c : BitVec 16) : BitVec 16 := if c.getLsbD 15 then (c <<< 1) ^^^ 0x8BB7#16 else c <<< 1

def t10Byte (c : BitVec 16) (b : Byte) : BitVec 16 :=
  t10Bit (t10Bit (t10Bit (t10Bit (t10Bit (t10Bit (t10Bit (t10Bit (c ^^^ (b.setWidth 16 <<< 8))))))))) 

/-- The guard of a block with 16-bit protection information, and FCRC of a flit's bytes. -/
def t10Crc (l : List Byte) : BitVec 16 := l.foldl t10Byte 0

/-- One bit of the 64-bit CRC with polynomial 0xAD93_D235_94C9_3659, reflected as NVMe defines it. -/
def crc64Bit (c : Word64) : Word64 :=
  if c.getLsbD 0 then (c >>> 1) ^^^ 0x9A6C9329AC4BC9B5#64 else c >>> 1

def crc64Byte (c : Word64) (b : Byte) : Word64 :=
  crc64Bit (crc64Bit (crc64Bit (crc64Bit (crc64Bit (crc64Bit (crc64Bit (crc64Bit (c ^^^ b.setWidth 64))))))))

/-- The guard of a block with 64-bit protection information. -/
def crc64Nvme (l : List Byte) : Word64 := ~~~ (l.foldl crc64Byte 0xFFFFFFFFFFFFFFFF#64)

/-! ## Seeds (Table 6.7): 16 bytes, byte 0 first -/

/-- Card LBA in bytes 7 to 0, NSID in byte 8. -/
def shelfmarkSeed (nsid lba : Nat) : List Byte := leBytes 8 lba ++ leBytes 8 (nsid % 256)

/-- Source in byte 0, destination in byte 1, sequence number in bytes 15 to 8. -/
def packetSeed (src dst seq : Nat) : List Byte := leBytes 8 (src % 256 + 256 * (dst % 256)) ++ leBytes 8 seq

/-- SHELFMARK of a card's stored bytes. -/
def shelfmarkOf (nsid lba : Nat) (card : List Byte) : Word32 := crc32c (shelfmarkSeed nsid lba ++ card)

/-! ## The Catalogue (Tables 2.2 to 2.8) -/

/-- The 64 bits of a shelf entry; `slot`: the slot of its segment while RESIDENT, none in every copy on flash. -/
def shelfWord (e : ShelfEntry) (slot : Option Nat) : Nat :=
  let place := match slot with
    | some n => n
    | none => e.ppa.toNat
  match e.form with
  | 0 => 0
  | 1 => 2 ^ 62 + 2 ^ 56 * (e.age % 64) + 2 ^ 16 * e.ppa.toNat + e.presence.toNat
  | 2 => 2 ^ 63 + (if slot.isSome then 2 ^ 61 else 0) + 2 ^ 16 * place + e.presence.toNat
  | _ => 2 ^ 63 + 2 ^ 62 + (if slot.isSome then 2 ^ 58 else 0) + 2 ^ 56 * (e.prevForm % 4) + 2 ^ 16 * place
      + e.presence.toNat

/-- The 48 bits of a card entry. -/
def cardWord (c : CardEntry) : Nat :=
  2 ^ 8 * c.ppa.toNat + 2 ^ 2 * (c.age % 64) + (if c.fox then 2 else 0) + if c.valid then 1 else 0

/-- A fine segment: 104 bytes. -/
def segBytes (g : Segment) : List Byte :=
  leBytes 8 (2 ^ 24 * g.shelf + 2 ^ 16 * (g.nsid % 256) + (g.cards.filter fun c => c.valid).length)
    ++ g.cards.flatMap fun c => leBytes 6 (cardWord c)

/-- The slot trailer, in DRAM only. -/
def segTrailer (g : Segment) : Nat :=
  (if g.flashed then 2 ^ 42 else 0) + (if g.dirty then 2 ^ 41 else 0) + (if g.ref then 2 ^ 40 else 0) + g.locator.toNat

/-- The 112 bytes of a resident segment's slot. -/
def slotBytes (g : Segment) : List Byte := segBytes g ++ leBytes 8 (segTrailer g)

/-- A card of fine segments, at most 39. -/
def segCard (l : List Segment) : List Nat := sectorsOf (l.flatMap segBytes)

/-- The 64 bits of an Index entry; LOADED and DIRTY are 0 on flash. -/
def indexWord (e : IndexEntry) : Nat :=
  2 ^ 62 * (e.state % 4) + (if e.loaded then 2 ^ 61 else 0) + (if e.dirty then 2 ^ 60 else 0) + e.ppa.toNat

/-- The Index entry as it stands on flash. -/
def flashIndex (e : IndexEntry) : Nat := indexWord { e with loaded := false, dirty := false }

/-- Card `i` of a page of 2,048 entries of 8 bytes, entry `j` given by `f`. -/
def pageCard (f : Nat → Nat) (i : Nat) : List Nat :=
  sectorsOf ((List.range 512).flatMap fun j => leBytes 8 (f (512 * i + j)))

/-- Entry `j` of a directory page: the header, the PPAs it lists, and the next directory page (R47). -/
def dirEntry (idx tbl : Nat) (ppas : List Ppa) (next : Ppa) (j : Nat) : Nat :=
  if j = 0 then 2 ^ 16 * (tbl % 65536) + idx % 65536
  else if j = 2047 then next.toNat
  else match ppas[j - 1]? with
    | some p => p.toNat
    | none => 0

/-! ## The Ledger and the spine (Tables 2.9, 2.11) -/

/-- A Ledger record: 32 bytes. -/
def recordBytes (r : LedgerRec) : List Byte :=
  leBytes 8 r.seq ++ leBytes 8 r.accession ++ leBytes 5 r.newPpa.toNat ++ leBytes 5 r.oldPpa.toNat
    ++ leBytes 6 (2 ^ 44 * (r.typ % 16) + 2 ^ 40 * (r.card % 16) + r.shelf % 2 ^ 40)

/-- A Ledger card of 128 records. -/
def ledgerData (l : List LedgerRec) : List Nat := sectorsOf (l.flatMap recordBytes)

/-- A Daybook record (Table 16.11). -/
def dayBytes (r : DayRec) : List Byte :=
  leBytes 8 r.seq ++ leBytes 8 (r.timeMs % 2 ^ 48 + 2 ^ 56 * (if r.fault then 1 else 0) + 2 ^ 60 * r.mode)
    ++ leBytes 4 r.cycles ++ leBytes 2 r.event ++ leBytes 2 0xDB0C
    ++ ((r.payload.flatMap fun x => leBytes x.1 x.2) ++ leBytes 40 0).take 40

/-- Records in one Daybook card (R390). -/
def dayPerCard : Nat := 64

/-- A PAD record: its DB_SEQ, TIME and POWER_CYCLES are zero (Table 16.12). -/
def dayPad : DayRec :=
  { seq := 0, timeMs := 0, fault := false, mode := 0, cycles := 0, event := 0, payload := [] }

/-- Daybook card `i` of records that are flushed together, filled with PAD records (R390). -/
def dayData (l : List DayRec) (i : Nat) : List Nat :=
  sectorsOf ((((l.drop (dayPerCard * i)).take dayPerCard ++ List.replicate dayPerCard dayPad).take dayPerCard).flatMap
    dayBytes)

/-- Bytes 0x00 to 0x3B of a spine record. -/
def spineBody (r : SpineRec) : List Byte :=
  leBytes 8 r.spineSeq ++ leBytes 8 r.redoSeq ++ leBytes 8 r.redoCard.toNat ++ leBytes 8 r.walkStart.toNat
    ++ leBytes 8 r.directory.toNat ++ leBytes 8 r.accFloor ++ leBytes 8 (r.timeMs % 2 ^ 48)
    ++ leBytes 4 (256 + r.kind % 4)

/-- A spine record: 64 bytes, its CRC last; of a torn one the CRC fails. -/
def spineBytes (r : SpineRec) : List Byte :=
  spineBody r ++ leBytes 4 (if r.torn then ~~~ (crc32c (spineBody r)) else crc32c (spineBody r)).toNat

/-! ## Cards and blocks (Tables 3.1, 3.2, 4.1; R89) -/

/-- The bytes of a card as stored: ciphertext unless PLAIN. -/
def storedBytes (x : Stored) : List Byte :=
  (List.range 8).flatMap fun i => leBytes 512
    (if x.md.plain then natAt x.data i else Config.cipherText x.md.keyGen x.md.accession i (natAt x.data i))

/-- FLAGS of a card. -/
def flagsByte (m : CardMeta) : Nat :=
  2 ^ 3 * (m.stream % 4) + (if m.plain then 4 else 0) + (if m.pad then 2 else 0) + if m.fox then 1 else 0

/-- SHELFMARK of a card: over its stored bytes, seeded with its NSID and card LBA, or own PPA (R35, R160). -/
def shelfmark (x : Stored) : Word32 := shelfmarkOf x.md.nsid x.md.lba (storedBytes x)

/-- TAG of a card: zero when PLAIN. -/
def cardTag (x : Stored) : BitVec 128 :=
  if x.md.plain then 0 else Config.gcmTag x.md.keyGen x.md.accession x.md.nsid x.md.lba x.data

/-- The card metadata: 32 bytes. -/
def metaBytes (x : Stored) : List Byte :=
  leBytes 8 x.md.accession ++ leBytes 4 (shelfmark x).toNat ++ leBytes 1 x.md.nsid ++ leBytes 1 (flagsByte x.md)
    ++ leBytes 1 (x.md.age % 64) ++ leBytes 1 0 ++ leBytes 16 (cardTag x).toNat

/-- A block-table entry: 32 bytes. -/
def blockBytes (b : BlockEntry) : List Byte :=
  leBytes 8 (2 ^ 61 * (b.state % 8) + (if b.carrel then 2 ^ 60 else 0) + 2 ^ 58 * (b.stream % 4) + 2 ^ 51 * (b.width % 128)
      + 2 ^ 32 * (b.valid % 2 ^ 19) + 2 ^ 12 * (b.erases % 2 ^ 20) + b.listRows % 2 ^ 12)
    ++ leBytes 8 b.excluded.toNat ++ leBytes 8 (2 ^ 40 * (b.closed % 2 ^ 24) + b.listPpa.toNat) ++ leBytes 8 b.gateSeq

/-- Card `i` of block-table page `n`: 128 of its 512 entries. -/
def tableCard (s : State) (n i : Nat) : List Nat :=
  sectorsOf ((List.range 128).flatMap fun j => blockBytes (blkAt s (512 * n + 128 * i + j)))

/-- A shelf-list entry: 48 bits, SHELF and card, KIND 0; a PAD entry is KIND 1. -/
def listWord : Option (Nat × Nat) → Nat
  | some (shelf, card) => 2 ^ 8 * shelf + 2 ^ 4 * (card % 16)
  | none => 1

/-- Card `i` of the shelf list of a block stripe with `n` positions: 682 entries. -/
def listData (l : List (Nat × Nat × Nat)) (n i : Nat) : List Nat :=
  sectorsOf ((List.range (min 682 (n - 682 * i))).flatMap fun j =>
    leBytes 6 (listWord (mapGet (682 * i + j) l)))

/-! ## Codewords (R138, R139, Table 6.1) -/

/-- Parity bytes and codeword length of an LDPC profile. -/
def parityLen (ldpc : Nat) : Nat := natAt [464, 592, 320] ldpc
def codewordLen (ldpc : Nat) : Nat := 4128 + parityLen ldpc

/-- The first byte of the codeword of a SLOT in the page's data and spare area. -/
def codewordAt (ldpc slot : Nat) : Nat := slot * codewordLen ldpc

/-- Row `i` of the parity-check matrix over the payload: for each of the 258 base columns that the base matrix of the
profile fills, the 128 payload bits of the column, rotated by its circulant (R139). -/
def ldpcRow (ldpc : Nat) (payload : Nat) (i : Nat) : BitVec 128 :=
  (List.range 258).foldl (fun a j => match Config.ldpcBase ldpc i j with
    | some shift => a ^^^ (BitVec.ofNat 128 (payload / 2 ^ (128 * j))).rotateRight (shift % 128)
    | none => a) 0

/-- The parity blocks of a payload: the parity part is dual-diagonal, so each is the sum of its row and the block before
it (R139; DEDUCED, log entry 166). -/
def ldpcBlocks (ldpc payload : Nat) : List (BitVec 128) :=
  (List.range (parityLen ldpc / 16)).foldl
    (fun l i => l ++ [ldpcRow ldpc payload i ^^^ l.getLastD 0]) []

/-- A card as it stands on flash: card, metadata, parity. -/
def codeword (ldpc : Nat) (x : Stored) : List Byte :=
  let payload := storedBytes x ++ metaBytes x
  payload ++ (ldpcBlocks ldpc (numLe payload)).flatMap fun b => leBytes 16 b.toNat

/-! ## The drift table (R144, Table 6.5) -/

/-- An offset set, one signed byte a level, and the weight after it: 16 bytes. -/
def offsetBytes (ofs : List Int) (sw : Nat) : List Byte :=
  ((List.range 15).map fun i => BitVec.ofInt 8 (ofs.getD i 0)) ++ leBytes 1 sw

/-- A drift-table entry: the fresh class at 0x00, the aged class at 0x10. -/
def driftBytes (d : Drift) : List Byte := offsetBytes d.freshOfs d.freshSw ++ offsetBytes d.agedOfs d.agedSw

/-! ## The Roster (R108, R115, Table 5.5) -/

/-- The die index of a target: its rank among the present dies of its channel. -/
def dieIndex (present : BitVec 32) (target : Nat) : Nat :=
  ((List.range target).filter fun t => present.getLsbD t).length

/-- The 16 bytes of a CE# target. -/
def ceBytes (l : List CeTrain) (ce : Nat) : List Byte :=
  match l.find? fun x => x.ce = ce with
  | none => leBytes 16 0
  | some x => (List.range 8).flatMap (fun b => leBytes 1 (natAt x.dqRd b)) ++ leBytes 1 x.dqsRd ++ leBytes 1 x.reDly
      ++ leBytes 1 x.dqsWr ++ leBytes 1 (16 * (x.ctle % 16) + x.dfe % 16) ++ leBytes 1 x.duty ++ leBytes 1 x.vref
      ++ leBytes 1 x.eyeWidth ++ leBytes 1 0

/-- Words 0x10 of an entry, from its die profile. -/
def geometryWord (g : DieProfile) : Nat :=
  2 ^ 48 * (16384 + g.spareBytes) + 2 ^ 36 * (g.pages - 1) + 2 ^ 23 * (g.blocks - 1) + 2 ^ 20 * (g.planes - 1)
    + 2 ^ 18 * g.cell

/-- Bytes 0x00 to 0xFB of the entry of a channel. -/
def rosterBody (s : State) (ch : Nat) (r : Roster) : List Byte :=
  let dies := (List.range 32).filter fun t => r.present.getLsbD t
  leBytes 8 (2 ^ 48 * (r.generation % 65536) + 2 ^ 40 + 2 ^ 38 * r.chState + 2 ^ 32 * ch + 2 ^ 16 * r.dieProfile
      + 2 ^ 8 * r.ldpc + dies.length)
    ++ leBytes 4 r.present.toNat ++ leBytes 4 r.retired.toNat
    ++ leBytes 8 (match profileAt s r.dieProfile with | some g => geometryWord g | none => 0)
    ++ leBytes 8 (2 ^ 48 * r.dataRate + 2 ^ 40 * r.timingSet + 2 ^ 36 * (r.drive % 16) + 2 ^ 32 * (r.odt % 16)
      + 2 ^ 16 * r.zqInterval)
    ++ (List.range 8).flatMap (ceBytes r.training) ++ leBytes 8 0
    ++ leBytes 8 (2 ^ 56 * (BitVec.ofInt 8 r.trainTemp).toNat + 2 ^ 48 * r.trainCount + r.trainTime % 2 ^ 48)
    ++ (List.range 32).flatMap (fun t => leBytes 2 (4096 * (mapAt 0 t r.reasons))) ++ leBytes 12 0

/-- The 256 bytes of the entry, with its CRC-32C. -/
def rosterBytes (s : State) (ch : Nat) (r : Roster) : List Byte :=
  let body := rosterBody s ch r
  body ++ leBytes 4 (crc32c body).toNat

end Sys2Proof.Machine
end

