-- ==== Sys2Proof/Machine/Onfi.lean ====
section
/-! DEFINITION. The command cycles of the operations that a channel sequencer issues (R109 to R111, Table 5.1). -/

namespace Sys2Proof.Machine

/-- The command `cmd` at the feature address of a LUN that the die profile gives function `f` (Table 15.12), after the
prefix cycle that it names, if any. -/
def lunFeature (s : State) (cmd ch f : Nat) : List Nat :=
  match (profileOf s ch).bind fun g => g.functions.find? fun x => x.1 = f with
  | some (_, feature, pre) => (if pre = 0 then [] else [pre]) ++ [cmd, feature]
  | none => []

/-- Set Features for function `f`: D5h. -/
def featureCycles (s : State) (ch f : Nat) : List Nat := lunFeature s 0xD5 ch f

/-- The die temperature is read by Get Features, D4h, at the address of function 6 (R110, R122). -/
def tempCycles (s : State) (ch : Nat) : List Nat := lunFeature s 0xD4 ch 6

/-- The block's mode: pSLC in the carrel. -/
def cellCycles (s : State) (ch : Nat) (slc : Bool) : List Nat := featureCycles s ch (if slc then 1 else 2)

/-- A page's block is in the carrel. -/
def ppaSlc (s : State) (p : Ppa) : Bool :=
  match ppaEntry s p with
  | some n => inCarrel s n
  | none => false

/-- What comes before a read: the block's mode, the offsets when they differ from those set in the die, and the soft
level of a soft read. -/
def readSetup (s : State) (changed : Bool) (r : ReadReq) : List Nat :=
  let ch := ppaChannel r.ppa
  cellCycles s ch (ppaSlc s r.ppa) ++ (if changed then featureCycles s ch 3 else [])
    ++ match r.why with
      | .ladder 1 => featureCycles s ch 4
      | .ladder 2 => featureCycles s ch 5
      | _ => []

/-- Read Page. -/
def readCycles (s : State) (changed : Bool) (r : ReadReq) : List Nat := readSetup s changed r ++ [0x00, 0x30]

/-- The result of an array operation is read by Read Status Enhanced. -/
def statusCycles : List Nat := [0x78]

/-- Its status, and Change Read Column Enhanced for the plane and the codeword that is read out. -/
def dataCycles : List Nat := statusCycles ++ [0x06, 0xE0]

/-- Multi-plane Page Program and Block Erase over the planes of `ops`; reads are issued one by one. -/
def opCycles (s : State) (ch : Nat) : List ArrayOp → List Nat
  | [] => []
  | [.reads rs] => rs.flatMap (readCycles s true)
  | [.program p] => cellCycles s ch p.page.isSome ++ [0x80, 0x10]
  | [.erase n] => cellCycles s ch (inCarrel s n) ++ [0x60, 0xD0]
  | .reads rs :: l => rs.flatMap (readCycles s true) ++ opCycles s ch l
  | .program p :: l => cellCycles s ch p.page.isSome ++ [0x80, 0x11] ++ opCycles s ch l
  | .erase n :: l => cellCycles s ch (inCarrel s n) ++ [0x60, 0xD1] ++ opCycles s ch l

/-- Suspend and resume of an operation. -/
def suspendCycles : Option ArrayOp → List Nat
  | some (.program _) => [0x84]
  | some (.erase _) => [0x61]
  | _ => []
def resumeCycles : Option ArrayOp → List Nat
  | some (.program _) => [0x13]
  | some (.erase _) => [0xD2]
  | _ => []

/-- At power-up or reset, in SDR timing mode 0: Reset, Read ID, Read Parameter Page, and Set Features to NV-LPDDR4
(R111). -/
def openCycles : List Nat := [0xFF, 0x90, 0xEC, 0xEF]

/-- Full training of a target after the switch: ZQ Calibration Long, Set Features for duty cycle, and the read and write
trainings (R127). -/
def trainCycles : List Nat := [0xF9, 0xEF, 0x62, 0x63, 0x64]

end Sys2Proof.Machine
end

