-- ==== Sys2Proof/Machine/Parity.lean ====
section
/-! DEFINITION. The arithmetic of P and Q (R63, R147, R299): GF(2^8) over the bytes of 512-byte sectors, each
sector the number its bytes spell. -/

namespace Sys2Proof.Machine

/-- The byte 0x01 at each of the 512 places of a sector. -/
def ones512 : Nat := (2 ^ 4096 - 1) / 255

/-- Every byte times g = 0x02, modulo 0x11D. -/
def gfTwice (x : Nat) : Nat :=
  ((x &&& (127 * ones512)) <<< 1) ^^^ (((x >>> 7) &&& ones512) * 0x1D)

/-- Every byte times the constant `c`, low bit first. -/
def gfMulBits : Nat → Nat → Nat → Nat
  | 0, _, _ => 0
  | fuel + 1, c, x => (if c % 2 = 1 then x else 0) ^^^ gfMulBits fuel (c / 2) (gfTwice x)

def gfMul (c x : Nat) : Nat := gfMulBits 8 c x

/-- g^j. -/
def gfPow : Nat → Nat
  | 0 => 1
  | j + 1 => gfTwice (gfPow j)

/-- The inverse of a non-zero byte. -/
def gfInv (a : Nat) : Nat := (firstNat (fun n => gfMul a n = 1) 255 1).getD 0

/-- Cards, sector by sector. -/
def xorCard (a b : List Nat) : List Nat := (List.range 8).map fun i => natAt a i ^^^ natAt b i
def mulCard (c : Nat) (a : List Nat) : List Nat := (List.range 8).map fun i => gfMul c (natAt a i)
def sumCards (l : List (List Nat)) : List Nat := l.foldl xorCard [0, 0, 0, 0, 0, 0, 0, 0]

/-- P and Q of the data cards, data index j weighed by g^j (R63). -/
def parityP (data : List (List Nat)) : List Nat := sumCards data
def parityQ (data : List (List Nat)) : List Nat :=
  sumCards ((List.range data.length).map fun j => mulCard (gfPow j) (data.getD j []))

/-- The known data cards with their indexes. -/
def knownCards (data : List (Option (List Nat))) : List (Nat × List Nat) :=
  (List.range data.length).filterMap fun j => match data[j]? with
    | some (some c) => some (j, c)
    | _ => none

/-- The indexes of the unknown data cards. -/
def unknownCards (data : List (Option (List Nat))) : List Nat :=
  (List.range data.length).filter fun j => match data[j]? with
    | some (some _) => false
    | _ => true

/-- What the known cards leave of P and of Q. -/
def restP (p : List Nat) (known : List (Nat × List Nat)) : List Nat :=
  sumCards (p :: known.map fun x => x.2)
def restQ (q : List Nat) (known : List (Nat × List Nat)) : List Nat :=
  sumCards (q :: known.map fun x => mulCard (gfPow x.1) x.2)

/-- All data cards, up to two unknowns solved from P and Q (R147, R299). -/
def solveCards (data : List (Option (List Nat))) (p q : Option (List Nat)) : Option (List (List Nat)) :=
  let known := knownCards data
  let fill := fun (found : List (Nat × List Nat)) =>
    (List.range data.length).map fun j => (mapGet j (found ++ known)).getD []
  match unknownCards data, p, q with
  | [], _, _ => some (fill [])
  | [a], some p, _ => some (fill [(a, restP p known)])
  | [a], none, some q => some (fill [(a, mulCard (gfInv (gfPow a)) (restQ q known))])
  | [a, b], some p, some q =>
    let rp := restP p known
    let rq := restQ q known
    let da := mulCard (gfInv (gfPow a ^^^ gfPow b)) (xorCard (mulCard (gfPow b) rp) rq)
    some (fill [(a, da), (b, xorCard rp da)])
  | _, _, _ => none

end Sys2Proof.Machine
end

