-- ==== Sys2Proof/Machine/Pools.lean ====
section
/-! DEFINITION. The pool manager (R13 to R20): free lists threaded through the free buffers, requests in
order of arrival, the hold table and the counters. -/

namespace Sys2Proof.Machine

/-- Bytes of a buffer of pool `p`. -/
def bufBytes (p : Pool) : Nat := 1024 * p.sizeKiB

/-- The pointer that the boot-made list leaves in the first 8 bytes of the buffer at `a` of pool `n`. -/
def bootNext (n : Nat) (p : Pool) (a : Nat) : Nat :=
  if a + bufBytes p < poolBase n + p.total * bufBytes p then a + bufBytes p else 0

/-- The first 8 bytes of the buffer at `a` of pool `n` (R13). -/
def nextOf (n : Nat) (p : Pool) (a : Nat) : Nat := mapAt (bootNext n p a) a p.next

/-- Pool `n` after its head buffer is taken (R13, Table 1.6). -/
def popPool (n : Nat) (p : Pool) : Pool :=
  { p with head := nextOf n p p.head, free := p.free - 1, minFree := min p.minFree (p.free - 1) }

/-- Pool `n` after the buffer at `a` is returned to the head; nothing is checked (R13, R16). -/
def pushPool (n a : Nat) (p : Pool) : Pool :=
  { p with next := mapPut (bootNext n p a) a p.head p.next, head := a, free := sat32 (p.free + 1) }

/-- The pool of a set, 0 to 3, whose buffers are the smallest that hold `kib` KiB (R14). -/
def fitPool (kib : Nat) : Nat :=
  if kib ≤ 4 then 0 else if kib ≤ 16 then 1 else if kib ≤ 64 then 2 else 3

/-- Pool `n` holds a free buffer. -/
def hasBuffer (ps : List Pool) (n : Nat) : Bool :=
  match ps[n]? with
  | some p => p.head != 0
  | none => false

/-- The pool that serves `kib` KiB of set `set`: the smallest fitting one, else the next larger (R14). -/
def servePool (ps : List Pool) (set kib : Nat) : Option Nat :=
  ([0, 1, 2, 3].filter fun k => decide (fitPool kib ≤ k) && hasBuffer ps (4 * set + k)).head?.map
    fun k => 4 * set + k

/-- KS_POOL_FALL counts a buffer whose size fits a smaller pool (R20). -/
def countFall (set n kib : Nat) (p : Pool) : Pool :=
  if n = 4 * set + fitPool kib then p else { p with fall := sat32 (p.fall + 1) }

/-- One buffer of set `set` for `kib` KiB: its pool and address, and the pools after. -/
def takeBuffer (set kib : Nat) (ps : List Pool) : Option (Nat × Nat × List Pool) :=
  match servePool ps set kib with
  | none => none
  | some n => match ps[n]? with
    | none => none
    | some p => some (n, p.head, ps.set n (countFall set n kib (popPool n p)))

/-- All buffers of one request, or none of them (R17). -/
def takeAll (set : Nat) : List Nat → List Pool → Option (List (Nat × Nat) × List Pool)
  | [], ps => some ([], ps)
  | kib :: rest, ps => match takeBuffer set kib ps with
    | none => none
    | some (n, a, ps1) => match takeAll set rest ps1 with
      | none => none
      | some (got, ps2) => some ((n, a) :: got, ps2)

/-- The stalled requests of a set. -/
def waitList (set : Nat) (p : Pools) : List PoolReq := if set = 0 then p.waitT else p.waitW

/-- The stalled requests of a set, replaced. -/
def setWait (set : Nat) (l : List PoolReq) (p : Pools) : Pools :=
  if set = 0 then { p with waitT := l } else { p with waitW := l }

/-- The largest buffer size of a request. -/
def largest (sizes : List Nat) : Nat := sizes.foldl max 0

/-- A request counts once in KS_POOL_STALL, at the smallest fitting pool of its largest size (R20). -/
def countStall (set : Nat) (sizes : List Nat) (p : Pools) : Pools :=
  { p with
      pool := modAt (4 * set + fitPool (largest sizes))
        (fun q => { q with stall := sat32 (q.stall + 1) }) p.pool }

/-- The buffers of a served request are handed out; the Librarian's enter the hold table (R18). -/
def handOut (who : Requester) (got : List (Nat × Nat)) (p : Pools) : Pools :=
  { p with
      held := p.held ++ got.map fun b => (who, b.1, b.2)
      holdTab := if who = .librarian then p.holdTab ++ got else p.holdTab }

/-- A command whose buffers are here can move its data; one that waits for them is stalled (R58). -/
def slotPhase (who : Requester) (ph : CmdPhase) (s : State) : State :=
  match who with
  | .slot n => modCmd n (fun c => { c with phase := ph }) s
  | _ => s

/-- The request is served from the pools as they stand, or joins the stalled ones (R14, R15, R17). -/
def requestBuffers (set : Nat) (who : Requester) (sizes : List Nat) (s : State) : State :=
  match (if (waitList set s.pools).isEmpty then takeAll set sizes s.pools.pool else none) with
  | some (got, ps) =>
    slotPhase who .buffered { s with pools := handOut who got { s.pools with pool := ps } }
  | none =>
    slotPhase who .stalled
      { s with
          pools := setWait set (waitList set s.pools ++ [{ who := who, sizes := sizes }])
            (countStall set sizes s.pools) }

/-- Buffers that the Librarian's stalled requests ask for. -/
def librarianWaits (s : State) : Nat :=
  ((s.pools.waitT ++ s.pools.waitW).filter fun r => r.who = .librarian).foldl (fun a r => a + r.sizes.length) 0

/-- A request that a unit of work can make: a transit or work set, sizes of 1 to 256 KiB, and for the
Librarian no more than 16 buffers, held and asked for (R14, R18). A request of the Librarian past 16 is not
taken up (DESIGN CHOICE, log entry 124). -/
def requestLegal (set : Nat) (who : Requester) (sizes : List Nat) (s : State) : Bool :=
  decide (set ≤ 1) && sizes.all (fun k => decide (1 ≤ k) && decide (k ≤ 256)) && ! sizes.isEmpty
    && (who != .librarian || decide (s.pools.holdTab.length + librarianWaits s + sizes.length ≤ 16))

/-- POOL_REQUEST. Coast draws no buffer (R19). -/
def execPoolRequest (set : Nat) (who : Requester) (sizesKiB : List Nat) (s : State) : Outcome :=
  .next (if requestLegal set who sizesKiB s && s.mode.mode != .coast then
    requestBuffers set who sizesKiB s else s)

/-- A buffer returns to the head of its pool's free list. -/
def freeBuffer (n a : Nat) (s : State) : State :=
  { s with pools := { s.pools with
      pool := modAt n (pushPool n a) s.pools.pool
      held := dropFirst (fun h => decide (h.2.1 = n) && decide (h.2.2 = a)) s.pools.held
      holdTab := s.pools.holdTab.filter fun h => h != (n, a) } }

/-- POOL_FREE: nothing is checked (R13, R16). -/
def execPoolFree (pool addr : Nat) (s : State) : Outcome := .next (freeBuffer pool addr s)

/-- The oldest stalled request of a set is served when the pools can serve all of it (R15). -/
def serveStalled (set : Nat) (s : State) : State :=
  match waitList set s.pools with
  | [] => s
  | r :: rest => match takeAll set r.sizes s.pools.pool with
    | none => s
    | some (got, ps) =>
      slotPhase r.who .buffered
        { s with pools := handOut r.who got (setWait set rest { s.pools with pool := ps }) }


/-- The minimum, fall-through and stall counters of one pool, cleared; the free count stays (R20). -/
def clearPool (p : Pool) : Pool :=
  { p with minFree := p.free, fall := 0, stall := 0, stallUs := 0 }

/-- A write to KS_POOL_CLEAR: 1 clears the counters of every pool. -/
def clearPools (value : Word32) (s : State) : State :=
  if value.getLsbD 0 then { s with pools := { s.pools with pool := s.pools.pool.map clearPool } } else s

/-- KS_POOL_CLEAR: writing 1 to bit 0 clears the counters of all pools (R20). -/
def execKsPoolClear (value : Word32) (s : State) : Outcome :=
  .next (if barOn s then clearPools value s else s)

/-- The buffers a requester holds return to their pools, oldest first (DESIGN CHOICE, log entry 125). -/
def freeAllOf (who : Requester) (s : State) : State :=
  (s.pools.held.filter fun h => h.1 = who).foldl (fun t h => freeBuffer h.2.1 h.2.2 t) s

/-- Buffer sizes of a transfer of `n` KiB, as R58 cuts it. -/
def transferSizes (kib : Nat) : List Nat :=
  List.replicate (kib / 256) 256 ++
    (if kib % 256 = 0 then [] else
      [if kib % 256 ≤ 4 then 4 else if kib % 256 ≤ 16 then 16 else if kib % 256 ≤ 64 then 64 else 256])

/-- A request that is given up leaves the stalled requests (R223). -/
def dropWait (who : Requester) (s : State) : State :=
  { s with pools := { s.pools with
      waitT := s.pools.waitT.filter fun r => r.who != who
      waitW := s.pools.waitW.filter fun r => r.who != who } }

/-- Returns every buffer in the hold table to its pool (R18), the oldest first (DESIGN CHOICE, log entry
125). -/
def freeHoldTable (s : State) : State :=
  s.pools.holdTab.foldl (fun t h => freeBuffer h.1 h.2 t) s

/-! ## Buffers of engines -/

/-- The write scheduler, as it asks for the buffer of a row (R64); shelf lists of block stripe `n` and Inventory
passes, as they ask for work-pool buffers (R47, R90). Engines 0 to 11 ask by POOL_REQUEST alone. -/
def rowReq : Requester := .engine 12
def passReq : Requester := .engine 13

/-- A requester holds a buffer. -/
def holdsBuf (who : Requester) (s : State) : Bool := s.pools.held.any fun h => h.1 = who

/-- A request of the requester is stalled. -/
def waits (who : Requester) (s : State) : Bool := (s.pools.waitT ++ s.pools.waitW).any fun r => r.who = who

/-- An engine's request, once: nothing is asked while it holds buffers or waits for them (R17). -/
def askOnce (set : Nat) (who : Requester) (sizes : List Nat) (s : State) : State :=
  if holdsBuf who s || waits who s || s.mode.mode = .coast then s else requestBuffers set who sizes s

/-- The 256 KiB buffer of a row: one that the write scheduler's request has been served with, or one that the
pools serve now; none behind an earlier stalled request, and none in Coast (R14, R15, R19, R64). -/
def rowBuffer (s : State) : Option (Nat × Nat × Pools) :=
  if s.mode.mode = .coast then none
  else match s.pools.held.find? fun h => h.1 = rowReq with
    | some h => some (h.2.1, h.2.2, { s.pools with held := dropFirst (fun x => x = h) s.pools.held })
    | none =>
      if ! s.pools.waitT.isEmpty then none
      else match takeBuffer 0 256 s.pools.pool with
        | none => none
        | some (n, a, ps) => some (n, a, { s.pools with pool := ps })

/-- A row would have a buffer: the pools as a placement is tried that lacks nothing else. -/
def spareRows (n : Nat) (s : State) : State :=
  { s with pools := { s.pools with held := List.replicate n (rowReq, 3, 0) ++ s.pools.held } }

/-- A placement that `ok` cannot have for want of row buffers alone makes the write scheduler ask for them: for the
fewest of at most `n` with which it succeeds, all in one request, which stalls and is counted. What the scheduler holds
goes back before it asks, so that it holds nothing while it stalls (R14, R17, R20). -/
def stallRow (n : Nat) (ok : State → Bool) (s : State) : State :=
  if ok s || waits rowReq s || s.mode.mode = .coast then s
  else
    let t := freeAllOf rowReq s
    match (List.range n).find? fun k => ok (spareRows (k + 1) t) with
    | some k => requestBuffers 0 rowReq (List.replicate (k + 1) 256) t
    | none => s

/-- A microsecond of stall for the requests of one set (R20). -/
def stallTick (set : Nat) (l : List PoolReq) (ps : List Pool) : List Pool :=
  l.foldl (fun q r => modAt (4 * set + fitPool (largest r.sizes))
    (fun p => { p with stallUs := sat32 (p.stallUs + 1) }) q) ps

end Sys2Proof.Machine
end

