-- ==== Sys2Proof/Machine/Rows.lean ====
section
/-! DEFINITION. Open rows, die stripes and block stripes of the write scheduler (R60 to R66, R85 to R90,
R103, R104): which places exist, when a page is handed to its die, and when a row and a block stripe end. -/

namespace Sys2Proof.Machine

/-! ## Dies -/

def dieAt (s : State) (ch t : Nat) : Option Die :=
  s.fl.dies.find? fun d => d.channel = ch && d.target = t

/-- Die (`ch`, `t`), changed by `f`. -/
def modDie (ch t : Nat) (f : Die → Die) (s : State) : State :=
  { s with fl := { s.fl with
      dies := modWhere (fun d => d.channel = ch && d.target = t) f s.fl.dies } }

/-- A die of the lane is held under R131 or R134; a retired die holds nothing (R102). -/
def laneHeld (s : State) (lane : Nat) : Bool :=
  (laneDies s lane).any fun e => match dieAt s e.channel e.target with
    | some d => d.held && ! dieRetired s e.channel e.target
    | none => false

/-! ## Headroom (R103, R104) -/

/-- Every block-table entry number of the build. -/
def allEntries (s : State) : List Nat := List.range (groupCount s * blocksOf s)

/-- C_s: cards of every non-retired stacks block stripe at its present width. -/
def stacksCapacity (s : State) : Nat :=
  (allEntries s).foldl (fun a n =>
    if inCarrel s n || (blkAt s n).state = 5 then a
    else a + 4 * pagesOf s n * ((membersNow s n).length - 2)) 0

/-- V: valid host cards in the stacks and the carrel; the system stream's block stripes hold none. -/
def validCards (s : State) : Nat :=
  s.blk.table.foldl (fun a e => if e.2.stream = 3 then a else a + e.2.valid) 0

/-- c_s: cards of one stacks block stripe at full lane width. -/
def fullStripeCards (s : State) : Nat :=
  match geometry s with
  | some g => 4 * (g.pages / 4 * 4) * fld s 0x508
  | none => 1

/-- H, in block stripes (R103). -/
def headroom (s : State) : Nat := (stacksCapacity s - validCards s) / max 1 (fullStripeCards s)

/-- The Preserve floor: 2 block stripes per plane group (R104). -/
def preserveFloor (s : State) : Nat := 2 * groupCount s

/-- H is computed again: on every erase, retirement and open (R103). -/
def newHeadroom (s : State) : State :=
  { s with blk := { s.blk with
      headroom := headroom s, belowBoot := s.blk.belowBoot && decide (headroom s < preserveFloor s) } }

/-! ## Choosing a block stripe (R87, R94, R104, R133) -/

/-- Block stripes kept apart: the reserves of R104 and the Coast block stripes of R170. -/
def keptApart (s : State) (n : Nat) : Bool := s.coast.reserve.contains n || s.coast.stripes.contains n

/-- Cards of one carrel block stripe at full lane width. -/
def carrelStripeCards (s : State) : Nat :=
  match geometry s with
  | some g => 4 * (g.pslcPages / 4 * 4) * fld s 0x508
  | none => 1

/-- Bytes of the transit pools. -/
def transitBytes (s : State) : Nat :=
  (s.pools.pool.take 4).foldl (fun a p => a + 1024 * p.sizeKiB * p.total) 0

/-- Block stripes of the last-write reserve: the first of those kept (R104). -/
def lastWriteCount (s : State) : Nat :=
  ceilDiv (transitBytes s) (4096 * max 1 (carrelStripeCards s)) + 1

/-- The last-write reserve. -/
def lastWrite (s : State) : List Nat := s.coast.reserve.take (lastWriteCount s)

/-- In Preserve a host write lands in the last-write reserve, and at any other time never in a block
stripe kept apart (R104, R105, R170). -/
def hostMayUse (s : State) (n : Nat) : Bool :=
  if s.mode.mode = .preserve then (lastWrite s).contains n else ! keptApart s n

/-- The free block stripes of plane group `g` in a region, those kept apart left out. -/
def freeStripes (s : State) (g : Nat) (carrel : Bool) : List Nat :=
  ((List.range (blocksOf s)).map fun b => g * blocksOf s + b).filter fun n =>
    (blkAt s n).state = 0 && inCarrel s n = carrel && ! keptApart s n

/-- The element of `l` with the smallest `f`, the first among equals. -/
def leastBy (f : Nat → Nat) : List Nat → Option Nat
  | [] => none
  | x :: l => match leastBy f l with
    | none => some x
    | some y => if f y < f x then some y else some x

/-- The element of `l` with the largest `f`, the first among equals. -/
def mostBy (f : Nat → Nat) : List Nat → Option Nat
  | [] => none
  | x :: l => match mostBy f l with
    | none => some x
    | some y => if f x < f y then some y else some x

/-- The free block stripe R87 opens in plane group `g`: lowest ERASES, lower index first. -/
def stripeToOpen (s : State) (g : Nat) (carrel : Bool) : Option Nat :=
  leastBy (fun n => (blkAt s n).erases) (freeStripes s g carrel)

/-- The least number of free block stripes a group must have for `engine` to open one: the last free
stacks block stripe is the weeding engine's (R94). -/
def needFree (carrel : Bool) (engine : Nat) : Nat := if carrel || engine = 2 then 1 else 2

/-- Plane group `g` holds its Coast block stripe, or needs none (R170). -/
def coastStripeHeld (s : State) (g : Nat) : Bool :=
  ! s.coast.armed || s.coast.stripes.any fun n => entryGroup s n = g

/-- The plane group R87 places into: the most free block stripes of the region, lower number first; no
placement goes to a held lane (R133). -/
def groupToUse (s : State) (carrel : Bool) (engine : Nat) : Option Nat :=
  mostBy (fun g => (freeStripes s g carrel).length)
    ((List.range (groupCount s)).filter fun g =>
      decide (needFree carrel engine ≤ (freeStripes s g carrel).length)
        && ! laneHeld s (g / planesOf s)
        && (carrel || engine > 1 || coastStripeHeld s g))

/-- The work-pool buffers of the shelf list of block stripe `n`, as their requester (R90). -/
def listReq (n : Nat) : Requester := .engine (18 + 4 * n)

/-- The buffers of a shelf list, 6 bytes a position (R89, R90). -/
def listSizes (s : State) (n : Nat) : List Nat :=
  transferSizes (ceilDiv (24 * pagesOf s n * ((membersNow s n).length - 2)) 1024)

/-- Block stripe `n` opens for a stream: WIDTH recorded, an empty shelf list, whose work-pool buffers are asked
for (R86, R90). -/
def openStripe (n stream : Nat) (s : State) : State :=
  let t := newHeadroom
    (modBlk n (fun b => { b with
        state := 1, stream := stream, carrel := inCarrel s n, width := (membersNow s n).length,
        exclOpen := b.excluded, rowsUsed := 0, valid := 0, listRows := 0, listPpa := 0,
        examined := 0, forced := false, listCards := [], closedSeq := 0 })
      { s with blk := { s.blk with lists := if stream = 3 then s.blk.lists else mapSet n [] s.blk.lists } })
  if stream = 3 then t else askOnce 1 (listReq n) (listSizes s n) t

/-! ## Rows and their program units -/

def rowAt (s : State) (id : Nat) : Option OpenRow := s.wr.rows.find? fun r => r.id = id

def modRow (id : Nat) (f : OpenRow → OpenRow) (s : State) : State :=
  { s with wr := { s.wr with rows := modWhere (fun r => r.id = id) f s.wr.rows } }

/-- The program unit of a position: a page of a die in the carrel, a word line in the stacks. Units are
numbered 66 × page + data index in the carrel, by data index in the stacks; 64 is P, 65 is Q. -/
def unitOf (carrel : Bool) (k pos : Nat) : Nat :=
  if carrel then 66 * posPage k pos + posData k pos else posData k pos

/-- The page offset and data index (or 64, 65) of a unit. -/
def unitPage (carrel : Bool) (u : Nat) : Option Nat := if carrel then some (u / 66) else none
def unitData (carrel : Bool) (u : Nat) : Nat := if carrel then u % 66 else u

/-- The positions of the row that a data unit holds. -/
def unitCells (carrel : Bool) (k u : Nat) : List Nat :=
  (List.range (16 * k)).filter fun p => unitOf carrel k p = u

/-- The units of a whole row. -/
def rowUnits (carrel : Bool) (k : Nat) : List Nat :=
  let one := List.range k ++ [64, 65]
  if carrel then (List.range 4).flatMap fun p => one.map fun j => 66 * p + j else one

/-- The PPA of position `pos` of an open row. -/
def rowPpa (s : State) (r : OpenRow) (pos : Nat) : Ppa :=
  posPpa s r.entry (pos + 4 * dataWidth s r.entry * r.page)

/-- A stacks program counts in the present window of 64 of its plane group: all, those of weeding and of forced victims,
and of them those of rotation (R93, R98). -/
def countProgram (r : OpenRow) (s : State) : State :=
  if inCarrel s r.entry then s
  else
    let g := entryGroup s r.entry
    let old := mapAt (0, 0, 0) g s.blk.credits
    let now := if 64 ≤ old.1 then (0, 0, 0) else old
    let weed := if 2 ≤ r.engine && r.engine ≤ 4 then 1 else 0
    let rot := if r.engine = 3 then 1 else 0
    { s with blk := { s.blk with
        credits := mapSet g (now.1 + 1, now.2.1 + weed, now.2.2 + rot) s.blk.credits } }

/-- The stacks row of a queued program, with whether fold filled it. -/
def foldedRow (s : State) (p : ProgReq) : Option (Bool × Nat) :=
  match rowAt s p.row with
  | some r => if r.engine ≤ 1 && ! inCarrel s r.entry then some (decide (r.engine = 1), r.entry) else none
  | none => none

/-- A stacks program of fold or of the host joins a queue behind the programs of its own kind, one of the other kind
before each: the two share the stacks programs equally while carrel overflow is on (R76, R122). It passes no program of
its own block stripe. -/
def fairInsert (s : State) (x : ProgReq) (fold : Bool) (entry : Nat) (q : List ProgReq) : List ProgReq :=
  let kind := fun (k : Bool) => (q.filter fun p => (foldedRow s p).any fun y => y.1 = k).length
  let free := (q.reverse.takeWhile fun p => (foldedRow s p).any fun y => y.1 != fold && y.2 != entry).length
  let keep := q.length - min free (kind (! fold) - kind fold - 1)
  q.take keep ++ x :: q.drop keep

/-- Unit `u` of the row goes to the program queue of its die. -/
def queueUnit (r : OpenRow) (u : Nat) (s0 : State) : State :=
  match unitDie s0 r.entry (unitData (inCarrel s0 r.entry) u) with
  | none => s0
  | some d =>
    let s := countProgram r s0
    let p : ProgReq := { row := r.id, unit := u, page := unitPage (inCarrel s r.entry) u,
                         system := r.stream = 3, coast := false, atUs := s.clock.us }
    modDie d.channel d.target
      (fun x => { x with progQ := match (if s.wr.overflow then foldedRow s p else none) with
        | some (fold, n) => fairInsert s p fold n x.progQ
        | none => x.progQ ++ [p] })
      (modRow r.id (fun x => { x with queued := x.queued ++ [u] }) s)

/-- A data unit all of whose places are filled, and that is not with its die yet. -/
def unitReady (carrel : Bool) (k : Nat) (r : OpenRow) (u : Nat) : Bool :=
  ! r.queued.contains u && (unitCells carrel k u).all fun p => r.filled.contains p

/-- Every data page of the die stripe (of the row, in the stacks) is with its die, so that P and Q are
complete. -/
def parityReady (k : Nat) (r : OpenRow) (base : Nat) : Bool :=
  ! r.queued.contains (base + 64) && (List.range k).all fun j => r.queued.contains (base + j)

/-- Every unit of the row that is complete goes to its die (R63, R64). -/
def queueReady (id : Nat) (s : State) : State :=
  match rowAt s id with
  | none => s
  | some r =>
    let c := inCarrel s r.entry
    let k := dataWidth s r.entry
    let s1 := ((rowUnits c k).filter fun u => unitData c u < 64 && unitReady c k r u).foldl
      (fun t u => queueUnit r u t) s
    match rowAt s1 id with
    | none => s1
    | some r1 =>
      ((if c then [0, 66, 132, 198] else [0]).filter fun b => parityReady k r1 b).foldl
        (fun t b => queueUnit r1 (b + 65) (queueUnit r1 (b + 64) t)) s1

/-- Places of a row that hold no card yet. -/
def freeCells (s : State) (r : OpenRow) : List Nat :=
  (List.range (16 * dataWidth s r.entry)).filter fun p => ! r.filled.contains p

/-- The positions of data index `j` of a row, card i of a run at element i: pages 0 to 3, SLOT 0 to 3
(R27). -/
def runCells (k j : Nat) : List Nat :=
  (List.range 16).map fun i => posOf k (i / 4) j (i % 4)

/-- Data indexes of a row whose 16 places are all free. -/
def freeRuns (s : State) (r : OpenRow) : List Nat :=
  (List.range (dataWidth s r.entry)).filter fun j =>
    (runCells (dataWidth s r.entry) j).all fun p => ! r.filled.contains p

/-- Places are filled; the row's units that are now complete go to their dies. -/
def fillCells (id : Nat) (cells : List Nat) (s : State) : State :=
  queueReady id (modRow id (fun r => { r with filled := r.filled ++ cells }) s)

/-- The places of `cells` that hold no card take PAD cards (R65). -/
def padCells (id : Nat) (cells : List Nat) (s : State) : State :=
  match rowAt s id with
  | none => s
  | some r => fillCells id (cells.filter fun p => ! r.filled.contains p) s

/-- A row is filled with PAD cards and closed (R65, R70). -/
def sealRow (id : Nat) (s : State) : State :=
  match rowAt s id with
  | none => s
  | some r =>
    modRow id (fun x => { x with sealed := true }) (padCells id (freeCells s r) s)

/-! ## The Ledger's cards (R66) -/

/-- Page indexes of an extent: L = min(128, ⌊4,096 ÷ k⌋) (R66). -/
def extentPages (k : Nat) : Nat := min 128 (4096 / max 1 k)

/-- The first page of block stripe `n` past the extents that tile it; 0 when it holds none (R66). -/
def extentEnd (s : State) (n : Nat) : Nat :=
  let l := max 1 (extentPages (dataWidth s n))
  pagesOf s n / l * l

/-- The block stripe of an extent. -/
def extentEntry (s : State) (p : Ppa) : Nat := (ppaEntry s p).getD 0

/-- Cards of the extent whose card 0 lies at `p`. -/
def extentCards (s : State) (p : Ppa) : Nat :=
  let k := dataWidth s (extentEntry s p)
  4 * k * extentPages k

/-- The PPA of card `n` of the extent whose card 0 lies at `p` (R66). -/
def extentCard (s : State) (p : Ppa) (n : Nat) : Ppa :=
  let e := extentEntry s p
  posPpa s e (n + 4 * dataWidth s e * ppaPage p)

/-- The extent that holds sequence number `seq`: its first number and card 0. -/
def extentOf (s : State) (seq : Nat) : Option (Nat × Ppa) :=
  (s.led.extents.filter fun e => decide (e.1 ≤ seq)).getLast?

/-- The PPA of the Ledger card that holds sequence number `seq`. -/
def ledgerCard (s : State) (seq : Nat) : Ppa :=
  match extentOf s seq with
  | some (start, p) => extentCard s p ((seq - start) / 128)
  | none => 0

/-! ## The Coast load of a die (R169, R170) -/

/-- Coast allowance A: programs that Coast can do on a die. -/
def coastAllowance (s : State) : Nat :=
  match geometry s with
  | some g => 2400 / max 1 g.tProgPslc - 1
  | none => 0

/-- The program unit (data index, 64 or 65) that block stripe `n` has on die `e`. -/
def unitOn (s : State) (n : Nat) (e : LaneEntry) : Option Nat :=
  match firstNat (fun i => (members s n)[i]? = some e) (members s n).length 0 with
  | none => none
  | some i =>
    if i = pSlot s n then some 64 else if i = qSlot s n then some 65 else indexIn i (dataSlots s n)

/-- Page offset `p` of an open carrel row holds a card, and its page on die `e` is not with the die. -/
def sealDue (s : State) (e : LaneEntry) (r : OpenRow) (p : Nat) : Bool :=
  inCarrel s r.entry && r.filled.any (fun x => posPage (dataWidth s r.entry) x = p) &&
    match unitOn s r.entry e with
    | some u => ! r.queued.contains (66 * p + u)
    | none => false

/-- The open carrel pages of die `e`, oldest row first: row and page offset. -/
def openPages (s : State) (e : LaneEntry) : List (OpenRow × Nat) :=
  (s.wr.rows.filter fun r => entryLane s r.entry = e.lane).flatMap fun r =>
    ([0, 1, 2, 3].filter fun p => sealDue s e r p).map fun p => (r, p)

/-- The block stripes of the host cards of unprogrammed stacks rows, card by card: step 2 of Coast would place these
again, with one CARD_MOVE each. -/
def stacksHost (s : State) : List Nat :=
  (s.wr.transit.filter fun c => ! c.pageDone && c.move.isNone).filterMap fun c =>
    (ppaEntry s c.ppa).filter fun n => ! inCarrel s n

/-- Those of a lane. -/
def stacksHostCards (s : State) (lane : Nat) : Nat :=
  ((stacksHost s).filter fun n => entryLane s n = lane).length

/-- The Coast block stripes of a lane, in order. -/
def coastOf (s : State) (lane : Nat) : List Nat :=
  sortBy (fun a b => decide (a < b)) (s.coast.stripes.filter fun n => entryLane s n = lane)

/-- Page indexes of the Coast block stripes of a lane that `cards` cards fill, each stripe taking the four cards of a
page for every data block it has (R170). -/
def coastPages (s : State) (lane cards : Nat) : Nat :=
  ceilDiv cards (max 1 (((coastOf s lane).map fun n => 4 * dataWidth s n).foldl (· + ·) 0))


/-- The PPA of the Ledger card of number `seq`, past the end of the current extent in the next one (R66, R168). -/
def ledgerAhead (s : State) (seq : Nat) : Ppa :=
  let here := extentCards s s.led.extentPpa
  let i := (seq - s.led.extentSeq) / 128
  if s.led.extentSeq ≤ seq && here ≤ i && s.led.nextExtent != 0 then extentCard s s.led.nextExtent (i - here)
  else ledgerCard s seq

/-- PPAs of the Ledger cards that are not programmed yet, the open one with them, once `more` records are appended. -/
def ledgerOpenPpas (s : State) (more : Nat) : List Ppa :=
  let first := match s.led.region with | [] => s.led.nextSeq | r :: _ => r.seq
  if s.led.region.isEmpty && more = 0 then []
  else (List.range ((s.led.nextSeq + more - 1) / 128 + 1 - first / 128)).map fun i =>
    ledgerAhead s (128 * (first / 128 + i))

/-- Cards that a flush of `n` records takes: whole pages of four cards (R390). -/
def flushCards (n : Nat) : Nat := 4 * ceilDiv (ceilDiv n dayPerCard) 4

/-- PPAs of the Daybook cards that Coast would write into the Daybook reserve, the last of the kept
reserves. -/
def dayOpenPpas (s : State) : List Ppa :=
  match s.coast.reserve.getLast? with
  | none => []
  | some n => (List.range (ceilDiv s.day.buffer.length dayPerCard)).map fun i => posPpa s n i

/-- The pages that Coast would program on die `e`, as (page index, plane, block), with `extra` more host cards in stacks
rows of lane `lane`: open carrel pages, pages of the Coast block stripes, Ledger and Daybook pages (R169). -/
def coastTodo (s : State) (e : LaneEntry) (lane extra : Nat) : List (Nat × Nat × Nat) :=
  let ofCards := fun (l : List Ppa) =>
    (l.filter fun p => ppaChannel p = e.channel && ppaTarget p = e.target).map fun p =>
      (ppaPage p, ppaPlane p, ppaBlock p)
  let place := fun (n page : Nat) => (page, entryPlane s n, entryBlock s n)
  let pages := coastPages s e.lane (stacksHostCards s e.lane + if lane = e.lane then extra else 0)
  (((openPages s e).map fun x => place x.1.entry (x.1.page + x.2))
    ++ (((coastOf s e.lane).filter fun n => (unitOn s n e).isSome).flatMap fun n =>
      (List.range pages).map fun p => place n p)
    ++ ofCards (ledgerOpenPpas s ((stacksHost s).length + extra)) ++ ofCards (dayOpenPpas s)).eraseDups

/-- Program operations for such pages: those of one page index on several planes are one, those of one plane are
not. -/
def opsOf (l : List (Nat × Nat × Nat)) : Nat :=
  ((l.map fun x => x.1).eraseDups.map fun i =>
    ((l.filter fun x => x.1 = i).map fun y => (l.filter fun x => x.1 = i && x.2.1 = y.2.1).length).foldl max 0).foldl
      (· + ·) 0

/-- The Coast load of die `e` with `extra` more host cards in stacks rows of lane `lane` (R169). -/
def coastLoad (s : State) (e : LaneEntry) (lane extra : Nat) : Nat := opsOf (coastTodo s e lane extra)

/-- The dies of a lane, and those that the Ledger cards of its cards' CARD_MOVE records fall on. -/
def loadedDies (s : State) (lane extra : Nat) : List LaneEntry :=
  laneDies s lane ++ ((ledgerOpenPpas s ((stacksHost s).length + extra)).filterMap fun p =>
    laneOf s (ppaChannel p) (ppaTarget p)).eraseDups

/-- The first of these dies whose Coast load would be above A. -/
def overLoaded (s : State) (lane extra : Nat) : Option LaneEntry :=
  (loadedDies s lane extra).find? fun e => decide (coastAllowance s < coastLoad s e lane extra)

/-- The oldest open carrel page of die `e` is filled with PAD cards, or its die stripe when that page is
the P or Q page (R169); none when the die has no open carrel page. -/
def easeDie (e : LaneEntry) (s : State) : Option State :=
  match openPages s e with
  | [] => none
  | (r, p) :: _ =>
    let k := dataWidth s r.entry
    let cells := (List.range (16 * k)).filter fun x => posPage k x = p
    match unitOn s r.entry e with
    | none => none
    | some u =>
      some (padCells r.id (if u < 64 then cells.filter (fun x => posData k x = u) else cells) s)

/-! ## Opening a row (R64, R82, R87) -/

/-- An open block stripe of the stream that has another row. -/
def stripeHasRow (s : State) (stream : Nat) (carrel : Bool) (engine : Nat) (n : Nat) : Bool :=
  (blkAt s n).state = 1 && (blkAt s n).stream = stream && inCarrel s n = carrel
    && decide (4 * (blkAt s n).rowsUsed + 4 ≤ pagesOf s n) && ! laneHeld s (entryLane s n)
    && (engine != 0 || hostMayUse s n) && (engine = 3 || ! s.blk.victims.any fun v => v.dest = some n)
    && (carrel || engine > 1 || coastStripeHeld s (entryGroup s n))

/-- The open block stripes of a stream that have another row. -/
def stripesWithRow (s : State) (stream : Nat) (carrel : Bool) (engine : Nat) : List Nat :=
  (s.blk.table.map fun e => e.1).filter fun n => stripeHasRow s stream carrel engine n

/-- Block stripe `n` holds Ledger extents. -/
def holdsExtents (s : State) (n : Nat) : Bool :=
  (s.led.nextExtent != 0 && extentEntry s s.led.nextExtent = n) || s.led.extents.any fun e => extentEntry s e.2 = n

/-- The next row of block stripe `n` opens with its pool 3 buffer; nothing opens past the open-row limit,
without a buffer, or while the work-pool buffers of its shelf list are waited for (R64, R90). The pages of the row that
the last extent takes are no places of it (R66). -/
def openRowIn (n stream engine : Nat) (s : State) : Option State :=
  if (s.wr.rows.filter fun r => r.buffer.isSome).length ≥ fld s 0x510 || waits (listReq n) s then none
  else match rowBuffer s with
    | none => none
    | some (p, a, ps) =>
      let k := dataWidth s n
      let taken := if holdsExtents s n then extentEnd s n - 4 * (blkAt s n).rowsUsed else 0
      let units := (rowUnits (inCarrel s n) k).filter fun u => match unitPage (inCarrel s n) u with
        | some p => decide (p < taken)
        | none => false
      let r : OpenRow :=
        { id := s.wr.nextRow, entry := n, page := 4 * (blkAt s n).rowsUsed, stream := stream,
          filled := if taken = 0 then [] else (List.range (16 * k)).filter fun x => decide (posPage k x < taken)
          sealed := false, queued := units, ended := units, buffer := some (p, a),
          engine := engine }
      let s1 : State := { s with
        pools := ps
        wr := { s.wr with rows := s.wr.rows ++ [r], nextRow := s.wr.nextRow + 1 } }
      some (modBlk n (fun b => { b with rowsUsed := b.rowsUsed + 1 }) s1)

/-- A new row for a stream: in an open block stripe of the stream that has one, else in the block stripe
R87 opens, in plane group `group` when one is given. -/
def openRowFor (stream : Nat) (carrel : Bool) (engine : Nat) (group : Option Nat) (s : State) :
    Option State :=
  let near := (stripesWithRow s stream carrel engine).filter fun n =>
    match group with
    | none => true
    | some g => entryGroup s n = g
  match near with
  | n :: _ => openRowIn n stream engine s
  | [] =>
    if engine = 0 && carrel && s.mode.mode = .preserve then
      match leastBy (fun n => (blkAt s n).erases)
          ((lastWrite s).filter fun n => (blkAt s n).state = 0 && ! laneHeld s (entryLane s n)) with
      | some n => openRowIn n stream engine (openStripe n stream s)
      | none => none
    else
    let g? := match group with
      | some g => if (freeStripes s g carrel).length ≥ needFree carrel engine && ! laneHeld s (g / planesOf s)
          then some g else none
      | none => groupToUse s carrel engine
    match g? with
    | none => none
    | some g => match stripeToOpen s g carrel with
      | none => none
      | some n => openRowIn n stream engine (openStripe n stream s)

/-- The open rows of a stream with `room` free places (a whole data index for a run). -/
def rowsWithRoom (s : State) (stream : Nat) (carrel : Bool) (engine : Nat) (group : Option Nat)
    (run : Bool) : List OpenRow :=
  s.wr.rows.filter fun r =>
    ! r.sealed && r.stream = stream && inCarrel s r.entry = carrel
      && (engine = r.engine || (engine ≤ 1 && r.engine ≤ 1)) && (engine != 0 || hostMayUse s r.entry)
      && (match group with | none => true | some g => entryGroup s r.entry = g)
      && ! laneHeld s (entryLane s r.entry)
      && (carrel || engine > 1 || coastStripeHeld s (entryGroup s r.entry))
      && (if run then ! (freeRuns s r).isEmpty else ! (freeCells s r).isEmpty)

/-- The open choices of one event: with `fresh` the first card or run placed takes a new row (a choice past
the number of open rows), and `picks` serves the ones after it. -/
def choices (fresh : Bool) (picks : List Nat) (s : State) : List Nat :=
  if fresh then s.wr.rows.length :: picks else picks

/-- The row and places for one card (16 of them for a run): `pick` chooses among the open rows with
room, and past their number a new row; none when no row can be had (R64, R76, R94). -/
def chooseCells (stream : Nat) (carrel : Bool) (engine : Nat) (group : Option Nat) (run : Bool)
    (pick : Nat) (s : State) : Option (OpenRow × List Nat × State) :=
  let rows := rowsWithRoom s stream carrel engine group run
  let opened : Option (OpenRow × State) :=
    match openRowFor stream carrel engine group s with
    | none => none
    | some t => match rowAt t s.wr.nextRow with
      | none => none
      | some r => some (r, t)
  let chosen : Option (OpenRow × State) :=
    match rows[pick]? with
    | some r => some (r, s)
    | none => match opened with
      | some x => some x
      | none => match rows with
        | r :: _ => some (r, s)
        | [] => none
  match chosen with
  | none => none
  | some (r, t) =>
    let k := dataWidth t r.entry
    let cells := if run then (match freeRuns t r with | j :: _ => runCells k j | [] => [])
      else (freeCells t r).take 1
    some (r, cells, t)

/-- Places for a card or a run that keep every die's Coast load at or below A: open carrel pages of a die
that would exceed it are filled first; none when the placement has to wait (R169). -/
def takeWithin (stream : Nat) (carrel : Bool) (engine : Nat) (group : Option Nat) (run : Bool)
    (pick : Nat) : Nat → State → Option (OpenRow × List Nat × State)
  | 0, _ => none
  | fuel + 1, s => match chooseCells stream carrel engine group run pick s with
    | none => none
    | some (r, cells, t) =>
      let lane := entryLane t r.entry
      let filled := modRow r.id (fun x => { x with filled := x.filled ++ cells }) t
      match overLoaded filled lane (if engine = 0 && ! carrel then cells.length else 0) with
      | none => some (r, cells, t)
      | some e => match easeDie e t with
        | none => none
        | some t' => takeWithin stream carrel engine group run pick fuel t'

/-- The row and places for one card (16 of them for a run). -/
def takeCells (stream : Nat) (carrel : Bool) (engine : Nat) (group : Option Nat) (run : Bool)
    (pick : Nat) (s : State) : Option (OpenRow × List Nat × State) :=
  takeWithin stream carrel engine group run pick (4 * s.wr.rows.length + 8) s

/-! ## The ends of programs, rows and block stripes -/

/-- A group of transit buffers, as a requester of the pools. -/
def groupReq (g : Nat) : Requester := .engine (16 + 4 * g)

/-- The groups whose buffers are held. -/
def heldGroups (s : State) : List Nat :=
  (s.pools.held.filterMap fun h => match h.1 with
    | .engine n => if 16 ≤ n && n % 4 = 0 then some ((n - 16) / 4) else none
    | _ => none).eraseDups

/-- Programmed cards of a row that a move engine copied and whose move records are still to come (R78). -/
def moveCards (s : State) (r : OpenRow) : List TransitCard :=
  let all := (List.range (16 * dataWidth s r.entry)).map fun p => rowPpa s r p
  s.wr.transit.filter fun c => c.move.isSome && c.pageDone && all.contains c.ppa

/-- Shelf-list entries (position of the row, shelf, card) of block stripe `n` (R89). -/
def noteList (r : OpenRow) (l : List (Nat × Nat × Nat)) (s : State) : State :=
  let base := 4 * dataWidth s r.entry * r.page
  { s with blk := { s.blk with
      lists := mapSet r.entry ((mapAt [] r.entry s.blk.lists) ++ l.map fun x => (base + x.1, x.2))
        s.blk.lists } }

/-- The group of the buffer of a write that card `c` of its namespace lies in. A Write Zeroes with DEAC holds one
buffer for each card it covers in part; any other write one for each 256 KiB (R58); a card whose data lies in two of
them counts with the one that holds its first sector (DESIGN CHOICE, log entry 154). -/
def cardGroup (n : Namespace) (x : Cmd) (c : Nat) : Nat :=
  let first := firstSector n x.e
  let count := sectorCount n x.e
  x.group + if x.e.opcode = 0x08 && deacOf x.e then
      (indexIn c ((cardsOf first count).filter fun y => ! wholeCard first count y)).getD 0
    else (8 * c - first) / 512

/-- A command still has a card to place from a buffer of group `g`. -/
def groupWanted (s : State) (g : Nat) : Bool :=
  s.nv.cmds.any fun x => ! x.want.isEmpty && x.group != 0 && match nsAt s x.e.nsid with
    | none => false
    | some n => (cardsOf (firstSector n x.e) (sectorCount n x.e)).any fun c =>
        (match n.spanned, cardPlace n c with
          | none, some w => x.want.contains w
          | _, _ => false) && decide (cardGroup n x c = g)

/-- Transit cards whose programs have all ended leave; a buffer goes back with its last card, once its write has no
card left to place from it (R64). -/
def freeTransit (s : State) : State :=
  let left := s.wr.transit.filter fun c => ! (c.pageDone && c.parLeft = 0 && c.move.isNone)
  let s1 : State := { s with wr := { s.wr with transit := left } }
  (heldGroups s).foldl (fun t g =>
    if left.any (fun c => c.group = g) || groupWanted s g then t else freeAllOf (groupReq g) t) s1

/-- A row frees its pool 3 buffer (R64). -/
def dropRowBuffer (r : OpenRow) (s : State) : State :=
  match r.buffer with
  | some (p, a) => freeBuffer p a (modRow r.id (fun x => { x with buffer := none }) s)
  | none => s

/-- A row all of whose programs have ended leaves; one whose cards still wait for their move records stays until then
(R64, R78). -/
def endRow (r : OpenRow) (s : State) : State :=
  let s1 := dropRowBuffer r s
  if (moveCards s1 r).isEmpty then
    { s1 with wr := { s1.wr with rows := s1.wr.rows.filter fun x => x.id != r.id } }
  else s1

/-- A PAD card of a stream (Table 3.2). -/
def padCard (stream : Nat) : Stored :=
  { data := [0, 0, 0, 0, 0, 0, 0, 0]
    md := { accession := 0, nsid := 0, lba := 0, age := 0, stream := stream, plain := true, pad := true,
            fox := false, keyGen := 0 } }

/-- The card that the program of `ppa` leaves on flash: the transit card placed there, that of a page whose program has
ended, or PAD. -/
def cardFor (s : State) (stream : Nat) (ppa : Ppa) : Stored :=
  match s.wr.transit.find? fun c => c.ppa = ppa with
  | some c => c.card4k
  | none => (mapGet ppa.toNat s.wr.flash).getD (padCard stream)

/-- The metadata of a card as a number whose bytes P and Q run over (R63): its fields, and the model's own key id. -/
def packMeta (m : CardMeta) : Nat :=
  m.accession % 2 ^ 64 + 2 ^ 64 * (m.nsid % 2 ^ 32) + 2 ^ 96 * (m.lba % 2 ^ 64) + 2 ^ 160 * (m.age % 2 ^ 8)
    + 2 ^ 168 * (m.stream % 2 ^ 8) + 2 ^ 176 * ((if m.plain then 1 else 0) + (if m.pad then 2 else 0)
    + if m.fox then 4 else 0) + 2 ^ 184 * m.keyGen

/-- The metadata that such a number spells. -/
def unpackMeta (n : Nat) : CardMeta :=
  { accession := n % 2 ^ 64, nsid := n / 2 ^ 64 % 2 ^ 32, lba := n / 2 ^ 96 % 2 ^ 64, age := n / 2 ^ 160 % 2 ^ 8
    stream := n / 2 ^ 168 % 2 ^ 8, plain := n.testBit 176, pad := n.testBit 177, fox := n.testBit 178
    keyGen := n / 2 ^ 184 }

/-- P (or Q) over the payloads of a die stripe's data cards, in data-index order: card and metadata (R63). -/
def parityOf (q : Bool) (l : List Stored) : List Nat × Nat :=
  let f := if q then parityQ else parityP
  (f (l.map fun x => x.data), natAt (f (l.map fun x => [packMeta x.md])) 0)

/-- The P or Q page of page index `page` of block stripe `n` is on flash, its four codewords over the data pages of that
die stripe (R63). -/
def parityPage (n stream : Nat) (q : Bool) (page : Nat) (s : State) : State :=
  match unitDie s n (if q then 65 else 64) with
  | none => s
  | some d => [0, 1, 2, 3].foldl (fun t sl =>
      let k := dataWidth s n
      let cards := (List.range k).map fun j => cardFor s stream (posPpa s n (posOf k page j sl))
      let ppa := mkPpa d.channel d.target (entryPlane s n) (entryBlock s n) page sl
      { t with wr := { t.wr with parity := mapSet ppa.toNat (parityOf q cards) t.wr.parity } }) s

/-- The P or Q page of page offset `p` of a row is on flash (R63). -/
def storeParity (r : OpenRow) (q : Bool) (p : Nat) (s : State) : State :=
  parityPage r.entry r.stream q (r.page + p) s

/-- Once every card of the die stripe that a Ledger or Daybook card at `ppa` lies in is on flash, so are its P and Q
pages (R63). -/
def systemParity (ppa : Ppa) (s : State) : State :=
  match ppaEntry s ppa with
  | none => s
  | some n =>
    let k := dataWidth s n
    let cells := (List.range (4 * k)).map fun i => posPpa s n (posOf k (ppaPage ppa) 0 0 + i)
    if cells.all fun p => (mapGet p.toNat s.wr.flash).isSome then
      parityPage n 3 true (ppaPage ppa) (parityPage n 3 false (ppaPage ppa) s)
    else s

/-- The cards of a unit are on flash, and the map may read them there (R41); a P or Q unit holds the parity of its page,
or of the four pages of its word line. -/
def storeUnit (r : OpenRow) (u : Nat) (s : State) : State :=
  let c := inCarrel s r.entry
  if 64 ≤ unitData c u then
    (match unitPage c u with
      | some p => [p]
      | none => [0, 1, 2, 3]).foldl (fun t p => storeParity r (unitData c u = 65) p t) s
  else (unitCells c (dataWidth s r.entry) u).foldl (fun t p =>
    let ppa := rowPpa s r p
    { t with wr := { t.wr with
        flash := mapSet ppa.toNat (cardFor s r.stream ppa) t.wr.flash } }) s

/-- The transit cards of the row that a data unit holds. -/
def unitPpas (s : State) (r : OpenRow) (u : Nat) : List Ppa :=
  (unitCells (inCarrel s r.entry) (dataWidth s r.entry) u).map fun p => rowPpa s r p

/-- The PPAs of the die stripe (of the row, in the stacks) that a P or Q unit covers. -/
def parityPpas (s : State) (r : OpenRow) (u : Nat) : List Ppa :=
  ((List.range (16 * dataWidth s r.entry)).filter fun p =>
    ! inCarrel s r.entry || posPage (dataWidth s r.entry) p = u / 66).map fun p => rowPpa s r p

/-- The end of a unit's program as R64 counts it; the cards of a data page whose program failed keep their transit
copies for the place they take next (R64, R149). -/
def endUnit (r : OpenRow) (u : Nat) (ok : Bool) (s : State) : State :=
  let c := inCarrel s r.entry
  let s1 : State :=
    if unitData c u < 64 then
      if ! ok then s else
      { s with wr := { s.wr with
          transit := modWhere (fun x => (unitPpas s r u).contains x.ppa)
            (fun x => { x with pageDone := true }) s.wr.transit } }
    else
      { s with wr := { s.wr with
          transit := modWhere (fun x => (parityPpas s r u).contains x.ppa)
            (fun x => { x with parLeft := x.parLeft - 1 }) s.wr.transit } }
  modRow r.id (fun x => { x with ended := x.ended ++ [u] }) s1

/-- Every unit of the row has ended. -/
def rowDone (s : State) (r : OpenRow) : Bool :=
  (rowUnits (inCarrel s r.entry) (dataWidth s r.entry)).all fun u => r.ended.contains u

/-- A card of the system stream (a Catalogue page, segment, shelf list, Ledger or Daybook card): namespace 0,
accession number 0, not encrypted, its shelfmark seeded with its own PPA (R35). -/
def systemCard (ppa : Ppa) (data : List Nat) : Stored :=
  { data := data
    md := { accession := 0, nsid := 0, lba := ppa.toNat, age := 0, stream := 3, plain := true,
            pad := false, fox := false, keyGen := 0 } }

/-- A system card in transit; it lies in no transit buffer of a command. -/
def systemTransit (ppa : Ppa) (data : List Nat) : TransitCard :=
  { ppa := ppa, nsid := 0, shelf := 0, card := 0, owner := none, group := 0, card4k := systemCard ppa data,
    isAcked := false, pageDone := false, parLeft := 2, foxFlag := false, move := none, run := false }

/-- A system card takes a place. -/
def placeSystem (pick : Nat) (data : List Nat) (s : State) : Option (Ppa × State) :=
  match takeCells 3 true 5 none false pick s with
  | none => none
  | some (r, cells, t) => match cells with
    | [] => none
    | p :: _ =>
      let ppa := rowPpa t r p
      let t1 : State := { t with wr := { t.wr with transit := t.wr.transit ++ [systemTransit ppa data] } }
      some (ppa, fillCells r.id [p] t1)

/-- System cards in a row: their PPAs; none when one has no place. -/
def placeSystems : List (List Nat) → State → Option (List Ppa × State)
  | [], s => some ([], s)
  | data :: l, s => match placeSystem 0 data s with
    | none => none
    | some (ppa, t) => (placeSystems l t).map fun x => (ppa :: x.1, x.2)

/-- The cards of a shelf list of `cells` positions of block stripe `n`: 682 entries to a card (R89). -/
def listCards (s : State) (n cells : Nat) : List (List Nat) :=
  (List.range (ceilDiv cells 682)).map fun i => listData (mapAt [] n s.blk.lists) cells i

/-- Operating time in minutes, modulo 2^24 (Table 4.1). -/
def nowMin (s : State) : Nat := s.clock.opMs / 60000 % 16777216

/-- The shelf list of full block stripe `n` is written, and its work-pool buffers go back; while its cards have no
place it waits (R90). -/
def placeList (n : Nat) (s : State) : State :=
  let cards := listCards s n (stripeCards s n)
  match placeSystems cards s with
  | none => stallRow cards.length (fun t => (placeSystems cards t).isSome) { s with blk := { s.blk with
      listsDue := if s.blk.listsDue.contains n then s.blk.listsDue else s.blk.listsDue ++ [n] } }
  | some (ppas, t) =>
    freeAllOf (listReq n) (dropWait (listReq n)
      (modBlk n (fun b => { b with listPpa := ppas.headD 0, listCards := ppas })
        { t with blk := { t.blk with listsDue := t.blk.listsDue.filter fun x => x != n } }))

/-- A block stripe becomes full: CLOSED is set, and its shelf list is written (R86, R90). -/
def closeStripe (n : Nat) (s : State) : State :=
  if (blkAt s n).state != 1 then s
  else
    let s1 := modBlk n (fun b => { b with state := 2, closed := nowMin s, listRows := 0, closedSeq := s.led.nextSeq }) s
    if (blkAt s n).stream = 3 then s1 else placeList n s1

/-- The shelf lists that wait are tried again. -/
def retryLists (s : State) : State := s.blk.listsDue.foldl (fun t n => placeList n t) s

/-- The programs of the row's P and Q pages have ended. -/
def parityDone (s : State) (r : OpenRow) : Bool :=
  ((rowUnits (inCarrel s r.entry) (dataWidth s r.entry)).filter fun u => decide (64 ≤ unitData (inCarrel s r.entry) u)).all
    fun u => r.ended.contains u

/-- After a unit ended: the row's buffer goes back with its last P or Q page, the row leaves when it was the last unit,
and the last row of a block stripe makes it full (R64, R86). -/
def settleRow (id : Nat) (s : State) : State :=
  match rowAt s id with
  | none => s
  | some r =>
    if rowDone s r then
      let s1 := endRow r s
      if 4 * (blkAt s1 r.entry).rowsUsed + 4 > pagesOf s1 r.entry
          && ! s1.wr.rows.any (fun x => x.entry = r.entry && ! rowDone s1 x) then closeStripe r.entry s1 else s1
    else if parityDone s r then dropRowBuffer r s else s

/-- Carrel block stripes, and those that are not free (R75). -/
def carrelTotal (s : State) : Nat := groupCount s * fld s 0x50C
def carrelUsed (s : State) : Nat :=
  (s.blk.table.filter fun e => inCarrel s e.1 && e.2.state != 0).length

/-- Carrel fill reaches `pct` percent. -/
def fillAtLeast (s : State) (pct : Nat) : Bool := decide (pct * carrelTotal s ≤ 100 * carrelUsed s)

/-- Carrel fill is at or below `pct` percent. -/
def fillAtMost (s : State) (pct : Nat) : Bool := decide (100 * carrelUsed s ≤ pct * carrelTotal s)

end Sys2Proof.Machine
end

