-- ==== Sys2Proof/Machine/Reads.lean ====
section
/-! DEFINITION. Reads of cards (R41, R120, R121, R131, R133, R143): where a card stands, the dies that can be read,
their read queues, and the reads that are under way. -/

namespace Sys2Proof.Machine

/-! ## Where a card stands (R41) -/

/-- The transit copy of the card placed at `ppa` (R41). -/
def transitAt (s : State) (ppa : Ppa) : Option TransitCard := s.wr.transit.find? fun c => c.ppa = ppa

/-- The card at `ppa`, from transit or from flash. -/
def cardAt (s : State) (ppa : Ppa) : Option Stored :=
  match transitAt s ppa with
  | some c => some c.card4k
  | none => mapGet ppa.toNat s.wr.flash

/-! ## Dies that can be read -/

def chanAt (s : State) (ch : Nat) : Option Channel := mapGet ch s.fl.chans

def modChan (ch : Nat) (f : Channel → Channel) (s : State) : State :=
  match chanAt s ch with
  | none => s
  | some c => { s with fl := { s.fl with chans := mapSet ch (f c) s.fl.chans } }

/-- The die is fitted, not retired and not held. -/
def dieServes (s : State) (ch t : Nat) : Bool :=
  match chanAt s ch, dieAt s ch t with
  | some c, some d => c.inForce.present.getLsbD t && ! c.inForce.retired.getLsbD t && ! d.held && ! c.held
  | _, _ => false

/-- The position of a PPA has been excluded since its block stripe was written (R143). -/
def excludedSince (s : State) (p : Ppa) : Bool :=
  match ppaEntry s p, laneOf s (ppaChannel p) (ppaTarget p) with
  | some n, some e => (blkAt s n).excluded.getLsbD e.slot
  | _, _ => true

/-- A read of the escalation engine (R141). -/
def isLadder : ReadFor → Bool
  | .ladder _ => true
  | .comp _ => true
  | _ => false

/-- A request of a move engine. -/
def isMove : ReadFor → Bool
  | .move _ => true
  | _ => false

/-- A decoder gives up on a codeword; it enters the escalation engine at `step`. A move engine goes on without the
card (R79). -/
def failWord (p : Ppa) (step cls : Nat) (why : List ReadFor) (decoded : Bool) (s : State) : State :=
  let t : State :=
    if (why.any fun y => isMove y) && ! s.wr.handed.contains p then
      { s with wr := { s.wr with handed := s.wr.handed ++ [p] } }
    else s
  { t with esc := { t.esc with
      failed := t.esc.failed ++
        [{ ppa := p, step := step, cls := cls, why := why, decoded := decoded, places := 0 }] } }

/-! ## Queueing reads (R120, R121, R131, R133, R143) -/

/-- The die of a codeword does not serve, or its position has been excluded. -/
def unreadable (s : State) (p : Ppa) : Bool := ! dieServes s (ppaChannel p) (ppaTarget p) || excludedSince s p

/-- A read joins its die's queue; for a die that does not serve, or an excluded position, it is returned as
unavailable and enters the ladder at step 6. -/
def queueRead (r : ReadReq) (s : State) : State :=
  if unreadable s r.ppa then
    failWord r.ppa 6 r.cls [r.why] false s
  else modDie (ppaChannel r.ppa) (ppaTarget r.ppa) (fun d => { d with readQ := d.readQ ++ [r] }) s

/-! ## Reads under way -/

/-- A read for a request that `mine` names is queued at a die, in progress, in a decrypt unit, or in the escalation
engine. -/
def readUnderWay (mine : Ppa → ReadFor → Bool) (s : State) : Bool :=
  let inOp := fun (o : Option ArrayOp) => match o with
    | some (.reads rs) => rs.any fun r => mine r.ppa r.why
    | _ => false
  let inWords := fun (l : List LadderWord) => l.any fun w => w.why.any (mine w.ppa)
  s.fl.dies.any (fun d => d.readQ.any (fun r => mine r.ppa r.why) || d.suspReads.any (fun r => mine r.ppa r.why)
      || inOp d.op || inOp d.suspended || inOp d.timedOut)
    || s.esc.cipherIn.any (fun x => mine x.1 x.2) || inWords s.esc.failed || inWords s.esc.queue
    || inWords s.esc.stalled || s.esc.contexts.any fun c => inWords c.words

/-- A read for exactly this request is under way. -/
def readPendingFor (y : ReadFor) (s : State) : Bool := readUnderWay (fun _ x => x = y) s

end Sys2Proof.Machine
end

