-- ==== Sys2Proof/Machine/Catalogue.lean ====
section
/-! DEFINITION. The Catalogue (R26 to R42): the state of a shelf, what each Ledger record does to it, the
pending-update table, residency, and lookups. -/

namespace Sys2Proof.Machine

/-- A shelf's entry and, in fine form, its segment. -/
structure ShelfSt where
  e   : ShelfEntry
  seg : Option Segment
  deriving DecidableEq, Repr

/-- The entry of a shelf that was never written: FORM 0. -/
def freeShelf : ShelfEntry :=
  { form := 0, age := 0, ppa := 0, presence := 0, prevForm := 0, relSeq := 0 }

/-- A card entry with VALID = 0. -/
def noCard : CardEntry := { ppa := 0, age := 0, fox := false, valid := false }

/-- A new segment: no card valid, not on flash, without a slot yet. -/
def newSegment (shelf nsid : Nat) : Segment :=
  { shelf := shelf, nsid := nsid, cards := List.replicate 16 noCard, slot := none, flashed := false,
    dirty := true, ref := true, locator := 0 }

/-- The state of a shelf as its page and segment stand, pending updates left out. -/
def shelfBase (s : State) (shelf : Nat) : ShelfSt :=
  { e := mapAt freeShelf shelf s.cat.shelves, seg := s.cat.segs.find? fun g => g.shelf = shelf }

/-- Card `i` of a shelf: PPA, AGE and fox mark; none when it reads as zeros (Table 2.3). -/
def shelfCard (st : ShelfSt) (i : Nat) : Option (Ppa × Nat × Bool) :=
  match st.e.form with
  | 1 => if st.e.presence.getLsbD i then some (runCard st.e.ppa i, st.e.age, false) else none
  | 2 => match st.seg with
    | none => none
    | some g => match g.cards[i]? with
      | some c => if c.valid then some (c.ppa, c.age, c.fox) else none
      | none => none
  | _ => none

/-- Card `i` of the form before, while a deallocation is pending (Table 2.3). -/
def pendingCard (st : ShelfSt) (i : Nat) : Option (Ppa × Nat × Bool) :=
  if st.e.form = 3 && st.e.presence.getLsbD i then
    shelfCard { st with e := { st.e with form := st.e.prevForm } } i
  else none

/-- The PPAs of the cards that a shelf maps, or still has to release; the entries that a lost shelf page leaves
(R159) name no card. -/
def shelfPpas (st : ShelfSt) : List Ppa :=
  (List.range 16).filterMap fun i =>
    match (if st.e.form = 3 then pendingCard st i else shelfCard st i) with
    | some c => if c.2.2 && c.1 = 0 then none else some c.1
    | none => none

/-- Bit `i` of a presence word, set to `v`. -/
def setBit16 (w : BitVec 16) (i : Nat) (v : Bool) : BitVec 16 :=
  let m := BitVec.ofNat 16 (2 ^ i)
  if v then w ||| m else w &&& ~~~ m

/-- The segment a run turns into, with no flash read (Table 2.4). -/
def runSegment (shelf nsid : Nat) (e : ShelfEntry) : Segment :=
  { newSegment shelf nsid with
      cards := (List.range 16).map fun i =>
        if e.presence.getLsbD i then
          { ppa := runCard e.ppa i, age := e.age, fox := false, valid := true }
        else noCard }

/-- PRESENCE of a fine shelf is a copy of the segment's valid bits (Table 2.3). -/
def validBits (g : Segment) : BitVec 16 :=
  (List.range 16).foldl (fun w i => match g.cards[i]? with
    | some c => setBit16 w i c.valid
    | none => w) 0

/-- The shelf in fine form, its segment at hand. -/
def toFine (shelf nsid : Nat) (st : ShelfSt) : Segment :=
  match st.e.form, st.seg with
  | 1, _ => runSegment shelf nsid st.e
  | 2, some g => g
  | _, _ => newSegment shelf nsid

/-- The shelf with segment `g`; a segment with no valid card is freed and the shelf unmapped. -/
def withSegment (g : Segment) : ShelfSt :=
  if g.cards.any (fun c => c.valid) then
    { e := { form := 2, age := 0, ppa := g.locator, presence := validBits g, prevForm := 0,
             relSeq := 0 }
      seg := some { g with dirty := true } }
  else { e := freeShelf, seg := none }

/-- The shelf with card entry `i` replaced; it takes fine form. -/
def setCard (shelf nsid i : Nat) (c : CardEntry) (st : ShelfSt) : ShelfSt :=
  let g := toFine shelf nsid st
  withSegment { g with cards := g.cards.set i c }

/-- An unmapped shelf. -/
def unmapped : ShelfSt := { e := freeShelf, seg := none }

/-- A shelf whose deallocation is pending is released before anything else lands on it (Table 2.4). -/
def released (st : ShelfSt) : ShelfSt := if st.e.form = 3 then unmapped else st

/-- What a Ledger record makes of its shelf (Tables 2.4 and 2.10, R42). -/
def applyTo (nsid : Nat) (r : LedgerRec) (st : ShelfSt) : ShelfSt :=
  match r.typ with
  | 0x1 => setCard r.shelf nsid r.card
      { ppa := r.newPpa, age := ageOf r.accession, fox := false, valid := true } (released st)
  | 0x2 =>
    { e := { form := 1, age := ageOf r.accession, ppa := r.newPpa, presence := BitVec.allOnes 16,
             prevForm := 0, relSeq := 0 }
      seg := none }
  | 0x3 => match shelfCard st r.card with
    | some (p, age, fox) =>
      if p = r.oldPpa then
        setCard r.shelf nsid r.card { ppa := r.newPpa, age := age, fox := fox, valid := true } st
      else st
    | none => st
  | 0x4 => if st.e.form = 1 && st.e.ppa = r.oldPpa then { st with e := { st.e with ppa := r.newPpa } }
    else st
  | 0x5 => match st.e.form with
    | 1 =>
      let w := setBit16 st.e.presence r.card false
      if w = 0 then unmapped else { st with e := { st.e with presence := w } }
    | 2 => setCard r.shelf nsid r.card noCard st
    | _ => st
  | 0x6 =>
    if st.e.form = 1 || st.e.form = 2 then
      { st with e := { st.e with form := 3, prevForm := st.e.form, relSeq := r.seq } }
    else st
  | 0x7 => match shelfCard st r.card with
    | some (p, age, _) =>
      if p = r.newPpa then
        setCard r.shelf nsid r.card { ppa := p, age := age, fox := true, valid := true } st
      else st
    | none => st
  | _ => st

/-- A record that changes the map. -/
def isMapRec (r : LedgerRec) : Bool := decide (1 ≤ r.typ) && decide (r.typ ≤ 7)

/-! ## Valid counts (R95, R96) -/

/-- A card of `ppa` is mapped. -/
def gainValid (s : State) (ppa : Ppa) : State :=
  match ppaEntry s ppa with
  | some n => modBlk n (fun b => { b with valid := b.valid + 1 }) s
  | none => s

/-- A card of `ppa` is mapped no longer: VALID falls and GATE_SEQ rises (R96). -/
def loseValid (seq : Nat) (s : State) (ppa : Ppa) : State :=
  match ppaEntry s ppa with
  | some n => modBlk n (fun b => { b with valid := b.valid - 1, gateSeq := max b.gateSeq seq }) s
  | none => s

/-- The valid counts move from the cards a shelf mapped to those it maps. -/
def shiftValid (seq : Nat) (before after : List Ppa) (s : State) : State :=
  let gone := before.filter fun p => ! after.contains p
  let come := after.filter fun p => ! before.contains p
  come.foldl gainValid (gone.foldl (loseValid seq) s)

/-! ## Residency (R37) -/

/-- The Index entry of a shelf page. -/
def indexAt (s : State) (c : Nat) : IndexEntry :=
  mapAt { state := 0, loaded := false, dirty := false, ppa := 0 } c s.cat.index

def modIndex (c : Nat) (f : IndexEntry → IndexEntry) (s : State) : State :=
  { s with cat := { s.cat with
      index := mapPut { state := 0, loaded := false, dirty := false, ppa := 0 } c (f (indexAt s c))
        s.cat.index } }

/-- The shelf page of a shelf. -/
def pageOfShelf (shelf : Nat) : Nat := shelf / 2048

/-- The shelf's page is resident: always so outside Warming (R37); in Warming when it was loaded, or has
never been written (R55). -/
def pageResident (s : State) (shelf : Nat) : Bool :=
  ! s.mode.warm || (indexAt s (pageOfShelf shelf)).loaded || (indexAt s (pageOfShelf shelf)).state = 0

/-- The shelf's segment is resident, or the shelf needs none. -/
def segResident (s : State) (shelf : Nat) : Bool :=
  let st := shelfBase s shelf
  if st.e.form = 2 || (st.e.form = 3 && st.e.prevForm = 2) then
    match st.seg with
    | some g => g.slot.isSome
    | none => true
  else true

/-- Segment of `shelf`, changed by `f`. -/
def modSeg (shelf : Nat) (f : Segment → Segment) (s : State) : State :=
  { s with cat := { s.cat with segs := modWhere (fun g => g.shelf = shelf) f s.cat.segs } }

/-- The resident segments in slot order from slot `h` on, then from slot 0. -/
def sweepOrder (s : State) (h : Nat) : List Segment :=
  let l := sortBy (fun a b => decide (a.slot.getD 0 < b.slot.getD 0)) (s.cat.segs.filter fun g => g.slot.isSome)
  l.filter (fun g => decide (h ≤ g.slot.getD 0)) ++ l.filter fun g => decide (g.slot.getD 0 < h)

/-- The segments the sweep passes before it finds one with REF clear, and that one; after a whole turn
every REF bit is clear, and the first is taken (R37). -/
def sweepFind : List Segment → List Segment × Option Segment
  | [] => ([], none)
  | g :: l => if g.ref then
      let (passed, v) := sweepFind l
      (g :: passed, v)
    else ([], some g)

/-- A system card at `p` is superseded now (R50). -/
def supersede (p : Ppa) (s : State) : State :=
  if p = 0 then s
  else { s with inv := { s.inv with superseded := s.inv.superseded ++ [(p, s.led.nextSeq)] } }

/-- The shelf entry of a fine shelf, or of one whose release is pending, takes its segment's new locator. -/
def relocate (ppa : Ppa) (e : ShelfEntry) : ShelfEntry :=
  if e.form = 2 || (e.form = 3 && e.prevForm = 2) then { e with ppa := ppa } else e

/-- The segment leaves its slot: a dirty one is first written to a new segment card, and its LOCATOR,
the shelf entry and the page's DIRTY bit follow; while that card has no place it stays (R37). -/
def dropSegment (g : Segment) (s : State) : State :=
  if g.dirty then
    match placeSystem 0 (segCard [g]) s with
    | none => stallRow 1 (fun t => (placeSystem 0 (segCard [g]) t).isSome) s
    | some (ppa, t) =>
      modIndex (pageOfShelf g.shelf) (fun e => { e with dirty := true })
        (modSeg g.shelf (fun x => { x with
            slot := none, flashed := true, dirty := false, locator := ppa })
          (supersede g.locator { t with cat := { t.cat with
              shelves := match mapGet g.shelf t.cat.shelves with
                | some e => mapSet g.shelf (relocate ppa e) t.cat.shelves
                | none => t.cat.shelves } }))
  else modSeg g.shelf (fun x => { x with slot := none }) s

/-- The eviction sweep frees one slot (R37). -/
def evictOne (s : State) : State :=
  let order := sweepOrder s s.cat.hand
  let (passed, v) := sweepFind order
  let s1 := passed.foldl (fun t g => modSeg g.shelf (fun x => { x with ref := false }) t) s
  match (match v with | some g => some g | none => order.head?) with
  | none => s1
  | some g =>
    let s2 := dropSegment { g with ref := false } s1
    { s2 with cat := { s2.cat with hand := g.slot.getD 0 + 1 } }

/-- A slot that holds no segment: the lowest of them (DESIGN CHOICE, log entry 131). -/
def freeSlot (s : State) : Option Nat :=
  firstNat (fun n => ! s.cat.segs.any fun g => g.slot = some n) (min s.cat.slotCap (s.cat.segs.length + 1)) 0

/-- A free slot, after an eviction when none is free (R37). -/
def takeSlot (s : State) : Option Nat × State :=
  match freeSlot s with
  | some n => (some n, s)
  | none => let t := evictOne s; (freeSlot t, t)

/-- Every resident segment that has no slot yet takes one. -/
def seatSegment (shelf : Nat) (s : State) : State :=
  match s.cat.segs.find? fun g => g.shelf = shelf with
  | none => s
  | some g => match g.slot with
    | some _ => s
    | none =>
      let (n, t) := takeSlot s
      modSeg shelf (fun x => { x with slot := n }) t

/-! ## Updates (R28, R39, R43) -/

/-- The NSID of a shelf. -/
def shelfNsid (s : State) (shelf : Nat) : Nat :=
  match shelfOwner s shelf with
  | some (n, _) => n.nsid
  | none => 0

/-- The shelf takes state `st`; its page is dirty. -/
def putShelf (shelf : Nat) (st : ShelfSt) (s : State) : State :=
  let others := s.cat.segs.filter fun g => g.shelf != shelf
  let s1 : State := { s with cat := { s.cat with
      shelves := mapPut freeShelf shelf st.e s.cat.shelves
      segs := match st.seg with
        | none => others
        | some g => if s.cat.segs.any (fun x => x.shelf = shelf) then
            modWhere (fun x => x.shelf = shelf) (fun _ => g) s.cat.segs
          else others ++ [g] } }
  let s2 := match s.cat.segs.find? fun g => g.shelf = shelf with
    | some g => if g.flashed && st.seg.isNone then supersede g.locator s1 else s1
    | none => s1
  seatSegment shelf (modIndex (pageOfShelf shelf) (fun e => { e with dirty := true }) s2)

/-- A record is applied to the resident state of its shelf (R28). -/
def applyNow (r : LedgerRec) (s : State) : State :=
  let st := shelfBase s r.shelf
  let st' := applyTo (shelfNsid s r.shelf) r st
  if st' = st then s
  else shiftValid r.seq (shelfPpas st) (shelfPpas st') (putShelf r.shelf st' s)

/-! ## Loads (R35, R38, R55, R121) -/

/-- The cards that a load reads: the four of a shelf page, or the one that holds the segment. -/
def loadCards (s : State) (page : Bool) (index : Nat) : List Ppa :=
  if page then
    let e := indexAt s index
    if e.state = 1 then [0, 1, 2, 3].map fun i => runCard e.ppa i else []
  else match s.cat.segs.find? fun g => g.shelf = index with
    | some g => if g.flashed then [g.locator] else []
    | none => []

/-- The work-pool buffer of a load, as its requester (map paging). -/
def mapReq (page : Bool) (index : Nat) : Requester := .engine (19 + 4 * (2 * (2 * index + if page then 1 else 0)))

/-- A card of a load is here. -/
def cardArrived (page : Bool) (index : Nat) (p : Ppa) (s : State) : State :=
  if s.cat.misses.contains (page, index) && ! s.cat.arrived.contains (page, index, p) then
    { s with cat := { s.cat with arrived := s.cat.arrived ++ [(page, index, p)] } }
  else s

/-- The reads of a load that has its buffer are issued; a card still in transit is taken from there. -/
def issueLoad (page : Bool) (index : Nat) (s : State) : State :=
  if ! s.cat.misses.contains (page, index) || ! holdsBuf (mapReq page index) s then s
  else (loadCards s page index).foldl (fun t p =>
    if t.cat.arrived.contains (page, index, p) || readPendingFor (.map page index) s then t
    else if (transitAt t p).isSome then cardArrived page index p t
    else queueRead { ppa := p, cls := if page && s.cat.warmLoads.contains index then 1 else 0, why := .map page index } t) s

/-- A load starts: its buffer is asked for, and its reads enter their dies' queues, class 0, or class 1 in the
background of Warming (R38, R55, R121). -/
def startLoadAt (warm : Bool) (page : Bool) (index : Nat) (s : State) : State :=
  if s.cat.misses.contains (page, index) then s
  else issueLoad page index (askOnce 1 (mapReq page index) [if page then 16 else 4]
    { s with cat := { s.cat with
        misses := s.cat.misses ++ [(page, index)]
        warmLoads := if warm then s.cat.warmLoads ++ [index] else s.cat.warmLoads } })

def startLoad (page : Bool) (index : Nat) (s : State) : State := startLoadAt false page index s

/-- Every card of a load is here. -/
def loadHere (s : State) (page : Bool) (index : Nat) : Bool :=
  s.cat.misses.contains (page, index)
    && (loadCards s page index).all fun p => s.cat.arrived.contains (page, index, p)

/-- The load is over. -/
def endLoad (page : Bool) (index : Nat) (s : State) : State :=
  freeAllOf (mapReq page index) (dropWait (mapReq page index) { s with cat := { s.cat with
    misses := s.cat.misses.filter fun m => m != (page, index)
    warmLoads := if page then s.cat.warmLoads.filter fun x => x != index else s.cat.warmLoads
    arrived := s.cat.arrived.filter fun a => (a.1, a.2.1) != (page, index) } })

/-- Loads that waited for their buffer go on. -/
def retryLoads (s : State) : State := s.cat.misses.foldl (fun t m => issueLoad m.1 m.2 t) s

/-! ## Pending updates (R39) -/

/-- Card updates the pending-update table holds (R39). -/
def pendCap : Nat := 16777216

/-- The load that an update of a shelf waits for starts in the background (R39, R55). -/
def loadFor (shelf : Nat) (s : State) : State :=
  if ! pageResident s shelf then startLoad true (pageOfShelf shelf) s
  else if ! segResident s shelf then startLoad false shelf s
  else s

/-- An update of a shelf has to wait: its page or segment is not resident, or an earlier update of it waits. -/
def updateWaits (r : LedgerRec) (s : State) : Bool :=
  s.cat.pend.any (fun x => x.shelf = r.shelf) || s.cat.stalledUpd.any (fun x => x.shelf = r.shelf)
    || ! pageResident s r.shelf || ! segResident s r.shelf

/-- An update lands on its shelf, or waits in the pending-update table until its page and segment are
resident; with the table full it waits before the table (R39). A record takes one of the table's places (DESIGN
CHOICE, log entry 132). -/
def enterUpdate (r : LedgerRec) (s : State) : State :=
  if updateWaits r s then
    if s.cat.pend.length < pendCap && s.cat.stalledUpd.isEmpty then
      loadFor r.shelf { s with cat := { s.cat with pend := s.cat.pend ++ [r] } }
    else { s with cat := { s.cat with stalledUpd := s.cat.stalledUpd ++ [r] } }
  else applyNow r s

/-- The pending updates of a shelf are applied in sequence order (R39). -/
def settleShelf (shelf : Nat) (s : State) : State :=
  let mine := s.cat.pend.filter fun r => r.shelf = shelf
  mine.foldl (fun t r => applyNow r t)
    { s with cat := { s.cat with pend := s.cat.pend.filter fun r => r.shelf != shelf } }

/-- The updates of a shelf are applied when its segment is resident, or its load starts in the background (R39). -/
def settleOrLoad (shelf : Nat) (s : State) : State :=
  if segResident s shelf then settleShelf shelf s else startLoad false shelf s

/-- A segment arrives in a slot; the updates that waited for it are applied. -/
def loadSegment (shelf : Nat) (s : State) : State :=
  let t := modSeg shelf (fun g => { g with ref := true }) (seatSegment shelf s)
  if segResident t shelf then settleShelf shelf t else t

/-- Segments that found no slot are seated once one can be had, and what waited for them goes on. -/
def retrySeats (s : State) : State :=
  ((s.cat.segs.filter fun g => g.slot.isNone && g.dirty).map fun g => g.shelf).foldl (fun t sh => loadSegment sh t) s

/-- A shelf page is resident; the updates of its shelves that need no segment are applied, and the segments that the
others need are loaded (R39, R55). -/
def loadPage (c : Nat) (s : State) : State :=
  let late := s.mode.warm && (indexAt s c).state = 1 && ! (indexAt s c).loaded
  let s1 := modIndex c (fun e => { e with loaded := true })
    { s with mode := { s.mode with
        pagesLoaded := if late then s.mode.pagesLoaded + 1 else s.mode.pagesLoaded } }
  let shelves := ((s1.cat.pend.filter fun r => pageOfShelf r.shelf = c).map fun r => r.shelf).eraseDups
  shelves.foldl (fun t sh => settleOrLoad sh t) s1

/-- A load ends with its shelf page or segment resident. -/
def takeLoad (page : Bool) (index : Nat) (s : State) : State :=
  let t := endLoad page index s
  if page then loadPage index t else loadSegment index t

/-- The updates that waited for room enter the table in order (R39). -/
def admitUpdates : Nat → State → State
  | 0, s => s
  | fuel + 1, s => match s.cat.stalledUpd with
    | [] => s
    | r :: rest =>
      let t : State := { s with cat := { s.cat with stalledUpd := rest } }
      if ! t.cat.pend.any (fun x => x.shelf = r.shelf) && pageResident t r.shelf && segResident t r.shelf then
        admitUpdates fuel (applyNow r t)
      else if t.cat.pend.length < pendCap then
        admitUpdates fuel (loadFor r.shelf { t with cat := { t.cat with pend := t.cat.pend ++ [r] } })
      else s

/-! ## Lookup (R38 to R42) -/

/-- What a lookup of a card returns. -/
inductive Found where
  | zeros
  | at (ppa : Ppa) (age : Nat) (fox : Bool)
  | missPage (page : Nat)
  | missSegment (shelf : Nat)
  deriving DecidableEq, Repr

/-- A pending record that is about card `i` of its shelf. -/
def touchesCard (i : Nat) (r : LedgerRec) : Bool :=
  match r.typ with
  | 0x1 => r.card = i
  | 0x3 => r.card = i
  | 0x5 => r.card = i
  | 0x7 => r.card = i
  | _ => isMapRec r

/-- The state of a shelf after its pending updates. -/
def shelfNow (s : State) (shelf : Nat) : ShelfSt :=
  (s.cat.pend.filter fun r => r.shelf = shelf).foldl
    (fun st r => applyTo (shelfNsid s shelf) r st) (shelfBase s shelf)

/-- The lookup of card `i` of a shelf. -/
def lookup (s : State) (shelf i : Nat) : Found :=
  let now : Found := match shelfCard (shelfNow s shelf) i with
    | some (p, age, fox) => .at p age fox
    | none => .zeros
  if s.cat.pend.any (fun r => r.shelf = shelf && touchesCard i r) then now
  else if ! pageResident s shelf then .missPage (pageOfShelf shelf)
  else
    let e := (shelfBase s shelf).e
    if e.form = 0 || e.form = 3 || ! e.presence.getLsbD i then .zeros
    else if e.form = 2 && ! segResident s shelf then .missSegment shelf
    else now

/-- The card as the map holds it, whatever is resident: what a lookup ends with once its misses are
served. -/
def mapped (s : State) (shelf i : Nat) : Option (Ppa × Nat × Bool) := shelfCard (shelfNow s shelf) i

/-- A lookup sets REF of the segment it reads (R37). -/
def touchSegment (shelf : Nat) (s : State) : State := modSeg shelf (fun g => { g with ref := true }) s

end Sys2Proof.Machine
end

