-- ==== Sys2Proof/Machine/Ledger.lean ====
section
/-! DEFINITION. The Ledger (R43 to R48, R66): records, cards and extents, durability, and the completion of
the commands that wait for it. -/

namespace Sys2Proof.Machine

/-- Records the Ledger region holds (R45). -/
def regionCap : Nat := 524288

/-- Bytes of Ledger that R48 bounds, in records: 256 MiB and 64 MiB. -/
def ledgerWindow : Nat := 8388608
def passDistance : Nat := 2097152

/-- A record that names no shelf. -/
def plainRec (typ : Nat) (newPpa : Ppa) : LedgerRec :=
  { seq := 0, typ := typ, card := 0, shelf := 0, oldPpa := 0, newPpa := newPpa, accession := 0 }

/-- A record about a card. -/
def cardRec (typ shelf card : Nat) (oldPpa newPpa : Ppa) (accession : Nat) : LedgerRec :=
  { seq := 0, typ := typ, card := card, shelf := shelf, oldPpa := oldPpa, newPpa := newPpa,
    accession := accession }

/-- The published durable sequence: it never falls, and with Coast armed the Ledger region counts
(R46). -/
def publishDurable (s : State) : State :=
  let now := if s.coast.armed then s.led.nextSeq - 1 else s.led.progSeq
  { s with led := { s.led with durable := max s.led.durable now } }

/-- A whole block stripe opens for the Daybook: no row of it goes to other cards. -/
def openWhole (n : Nat) (s : State) : State :=
  modBlk n (fun b => { b with rowsUsed := ceilDiv (pagesOf s n) 4 }) (openStripe n 3 s)

/-- A block stripe opens for Ledger extents; the pages past them are left to the Catalogue cards (R66). -/
def openExtents (n : Nat) (s : State) : State :=
  let t := openStripe n 3 s
  modBlk n (fun b => { b with rowsUsed := extentEnd t n / 4 }) t

/-- The Ledger reserve and the Daybook reserve: the block stripes kept after the last-write reserve, and the last of
them (R104). -/
def ledgerReserve (s : State) : List Nat := (s.coast.reserve.drop (lastWriteCount s)).dropLast
def dayReserve (s : State) : List Nat := s.coast.reserve.getLast?.toList

/-- The carrel block stripe that a new extent or Daybook block stripe takes: R87's choice, else one of
its reserve (R104). -/
def systemStripe (own : List Nat) (s : State) : Option Nat :=
  match groupToUse s true 5 with
  | some g => stripeToOpen s g true
  | none => own.find? fun n => (blkAt s n).state = 0 && ! laneHeld s (entryLane s n)

/-- The next extent is allocated: in the same block stripe while it has room, else in a new one (R66). -/
def allocExtent (s : State) : State :=
  let e := extentEntry s s.led.nextExtent
  let l := extentPages (dataWidth s e)
  let page := ppaPage s.led.nextExtent + l
  if s.led.nextExtent != 0 && decide (page + l ≤ pagesOf s e)
      && ((blkAt s e).state = 1 || (blkAt s e).state = 2) then
    { s with led := { s.led with nextExtent := posPpa s e (4 * dataWidth s e * page) } }
  else match systemStripe (ledgerReserve s) s with
    | none => s
    | some n =>
      let t := openExtents n s
      { t with led := { t.led with nextExtent := posPpa t n 0 } }

/-- A record takes the next number and stands in the Ledger region; the change is visible from then on
(R43). -/
def pushRec (r : LedgerRec) (s : State) : State :=
  let r1 := { r with seq := s.led.nextSeq }
  let s1 : State := { s with led := { s.led with
      nextSeq := s.led.nextSeq + 1
      region := s.led.region ++ [r1]
      placed := if (s.led.nextSeq + 1) % 128 = 0 then
        s.led.placed ++ [s.led.nextSeq + 1 - 128] else s.led.placed } }
  publishDurable (if isMapRec r1 then enterUpdate r1 s1 else s1)

/-- The newest completed pass that an EXTENT_START publishes now. -/
def passToName (s : State) : MapSnap := s.inv.completed.getD s.inv.published

/-- A new Ledger extent begins with its EXTENT_START, which names the next extent and publishes the
newest completed pass (R46, R48, Table 2.10); `first` when it is the first after a start. -/
def startExtent (first : Bool) (s : State) : State :=
  let here := s.led.nextExtent
  let s1 := allocExtent { s with led := { s.led with
      extentSeq := s.led.nextSeq, extentPpa := here
      extents := s.led.extents ++ [(s.led.nextSeq, here)] } }
  let p := passToName s1
  let s2 : State := { s1 with inv := { s1.inv with
      publishing := if p.redo > s1.inv.published.redo then
        s1.inv.publishing ++ [{ extentStart := s1.led.nextSeq, snap := p }]
      else s1.inv.publishing } }
  pushRec { seq := 0, typ := 0xA, card := if first then 1 else 0,
            shelf := (ledgerCard s2 p.redo).toNat, oldPpa := p.dir, newPpa := s2.led.nextExtent,
            accession := p.redo } s2

/-- The open extent has no card left, and a new card would begin. -/
def extentFull (s : State) : Bool :=
  s.led.nextSeq % 128 = 0 &&
    decide ((s.led.nextSeq - s.led.extentSeq) / 128 ≥ extentCards s s.led.extentPpa)

/-- The region holds another `n` records; only Coast appends into the Coast record reserve of 32,768
places (R45, R171). -/
def regionRoom (s : State) (n : Nat) : Bool :=
  s.led.stalled.isEmpty &&
    decide (s.led.region.length + n ≤ if s.mode.mode = .coast then regionCap else regionCap - 32768)

/-- The Coast load of die `e` once a record is appended. -/
def loadWithRecord (s : State) (e : LaneEntry) : Nat :=
  coastLoad
    { s with led := { s.led with
        region := s.led.region ++ [{ plainRec 0xB 0 with seq := s.led.nextSeq }]
        nextSeq := s.led.nextSeq + 1 } } e e.lane 0

/-- Before an append that begins a card, its die's Coast load is lowered; none when the append has to
wait (R169). -/
def easeLedger : Nat → State → Option State
  | 0, _ => none
  | fuel + 1, s =>
    let p := ledgerCard s s.led.nextSeq
    match laneOf s (ppaChannel p) (ppaTarget p) with
    | none => some s
    | some e =>
      if loadWithRecord s e ≤ coastAllowance s then some s
      else match easeDie e s with
        | none => none
        | some t => easeLedger fuel t

/-- A record waits for its place (R45). -/
def stallAppend (r : LedgerRec) (s : State) : State :=
  { s with led := { s.led with stalled := s.led.stalled ++ [r] } }

/-- A record is appended; on a full region, or with its card's die at its Coast allowance, it stalls, with
the update behind it (R45, R169). -/
def append (r : LedgerRec) (s : State) : State :=
  if ! regionRoom s 1 then stallAppend r s
  else
    let s1 := if extentFull s then startExtent false s else s
    if s1.led.nextSeq % 128 = 0 && s1.mode.mode != .coast then
      match easeLedger (4 * s1.wr.rows.length + 1) s1 with
      | none => stallAppend r s1
      | some t => pushRec r t
    else pushRec r s1

/-- What stands for the number of a record that has none yet. -/
def noSeq : Nat := 18446744073709551616

/-- The number a command waits for after its records: with appends stalled it is not known yet (R45). -/
def seqMark (s : State) : Nat := if s.led.stalled.isEmpty then s.led.nextSeq - 1 else noSeq

/-- Records are appended in order. -/
def appendAll (rs : List LedgerRec) (s : State) : State := rs.foldl (fun t r => append r t) s

/-- `n` PAD records. -/
def padRecs : Nat → State → State
  | 0, s => s
  | n + 1, s => padRecs n (pushRec (plainRec 0xB 0) s)

/-- Records in the open Ledger page: four cards of 128 (R66). -/
def openRecords (s : State) : Nat := (s.led.nextSeq - s.led.extentSeq) % 512

/-- The open Ledger card is filled with PAD records and placed for programming, and the other card slots of its page
take cards of PAD records (R45, R66). -/
def closeCard (s : State) : State :=
  if openRecords s = 0 then s else padRecs (512 - openRecords s) s

/-- The programmed sequence: every record below the oldest one still in the region is programmed (R96);
numbers never assigned do not count. -/
def programmedSeq (s : State) : Nat :=
  match s.led.region with
  | [] => s.led.nextSeq - 1
  | r :: _ => r.seq - 1

/-- Distance of the Ledger behind the newest published redo point (R48). -/
def ledgerDistance (s : State) : Nat := s.led.nextSeq - s.inv.published.redo

/-- A fox mark is set by a FOX_SET record (R154); it counts in KS_FOX_SET and C1h, latches FOXED and enters
a FOX record. Cause 0 step 7, 1 tag, 2 AGE, 3 echelon rebuild. -/
def countFox (nsid lba cause : Nat) (s : State) : State :=
  let s1 : State := { s with esc := { s.esc with
      foxSet := sat32 (s.esc.foxSet + 1), sticky := s.esc.sticky ||| 0x8 } }
  record 0x0202 [(1, nsid), (8, lba), (1, cause)] (countC1 9 s1)

/-- The FOX_SET of the card at `ppa` of a shelf. -/
def foxSet (shelf card : Nat) (ppa : Ppa) (cause : Nat) (s : State) : State :=
  let (nsid, lba) := match cardIndex s shelf card with
    | some (n, c) => (n.nsid, c)
    | none => (0, 0)
  countFox nsid lba cause (append (cardRec 0x7 shelf card 0 ppa 0) s)

/-- The transit copy of a card carries its fox flag (Table 6.6). -/
def flagTransit (ppa : Ppa) (s : State) : State :=
  { s with wr := { s.wr with
      transit := modWhere (fun c => c.ppa = ppa) (fun c => { c with foxFlag := true }) s.wr.transit } }

/-! ## Completions (R67, R162) -/

/-- The failing card with the lowest LBA (R162). -/
def worstCard : List CardFail → Option CardFail
  | [] => none
  | f :: l => match worstCard l with
    | none => some f
    | some g => if g.lba < f.lba then some g else some f

/-- A command completes with the status of its failing card, or with success; a fox status counts in
KS_FOX_BITE and C1h (R157, R162, R163, R243). -/
def finishCmd (slot : Nat) (s : State) : State :=
  match cmdAt s slot with
  | none => s
  | some c => match worstCard c.fails with
    | none => finishOk slot 0 s
    | some f =>
      let s1 : State := if f.fox then
          countC1 10 { s with esc := { s.esc with foxBite := sat32 (s.esc.foxBite + 1) } }
        else s
      finishAt slot (f.sct, f.sc) f.lba (dnrOf (f.sct, f.sc) (! f.fox)) 0 s1

/-- A placed write has reached its completion point (Table 3.4): armed with FUA clear, once its updates
have entered the map or the pending-update table; else once its cards' pages are programmed and its
records are durable. -/
def atPoint (s : State) (c : Cmd) : Bool :=
  c.phase = .placed && c.want.isEmpty && decide (c.needSeq < s.led.nextSeq)
    && ! s.cat.stalledUpd.any (fun r => decide (r.seq ≤ c.needSeq) && c.needSeq != 0)
    && ((c.armed && ! fuaOf c.e) || (c.needPpa.isEmpty && decide (c.needSeq ≤ s.led.durable)))

/-- Every write at its completion point completes, in slot order (R67, R218). -/
def settleReady (s : State) : State :=
  (slotsWhere (atPoint s) s).foldl (fun t n => finishCmd n { t with wr := { t.wr with
      transit := modWhere (fun x => x.owner = some n)
        (fun x => { x with isAcked := true, owner := none }) t.wr.transit } }) s

/-- A record that something waits for stands in the open Ledger page (R45). -/
def inOpenPage (s : State) (seq : Nat) : Bool :=
  openRecords s != 0 && decide (s.led.nextSeq - openRecords s ≤ seq) && decide (seq < s.led.nextSeq)

/-- A completion waits for the durability of a record of the open page (R46), or an erase for the programmed sequence
to cover one (R96, R97). -/
def ledgerWaits (s : State) : Bool :=
  s.nv.cmds.any (fun c => c.phase = .placed && c.want.isEmpty && ! (c.armed && ! fuaOf c.e) && inOpenPage s c.needSeq
      && decide (s.led.durable < c.needSeq))
    || s.pel.txns.any (fun t => t.started && ! t.armed && inOpenPage s t.needSeq && decide (s.led.durable < t.needSeq))
    || s.blk.erases.any (fun j => ! j.issued && inOpenPage s j.intent)
    || s.blk.table.any fun e => (e.2.state = 2 || e.2.state = 3) && e.2.valid = 0 && inOpenPage s e.2.gateSeq

/-- The open Ledger page is closed as soon as a completion or an erase waits for one of its records (R45). -/
def closeWaiting (s : State) : State :=
  if serving s && ledgerWaits s && regionRoom s (512 - openRecords s) then closeCard s else s

/-- Every write at its completion point completes; a Ledger page that the others wait for is closed (R45, R67). -/
def settleWrites (s : State) : State := closeWaiting (settleReady s)

/-- The published passes that count once the card of `first` is programmed (R48). -/
def countPublications (first : Nat) (s : State) : State :=
  let now := s.inv.publishing.filter fun p => decide (first ≤ p.extentStart) && decide (p.extentStart < first + 128)
  { s with inv := { s.inv with
      counted := s.inv.counted ++ now
      publishing := s.inv.publishing.filter fun p =>
        ! (decide (first ≤ p.extentStart) && decide (p.extentStart < first + 128))
      published := now.foldl (fun b p => if p.snap.redo > b.redo then p.snap else b)
        s.inv.published } }

/-- Daybook records are programmed as whole pages from card `first` of block stripe `n` on, and join the ring, which keeps
the newest 1,048,576 (R390, R391). -/
def storeDay (n first : Nat) (rs : List DayRec) (s : State) : State :=
  let cards := (List.range (flushCards rs.length)).map fun i => (posPpa s n (first + i), dayData rs i)
  let s1 := cards.foldl (fun t c => systemParity c.1 { t with wr := { t.wr with
    flash := mapSet c.1.toNat (systemCard c.1 c.2) t.wr.flash } }) s
  let ring := s1.day.ring ++ rs
  let last := match rs.getLast? with | some r => r.seq | none => s1.day.flushed
  { s1 with day := { s1.day with
      ring := ring.drop (ring.length - 1048576)
      flushed := last
      stripes := modWhere (fun x => x.1 = n) (fun x => (x.1, last)) s1.day.stripes } }

/-- Coast seals the die stripe that a Ledger or Daybook card at `ppa` lies in: its P and Q follow (R168). -/
def sealSystem (ppa : Ppa) (s : State) : State :=
  match ppaEntry s ppa with
  | none => s
  | some n => parityPage n 3 true (ppaPage ppa) (parityPage n 3 false (ppaPage ppa) s)

/-- A Ledger card's program ends: its records are on flash, the programmed and the published durable
sequence rise, and what waited for them goes on (R46, R48). -/
def cardProgrammed (first : Nat) (s : State) : State :=
  let inCard := fun (r : LedgerRec) => decide (first ≤ r.seq) && decide (r.seq < first + 128)
  let s1 := systemParity (ledgerCard s first) { s with
    wr := { s.wr with
      flash := mapSet (ledgerCard s first).toNat
        (systemCard (ledgerCard s first) (ledgerData (s.led.region.filter inCard))) s.wr.flash }
    led := { s.led with
      placed := s.led.placed.filter fun n => n != first
      region := s.led.region.filter fun r => ! inCard r
      onFlash := (s.led.region.filter inCard).foldl
        (fun l r => insertBy (fun a b => decide (a.seq < b.seq)) r l) s.led.onFlash } }
  let s2 : State := { s1 with led := { s1.led with
      progSeq := max s1.led.progSeq (programmedSeq s1) } }
  settleWrites (countPublications first (publishDurable s2))

end Sys2Proof.Machine
end

