-- ==== Sys2Proof/Machine/Queues.lean ====
section
/-! DEFINITION. The link, the controller registers and the queues (chapters 9 and 10): doorbells, fetch,
posting, interrupts, resets and link errors. -/

namespace Sys2Proof.Machine

/-! ## Link (R191, R198, R203) -/

/-- A rate, width and mode that the link can train to (R198). -/
def linkLegal (rate width : Nat) (flit : Bool) : Bool :=
  [1280, 640, 320, 160, 80, 25].contains rate && [16, 8, 4].contains width
    && (flit || decide (rate ≤ 320))

/-- LINK_UP: KS_START_LINK takes the time of the first L0 of the start (R191). -/
def execLinkUp (ms rate width : Nat) (flit : Bool) (s : State) : Outcome :=
  .next (if awake s && linkLegal rate width flit then
    { s with
      link := { s.link with
        up := true, seenL0 := true, rate := rate, width := width, flit := flit, fatal := false,
        aspm := 0 }
      mode := if s.link.seenL0 then s.mode else { s.mode with startLink := sat32 ms } }
  else s)

/-- The bit of a row of Table 9.5 in the AER registers: poisoned TLP 12, completion timeout 14, unexpected completion 16,
Unsupported Request 20, malformed TLP 18, ECRC error 19 (PRESUMED, log entry 170). -/
def aerBit (row : Nat) : Nat := natAt [12, 12, 14, 16, 20, 18, 19] row

/-- How an error of a row is reported: fatal where its severity says so, else non-fatal, or correctable where it is
advisory (Table 9.5). -/
def aerKind (s : State) (row : Nat) : Nat :=
  if s.link.cfg.severity.testBit (aerBit row) then 2 else if [0, 3, 4].contains row then 0 else 1

/-- An error of a row of Table 9.5 is logged and reported: 0 poisoned completion, 1 poisoned write, 2 completion timeout,
3 unexpected completion, 4 Unsupported Request, 5 fatal, 6 ECRC. -/
def logAer (row : Nat) (s : State) : State :=
  { s with link := { s.link with
      uncorr := s.link.uncorr ++ [row], errMsgs := s.link.errMsgs ++ [(row, aerKind s row)] } }

/-- The commands' share of the pools goes back, and a wait for buffers is given up. -/
def dropBuffers (slot : Nat) (s : State) : State :=
  freeAllOf (.slot slot) (dropWait (.slot slot) s)

/-- A command slot that holds no command and no waiting completion (R215, R217). -/
def slotFree (s : State) (n : Nat) : Bool :=
  ! s.nv.cmds.any (fun c => c.slot = n) && ! s.nv.waiting.any fun c => c.slot = n

/-- A slot of the kind of a queue: 0 to 63 for admin commands, 64 to 65,535 for I/O. -/
def slotKind (qid n : Nat) : Bool :=
  if qid = 0 then decide (n < 64) else decide (64 ≤ n) && decide (n < 65536)

/-- A slot of the right kind is free (R215). -/
def slotOpen (s : State) (qid : Nat) : Option Nat :=
  if qid = 0 then firstNat (fun n => slotFree s n) 64 0
  else firstNat (fun n => slotFree s n) 65472 64

def sqAt (s : State) (q : Nat) : Option Sq := s.nv.sqs.find? fun x => x.qid = q
def cqAt (s : State) (q : Nat) : Option Cq := s.nv.cqs.find? fun x => x.qid = q

def modSq (q : Nat) (f : Sq → Sq) (s : State) : State :=
  { s with nv := { s.nv with sqs := modWhere (fun x => x.qid = q) f s.nv.sqs } }
def modCq (q : Nat) (f : Cq → Cq) (s : State) : State :=
  { s with nv := { s.nv with cqs := modWhere (fun x => x.qid = q) f s.nv.cqs } }

/-- The command of an entry in its slot: the Coast state, the carrel bypass and the carrel ceiling are those at its
fetch (R67, R69, R82). -/
def newCmd (slot qid cq : Nat) (e : SqEntry) (s : State) : Cmd :=
  { slot := slot, qid := qid, cq := cq, e := e, phase := .fetched, armed := s.coast.armed, bypass := false,
    past := profileParam s 0 = 1, ceiling := profileParam s 3, inDrain := s.coast.draining,
    want := [], got := [], fails := [], data := [], group := 0, needSeq := 0, needPpa := [] }

/-- An entry whose fetch failed: its completion carries Data Transfer Error with the CID as received,
and the command is not executed (Table 9.5). -/
def failEntry (qid cid : Nat) (s : State) : State :=
  match sqAt s qid, slotOpen s qid with
  | some q, some n =>
    if q.head = q.tail then s
    else
      let e : SqEntry := { cid := cid, opcode := 0, nsid := 0, dw10 := 0, dw11 := 0, dw12 := 0,
                           dw13 := 0, dw14 := 0, dw15 := 0 }
      let s1 := modSq qid (fun x => { x with head := (x.head + 1) % x.size }) s
      finishErr n scTransfer
        { s1 with nv := { s1.nv with
            cmds := s1.nv.cmds ++ [newCmd n qid q.cqid e s1] } }
  | _, _ => s

/-- A command whose data did not arrive whole fails with Data Transfer Error; no card of it is written
or consumed (R204, Table 9.5). -/
def failData (slot : Nat) (s : State) : State :=
  match cmdAt s slot with
  | none => s
  | some c =>
    if c.phase = .placed then s
    else finishErr slot scTransfer (dropBuffers slot s)

/-- What Table 9.5 does with a completion or write that carried an error. -/
def failTlp (k : TlpKind) (s : State) : State :=
  match k with
  | .dataOf n => failData n s
  | .entryOf q cid => failEntry q cid s
  | .barWrite => s

/-- POISONED_TLP: an ECRC error counts only when ECRC checking is enabled. -/
def execPoisonedTlp (k : TlpKind) (ecrc : Bool) (s : State) : Outcome :=
  .next (if ! awake s || (ecrc && ! s.link.ecrcCheck) then s
    else logAer (if ecrc then 6 else if k = .barWrite then 1 else 0) (failTlp k s))

/-- COMPLETION_TIMEOUT: as for a poisoned completion. -/
def execCompletionTimeout (k : TlpKind) (s : State) : Outcome :=
  .next (if ! awake s || k = .barWrite then s else logAer 2 (failTlp k s))

/-- UNEXPECTED_COMPLETION: dropped. -/
def execUnexpectedCompletion (s : State) : Outcome :=
  .next (if awake s then
    logAer 3 { s with link := { s.link with dropped := s.link.dropped + 1 } } else s)

/-- UNSUPPORTED_REQUEST: a UR completion answers a non-posted request (R202). -/
def execUnsupportedRequest (nonPosted : Bool) (s : State) : Outcome :=
  .next (if awake s then
    logAer 4 { s with link := { s.link with
      urSent := if nonPosted then s.link.urSent + 1 else s.link.urSent } } else s)

/-- MALFORMED_TLP: fatal; the link is left for recovery by the host and no mode changes. No command is fetched until
the next LINK_UP (DESIGN CHOICE, log entry 126). -/
def execMalformedTlp (_kind : Nat) (s : State) : Outcome :=
  .next (if awake s then logAer 5 { s with link := { s.link with fatal := true } } else s)

/-- CORRECTABLE_LINK_ERROR: counted, in C1h too. -/
def execCorrectableLinkError (kind : Nat) (s : State) : Outcome :=
  .next (if awake s then
    countC1 19 { s with link := { s.link with
      corrErrs := sat32 (s.link.corrErrs + 1)
      flitErrs := if kind = 1 then sat32 (s.link.flitErrs + 1) else s.link.flitErrs } } else s)

/-- ASPM_L1: the link enters or leaves L1, L1.1 or L1.2; L1.2 gates the PCIe PHY and core (R198,
R447). -/
def execAspmL1 (enter : Bool) (substate : Nat) (s : State) : Outcome :=
  .next (if ! awake s || ! s.link.up || decide (substate > 2) then s
    else
      { s with
        link := { s.link with aspm := if enter then substate + 1 else 0 }
        mode := { s.mode with gates := { s.mode.gates with pcie := enter && substate = 2 } } })

/-- D_STATE_CHANGE: D3hot answers configuration requests only; back in D0 the controller's state is
intact (R206). In Coast it has no further effect (R205). -/
def execDStateChange (d3hot : Bool) (s : State) : Outcome :=
  .next (if ! awake s then s else { s with link := { s.link with d3hot := d3hot } })

/-! ## Resets (R205, R220) -/

/-- The features after a controller reset (Table 10.4). -/
def resetFeatures (s : State) : Features := { freshFeatures with stampAt := s.clock.opMs }

/-- The commands that a reset discards give their buffers back. -/
def dropAll (s : State) : State := s.nv.cmds.foldl (fun t c => dropBuffers c.slot t) s

/-- Nobody waits for the reads of the commands that `p` picks. -/
def forgetRead (p : Nat → Bool) (w : ReadFor) : ReadFor :=
  match w with
  | .host n _ _ => if p n then .nobody else w
  | .merge n .. => if p n then .nobody else w
  | _ => w

def forgetOp (p : Nat → Bool) (o : ArrayOp) : ArrayOp :=
  match o with
  | .reads rs => .reads (rs.map fun r => { r with why := forgetRead p r.why })
  | _ => o

def forgetWord (p : Nat → Bool) (w : LadderWord) : LadderWord := { w with why := w.why.map (forgetRead p) }

/-- The reads of commands that are gone go on with nobody waiting. -/
def forgetReads (p : Nat → Bool) (s : State) : State :=
  { s with
    fl := { s.fl with dies := s.fl.dies.map fun d => { d with
        readQ := d.readQ.filter fun r => forgetRead p r.why = r.why
        suspReads := d.suspReads.filter fun r => forgetRead p r.why = r.why
        op := d.op.map (forgetOp p)
        suspended := d.suspended.map (forgetOp p) } }
    esc := { s.esc with
        failed := s.esc.failed.map (forgetWord p)
        queue := s.esc.queue.map (forgetWord p)
        stalled := s.esc.stalled.map (forgetWord p)
        contexts := s.esc.contexts.map fun c => { c with words := c.words.map (forgetWord p) }
        cipherIn := s.esc.cipherIn.map fun x => (x.1, forgetRead p x.2) } }

/-- What a controller reset does to the commands and queues (R220). A write whose data had all arrived
keeps its placed cards; every other command leaves nothing. -/
def controllerReset (s : State) : State :=
  let s1 := forgetReads (fun _ => true) (dropAll s)
  { s1 with
    nv := { s1.nv with
      cc := 0, rdy := false, shst := 0, cfs := false, intms := 0, sqs := [], cqs := [], cmds := [],
      waiting := [], vectors := [], aers := [], events := [], exclusive := [], rrLast := [0, 0, 0, 0],
      rrCount := [0, 0, 0, 0], wrrUsed := [0, 0, 0], feat := resetFeatures s1 }
    wr := { s1.wr with
      locks := []
      transit := s1.wr.transit.map fun c => { c with owner := none } }
    key := { s1.key with
      renewals := (s1.key.renewals.filter fun r => r.cmd.isNone || r.loaded).map fun r =>
        { r with cmd := none, before := [] } }
    lib := { s1.lib with heldAdmin := [], cutCmds := [] }
    fol := { s1.fol with committing := none }
    upd := { s1.upd with
      commitCmd := none, writing := if s1.upd.writing = some .relay then s1.upd.writing else none } }

/-- A reset of the controller that the host can see in the Daybook: 0 CC.EN, 1 Function Level Reset,
2 Hot Reset, 3 link down. -/
def hostReset (kind : Nat) (s : State) : State := record 0x0402 [(1, kind)] (controllerReset s)

/-- Configuration registers and the MSI-X table go back to their reset values, the sticky ones
excepted (R205). -/
def resetConfig (s : State) : State :=
  { s with
    link := { s.link with d3hot := false, aspm := 0, cfg := { resetCfg with
      severity := s.link.cfg.severity, ecrcGen := s.link.cfg.ecrcGen } }
    nv := { s.nv with msixTab := [], pba := [] } }

/-- A Hot Reset locks the ranges whose LockOnReset names it (R263). -/
def lockOnHot (s : State) : State :=
  { s with key := { s.key with
      ranges := s.key.ranges.map fun r =>
        if r.onHot then { r with readLocked := true, writeLocked := true } else r } }

/-- FUNCTION_LEVEL_RESET. In Coast it has no further effect (R205). The function is in D0 after it (DESIGN CHOICE,
log entry 127). -/
def execFunctionLevelReset (s : State) : Outcome :=
  .next (if ! awake s then s
    else
      let t : State := { s with link := { s.link with d3hot := false } }
      if s.mode.mode = .coast then t else hostReset 1 t)

/-- HOT_RESET (R205, R263). -/
def execHotReset (s : State) : Outcome :=
  .next (if ! awake s then s
    else if s.mode.mode = .coast then resetConfig s
    else hostReset 2 (lockOnHot (resetConfig s)))

/-- LINK_DOWN (R205, R220). -/
def execLinkDown (s : State) : Outcome :=
  .next (if ! awake s then s
    else
      let s1 : State := { s with link := { s.link with up := false, aspm := 0 } }
      if s.mode.mode = .coast then resetConfig s1 else hostReset 3 (resetConfig s1))

/-! ## Doorbells (R215) -/

/-- The host can reach BAR0 and the queues exist. -/
def doorbellsLive (s : State) : Bool := awake s && ! s.link.d3hot && s.nv.cc.getLsbD 0

/-- An invalid doorbell write is reported when a request waits: information 0 register, 1 value. -/
def badDoorbell (info : Nat) (s : State) : State :=
  if s.nv.aers.isEmpty then s else asyncEvent 0 info s

/-- SQ_TAIL_DOORBELL: a valid tail is latched; a doorbell write wakes the engines (R197). -/
def execSqTailDoorbell (qid tail : Nat) (s : State) : Outcome :=
  .next (if ! doorbellsLive s then s
    else match sqAt s qid with
      | none => badDoorbell 0 s
      | some q => if tail ≥ q.size then badDoorbell 1 s
        else leaveIdle (modSq qid (fun x => { x with tail := tail }) s))

/-- Entries of a completion queue that the host has not consumed. -/
def cqUsed (q : Cq) : Nat := (q.tail + q.size - q.head) % q.size

/-- CQ_HEAD_DOORBELL: a head frees entries; it may not pass entries not yet posted. -/
def execCqHeadDoorbell (qid head : Nat) (s : State) : Outcome :=
  .next (if ! doorbellsLive s then s
    else match cqAt s qid with
      | none => badDoorbell 0 s
      | some q =>
        if head ≥ q.size || (head + q.size - q.head) % q.size > cqUsed q then badDoorbell 1 s
        else leaveIdle (modCq qid (fun x => { x with head := head }) s))

/-! ## Fetch (R215, R217, R222, R231, R105, R266) -/

/-- A queue with an entry to fetch and no Ordered Write outstanding (R71). -/
def fetchable (q : Sq) : Bool := q.head != q.tail && q.fence.isNone

/-- Weighted round robin is selected: CC.AMS = 001b (R215). -/
def weighted (s : State) : Bool := s.nv.cc.extractLsb' 11 3 == 1#3

/-- The class of a queue: without weights all queues are of one. -/
def classOf (s : State) (q : Sq) : Nat := if weighted s then q.prio else 0

/-- A class of I/O queues has an entry to fetch. -/
def classOpen (s : State) (p : Nat) : Bool := s.nv.sqs.any fun x => x.qid != 0 && x.prio = p && fetchable x

/-- The commands that class 1 high, 2 medium or 3 low may have fetched in a round: its weight, 0's based. -/
def classWeight (s : State) (p : Nat) : Nat :=
  (match p with | 1 => s.nv.feat.arbHigh | 2 => s.nv.feat.arbMed | _ => s.nv.feat.arbLow) + 1

/-- The class has commands left in this round. -/
def inRound (s : State) (p : Nat) : Bool := decide (natAt s.nv.wrrUsed (p - 1) < classWeight s p)

/-- The class that is served now under weighted round robin: urgent first, then high, medium and low, each for its weight; a
round begins when no class with an entry has commands left in the last one (R215). -/
def classNow (s : State) : Option Nat :=
  if classOpen s 0 then some 0
  else match [1, 2, 3].find? fun p => classOpen s p && inRound s p with
    | some p => some p
    | none => [1, 2, 3].find? fun p => classOpen s p

def servedNow (s : State) (q : Sq) : Bool := ! weighted s || classNow s = some q.prio

/-- The round's counts after a fetch from class `p`. -/
def countRound (s : State) (p : Nat) : List Nat :=
  if ! weighted s || p = 0 then s.nv.wrrUsed
  else bumpAt (p - 1) (if inRound s p then s.nv.wrrUsed else [0, 0, 0])

/-- Queues of the same class as `q` that could be served. -/
def sameClass (s : State) (q : Sq) : List Sq :=
  s.nv.sqs.filter fun x => x.qid != 0 && fetchable x && (! weighted s || x.prio = q.prio)

/-- Round robin: the queue last served keeps its turn for its burst; otherwise the next queue in number
after it (R215); the commands that are fetched complete in any order (R216). -/
def itsTurn (s : State) (q : Sq) : Bool :=
  let ids := (sameClass s q).map fun x => x.qid
  let last := natAt s.nv.rrLast (classOf s q)
  let burst := s.nv.feat.arbBurst = 7 || decide (natAt s.nv.rrCount (classOf s q) < 2 ^ s.nv.feat.arbBurst)
  let later := ids.filter fun n => decide (last < n)
  let next := (later.foldl (fun m n => match m with
    | none => some n
    | some x => if n < x then some n else some x) none)
  let first := (ids.foldl (fun m n => match m with
    | none => some n
    | some x => if n < x then some n else some x) none)
  if ids.contains last && burst then q.qid = last
  else match next with
    | some n => q.qid = n
    | none => some q.qid = first

/-- The admin queue is always served before the I/O queues (R215). -/
def adminFirst (s : State) (qid : Nat) : Bool :=
  qid = 0 || match sqAt s 0 with
    | some q => ! (fetchable q && (slotOpen s 0).isSome)
    | none => true

/-- Fetching runs: the controller is ready in a serving mode or Recovery, in D0, outside a shutdown and
the held I/O pause, with no boundary scan (R450). -/
def fetching (s : State) : Bool :=
  (serving s || s.mode.mode = .recovery) && s.nv.rdy && ! s.link.d3hot && s.nv.shst = 0 && ! s.upd.held
    && ! s.link.fatal && ! s.pins.jtagBoundary

/-- Opcodes of Table 10.9. -/
def ioOpcode (op : Nat) : Bool := [0x00, 0x01, 0x02, 0x05, 0x08, 0x09, 0x81].contains op

/-- Commands that Preserve refuses (Table 4.7). -/
def writesCards (op : Nat) : Bool := [0x01, 0x08, 0x81].contains op

/-- The echelon state behind a spanned namespace. -/
def echAt (s : State) (e : Nat) : Option EchelonSt := s.ech.ech.find? fun x => x.echelon = e

/-- The ANA state of a namespace: 1 Optimized, 2 Non-Optimized, 3 Inaccessible, 4 Persistent Loss, 15
Change; local namespaces are always Optimized (R231). -/
def anaOf (s : State) (n : Namespace) : Nat :=
  match n.spanned with
  | none => 1
  | some e => match echAt s e with
    | some x => x.ana
    | none => 3

/-- The status of R231 for an ANA state that serves no command. -/
def anaStatus (a : Nat) : Option (Nat × Nat) :=
  if a = 3 then some (3, 0x02) else if a = 4 then some (3, 0x01) else if a = 15 then some (3, 0x03)
  else none

/-- A namespace that this command may name. -/
def nsAttached (s : State) (nsid : Nat) : Option Namespace :=
  match nsAt s nsid with
  | some n => if n.attached then some n else none
  | none => none

/-- The status that fetch itself gives an I/O command: a Sanitize, which R266 lets refuse every one (DEDUCED, log entry 171), the
namespace, an exclusive
command on it (R222), its ANA state (R231), Preserve (R105). -/
def fetchStatus (s : State) (e : SqEntry) : Option (Nat × Nat) :=
  if ! ioOpcode e.opcode then none
  else if s.key.sanitize != 0 then some (0, 0x1D)
  else if e.opcode = 0 then none
  else match nsAttached s e.nsid with
    | none => some scNsFormat
    | some n =>
      if s.nv.exclusive.any (fun x => x.2 = e.nsid) then some scNotReady
      else match anaStatus (anaOf s n) with
        | some st => some st
        | none => if writesCards e.opcode && s.mode.mode = .preserve then some scProtected else none

/-- The data pointer of an entry is one that the controller supports: PRP, or for an I/O command an SGL of Data Block,
Segment and Last Segment descriptors with its metadata in a contiguous buffer (R10, R213). -/
def pointerOk (qid : Nat) (e : SqEntry) : Bool :=
  e.fuse = 0 && (e.psdt = 0 || (qid != 0 && e.psdt = 1 && e.aligned && e.sgl.all fun t => [0, 2, 3].contains t))

/-- The fetched command takes its slot; an Ordered Write fences its queue (R71); an idle fold ends its
wait for idleness (R75), for which commands of the I/O queues count (DESIGN CHOICE, log entry 128). -/
def takeEntry (slot : Nat) (q : Sq) (e : SqEntry) (s : State) : State :=
  let s1 := modSq q.qid (fun x => { x with
      head := (x.head + 1) % x.size
      fence := if q.qid != 0 && e.opcode = 0x81 then some slot else x.fence }) s
  { s1 with
    nv := { s1.nv with
      cmds := s1.nv.cmds ++ [newCmd slot q.qid q.cqid e s1]
      wrrUsed := if q.qid = 0 then s1.nv.wrrUsed else countRound s q.prio
      rrCount := if q.qid = 0 then s1.nv.rrCount else
        s1.nv.rrCount.set (classOf s q)
          (if q.qid = natAt s1.nv.rrLast (classOf s q) then natAt s1.nv.rrCount (classOf s q) + 1 else 1)
      rrLast := if q.qid = 0 then s1.nv.rrLast else s1.nv.rrLast.set (classOf s q) q.qid }
    key := { s1.key with
      renewals := s1.key.renewals.map fun r => { r with before := r.before.filter fun x => x != slot } }
    wr := if q.qid = 0 then s1.wr else
      { s1.wr with
        idleSeen := false
        folding := s1.wr.folding && ! (s1.wr.idleFold && ! fillAtLeast s1 (profileParam s1 1)) } }

/-- The fetch of the entry at the head of `qid` may happen now, into `slot`. -/
def fetchLegal (slot qid : Nat) (s : State) : Bool :=
  fetching s && slotKind qid slot && slotFree s slot && adminFirst s qid &&
    match sqAt s qid with
    | none => false
    | some q => fetchable q && (qid = 0 || (s.mode.mode != .recovery && servedNow s q && itsTurn s q))

/-- The entry at the head of `qid` is fetched into `slot`; one with a data pointer that is not supported completes with
Invalid Field in Command (log entry 129). -/
def fetchEntry (slot qid : Nat) (e : SqEntry) (s : State) : State :=
  match sqAt s qid with
  | none => s
  | some q =>
    let s1 := leaveIdle (takeEntry slot q e s)
    if ! pointerOk qid e then finishErr slot scField s1
    else if qid = 0 then s1
    else match fetchStatus s e with
      | some st => finishErr slot st s1
      | none => s1

/-! ## Posting (R218, R219) -/

/-- The completion queue has a free entry. -/
def cqRoom (s : State) (q : Nat) : Bool :=
  match cqAt s q with
  | some x => decide (cqUsed x + 1 < x.size)
  | none => false

/-- The oldest waiting completion whose queue has a free entry (R218). -/
def nextToPost (s : State) : Option Completion := s.nv.waiting.find? fun c => cqRoom s c.cq

/-- Coalescing state of a vector. -/
def vectorAt (s : State) (v : Nat) : VectorSt :=
  (s.nv.vectors.find? fun x => x.vector = v).getD { vector := v, waiting := 0, noCoal := false }

def setVector (v : VectorSt) (s : State) : State :=
  { s with nv := { s.nv with vectors := v :: s.nv.vectors.filter fun x => x.vector != v.vector } }

/-- A vector is coalesced: not vector 0, not disabled, and an aggregation time is set (R219). -/
def coalesced (s : State) (v : Nat) : Bool :=
  v != 0 && ! (vectorAt s v).noCoal && s.nv.feat.coalTime != 0

/-- The mask bit of a vector's MSI-X table entry: bit 0 of its vector control dword, 1 at reset. -/
def vectorMasked (s : State) (v : Nat) : Bool := (mapAt 1 (4 * v + 3) s.nv.msixTab) % 2 = 1

/-- The message of a vector, or its pending bit while the vector is masked (PCI Express). -/
def emitMsix (v : Nat) (s : State) : State :=
  if vectorMasked s v then
    { s with nv := { s.nv with pba := if s.nv.pba.contains v then s.nv.pba else s.nv.pba ++ [v] } }
  else { s with nv := { s.nv with msix := s.nv.msix ++ [v] } }

/-- The MSI-X message of a vector, after the entry that triggers it (R201). -/
def sendMsix (v : Nat) (s : State) : State :=
  setVector { vectorAt s v with waiting := 0 } (emitMsix v s)

/-- An entry was posted to a queue of vector `v`: the message is sent, or the entry counts towards the
aggregation threshold, a number of entries minus 1 (R219). -/
def notify (v : Nat) (s : State) : State :=
  if coalesced s v && decide ((vectorAt s v).waiting < s.nv.feat.coalThr) then
    setVector { vectorAt s v with waiting := (vectorAt s v).waiting + 1 } s
  else sendMsix v s

/-- The entry is written, its slot frees, and an Ordered Write's queue is fetched again (R71, R218). -/
def postEntry (c : Completion) (q : Cq) (s : State) : State :=
  let s1 : State := { s with nv := { s.nv with
      waiting := s.nv.waiting.filter fun x => x.slot != c.slot
      posted := s.nv.posted ++ [c]
      sqs := modWhere (fun x => x.fence = some c.slot) (fun x => { x with fence := none })
        s.nv.sqs } }
  (if q.ien then notify q.vector else id) (modCq q.qid (fun x => { x with tail := (x.tail + 1) % x.size }) s1)

/-- COMPLETION_POST. Coast posts nothing (R168), nor does a controller that is not enabled. -/
def execCompletionPost (s : State) : Outcome :=
  .next (if s.mode.mode = .coast || ! s.nv.cc.getLsbD 0 || s.link.d3hot then s
    else match nextToPost s with
      | none => s
      | some c => match cqAt s c.cq with
        | none => s
        | some q => postEntry c q s)

/-- INTERRUPT_COALESCE_EXPIRY: the aggregation time of a vector ends. -/
def execInterruptCoalesceExpiry (vector : Nat) (s : State) : Outcome :=
  .next (if decide ((vectorAt s vector).waiting = 0) || s.mode.mode = .coast || s.link.d3hot then s
    else sendMsix vector s)

end Sys2Proof.Machine
end

