-- ==== Sys2Proof/Machine/Admin.lean ====
section
/-! DEFINITION. The admin commands that run in the host front end (Tables 10.3 and 10.4), and the frame in
which every admin command runs (R21, R221, R374, R429). -/

namespace Sys2Proof.Machine

/-- Admin opcodes of Table 10.3. -/
def adminOpcodes : List Nat :=
  [0x00, 0x01, 0x02, 0x04, 0x05, 0x06, 0x08, 0x09, 0x0A, 0x0C, 0x0D, 0x10, 0x11, 0x15, 0x80, 0x81, 0x82,
   0x84, 0xC0, 0xC1, 0xC2, 0xC4, 0xC5, 0xC6]

/-- Feature, log page and CNS identifiers: dword 10 [7:0]. -/
def lowByte (e : SqEntry) : Nat := bitsOf e.dw10 7 0

/-- The Librarian column of Table 10.3. -/
def needsLibrarian (e : SqEntry) : Bool :=
  [0x0D, 0x10, 0x11, 0x15, 0x80, 0x81, 0x82, 0x84, 0xC0, 0xC1, 0xC2, 0xC4, 0xC5, 0xC6].contains e.opcode
    || (e.opcode = 0x02 && decide (0xC0 ≤ lowByte e))
    || ((e.opcode = 0x09 || e.opcode = 0x0A) && (lowByte e = 0x0E || lowByte e = 0x04))

/-- What the minimal controller of Recovery supports (R429). -/
def recoveryAdmin (e : SqEntry) : Bool :=
  (e.opcode = 0x06 && lowByte e = 0x01) || e.opcode = 0x11
    || (e.opcode = 0x10 && decide (bitsOf e.dw10 5 3 ≤ 3))

/-- An earlier fetched command that needs the Librarian has not completed: they run one at a time in
fetch order (R221). -/
def behindLibrarian (s : State) (slot : Nat) : Bool :=
  (s.nv.cmds.takeWhile fun c => c.slot != slot).any fun c => c.qid = 0 && needsLibrarian c.e

/-- The command is held until the Librarian's restart ends (R21, R373). -/
def holdAdmin (slot : Nat) (s : State) : State :=
  modCmd slot (fun c => { c with phase := .held })
    { s with lib := { s.lib with
        heldAdmin := if s.lib.heldAdmin.contains slot then s.lib.heldAdmin
          else s.lib.heldAdmin ++ [slot] } }

/-- An admin command in slot `slot` that `pick` selects runs `f`: refused in Recovery unless supported
there, held or failed with the Librarian restarting or halted, and in its turn. -/
def runAdmin (slot : Nat) (pick : SqEntry → Bool) (f : Cmd → State → State) (s : State) : State :=
  match cmdAt s slot with
  | none => s
  | some c =>
    if c.qid != 0 || ! pick c.e || c.phase != .fetched then s
    else if s.mode.mode = .recovery then
      if recoveryAdmin c.e then f c s else finishErr slot scOpcode s
    else if ! serving s then s
    else if needsLibrarian c.e && s.lib.state = 1 then holdAdmin slot s
    else if needsLibrarian c.e && s.lib.state = 2 then finishErr slot scInternal s
    else if needsLibrarian c.e && behindLibrarian s slot then s
    else f c s

/-- INVALID_ADMIN_OPCODE: any opcode outside Table 10.3 (R221, R236). -/
def execInvalidAdminOpcode (slot : Nat) (s : State) : Outcome :=
  .next (runAdmin slot (fun e => ! adminOpcodes.contains e.opcode) (fun _ => finishErr slot scOpcode) s)

/-! ## Queues (R214, R219, R221) -/

/-- A command that has not started: it waits under R71, waits for buffers, or was only fetched. -/
def notStarted (c : Cmd) : Bool := c.phase = .fetched || c.phase = .waiting || c.phase = .stalled

/-- Command Aborted due to SQ Deletion (NVMe base specification). -/
def scSqDeleted : Nat × Nat := (0, 0x08)

/-- The commands of a queue that is being deleted and that have not started are aborted. -/
def abortQueue (q : Nat) (s : State) : State :=
  (slotsWhere (fun c => c.qid = q && notStarted c) s).foldl
    (fun t n => finishErr n scSqDeleted (dropBuffers n t)) s

/-- DELETE_IO_SUBMISSION_QUEUE: completes once every command of the queue has completed. -/
def deleteSq (slot : Nat) (c : Cmd) (s : State) : State :=
  let q := bitsOf c.e.dw10 15 0
  if q = 0 || (sqAt s q).isNone then finishErr slot (1, 0x01) s
  else
    let s1 := abortQueue q s
    if s1.nv.cmds.any (fun x => x.qid = q) || s1.nv.waiting.any (fun x => x.sq = q) then s1
    else finishOk slot 0 { s1 with nv := { s1.nv with sqs := s1.nv.sqs.filter fun x => x.qid != q } }

def execDeleteIoSubmissionQueue (slot : Nat) (s : State) : Outcome :=
  .next (runAdmin slot (fun e => e.opcode = 0x00) (deleteSq slot) s)

/-- QSIZE and QID of a create (NVMe base specification). -/
def createQid (e : SqEntry) : Nat := bitsOf e.dw10 15 0
def createSize (e : SqEntry) : Nat := bitsOf e.dw10 31 16 + 1

/-- CREATE_IO_SUBMISSION_QUEUE: QIDs 1 to 4,096, 2 to 65,536 entries, physically contiguous. -/
def createSq (slot : Nat) (c : Cmd) (s : State) : State :=
  let q := createQid c.e
  let cq := bitsOf c.e.dw11 31 16
  if q = 0 || decide (q > 4096) || (sqAt s q).isSome then finishErr slot (1, 0x01) s
  else if createSize c.e < 2 then finishErr slot (1, 0x02) s
  else if cq = 0 || decide (cq > 4096) then finishErr slot (1, 0x01) s
  else if (cqAt s cq).isNone then finishErr slot (1, 0x00) s
  else if c.e.dw11 % 2 = 0 then finishErr slot scField s
  else finishOk slot 0 { s with nv := { s.nv with
    sqs := s.nv.sqs ++ [{ qid := q, size := createSize c.e, cqid := cq, prio := bitsOf c.e.dw11 2 1,
                          tail := 0, head := 0, fence := none }] } }

def execCreateIoSubmissionQueue (slot : Nat) (s : State) : Outcome :=
  .next (runAdmin slot (fun e => e.opcode = 0x01) (createSq slot) s)

/-- DELETE_IO_COMPLETION_QUEUE: refused while a submission queue names it. -/
def deleteCq (slot : Nat) (c : Cmd) (s : State) : State :=
  let q := bitsOf c.e.dw10 15 0
  if q = 0 || (cqAt s q).isNone then finishErr slot (1, 0x01) s
  else if s.nv.sqs.any (fun x => x.cqid = q) then finishErr slot (1, 0x0C) s
  else if s.nv.waiting.any (fun x => x.cq = q) then s
  else finishOk slot 0 { s with nv := { s.nv with cqs := s.nv.cqs.filter fun x => x.qid != q } }

def execDeleteIoCompletionQueue (slot : Nat) (s : State) : Outcome :=
  .next (runAdmin slot (fun e => e.opcode = 0x04) (deleteCq slot) s)

/-- CREATE_IO_COMPLETION_QUEUE: a vector above 2,047 is refused (R219). -/
def createCq (slot : Nat) (c : Cmd) (s : State) : State :=
  let q := createQid c.e
  if q = 0 || decide (q > 4096) || (cqAt s q).isSome then finishErr slot (1, 0x01) s
  else if createSize c.e < 2 then finishErr slot (1, 0x02) s
  else if bitsOf c.e.dw11 31 16 > 2047 then finishErr slot (1, 0x08) s
  else if c.e.dw11 % 2 = 0 then finishErr slot scField s
  else finishOk slot 0 { s with nv := { s.nv with
    cqs := s.nv.cqs ++ [{ qid := q, size := createSize c.e, vector := bitsOf c.e.dw11 31 16,
                          ien := c.e.dw11.testBit 1, head := 0, tail := 0 }] } }

def execCreateIoCompletionQueue (slot : Nat) (s : State) : Outcome :=
  .next (runAdmin slot (fun e => e.opcode = 0x05) (createCq slot) s)

/-! ## Abort (R223) -/

/-- A command that Abort can stop: an Ordered Write that waits under R71, or a write that waits for its
transit buffers. -/
def abortable (c : Cmd) : Bool :=
  c.phase = .stalled || (c.qid != 0 && c.e.opcode = 0x81 && (c.phase = .waiting || c.phase = .fetched))

def abortCmd (slot : Nat) (c : Cmd) (s : State) : State :=
  match s.nv.cmds.find? fun x => x.qid = bitsOf c.e.dw10 15 0 && x.e.cid = bitsOf c.e.dw10 31 16
      && x.slot != slot with
  | none => finishOk slot 1 s
  | some x =>
    if abortable x then finishOk slot 0 (finishErr x.slot scAborted (dropBuffers x.slot s))
    else finishOk slot 1 s

def execAbort (slot : Nat) (s : State) : Outcome :=
  .next (runAdmin slot (fun e => e.opcode = 0x08) (abortCmd slot) s)

/-! ## Features (R224, Table 10.4) -/

/-- The Save bit of Set Features. -/
def saveBit (e : SqEntry) : Bool := e.dw10.testBit 31

/-- Set Features of identifier `fid` with Save clear. -/
def isSet (fid : Nat) (e : SqEntry) : Bool := e.opcode = 0x09 && lowByte e = fid && ! saveBit e

def setFeat (f : Features → Features) (s : State) : State :=
  { s with nv := { s.nv with feat := f s.nv.feat } }

/-- SET_FEATURES_ARBITRATION: weights in [31:8], burst in [2:0]. -/
def execSetFeaturesArbitration (slot : Nat) (s : State) : Outcome :=
  .next (runAdmin slot (isSet 0x01) (fun c t => finishOk slot 0 (setFeat (fun f => { f with
    arbHigh := bitsOf c.e.dw11 31 24, arbMed := bitsOf c.e.dw11 23 16,
    arbLow := bitsOf c.e.dw11 15 8, arbBurst := bitsOf c.e.dw11 2 0 }) t)) s)

/-- SET_FEATURES_POWER_MANAGEMENT: PS0 to PS2. -/
def execSetFeaturesPowerManagement (slot : Nat) (s : State) : Outcome :=
  .next (runAdmin slot (isSet 0x02) (fun c t =>
    if bitsOf c.e.dw11 4 0 > 2 then finishErr slot scField t
    else finishOk slot 0 (setFeat (fun f => { f with power := bitsOf c.e.dw11 4 0 }) t)) s)

/-- Thresholds: element 0 the composite, 1 to 8 the sensors; selector 15 all of them. -/
def setThreshold (sel v : Nat) (l : List Nat) : List Nat :=
  if sel = 15 then l.map fun _ => v else l.set sel v

/-- SET_FEATURES_TEMPERATURE_THRESHOLD: TMPTH [15:0], TMPSEL [19:16], THSEL [21:20]. -/
def execSetFeaturesTemperatureThreshold (slot : Nat) (s : State) : Outcome :=
  .next (runAdmin slot (isSet 0x04) (fun c t =>
    let sel := bitsOf c.e.dw11 19 16
    let side := bitsOf c.e.dw11 21 20
    if (decide (sel > 8) && sel != 15) || decide (side > 1) then finishErr slot scField t
    else finishOk slot 0 (setFeat (fun f =>
      if side = 0 then { f with overTemp := setThreshold sel (bitsOf c.e.dw11 15 0) f.overTemp }
      else { f with underTemp := setThreshold sel (bitsOf c.e.dw11 15 0) f.underTemp }) t)) s)

/-- SET_FEATURES_NUMBER_OF_QUEUES: always 0x0FFF_0FFF (R214). -/
def execSetFeaturesNumberOfQueues (slot : Nat) (s : State) : Outcome :=
  .next (runAdmin slot (isSet 0x07) (fun _ => finishOk slot 0x0FFF0FFF) s)

/-- SET_FEATURES_INTERRUPT_COALESCING: threshold [7:0], time [15:8] in units of 100 µs (R219). -/
def execSetFeaturesInterruptCoalescing (slot : Nat) (s : State) : Outcome :=
  .next (runAdmin slot (isSet 0x08) (fun c t => finishOk slot 0 (setFeat (fun f => { f with
    coalThr := bitsOf c.e.dw11 7 0, coalTime := bitsOf c.e.dw11 15 8 }) t)) s)

/-- SET_FEATURES_INT_VECTOR_CONFIG: vector [15:0], Coalescing Disable [16] (R219). -/
def execSetFeaturesIntVectorConfig (slot : Nat) (s : State) : Outcome :=
  .next (runAdmin slot (isSet 0x09) (fun c t =>
    let v := bitsOf c.e.dw11 15 0
    if v > 2047 then finishErr slot scField t
    else finishOk slot 0 (setVector { vectorAt t v with noCoal := c.e.dw11.testBit 16 } t)) s)

/-- SET_FEATURES_WRITE_ATOMICITY: accepted; atomicity stays per card (R229). -/
def execSetFeaturesWriteAtomicity (slot : Nat) (s : State) : Outcome :=
  .next (runAdmin slot (isSet 0x0A) (fun c t => finishOk slot 0 (setFeat (fun f => { f with
    atomicity := bitsOf c.e.dw11 0 0 }) t)) s)

/-- SET_FEATURES_ASYNC_EVENT_CONFIG: SMART warnings [7:0], namespace attribute [8], firmware activation
[9], ANA change [11] notices. -/
def execSetFeaturesAsyncEventConfig (slot : Nat) (s : State) : Outcome :=
  .next (runAdmin slot (isSet 0x0B) (fun c t => finishOk slot 0 (setFeat (fun f => { f with
    async := BitVec.ofNat 32 c.e.dw11 &&& 0xBFF#32 }) t)) s)

/-- SET_FEATURES_TIMESTAMP: stored, and paired with TIME in a TIMESTAMP record (R394). -/
def execSetFeaturesTimestamp (slot ms : Nat) (s : State) : Outcome :=
  .next (runAdmin slot (isSet 0x0E) (fun _ t =>
    finishOk slot 0 (record 0x0401 [(6, ms % 2 ^ 48), (1, 1)] (setFeat (fun f => { f with
      stampMs := ms % 2 ^ 48, stampAt := t.clock.opMs, stampOrigin := 1 }) t))) s)

/-- The features of Table 10.4. -/
def featureIds : List Nat := [0x01, 0x02, 0x04, 0x07, 0x08, 0x09, 0x0A, 0x0B, 0x0E]

/-- SET_FEATURES_UNSUPPORTED: Save is refused, and so is any other identifier (R224). -/
def execSetFeaturesUnsupported (slot : Nat) (s : State) : Outcome :=
  .next (runAdmin slot (fun e => e.opcode = 0x09 && (saveBit e || ! featureIds.contains (lowByte e)))
    (fun c => finishErr slot (if saveBit c.e then (1, 0x0D) else scField)) s)

/-- Dword 0 of Get Features for the values `f`. -/
def featureValue (s : State) (f : Features) (e : SqEntry) : Nat :=
  match lowByte e with
  | 0x01 => f.arbBurst + 2 ^ 8 * f.arbLow + 2 ^ 16 * f.arbMed + 2 ^ 24 * f.arbHigh
  | 0x02 => f.power
  | 0x04 => natAt (if bitsOf e.dw11 21 20 = 0 then f.overTemp else f.underTemp) (bitsOf e.dw11 19 16)
  | 0x07 => 0x0FFF0FFF
  | 0x08 => f.coalThr + 256 * f.coalTime
  | 0x09 => bitsOf e.dw11 15 0 + (if (vectorAt s (bitsOf e.dw11 15 0)).noCoal then 65536 else 0)
  | 0x0A => f.atomicity
  | 0x0B => f.async.toNat
  | _ => 0

/-- The host timestamp now: the value set plus the operating time since (R394). -/
def timestampNow (s : State) (f : Features) : Nat :=
  (f.stampMs + (s.clock.opMs - f.stampAt)) % 2 ^ 48

/-- Get Features: Select 0 the present value, 1 and 2 the default, 3 the capabilities (changeable, not
saveable, not namespace specific). -/
def featureAnswer (s : State) (e : SqEntry) : (Nat × Nat) × Nat × Option Blob :=
  let sel := bitsOf e.dw10 10 8
  let f := if sel = 0 then s.nv.feat else freshFeatures
  if ! featureIds.contains (lowByte e) || decide (sel > 3)
      || (lowByte e = 0x04 && (decide (bitsOf e.dw11 19 16 > 8) || decide (bitsOf e.dw11 21 20 > 1)))
      || (lowByte e = 0x09 && decide (bitsOf e.dw11 15 0 > 2047)) then (scField, 0, none)
  else if sel = 3 then (scSuccess, 4, none)
  else if lowByte e = 0x0E then
    (scSuccess, 0, some { len := 8, fields := [(0, 6, timestampNow s f), (6, 1, 2 * f.stampOrigin)] })
  else (scSuccess, featureValue s f e, none)

/-- The answer goes to the host. -/
def getFeature (slot : Nat) (c : Cmd) (s : State) : State :=
  match featureAnswer s c.e with
  | (st, dw0, b) =>
    if st != scSuccess then finishErr slot st s
    else finishOk slot dw0 (match b with | some x => sendData slot x s | none => s)

def execGetFeatures (slot : Nat) (s : State) : Outcome :=
  .next (runAdmin slot (fun e => e.opcode = 0x0A) (getFeature slot) s)

/-! ## Asynchronous events (R215, R221) -/

/-- ASYNCHRONOUS_EVENT_REQUEST: 16 outstanding at most; a waiting event completes it at once. -/
def takeAer (slot : Nat) (_c : Cmd) (s : State) : State :=
  match s.nv.events with
  | ev :: rest =>
    finishOk slot (ev.typ + 256 * ev.info + 65536 * eventPage ev.typ ev.info)
      { s with nv := { s.nv with events := rest } }
  | [] =>
    if s.nv.aers.length ≥ 16 then finishErr slot (1, 0x05) s
    else modCmd slot (fun c => { c with phase := .running })
      { s with nv := { s.nv with aers := s.nv.aers ++ [slot] } }

def execAsynchronousEventRequest (slot : Nat) (s : State) : Outcome :=
  .next (runAdmin slot (fun e => e.opcode = 0x0C) (takeAer slot) s)

/-! ## Register writes (R207, R213) -/

/-- Writes to the NVMe registers of BAR0 that have no command of their own: INTMS sets, INTMC clears, CC
keeps EN and SHN, and the admin queue registers are set. -/
def writeBar0 (off size value : Nat) (s : State) : State :=
  let w := BitVec.ofNat 32 value
  let nv := s.nv
  match off, size with
  | 0x0C, 4 => { s with nv := { nv with intms := nv.intms ||| w } }
  | 0x10, 4 => { s with nv := { nv with intms := nv.intms &&& ~~~ w } }
  | 0x14, 4 => { s with nv := { nv with cc := (nv.cc &&& 0xC001#32) ||| (w &&& 0x00FF3FF0#32) } }
  | 0x24, 4 => { s with nv := { nv with aqa := w &&& 0x0FFF0FFF#32 } }
  | 0x28, 8 => { s with nv := { nv with asq := BitVec.ofNat 64 value &&& 0xFFFFFFFFFFFFF000#64 } }
  | 0x28, 4 => { s with nv := { nv with
      asq := (nv.asq.extractLsb' 32 32 : Word32) ++ (w &&& 0xFFFFF000#32) } }
  | 0x2C, 4 => { s with nv := { nv with asq := w ++ (nv.asq.extractLsb' 0 32 : Word32) } }
  | 0x30, 8 => { s with nv := { nv with acq := BitVec.ofNat 64 value &&& 0xFFFFFFFFFFFFF000#64 } }
  | 0x30, 4 => { s with nv := { nv with
      acq := (nv.acq.extractLsb' 32 32 : Word32) ++ (w &&& 0xFFFFF000#32) } }
  | 0x34, 4 => { s with nv := { nv with acq := w ++ (nv.acq.extractLsb' 0 32 : Word32) } }
  | _, _ => s

/-- A dword of the MSI-X table; a vector that is unmasked sends its pending message. -/
def writeMsix (i value : Nat) (s : State) : State :=
  let v := i / 4
  let s1 : State := { s with nv := { s.nv with
      msixTab := mapPut (if i % 4 = 3 then 1 else 0) i (value % 2 ^ 32) s.nv.msixTab } }
  if s1.nv.pba.contains v && ! vectorMasked s1 v then
    emitMsix v { s1 with nv := { s1.nv with pba := s1.nv.pba.filter fun x => x != v } }
  else s1

end Sys2Proof.Machine
end

