-- ==== Sys2Proof/Machine/Placement.lean ====
section
/-! DEFINITION. Placing cards (R30, R34, R58 to R60, R67, R68, R73, R76, R81, R94): keys of a card,
accession numbers, streams, host cards and runs, partial cards, and the writes that wait for a place. -/

namespace Sys2Proof.Machine

/-! ## The key of a card (R250, R254, R263) -/

/-- Key slot of range `r` of a namespace (Table 11.3). -/
def keySlot (nsid r : Nat) : Nat := 4 * (nsid - 1) + r

/-- The locking range of a card: 1 to 3 where a range of non-zero length holds its bytes, else 0. -/
def rangeOfCard (s : State) (nsid c : Nat) : Nat :=
  match s.key.ranges.find? fun x => x.nsid = nsid && x.r != 0 && decide (x.start ≤ 4096 * c)
      && decide (4096 * c < x.start + x.len) with
  | some x => x.r
  | none => 0

/-- Key slot of card `c` of a namespace. -/
def slotOfCard (s : State) (nsid c : Nat) : Nat := keySlot nsid (rangeOfCard s nsid c)

/-- Every key record of the ring that is valid for slot `k` and not zeroised. -/
def recordsOf (s : State) (k : Nat) : List KeyRec :=
  s.key.ring.flatten.filter fun r => r.slot = k && ! r.zeroised

/-- The record in force: the highest GENERATION (R254). -/
def recInForce (s : State) (k : Nat) : Option KeyRec :=
  (recordsOf s k).foldl (fun m r => match m with
    | none => some r
    | some x => if x.gen ≤ r.gen then some r else some x) none

/-- The key loaded in slot `k`; none while the slot is empty (R257). -/
def keyLoaded (s : State) (k : Nat) : Option Nat := mapGet k s.key.loaded

/-- ACC_FROM of the key in slot `k` (R249). -/
def accFrom (s : State) (k : Nat) : Nat :=
  match recInForce s k with
  | some r => r.accFrom
  | none => 0

/-- A card that counts as unmapped, its number being below the ACC_FROM of its slot's key (R249). A fox
replacement carries number 0 and stays a card with its mark (R155). -/
def swept (s : State) (nsid c : Nat) (x : Stored) : Bool :=
  decide (x.md.accession < accFrom s (slotOfCard s nsid c)) && ! x.md.fox

/-- Eight zero sectors. -/
def zeroCard : List Nat := [0, 0, 0, 0, 0, 0, 0, 0]

/-! ## Accession numbers (R30, R34) -/

/-- The bound A_s + 2^31 that no issued number reaches. -/
def accLimit (s : State) : Nat := 2147483648 + s.inv.refFloor

/-- The next number, when it may be issued: below the bound, and with less than 256 MiB of Ledger behind the
newest published redo point (R34, R48). -/
def issueCard (s : State) : Option (Nat × State) :=
  if s.cat.nextAcc < accLimit s && decide (ledgerDistance s < ledgerWindow) then
    some (s.cat.nextAcc, { s with cat := { s.cat with nextAcc := s.cat.nextAcc + 1 } })
  else none

/-- The next 16-aligned block of 16 numbers. -/
def issueRun (s : State) : Option (Nat × State) :=
  let base := 16 * ceilDiv s.cat.nextAcc 16
  if base + 15 < accLimit s && decide (ledgerDistance s < ledgerWindow) then
    some (base, { s with cat := { s.cat with nextAcc := base + 16 } })
  else none

/-! ## Streams (R60, R68, R76, R81) -/

/-- Carrel overflow begins at the carrel ceiling and ends 5 percentage points below it (R76). -/
def overflowAt (ceiling : Nat) (s : State) : Bool :=
  if fillAtLeast s ceiling then true else s.wr.overflow && ! fillAtMost s (ceiling - 5)

def overflowNow (s : State) : Bool := overflowAt (profileParam s 3) s

/-- The overflow state after a change of fill. -/
def setOverflow (s : State) : State := { s with wr := { s.wr with overflow := overflowNow s } }

/-- The current version of a card lies in the carrel. -/
def versionInCarrel (s : State) (shelf i : Nat) : Bool :=
  match mapped s shelf i with
  | some (p, _, _) => match ppaEntry s p with
    | some n => inCarrel s n
    | none => false
  | none => false

/-- A write that may land in the stacks: it started with Coast armed and FUA clear (R68), and Preserve is
not in force (R105). -/
def stacksAllowed (s : State) (c : Cmd) : Bool :=
  c.armed && ! fuaOf c.e && s.mode.mode != .preserve

/-- Stream and region (`true`: carrel) of a host card or run; `bypass`: the write meets R81. The carrel ceiling is
the one in force when the command was fetched (R82, Table 3.7). -/
def hostStream (s : State) (c : Cmd) (bypass : Bool) (shelf : Nat) (cards : List Nat) : Nat × Bool :=
  if stacksAllowed s c && (bypass || overflowAt c.ceiling s) then (1, false)
  else if cards.any (fun i => versionInCarrel s shelf i) then (0, true)
  else (1, true)

/-! ## Host cards and runs -/

/-- The card metadata of a host card (Table 3.1). -/
def hostMeta (acc nsid lba stream key : Nat) : CardMeta :=
  { accession := acc, nsid := nsid, lba := lba, age := ageOf acc, stream := stream, plain := false,
    pad := false, fox := false, keyGen := key }

/-- A host card in transit at `ppa`. -/
def hostTransit (ppa : Ppa) (slot nsid shelf i group : Nat) (x : Stored) : TransitCard :=
  { ppa := ppa, nsid := nsid, shelf := shelf, card := i, owner := some slot, group := group, card4k := x,
    isAcked := false, pageDone := false, parLeft := 2, foxFlag := false, move := none, run := false }

/-- A record of the write was appended: the write waits for its number. -/
def noteRecord (slot : Nat) (ppas : List Ppa) (s : State) : State :=
  modCmd slot (fun c => { c with needSeq := s.led.nextSeq - 1, needPpa := c.needPpa ++ ppas }) s

/-- The record is appended, or the placement has to wait (R45). -/
def appendNow (r : LedgerRec) (s : State) : Option State :=
  let t := append r s
  if t.led.stalled.isEmpty then some t else none

/-- Cards of a host write join the transit buffer and the counts of Table 16.8; `past`: they bypass the carrel. -/
def addHostCards (past : Bool) (cards : List TransitCard) (s : State) : State :=
  { s with wr := { s.wr with
      transit := s.wr.transit ++ cards
      hostCards := sat64 (s.wr.hostCards + cards.length)
      bypassCards := if past then sat64 (s.wr.bypassCards + cards.length) else s.wr.bypassCards } }

/-- The places of a row are filled, the shelf list takes its positions, and the record is appended (R61, R65). -/
def bookCards (slot : Nat) (r : OpenRow) (cells : List Nat) (list : List (Nat × Nat × Nat)) (ppas : List Ppa)
    (rec : LedgerRec) (s : State) : Option State :=
  (appendNow rec (fillCells r.id cells (noteList r list s))).map (noteRecord slot ppas)

/-- OLD_PPA of a CARD_WRITE: the PPA replaced when the map can name it now. -/
def replacedPpa (s : State) (shelf i : Nat) : Ppa :=
  match lookup s shelf i with
  | .at p _ _ => p
  | _ => 0

/-- Card `i` of `shelf`, card LBA `lba`, is numbered, encrypted, placed and recorded. -/
def placeCard (slot : Nat) (c : Cmd) (n : Namespace) (bypass : Bool) (shelf i lba : Nat)
    (data : List Nat) (pick : Nat) (s : State) : Option State :=
  match issueCard s with
  | none => none
  | some (acc, s1) =>
    let (stream, carrel) := hostStream s1 c bypass shelf [i]
    match takeCells stream carrel 0 none false pick s1 with
    | none => none
    | some (r, cells, s2) => match cells with
      | [] => none
      | p :: _ =>
        let ppa := rowPpa s2 r p
        let md := hostMeta acc n.nsid lba stream ((keyLoaded s (slotOfCard s n.nsid lba)).getD 0)
        bookCards slot r [p] [(p, shelf, i)] [ppa] (cardRec 0x1 shelf i (replacedPpa s shelf i) ppa acc)
          (addHostCards (bypass && ! carrel)
            [hostTransit ppa slot n.nsid shelf i c.group { data := data, md := md }] s2)

/-- The 16 cards of a shelf are placed together as a run (R27, R30). `lba`: card LBA of card 0. -/
def placeRun (slot : Nat) (c : Cmd) (n : Namespace) (bypass : Bool) (shelf lba : Nat)
    (data : Nat → List Nat) (pick : Nat) (s : State) : Option State :=
  match issueRun s with
  | none => none
  | some (base, s1) =>
    let (stream, carrel) := hostStream s1 c bypass shelf (List.range 16)
    match takeCells stream carrel 0 none true pick s1 with
    | none => none
    | some (r, cells, s2) =>
      if cells.length != 16 then none
      else
        let ppas := cells.map fun p => rowPpa s2 r p
        let cards := (List.range 16).map fun i =>
          hostTransit (ppas.getD i 0) slot n.nsid shelf i c.group
            { data := data (lba + i)
              md := hostMeta (base + i) n.nsid (lba + i) stream
                ((keyLoaded s (slotOfCard s n.nsid (lba + i))).getD 0) }
        let list := (List.range 16).map fun i => (natAt cells i, shelf, i)
        bookCards slot r cells list ppas (cardRec 0x2 shelf 0 0 (ppas.getD 0 0) base)
          (addHostCards (bypass && ! carrel) cards s2)

/-! ## The cards of a write -/

/-- The pieces a write is placed in: whole shelves as runs, other whole cards one by one. -/
inductive Piece where
  | run (c : Nat)
  | card (c : Nat)
  deriving DecidableEq, Repr

/-- The whole cards of a sector range, whole shelves as runs. -/
def piecesOf (first count : Nat) : List Piece :=
  let runAt := fun b => wholeCard first count b && wholeCard first count (b + 15)
  (cardsOf first count).filterMap fun c =>
    if ! wholeCard first count c then none
    else if runAt (16 * (c / 16)) then (if c % 16 = 0 then some (.run c) else none)
    else some (.card c)

/-- The cards that a sector range covers only in part. -/
def partialCards (first count : Nat) : List Nat :=
  (cardsOf first count).filter fun c => ! wholeCard first count c

/-- The sectors of card `c` in the data of a write that starts at sector `first`. -/
def sliceCard (first : Nat) (data : List Nat) (c : Nat) : List Nat :=
  (List.range 8).map fun i => natAt data (8 * c + i - first)

/-- The write meets the last three conditions of R81 (`c.bypass`: it extends a detector with 1 MiB; `c.past`: carrel
bypass was on when it was fetched, R82). -/
def bypasses (s : State) (c : Cmd) (first count : Nat) : Bool :=
  c.bypass && c.past && stacksAllowed s c && (partialCards first count).isEmpty

/-- One piece of a write. -/
def placePiece (slot : Nat) (c : Cmd) (n : Namespace) (first count pick : Nat) (p : Piece) (s : State) :
    Option State :=
  match p with
  | .run b => match cardPlace n b with
    | none => none
    | some (sh, _) =>
      placeRun slot { c with group := cardGroup n c b } n (bypasses s c first count) sh b (sliceCard first c.data)
        pick s
  | .card b => match cardPlace n b with
    | none => none
    | some (sh, i) =>
      placeCard slot { c with group := cardGroup n c b } n (bypasses s c first count) sh i b
        (sliceCard first c.data b) pick s

/-- All pieces, or none of them. -/
def placePieces (slot : Nat) (c : Cmd) (n : Namespace) (first count : Nat) (picks : List Nat) :
    List Piece → State → Option State
  | [], s => some s
  | p :: ps, s => match placePiece slot c n first count (natAt picks 0) p s with
    | none => none
    | some t => placePieces slot c n first count (picks.drop 1) ps t

/-- Buffers of the command in `slot`, each handed to a group of its own from `g` on. -/
def regroup (slot : Nat) : Nat → List (Requester × Nat × Nat) → List (Requester × Nat × Nat)
  | _, [] => []
  | g, h :: l => if h.1 = .slot slot then (groupReq g, h.2) :: regroup slot (g + 1) l else h :: regroup slot g l

/-- The buffers of the command go over to the groups of the cards that lie in them, which free them (R58, R64). -/
def handToGroup (slot : Nat) (s : State) : State :=
  let g := s.wr.nextGroup + 1
  modCmd slot (fun x => { x with group := g })
    { s with
        wr := { s.wr with nextGroup := s.wr.nextGroup + (s.pools.held.filter fun h => h.1 = .slot slot).length }
        pools := { s.pools with held := regroup slot g s.pools.held } }

/-- The write has placed its whole cards. -/
def markPlaced (slot : Nat) (s : State) : State := modCmd slot (fun c => { c with phase := .placed }) s

/-- Every whole card of a write whose data is here is placed; while that cannot be done the write waits
and is not failed (R34, R45, R76, R94, R169). -/
def placeWrite (slot : Nat) (picks : List Nat) (s : State) : State :=
  match cmdAt s slot with
  | none => s
  | some c => match nsAt s c.e.nsid with
    | none => s
    | some n =>
      let first := firstSector n c.e
      let count := sectorCount n c.e
      let pieces := piecesOf first count
      let go := fun (t : State) =>
        placePieces slot { c with group := t.wr.nextGroup + 1 } n first count picks pieces
          (setOverflow (handToGroup slot t))
      match go s with
      | some t => settleWrites (freeTransit (markPlaced slot t))
      | none => stallRow pieces.length (fun t => (go t).isSome) (modCmd slot (fun x => { x with phase := .held }) s)

/-- A host write whose cards wait for a place. -/
def heldWrite (c : Cmd) : Bool := c.qid != 0 && c.phase = .held && (c.e.opcode = 0x01 || c.e.opcode = 0x81
  || c.e.opcode = 0x08)


/-! ## Card locks (R73, R74) -/

/-- The command takes the lock of a card, or waits for it. -/
def askLock (slot shelf card : Nat) (s : State) : State :=
  if s.wr.locks.any fun l => l.shelf = shelf && l.card = card then
    { s with wr := { s.wr with
        locks := modWhere (fun l => l.shelf = shelf && l.card = card)
          (fun l => { l with waiters := l.waiters ++ [slot] }) s.wr.locks } }
  else
    { s with wr := { s.wr with
        locks := s.wr.locks ++
          [{ shelf := shelf, card := card, holder := slot, granted := false, waiters := [] }] } }

/-- The lock passes to the command that has waited longest, or is free. -/
def passLock (shelf card : Nat) (s : State) : State :=
  { s with wr := { s.wr with
      locks := s.wr.locks.filterMap fun l =>
        if l.shelf = shelf && l.card = card then
          match l.waiters with
          | [] => none
          | w :: ws => some { l with holder := w, granted := false, waiters := ws }
        else some l } }

/-- The command holds the lock of the card. -/
def holdsLock (s : State) (slot shelf card : Nat) : Bool :=
  s.wr.locks.any fun l => l.shelf = shelf && l.card = card && l.holder = slot

/-- Where the old contents of a card are (R41, R73): at hand, on flash, in a card with a fox mark, or behind a map
miss. -/
inductive OldCard where
  | here (sectors : List Nat)
  | flash (ppa : Ppa) (age : Nat)
  | marked
  | miss (page : Bool) (index : Nat)
  deriving DecidableEq, Repr

/-- The old contents of card `i` of a shelf: zeros when it is unmapped or its number is below ACC_FROM, the transit
copy where there is one, else a read of flash (R40, R41, R73, R249). -/
def oldContents (s : State) (nsid lba shelf i : Nat) : OldCard :=
  match lookup s shelf i with
  | .zeros => .here zeroCard
  | .missPage p => .miss true p
  | .missSegment g => .miss false g
  | .at p age fox =>
    if fox then .marked
    else match transitAt s p with
      | some c => .here (if swept s nsid lba c.card4k then zeroCard else c.card4k.data)
      | none => .flash p age

/-- The card leaves the write's list, its lock passes on, and the write completes at its point. -/
def donePartial (slot shelf i lba : Nat) (s : State) : State :=
  settleWrites (freeTransit (passLock shelf i
    (modCmd slot (fun c => { c with
      want := c.want.filter fun w => w != (shelf, i), got := c.got.filter fun g => g.1 != lba }) s)))

/-- A card of a command fails with a fox status (R74, R157). -/
def failCard (slot lba : Nat) (st : Nat × Nat) (s : State) : State :=
  modCmd slot (fun c => { c with
    fails := c.fails ++ [{ lba := lba, sct := st.1, sc := st.2, fox := foxStatus st }] }) s

/-- The card of the namespace at shelf and card. -/
def cardOfPlace (n : Namespace) (shelf i : Nat) (first count : Nat) : Option Nat :=
  (cardsOf first count).find? fun c => cardPlace n c = some (shelf, i)

/-- The namespace of a command's card, and the card's LBA index, for a place the command still wants. -/
def partialOf (s : State) (slot shelf i : Nat) : Option (Cmd × Namespace × Nat) :=
  match cmdAt s slot with
  | none => none
  | some c => match nsAt s c.e.nsid with
    | none => none
    | some n =>
      if ! (c.want.contains (shelf, i) && holdsLock s slot shelf i && c.phase = .placed) then none
      else (cardOfPlace n shelf i (firstSector n c.e) (sectorCount n c.e)).map fun lba => (c, n, lba)

/-- The old contents are here: the holder merges its bytes into them and writes a new card; while that card has no
place they are kept (R73). -/
def mergeOld (slot shelf i : Nat) (sectors : List Nat) (pick : Nat) (s : State) : State :=
  match partialOf s slot shelf i with
  | none => s
  | some (c, n, lba) =>
    let go := fun (t : State) =>
      placeCard slot { c with group := cardGroup n c lba } n false shelf i lba
        (mergeCard (firstSector n c.e) c.data lba sectors) pick (setOverflow t)
    match go s with
    | some t => donePartial slot shelf i lba t
    | none => stallRow 1 (fun t => (go t).isSome) (modCmd slot (fun x => { x with
        got := if x.got.any (fun g => g.1 = lba) then x.got else x.got ++ [(lba, sectors)] }) s)

/-- A partly covered card whose old contents cannot be had keeps them and its mark; its command fails (R74, R157). -/
def failPartial (slot shelf i : Nat) (st : Nat × Nat) (s : State) : State :=
  match partialOf s slot shelf i with
  | none => s
  | some (_, n, lba) => donePartial slot shelf i lba (failCard slot (cardLba n lba) st s)

/-- The old contents of the card at (shelf, `i`) are under way to the command. -/
def mergeUnderWay (slot shelf i : Nat) (s : State) : Bool :=
  readUnderWay (fun _ y => match y with
    | .merge a b c _ _ => a = slot && b = shelf && c = i
    | _ => false) s

/-- The holder of a card's lock obtains the old contents: those it has, those in transit or of an unmapped card, or
those a class 0 read brings (R73, R121). -/
def obtainOld (slot shelf i pick : Nat) (s : State) : State :=
  match partialOf s slot shelf i with
  | none => s
  | some (c, n, lba) => match c.got.find? fun g => g.1 = lba with
    | some g => mergeOld slot shelf i g.2 pick s
    | none =>
      if mergeUnderWay slot shelf i s then s
      else match oldContents s n.nsid lba shelf i with
        | .here sectors => mergeOld slot shelf i sectors pick (touchSegment shelf s)
        | .marked => failPartial slot shelf i scUnrecovered (touchSegment shelf s)
        | .miss page index => startLoad page index s
        | .flash p age =>
          queueRead { ppa := p, cls := 0, why := .merge slot shelf i lba age } (touchSegment shelf s)

/-- CARD_LOCK_GRANT: the command at the head of a card's lock takes it and obtains the old contents (R73, R74). -/
def grantLock (slot shelf i : Nat) (picks : List Nat) (s : State) : State :=
  match partialOf s slot shelf i with
  | none => s
  | some _ => obtainOld slot shelf i (natAt picks 0)
      { s with wr := { s.wr with
        locks := modWhere (fun l => l.shelf = shelf && l.card = i && l.holder = slot)
          (fun l => { l with granted := true }) s.wr.locks } }

/-- Partial writes that hold their lock go on: those that waited for the map, for their read, or for a place. -/
def resumeLocks (s : State) : State :=
  (s.wr.locks.filter fun l => l.granted).foldl (fun t l => obtainOld l.holder l.shelf l.card 0 t) s

/-- The writes that wait are tried again, in slot order. -/
def resumeHeld (s : State) : State :=
  let slots := slotsWhere heldWrite s
  resumeLocks (slots.foldl (fun t n => placeWrite n [] t) s)

/-! ## WRITE_DATA_ARRIVED (R204, R230) -/

/-- Bytes of protection information of a logical block: the guard is of 64 bits in format 4 (Table 10.8). -/
def guard64 (n : Namespace) : Bool := n.lbaf = 4

/-- The guard over a logical block. -/
def guardOf (n : Namespace) (block : List Nat) : Nat :=
  let l := block.flatMap fun d => leBytes 512 d
  if guard64 n then (crc64Nvme l).toNat else (t10Crc l).toNat

/-- PRACT and PRCHK of the command: guard, application tag, reference tag. -/
def practOf (e : SqEntry) : Bool := e.dw12.testBit 29
def checksGuard (e : SqEntry) : Bool := e.dw12.testBit 28
def checksApp (e : SqEntry) : Bool := e.dw12.testBit 27
def checksRef (e : SqEntry) : Bool := e.dw12.testBit 26

/-- LBAT and LBATM of the command. -/
def lbatOf (e : SqEntry) : Nat := bitsOf e.dw15 15 0
def lbatmOf (e : SqEntry) : Nat := bitsOf e.dw15 31 16

/-- Bits of a reference tag: 32, or 48 in the format with the 64-bit guard. -/
def refBits (n : Namespace) : Nat := if guard64 n then 48 else 32

/-- The initial reference tag: dword 14, and above it the low half of dword 3 with the 64-bit guard (Table 10.10, log entry
149). -/
def firstTag (n : Namespace) (e : SqEntry) : Nat :=
  if guard64 n then e.dw14 + 2 ^ 32 * (e.dw3 % 2 ^ 16) else e.dw14

/-- The expected reference tag of block `i`: it rises with the blocks in types 1 and 2, and stays in type 3. -/
def refTag (n : Namespace) (e : SqEntry) (i : Nat) : Nat :=
  if n.pi = 3 then firstTag n e else (firstTag n e + i) % 2 ^ refBits n

/-- The tags that switch off the checks of a block: application tag FFFFh, and in type 3 the reference tag all ones too. -/
def piEscape (n : Namespace) (x : Nat × Nat × Nat) : Bool :=
  x.2.1 = 0xFFFF && (n.pi != 3 || x.2.2 = 2 ^ refBits n - 1)

/-- The check of block `i`, its protection information against what the command expects. -/
def blockCheck (n : Namespace) (e : SqEntry) (i : Nat) (block : List Nat) (x : Nat × Nat × Nat) : Option (Nat × Nat) :=
  if piEscape n x then none
  else if checksGuard e && x.1 != guardOf n block then some (2, 0x82)
  else if checksApp e && (x.2.1 &&& lbatmOf e) != (lbatOf e &&& lbatmOf e) then some (2, 0x83)
  else if checksRef e && n.pi != 3 && x.2.2 != refTag n e i then some (2, 0x84)
  else none

/-- The sectors of block `i` of a transfer. -/
def blockAt (n : Namespace) (data : List Nat) (i : Nat) : List Nat := (data.drop (lbaSectors n * i)).take (lbaSectors n)

/-- The host transfers protection information with the command's data (R230): with PRACT the controller makes it. -/
def infoComes (n : Namespace) (e : SqEntry) : Bool := n.pi != 0 && ! practOf e && e.opcode != 0x08

/-- What came with the data is what the command transfers. -/
def infoWhole (n : Namespace) (e : SqEntry) (info : List (Nat × Nat × Nat)) : Bool :=
  info.length = if infoComes n e then nlbOf e else 0

/-- The first block whose protection information fails, and the status (R162, R230). -/
def piFailed (n : Namespace) (e : SqEntry) (data : List Nat) (info : List (Nat × Nat × Nat)) :
    Option (Nat × (Nat × Nat)) :=
  if ! infoComes n e then none
  else (List.range info.length).findSome? fun i =>
    (blockCheck n e i (blockAt n data i) (info.getD i (0, 0, 0))).map fun st => (i, st)

/-- The command fails with the status of the failing card of lowest LBA, that of logical block `i` of the command, and the
Error Information entry names that card's first LBA (R162). -/
def failPi (slot : Nat) (i : Nat) (st : Nat × Nat) (n : Namespace) (s : State) : State :=
  match cmdAt s slot with
  | none => s
  | some c => finishAt slot st (cardLba n ((firstSector n c.e + lbaSectors n * i) / 8)) (dnrOf st false) 0
      (freeAllOf (.slot slot) s)

/-- The data the write's cards take: that of the host, or zeros for Write Zeroes (R58). -/
def arrivedData (n : Namespace) (c : Cmd) (data : List Nat) : List Nat :=
  if c.e.opcode = 0x08 then List.replicate (sectorCount n c.e) 0 else data

/-- The places of the cards a command covers only in part. -/
def partialPlaces (n : Namespace) (e : SqEntry) : List (Nat × Nat) :=
  (partialCards (firstSector n e) (sectorCount n e)).filterMap fun c => cardPlace n c

/-- All data of a write to a local namespace is in its buffers: the whole cards are placed, and the
partly covered ones ask for their locks. A Write Zeroes with DEAC has released its whole cards already. -/
def dataArrived (slot : Nat) (data picks : List Nat) (info : List (Nat × Nat × Nat)) (s : State) : State :=
  match cmdAt s slot with
  | none => s
  | some c => match nsAt s c.e.nsid with
    | none => s
    | some n =>
      let d := arrivedData n c data
      if c.phase != .buffered || d.length != sectorCount n c.e || ! infoWhole n c.e info || n.spanned.isSome
          || ! (c.e.opcode = 0x01 || c.e.opcode = 0x81 || c.e.opcode = 0x08) then s
      else match piFailed n c.e d info with
        | some (i, st) => failPi slot i st n s
        | none =>
          let want := partialPlaces n c.e
          let s1 := modCmd slot (fun x => { x with data := d, want := want })
            { s with nv := { s.nv with
                unitsWr := if c.e.opcode = 0x08 then s.nv.unitsWr else s.nv.unitsWr + d.length } }
          let s2 := want.foldl (fun t w => askLock slot w.1 w.2 t) s1
          if c.e.opcode = 0x08 && deacOf c.e then markPlaced slot (handToGroup slot s2)
          else placeWrite slot picks s2

end Sys2Proof.Machine
end

