-- ==== Sys2Proof/Machine/Deliver.lean ====
section
/-! DEFINITION. What a Read and a Compare deliver: cards, fox marks, and the completion (R157, R158, R162,
R232). While a command reads, `want` lists its cards as (card LBA, 0). -/

namespace Sys2Proof.Machine

/-- Eight sectors of the fox fill byte (R157). -/
def fillCard (s : State) : List Nat := List.replicate 8 (fld s 0x690 * ones512)

/-- The sectors of a card that the command's range holds. -/
def rangePart (first count c : Nat) (sectors : List Nat) : List Nat :=
  ((List.range 8).filter fun i => decide (first ≤ 8 * c + i) && decide (8 * c + i < first + count)).map
    fun i => natAt sectors i

/-- The protection information that a read makes for the blocks of a card (R230): LBA, guard over the data as delivered,
application tag LBAT, expected reference tag. With PRACT set it is checked and stripped. -/
def readInfo (n : Namespace) (e : SqEntry) (lba : Nat) (part : List Nat) : List (Nat × Nat × Nat × Nat) :=
  if n.pi = 0 || practOf e then []
  else
    let i0 := (8 * lba - firstSector n e) / lbaSectors n
    (List.range (part.length / lbaSectors n)).map fun j =>
      (slbaOf e + i0 + j, guardOf n (blockAt n part j), lbatOf e, refTag n e (i0 + j))

/-- A card of a command that reads is here: transferred, EP-marked when `foxed` and the policy is 1. -/
def deliverCard (slot lba : Nat) (sectors : List Nat) (foxed : Bool) (s : State) : State :=
  match cmdAt s slot with
  | none => s
  | some c => match nsAt s c.e.nsid with
    | none => s
    | some n =>
      let part := rangePart (firstSector n c.e) (sectorCount n c.e) lba sectors
      let s1 := modCmd slot (fun x => { x with
        want := x.want.filter fun w => w != (lba, 0)
        got := x.got ++ [(lba, sectors)] }) s
      if c.e.opcode = 0x02 then
        { s1 with nv := { s1.nv with
            readOut := s1.nv.readOut ++ [(c.e.cid, lba, part, foxed && fld s 0x68C = 1)]
            infoOut := s1.nv.infoOut ++ (readInfo n c.e lba part).map fun x => (c.e.cid, x)
            unitsRd := s1.nv.unitsRd + part.length } }
      else s1

/-- Sectors of the delivered cards, in LBA order. -/
def deliveredAt (c : Cmd) (sector : Nat) : Nat :=
  match c.got.find? fun g => g.1 = sector / 8 with
  | some g => natAt g.2 (sector % 8)
  | none => 0

/-- The delivered data of a Compare equals its compare data. -/
def comparesEqual (n : Namespace) (c : Cmd) : Bool :=
  (List.range (sectorCount n c.e)).all fun i => deliveredAt c (firstSector n c.e + i) = natAt c.data i

/-- A command whose cards are all delivered completes; a Compare with no failing card compares
(R162, R232). -/
def finishReads (slot : Nat) (s : State) : State :=
  match cmdAt s slot with
  | none => s
  | some c =>
    if ! c.want.isEmpty || c.phase != .running || ! (c.e.opcode = 0x02 || c.e.opcode = 0x05) then s
    else match nsAt s c.e.nsid with
      | none => s
      | some n =>
        let s1 := freeAllOf (.slot slot) s
        if c.e.opcode = 0x05 && c.fails.isEmpty && ! comparesEqual n c then finishErr slot scCompare s1
        else finishCmd slot s1

/-- A fox-marked card bites: its fill bytes are transferred and the command fails with the status
(R157). -/
def bite (slot lba : Nat) (st : Nat × Nat) (sectors : List Nat) (s : State) : State :=
  match cmdAt s slot with
  | none => s
  | some c =>
    let first := match nsAt s c.e.nsid with | some n => cardLba n lba | none => 0
    finishReads slot (deliverCard slot lba sectors true (failCard slot first st s))

/-- A good card of a command that reads. -/
def deliver (slot lba : Nat) (sectors : List Nat) (s : State) : State :=
  finishReads slot (deliverCard slot lba sectors false s)

end Sys2Proof.Machine
end

