-- ==== Sys2Proof/Machine/Modes.lean ====
section
/-! DEFINITION. Mode changes that conditions bring about (R187, R188, Table 8.3). -/

namespace Sys2Proof.Machine

/-- The echelons in which this member holds a position and some position is rebuilding. -/
def rebuildingHere (s : State) : List EchelonSt :=
  s.ech.ech.filter fun e => ! e.dropped && e.view.places.any (fun p => p.2 = 3)
    && e.view.places.any fun p => p.1 = s.pel.self && decide (1 ≤ p.2) && decide (p.2 ≤ 3)

/-- A lane rebuild, or a rebuild in an echelon of this member, runs (COND_DEGRADED). -/
def degradedNow (s : State) : Bool := ! s.blk.rebuilds.isEmpty || ! (rebuildingHere s).isEmpty

/-- A position is out in an echelon in which this member holds a position: its rebuild has not begun. -/
def memberLost (s : State) : Bool :=
  s.ech.ech.any fun e => ! e.dropped && e.view.places.any (fun p => p.2 = 4)
    && e.view.places.any fun p => p.1 = s.pel.self && decide (1 ≤ p.2) && decide (p.2 ≤ 3)

/-- Service and Degraded follow the rebuilds (R188); Preserve, Warming and Coast keep their mode, with the
condition shown beside it. Degraded lasts while a lost member waits for its rebuild (DEDUCED, log entry 118). -/
def settleDegraded (s : State) : State :=
  let d := degradedNow s
  let s1 : State := { s with mode := { s.mode with degraded := d } }
  match s.mode.mode with
  | .service => if d then setMode .degraded s1 else s1
  | .degraded => if d || memberLost s then s1 else setMode .service s1
  | _ => s1

/-- An echelon member is lost: Service becomes Degraded (Table 8.3). -/
def loseMember (s : State) : State :=
  match s.mode.mode with
  | .service => if memberLost s then setMode .degraded s else s
  | _ => s

end Sys2Proof.Machine
end

