-- ==== Sys2Proof/Machine/Codex.lean ====
section
/-! DEFINITION. The Codex die, its interface and the pass-through (R395 to R415), and the runtime settings
kept in it (R364, R408). -/

namespace Sys2Proof.Machine

/-! ## Blocks and sectors (R397, R411) -/

/-- Generation `a` is ahead of generation `b` (R411). -/
def genAhead (a b : Nat) : Bool :=
  let d := (65536 + a - b % 65536) % 65536
  decide (1 ≤ d) && decide (d ≤ 32767)

/-- The active endpaper block: 0 or 1 (R411). -/
def activeBlock (s : State) : Nat :=
  match s.cdx.swap0, s.cdx.swap1 with
  | some a, some b => if genAhead b a then 1 else 0
  | none, some _ => 1
  | _, none => 0

/-- Endpaper block `n`. -/
def blockOf (s : State) (n : Nat) : SetBlock := if n = 1 then s.upd.block1 else s.upd.block0

def modBlock (n : Nat) (f : SetBlock → SetBlock) (s : State) : State :=
  { s with upd := if n = 1 then { s.upd with block1 := f s.upd.block1 }
                  else { s.upd with block0 := f s.upd.block0 } }

/-- SCHEMA of the set in the active block. -/
def runningSchema (s : State) : Nat := (blockOf s (activeBlock s)).facts.schema

/-- Sector of an array address. -/
def sectorOf (addr : Nat) : Nat := addr / 65536

/-- The endpaper block or set area a sector belongs to: block number (Table 17.2). -/
def sectorBlock (n : Nat) : Option Nat :=
  if n < 16 then some 0 else if n < 32 then some 1
  else if n < 64 then some 0 else if n < 96 then some 1 else none

/-- A sector whose flag cell is set (R404). -/
def flagged (s : State) (n : Nat) : Bool := s.cdx.flags.contains n

/-- What the structures of sector `n` hold once its erase has begun: nothing (R395, R404). The two
table sectors of the Strongroom are copies of each other, and so are the power-cycle sectors. -/
def dropSector (n : Nat) (s : State) : State :=
  if n < 32 then modBlock (n / 16) (fun _ => emptyBlock) s
  else if n < 96 then
    modBlock (if n < 64 then 0 else 1) (fun b => { b with facts := { b.facts with tablesOk := false } }) s
  else if n < 108 then { s with fol := { s.fol with bankA := .empty } }
  else if n < 112 then { s with fol := { s.fol with trainA := [] } }
  else if n < 124 then { s with fol := { s.fol with bankB := .empty } }
  else if n < 128 then { s with fol := { s.fol with trainB := [] } }
  else if n = 128 then { s with inv := { s.inv with spine0 := [] } }
  else if n = 129 then { s with inv := { s.inv with spine1 := [] } }
  else if n = 130 then { s with fol := { s.fol with rt0 := [] } }
  else if n = 131 then { s with fol := { s.fol with rt1 := [] } }
  else if n < 138 then { s with key := { s.key with ring := modAt (n - 132) (fun _ => []) s.key.ring } }
  else if n = 142 || n = 143 then { s with cdx := { s.cdx with recRecords := [] } }
  else s

/-- The bytes of sector `n` read 0xFF. -/
def clearBytes (n : Nat) (s : State) : State :=
  { s with cdx := { s.cdx with
      mem := s.cdx.mem.filter fun c => sectorOf c.1 != n
      pageProgs := s.cdx.pageProgs.filter fun c => c.1 / 256 != n } }

/-! ## Requests (R406) -/

/-- The place of a request in the order of R406; `who` as in the command. -/
def requestRank (s : State) (who addr : Nat) : Nat :=
  let n := sectorOf addr
  if (n = 128 || n = 129) && s.mode.mode = .coast then 1
  else if n = 128 || n = 129 then 2
  else if 132 ≤ n && n ≤ 139 then 3
  else if n = 130 || n = 131 || n = 140 || n = 141 then 4
  else if (108 ≤ n && n ≤ 111) || (124 ≤ n && n ≤ 127) || n = 142 || n = 143 then 5
  else if who = 4 then 5 else 6

/-- An erase of sector `n` is asked for; it is served with the other requests (R406). -/
def askErase (n : Nat) (s : State) : State :=
  if s.cdx.requests.any (fun r => r.erase && sectorOf r.addr = n) || s.cdx.erasing = some n then s
  else { s with cdx := { s.cdx with
    requests := s.cdx.requests ++
      [{ rank := 7, erase := true, addr := 65536 * n, bytes := [], who := 0, spell := none }] } }

/-- A commit erases sectors: their structures hold nothing from now on, and their erases wait their turn (R368, R421). -/
def eraseSectors (l : List Nat) (s : State) : State := l.foldl (fun t n => askErase n (dropSector n t)) s

/-- The erases of the sectors are over, passed or not. -/
def erasesOver (l : List Nat) (s : State) : Bool :=
  l.all fun n => s.cdx.erasing != some n && ! s.cdx.requests.any fun r => r.erase && sectorOf r.addr = n

/-- One of the sectors has its flag cell set. -/
def anyFlagged (l : List Nat) (s : State) : Bool := l.any fun n => flagged s n

/-! ## Runtime settings (R364, R408) -/

/-- The BINDING that a record of a key must carry (Table 15.16). -/
def rtBinding (s : State) (key : Nat) : Nat :=
  let hi := key / 65536
  if hi = 1 then (match folioInForce s with | some f => f.sequence | none => 0)
  else if hi = 2 then fld s 0xC00
  else if hi = 3 || hi = 4 then (match folioInForce s with | some f => f.folioDigest | none => 0)
  else 0

/-- The records of both sectors; one whose flag cell is set holds none (R405). -/
def rtRecords (s : State) : List RtRec :=
  (if flagged s 130 then [] else s.fol.rt0) ++ (if flagged s 131 then [] else s.fol.rt1)

/-- A record that counts: a live-field record needs the running schema, and BINDING must match (R364). -/
def rtCounts (s : State) (r : RtRec) : Bool :=
  (r.key / 65536 != 1 || r.schema = runningSchema s) && r.binding = rtBinding s r.key

/-- For a key, the valid record with the highest RS_SEQ, when it counts. -/
def rtInForce (s : State) (key : Nat) : Option RtRec :=
  let best := ((rtRecords s).filter fun r => r.key = key).foldl (fun m r => match m with
    | none => some r
    | some x => if x.seq < r.seq then some r else some x) none
  match best with
  | some r => if rtCounts s r then some r else none
  | none => none

/-- The value of a runtime setting in force. -/
def rtValue (s : State) (key : Nat) : Option Nat := (rtInForce s key).map fun r => r.value

/-- Every record in force, in rising key order. -/
def rtAll (s : State) : List RtRec :=
  ((sortBy (fun a b => decide (a < b)) ((rtRecords s).map fun r => r.key)).eraseDups).filterMap (rtInForce s)

/-- The active and the other sector. -/
def rtActive (s : State) : List RtRec := if s.fol.rtActive = 0 then s.fol.rt0 else s.fol.rt1
def rtOther (s : State) : List RtRec := if s.fol.rtActive = 0 then s.fol.rt1 else s.fol.rt0

/-- The other sector is erased and ready. -/
def rtOtherReady (s : State) : Bool :=
  (rtOther s).isEmpty && ! flagged s (131 - s.fol.rtActive)

/-- A record is appended to the active sector. -/
def rtAppend (key binding value : Nat) (s : State) : State :=
  let r : RtRec := { key := key, schema := runningSchema s, binding := binding, seq := s.fol.rtSeq + 1,
                     value := value }
  { s with fol := { s.fol with
      rtSeq := s.fol.rtSeq + 1
      rt0 := if s.fol.rtActive = 0 then s.fol.rt0 ++ [r] else s.fol.rt0
      rt1 := if s.fol.rtActive = 0 then s.fol.rt1 else s.fol.rt1 ++ [r] } }

/-- The records in force move to the other sector, each with a new RS_SEQ, and the erase of the full one is
asked for (R408). -/
def rtRotate (s : State) : State :=
  let keep := rtAll s
  let old := s.fol.rtActive
  let s1 : State := { s with fol := { s.fol with rtActive := 1 - old } }
  askErase (130 + old) (keep.foldl (fun t r => rtAppend r.key r.binding r.value t) s1)

/-- A setting can be written now. -/
def rtRoom (s : State) : Bool := decide ((rtActive s).length < 512) || rtOtherReady s

/-- A runtime setting is written and read back; with both sectors in use it waits for the erase (R408). -/
def storeRt (key value : Nat) (s : State) : State :=
  if (rtActive s).length < 512 then rtAppend key (rtBinding s key) value s
  else if rtOtherReady s then rtAppend key (rtBinding s key) value (rtRotate s)
  else { s with fol := { s.fol with rtWait := s.fol.rtWait ++ [(key, rtBinding s key, value)] } }

/-- The settings that waited are written. -/
def drainRt (s : State) : State :=
  if s.fol.rtWait.isEmpty || ! rtOtherReady s then s
  else
    let w := s.fol.rtWait
    w.foldl (fun t x => rtAppend x.1 x.2.1 x.2.2 t)
      (rtRotate { s with fol := { s.fol with rtWait := [] } })

/-- A new key would raise the number of records in force above 448 (R408). -/
def rtFull (s : State) (key : Nat) : Bool := (rtInForce s key).isNone && decide (448 ≤ (rtAll s).length)

/-! ## Status (R403) -/

/-- The next command sequence clears the outcome bits of the last one. -/
def clearStatus (s : State) : State :=
  { s with cdx := { s.cdx with
      eFail := false, pFail := false, seqErr := false, locked := false, statusNext := false,
      flagNext := none } }

/-- A sequence error: the sequence is discarded, SEQERR is set, and the die reads its array again (R400). -/
def sequenceError (s : State) : State :=
  let t := clearStatus s
  { t with cdx := { t.cdx with seqErr := true, cycles := [] } }

/-- A refused Program or Sector erase (R401). -/
def refuse (locked : Bool) (s : State) : State :=
  let t := clearStatus s
  { t with cdx := { t.cdx with pFail := true, locked := locked } }

/-- The status byte of Table 17.4. -/
def statusByte (s : State) : Nat :=
  (if s.cdx.progging.isNone && ! s.cdx.arrayErase && (s.cdx.erasing.isNone || s.cdx.erSusp) then 128 else 0)
    + (if s.cdx.erSusp then 64 else 0) + (if s.cdx.eFail then 32 else 0)
    + (if s.cdx.pFail then 16 else 0) + (if s.cdx.seqErr then 8 else 0)
    + (if s.cdx.locked then 4 else 0) + (if s.cdx.cont.isSome then 2 else 0)

/-- A requester that the interface hears now: the pass-through serves in manufacturing mode only. -/
def whoServed (s : State) (who : Nat) : Bool :=
  awake s && (who != 3 || s.mode.manufacturing) && ! s.cdx.arrayErase

/-- The protection of the active block and its set area (R401). -/
def protectedFrom (s : State) (who sector : Nat) : Bool :=
  (who = 0 || who = 3) && ! s.mode.manufacturing && sectorBlock sector = some (activeBlock s)

/-- The die, or a request ahead, keeps a new operation waiting. -/
def dieBusy (s : State) : Bool :=
  s.cdx.progging.isSome || (s.cdx.erasing.isSome && ! s.cdx.erSusp)

/-! ## Programs and erases -/

/-- A Program that the die takes: the page is being programmed. -/
def startProgram (r : CodexReq) (s : State) : State :=
  let n := sectorOf r.addr
  if s.cdx.erasing = some n then refuse false s
  else if protectedFrom s r.who n then refuse true s
  else
    let t := clearStatus s
    { t with cdx := { t.cdx with progging := some r } }

/-- A Sector erase that the die takes: the flag cell is set first, and the sector holds nothing (R404). -/
def startErase (who addr : Nat) (s : State) : State :=
  let n := sectorOf addr
  if s.cdx.erasing.isSome then refuse false s
  else if protectedFrom s who n then refuse true s
  else
    let t := dropSector n (clearStatus s)
    { t with cdx := { t.cdx with
        erasing := some n, erSusp := false, lastErase := n
        flags := if t.cdx.flags.contains n then t.cdx.flags
          else insertBy (fun a b => decide (a < b)) n t.cdx.flags } }

/-- A program or erase of a requester: issued at once when the die is free, else it waits (R406). -/
def codexRequest (r : CodexReq) (s : State) : State :=
  if dieBusy s || ! s.cdx.requests.isEmpty then
    { s with cdx := { s.cdx with requests := s.cdx.requests ++ [r] } }
  else if r.erase then startErase r.who r.addr s else startProgram r s

/-- A Program with legal cycles: 1 to 256 bytes of one page of the array (R399). -/
def programLegal (addr : Nat) (bytes : List Byte) : Bool :=
  ! bytes.isEmpty && decide (bytes.length ≤ 256) && decide (addr / 256 = (addr + bytes.length - 1) / 256)
    && decide (addr + bytes.length ≤ 0x4000000)

/-- The program of a sequence that is complete. -/
def programSeq (who addr : Nat) (bytes : List Byte) (spell : Option CodexSpell) (s : State) : State :=
  if s.cdx.cont.isSome || ! programLegal addr bytes then sequenceError s
  else codexRequest
    { rank := requestRank s who addr, erase := false, addr := addr, bytes := bytes, who := who,
      spell := spell } s

/-- The sector erase of a sequence that is complete. The die refuses it, with an erase in progress or
suspended, when a requester of its own turn sends it; the interface holds the part's own requests. -/
def eraseSeq (who addr : Nat) (s : State) : State :=
  if s.cdx.cont.isSome || decide (0x4000000 ≤ addr) then sequenceError s
  else if who = 3 && s.cdx.erasing.isSome then refuse false s
  else codexRequest
    { rank := 7, erase := true, addr := addr, bytes := [], who := who, spell := none } s

/-- CODEX_PROGRAM (R398, R399, R401). -/
def execCodexProgram (who addr : Nat) (bytes : List Byte) (spell : Option CodexSpell) (s : State) :
    Outcome :=
  .next (if whoServed s who then programSeq who addr bytes spell s else s)

/-- CODEX_SECTOR_ERASE (R399, R401, R404). -/
def execCodexSectorErase (who addr : Nat) (s : State) : Outcome :=
  .next (if whoServed s who then eraseSeq who addr s else s)

/-- A byte of the array as the die holds it. -/
def codexByte (s : State) (a : Nat) : Byte := mapAt 0xFF a s.cdx.mem

/-- A program clears bits: the byte becomes the AND of both (R398). -/
def andByte (a : Nat) (b : Byte) (s : State) : State :=
  { s with cdx := { s.cdx with mem := mapPut 0xFF a (codexByte s a &&& b) s.cdx.mem } }

/-- The bytes of a program. -/
def andBytes : Nat → List Byte → State → State
  | _, [], s => s
  | a, b :: l, s => andBytes (a + 1) l (andByte a b s)

/-- The 256 bytes of a page take undefined contents (R398). -/
def undefPage (page : Nat) (s : State) : State :=
  drawFree { s with cdx := { s.cdx with
    mem := (List.range 256).foldl
      (fun m i => mapPut 0xFF (256 * page + i) (Config.freeByte (256 * s.free + i)) m) s.cdx.mem } }

/-- A bank's bytes spell `img`; without that word a program into a bank that held an image leaves its CRC
wrong. -/
def spellBank (spell : Option CodexSpell) (b : Bank) : Bank :=
  match spell, b with
  | some (.folio f), _ => .image f
  | _, .image f => .image { f with crcOk := false }
  | _, .empty => .empty

/-- A block's bytes spell a bundle; without that word its checks fail. -/
def spellBlock (spell : Option CodexSpell) (b : SetBlock) : SetBlock :=
  match spell with
  | some (.bundle f) => { b with written := true, facts := f }
  | _ => { b with written := true, facts := noFacts }

/-- What a raw program does to the structure of its sector. -/
def spellSector (n : Nat) (spell : Option CodexSpell) (s : State) : State :=
  if n < 32 then modBlock (n / 16) (spellBlock spell) s
  else if 96 ≤ n && n < 108 then { s with fol := { s.fol with bankA := spellBank spell s.fol.bankA } }
  else if 112 ≤ n && n < 124 then { s with fol := { s.fol with bankB := spellBank spell s.fol.bankB } }
  else s

/-- A program ends: the page holds its bytes, or undefined contents after more than eight programs or
when a cell did not take its 0 (R398, R402). -/
def endProgram (r : CodexReq) (readBackOk : Bool) (s : State) : State :=
  let page := r.addr / 256
  let k := mapAt 0 page s.cdx.pageProgs + 1
  let s1 : State := { s with cdx := { s.cdx with
      progging := none, pageProgs := mapSet page k s.cdx.pageProgs } }
  let s2 := if k > 8 || ! readBackOk then undefPage page (andBytes r.addr r.bytes s1)
    else andBytes r.addr r.bytes s1
  spellSector (sectorOf r.addr) (if k > 8 || ! readBackOk then none else r.spell) s2

/-- CODEX_PROGRAM_DONE (R402). -/
def execCodexProgramDone (readBackOk : Bool) (s : State) : Outcome :=
  .next (match s.cdx.progging with
    | none => s
    | some r => drainRt (endProgram r readBackOk s))

/-- What goes on once a sector is erased: the other spine sector is ready (R52), settings that waited are
written (R408). -/
def sectorErased (n : Nat) (s : State) : State :=
  if n = 129 - s.inv.activeSpine then
    { s with inv := { s.inv with otherErased := true, erasingOther := false } }
  else drainRt s

/-- Every sector of the array is erased. -/
def eraseArray (s : State) : State :=
  let t := (List.range 144).foldl (fun t n => dropSector n t) s
  { t with
    cdx := { t.cdx with
      arrayErase := false, mem := [], pageProgs := [], flags := [], powerCycles := 0, pcRecords := 0,
      recRecords := [] }
    key := { t.key with ranges := [] } }

/-- CODEX_ERASE_DONE: a verified erase clears the flag cell; one that fails its verify sets EFAIL and
leaves it set (R402, R404, R405). -/
def execCodexEraseDone (verifyOk : Bool) (s : State) : Outcome :=
  .next (if s.cdx.arrayErase then eraseArray s
    else match s.cdx.erasing with
      | none => s
      | some n =>
        if s.cdx.erSusp then s
        else
          let s1 : State := { s with cdx := { s.cdx with erasing := none, erSusp := false } }
          if verifyOk then
            let s2 := clearBytes n s1
            sectorErased n { s2 with cdx := { s2.cdx with
              eFail := false, flags := s2.cdx.flags.filter fun x => x != n } }
          else { s1 with cdx := { s1.cdx with eFail := true, eFails := sat32 (s1.cdx.eFails + 1) } })

/-- CODEX_ERASE_SUSPEND and CODEX_ERASE_RESUME (R399, R406). -/
def execCodexEraseSuspend (s : State) : Outcome :=
  .next (if ! whoServed s 0 then s
    else if s.cdx.cont.isSome then sequenceError s
    else
      let t := clearStatus s
      { t with cdx := { t.cdx with erSusp := t.cdx.erasing.isSome } })

def execCodexEraseResume (s : State) : Outcome :=
  .next (if ! whoServed s 0 || s.mode.mode = .coast then s
    else if s.cdx.cont.isSome then sequenceError s
    else
      let t := clearStatus s
      { t with cdx := { t.cdx with erSusp := false } })

/-- CODEX_STATUS: the next read returns the status byte (R399). -/
def execCodexStatus (s : State) : Outcome :=
  .next (if whoServed s 0 then { s with cdx := { s.cdx with statusNext := true } } else s)

/-- CODEX_FLAG_CELL_QUERY: the next read returns the flag cell of its sector; an address beyond the array is of no
sector, a sequence error (R399, R400, R404). -/
def flagQuery (addr : Nat) (s : State) : State :=
  if s.cdx.cont.isSome || decide (0x4000000 ≤ addr) then sequenceError s
  else
    let t := clearStatus s
    { t with cdx := { t.cdx with flagNext := some (sectorOf addr) } }

def execCodexFlagCellQuery (addr : Nat) (s : State) : Outcome :=
  .next (if whoServed s 0 then flagQuery addr s else s)

/-- CODEX_CONTINUOUS_READ_ENTER and CODEX_CONTINUOUS_READ_EXIT (R399, R400); an address in none of the regions of
Table 17.1 starts no stream. -/
def enterContinuous (addr : Nat) (s : State) : State :=
  if s.cdx.cont.isSome || decide (0x400100C ≤ addr) then sequenceError s
  else
    let t := clearStatus s
    { t with cdx := { t.cdx with cont := some addr } }

def execCodexContinuousReadEnter (addr : Nat) (s : State) : Outcome :=
  .next (if whoServed s 0 then enterContinuous addr s else s)

def exitContinuous (s : State) : State :=
  let t := clearStatus s
  { t with cdx := { t.cdx with cont := none } }

def execCodexContinuousReadExit (s : State) : Outcome :=
  .next (if whoServed s 0 then exitContinuous s else s)

/-- Array erase: only in manufacturing mode and from the pass-through; it sets all flag cells first
(Table 17.3, R400). -/
def arrayErase (passThrough : Bool) (s : State) : State :=
  if ! passThrough || ! s.mode.manufacturing || s.cdx.cont.isSome then sequenceError s
  else if dieBusy s then refuse false s
  else
    let t := clearStatus s
    { t with cdx := { t.cdx with arrayErase := true, flags := List.range 1024 } }

def execCodexArrayErase (passThrough : Bool) (s : State) : Outcome :=
  .next (if whoServed s 0 then arrayErase passThrough s else s)

/-- CODEX_SEQUENCE_ERROR (R400). -/
def execCodexSequenceError (s : State) : Outcome :=
  .next (if whoServed s 0 then sequenceError s else s)

/-! ## The Colophon row (R409) -/

/-- Byte `i` of a Colophon segment. -/
def segByte (g : ColSegment) (i : Nat) : Byte := mapAt 0xFF i g.bytes

/-- The CRC of a segment: of its bytes 0x000 to 0x1FB, stored at 0x1FC. -/
def segCrcOk (g : ColSegment) : Bool :=
  crc32c ((List.range 508).map fun i => segByte g i)
    == (segByte g 511 ++ segByte g 510 ++ segByte g 509 ++ segByte g 508 : Word32)

/-- Bytes programmed into a segment, from offset `i` on. -/
def segProgram : Nat → List Byte → ColSegment → ColSegment
  | _, [], g => { g with crcOk := segCrcOk g }
  | i, b :: l, g => segProgram (i + 1) l { g with bytes := mapPut 0xFF i (segByte g i &&& b) g.bytes }

/-- A Colophon program: refused in a locked segment; segment 2 takes the root key and its CRC from the key
lane, whatever data the window gives. -/
def colProgram (addr : Nat) (bytes : List Byte) (s : State) : State :=
  let n := (addr - 0x4000000) / 512
  match s.cdx.colophon[n]? with
  | none => sequenceError s
  | some g =>
    if bytes.isEmpty || decide (bytes.length > 256) || s.cdx.cont.isSome
        || decide (addr / 256 != (addr + bytes.length - 1) / 256) then sequenceError s
    else if g.locked then refuse true s
    else
      let t := clearStatus s
      { t with cdx := { t.cdx with
          colophon := t.cdx.colophon.set n
            (if n = 2 then { g with crcOk := true } else segProgram (addr % 512) bytes g) } }

def execColophonProgram (addr : Nat) (bytes : List Byte) (s : State) : Outcome :=
  .next (if ! whoServed s 0 then s
    else if addr < 0x4000000 || decide (0x4000FFF < addr) then sequenceError s
    else colProgram addr bytes s)

/-- COLOPHON_LOCK: sets the lock bit of every segment in the mask. -/
def colLock (mask : Nat) (s : State) : State :=
  if s.cdx.cont.isSome then sequenceError s
  else
    let t := clearStatus s
    { t with cdx := { t.cdx with
        colophon := t.cdx.colophon.mapIdx fun i g =>
          if mask.testBit i then { g with locked := true } else g } }

def execColophonLock (mask : Nat) (s : State) : Outcome :=
  .next (if whoServed s 0 then colLock mask s else s)

/-! ## The swap cells (R411, R412) -/

/-- The swap to block `t`: cell t takes the other cell's generation plus 1. With the other cell invalid
the manual names no generation: a free value. -/
def swapTo (t : Nat) (s : State) : State :=
  let other := if t = 0 then s.cdx.swap1 else s.cdx.swap0
  let g := match other with
    | some x => (x + 1) % 65536
    | none => 256 * (Config.freeByte (256 * s.free)).toNat + (Config.freeByte (256 * s.free + 1)).toNat
  let s1 := match other with | some _ => s | none => drawFree s
  if t = 0 then { s1 with cdx := { s1.cdx with swap0 := some g } }
  else { s1 with cdx := { s1.cdx with swap1 := some g } }

/-- ENDPAPER_SWAP: from the AOC (1) and the boot ROM (2) only, and not while an erase is suspended. -/
def execEndpaperSwap (who target : Nat) (s : State) : Outcome :=
  .next (if ! whoServed s who then s
    else if ! (who = 1 || who = 2) || decide (target > 1) || s.cdx.cont.isSome then sequenceError s
    else if s.cdx.erSusp then refuse false s
    else swapTo target (clearStatus s))

/-! ## CODEX_REQUEST_SERVE (R406, R407) -/

/-- The request served next: the lowest rank, the oldest of it. -/
def nextRequest (l : List CodexReq) : Option CodexReq :=
  l.foldl (fun m r => match m with
    | none => some r
    | some x => if r.rank < x.rank then some r else some x) none

/-- A request that can be served now: an erase waits while another is in progress or suspended, and in
Coast for ever. -/
def servable (s : State) (r : CodexReq) : Bool :=
  ! r.erase || (s.cdx.erasing.isNone && s.mode.mode != .coast)

/-- The interface takes its next step: it suspends an erase that a program waits for once it has run for
5 ms, issues the next request, or resumes the erase (R406). -/
def serveCodex (ran5ms : Bool) (s : State) : State :=
  if s.cdx.progging.isSome || s.cdx.arrayErase then s
  else match nextRequest (s.cdx.requests.filter fun r => servable s r) with
    | some r =>
      if s.cdx.erasing.isSome && ! s.cdx.erSusp then
        if ran5ms then { s with cdx := { s.cdx with erSusp := true } } else s
      else
        let s1 : State := { s with cdx := { s.cdx with
            requests := dropFirst (fun x => x = r) s.cdx.requests } }
        if r.erase then startErase r.who r.addr s1 else startProgram r s1
    | none =>
      if s.cdx.erSusp && s.mode.mode != .coast then { s with cdx := { s.cdx with erSusp := false } }
      else s

def execCodexRequestServe (ran5ms : Bool) (s : State) : Outcome :=
  .next (if awake s then serveCodex ran5ms s else s)

/-! ## The pass-through (R399, R400, R414) -/

/-- The registers of Table 17.7 are served. -/
def passThroughOn (s : State) : Bool := awake s && s.mode.manufacturing && ! s.link.d3hot

/-- KS_CX_PAGE takes its base; outside manufacturing mode the write is ignored. -/
def setCxPage (value : Word32) (s : State) : State :=
  if passThroughOn s then { s with cdx := { s.cdx with cxPage := (value.extractLsb' 0 13).toNat } } else s

/-- KS_CX_ADDR takes its offset. -/
def setCxAddr (value : Word32) (s : State) : State :=
  if passThroughOn s then { s with cdx := { s.cdx with cxAddr := (value.extractLsb' 0 27).toNat } } else s

/-- KS_CX_PAGE (Table 17.7). -/
def execKsCxPageWrite (value : Word32) (s : State) : Outcome := .next (setCxPage value s)

/-- KS_CX_ADDR. -/
def execKsCxAddrWrite (value : Word32) (s : State) : Outcome := .next (setCxAddr value s)

/-- The sequence so far is one that Table 17.3 may still complete: keep its cycles. -/
def keepCycles (l : List (Nat × Nat)) (s : State) : State := { s with cdx := { s.cdx with cycles := l } }

/-- A command whose sequence is complete, with nothing left of it. -/
def doneCycles (f : State → State) (s : State) : State := f (keepCycles [] s)

/-- A Program or Colophon program under way: N − 1 at A, the N bytes at A and on, 0x29 at A. -/
def programCycles (code : Nat) (l rest : List (Nat × Nat)) (spell : Option CodexSpell) (s : State) :
    State :=
  match rest with
  | [] => keepCycles l s
  | (a, n1) :: data =>
    let n := n1 + 1
    let inOrder := (List.range (min data.length n)).all fun i =>
      match data[i]? with | some c => c.1 = a + i | none => true
    if ! inOrder then sequenceError s
    else if data.length ≤ n then keepCycles l s
    else match data[n]? with
      | some (b, 0x29) =>
        if b != a then sequenceError s
        else
          let bytes := (data.take n).map fun c => BitVec.ofNat 8 c.2
          if code = 0xA0 then doneCycles (programSeq 3 a bytes spell) s
          else if a < 0x4000000 || decide (0x4000FFF < a) then sequenceError s
          else doneCycles (colProgram a bytes) s
      | _ => sequenceError s

/-- What the cycles of a sequence after its code do. -/
def runCode (code : Nat) (l rest : List (Nat × Nat)) (spell : Option CodexSpell) (s : State) : State :=
  match code, rest with
  | 0x10, [] => doneCycles (arrayErase true) s
  | 0x0B, [] => doneCycles (enterContinuous s.cdx.cxAddr) s
  | 0xFE, [] => doneCycles exitContinuous s
  | 0xB0, [] => doneCycles (fun t => let u := clearStatus t
      { u with cdx := { u.cdx with erSusp := u.cdx.erasing.isSome } }) s
  | 0xD0, [] => doneCycles (fun t => let u := clearStatus t
      { u with cdx := { u.cdx with erSusp := false } }) s
  | 0x70, [] => doneCycles (fun t => { t with cdx := { t.cdx with statusNext := true } }) s
  | 0x46, [] => doneCycles (flagQuery s.cdx.cxAddr) s
  | 0x80, [] => keepCycles l s
  | 0x80, [(a, 0x30)] => doneCycles (eraseSeq 3 a) s
  | 0xC9, [] => keepCycles l s
  | 0xC9, [(0x4001000, m)] => doneCycles (colLock m) s
  | 0xA0, r => programCycles 0xA0 l r spell s
  | 0xC5, r => programCycles 0xC5 l r spell s
  | _, _ => sequenceError s

/-- The cycles of a sequence so far. In continuous read only Continuous-read exit and Status are taken. -/
def runCycles (l : List (Nat × Nat)) (spell : Option CodexSpell) (s : State) : State :=
  match l with
  | [] => s
  | [a] => if a = (0xD5A, 0x5A) then keepCycles l s else sequenceError s
  | [_, b] => if b = (0x2A5, 0xA5) then keepCycles l s else sequenceError s
  | _ :: _ :: (o, code) :: rest =>
    if o != 0xD5A then sequenceError s
    else if s.cdx.cont.isSome && ! (code = 0xFE || code = 0x70) then sequenceError s
    else runCode code l rest spell s

/-- One cycle of the byte at KS_CX_ADDR, which rises by 1; a gap of more than 10 µs in a sequence is a sequence error
(R400). -/
def writeCxData (value : Word32) (gapNs : Nat) (spell : Option CodexSpell) (s : State) : State :=
  if ! passThroughOn s then s
  else
    let cycle := (s.cdx.cxAddr, (value.extractLsb' 0 8).toNat)
    let t := if ! s.cdx.cycles.isEmpty && decide (gapNs > 10000) then sequenceError s
      else runCycles (s.cdx.cycles ++ [cycle]) spell s
    { t with cdx := { t.cdx with cxAddr := (s.cdx.cxAddr + 1) % 2 ^ 27 } }

/-- KS_CX_DATA. -/
def execKsCxDataWrite (value : Word32) (gapNs : Nat) (spell : Option CodexSpell) (s : State) : Outcome :=
  .next (writeCxData value gapNs spell s)

end Sys2Proof.Machine
end

