-- ==== Sys2Proof/Machine/Peloton.lean ====
section
/-! DEFINITION. The Peloton router (R268 to R295): ports and bring-up, flits and replay, arbiters, routing,
discovery and numbering, and the sending of packets. -/

namespace Sys2Proof.Machine

/-! ## Configuration (Table 12.12) -/

def pelotonId (s : State) : Nat := fld s 0xC00
def autoNumbering (s : State) : Bool := fld s 0xC04 = 1
def memberTimeoutMs (s : State) : Nat := fld s 0xC08
def ejectionCount (s : State) : Nat := fld s 0xC0C
def portUsed (s : State) (p : Nat) : Bool := (fld s 0xC40).testBit p
def portLevel1 (s : State) (p : Nat) : Bool := (fld s 0xC44).testBit p

def noPort : Port := downPort
def portAt (s : State) (p : Nat) : Port := s.pel.ports.getD p noPort

def modPort (p : Nat) (f : Port → Port) (s : State) : State :=
  { s with pel := { s.pel with ports := modAt p f s.pel.ports } }

/-- The router works: awake and outside Coast. -/
def fabricOn (s : State) : Bool := awake s && s.mode.mode != .coast

/-- A port that carries all traffic. -/
def portMember (s : State) (p : Nat) : Bool := (portAt s p).state = 3 && ! (portAt s p).masked

/-! ## Packets (R278, R281, R282) -/

/-- Payload bytes of a packet (Table 12.7). -/
def bodyBytes : PktBody → Nat
  | .empty => 0
  | .pulse _ => 32
  | .desc _ => 32
  | .view _ => 64
  | .card _ => 4096
  | .intent _ _ _ _ => 64
  | .bundle n => n

/-- Flits of a packet: header, payload and CRC in 248 or 120 bytes each (Table 12.1). -/
def flitsOf (level1 : Bool) (b : PktBody) : Nat := ceilDiv (36 + bodyBytes b) (if level1 then 120 else 248)

/-- The routing entry of a destination. -/
def routeAt (s : State) (d : Nat) : BitVec 16 := mapAt 0 d s.pel.routes
def routeValid (e : BitVec 16) : Bool := e.getLsbD 15
def routeAlt (e : BitVec 16) : Bool := e.getLsbD 14
def routePrimary (e : BitVec 16) : Nat := (e.extractLsb' 12 2).toNat
def routeAlternate (e : BitVec 16) : Nat := (e.extractLsb' 10 2).toNat

/-- The egress of a packet: the local one for the member itself, the primary port, or none (R278). -/
def egressOf (s : State) (d : Nat) : Option Nat :=
  if d = s.pel.self && s.pel.assigned then some 4
  else if routeValid (routeAt s d) then some (routePrimary (routeAt s d)) else none

def countUnroute (s : State) : State := { s with pel := { s.pel with unroute := sat32 (s.pel.unroute + 1) } }

/-- A packet joins the end of its egress. -/
def enqueue (port req : Nat) (h : PacketHdr) (b : PktBody) (whole : Bool) (s : State) : State :=
  { s with pel := { s.pel with
      nextPkt := s.pel.nextPkt + 1
      send := s.pel.send ++
        [{ id := s.pel.nextPkt, port := port, req := req, hdr := h, body := b,
           total := flitsOf (portAt s port).level1 b, sent := 0, whole := whole }] } }

/-- The next SEQ of the pair this member to `d` (R281). -/
def nextSeqTo (s : State) (d : Nat) : Nat := (mapAt 0 d s.pel.txSeq + 1) % 2 ^ 32

/-- A packet of this member: TTL 32, the next SEQ of its pair; with no valid path it is discarded and
counted (R278, R279, R281). -/
def sendPacket (h : PacketHdr) (b : PktBody) (s : State) : State :=
  let h1 := { h with src := s.pel.self, ttl := 32, seq := nextSeqTo s h.dst }
  match egressOf s h.dst with
  | none => countUnroute s
  | some p =>
    enqueue p 0 h1 b true { s with pel := { s.pel with txSeq := mapSet h.dst h1.seq s.pel.txSeq } }

/-- A header of this member's own packets. -/
def mkHdr (dst ptype rank : Nat) (locked : Bool) (tag arg0 arg1 : Nat) : PacketHdr :=
  { port := 4, src := 0, dst := dst, ttl := 32, ptype := ptype, rank := rank, ordered := false,
    fox := false, locked := locked, tag := tag, seq := 0, arg0 := arg0, arg1 := arg1 }

/-- An answer to request `h`: GO, DATA, DONE and BACKOFF carry its TAG (R284). -/
def answer (h : PacketHdr) (ptype arg0 : Nat) (b : PktBody) (s : State) : State :=
  sendPacket (mkHdr h.src ptype (if h.locked then 4 else h.rank) h.locked h.tag arg0 0) b s

/-- DONE with a status: type in [15:8], code in [7:0]. -/
def sendDone (h : PacketHdr) (st : Nat × Nat) (s : State) : State :=
  answer h 0x6 (256 * st.1 + st.2) .empty s

/-- BACKOFF with its reason. -/
def sendBackoff (h : PacketHdr) (reason : Nat) (s : State) : State := answer h 0x9 reason .empty s

/-- The SEQ values accepted from a source, at most 4,096. -/
def windowOf (s : State) (src : Nat) : List Nat := mapAt [] src s.pel.rxWin

/-- A packet already accepted, or below the window (R281). SEQ values compare as plain numbers, past a wrap too (DESIGN
CHOICE, log entry 158). -/
def duplicate (s : State) (h : PacketHdr) : Bool :=
  let w := windowOf s h.src
  w.contains h.seq || (decide (4096 ≤ w.length) && w.all fun x => decide (h.seq < x))

/-- The window takes a SEQ value, and drops its lowest past 4,096. -/
def windowTake (h : PacketHdr) (s : State) : State :=
  let w := insertBy (fun a b => decide (a < b)) h.seq (windowOf s h.src)
  { s with pel := { s.pel with
      rxWin := mapSet h.src (if 4096 < w.length then w.drop 1 else w) s.pel.rxWin
      send := dropFirst (fun x => x.port = 4 && x.hdr.src = h.src && x.hdr.dst = h.dst
        && x.hdr.seq = h.seq && x.req = 0) s.pel.send } }

/-- A routed packet of type `t` that the destination takes up: its state after the window, or the state
with the packet discarded. A reserved type is never accepted, nor a RELAY from a KS8480 (R283, R293); in
Recovery the boot ROM takes RELAY alone (R430). -/
def accept (t : Nat) (h : PacketHdr) (s : State) : Bool × State :=
  if ! fabricOn s || h.ptype != t || h.dst != s.pel.self || ! s.pel.assigned then (false, s)
  else if s.mode.mode = .recovery && t != 0xA then (false, s)
  else if t = 0xA && decide (h.port < 4) && (portAt s h.port).level1 then (false, s)
  else if h.port < 4 && ! portMember s h.port then (false, s)
  else if duplicate s h then
    (false, { s with pel := { s.pel with dups := sat32 (s.pel.dups + 1) } })
  else (true, windowTake h s)

/-- An accepted packet runs `f`. -/
def onPacket (t : Nat) (h : PacketHdr) (f : State → State) (s : State) : State :=
  match accept t h s with
  | (true, s1) => f (leaveIdle s1)
  | (false, s1) => s1

/-- RESERVED_PACKET: a packet of a reserved type, with no route, or with TTL 0, is discarded and counted
(R278, R283). -/
def execReservedPacket (h : PacketHdr) (s : State) : Outcome :=
  .next (if ! fabricOn s then s
    else if h.ptype = 0 || decide (0xC ≤ h.ptype) || h.ttl = 0
        || (h.dst != s.pel.self && (egressOf s h.dst).isNone) then countUnroute s
    else s)

/-- PACKET_CRC_FAIL: discarded, and counted in KS_PL_CRCERR and log page C1h (R282). -/
def execPacketCrcFail (port : Nat) (s : State) : Outcome :=
  .next (if ! fabricOn s || decide (4 ≤ port) then s
    else countC1 18 (modPort port (fun p => { p with crcErr := sat32 (p.crcErr + 1) }) s))

/-! ## Link loss (R272, R280) -/

/-- The entry with PRIMARY on a lost port: the paths are exchanged, or VALID is cleared. -/
def failoverEntry (p : Nat) (e : BitVec 16) : BitVec 16 :=
  if routeValid e && routePrimary e = p then
    if routeAlt e then
      (e &&& 0xC000#16) ||| BitVec.ofNat 16 (routeAlternate e * 2 ^ 12) ||| BitVec.ofNat 16 (routePrimary e * 2 ^ 10)
        ||| BitVec.ofNat 16 ((e.extractLsb' 0 5).toNat * 2 ^ 5) ||| BitVec.ofNat 16 ((e.extractLsb' 5 5).toNat)
    else e &&& 0x7FFF#16
  else e

/-- A packet with a flit not acknowledged on the lost link goes to the head of its rank on the new port,
from its first flit; one with no path left is discarded. Control flits are not sent again. -/
def requeue (p : Nat) (s : State) : State :=
  let lost := s.pel.send.filter fun x => x.port = p
  let kept := s.pel.send.filter fun x => x.port != p
  let moved := lost.filterMap fun x =>
    if x.hdr.ptype ≤ 2 then none
    else if x.hdr.ttl = 0 then none
    else (egressOf s x.hdr.dst).map fun q => { x with
      port := q, sent := 0, total := flitsOf (portAt s q).level1 x.body, first := true }
  let gone := (lost.filter fun x => decide (2 < x.hdr.ptype)).length - moved.length
  { s with pel := { s.pel with
      send := moved ++ kept, unroute := sat32 (s.pel.unroute + gone) } }

/-- A packet that is still arriving from ingress `p` is discarded, and no egress waits for the rest of it (R272, R280). -/
def dropPartial (p : Nat) (s : State) : State :=
  let left := s.pel.send.filter fun x => ! (x.req = p + 1 && ! x.whole)
  { s with pel := { s.pel with
      send := left
      egress := s.pel.egress.map fun e => { e with
        inProg := e.inProg.filter fun y => left.any fun x => x.id = y.2 } } }

/-- The link of a port is lost. -/
def loseLink (p : Nat) (s : State) : State :=
  if (portAt s p).state = 0 then s
  else
    let was := (portAt s p).state
    let s1 := modPort p (fun x => { x with
      state := 0, width := 0, member := 0, serial := 0, rate := 0, fence := 0, attempt := 0, retryWait := false,
      txSeq := 0, replay := [], rxSeq := 0, nakOut := false, inRow := 0,
      credits := [64, 64, 64, 64, 64] }) s
    if was != 3 then s1
    else
      let s2 : State := { s1 with pel := { s1.pel with
        routes := s1.pel.routes.map fun e => (e.1, failoverEntry p e.2)
        failover := sat32 (s1.pel.failover + 1)
        egress := modAt p (fun e => { e with inProg := [] }) s1.pel.egress } }
      dropPartial p (requeue p s2)

/-- FEC_LOCK_LOSS. -/
def execFecLockLoss (port : Nat) (s : State) : Outcome := .next (if awake s then loseLink port s else s)

/-- The power gate of a port (Table 8.6). -/
def gatePort (p : Nat) (shut : Bool) (s : State) : State :=
  let l := s.mode.gates.ports.filter fun q => q != p
  { s with mode := { s.mode with gates := { s.mode.gates with ports := if shut then l ++ [p] else l } } }

/-- PARTNER_ALIVE_LOW: low for 0.5 µs, the port is masked and the link lost (R272). -/
def execPartnerAliveLow (port ns : Nat) (s : State) : Outcome :=
  .next (if ! awake s || decide (4 ≤ port) then s
    else
      let s1 := gatePort port true (modPort port (fun p => { p with partner := false }) s)
      if ns < 500 then s1
      else modPort port (fun p => { p with masked := true }) (loseLink port (dropPartial port s1)))

/-! ## Bring-up (R271, R273, R274) -/

/-- Training starts on a port whose own ALIVE is high: x4 first. -/
def startTraining (p : Nat) (s : State) : State :=
  modPort p (fun x => { x with
    state := 1, attempt := 0, retryWait := false, fence := 0, level1 := portLevel1 s p,
    credits := [64, 64, 64, 64, 64] }) s

/-- PARTNER_ALIVE_RISE: the port of the Folio is woken. -/
def execPartnerAliveRise (port : Nat) (s : State) : Outcome :=
  .next (if ! awake s || decide (4 ≤ port) then s
    else
      let s1 := gatePort port (! portUsed s port) (modPort port (fun p => { p with partner := true }) s)
      if (portAt s port).aliveTx && (portAt s port).state = 0 then startTraining port s1 else s1)

/-- Width codes of Table 12.11 in the order they are tried. -/
def attemptWidth (a : Nat) : Nat := if a = 0 then 3 else if a = 1 then 1 else 2

/-- A PULSE or HELLO body of this member (Table 12.4). -/
def ownBody (s : State) (num : Nat) : PulseBody :=
  { serial := s.cdx.serial
    digest := match folioInForce s with | some f => f.folioDigest | none => 0
    pelotonId := pelotonId s
    pulseNum := num
    partners := s.pel.ports.map fun p => p.member
    linked := s.pel.ports.map fun p => p.state = 3
    compat := s.pel.ports.map fun p => p.level1
    mode := modeCode s.mode.mode
    assigned := s.pel.assigned
    captain := s.pel.captain
    member := s.pel.self }

/-- A control flit on port `p`: DST equals SRC, SRC is 0 while unassigned, SEQ is PULSE_NUM (R282). -/
def sendControl (p ptype num arg0 arg1 : Nat) (b : PulseBody) (s : State) : State :=
  let me := if s.pel.assigned then s.pel.self else 0
  enqueue p 0 { mkHdr me ptype 0 false 0 arg0 arg1 with src := me, seq := num, port := p } (.pulse b) true s

/-- PORT_FEC_LOCK: the port enters Hello and sends its HELLO (Table 12.3). -/
def execPortFecLock (port width : Nat) (s : State) : Outcome :=
  .next (if (portAt s port).state != 1 || (portAt s port).retryWait || ! awake s
      || width != attemptWidth (portAt s port).attempt
      || ((portAt s port).level1 && width != 3) then s
    else
      let s1 := modPort port (fun p => { p with
        state := 2, width := width, rate := if p.level1 then 0x38 else 0x70 }) s
      sendControl port 0x1 0 (256 * port + if (portAt s port).level1 then 1 else 2) 0 (ownBody s 0) s1)

/-- FAILED_TRAINING_ATTEMPT: the next width, or after all three the wait of the retry interval; each
failed attempt is a PORT record. A level 1 port tries x4 alone (Table 12.1). -/
def execFailedTrainingAttempt (port : Nat) (s : State) : Outcome :=
  .next (if ! awake s || (portAt s port).state != 1 || (portAt s port).retryWait then s
    else
      let p := portAt s port
      let s1 := record 0x0501 [(1, port), (1, 0), (1, 0), (8, 0)] s
      if p.attempt = 2 || p.level1 then modPort port (fun x => { x with retryWait := true }) s1
      else modPort port (fun x => { x with attempt := x.attempt + 1 }) s1)

/-- TRAINING_RETRY_EXPIRY. -/
def execTrainingRetryExpiry (port : Nat) (s : State) : Outcome :=
  .next (if awake s && (portAt s port).state = 1 && (portAt s port).retryWait then
    startTraining port s else s)

/-- Another holder of member number `m`, with a serial below `serial` (R275). -/
def heldByLower (s : State) (m serial : Nat) : Bool :=
  (s.pel.assigned && s.pel.self = m && decide (s.cdx.serial < serial))
    || s.pel.seen.any fun x => x.assigned && x.member = m && decide (x.serial < serial)

/-- Why a HELLO is refused: 1 Peloton identifier, 2 protocol level, 3 numbering mode, 4 duplicate
number; 0 accepted (R274, R275). -/
def helloRefusal (s : State) (port : Nat) (b : PulseBody) (level1 numberingAuto : Bool) : Nat :=
  if b.pelotonId != pelotonId s then 1
  else if level1 != portLevel1 s port then 2
  else if numberingAuto != autoNumbering s then 3
  else if b.assigned && heldByLower s b.member b.serial then 4 else 0

/-- A port is fenced, with its record (R274). -/
def fencePort (port reason serial : Nat) (s : State) : State :=
  record 0x0501 [(1, port), (1, 1), (1, reason), (8, serial)]
    (modPort port (fun p => { p with state := 4, fence := reason }) s)

/-- HELLO. -/
def execHello (h : PacketHdr) (b : PulseBody) (level1 numberingAuto : Bool) (s : State) : Outcome :=
  .next (if ! awake s || (portAt s h.port).state != 2 then s
    else match helloRefusal s h.port b level1 numberingAuto with
      | 0 => modPort h.port (fun p => { p with
            state := 3, masked := false, member := b.member, serial := b.serial })
          { s with pel := { s.pel with recSent := s.pel.recSent.filter fun p => p != h.port } }
      | r => fencePort h.port r b.serial s)

/-! ## PULSE, link state and numbering (R275 to R277) -/

def seenAt (s : State) (serial : Nat) : Option Seen := s.pel.seen.find? fun x => x.serial = serial

/-- The members that a body's linked ports reach. -/
def linkedMembers (b : PulseBody) : List Nat :=
  ((b.linked.zip b.partners).filter fun x => x.1).map fun x => x.2

/-- COMPAT of the same ports. -/
def linkedCompat (b : PulseBody) : List Bool :=
  ((b.linked.zip b.compat).filter fun x => x.1).map fun x => x.2

/-- The link state takes a PULSE. -/
def takePulse (b : PulseBody) (s : State) : State :=
  let e : Seen := { serial := b.serial, digest := b.digest, member := b.member, assigned := b.assigned,
                    captain := b.captain, mode := b.mode, pulseNum := b.pulseNum, atUs := s.clock.us,
                    partners := linkedMembers b, compat := linkedCompat b }
  { s with pel := { s.pel with
      seen := insertBy (fun a c => decide (a.serial < c.serial)) e
        (s.pel.seen.filter fun x => x.serial != b.serial)
      capMember := if b.captain then b.member else s.pel.capMember
      captain := s.pel.captain && ! (b.captain && decide (b.serial < s.cdx.serial)) } }

/-- A control packet is flooded on every Member port but the one it came in on. -/
def flood (h : PacketHdr) (b : PulseBody) (s : State) : State :=
  ([0, 1, 2, 3].filter fun p => p != h.port && portMember s p).foldl
    (fun t p => enqueue p (h.port + 1) { h with port := p } (.pulse b) true t) s

/-- The partner of a port claims a number that a lower serial holds. -/
def partnerRefused (s : State) (p : Nat) : Bool :=
  (portAt s p).state = 3 && match seenAt s (portAt s p).serial with
    | some x => x.assigned && heldByLower s x.member x.serial
    | none => false

/-- Every port whose partner has the higher of two serials that claim one number is fenced (R275). -/
def fenceDuplicates (s : State) : State :=
  ([0, 1, 2, 3].filter (partnerRefused s)).foldl (fun t p => fencePort p 4 (portAt s p).serial t) s

/-- A PULSE that this router has not seen before. -/
def freshPulse (s : State) (b : PulseBody) : Bool :=
  b.serial != s.cdx.serial && match seenAt s b.serial with
    | some x => decide (x.pulseNum < b.pulseNum)
    | none => true

/-- The router's part of PULSE: a Fenced port's PULSE is logged and not forwarded. -/
def pulseIn (h : PacketHdr) (b : PulseBody) (s : State) : State :=
  if ! fabricOn s || ! freshPulse s b || ! ((portAt s h.port).state = 3 || (portAt s h.port).state = 4) then s
  else
    let s1 := fenceDuplicates (takePulse b s)
    if (portAt s h.port).state = 3 then flood h b s1 else s1

/-- PULSE_SEND: on every port in Member or Fenced state. -/
def execPulseSend (s : State) : Outcome :=
  .next (if ! fabricOn s then s
    else
      let n := s.pel.pulseNum + 1
      let s1 : State := { s with pel := { s.pel with pulseNum := n } }
      ([0, 1, 2, 3].filter fun p => (portAt s p).state = 3 || (portAt s p).state = 4).foldl
        (fun t p => sendControl p 0x2 n 0 0 (ownBody s n) t) s1)

/-- The lowest number that no member holds. -/
def lowestFree (taken : List Nat) : Nat := (firstNat (fun n => ! taken.contains n) 256 0).getD 0

/-- The numbers that the road captain gives to unassigned members, in ascending serial order (R276): the stored one unless
a lower serial holds it, else the lowest free one. `held`: serials and the numbers they hold. -/
def giveNumbers : List Seen → List (Nat × Nat) → List (Nat × Nat)
  | [], _ => []
  | x :: l, held =>
    let n := if held.any fun y => y.2 = x.member && decide (y.1 < x.serial) then lowestFree (held.map fun y => y.2)
      else x.member
    (x.serial, n) :: giveNumbers l (held ++ [(x.serial, n)])

/-- This member as its own PULSE shows it. -/
def ownSeen (s : State) : Seen :=
  { serial := s.cdx.serial, digest := (ownBody s 0).digest, member := s.pel.self,
    assigned := s.pel.assigned, captain := s.pel.captain, mode := modeCode s.mode.mode, pulseNum := 0,
    atUs := s.clock.us, partners := linkedMembers (ownBody s 0), compat := linkedCompat (ownBody s 0) }

/-- Every member of the link state, this one with it, by serial. -/
def linkState (s : State) : List Seen :=
  insertBy (fun a b => decide (a.serial < b.serial)) (ownSeen s) s.pel.seen

/-- This member takes its number, stored as a runtime setting (R276). -/
def takeNumber (n : Nat) (s : State) : State :=
  storeRt 0x20000 n { s with pel := { s.pel with assigned := true, self := n } }

/-- A number given to a member: kept by this member, or sent in a HELLO with ASSIGN on every Member
port. -/
def giveNumber (x : Nat × Nat) (s : State) : State :=
  if x.1 = s.cdx.serial then takeNumber x.2 s
  else ([0, 1, 2, 3].filter fun p => portMember s p).foldl
    (fun t p => sendControl p 0x1 0 (2 ^ 63 + 256 * p + x.2) x.1 (ownBody s 0) t) s

/-- ROAD_CAPTAIN_STABLE: the lowest serial acts as road captain and numbers the unassigned members. -/
def execRoadCaptainStable (s : State) : Outcome :=
  .next (if ! fabricOn s || s.lib.state != 0 || s.pel.seen.any (fun x => decide (x.serial < s.cdx.serial))
    then s
    else
      let s1 : State := { s with pel := { s.pel with captain := true, capMember := s.pel.self } }
      if ! autoNumbering s then s1
      else
        let held := ((linkState s1).filter fun x => x.assigned).map fun x => (x.serial, x.member)
        (giveNumbers ((linkState s1).filter fun x => ! x.assigned) held).foldl
          (fun t x => giveNumber x t) s1)

/-- HELLO_ASSIGN: the member named stores its number; others flood the HELLO once. -/
def execHelloAssign (h : PacketHdr) (b : PulseBody) (number serial : Nat) (s : State) : Outcome :=
  .next (if ! fabricOn s || ! autoNumbering s || (portAt s h.port).state != 3 then s
    else if serial = s.cdx.serial then (if s.pel.assigned then s else takeNumber number s)
    else match seenAt s serial with
      | some x =>
        if x.assigned && x.member = number then s
        else flood h b { s with pel := { s.pel with
          seen := modWhere (fun y => y.serial = serial)
            (fun y => { y with assigned := true, member := number }) s.pel.seen } }
      | none => s)

/-! ## The routing table (R278, R279) -/

/-- The members one hop from member `m`, as the PULSEs show it. -/
def neighbours (s : State) (m : Nat) : List Nat :=
  match s.pel.seen.find? fun x => x.assigned && x.member = m with
  | some x => x.partners
  | none => []

/-- Members reached from `frontier` in rising hops, this member left out: (member, hops). -/
def reach (s : State) : Nat → Nat → List Nat → List (Nat × Nat) → List (Nat × Nat)
  | 0, _, _, got => got
  | fuel + 1, hops, frontier, got =>
    let fresh := (frontier.eraseDups).filter fun m =>
      m != s.pel.self && ! got.any fun x => x.1 = m
    if fresh.isEmpty then got
    else reach s fuel (hops + 1) (fresh.flatMap (neighbours s)) (got ++ fresh.map fun m => (m, hops))

/-- Hops to every member by a first hop on port `p`. -/
def hopsBy (s : State) (p : Nat) : List (Nat × Nat) :=
  if portMember s p then reach s 256 1 [(portAt s p).member] [] else []

/-- The port with the fewest hops to `d` among `ports`, the first of them among equals. -/
def bestPort (hops : Nat → Option Nat) : List Nat → Option (Nat × Nat)
  | [] => none
  | p :: l => match hops p, bestPort hops l with
    | some a, some (q, b) => if b < a then some (q, b) else some (p, a)
    | some a, none => some (p, a)
    | none, r => r

/-- The entry of a destination: primary and alternate of at most 31 hops, with different first hops. -/
def routeEntry (hops : Nat → Option Nat) (prefer : List Nat) : BitVec 16 :=
  match bestPort hops prefer with
  | none => 0
  | some (p, a) =>
    if a > 31 then 0
    else
      let base := 0x8000#16 ||| BitVec.ofNat 16 (p * 2 ^ 12) ||| BitVec.ofNat 16 (a * 2 ^ 5)
      match bestPort hops (prefer.filter fun q => q != p) with
      | some (q, b) => if b ≤ 31 then
          base ||| 0x4000#16 ||| BitVec.ofNat 16 (q * 2 ^ 10) ||| BitVec.ofNat 16 b
        else base
      | none => base

/-- Ports in the order of `prefer`, the others after them. -/
def portOrder (prefer : List Nat) : List Nat :=
  ((prefer.filter fun p => decide (p < 4)) ++ [0, 1, 2, 3]).eraseDups

/-- The Librarian computes every entry from the link state; a member of it with no valid path is a PORT record
of kind 2. -/
def writeRoutes (prefer : List Nat) (s : State) : State :=
  let tabs := [0, 1, 2, 3].map fun p => hopsBy s p
  let hops := fun d p => mapGet d (tabs.getD p [])
  let members := s.pel.seen.filter fun x => x.assigned && x.member != s.pel.self
  let entries := members.map fun x => (x, routeEntry (hops x.member) (portOrder prefer))
  let s1 : State := { s with pel := { s.pel with
    routes := entries.foldl (fun m e => mapPut 0 e.1.member e.2 m) [] } }
  (entries.filter fun e => ! routeValid e.2).foldl
    (fun t e => record 0x0501 [(1, 0xFF), (1, 2), (1, 0), (8, e.1.serial)] t) s1

/-- ROUTING_TABLE_WRITE. -/
def execRoutingTableWrite (prefer : List Nat) (s : State) : Outcome :=
  .next (if ! fabricOn s || s.lib.state != 0 then s else writeRoutes prefer s)

/-! ## Flits (R270, R289, R291) -/

/-- Flit `n` lies at or before `ack` in the replay buffer's order, modulo 4,096. -/
def ackedBy (ack n : Nat) : Bool := decide ((ack + 4096 - n) % 4096 < 2048)

/-- Flits up to ACK leave the replay buffer; a packet all of whose flits are acknowledged leaves. -/
def takeAck (p ack : Nat) (s : State) : State :=
  let before := (portAt s p).replay
  let left := before.filter fun x => ! ackedBy ack x.1
  let s1 := modPort p (fun x => { x with
    replay := left, inRow := if left.length < before.length then 0 else x.inRow }) s
  { s1 with pel := { s1.pel with
      send := s1.pel.send.filter fun x =>
        ! (x.port = p && x.sent = x.total && ! left.any fun y => y.2 = x.id) } }

/-- A NAK: the flits after ACK are sent again; when eight replays of one flit in a row have failed, the link is lost. -/
def takeNak (p ack : Nat) (s : State) : State :=
  let s1 := takeAck p ack s
  if 8 ≤ (portAt s1 p).inRow then loseLink p s1
  else modPort p (fun x => { x with replays := sat32 (x.replays + 1), inRow := x.inRow + 1 }) s1

def execFlitNak (port ack : Nat) (s : State) : Outcome :=
  .next (if fabricOn s && decide (2 ≤ (portAt s port).state) then takeNak port ack s else s)

/-- Credits of a rank. -/
def creditOf (s : State) (p rank : Nat) : Nat := natAt (portAt s p).credits rank

/-- An egress arbiter. -/
def egressAt (s : State) (p : Nat) : Egress :=
  s.pel.egress.getD p { inProg := [], lastReq := [], ctrlGap := 8 }

def modEgress (p : Nat) (f : Egress → Egress) (s : State) : State :=
  { s with pel := { s.pel with
      egress := (List.range 5).map fun i => if i = p then f (egressAt s i) else egressAt s i } }

/-- Packets of a rank that can send a flit on egress `p`. -/
def readyOf (s : State) (p rank : Nat) : List OutPkt :=
  s.pel.send.filter fun x => x.port = p && decide (2 < x.hdr.ptype) && x.hdr.rank = rank
    && decide (x.sent < x.total) && (decide (4 ≤ p) || decide (0 < creditOf s p rank))

/-- A packet queued again at the head of the rank (R280), else round robin in the order local, PL0 to PL3, after the requester
last served (R289). -/
def roundRobin (last : Nat) (l : List OutPkt) : Option OutPkt :=
  match l.find? fun x => x.first with
  | some x => some x
  | none => ((List.range 5).filterMap fun i => l.find? fun x => x.req = (last + 1 + i) % 5).head?

/-- The packet of a rank that takes its grants: the one in progress, else the next in turn. -/
def rankWinner (s : State) (p rank : Nat) : Option OutPkt :=
  let l := readyOf s p rank
  match (egressAt s p).inProg.find? fun x => x.1 = rank with
  | some (_, id) => match l.find? fun x => x.id = id with
    | some x => some x
    | none => none
  | none => roundRobin (mapAt 4 rank (egressAt s p).lastReq) l

/-- The ranks that an egress serves in turn: highest first; at level 1 the rank of the packet in progress alone, whose
grant covers the whole packet (R289, R290). -/
def ranksOf (s : State) (p : Nat) : List Nat :=
  match (portAt s p).level1 && decide (p < 4), (egressAt s p).inProg with
  | true, x :: _ => [x.1]
  | _, _ => [4, 3, 2, 1, 0]

/-- The flit that egress `p` sends next: a control flit at most once in every 8 slots, else the highest rank with
a flit and a credit (R289). -/
def arbiter (s : State) (p : Nat) : Option OutPkt :=
  let ranked := ((ranksOf s p).filterMap (rankWinner s p)).head?
  match s.pel.send.find? fun x => x.port = p && decide (x.hdr.ptype ≤ 2) && decide (x.sent < x.total) with
  | some x => if 7 ≤ (egressAt s p).ctrlGap then some x else ranked
  | none => ranked

/-- The flit is sent: FSEQ, replay buffer, credit and progress move on (R270, R289, R291). -/
def sendFlit (p : Nat) (x : OutPkt) (s : State) : State :=
  let ctrl := decide (x.hdr.ptype ≤ 2)
  let last := x.sent + 1 = x.total
  let fseq := ((portAt s p).txSeq + 1) % 4096
  let s1 := modPort p (fun q => { q with
    txSeq := fseq, nakOut := false
    replay := q.replay ++ [(fseq, x.id)]
    credits := if ctrl then q.credits else modAt x.hdr.rank (fun c => c - 1) q.credits }) s
  let s2 := modEgress p (fun e =>
    if ctrl then { e with ctrlGap := 0 }
    else { e with
      ctrlGap := min 8 (e.ctrlGap + 1)
      inProg := if last then e.inProg.filter (fun y => y.1 != x.hdr.rank)
        else mapSet x.hdr.rank x.id e.inProg
      lastReq := mapSet x.hdr.rank x.req e.lastReq }) s1
  { s2 with pel := { s2.pel with
      send := modWhere (fun y => y.id = x.id) (fun y => { y with sent := y.sent + 1 }) s2.pel.send } }

/-- A flit slot of egress `p`: the arbiter grants one flit, room in the replay buffer of 512 allowing. -/
def grantSlot (p : Nat) (s : State) : State :=
  if (portAt s p).state < 2 || decide (512 ≤ (portAt s p).replay.length) then s
  else match arbiter s p with
    | some x => if (portAt s p).state = 3 || decide (x.hdr.ptype ≤ 2) then sendFlit p x s else s
    | none => modEgress p (fun e => { e with ctrlGap := min 8 (e.ctrlGap + 1) }) s

/-- The first flit of a packet for another member is routed on; without a path or TTL it is discarded and
counted (R278, R279). -/
def forwardFlit (p : Nat) (f : FlitIn) (s : State) : State :=
  match f.hdr with
  | none =>
    if f.eop then
      { s with pel := { s.pel with
          send := modWhere (fun x => x.req = p + 1 && x.hdr.rank = f.rank && ! x.whole)
            (fun x => { x with whole := true }) s.pel.send } }
    else s
  | some h =>
    if h.dst = s.pel.self || f.ctrl then s
    else if h.ttl ≤ 1 then countUnroute s
    else if h.ptype = 0xA && (portAt s p).level1 then s
    else match egressOf s h.dst with
      | none => countUnroute s
      | some q =>
        if h.ptype = 0xA && (portAt s q).level1 then countUnroute s
        else enqueue q (p + 1) { h with ttl := h.ttl - 1 }
          (if h.ptype = 0x5 then .card [] else if h.ptype = 0x3 then .desc
            { echelon := 0, stripe := 0, viewNum := 0, role := 0, cardFirst := 0, cardsM1 := 0,
              full := false, fua := false, dealloc := false, dataIndex := 0 }
           else if h.ptype = 0xA then .bundle 4096
           else if h.ptype = 0xB then .bundle 64 else .empty) f.eop s

/-- A good flit: ACK and credits are taken up, its bytes go on, and the egress of the port has a slot. -/
def goodFlit (p : Nat) (f : FlitIn) (s : State) : State :=
  let s1 := modPort p (fun x => { x with
    rxSeq := f.fseq
    credits := modAt f.creditRank (fun c => min 64 (c + f.credit)) x.credits }) s
  let s2 := if f.nak then takeNak p f.ack s1 else takeAck p f.ack s1
  grantSlot p (if f.idle || ! portMember s2 p then s2 else forwardFlit p f s2)

/-- FLIT_RECEIVE: a flit that fails FCRC, or whose FSEQ does not follow, is discarded and answered with NAK
(R270). A masked port's flits are ignored. -/
def execFlitReceive (port : Nat) (f : FlitIn) (s : State) : Outcome :=
  .next (if ! fabricOn s || decide (4 ≤ port) || decide ((portAt s port).state < 2)
      || (portAt s port).masked && (portAt s port).state = 3 then s
    else if f.fcrcOk && f.fseq = ((portAt s port).rxSeq + 1) % 4096 then goodFlit port f s
    else grantSlot port (modPort port (fun x => { x with nakOut := true }) s))

end Sys2Proof.Machine
end

