-- ==== Sys2Proof/Machine/Echelon.lean ====
section
/-! DEFINITION. Echelons, part one (R296 to R307, R311, R313, R315, R319): views, stewards, keepers and ANA
states; requests and their answers; intent records; the share of a member. -/

namespace Sys2Proof.Machine

/-! ## Configuration and geometry (R297 to R300) -/

def ecConfig (s : State) (e : Nat) : Option EchelonEntry :=
  match folioInForce s with
  | some f => f.echelons.find? fun x => x.echelon = e
  | none => none

def modEch (e : Nat) (f : EchelonSt → EchelonSt) (s : State) : State :=
  { s with ech := { s.ech with ech := modWhere (fun x => x.echelon = e) f s.ech.ech } }

/-- k and w of an echelon. -/
def ecK (s : State) (e : Nat) : Nat := match ecConfig s e with | some c => c.k | none => 2
def ecW (s : State) (e : Nat) : Nat := ecK s e + 2

/-- S: stripes of the spanned namespace, rounded up. -/
def ecStripes (s : State) (e : Nat) : Nat :=
  match ecConfig s e with
  | some c => ceilDiv c.capacity (c.k * 65536)
  | none => 0

/-- The positions of the P chunk, of the Q chunk, and of data index `j` of a stripe (R298). -/
def posP (s : State) (e stripe : Nat) : Nat := stripe % ecW s e
def posQ (s : State) (e stripe : Nat) : Nat := (stripe + 1) % ecW s e
def dataPositions (s : State) (e stripe : Nat) : List Nat :=
  (List.range (ecW s e)).filter fun p => p != posP s e stripe && p != posQ s e stripe
def posData' (s : State) (e stripe j : Nat) : Nat := natAt (dataPositions s e stripe) j

/-- The position of a ROLE: a data index, 0x40 P, 0x41 Q. -/
def posOfRole (s : State) (e stripe role : Nat) : Nat :=
  if role = 0x40 then posP s e stripe else if role = 0x41 then posQ s e stripe
  else posData' s e stripe role

/-- The ROLE of a position. -/
def roleOfPos (s : State) (e stripe pos : Nat) : Nat :=
  if pos = posP s e stripe then 0x40 else if pos = posQ s e stripe then 0x41
  else (indexIn pos (dataPositions s e stripe)).getD 0

/-- Stripe, data index and card of a card index of the spanned namespace. -/
def chunkOf (s : State) (e c : Nat) : Nat × Nat × Nat :=
  (c / (16 * ecK s e), c / 16 % ecK s e, c % 16)

/-! ## Views (R301, Table 13.2) -/

def viewOf (s : State) (e : Nat) : Option ViewRec := (echAt s e).map fun x => x.view

/-- Member and STATE of a position under a view. -/
def placeAt (v : ViewRec) (pos : Nat) : Nat × Nat := v.places.getD pos (0, 0)

/-- The position a member holds. -/
def positionOf (v : ViewRec) (m : Nat) : Option Nat :=
  firstNat (fun p => (placeAt v p).1 = m && (placeAt v p).2 != 0) v.places.length 0

/-- In service or lagging; holding a position at all. -/
def inUse (st : Nat) : Bool := st = 1 || st = 2
def holds (st : Nat) : Bool := st = 1 || st = 2 || st = 3

/-- The view holder: the lowest member number among the positions in service, lagging or rebuilding. -/
def holderOf (v : ViewRec) : Nat :=
  ((v.places.filter fun p => holds p.2).map fun p => p.1).foldl (fun m n => match m with
    | none => some n
    | some x => some (min x n)) none |>.getD 0

/-- A view record as the number its bytes spell, without its CRC, and back (Table 13.2). -/
def encodeView (v : ViewRec) : Nat :=
  1 + 256 * v.holder + 2 ^ 21 * v.places.length + 2 ^ 26 * v.echelon + 2 ^ 32 * v.viewNum
    + 2 ^ 64 * (List.range v.places.length).foldl
        (fun a p => a + 2 ^ (16 * p) * ((placeAt v p).2 + 256 * (placeAt v p).1)) 0

def decodeView (n : Nat) : ViewRec :=
  { viewNum := n / 2 ^ 32 % 2 ^ 32, echelon := n / 2 ^ 26 % 64, holder := n / 256 % 256
    places := (List.range (n / 2 ^ 21 % 32)).map fun p =>
      (n / 2 ^ (64 + 16 * p + 8) % 256, n / 2 ^ (64 + 16 * p) % 8) }

/-- A position whose chunk of this stripe can be used: in service or lagging, or rebuilding with the stripe
below the rebuild pointer (R317). -/
def posKnown (s : State) (e stripe pos : Nat) : Bool :=
  match echAt s e with
  | none => false
  | some x =>
    let st := (placeAt x.view pos).2
    inUse st || (st = 3 && decide (stripe < x.pointer))

/-- Member of a position. -/
def memberAt (s : State) (e pos : Nat) : Nat :=
  match viewOf s e with
  | some v => (placeAt v pos).1
  | none => 0

/-- The steward of data chunk (stripe, j) (R303). -/
def stewardOf (s : State) (e stripe j : Nat) : Nat :=
  match viewOf s e with
  | none => 0
  | some v =>
    let live := (List.range v.places.length).filter fun p => inUse (placeAt v p).2
    let h := (16 * stripe + j) * 0x9E3779B1 % 2 ^ 32
    (placeAt v (natAt live (h * live.length / 2 ^ 32))).1

/-- The keeper of a stripe (R307). -/
def keeperOf (s : State) (e stripe : Nat) : Nat :=
  match viewOf s e with
  | none => 0
  | some v =>
    if inUse (placeAt v (posP s e stripe)).2 then (placeAt v (posP s e stripe)).1
    else if inUse (placeAt v (posQ s e stripe)).2 then (placeAt v (posQ s e stripe)).1
    else match (List.range v.places.length).find? fun p => inUse (placeAt v p).2 with
      | some p => (placeAt v p).1
      | none => 0

/-! ## ANA states (R231, R304) -/

/-- A position this member can reach. -/
def reaches (s : State) (m : Nat) : Bool :=
  m = s.pel.self || (routeValid (routeAt s m) && s.pel.seen.any fun x => x.assigned && x.member = m)

/-- The ANA state of Table 13.3, the highest row that applies: 1 Optimized, 2 Non-Optimized, 3
Inaccessible, 4 Persistent Loss, 15 Change. The k positions that it has to reach are counted among those in service, lagging or
rebuilding, its own with them (DESIGN CHOICE, log entry 161). -/
def anaNow (s : State) (x : EchelonSt) : Nat :=
  let own := match positionOf x.view s.pel.self with
    | some p => (placeAt x.view p).2
    | none => 0
  let lost := (x.view.places.filter fun p => p.2 = 4 || p.2 = 3).length
  let reached := (x.view.places.filter fun p => holds p.2 && reaches s p.1).length
  if x.storing || x.waiting then 15
  else if lost > 2 then 4
  else if ! holds own || x.dropped || decide (reached < ecK s x.echelon) || x.unreach then 3
  else if x.view.places.any (fun p => p.2 != 1) then 2
  else 1

/-- Every ANA state is computed again; a change raises an ANA change notice when it is enabled. -/
def settleAna (s : State) : State :=
  s.ech.ech.foldl (fun t x =>
    let a := anaNow t x
    if a = x.ana then t
    else
      let u := modEch x.echelon (fun y => { y with ana := a }) t
      asyncEvent 2 3 { u with nv := { u.nv with anaCount := u.nv.anaCount + 1 } }) s

/-! ## Requests of this member (R284, R292) -/

/-- Tag indexes of a destination: 1,024 behind a level 1 port. -/
def tagSpace (s : State) (dst : Nat) : Nat :=
  match egressOf s dst with
  | some p => if p < 4 && (portAt s p).level1 then 1024 else 4096
  | none => 4096

/-- The lowest tag index not in use. -/
def freeTag (s : State) (dst : Nat) : Option Nat :=
  firstNat (fun i => ! s.pel.out.any fun r => r.dst = dst && r.index = i) (tagSpace s dst) 0

def genOf (s : State) (dst index : Nat) : Nat :=
  match s.pel.gens.find? fun g => g.1 = (dst, index) with
  | some g => g.2
  | none => 0

/-- No descriptor. -/
def noDesc : EcDesc :=
  { echelon := 0, stripe := 0, viewNum := 0, role := 0, cardFirst := 0, cardsM1 := 0, full := false,
    fua := false, dealloc := false, dataIndex := 0 }

/-- The request takes tag `index`, whose generation rises, and is sent (R284). A request that finds no
index free waits under a number past the tag space. -/
def sendRequest (index : Nat) (r : OutReq) (s : State) : State :=
  let g := (genOf s r.dst index + 1) % 16
  let h := { r.hdr with tag := 4096 * g + index }
  sendPacket h r.body
    { s with pel := { s.pel with
        gens := ((r.dst, index), g) :: s.pel.gens.filter fun x => x.1 != (r.dst, index)
        out := s.pel.out ++ [{ r with index := index, gen := g, hdr := h, sentUs := s.clock.us }] } }

def startRequest (r : OutReq) (s : State) : State :=
  match freeTag s r.dst with
  | some i => sendRequest i r s
  | none => { s with pel := { s.pel with
      out := s.pel.out ++ [{ r with index := 4096 + s.pel.nextPkt, sentUs := s.clock.us }]
      nextPkt := s.pel.nextPkt + 1 } }

/-- A request is over; one that waited for a tag of its destination is sent. -/
def dropRequest (r : OutReq) (s : State) : State :=
  let s1 : State := { s with pel := { s.pel with out := dropFirst (fun x => x = r) s.pel.out } }
  match s1.pel.out.find? fun x => x.dst = r.dst && decide (4096 ≤ x.index) with
  | some w => startRequest w
      { s1 with pel := { s1.pel with out := dropFirst (fun x => x = w) s1.pel.out } }
  | none => s1

/-- The outstanding request that an answer's TAG names; none: the answer is stale (R284). -/
def requestOf (s : State) (h : PacketHdr) : Option OutReq :=
  s.pel.out.find? fun r => r.dst = h.src && r.index = h.tag % 4096 && r.gen = h.tag / 4096

def countStale (s : State) : State := { s with pel := { s.pel with stale := sat32 (s.pel.stale + 1) } }

def modRequest (r : OutReq) (f : OutReq → OutReq) (s : State) : State :=
  { s with pel := { s.pel with
      out := modWhere (fun x => x.dst = r.dst && x.index = r.index) f s.pel.out } }

/-- A request: its header, what it serves, and the cards to send on GO. -/
def mkReq (h : PacketHdr) (b : PktBody) (op : Nat) (owner : ReqOwner) (d : EcDesc)
    (payload : List (List Nat)) : OutReq :=
  { dst := h.dst, index := 0, gen := 0, hdr := h, body := b, op := op, owner := owner, desc := d,
    payload := payload, data := [], refused := 0, retryUs := 0, sentUs := 0 }

/-- NSID of an echelon's spanned namespace. -/
def ecNsid (s : State) (e : Nat) : Nat := match ecConfig s e with | some c => c.nsid | none => 0

/-- Namespace card index of the first card of a chunk's part (R298); for a parity chunk, that of the stripe's data index 0
(DESIGN CHOICE, log entry 159). -/
def chunkCard (s : State) (d : EcDesc) : Nat :=
  (d.stripe * ecK s d.echelon + (if d.role < 0x40 then d.role else 0)) * 16 + d.cardFirst

/-- An echelon CMD (R305): NSID and card index in ARG0, cards and operation in ARG1. -/
def sendCmd (dst op rank : Nat) (locked ordered : Bool) (d : EcDesc) (owner : ReqOwner)
    (payload : List (List Nat)) (s : State) : State :=
  let h := { mkHdr dst 0x3 rank locked 0 (2 ^ 56 * ecNsid s d.echelon + chunkCard s d)
      (2 ^ 32 * (d.cardsM1 + 1) + 2 ^ 24 * op) with ordered := ordered }
  startRequest (mkReq h (.desc d) op owner d payload) s

/-- ARG0 of LOCK, UNLOCK and INTENT: echelon and stripe. -/
def stripeArg (e stripe : Nat) : Nat := 2 ^ 58 * e + stripe

/-- LOCK to the keeper (R287). -/
def sendLock (e stripe rank : Nat) (owner : ReqOwner) (s : State) : State :=
  let h := mkHdr (keeperOf s e stripe) 0x7 rank false 0 (stripeArg e stripe) 0
  startRequest (mkReq h .empty 0 owner { noDesc with echelon := e, stripe := stripe } []) s

/-- UNLOCK to member `m`. -/
def sendUnlock (m e stripe : Nat) (s : State) : State :=
  sendPacket (mkHdr m 0x8 4 true 0 (stripeArg e stripe) 0) .empty s

/-- INTENT to a parity holder (R306). -/
def sendIntent (m : Nat) (d : EcDesc) (kind mask position rank : Nat) (locked : Bool) (owner : ReqOwner)
    (s : State) : State :=
  let h := mkHdr m 0xB rank locked 0 (stripeArg d.echelon d.stripe) 0
  startRequest (mkReq h (.intent d kind mask position) 0 owner d []) s

/-- The positions of P and Q that are in use. -/
def parityHolders (s : State) (e stripe : Nat) : List Nat :=
  [posP s e stripe, posQ s e stripe].filter fun p => match viewOf s e with
    | some v => inUse (placeAt v p).2
    | none => false

/-- View number in force here. -/
def viewNumOf (s : State) (e : Nat) : Nat := match viewOf s e with | some v => v.viewNum | none => 0

/-! ## Transactions this member serves (R285, R286) -/

/-- The requester of a transaction's buffers. -/
def txnReq (src tag : Nat) : Requester := .engine (17 + 4 * (65536 * src + tag))

/-- The number under which a transaction's cards stand in transit; it lies above every command slot. -/
def txnSlot (src tag : Nat) : Nat := 1048576 + 65536 * src + tag

def txnAt (s : State) (h : PacketHdr) : Option InTxn :=
  s.pel.txns.find? fun t => t.src = h.src && t.tag = h.tag

def modTxn (h : PacketHdr) (f : InTxn → InTxn) (s : State) : State :=
  { s with pel := { s.pel with
      txns := modWhere (fun t => t.src = h.src && t.tag = h.tag) f s.pel.txns } }

def dropTxn (h : PacketHdr) (s : State) : State :=
  freeAllOf (txnReq h.src h.tag)
    { s with pel := { s.pel with
        txns := s.pel.txns.filter fun t => ! (t.src = h.src && t.tag = h.tag) } }

/-- The header under which a transaction is answered. -/
def txnHdr (t : InTxn) : PacketHdr :=
  { mkHdr 0 0 t.rank t.locked t.tag 0 0 with src := t.src }

/-- A transaction ends with a status (R285). -/
def endTxn (t : InTxn) (st : Nat × Nat) (s : State) : State :=
  sendDone (txnHdr t) st (dropTxn (txnHdr t) s)

/-- R286: an ordered CMD starts after every CMD accepted before it from its source and namespace is done,
and those after it wait for its own DONE. -/
def txnReady (s : State) (t : InTxn) : Bool :=
  let before := (s.pel.txns.takeWhile fun x => ! (x.src = t.src && x.tag = t.tag)).filter fun x =>
    x.src = t.src && x.nsid = t.nsid
  if t.ordered then before.isEmpty else ! before.any fun x => x.ordered

/-- A card of the transaction's write is still to be programmed. -/
def txnUnprogrammed (s : State) (t : InTxn) : Bool :=
  s.wr.transit.any fun c => c.owner = some (txnSlot t.src t.tag) && ! c.pageDone

/-- A started write is at the completion point of R67 for its FUA. -/
def txnAtPoint (s : State) (t : InTxn) : Bool :=
  t.started && t.op != 257 && decide (t.needSeq < s.led.nextSeq) && ! s.cat.stalledUpd.any (fun r => decide (r.seq ≤ t.needSeq) && t.needSeq != 0)
    && ((t.armed && ! t.desc.fua) || (! txnUnprogrammed s t && decide (t.needSeq ≤ s.led.durable)))

/-- Every started write at its point sends its DONE (R311). -/
def settleTxns (s : State) : State :=
  (s.pel.txns.filter fun t => txnAtPoint s t).foldl (fun u t =>
    endTxn t scSuccess { u with wr := { u.wr with
      transit := modWhere (fun x => x.owner = some (txnSlot t.src t.tag))
        (fun x => { x with isAcked := true, owner := none }) u.wr.transit } }) s

/-- What waits for durability goes on: host writes and transactions. -/
def settleAll (s : State) : State := settleTxns (settleWrites s)

/-! ## The share of a member (R300) -/

/-- Shelf, card and local card index of card `i` of a stripe's chunk on this member. -/
def shareCard (s : State) (nsid stripe i : Nat) : Option (Namespace × Nat × Nat × Nat) :=
  match nsAt s nsid with
  | none => none
  | some n => (cardPlace n (16 * stripe + i)).map fun p => (n, p.1, p.2, 16 * stripe + i)

/-- The command under which a transaction's cards are placed: FUA of its descriptor, Coast as it was. -/
def txnCmd (s : State) (t : InTxn) (group : Nat) : Cmd :=
  { slot := txnSlot t.src t.tag, qid := 0, cq := 0,
    e := { cid := 0, opcode := 0x01, nsid := t.nsid, dw10 := 0, dw11 := 0,
           dw12 := if t.desc.fua then 2 ^ 30 else 0, dw13 := 0, dw14 := 0, dw15 := 0 },
    phase := .placed, armed := t.armed, bypass := false, past := false, ceiling := profileParam s 3, inDrain := false,
    want := [], got := [], fails := [], data := [],
    group := group, needSeq := 0, needPpa := [] }

/-- Card `i` of a stripe's chunk is written to the share. -/
def writeShare (t : InTxn) (group stripe i : Nat) (sectors : List Nat) (pick : Nat) (s : State) :
    Option State :=
  match shareCard s t.nsid stripe i with
  | none => none
  | some (n, sh, c, lba) =>
    placeCard (txnSlot t.src t.tag) (txnCmd s t group) n false sh c lba sectors pick (setOverflow s)

/-- Cards of a chunk, all or none. -/
def writeCards (t : InTxn) (group stripe : Nat) : List (Nat × List Nat) → List Nat → State → Option State
  | [], _, s => some s
  | (i, sectors) :: l, picks, s =>
    match writeShare t group stripe i sectors (natAt picks 0) s with
    | none => none
    | some u => writeCards t group stripe l (picks.drop 1) u

/-- The transaction's buffers go over to the group of its cards. -/
def txnGroup (h : PacketHdr) (g : Nat) (s : State) : State :=
  { s with pools := { s.pools with
      held := s.pools.held.map fun x => if x.1 = txnReq h.src h.tag then (groupReq g, x.2) else x } }

/-- The transaction writes cards to its share and completes at its point; while they find no place it stays
as it is. -/
def txnWrite (t : InTxn) (stripe : Nat) (cards : List (Nat × List Nat)) (picks : List Nat) (s : State) :
    State :=
  let h := txnHdr t
  let g := s.wr.nextGroup + 1
  let go := fun (u : State) => writeCards t g stripe cards picks { u with wr := { u.wr with nextGroup := g } }
  match go s with
  | none => stallRow cards.length (fun u => (go u).isSome) s
  | some u =>
    settleAll (freeTransit (txnGroup h g (modTxn h (fun x => { x with
      started := true, needSeq := seqMark u }) u)))

/-- Cards of a chunk are released (DEALLOC): one SHELF_DEALLOC for a whole chunk, else a CARD_DEALLOC for
each mapped card. -/
def releaseShare (nsid stripe first n : Nat) (s : State) : State :=
  match shareCard s nsid stripe first with
  | none => s
  | some (_, sh, c, _) =>
    if n = 16 then append (cardRec 0x6 sh 0 0 0 0) s
    else (List.range n).foldl (fun t i => match mapped t sh (c + i) with
      | some (p, _, _) => append (cardRec 0x5 sh (c + i) p 0 0) t
      | none => t) s


/-! ## Intent records (R306, Table 13.6) -/

/-- The intents (KIND 0, 1) or lagging entries (KIND 2) in use of an echelon. -/
def slotsUsed (s : State) (e : Nat) (lag : Bool) : List Nat :=
  (s.ech.intents.filter fun r => r.echelon = e && (r.kind = 2) = lag).map fun r => r.slotNo

/-- The lowest free slot of the kind: 0 to 8,191, or 8,192 to 24,575. -/
def freeIntentSlot (s : State) (e : Nat) (lag : Bool) : Option Nat :=
  if lag then firstNat (fun n => ! (slotsUsed s e true).contains n) 16384 8192
  else firstNat (fun n => ! (slotsUsed s e false).contains n) 8192 0

/-- A byte of the number `n`. -/
def numByte (n i : Nat) : Byte := BitVec.ofNat 8 (n / 256 ^ i)

/-- The 64 bytes of an intent record as a number, its CRC with them. -/
def intentBytes (r : IntentRec) : Nat :=
  let body := stripeArg r.echelon r.stripe
    + 2 ^ 64 * (r.dataMask + 2 ^ 17 * r.position + 2 ^ 22 * r.kind + 2 ^ 24 * 1)
    + 2 ^ 96 * (2 ^ 16 * r.cardsM1 + 2 ^ 20 * r.cardFirst + 2 ^ 24 * r.steward)
    + 2 ^ 128 * r.viewNum + 2 ^ 192 * r.timeMs
  body + 2 ^ 480 * (crc32c ((List.range 60).map fun i => numByte body i)).toNat

/-- The card of an intent slot: its bytes, and zeros. -/
def intentCard (r : IntentRec) : List Nat := [intentBytes r, 0, 0, 0, 0, 0, 0, 0]

/-- An open intent of KIND 0 or 1 on a stripe (R307). -/
def openIntent (s : State) (e stripe : Nat) : Bool :=
  s.ech.intents.any fun r => r.echelon = e && r.stripe = stripe && r.kind < 2

/-- An intent record is cleared: its card is deallocated. -/
def clearIntent (r : IntentRec) (s : State) : State :=
  let s1 : State := { s with ech := { s.ech with intents := s.ech.intents.filter fun x => x != r } }
  match nsAt s (ecNsid s r.echelon) with
  | none => s1
  | some n => match cardPlace n (16 * ecStripes s r.echelon + r.slotNo) with
    | none => s1
    | some (sh, c) => match mapped s1 sh c with
      | some (p, _, _) => append (cardRec 0x5 sh c p 0 0) s1
      | none => s1

/-- Every intent record that `pick` selects is cleared. -/
def clearIntents (pick : IntentRec → Bool) (s : State) : State :=
  (s.ech.intents.filter pick).foldl (fun t r => clearIntent r t) s

/-! ## Stripe locks (R287, R307) -/

def lockHolder (s : State) (e stripe : Nat) : Option Nat :=
  (s.pel.locks.find? fun l => l.1 = e && l.2.1 = stripe).map fun l => l.2.2

def takeLock (e stripe m : Nat) (s : State) : State :=
  { s with pel := { s.pel with locks := s.pel.locks ++ [(e, stripe, m)] } }

def freeLock (e stripe m : Nat) (s : State) : State :=
  { s with pel := { s.pel with locks := s.pel.locks.filter fun l => l != (e, stripe, m) } }

/-- The keeper can lock a stripe now: unlocked, with no open intent, and an entry free. -/
def lockRefusal (s : State) (e stripe : Nat) : Nat :=
  if (lockHolder s e stripe).isSome || openIntent s e stripe then 2
  else if 8192 ≤ s.pel.locks.length then 3 else 0

/-- Every lock of a member is freed (R287). -/
def freeLocksOf (m : Nat) (s : State) : State :=
  { s with pel := { s.pel with locks := s.pel.locks.filter fun l => l.2.2 != m } }

/-! ## View changes (R301, R315) -/

/-- Intents whose steward has left the view are settled (R312). -/
def markSettling (e : Nat) (s : State) : State :=
  match viewOf s e with
  | none => s
  | some v => { s with ech := { s.ech with
      intents := modWhere (fun r => r.echelon = e && r.kind < 2 && match positionOf v r.steward with
          | some p => ! inUse (placeAt v p).2
          | none => true)
        (fun r => { r with settling := true }) s.ech.intents } }

/-- Every mapped shelf of the member's share is released (R318). -/
def releaseAllShare (e : Nat) (s : State) : State :=
  match nsAt s (ecNsid s e) with
  | none => s
  | some n =>
    let shelves := n.extents.flatMap fun x => (List.range x.2).map fun i => x.1 + i
    (shelves.filter fun sh => ! (shelfPpas (shelfNow s sh)).isEmpty).foldl
      (fun t sh => append (cardRec 0x6 sh 0 0 0 0) t) s

/-- A member that has just taken a position in state rebuilding starts at stripe 0, its earlier share
released (R317, R318). -/
def beginRebuild (e : Nat) (old new : ViewRec) (s : State) : State :=
  let st := fun (v : ViewRec) => match positionOf v s.pel.self with
    | some p => (placeAt v p).2
    | none => 0
  if st new = 3 && st old != 3 then
    releaseAllShare e (modEch e (fun x => { x with pointer := 0, stored := 0 }) s)
  else s

/-- Lagging entries and locks of a member that is out lapse (R315). -/
def lapseLost (e : Nat) (old new : ViewRec) (s : State) : State :=
  (List.range new.places.length).foldl (fun t p =>
    if (placeAt new p).2 = 4 || (placeAt new p).2 = 3 then
      freeLocksOf (placeAt old p).1
        (clearIntents (fun r => r.echelon = e && r.kind = 2 && r.position = p) t)
    else t) s

/-- A view is stored, read back and put in force (R301). Its ECHELON record names no member, so its serial is 0 (DESIGN CHOICE,
log entry 164). -/
def takeView (v : ViewRec) (s : State) : State :=
  match echAt s v.echelon with
  | none => s
  | some x =>
    let s1 := storeRt (0x30000 + v.echelon) (encodeView v)
      (modEch v.echelon (fun y => { y with
        view := v, storing := false, waiting := false, unreach := false, reports := [] }) s)
    let s2 := markSettling v.echelon (lapseLost v.echelon x.view v (beginRebuild v.echelon x.view v s1))
    let out := (List.range v.places.length).any fun p => (placeAt v p).2 = 4 && (placeAt x.view p).2 != 4
    settleDegraded (settleAna (record 0x0502
      [(1, v.echelon), (1, 0), (1, v.holder), (4, v.viewNum), (8, 0), (1, 0), (8, 0)]
      (if out then loseMember s2 else s2)))

/-- The view holder sends a view to every member of the echelon and to every spare, and takes it itself
(R301). -/
def issueView (v : ViewRec) (s : State) : State :=
  let spares := match ecConfig s v.echelon with | some c => c.spares | none => []
  let dsts := ((v.places.map fun p => p.1) ++ spares).eraseDups.filter fun m => m != s.pel.self
  let s1 := dsts.foldl (fun t m =>
    startRequest (mkReq (mkHdr m 0x3 0 false 0 (2 ^ 56 * ecNsid t v.echelon) (2 ^ 24 * 9)) (.view v) 9
      .none { noDesc with echelon := v.echelon, viewNum := v.viewNum } []) t) s
  takeView v s1

/-- The lowest-numbered spare in service that rebuilds nowhere (R315). -/
def spareFor (s : State) (e : Nat) (v : ViewRec) : Option Nat :=
  match ecConfig s e with
  | none => none
  | some c => leastBy id (c.spares.filter fun m =>
      reaches s m && (positionOf v m).isNone
        && ! s.ech.ech.any fun x => x.view.places.any fun p => p = (m, 3))

/-- A change of a view waits while the Librarian restarts; with the Librarian halted there is none (R373,
R374). -/
def waitView (j : ViewJob) (s : State) : State :=
  if s.lib.state = 1 then { s with lib := { s.lib with viewJobs := s.lib.viewJobs ++ [j] } } else s

/-- The view holder ejects a member: its position is out, or a spare takes it, rebuilding (R315). The holder itself is ejected
by the lowest of the other members (DESIGN CHOICE, log entry 160). -/
def ejectNow (e m : Nat) (s : State) : State :=
  match viewOf s e with
  | none => s
  | some v => match positionOf v m with
    | none => s
    | some p =>
      if holderOf v != s.pel.self && ! (m = holderOf v) then s
      else if ! holds (placeAt v p).2 then s
      else
        let place := match spareFor s e v with
          | some sp => (sp, 3)
          | none => (m, 4)
        let places := v.places.set p place
        let v1 : ViewRec := { v with viewNum := v.viewNum + 1, places := places }
        let v2 := { v1 with holder := holderOf v1 }
        if v2.holder != s.pel.self then s
        else issueView v2 (record 0x0502
          [(1, e), (1, 1), (1, m), (4, v2.viewNum), (8, 0), (1, 0), (8, 0)] s)

/-- An ejection, now or once the Librarian runs again. -/
def eject (e m : Nat) (s : State) : State :=
  if s.lib.state = 0 then ejectNow e m s else waitView (.eject e m) s

/-- A position takes a state in a new view, issued by the holder. -/
def placeNow (e p st : Nat) (s : State) : State :=
  match viewOf s e with
  | none => s
  | some v =>
    if holderOf v != s.pel.self || (placeAt v p).2 = st then s
    else
      let v1 : ViewRec := { v with
        viewNum := v.viewNum + 1, places := v.places.set p ((placeAt v p).1, st) }
      issueView { v1 with holder := holderOf v1 } s

/-- A new state of a position, now or once the Librarian runs again. -/
def setPosition (e p st : Nat) (s : State) : State :=
  if s.lib.state = 0 then placeNow e p st s else waitView (.place e p st) s

/-- TIMEOUT_REPORT to the view holder (R313). -/
def sendTimeoutReport (e m : Nat) (s : State) : State :=
  match viewOf s e with
  | none => s
  | some v =>
    let d := { noDesc with echelon := e, viewNum := v.viewNum, role := m }
    startRequest (mkReq (mkHdr (holderOf v) 0x3 0 false 0 (2 ^ 56 * ecNsid s e) (2 ^ 24 * 10)) (.desc d) 10
      .none d []) s

end Sys2Proof.Machine
end

