-- ==== Sys2Proof/Machine/Shares.lean ====
section
/-! DEFINITION. A member's share of a spanned namespace (R156, R264, R300, R305, R309): its cards read by the dies as any
local card, and what a READ and a DELTA do with them. -/

namespace Sys2Proof.Machine

/-- The view of the sender differs from this member's, so the operation answers 3h/03h (R303). -/
def staleView (s : State) (d : EcDesc) : Bool := d.viewNum != viewNumOf s d.echelon

/-- The cards of a transaction, by card of the chunk. -/
def txnCards (t : InTxn) : List (Nat × List Nat) := t.data.map fun x => (t.desc.cardFirst + x.1, x.2)

/-- Why a member does not read or write its share for a transaction: another view, or an empty key slot (R257). -/
def shareRefusal (s : State) (t : InTxn) : Option (Nat × Nat) :=
  if staleView s t.desc then some (3, 0x03)
  else if (keyLoaded s (slotOfCard s t.nsid 0)).isNone then some scDenied
  else none

/-- A transaction on the share runs `f`, or ends with the refusal. -/
def onShare (t : InTxn) (f : State → State) (s : State) : State :=
  match shareRefusal s t with
  | some st => endTxn t st s
  | none => f s

/-- A transaction's cards are read in the class of its traffic: those of a rebuilding member are class 1 (R121, R305,
R317). -/
def shareClass (s : State) (t : InTxn) : Nat :=
  if t.rank = 1 || (match viewOf s t.desc.echelon with | some v => v.places.contains (t.src, 3) | none => false)
  then 1 else 0

/-- The cards of a DELTA's chunk with the delta applied: P ⊕ ΔD, or Q ⊕ g^j·ΔD (R309). -/
def deltaCards (t : InTxn) : List (Nat × List Nat) :=
  let c := if t.desc.role = 0x41 then gfPow t.desc.dataIndex else 1
  (txnCards t).map fun x => (x.1, xorCard ((t.got.find? fun g => g.1 = x.1).map (fun g => g.2.1) |>.getD zeroCard) (mulCard c x.2))

/-- Every card of a READ or a DELTA has been read: the READ sends each in a DATA packet with its fox mark, then DONE; the
DELTA writes the parity cards, or answers 2h/81h where one is fox-marked or cannot be read (R305, R309). -/
def finishShare (h : PacketHdr) (picks : List Nat) (s : State) : State :=
  match txnAt s h with
  | none => s
  | some t =>
    if ! t.want.isEmpty || t.got.isEmpty || t.started then s
    else if t.op = 2 then
      let hd := txnHdr t
      endTxn t scSuccess ((sortBy (fun a b => decide (a.1 < b.1)) t.got).foldl (fun u g =>
        sendPacket { mkHdr hd.src 0x5 (if hd.locked then 4 else hd.rank) hd.locked hd.tag
          (4096 * (g.1 - t.desc.cardFirst)) 0 with fox := g.2.2 } (.card g.2.1) u) s)
    else if t.op = 4 then
      if t.got.any fun g => g.2.2 then endTxn t scUnrecovered s
      else txnWrite t t.desc.stripe (deltaCards t) picks s
    else s

/-- Card `x` of the chunk has been read for the transaction. -/
def gotShare (h : PacketHdr) (x : Nat) (sectors : List Nat) (fox : Bool) (s : State) : State :=
  finishShare h [] (modTxn h (fun t => if t.want.contains x then { t with
    want := t.want.filter fun y => y != x, got := t.got ++ [(x, sectors, fox)] } else t) s)

/-- A read of card `x` of the chunk is under way for the transaction. -/
def shareUnderWay (h : PacketHdr) (x : Nat) (s : State) : Bool :=
  readUnderWay (fun _ y => match y with
    | .share a b c _ _ => a = h.src && b = h.tag && c = x
    | _ => false) s

/-- Card `x` of the chunk: unmapped or in transit at once, with its mark where it is fox-marked (R156), else by a flash
read (R300). -/
def readShareCard (h : PacketHdr) (x : Nat) (s : State) : State :=
  match txnAt s h with
  | none => s
  | some t =>
    if shareUnderWay h x s then s
    else match shareCard s t.nsid t.desc.stripe x with
      | none => gotShare h x zeroCard false s
      | some (_, sh, c, lba) => match oldContents s t.nsid lba sh c with
        | .here sectors => gotShare h x sectors false (touchSegment sh s)
        | .marked => gotShare h x (fillCard s) true (touchSegment sh s)
        | .miss page index => startLoad page index s
        | .flash p age =>
          queueRead { ppa := p, cls := shareClass s t, why := .share h.src h.tag x lba age } (touchSegment sh s)

/-- The cards of a READ or a DELTA are read, those of a member with another view or an empty key slot refused (R257,
R303). -/
def readIn (picks : List Nat) (t : InTxn) (s : State) : State :=
  let h := txnHdr t
  onShare t (fun v =>
    let cards := (List.range (t.desc.cardsM1 + 1)).map fun i => t.desc.cardFirst + i
    let v1 := if t.want.isEmpty && t.got.isEmpty then modTxn h (fun x => { x with want := cards }) v else v
    if t.want.isEmpty && ! t.got.isEmpty then finishShare h picks v
    else cards.foldl (fun u x => if (match txnAt u h with | some y => y.want.contains x | none => false) then
      readShareCard h x u else u) v1) s

/-- Cards of shares that waited for the map are looked up again. -/
def retryShares (s : State) : State :=
  (s.pel.txns.flatMap fun t => t.want.map fun x => (txnHdr t, x)).foldl (fun u y => readShareCard y.1 y.2 u) s

end Sys2Proof.Machine
end

