-- ==== Sys2Proof/Machine/ReadPath.lean ====
section
/-! DEFINITION. The read path (R38 to R42, R120, R121, R131, R137 to R146, R150 to R158, R249): the cards of
a Read or Compare from lookup to delivery, the dies' read queues, the drift table, and the entry of failed
codewords into the escalation engine. -/

namespace Sys2Proof.Machine

/-! ## The drift table (R144 to R146) -/

/-- The block group of a PPA. -/
def driftKey (p : Ppa) : Nat × Nat × Nat × Nat := (ppaChannel p, ppaTarget p, ppaPlane p, ppaBlock p / 64)

/-- An entry as the fixed structures start: no offset, no weight. -/
def noDrift : Drift :=
  { freshSw := 0, agedSw := 0, freshOfs := List.replicate 15 0, agedOfs := List.replicate 15 0 }

def driftAt (s : State) (p : Ppa) : Drift :=
  match s.esc.drift.find? fun x => x.1 = driftKey p with
  | some x => x.2
  | none => noDrift

def setDrift (p : Ppa) (d : Drift) (s : State) : State :=
  { s with esc := { s.esc with
      drift := (driftKey p, d) :: s.esc.drift.filter fun x => x.1 != driftKey p } }

/-- A block is fresh while its block stripe is open, and for the fresh age after CLOSED (R145). -/
def freshBlock (s : State) (p : Ppa) : Bool :=
  match ppaEntry s p with
  | none => true
  | some n => (blkAt s n).state = 1
      || decide ((16777216 + nowMin s - (blkAt s n).closed) % 16777216 < fld s 0x688)

/-- The tracked offsets of a block's class. -/
def offsetsFor (s : State) (p : Ppa) : List Int :=
  if freshBlock s p then (driftAt s p).freshOfs else (driftAt s p).agedOfs

/-- An offset within the range of the die profile (R144). -/
def clampOffset (s : State) (p : Ppa) (v : Int) : Int :=
  match profileOf s (ppaChannel p) with
  | some g => max g.offsetMin (min g.offsetMax v)
  | none => v

/-- Read levels of a block: 15 QLC, 7 TLC, 1 pSLC; the bytes of the others are reserved (R144). -/
def levelsOf (s : State) (p : Ppa) : Nat :=
  match ppaEntry s p, profileOf s (ppaChannel p) with
  | some n, some g => if inCarrel s n then 1 else if g.cell = 0 then 7 else 15
  | _, _ => 15

/-- An offset set as the drift table keeps it. -/
def keepLevels (s : State) (p : Ppa) (f : Nat → Int) : List Int :=
  (List.range 15).map fun i => if i < levelsOf s p then f i else 0

/-- (7 × SW + w ÷ 8) ÷ 8, in units of 8 checks, saturating at 255 (R144, R146). -/
def nextWeight (sw w : Nat) : Nat := min 255 ((7 * sw + w / 8) / 8)

/-- One level moves a step where one kind of error exceeds the other by the nudge threshold (R146). -/
def nudge (s : State) (p : Ppa) (up down : List (Nat × Nat)) (ofs : List Int) : List Int :=
  keepLevels s p fun i =>
    let v := ofs.getD i 0
    let u := mapAt 0 (i + 1) up
    let d := mapAt 0 (i + 1) down
    let n := fld s 0x684
    if d + n ≤ u then clampOffset s p (v + 1) else if u + n ≤ d then clampOffset s p (v - 1) else v

/-- A hard decode that succeeds updates its group (R146, rules 1 and 2). -/
def driftDecode (p : Ppa) (weight : Nat) (corrected : Bool) (up down : List (Nat × Nat)) (s : State) :
    State :=
  let d := driftAt s p
  let move := fun (l : List Int) => if corrected then nudge s p up down l else l
  if freshBlock s p then
    setDrift p { d with freshSw := nextWeight d.freshSw weight, freshOfs := move d.freshOfs } s
  else setDrift p { d with agedSw := nextWeight d.agedSw weight, agedOfs := move d.agedOfs } s

/-- A retry that succeeds gives the class its offsets (R146, rule 3). -/
def driftRetry (p : Ppa) (ofs : List Int) (s : State) : State :=
  let l := keepLevels s p fun i => clampOffset s p (ofs.getD i 0)
  if freshBlock s p then setDrift p { driftAt s p with freshOfs := l } s
  else setDrift p { driftAt s p with agedOfs := l } s

/-! ## The escalation engine's contexts and queue (R150 to R152) -/

/-- A codeword resolved at ladder step `n` counts in KS_ESC_STEP and C1h. -/
def countStep (n : Nat) (s : State) : State :=
  countC1 (n - 1) { s with esc := { s.esc with steps := bumpAt (n - 1) s.esc.steps } }

/-- Lane, block, plane and page of a codeword's die stripe. -/
def stripeKey (s : State) (p : Ppa) : Nat × Nat × Nat × Nat :=
  (match laneOf s (ppaChannel p) (ppaTarget p) with | some e => e.lane | none => 0,
    ppaBlock p, ppaPlane p, ppaPage p)

def ctxKey (c : EscContext) : Nat × Nat × Nat × Nat := (c.lane, c.block, c.plane, c.page)

/-- The context of a die stripe. -/
def ctxOf (s : State) (p : Ppa) : Option EscContext :=
  s.esc.contexts.find? fun c => ctxKey c = stripeKey s p

def modCtx (key : Nat × Nat × Nat × Nat) (f : EscContext → EscContext) (s : State) : State :=
  { s with esc := { s.esc with contexts := modWhere (fun c => ctxKey c = key) f s.esc.contexts } }

/-- Queue entries in use: errors that wait, and requests that joined a running context. -/
def queueUse (s : State) : Nat :=
  s.esc.queue.length
    + s.esc.contexts.foldl (fun a c => c.words.foldl (fun b w => b + w.places) a) 0

/-- The highest occupancy, and QFULL, follow the queue (R152, R163). -/
def noteQueue (s : State) : State :=
  { s with esc := { s.esc with
      qMax := max s.esc.qMax (queueUse s)
      sticky := if decide (4096 ≤ queueUse s) then s.esc.sticky ||| 0x10 else s.esc.sticky } }

/-- An overlap sets NESTED and is recorded and counted (R152). -/
def overlap (p : Ppa) (joined : Bool) (s : State) : State :=
  let k := stripeKey s p
  let s1 := countC1 17 { s with esc := { s.esc with sticky := s.esc.sticky ||| 0x1 } }
  record 0x0201 [(1, k.1), (2, k.2.1), (1, k.2.2.1), (2, k.2.2.2), (1, ppaSlot p),
    (1, if joined then 1 else 0)] s1

/-- The codeword joins its context, or, when it is there already, its requests wait for that result. -/
def joinCtx (w : LadderWord) (places : Nat) (c : EscContext) : EscContext :=
  if c.words.any (fun x => x.ppa = w.ppa) then
    { c with
        words := modWhere (fun x => x.ppa = w.ppa)
          (fun x => { x with why := x.why ++ w.why, cls := min x.cls w.cls, places := x.places + places })
          c.words }
  else { c with words := c.words ++ [{ w with places := places }] }

/-- The codeword of a context. -/
def wordOf (s : State) (ppa : Ppa) : Option LadderWord :=
  match ctxOf s ppa with
  | some c => c.words.find? fun w => w.ppa = ppa
  | none => none

/-- The codeword of a context, changed by `f`. -/
def modWord (ppa : Ppa) (f : LadderWord → LadderWord) (s : State) : State :=
  match ctxOf s ppa with
  | none => s
  | some c => modCtx (ctxKey c) (fun x => { x with words := modWhere (fun w => w.ppa = ppa) f x.words }) s

/-- The offsets of read `n` of step 3: those of the other age class, then the retry table's (R142). -/
def retryOffsets (s : State) (p : Ppa) (n : Nat) : List Int :=
  if n = 0 then (if freshBlock s p then (driftAt s p).agedOfs else (driftAt s p).freshOfs)
  else match profileOf s (ppaChannel p) with
    | some g => keepLevels s p fun i => clampOffset s p ((g.retries.getD (n - 1) []).getD i 0)
    | none => offsetsFor s p

/-- The offsets that a read needs in its die (R122, R142). -/
def readOffsets (s : State) (p : Ppa) (why : ReadFor) : List Int :=
  match why with
  | .ladder 0 => match wordOf s p with
    | some w => retryOffsets s p w.tries
    | none => offsetsFor s p
  | _ => offsetsFor s p

/-- The present step's read of a codeword is issued, in the class of the read that failed: a retry, or a 2-bit or 3-bit
soft read. A die that does not serve returns it as unavailable (R142, R143). -/
def ladderRead (ppa : Ppa) (s : State) : State :=
  match wordOf s ppa with
  | none => s
  | some w =>
    if w.step < 3 || 5 < w.step || w.result.isSome || readUnderWay (fun q y => q = ppa && match y with
        | .ladder _ => true
        | _ => false) s then s
    else if ! dieServes s (ppaChannel ppa) (ppaTarget ppa) || excludedSince s ppa then
      modWord ppa (fun x => { x with result := some .unavailable }) s
    else modDie (ppaChannel ppa) (ppaTarget ppa) (fun d => { d with
      readQ := d.readQ ++ [{ ppa := ppa, cls := w.cls, why := .ladder (w.step - 3) }] }) s

/-- A companion of the codeword at `word` is known (R147). -/
def modKnown (word ppa : Ppa) (s : State) : State :=
  { s with esc := { s.esc with
      contexts := s.esc.contexts.map fun c => { c with
        words := modWhere (fun w => w.ppa = word && ! w.known.contains ppa)
          (fun w => { w with known := w.known ++ [ppa] }) c.words } } }

/-- A new context for the codeword's die stripe. -/
def newCtx (w : LadderWord) (s : State) : State :=
  let k := stripeKey s w.ppa
  ladderRead w.ppa (leaveIdle { s with esc := { s.esc with
      contexts := s.esc.contexts ++
        [{ lane := k.1, block := k.2.1, plane := k.2.2.1, page := k.2.2.2,
           words := [{ w with places := 0 }], budget := false }] } })

/-- A decoder keeps its codeword and stalls while the queue is full (R151). -/
def stallWord (w : LadderWord) (s : State) : State :=
  noteQueue { s with esc := { s.esc with stalled := s.esc.stalled ++ [w] } }

/-- Every request that waits for the codeword is the escalation engine's: it stands in the engine's own buffers, which
the queue never stalls (R141). -/
def ownWord (w : LadderWord) : Bool := ! w.why.isEmpty && w.why.all isLadder

/-- A codeword joins its context, takes a free one, or waits in the queue (R150, R151). -/
def enterWord (w : LadderWord) (s : State) : State :=
  match ctxOf s w.ppa with
  | some c =>
    if ownWord w then overlap w.ppa true (ladderRead w.ppa (modCtx (ctxKey c) (joinCtx w 0) s))
    else if 4096 ≤ queueUse s then stallWord w s
    else noteQueue (overlap w.ppa true (ladderRead w.ppa (modCtx (ctxKey c) (joinCtx w 1) s)))
  | none =>
    if s.esc.contexts.length < 256 && s.esc.queue.isEmpty then newCtx w s
    else if 4096 ≤ queueUse s then stallWord w s
    else noteQueue (overlap w.ppa false
      { s with esc := { s.esc with queue := s.esc.queue ++ [{ w with places := 1 }] } })

/-- Queue entries take free contexts in order of arrival. -/
def serveQueue : Nat → State → State
  | 0, s => s
  | fuel + 1, s => match s.esc.queue with
    | [] => s
    | w :: rest =>
      if 256 ≤ s.esc.contexts.length then s
      else
        let s1 : State := { s with esc := { s.esc with queue := rest } }
        serveQueue fuel (match ctxOf s1 w.ppa with
          | some c => ladderRead w.ppa (modCtx (ctxKey c) (joinCtx w 1) s1)
          | none => newCtx w s1)

/-- Stalled decoders hand over their codewords once an entry is free. -/
def admitStalled : Nat → State → State
  | 0, s => s
  | fuel + 1, s => match s.esc.stalled with
    | [] => s
    | w :: rest =>
      if 4096 ≤ queueUse s then s
      else admitStalled fuel (enterWord w { s with esc := { s.esc with stalled := rest } })

/-- The command of a read asked for Limited Retry. -/
def limited (s : State) (why : ReadFor) : Option (Nat × Nat) :=
  match why with
  | .host slot lba _ => match cmdAt s slot with
    | some c => if c.e.opcode = 0x02 && lrOf c.e then some (slot, lba) else none
    | none => none
  | _ => none

/-- A Read with Limited Retry completes at once with Unrecovered Read Error, the card unmarked (R233). -/
def failLimited (slot lba : Nat) (s : State) : State :=
  let first := match cmdAt s slot with
    | some c => (match nsAt s c.e.nsid with | some n => cardLba n lba | none => 0)
    | none => 0
  let s1 := modCmd slot (fun c => { c with
    fails := c.fails ++ [{ lba := first, sct := scUnrecovered.1, sc := scUnrecovered.2 }] }) s
  finishCmd slot (forgetReads (fun n => n = slot) s1)

/-- A read of a host card is queued; with Limited Retry, one that cannot be issued ends its command at once, and its
codeword goes on as a class 1 read of nobody (R131, R233). -/
def hostRead (r : ReadReq) (s : State) : State :=
  match limited s r.why with
  | some (slot, lba) =>
    if unreadable s r.ppa then failWord r.ppa 6 1 [.nobody] false (failLimited slot lba s) else queueRead r s
  | none => queueRead r s

/-- A card of a command that reads: served from the map, from transit, or by a flash read (R38 to R42,
R157). -/
def readCard (slot lba : Nat) (s : State) : State :=
  match cmdAt s slot with
  | none => s
  | some c => match nsAt s c.e.nsid with
    | none => s
    | some n => match cardPlace n lba with
      | none => deliver slot lba zeroCard s
      | some (sh, i) => match lookup s sh i with
        | .zeros => deliver slot lba zeroCard s
        | .missPage p => startLoad true p s
        | .missSegment g => startLoad false g s
        | .at ppa age fox =>
          let s1 := touchSegment sh s
          if fox then bite slot lba scUnrecovered (fillCard s1) s1
          else match transitAt s1 ppa with
            | some x => deliver slot lba (if swept s1 n.nsid lba x.card4k then zeroCard else x.card4k.data) s1
            | none => hostRead { ppa := ppa, cls := 0, why := .host slot lba age } s1

/-- A read for card `lba` of the command is under way. -/
def readPending (s : State) (slot lba : Nat) : Bool :=
  readUnderWay (fun _ w => match w with
    | .host a b _ => a = slot && b = lba
    | _ => false) s

/-- The cards that wait for the map are looked up again. -/
def retryLookups (s : State) : State :=
  let cards := (s.nv.cmds.filter fun c => c.phase = .running && (c.e.opcode = 0x02 || c.e.opcode = 0x05)
      && c.qid != 0 && match nsAt s c.e.nsid with | some n => n.spanned.isNone | none => false).flatMap
    fun c => c.want.map fun w => (c.slot, w.1)
  inSlotOrder (fun u => retryShares (resumeLocks
    (cards.foldl (fun t x => if readPending t x.1 x.2 then t else readCard x.1 x.2 t) u))) s

/-! ## Readers (R32, R73, R137, R160, R300) -/

/-- Who reads a card, and what its map names: NSID, card LBA, shelf, card and AGE. -/
structure Reader where
  nsid  : Nat
  lba   : Nat
  shelf : Nat
  card  : Nat
  age   : Nat
  deriving DecidableEq, Repr

/-- The header that names a transaction. -/
def hdrOf (src tag : Nat) : PacketHdr := { mkHdr 0 0 0 false tag 0 0 with src := src }

/-- The reader that a request stands for; none when its command is gone, or for a reader of no host card. -/
def readerOf (s : State) (why : ReadFor) : Option Reader :=
  match why with
  | .host slot lba age => match cmdAt s slot with
    | none => none
    | some c => match nsAt s c.e.nsid with
      | none => none
      | some n => (cardPlace n lba).map fun p => { nsid := n.nsid, lba := lba, shelf := p.1, card := p.2, age := age }
  | .merge slot sh i lba age => match cmdAt s slot with
    | none => none
    | some c => some { nsid := c.e.nsid, lba := lba, shelf := sh, card := i, age := age }
  | .share src tag off lba age => match txnAt s (hdrOf src tag) with
    | none => none
    | some t => (shareCard s t.nsid t.desc.stripe off).map fun x =>
        { nsid := t.nsid, lba := lba, shelf := x.2.1, card := x.2.2.1, age := age }
  | _ => none

/-- A card's contents come to its reader. -/
def giveCard (why : ReadFor) (sectors : List Nat) (s : State) : State :=
  match why with
  | .host slot lba _ => deliver slot lba sectors s
  | .merge slot sh i _ _ => mergeOld slot sh i sectors 0 s
  | .share src tag off _ _ => gotShare (hdrOf src tag) off sectors false s
  | _ => s

/-- A card fails for its reader with status `st`; a command that transfers it transfers `sectors` (R74, R156, R157). -/
def biteCard (why : ReadFor) (st : Nat × Nat) (sectors : List Nat) (s : State) : State :=
  match why with
  | .host slot lba _ => bite slot lba st sectors s
  | .merge slot sh i _ _ => failPartial slot sh i st s
  | .share src tag off _ _ => gotShare (hdrOf src tag) off (fillCard s) true s
  | _ => s

/-! ## The end of a read (R32, R137, R140, R143, R233, R249) -/

/-- The card that the map still names at `ppa` is fox-marked (R154). -/
def markIfCurrent (sh i : Nat) (ppa : Ppa) (cause : Nat) (s : State) : State :=
  match mapped s sh i with
  | some (p, _, _) => if p = ppa then foxSet sh i ppa cause s else s
  | none => s

/-- A codeword whose shelfmark passed comes to its reader: the AGE check, ACC_FROM, then a cipher core. -/
def passCard (ppa : Ppa) (x : Stored) (why : ReadFor) (r : Reader) (s : State) : State :=
  if x.md.age != r.age then
    let s1 := markIfCurrent r.shelf r.card ppa 2 (countC1 7 s)
    biteCard why scUnrecovered (fillCard s1) s1
  else if swept s r.nsid r.lba x then giveCard why zeroCard s
  else { s with esc := { s.esc with cipherIn := s.esc.cipherIn ++ [(ppa, why)] } }

/-- The CRC-32C over the stored bytes, seeded with NSID and card LBA, is the SHELFMARK of the card (R160). -/
def markMatches (x : Stored) (nsid lba : Nat) : Bool :=
  (x.md.nsid = nsid && x.md.lba = lba) || shelfmark x = shelfmarkOf nsid lba (storedBytes x)

/-- The shelfmark of the codeword at `ppa` passes for this request: under the NSID and card LBA that its reader expects,
or, for a load, under NSID 0 and the card's own PPA (R35, R160, R452). Movers take them from what names the card; a
companion that nothing names, and a P or Q codeword, counts once it decodes. -/
def shelfmarkOk (s : State) (ppa : Ppa) (why : ReadFor) : Bool :=
  match mapGet ppa.toNat s.wr.flash, why with
  | some x, .map _ _ => markMatches x 0 ppa.toNat
  | some x, .host .. | some x, .merge .. | some x, .share .. => match readerOf s why with
    | some r => markMatches x r.nsid r.lba
    | none => false
  | some _, _ => true
  | none, .map _ _ | none, .host .. | none, .merge .. | none, .share .. => false
  | none, _ => (mapGet ppa.toNat s.wr.parity).isSome

/-- A codeword is delivered to a request that waits for it. A fox replacement bites (R155). -/
def serveRead (ppa : Ppa) (why : ReadFor) (s : State) : State :=
  match why with
  | .map page index => cardArrived page index ppa s
  | .move engine => { s with wr := { s.wr with
      handed := s.wr.handed.filter fun p => p != ppa
      fetched := if s.wr.fetched.any (fun x => x.1 = engine && x.2.1 = ppa) then s.wr.fetched
        else s.wr.fetched ++ [(engine, ppa, match mapGet ppa.toNat s.wr.flash with
          | some x => x.md.fox
          | none => false)] } }
  | .comp word => modKnown word ppa s
  | .host .. | .merge .. | .share .. => match readerOf s why, mapGet ppa.toNat s.wr.flash with
    | some r, some x => passCard ppa x why r s
    | _, _ => s
  | _ => s

/-- A codeword that steps 1 and 2 did not give goes into the ladder: on the command's behalf, or, with
Limited Retry, as a class 1 read of nobody. -/
def failRead1 (r : ReadReq) (s : State) : State :=
  match limited s r.why with
  | some (slot, lba) => failWord r.ppa 3 1 [.nobody] true (failLimited slot lba s)
  | none => failWord r.ppa 3 r.cls [r.why] true s

/-- The requests of a codeword that still stand: those whose command has not gone. -/
def liveWhy (s : State) (w : LadderWord) : List ReadFor :=
  w.why.filter fun y => match y with
    | .host .. => (readerOf s y).isSome
    | .merge .. => (readerOf s y).isSome
    | .share .. => (readerOf s y).isSome
    | _ => true

/-- The shelfmark of the codeword passes for every request that waits for it. -/
def wordPasses (s : State) (w : LadderWord) : Bool := (liveWhy s w).all fun y => shelfmarkOk s w.ppa y

/-- RETRY_COUNT of the die profile of a codeword. -/
def retryCountOf (s : State) (p : Ppa) : Nat :=
  match profileOf s (ppaChannel p) with
  | some g => g.retryCount
  | none => 0

/-- A retry that fails is followed by the next of the RETRY_COUNT + 1 reads of step 3 (R142). -/
def nextRetry (ppa : Ppa) (s : State) : State :=
  match wordOf s ppa with
  | some w =>
    if w.step = 3 && w.result = some .fail && w.tries ≤ retryCountOf s ppa then
      ladderRead ppa (modWord ppa (fun x => { x with result := none }) s)
    else s
  | none => s

/-- A read of step 3, 4 or 5 has ended: its codeword keeps how. A hard decode that succeeds updates the drift table; a
shelfmark that fails counts the attempt as failed (R142, R143, R146). -/
def endLadderRead (r : ReadReq) (o : DecodeOutcome) (wrongCard : Bool) (s : State) : State :=
  match wordOf s r.ppa with
  | none => s
  | some w =>
    let bad := match o with
      | .ok .. => wrongCard || ! wordPasses s w
      | _ => false
    let s1 := match o with
      | .ok _ weight corrected up down => if w.step = 3 then driftDecode r.ppa weight corrected up down s else s
      | _ => s
    nextRetry r.ppa (modWord r.ppa (fun x => { x with
      tries := x.tries + 1, decoded := x.decoded || o != .unavailable
      result := some (if bad then .fail else o) }) (if bad then countC1 11 s1 else s1))

/-- A codeword whose hard decode ended (R140, R143): decoded with its shelfmark passing, misdirected, not
decoded, or returned unread. -/
def endRead (r : ReadReq) (o : DecodeOutcome) (wrongCard : Bool) (s : State) : State :=
  match r.why with
  | .ladder _ => endLadderRead r o wrongCard s
  | _ => match o with
    | .unavailable => match limited s r.why with
      | some (slot, lba) => failWord r.ppa 6 1 [.nobody] false (failLimited slot lba s)
      | none => failWord r.ppa 6 r.cls [r.why] false s
    | .fail => failRead1 r s
    | .ok minSum weight corrected up down =>
      let s1 := driftDecode r.ppa weight corrected up down s
      if ! wrongCard && shelfmarkOk s1 r.ppa r.why then serveRead r.ppa r.why (countStep (if minSum then 2 else 1) s1)
      else failRead1 r (countC1 11 s1)

/-! ## CIPHER_UNIT_DONE (R249, R157) -/

/-- The tag passes: stored and read under one key, NSID, card LBA and accession number (R247, R248). -/
def tagPasses (s : State) (x : Stored) (nsid lba : Nat) : Bool :=
  x.md.nsid = nsid && x.md.lba = lba && ! x.md.fox
    && keyLoaded s (slotOfCard s nsid lba) = some x.md.keyGen

/-- The plaintext of a unit whose tag fails: what the core makes of it is open. -/
def openCard (s : State) : List Nat := (List.range 8).map fun i => Config.freeSector (8 * s.free + i)

/-- A decrypt unit ends. A tag mismatch sets TAG and a fox mark, and the command that met it takes 7h/C0h
with the plaintext as it stands. -/
def endUnit1 (ppa : Ppa) (why : ReadFor) (intact : Bool) (s : State) : State :=
  match readerOf s why, mapGet ppa.toNat s.wr.flash with
  | some r, some x =>
    if intact && tagPasses s x r.nsid r.lba then giveCard why x.data s
    else
      let s1 := countC1 8 { s with esc := { s.esc with
          tagFail := sat32 (s.esc.tagFail + 1), sticky := s.esc.sticky ||| 0x4 } }
      let s2 := drawFree (markIfCurrent r.shelf r.card ppa 1 s1)
      biteCard why scTagFail (openCard s) s2
  | _, _ => s

def execCipherUnitDone (ppa : Ppa) (intact : Bool) (s : State) : Outcome :=
  .next (match s.esc.cipherIn.find? fun x => x.1 = ppa with
    | none => s
    | some x => endUnit1 ppa x.2 intact { s with esc := { s.esc with
        cipherIn := dropFirst (fun y => y = x) s.esc.cipherIn } })

/-! ## CIPHER_UNIT (R245, R246, R247) -/

/-- Every core is fenced: commands that move host data are refused (R246). -/
def allFenced (s : State) : Bool := (List.range 24).all fun n => s.key.fenced.contains n

/-- CIPHER_UNIT: a unit of 4,096 bytes latches its slot's key and runs; any other length is refused. -/
def execCipherUnit (core slot len kind : Nat) (s : State) : Outcome :=
  .next (if ! awake s || decide (23 < core) || decide (1023 < slot) || decide (2 < kind)
      || s.key.fenced.contains core then s
    else if len != 4096 then { s with key := { s.key with sticky := s.key.sticky ||| 0x8 } }
    else match (if slot = 1023 then (if s.key.testKey then some 0 else none) else keyLoaded s slot) with
      | none => s
      | some k => useUnit 3 core { s with key := { s.key with unitsRun := mapSet core k s.key.unitsRun } })

/-! ## ESCALATION_ENTRY and CONTEXT_FREE -/

/-- ESCALATION_ENTRY: the codeword that a decoder gave up on, or one an engine hands over at step 3 or 6. -/
def execEscalationEntry (ppa : Ppa) (cls step : Nat) (s : State) : Outcome :=
  .next (if ! awake s || s.mode.mode = .coast then s
    else match s.esc.failed.find? fun w => w.ppa = ppa with
      | some w => enterWord w { s with esc := { s.esc with
          failed := dropFirst (fun x => x = w) s.esc.failed } }
      | none =>
        if step = 3 || step = 6 then
          enterWord { ppa := ppa, step := step, cls := min cls 1, why := [.nobody],
                      decoded := step = 3, places := 0 } s
        else s)

/-- CONTEXT_FREE: a context with no codeword left frees; the oldest entries of the queue take it, and
stalled decoders go on (R150, R151). -/
def execContextFree (lane block page : Nat) (s : State) : Outcome :=
  .next (match s.esc.contexts.find? fun c => c.lane = lane && c.block = block && c.page = page
      && c.words.isEmpty with
    | none => s
    | some c =>
      let s1 : State := { s with esc := { s.esc with
          contexts := dropFirst (fun x => x = c) s.esc.contexts } }
      let s2 := serveQueue (s1.esc.queue.length + 1) s1
      admitStalled (s2.esc.stalled.length + 1) s2)

/-- The budget of the first context that `p` holds of has elapsed. -/
def expireFirst (p : EscContext → Bool) : List EscContext → List EscContext
  | [] => []
  | c :: l => if p c then { c with budget := true } :: l else c :: expireFirst p l

/-- ESCALATION_BUDGET_EXPIRY: the ladders of the context go to step 6 at their next boundary; of the contexts of several
planes it is the one that has run longest (R143). -/
def execEscalationBudgetExpiry (lane block page : Nat) (s : State) : Outcome :=
  .next { s with esc := { s.esc with
    contexts := expireFirst (fun c => c.lane = lane && c.block = block && c.page = page && ! c.budget)
      s.esc.contexts } }

end Sys2Proof.Machine
end

