-- ==== Sys2Proof/Machine/Moves.lean ====
section
/-! DEFINITION. Cards that move (R42, R78, R95, R148, R149, R155): shelf lists, copies and their move records,
cards of failed pages; and silicon that is retired (R99 to R102, R131, R132). -/

namespace Sys2Proof.Machine

/-! ## What a block stripe holds (R89, R95) -/

/-- A card or run to be copied. -/
inductive CopyItem where
  | run  (shelf : Nat) (base : Ppa)
  | card (shelf i : Nat) (ppa : Ppa)
  deriving DecidableEq, Repr

/-- The shelf-list entries of block stripe `n` whose card the Catalogue still maps there. -/
def validEntries (s : State) (n : Nat) : List (Nat × Nat × Nat) :=
  (mapAt [] n s.blk.lists).filter fun x => match mapped s x.2.1 x.2.2 with
    | some (p, _, _) => p = posPpa s n x.1
    | none => false

/-- A copy of the card at `ppa` is under way, or the escalation engine has it. -/
def copying (s : State) (ppa : Ppa) : Bool :=
  s.wr.handed.contains ppa || s.wr.transit.any fun c => c.move = some ppa

/-- A shelf whose 16 cards are contiguous in a run. -/
def wholeRun (s : State) (shelf : Nat) : Option Ppa :=
  let e := (shelfNow s shelf).e
  if e.form = 1 && e.presence = BitVec.allOnes 16 then some e.ppa else none

/-- What is left to copy of block stripe `n`, in shelf-list order: whole runs, and other cards one by
one; a run of which a card is with the escalation engine goes on without that card (R79). -/
def copyItems (s : State) (n : Nat) : List CopyItem :=
  (validEntries s n).filterMap fun x =>
    let ppa := posPpa s n x.1
    let one := if copying s ppa then none else some (CopyItem.card x.2.1 x.2.2 ppa)
    match wholeRun s x.2.1 with
    | some base =>
      if (List.range 16).any (fun i => copying s (runCard base i)) then one
      else if x.2.2 != 0 then none else some (.run x.2.1 base)
    | none => one

/-- Cards of an item. -/
def itemCards : CopyItem → Nat
  | .run _ _ => 16
  | .card _ _ _ => 1

/-- The shelf of an item. -/
def itemShelf : CopyItem → Nat
  | .run shelf _ => shelf
  | .card shelf _ _ => shelf

/-- The PPAs of an item's cards. -/
def itemPpas : CopyItem → List Ppa
  | .run _ base => (List.range 16).map fun i => runCard base i
  | .card _ _ p => [p]

/-! ## Copies (R78, R79, R156) -/

/-- The card at `ppa` as its copy is written: FLAGS.FOX from the Catalogue. -/
def copyOf (s : State) (shelf i : Nat) (ppa : Ppa) : Stored :=
  let x := (cardAt s ppa).getD (padCard 0)
  let fox := match mapped s shelf i with | some (_, _, f) => f | none => false
  { x with md := { x.md with fox := fox } }

/-- A copy in transit. -/
def copyTransit (s : State) (shelf i : Nat) (old new : Ppa) (run : Bool) : TransitCard :=
  let x := copyOf s shelf i old
  { ppa := new, nsid := x.md.nsid, shelf := shelf, card := i, owner := none, group := 0, card4k := x,
    isAcked := false, pageDone := false, parLeft := 2, foxFlag := x.md.fox, move := some old, run := run }

/-- An item takes its places in a row of `stream`. -/
def placeItem (stream engine : Nat) (group : Option Nat) (item : CopyItem) (pick : Nat) (s : State) :
    Option State :=
  match item with
  | .run shelf base => match takeCells stream false engine group true pick s with
    | none => none
    | some (r, cells, t) =>
      if cells.length != 16 then none
      else
        let new := (List.range 16).map fun i =>
          copyTransit t shelf i (runCard base i) (rowPpa t r (natAt cells i)) true
        let list := (List.range 16).map fun i => (natAt cells i, shelf, i)
        some (fillCells r.id cells
          (noteList r list { t with wr := { t.wr with transit := t.wr.transit ++ new } }))
  | .card shelf i ppa => match takeCells stream false engine group false pick s with
    | some (r, p :: _, t) =>
      let c := copyTransit t shelf i ppa (rowPpa t r p) false
      some (fillCells r.id [p]
        (noteList r [(p, shelf, i)] { t with wr := { t.wr with transit := t.wr.transit ++ [c] } }))
    | _ => none

/-- The card at `p` is at hand for a move engine: read and decoded, or in transit. -/
def atHand (s : State) (engine : Nat) (p : Ppa) : Bool :=
  s.wr.fetched.any (fun x => x.1 = engine && x.2.1 = p) || (transitAt s p).isSome

/-- A move engine reads a card that is not at hand, in class 1 (R78, R121). -/
def fetchCard (engine : Nat) (p : Ppa) (s : State) : State :=
  if atHand s engine p || s.wr.handed.contains p || readUnderWay (fun q y => q = p && y = .move engine) s then s
  else queueRead { ppa := p, cls := 1, why := .move engine } s

/-- Cards that an engine read and has placed, or needs no longer. -/
def dropFetched (engine : Nat) (gone : Ppa → Bool) (s : State) : State :=
  { s with wr := { s.wr with fetched := s.wr.fetched.filter fun x => ! (x.1 = engine && gone x.2.1) } }

/-- A unit of a move engine, up to `room` cards, each item after the lookup of its shelf, whose miss is loaded first
(R29, R38): items whose cards are at hand are placed; the cards of the others are read, and one that does not decode
goes to the escalation engine, the unit going on without it (R78, R79, R95). -/
def copyLoop (stream engine : Nat) (group : Option Nat) : List CopyItem → List Nat → Nat → State → State
  | [], _, _, s => s
  | x :: l, picks, room, s =>
    if room = 0 then s
    else if ! pageResident s (itemShelf x) || ! segResident s (itemShelf x) then
      copyLoop stream engine group l picks (room - itemCards x) (loadFor (itemShelf x) s)
    else
      let s1 := touchSegment (itemShelf x) s
      if (itemPpas x).all (fun p => atHand s1 engine p) then
        match placeItem stream engine group x (natAt picks 0) s1 with
        | none => stallRow 1 (fun t => (placeItem stream engine group x (natAt picks 0) t).isSome) s1
        | some t => copyLoop stream engine group l (picks.drop 1) (room - itemCards x)
            (dropFetched engine (fun p => (itemPpas x).contains p) t)
      else copyLoop stream engine group l picks (room - itemCards x)
        ((itemPpas x).foldl (fun t p => fetchCard engine p t) s1)

/-- The work-pool buffers of weeding (engine 2) or rotation (3) in plane group `g`, or of the rebuild (4) of lane `g`,
as their requester. -/
def moveReq (engine g : Nat) : Requester := .engine (19 + 4 * (2 * (engine + 8 * g) + 1))

/-- The engine whose work-pool buffers these are. -/
def moveEngine : Requester → Option Nat
  | .engine n => if 19 ≤ n && n % 4 = 3 && (n - 19) / 4 % 2 = 1 then some ((n - 19) / 8 % 8) else none
  | _ => none

/-- An engine none of whose copies is in a row, and that holds no card it read, gives its buffers back. -/
def freeMoves (engine : Nat) (s : State) : State :=
  if s.wr.rows.any (fun r => r.engine = engine) || s.wr.fetched.any (fun x => x.1 = engine) then s
  else (s.pools.held.filter fun h => moveEngine h.1 = some engine).foldl (fun t h => freeBuffer h.2.1 h.2.2 t) s

/-- A unit of an engine that reads into work-pool buffers: it asks for them in one request, and goes on once it holds
them (R17). -/
def moveUnit (stream engine g : Nat) (group : Option Nat) (items : List CopyItem) (picks : List Nat) (room : Nat)
    (s : State) : State :=
  if items.isEmpty then s
  else
    let cards := min room (items.foldl (fun a x => a + itemCards x) 0)
    let t := askOnce 1 (moveReq engine g) (transferSizes (4 * cards)) s
    if holdsBuf (moveReq engine g) t then copyLoop stream engine group items picks room t else t

/-- The move records of copies: one RUN_MOVE for a run, one CARD_MOVE for any other card (R78). -/
def appendMoves (cards : List TransitCard) (s : State) : State :=
  let s1 := cards.foldl (fun t c => match c.move with
    | none => t
    | some old =>
      if c.run then
        if c.card = 0 then
          append { cardRec 0x4 c.shelf 0 old c.ppa c.card4k.md.accession with card := 0 } t else t
      else append (cardRec 0x3 c.shelf c.card old c.ppa c.card4k.md.accession) t) s
  { s1 with wr := { s1.wr with
      transit := s1.wr.transit.map fun x =>
        if cards.any (fun c => c.ppa = x.ppa) then { x with move := none } else x } }

/-- A victim or fold source whose every position has been examined and whose cards have all moved, with
VALID still above zero: VALID is counted again from its shelf list (R95). -/
def recount (n : Nat) (s : State) : State :=
  let valid := validEntries s n
  if (blkAt s n).state = 3 && (copyItems s n).isEmpty && ! valid.any (fun x => copying s (posPpa s n x.1))
  then modBlk n (fun b => { b with valid := valid.length, examined := stripeCards s n }) s
  else s

/-- Every victim is looked at again. -/
def recountVictims (s : State) : State :=
  ((s.blk.table.filter fun e => e.2.state = 3).map fun e => e.1).foldl (fun t n => recount n t) s

/-- The programs of a copy row have all ended: its move records are appended and it leaves (R78, R95). -/
def finishRow (id : Nat) (s : State) : State :=
  match rowAt s id with
  | none => s
  | some r =>
    if ! rowDone s r then s
    else
      let s1 := appendMoves (moveCards s r) s
      freeMoves r.engine (recountVictims (freeTransit { s1 with wr := { s1.wr with
        rows := s1.wr.rows.filter fun x => x.id != id } }))

/-- A card is written again in the weeding stream, with its conditional CARD_MOVE (R148, R155). -/
def rewriteCard (shelf i : Nat) (old : Ppa) (x : Stored) (pick : Nat) (s : State) : Option (Ppa × State) :=
  match takeCells 2 false 2 ((ppaEntry s old).map fun n => entryGroup s n) false pick s with
  | some (r, p :: _, t) =>
    let new := rowPpa t r p
    let c : TransitCard :=
      { ppa := new, nsid := x.md.nsid, shelf := shelf, card := i, owner := none, group := 0, card4k := x,
        isAcked := true, pageDone := false, parLeft := 2, foxFlag := x.md.fox, move := none, run := false }
    let t1 := noteList r [(p, shelf, i)] { t with wr := { t.wr with transit := t.wr.transit ++ [c] } }
    some (new, append (cardRec 0x3 shelf i old new x.md.accession) (fillCells r.id [p] t1))
  | _ => none

/-! ## Forced victims and die blocks (R99, R101, Table 4.4) -/

/-- The block stripe becomes a forced victim once it is full, and the position is excluded at its next
erase. -/
def forceVictim (n : Nat) (pos : Option Nat) (s : State) : State :=
  modBlk n (fun b => { b with
    forced := true
    retireAtErase := match pos with
      | some p => if b.retireAtErase.contains p then b.retireAtErase else b.retireAtErase ++ [p]
      | none => b.retireAtErase }) s

/-- The lane-table position of a die. -/
def slotOf (s : State) (ch t : Nat) : Option Nat := (laneOf s ch t).map fun e => e.slot

/-- The open rows of a block stripe are filled with PAD cards, and it is closed (R149). -/
def closeEarly (n : Nat) (s : State) : State :=
  let rows := (s.wr.rows.filter fun r => r.entry = n && ! r.sealed).map fun r => r.id
  closeStripe n (rows.foldl (fun t id => sealRow id t) s)

/-! ## A failed program (R149) -/

/-- A pass in progress names a system card that moves. -/
def redirectSnap (old new : Ppa) (m : MapSnap) : MapSnap :=
  let f := fun (p : Ppa) => if p = old then new else p
  { m with
    dir := f m.dir
    segs := m.segs.map fun g => { g with locator := f g.locator }
    shelves := m.shelves.map fun e => if e.2.form = 2 then (e.1, { e.2 with ppa := f e.2.ppa }) else e
    index := m.index.map fun e => (e.1, { e.2 with ppa := f e.2.ppa })
    blocks := m.blocks.map fun e => (e.1, { e.2 with
      listPpa := f e.2.listPpa, listCards := e.2.listCards.map f })
    idxPages := m.idxPages.map fun e => (e.1, f e.2)
    tblPages := m.tblPages.map fun e => (e.1, f e.2)
    dirPages := m.dirPages.map f }

/-- What names a system card that moves: a segment, an Index entry, a shelf list, the pass in progress. -/
def redirect (old new : Ppa) (s : State) : State :=
  { s with
    inv := { s.inv with running := s.inv.running.map (redirectSnap old new) }
    cat := { s.cat with
      segs := s.cat.segs.map fun g => if g.locator = old then { g with locator := new } else g
      shelves := s.cat.shelves.map fun e =>
        if e.2.form = 2 && e.2.ppa = old then (e.1, { e.2 with ppa := new }) else e
      index := s.cat.index.map fun e => if e.2.ppa = old then (e.1, { e.2 with ppa := new }) else e }
    blk := { s.blk with
      table := s.blk.table.map fun e =>
        if e.2.listCards.contains old then
          (e.1, { e.2 with
            listPpa := if e.2.listPpa = old then new else e.2.listPpa
            listCards := e.2.listCards.map fun p => if p = old then new else p })
        else e } }

/-- The weeding stream stays within the plane group of the victim (R87). -/
def ownGroup (s : State) (stream : Nat) (p : Ppa) : Option Nat :=
  if stream = 2 then (ppaEntry s p).map fun n => entryGroup s n else none

/-- A card of a failed page takes another place: the transit copy stands there, and a conditional CARD_MOVE
follows, unless its own move record is still to come. A system card is sealed again for its new PPA (R35). -/
def placeAgain (c : TransitCard) (stream engine : Nat) (carrel : Bool) (pick : Nat) (s : State) :
    Option State :=
  match takeCells stream carrel engine (ownGroup s stream c.ppa) false pick s with
  | some (r, p :: _, t) =>
    let new := rowPpa t r p
    let t1 : State := { t with
      wr := { t.wr with
        transit := modWhere (fun x => x.ppa = c.ppa)
          (fun x => { x with
            ppa := new, pageDone := false, parLeft := 2, run := false
            card4k := if stream = 3 then systemCard new x.card4k.data else x.card4k }) t.wr.transit
        again := t.wr.again.filter fun x => x != c.ppa }
      nv := { t.nv with
        cmds := t.nv.cmds.map fun x => { x with
          needPpa := x.needPpa.map fun y => if y = c.ppa then new else y } }
      coast := { t.coast with
        drainLeft := t.coast.drainLeft.map fun y => if y = c.ppa then new else y } }
    if stream = 3 then some (redirect c.ppa new (fillCells r.id [p] t1))
    else
      let t2 := fillCells r.id [p] (noteList r [(p, c.shelf, c.card)] t1)
      some (if c.move.isSome then t2
        else append (cardRec 0x3 c.shelf c.card c.ppa new c.card4k.md.accession) t2)
  | _ => none

/-- A card of a failed page; without a place it waits. -/
def placeAgainOr (c : TransitCard) (stream engine : Nat) (carrel : Bool) (pick : Nat) (s : State) : State :=
  match placeAgain c stream engine carrel pick s with
  | some t => t
  | none => stallRow 1 (fun t => (placeAgain c stream engine carrel pick t).isSome) { s with wr := { s.wr with
      again := if s.wr.again.contains c.ppa then s.wr.again else s.wr.again ++ [c.ppa] } }

/-- A whole run of a failed word line takes another word line, with a conditional RUN_MOVE. -/
def placeRunAgain (cards : List TransitCard) (stream engine : Nat) (pick : Nat) (s : State) :
    Option State :=
  match cards with
  | [] => none
  | c :: _ =>
    if ! (wholeRun s c.shelf = some c.ppa && c.move.isNone && cards.length = 16
        && cards.all (fun x => x.shelf = c.shelf)) then none
    else match takeCells stream false engine (ownGroup s stream c.ppa) true pick s with
      | none => none
      | some (r, cells, t) =>
        if cells.length != 16 then none
        else
          let new := fun (i : Nat) => rowPpa t r (natAt cells i)
          let t1 : State := { t with
            wr := { t.wr with
              transit := t.wr.transit.map fun x =>
                if cards.any (fun y => y.ppa = x.ppa) then
                  { x with ppa := new x.card, pageDone := false, parLeft := 2 } else x }
            coast := { t.coast with
              drainLeft := t.coast.drainLeft.map fun y =>
                match cards.find? (fun x => x.ppa = y) with
                | some x => new x.card
                | none => y } }
          let list := (List.range 16).map fun i => (natAt cells i, c.shelf, i)
          some (append (cardRec 0x4 c.shelf 0 c.ppa (new 0) c.card4k.md.accession)
            (fillCells r.id cells (noteList r list t1)))

/-- Pages of a word line of the stacks: three on a TLC die, four on a QLC die (R114). -/
def wordLine (s : State) (ch : Nat) : Nat :=
  match profileOf s ch with
  | some g => if g.cell = 0 then 3 else 4
  | none => 4

/-- After a failed word line of the stacks the previous word line of the same block is read back, in class 1 (DESIGN
CHOICE, log entry 135); what does not decode there goes through the ladder (R149). -/
def readBack (ch t : Nat) (r : OpenRow) (s : State) : State :=
  if inCarrel s r.entry || r.page < 4 then s
  else
    let n := wordLine s ch
    (List.range (4 * n)).foldl (fun u i => queueRead
      { ppa := mkPpa ch t (entryPlane s r.entry) (entryBlock s r.entry) (r.page - n + i / 4) (i % 4)
        cls := 1, why := .nobody } u) s

/-- A program failed: its page's cards are placed again, P and Q go on from their accumulators, which include them, and the
block stripe is closed and becomes a forced victim. A P or Q page moves no card. -/
def failUnit (ch t : Nat) (q : ProgReq) (picks : List Nat) (s : State) : State :=
  match rowAt s q.row with
  | none => s
  | some r =>
    let c := inCarrel s r.entry
    let ppas := unitPpas s r q.unit
    let isData := decide (unitData c q.unit < 64)
    let cards := if isData then s.wr.transit.filter fun x => ppas.contains x.ppa else []
    let page := r.page + (q.page.getD 0)
    let here := mkPpa ch t (entryPlane s r.entry) (entryBlock s r.entry) page 0
    let s1 := record 0x0104 [(1, 0), (5, here.toNat)]
      (countC1 12 (endUnit r q.unit false (if isData then storeUnit r q.unit s else s)))
    let s2 := forceVictim r.entry (slotOf s ch t) (closeEarly r.entry s1)
    let eng := if r.engine = 3 then 2 else r.engine
    let s3 := match placeRunAgain cards r.stream eng (natAt picks 0) s2 with
      | some u => u
      | none => (List.range cards.length).foldl (fun u i => match cards[i]? with
          | some x => placeAgainOr x r.stream eng c (natAt picks i) u
          | none => u) s2
    freeTransit (settleRow q.row (readBack ch t r s3))

/-- Cards of failed pages that wait are tried again, in the stream of the block stripe they were placed in (Table 3.3). -/
def retryAgain (s : State) : State :=
  s.wr.again.foldl (fun t p => match t.wr.transit.find? fun c => c.ppa = p with
    | none => { t with wr := { t.wr with again := t.wr.again.filter fun x => x != p } }
    | some c => match ppaEntry t p with
      | none => t
      | some n =>
        let stream := (blkAt t n).stream
        placeAgainOr c stream (if stream = 2 then 2 else if stream = 3 then 5 else if c.move.isSome then 1 else 0)
          (inCarrel t n) 0 t) s

/-- What waits for space, for buffers or for durability goes on. -/
def resumeAll (s : State) : State :=
  inSlotOrder (fun u => settleAll (retryLoads (retrySeats (retryLists (resumeHeld (retryAgain u)))))) s

/-- POOL_STALL_SERVED: the oldest stalled request of a set is served when the pools can serve all of it, and what waited
for its buffers goes on (R15). Coast draws no buffer (R19). -/
def execPoolStallServed (set : Nat) (s : State) : Outcome :=
  .next (if s.mode.mode = .coast || decide (1 < set) then s
    else
      let t := serveStalled set s
      if (waitList set t.pools).length = (waitList set s.pools).length then s else resumeAll t)

/-! ## Dies and channels that are retired (R99, R100, R102, R117) -/

/-- The sync write of a channel; while the Librarian restarts or is halted it waits (R373, R374). -/
def askSync (ch : Nat) (s : State) : State :=
  if s.lib.state = 0 then modChan ch (fun c => { c with sync := true }) s
  else { s with lib := { s.lib with waitingSync := s.lib.waitingSync ++ [ch] } }

/-- A change of a Roster entry's copy in DRAM, with its sync write; the live fields of the entry go with it (R117,
R136). -/
def changeRoster (ch : Nat) (f : Roster → Roster) (s : State) : State :=
  askSync ch (modChan ch (fun c => { c with
    copy := { f c.copy with generation := (c.copy.generation + 1) % 65536, zqInterval := fld s 0x650 } }) s)

/-- A lane rebuild covers one more die. -/
def addRebuild (lane : Nat) (die : Nat × Nat) (s : State) : State :=
  { s with blk := { s.blk with
      rebuilds := if s.blk.rebuilds.any (fun x => x.lane = lane) then
          modWhere (fun x => x.lane = lane) (fun x => { x with step := 1, dies := x.dies ++ [die] })
            s.blk.rebuilds
        else s.blk.rebuilds ++ [{ lane := lane, step := 1, dies := [die] }] } }

/-- Open block stripes of a lane with fewer than 8 slots left become full (Table 4.2). -/
def closeNarrow (lane : Nat) (s : State) : State :=
  ((s.blk.table.map fun e => e.1).filter fun n => entryLane s n = lane && (blkAt s n).state = 1
      && decide ((membersNow s n).length < 8)).foldl (fun t n => closeEarly n t) s

/-- A die's retirement enters the Roster copy and the Daybook; its queued erases are lost to their jobs (R86, R99, R117). -/
def markRetired (ch t reason : Nat) (s : State) : State :=
  let s1 := changeRoster ch (fun r => { r with
    retired := r.retired ||| BitVec.ofNat 32 (2 ^ t), reasons := mapSet t reason r.reasons }) s
  let s2 := record 0x0101 [(1, 1), (1, ch), (1, t), (1, 0), (2, 0), (1, reason)] s1
  let lost := (match dieAt s2 ch t with | some d => d.eraseQ | none => [])
  modDie ch t (fun d => { d with eraseQ := [] }) { s2 with blk := { s2.blk with
    erases := s2.blk.erases.map fun j => if lost.contains j.entry then
      { j with failed := j.failed ++ (slotOf s2 ch t).toList } else j } }

/-- The lane of a retired die is rebuilt, and its stripes that have become too narrow close (R101, R102). -/
def leaveLane (ch t : Nat) (s : State) : State :=
  match laneOf s ch t with
  | none => s
  | some e => settleDegraded (newHeadroom (closeNarrow e.lane (addRebuild e.lane (ch, t) s)))

/-- A die is retired: excluded in every block stripe of its lane, a Roster sync, a Daybook record, Degraded
mode and the lane rebuild. -/
def retireDie (ch t reason : Nat) (s : State) : State :=
  if dieRetired s ch t then s else leaveLane ch t (markRetired ch t reason s)

/-- A retirement that the Librarian decides; while it restarts or is halted the retirement waits (R373,
R374). -/
def askRetire (ch t reason : Nat) (s : State) : State :=
  if s.lib.state = 0 then retireDie ch t reason s
  else { s with lib := { s.lib with waitingRet := s.lib.waitingRet ++ [(ch, t, reason)] } }

/-- The present dies of a channel that are in service. -/
def servingDies (s : State) (ch : Nat) : List Nat :=
  match chanAt s ch with
  | none => []
  | some c => (List.range 32).filter fun t => c.copy.present.getLsbD t && ! c.copy.retired.getLsbD t

/-- A channel is retired: all its dies are, and CH_STATE says so; a retirement that waits for the Librarian
names target 32. -/
def retireChannelDies (ch reason : Nat) (s : State) : State :=
  if s.lib.state != 0 then
    { s with lib := { s.lib with waitingRet := s.lib.waitingRet ++ [(ch, 32, reason)] } }
  else
    let s1 := (servingDies s ch).foldl (fun t d => retireDie ch d reason t) s
    record 0x0101 [(1, 2), (1, ch), (1, 0), (1, 0), (2, 0), (1, reason)]
      (changeRoster ch (fun r => { r with chState := 1 }) s1)

/-- A channel whose present dies are all retired is a retired channel. -/
def settleChannel (ch : Nat) (s : State) : State :=
  match chanAt s ch with
  | none => s
  | some c =>
    if c.copy.present != 0 && (servingDies s ch).isEmpty && c.copy.chState = 0 then
      retireChannelDies ch 3 s else s

end Sys2Proof.Machine
end

