-- ==== Sys2Proof/Machine/Passes.lean ====
section
/-! DEFINITION. Inventory passes, checkpoints and spine records (R47 to R53), the Ledger's own events (R45,
R46), the pending-update table, shelf release, and the end of Warming (R55, R56, R105, R106). -/

namespace Sys2Proof.Machine

/-! ## Saved counts (R119, R225) -/

/-- The counts since manufacture as they stand. -/
def logCounts (s : State) : SavedLogs :=
  { c1 := s.nv.c1
    smart := [s.nv.unitsRd, s.nv.unitsWr, s.nv.cmdsRd, s.nv.cmdsWr, s.nv.busyMin, s.nv.mediaErr,
              s.nv.unsafeSd, s.nv.warnMin, s.nv.critMin, s.nv.errCount]
    wear := [s.wr.foldCards, s.wr.hostCards, s.wr.bypassCards, s.wr.weedCards, s.wr.carrelPages,
             s.wr.stacksPages, s.blk.weedVictims, s.blk.rotVictims, s.blk.forcedVictims]
    ctrlBins := s.sens.ctrlBins, flashBins := s.sens.flashBins, extremes := s.sens.extremes
    holdup := [s.coast.abandoned, s.coast.passes, s.coast.fails, s.coast.disarmedMin, s.coast.tdMin,
               s.coast.tdMax, s.coast.coastsDone, s.coast.coastsNot, s.coast.lastCoastUs]
    history := s.coast.history
    tout := s.fl.chans.map fun c => (c.1, c.2.tout) }

/-- The counts are saved to the carrel. -/
def saveLogs (s : State) : State := { s with nv := { s.nv with saved := logCounts s } }

/-! ## System pages (R35, R36, R47) -/

/-- The first four free places of a row that make one flash page. -/
def freePage (s : State) (r : OpenRow) : Option Nat :=
  let free := freeCells s r
  free.find? fun p => p % 4 = 0 && [1, 2, 3].all fun i => free.contains (p + i)

/-- A 16 KiB page of the system stream takes the four cards of one flash page, card `i` holding `data i`; its PPA is
that of card 0. -/
def placePage (data : Nat → List Nat) : Nat → State → Option (Ppa × State)
  | 0, _ => none
  | fuel + 1, s => match takeCells 3 true 5 none false 0 s with
    | none => none
    | some (r, _, t) => match freePage t r with
      | none => placePage data fuel (sealRow r.id t)
      | some p =>
        let cards := [0, 1, 2, 3].map fun i => systemTransit (rowPpa t r (p + i)) (data i)
        let t1 : State := { t with wr := { t.wr with transit := t.wr.transit ++ cards } }
        some (rowPpa t r p, fillCells r.id [p, p + 1, p + 2, p + 3] t1)

/-- Pages for the numbers listed, page `n` holding `data n`: number and PPA of each, or none when one has no
place. -/
def placePages (data : Nat → Nat → List Nat) : List Nat → State → Option (List (Nat × Ppa) × State)
  | [], s => some ([], s)
  | n :: l, s => match placePage (data n) (s.wr.rows.length + 2) s with
    | none => none
    | some (p, t) => match placePages data l t with
      | none => none
      | some (rest, u) => some ((n, p) :: rest, u)

/-- The directory pages, the last placed first, so that each names the next in its entry 2,047 (R47). -/
def placeDirs (idx tbl : Nat) : List (List Ppa) → State → Option (List Ppa × State)
  | [], s => some ([], s)
  | ppas :: l, s => match placeDirs idx tbl l s with
    | none => none
    | some (rest, t) =>
      (placePage (pageCard (dirEntry idx tbl ppas (rest.headD 0))) (t.wr.rows.length + 2) t).map
        fun x => (x.1 :: rest, x.2)

/-- A page's four cards are superseded now (R50). -/
def supersedePage (p : Ppa) (s : State) : State :=
  if p = 0 then s else [0, 1, 2, 3].foldl (fun t i => supersede (runCard p i) t) s

/-- Lists of at most `n` elements. -/
def chunks {α : Type} (n : Nat) : Nat → List α → List (List α)
  | 0, _ => []
  | _, [] => []
  | fuel + 1, l => l.take n :: chunks n fuel (l.drop n)

/-- The cards of the segments listed, 39 to a card: each group with its PPA. -/
def placeSegments : List (List Nat) → State → Option State
  | [], s => some s
  | g :: l, s =>
    let segs := g.filterMap fun sh => s.cat.segs.find? fun x => x.shelf = sh
    match placeSystem 0 (segCard segs) s with
    | none => none
    | some (ppa, t) =>
      placeSegments l (segs.foldl (fun u x =>
        modIndex (pageOfShelf x.shelf) (fun e => { e with dirty := true })
          (modSeg x.shelf (fun y => { y with flashed := true, dirty := false, locator := ppa })
            (supersede (if x.flashed then x.locator else 0) { u with cat := { u.cat with
              shelves := u.cat.shelves.map fun e => if e.1 = x.shelf then (e.1, relocate ppa e.2) else e } }))) t)

/-! ## What must stay (R50, R91) -/

/-- The system cards that a pass names. -/
def snapCards (m : MapSnap) : List Ppa :=
  let page := fun (p : Ppa) => [p, runCard p 1, runCard p 2, runCard p 3]
  (m.index.map fun e => e.2.ppa).flatMap page ++ (m.segs.map fun g => g.locator)
    ++ (m.blocks.flatMap fun e => e.2.listCards) ++ (m.idxPages.map fun e => e.2).flatMap page
    ++ (m.tblPages.map fun e => e.2).flatMap page ++ m.dirPages.flatMap page

/-- The system cards that the map names now. -/
def liveCards (s : State) : List Ppa :=
  let page := fun (p : Ppa) => [p, runCard p 1, runCard p 2, runCard p 3]
  (s.cat.index.map fun e => e.2.ppa).flatMap page ++ (s.cat.segs.map fun g => g.locator)
    ++ s.blk.table.flatMap fun e => e.2.listCards

/-- The card lies in block stripe `n`. -/
def liesIn (s : State) (n : Nat) (p : Ppa) : Bool := p != 0 && ppaEntry s p = some n

/-- Block stripe `n` holds a card that must stay: one that the map, a pass or the Ledger behind the newest
spine record still names, one superseded at or after that record's redo point, or a record of the Daybook ring. -/
def mustStay (s : State) (n : Nat) : Bool :=
  let snaps := [s.inv.published, s.inv.spineSnap] ++ s.inv.completed.toList ++ s.inv.running.toList
    ++ s.inv.publishing.map fun p => p.snap
  s.inv.superseded.any (fun x => liesIn s n x.1)
    || (liveCards s).any (liesIn s n) || snaps.any (fun m => (snapCards m).any (liesIn s n))
    || s.led.extents.any (fun e => extentEntry s e.2 = n
        && decide (s.inv.spineSnap.redo < e.1 + 128 * extentCards s e.2))
    || s.day.stripes.any (fun x => x.1 = n && match s.day.ring.head? with
        | some r => decide (r.seq ≤ x.2)
        | none => false)

/-! ## INVENTORY_PASS_START (R47, R48, R90, R91) -/

/-- A card in a block stripe chosen for reclaim is written again as if it were dirty. -/
def chosenAway (s : State) (p : Ppa) : Bool :=
  match ppaEntry s p with
  | some n => p != 0 && (blkAt s n).stream = 3 && (blkAt s n).forced
  | none => false

/-- The shelf lists that a pass writes: of every open block stripe, and of those with a card in a block
stripe chosen for reclaim. -/
def listsToWrite (s : State) : List Nat :=
  (s.blk.table.filter fun e => e.2.stream != 3
    && (e.2.state = 1 || e.2.listCards.any fun p => chosenAway s p)).map fun e => e.1

/-- The positions of the shelf list of block stripe `n` that a pass writes: those of the rows opened so far while it is
open. -/
def listCells (s : State) (n : Nat) : Nat :=
  if (blkAt s n).state = 1 then 16 * dataWidth s n * (blkAt s n).rowsUsed else stripeCards s n

/-- The block-table entry with its shelf list at `ppas`; LIST_ROWS is zero unless it is open (Table 4.1). -/
def listedAt (ppas : List Ppa) (b : BlockEntry) : BlockEntry :=
  { b with
    listPpa := ppas.headD 0, listCards := ppas
    listRows := if b.state = 1 then b.rowsUsed else 0 }

/-- The shelf list of block stripe `n` is written as far as it stands: the captured block table `tbl` takes its place,
and for a full block stripe, whose list is rewritten, the live one too (R90, R91); none when it has no place. -/
def writeList (n : Nat) (x : List (Nat × BlockEntry) × State) : Option (List (Nat × BlockEntry) × State) :=
  let s := x.2
  match placeSystems (listCards s n (listCells s n)) s with
  | none => none
  | some (ppas, t) =>
    let old := mapAt (blkAt s n) n x.1
    let t1 := old.listCards.foldl (fun u p => supersede p u) t
    some (mapSet n (listedAt ppas old) x.1,
      if (blkAt s n).state = 1 then t1 else modBlk n (listedAt ppas) t1)

/-- The shelf lists that a pass writes, one after another. -/
def writeLists : List Nat → List (Nat × BlockEntry) × State → Option (List (Nat × BlockEntry) × State)
  | [], x => some x
  | n :: l, x => match writeList n x with
    | none => none
    | some y => writeLists l y

/-- Every pending update applied, as a lookup would apply it (R39). -/
def settledMap (s : State) : State :=
  (s.cat.pend.map fun r => r.shelf).eraseDups.foldl (fun t sh => settleShelf sh t) s

/-- The Index pages whose entries changed since the last pass, and those that lie in a chosen block. -/
def changedIdx (s : State) (last : MapSnap) : List Nat :=
  let pages := ((s.cat.index.map fun (e : Nat × IndexEntry) => e.1 / 2048) ++ (last.index.map fun (e : Nat × IndexEntry) => e.1 / 2048)).eraseDups
  let ofPage := fun (l : List (Nat × IndexEntry)) (n : Nat) =>
    (l.filter fun e => e.1 / 2048 = n).map fun e => (e.1, e.2.state, e.2.ppa)
  (sortBy (fun a b => decide (a < b)) pages).filter fun n =>
    ofPage s.cat.index n != ofPage last.index n
      || (match mapGet n last.idxPages with | some p => chosenAway s p | none => true)

/-- The block-table pages of 512 entries that changed since the last pass. -/
def changedTbl (s : State) (blocks : List (Nat × BlockEntry)) (last : MapSnap) : List Nat :=
  let pages := ((blocks.map fun (e : Nat × BlockEntry) => e.1 / 512) ++ (last.blocks.map fun (e : Nat × BlockEntry) => e.1 / 512)).eraseDups
  (sortBy (fun a b => decide (a < b)) pages).filter fun n =>
    (blocks.filter fun e => e.1 / 512 = n) != (last.blocks.filter fun e => e.1 / 512 = n)
      || (match mapGet n last.tblPages with | some p => chosenAway s p | none => true)

/-- Pages written in this pass replace those of the last. -/
def newPages (last new : List (Nat × Ppa)) : List (Nat × Ppa) :=
  new.foldl (fun l e => mapSet e.1 e.2 l) last

/-- The pages of the Index that are dirty, and those that lie in a chosen block. -/
def dirtyPages (s : State) : List Nat :=
  (s.cat.index.filter fun e => e.2.dirty || chosenAway s e.2.ppa).map fun e => e.1

/-- The pass written before this one. -/
def lastPass (s : State) : MapSnap := s.inv.completed.getD s.inv.published

/-- Card `i` of shelf page `c` as it goes to flash (Tables 2.2, 2.3). -/
def shelfPageCard (s : State) (c i : Nat) : List Nat :=
  pageCard (fun j => shelfWord (mapAt freeShelf (2048 * c + j) s.cat.shelves) none) i

/-- Steps 2 and 3 of a pass: the dirty segments, then the dirty shelf pages. -/
def passMap (s : State) : Option State :=
  let segs := (s.cat.segs.filter fun g => g.dirty || chosenAway s g.locator).map fun g => g.shelf
  match placeSegments (chunks 39 (segs.length + 1) segs) s with
  | none => none
  | some s1 => (placePages (shelfPageCard s1) (dirtyPages s1) s1).map fun x =>
      x.1.foldl (fun t p =>
        modIndex p.1 (fun e => { e with state := 1, dirty := false, ppa := p.2 })
          (supersedePage (indexAt t p.1).ppa t)) x.2

/-- Old pages that new ones of the same number replace are superseded (R50). -/
def supersedeOld (last new : List (Nat × Ppa)) (s : State) : State :=
  new.foldl (fun t e => match mapGet e.1 last with
    | some p => supersedePage p t
    | none => t) s

/-- The pages of a numbered list in order, from number 0 on; one that was never written has PPA 0 (DESIGN CHOICE, log
entry 165). -/
def allPages (l : List (Nat × Ppa)) : List Ppa :=
  (List.range (l.foldl (fun a e => max a (e.1 + 1)) 0)).map fun n => mapAt 0 n l

/-- Steps 4 and 5 of a pass over the captured block table `blocks`: the Index snapshot pages and the block-table pages
that changed, and the directory pages. -/
def passRoot (redo : Nat) (blocks : List (Nat × BlockEntry)) (s : State) : Option State :=
  let last := lastPass s
  let m := settledMap s
  let tbl := fun n i => tableCard { s with blk := { s.blk with table := blocks } } n i
  match placePages (fun n => pageCard fun j => flashIndex (indexAt s (2048 * n + j))) (changedIdx s last) s with
  | none => none
  | some (idx, s1) => match placePages tbl (changedTbl s blocks last) s1 with
    | none => none
    | some (tb, s2) =>
      let idxPages := newPages last.idxPages idx
      let tblPages := newPages last.tblPages tb
      let ppas := allPages idxPages ++ allPages tblPages
      match placeDirs (allPages idxPages).length (allPages tblPages).length (chunks 2046 (ppas.length + 1) ppas) s2 with
      | none => none
      | some (dirs, s3) =>
        let snap : MapSnap :=
          { redo := redo, dir := dirs.headD 0
            shelves := m.cat.shelves
            segs := m.cat.segs.map fun g => { g with slot := none, dirty := false, ref := false }
            index := s.cat.index.map fun e => (e.1, { e.2 with loaded := false, dirty := false })
            blocks := blocks, lists := s.blk.lists, idxPages := idxPages, tblPages := tblPages
            dirPages := dirs }
        let s4 := last.dirPages.foldl (fun t p => supersedePage p t)
          (supersedeOld last.tblPages tb (supersedeOld last.idxPages idx s3))
        some { s4 with inv := { s4.inv with
          running := some snap, passDue := false, passMs := s.clock.opMs, interval := fld s 0x600 } }

/-- The five steps of a pass, their cards placed in order: the redo point and the block table are captured first, with
the shelf lists of the open block stripes (R47, R90). -/
def runPass (s : State) : Option State :=
  match writeLists (listsToWrite s) (s.blk.table, s) with
  | none => none
  | some (blocks, s0) => match passMap s0 with
    | none => none
    | some s1 => passRoot s.led.nextSeq blocks s1

/-- The background work of the map runs. -/
def mapRuns (s : State) : Bool := serving s

/-- A pass is due: one starts when the Ledger distance reaches 64 MiB or the checkpoint interval has elapsed since the
start of the previous one; passes run one at a time (R48). -/
def passStarts (s : State) : Bool :=
  mapRuns s && s.inv.running.isNone && (s.inv.passDue || decide (passDistance ≤ ledgerDistance s))

/-- INVENTORY_PASS_START: the pass asks for the work-pool buffer that its structures are copied into, and begins once it
holds it (R17, R47). -/
def execInventoryPassStart (s : State) : Outcome :=
  .next (if ! passStarts s then s
    else
      let t := askOnce 1 passReq [16] s
      if ! holdsBuf passReq t then t
      else match runPass t with
        | some u => leaveIdle u
        | none => stallRow 8 (fun u => (runPass u).isSome) t)

/-- The checkpoint interval in force has elapsed since the operating time `ms`. -/
def intervalOver (s : State) (ms : Nat) : Bool := decide (ms + 1000 * s.inv.interval ≤ s.clock.opMs)

/-- CHECKPOINT_INTERVAL_EXPIRY: the interval has elapsed since the last spine record, or since the start of the previous
pass (R48, R49). -/
def execCheckpointIntervalExpiry (s : State) : Outcome :=
  .next (if mapRuns s then
    leaveIdle { s with inv := { s.inv with
      ckptDue := s.inv.ckptDue || intervalOver s s.inv.spineMs
      passDue := s.inv.passDue || intervalOver s s.inv.passMs } } else s)

/-! ## Spine records (R34, R49, R51 to R53) -/

/-- A spine record of kind `kind` that names pass `m` (Table 2.11). -/
def makeSpine (kind : Nat) (m : MapSnap) (s : State) : SpineRec :=
  { spineSeq := s.inv.nextSpine, redoSeq := m.redo, redoCard := ledgerCard s m.redo,
    walkStart := s.led.extentPpa, directory := m.dir, accFloor := s.cat.nextAcc,
    timeMs := s.clock.opMs, kind := kind, torn := false }

/-- Records of a spine sector. -/
def spineOf (s : State) (n : Nat) : List SpineRec := if n = 0 then s.inv.spine0 else s.inv.spine1

/-- The sector that takes the next record: the active one while it has a free place, then the other once it
is erased; none when there is no place. -/
def spinePlace (s : State) : Option Nat :=
  if (spineOf s s.inv.activeSpine).length < 1024 then some s.inv.activeSpine
  else if s.inv.otherErased then some (1 - s.inv.activeSpine) else none

/-- A record is programmed into sector `n`; with 896 records in it the erase of the other sector is asked for (R52). -/
def putSpine (n : Nat) (r : SpineRec) (s : State) : State :=
  let s1 : State := { s with inv := { s.inv with
    otherErased := s.inv.otherErased && n = s.inv.activeSpine
    activeSpine := n, nextSpine := s.inv.nextSpine + 1, writing := some r, spineMs := s.clock.opMs
    spine0 := if n = 0 then s.inv.spine0 ++ [r] else s.inv.spine0
    spine1 := if n = 0 then s.inv.spine1 else s.inv.spine1 ++ [r] } }
  if ((spineOf s1 n).length = 896 || (decide (896 < (spineOf s1 n).length) && ! s1.inv.otherErased))
      && ! s1.inv.erasingOther then
    askErase (129 - n) { s1 with inv := { s1.inv with otherErased := false, erasingOther := true } }
  else s1

/-- A spine record is appended, where it has a place. -/
def appendSpine (kind : Nat) (m : MapSnap) (s : State) : Option State :=
  (spinePlace s).map fun n => putSpine n (makeSpine kind m s) s

/-- The record that was programmed does not read back: it is torn. -/
def tearSpine (r : SpineRec) (s : State) : State :=
  let f := fun (x : SpineRec) => if x = r then { x with torn := true } else x
  { s with inv := { s.inv with spine0 := s.inv.spine0.map f, spine1 := s.inv.spine1.map f, writing := none } }

/-- The pass that a spine record names. -/
def passOf (s : State) (r : SpineRec) : MapSnap :=
  match s.inv.completed with
  | some m => if m.redo = r.redoSeq then m else s.inv.published
  | none => s.inv.published

/-- A record reads back: it is the reference of R34, and its publication counts (R48). -/
def spineRead (r : SpineRec) (s : State) : State :=
  let m := passOf s r
  { s with
    inv := { s.inv with
      writing := none, refFloor := r.accFloor, ckptDue := false, spineSnap := m
      counted := s.inv.counted.filter fun p => decide (m.redo < p.snap.redo)
      superseded := s.inv.superseded.filter fun x => decide (m.redo ≤ x.2)
      published := if s.inv.published.redo < m.redo then m else s.inv.published }
    led := { s.led with spineSeqAt := s.led.nextSeq } }

/-- SPINE_RECORD_READBACK: writes that stalled on the number limit go on; a torn record is written again. -/
def execSpineRecordReadback (ok : Bool) (s : State) : Outcome :=
  .next (match s.inv.writing with
    | none => s
    | some r =>
      if s.mode.mode = .coast then s
      else if ok then resumeAll (spineRead r s)
      else
        let t := tearSpine r s
        match spinePlace t with
        | some n => putSpine n { r with spineSeq := t.inv.nextSpine } t
        | none => t)

/-- 8 GiB of Ledger, in records. -/
def ledger8G : Nat := 268435456

/-- A pass that completes now ends with a spine record (R34, R49). -/
def checkpointDue (s : State) : Bool :=
  s.inv.ckptDue || decide (s.led.spineSeqAt + ledger8G ≤ s.led.nextSeq)
    || decide (1073741824 + s.inv.refFloor ≤ s.cat.nextAcc)

/-- Every card of the pass in progress is programmed. -/
def passWritten (s : State) (m : MapSnap) : Bool :=
  let mine := snapCards m
  ! s.wr.transit.any fun c => c.card4k.md.stream = 3 && ! c.pageDone && mine.contains c.ppa

/-- INVENTORY_PASS_COMPLETE: the pass is complete; as a checkpoint it ends with a spine record of KIND 0, and
the counts since manufacture are saved with it. -/
def execInventoryPassComplete (s : State) : Outcome :=
  .next (match s.inv.running with
    | none => s
    | some m =>
      if ! mapRuns s || ! passWritten s m || (checkpointDue s && s.inv.writing.isSome) then s
      else
        let s1 := freeAllOf passReq { s with inv := { s.inv with
          running := none, completed := some m, interval := fld s 0x600 } }
        if ! checkpointDue s then s1
        else match appendSpine 0 m s1 with
          | some t => saveLogs t
          | none => s1)

/-! ## The Ledger's events (R45, R46) -/

/-- LEDGER_CARD_PROGRAMMED. -/
def execLedgerCardProgrammed (firstSeq : Nat) (s : State) : Outcome :=
  .next (if awake s && s.led.placed.contains firstSeq then
    let t := cardProgrammed firstSeq s
    if s.mode.mode = .coast then t else resumeAll t
  else s)

/-- LEDGER_IDLE_CLOSE: the open Ledger card is filled with PAD records and placed, when no record was
appended for 10 ms or something waits for one of its records. -/
def execLedgerIdleClose (s : State) : Outcome :=
  .next (if mapRuns s && regionRoom s (512 - openRecords s) then closeCard s else s)

/-- What waits for the number of a record that now has one. -/
def numberWaiters (s : State) : State :=
  let n := s.led.nextSeq - 1
  { s with
    nv := { s.nv with
      cmds := s.nv.cmds.map fun c => if c.needSeq = noSeq then { c with needSeq := n } else c }
    pel := { s.pel with
      txns := s.pel.txns.map fun t => if t.needSeq = noSeq then { t with needSeq := n } else t }
    key := { s.key with
      renewals := s.key.renewals.map fun r => if r.lastSeq = noSeq then { r with lastSeq := n } else r } }

/-- Stalled appends go on in order while there is room. -/
def admitAppends : Nat → State → State
  | 0, s => s
  | fuel + 1, s => match s.led.stalled with
    | [] => numberWaiters s
    | r :: rest =>
      let t := append r { s with led := { s.led with stalled := [] } }
      if t.led.stalled.isEmpty then admitAppends fuel { t with led := { t.led with stalled := rest } }
      else { t with led := { t.led with stalled := r :: rest } }

/-- LEDGER_SPACE_FREED. -/
def execLedgerSpaceFreed (s : State) : Outcome :=
  .next (if mapRuns s && ! s.led.stalled.isEmpty then
    resumeAll (admitAppends (s.led.stalled.length + 1) s) else s)

/-- PENDING_UPDATE_ROOM (R39). -/
def execPendingUpdateRoom (s : State) : Outcome :=
  .next (if mapRuns s && ! s.cat.stalledUpd.isEmpty then
    resumeAll (admitUpdates s.cat.stalledUpd.length s) else s)

/-- The release of a deallocated shelf: the counts of its blocks fall, and it is unmapped (Table 2.4). -/
def releaseShelf (shelf : Nat) (s : State) : State :=
  let st := shelfBase s shelf
  if st.e.form = 3 then
    shiftValid st.e.relSeq (shelfPpas st) [] (putShelf shelf unmapped s)
  else s

/-- SHELF_RELEASE: the shelf is released; while its page or segment is not resident its load starts (Table 2.4). -/
def execShelfRelease (shelf : Nat) (s : State) : Outcome :=
  .next (if ! mapRuns s then s
    else if pageResident s shelf && segResident s shelf then releaseShelf shelf s
    else if (shelfBase s shelf).e.form = 3 || ! pageResident s shelf then loadFor shelf s
    else s)

/-! ## Warming and Preserve (R55, R56, R105, R106, R188) -/

/-- The pages that remain to be loaded, in Index order. -/
def pagesToLoad (s : State) : List Nat :=
  (s.cat.index.filter fun e => e.2.state = 1 && ! e.2.loaded).map fun e => e.1

/-- The next page in Index order whose load has not started. -/
def nextPage (s : State) : Option Nat := (pagesToLoad s).find? fun p => ! s.cat.misses.contains (true, p)

/-- SHELF_PAGE_LOAD: the load of the next page in Index order starts, a class 1 read; it ends as any load does
(R55, R121). -/
def execShelfPageLoad (page : Nat) (s : State) : Outcome :=
  .next (if mapRuns s && s.mode.warm && nextPage s = some page then startLoadAt true true page s else s)

/-- The Preserve latch of Table 15.16. -/
def latchKey : Nat := 0x70000

/-- A command that counts as holding its transit buffers from its fetch on: it asks for none (R58). -/
def asksNone (s : State) (c : Cmd) : Bool :=
  c.e.opcode = 0x08 && deacOf c.e && match nsAt s c.e.nsid with
    | some n => (partialCards (firstSector n c.e) (sectorCount n c.e)).isEmpty
    | none => false

/-- Preserve is entered: a PRESERVE record, the latch stored, fold and rotation stopped, and a write that
holds no transit buffers yet is refused (R105, R106). -/
def enterPreserve (s : State) : State :=
  let s1 := record 0x0106 [(8, s.blk.headroom), (4, preserveFloor s)] s
  let s2 := setMode .preserve (storeRt latchKey 1 s1)
  let s3 : State := { s2 with
    mode := { s2.mode with preservePend := true }
    wr := { s2.wr with folding := false, idleFold := false, foldSource := none }
    blk := { s2.blk with rotating := [] } }
  let refused := (s3.nv.cmds.filter fun c => c.qid != 0 && writesCards c.e.opcode
    && (c.phase = .fetched || c.phase = .waiting || c.phase = .stalled) && ! asksNone s3 c).map fun c => c.slot
  inSlotOrder (fun u => refused.foldl (fun t n => finishErr n scProtected (dropBuffers n t)) u) s3

/-- The mode that follows Warming (Table 8.3). -/
def afterWarming (s : State) : State :=
  if s.mode.preservePend then enterPreserve s
  else if s.mode.degraded then setMode .degraded s else setMode .service s

/-- WARMING_END: every shelf page is loaded. -/
def execWarmingEnd (s : State) : Outcome :=
  .next (if ! mapRuns s || (! s.mode.warm && s.mode.mode != .warming) || ! (pagesToLoad s).isEmpty then s
    else
      let t : State := { s with mode := { s.mode with warm := false } }
      if s.mode.mode = .warming then afterWarming t else t)

/-- A command boundary: with H below the floor Preserve is entered (R105). -/
def atBoundary (s : State) : State :=
  match s.mode.mode with
  | .warming =>
    if s.blk.headroom < preserveFloor s && ! s.blk.belowBoot then enterPreserve s else s
  | .service | .degraded => if s.blk.headroom < preserveFloor s then enterPreserve s else s
  | _ => s

/-- PRESERVE_ENTRY: the boundary with no fetch pending. -/
def execPreserveEntry (s : State) : Outcome := .next (atBoundary s)

/-- COMMAND_FETCH: the point just before it is a command boundary (R105). -/
def execCommandFetch (slot qid : Nat) (e : SqEntry) (s : State) : Outcome :=
  .next (if fetchLegal slot qid s then fetchEntry slot qid e (atBoundary s) else s)

end Sys2Proof.Machine
end

