-- ==== Sys2Proof/Machine/Coast.lean ====
section
/-! DEFINITION. Coast, its arming and the hold-up test (R70, R135, R166 to R176): entry by hardware, the
placement that ends, the programs of step 3, and the disarming. -/

namespace Sys2Proof.Machine

/-! ## Step 1: the tiles, the ports and the Codex die (R135, R168) -/

/-- A program of the carrel: one page; a stacks program is a word line. -/
def carrelProgram (p : ProgReq) : Bool := p.page.isSome

/-- The carrel program that an operation is, if it is one. -/
def keptProgram : Option ArrayOp → Option ArrayOp
  | some (.program p) => if carrelProgram p then some (.program p) else none
  | _ => none

/-- The erases that Reset LUN aborts. -/
def abortedErase : Option ArrayOp → List Nat
  | some (.erase e) => [e]
  | _ => []

/-- An operation that Coast ends by Reset LUN: a read's data is discarded instead. -/
def resetDue : Option ArrayOp → Bool
  | some (.program _) => true
  | some (.erase _) => true
  | _ => false

/-- A tile at Coast entry: queued reads are discarded, erases and stacks programs are reset, a carrel program
goes on or is resumed. -/
def coastTile (d : Die) : Die :=
  { d with
    readQ := [], suspReads := [], suspending := false, limitNext := none, eraseNext := false, suspends := 0
    op := match keptProgram d.op with
      | some p => some p
      | none => keptProgram d.suspended
    suspended := none
    caching := false, lastPage := none
    joined := d.joined.filter fun o => (keptProgram (some o)).isSome
    cycles := match keptProgram d.op, keptProgram d.suspended with
      | some p, _ => if d.suspending then resumeCycles (some p) else d.cycles
      | none, some p => resumeCycles (some p)
      | none, none => if resetDue d.op || resetDue d.suspended then [0xFA] else d.cycles
    eraseQ := ([d.op, d.suspended] ++ d.joined.map some).flatMap abortedErase ++ d.eraseQ }

/-- Every tile at Coast entry. -/
def tilesCoast (s : State) : State := { s with fl := { s.fl with dies := s.fl.dies.map coastTile } }

/-- The ports drop PLp_ALIVE, and their links are lost. -/
def portsCoast (s : State) : State :=
  [0, 1, 2, 3].foldl (fun t p => modPort p (fun x => { x with aliveTx := false }) (loseLink p t)) s

/-- An erase of the Codex die is suspended. -/
def codexCoast (s : State) : State :=
  if s.cdx.erasing.isSome then { s with cdx := { s.cdx with erSusp := true } } else s

/-- A running hold-up test is abandoned and records no result (R177). -/
def abandonTest (s : State) : State :=
  if s.coast.test = .none then s
  else
    { s with
      coast := { s.coast with test := .none, abandoned := sat32 (s.coast.abandoned + 1) }
      pins := { s.pins with holdupDevLow := false } }

/-! ## Step 2: placement ends (R168, R170) -/

/-- A card in transit whose Ledger record still waits is discarded, the record with it. -/
def dropStalled (s : State) : State :=
  let gone := s.led.stalled.flatMap fun r =>
    if r.typ = 2 || r.typ = 4 then (List.range 16).map fun i => runCard r.newPpa i else [r.newPpa]
  { s with
    led := { s.led with stalled := [] }
    wr := { s.wr with transit := s.wr.transit.filter fun c => ! (gone.contains c.ppa && c.move.isNone) } }

/-- The rows of the stacks. -/
def stacksRows (s : State) : List OpenRow := s.wr.rows.filter fun r => ! inCarrel s r.entry

/-- A transit card that lies in the stacks. -/
def inStacks (s : State) (c : TransitCard) : Bool :=
  match ppaEntry s c.ppa with
  | some n => ! inCarrel s n
  | none => false

/-- The places of a lane's Coast block stripes, the same page index of every plane before the next. -/
def coastCells (s : State) (lane pages : Nat) : List (Nat × Nat) :=
  (List.range pages).flatMap fun p => (coastOf s lane).flatMap fun n =>
    (List.range (4 * dataWidth s n)).map fun i => (n, 4 * dataWidth s n * p + i)

/-- A host card of the stacks takes its Coast place, with a conditional CARD_MOVE. -/
def coastMove (x : TransitCard × Nat × Nat) (s : State) : State :=
  let c := x.1
  let new := posPpa s x.2.1 x.2.2
  let s1 : State := { s with
    wr := { s.wr with
      transit := modWhere (fun y => y.ppa = c.ppa)
        (fun y => { y with ppa := new, parLeft := 2, run := false }) s.wr.transit }
    blk := { s.blk with
      lists := mapSet x.2.1 ((mapAt [] x.2.1 s.blk.lists) ++ [(x.2.2, c.shelf, c.card)]) s.blk.lists } }
  append (cardRec 0x3 c.shelf c.card c.ppa new c.card4k.md.accession) s1

/-- The host cards of a lane's unprogrammed stacks pages go into its Coast block stripes, with those of failed pages
that have no other place yet. -/
def coastLane (lane : Nat) (s : State) : State :=
  let cards := s.wr.transit.filter fun c => (inStacks s c || s.wr.again.contains c.ppa) && ! c.pageDone && c.move.isNone
    && c.card4k.md.stream != 3
    && (match ppaEntry s c.ppa with | some n => entryLane s n = lane | none => false)
  let cells := coastCells s lane (coastPages s lane cards.length)
  (cards.zip cells).foldl (fun t x => coastMove x t) s

/-- Stacks rows leave: copies in them are discarded, and what stands on flash of their block stripes is
closed as a forced victim. -/
def leaveStacks (s : State) : State :=
  let rows := stacksRows s
  let ids := rows.map fun r => r.id
  let entries := (rows.map fun r => r.entry).eraseDups
  let s1 := entries.foldl (fun t n => modBlk n (fun b => if b.state = 1 then { b with
    state := 2, forced := true, closed := nowMin t, closedSeq := t.led.nextSeq, listRows := 0 }
    else { b with forced := true }) t) s
  let s2 : State := { s1 with
    wr := { s1.wr with
      transit := s1.wr.transit.filter fun c => ! inStacks s1 c
      rows := s1.wr.rows.filter fun r => ! ids.contains r.id
      handed := [] }
    fl := { s1.fl with dies := s1.fl.dies.map fun d => { d with
      progQ := d.progQ.filter fun q => ! ids.contains q.row } } }
  rows.foldl (fun t r => match r.buffer with
    | some (p, a) => freeBuffer p a t
    | none => t) s2

/-- Every lane of the build. -/
def placementEnds (s : State) : State :=
  leaveStacks ((List.range (laneCount s)).foldl (fun t l => coastLane l t) (dropStalled s))

/-! ## Step 3: the programs (R168) -/

/-- Every open carrel die stripe that holds a card is sealed. -/
def sealStripes (s : State) : State :=
  (s.wr.rows.filter fun r => inCarrel s r.entry).foldl (fun t r =>
    [0, 1, 2, 3].foldl (fun u p =>
      let k := dataWidth u r.entry
      if r.filled.any (fun x => posPage k x = p) then
        padCells r.id ((List.range (16 * k)).filter fun x => posPage k x = p) u
      else u) t) s

/-! ## Entry (R166, R168, R172) -/

/-- The code of a cause in COAST_ENTRY (Table 16.12). -/
def causeCode : CoastCause → Nat
  | .pwrfail => 0
  | .v12 => 1
  | .perst => 2
  | .normal => 3
  | .abrupt => 4

/-- Every unit that a Coast needs is awake, and CORE_VSET is driven with d = 0.5 (R197, R444). -/
def wakeAll (s : State) : State :=
  { s with
    pins := { s.pins with coreVset := 500 }
    mode := { s.mode with gates := { s.mode.gates with
      tiles := [], hardDec := [], softDec := [], cores := [], engines := false } } }

/-- The whole sequence begins: steps 1 and 2 run, and the programs of step 3 are with the dies. -/
def coastRuns (cause : CoastCause) (s : State) : State :=
  let s1 := codexCoast (portsCoast (tilesCoast (abandonTest s)))
  let s2 : State := setMode .coast { wakeAll s1 with coast := { s1.coast with
    phase := .none, cause := cause, modeAt := s.mode.mode, entryUs := s.clock.us, perstFacts := none } }
  let s3 := record 0x0003 [(1, causeCode cause)] (placementEnds s2)
  sealStripes { s3 with coast := { s3.coast with phase := .programs } }

/-- Coast entry (Table 7.3): in Rising only the tiles act; in Recovery, Dormant and a running Coast nothing
more happens. -/
def coastEntry (cause : CoastCause) (s : State) : State :=
  match s.mode.mode with
  | .warming | .service | .degraded | .preserve => coastRuns cause s
  | .rising => tilesCoast { s with mode := { s.mode with startRun := none } }
  | _ => s

/-- A low pulse of PWRFAIL_N of `ns`: 1 µs enters Coast, below 0.5 µs it is ignored, between the two it is
open. -/
def pwrfailSeen (s : State) (ns : Nat) : Bool :=
  if 1000 ≤ ns then true else if ns < 500 then false else Config.freeBit s.free

/-- PWRFAIL_N_LOW: the pin is low for `ns`; the supervisor disconnects its test load (R175). -/
def execPwrfailNLow (ns : Nat) (s : State) : Outcome :=
  let s1 := if decide (500 ≤ ns) && decide (ns < 1000) then drawFree s else s
  .next (if pwrfailSeen s ns then
    coastEntry .pwrfail { s1 with pins := { s1.pins with pwrfailN := s.pins.pwrfailN && ! awake s } } else s1)

/-- V12_BELOW_THRESHOLD: 4 µs below the V12 Coast threshold, a field in 0.1 V. -/
def execV12BelowThreshold (mv us : Nat) (s : State) : Outcome :=
  .next (if awake s && decide (mv < 100 * fld s 0x6C4) && decide (4 ≤ us) then coastEntry .v12 s else s)

/-! ## COAST_PROGRAMS_DONE: steps 3 and 4 -/

/-- A unit's program has ended with its cards, or its parity, on flash. -/
def programEnds (p : ProgReq) (s : State) : State :=
  match rowAt s p.row with
  | none => s
  | some r => endUnit r p.unit true (storeUnit r p.unit s)

/-- The pages that a die programs in Coast. -/
def diePrograms (d : Die) : List ProgReq :=
  (match d.op with
    | some (.program p) => [p]
    | _ => []) ++ d.progQ

/-- Every program that Coast left with the dies has ended. -/
def allProgramsEnd (s : State) : State :=
  let ps := s.fl.dies.flatMap diePrograms
  let s1 := ps.foldl (fun t p => programEnds p t) s
  let s2 : State := { s1 with fl := { s1.fl with dies := s1.fl.dies.map fun d => { d with
    progQ := []
    op := match d.op with
      | some (.program _) => none
      | o => o } } }
  (s2.wr.rows.filter fun r => rowDone s2 r).foldl (fun t r => endRow r t) s2

/-- The cards in the Coast block stripes are on flash, with their P and Q; PAD fills the pages they opened. -/
def coastStored (s : State) : State :=
  let mine := s.wr.transit.filter fun c => match ppaEntry s c.ppa with
    | some n => s.coast.stripes.contains n
    | none => false
  let pages := (mine.map fun c => (ppaEntry s c.ppa |>.getD 0, ppaPage c.ppa)).eraseDups
  let cells := pages.flatMap fun x =>
    (List.range (4 * dataWidth s x.1)).map fun i => posPpa s x.1 (4 * dataWidth s x.1 * x.2 + i)
  let s1 : State := { s with wr := { s.wr with
    flash := cells.foldl (fun m p => mapSet p.toNat (cardFor s 1 p) m) s.wr.flash
    transit := s.wr.transit.map fun c =>
      if mine.any (fun x => x.ppa = c.ppa) then { c with pageDone := true, parLeft := 0 } else c } }
  freeTransit (pages.foldl (fun t x => parityPage x.1 1 true x.2 (parityPage x.1 1 false x.2 t)) s1)

/-- The Daybook buffer is on flash, in the Daybook reserve, and what was being flushed in its own place; the die stripes
are sealed. -/
def dayStored (s : State) : State :=
  let s1 := if s.day.flushing.isEmpty then s
    else
      let first := s.day.cards - flushCards s.day.flushing.length
      sealSystem (posPpa s s.day.stripe first)
        (storeDay s.day.stripe first s.day.flushing { s with day := { s.day with flushing := [] } })
  match s1.day.buffer.isEmpty, s1.coast.reserve.getLast? with
  | false, some n => sealSystem (posPpa s1 n 0) (storeDay n 0 s1.day.buffer
      { s1 with day := { s1.day with buffer := [], flushDue := false, coastWrote := true } })
  | _, _ => s1

/-- Every Ledger record is on flash, the last card filled with PAD records, and its die stripe sealed. -/
def ledgerStored (s : State) : State :=
  let t := closeCard s
  t.led.placed.foldl (fun u n => sealSystem (ledgerCard u n) (cardProgrammed n u)) t

/-- COAST_PROGRAMS_DONE: every program of step 3 has completed; the Coast record is appended, where it has a
place (R53). -/
def execCoastProgramsDone (s : State) : Outcome :=
  .next (if s.coast.phase != .programs then s
    else
      let s1 := saveLogs (dayStored (ledgerStored (coastStored (allProgramsEnd s))))
      match appendSpine 2 (passToName s1) s1 with
      | some t => { t with coast := { t.coast with phase := .record, recordDue := true } }
      | none => { s1 with coast := { s1.coast with phase := .record, recordDue := false } })

/-! ## Arming and disarming (R70, R170, R177) -/

/-- A carrel block stripe of plane group `g` becomes its Coast block stripe (R87, R133). -/
def takeCoastStripe (g : Nat) (s : State) : State :=
  if s.coast.stripes.any (fun n => entryGroup s n = g) || laneHeld s (g / planesOf s) then s
  else match stripeToOpen s g true with
    | none => s
    | some n =>
      let t := openStripe n 1 s
      { t with coast := { t.coast with stripes := t.coast.stripes ++ [n] } }

/-- Every plane group takes its Coast block stripe. -/
def takeCoastStripes (s : State) : State :=
  (List.range (groupCount s)).foldl (fun t g => takeCoastStripe g t) s

/-- Coast is armed: the Ledger region counts as durable from then on (R46). -/
def arm (s : State) : State :=
  let s1 := record 0x0004 [(1, 1), (1, 1)] { s with coast := { s.coast with armed := true } }
  settleAll (publishDurable (takeCoastStripes s1))

/-- Acknowledged cards whose own page is not programmed. -/
def ackedLeft (s : State) : List Ppa :=
  (s.wr.transit.filter fun c => c.isAcked && ! c.pageDone).map fun c => c.ppa

/-- Every open row is filled with PAD cards. -/
def sealRows (s : State) : State :=
  ((s.wr.rows.filter fun r => ! r.sealed).map fun r => r.id).foldl (fun t id => sealRow id t) s

/-- Coast is disarmed: the rows close, and the acknowledged cards are programmed. -/
def disarm (cause : Nat) (s : State) : State :=
  if ! s.coast.armed then s
  else
    let s1 := sealRows (record 0x0004 [(1, 0), (1, cause)]
      { s with coast := { s.coast with armed := false } })
    { s1 with coast := { s1.coast with draining := true, drainLeft := ackedLeft s1 } }

/-- COAST_DISARM: cause 0 the policy is not armed, 1 a hold-up test failed. -/
def execCoastDisarm (cause : Nat) (s : State) : Outcome :=
  .next (if serving s && decide (cause ≤ 1) then disarm cause s else s)

/-- A host card, as placed by a write: rewritten and system cards lie in the streams 2 and 3 (Table 3.3). -/
def hostPlaced (s : State) (c : TransitCard) : Bool :=
  match ppaEntry s c.ppa with
  | some n => decide ((blkAt s n).stream < 2)
  | none => false

/-- The cards of step 3 that are not programmed yet: those acknowledged at the disarming, and those that writes started
before it have had acknowledged since. -/
def drainOpen (s : State) : Bool :=
  s.wr.transit.any fun c => ! c.pageDone && (s.coast.drainLeft.contains c.ppa || (c.isAcked && hostPlaced s c))

/-- A write that started with Coast armed and has not been acknowledged yet: its cards still join step 3, so that a
Flush of R69 covers it (DEDUCED, log entry 130). -/
def armedOpen (s : State) : Bool :=
  s.nv.cmds.any fun c => c.qid != 0 && writesCards c.e.opcode && c.armed && ! fuaOf c.e
    && (c.phase = .buffered || c.phase = .placed || c.phase = .held)
  || s.pel.txns.any fun t => t.armed && t.started && t.op != 257 && ! t.desc.fua

/-- ACK_DRAIN_DONE: the last acknowledged card is programmed; the Flushes that waited complete (R69). -/
def execAckDrainDone (s : State) : Outcome :=
  .next (if ! s.coast.draining || ! serving s || drainOpen s || armedOpen s then s
    else
      let s1 := record 0x0005 [(6, s.clock.opMs)]
        { s with coast := { s.coast with draining := false, drainLeft := [] } }
      (slotsWhere (fun c => c.qid != 0 && c.e.opcode = 0x00 && c.phase = .running) s1).foldl
        (fun t n => finishOk n 0 t) s1)

/-! ## The hold-up test (R175 to R177, R386) -/

/-- HOLDUP_OK is low: the supervisor or the device drives it (R175). -/
def holdupLow (s : State) : Bool := s.pins.holdupSupLow || s.pins.holdupDevLow

/-- The Coast policy is armed. -/
def policyArmed (s : State) : Bool := fld s 0x6C0 = 1

/-- A test that can be asked for: none runs, the policy is armed. -/
def testFree (s : State) : Bool := serving s && s.coast.test = .none && policyArmed s

/-- A test is asked for; its timer or register write ends Idle Service (R197). -/
def requestTest (s : State) : State :=
  if testFree s then leaveIdle { s with coast := { s.coast with test := .requested } } else s

/-- A result enters HISTORY, newest first, at most 56, with its HOLDUP_TEST record. -/
def noteResult (result td : Nat) (s : State) : State :=
  record 0x0006 [(1, result), (4, td)] { s with coast := { s.coast with
    test := .none
    history := ({ cycles := s.cdx.powerCycles, tdUs := td, result := result, timeMs := s.clock.opMs } ::
      s.coast.history).take 56 } }

/-- A failure: it counts, sets DISARMED, and disarms Coast. -/
def failTest (result td : Nat) (s : State) : State :=
  let s1 := noteResult result td s
  disarm 1 { s1 with coast := { s1.coast with
    fails := sat32 (s1.coast.fails + 1), failCount := min 255 (s1.coast.failCount + 1)
    sticky := s1.coast.sticky ||| 0x2 } }

/-- t_d when HOLDUP_OK did not fall. -/
def tdNone : Nat := 0xFFFFFFFF

/-- A completed test shows its t_d in KS_HOLDUP_LAST. -/
def setLast (td : Nat) (s : State) : State := { s with coast := { s.coast with holdupLast := td } }

/-- A test passes: it counts, and Coast is armed. -/
def passTest (td : Nat) (s : State) : State :=
  let s1 := noteResult 0 td (setLast td s)
  let s2 : State := { s1 with coast := { s1.coast with
    passes := sat32 (s1.coast.passes + 1), failCount := 0
    tdMin := if s1.coast.passes = 0 then td else min s1.coast.tdMin td
    tdMax := max s1.coast.tdMax td } }
  if s2.coast.armed || ! policyArmed s2 then s2 else arm s2

/-- KS_HOLDUP_RUN: 1 starts a test when none is running and the Coast policy is armed. -/
def execKsHoldupRun (value : Word32) (s : State) : Outcome :=
  .next (if barOn s && value.getLsbD 0 then requestTest s else s)

/-- HOLDUP_TEST_INTERVAL_EXPIRY: the next test is due; a retest only while disarmed with HOLDUP_OK high. -/
def execHoldupTestIntervalExpiry (retest : Bool) (s : State) : Outcome :=
  .next (if retest && (s.coast.armed || holdupLow s) then s else requestTest s)

/-- HOLDUP_TEST_START: the device drives HOLDUP_OK low for 100 µs; a test fails when it is low already, and none starts
while the Coast policy is not armed (R175, R177). -/
def execHoldupTestStart (s : State) : Outcome :=
  .next (if s.coast.test != .requested || ! serving s then s
    else if ! policyArmed s then { s with coast := { s.coast with test := .none } }
    else if holdupLow s then failTest 4 0 s
    else { s with coast := { s.coast with test := .discharging } })

/-- HOLDUP_DISCHARGE_END: the supervisor drives HOLDUP_OK low `tdUs` after the request ended. -/
def execHoldupDischargeEnd (tdUs : Nat) (s : State) : Outcome :=
  .next (if s.coast.test != .discharging then s
    else
      let s1 : State := { s with pins := { s.pins with holdupSupLow := true } }
      if tdUs < 1000 * fld s 0x6CC then failTest 1 tdUs (setLast tdUs s1)
      else if 1000 * fld s 0x6D0 < tdUs then failTest 2 tdNone (setLast tdNone s1)
      else { s1 with coast := { s1.coast with test := .recharging tdUs } })

/-- HOLDUP_MAX_DISCHARGE_EXPIRY. -/
def execHoldupMaxDischargeExpiry (s : State) : Outcome :=
  .next (if s.coast.test = .discharging then failTest 2 tdNone (setLast tdNone s) else s)

/-- HOLDUP_RECHARGED: HOLDUP_OK is high again. -/
def execHoldupRecharged (s : State) : Outcome :=
  let s1 : State := { s with pins := { s.pins with holdupSupLow := false } }
  .next (match s.coast.test with
    | .recharging td => passTest td s1
    | _ => s1)

/-- HOLDUP_RECHARGE_EXPIRY. -/
def execHoldupRechargeExpiry (s : State) : Outcome :=
  .next (match s.coast.test with
    | .recharging td => failTest 3 td (setLast td s)
    | _ => s)

/-- HOLDUP_LOW_OUTSIDE_TEST: low for 1 ms. -/
def execHoldupLowOutsideTest (s : State) : Outcome :=
  let s1 : State := { s with pins := { s.pins with holdupSupLow := true } }
  .next (if serving s && s.coast.test = .none then failTest 5 0 s1 else s1)

/-! ## Shutdown notifications (R174) -/

/-- CC.SHN shows the notification. -/
def noteShn (kind : Nat) (s : State) : State :=
  { s with nv := { s.nv with cc := (s.nv.cc &&& 0xFFFF3FFF#32) ||| BitVec.ofNat 32 (16384 * kind) } }

/-- Every outstanding command has completed and been posted; Asynchronous Event Requests may stay. -/
def commandsDone (s : State) : Bool :=
  s.nv.waiting.isEmpty && s.nv.cmds.all fun c => s.nv.aers.contains c.slot

/-- A normal shutdown goes on: with the commands done the rows close, and with the rows programmed the
sequence runs. -/
def shutdownAdvance (s : State) : State :=
  if s.nv.shst != 1 || ! serving s || ! commandsDone s then s
  else
    let t := sealRows s
    if t.wr.rows.any fun r => r.buffer.isSome then t else coastEntry .normal t

/-- The notification in a mode that runs no sequence: CSTS.SHST is 2h. -/
def shutdownPlain (s : State) : State := { s with nv := { s.nv with shst := 2 } }

/-- SHUTDOWN_NORMAL. -/
def execShutdownNormal (s : State) : Outcome :=
  .next (if ! awake s || s.link.d3hot then s
    else
      let t := noteShn 1 s
      match s.mode.mode with
      | .coast => t
      | .recovery | .rising => shutdownPlain t
      | _ => if s.nv.shst = 0 then shutdownAdvance { t with nv := { t.nv with shst := 1 } } else t)

/-- SHUTDOWN_ABRUPT. -/
def execShutdownAbrupt (s : State) : Outcome :=
  .next (if ! awake s || s.link.d3hot then s
    else
      let t := noteShn 2 s
      match s.mode.mode with
      | .coast => t
      | .recovery | .rising => shutdownPlain t
      | _ => coastEntry .abrupt { t with nv := { t.nv with shst := 1 } })

end Sys2Proof.Machine
end

