-- ==== Sys2Proof/Machine/EchelonOps.lean ====
section
/-! DEFINITION. Echelons, part two (R286, R287, R292, R302, R305 to R319): the commands a member receives, the
sequences it runs as steward and keeper, settlement, repair and rebuild. -/

namespace Sys2Proof.Machine

/-! ## Sequences of this member (R308, R309, R313) -/

def runAt (s : State) (id : Nat) : Option Steward := s.ech.stewards.find? fun r => r.id = id

def modRun (id : Nat) (f : Steward → Steward) (s : State) : State :=
  { s with ech := { s.ech with stewards := modWhere (fun r => r.id = id) f s.ech.stewards } }

def dropRun (id : Nat) (s : State) : State :=
  { s with ech := { s.ech with stewards := s.ech.stewards.filter fun r => r.id != id } }

/-- A request of the sequence has no answer yet. -/
def runBusy (s : State) (id : Nat) : Bool := s.pel.out.any fun r => r.owner = .run id

/-- The descriptor of a sequence's part with a role. -/
def runDesc (s : State) (r : Steward) (role : Nat) : EcDesc :=
  { echelon := r.echelon, stripe := r.stripe, viewNum := viewNumOf s r.echelon, role := role,
    cardFirst := r.cardFirst, cardsM1 := r.cards - 1, full := r.kind = 1, fua := r.fua,
    dealloc := r.dealloc, dataIndex := r.dataIdx }

/-- A command of the sequence to the member at a position, when its chunk can be used. -/
def runCmd (r : Steward) (pos op rank : Nat) (locked : Bool) (payload : List (List Nat)) (s : State) :
    State :=
  if posKnown s r.echelon r.stripe pos then
    sendCmd (memberAt s r.echelon pos) op rank locked false
      (runDesc s r (roleOfPos s r.echelon r.stripe pos)) (.run r.id) payload s
  else s

/-- A lagging entry of a position of a stripe. -/
def lagEntry (s : State) (e stripe pos : Nat) : Option IntentRec :=
  s.ech.intents.find? fun r => r.echelon = e && r.stripe = stripe && r.kind = 2 && r.position = pos

/-- A card of position `pos`, reconstructed from the other positions (R299). -/
def rebuildCard (s : State) (e stripe pos : Nat) (got : Nat → Option (List Nat)) : Option (List Nat) :=
  let k := ecK s e
  let data := (List.range k).map fun j =>
    if posData' s e stripe j = pos then none else got (posData' s e stripe j)
  let p := if pos = posP s e stripe then none else got (posP s e stripe)
  let q := if pos = posQ s e stripe then none else got (posQ s e stripe)
  match solveCards data p q with
  | none => none
  | some l =>
    if pos = posP s e stripe then some (parityP l)
    else if pos = posQ s e stripe then some (parityQ l)
    else l[roleOfPos s e stripe pos]?

/-- READ of the covered cards at a position. A position that lags in the view is read through the keeper as READ_CHECKED,
but by the keeper itself, which knows its lagging entries (R314). -/
def runRead (r : Steward) (pos : Nat) (s : State) : State :=
  let lagging := match viewOf s r.echelon with
    | some v => decide ((placeAt v pos).2 = 2)
    | none => false
  if lagging && (decide (r.kind < 3) || r.kind = 6) then
    sendCmd (keeperOf s r.echelon r.stripe) 6 4 true false
      (runDesc s r (roleOfPos s r.echelon r.stripe pos)) (.run r.id) [] s
  else runCmd r pos 2 4 true [] s

/-- READ of the covered cards at every other position of the stripe. -/
def readOthers (r : Steward) (s : State) : State :=
  ((List.range (ecW s r.echelon)).filter fun p => p != posData' s r.echelon r.stripe r.dataIdx).foldl
    (fun t p => runRead r p t) s

/-- The data mask of a sequence. -/
def runMask (s : State) (r : Steward) : Nat :=
  if r.kind = 1 then 2 ^ ecK s r.echelon - 1 else 2 ^ r.dataIdx

/-- INTENT to the parity holder at a position. -/
def runIntent (r : Steward) (pos rank : Nat) (s : State) : State :=
  sendIntent (memberAt s r.echelon pos) (runDesc s r (roleOfPos s r.echelon r.stripe pos)) r.kind
    (runMask s r) 0 rank (rank = 4) (.run r.id) s

/-- A card of the sequence's own chunk as the other chunks give it (R299). -/
def runSolve (s : State) (r : Steward) (i : Nat) : Option (List Nat) :=
  let k := ecK s r.echelon
  let got := fun pos => (r.others.find? fun x => x.1 = pos && x.2.1 = i).map fun x => x.2.2
  let data := (List.range k).map fun j =>
    if j = r.dataIdx then none else got (posData' s r.echelon r.stripe j)
  match solveCards data (got (posP s r.echelon r.stripe)) (got (posQ s r.echelon r.stripe)) with
  | some l => l[r.dataIdx]?
  | none => none

/-- The old card at offset `i`: as read and not fox-marked, else reconstructed. -/
def oldCard (s : State) (r : Steward) (i : Nat) : Option (List Nat) :=
  match r.old.find? fun x => x.1 = i && ! x.2.2 with
  | some x => some x.2.1
  | none => runSolve s r i

/-- DONE of a sequence to whoever gave it its parts. -/
def runDone (r : Steward) (st : Nat × Nat) (s : State) : State :=
  r.entries.foldl (fun t e => match s.pel.txns.find? fun x => x.src = e.1 && x.tag = e.2.1 with
    | some x => endTxn x st t
    | none => t) s

/-- Each position that failed goes on the lagging list, at every parity holder in service (R311). -/
def reportLagging (r : Steward) (s : State) : State :=
  r.failed.eraseDups.foldl (fun t p =>
    (parityHolders t r.echelon r.stripe).foldl (fun u h =>
      if r.failed.contains h then u
      else sendIntent (memberAt u r.echelon h) (runDesc u r (roleOfPos u r.echelon r.stripe h)) 2
        (runMask u r) p 4 true .none u) t) s

/-- UNLOCK to both parity holders, and to the keeper when it is neither. -/
def runUnlock (r : Steward) (s : State) : State :=
  let ms := ((parityHolders s r.echelon r.stripe).map fun p => memberAt s r.echelon p) ++
    [keeperOf s r.echelon r.stripe]
  ms.eraseDups.foldl (fun t m => sendUnlock m r.echelon r.stripe t) s

/-- The sequence ends: successful when the data holder or a parity holder applied the write, else 7h/C1h
(R311). -/
def runEnd (r : Steward) (s : State) : State :=
  let ok := fun p => posKnown s r.echelon r.stripe p && ! r.failed.contains p
  let datas := if r.kind = 1 then dataPositions s r.echelon r.stripe
    else [posData' s r.echelon r.stripe r.dataIdx]
  let applied := datas.all ok || ok (posP s r.echelon r.stripe) || ok (posQ s r.echelon r.stripe)
  runUnlock r (runDone r (if applied then scSuccess else scParityLost) (reportLagging r (dropRun r.id s)))

/-- The sequence cannot go on: 7h/C1h. -/
def runFail (r : Steward) (s : State) : State :=
  runUnlock r (runDone r scParityLost (dropRun r.id s))

/-- WRITE and DELTA of a small write (R309 step 4). -/
def runDeltas (r : Steward) (s : State) : State :=
  let offs := List.range r.cards
  let olds := offs.filterMap fun i => oldCard s r (r.cardFirst + i)
  if olds.length != r.cards then runFail r s
  else
    let news := if r.dealloc then offs.map fun _ => zeroCard else r.new
    let deltas := offs.map fun i => xorCard (news.getD i zeroCard) (olds.getD i zeroCard)
    let s1 := modRun r.id (fun x => { x with phase := 3 }) s
    let s2 := runCmd r (posData' s r.echelon r.stripe r.dataIdx) 3 4 true (if r.dealloc then [] else news) s1
    let r' := { r with dealloc := false }
    runCmd r' (posQ s r.echelon r.stripe) 4 4 true deltas
      (runCmd r' (posP s r.echelon r.stripe) 4 4 true deltas s2)

/-- The WRITEs and PARITY commands of a full-stripe write; a deallocation of a whole stripe releases every
chunk, parity included (R308, R310). -/
def runFullWrites (r : Steward) (s : State) : State :=
  let k := ecK s r.echelon
  let chunk := fun j => (List.range 16).map fun i => r.new.getD (16 * j + i) zeroCard
  let cardsAt := fun i => (List.range k).map fun j => r.new.getD (16 * j + i) zeroCard
  let s1 := modRun r.id (fun x => { x with phase := 3 }) s
  let s2 := (List.range k).foldl (fun t j =>
    runCmd r (posData' t r.echelon r.stripe j) 3 2 false (if r.dealloc then [] else chunk j) t) s1
  let p := (List.range 16).map fun i => parityP (cardsAt i)
  let q := (List.range 16).map fun i => parityQ (cardsAt i)
  let op := if r.dealloc then 3 else 5
  runCmd r (posQ s r.echelon r.stripe) op 3 false (if r.dealloc then [] else q)
    (runCmd r (posP s r.echelon r.stripe) op 3 false (if r.dealloc then [] else p) s2)

/-- The first LBA of card `c` of the namespace of the command in a slot. -/
def slotLba (s : State) (slot c : Nat) : Nat :=
  match cmdAt s slot with
  | some x => (match nsAt s x.e.nsid with | some n => cardLba n c | none => 0)
  | none => 0

/-- A reconstruction for a host read: its cards are delivered, or the read fails with 7h/C1h; the stripe is
unlocked (R313, R316). -/
def runDeliver (r : Steward) (s : State) : State :=
  let s1 := sendUnlock (keeperOf s r.echelon r.stripe) r.echelon r.stripe (dropRun r.id s)
  match r.slot with
  | none => s1
  | some slot => (List.range r.cards).foldl (fun t i =>
      let off := r.cardFirst + i
      let lba := (r.stripe * ecK t r.echelon + r.dataIdx) * 16 + off
      match runSolve t r off with
      | some c => deliverCard slot lba c false t
      | none => deliverCard slot lba zeroCard false
          (modCmd slot (fun c => { c with fails := c.fails ++
            [{ lba := slotLba t slot lba, sct := 7, sc := 0xC1 }] }) t)) s1

/-- Descriptor of cards `first` to `first + n - 1` of data chunk (stripe, j). -/
def chunkDesc (s : State) (e stripe j first n : Nat) : EcDesc :=
  { noDesc with echelon := e, stripe := stripe, viewNum := viewNumOf s e, role := j, cardFirst := first,
                cardsM1 := n - 1 }

/-- A FORWARD_WRITE of a chunk's part to its steward (R302). -/
def sendForward (slot : Nat) (d : EcDesc) (ordered : Bool) (payload : List (List Nat)) (s : State) : State :=
  sendCmd (stewardOf s d.echelon d.stripe d.role) 1 2 false ordered
    { d with viewNum := viewNumOf s d.echelon } (.host slot) payload s

/-- The data chunks of a stripe are all covered whole by the parts. -/
def fullStripe (s : State) (e stripe : Nat) (parts : List (Nat × Nat)) : Bool :=
  (List.range (ecK s e)).all fun j => parts.contains ((stripe * ecK s e + j) * 16, 16)

/-- Every part of a write or deallocation goes to its steward. -/
def forwardParts (slot e : Nat) (fua dealloc ordered : Bool) (data : Nat → List Nat)
    (parts : List (Nat × Nat)) (s : State) : State :=
  parts.foldl (fun t p =>
    let (stripe, j, i) := chunkOf t e p.1
    let d := { chunkDesc t e stripe j i p.2 with
      full := fullStripe t e stripe parts, fua := fua, dealloc := dealloc }
    sendForward slot d ordered
      (if dealloc then [] else (List.range p.2).map fun x => data (p.1 + x)) t) s

/-- The number under which a spanned card's lock stands at its entry member: above every local shelf. -/
def spanPlace (n : Namespace) (c : Nat) : Nat × Nat := (2 ^ 40 * n.nsid + c / 16, c % 16)

/-- A partly covered spanned card whose old contents have come is merged and goes to its steward; one that could not be
read keeps its contents, its command failing (R73, R74). -/
def mergeOne (slot e : Nat) (n : Namespace) (w : Nat × Nat) (s : State) : State :=
  match cmdAt s slot with
  | none => s
  | some c =>
    let first := firstSector n c.e
    match (partialCards first (sectorCount n c.e)).find? fun x => spanPlace n x = w with
    | none => s
    | some lba => match c.got.find? fun g => g.1 = lba with
      | none => s
      | some g =>
        let t := modCmd slot (fun x => { x with want := x.want.filter fun y => y != w }) s
        if c.fails.any fun f => f.lba = cardLba n lba then t
        else forwardParts slot e (fuaOf c.e) false (decide (c.e.opcode = 0x81))
          (fun _ => mergeCard first c.data lba g.2) [(lba, 1)] t

/-- The partial cards of a spanned write whose old contents are here. -/
def mergeArrived (slot : Nat) (s : State) : State :=
  match cmdAt s slot with
  | none => s
  | some c =>
    if c.e.opcode = 0x02 || c.e.opcode = 0x05 || c.qid = 0 then s
    else match nsAt s c.e.nsid with
      | none => s
      | some n => match n.spanned with
        | none => s
        | some e => c.want.foldl (fun t w => mergeOne slot e n w t) s

/-- The card locks that a command holds pass on. -/
def passLocks (slot : Nat) (s : State) : State :=
  (s.wr.locks.filter fun l => l.holder = slot).foldl (fun t l => passLock l.shelf l.card t) s

/-- A host command on a spanned namespace completes once nothing of it is outstanding (R302); it keeps its card locks
until then, so that the next holder reads what it wrote (R73). -/
def settleHost (slot : Nat) (s0 : State) : State :=
  let s := mergeArrived slot s0
  if s.pel.out.any (fun r => r.owner = .host slot) || s.ech.stewards.any (fun r => r.slot = some slot) then s
  else match cmdAt s slot with
    | none => s
    | some c =>
      if c.e.opcode = 0x02 || c.e.opcode = 0x05 then finishReads slot s
      else if c.want.isEmpty then finishCmd slot (freeAllOf (.slot slot) (passLocks slot s)) else s

/-- A new sequence. -/
def newRun (r : Steward) (s : State) : Steward × State :=
  let x := { r with id := s.ech.nextRun }
  (x, { s with ech := { s.ech with stewards := s.ech.stewards ++ [x], nextRun := s.ech.nextRun + 1 } })

/-! ## Sequences of the keeper and of the rebuilder (R312, R314, R316 to R318) -/

/-- A sequence of kind 3 to 6 on cards `first` to `first + n - 1` of a stripe. -/
def jobRun (kind e stripe idx first n phase : Nat) : Steward :=
  { id := 0, kind := kind, echelon := e, stripe := stripe, dataIdx := idx, cardFirst := first, cards := n,
    fua := false, dealloc := false, phase := phase, new := [], old := [], others := [], failed := [],
    entries := [], slot := none }

/-- The position whose cards the sequence is after. -/
def targetPos (s : State) (r : Steward) : Nat :=
  if r.kind = 3 then posOfRole s r.echelon r.stripe r.dataIdx else r.dataIdx

/-- The card offsets that it covers. -/
def jobOffs (r : Steward) : List Nat := (List.range r.cards).map fun i => r.cardFirst + i

/-- Card `i` of another position, as read and not fox-marked. -/
def jobGot (r : Steward) (i pos : Nat) : Option (List Nat) :=
  (r.others.find? fun x => x.1 = pos && x.2.1 = i).map fun x => x.2.2

/-- Card `i` of the target position as the others give it. -/
def jobCard (s : State) (r : Steward) (i : Nat) : Option (List Nat) :=
  rebuildCard s r.echelon r.stripe (targetPos s r) (jobGot r i)

def jobSolved (s : State) (r : Steward) : Bool := (jobOffs r).all fun i => (jobCard s r i).isSome

/-- Positions of a stripe that can be read: a position with a lagging entry here is stale. -/
def upToDate (s : State) (r : Steward) (l : List Nat) : List Nat :=
  l.filter fun p => (lagEntry s r.echelon r.stripe p).isNone

/-- The positions read first: of a settlement the data chunks, else k of the data chunks and P (R312, R317). -/
def firstWave (s : State) (r : Steward) : List Nat :=
  let data := dataPositions s r.echelon r.stripe
  if r.kind = 4 then upToDate s r data
  else ((upToDate s r ((data ++ [posP s r.echelon r.stripe]).filter fun p => p != targetPos s r)).filter fun p =>
    posKnown s r.echelon r.stripe p).take (ecK s r.echelon)

/-- What is read when those do not suffice: Q, or for a settlement P (R312, R317). -/
def lastWave (s : State) (r : Steward) : List Nat :=
  upToDate s r (if r.kind = 4 then [posP s r.echelon r.stripe]
    else [posQ s r.echelon r.stripe].filter fun p => p != targetPos s r)

/-- READ at positions, those named in `order` first. -/
def readWave (order l : List Nat) (r : Steward) (s : State) : State :=
  ((order.filter fun p => l.contains p) ++ l).eraseDups.foldl (fun t p => runRead r p t) s

/-- The reads of a sequence have ended: the last wave goes out where they do not suffice, else `f` goes on. -/
def afterReads (order : List Nat) (enough : Bool) (f : State → State) (r : Steward) (s : State) : State :=
  if r.phase = 5 && ! enough then
    let t := readWave order (lastWave s r) r (modRun r.id (fun x => { x with phase := 6 }) s)
    if runBusy t r.id then t else f t
  else f s

/-- The sequence that this member runs as keeper leaves the stripe. -/
def keeperLeave (r : Steward) (s : State) : State :=
  dropRun r.id (if r.own then freeLock r.echelon r.stripe s.pel.self s else s)

/-- A card of a READ_CHECKED: as its holder gave it, or reconstructed. -/
def checkedCard (s : State) (r : Steward) (i : Nat) : Option (List Nat) :=
  match r.old.find? fun x => x.1 = i && ! x.2.2 with
  | some x => some x.2.1
  | none => jobCard s r i

/-- The mark of a card bites: its holder's copy carries it, and every position of the stripe answered (R316; log entry
115). -/
def checkedFox (s : State) (r : Steward) (i : Nat) : Bool :=
  r.failed.isEmpty && r.old.any (fun x => x.1 = i && x.2.2)
    && (List.range (ecW s r.echelon)).all fun p =>
      posKnown s r.echelon r.stripe p && (lagEntry s r.echelon r.stripe p).isNone

/-- READ_CHECKED ends: DATA of every card and DONE, or 7h/C1h (R314, R316). -/
def checkedDone (r : Steward) (s : State) : State :=
  let s1 := keeperLeave r s
  match r.entries.head?.bind fun e => s.pel.txns.find? fun x => x.src = e.1 && x.tag = e.2.1 with
  | none => s1
  | some t =>
    if (jobOffs r).any fun i => (checkedCard s r i).isNone && ! checkedFox s r i then endTxn t scParityLost s1
    else
      let h := txnHdr t
      endTxn t scSuccess ((jobOffs r).foldl (fun u i =>
        sendPacket { mkHdr h.src 0x5 (if h.locked then 4 else h.rank) h.locked h.tag
            (4096 * (i - r.cardFirst)) 0 with fox := (checkedCard s r i).isNone }
          (.card ((checkedCard s r i).getD (fillCard s))) u) s1)

/-- The reconstructed cards of a copy that came back fox-marked are written back with REPAIR first (R316). -/
def checkedRepair (r : Steward) (s : State) : State :=
  if r.old.any (fun x => x.2.2) && (jobOffs r).all (fun i => (checkedCard s r i).isSome) then
    let t := runCmd r (targetPos s r) 7 4 true ((jobOffs r).map fun i => (checkedCard s r i).getD zeroCard)
      (modRun r.id (fun x => { x with phase := 7 }) s)
    if runBusy t r.id then t else checkedDone r t
  else checkedDone r s

def checkedReads (order : List Nat) (r : Steward) (s : State) : State :=
  afterReads order ((jobOffs r).all fun i => (checkedCard s r i).isSome) (checkedRepair r) r s

/-- The keeper reconstructs under the stripe lock: its own, or that of the sequence that asked; while another holds it,
READ_CHECKED waits. -/
def checkedLock (order : List Nat) (r : Steward) (s : State) : State :=
  if ! r.lent && lockRefusal s r.echelon r.stripe != 0 then modRun r.id (fun x => { x with phase := 1 }) s
  else
    let s1 := modRun r.id (fun x => { x with phase := 5, own := ! r.lent })
      (if r.lent then s else takeLock r.echelon r.stripe s.pel.self s)
    let r1 := { r with phase := 5, own := ! r.lent }
    let t := readWave order (firstWave s1 r1) r1 s1
    if runBusy t r.id then t else checkedReads order r1 t

/-- READ_CHECKED takes its next step once no request of it is outstanding. -/
def checkedStep (order : List Nat) (r : Steward) (s : State) : State :=
  if runBusy s r.id then s
  else if r.phase = 7
      || (r.phase = 2 && (jobOffs r).all fun i => (r.old.find? fun x => x.1 = i && ! x.2.2).isSome) then
    checkedDone r s
  else if r.phase ≤ 2 then checkedLock order r s
  else checkedReads order r s

/-- The sequence takes its next step once no request of it is outstanding. -/
def runStep (id : Nat) (s : State) : State :=
  if runBusy s id then s
  else match runAt s id with
    | none => s
    | some r => match r.kind, r.phase with
      | 0, 2 =>
        if (List.range r.cards).all fun i => (r.old.find? fun x => x.1 = r.cardFirst + i && ! x.2.2).isSome
        then runDeltas r s
        else
          let t := readOthers r (modRun id (fun x => { x with phase := 5 }) s)
          if runBusy t id then t else runFail r t
      | 0, 5 => runDeltas r s
      | 0, 3 => runEnd r s
      | 1, 1 =>
        let others := (parityHolders s r.echelon r.stripe).filter fun p =>
          memberAt s r.echelon p != keeperOf s r.echelon r.stripe
        let t := others.foldl (fun u p => runIntent r p 3 u) (modRun id (fun x => { x with phase := 2 }) s)
        if runBusy t id then t else runFullWrites r t
      | 1, 2 => runFullWrites r s
      | 1, 3 => runEnd r s
      | 3, _ => checkedStep [] r s
      | 2, 2 => (match r.slot with | some n => settleHost n | none => fun x => x) (runDeliver r s)
      | _, _ => s

/-- The lock grant of a sequence has come: intents and reads (R309 steps 2 and 3). -/
def runLocked (id : Nat) (s : State) : State :=
  match runAt s id with
  | none => s
  | some r =>
    let s1 := modRun id (fun x => { x with phase := 2 }) s
    if r.kind = 2 then runStep id (readOthers r s1)
    else if r.kind = 6 then s1
    else
      let s2 := (parityHolders s r.echelon r.stripe).foldl (fun t p => runIntent r p 4 t) s1
      runStep id (runRead { r with dealloc := false } (posData' s r.echelon r.stripe r.dataIdx) s2)

/-- A reconstruction of cards for a host read starts with the stripe lock at the Foreground rank (R313). -/
def startRecon (slot e stripe j first n : Nat) (s : State) : State :=
  let (r, s1) := newRun { jobRun 2 e stripe j first n 1 with slot := some slot } s
  sendLock e stripe 2 (.run r.id) s1

/-- The answer of a request of a sequence is taken up. A card that cannot be read is unknown; a position that did not
apply a write lags (R309, R311, R313). -/
def runAbsorb (id : Nat) (q : OutReq) (st : Nat × Nat) (s : State) : State :=
  match runAt s id with
  | none => s
  | some r =>
    let pos := posOfRole s r.echelon r.stripe q.desc.role
    let reads := q.op = 2 || q.op = 6
    if st != scSuccess then
      if reads && (decide (r.kind < 2) || st = scUnrecovered) then s
      else modRun id (fun x => { x with failed := x.failed ++ [pos] }) s
    else if ! reads then s
    else if r.kind < 4 && pos = posOfRole s r.echelon r.stripe r.dataIdx then
      modRun id (fun x => { x with old := x.old ++ q.data }) s
    else modRun id (fun x => { x with others := x.others ++
        (q.data.filter fun d => ! d.2.2).map fun d => (pos, d.1, d.2.1) }) s

/-- The rebuilder leaves the stripe. -/
def rebuilderLeave (r : Steward) (s : State) : State :=
  sendUnlock (keeperOf s r.echelon r.stripe) r.echelon r.stripe (dropRun r.id s)

/-- The LOCK of a sequence is refused for good, or has had no answer within the member timeout. -/
def lockLost (r : Steward) (s : State) : State :=
  if r.kind = 2 then (match r.slot with | some n => settleHost n | none => fun t => t) (runDeliver r s)
  else if r.kind = 6 then rebuilderLeave r s
  else runFail r s

/-! ## Spanned host commands at the entry member (R302, R303, R310, R316) -/

/-- The echelon of a spanned namespace. -/
def spannedOf (n : Namespace) : Option Nat := n.spanned

/-- The parts of a range of cards by chunk: (first card index, cards). -/
def chunkParts : List Nat → List (Nat × Nat)
  | [] => []
  | c :: l => match chunkParts l with
    | (f, n) :: rest => if f = c + 1 && f / 16 = c / 16 then (c, n + 1) :: rest else (c, 1) :: (f, n) :: rest
    | [] => [(c, 1)]

/-- A READ of a chunk's cards: at its data holder, at the keeper as READ_CHECKED while the position is
lagging, or by reconstruction while it is out or not rebuilt yet (R302, R314, R317). -/
def sendRead (slot e c n : Nat) (ordered : Bool) (s : State) : State :=
  let (stripe, j, i) := chunkOf s e c
  let pos := posData' s e stripe j
  let d := chunkDesc s e stripe j i n
  if ! posKnown s e stripe pos then startRecon slot e stripe j i n s
  else if (match viewOf s e with | some v => decide ((placeAt v pos).2 = 2) | none => false) then
    sendCmd (keeperOf s e stripe) 6 2 false ordered d (.host slot) [] s
  else sendCmd (memberAt s e pos) 2 2 false ordered d (.host slot) [] s

/-- Cards of a READ answer are delivered. A card that its data holder returned fox-marked goes to the keeper, which
reconstructs it and writes it back; the mark bites where that failed (R316; log entry 115). -/
def takeRead (slot : Nat) (q : OutReq) (s : State) : State :=
  let d := q.desc
  let base := (d.stripe * ecK s d.echelon + d.role) * 16
  q.data.foldl (fun t x =>
    if ! x.2.2 then deliverCard slot (base + x.1) x.2.1 false t
    else if q.op = 2 then
      sendCmd (keeperOf t d.echelon d.stripe) 6 2 false false (chunkDesc t d.echelon d.stripe d.role x.1 1)
        (.host slot) [] t
    else deliverCard slot (base + x.1) (fillCard t) true
      (failCard slot (slotLba t slot (base + x.1)) scUnrecovered t)) s

/-- The cards of a read that failed with a status. -/
def failRead (slot : Nat) (q : OutReq) (st : Nat × Nat) (s : State) : State :=
  let d := q.desc
  let base := (d.stripe * ecK s d.echelon + d.role) * 16
  (List.range (d.cardsM1 + 1)).foldl (fun t i =>
    let lba := base + d.cardFirst + i
    let first := slotLba t slot lba
    deliverCard slot lba zeroCard false
      (modCmd slot (fun c => { c with
        fails := c.fails ++ [{ lba := first, sct := st.1, sc := st.2, fox := foxStatus st }] }) t)) s

/-- The first LBA of a request's part. -/
def partLba (s : State) (slot : Nat) (q : OutReq) : Nat := slotLba s slot (chunkCard s q.desc)

/-- A DONE to a request of a host command. 3h/03h sends the request again under the view held now
(R303). -/
def hostAnswer (slot : Nat) (q : OutReq) (st : Nat × Nat) (s : State) : State :=
  let ordered := q.hdr.ordered
  if st = (3, 0x03) then
    if q.op = 1 then sendForward slot q.desc ordered q.payload s
    else sendRead slot q.desc.echelon (chunkCard s q.desc) (q.desc.cardsM1 + 1) ordered s
  else if st = scSuccess then
    settleHost slot (if q.op = 2 || q.op = 6 then takeRead slot q s else s)
  else if q.op = 2 || q.op = 6 then settleHost slot (failRead slot q st s)
  else settleHost slot (modCmd slot (fun c => { c with
    fails := c.fails ++ [{ lba := partLba s slot q, sct := st.1, sc := st.2 }] }) s)

/-! ## CMD, GO, DATA, DONE, BACKOFF (R284 to R286, R292) -/

/-- Operation, cards and NSID of a CMD header. -/
def cmdOp (h : PacketHdr) : Nat := h.arg1 / 2 ^ 24 % 256
def cmdCards (h : PacketHdr) : Nat := h.arg1 / 2 ^ 32 % 2 ^ 32
def cmdNsid (h : PacketHdr) : Nat := h.arg0 / 2 ^ 56

/-- Operations of Table 13.4, and those whose requester sends data. -/
def opKnown (op : Nat) : Bool := decide (1 ≤ op) && decide (op ≤ 10)
def opTakesData (op : Nat) (d : EcDesc) : Bool :=
  ([1, 3].contains op && ! d.dealloc) || [4, 5, 7].contains op

/-- A new transaction. -/
def newTxn (h : PacketHdr) (d : EcDesc) (s : State) : InTxn :=
  { src := h.src, tag := h.tag, rank := h.rank, locked := h.locked, nsid := cmdNsid h,
    ordered := h.ordered, op := cmdOp h, cards := cmdCards h, desc := d, data := [], started := false,
    needSeq := 0, armed := s.coast.armed }

def addTxn (t : InTxn) (s : State) : State := { s with pel := { s.pel with txns := s.pel.txns ++ [t] } }

/-- A CMD at its target: buffers for the whole transfer in one request, then GO, or BACKOFF with reason 1;
rebuild transfers, REPAIR with them, take work pools (R285). -/
def cmdIn (h : PacketHdr) (d : EcDesc) (s : State) : State :=
  if ! opKnown (cmdOp h) then sendDone h scOpcode s
  else if opTakesData (cmdOp h) d then
    let set := if h.rank = 1 || cmdOp h = 7 then 1 else 0
    let free := if (waitList set s.pools).isEmpty then
      takeAll set (transferSizes (4 * cmdCards h)) s.pools.pool else none
    match free with
    | none => sendBackoff h 1 s
    | some (got, ps) =>
      answer h 0x4 0 .empty (addTxn (newTxn h d s)
        { s with pools := handOut (txnReq h.src h.tag) got { s.pools with pool := ps } })
  else addTxn (newTxn h d s) s

def execCmd (h : PacketHdr) (d : EcDesc) (s : State) : Outcome := .next (onPacket 0x3 h (cmdIn h d) s)

/-- GO: a lock grant starts the sequence that asked; a transfer grant sends the cards (R285, R309). -/
def goIn (h : PacketHdr) (s : State) : State :=
  match requestOf s h with
  | none => countStale s
  | some r =>
    if r.hdr.ptype = 0x7 then
      match r.owner with
      | .run id => runLocked id (dropRequest r s)
      | _ => dropRequest r s
    else
      (List.range r.payload.length).foldl (fun t i =>
        sendPacket { mkHdr h.src 0x5 r.hdr.rank r.hdr.locked r.hdr.tag (4096 * i) 0 with fox := false }
          (.card (r.payload.getD i [])) t) s

def execGo (h : PacketHdr) (s : State) : Outcome := .next (onPacket 0x4 h (goIn h) s)

/-- DATA: a card of a read this member asked for, or of a write it serves. -/
def dataIn (h : PacketHdr) (sectors : List Nat) (s : State) : State :=
  let i := h.arg0 / 4096
  match requestOf s h with
  | some r =>
    if r.op = 2 || r.op = 6 then
      modRequest r (fun x => { x with
        data := x.data ++ [(x.desc.cardFirst + i, sectors, h.fox)] }) s
    else countStale s
  | none => match txnAt s h with
    | some _ => modTxn h (fun t => { t with data := mapSet i sectors t.data }) s
    | none => countStale s

def execData (h : PacketHdr) (sectors : List Nat) (s : State) : Outcome :=
  .next (onPacket 0x5 h (dataIn h sectors) s)

/-- The status a DONE carries. -/
def doneStatus (h : PacketHdr) : Nat × Nat := (h.arg0 / 256 % 256, h.arg0 % 256)

/-- The answer of a request that no relay owns. -/
def answered (r : OutReq) (st : Nat × Nat) (s : State) : State :=
  match r.owner with
  | .none => s
  | .host slot => hostAnswer slot r st s
  | .run id =>
    if r.hdr.ptype = 0x7 then
      (match runAt s id with
        | some x => if st = (3, 0x03) then sendLock x.echelon x.stripe r.hdr.rank (.run id) s else lockLost x s
        | none => s)
    else runStep id (runAbsorb id r st s)
  | .pass src tag => (match s.pel.txns.find? fun t => t.src = src && t.tag = tag with
    | some t => endTxn t st s
    | none => s)
  | .relay => s

/-- BACKOFF: the retry is at the later of now and 2 µs × 2^min(r − 1, 10) after the refused attempt
(R292). -/
def backoffIn (h : PacketHdr) (s : State) : State :=
  let s1 : State := { s with pel := { s.pel with backoffs := sat32 (s.pel.backoffs + 1) } }
  match requestOf s h with
  | none => countStale s1
  | some r =>
    modRequest r (fun x => { x with
      refused := x.refused + 1
      retryUs := max s.clock.us (x.sentUs + 2 * 2 ^ min x.refused 10) }) s1

def execBackoff (h : PacketHdr) (s : State) : Outcome := .next (onPacket 0x9 h (backoffIn h) s)

/-- BACKOFF_RETRY_EXPIRY: the same request is sent again. -/
def execBackoffRetryExpiry (dst index : Nat) (s : State) : Outcome :=
  .next (match s.pel.out.find? fun r => r.dst = dst && r.index = index with
    | none => s
    | some r =>
      if r.refused = 0 || ! fabricOn s then s
      else sendPacket r.hdr r.body (modRequest r (fun x => { x with
        retryUs := 0, sentUs := s.clock.us }) s))

/-- A request had no answer within the member timeout: the degraded path (R313, R316). -/
def timedOut (r : OutReq) (s : State) : State :=
  match r.owner with
  | .none => s
  | .host slot =>
    if r.op = 2 || r.op = 6 then
      startRecon slot r.desc.echelon r.desc.stripe r.desc.role r.desc.cardFirst (r.desc.cardsM1 + 1) s
    else settleHost slot (modCmd slot (fun c => { c with
      fails := c.fails ++ [{ lba := partLba s slot r, sct := 7, sc := 0xC2 }] }) s)
  | .run id =>
    if r.hdr.ptype = 0x7 then (match runAt s id with | some x => lockLost x s | none => s)
    else runStep id (runAbsorb id r (7, 0xC2) s)
  | .pass src tag => (match s.pel.txns.find? fun t => t.src = src && t.tag = tag with
    | some t => endTxn t scSteward s
    | none => s)
  | .relay => s

/-- A timeout counts against its member in a TIMEOUT_REPORT, but for the fabric agent's own commands. -/
def reportTimeout (r : OutReq) (s : State) : State :=
  if r.op = 8 || r.op = 9 || r.op = 10 || r.hdr.ptype = 0xA then s
  else sendTimeoutReport r.desc.echelon r.dst s

/-! ## LOCK, UNLOCK and INTENT (R287, R306, R307) -/

def argEchelon (h : PacketHdr) : Nat := h.arg0 / 2 ^ 58
def argStripe (h : PacketHdr) : Nat := h.arg0 % 2 ^ 58

/-- LOCK: granted by a GO at the Locked rank, else BACKOFF with reason 2 or 3. A member that is not the
keeper under its view answers 3h/03h. -/
def lockIn (h : PacketHdr) (s : State) : State :=
  let e := argEchelon h
  let n := argStripe h
  if keeperOf s e n != s.pel.self || (echAt s e).isNone then sendDone h (3, 0x03) s
  else match lockRefusal s e n with
    | 0 => sendPacket (mkHdr h.src 0x4 4 true h.tag 1 0) .empty (takeLock e n h.src s)
    | r => sendBackoff h r s

def execLock (h : PacketHdr) (s : State) : Outcome := .next (onPacket 0x7 h (lockIn h) s)

/-- UNLOCK: the keeper frees the stripe, and a parity holder clears the sender's intents of it. An UNLOCK
of the keeper that closes no intent ends a repair, and the stripe's lagging entries are cleared. -/
def unlockIn (h : PacketHdr) (s : State) : State :=
  let e := argEchelon h
  let n := argStripe h
  let keeper := h.src = keeperOf s e n
  let closes := fun (r : IntentRec) => r.echelon = e && r.stripe = n && r.kind < 2
    && (r.steward = h.src || (keeper && (r.settling || h.src != s.pel.self)))
  let some' := s.ech.intents.any closes
  let s1 := clearIntents closes (freeLock e n h.src s)
  if keeper && h.src != s.pel.self && ! some' && ! openIntent s e n then
    clearIntents (fun r => r.echelon = e && r.stripe = n && r.kind = 2) s1
  else s1

def execUnlock (h : PacketHdr) (s : State) : Outcome := .next (onPacket 0x8 h (unlockIn h) s)

/-- INTENT at a parity holder: the record is written as a host-style write of its card, and DONE follows at
its completion point; with no slot of its kind free, BACKOFF with reason 3 (R306). The keeper refuses the intent of a
full-stripe write with reason 2 while the stripe is locked (R307, R308). -/
def intentIn (h : PacketHdr) (d : EcDesc) (kind dataMask position : Nat) (s : State) : State :=
  let e := argEchelon h
  let nsid := ecNsid s e
  if kind = 1 && keeperOf s e (argStripe h) = s.pel.self && lockRefusal s e (argStripe h) = 2 then sendBackoff h 2 s
  else match freeIntentSlot s e (kind = 2), nsAt s nsid with
  | some slotNo, some n =>
    let r : IntentRec :=
      { slotNo := slotNo, echelon := e, stripe := argStripe h, kind := kind,
        position := if kind = 2 then position else 0, dataMask := dataMask, steward := h.src,
        cardFirst := d.cardFirst, cardsM1 := d.cardsM1, viewNum := viewNumOf s e, timeMs := s.clock.opMs,
        settling := false }
    let t : InTxn := { newTxn h { d with fua := false } s with nsid := nsid, op := 16 }
    let lba := 16 * ecStripes s e + slotNo
    match cardPlace n lba with
    | none => sendBackoff h 3 s
    | some (sh, c) =>
      match placeCard (txnSlot h.src h.tag) (txnCmd s t 0) n false sh c lba (intentCard r) 0 (setOverflow s) with
      | none => sendBackoff h 1 s
      | some u =>
        settleTxns (addTxn { t with started := true, needSeq := seqMark u }
          { u with ech := { u.ech with intents := u.ech.intents ++ [r] } })
  | _, _ => sendBackoff h 3 s

def execIntent (h : PacketHdr) (d : EcDesc) (kind dataMask position : Nat) (s : State) : Outcome :=
  .next (onPacket 0xB h (intentIn h d kind dataMask position) s)

/-! ## The operations of Table 13.4 -/

/-- The transaction of a CMD whose operation runs now: accepted before, of this operation, with its data
here and its turn come (R286). -/
def withTxn (h : PacketHdr) (op : Nat) (f : InTxn → State → State) (s : State) : State :=
  if ! fabricOn s then s
  else match txnAt s h with
    | none => s
    | some t =>
      if t.op != op || t.started || ! txnReady s t
          || (opTakesData op t.desc && t.data.length != t.cards) then s
      else f t s

/-- The parts of a full-stripe write that have arrived: every data index of the stripe. -/
def fullParts (s : State) (d : EcDesc) : Option (List InTxn) :=
  let l := (List.range (ecK s d.echelon)).filterMap fun j => s.pel.txns.find? fun t =>
    t.op = 1 && t.desc.full && t.desc.echelon = d.echelon && t.desc.stripe = d.stripe && t.desc.role = j
      && (t.desc.dealloc || t.data.length = t.cards)
  if l.length = ecK s d.echelon then some l else none

/-- Cards of a part in order, sixteen of them. -/
def partCards (t : InTxn) : List (List Nat) := (List.range t.cards).map fun i => mapAt zeroCard i t.data

/-- Transactions whose write a sequence now runs. -/
def markRunning (ts : List InTxn) (s : State) : State :=
  ts.foldl (fun u t => modTxn (txnHdr t) (fun x => { x with op := 257, started := true }) u) s

/-- FORWARD_WRITE at a steward (R308, R309). -/
def forwardIn (t : InTxn) (s : State) : State :=
  let d := t.desc
  let steward0 := stewardOf s d.echelon d.stripe 0 = s.pel.self
  let mine := stewardOf s d.echelon d.stripe d.role = s.pel.self
  if staleView s d || ! (mine || (d.full && steward0)) then endTxn t (3, 0x03) s
  else if d.full && ! steward0 then
    sendCmd (stewardOf s d.echelon d.stripe 0) 1 2 false false d (.pass t.src t.tag) (partCards t)
      (markRunning [t] s)
  else if d.full then
    match fullParts s d with
    | none => s
    | some ts =>
      let (r, s1) := newRun
        { id := 0, kind := 1, echelon := d.echelon, stripe := d.stripe, dataIdx := 0, cardFirst := 0,
          cards := 16, fua := d.fua, dealloc := d.dealloc, phase := 1, new := ts.flatMap partCards,
          old := [], others := [], failed := [], entries := ts.map fun x => (x.src, x.tag, x.rank),
          slot := none } (markRunning ts s)
      runStep r.id ((parityHolders s1 d.echelon d.stripe).foldl (fun u p =>
        if memberAt u d.echelon p = keeperOf u d.echelon d.stripe then runIntent r p 3 u else u) s1)
  else
    let (r, s1) := newRun
      { id := 0, kind := 0, echelon := d.echelon, stripe := d.stripe, dataIdx := d.role,
        cardFirst := d.cardFirst, cards := d.cardsM1 + 1, fua := d.fua, dealloc := d.dealloc, phase := 1,
        new := partCards t, old := [], others := [], failed := [], entries := [(t.src, t.tag, t.rank)],
        slot := none } (markRunning [t] s)
    sendLock d.echelon d.stripe 2 (.run r.id) s1

def execForwardWrite (h : PacketHdr) (_d : EcDesc) (s : State) : Outcome :=
  .next (withTxn h 1 forwardIn s)

/-- READ: the cards of a chunk are read, each goes out in a DATA packet with its fox mark, then DONE (R305). -/
def execEcRead (h : PacketHdr) (_d : EcDesc) (s : State) : Outcome := .next (withTxn h 2 (readIn []) s)

/-- WRITE: new data on the data holder, or release when DEALLOC is set. -/
def writeIn (picks : List Nat) (t : InTxn) (s : State) : State :=
  let d := t.desc
  onShare t (fun v =>
    if d.dealloc then
      let u := releaseShare t.nsid d.stripe d.cardFirst (d.cardsM1 + 1) v
      settleAll (modTxn (txnHdr t) (fun x => { x with started := true, needSeq := seqMark u }) u)
    else txnWrite t d.stripe (txnCards t) picks v) s

def execEcWrite (h : PacketHdr) (_d : EcDesc) (picks : List Nat) (s : State) : Outcome :=
  .next (withTxn h 3 (writeIn picks) s)

/-- DELTA: the P holder applies P ⊕ ΔD, the Q holder Q ⊕ g^j·ΔD, once its cards are read (R309). -/
def execDelta (h : PacketHdr) (_d : EcDesc) (fresh : Bool) (picks : List Nat) (s : State) : Outcome :=
  .next (withTxn h 4 (readIn (choices fresh picks s)) s)

/-- PARITY and REPAIR: whole cards written in place on their holder. -/
def wholeIn (picks : List Nat) (t : InTxn) (s : State) : State :=
  onShare t (txnWrite t t.desc.stripe (txnCards t) picks) s

def execParity (h : PacketHdr) (_d : EcDesc) (picks : List Nat) (s : State) : Outcome :=
  .next (withTxn h 5 (wholeIn picks) s)

/-- REPAIR places reconstructed cards as PARITY does parity cards. -/
def execRepair (h : PacketHdr) (_d : EcDesc) (picks : List Nat) (s : State) : Outcome :=
  .next (withTxn h 7 (wholeIn picks) s)

/-- READ_CHECKED at the keeper: the data holder is read while the stripe has no lagging entry for the position, else its
cards are reconstructed (R314). -/
def checkedIn (order : List Nat) (t : InTxn) (s : State) : State :=
  let d := t.desc
  let pos := posOfRole s d.echelon d.stripe d.role
  if staleView s d || keeperOf s d.echelon d.stripe != s.pel.self then endTxn t (3, 0x03) s
  else
    let lag := (lagEntry s d.echelon d.stripe pos).isSome
    let (r, s1) := newRun { jobRun 3 d.echelon d.stripe d.role d.cardFirst (d.cardsM1 + 1) (if lag then 1 else 2) with
      entries := [(t.src, t.tag, t.rank)], lent := t.locked } (markRunning [t] s)
    if lag then checkedLock order r s1
    else
      let u := runCmd r pos 2 (if t.locked then 4 else t.rank) t.locked [] s1
      if runBusy u r.id then u else checkedLock order r u

/-- The READ_CHECKED of a transaction that waits for the stripe lock. -/
def waitingChecked (h : PacketHdr) (s : State) : Option Steward :=
  s.ech.stewards.find? fun r => r.kind = 3 && r.phase = 1 && r.entries.any fun e => e.1 = h.src && e.2.1 = h.tag

/-- READ_CHECKED; one that waits for the stripe lock asks again. -/
def execReadChecked (h : PacketHdr) (_d : EcDesc) (order : List Nat) (s : State) : Outcome :=
  .next (match waitingChecked h s with
    | some r => if fabricOn s then checkedStep order r s else s
    | none => withTxn h 6 (checkedIn order) s)

/-- An operation outside Table 13.4: DONE 0h/01h. -/
def execEcReservedOperation (h : PacketHdr) (s : State) : Outcome :=
  .next (onPacket 0x3 h (fun t => if opKnown (cmdOp h) then t else sendDone h scOpcode t) s)

/-- A CMD of the fabric agent runs when its packet arrives, or when CMD has accepted it. -/
def agentCmd (h : PacketHdr) (op : Nat) (f : State → State) (s : State) : State :=
  match txnAt s h with
  | some t => if t.op = op && ! t.started && fabricOn s then f (dropTxn h s) else s
  | none => onPacket 0x3 h (fun t => if cmdOp h = op then f t else t) s

/-- A higher VIEW_NUM is stored, put in force and answered with DONE; any other is discarded, though one sent
by the holder ends the wait of a start (R301, R304). -/
def viewNow (h : PacketHdr) (v : ViewRec) (s : State) : State :=
  if viewNumOf s v.echelon < v.viewNum then sendDone h scSuccess (takeView v s)
  else if viewNumOf s v.echelon = v.viewNum then
    settleAna (modEch v.echelon (fun x => { x with waiting := false, unreach := false }) s)
  else s

/-- VIEW. -/
def viewIn (h : PacketHdr) (v : ViewRec) (crcOk : Bool) (s : State) : State :=
  if ! crcOk || (echAt s v.echelon).isNone then s
  else if s.lib.state = 0 then viewNow h v s
  else waitView (.view h v) s

def execView (h : PacketHdr) (v : ViewRec) (crcOk : Bool) (s : State) : Outcome :=
  .next (agentCmd h 9 (viewIn h v crcOk) s)

/-- TIMEOUT_REPORT at the view holder: the ejection count within 10 s ejects the member; below it the
position is lagging in the view (R313, R315). -/
def timeoutIn (h : PacketHdr) (e m ms : Nat) (s : State) : State :=
  match echAt s e with
  | none => s
  | some x =>
    let recent := (x.reports.filter fun r => decide (ms < 10000 + r.2)) ++ [(m, ms)]
    let s1 := sendDone h scSuccess (modEch e (fun y => { y with reports := recent }) s)
    if holderOf x.view != s.pel.self then s1
    else if ejectionCount s ≤ (recent.filter fun r => r.1 = m).length then eject e m s1
    else match positionOf x.view m with
      | some p => if (placeAt x.view p).2 = 1 then
          modEch e (fun y => { y with reports := recent }) (setPosition e p 2 s1) else s1
      | none => s1

def execTimeoutReport (h : PacketHdr) (echelon member ms : Nat) (s : State) : Outcome :=
  .next (agentCmd h 10 (timeoutIn h echelon member ms) s)

/-! ## PULSE and its timeouts (R277, R287, R315, R319) -/

/-- The digest carried by most members of an echelon in the link state; on a tie that of the lowest
serial (R319). -/
def referenceDigest (s : State) (v : ViewRec) : Nat :=
  let ms := (linkState s).filter fun x => x.assigned && (positionOf v x.member).isSome
  let count := fun d => (ms.filter fun x => x.digest = d).length
  match ms.foldl (fun best x => match best with
    | none => some x
    | some y => if count y.digest < count x.digest then some x else some y) (none : Option Seen) with
  | some x => x.digest
  | none => 0

/-- The digests of one echelon: a changed reference is recorded by the road captain, this member is dropped
when its digest differs, and the view holder ejects a member that differs. -/
def settleDigest (s : State) (x : EchelonSt) : State :=
  let ref := referenceDigest s x.view
  let own := (ownSeen s).digest
  let s1 := if ref = x.refDigest then s
    else
      let t := modEch x.echelon (fun y => { y with refDigest := ref }) s
      if t.pel.captain then
        record 0x0502 [(1, x.echelon), (1, 4), (1, t.pel.self), (4, x.view.viewNum), (8, 0), (1, 0), (8, ref)] t
      else t
  let s2 := if own != ref && (positionOf x.view s.pel.self).isSome then
    modEch x.echelon (fun y => { y with dropped := true }) s1 else s1
  (s.pel.seen.filter fun y => y.assigned && y.digest != ref && (positionOf x.view y.member).isSome).foldl
    (fun t y => eject x.echelon y.member t) s2

/-- A member found mismatched for the first time: a record of the road captain (R320). -/
def recordMismatch (b : PulseBody) (before : Option Seen) (s : State) : State :=
  if ! s.pel.captain then s
  else (s.ech.ech.filter fun x => (positionOf x.view b.member).isSome
      && b.digest != referenceDigest s x.view
      && (match before with | some y => y.digest != b.digest | none => true)).foldl
    (fun t x => record 0x0502
      [(1, x.echelon), (1, 2), (1, b.member), (4, x.view.viewNum), (8, 0), (1, 0), (8, b.serial)] t) s

/-- A member of the link state with the reference digest takes back the position that is out under its number, rebuilding
(R318, R319; DEDUCED, log entry 172). -/
def takeBack (m : Nat) (s : State) : State :=
  s.ech.ech.foldl (fun t x => match positionOf x.view m with
    | none => t
    | some p =>
      if (placeAt x.view p).2 = 4 && reaches t m
          && t.pel.seen.any (fun y => y.assigned && y.member = m && y.digest = referenceDigest t x.view) then
        setPosition x.echelon p 3 t
      else t) s

/-- PULSE: the link state takes it (R277); the digests and positions of the echelons follow (R315, R318, R319). -/
def execPulse (h : PacketHdr) (b : PulseBody) (s : State) : Outcome :=
  .next (if ! fabricOn s || ! freshPulse s b then s
    else
      let before := seenAt s b.serial
      let s1 := pulseIn h b (leaveIdle s)
      let s2 := recordMismatch b before s1
      let s3 := s2.ech.ech.foldl settleDigest s2
      settleDegraded (settleAna (if before.isNone && b.assigned then takeBack b.member s3 else s3)))

/-- PULSE_TIMEOUT: the member leaves the link state; its locks are freed and the view holder ejects it. -/
def execPulseTimeout (serial : Nat) (s : State) : Outcome :=
  .next (match seenAt s serial with
    | none => s
    | some x =>
      if ! fabricOn s then s
      else
        let s1 : State := { s with pel := { s.pel with
          seen := s.pel.seen.filter fun y => y.serial != serial } }
        if ! x.assigned then s1
        else
          let s2 := freeLocksOf x.member s1
          settleDegraded (settleAna (takeBack x.member
            (s2.ech.ech.foldl (fun t y => eject y.echelon x.member t) s2))))

/-- NO_VIEW_HOLDER_REACHABLE: Change becomes Inaccessible (R304). -/
def execNoViewHolderReachable (echelon : Nat) (s : State) : Outcome :=
  .next (match echAt s echelon with
    | none => s
    | some x =>
      if x.waiting then
        settleAna (modEch echelon (fun y => { y with waiting := false, unreach := true }) s)
      else s)

/-! ## Settlement, repair and rebuild (R312, R314, R317, R318) -/

/-- Cards that this member writes to its own share outside a transaction: a stand-in transaction that no
packet names. -/
def ownTxn (s : State) (e : Nat) : InTxn :=
  { src := 256, tag := 0, rank := 2, locked := true, nsid := ecNsid s e, ordered := false, op := 5,
    cards := 16, desc := { noDesc with echelon := e }, data := [], started := false, needSeq := 0,
    armed := s.coast.armed }

def writeOwn (e stripe : Nat) (cards : List (Nat × List Nat)) (picks : List Nat) (s : State) :
    Option State :=
  (writeCards (ownTxn s e) 0 stripe cards picks s).map fun u =>
    { u with wr := { u.wr with
        transit := modWhere (fun c => c.owner = some (txnSlot 256 0))
          (fun c => { c with owner := none }) u.wr.transit } }

/-- Parity cards go to their holder: this member's own share, or a PARITY command. -/
def putParity (r : Steward) (pos : Nat) (cards : List (List Nat)) (picks : List Nat) (s : State) : Option State :=
  if ! (parityHolders s r.echelon r.stripe).contains pos then some s
  else if memberAt s r.echelon pos = s.pel.self then
    writeOwn r.echelon r.stripe
      ((List.range cards.length).map fun i => (r.cardFirst + i, cards.getD i zeroCard)) picks s
  else some (runCmd r pos 5 4 true cards s)

/-- The sequence of a kind that this member runs on a stripe. -/
def runOf (s : State) (kind e stripe : Nat) : Option Steward :=
  s.ech.stewards.find? fun r => r.kind = kind && r.echelon = e && r.stripe = stripe

/-- A sequence of the keeper under its own lock begins with its reads. -/
def keeperStart (order : List Nat) (r0 : Steward) (s : State) : State :=
  let (r, s1) := newRun { r0 with own := true } (takeLock r0.echelon r0.stripe s.pel.self s)
  readWave order (firstWave s1 r) r s1

/-- UNLOCK of the keeper to the other parity holders, which clear what it has cleared. -/
def keeperUnlock (r : Steward) (s : State) : State :=
  (((parityHolders s r.echelon r.stripe).map fun p => memberAt s r.echelon p).filter fun m => m != s.pel.self).foldl
    (fun t m => sendUnlock m r.echelon r.stripe t) (keeperLeave r s)

/-- The data cards at offset `i` of a stripe under settlement, as read. -/
def settleData (s : State) (r : Steward) (i : Nat) : List (Option (List Nat)) :=
  (List.range (ecK s r.echelon)).map fun j => jobGot r i (posData' s r.echelon r.stripe j)

/-- A data card of a settlement could not be read. -/
def settleMissing (s : State) (r : Steward) : Bool :=
  (jobOffs r).any fun i => (settleData s r i).any fun c => c.isNone

/-- Steps 4 and 5 of a settlement: the intent is cleared on both holders, a holder that did not take its parity lags, and
the stripe is unlocked (R311, R312). -/
def settleEnd (r : Steward) (s : State) : State :=
  keeperUnlock r (clearIntents (fun x => x.echelon = r.echelon && x.stripe = r.stripe && x.kind < 2)
    (reportLagging r s))

/-- Step 3: parity recomputed; a card that cannot be read is solved from P, and P then stays as it is (R312). -/
def settleWrite (picks : List Nat) (r : Steward) (s : State) : State :=
  let solved := (jobOffs r).map fun i =>
    solveCards (settleData s r i) (jobGot r i (posP s r.echelon r.stripe)) none
  let ok := solved.all fun l => l.isSome
  let cards := solved.map fun l => l.getD []
  let s0 := modRun r.id (fun x => { x with phase := 7, failed := [] }) s
  let step1 := if ok && ! settleMissing s r then
    putParity r (posP s r.echelon r.stripe) (cards.map parityP) picks s0 else some s0
  let step2 := match step1 with
    | some t => if ok then putParity r (posQ s r.echelon r.stripe) (cards.map parityQ) (picks.drop 16) t else some t
    | none => none
  match step2 with
  | none => s
  | some t => if runBusy t r.id then t else settleEnd { r with failed := [] } t

/-- A settlement takes its next step once no request of it is outstanding. -/
def settleStep (order picks : List Nat) (r : Steward) (s : State) : State :=
  if runBusy s r.id then s
  else if r.phase = 7 then settleEnd r s
  else afterReads order (! settleMissing s r) (settleWrite picks r) r s

/-- INTENT_SETTLE: the keeper takes the stripe lock and reads the data cards; once they are here, parity is written; once
that is done, the intent is cleared and the stripe unlocked. Its own open intents are what it settles, so they do not hold
its lock back (R312). -/
def execIntentSettle (echelon stripe : Nat) (order picks : List Nat) (s : State) : Outcome :=
  .next (if ! fabricOn s then s
    else match runOf s 4 echelon stripe with
      | some r => settleStep order picks r s
      | none =>
        if keeperOf s echelon stripe != s.pel.self || (lockHolder s echelon stripe).isSome
            || decide (8192 ≤ s.pel.locks.length) then s
        else match s.ech.intents.find? fun x =>
            x.echelon = echelon && x.stripe = stripe && x.kind < 2 && x.settling with
          | some x => keeperStart order (jobRun 4 echelon stripe 0 x.cardFirst (x.cardsM1 + 1) 5) s
          | none => s)

/-- INTENT_AGE_EXPIRY: the intent is to be settled. -/
def execIntentAgeExpiry (echelon stripe : Nat) (s : State) : Outcome :=
  .next { s with ech := { s.ech with
    intents := modWhere (fun r => r.echelon = echelon && r.stripe = stripe && r.kind < 2)
      (fun r => { r with settling := true }) s.ech.intents } }

/-- The REPAIR of a lagging entry has ended: the entry is cleared on both holders, and the position returns to service
with its last entry; where REPAIR failed the entry stays (R314). -/
def repairEnd (r : Steward) (s : State) : State :=
  if ! r.failed.isEmpty then keeperLeave r s
  else
    let s1 := keeperUnlock r (clearIntents (fun x => x.echelon = r.echelon && x.stripe = r.stripe && x.kind = 2
      && x.position = r.dataIdx) s)
    if s1.ech.intents.any (fun x => x.echelon = r.echelon && x.kind = 2 && x.position = r.dataIdx) then s1
    else setPosition r.echelon r.dataIdx 1 s1

/-- The reconstructed cards are written with REPAIR; where they cannot be reconstructed the entry stays. -/
def repairWrite (r : Steward) (s : State) : State :=
  if ! jobSolved s r then keeperLeave r s
  else
    let t := runCmd r r.dataIdx 7 4 true ((jobOffs r).map fun i => (jobCard s r i).getD zeroCard)
      (modRun r.id (fun x => { x with phase := 7, failed := [] }) s)
    if runBusy t r.id then t else keeperLeave r t

/-- LAG_REPAIR: the keeper takes the stripe lock and reads the other chunks; once they are here the position's cards are
written with REPAIR; once that is done the entry is cleared. With every lagging slot in use the lagging member is ejected
instead (R314, R315). -/
def execLagRepair (echelon stripe position : Nat) (order : List Nat) (s : State) : Outcome :=
  .next (if ! fabricOn s then s
    else match runOf s 5 echelon stripe with
      | some r =>
        if runBusy s r.id then s
        else if r.phase = 7 then repairEnd r s
        else afterReads order (jobSolved s r) (repairWrite r) r s
      | none =>
        if keeperOf s echelon stripe != s.pel.self then s
        else if (freeIntentSlot s echelon true).isNone then eject echelon (memberAt s echelon position) s
        else if lockRefusal s echelon stripe != 0 then s
        else match lagEntry s echelon stripe position with
          | some x => keeperStart order (jobRun 5 echelon stripe position x.cardFirst (x.cardsM1 + 1) 5) s
          | none => s)

/-- A card of the rebuilt chunk: solved, or for a data chunk marked and for a parity chunk recomputed with
each unknown counted as zeros (R318). The flag says that it is marked. -/
def rebuiltCard (s : State) (e stripe pos : Nat) (got : Nat → Option (List Nat)) : List Nat × Bool :=
  match rebuildCard s e stripe pos got with
  | some c => (c, false)
  | none =>
    let data := (List.range (ecK s e)).map fun j => (got (posData' s e stripe j)).getD zeroCard
    if pos = posP s e stripe then (parityP data, false)
    else if pos = posQ s e stripe then (parityQ data, false)
    else (zeroCard, true)

/-- A marked card of the rebuilt chunk: FOX_SET on its replacement, and a fault record (R318). -/
def markRebuilt (e stripe i : Nat) (s : State) : State :=
  match shareCard s (ecNsid s e) stripe i with
  | none => s
  | some (_, sh, c, _) => match mapped s sh c with
    | none => s
    | some (p, _, _) =>
      record 0x0502 [(1, e), (1, 3), (1, s.pel.self), (4, viewNumOf s e), (8, stripe), (1, i),
        (8, s.cdx.serial)] (flagTransit p (foxSet sh c p 3 s))

/-- This member's chunk of the stripe at its rebuild pointer is written, and the stripe unlocked; with the last one the
view holder sets the position in service. A card that no survivor's answer can give is marked only where every request was
answered (R317, R318). -/
def rebuildEnd (picks : List Nat) (r : Steward) (s : State) : State :=
  let e := r.echelon
  let cards := (List.range 16).map fun i => (i, rebuiltCard s e r.stripe r.dataIdx (jobGot r i))
  if ! jobSolved s r && ! r.failed.isEmpty then rebuilderLeave r s
  else match writeOwn e r.stripe (cards.map fun c => (c.1, c.2.1)) picks s with
    | none => s
    | some t =>
      let u := (cards.filter fun c => c.2.2).foldl (fun v c => markRebuilt e r.stripe c.1 v) t
      let v := rebuilderLeave r (modEch e (fun y => { y with pointer := y.pointer + 1 }) u)
      if r.stripe + 1 < ecStripes s e then v else setPosition e r.dataIdx 1 v

/-- The rebuild of the stripe at the pointer takes its next step: LOCK at the Rebuild rank; once granted, the reads; once
they are here, the write. -/
def rebuildNext (echelon : Nat) (order picks : List Nat) (pointer pos : Nat) (s : State) : State :=
  match s.ech.stewards.find? fun r => r.kind = 6 && r.echelon = echelon with
  | none =>
    let (r, s1) := newRun (jobRun 6 echelon pointer pos 0 16 1) s
    sendLock echelon pointer 1 (.run r.id) s1
  | some r =>
    if runBusy s r.id then s
    else if r.stripe != pointer || r.dataIdx != pos || r.phase = 1 then rebuilderLeave r s
    else if r.phase = 2 then
      readWave order (firstWave s r) r (modRun r.id (fun x => { x with phase := 5 }) s)
    else afterReads order (jobSolved s r) (rebuildEnd picks r) r s

/-- REBUILD_STRIPE. -/
def execRebuildStripe (echelon : Nat) (order picks : List Nat) (s : State) : Outcome :=
  .next (match echAt s echelon with
    | none => s
    | some x => match positionOf x.view s.pel.self with
      | none => s
      | some pos =>
        if (placeAt x.view pos).2 = 3 && serving s && s.mode.mode != .preserve
            && decide (x.pointer < ecStripes s echelon) then
          settleDegraded (rebuildNext echelon order picks x.pointer pos s)
        else s)

/-- REBUILD_POINTER_STORE. -/
def execRebuildPointerStore (echelon : Nat) (s : State) : Outcome :=
  .next (match echAt s echelon with
    | none => s
    | some x =>
      if s.mode.mode = .coast || ! awake s then s
      else storeRt (0x40000 + echelon) x.pointer
        (modEch echelon (fun y => { y with stored := y.pointer }) s))

end Sys2Proof.Machine
end

