-- ==== Sys2Proof/Machine/Io.lean ====
section
/-! DEFINITION. The I/O commands (Table 10.9, R58, R69, R71 to R74, R80, R81, R137, R232 to R235, R257, R260,
R263, R302). -/

namespace Sys2Proof.Machine

/-! ## What every I/O command checks as it starts -/

/-- A command in an I/O slot that `pick` selects and whose phase is `ph` runs `f` in a serving mode. -/
def startIo (slot : Nat) (ph : CmdPhase) (pick : SqEntry → Bool) (f : Cmd → State → State) (s : State) :
    State :=
  match cmdAt s slot with
  | none => s
  | some c => if c.qid = 0 || c.phase != ph || ! pick c.e || ! serving s then s else f c s

/-- Key slots of the cards of a range. -/
def keySlots (s : State) (n : Namespace) (cards : List Nat) : List Nat :=
  (cards.map fun c => slotOfCard s n.nsid c).eraseDups

/-- A locking range of the cards that is locked for reading, or for writing. -/
def lockedRange (s : State) (n : Namespace) (cards : List Nat) (writing : Bool) : Bool :=
  (cards.map fun c => rangeOfCard s n.nsid c).eraseDups.any fun r => s.key.ranges.any fun x =>
    x.nsid = n.nsid && x.r = r && if writing then x.writeLocked else x.readLocked

/-- The status of a command that touches `cards` of a namespace: a renewal asked for before it was fetched (R260), no core
(R246), an empty key slot, DNR set (R257), a locked range (R263). -/
def accessStatus (s : State) (slot : Nat) (n : Namespace) (cards : List Nat) (writing moves : Bool) :
    Option ((Nat × Nat) × Bool) :=
  let renewing := fun k => s.key.renewals.any fun r => r.slot = k && ! r.before.contains slot
  if moves && allFenced s then some (scDenied, dnrOf scDenied false)
  else if n.spanned.isSome then
    if renewing (keySlot n.nsid 0) then some (scNotReady, false) else none
  else
    let slots := keySlots s n cards
    if slots.any renewing then some (scNotReady, false)
    else if slots.any (fun k => (keyLoaded s k).isNone) then some (scDenied, true)
    else if lockedRange s n cards writing then some (scDenied, dnrOf scDenied false)
    else none

/-- A command with an LBA range starts, or completes with the status of a check. MDTS is 9 (R221). -/
def withRange (slot : Nat) (writing moves : Bool) (c : Cmd) (f : Namespace → State → State) (s : State) :
    State :=
  match nsAt s c.e.nsid with
  | none => finishErr slot scNsFormat s
  | some n =>
    if moves && decide (2097152 < nlbOf c.e * lbaBytes n) then finishErr slot scField s
    else if ! rangeOk n c.e then finishErr slot scRange s
    else match accessStatus s slot n (cardsOf (firstSector n c.e) (sectorCount n c.e)) writing moves with
      | some (st, dnr) => finishAt slot st (lbaField c) dnr 0 s
      | none => f n s

/-! ## FLUSH (R69, R222) -/

/-- FLUSH: at once, or, fetched while step 3 of R70 runs, when that step ends. -/
def execFlush (slot : Nat) (s : State) : Outcome :=
  .next (startIo slot .fetched (fun e => e.opcode = 0x00) (fun c t =>
    if c.inDrain && t.coast.draining then modCmd slot (fun c => { c with phase := .running }) t
    else finishOk slot 0 t) s)

/-! ## READ and COMPARE -/

/-- Cards of a range on a spanned namespace are read from their holders (R302). -/
def readSpanned (slot e : Nat) (ordered : Bool) (cards : List Nat) (s : State) : State :=
  settleHost slot ((chunkParts cards).foldl (fun t p => sendRead slot e p.1 p.2 ordered t) s)

/-- The cards of a command that reads. -/
def readCards (slot : Nat) (c : Cmd) (n : Namespace) (data : List Nat) (s : State) : State :=
  let cards := cardsOf (firstSector n c.e) (sectorCount n c.e)
  let s1 := modCmd slot (fun x => { x with
    phase := .running, want := cards.map fun i => (i, 0), data := data }) s
  match n.spanned with
  | some e => readSpanned slot e false cards s1
  | none => cards.foldl (fun t i => readCard slot i t) s1

def execRead (slot : Nat) (s : State) : Outcome :=
  .next (startIo slot .fetched (fun e => e.opcode = 0x02) (fun c t =>
    withRange slot false true c (fun n u => readCards slot c n [] u) t) s)

def execCompare (slot : Nat) (data : List Nat) (s : State) : Outcome :=
  .next (startIo slot .fetched (fun e => e.opcode = 0x05) (fun c t =>
    withRange slot false true c (fun n u => readCards slot c n data u) t) s)

/-- MAP_MISS_READ_DONE: the reads of a load have ended; the shelf page or segment is resident, its updates are applied
and the lookups that missed go on (R38, R39, R55). -/
def execMapMissReadDone (page : Bool) (index : Nat) (s : State) : Outcome :=
  .next (if loadHere s page index then settleWrites (retryLookups (takeLoad page index s)) else s)

/-! ## Sequential detectors (R80) -/

/-- The detector that a write extends: of several that expect it, the first in the list (DESIGN CHOICE, log entry
155). -/
def extends? (s : State) (nsid lba : Nat) : Option Detector :=
  s.wr.detectors.find? fun d => d.nsid = nsid && d.next = lba

/-- The least recently extended detector. -/
def oldestDetector (l : List Detector) : Option Detector :=
  l.foldl (fun m d => match m with
    | none => some d
    | some x => if d.stamp < x.stamp then some d else some x) none

/-- The first element that `p` holds of, replaced. -/
def replaceFirst (p : Detector → Bool) (new : Detector) : List Detector → List Detector
  | [] => []
  | x :: l => if p x then new :: l else x :: replaceFirst p new l

/-- A write of `n` LBAs and `bytes` bytes extends its detector, or takes a free or the oldest one. -/
def noteSequential (nsid lba n bytes : Nat) (s : State) : State :=
  let new : Detector := { nsid := nsid, next := lba + n, bytes := bytes, stamp := s.clock.us }
  { s with wr := { s.wr with
      detectors := match extends? s nsid lba with
        | some d => replaceFirst (fun x => x = d)
            { d with next := lba + n, bytes := d.bytes + bytes, stamp := s.clock.us } s.wr.detectors
        | none =>
          if s.wr.detectors.length < 64 then s.wr.detectors ++ [new]
          else match oldestDetector s.wr.detectors with
            | some d => replaceFirst (fun x => x = d) new s.wr.detectors
            | none => [new] } }

/-- SEQ_DETECTOR_EXPIRY. -/
def execSeqDetectorExpiry (index : Nat) (s : State) : Outcome :=
  .next { s with wr := { s.wr with
    detectors := s.wr.detectors.take index ++ s.wr.detectors.drop (index + 1) } }

/-! ## WRITE, ORDERED_WRITE, WRITE_ZEROES, DATASET_MANAGEMENT (R58, R71, R234, R235) -/

/-- A write starts: the Coast state counts as it is now (R67), its detector is extended, and its buffers
are asked for in one request. -/
def startWrite (slot : Nat) (c : Cmd) (n : Namespace) (s : State) : State :=
  let bytes := nlbOf c.e * lbaBytes n
  let passes := match extends? s n.nsid (slbaOf c.e) with
    | some d => decide (1048576 ≤ d.bytes)
    | none => false
  let s1 := noteSequential n.nsid (slbaOf c.e) (nlbOf c.e) bytes
    (modCmd slot (fun x => { x with armed := s.coast.armed, bypass := passes }) s)
  requestBuffers 0 (.slot slot) (transferSizes (ceilDiv bytes 1024)) s1

def execWrite (slot : Nat) (s : State) : Outcome :=
  .next (startIo slot .fetched (fun e => e.opcode = 0x01) (fun c t =>
    withRange slot true true c (fun n u => startWrite slot c n u) t) s)

/-- ORDERED_WRITE: it waits until every earlier command of its queue has been posted (R71). -/
def execOrderedWrite (slot : Nat) (s : State) : Outcome :=
  .next (startIo slot .fetched (fun e => e.opcode = 0x81) (fun _ t =>
    modCmd slot (fun c => { c with phase := .waiting }) t) s)

/-- A command fetched earlier from the queue has no posted completion yet. -/
def earlierOpen (s : State) (slot qid : Nat) : Bool :=
  (s.nv.cmds.takeWhile fun c => c.slot != slot).any (fun c => c.qid = qid)
    || s.nv.waiting.any fun c => c.sq = qid

/-- ORDERED_WRITE_START. -/
def execOrderedWriteStart (slot : Nat) (s : State) : Outcome :=
  .next (startIo slot .waiting (fun e => e.opcode = 0x81) (fun c t =>
    if earlierOpen t slot c.qid then t
    else withRange slot true true c (fun n u => startWrite slot c n u) t) s)

/-- A command's records are appended; it waits for the last of them. -/
def noteRelease (slot : Nat) (s : State) : State :=
  modCmd slot (fun c => { c with needSeq := seqMark s }) s

/-- Whole cards of a local namespace are released: a SHELF_DEALLOC where all 16 cards of a shelf are,
CARD_DEALLOC records for the rest that are mapped (R234). `cards` in rising order. -/
def releaseCards (n : Namespace) (cards : List Nat) (s : State) : State :=
  (chunkParts cards).foldl (fun t p => match cardPlace n p.1 with
    | none => t
    | some (sh, i) =>
      if p.2 = 16 then append (cardRec 0x6 sh 0 0 0 0) t
      else (List.range p.2).foldl (fun u k => match mapped u sh (i + k) with
        | some (q, _, _) => append (cardRec 0x5 sh (i + k) q 0 0) u
        | none => u) t) s

/-- A release of whole cards, local or spanned. -/
def releaseWhole (slot : Nat) (c : Cmd) (n : Namespace) (cards : List Nat) (s : State) : State :=
  match n.spanned with
  | some e => forwardParts slot e (fuaOf c.e) true false (fun _ => zeroCard) (chunkParts cards) s
  | none => noteRelease slot (releaseCards n cards s)

/-- The cards that a sector range covers whole. -/
def wholeCards (first count : Nat) : List Nat := (cardsOf first count).filter fun c => wholeCard first count c

/-- A command with no buffer to wait for goes to its completion point. -/
def settlePlaced (slot : Nat) (n : Namespace) (s : State) : State :=
  match n.spanned with
  | some _ => settleHost slot (modCmd slot (fun x => { x with phase := .running }) s)
  | none => settleWrites (markPlaced slot s)

/-- WRITE_ZEROES: with DEAC the whole cards are released at once and only the partly covered ones take
buffers. -/
def startZeroes (slot : Nat) (c : Cmd) (n : Namespace) (s : State) : State :=
  let first := firstSector n c.e
  let count := sectorCount n c.e
  let s1 := modCmd slot (fun x => { x with armed := s.coast.armed }) s
  if deacOf c.e then
    let s2 := releaseWhole slot c n (wholeCards first count) s1
    let parts := (partialCards first count).length
    if parts = 0 then settlePlaced slot n s2
    else requestBuffers 0 (.slot slot) (List.replicate parts 4) s2
  else requestBuffers 0 (.slot slot) (transferSizes (ceilDiv (512 * count) 1024)) s1

def execWriteZeroes (slot : Nat) (s : State) : Outcome :=
  .next (startIo slot .fetched (fun e => e.opcode = 0x08) (fun c t =>
    withRange slot true false c (fun n u =>
      if ! deacOf c.e && allFenced u then finishErr slot scDenied u else startZeroes slot c n u) t) s)

/-- Rising intervals, those that touch or overlap joined; `fuel` bounds their number. -/
def joinIntervals : Nat → List (Nat × Nat) → List (Nat × Nat)
  | 0, l => l
  | fuel + 1, l => match l with
    | (a, b) :: (c, d) :: r =>
      if c ≤ b then joinIntervals fuel ((a, max b d) :: r) else (a, b) :: joinIntervals fuel ((c, d) :: r)
    | _ => l

/-- Cards whose bytes all lie in the union of the ranges (start LBA, length in LBAs). -/
def unionCards (n : Namespace) (ranges : List (Nat × Nat)) : List Nat :=
  let k := lbaSectors n
  let ivs := sortBy (fun a b => decide (a.1 < b.1))
    ((ranges.filter fun r => r.2 != 0).map fun r => (r.1 * k, (r.1 + r.2) * k))
  (joinIntervals ivs.length ivs).flatMap fun iv => wholeCards iv.1 (iv.2 - iv.1)

/-- DATASET_MANAGEMENT: the Deallocate attribute is dword 11 bit 2; the number of ranges minus 1 is dword 10
[7:0]. -/
def startDsm (slot : Nat) (c : Cmd) (ranges : List (Nat × Nat)) (s : State) : State :=
  match nsAt s c.e.nsid with
  | none => finishErr slot scNsFormat s
  | some n =>
    let used := ranges.take (bitsOf c.e.dw10 7 0 + 1)
    if ! c.e.dw11.testBit 2 then finishOk slot 0 s
    else if used.any (fun r => decide (n.nsze < r.1 + r.2)) then finishErr slot scRange s
    else
      let touched := used.flatMap fun r => cardsOf (r.1 * lbaSectors n) (r.2 * lbaSectors n)
      match accessStatus s slot n touched true false with
      | some (st, dnr) => finishAt slot st 0 dnr 0 s
      | none =>
        settlePlaced slot n (releaseWhole slot c n (unionCards n used)
          (modCmd slot (fun x => { x with armed := s.coast.armed }) s))

def execDatasetManagement (slot : Nat) (ranges : List (Nat × Nat)) (s : State) : Outcome :=
  .next (startIo slot .fetched (fun e => e.opcode = 0x09) (fun c t => startDsm slot c ranges t) s)

/-- INVALID_IO_OPCODE (R232). -/
def execInvalidIoOpcode (slot : Nat) (s : State) : Outcome :=
  .next (startIo slot .fetched (fun e => ! ioOpcode e.opcode) (fun _ t => finishErr slot scOpcode t) s)

/-! ## Data of a write to a spanned namespace (R73, R302, R308) -/

/-- All data of a write to a spanned namespace is here: its whole cards go to their stewards, chunk by
chunk; partly covered ones ask for their locks. -/
def spanWrite (slot e : Nat) (c : Cmd) (n : Namespace) (data : List Nat) (s : State) : State :=
  let first := firstSector n c.e
  let count := sectorCount n c.e
  let want := (partialCards first count).map (spanPlace n)
  let ordered := c.e.opcode = 0x81
  let s1 := modCmd slot (fun x => { x with phase := .running, data := data, want := want })
    { s with nv := { s.nv with
        unitsWr := if c.e.opcode = 0x08 then s.nv.unitsWr else s.nv.unitsWr + data.length } }
  let s2 := want.foldl (fun t w => askLock slot w.1 w.2 t) s1
  let s3 := if c.e.opcode = 0x08 && deacOf c.e then s2
    else forwardParts slot e (fuaOf c.e) false ordered (sliceCard first data)
      (chunkParts (wholeCards first count)) s2
  settleHost slot s3

/-- WRITE_DATA_ARRIVED. In Coast no data arrives. -/
def execWriteDataArrived (slot : Nat) (data picks : List Nat) (info : List (Nat × Nat × Nat)) (s : State) : Outcome :=
  .next (if s.mode.mode = .coast then s
    else match cmdAt s slot with
      | none => s
      | some c => match nsAt s c.e.nsid with
        | none => s
        | some n => match n.spanned with
          | none => dataArrived slot data picks info s
          | some e =>
            let d := arrivedData n c data
            if c.phase != .buffered || d.length != sectorCount n c.e || ! infoWhole n c.e info then s
            else match piFailed n c.e d info with
              | some (i, st) => failPi slot i st n s
              | none => spanWrite slot e c n d s)

/-- The lock of a partly covered card of a spanned namespace: the card is read from its holder, merged when it comes, and
goes to its steward (R73, R302). -/
def grantSpanned (slot e shelf i : Nat) (c : Cmd) (n : Namespace) (s : State) : State :=
  if ! (c.want.contains (shelf, i) && holdsLock s slot shelf i && c.phase = .running)
      || s.wr.locks.any (fun l => l.shelf = shelf && l.card = i && l.granted) then s
  else match (partialCards (firstSector n c.e) (sectorCount n c.e)).find? fun x => spanPlace n x = (shelf, i) with
    | none => s
    | some lba => settleHost slot (sendRead slot e lba 1 (decide (c.e.opcode = 0x81)) { s with wr := { s.wr with
        locks := modWhere (fun l => l.shelf = shelf && l.card = i) (fun l => { l with granted := true }) s.wr.locks } })

/-- CARD_LOCK_GRANT. -/
def execCardLockGrant (slot shelf card : Nat) (fresh : Bool) (picks : List Nat) (s : State) : Outcome :=
  .next (if s.mode.mode = .coast then s
    else match cmdAt s slot with
      | none => s
      | some c => match nsAt s c.e.nsid with
        | none => s
        | some n => match n.spanned with
          | none => grantLock slot shelf card (choices fresh picks s) s
          | some e => grantSpanned slot e shelf card c n s)

/-! ## Sealing (R65, R114) -/

/-- A card of the carrel page whose completion waits for its program. -/
def pageWaits (s : State) (r : OpenRow) (page j : Nat) : Bool :=
  (unitPpas s r (66 * page + j)).any fun p => s.wr.transit.any fun c =>
    c.ppa = p && match c.owner with
      | none => false
      | some n => match cmdAt s n with
        | some x => x.needPpa.contains p && (! x.armed || fuaOf x.e)
        | none => decide (1048576 ≤ n)

/-- SEAL_DELAY_EXPIRY. -/
def execSealDelayExpiry (row page dataIndex : Nat) (s : State) : Outcome :=
  .next (match rowAt s row with
    | none => s
    | some r =>
      if ! inCarrel s r.entry || decide (3 < page) || ! pageWaits s r page dataIndex
          || s.mode.mode = .coast then s
      else padCells row (unitCells true (dataWidth s r.entry) (66 * page + dataIndex)) s)

/-- ROW_IDLE_SEAL. -/
def execRowIdleSeal (row : Nat) (s : State) : Outcome :=
  .next (if s.mode.mode = .coast then s else sealRow row s)

end Sys2Proof.Machine
end

