-- ==== Sys2Proof/Machine/Dies.lean ====
section
/-! DEFINITION. Dies and channels at work (R111 to R134, R149): what a tile issues, suspends and ends, die
timeouts, retirement of dies that do not answer, retraining, and Roster syncs. -/

namespace Sys2Proof.Machine

/-! ## What a die can take (R120 to R122) -/

/-- The tiles work: the part is awake, not in Recovery. -/
def tilesRun (s : State) : Bool := awake s && s.mode.mode != .recovery

/-- The target has been switched to NV-LPDDR4 since the last reset of its channel (R111). -/
def dieSwitched (s : State) (d : Die) : Bool :=
  match chanAt s d.channel with
  | some c => c.iface.any fun x => x.1 = d.target
  | none => false

/-- The die takes operations: it serves, its target is switched, no reset runs on it, and no suspend is under way. -/
def dieTakes (s : State) (d : Die) : Bool :=
  tilesRun s && dieServes s d.channel d.target && dieSwitched s d && ! d.resetting && ! d.suspending
    && d.suspended.isNone


/-- The reads among `l` that hold queue entries: `other` for engines' reads, `all` in sum. -/
def seenOf : Nat → Nat → List ReadReq → List ReadReq
  | _, _, [] => []
  | other, all, r :: l =>
    if all = 0 then []
    else if isLadder r.why then r :: seenOf other (all - 1) l
    else if other = 0 then seenOf other all l
    else r :: seenOf (other - 1) (all - 1) l

/-- Reads that the tile sees: 64 entries, 4 of them held for the escalation engine while one of its reads waits; the
rest are requests of stalled engines, in order of arrival (R120, R141). A read in progress has left the queue
(DEDUCED, log entry 133). -/
def readsSeen (d : Die) : List ReadReq :=
  seenOf (if d.readQ.any fun r => isLadder r.why then 60 else 64) 64 d.readQ

/-- The reads in progress on the die. -/
def readsOn (d : Die) : List ReadReq :=
  match d.op with
  | some (.reads rs) => rs
  | _ => []

/-- The read that comes next among `l`: the oldest of class 0, a class 1 read after 7 of them (R121). -/
def nextRead (run0 : Nat) (l : List ReadReq) : Option ReadReq :=
  match l.find? (fun r => r.cls = 0), l.find? (fun r => r.cls != 0) with
  | some a, some b => if 7 ≤ run0 then some b else some a
  | some a, none => some a
  | none, x => x

/-- Two PPAs of one page. -/
def samePage (a b : Ppa) : Bool := ppaPlane a = ppaPlane b && ppaBlock a = ppaBlock b && ppaPage a = ppaPage b

/-- A read takes its codeword from the array read of its page that is in progress: one read of a page serves all the
codewords that are asked of it (R38). -/
def sharesPage (d : Die) (r : ReadReq) : Bool :=
  ! isLadder r.why && (readsOn d).any fun x => samePage x.ppa r.ppa && ! isLadder x.why

/-- Reads that cache reads are used for: fold, weeding and sequential host reads (Table 5.1). -/
def cacheable : ReadFor → Bool
  | .move _ => true
  | .host .. => true
  | _ => false

/-- The read goes on in a cache read: its page follows the one read last in the block, at the same offsets. -/
def cacheNext (d : Die) (offs : List Int) (r : ReadReq) : Bool :=
  cacheable r.why && offs == d.offsets && match d.lastPage with
    | some p => ppaPlane p = ppaPlane r.ppa && ppaBlock p = ppaBlock r.ppa && ppaPage r.ppa = ppaPage p + 1
    | none => false

/-- A read of the page index of the read before it, on another plane, joins it in a multi-plane read (R121). -/
def joinsPlanes (s : State) (d : Die) (offs : List Int) (r : ReadReq) : Bool :=
  ! isLadder r.why && offs == d.offsets && match (readsOn d).getLast? with
    | some x => ! isLadder x.why && ppaPage x.ppa = ppaPage r.ppa && ppaSlc s x.ppa = ppaSlc s r.ppa
    | none => false

/-- The cycles of a read that joins those in progress; `fresh` when the last of them is issued with it. -/
def joinCycles (s : State) (fresh : Bool) (d : Die) (offs : List Int) (r : ReadReq) : List Nat :=
  if sharesPage d r then d.cycles
  else if (readsOn d).isEmpty then
    if cacheNext d offs r then [0x31]
    else (if d.caching then [0x3F] else []) ++ readCycles s (offs != d.offsets) r
  else if fresh && joinsPlanes s d offs r then d.cycles.dropLast ++ [0x32, 0x00, 0x30]
  else d.cycles ++ readCycles s (offs != d.offsets) r

/-- One read joins those in progress, its block's offsets set in the die first (R122). -/
def takeRead1 (s : State) (fresh : Bool) (d : Die) : Option Die :=
  let busy := (readsOn d).map fun r => ppaPlane r.ppa
  match nextRead d.run0 ((readsSeen d).filter fun r => sharesPage d r || ! busy.contains (ppaPlane r.ppa)) with
  | none => none
  | some r =>
    let offs := readOffsets s r.ppa r.why
    some { d with
      readQ := dropFirst (fun x => x = r) d.readQ
      op := some (.reads (readsOn d ++ [r]))
      cycles := joinCycles s fresh d offs r
      caching := (readsOn d).isEmpty && cacheNext d offs r
      lastPage := if (readsOn d).isEmpty && cacheable r.why then some r.ppa else none
      run0 := if r.cls = 0 then d.run0 + 1 else 0
      offsets := offs }

/-- Reads of free planes, and of the pages that are being read, are issued together. -/
def groupReads (s : State) : Nat → Bool → Die → Die
  | 0, _, d => d
  | fuel + 1, fresh, d => match takeRead1 s fresh d with
    | none => d
    | some x => groupReads s fuel true x

/-- A program or erase that has waited for the issue limit still waits: it is issued next (R122). -/
def limited1 (d : Die) : Option ArrayOp :=
  match d.limitNext with
  | some (.program p) => if d.progQ.contains p then some (.program p) else none
  | some (.erase e) => if d.eraseQ.contains e then some (.erase e) else none
  | _ => none

/-- A read can be issued now: the die is free, or reads with other planes are in progress. -/
def readTime (d : Die) : Bool := (d.op.isNone || ! (readsOn d).isEmpty) && (limited1 d).isNone

/-! ## Calibration (R126) -/

/-- The CE# target of a die: four dies of a CE# number. -/
def ceOf (target : Nat) : Nat := target / 4

/-- The dies of a CE# target. -/
def ceDies (s : State) (ch ce : Nat) : List Die :=
  s.fl.dies.filter fun d => d.channel = ch && ceOf d.target = ce && ! dieRetired s ch d.target

/-- The mean temperature of those dies whose temperature has been read since boot. -/
def meanTemp (l : List Die) : Option Int :=
  let read := l.filter fun d => d.tempRead
  if read.isEmpty then none else some ((read.foldl (fun a d => a + d.temp) 0) / (read.length : Int))

/-- ZQ Calibration Short is issued to a CE# target. -/
def calibrate (ch ce : Nat) (s : State) : State :=
  let t := modChan ch (fun c => { c with
    zqDone := c.zqDone + 1, zqDue := c.zqDue.filter fun x => x != ce
    zqTemp := match meanTemp (ceDies s ch ce) with
      | some m => mapSet ce m c.zqTemp
      | none => c.zqTemp }) s
  { t with fl := { t.fl with dies := t.fl.dies.map fun d =>
      if d.channel = ch && ceOf d.target = ce then
        { d with cycles := (if d.caching then [0x3F] else []) ++ [0xD9], caching := false, lastPage := none }
      else d } }

/-- No operation runs, is suspended or is reset on the target. -/
def ceIdle (s : State) (ch ce : Nat) : Bool :=
  (ceDies s ch ce).all fun d => d.op.isNone && d.suspended.isNone && ! d.resetting

/-- A calibration is due: it is issued at once between operations of the target, else once they have ended. -/
def askCalibrate (ch ce : Nat) (s : State) : State :=
  if ceIdle s ch ce then calibrate ch ce s
  else modChan ch (fun c => { c with zqDue := if c.zqDue.contains ce then c.zqDue else c.zqDue ++ [ce] }) s

/-- A calibration of the die's target waits: no operation is issued to the target before it (DEDUCED, log entry
134). -/
def zqWaits (s : State) (ch t : Nat) : Bool :=
  s.mode.mode != .coast && match chanAt s ch with
    | some c => c.zqDue.contains (ceOf t)
    | none => false

/-- Before an operation is issued, a waiting calibration of its target takes the bus once the target is idle. -/
def calibrateFirst (ch t : Nat) (s : State) : State :=
  if zqWaits s ch t && ceIdle s ch (ceOf t) then calibrate ch (ceOf t) s else s

/-- FLASH_READ_ISSUE. -/
def execFlashReadIssue (channel target : Nat) (s : State) : Outcome :=
  .next (match dieAt s channel target with
    | none => s
    | some d =>
      if ! dieTakes s d || ! readTime d || s.mode.mode = .coast || s.mode.gates.tiles.contains channel then s
      else
        let t := calibrateFirst channel target s
        if zqWaits t channel target then t else modDie channel target (groupReads t (4 * planesOf t) false) t)

/-- What is left of the reads in progress: within a suspension an empty list until the operation is resumed
(R124). -/
def afterRead (d : Die) (rest : List ReadReq) : Option ArrayOp :=
  if rest.isEmpty && d.suspended.isNone then none else some (.reads rest)

/-- The quadrant of a channel (R108). -/
def quadrantOf (ch : Nat) : Nat := ch / 16

/-- Hard-decision units of a quadrant that keep a codeword they gave up on, stalled for the escalation queue (R151). -/
def hardBusy (s : State) (q : Nat) : Nat :=
  ((s.esc.failed ++ s.esc.stalled).filter fun w => w.decoded && quadrantOf (ppaChannel w.ppa) = q).length

/-- A read of the escalation engine waits in the quadrant. -/
def ladderWaits (s : State) (q : Nat) : Bool :=
  s.fl.dies.any fun d => quadrantOf d.channel = q && (d.readQ ++ readsOn d).any fun r => isLadder r.why

/-- A hard-decision unit takes the codeword: 32 in a quadrant, 4 of them held for the escalation engine's reads while one
waits (R140, R141). -/
def unitFree (s : State) (r : ReadReq) : Bool :=
  let q := quadrantOf (ppaChannel r.ppa)
  isLadder r.why || decide (hardBusy s q < if ladderWaits s q then 28 else 32)

/-- The decoder that takes the codeword of a read wakes: a soft-decision unit of the quadrant for a read of step 4 or 5,
else its first hard-decision unit that holds no codeword (R140, R196). -/
def useDecoder (s0 : State) (r : ReadReq) (s : State) : State :=
  let q := quadrantOf (ppaChannel r.ppa)
  match r.why with
  | .ladder (_ + 1) => useUnit 2 (6 * q) s
  | _ => useUnit 1 (32 * q + min 31 (hardBusy s0 q)) s

/-- FLASH_READ_DONE: the oldest read in progress has been transferred and decoded, or was returned unread; a decode
waits while every unit that may take it is stalled. -/
def execFlashReadDone (channel target : Nat) (outcome : DecodeOutcome) (wrongCard : Bool) (s : State) :
    Outcome :=
  .next (match dieAt s channel target with
    | none => s
    | some d => match d.op with
      | some (.reads (r :: rest)) =>
        if d.resetting || (outcome != .unavailable && ! unitFree s r) then s
        else endRead r outcome wrongCard (useDecoder s r (modDie channel target (fun x => { x with
          op := afterRead d rest, cycles := dataCycles }) s))
      | _ => s)

/-! ## Programs and erases (R122, R131, R133) -/

/-- The program that is issued next: one of the system stream, else the oldest. -/
def nextProgram (d : Die) : Option ProgReq :=
  match (d.progQ.take 16).find? fun p => p.system with
  | some p => some p
  | none => d.progQ.head?

/-- The operation that is issued next. -/
def nextArrayOp (s : State) (d : Die) : Option ArrayOp :=
  match limited1 d, nextProgram d, d.eraseQ with
  | some o, p, _ => if s.mode.mode = .coast then p.map .program else some o
  | none, some p, [] => some (.program p)
  | none, none, e :: _ => if s.mode.mode = .coast then none else some (.erase e)
  | none, some p, e :: _ => if d.eraseNext && s.mode.mode != .coast then some (.erase e) else some (.program p)
  | none, none, [] => none

/-- An operation leaves its queue. -/
def unqueue (d : Die) : ArrayOp → Die
  | .program p => { d with progQ := dropFirst (fun x => x = p) d.progQ }
  | .erase e => { d with eraseQ := dropFirst (fun x => x = e) d.eraseQ, eraseNext := false }
  | .reads _ => d

/-- The die begins an operation, over the planes of `more` as well, with the suspend cap of its kind (R136). -/
def beginOp (o : ArrayOp) (more : List ArrayOp) (cap : Nat) (cycles : List Nat) (d : Die) : Die :=
  { (o :: more).foldl unqueue d with
    cycles := (if d.caching then [0x3F] else []) ++ cycles, caching := false, lastPage := none
    op := some o, joined := more, suspends := 0, cap := cap, run0 := 0
    limitNext := match d.limitNext with
      | some x => if (o :: more).contains x then none else some x
      | none => none }

/-- The plane, page index and region of a queued program. -/
def progPlace (s : State) (p : ProgReq) : Option (Nat × Nat × Bool) :=
  (rowAt s p.row).map fun r => (entryPlane s r.entry, r.page + p.page.getD 0, inCarrel s r.entry)

/-- The planes of a die that a multi-plane operation on plane `pl` can take in. -/
def otherPlanes (s : State) (pl : Nat) : List Nat := (List.range (planesOf s)).filter fun x => x != pl

/-- What joins an operation in one multi-plane operation: on each other plane the first program that is queued, when it
is of the same page index and region, and the first erase, when it is of the same region (R64, R120). -/
def joinedWith (s : State) (d : Die) : ArrayOp → List ArrayOp
  | .program p => match progPlace s p with
    | none => []
    | some (pl, page, slc) => (otherPlanes s pl).filterMap fun x =>
      match (d.progQ.take 16).find? fun c => (progPlace s c).any fun y => y.1 = x with
      | some c => if progPlace s c = some (x, page, slc) then some (.program c) else none
      | none => none
  | .erase n => (otherPlanes s (entryPlane s n)).filterMap fun x =>
      match d.eraseQ.find? fun e => entryPlane s e = x with
      | some e => if inCarrel s e = inCarrel s n then some (.erase e) else none
      | none => none
  | .reads _ => []

/-- The result of the operation in progress on one plane has been read; the next plane's follows, and with the last the
die is free. -/
def nextPlane (d : Die) : Die := { d with op := d.joined.head?, joined := d.joined.tail, cycles := statusCycles }

/-- The suspend cap in force for an operation. -/
def capOf (s : State) : ArrayOp → Nat
  | .program _ => fld s 0x644
  | .erase _ => fld s 0x648
  | .reads _ => 0

/-- Programs of a die that is held or retired are returned as failed (R131, R133). -/
def returnPrograms (ch t : Nat) (s : State) : State :=
  match dieAt s ch t with
  | none => s
  | some d =>
    let s1 := modDie ch t (fun x => { x with progQ := [] }) s
    d.progQ.foldl (fun u p => failUnit ch t p [] u) s1

/-- ARRAY_OP_ISSUE. -/
def execArrayOpIssue (channel target : Nat) (s : State) : Outcome :=
  .next (match dieAt s channel target with
    | none => s
    | some d =>
      if ! tilesRun s || s.mode.gates.tiles.contains channel then s
      else if ! dieServes s channel target && s.mode.mode != .coast then
        if d.progQ.isEmpty then s else resumeAll (returnPrograms channel target s)
      else if ! dieTakes s d || d.op.isSome || (! d.readQ.isEmpty && (limited1 d).isNone) then s
      else
        let t := calibrateFirst channel target s
        if zqWaits t channel target then t
        else match nextArrayOp t d with
          | none => t
          | some o =>
            let more := joinedWith t d o
            modDie channel target (beginOp o more (capOf t o) (opCycles t channel (o :: more))) t)

/-- When the member erase at the head of the queue joined it. -/
def eraseAt (s : State) (e : Nat) : Nat :=
  match s.blk.erases.find? fun j => j.entry = e with
  | some j => j.atUs
  | none => 0

/-- The program or erase that has waited longest. -/
def longestWait (s : State) (d : Die) : Option ArrayOp :=
  match d.progQ.head?, d.eraseQ.head? with
  | some p, some e => some (if eraseAt s e < p.atUs then .erase e else .program p)
  | some p, none => some (.program p)
  | none, some e => some (.erase e)
  | none, none => none

/-- ISSUE_LIMIT_EXPIRY: the program or erase that has waited longest has waited for the issue limit. -/
def execIssueLimitExpiry (channel target : Nat) (s : State) : Outcome :=
  .next (match dieAt s channel target with
    | none => s
    | some d => if (longestWait s d).isNone || (limited1 d).isSome || s.mode.mode = .coast then s
      else modDie channel target (fun x => { x with limitNext := longestWait s d }) s)

/-- ERASE_WAIT_EXPIRY: an erase has waited 50 ms. -/
def execEraseWaitExpiry (channel target : Nat) (s : State) : Outcome :=
  .next (match dieAt s channel target with
    | none => s
    | some d => if d.eraseQ.isEmpty || s.mode.mode = .coast then s
      else modDie channel target (fun x => { x with eraseNext := true }) s)

/-- The pages of a unit count in log page C0h (Table 16.8). -/
def countPages (s : State) (r : OpenRow) : State :=
  if inCarrel s r.entry then { s with wr := { s.wr with carrelPages := sat64 (s.wr.carrelPages + 1) } }
  else { s with wr := { s.wr with stacksPages := sat64 (s.wr.stacksPages + 4) } }

/-- The unit's cards are programmed: no write waits for them any more. -/
def pagesDone (ppas : List Ppa) (s : State) : State :=
  { s with
    nv := { s.nv with
      cmds := s.nv.cmds.map fun c => { c with needPpa := c.needPpa.filter fun p => ! ppas.contains p } }
    coast := { s.coast with drainLeft := s.coast.drainLeft.filter fun p => ! ppas.contains p } }

/-- A program ends with success outside Coast: the row, its block stripe and what waits for the cards go on;
a fold row waits for its own event (R78). -/
def programOk (p : ProgReq) (s : State) : State :=
  match rowAt s p.row with
  | none => s
  | some r =>
    let ppas := if unitData (inCarrel s r.entry) p.unit < 64 then unitPpas s r p.unit else []
    let s1 := settleRow p.row (pagesDone ppas (programEnds p (countPages s r)))
    let s2 := if 2 ≤ r.engine && r.engine ≤ 4 then finishRow p.row s1 else s1
    shutdownAdvance (resumeAll (freeTransit s2))

/-- A row of Coast whose programs have all ended leaves; nothing else is written. -/
def coastRow (row : Nat) (s : State) : State :=
  match rowAt s row with
  | none => s
  | some r => if rowDone s r then endRow r s else s

/-- PAGE_PROGRAM_DONE. -/
def execPageProgramDone (channel target : Nat) (s : State) : Outcome :=
  .next (match dieAt s channel target with
    | none => s
    | some d => match d.op with
      | some (.program p) =>
        if d.resetting then s
        else
          let s1 := modDie channel target nextPlane s
          if s.mode.mode = .coast then coastRow p.row (programEnds p s1) else programOk p s1
      | _ => s)

/-- The end of a program that failed in Coast: it is not retried, and its page does not decode at the next start. P and Q
still take its payloads (R173). -/
def coastFail (p : ProgReq) (s : State) : State :=
  match rowAt s p.row with
  | none => s
  | some r => coastRow p.row (endUnit r p.unit true s)

/-- PROGRAM_FAIL (R149). -/
def execProgramFail (channel target : Nat) (picks : List Nat) (s : State) : Outcome :=
  .next (match dieAt s channel target with
    | none => s
    | some d => match d.op with
      | some (.program p) =>
        if d.resetting then s
        else
          let s1 := modDie channel target nextPlane s
          if s.mode.mode = .coast then coastFail p s1
          else shutdownAdvance (resumeAll (failUnit channel target p picks s1))
      | _ => s)

/-! ## Suspends (R123 to R125) -/

/-- Suspend cap and minimum run of the operation in progress; none when it is a read. -/
def suspendRule (s : State) (d : Die) : Option (Nat × Nat) :=
  match d.op, profileOf s d.channel with
  | some (.program _), some g => some (d.cap, g.minRunProg)
  | some (.erase _), some g => some (d.cap, g.minRunErase)
  | _, _ => none

/-- The class 0 reads of a queue, at most 8, and the queue without them. -/
def class0 (l : List ReadReq) : List ReadReq := (l.filter fun r => r.cls = 0).take 8

/-- A suspend is issued: the class 0 reads now in the queue, at most 8, will be read in it. -/
def suspendDie (d : Die) : Die :=
  { d with
    cycles := suspendCycles d.op, suspending := true, suspends := d.suspends + 1, suspReads := class0 (readsSeen d)
    readQ := (class0 (readsSeen d)).foldl (fun q r => dropFirst (fun x => x = r) q) d.readQ }

/-- A counter of a channel rises. -/
def bumpSusp (ch : Nat) (s : State) : State := modChan ch (fun c => { c with susp := sat32 (c.susp + 1) }) s
def bumpCapped (ch : Nat) (s : State) : State :=
  modChan ch (fun c => { c with capped := sat32 (c.capped + 1) }) s

/-- READ_WAIT_LIMIT_EXPIRY: a class 0 read has waited for the read wait limit behind the operation. -/
def execReadWaitLimitExpiry (channel target ranUs : Nat) (s : State) : Outcome :=
  .next (match dieAt s channel target with
    | none => s
    | some d =>
      if ! dieTakes s d || (class0 (readsSeen d)).isEmpty || s.mode.mode = .coast then s
      else match suspendRule s d with
        | none => s
        | some (cap, run) =>
          if d.suspends < cap then
            if run ≤ ranUs then bumpSusp channel (modDie channel target suspendDie s) else s
          else bumpCapped channel s)

/-- A read of a suspension is issued, with its mode, offsets and soft level (R110, R122). -/
def issueSuspended (s : State) (d : Die) (r : ReadReq) : Die :=
  let offs := readOffsets s r.ppa r.why
  { d with cycles := d.cycles ++ readCycles s (offs != d.offsets) r, offsets := offs }

/-- SUSPEND_READY: the die is ready; the reads of the suspension are issued. -/
def execSuspendReady (channel target : Nat) (s : State) : Outcome :=
  .next (match dieAt s channel target with
    | none => s
    | some d =>
      if ! d.suspending || d.resetting then s
      else modDie channel target (fun x =>
        { x.suspReads.foldl (issueSuspended s) { x with cycles := [] } with
          suspending := false, suspended := x.op, op := some (.reads x.suspReads), suspReads := [] }) s)

/-- SUSPENDED_READS_DONE: the operation is resumed. -/
def execSuspendedReadsDone (channel target : Nat) (s : State) : Outcome :=
  .next (match dieAt s channel target with
    | none => s
    | some d =>
      if d.suspended.isNone || ! (readsOn d).isEmpty || d.resetting then s
      else modDie channel target (fun x => { x with
        cycles := resumeCycles x.suspended, op := x.suspended, suspended := none }) s)

/-! ## Die timeouts (R131, R132) -/

/-- The operation of a DIE_TIMEOUT record: 0 read, 1 program, 2 erase. -/
def opCode : ArrayOp → Nat
  | .reads _ => 0
  | .program _ => 1
  | .erase _ => 2

/-- Reads are returned as unavailable: they go on by die-stripe reconstruction. -/
def unavailable (rs : List ReadReq) (s : State) : State :=
  rs.foldl (fun t r => endRead r .unavailable false t) s

/-- The programs among operations, as requests. -/
def programsOf (l : List (Option ArrayOp)) : List ProgReq :=
  l.filterMap fun o => match o with
    | some (.program p) => some p
    | _ => none

/-- The operations that a die has begun: the one in progress or suspended, and its other planes. -/
def begun (d : Die) : List (Option ArrayOp) := [d.op, d.suspended] ++ d.joined.map some

/-- The die is held, its queued reads are returned, Reset LUN is issued; a suspended erase goes back to the
head of the erase queue. -/
def holdDie (now : Nat) (d : Die) : Die :=
  { d with
    cycles := [0xFA], held := true, resetting := true, timedOut := d.op, op := none, suspended := none, suspending := false
    readQ := [], suspReads := [], progQ := [], suspends := 0, caching := false, lastPage := none
    joined := if d.suspended.isSome then [] else d.joined.filter fun o => ! (abortedErase (some o)).isEmpty
    eraseQ := abortedErase d.suspended
      ++ (if d.suspended.isSome then d.joined.flatMap fun o => abortedErase (some o) else []) ++ d.eraseQ
    toutAt := d.toutAt ++ [now] }

/-- DIE_TIMEOUT: the array operation of the die has shown busy for twice its maximum time. -/
def execDieTimeout (channel target : Nat) (s : State) : Outcome :=
  .next (match dieAt s channel target with
    | none => s
    | some d => match d.op with
      | none => s
      | some o =>
        if d.resetting || ! tilesRun s then s
        else
          let s1 := modDie channel target (holdDie s.clock.us) s
          let s2 := modChan channel (fun c => { c with
            tout := sat32 (c.tout + 1)
            toutAt := (c.toutAt.filter fun x => decide (s.clock.us ≤ 100000 + x.2)) ++
              [(target, s.clock.us)] }) s1
          let s3 := record 0x0103 [(1, channel), (1, target), (1, opCode o)] (countC1 14 s2)
          if s.mode.mode = .coast then
            (programsOf (begun d) ++ d.progQ).foldl (fun t p => coastFail p t) s3
          else
            let s4 := unavailable (d.readQ ++ d.suspReads) s3
            let back := programsOf (begun d) ++ d.progQ
            resumeAll (back.foldl (fun t p => failUnit channel target p [] t) s4))

/-- Timeouts of the die within the die timeout window have reached the die timeout count. -/
def tooMany (s : State) (d : Die) : Bool :=
  decide (fld s 0x658 ≤ (d.toutAt.filter fun t => decide (s.clock.us ≤ t + 1000000 * fld s 0x65C)).length)

/-- A failed member erase joins the job of its block stripe (R100). -/
def eraseFailed (entry ch t : Nat) (s : State) : State :=
  { s with blk := { s.blk with
      erases := s.blk.erases.map fun j =>
        if j.entry = entry then { j with failed := j.failed ++ (slotOf s ch t).toList } else j } }

/-- The operation that timed out is counted: an erase, of every plane it runs on, as a failed erase, reads as
unavailable. -/
def settleTimeout (d : Die) (s : State) : State :=
  match d.timedOut with
  | some (.erase e) => (e :: d.joined.flatMap fun o => abortedErase (some o)).foldl
      (fun t n => eraseFailed n d.channel d.target t) s
  | some (.reads rs) => unavailable rs s
  | _ => s

/-- RESET_LUN_DONE: the die is ready within its maximum; it is released unless R132 or a channel fault keeps
it held. -/
def execResetLunDone (channel target : Nat) (s : State) : Outcome :=
  .next (match dieAt s channel target, chanAt s channel with
    | some d, some c =>
      if ! d.resetting then s
      else
        let keep := tooMany s d || c.held
        settleTimeout d (modDie channel target (fun x => { x with
          resetting := false, timedOut := none, joined := [], held := keep }) s)
    | _, _ => s)

/-- DIE_NOT_ANSWERING: a held die is retired with reason 2; cause 2 holds only at the timeout count. -/
def execDieNotAnswering (channel target cause : Nat) (s : State) : Outcome :=
  .next (match dieAt s channel target with
    | none => s
    | some d =>
      if ! d.held || decide (2 < cause) || (cause = 2 && ! tooMany s d) || s.mode.mode = .coast
          || ! tilesRun s then s
      else
        let s1 := settleTimeout d (modDie channel target (fun x => { x with
          resetting := false, timedOut := none, joined := [] }) s)
        resumeAll (settleChannel channel (askRetire channel target 2 s1)))

/-! ## CHANNEL_FAULT (R134, R128) -/

/-- Dies on two CE# targets have timed out within 100 ms of one another. -/
def faultSeen (c : Channel) : Bool :=
  c.toutAt.any fun a => c.toutAt.any fun b =>
    ceOf a.1 != ceOf b.1 && decide (a.2 ≤ 100000 + b.2) && decide (b.2 ≤ 100000 + a.2)

/-- Data rate of a timing set (Table 5.2). -/
def setRate (n : Nat) : Nat := if n = 0 then 0 else 2000 + 400 * n

/-- Every die of the channel is held; a die in progress is reset as on a timeout of its own. -/
def holdChannel (ch : Nat) (s : State) : State :=
  let ds := s.fl.dies.filter fun d => d.channel = ch && ! d.held
  let s1 : State := { s with fl := { s.fl with
    dies := s.fl.dies.map fun d => if d.channel = ch && ! d.held then
        { holdDie s.clock.us d with
          toutAt := d.toutAt, resetting := false, timedOut := none, joined := []
          eraseQ := (begun d).flatMap abortedErase ++ d.eraseQ }
      else d } }
  let s2 := ds.foldl (fun t d => unavailable (readsOn d ++ d.readQ ++ d.suspReads) t) s1
  ds.foldl (fun t d => (programsOf (begun d) ++ d.progQ).foldl
    (fun u p => failUnit ch d.target p [] u) t) s2

/-- The targets of a channel that are reset, identified and switched to a timing set (R111). -/
def switched (c : Channel) (set : Nat) (missing : List Nat) : List (Nat × Nat) :=
  ((List.range 32).filter fun t => c.inForce.present.getLsbD t && ! missing.contains t).map fun t => (t, set)

/-- Full training issues ZQ Calibration Long to every CE# target with a die; its mean temperature is kept, that of the
training where none of its dies has been read yet (R126, R127). -/
def zqLong (s : State) (c : Channel) (ch : Nat) (temp : Int) : List (Nat × Int) :=
  (((List.range 32).filter fun t => c.inForce.present.getLsbD t).map ceOf).eraseDups.map fun ce =>
    (ce, (meanTemp (ceDies s ch ce)).getD temp)

/-- What the sequencer issues to the targets of a channel that is opened: reset, identification and the switch, and with
`train` full training (R111, R127). -/
def openChannel (ch : Nat) (train : Bool) (s : State) : State :=
  { s with fl := { s.fl with dies := s.fl.dies.map fun d =>
      if d.channel = ch && ! dieRetired s ch d.target then
        { d with cycles := openCycles ++ if train then trainCycles else [] } else d } }

/-- A target passes the criterion of R127: every read eye and the write window at least 24/64 UI wide. -/
def centrePasses (c : CeTrain) : Bool := decide (24 ≤ c.eyeWidth) && decide (24 ≤ c.wrWidth)

/-- Every CE# target with a serving die that answers has a result that passes. -/
def sweepPasses (s : State) (ch : Nat) (missing : List Nat) (centres : List CeTrain) : Bool :=
  (s.fl.dies.filter fun d => d.channel = ch && ! dieRetired s ch d.target && ! missing.contains d.target).all fun d =>
    centres.any fun c => c.ce = ceOf d.target && centrePasses c

/-- The timing set at which full training of a channel from set `top` down has passed: every target passes there; 0 when
none does (R127, R128). -/
def trainedSet (s : State) (r : TrainResult) (top : Nat) : Nat :=
  if sweepPasses s r.channel r.missing r.centres then min r.set top else 0

/-- New training results of a channel at `set`, put in force by a Roster sync; its targets were reset and switched. -/
def takeTraining (r : TrainResult) (set : Nat) (s : State) : State :=
  changeRoster r.channel (fun x => { x with
    timingSet := set, dataRate := setRate set, trainTemp := r.temp, training := r.centres
    trainTime := s.clock.opMs, trainCount := min 255 (x.trainCount + 1) })
    (modChan r.channel (fun c => { c with
      iface := switched c set r.missing, zqTemp := zqLong s c r.channel r.temp, zqDue := [], retrainNext := false }) s)

/-- The dies that were held by the channel fault are released; those that R132 keeps stay held. -/
def releaseChannel (ch : Nat) (s : State) : State :=
  modChan ch (fun c => { c with held := false, toutAt := [] })
    { s with fl := { s.fl with dies := s.fl.dies.map fun d =>
        if d.channel = ch && ! d.resetting && ! tooMany s d then { d with held := false } else d } }

/-- CHANNEL_FAULT: the channel is retrained from its present set; it passes at `r.set`, or is retired. -/
def execChannelFault (channel : Nat) (r : TrainResult) (s : State) : Outcome :=
  .next (match chanAt s channel with
    | none => s
    | some c =>
      if ! faultSeen c || s.mode.mode = .coast || ! tilesRun s || r.channel != channel then s
      else
        let s1 := openChannel channel true
          (modChan channel (fun x => { x with held := true, iface := [] }) (holdChannel channel s))
        let set := trainedSet s r c.inForce.timingSet
        if set = 0 then resumeAll (retireChannelDies channel 3 s1)
        else
          let s2 := if set = c.inForce.timingSet then s1
            else record 0x0102 [(1, channel), (1, c.inForce.timingSet), (1, set)] s1
          let s3 := releaseChannel channel (takeTraining r set s2)
          resumeAll (settleChannel channel (r.missing.foldl (fun t x => askRetire channel x 2 t) s3)))

/-! ## Temperature, re-centring (R122, R126, R130) -/

/-- ZQ_INTERVAL_EXPIRY. -/
def execZqIntervalExpiry (channel ce : Nat) (s : State) : Outcome :=
  .next (if tilesRun s && ! (ceDies s channel ce).isEmpty then askCalibrate channel ce s else s)

/-- The mean has moved by 10 °C or more since the last calibration. -/
def zqMoved (s : State) (ch ce : Nat) : Bool :=
  match chanAt s ch with
  | none => false
  | some c => match mapGet ce c.zqTemp, meanTemp (ceDies s ch ce) with
    | some t, some m => decide (10 ≤ (m - t).natAbs)
    | _, _ => false

/-- DIE_TEMP_READ: by Get Features (R122). -/
def execDieTempRead (channel target : Nat) (temp : Int) (s : State) : Outcome :=
  .next (if ! tilesRun s then s
    else
      let s1 := modDie channel target (fun d => { d with
        temp := temp, tempRead := true, cycles := tempCycles s channel }) s
      if zqMoved s1 channel (ceOf target) then askCalibrate channel (ceOf target) s1 else s1)

/-- The mean temperature of a channel has moved by the re-centring step from TRAIN_TEMP. -/
def recentreDue (s : State) (ch : Nat) (c : Channel) : Bool :=
  match meanTemp (s.fl.dies.filter fun d => d.channel = ch && ! dieRetired s ch d.target) with
  | some m => decide (fld s 0x654 ≤ (m - c.inForce.trainTemp).natAbs)
  | none => false

/-- New centres of the swept targets. -/
def mergeCentres (new old : List CeTrain) : List CeTrain :=
  new ++ old.filter fun c => ! new.any fun x => x.ce = c.ce

/-- RECENTRE_SWEEP: new centres by a Roster sync, or, when a target fails, a record and full training at the
next boot. -/
def execRecentreSweep (channel : Nat) (centres : List CeTrain) (temp : Int) (s : State) : Outcome :=
  .next (match chanAt s channel with
    | none => s
    | some c =>
      if ! serving s || ! recentreDue s channel c then s
      else if sweepPasses s channel [] centres then
        changeRoster channel (fun x => { x with trainTemp := temp, training := mergeCentres centres x.training }) s
      else modChan channel (fun x => { x with retrainNext := true })
        (record 0x0105 [(1, channel), (2, c.inForce.generation), (1, 1)] s))

/-! ## Roster syncs (R117, R118) -/

/-- ROSTER_SYNC: the Librarian writes the entry with its live fields and issues the sync write. -/
def execRosterSync (channel : Nat) (s : State) : Outcome :=
  .next (if tilesRun s && s.lib.state = 0 then
    changeRoster channel (fun r => r) s else s)

/-- What a sync load puts in force: everything but what the tile loaded at boot. -/
def loadRoster (c : Channel) : Channel :=
  { c with
    sync := false
    iface := c.iface.map fun x => (x.1, c.copy.timingSet)
    inForce := { c.copy with
      present := c.inForce.present, dieProfile := c.inForce.dieProfile, ldpc := c.inForce.ldpc } }

/-- Retire commands whose retirements are now in force on the channel complete with its GENERATION (R239). -/
def retireDone (channel : Nat) (s : State) : State :=
  let mine := fun (c : Cmd) => c.qid = 0 && c.phase = .running && c.e.opcode = 0xC4
    && bitsOf c.e.dw10 13 8 = channel
  let gen := match chanAt s channel with | some c => c.inForce.generation | none => 0
  (slotsWhere mine s).foldl (fun t n => finishOk n gen t) s

/-- ROSTER_LOAD: at the operation boundary the tile loads the entry; a CRC failure leaves the old one in
force and is recorded. -/
def execRosterLoad (channel : Nat) (crcOk : Bool) (s : State) : Outcome :=
  .next (match chanAt s channel with
    | none => s
    | some c =>
      if ! c.sync || ! tilesRun s then s
      else if crcOk then retireDone channel (modChan channel loadRoster s)
      else record 0x0105 [(1, channel), (2, c.copy.generation), (1, 0)]
        (modChan channel (fun x => { x with sync := false }) s))

end Sys2Proof.Machine
end

