-- ==== Sys2Proof/Machine/Ladder.lean ====
section
/-! DEFINITION. The recovery ladder (R142 to R149, R154 to R156, R159, R452): its steps, the rebuild within a die
stripe, and fox marks. -/

namespace Sys2Proof.Machine

/-! ## Cards of a codeword -/

/-- The shelf and card that the Catalogue still maps at `ppa`. -/
def ownerOf (s : State) (ppa : Ppa) : Option (Nat × Nat) :=
  match ppaEntry s ppa with
  | none => none
  | some n => ((mapAt [] n s.blk.lists).find? fun x => posPpa s n x.1 = ppa
      && match mapped s x.2.1 x.2.2 with
        | some (p, _, _) => p = ppa
        | none => false).map fun x => (x.2.1, x.2.2)

/-- A codeword of a P or Q page. -/
def isParity (s : State) (ppa : Ppa) : Bool :=
  match ppaEntry s ppa with
  | none => false
  | some n => match ppaUnit s n ppa with
    | some u => decide (64 ≤ u)
    | none => false

/-- The codeword leaves its context; stalled decoders take the entries it frees (R151). -/
def dropWord (ppa : Ppa) (s : State) : State :=
  match ctxOf s ppa with
  | none => s
  | some c =>
    let t := modCtx (ctxKey c) (fun x => { x with words := x.words.filter fun w => w.ppa != ppa }) s
    admitStalled (t.esc.stalled.length + 1) t

/-- A move engine takes the card up again. -/
def handBack (ppa : Ppa) (s : State) : State :=
  { s with wr := { s.wr with handed := s.wr.handed.filter fun p => p != ppa } }

/-- The requests of one codeword in the order of their command slots: commands that complete together are ordered so
(R218). -/
def bySlot (l : List ReadFor) : List ReadFor :=
  let key := fun (y : ReadFor) => match y with
    | .host slot _ _ => slot
    | .merge slot _ _ _ _ => slot
    | _ => 0
  sortBy (fun a b => decide (key a < key b)) l

/-- A recovered codeword goes to every request that waits for it. -/
def serveWord (w : LadderWord) (s : State) : State :=
  inSlotOrder (fun u => handBack w.ppa ((bySlot w.why).foldl (fun t y => serveRead w.ppa y t) (dropWord w.ppa u))) s

/-- A soft read of a die block counts (Table 4.4). -/
def countSoft (p : Ppa) (s : State) : State :=
  let k := (ppaChannel p, ppaTarget p, ppaPlane p, ppaBlock p)
  { s with blk := { s.blk with
      softReads := if s.blk.softReads.any (fun x => x.1 = k) then
          modWhere (fun x => x.1 = k) (fun x => (x.1, x.2 + 1)) s.blk.softReads
        else s.blk.softReads ++ [(k, 1)] } }

/-! ## Steps 3 to 5 (R142, R143, R146) -/

/-- The step after a failed one; with the budget elapsed the ladder goes to step 6. -/
def stepAfter (s : State) (w : LadderWord) : Nat :=
  match ctxOf s w.ppa with
  | some c => if c.budget then 6 else w.step + 1
  | none => w.step + 1

/-- The codeword goes on at step `n`, whose read is issued. -/
def goToStep (n : Nat) (ppa : Ppa) (s : State) : State :=
  ladderRead ppa (modWord ppa (fun x => { x with step := n, tries := 0, result := none }) s)

/-- The reads and decodes of step 3, 4 or 5 have ended; a codeword whose read is still out waits for it. -/
def retryStep (w : LadderWord) (s : State) : State :=
  match w.result with
  | none => ladderRead w.ppa s
  | some .unavailable => goToStep 6 w.ppa s
  | some .fail => goToStep (stepAfter s w) w.ppa (if 4 ≤ w.step then countSoft w.ppa s else s)
  | some (.ok ..) =>
    let s1 := if 4 ≤ w.step then countSoft w.ppa s else s
    let s2 := if w.step = 3 then driftRetry w.ppa (retryOffsets s1 w.ppa (w.tries - 1)) s1 else s1
    serveWord w (countStep w.step s2)

/-! ## Step 6 (R147 to R149, R452) -/

/-- The codewords of a position of a die stripe: data index, or 64 for P and 65 for Q, and PPA. -/
def stripePpas (s : State) (n page slot : Nat) : List (Nat × Ppa) :=
  (List.range (dataWidth s n) ++ [64, 65]).filterMap fun j => match unitDie s n j with
    | some d => some (j, mkPpa d.channel d.target (entryPlane s n) (entryBlock s n) page slot)
    | none => none

/-- The open row of a block stripe that holds page `page`. -/
def rowOfPage (s : State) (n page : Nat) : Option OpenRow :=
  s.wr.rows.find? fun r => r.entry = n && r.page ≤ page && decide (page < r.page + 4)

/-- A payload: the sectors of a card or of P or Q, and the metadata they go with. -/
def cardPayload (x : Stored) : List Nat × Nat := (x.data, packMeta x.md)

/-- P or Q of an open row, from its accumulator (R149). -/
def openParity (s : State) (n page slot : Nat) (q : Bool) : Option (List Nat × Nat) :=
  (rowOfPage s n page).map fun r => parityOf q ((List.range (dataWidth s n)).map fun j =>
    cardFor s r.stream (posPpa s n (posOf (dataWidth s n) page j slot)))

/-- What stands at a codeword of a position: a card in transit or on flash, or P or Q on flash or in its
accumulator. -/
def payloadAt (s : State) (n page slot : Nat) (x : Nat × Ppa) : Option (List Nat × Nat) :=
  if x.1 < 64 then
    match cardAt s x.2 with
    | some c => some (cardPayload c)
    | none => (rowOfPage s n page).map fun r => cardPayload (padCard r.stream)
  else match mapGet x.2.toNat s.wr.parity with
    | some y => some y
    | none => openParity s n page slot (x.1 = 65)

/-- The codeword needs no read: it is in transit, in an accumulator, or not programmed yet. -/
def notOnFlash (s : State) (x : Nat × Ppa) : Bool :=
  if x.1 < 64 then (transitAt s x.2).isSome || (mapGet x.2.toNat s.wr.flash).isNone
  else (mapGet x.2.toNat s.wr.parity).isNone

/-- The codewords of the present context that are unrecovered. -/
def stripeWords (s : State) (ppa : Ppa) : List LadderWord :=
  match ctxOf s ppa with
  | some c => c.words
  | none => []

/-- The codeword is unknown: it is in the context, or nothing can give it. -/
def unknownAt (s : State) (w : LadderWord) (n : Nat) (x : Nat × Ppa) : Bool :=
  (stripeWords s w.ppa).any (fun y => y.ppa = x.2)
    || (payloadAt s n (ppaPage w.ppa) (ppaSlot w.ppa) x).isNone

/-- A companion that is neither known nor unknown yet. -/
def openCompanion (s : State) (w : LadderWord) (n : Nat) (x : Nat × Ppa) : Bool :=
  x.2 != w.ppa && ! unknownAt s w n x && ! notOnFlash s x && ! w.known.contains x.2

/-- Companion reads that are not under way are issued, each with its own steps 1 to 5 (R147). -/
def readCompanions (w : LadderWord) (l : List (Nat × Ppa)) (s : State) : State :=
  l.foldl (fun t x =>
    if readUnderWay (fun q y => q = x.2 && y = .comp w.ppa) t then t
    else queueRead { ppa := x.2, cls := w.cls, why := .comp w.ppa } t) s

/-- The data payloads of a position, P and Q, unknown where `gone` says so. -/
def solvePosition (s : State) (n page slot : Nat) (gone : Nat × Ppa → Bool) : Option (List (List Nat × Nat)) :=
  let l := stripePpas s n page slot
  let at1 := fun (j : Nat) => match l.find? fun x => x.1 = j with
    | some x => if gone x then none else payloadAt s n page slot x
    | none => none
  let data := (List.range (dataWidth s n)).map at1
  match solveCards (data.map fun x => x.map fun y => y.1) ((at1 64).map fun y => y.1) ((at1 65).map fun y => y.1),
    solveCards (data.map fun x => x.map fun y => [y.2]) ((at1 64).map fun y => [y.2])
      ((at1 65).map fun y => [y.2]) with
  | some a, some b => some (a.zip (b.map fun y => natAt y 0))
  | _, _ => none

/-- The rebuilt payload of a codeword passes its shelfmark check: it is what was written there, under the NSID and card
LBA by which every request knows it (R147, R160). -/
def rebuiltOk (s : State) (w : LadderWord) (j : Nat) (out : List (List Nat × Nat)) : Bool :=
  match mapGet w.ppa.toNat s.wr.flash, out[j]? with
  | some x, some y => y = cardPayload x && wordPasses s w
  | _, _ => false

/-- The data codewords of the context at the position of `w`, with their data indexes. -/
def lostData (s : State) (w : LadderWord) (n : Nat) : List (Nat × LadderWord) :=
  (stripePpas s n (ppaPage w.ppa) (ppaSlot w.ppa)).filterMap fun x =>
    if 64 ≤ x.1 then none else ((stripeWords s w.ppa).find? fun y => y.ppa = x.2).map fun y => (x.1, y)

/-- The unknown payloads of a position are rebuilt, through P and, where that fails for one, through Q alone; false when
a payload fails its check or more than two are unknown (R147). -/
def solves (s : State) (w : LadderWord) (n : Nat) : Bool :=
  let page := ppaPage w.ppa
  let slot := ppaSlot w.ppa
  let lost := lostData s w n
  let ok := fun (gone : Nat × Ppa → Bool) => match solvePosition s n page slot gone with
    | some out => lost.all fun x => rebuiltOk s x.2 x.1 out
    | none => false
  ok (unknownAt s w n) || (lost.length = 1 && ok fun x => x.1 = 64 || unknownAt s w n x)

/-- A rebuild counts once, not again while its card waits for a place. -/
def countRebuild (w : LadderWord) (s : State) : State :=
  if w.why.isEmpty && w.step = 6 then s
  else countStep 6 { s with esc := { s.esc with sticky := s.esc.sticky ||| 0x2 } }

/-- The requests of a codeword are served, and the codeword stays at step 6. -/
def serveHeld (w : LadderWord) (s : State) : State :=
  modWord w.ppa (fun y => { y with step := 6, why := [] })
    (inSlotOrder (fun u => handBack w.ppa ((bySlot w.why).foldl (fun t y => serveRead w.ppa y t) u)) s)

/-- A card rebuilt at step 6 goes to its requests and is written again in the weeding stream; without a place for it
there its codeword stays, its requests served (R148). -/
def rebuildWord (w : LadderWord) (pick : Nat) (s0 : State) : State :=
  let s := countRebuild w s0
  match ownerOf s w.ppa, mapGet w.ppa.toNat s.wr.flash with
  | some (sh, i), some x => match rewriteCard sh i w.ppa x pick (touchSegment sh s) with
    | some (_, t) => serveWord w t
    | none => stallRow 1 (fun t => (rewriteCard sh i w.ppa x pick t).isSome) (serveHeld w (touchSegment sh s))
  | _, _ => serveWord w s

/-- Every codeword of the position has ended step 5. -/
def pastFive (s : State) (w : LadderWord) : Bool :=
  ((stripeWords s w.ppa).filter fun x => ppaSlot x.ppa = ppaSlot w.ppa).all fun x => decide (6 ≤ x.step)

/-- Step 6 of a codeword: its die block is retired at the next erase (Table 4.4), its companions are read, and once each
is known or unknown the position is rebuilt, or past step 5 of every codeword of it each unknown data payload goes to
step 7. A P or Q codeword stays while a data codeword of its position needs it. -/
def rebuildStep (w : LadderWord) (pick : Nat) (s0 : State) : State :=
  match ppaEntry s0 w.ppa with
  | none => serveWord w s0
  | some n =>
    let s := forceVictim n (slotOf s0 (ppaChannel w.ppa) (ppaTarget w.ppa)) s0
    let lost := lostData s w n
    if isParity s w.ppa then (if lost.isEmpty then serveWord w s else s)
    else if ! lost.any (fun x => x.2.ppa = w.ppa) then modWord w.ppa (fun y => { y with step := 7 }) s
    else
      let l := stripePpas s n (ppaPage w.ppa) (ppaSlot w.ppa)
      let todo := l.filter fun x => openCompanion s w n x
      if ! todo.isEmpty then readCompanions w todo s
      else if solves s w n then lost.foldl (fun t x => rebuildWord x.2 pick t) s
      else if pastFive s w then lost.foldl (fun t x => modWord x.2.ppa (fun y => { y with step := 7 }) t) s
      else s

/-! ## Step 7 (R155, R159) -/

/-- The card entry that a lost shelf page or segment leaves: valid, fox-marked, naming no card. -/
def lostCard : CardEntry := { ppa := 0, age := 0, fox := true, valid := true }

/-- A shelf of a lost shelf page becomes fine, all 16 entries valid and fox-marked. -/
def loseShelf (shelf : Nat) (s : State) : State :=
  putShelf shelf
    (withSegment { newSegment shelf (shelfNsid s shelf) with cards := List.replicate 16 lostCard }) s

/-- The shelf page that the card at `ppa` belongs to. -/
def pageAt (s : State) (ppa : Ppa) : Option Nat :=
  (s.cat.index.find? fun e => e.2.state = 1 &&
    [0, 1, 2, 3].any fun i => runCard e.2.ppa i = ppa).map fun e => e.1

/-- The segments that a lost segment card holds. -/
def segmentsAt (s : State) (ppa : Ppa) : List Segment :=
  s.cat.segs.filter fun g => g.locator = ppa && g.flashed

/-- Marks that are set together count one by one (R163, R226). -/
def countLost (n : Nat) (s : State) : State :=
  { s with
    esc := { s.esc with foxSet := sat32 (s.esc.foxSet + n) }
    nv := { s.nv with c1 := modAt 9 (fun c => sat64 (c + n)) s.nv.c1 } }

/-- The marks of a lost segment: FOX_SET records of its valid cards, then the marks (R43, R159). -/
def loseSegment (g : Segment) (s : State) : State :=
  let mine := (List.range 16).filterMap fun i => match g.cards[i]? with
    | some c => if c.valid then some (i, c.ppa) else none
    | none => none
  let s1 := mine.foldl (fun t x => append (cardRec 0x7 g.shelf x.1 0 x.2 0) t) s
  modSeg g.shelf (fun y => { y with dirty := true, cards := y.cards.map fun (c : CardEntry) =>
      if c.valid then { c with fox := true } else c }) (countLost mine.length s1)

/-- The records of the marks of a lost shelf. -/
def markShelf (shelf : Nat) (s : State) : State :=
  (List.range 16).foldl (fun u k => append (cardRec 0x7 shelf k 0 0 0) u) s

/-- Shelf `i` of a lost shelf page. -/
def loseSlot (c : Nat) (s : State) (i : Nat) : State := loseShelf (2048 * c + i) (markShelf (2048 * c + i) s)


/-- The marks of a lost shelf page: 16 cards of each of its shelves. -/
def losePage (c : Nat) (s : State) : State :=
  modIndex c (fun e => { e with loaded := true, dirty := true })
    (countLost 32768 ((List.range 2048).foldl (loseSlot c) s))

/-- A system card is lost: every card it describes is fox-marked, and a record names it. -/
def loseSystem (ppa : Ppa) (s : State) : State :=
  let s1 := match pageAt s ppa with
    | some c => losePage c s
    | none => (segmentsAt s ppa).foldl (fun t g => loseSegment g t) s
  record 0x0202 [(1, 0), (8, ppa.toNat), (1, 4)]
    { s1 with esc := { s1.esc with sticky := s1.esc.sticky ||| 0x8 } }

/-- The payload of a replacement card: the last decode attempt's output, which is open, or zeros. -/
def lostPayload (s : State) (w : LadderWord) : List Nat := if w.decoded then openCard s else zeroCard

/-- The replacement card of a codeword that is lost; its payload passes no cipher core (R155, Table 3.1). -/
def replacement (s : State) (w : LadderWord) (sh i : Nat) : Stored :=
  let (nsid, lba) := match cardIndex s sh i with
    | some (n, c) => (n.nsid, c)
    | none => (shelfNsid s sh, 0)
  let age := match mapped s sh i with | some (_, a, _) => a | none => 0
  let old := (mapGet w.ppa.toNat s.wr.flash).getD (padCard 0)
  { data := lostPayload s w
    md := { accession := 0, nsid := nsid, lba := lba, age := age, stream := old.md.stream, plain := true,
            pad := false, fox := true, keyGen := old.md.keyGen } }

/-- A request of a codeword that no card of the map needs any more: its card is looked up again. -/
def askAgain (why : ReadFor) (s : State) : State :=
  match why with
  | .host slot lba _ => readCard slot lba s
  | .merge slot sh i _ _ => obtainOld slot sh i 0 s
  | .share src tag off _ _ => readShareCard (hdrOf src tag) off s
  | _ => s

/-- The requests of a codeword that has become garbage (R155). -/
def readAgain (w : LadderWord) (s : State) : State :=
  handBack w.ppa ((liveWhy s w).foldl (fun t y => askAgain y t) (dropWord w.ppa s))

/-- A request of a codeword that is lost: its command meets the mark; a load ends with the marks in place. -/
def biteOne (why : ReadFor) (s : State) : State :=
  match why with
  | .map page index => if s.cat.misses.contains (page, index) then takeLoad page index s else s
  | y => biteCard y scUnrecovered (fillCard s) s

/-- The requests of a codeword that is lost. -/
def biteWord (w : LadderWord) (s : State) : State :=
  inSlotOrder (fun u =>
    retryLookups (handBack w.ppa ((bySlot (liveWhy s w)).foldl (fun t y => biteOne y t) (dropWord w.ppa u)))) s

/-- The codeword lies in the system stream. -/
def isSystem (s : State) (ppa : Ppa) : Bool :=
  match ppaEntry s ppa with
  | some n => (blkAt s n).stream = 3
  | none => false

/-- Step 7 of the codeword. The marks of a lost system card wait until the Ledger takes their records (R43). -/
def foxStep (w : LadderWord) (pick : Nat) (s0 : State) : State :=
  if isSystem s0 w.ppa then
    let t := loseSystem w.ppa s0
    if t.led.stalled.isEmpty then biteWord w (countStep 7 t) else s0
  else match ownerOf s0 w.ppa with
    | none => readAgain w s0
    | some (sh, i) =>
      let s := touchSegment sh s0
      match rewriteCard sh i w.ppa (replacement s w sh i) pick (if w.decoded then drawFree s else s) with
      | none => stallRow 1 (fun t => (rewriteCard sh i w.ppa (replacement s w sh i) pick t).isSome) s
      | some (new, t) => biteWord w (countStep 7 (foxSet sh i new 0 t))

/-! ## LADDER_STEP_DONE -/

/-- The step of the ladder at which the codeword stands (R142). -/
def ladderStep (w : LadderWord) (pick : Nat) (s : State) : State :=
  if w.step ≤ 5 then retryStep w s
  else if w.step = 6 then rebuildStep w pick s
  else foxStep w pick s

/-- LADDER_STEP_DONE: the present step of the codeword at `ppa` ends. -/
def execLadderStepDone (ppa : Ppa) (fresh : Bool) (picks : List Nat) (s : State) : Outcome :=
  .next (if ! tilesRun s || s.mode.mode = .coast then s
    else match wordOf s ppa with
      | none => s
      | some w => resumeAll (ladderStep w (natAt (choices fresh picks s) 0) s))

end Sys2Proof.Machine
end

