-- ==== Sys2Proof/Machine/Reclaim.lean ====
section
/-! DEFINITION. Fold, weeding, rotation, lane rebuild, and the erase of block stripes (R75 to R79, R86, R88,
R92 to R102). -/

namespace Sys2Proof.Machine

/-- Move engines work in the serving modes. -/
def moversRun (s : State) : Bool := serving s

/-- They issue reads whose data goes to a work pool: not while the staging port of the channel tiles holds its
source (R337). -/
def moverReads (s : State) : Bool := moversRun s && ! s.dram.hold.getD 0 false

/-- Cards of one stacks row at full lane width: the unit of fold. -/
def rowCards (s : State) : Nat := 16 * fld s 0x508

/-- Copies in transit. -/
def copiesNow (s : State) : Nat := (s.wr.transit.filter fun c => c.move.isSome).length

/-- The age of a block stripe's CLOSED time in minutes (R92). -/
def ageMin (s : State) (n : Nat) : Nat := (16777216 + nowMin s - (blkAt s n).closed) % 16777216

/-- A block stripe that is chosen becomes a victim. -/
def makeVictim (n : Nat) (s : State) : State := modBlk n (fun b => { b with state := 3, examined := 0 }) s

/-! ## Fold (R75 to R79) -/

/-- The fold engine starts. -/
def startFold (idle : Bool) (s : State) : State :=
  leaveIdle { s with wr := { s.wr with folding := true, idleFold := idle } }

/-- The condition of R75 that starts the fold engine now: at the start mark, or idle above the stop mark. -/
def foldWanted (s : State) : State :=
  if s.wr.folding || s.mode.mode = .preserve || ! moversRun s then s
  else if fillAtLeast s (profileParam s 1) then startFold false s
  else if s.wr.idleSeen && ! fillAtMost s (profileParam s 2) then startFold true s
  else s

/-- FOLD_START. -/
def execFoldStart (s : State) : Outcome := .next (foldWanted s)

/-- IDLE_FOLD_DELAY_EXPIRY: no host command was fetched for the idle fold delay. -/
def execIdleFoldDelayExpiry (s : State) : Outcome :=
  .next (if moversRun s then foldWanted { s with wr := { s.wr with idleSeen := true } } else s)

/-- Full carrel block stripes of a stream. -/
def foldable (s : State) (stream : Nat) : List Nat :=
  (s.blk.table.map fun e => e.1).filter fun n =>
    inCarrel s n && (blkAt s n).state = 2 && (blkAt s n).stream = stream && ! (blkAt s n).forced

/-- The next source: the oldest full one of the cold stream, else of the hot stream (R77). -/
def foldPick (s : State) : Option Nat :=
  match mostBy (ageMin s) (foldable s 1) with
  | some n => some n
  | none => mostBy (ageMin s) (foldable s 0)

/-- Fold sources taken before that have cards to copy again: those the escalation engine has recovered or marked
(R79). -/
def foldLeft (s : State) : List Nat :=
  (s.blk.table.map fun e => e.1).filter fun n =>
    inCarrel s n && (blkAt s n).state = 3 && ! s.blk.victims.any (fun v => v.entry = n) && ! (copyItems s n).isEmpty

/-- The source in progress while it has cards left to copy, else one taken before, else the next one. -/
def foldSourceNow (s : State) : Option (Nat × State) :=
  let next := match foldLeft s with
    | n :: _ => some (n, { s with wr := { s.wr with foldSource := some n } })
    | [] => (foldPick s).map fun n =>
      (n, makeVictim n { s with wr := { s.wr with foldSource := some n } })
  match s.wr.foldSource with
  | some n => if (copyItems s n).isEmpty then next else some (n, s)
  | none => next

/-- The fold engine stops. -/
def stopFold (s : State) : State := { s with wr := { s.wr with folding := false, idleFold := false } }

/-- One fold unit: a stacks row of carrel cards is read, and those at hand are placed; a card that does not decode is
handed over (R78, R79). -/
def foldOne (picks : List Nat) (s : State) : State :=
  match foldSourceNow s with
  | none => s
  | some (n, t) =>
    let u := copyLoop 1 1 none (copyItems t n) picks (rowCards t) t
    recountVictims { u with wr := { u.wr with
      foldCards := sat64 (u.wr.foldCards + (copiesNow u - copiesNow t)) } }

/-- FOLD_UNIT. -/
def execFoldUnit (fresh : Bool) (picks : List Nat) (s : State) : Outcome :=
  .next (if ! s.wr.folding || ! moverReads s || s.mode.mode = .preserve then s
    else if fillAtMost s (profileParam s 2) then stopFold s
    else foldOne (choices fresh picks s) s)

/-- FOLD_ROW_PROGRAMMED: the row's programs have completed; its move records are appended. -/
def execFoldRowProgrammed (row : Nat) (s : State) : Outcome :=
  .next (if moversRun s then resumeAll (finishRow row s) else s)

/-! ## Weeding (R92 to R95, R101, R105) -/

/-- Free stacks block stripes of a plane group. -/
def freeStacks (s : State) (g : Nat) : Nat := (freeStripes s g false).length

/-- Weeding may take a victim in the plane group: below the low-water mark, while idle below the high-water
mark, and in Preserve below two free block stripes. -/
def weedingOn (s : State) (g : Nat) : Bool :=
  if s.mode.mode = .preserve then decide (freeStacks s g < 2)
  else decide (freeStacks s g < fld s 0x608)
    || (s.wr.idleSeen && decide (freeStacks s g < fld s 0x60C))

/-- The full block stripes of a plane group that weeding may score: u below 1. -/
def scored (s : State) (g : Nat) : List Nat :=
  (s.blk.table.map fun e => e.1).filter fun n =>
    entryGroup s n = g && ! inCarrel s n && (blkAt s n).state = 2 && ! (blkAt s n).forced
      && decide ((blkAt s n).valid < stripeCards s n)

/-- (1 − u) ÷ (1 + β·u), rounded down to 16 fraction bits. β is in sixteenths. -/
def scoreFirst (cap valid beta : Nat) : Nat :=
  65536 * (16 * (cap - valid)) / max 1 (16 * cap + beta * valid)

/-- 1 + a ÷ T in 16 fraction bits, saturating. -/
def scoreAge (age t : Nat) : Nat := min 0xFFFFFFFF (65536 + 65536 * age / max 1 t)

/-- The score of a block stripe (R92); saturated ones are ordered by their first factor. -/
def score (s : State) (n : Nat) : Nat :=
  scoreFirst (stripeCards s n) (blkAt s n).valid (fld s 0x61C) * scoreAge (ageMin s n) (fld s 0x618) / 65536

/-- The forced victims of a plane group that are full. -/
def forcedFull (s : State) (g : Nat) : List Nat :=
  (s.blk.table.map fun e => e.1).filter fun n =>
    entryGroup s n = g && (blkAt s n).state = 2 && (blkAt s n).forced && (blkAt s n).stream != 3

/-- A victim of the plane group still has cards to be copied. -/
def victimBusy (s : State) (g : Nat) (rotation : Bool) : Bool :=
  s.blk.victims.any fun v => v.planeGroup = g && v.rotation = rotation && ! (copyItems s v.entry).isEmpty

/-- A victim is taken. -/
def takeVictim (g n : Nat) (forced : Bool) (s : State) : State :=
  let t := leaveIdle (makeVictim n s)
  { t with blk := { t.blk with
      victims := t.blk.victims ++
        [{ planeGroup := g, entry := n, rotation := false, forced := forced, dest := none }]
      weedVictims := sat64 (t.blk.weedVictims + 1)
      forcedVictims := if forced then sat64 (t.blk.forcedVictims + 1) else t.blk.forcedVictims } }

/-- WEEDING_VICTIM_SELECT: a forced victim before any scored one. -/
def execWeedingVictimSelect (planeGroup : Nat) (s : State) : Outcome :=
  .next (if ! moversRun s || victimBusy s planeGroup false then s
    else if s.mode.mode = .preserve && ! weedingOn s planeGroup then s
    else match (forcedFull s planeGroup).head? with
      | some n => takeVictim planeGroup n true s
      | none =>
        if ! weedingOn s planeGroup then s
        else match mostBy (score s) (scored s planeGroup) with
          | some n => takeVictim planeGroup n false s
          | none => s)

/-- Cards copied by weeding, rotation and lane rebuild count (Table 16.8). -/
def countWeed (before after : State) : State :=
  { after with wr := { after.wr with
      weedCards := sat64 (after.wr.weedCards + (copiesNow after - copiesNow before)) } }

/-! ## Shares of the stacks programs (R93, R98, R101, R105) -/

/-- The share s of a plane group in credits out of 64 programs. -/
def weedShare (s : State) (g : Nat) : Nat :=
  let f := freeStacks s g
  let top := 64 * fld s 0x614 / 100
  if s.mode.mode = .preserve then (if f < 2 then top else 0)
  else if s.wr.idleSeen && decide (f < fld s 0x60C) then top
  else if f < fld s 0x608 then min top (64 * fld s 0x610 * (fld s 0x608 - f) / fld s 0x608)
  else 0

/-- A stacks program of an engine up to `top` (1: the host and fold; 2: weeding as well) waits or runs in the plane
group: a share divides nothing otherwise (DEDUCED, log entry 136). -/
def sharesGroup (s : State) (top g : Nat) : Bool :=
  let mine := fun (p : ProgReq) => match rowAt s p.row with
    | some r => r.engine ≤ top && entryGroup s r.entry = g && ! inCarrel s r.entry
    | none => false
  s.fl.dies.any fun d => d.progQ.any mine || match d.op with
    | some (.program p) => mine p
    | _ => false

/-- The programs of the plane group's present window of 64: all, weeding's, rotation's. -/
def creditsOf (s : State) (g : Nat) : Nat × Nat × Nat :=
  let w := mapAt (0, 0, 0) g s.blk.credits
  if 64 ≤ w.1 then (0, 0, 0) else w

/-- Weeding's programs of the present window leave room within its share s, or s divides nothing now (R93). -/
def withinShare (s : State) (g : Nat) : Bool :=
  ! sharesGroup s 1 g || decide ((creditsOf s g).2.1 < weedShare s g)

/-- The victim may be copied now: weeding within s, rotation within its own share and, while weeding runs, within s; a
forced victim goes on at the die rebuild rate (R101). In Preserve weeding goes on within s alone (R105). -/
def mayCopy (s : State) (v : Victim) : Bool :=
  let share := weedShare s v.planeGroup
  if s.mode.mode = .preserve then ! v.rotation && share != 0 && withinShare s v.planeGroup
  else if v.rotation then
    (! sharesGroup s 2 v.planeGroup || decide (100 * (creditsOf s v.planeGroup).2.2 < 64 * fld s 0x628))
      && (share = 0 || withinShare s v.planeGroup)
  else if v.forced then true
  else share != 0 && withinShare s v.planeGroup

/-- The victim of a plane group that has cards left and may be copied now. -/
def victimNow (s : State) (g : Nat) : Option Victim :=
  s.blk.victims.find? fun v => v.planeGroup = g && ! (copyItems s v.entry).isEmpty && mayCopy s v

/-- The free block stripe with the highest ERASES, a rotation's destination (R98). -/
def rotationDest (s : State) (g : Nat) : Option Nat :=
  if (freeStripes s g false).length < needFree false 3 || laneHeld s (g / planesOf s) then none
  else mostBy (fun n => (blkAt s n).erases) (freeStripes s g false)

/-- The victim of a rotation has its destination with a row to fill. -/
def rotationRow (v : Victim) (s : State) : Option (Nat × State) :=
  let cells := fun (t : State) (d : Nat) => (t.wr.rows.filter fun r => r.entry = d && ! r.sealed && r.engine = 3).foldl
    (fun a r => a + (freeCells t r).length) 0
  let setDest := fun (t : State) (d : Nat) => ({ t with blk := { t.blk with
    victims := modWhere (fun x => x.entry = v.entry) (fun x => { x with dest := some d }) t.blk.victims } } : State)
  let fresh : Option (Nat × State) := match rotationDest s v.planeGroup with
    | none => none
    | some d => match openRowIn d 2 3 (openStripe d 2 s) with
      | none => none
      | some t => some (cells t d, setDest t d)
  match v.dest with
  | none => fresh
  | some d =>
    if cells s d != 0 then some (cells s d, s)
    else if stripeHasRow s 2 false 3 d then match openRowIn d 2 3 s with
      | none => none
      | some t => some (cells t d, t)
    else fresh

/-- The copies of one event: a row's worth of the victim's cards, in the weeding stream. -/
def copyVictim (v : Victim) (picks : List Nat) (s : State) : State :=
  if v.rotation then
    match rotationRow v s with
    | none => s
    | some (room, t) =>
      countWeed t (moveUnit 2 3 v.planeGroup (some v.planeGroup) (copyItems t v.entry) [] (min room (rowCards t)) t)
  else
    countWeed s (moveUnit 2 2 v.planeGroup (some v.planeGroup) (copyItems s v.entry) picks (rowCards s) s)

/-- WEEDING_COPY. -/
def execWeedingCopy (planeGroup : Nat) (fresh : Bool) (picks : List Nat) (s : State) : Outcome :=
  .next (if ! moverReads s then s
    else match victimNow s planeGroup with
      | none => recountVictims s
      | some v => recountVictims (copyVictim v (choices fresh picks s) s))

/-! ## Rotation (R98) -/

/-- ERASES of the non-retired stacks block stripes of a plane group. -/
def groupErases (s : State) (g : Nat) : List Nat :=
  (((List.range (blocksOf s)).map fun b => g * blocksOf s + b).filter fun n =>
    ! inCarrel s n && (blkAt s n).state != 5).map fun n => (blkAt s n).erases

/-- Maximum minus minimum. -/
def spread (s : State) (g : Nat) : Nat :=
  let l := groupErases s g
  l.foldl max 0 - l.foldl min (l.headD 0)

/-- The full stacks block stripe with the lowest ERASES. -/
def rotationVictim (s : State) (g : Nat) : Option Nat :=
  leastBy (fun n => (blkAt s n).erases) ((s.blk.table.map fun e => e.1).filter fun n =>
    entryGroup s n = g && ! inCarrel s n && (blkAt s n).state = 2)

/-- A rotation takes its victim. -/
def takeRotation (g n : Nat) (s : State) : State :=
  let t := leaveIdle (makeVictim n s)
  { t with blk := { t.blk with
      victims := t.blk.victims ++
        [{ planeGroup := g, entry := n, rotation := true, forced := false, dest := none }]
      rotVictims := sat64 (t.blk.rotVictims + 1) } }

/-- The plane groups in rotation after a look at group `g`: it enters above the threshold and leaves at the
threshold minus the hysteresis. -/
def rotatingNow (s : State) (g : Nat) : List Nat :=
  if s.blk.rotating.contains g then
    if spread s g ≤ fld s 0x620 - fld s 0x624 then s.blk.rotating.filter fun x => x != g else s.blk.rotating
  else if fld s 0x620 < spread s g then s.blk.rotating ++ [g] else s.blk.rotating

/-- ROTATION_START. -/
def execRotationStart (planeGroup : Nat) (s : State) : Outcome :=
  .next (if ! moversRun s || s.mode.mode = .preserve || s.mode.mode = .warming || decide (groupCount s ≤ planeGroup) then s
    else
      let t : State := { s with blk := { s.blk with rotating := rotatingNow s planeGroup } }
      if ! t.blk.rotating.contains planeGroup || victimBusy t planeGroup true then t
      else match rotationVictim t planeGroup with
        | some n => takeRotation planeGroup n t
        | none => t)

/-! ## Erase (R86, R96, R97, R100) -/

/-- The block of the first lane slot of a block stripe (R85, R97). -/
def stripeBlock (s : State) (n : Nat) : Ppa :=
  match membersNow s n with
  | e :: _ => mkPpa e.channel e.target (entryPlane s n) (entryBlock s n) 0 0
  | [] => 0

/-- The erase gate of a block stripe holds: it is full or a victim, VALID is 0, and the programmed sequence
covers GATE_SEQ. -/
def gateHolds (s : State) (n : Nat) : Bool :=
  ((blkAt s n).state = 2 || (blkAt s n).state = 3) && (blkAt s n).valid = 0
    && decide ((blkAt s n).gateSeq ≤ s.led.progSeq)
    && ! s.wr.rows.any (fun r => r.entry = n)

/-- The block stripe is in erase pending, its ERASE_INTENT appended; an append that would wait waits. -/
def eraseIntent (n : Nat) (s : State) : State :=
  match appendNow (plainRec 0x8 (stripeBlock s n)) s with
  | none => s
  | some t => closeWaiting (modBlk n (fun b => { b with state := 4 })
      { t with
        wr := { t.wr with foldSource := if t.wr.foldSource = some n then none else t.wr.foldSource }
        blk := { t.blk with
          victims := t.blk.victims.filter fun v => v.entry != n
          erases := t.blk.erases ++
            [{ entry := n, intent := t.led.nextSeq - 1, issued := false, restart := false, failed := [] }] } })

/-- A block stripe of Ledger extents or Daybook cards that takes no more of them is full. -/
def systemFull (s : State) (n : Nat) : Bool :=
  (blkAt s n).state = 1 && (blkAt s n).stream = 3
    && decide (pagesOf s n < 4 * (blkAt s n).rowsUsed + 4) && ! s.wr.rows.any (fun r => r.entry = n)
    && extentEntry s s.led.extentPpa != n && extentEntry s s.led.nextExtent != n && s.day.stripe != n

/-- An open block stripe that a Sanitize block erase still has to erase closes once no row of it is open
(R266). -/
def sanitizeWants (s : State) (n : Nat) : Bool :=
  s.key.sanForced.contains n && (blkAt s n).state = 1 && ! s.wr.rows.any (fun r => r.entry = n)

/-- ERASE_GATE_OPEN. A system-stream block stripe is reclaimed once it holds no card that must stay; one
that does is chosen, and the next pass writes those cards again (R50). -/
def execEraseGateOpen (entry : Nat) (s : State) : Outcome :=
  let t := if systemFull s entry || sanitizeWants s entry then closeStripe entry s else s
  .next (if ! moversRun t || ! gateHolds t entry || keptApart t entry then t
    else if (blkAt t entry).stream = 3 then
      if mustStay t entry then modBlk entry (fun b => { b with forced := true }) t else eraseIntent entry t
    else eraseIntent entry t)

/-- The job of a block stripe. -/
def jobOf (s : State) (n : Nat) : Option EraseJob := s.blk.erases.find? fun j => j.entry = n

def modJob (n : Nat) (f : EraseJob → EraseJob) (s : State) : State :=
  { s with blk := { s.blk with erases := modWhere (fun j => j.entry = n) f s.blk.erases } }

/-- The dies of a block stripe's member blocks. -/
def eraseDies (s : State) (n : Nat) : List Die :=
  (membersNow s n).filterMap fun e => dieAt s e.channel e.target

/-- ERASE_INTENT_DURABLE: the erases go to the members' queues of 4; with one full they wait (R120). -/
def execEraseIntentDurable (entry : Nat) (s : State) : Outcome :=
  .next (match jobOf s entry with
    | none => s
    | some j =>
      if ! moversRun s || j.issued || j.restart || decide (s.led.progSeq < j.intent)
          || (eraseDies s entry).any (fun d => decide (4 ≤ d.eraseQ.length)) then s
      else modJob entry (fun x => { x with issued := true, atUs := s.clock.us })
        ((eraseDies s entry).foldl (fun t d =>
          modDie d.channel d.target (fun x => { x with eraseQ := x.eraseQ ++ [entry] }) t) s))

/-- The cards of a block stripe are gone from flash. -/
def forgetCards (n : Nat) (s : State) : State :=
  { s with wr := { s.wr with
      flash := s.wr.flash.filter fun c => ppaEntry s (BitVec.ofNat 40 c.1) != some n
      parity := s.wr.parity.filter fun c => ppaEntry s (BitVec.ofNat 40 c.1) != some n } }

/-- A die block is retired: its record, and its count (Table 16.12). -/
def retireBlock (n pos : Nat) (s : State) : State :=
  match (laneDies s (entryLane s n)).find? fun e => e.slot = pos with
  | none => s
  | some e =>
    record 0x0101 [(1, 0), (1, e.channel), (1, e.target), (1, entryPlane s n), (2, entryBlock s n), (1, 0)]
      { s with blk := { s.blk with
          badBlocks := s.blk.badBlocks ++ [(e.channel, e.target, entryPlane s n, entryBlock s n)] } }

/-- A member erase that failed is counted and recorded. -/
def noteEraseFail (n pos : Nat) (s : State) : State :=
  match (laneDies s (entryLane s n)).find? fun e => e.slot = pos with
  | none => s
  | some e =>
    let p := mkPpa e.channel e.target (entryPlane s n) (entryBlock s n) 0 0
    let s1 := countC1 13 { s with blk := { s.blk with eraseFails := sat64 (s.blk.eraseFails + 1) } }
    record 0x0104 [(1, 1), (5, p.toNat)] s1

/-- The soft reads of a block stripe's die blocks are counted from 0 again. -/
def forgetSoft (n : Nat) (s : State) : State :=
  { s with blk := { s.blk with
      softReads := s.blk.softReads.filter fun x =>
        match laneOf s x.1.1 x.1.2.1 with
        | some e => entryNo s e.lane x.1.2.2.1 x.1.2.2.2 != n
        | none => true } }

/-- A mask of positions. -/
def maskOf (l : List Nat) : BitVec 64 := l.foldl (fun m p => m ||| BitVec.ofNat 64 (2 ^ p)) 0

/-- A block stripe that a Sanitize block erase waited for is erased; with the last one the Sanitize ends
(R266). -/
def sanitizeSettle (n : Nat) (s : State) : State :=
  let left := s.key.sanForced.filter fun x => x != n
  if s.key.sanForced.contains n && left.isEmpty then
    { s with key := { s.key with sanForced := [], sanitize := 0, sanStatus := 1 } }
  else { s with key := { s.key with sanForced := left } }

/-- Every member block is erased: ERASE_DONE, and the block stripe is free, or retired with fewer than 8 lane
slots (R97, R100). -/
def eraseEnds (n : Nat) (failed : List Nat) (s : State) : State :=
  let out := (failed ++ (blkAt s n).retireAtErase).eraseDups.filter fun p => ! (blkAt s n).excluded.getLsbD p
  let s1 := failed.eraseDups.foldl (fun t p => noteEraseFail n p t) s
  let s2 := out.foldl (fun t p => retireBlock n p t) s1
  let s3 := append (plainRec 0x9 (stripeBlock s n)) s2
  let x := (blkAt s n).excluded ||| maskOf out
  let s4 := modBlk n (fun b => { freeEntry b.carrel with
      state := if slotsLeft s3 (entryLane s3 n) x < 8 then 5 else 0
      excluded := x, gateSeq := b.gateSeq, erases := b.erases + 1 }) s3
  let s5 := forgetSoft n (forgetCards n { s4 with blk := { s4.blk with
    lists := mapDel n s4.blk.lists
    erases := s4.blk.erases.filter fun j => j.entry != n } })
  let s6 := newHeadroom { s5 with day := { s5.day with stripes := s5.day.stripes.filter fun y => y.1 != n } }
  resumeAll (sanitizeSettle n (if s6.coast.armed then takeCoastStripes s6 else s6))

/-- A die that still has the erase of block stripe `n` before it, or suspended. -/
def eraseWaits (n : Nat) (d : Die) : Bool :=
  d.eraseQ.contains n || decide (d.suspended = some (.erase n)) || decide (d.timedOut = some (.erase n))

/-- The member erases in progress end. -/
def clearErase (n : Nat) (s : State) : State :=
  { s with fl := { s.fl with
      dies := s.fl.dies.map fun d =>
        if d.op = some (.erase n) then { d with op := none, suspends := 0 } else d } }

/-- The members whose erase a re-erase runs: all of them, or in its second round those that failed the check (R88). -/
def reeraseDies (s : State) (j : EraseJob) : List Die :=
  (membersNow s j.entry).filterMap fun e =>
    if j.phase < 3 || j.again.contains e.slot then dieAt s e.channel e.target else none

/-- The erases of a re-erase join their dies' queues; with one full they wait (R88, R120). -/
def startReerase (j : EraseJob) (s : State) : State :=
  if (reeraseDies s j).any (fun d => decide (4 ≤ d.eraseQ.length)) then s
  else modJob j.entry (fun x => { x with issued := true, phase := x.phase + 1, atUs := s.clock.us })
    ((reeraseDies s j).foldl (fun t d =>
      modDie d.channel d.target (fun x => { x with eraseQ := x.eraseQ ++ [j.entry] }) t) s)

/-- The check of a re-erase: page 0 and the last page of each member block it erased are read (R88). -/
def checkReerase (j : EraseJob) (s : State) : State :=
  (reeraseDies s j).foldl (fun t d =>
    modDie d.channel d.target (fun x => { x with
      cycles := [0, pagesOf t j.entry - 1].flatMap fun p => readCycles t true
        { ppa := mkPpa d.channel d.target (entryPlane t j.entry) (entryBlock t j.entry) p 0, cls := 1, why := .nobody } }) t) s

/-- The erases of a re-erase have ended, those at `failed` with a failure, and its check runs (R88). -/
def reeraseEnded (j : EraseJob) (failed : List Nat) (s : State) : State :=
  checkReerase j (modJob j.entry (fun x => { x with issued := false, phase := x.phase + 1, failed := failed }) s)

/-- BLOCK_ERASE_DONE: every member's erase has ended, those at `failed` with a failure. -/
def execBlockEraseDone (entry : Nat) (failed : List Nat) (s : State) : Outcome :=
  .next (match jobOf s entry with
    | none => s
    | some j =>
      if ! moversRun s || ! j.issued || s.fl.dies.any (eraseWaits entry) then s
      else
        let ended := (failed ++ j.failed).eraseDups
        if j.restart then reeraseEnded j ended (clearErase entry s)
        else eraseEnds entry ended (clearErase entry s))

/-- STARTUP_REERASE, once for each step of R88: the erases of every member are issued; when they and the check's reads
have ended, the members at `bad` having failed the check, those are erased once more; and after the second check the
block stripe is free, those that failed again retired. -/
def execStartupReerase (entry : Nat) (bad : List Nat) (s : State) : Outcome :=
  .next (match jobOf s entry with
    | none => s
    | some j =>
      let out := (bad ++ j.failed).eraseDups
      if ! moversRun s || ! j.restart || j.issued then s
      else if j.phase = 0 then startReerase j s
      else if j.phase = 2 && ! out.isEmpty then
        startReerase { j with again := out, phase := 3 } (modJob entry (fun x => { x with again := out, failed := [], phase := 3 }) s)
      else if j.phase = 3 then startReerase j s
      else eraseEnds entry out s)

/-! ## RETIRE_EVALUATE (R99, Table 4.4) -/

/-- A die block whose soft reads have reached the count is excluded at its next erase. -/
def softRetire (k : Nat × Nat × Nat × Nat) (s : State) : State :=
  match laneOf s k.1 k.2.1 with
  | none => s
  | some e => modBlk (entryNo s e.lane k.2.2.1 k.2.2.2) (fun b => { b with
      retireAtErase := if b.retireAtErase.contains e.slot then b.retireAtErase
        else b.retireAtErase ++ [e.slot] }) s

/-- Retired die blocks of a die. -/
def badOn (s : State) (ch t : Nat) : Nat :=
  (s.blk.badBlocks.filter fun b => b.1 = ch && b.2.1 = t).length

/-- The die retire fraction, in 0.1 %, is reached. -/
def fractionReached (s : State) (e : LaneEntry) : Bool :=
  decide (fld s 0x634 * (planesOf s * blocksOf s) ≤ 1000 * badOn s e.channel e.target)

/-- RETIRE_EVALUATE: the Librarian looks at the error log. -/
def execRetireEvaluate (s : State) : Outcome :=
  .next (if ! moversRun s || s.lib.state != 0 then s
    else
      let soft := (s.blk.softReads.filter fun x => decide (fld s 0x630 ≤ x.2)).map fun x => x.1
      let s1 := soft.foldl (fun t k => softRetire k t) s
      let dies := (lanesInForce s1).filter fun e => fractionReached s1 e
        && ! dieRetired s1 e.channel e.target
      dies.foldl (fun t e => settleChannel e.channel (retireDie e.channel e.target 1 t)) s1)

/-! ## The lane rebuild (R102) -/

/-- Block stripes of a lane that were written with a die as a member that is retired now: their width exceeds the lane
slots they have. They are full ones, victims, and open ones that hold cards. -/
def wideStripes (s : State) (lane : Nat) : List Nat :=
  (s.blk.table.map fun e => e.1).filter fun n =>
    entryLane s n = lane && decide ((membersNow s n).length < (blkAt s n).width)
      && ((blkAt s n).state = 2 || (blkAt s n).state = 3
        || ((blkAt s n).state = 1 && ! (validEntries s n).isEmpty))

/-- An item whose cards lie on a retired die. -/
def onRetired (s : State) (x : CopyItem) : Bool :=
  (itemPpas x).any fun p => dieRetired s (ppaChannel p) (ppaTarget p)

/-- The valid cards of a lane that lie on its retired dies and are still to be copied. -/
def retiredItems (s : State) (lane : Nat) : List CopyItem :=
  (wideStripes s lane).flatMap fun n => (copyItems s n).filter fun x => onRetired s x

/-- Cards of the lane on retired dies that the Catalogue still names. -/
def retiredLeft (s : State) (lane : Nat) : Bool :=
  (wideStripes s lane).any fun n => (validEntries s n).any fun x =>
    dieRetired s (ppaChannel (posPpa s n x.1)) (ppaTarget (posPpa s n x.1))

def setRebuild (lane step : Nat) (s : State) : State :=
  { s with blk := { s.blk with
      rebuilds := modWhere (fun r => r.lane = lane) (fun r => { r with step := step }) s.blk.rebuilds } }

/-- The wide block stripes of a lane that hold system cards become forced victims: the next pass writes their cards
again (R50). The others do so in step 2, once they are full. -/
def forceWide (lane : Nat) (system : Bool) (s : State) : State :=
  ((wideStripes s lane).filter fun n => (blkAt s n).stream = 3 || ! system).foldl (fun t n => forceVictim n none t) s

/-- LANE_REBUILD_STEP: step 1 moves the cards of the retired dies, step 2 makes every wide block stripe a
forced victim; in Preserve the second step waits (R186). -/
def execLaneRebuildStep (lane : Nat) (picks : List Nat) (s : State) : Outcome :=
  .next (match s.blk.rebuilds.find? fun r => r.lane = lane with
    | none => s
    | some r =>
      if ! moverReads s then s
      else if r.step = 1 then
        let items := retiredItems s lane
        let t := forceWide lane true s
        if ! items.isEmpty then countWeed t (moveUnit 2 4 lane none items picks (rowCards t) t)
        else if retiredLeft t lane then t
        else setRebuild lane 2 t
      else if s.mode.mode = .preserve then s
      else forceWide lane false s)

/-- LANE_REBUILD_END: no wide block stripe is left; Degraded mode ends when nothing else rebuilds. -/
def execLaneRebuildEnd (lane : Nat) (s : State) : Outcome :=
  .next (if ! moversRun s || s.mode.mode = .preserve
      || ! s.blk.rebuilds.any (fun r => r.lane = lane && decide (r.step = 2))
      || ! (wideStripes s lane).isEmpty then s
    else settleDegraded { s with blk := { s.blk with
      rebuilds := s.blk.rebuilds.filter fun r => r.lane != lane } })

end Sys2Proof.Machine
end

