-- ==== Sys2Proof/Machine/Keys.lean ====
section
/-! DEFINITION. Keys (R244 to R267): the Strongroom ring, the DRBG, the renewal of a slot with its sweep, the
secure erases of Format NVM, Sanitize, and TCG Opal. -/

namespace Sys2Proof.Machine

/-! ## The Strongroom ring (R252 to R255) -/

/-- Key sector `n` of the ring. -/
def keySector (s : State) (n : Nat) : List KeyRec := s.key.ring.getD n []

/-- Key sector `n` is erased. -/
def keySectErased (s : State) (n : Nat) : Bool := (keySector s n).isEmpty && ! flagged s (132 + n)

/-- The sector that takes the next key record: the head, or the one after a full head. -/
def keyPlace (s : State) : Nat :=
  if (keySector s s.key.headSect).length < 512 then s.key.headSect else (s.key.headSect + 1) % 6

/-- A key record has a place: in the head, or in an erased sector after it. -/
def keyRoom (s : State) : Bool := keyPlace s = s.key.headSect || keySectErased s (keyPlace s)

/-- A key record is appended. -/
def putKey (r : KeyRec) (s : State) : State :=
  { s with key := { s.key with
      ring := modAt (keyPlace s) (fun l => l ++ [r]) s.key.ring
      headSect := keyPlace s } }

/-- The oldest key sector: the first after the head that is not erased. -/
def oldestSector (s : State) : Option Nat :=
  ((List.range 5).map fun i => (s.key.headSect + 1 + i) % 6).find? fun n => ! keySectErased s n

/-- The erase of a key sector waits or runs. -/
def keyErasePending (s : State) : Bool :=
  s.cdx.requests.any (fun r => r.erase && decide (132 ≤ sectorOf r.addr) && decide (sectorOf r.addr ≤ 137))
    || match s.cdx.erasing with
      | some n => decide (132 ≤ n) && decide (n ≤ 137)
      | none => false

/-- With one key sector still erased, the records in force of the oldest move to the head, and its erase is
asked for (R254). -/
def compactKeys (s : State) : State :=
  if ((List.range 6).filter fun n => keySectErased s n).length != 1 || keyErasePending s then s
  else match oldestSector s with
    | none => s
    | some n =>
      let keep := (keySector s n).filter fun r => recInForce s r.slot = some r
      askErase (132 + n) (keep.foldl (fun t r => putKey r t) s)

/-- A key record is appended, and the ring compacted when it has to be. -/
def appendKey (r : KeyRec) (s : State) : State := compactKeys (putKey r s)

/-- Every record of a slot below generation `g` is zeroised. -/
def zeroiseBelow (k g : Nat) (s : State) : State :=
  { s with key := { s.key with
      ring := s.key.ring.map fun l => l.map fun r =>
        if r.slot = k && decide (r.gen < g) then { r with zeroised := true, wrapped := 0 } else r } }

/-- SWEEP of the records of a slot in force is programmed to 0x00. -/
def markSwept (k : Nat) (s : State) : State :=
  { s with key := { s.key with
      ring := s.key.ring.map fun l => l.map fun r =>
        if some r = recInForce s k then { r with sweepDone := true } else r } }

/-! ## The DRBG (R259) -/

/-- The DRBG has output: no health test stops it, and it is not due for its reseed. -/
def drbgReady (s : State) : Bool := s.key.drbgOk && decide (s.key.drbgUsed < 1048576)

/-- NOISE_HEALTH_FAIL: TRNG is set. -/
def execNoiseHealthFail (s : State) : Outcome :=
  .next (if awake s then
    { s with key := { s.key with drbgOk := false, sticky := s.key.sticky ||| 0x10 } } else s)

/-- DRBG_RESEED: from 384 bits of input that passes. -/
def execDrbgReseed (s : State) : Outcome :=
  .next (if awake s then { s with key := { s.key with drbgOk := true, drbgUsed := 0 } } else s)

/-- The 48 bytes of plaintext that bind a key to its record and its namespace (Table 11.5). -/
def keyPlain (k gen acc id : Nat) : BitVec 384 :=
  BitVec.ofNat 384 ((Config.keyBits id).toNat + 2 ^ 256 * (gen % 2 ^ 32) + 2 ^ 288 * (k % 1024)
    + 2 ^ 304 * ((k / 4 + 1) % 256) + 2 ^ 320 * (acc % 2 ^ 64))

/-- A new key for slot `k`: its record with the next GENERATION and its wrapped key, loaded, the older record zeroised
(R253, R260). -/
def newKey (k : Nat) (sweepDone : Bool) (s : State) : State :=
  let g := match recInForce s k with
    | some r => r.gen + 1
    | none => 1
  let id := s.key.nextKey + 1
  let r : KeyRec :=
    { slot := k, gen := g, accFrom := s.cat.nextAcc, keyId := id, sweepDone := sweepDone, zeroised := false
      wrapped := Config.wrap (keyPlain k g s.cat.nextAcc id) }
  let s1 := appendKey r { s with key := { s.key with nextKey := id, drbgUsed := s.key.drbgUsed + 1 } }
  zeroiseBelow k g { s1 with key := { s1.key with loaded := mapSet k id s1.key.loaded } }

/-! ## Renewals (R260, R261) -/

/-- The namespace and the locking range of a key slot. -/
def slotNsid (k : Nat) : Nat := k / 4 + 1
def slotRange (k : Nat) : Nat := k % 4

/-- Cards whose key slot is `k`, or every card of the namespace. -/
def intervalCards (s : State) (n : Namespace) (k : Nat) (whole : Bool) : List Nat :=
  (List.range (16 * n.shelves)).filter fun c => whole || rangeOfCard s n.nsid c = slotRange k

/-- A command touches the interval of slot `k`, or of the whole namespace: the ranges of a Dataset Management are not
known before its data. -/
def touchesInterval (s : State) (k : Nat) (whole : Bool) (e : SqEntry) : Bool :=
  whole || e.opcode = 0x09 || match nsAt s e.nsid with
    | none => true
    | some n => n.spanned.isSome
      || (cardsOf (firstSector n e) (sectorCount n e)).any fun c => rangeOfCard s n.nsid c = slotRange k

/-- Outstanding commands that touch the interval of a renewal (R260). -/
def outstandingOn (s : State) (k : Nat) (whole : Bool) : List Nat :=
  (s.nv.cmds.filter fun c => c.qid != 0 && c.e.opcode != 0x00 && c.e.nsid = slotNsid k
    && touchesInterval s k whole c.e).map fun c => c.slot

/-- A renewal that is asked for now. -/
def newRenewal (s : State) (k : Nat) (cmd session : Option Nat) (rekey whole : Bool) : Renewal :=
  { slot := k, cmd := cmd, session := session, reply := none, before := outstandingOn s k whole,
    rekey := rekey, whole := whole, loaded := false, lastSeq := 0 }

def addRenewals (l : List Renewal) (s : State) : State :=
  { s with key := { s.key with renewals := s.key.renewals ++ l } }

/-- The renewal of slot `k` that comes first. -/
def renewalAt (s : State) (k : Nat) : Option Renewal := s.key.renewals.find? fun r => r.slot = k

def modRenewal (r : Renewal) (f : Renewal → Renewal) (s : State) : State :=
  { s with key := { s.key with renewals := s.key.renewals.map fun x => if x = r then f x else x } }

/-- The commands, and the requests of other members, that a renewal waits for. -/
def renewalWaits (s : State) (r : Renewal) : Bool :=
  (outstandingOn s r.slot r.whole).any (fun n => r.before.contains n)
    || s.pel.txns.any fun t => t.nsid = slotNsid r.slot

/-- The renewals that go together with one another as one operation: those of a Format with SES 2
(R265), or of the deletion of a namespace. -/
def batchOf (s : State) (r : Renewal) : List Renewal :=
  if r.whole && r.cmd.isSome then s.key.renewals.filter fun x =>
      x.cmd = r.cmd && ! x.loaded && slotNsid x.slot = slotNsid r.slot else [r]

/-- The sweep of a renewal is appended; it begins at the start of its interval. -/
def appendSweep (r : Renewal) (s : State) : State :=
  match nsAt s (slotNsid r.slot) with
  | none => modRenewal r (fun x => { x with loaded := true, lastSeq := seqMark s }) s
  | some n =>
    let t := releaseCards n (intervalCards s n r.slot r.whole) s
    modRenewal r (fun x => { x with loaded := true, lastSeq := seqMark t }) t

/-- Format data sizes and protection type of a Format NVM (Table 10.8): LBAF is dword 10 [3:0], the protection
type [7:5], SES [11:9]. -/
def fmtLbaf (e : SqEntry) : Nat := bitsOf e.dw10 3 0
/-- MSET: metadata travels as part of an extended LBA (R227). -/
def fmtMset (e : SqEntry) : Bool := e.dw10.testBit 4
def fmtPi (e : SqEntry) : Nat := bitsOf e.dw10 7 5
def fmtSes (e : SqEntry) : Nat := bitsOf e.dw10 11 9

/-- The namespace takes the format of the Format command that a renewal serves. -/
def takeFormat (r : Renewal) (s : State) : State :=
  match r.cmd with
  | none => s
  | some slot => match cmdAt s slot with
    | none => s
    | some c =>
      if c.e.opcode != 0x80 then s
      else
        let f := fun (n : Namespace) =>
          { n with
            nsze := n.nsze * lbaBytes n / lbaBytes { n with lbaf := fmtLbaf c.e }
            lbaf := fmtLbaf c.e
            pi := fmtPi c.e
            extended := fmtMset c.e }
        { s with nv := { s.nv with
            nss := modWhere (fun n => n.nsid = slotNsid r.slot && n.spanned.isNone) f s.nv.nss } }

/-- A renewal runs: new keys for its batch, then one sweep; the records of the others of a batch wait for the
same sweep. -/
def runRenewal (r : Renewal) (s : State) : State :=
  let others := (batchOf s r).filter fun x => x != r
  let keys := if r.rekey then r.slot :: (others.map fun x => x.slot) else []
  let s1 := keys.foldl (fun t k => newKey k false t) (takeFormat r s)
  let s2 := appendSweep r s1
  others.foldl (fun t x => modRenewal x (fun y => { y with loaded := true, lastSeq := seqMark t }) t) s2

/-- RENEW_SLOT: once the commands touching the interval have drained. A renewal that a loss of power cut
begins its sweep again. -/
def execRenewSlot (slot : Nat) (s : State) : Outcome :=
  .next (match renewalAt s slot with
    | none => s
    | some r =>
      if ! serving s || s.lib.state != 0 then s
      else if r.loaded then (if r.lastSeq = 0 then appendSweep r s else s)
      else if renewalWaits s r || (r.rekey && (! drbgReady s || ! keyRoom s)) then s
      else runRenewal r s)

/-- An Opal response waits for Security Receive. -/
def opalAnswer (session status : Nat) (values : List Nat) (s : State) : State :=
  { s with key := { s.key with opalOut := s.key.opalOut ++ [(session, status, values)] } }

/-- Opal method status codes (TCG Storage Core): SUCCESS, NOT_AUTHORIZED, NO_SESSIONS_AVAILABLE,
INVALID_PARAMETER, FAIL. -/
def opSuccess : Nat := 0x00
def opDenied : Nat := 0x01
def opNoSession : Nat := 0x07
def opParameter : Nat := 0x0C
def opFail : Nat := 0x3F

/-- Local namespaces that a delete names: one, or with FFFFFFFFh all. -/
def deleteNames (s : State) (nsid : Nat) : List Nat :=
  (s.nv.nss.filter fun n => n.spanned.isNone && (n.nsid = nsid || nsid = 0xFFFFFFFF)).map fun n => n.nsid

/-- Namespaces that were being deleted are gone, with their ranges (R228, R263). -/
def dropNamespaces (l : List Nat) (s : State) : State :=
  { s with
    nv := { s.nv with nss := s.nv.nss.filter fun n => ! l.contains n.nsid }
    key := { s.key with ranges := s.key.ranges.filter fun x => ! l.contains x.nsid } }

/-- The command that asked for renewals completes: a delete drops its namespace. -/
def renewalCommandDone (slot : Nat) (s : State) : State :=
  match cmdAt s slot with
  | none => s
  | some c => finishOk slot 0 (if c.e.opcode = 0x0D then
      asyncEvent 2 0 (dropNamespaces (deleteNames s c.e.nsid) s) else s)

/-- A Sanitize goes on when no renewal is left: a crypto erase ends; a block erase takes every block stripe that
holds host cards (R266). -/
def sanitizeAdvance (s : State) : State :=
  if s.key.sanitize = 0 || ! s.key.renewals.isEmpty || ! s.key.sanForced.isEmpty then s
  else
    let used := (s.blk.table.filter fun e =>
      e.2.stream != 3 && decide (1 ≤ e.2.state) && decide (e.2.state ≤ 4)).map fun e => e.1
    if s.key.sanitize = 1 || used.isEmpty then
      { s with key := { s.key with sanitize := 0, sanStatus := 1 } }
    else
      let t := sealRows s
      let u := used.foldl (fun v n => forceVictim n none v) t
      { u with key := { u.key with sanForced := used } }

/-- What waited for a renewal hears of its end. -/
def renewalHeard (r : Renewal) (s : State) : State :=
  let s1 := match r.cmd with
    | some n => if s.key.renewals.any (fun x => x.cmd = some n) then s else renewalCommandDone n s
    | none => s
  let s2 := match r.session with
    | some n => if s1.key.renewals.any (fun x => x.session = some n) then s1 else opalAnswer n opSuccess [] s1
    | none => s1
  let s3 := match r.reply with
    | some (src, tag, rank) => sendDone { mkHdr 0 0 rank false tag 0 0 with src := src } scSuccess s2
    | none => s2
  sanitizeAdvance s3

/-- SWEEP_DURABLE: the sweep's records are programmed (for a release: durable, R265), SWEEP is programmed to
0x00, and the interval is served again. -/
def execSweepDurable (slot : Nat) (s : State) : Outcome :=
  .next (match renewalAt s slot with
    | none => s
    | some r =>
      let upTo := if r.rekey then s.led.progSeq else s.led.durable
      if ! serving s || s.lib.state != 0 || ! r.loaded || r.lastSeq = 0 || decide (upTo < r.lastSeq) then s
      else
        let s1 := if r.rekey then markSwept slot s else s
        renewalHeard r { s1 with key := { s1.key with
          renewals := dropFirst (fun x => x = r) s1.key.renewals } })

/-- A renewal fails for want of a key: nothing of its slot changes, and what asked for it hears the error
(R259). A failed Sanitize ends. -/
def renewalFails (r : Renewal) (s : State) : State :=
  let mine := fun (x : Renewal) => (r.cmd.isSome && x.cmd = r.cmd) || (r.session.isSome && x.session = r.session)
    || x = r
  let s1 : State := { s with key := { s.key with
    renewals := s.key.renewals.filter fun x => x.loaded || ! mine x } }
  let s2 := match r.cmd with
    | some n => finishErr n scInternal s1
    | none => s1
  let s3 := match r.session with
    | some n => opalAnswer n opFail [] s2
    | none => s2
  let s4 := match r.reply with
    | some (src, tag, rank) => sendDone { mkHdr 0 0 rank false tag 0 0 with src := src } scInternal s3
    | none => s3
  if s4.key.sanitize != 0 && r.cmd.isNone && r.session.isNone && r.reply.isNone then
    { s4 with key := { s4.key with sanitize := 0, sanStatus := 3 } }
  else s4

/-- The lowest NSID that no namespace of the device and no echelon-table entry holds (R228). -/
def freeNsid (s : State) : Option Nat :=
  let spanned := match folioInForce s with
    | some f => f.echelons.map fun (e : EchelonEntry) => e.nsid
    | none => []
  firstNat (fun n => (nsAt s n).isNone && ! spanned.contains n) 255 1

/-- KEYGEN_TIMEOUT: a key generation for slot `slot` has found no DRBG output for 10 ms. -/
def execKeygenTimeout (slot : Nat) (s : State) : Outcome :=
  .next (if drbgReady s || ! serving s then s
    else match s.key.renewals.find? fun r => r.slot = slot && r.rekey && ! r.loaded with
      | some r => renewalFails r s
      | none =>
        match s.nv.cmds.find? fun c => c.qid = 0 && c.e.opcode = 0x0D && bitsOf c.e.dw10 3 0 = 0
            && c.phase = .fetched with
        | some c =>
          if (freeNsid s).map (fun n => keySlot n 0) = some slot then finishErr c.slot scInternal s else s
        | none => s)

/-! ## Format NVM (R265, R321) -/

/-- Locking ranges of a namespace that exist. -/
def rangesOf (s : State) (nsid : Nat) : List Nat :=
  (s.key.ranges.filter fun x => x.nsid = nsid && x.r != 0 && x.len != 0).map fun x => x.r

/-- Ranges 1 to 3 of a namespace return to length 0. -/
def clearRanges (nsid : Nat) (s : State) : State :=
  { s with key := { s.key with
      ranges := s.key.ranges.filter fun x => ! (x.nsid = nsid && x.r != 0) } }

/-- The status with which a Format NVM is refused. -/
def formatStatus (s : State) (e : SqEntry) : Option (Nat × Nat) :=
  match nsAttached s e.nsid with
  | none => some scNsFormat
  | some _ =>
    if fmtLbaf e > 4 then some scNsFormat
    else if fmtSes e > 2 || decide (fmtPi e > 3) then some scField
    else if (fmtLbaf e = 0 || fmtLbaf e = 2) && fmtPi e != 0 then some scField
    else none

/-- The command runs, and its namespace is its own until it completes (R222). -/
def takeNamespace (slot nsid : Nat) (s : State) : State :=
  modCmd slot (fun c => { c with phase := .running })
    { s with nv := { s.nv with exclusive := s.nv.exclusive ++ [(slot, nsid)] } }

/-- FORMAT goes to every position that is in service, lagging or rebuilding (R321); SES travels in the
descriptor. -/
def sendFormat (slot e ses : Nat) (s : State) : State :=
  match viewOf s e with
  | none => s
  | some v => (v.places.filter fun p => decide (1 ≤ p.2) && decide (p.2 ≤ 3)).foldl (fun t p =>
      let h := mkHdr p.1 0x3 0 false 0 (2 ^ 56 * ecNsid t e) (2 ^ 24 * 0x08)
      startRequest (mkReq h (.desc { noDesc with echelon := e, viewNum := v.viewNum, role := ses })
        0x08 (.host slot) { noDesc with echelon := e } []) t) s

/-- A Format NVM with `local` what it does on a local namespace. -/
def formatNvm (slot : Nat) (own : Namespace → State → State) (c : Cmd) (s : State) : State :=
  match formatStatus s c.e, nsAt s c.e.nsid with
  | some st, _ => finishErr slot st s
  | none, none => finishErr slot scNsFormat s
  | none, some n => match n.spanned with
    | none => own n (takeNamespace slot n.nsid s)
    | some e => sendFormat slot e (fmtSes c.e) (takeNamespace slot n.nsid s)

/-- FORMAT_NVM_RELEASE: SES 0 and 1 release every card, and renew the slots of the ranges that go. -/
def execFormatNvmRelease (slot : Nat) (s : State) : Outcome :=
  .next (runAdmin slot (fun e => e.opcode = 0x80 && fmtSes e != 2) (formatNvm slot fun n t =>
    let gone := rangesOf t n.nsid
    clearRanges n.nsid (addRenewals
      (newRenewal t (keySlot n.nsid 0) (some slot) none false true ::
        gone.map fun r => newRenewal t (keySlot n.nsid r) (some slot) none true false) t)) s)

/-- FORMAT_NVM_CRYPTO_ERASE: SES 2 renews slots 0 to 3 with one sweep of the whole namespace. -/
def execFormatNvmCryptoErase (slot : Nat) (s : State) : Outcome :=
  .next (runAdmin slot (fun e => e.opcode = 0x80 && fmtSes e = 2) (formatNvm slot fun n t =>
    addRenewals ([0, 1, 2, 3].map fun r =>
      newRenewal t (keySlot n.nsid r) (some slot) none true true) t) s)

/-- A rebuilding position of this member ends its rebuild at once: every card is unmapped (R321). -/
def endRebuild (e : Nat) (s : State) : State :=
  match viewOf s e with
  | none => s
  | some v => match positionOf v s.pel.self with
    | none => s
    | some p =>
      if (placeAt v p).2 != 3 then s
      else settleDegraded (setPosition e p 1 (modEch e (fun y => { y with pointer := ecStripes s e }) s))

/-- EC_FORMAT: this member releases or renews its share; a rebuilding position ends its rebuild. -/
def formatShare (h : PacketHdr) (nsid ses : Nat) (s : State) : State :=
  match nsAt s nsid with
  | none => sendDone h scNsFormat s
  | some n =>
    if n.spanned.isNone || decide (ses > 2) then sendDone h scField s
    else
      let k := keySlot nsid 0
      let r := { newRenewal s k none none (decide (ses = 2)) true with reply := some (h.src, h.tag, h.rank) }
      addRenewals [r] (match n.spanned with | some e => endRebuild e s | none => s)

def execEcFormat (h : PacketHdr) (nsid ses : Nat) (s : State) : Outcome :=
  .next (agentCmd h 8 (formatShare h nsid ses) s)

/-! ## Sanitize (R266) -/

/-- SANACT: dword 10 [2:0]; No-Deallocate After Sanitize: bit 9. -/
def sanAct (e : SqEntry) : Nat := bitsOf e.dw10 2 0
def sanNoDealloc (e : SqEntry) : Bool := e.dw10.testBit 9

/-- Slots in use by the local namespaces. -/
def localSlots (s : State) : List Nat :=
  (s.nv.nss.filter fun n => n.spanned.isNone).flatMap fun n =>
    keySlot n.nsid 0 :: (rangesOf s n.nsid).map fun r => keySlot n.nsid r

/-- Dword 10 of the command in a slot. -/
def slotDw10 (s : State) (slot : Nat) : Nat := match cmdAt s slot with | some c => c.e.dw10 | none => 0

/-- A Sanitize begins; its command completes, and the log page reports progress (NVMe base specification). -/
def startSanitize (slot kind : Nat) (s : State) : State :=
  if s.key.sanitize != 0 then finishErr slot (0, 0x1D) s
  else
    let s1 : State := { s with key := { s.key with sanitize := kind, sanStatus := 2, sanDw := slotDw10 s slot } }
    let s2 := addRenewals ((localSlots s).map fun k => newRenewal s k none none true false) s1
    sanitizeAdvance (finishOk slot 0 s2)

/-- SANITIZE_CRYPTO_ERASE. -/
def execSanitizeCryptoErase (slot : Nat) (s : State) : Outcome :=
  .next (runAdmin slot (fun e => e.opcode = 0x84 && sanAct e = 4 && ! sanNoDealloc e)
    (fun _ => startSanitize slot 1) s)

/-- SANITIZE_BLOCK_ERASE. -/
def execSanitizeBlockErase (slot : Nat) (s : State) : Outcome :=
  .next (runAdmin slot (fun e => e.opcode = 0x84 && sanAct e = 2 && ! sanNoDealloc e)
    (fun _ => startSanitize slot 2) s)

/-- SANITIZE_INVALID: an overwrite, No-Deallocate, or another action. -/
def execSanitizeInvalid (slot : Nat) (s : State) : Outcome :=
  .next (runAdmin slot (fun e => e.opcode = 0x84
    && (sanNoDealloc e || ! (sanAct e = 2 || sanAct e = 4))) (fun _ => finishErr slot scField) s)

/-! ## TCG Opal (R262 to R264) -/

/-- Security protocol: dword 10 [31:24]. -/
def secProtocol (e : SqEntry) : Nat := bitsOf e.dw10 31 24

/-- A Security Send that carries an Opal method: protocols 01h and 02h; another protocol is refused. The command
completes, and the method's status waits for Security Receive. -/
def opalMethod (slot : Nat) (f : State → State) (s : State) : Outcome :=
  .next (runAdmin slot (fun e => e.opcode = 0x81) (fun c t =>
    if ! (secProtocol c.e = 1 || secProtocol c.e = 2) then finishErr slot scField t
    else finishOk slot 0 (f t)) s)

/-- The authority of a session; 0: none authenticated. -/
def authorityOf (s : State) (session : Nat) : Option Nat := mapGet session s.key.sessions

/-- A method of an authenticated session on a local namespace. -/
def opalOn (session nsid : Nat) (f : Namespace → State → State) (s : State) : State :=
  match authorityOf s session with
  | none => opalAnswer session opDenied [] s
  | some 0 => opalAnswer session opDenied [] s
  | some _ => match nsAt s nsid with
    | none => opalAnswer session opParameter [] s
    | some n => if n.spanned.isSome then opalAnswer session opParameter [] s else f n s

/-- A range's entry; unlisted: length 0, unlocked. -/
def rangeAt (s : State) (nsid r : Nat) : LockRange :=
  (s.key.ranges.find? fun x => x.nsid = nsid && x.r = r).getD
    { nsid := nsid, r := r, start := 0, len := 0, readLocked := false, writeLocked := false,
      onPower := false, onHot := false }

def setRange (x : LockRange) (s : State) : State :=
  { s with key := { s.key with
      ranges := s.key.ranges.filter (fun y => ! (y.nsid = x.nsid && y.r = x.r)) ++ [x] } }

/-- A range object that exists: the global range, or one of non-zero length. -/
def rangeLive (s : State) (nsid r : Nat) : Bool := r = 0 || (rangesOf s nsid).contains r

/-- The locking ranges that a namespace may have (Table 15.5); its global range is range 0. -/
def maxRange (s : State) : Nat := fld s 0x524

/-- OPAL_GENKEY: the slot is renewed; the response follows its end. -/
def execOpalGenkey (slot session nsid r : Nat) (s : State) : Outcome :=
  opalMethod slot (opalOn session nsid fun n t =>
    if decide (r > maxRange t) || ! rangeLive t n.nsid r then opalAnswer session opParameter [] t
    else addRenewals [newRenewal t (keySlot n.nsid r) none (some session) true false] t) s

/-- A range's bounds are legal: multiples of 4,096 inside the namespace, overlapping no other range. -/
def boundsLegal (s : State) (n : Namespace) (r start len : Nat) : Bool :=
  start % 4096 = 0 && len % 4096 = 0 && decide (start + len ≤ n.nsze * lbaBytes n)
    && ! s.key.ranges.any fun x => x.nsid = n.nsid && x.r != r && x.r != 0 && x.len != 0 && len != 0
      && decide (x.start < start + len) && decide (start < x.start + x.len)

/-- OPAL_SET_RANGE: only while RangeLength is 0; a non-zero length creates the range and renews its slot. -/
def execOpalSetRange (slot session nsid r start len : Nat) (s : State) : Outcome :=
  opalMethod slot (opalOn session nsid fun n t =>
    let x := rangeAt t n.nsid r
    if r = 0 || decide (r > maxRange t) || x.len != 0 || ! boundsLegal t n r start len then
      opalAnswer session opParameter [] t
    else
      let u := setRange { x with start := start, len := len } t
      if len = 0 then opalAnswer session opSuccess [] u
      else addRenewals [newRenewal u (keySlot n.nsid r) none (some session) true false] u) s

/-- OPAL_SET_LOCKING. -/
def execOpalSetLocking (slot session nsid r : Nat) (readLocked writeLocked : Bool) (s : State) : Outcome :=
  opalMethod slot (opalOn session nsid fun n t =>
    if r > maxRange t then opalAnswer session opParameter [] t
    else opalAnswer session opSuccess []
      (setRange { rangeAt t n.nsid r with readLocked := readLocked, writeLocked := writeLocked } t)) s

/-- Revert and RevertSP: every slot of the local namespaces is renewed, and every range returns to length 0. -/
def opalRevertAll (session : Nat) (s : State) : State :=
  let slots := localSlots s
  let t : State := { s with key := { s.key with ranges := [] } }
  if slots.isEmpty then opalAnswer session opSuccess [] t
  else addRenewals (slots.map fun k => newRenewal t k none (some session) true false) t

/-- OPAL_REVERT. -/
def execOpalRevert (slot session : Nat) (s : State) : Outcome :=
  opalMethod slot (fun t => match authorityOf t session with
    | none => opalAnswer session opDenied [] t
    | some 0 => opalAnswer session opDenied [] t
    | some _ => opalRevertAll session t) s

/-- StartSession, EndSession and Authenticate: at most 4 sessions, authorities 1 to 21 (SID, Admin1 to Admin4,
User1 to User16). -/
def opalSession (session method authority : Nat) (authOk : Bool) (s : State) : State :=
  let setTo := fun (l : List (Nat × Nat)) => ({ s with key := { s.key with sessions := l } } : State)
  match method with
  | 0 =>
    if (authorityOf s session).isSome || decide (4 ≤ s.key.sessions.length) then
      opalAnswer session opNoSession [] s
    else if decide (authority > 21) then opalAnswer session opParameter [] s
    else if authority != 0 && ! authOk then opalAnswer session opDenied [] s
    else opalAnswer session opSuccess [] (setTo (mapSet session authority s.key.sessions))
  | 1 => opalAnswer session opSuccess [] (setTo (mapDel session s.key.sessions))
  | _ =>
    if (authorityOf s session).isNone || decide (authority > 21) || ! authOk then
      opalAnswer session opDenied [] s
    else opalAnswer session opSuccess [] (setTo (mapSet session authority s.key.sessions))

/-- What Get returns of a range: RangeStart, RangeLength, ReadLocked, WriteLocked; a range whose slot is empty
reads as locked (R257). -/
def rangeValues (s : State) (nsid r : Nat) : List Nat :=
  let x := rangeAt s nsid r
  let empty := (keyLoaded s (keySlot nsid r)).isNone && rangeLive s nsid r
  [x.start, x.len, if x.readLocked || empty then 1 else 0, if x.writeLocked || empty then 1 else 0]

/-- OPAL_SESSION_METHOD. -/
def execOpalSessionMethod (slot session method authority nsid r arg : Nat) (authOk : Bool) (s : State) :
    Outcome :=
  opalMethod slot (fun t =>
    if method ≤ 2 then opalSession session method authority authOk t
    else if method = 3 then
      if (authorityOf t session).isNone then opalAnswer session opDenied [] t
      else match nsAt t nsid with
        | none => opalAnswer session opParameter [] t
        | some n =>
          if n.spanned.isSome || decide (r > maxRange t) then opalAnswer session opParameter [] t
          else opalAnswer session opSuccess (rangeValues t nsid r) t
    else if method = 4 then opalOn session nsid (fun n u =>
      if r > maxRange u then opalAnswer session opParameter [] u
      else opalAnswer session opSuccess []
        (setRange { rangeAt u n.nsid r with onPower := arg.testBit 0, onHot := arg.testBit 1 } u)) t
    else opalAnswer session opParameter [] t) s

/-- The response of a method: session, status and values of 8 bytes each. -/
def opalBlob (x : Nat × Nat × List Nat) : Blob :=
  { len := 8 + 8 * x.2.2.length
    fields := [(0, 4, x.1), (4, 4, x.2.1)] ++
      (List.range x.2.2.length).map fun i => (8 + 8 * i, 8, natAt x.2.2 i) }

/-- Security Receive of protocol 01h with the protocol-specific value 0001h, dword 10 [23:8]: Level 0 Discovery. -/
def asksDiscovery (e : SqEntry) : Bool := secProtocol e = 1 && bitsOf e.dw10 23 8 = 1

/-- The head of a feature descriptor at `o`: its code, version 1 and the length of what follows. -/
def featureHead (o code len : Nat) : List (Nat × Nat × Nat) :=
  [(o, 1, code / 256), (o + 1, 1, code % 256), (o + 2, 1, 0x10), (o + 3, 1, len)]

/-- Level 0 Discovery: the five feature descriptors of Table 11.9 after a header of 48 bytes, multi-byte fields most
significant byte first (PRESUMED, log entry 176). -/
def discoveryBlob (s : State) : Blob :=
  let locked := s.key.ranges.any fun x => x.readLocked || x.writeLocked
  { len := 156
    fields := [(3, 1, 152), (7, 1, 1)]
      -- TPer: synchronous, streaming
      ++ featureHead 48 0x0001 0x0C ++ [(52, 1, 0x11)]
      -- Locking: supported and enabled, locked, media encryption, no shadow MBR
      ++ featureHead 64 0x0002 0x0C ++ [(68, 1, 0x4B + if locked then 4 else 0)]
      -- Opal SSC V2: one Base ComID, four administrators, sixteen users; a command may cross ranges
      ++ featureHead 80 0x0203 0x10 ++ [(84, 1, Config.baseComId.toNat / 256), (85, 1, Config.baseComId.toNat % 256),
        (87, 1, 1), (90, 1, 4), (92, 1, 16)]
      -- Configurable Namespace Locking: 1,020 keys, the ranges that a namespace may have
      ++ featureHead 100 0x0403 0x10 ++ [(110, 1, 3), (111, 1, 0xFC), (119, 1, maxRange s)]
      -- Data Removal Mechanism: cryptographic erase
      ++ featureHead 120 0x0404 0x20 ++ [(126, 1, 4)] }

/-- SECURITY_RECEIVE: protocol 00h lists the protocols; 01h and 02h return Level 0 Discovery where it is asked for, else the
oldest response that waits, or an empty one. -/
def securityReceive (slot : Nat) (c : Cmd) (s : State) : State :=
  if secProtocol c.e = 0 then
    finishOk slot 0 (sendData slot { len := 11, fields := [(6, 2, 0x0300), (8, 1, 0), (9, 1, 1), (10, 1, 2)] } s)
  else if secProtocol c.e > 2 then finishErr slot scField s
  else if asksDiscovery c.e then finishOk slot 0 (sendData slot (discoveryBlob s) s)
  else match s.key.opalOut with
    | [] => finishOk slot 0 (sendData slot { len := 0, fields := [] } s)
    | x :: rest => finishOk slot 0 (sendData slot (opalBlob x)
        { s with key := { s.key with opalOut := rest } })

def execSecurityReceive (slot : Nat) (s : State) : Outcome :=
  .next (runAdmin slot (fun e => e.opcode = 0x82) (securityReceive slot) s)

end Sys2Proof.Machine
end

