-- ==== Sys2Proof/Machine/Spaces.lean ====
section
/-! DEFINITION. Namespaces (R24, R222, R228, R300, R359): shelf extents, creation and deletion, attachment, and
the shares of spanned namespaces. -/

namespace Sys2Proof.Machine

/-! ## Shelf extents (R24) -/

/-- Shelves of the configured user capacity. -/
def shelfTotal (s : State) : Nat := fld s 0x500 / 65536

/-- Shelves that namespaces hold, as (first, shelves) in rising order. -/
def takenExtents (s : State) : List (Nat × Nat) :=
  sortBy (fun (a b : Nat × Nat) => decide (a.1 < b.1)) (s.nv.nss.flatMap fun n => n.extents)

/-- The gaps before, between and after the extents `l` from shelf `at` up to `total`. -/
def gapsOf (total : Nat) : Nat → List (Nat × Nat) → List (Nat × Nat)
  | lo, [] => if lo < total then [(lo, total - lo)] else []
  | lo, (b, n) :: l =>
    if lo < b then (lo, b - lo) :: gapsOf total (b + n) l else gapsOf total (b + n) l

/-- The gaps of the shelf space, the largest first. -/
def freeGaps (s : State) : List (Nat × Nat) :=
  sortBy (fun (a b : Nat × Nat) => decide (b.2 < a.2)) (gapsOf (shelfTotal s) 0 (takenExtents s))

/-- `n` shelves out of the gaps, and what could not be had. -/
def carve : Nat → List (Nat × Nat) → List (Nat × Nat) × Nat
  | n, [] => ([], n)
  | n, (b, k) :: l =>
    if n = 0 then ([], 0)
    else if n ≤ k then ([(b, n)], 0)
    else ((b, k) :: (carve (n - k) l).1, (carve (n - k) l).2)

/-- Extents for `n` shelves: at most 16, inside the user capacity. -/
def takeExtents (s : State) (n : Nat) : Option (List (Nat × Nat)) :=
  let (l, left) := carve n (freeGaps s)
  if left = 0 && decide (l.length ≤ 16) then some l else none

/-! ## Namespaces -/

/-- A namespace enters, and its slot r = 0 gets a new key; it erases nothing. -/
def makeNamespace (n : Namespace) (s : State) : State :=
  newKey (keySlot n.nsid 0) true { s with nv := { s.nv with
    nss := sortBy (fun a b => decide (a.nsid < b.nsid)) (s.nv.nss ++ [n]) } }

/-- A local namespace of `nsze` LBAs of format `lbaf`. -/
def localNs (nsid nsze lbaf pi : Nat) (extents : List (Nat × Nat)) (attached : Bool) : Namespace :=
  let n : Namespace := { nsid := nsid, shelves := 0, nsze := nsze, lbaf := lbaf, pi := pi,
                         extents := extents, attached := attached, spanned := none }
  { n with shelves := ceilDiv (nsze * lbaBytes n) 65536 }

/-- A valid namespace default entry becomes a local namespace, attached (R359). -/
def makeDefault (d : NsDefault) (s : State) : State :=
  let bytes := if d.lbaf ≤ 1 then 512 else 4096
  let n := localNs d.nsid (d.size / bytes) d.lbaf 0 [] true
  match takeExtents s n.shelves with
  | some l => makeNamespace { n with extents := l } s
  | none => s

/-- This member's number as it stands at boot: static, or the one stored. -/
def bootNumber (s : State) : Option Nat := if fld s 0xC04 = 0 then some (fld s 0xC48) else rtValue s 0x20000

/-- This member's share of an echelon's spanned namespace: one shelf per stripe and the intent area (R300). -/
def makeShare (c : EchelonEntry) (s : State) : State :=
  if (nsAt s c.nsid).isSome then s
  else
    let shelves := ceilDiv c.capacity (c.k * 65536) + 1536
    match takeExtents s shelves with
    | none => s
    | some l =>
      let bytes := if c.lbaf ≤ 1 then 512 else 4096
      makeNamespace { nsid := c.nsid, shelves := shelves, nsze := c.capacity / bytes, lbaf := c.lbaf, pi := 0,
                      extents := l, attached := true, spanned := some c.echelon } s

/-- A member takes its shares at boot (R297). -/
def takeShares (s : State) : State :=
  match folioInForce s, bootNumber s with
  | some f, some m => (f.echelons.filter fun c => c.positions.contains m).foldl (fun t c => makeShare c t) s
  | _, _ => s

/-! ## Namespace Management and Attachment (Table 10.3) -/

/-- SEL: dword 10 [3:0]. -/
def selOf (e : SqEntry) : Nat := bitsOf e.dw10 3 0

/-- Already Attached and Not Attached (NVMe base specification). -/
def scAttached : Nat × Nat := (1, 0x18)
def scNotAttached : Nat × Nat := (1, 0x1A)

/-- A create with the LBA format and FLBAS bit 4 of the byte `lbaf`; for NSZE unequal to NCAP, or 0, the manual names no
status, and the model gives Invalid Field in Command (DESIGN CHOICE, log entry 157). -/
def createNs (slot nsze ncap lbaf pi : Nat) (s : State) : State :=
  if lbaf % 16 > 4 || decide (31 < lbaf) then finishErr slot scNsFormat s
  else if nsze != ncap || nsze = 0 || decide (pi > 3) || ((lbaf % 16 = 0 || lbaf % 16 = 2) && pi != 0) then
    finishErr slot scField s
  else match freeNsid s with
    | none => finishErr slot (1, 0x16) s
    | some nsid =>
      let n : Namespace := { localNs nsid nsze (lbaf % 16) pi [] false with extended := lbaf.testBit 4 }
      match takeExtents s n.shelves with
      | none => finishErr slot (1, 0x15) s
      | some l =>
        if ! drbgReady s || ! keyRoom s then s
        else finishOk slot nsid (makeNamespace { n with extents := l } s)

def execNamespaceCreate (slot nsze ncap lbaf pi : Nat) (s : State) : Outcome :=
  .next (runAdmin slot (fun e => e.opcode = 0x0D && selOf e = 0)
    (fun _ => createNs slot nsze ncap lbaf pi) s)

/-- The renewals that delete a namespace: slot r = 0, and the slots of its ranges, with one sweep. -/
def deleteRenewals (s : State) (slot nsid : Nat) : List Renewal :=
  (0 :: rangesOf s nsid).map fun r => newRenewal s (keySlot nsid r) (some slot) none true true

/-- NAMESPACE_DELETE: a spanned namespace is refused; the namespace goes once its cards are swept. -/
def deleteNs (slot : Nat) (c : Cmd) (s : State) : State :=
  let l := deleteNames s c.e.nsid
  if l.isEmpty then
    if c.e.nsid = 0xFFFFFFFF then finishOk slot 0 s
    else finishErr slot (if (nsAt s c.e.nsid).isSome then scField else scNsFormat) s
  else
    let t := addRenewals (l.flatMap fun n => deleteRenewals s slot n) s
    l.foldl (fun u n => takeNamespace slot n u) t

def execNamespaceDelete (slot : Nat) (s : State) : Outcome :=
  .next (runAdmin slot (fun e => e.opcode = 0x0D && selOf e != 0) (fun c t =>
    if selOf c.e = 1 then deleteNs slot c t else finishErr slot scField t) s)

def setAttached (nsid : Nat) (v : Bool) (s : State) : State :=
  { s with nv := { s.nv with
      nss := modWhere (fun n => n.nsid = nsid) (fun n => { n with attached := v }) s.nv.nss } }

/-- NAMESPACE_ATTACH. -/
def execNamespaceAttach (slot : Nat) (s : State) : Outcome :=
  .next (runAdmin slot (fun e => e.opcode = 0x15 && selOf e = 0) (fun c t =>
    match nsAt t c.e.nsid with
    | none => finishErr slot scNsFormat t
    | some n => if n.attached then finishErr slot scAttached t
      else finishOk slot 0 (setAttached n.nsid true t)) s)

/-- NAMESPACE_DETACH. -/
def execNamespaceDetach (slot : Nat) (s : State) : Outcome :=
  .next (runAdmin slot (fun e => e.opcode = 0x15 && selOf e != 0) (fun c t =>
    if selOf c.e != 1 then finishErr slot scField t
    else match nsAt t c.e.nsid with
      | none => finishErr slot scNsFormat t
      | some n => if n.attached then finishOk slot 0 (setAttached n.nsid false t)
        else finishErr slot scNotAttached t) s)

end Sys2Proof.Machine
end

