-- ==== Sys2Proof/Machine/Folio.lean ====
section
/-! DEFINITION. The Folio (R4, R347 to R369): the checks of a bank, staging and commit, live fields and their
boundaries, and the training area. -/

namespace Sys2Proof.Machine

/-! ## Bank checks (R350, Table 15.3) -/

/-- The value of the slot at `off` in an image. -/
def imf (f : FolioImage) (off : Nat) : Nat := imageField f (off / 4)

/-- The first sector of Folio A or B. -/
def bankSector (isB : Bool) : Nat := if isB then 112 else 96

/-- Check 0x01: no sector of the bank's first 768 KiB has its flag cell set. -/
def sectorsOk (s : State) (isB : Bool) : Bool :=
  (List.range 12).all fun i => ! flagged s (bankSector isB + i)

/-- Check 0x02. -/
def headerOk (f : FolioImage) : Bool := f.headerOk && f.sequence != 0 && (f.schema = 3 || f.schema = 4)

/-- Check 0x04: reserved bytes are zero, and in schema 3 so are the slots that schema 4 adds. -/
def reservedOk (f : FolioImage) : Bool :=
  f.reservedOk && (f.schema != 3 || schema4Fields.all fun o => (mapGet (o / 4) f.slots).getD 0 = 0)

/-- A value lies within its field's bits and range. -/
def inRange (r : FieldRow) (v : Nat) : Bool := decide (v < 2 ^ r.bits) && decide (r.lo ≤ v) && decide (v ≤ r.hi)

/-- The range of every slot the bank lists, and that of the default of every other. -/
def slotsOk (f : FolioImage) : Bool :=
  f.slots.all (fun x => match fieldRow x.1 with
    | some r => (f.schema = 3 && schema4Fields.contains r.off) || inRange r x.2
    | none => false)

/-- The pairs of R357 by slot: the first is at most the second, or (`true`) below it. -/
def pairs : List (Nat × Nat × Bool) :=
  [(0x608, 0x60C, false), (0x624, 0x620, false), (0x6CC, 0x6D0, false), (0x784, 0x788, false)] ++
    [0, 1, 2, 3].flatMap fun p =>
      [(0xA48 + 0x40 * p, 0xA44 + 0x40 * p, true), (0xA44 + 0x40 * p, 0xA4C + 0x40 * p, true)]

/-- A pair holds for the values that `v` gives. -/
def pairOk (v : Nat → Nat) (p : Nat × Nat × Bool) : Bool :=
  if p.2.2 then decide (v p.1 < v p.2.1) else decide (v p.1 ≤ v p.2.1)

/-- KiB of the transit pools of an image. -/
def transitKiB (f : FolioImage) : Nat := 4 * imf f 0x514 + 16 * imf f 0x518 + 64 * imf f 0x51C + 256 * imf f 0x520

/-- DRAM data rates of Table 14.1. -/
def dramRates : List Nat := [8800, 8000, 7200, 6400, 5600, 4800]

/-- Check 0x05: ranges, single and in pairs. -/
def rangesOk (f : FolioImage) : Bool :=
  slotsOk f && pairs.all (pairOk (imf f)) && imf f 0x404 != 0x6A && imf f 0x500 % 65536 = 0
    && imf f 0xC44 &&& imf f 0xC40 = imf f 0xC44
    && decide (transitKiB f ≤ 114432) && decide (imf f 0x510 + 16 ≤ imf f 0x520)
    && dramRates.contains (imf f 0x2004) && decide (imf f 0x2000 / 256 % 4 ≤ 2)
    && decide (imf f 0x2000 / 65536 ≤ 1) && imf f 0x2000 / 2 % 128 = 0 && imf f 0x2000 / 1024 % 64 = 0
    && f.echelons.all (fun e => decide (2 ≤ e.k) && decide (e.k ≤ 16) && decide (e.spares.length ≤ 4)
      && decide (e.lbaf ≤ 4) && decide (1 ≤ e.nsid) && decide (e.nsid ≤ 255) && decide (e.echelon ≤ 63))
    && f.namespaces.all (fun n => decide (1 ≤ n.nsid) && decide (n.nsid ≤ 255) && decide (n.lbaf ≤ 4))
    && (f.namespaces.map fun n => n.nsid).Nodup
    && decide (2400 ≤ f.maxFlashRate) && decide (f.maxFlashRate ≤ 4800) && f.maxFlashRate % 400 = 0

/-- The die profile of a channel in an image. -/
def imageProfile (f : FolioImage) (ch : Nat) : Option DieProfile :=
  match f.roster.find? fun r => r.channel = ch with
  | some r => f.profiles[r.dieProfile]?
  | none => none

/-- Least page spare of an LDPC profile (Table 5.3). -/
def spareNeed (ldpc : Nat) : Nat := if ldpc = 0 then 1984 else if ldpc = 1 then 2496 else 1408

/-- A+1 of R169 for a die profile; it must be at least 3, and PSLC_PAGES must exceed A. -/
def allowanceOk (g : DieProfile) : Bool :=
  let q := 2400 / max 1 g.tProgPslc
  decide (3 ≤ q) && decide (q ≤ g.pslcPages)

/-- The die of a profile meets Table 5.3: geometry, the spare of its cell type's shortest code, and feature entries for
pSLC on and off, read offsets, 2-bit and 3-bit soft reads (R113, R361). -/
def profileOk (g : DieProfile) : Bool :=
  decide (1 ≤ g.densityTb) && decide (g.densityTb ≤ 4)
    && decide (g.cell ≤ 1) && decide (2 ≤ g.planes) && decide (g.planes ≤ 8) && decide (g.blocks ≤ 8192)
    && decide (g.pages ≤ 2048) && decide ((if g.cell = 0 then spareNeed 2 else spareNeed 0) ≤ g.spareBytes)
    && [1, 2, 3, 4, 5].all (fun n => g.functions.any fun x => x.1 = n)
    && g.functions.all (fun x => decide (x.1 ≤ 6)) && decide (g.functions.length ≤ 16)
    && decide (g.retryCount ≤ 15) && allowanceOk g

/-- A Roster source entry names a valid die profile, with the spare of its LDPC profile (R113). -/
def sourceOk (f : FolioImage) (r : RosterSource) : Bool :=
  match f.profiles[r.dieProfile]? with
  | none => false
  | some g => g.valid && decide (r.ldpcProfile ≤ 2) && decide (spareNeed r.ldpcProfile ≤ g.spareBytes)

/-- The present dies of an image. -/
def presentDies (f : FolioImage) : List (Nat × Nat) :=
  f.roster.flatMap fun r => ((List.range 32).filter fun t => r.present.getLsbD t).map fun t => (r.channel, t)

/-- Geometry that all dies of a lane share. -/
def shape (f : FolioImage) (ch : Nat) : Option (Nat × Nat × Nat × Nat) :=
  (imageProfile f ch).map fun g => (g.planes, g.blocks, g.pages, g.cell)

/-- Channels of an image that carry a present die. -/
def imageChannels (f : FolioImage) : Nat := ((presentDies f).map fun d => d.1).eraseDups.length

/-- A lane holds exactly STRIPE_K + 2 dies at distinct slots, on distinct channels where the image has as many channels
with dies, else at most two on one, of one geometry (R61). -/
def laneOk (f : FolioImage) (lane : Nat) : Bool :=
  let own := f.lanes.filter fun e => e.lane = lane
  let w := imf f 0x508 + 2
  let most := if w ≤ imageChannels f then 1 else 2
  own.length = w && (own.map fun e => e.slot).Nodup && own.all (fun e => decide (e.slot < w))
    && own.all (fun e => decide ((own.filter fun x => x.channel = e.channel).length ≤ most))
    && own.all fun e => own.all fun x => shape f e.channel = shape f x.channel

/-- Check 0x06: die profiles and lanes (R61, R113, R169, R170). -/
def lanesOk (f : FolioImage) : Bool :=
  f.profiles.all (fun g => ! g.valid || profileOk g)
    && f.roster.all (fun r => r.present = 0 || sourceOk f r)
    && (f.lanes.map fun e => e.lane).eraseDups.all (fun l => laneOk f l)
    && f.lanes.all (fun e => decide (e.lane ≤ 127) && (presentDies f).contains (e.channel, e.target))
    && (presentDies f).all (fun d => (f.lanes.filter fun e => e.channel = d.1 && e.target = d.2).length = 1)

/-- DRAM of an image in MiB (Table 14.1): 4 or 8 data devices to a rank of a subchannel. -/
def dramMiB (f : FolioImage) : Nat :=
  let w := imf f 0x2000
  let dev := [2048, 3072, 4096].getD (w / 256 % 4) 0
  8 * (if w % 2 = 1 then 8 else 4) * dev * (if w / 65536 % 2 = 1 then 2 else 1)

/-- Bytes of DRAM left for fine segments (R57). -/
def restBytes (f : FolioImage) : Int :=
  let d : Int := 1048576 * dramMiB f
  d - d / 200 - 1610612736 - d / 16 - (imf f 0x500 / 8192 : Nat)

/-- Geometry of an image: that of its first lane-table entry. -/
def imageGeometry (f : FolioImage) : Option DieProfile :=
  match f.lanes with
  | [] => none
  | e :: _ => imageProfile f e.channel

/-- Plane groups of an image. -/
def imageGroups (f : FolioImage) (g : DieProfile) : Nat := f.lanes.foldl (fun m e => max m (e.lane + 1)) 0 * g.planes

/-- The reserves of R104, in block stripes: last write, Ledger (in whole extents), Daybook. -/
def reserveCounts (k pslcPages transit : Nat) : Nat × Nat × Nat :=
  let stripe := 4 * pslcPages * k
  let l := extentPages k
  (ceilDiv transit (4096 * max 1 stripe) + 1,
    ceilDiv (65536 + 4 * k * l) (max 1 (pslcPages / max 1 l * (4 * k * l))), 1)

/-- The member numbers that hold a position of an echelon with this member, in an image. -/
def sharesHere (f : FolioImage) (me : Option Nat) : List EchelonEntry :=
  match me with
  | some m => f.echelons.filter fun e => e.positions.contains m
  | none => []

/-- Shelves of a member's share. -/
def shareShelves (e : EchelonEntry) : Nat := ceilDiv e.capacity (e.k * 65536) + 1536

/-- Check 0x07: R57, R104 and the capacities. -/
def capacityOk (me : Option Nat) (f : FolioImage) : Bool :=
  match imageGeometry f with
  | none => false
  | some g =>
    let k := imf f 0x508
    let cap := imf f 0x500
    let groups := imageGroups f g
    let stackCards := groups * (g.blocks - imf f 0x50C) * (4 * g.pages * k)
    let (a, b, c) := reserveCounts k g.pslcPages (1024 * transitKiB f)
    let local? := (f.namespaces.map fun n => 65536 * ceilDiv n.size 65536).sum
    let shares := ((sharesHere f me).map fun e => 65536 * shareShelves e).sum
    decide (2147483648 ≤ restBytes f) && decide (cap ≤ 512000000000000)
      && decide (2 * (2 * groups) ≤ (stackCards - cap / 4096) / max 1 (4 * g.pages * k))
      && decide (a + b + c + 2 * groups ≤ groups * imf f 0x50C) && decide (local? + shares ≤ cap)

/-- Check 0x08: 16 to 64 GiB per channel. -/
def dramOk (f : FolioImage) : Bool := decide (65536 ≤ dramMiB f) && decide (dramMiB f ≤ 262144)

/-- Check 0x09: R297, and no NSID twice. -/
def echelonsOk (me : Option Nat) (f : FolioImage) : Bool :=
  f.echelons.all (fun e => e.positions.length = e.k + 2 && (e.positions ++ e.spares).Nodup)
    && (f.echelons.map fun e => e.echelon).Nodup && (f.echelons.map fun e => e.nsid).Nodup
    && f.namespaces.all (fun n => ! (f.echelons.map fun e => e.nsid).contains n.nsid)
    && (sharesHere f me).all fun e => decide (65536 * shareShelves e ≤ imf f 0x500)

/-- The layout digest stored at the first start (R362). -/
def layoutKey : Nat := 0x60000

/-- Check 0x0A. -/
def layoutOk (s : State) (f : FolioImage) : Bool :=
  match rtValue s layoutKey with
  | some d => d = f.layoutDigest
  | none => true

/-- This member's number under an image: static, or the one stored. -/
def memberUnder (s : State) (f : FolioImage) : Option Nat :=
  if imf f 0xC04 = 0 then some (imf f 0xC48)
  else ((rtRecords s).filter fun r => r.key = 0x20000 && r.binding = imf f 0xC00).getLast?.map fun r => r.value

/-- The code of the first check from 0x02 on that an image fails; 0: it passes. -/
def imageCode (s : State) (f : FolioImage) : Nat :=
  if ! headerOk f then 2 else if ! f.crcOk then 3 else if ! reservedOk f then 4 else if ! rangesOk f then 5
  else if ! lanesOk f then 6 else if ! capacityOk (memberUnder s f) f then 7 else if ! dramOk f then 8
  else if ! echelonsOk (memberUnder s f) f then 9 else if ! layoutOk s f then 10 else 0

/-- The code of the first check that a bank fails; none: it is empty. -/
def bankCode (s : State) (isB : Bool) : Option Nat :=
  match (if isB then s.fol.bankB else s.fol.bankA) with
  | .empty => if sectorsOk s isB then none else some 1
  | .image f => some (if ! sectorsOk s isB then 1 else imageCode s f)

/-- A valid bank's image. -/
def validBank (s : State) (isB : Bool) : Option FolioImage :=
  if bankCode s isB = some 0 then (if isB then s.fol.bankB else s.fol.bankA).image? else none

/-- The bank that step 2 takes: the valid one with the higher SEQUENCE, Folio A among equals (R351). -/
def chooseBank (s : State) : Option Bool :=
  match validBank s false, validBank s true with
  | some a, some b => some (decide (a.sequence < b.sequence))
  | some _, none => some false
  | none, some _ => some true
  | none, none => none

/-! ## FOLIO_STAGE and FOLIO_COMMIT (R240, R368) -/

/-- The offset of a stage, in 4 KiB units, is staged. -/
def stageUnit (off : Nat) (s : State) : State :=
  { s with fol := { s.fol with staged := if s.fol.staged.contains off then s.fol.staged else off :: s.fol.staged } }

/-- A stage's length is legal: at most 4 KiB. -/
def stageLegal (e : SqEntry) : Bool := decide (e.dw11 ≤ 1023)

/-- FOLIO_STAGE: COMMIT is dword 10 bit 31, OFFSET [7:0]. -/
def execFolioStage (slot : Nat) (s : State) : Outcome :=
  .next (runAdmin slot (fun e => e.opcode = 0xC5 && ! e.dw10.testBit 31) (fun c t =>
    if ! stageLegal c.e then finishErr slot scField t
    else finishOk slot 0 (stageUnit (bitsOf c.e.dw10 7 0) t)) s)

/-- The newest training result of each KIND and UNIT. -/
def storedTraining (l : List TrainRec) : List TrainRec :=
  l.filter fun r => ! l.any fun x => x.kind = r.kind && x.unit = r.unit && decide (r.seq < x.seq)

/-- Training records of a bank. -/
def trainingOf (s : State) (isB : Bool) : List TrainRec := if isB then s.fol.trainB else s.fol.trainA

def setTraining (isB : Bool) (l : List TrainRec) (s : State) : State :=
  { s with fol := if isB then { s.fol with trainB := l } else { s.fol with trainA := l } }

/-- The bank that a commit writes: the one not in force. -/
def targetBank (s : State) : Bool := s.fol.inForce != some true

/-- The highest SEQUENCE of a valid bank. -/
def topSequence (s : State) : Nat :=
  ((validBank s false).toList ++ (validBank s true).toList).foldl (fun m f => max m f.sequence) 0

/-- The 16 sectors of a bank. -/
def bankSectors (isB : Bool) : List Nat := (List.range 16).map fun i => bankSector isB + i

/-- The target bank takes the image, with the stored training results (steps 4 and 5 of R368). -/
def writeBank (img : FolioImage) (good : Bool) (s : State) : State :=
  let b : Bank := .image { img with crcOk := good }
  let isB := targetBank s
  setTraining isB (storedTraining (trainingOf s (! isB))) { s with
    fol := if isB then { s.fol with bankB := b, commit := true, committing := none, staged := [] }
      else { s.fol with bankA := b, commit := true, committing := none, staged := [] } }

/-- The code under which a staged image fails: a part not staged reads 0xFF. -/
def stageCode (s : State) (img : FolioImage) : Nat :=
  let c := imageCode s img
  if c != 0 then c
  else if (List.range 256).all fun u => s.fol.staged.contains u then 0
  else if s.fol.staged.contains 0 then 4 else 2

/-- A CONFIG record of kind 0. -/
def noteCommit (s : State) (code : Nat) (sequence : Nat) : State :=
  record 0x0601 [(1, 0), (2, if targetBank s then 1 else 0), (1, code), (8, sequence)] s

/-- Steps 1 to 3 of R368: the stage image is checked, SEQUENCE is raised, and the erases of the target bank begin. -/
def commitBegin (slot : Nat) (img : FolioImage) (e : SqEntry) (s : State) : State :=
  if ! stageLegal e then finishErr slot scField s
  else
    let t := stageUnit (bitsOf e.dw10 7 0) s
    let code := stageCode t img
    if code != 0 then finishErr slot scField (noteCommit t code img.sequence)
    else
      let u : State := { t with fol := { t.fol with
        committing := some (slot, { img with sequence := topSequence t + 1 }) } }
      eraseSectors (bankSectors (targetBank t)) (modCmd slot (fun c => { c with phase := .running }) u)

/-- Steps 4 to 6: the bank is programmed, read back and checked again. -/
def commitEnd (slot : Nat) (img : FolioImage) (readBackOk : Bool) (s : State) : State :=
  let good := readBackOk && ! anyFlagged (bankSectors (targetBank s)) s
  let t := writeBank img good (noteCommit s (if good then 0 else 3) img.sequence)
  if good then finishOk slot 0 t else finishErr slot scField t

/-- FOLIO_COMMIT: its first event checks the stage image and begins the erases; one after the erases programs the bank
and ends the command. -/
def execFolioCommit (slot : Nat) (img : FolioImage) (readBackOk : Bool) (s : State) : Outcome :=
  .next (match s.fol.committing with
    | none => runAdmin slot (fun e => e.opcode = 0xC5 && e.dw10.testBit 31) (fun c => commitBegin slot img c.e) s
    | some (n, x) =>
      if n = slot && serving s && erasesOver (bankSectors (targetBank s)) s then commitEnd slot x readBackOk s else s)

/-! ## Live fields (R238, R357, R365) -/

/-- A live field's value as a later check sees it: its pending value, else the one in force. -/
def pendOr (s : State) (off : Nat) : Nat := (mapGet (off / 4) s.fol.pend).getD (fld s off)

/-- The pairs that name the slot at `off` hold with `v` there. -/
def pairsHold (s : State) (off v : Nat) : Bool :=
  (pairs.filter fun p => p.1 = off || p.2.1 = off).all
    (pairOk fun o => if o = off then v else pendOr s o)

/-- FIELD and LEN: dword 10 [15:0], dword 11 [6:0]. -/
def fieldOf (e : SqEntry) : Nat := bitsOf e.dw10 15 0
def lenOf (e : SqEntry) : Nat := bitsOf e.dw11 6 0

/-- A Live Field Set that is accepted. -/
def setLegal (s : State) (e : SqEntry) (v : Nat) : Bool :=
  match fieldRow (fieldOf e) with
  | some r => r.kind = 1 && lenOf e = r.len && inRange r v && pairsHold s r.off v
  | none => false

/-- LIVE_FIELD_SET: it waits for a place of its record (R408). -/
def execLiveFieldSet (slot value : Nat) (s : State) : Outcome :=
  .next (runAdmin slot (fun e => e.opcode = 0xC1) (fun c t =>
    let key := 0x10000 + fieldOf c.e
    if ! setLegal t c.e value || rtFull t key then finishErr slot scField t
    else if ! rtRoom t then t
    else
      let t1 := storeRt key value t
      let t2 : State := { t1 with fol := { t1.fol with pend := mapSet (fieldOf c.e) value t1.fol.pend } }
      finishOk slot 0 (record 0x0403 [(2, fieldOf c.e), (1, lenOf c.e), (8, value)] t2)) s)

/-- LIVE_FIELD_GET: any slot field; 128 bytes, and PENDING in dword 0. -/
def execLiveFieldGet (slot : Nat) (s : State) : Outcome :=
  .next (runAdmin slot (fun e => e.opcode = 0xC2) (fun c t =>
    match fieldRow (fieldOf c.e) with
    | none => finishErr slot scField t
    | some r =>
      let p := mapGet (fieldOf c.e) t.fol.pend
      finishOk slot (if p.isSome then 1 else 0) (sendData slot
        { len := 128, fields := [(0, 8, fld t r.off), (64, 8, p.getD 0)] } t)) s)

/-- A hold-up test under way ends without a result when the Coast policy is no longer armed: no test runs then (R176;
that it counts nowhere is DEDUCED, log entry 168). -/
def endTest (s : State) : State :=
  if fld s 0x6C0 = 1 || s.coast.test = .none then s
  else { s with coast := { s.coast with test := .none }, pins := { s.pins with holdupDevLow := false } }

/-- A pending value takes effect. -/
def takePending (field v : Nat) (s : State) : State :=
  endTest { s with fol := { s.fol with
      pend := mapDel field s.fol.pend
      live := mapPut (bankField s (4 * field)) field v s.fol.live } }

/-- The profile selector. -/
def profileField : Nat := 0x280

/-- The parameter of Table 3.7 that a field of set `p` is. -/
def paramOf (p field : Nat) : Option Nat :=
  firstNat (fun k => field = (0xA40 + 0x40 * p + 4 * k) / 4) 7 0

/-- A parameter takes its value from the pending profile; with the last one the profile is in force (R82). -/
def takeParam (p k : Nat) (s : State) : State :=
  let l := s.fol.profOf.set k p
  let t : State := { s with fol := { s.fol with profOf := l } }
  if l.all fun x => x = p then takePending profileField p t else t

/-- LIVE_FIELD_BOUNDARY: the boundary of the field at FIELD comes. -/
def execLiveFieldBoundary (field : Nat) (s : State) : Outcome :=
  .next (if ! awake s then s
    else
      let t := match mapGet field s.fol.pend with
        | some v => if field = profileField then s else takePending field v s
        | none => s
      match mapGet profileField t.fol.pend with
      | none => t
      | some p => match paramOf p field with
        | some k => takeParam p k t
        | none => t)

/-! ## The training area (R366, R367) -/

/-- A record is appended; with fewer than 72 of the 256 places of its half free, the stored results move to the
other half first. -/
def appendTraining (isB : Bool) (r : TrainRec) (s : State) : State :=
  let l := trainingOf s isB
  if 184 < l.length then
    let t := setTraining isB (storedTraining l ++ [r]) s
    { t with fol := { t.fol with trHalf := 1 - t.fol.trHalf } }
  else setTraining isB (l ++ [r]) s

/-- The payload of a record of KIND 1: the training fields of the channel's Roster entry (Table 15.17). -/
def trainPayload (s : State) (r : TrainRec) : TrainRec :=
  match (if r.kind = 1 then mapGet r.unit s.fl.chans else none) with
  | none => r
  | some c => { r with
      centres := c.copy.training, trainTime := c.copy.trainTime, trainCount := c.copy.trainCount
      trainTemp := c.copy.trainTemp }

/-- TRAINING_RECORD_APPEND: into the bank in force, and after a commit into both. -/
def execTrainingRecordAppend (kind unit rate matchWord : Nat) (s : State) : Outcome :=
  .next (match s.fol.inForce with
    | none => s
    | some isB =>
      if ! awake s || ! (kind = 1 || kind = 2) || decide (63 < unit) || (kind = 2 && decide (7 < unit)) then s
      else
        let r := trainPayload s { kind := kind, unit := unit, seq := s.fol.trSeq + 1, rate := rate,
                                  mtch := matchWord, timeMs := s.clock.opMs }
        let t := appendTraining isB r { s with fol := { s.fol with trSeq := s.fol.trSeq + 1 } }
        if t.fol.commit then appendTraining (! isB) r t else t)

/-- The stored training result of a KIND and UNIT that counts: MATCH and RATE as the bank in force requires. -/
def trainingCounts (s : State) (kind unit : Nat) (rateOk : Nat → Bool) (m : Nat) : Bool :=
  match s.fol.inForce with
  | none => false
  | some isB => (storedTraining (trainingOf s isB)).any fun r =>
      r.kind = kind && r.unit = unit && r.mtch = m && rateOk r.rate

/-! ## Retire (R239) -/

/-- Dies in service of every lane once those in `gone` are out. -/
def lanesKeep (s : State) (gone : List (Nat × Nat)) : Bool :=
  ((lanesInForce s).map fun e => e.lane).eraseDups.all fun l =>
    decide (8 ≤ ((laneDies s l).filter fun e =>
      ! dieRetired s e.channel e.target && ! gone.contains (e.channel, e.target)).length)
      || ! (laneDies s l).any fun e => gone.contains (e.channel, e.target)

/-- Retire's fields: WHOLE [31], CHANNEL [13:8], TARGET [4:0]. -/
def retWhole (e : SqEntry) : Bool := e.dw10.testBit 31
def retChannel (e : SqEntry) : Nat := bitsOf e.dw10 13 8
def retTarget (e : SqEntry) : Nat := bitsOf e.dw10 4 0

/-- The command waits until the Roster sync is in force. -/
def waitSync (slot : Nat) (s : State) : State := modCmd slot (fun c => { c with phase := .running }) s

/-- RETIRE_DIE. -/
def execRetireDie (slot : Nat) (s : State) : Outcome :=
  .next (runAdmin slot (fun e => e.opcode = 0xC4 && ! retWhole e) (fun c t =>
    let ch := retChannel c.e
    let d := retTarget c.e
    if ! (servingDies t ch).contains d || ! lanesKeep t [(ch, d)] then finishErr slot scField t
    else resumeAll (settleChannel ch (retireDie ch d 5 (waitSync slot t)))) s)

/-- RETIRE_CHANNEL. -/
def execRetireChannel (slot : Nat) (s : State) : Outcome :=
  .next (runAdmin slot (fun e => e.opcode = 0xC4 && retWhole e) (fun c t =>
    let ch := retChannel c.e
    let l := servingDies t ch
    if l.isEmpty || ! lanesKeep t (l.map fun d => (ch, d)) then finishErr slot scField t
    else resumeAll (retireChannelDies ch 5 (waitSync slot t))) s)

/-! ## Fox Report (R241) -/

/-- A card of a namespace carries a fox mark in the Catalogue. -/
def foxAt (s : State) (n : Namespace) (c : Nat) : Bool :=
  match cardPlace n c with
  | none => false
  | some (sh, i) => match shelfCard (shelfNow s sh) i with
    | some (_, _, fox) => fox
    | none => false

/-- The marked cards among `n` from card `c` on, at most `room` of them, and the first card not scanned: the scan stops when
the buffer is full. -/
def foxScan (s : State) (ns : Namespace) : Nat → Nat → Nat → List Nat × Nat
  | 0, c, _ => ([], c)
  | n + 1, c, room =>
    if room = 0 then ([], c)
    else if foxAt s ns c then
      (c :: (foxScan s ns n (c + 1) (room - 1)).1, (foxScan s ns n (c + 1) (room - 1)).2)
    else foxScan s ns n (c + 1) room

/-- The lookup of a shelf: it sets REF of a resident segment, and costs the miss of R38 where the page or the segment is
not resident. -/
def lookUp (shelf : Nat) (s : State) : State := loadFor shelf (touchSegment shelf s)

/-- The lookups of the cards from `first` to before `stop`. -/
def foxLookups (n : Namespace) (first stop : Nat) (s : State) : State :=
  (List.range (stop - first)).foldl (fun t j => match cardPlace n (first + j) with
    | some (sh, _) => lookUp sh t
    | none => t) s

/-- FOX_REPORT: dword 12 the cards to scan minus 1, dword 13 the buffer's dwords minus 1. -/
def foxReport (slot : Nat) (c : Cmd) (s : State) : State :=
  match nsAttached s c.e.nsid with
  | none => finishErr slot scNsFormat s
  | some n =>
    let bytes := 4 * (c.e.dw13 + 1)
    let first := firstSector n c.e / 8
    let cards := ceilDiv (n.nsze * lbaSectors n) 8
    if n.spanned.isSome || decide (16777215 < c.e.dw12) || decide (1048576 < bytes) then
      finishErr slot scField s
    else if n.nsze ≤ slbaOf c.e then finishErr slot scRange s
    else
      let (marked, stop) := foxScan s n (min (c.e.dw12 + 1) (cards - first)) first ((bytes - 16) / 8)
      foxLookups n first stop (finishOk slot marked.length (sendData slot
        { len := 16 + 8 * marked.length
          fields := [(0, 4, marked.length), (8, 8, cardLba n stop)] ++
            (List.range marked.length).map fun i => (16 + 8 * i, 8, cardLba n (natAt marked i)) } s))

def execFoxReport (slot : Nat) (s : State) : Outcome :=
  .next (runAdmin slot (fun e => e.opcode = 0xC6) (foxReport slot) s)

end Sys2Proof.Machine
end

