-- ==== Sys2Proof/Machine/Boot.lean ====
section
/-! DEFINITION. Power states and steps 1 to 4 of start-up (R188 to R193, R410, R422, R423, R351, R376, R333, R116,
R127 to R129, R246, R256): what survives without power, the accession set, the Folio bank, DRAM, channels and
keys. -/

namespace Sys2Proof.Machine

/-! ## What survives (R165, R183, R187, R251, R364, R395) -/

/-- The Codex die without power: its array, flag cells, row and swap cells stay. -/
def codexKept (c : Codex) : Codex :=
  { State.reset.cdx with
    mem := c.mem, pageProgs := c.pageProgs, flags := c.flags, colophon := c.colophon, swap0 := c.swap0
    swap1 := c.swap1, powerCycles := c.powerCycles, pcRecords := c.pcRecords, recRecords := c.recRecords
    serial := c.serial }

/-- What flash and the Codex die hold; everything else of the part is at its reset value. The open rows stay as
the record of which pages of their block stripes are programmed. -/
def kept (s : State) : State :=
  { State.reset with
    wr := { State.reset.wr with flash := s.wr.flash, parity := s.wr.parity, nextRow := s.wr.nextRow }
    led := { State.reset.led with onFlash := s.led.onFlash, extents := s.led.extents, progSeq := s.led.progSeq }
    inv := { State.reset.inv with
      published := s.inv.published, spine0 := s.inv.spine0, spine1 := s.inv.spine1, spineSnap := s.inv.spineSnap
      counted := s.inv.counted, superseded := s.inv.superseded
      activeSpine := s.inv.activeSpine, otherErased := s.inv.otherErased }
    coast := { State.reset.coast with reserve := s.coast.reserve }
    nv := { State.reset.nv with nss := s.nv.nss, saved := s.nv.saved }
    key := { State.reset.key with
      ring := s.key.ring, headSect := s.key.headSect, nextKey := s.key.nextKey, ranges := s.key.ranges
      sanitize := s.key.sanitize, sanStatus := s.key.sanStatus, sanDw := s.key.sanDw
      sanForced := s.key.sanForced }
    ech := { State.reset.ech with intents := s.ech.intents }
    fol := { State.reset.fol with
      bankA := s.fol.bankA, bankB := s.fol.bankB, rt0 := s.fol.rt0, rt1 := s.fol.rt1, rtActive := s.fol.rtActive
      rtSeq := s.fol.rtSeq, trainA := s.fol.trainA, trainB := s.fol.trainB, trSeq := s.fol.trSeq
      trHalf := s.fol.trHalf }
    day := { State.reset.day with
      ring := s.day.ring, stripe := s.day.stripe, stripes := s.day.stripes, coastWrote := s.day.coastWrote }
    cdx := codexKept s.cdx
    upd := { State.reset.upd with block0 := s.upd.block0, block1 := s.upd.block1 }
    free := s.free, pending := s.pending }

/-- The pins as the surroundings drive them, with the part reset; the device releases its own. -/
def pinsReset (p : Pins) : Pins :=
  { p with holdupDevLow := false, thermAlertLow := false, coreVset := 500 }

/-- Reset by PERST#: the always-on domain keeps its counts of time and the sticky registers (R183, R267, R381). -/
def dormant (s : State) : State :=
  let t := kept s
  { t with
    clock := s.clock
    pins := { pinsReset s.pins with perstN := false }
    mode := { t.mode with mode := .dormant }
    coast := { t.coast with sticky := s.coast.sticky }
    esc := { t.esc with sticky := s.esc.sticky }
    key := { t.key with sticky := s.key.sticky }
    dram := { t.dram with sticky := s.dram.sticky }
    day := { t.day with sticky := s.day.sticky } }

/-- A Codex program in progress ends before the part is reset (Table 7.3). -/
def finishCodex (s : State) : State :=
  match s.cdx.progging with
  | some r => endProgram r true s
  | none => s

/-- A Codex program that a loss of power cut leaves its page undefined. -/
def cutCodex (s : State) : State :=
  match s.cdx.progging with
  | some r => spellSector (sectorOf r.addr) none (undefPage (r.addr / 256)
      { s with cdx := { s.cdx with progging := none } })
  | none => s

/-- A spine record that was not read back yet is torn. -/
def cutSpine (s : State) : State :=
  match s.inv.writing with
  | some r => tearSpine r s
  | none => s

/-- LOSS_OF_POWER: every rail falls. -/
def execLossOfPower (s : State) : Outcome :=
  let t := cutSpine (cutCodex s)
  .next { kept t with
    pins := { State.reset.pins with testMode := s.pins.testMode, holdupSupLow := s.pins.holdupSupLow } }

/-- POWER_ON_AON: from Unpowered to Dormant; operating time counts (R375). -/
def execPowerOnAon (s : State) : Outcome :=
  .next (if s.mode.mode = .unpowered then
    { s with
      pins := { s.pins with aonOk := true, perstN := false }
      mode := { s.mode with mode := .dormant } }
  else s)

/-! ## Recovery (R193) -/

/-- A start that cannot complete: the boot ROM's minimal controller is ready, and a RECOVERY record goes to the
Codex die when the Colophon row is readable. -/
def enterRecovery (reason : Nat) (s : State) : State :=
  let t : State := { s with
    mode := { s.mode with
      mode := .recovery, reason := reason, timeMs := 0, ready := true, startRun := none
      gates := { s.mode.gates with pcie := false } }
    nv := { s.nv with rdy := s.nv.cc.getLsbD 0 } }
  if reason = 1 then t else record 0x0007 [(1, reason)] t

/-! ## Step 1 (R410, R422, R423, R53) -/

/-- Manufacturing mode: TEST_MODE is high, or the key segment is not locked (R414). -/
def manufacturingNow (s : State) : Bool :=
  s.pins.testMode || match s.cdx.colophon[2]? with
    | some g => ! g.locked
    | none => true

/-- Segments 0 to 3 are locked and pass their CRCs; in manufacturing mode the locked ones alone are checked. -/
def colophonOk (s : State) : Bool :=
  (s.cdx.colophon.take 4).all fun g => if g.locked then g.crcOk else s.mode.manufacturing

/-- A sector of endpaper block `n` or of its set area has its flag cell set. -/
def setFlagged (s : State) (n : Nat) : Bool :=
  (List.range 96).any fun i => sectorBlock i = some n && flagged s i

/-- HITLESS stands only on components that allow it (Table 18.2). -/
def hitlessLegal (s : State) (f : BundleFacts) : Bool :=
  ! (f.hitless.getD 0 false) && ! (f.hitless.getD 1 false)
    && (! (f.hitless.getD 6 false) || f.schema = runningSchema s)

/-- The schema of the bank that step 2 selects lies in the set's range. -/
def schemaLegal (s : State) (f : BundleFacts) : Bool :=
  match chooseBank s with
  | none => true
  | some b => match validBank s b with
    | some i => decide (f.schemaMin ≤ i.schema) && decide (i.schema ≤ f.schema)
    | none => true

/-- The code of the first check of Table 18.5 that block `n` fails; 1: it passes. -/
def setCheck (s : State) (n : Nat) : Nat :=
  let b := blockOf s n
  let f := b.facts
  if setFlagged s n then 2 else if ! b.written || ! f.headerOk then 3 else if ! f.vendorKeyOk then 4
  else if ! f.signatureOk then 5 else if ! f.hashesOk then 6 else if ! hitlessLegal s f then 7
  else if ! f.ldpcSame then 8 else if ! schemaLegal s f then 9 else if b.reject then 10 else 1

/-- The check that the active block meets at every boot: flag cells, header, components. -/
def quickCheck (s : State) (n : Nat) : Bool :=
  let b := blockOf s n
  ! setFlagged s n && b.written && b.facts.headerOk && b.facts.hashesOk && (b.confirmed || setCheck s n = 1)

/-- A set that is armed and not rejected. -/
def armedSet (s : State) (n : Nat) : Bool :=
  let b := blockOf s n
  b.written && b.facts.headerOk && b.arm && ! b.reject

/-- A whole check leaves its code in LAST_CHECK. -/
def noteCheck (code : Nat) (s : State) : State := { s with upd := { s.upd with lastCheck := code } }

/-- CONFIG records of a set: kind 1 activated, 3 check failed; the slot of block `n` is n + 1 (R419). -/
def noteSet (kind n code : Nat) (s : State) : State :=
  record 0x0601 [(1, kind), (2, n + 1), (1, code), (8, (blockOf s n).facts.version)] s

/-- OLD_SET of KS_START_FLAGS. -/
def setOld (s : State) : State := { s with mode := { s.mode with oldSet := true } }

/-- Items 2 and 3 of R423: the active block, else the other one; none when no block can run. -/
def chooseRunning (s : State) : Option State :=
  let a := activeBlock s
  if quickCheck s a then
    some (if (blockOf s a).confirmed then s else noteCheck 1 s)
  else
    let o := 1 - a
    if (blockOf s o).confirmed && ! (blockOf s o).reject && setCheck s o = 1 then
      some (setOld (swapTo o (noteCheck 1 s)))
    else none

/-- Step 1: the block that is streamed is the inactive one when its set is armed, else the active one, whose header CRC and
hashes are checked, or the other one where they fail (R423). -/
def streamSet (s : State) : Option State :=
  let a := activeBlock s
  let b := blockOf s a
  if armedSet s (1 - a) || (! setFlagged s a && b.written && b.facts.headerOk && b.facts.hashesOk) then some s
  else chooseRunning s

/-- The set that runs (R423). -/
def chooseSet (s : State) : Option State :=
  let o := 1 - activeBlock s
  if armedSet s o then
    let code := setCheck s o
    if code = 1 then some (swapTo o (noteCheck 1 s))
    else chooseRunning (setOld (noteSet 3 o code (modBlock o (fun b => { b with reject := true }) (noteCheck code s))))
  else chooseRunning s

/-- Step 2: the check of a set that is activated for the first time, and of one that is not confirmed; the set that step 1
fell back to has passed (R423). -/
def firstCheck (s : State) : Option State := if s.mode.oldSet then some s else chooseSet s

/-- Records of a spine sector that count: none in a sector whose flag cell is set (R52). -/
def spineUse (s : State) (n : Nat) : List SpineRec := if flagged s (128 + n) then [] else spineOf s n

/-- The newest valid spine record and its sector. -/
def newestSpine (s : State) : Option (SpineRec × Nat) :=
  (((spineUse s 0).map fun r => (r, 0)) ++ ((spineUse s 1).map fun r => (r, 1))).foldl (fun (m : Option (SpineRec × Nat)) (x : SpineRec × Nat) =>
    if x.1.torn then m else match m with
      | none => some x
      | some y => if y.1.spineSeq < x.1.spineSeq then some x else some y) none

/-- The active spine sector is that of the newest record; the other one, flagged while the active one holds 896
records or more, is erased again in step 1, ahead of every request (R53). -/
def spineStart (s : State) : State :=
  let a := match newestSpine s with | some (_, n) => n | none => 0
  let other := 129 - a
  let s1 : State := { s with inv := { s.inv with
    activeSpine := a, otherErased := (spineOf s (1 - a)).isEmpty && ! flagged s other } }
  if decide (896 ≤ (spineOf s1 a).length) && flagged s other then
    startErase 1 (65536 * other) { s1 with inv := { s1.inv with erasingOther := true } }
  else s1

/-- The serial of the Colophon row, at 0x008 of segment 0 (Table 17.5). -/
def colophonSerial (s : State) : Nat :=
  match s.cdx.colophon[0]? with
  | some g => numLe ((List.range 8).map fun i => segByte g (8 + i))
  | none => 0

/-- The identity block is loaded: the version of the running set, and the serial from the Colophon row (R209). -/
def loadIdentity (s : State) : State :=
  { s with
    upd := { s.upd with identOn := true, identLo := (blockOf s (activeBlock s)).facts.version }
    cdx := { s.cdx with serial := colophonSerial s } }

/-! ## Step 2 (R351, R364, R376, R377) -/

/-- A bank that fails a check is recorded; an empty one is not. -/
def noteBank (isB : Bool) (s : State) : State :=
  match bankCode s isB with
  | none => s
  | some 0 => s
  | some code =>
    let seq := match (if isB then s.fol.bankB else s.fol.bankA) with
      | .image f => f.sequence
      | .empty => 0
    record 0x0601 [(1, 2), (2, if isB then 1 else 0), (1, code), (8, seq)] s

/-- A power-cycle record: 2,048 to a sector; at 1,792 the other sector is erased (R405). -/
def countPower (s : State) : State :=
  let n := (s.cdx.pcRecords + 1) % 4096
  let t : State := { s with cdx := { s.cdx with powerCycles := sat32 (s.cdx.powerCycles + 1), pcRecords := n } }
  if n % 2048 = 1792 then askErase (141 - n / 2048) t else t

/-- The live-field records in force (R364). -/
def liveFields (s : State) : List (Nat × Nat) :=
  (rtAll s).filterMap fun r =>
    if 0x10000 ≤ r.key && decide (r.key < 0x20000) && r.value != bankField s (4 * (r.key - 0x10000)) then
      some (r.key - 0x10000, r.value)
    else none

/-- Bank `isB` is in force; every parameter comes from the profile in force (R82). -/
def takeBank (isB : Bool) (s : State) : State :=
  let s1 : State := { s with
    fol := { s.fol with inForce := some isB, live := [] }
    mode := { s.mode with folioBankB := isB } }
  { s1 with
    fol := { s1.fol with profOf := List.replicate 7 (fld s1 0xA00) }
    upd := { s1.upd with miFreq := fld s1 0x408 }
    mode := { s1.mode with schema3 := match folioInForce s1 with | some f => f.schema = 3 | none => false } }

/-- Every live field whose record is in force takes its value (R365). -/
def takeLive (s : State) : State :=
  let t : State := { s with fol := { s.fol with live := liveFields s } }
  { t with fol := { t.fol with profOf := List.replicate 7 (fld t 0xA00) } }

/-- One lockstep failure is a Librarian restart (R190, R371). -/
def lockstepOnce (s : State) : State :=
  let t : State := { s with
    mode := { s.mode with libRetry := true }
    lib := { s.lib with restarts := 1, restartsMs := [s.clock.opMs] }
    day := { s.day with sticky := s.day.sticky ||| 0x1 } }
  record 0x0701 [(1, 0), (1, 1), (1, 0)] t

/-- The ports that the Folio uses drive their ALIVE, and a partner's starts training (R271). -/
def portsUp (s : State) : State :=
  let m := bootNumber s
  let s1 : State := { s with
    pel := { s.pel with assigned := m.isSome, self := m.getD 0 }
    mode := { s.mode with gates := { s.mode.gates with
      ports := [0, 1, 2, 3].filter fun p => ! portUsed s p || ! (portAt s p).partner } } }
  [0, 1, 2, 3].foldl (fun t p =>
    if portUsed t p then
      let u := modPort p (fun x => { x with aliveTx := true, level1 := portLevel1 t p }) t
      if (portAt u p).partner then startTraining p u else u
    else t) s1

/-! ## Step 3 (R13, R57, R332, R333, R343) -/

/-- One entry of a spare-map part (Table 15.16). -/
def decodeSpare (x : Nat) : SpareEntry :=
  { addr := { u := bitsOf x 62 60, rank := bitsOf x 59 59, bg := bitsOf x 58 56, bank := bitsOf x 55 54,
              row := bitsOf x 53 36 }
    whole := x.testBit 63, spare := bitsOf x 35 18 }

def encodeSpare (e : SpareEntry) : Nat :=
  (if e.whole then 2 ^ 63 else 0) + 2 ^ 60 * e.addr.u + 2 ^ 59 * e.addr.rank + 2 ^ 56 * e.addr.bg
    + 2 ^ 54 * e.addr.bank + 2 ^ 36 * e.addr.row + 2 ^ 18 * e.spare

/-- The spare map: twelve entries to a part, zero entries unused. -/
def spareMap (s : State) : List SpareEntry :=
  ((rtAll s).filter fun r => r.key / 65536 = 5).flatMap fun r =>
    ((List.range 12).map fun i => r.value / 2 ^ (64 * i) % 2 ^ 64).filterMap fun x =>
      if x = 0 then none else some (decodeSpare x)

/-- A subchannel without a training record that counts, or a lane that fails the narrow sweep. -/
def dramNeedsFull (s : State) (f : StartFacts) : Bool :=
  f.dramFull || (List.range 8).any fun u =>
    ! trainingCounts s 2 u (fun r => r = fld s 0x2004) (fld s 0x2000)

/-- A training record of start-up. -/
def noteTraining (kind unit rate m : Nat) (s : State) : State :=
  match s.fol.inForce with
  | none => s
  | some isB => appendTraining isB (trainPayload s
      { kind := kind, unit := unit, seq := s.fol.trSeq + 1, rate := rate, mtch := m, timeMs := s.clock.opMs })
      { s with fol := { s.fol with trSeq := s.fol.trSeq + 1 } }

/-- Bytes of DRAM of the bank in force. -/
def dramBytes (s : State) : Nat :=
  match folioInForce s with
  | some f => 1048576 * dramMiB f
  | none => 0

/-- The pools: transit as the Folio sizes them, work a sixteenth of DRAM in equal quarters. -/
def makePools (s : State) : State :=
  let work := fun (kib : Nat) => dramBytes s / 16 / 4 / (1024 * kib)
  { s with pools := { s.pools with
      pool := [freshPool (poolBase 0) 4 (fld s 0x514), freshPool (poolBase 1) 16 (fld s 0x518),
               freshPool (poolBase 2) 64 (fld s 0x51C), freshPool (poolBase 3) 256 (fld s 0x520),
               freshPool (poolBase 4) 4 (work 4), freshPool (poolBase 5) 16 (work 16),
               freshPool (poolBase 6) 64 (work 64), freshPool (poolBase 7) 256 (work 256)] } }

/-- Step 3; none when a subchannel fails at 4,800 MT/s. -/
def dramStart (f : StartFacts) (s : State) : Option State :=
  let full := dramNeedsFull s f
  if full && (f.dramRate = 0 || ! dramRates.contains f.dramRate || decide (fld s 0x2004 < f.dramRate)) then none
  else
    let rate := if full then f.dramRate else fld s 0x2004
    let s1 : State := { s with
      dram := { s.dram with rate := rate, map := spareMap s }
      mode := { s.mode with fullDram := full } }
    let s2 := if full then (List.range 8).foldl (fun t u => noteTraining 2 u rate (fld s 0x2000) t) s1 else s1
    some (makePools s2)

/-! ## Step 4: Roster and training (R116, R127 to R130) -/

/-- The retirements that the Daybook on flash records: every die of them, with its reason. -/
def dayRetired (s : State) (ch t : Nat) : Option Nat :=
  ((s.day.ring.filter fun r => r.event = 0x0101 && payAt r.payload 1 = ch
    && ((payAt r.payload 0 = 1 && payAt r.payload 2 = t) || payAt r.payload 0 = 2)).head?).map
      fun r => payAt r.payload 5

/-- The highest timing set that neither the die profile of a channel nor the Folio's maximum flash data rate forbids
(R112, Table 5.2); set 1 when even that lies above them (DESIGN CHOICE, log entry 156). -/
def topSet (s : State) (g : DieProfile) : Nat :=
  let most := match folioInForce s with
    | some f => min g.maxRate f.maxFlashRate
    | none => g.maxRate
  max 1 (min 7 ((most - 2000) / 400))

/-- The stored training result of a channel (R366). -/
def storedFlash (s : State) (ch : Nat) : Option TrainRec :=
  (storedTraining (trainingOf s (s.fol.inForce = some true))).find? fun x => x.kind = 1 && x.unit = ch

/-- A Roster entry as it is built at boot, from the Folio, the stored training result and the retirements; DRIVE and ODT
come from no field of them (log entry 137). -/
def bootRoster (s : State) (r : RosterSource) : Roster :=
  let dead := (List.range 32).filterMap fun t =>
    if r.present.getLsbD t then (dayRetired s r.channel t).map fun x => (t, x) else none
  let set := match profileAt s r.dieProfile with | some g => topSet s g | none => 1
  let old := storedFlash s r.channel
  { generation := (Config.freeGeneration s.cdx.powerCycles r.channel).toNat
    chState := if r.present != 0 && (List.range 32).all (fun t => ! r.present.getLsbD t
        || (dayRetired s r.channel t).isSome) then 1 else 0
    dieProfile := r.dieProfile, ldpc := r.ldpcProfile, present := r.present
    retired := dead.foldl (fun m x => m ||| BitVec.ofNat 32 (2 ^ x.1)) 0
    reasons := dead, timingSet := set, dataRate := setRate set, zqInterval := fld s 0x650
    drive := (Config.driveCode r.channel).toNat, odt := (Config.odtCode r.channel).toNat
    training := (old.map fun x => x.centres).getD [], trainTime := (old.map fun x => x.trainTime).getD 0
    trainCount := (old.map fun x => x.trainCount).getD 0, trainTemp := (old.map fun x => x.trainTemp).getD 0 }

/-- A channel at boot: its tile has loaded its entry. -/
def bootChannel (s : State) (ch : Nat) : Channel :=
  let r := bootRoster s ((sourceOf s ch).getD { channel := ch, present := 0, ldpcProfile := 0, dieProfile := 0 })
  { inForce := r, copy := r, sync := false, training := false, held := false, retrainNext := false
    tout := 0, susp := 0, capped := 0, iface := [], zqTemp := [], zqDone := 0, toutAt := [] }

/-- A die at boot. -/
def bootDie (ch t : Nat) : Die :=
  { channel := ch, target := t, held := false, resetting := false, timedOut := none, readQ := [], progQ := []
    eraseQ := [], op := none, suspends := 0, suspended := none, suspending := false, suspReads := [], run0 := 0
    eraseNext := false, limitNext := none, temp := 0, offsets := [], toutAt := [] }

/-- The 64 Roster entries and the dies. -/
def buildRoster (s : State) : State :=
  { s with fl :=
      { chans := (List.range 64).map fun ch => (ch, bootChannel s ch)
        dies := match folioInForce s with
          | some f => (presentDies f).map fun d => bootDie d.1 d.2
          | none => [] } }

/-- A narrow sweep of the channel failed in Service since its last training (R130). -/
def sweepFailed (s : State) (ch : Nat) : Bool :=
  s.day.ring.any fun r => r.event = 0x0105 && payAt r.payload 0 = ch && payAt r.payload 2 = 1
    && ! (trainingOf s (s.fol.inForce = some true)).any fun x => x.kind = 1 && x.unit = ch
      && decide (r.timeMs < x.trainTime)

/-- The channel has been trained before. -/
def trainedBefore (s : State) (ch : Nat) : Bool :=
  (trainingOf s (s.fol.inForce = some true)).any fun x => x.kind = 1 && x.unit = ch

/-- MATCH of a flash record: timing set and die profile. -/
def flashMatch (set : Nat) (c : Channel) : Nat := 256 * set + c.inForce.dieProfile

/-- What a channel meets that the facts do not name: it passes its check; in a full training no target has a result that
passes. -/
def plainResult (ch set : Nat) : TrainResult :=
  { channel := ch, swept := false, full := false, set := set, missing := [], temp := 0 }

/-- A boot-time change of a Roster entry: the tile loads it in this step. -/
def bootChange (ch : Nat) (f : Roster → Roster) (s : State) : State :=
  modChan ch (fun c => { c with inForce := f c.inForce, copy := f c.copy }) s

/-- A die is retired at boot, before its tile loads its entry. -/
def bootRetire (ch t reason : Nat) (s : State) : State :=
  if dieRetired s ch t then s
  else record 0x0101 [(1, 1), (1, ch), (1, t), (1, 0), (2, 0), (1, reason)]
    (bootChange ch (fun r => { r with
      retired := r.retired ||| BitVec.ofNat 32 (2 ^ t), reasons := mapSet t reason r.reasons }) s)

/-- A channel is retired at boot. -/
def bootRetireChannel (ch reason : Nat) (s : State) : State :=
  let s1 := (servingDies s ch).foldl (fun t d => bootRetire ch d reason t) s
  record 0x0101 [(1, 2), (1, ch), (1, 0), (1, 0), (2, 0), (1, reason)]
    (bootChange ch (fun r => { r with chState := 1 }) s1)

/-- A channel passes its check, its sweep or its training, or is retired. -/
def trainChannel (f : StartFacts) (ch : Nat) (s : State) : State :=
  match chanAt s ch with
  | none => s
  | some c =>
    if c.inForce.present = 0 || c.inForce.chState = 1 then s
    else
      let top := c.inForce.timingSet
      let r := (f.training.find? fun x => x.channel = ch).getD (plainResult ch top)
      if f.rosterBad.contains ch then bootRetireChannel ch 3 { s with mode := { s.mode with fullFlash := true } } else
      let full := r.full || sweepFailed s ch || (r.swept && ! r.centres.all centrePasses)
        || ! trainingCounts s 1 ch (fun x => x = setRate top) (flashMatch top c)
      let set := trainedSet s r top
      if ! full then
        let s1 := openChannel ch false (modChan ch (fun x => { x with iface := switched c top [] }) s)
        if r.swept then noteTraining 1 ch (setRate top) (flashMatch top c) (bootChange ch (fun x => { x with
          trainTemp := r.temp, training := mergeCentres r.centres x.training }) s1)
        else s1
      else
        let reason := if trainedBefore s ch then 2 else 4
        let s1 := r.missing.foldl (fun t d => bootRetire ch d reason t)
          (openChannel ch true { s with mode := { s.mode with fullFlash := true } })
        if set = 0 then bootRetireChannel ch 3 s1
        else
          let s2 := if set = top then s1 else record 0x0102 [(1, ch), (1, top), (1, set)] s1
          let s2 := modChan ch (fun x => { x with
            iface := switched c set r.missing, zqTemp := zqLong s c ch r.temp }) s2
          let s3 := noteTraining 1 ch (setRate set) (flashMatch set c) (bootChange ch (fun x => { x with
            timingSet := set, dataRate := setRate set, trainTemp := r.temp, trainTime := s.clock.opMs
            training := r.centres, trainCount := min 255 (x.trainCount + 1) }) s2)
          if (servingDies s3 ch).isEmpty then bootRetireChannel ch 3 s3 else s3

/-- Every channel. -/
def trainAll (f : StartFacts) (s : State) : State :=
  (List.range 64).foldl (fun t ch => trainChannel f ch t) s

/-- Some channel is in service. -/
def channelPasses (s : State) : Bool := s.fl.chans.any fun c => c.2.inForce.present != 0 && c.2.inForce.chState = 0

/-! ## Step 4: keys and cores (R246, R255, R256, R263) -/

/-- The data slots that hold a key record in force. -/
def keyedSlots (s : State) : List Nat :=
  (sortBy (fun a b => decide (a < b)) (s.key.ring.flatten.map fun r => r.slot)).eraseDups.filter fun k =>
    (recInForce s k).isSome

/-- The record of a slot is unwrapped into it; one that fails leaves it empty. -/
def unwrapSlot (f : StartFacts) (k : Nat) (s : State) : State :=
  match recInForce s k with
  | none => s
  | some r => match mapGet k f.unwrapBad with
    | none => { s with key := { s.key with loaded := mapSet k r.keyId s.key.loaded } }
    | some code =>
      let bit : Word32 := if code = 1 then 0x1 else if code = 2 then 0x2 else 0x4
      record 0x0601 [(1, 4), (2, k), (1, code), (8, 0)]
        { s with
          mode := { s.mode with keyFail := true }
          key := { s.key with sticky := s.key.sticky ||| bit } }

/-- The known-answer tests, the DRBG's seed, and the ranges that a power cycle locks. -/
def keyStart (f : StartFacts) (s : State) : State :=
  let bad := (f.coresBad.filter fun n => decide (n < 24)).eraseDups
  let s1 : State := { s with key := { s.key with
    testKey := true, fenced := bad, drbgOk := true, drbgUsed := 0
    sticky := if bad.isEmpty then s.key.sticky else s.key.sticky ||| 0x20
    ranges := s.key.ranges.map fun r =>
      if r.onPower then { r with readLocked := true, writeLocked := true } else r } }
  (keyedSlots s1).foldl (fun t k => unwrapSlot f k t) s1

end Sys2Proof.Machine
end

