-- ==== Sys2Proof/Machine/Recover.lean ====
section
/-! DEFINITION. Steps 5 and 6 of start-up (R33, R48, R51 to R55, R88, R102 to R106, R170, R177 to R182, R190, R297,
R362, R375, R389, R391): the map root, replay, the open-block list, the Daybook, the start spine record and the
ready point. -/

namespace Sys2Proof.Machine

/-! ## The extent walk (R54) -/

/-- The EXTENT_START that card 0 of the extent at `p` holds, if it decodes. -/
def startAt (f : StartFacts) (s : State) (p : Ppa) : Option LedgerRec :=
  match (s.led.extents.filter fun e => e.2 = p).getLast? with
  | some e => if e.1 ≤ f.ledgerEnd then s.led.onFlash.find? fun r => r.seq = e.1 && r.typ = 0xA else none
  | none => none

/-- The extents behind that of record `r` at `p`, each named by the one before it and accepted by its number. -/
def walkFrom (f : StartFacts) (s : State) : Nat → LedgerRec → Ppa → List (LedgerRec × Ppa)
  | 0, _, _ => []
  | fuel + 1, r, p => match startAt f s r.newPpa with
    | some x =>
      if x.seq = r.seq + 128 * extentCards s p || (x.card = 1 && r.seq < x.seq) then
        (x, r.newPpa) :: walkFrom f s fuel x r.newPpa
      else []
    | none => []

/-- The extent walk from WALK_START: at most 304 extents. -/
def extentWalk (f : StartFacts) (w : SpineRec) (s : State) : List (LedgerRec × Ppa) :=
  match startAt f s w.walkStart with
  | some r => (r, w.walkStart) :: walkFrom f s 303 r w.walkStart
  | none => []

/-- The pass that a start takes: the newer of the newest pass that the walk finds published, and the pass that the spine
record names. -/
def startPass (f : StartFacts) (w : SpineRec) (s : State) : MapSnap :=
  let t : State := { s with blk := { s.blk with table := s.inv.published.blocks } }
  let walk := extentWalk f w t
  let named := fun (m : MapSnap) => walk.any fun x => x.1.oldPpa = m.dir && x.1.accession = m.redo
  (s.inv.counted.map fun p => p.snap).foldl
    (fun b m => if named m && decide (b.redo < m.redo) then m else b) s.inv.spineSnap

/-! ## Replay (R54, R55, R88, R90) -/

/-- The records that replay reads from number `next` on: up to the first gap, and past one only at an
EXTENT_START with CARD = 1. -/
def replayRun (last : Nat) : Nat → List LedgerRec → List LedgerRec
  | _, [] => []
  | next, r :: l =>
    if r.seq ≤ last && (r.seq = next || (decide (next < r.seq) && r.typ = 0xA && r.card = 1)) then
      r :: replayRun last (r.seq + 1) l
    else []

/-- The records recovered behind the newest published pass. -/
def recovered (f : StartFacts) (s : State) : List LedgerRec :=
  replayRun f.ledgerEnd s.inv.published.redo (s.led.onFlash.filter fun r => decide (s.inv.published.redo ≤ r.seq))

/-- The last number recovered. -/
def lastRecovered (f : StartFacts) (s : State) : Nat :=
  match (recovered f s).getLast? with
  | some r => r.seq
  | none => s.inv.published.redo - 1

/-- The stream of a programmed card. -/
def flashStream (s : State) (p : Ppa) : Nat :=
  match mapGet p.toNat s.wr.flash with
  | some x => x.md.stream
  | none => 0

/-- A card position that a record names: its block stripe counts as open, and its shelf list grows. -/
def replayPlace (p : Ppa) (shelf card : Nat) (s : State) : State :=
  match ppaEntry s p with
  | none => s
  | some n =>
    let t := if (blkAt s n).state = 0 then openStripe n (flashStream s p) s else s
    match ppaPos t n p with
    | none => t
    | some pos =>
      let l := mapAt [] n t.blk.lists
      if l.any fun x => x = (pos, shelf, card) then t
      else { t with blk := { t.blk with lists := mapSet n (l ++ [(pos, shelf, card)]) t.blk.lists } }

/-- What a record of the Ledger says of block stripes. -/
def replayBlock (s : State) (r : LedgerRec) : State :=
  match r.typ with
  | 0x1 => replayPlace r.newPpa r.shelf r.card s
  | 0x3 => replayPlace r.newPpa r.shelf r.card s
  | 0x2 => (List.range 16).foldl (fun t i => replayPlace (runCard r.newPpa i) r.shelf i t) s
  | 0x4 => (List.range 16).foldl (fun t i => replayPlace (runCard r.newPpa i) r.shelf i t) s
  | 0x7 => if r.newPpa = 0 then s else replayPlace r.newPpa r.shelf r.card s
  | 0xA => match ppaEntry s r.newPpa with
    | some n => if (blkAt s n).state = 0 then openStripe n 3 s else s
    | none => s
  | 0x8 => match ppaEntry s r.newPpa with
    | some n => modBlk n (fun b => { b with state := 4 }) { s with blk := { s.blk with
        victims := s.blk.victims.filter fun v => v.entry != n
        erases := (s.blk.erases.filter fun j => j.entry != n) ++
          [{ entry := n, intent := r.seq, issued := false, restart := true, failed := [] }] } }
    | none => s
  | 0x9 => match ppaEntry s r.newPpa with
    | some n => modBlk n (fun b => { freeEntry (inCarrel s n) with
          state := if slotsLeft s (entryLane s n) b.excluded < 8 then 5 else 0
          erases := b.erases + 1, excluded := b.excluded })
        { s with blk := { s.blk with
          erases := s.blk.erases.filter fun j => j.entry != n
          lists := mapSet n [] s.blk.lists } }
    | none => s
  | _ => s

/-- VALID counted again from the map of the pass. -/
def recountValid (s : State) : State :=
  let s1 : State := { s with blk := { s.blk with
    table := s.blk.table.map fun e => (e.1, { e.2 with valid := 0 }) } }
  (s1.cat.shelves.flatMap fun e => shelfPpas (shelfBase s1 e.1)).foldl gainValid s1

/-- Die blocks that the block table shows as excluded, those of retired dies left out. -/
def excludedBlocks (s : State) : List (Nat × Nat × Nat × Nat) :=
  s.blk.table.flatMap fun e => ((laneDies s (entryLane s e.1)).filter fun d =>
    e.2.excluded.getLsbD d.slot && ! dieRetired s d.channel d.target).map fun d =>
      (d.channel, d.target, entryPlane s e.1, entryBlock s e.1)

/-- Records of the map: they enter the pending-update table. -/
def replayPend (l : List LedgerRec) : List LedgerRec := l.filter isMapRec

/-- The victims of a block table: those of weeding, the forced ones of the carrel among them, are taken up again; fold
finds its own by their state (R79, R86). -/
def tableVictims (s : State) (table : List (Nat × BlockEntry)) : List Victim :=
  (table.filter fun e => e.2.state = 3 && (! inCarrel s e.1 || e.2.forced)).map fun e =>
    { planeGroup := entryGroup s e.1, entry := e.1, rotation := false, forced := e.2.forced, dest := none }

/-- The erases that a block table shows as pending: they run again (R88). -/
def tableErases (table : List (Nat × BlockEntry)) : List EraseJob :=
  (table.filter fun e => e.2.state = 4).map fun e =>
    { entry := e.1, intent := 0, issued := false, restart := true, failed := [] }

/-- The retirements of die blocks that the Daybook records are applied again (R100). -/
def retiredBlocks (s : State) : State :=
  (s.day.ring.filter fun r => r.event = 0x0101 && payAt r.payload 0 = 0).foldl (fun t r =>
    match laneOf t (payAt r.payload 1) (payAt r.payload 2) with
    | none => t
    | some e => modBlk (entryNo t e.lane (payAt r.payload 3) (payAt r.payload 4)) (fun b => { b with
        excluded := b.excluded ||| BitVec.ofNat 64 (2 ^ e.slot) }) t) s

/-- Pass `p` is the newest published one. -/
def publishPass (p : MapSnap) (s : State) : State := { s with inv := { s.inv with published := p } }

/-- The map of pass `p` with the records that replay reads. -/
def takeMap (f : StartFacts) (p : MapSnap) (s : State) : State :=
  let last := lastRecovered f s
  { s with
    cat := { s.cat with
      shelves := p.shelves, segs := p.segs, index := p.index, pend := replayPend (recovered f s) }
    blk := { s.blk with
      table := p.blocks.map fun e => (e.1, { e.2 with examined := 0 })
      victims := tableVictims s p.blocks, erases := tableErases p.blocks
      lists := p.lists }
    led := { s.led with
      onFlash := s.led.onFlash.filter fun r => decide (r.seq ≤ last)
      nextSeq := 128 * (last / 128 + 1), progSeq := last, durable := last
      extents := s.led.extents.filter fun e => decide (e.1 ≤ last) } }

/-- The extent after the last one that the walk finds. -/
def nameExtent (f : StartFacts) (w : SpineRec) (s : State) : State :=
  { s with led := { s.led with
      nextExtent := match (extentWalk f w s).getLast? with | some x => x.1.newPpa | none => w.walkStart } }

/-- The map root of the pass taken is loaded, and the Ledger behind it replayed. -/
def loadMap (f : StartFacts) (w : SpineRec) (s0 : State) : State :=
  let p := startPass f w s0
  let s := publishPass p s0
  let t := retiredBlocks (recountValid ((recovered f s).foldl (fun u r => replayBlock u r)
    (nameExtent f w (takeMap f p s))))
  { t with blk := { t.blk with badBlocks := excludedBlocks t } }

/-! ## Accession numbers and the account of the loss (R33, R182) -/

/-- The next accession number: the floor of the newest record, 2^32 above it after an unsafe loss. -/
def startFloor (r : SpineRec) : Nat := if r.kind = 2 then r.accFloor else 4294967296 + r.accFloor

/-- The last arming record of the Daybook shows Coast armed. -/
def lastArmed (s : State) : Bool :=
  match (s.day.ring.filter fun r => r.event = 0x0004).getLast? with
  | some r => payAt r.payload 0 = 1
  | none => false

/-- Bits and counts of the start after a loss. -/
def accountLoss (f : StartFacts) (r : SpineRec) (s : State) : State :=
  if r.kind = 2 then
    { s with coast := { s.coast with
        lossBefore := 1, coastsDone := sat32 (s.coast.coastsDone + 1), sticky := s.coast.sticky ||| 0x1 } }
  else
    let ack : Word32 := if lastArmed s then 0x8 else 0
    record 0x0002 [(8, lastRecovered f s), (8, startFloor r)]
      { s with
        nv := { s.nv with unsafeSd := sat64 (s.nv.unsafeSd + 1) }
        coast := { s.coast with
          lossBefore := 2, lastArmed := lastArmed s, coastsNot := sat32 (s.coast.coastsNot + 1)
          sticky := s.coast.sticky ||| 0x4 ||| ack } }

/-- Counts since manufacture go on from those saved (R225). -/
def restoreCounts (s : State) : State :=
  let v := s.nv.saved
  { s with
    nv := { s.nv with
      c1 := v.c1, unitsRd := natAt v.smart 0, unitsWr := natAt v.smart 1, cmdsRd := natAt v.smart 2
      cmdsWr := natAt v.smart 3, busyMin := natAt v.smart 4, mediaErr := natAt v.smart 5
      unsafeSd := natAt v.smart 6, warnMin := natAt v.smart 7, critMin := natAt v.smart 8
      errCount := natAt v.smart 9 }
    wr := { s.wr with
      foldCards := natAt v.wear 0, hostCards := natAt v.wear 1, bypassCards := natAt v.wear 2
      weedCards := natAt v.wear 3, carrelPages := natAt v.wear 4, stacksPages := natAt v.wear 5 }
    blk := { s.blk with
      weedVictims := natAt v.wear 6, rotVictims := natAt v.wear 7, forcedVictims := natAt v.wear 8 }
    sens := { s.sens with ctrlBins := v.ctrlBins, flashBins := v.flashBins, extremes := v.extremes }
    coast := { s.coast with
      history := v.history, abandoned := natAt v.holdup 0, passes := natAt v.holdup 1
      fails := natAt v.holdup 2, disarmedMin := natAt v.holdup 3, tdMin := natAt v.holdup 4
      tdMax := natAt v.holdup 5, coastsDone := natAt v.holdup 6, coastsNot := natAt v.holdup 7
      lastCoastUs := natAt v.holdup 8 } }

/-! ## Operating time and record numbers (R375, R389) -/

/-- Operating time is rebased to 1 ms above the newest TIME found; records entered so far take the base. -/
def rebase (s : State) : State :=
  let spine := match newestSpine s with | some (r, _) => r.timeMs | none => 0
  let day := match s.day.ring.getLast? with | some r => r.timeMs | none => 0
  let base := max spine day + 1
  if s.clock.rebased then { s with clock := { s.clock with opMs := max s.clock.opMs base } }
  else
    let f := fun (r : DayRec) => { r with timeMs := r.timeMs + base }
    { s with
      clock := { s.clock with opMs := s.clock.opMs + base, rebased := true }
      day := { s.day with buffer := s.day.buffer.map f, tail := s.day.tail.map f } }

/-- Records take their numbers from `n` on, in order. -/
def numberFrom : Nat → List DayRec → List DayRec
  | _, [] => []
  | n, r :: l => { r with seq := n } :: numberFrom (n + 1) l

/-- The first DB_SEQ of the start is known. -/
def numberDay (unsafeStart : Bool) (s : State) : State :=
  let newest := match s.day.ring.getLast? with | some r => r.seq | none => 0
  let first := newest + (if unsafeStart then 4097 else 1)
  let l := numberFrom first s.day.buffer
  { s with day := { s.day with
      known := true, next := first + s.day.buffer.length, buffer := l
      tail := l.drop (l.length - 64), flushed := newest } }

/-! ## The open-block list (R178 to R181) -/

/-- Block stripes that hold a programmed page that `want` asks for. -/
def programmedWhere (want : Ppa → Bool) (s : State) : List Nat :=
  ((s.wr.flash.map (fun c => c.1) ++ s.wr.parity.map fun c => c.1).filterMap fun a =>
    let p := BitVec.ofNat 40 a
    if want p then ppaEntry s p else none).eraseDups

/-- The block stripe holds a programmed page. -/
def hasPages (s : State) (n : Nat) : Bool := (programmedWhere (fun _ => true) s).contains n

/-- The frontier probe of free block stripes in the order of `pick`: those passed over before the first whose page 0
reads erased on every member die (R179). -/
def probeRun (pick : List Nat → Option Nat) (used : List Nat) : Nat → List Nat → List Nat
  | 0, _ => []
  | fuel + 1, l => match pick l with
    | some n => if used.contains n then n :: probeRun pick used fuel (l.filter fun x => x != n) else []
    | none => []

/-- The free block stripes that the probe finds opened after the pass: in the order of R87, and from the highest ERASES
down (R98, R179). -/
def probeFinds (s : State) : List Nat :=
  let used := programmedWhere (fun p => ppaPage p = 0) s
  let key := fun n => (blkAt s n).erases
  if used.isEmpty then []
  else (List.range (groupCount s)).flatMap fun g => [true, false].flatMap fun c =>
    let l := freeStripes s g c
    (probeRun (leastBy key) used (used.length + 1) l ++ probeRun (mostBy key) used (used.length + 1) l).eraseDups

/-- Block stripe `n` was opened after the pass, for the stream of the first card it holds. -/
def probeOpen (s : State) (n : Nat) : State :=
  if (blkAt s n).state = 0 then openStripe n (flashStream s (posPpa s n 0)) s else s

/-- The frontier probe. -/
def probe (s : State) : State := (probeFinds s).foldl probeOpen s

/-- Block stripes that the replayed records name (R179). -/
def namedStripes (l : List LedgerRec) (s : State) : List Nat :=
  ((l.filter fun r => [1, 2, 3, 4, 7, 10].contains r.typ).filterMap fun r => ppaEntry s r.newPpa).eraseDups

/-- The open-block list: open block stripes, and full ones that a replayed record names (R179). -/
def openList (f : StartFacts) (s : State) : List Nat :=
  let named := namedStripes (recovered f s) s
  (s.blk.table.filter fun e => e.2.state = 1 || (e.2.state = 2 && named.contains e.1)).map fun e => e.1

/-- The last programmed page of the member block that `p` lies in. -/
def lastPage (s : State) (p : Ppa) : Nat :=
  let same := fun (a : Nat) =>
    let q := BitVec.ofNat 40 a
    ppaChannel q = ppaChannel p && ppaTarget q = ppaTarget p && ppaPlane q = ppaPlane p && ppaBlock q = ppaBlock p
  (((s.wr.flash.map fun c => c.1) ++ s.wr.parity.map fun c => c.1).filter same).foldl
    (fun m a => max m (ppaPage (BitVec.ofNat 40 a))) 0

/-- A page that decodes no more at the start, found in the last two pages of a listed carrel block or the last two word
lines of a listed stacks block (R180). -/
def tornAt (f : StartFacts) (l : List Nat) (s : State) (p : Ppa) : Bool :=
  f.tornPages.contains p && match ppaEntry s p with
    | some n =>
      let u := if inCarrel s n then 1 else wordLine s (ppaChannel p)
      l.contains n && decide (lastPage s p / u ≤ ppaPage p / u + 1)
    | none => false

/-- Torn pages hold nothing that decodes. -/
def dropTorn (f : StartFacts) (l : List Nat) (s : State) : State :=
  { s with wr := { s.wr with
      flash := s.wr.flash.filter fun c => ! tornAt f l s (BitVec.ofNat 40 c.1)
      parity := s.wr.parity.filter fun c => ! tornAt f l s (BitVec.ofNat 40 c.1) } }

/-- The card at position `x` of the shelf list of block stripe `n` is the one that the map names. -/
def namedAt (s : State) (n : Nat) (x : Nat × Nat × Nat) : Bool :=
  match mapped s x.2.1 x.2.2 with
  | some (p, _, _) => p = posPpa s n x.1
  | none => false

/-- A die stripe of the block stripe holds a mapped card and lacks a P or Q page (R181). -/
def lacksParity (s : State) (n : Nat) : Bool :=
  (mapAt [] n s.blk.lists).any fun x => namedAt s n x &&
    [64, 65].any fun u => match unitDie s n u with
      | some d => (mapGet (mkPpa d.channel d.target (entryPlane s n) (entryBlock s n)
          (posPage (dataWidth s n) x.1) (posSlot x.1)).toNat s.wr.parity).isNone
      | none => true

/-- A listed block stripe with pages is closed; one without goes back to free. -/
def closeListed (n : Nat) (s : State) : State :=
  if hasPages s n then
    let bad := lacksParity s n
    modBlk n (fun b => { b with
      state := 2, closed := nowMin s, closedSeq := s.led.nextSeq, listRows := 0, forced := b.forced || bad }) s
  else modBlk n (fun b => { freeEntry (inCarrel s n) with erases := b.erases, excluded := b.excluded }) s

/-- Cards that the map names, as (shelf, card, PPA). -/
def namedCards (s : State) : List (Nat × Nat × Ppa) :=
  let shelves := (sortBy (fun a b => decide (a < b))
    ((s.cat.shelves.map fun e => e.1) ++ s.cat.pend.map fun r => r.shelf)).eraseDups
  shelves.flatMap fun sh => (List.range 16).filterMap fun i => match mapped s sh i with
    | some (p, _, _) => some (sh, i, p)
    | none => none

/-- The card of a torn page as its die stripe rebuilds it, if it does and passes the shelfmark check (R147). -/
def tornCard (f : StartFacts) (sh i : Nat) (p : Ppa) (s : State) : Option Stored :=
  match ppaEntry s p, cardIndex s sh i with
  | some n, some (ns, lba) =>
    let page := ppaPage p
    let slot := ppaSlot p
    match (stripePpas s n page slot).find? fun x => x.2 = p,
      solvePosition s n page slot fun x => x.2 = p || f.unbuildable.contains x.2 with
    | some (j, _), some out => (out[j]?).bind fun y =>
      let x : Stored := { data := y.1, md := unpackMeta y.2 }
      if x.md.nsid = ns.nsid && x.md.lba = lba then some x else none
    | _, _ => none
  | _, _ => none

/-- A mapped card on a torn page is rebuilt and written again, or marked when its die stripe cannot rebuild it;
its block stripe becomes a forced victim (R181). -/
def settleTorn (f : StartFacts) (x : Nat × Nat × Ppa) (s : State) : State :=
  let (sh, i, p) := x
  if p = 0 || (mapGet p.toNat s.wr.flash).isSome then s
  else
    let s1 := match ppaEntry s p with | some n => forceVictim n none s | none => s
    match tornCard f sh i p s1 with
    | some c => match rewriteCard sh i p c (natAt f.picks 0) s1 with
      | some (_, t) => t
      | none => s1
    | none =>
      let w : LadderWord := { ppa := p, step := 7, cls := 1, why := [], decoded := false, places := 0 }
      match rewriteCard sh i p (replacement s1 w sh i) (natAt f.picks 0) s1 with
      | some (new, t) => foxSet sh i new 0 t
      | none => s1

/-- A settled block stripe: a position that the map does not name is an orphan, of KIND 1, and the shelf list of a
full block stripe is written (R90, R181). -/
def enterOrphans (n : Nat) (s : State) : State :=
  if (blkAt s n).state != 2 || (blkAt s n).stream = 3 then s
  else placeList n { s with blk := { s.blk with
    lists := mapSet n ((mapAt [] n s.blk.lists).filter (namedAt s n)) s.blk.lists } }

/-- The cards of the extent whose card 0 lies at `p` are erased (R55). -/
def eraseExtent (p : Ppa) (s : State) : State :=
  let e := extentEntry s p
  let gone := fun (c : Nat) =>
    let q := BitVec.ofNat 40 c
    ppaEntry s q = some e && ppaPage p ≤ ppaPage q
      && decide (ppaPage q < ppaPage p + extentPages (dataWidth s e))
  { s with
    wr := { s.wr with
      flash := s.wr.flash.filter fun c => ! gone c.1
      parity := s.wr.parity.filter fun c => ! gone c.1 }
    led := { s.led with extents := s.led.extents.filter fun x => x.2 != p } }

/-- The first extent of the start (R55): the one that the last extent found names, erased if it is not empty, or a new
one. -/
def firstExtent (s : State) : State :=
  let p := s.led.nextExtent
  if p = 0 then startExtent true (allocExtent s)
  else
    let e := extentEntry s p
    let s1 := eraseExtent p s
    startExtent true (if (blkAt s1 e).state = 0 then openExtents e s1
      else modBlk e (fun b => { b with
        state := 1, stream := 3, carrel := true, rowsUsed := ceilDiv (pagesOf s1 e) 4 }) s1)

/-- The Daybook's block stripes: the open one is closed, a new one opens with its RING_OPEN (R391). -/
def openDay (s : State) : State :=
  let prev := s.day.stripe
  let reserve := if s.day.coastWrote then s.coast.reserve.getLast? else none
  let s1 : State := { s with day := { s.day with prevStripe := prev, coastWrote := false } }
  match systemStripe (dayReserve s1) s1 with
  | none => s1
  | some n =>
    let t := openWhole n s1
    record 0x0009 [(5, (posPpa t n 0).toNat), (4, prev), (4, reserve.getD 0xFFFFFFFF)]
      { t with day := { t.day with
          stripe := n
          cards := 0
          stripes := t.day.stripes ++ (match reserve with
            | some x => [(x, s.day.flushed)]
            | none => []) ++ [(n, 0)] } }

/-- `n` more carrel block stripes are kept apart. -/
def takeReserve : Nat → State → State
  | 0, s => s
  | n + 1, s => match groupToUse s true 5 with
    | none => s
    | some g => match stripeToOpen s g true with
      | none => s
      | some e => takeReserve n { s with coast := { s.coast with reserve := s.coast.reserve ++ [e] } }

/-- The reserves of R104. -/
def takeReserves (s : State) : State :=
  let pages := match geometry s with | some g => g.pslcPages | none => 1
  let (a, b, c) := reserveCounts (fld s 0x508) pages (transitBytes s)
  takeReserve (a + b + c) s

/-- Lane rebuilds that a loss or reset cut short (R102). -/
def resumeRebuilds (s : State) : State :=
  let cut := (List.range (laneCount s)).filterMap fun (l : Nat) =>
    let dead := (laneDies s l).filter fun e => dieRetired s e.channel e.target
    if dead.isEmpty || (wideStripes s l).isEmpty then none
    else some { lane := l, step := 1, dies := dead.map fun e => (e.channel, e.target) : LaneRebuild }
  { s with blk := { s.blk with rebuilds := cut } }

/-- The intents whose card the share holds are settled (R312). -/
def foundIntents (s : State) : State :=
  let here := fun (r : IntentRec) => match nsAt s (ecNsid s r.echelon) with
    | none => false
    | some n => match cardPlace n (16 * ecStripes s r.echelon + r.slotNo) with
      | some (sh, c) => (mapped s sh c).isSome
      | none => false
  { s with ech := { s.ech with intents :=
      (s.ech.intents.filter here).map fun r => { r with settling := decide (r.kind < 2) } } }

/-! ## The start record (R51, R106, R177) -/

/-- KS_START_FLAGS (Table 8.2). -/
def startFlags (m : ModeSt) : Nat :=
  (if m.folioBankB then 128 else 0) + (if m.schema3 then 64 else 0) + (if m.keyFail then 32 else 0)
    + (if m.oldSet then 16 else 0) + (if m.fullFlash then 8 else 0) + (if m.fullDram then 4 else 0)
    + (if m.libRetry then 2 else 0) + (if m.firstStart then 1 else 0)

/-- The flush of step 5: the records so far are programmed in the Daybook block stripe of this start before its start
record, so that any later start sees the disarming (R177, R390; DEDUCED, log entry 167). -/
def flushDay (s : State) : State :=
  storeDay s.day.stripe s.day.cards s.day.buffer { s with day := { s.day with
    buffer := [], flushDue := false, cards := s.day.cards + flushCards s.day.buffer.length } }

/-- The START record, and the disarming that every start enters. -/
def startRecords (newest : Nat) (s : State) : State :=
  flushDay (record 0x0004 [(1, 0), (1, 2)]
    (record 0x0001 [(4, startFlags s.mode), (1, s.mode.reason), (1, s.coast.lossBefore), (8, newest)] s))

/-- The start spine record is written and read back; without a free place it waits for the erase of the other
sector (R53). -/
def startSpine (s : State) : State :=
  let other := 129 - s.inv.activeSpine
  let s1 := if (spinePlace s).isSome then s
    else sectorErased other (clearBytes other { s with cdx := { s.cdx with
      erasing := if s.cdx.erasing = some other then none else s.cdx.erasing
      flags := s.cdx.flags.filter fun x => x != other } })
  match appendSpine 1 (passToName s1) s1 with
  | some t => match t.inv.writing with
    | some r => spineRead r t
    | none => t
  | none => s1

/-- H_full0: stacks headroom at full user capacity, every present die in service (R383). -/
def fullHeadroom (s : State) : Nat :=
  let stripes := groupCount s * (blocksOf s - fld s 0x50C)
  (stripes * fullStripeCards s - fld s 0x500 / 4096) / max 1 (fullStripeCards s)

/-- Preserve is pending or left, once step 5 has ended (R106). -/
def weighPreserve (s : State) : State :=
  let t := newHeadroom { s with blk := { s.blk with headFull0 := fullHeadroom s, belowBoot := true } }
  let latch := rtValue t latchKey = some 1
  if latch && decide (2 * preserveFloor t ≤ t.blk.headroom) then storeRt latchKey 0 t
  else { t with mode := { t.mode with preservePend := latch || decide (t.blk.headroom < preserveFloor t) } }

/-- A first start: the default namespaces and shares, and the layout digest (R190, R297, R359, R362). -/
def firstStart (s : State) : State :=
  let s1 : State := { s with
    mode := { s.mode with firstStart := true }
    cat := { s.cat with nextAcc := 1 } }
  match folioInForce s1 with
  | none => s1
  | some f => storeRt layoutKey f.layoutDigest (f.namespaces.foldl (fun t d => makeDefault d t) (takeShares s1))

/-- Pages of shelves never written need no read: what replay entered for them lands at once (R55). -/
def createPages (s : State) : State :=
  let pages := ((s.cat.pend.map fun r => pageOfShelf r.shelf).eraseDups).filter fun c => (indexAt s c).state = 0
  pages.foldl (fun t c => loadPage c t) s

/-- Listed block stripes are closed, and those no page of which is programmed go back to free. -/
def settleOpen (f : StartFacts) (s : State) : State :=
  let t := probe s
  let l := openList f t
  l.foldl (fun v n => closeListed n v) (dropTorn f l t)

/-- Torn cards are rebuilt or marked, and orphans entered. -/
def settleCards (f : StartFacts) (l : List Nat) (s : State) : State :=
  l.foldl (fun t n => enterOrphans n t) ((namedCards s).foldl (fun t x => settleTorn f x t) s)

/-- The part of step 5 that every start shares once its map stands. -/
def finishRoot (unsafeStart : Bool) (newest : Nat) (s : State) : State :=
  let s1 := takeReserves (openDay (numberDay unsafeStart { s with coast := { s.coast with reserve := [] } }))
  weighPreserve (startSpine (startRecords newest (resumeRebuilds s1)))

/-- Step 5 after an earlier start. -/
def recoverMap (f : StartFacts) (r : SpineRec) (s : State) : State :=
  let s1 := loadMap f r (restoreCounts (rebase s))
  let s2 : State := { s1 with
    cat := { s1.cat with nextAcc := startFloor r }
    inv := { s1.inv with nextSpine := r.spineSeq + 1, refFloor := r.accFloor } }
  let s3 := accountLoss f r s2
  let s4 := settleCards f (openList f (probe s3)) (firstExtent (settleOpen f s3))
  finishRoot (r.kind != 2) r.spineSeq (foundIntents (takeShares s4))

/-- Step 5: none of these records, a map root that cannot be read, or a map. -/
def rootStart (f : StartFacts) (s : State) : State × Nat :=
  match newestSpine s with
  | some (r, _) => if f.rootBad then (s, 8) else (recoverMap f r s, 0)
  | none =>
    if s.inv.spine0.isEmpty && s.inv.spine1.isEmpty && ! flagged s 128 && ! flagged s 129 then
      (finishRoot false 0 (firstExtent (firstStart (restoreCounts (rebase s)))), 0)
    else (s, 7)

/-! ## Step 6 and the ready point (R170, R190, R194, R255, R405) -/

/-- An echelon of this member at start: the view stored, or every position in service. -/
def bootEchelon (s : State) (c : EchelonEntry) : EchelonSt :=
  let first : ViewRec :=
    { viewNum := 0, echelon := c.echelon, holder := c.positions.foldl min 255
      places := c.positions.map fun m => (m, 1) }
  let v := match rtValue s (0x30000 + c.echelon) with | some x => decodeView x | none => first
  let p := (rtValue s (0x40000 + c.echelon)).getD 0
  { echelon := c.echelon, view := v, storing := false, waiting := v.holder != s.pel.self, unreach := false
    dropped := false, ana := 15, pointer := p, stored := p, reports := []
    refDigest := match folioInForce s with | some f => f.folioDigest | none => 0 }

/-- The echelons in which this member holds a position or is a spare. -/
def echelonsStart (s : State) : State :=
  match folioInForce s with
  | none => s
  | some f =>
    let mine := f.echelons.filter fun c => s.pel.assigned
      && (c.positions.contains s.pel.self || c.spares.contains s.pel.self)
    settleAna { s with ech := { s.ech with ech := mine.map (bootEchelon s) } }

/-- The set that passed step 6 is confirmed. -/
def confirmSet (s : State) : State :=
  let n := activeBlock s
  let t : State := { s with upd := { s.upd with loaded := true } }
  if (blockOf t n).confirmed then t
  else noteSet 1 n 0 (modBlock n (fun b => { b with confirmed := true }) t)

/-- The segments that DRAM has slots for (R57). -/
def slotsStart (s : State) : State :=
  match folioInForce s with
  | some f => { s with cat := { s.cat with slotCap := (restBytes f).toNat / 112 } }
  | none => s

/-- Renewals whose sweep a loss of power cut run again (R260). -/
def resumeRenewals (s : State) : State :=
  let cut := (keyedSlots s).filterMap fun (k : Nat) => match recInForce s k with
    | some r => if r.sweepDone then none else some
        { slot := k, cmd := none, session := none, reply := none, before := [], rekey := true, whole := false,
          loaded := true, lastSeq := 0 : Renewal }
    | none => none
  { s with key := { s.key with renewals := cut } }

/-- What the Librarian does first in Warming: lower generations are zeroised, flagged sectors erased, and the
records of Recovery entered. -/
def librarianStart (s : State) : State :=
  let s1 := (keyedSlots s).foldl (fun t k => match recInForce t k with
    | some r => zeroiseBelow k r.gen t
    | none => t) s
  let s2 := (s1.cdx.flags.filter fun n => decide (n < 144)
    && ! (decide (96 ≤ n) && decide (n < 108)) && ! (decide (112 ≤ n) && decide (n < 124))).foldl
      (fun t n => askErase n t) s1
  if s2.cdx.recRecords.isEmpty then s2
  else
    let s3 := s2.cdx.recRecords.foldl (fun t r => placeRecord { r with seq := t.day.next } t) s2
    askErase 143 (askErase 142 { s3 with cdx := { s3.cdx with recRecords := [] } })

/-- The ready point: Warming, or Preserve when it is pending with no page to load. -/
def readyPoint (s : State) : State :=
  let todo := (pagesToLoad s).length
  let s1 := createPages { s with
    mode := { s.mode with
      warm := decide (0 < todo), warmTotal := todo, pagesLoaded := 0, ready := true, degraded := degradedNow s }
    nv := { s.nv with rdy := s.nv.cc.getLsbD 0 }
    inv := { s.inv with interval := fld s 0x600 } }
  let s2 := if s1.mode.preservePend && todo = 0 then enterPreserve s1 else setMode .warming s1
  requestTest (librarianStart (resumeRenewals s2))

/-- The die timeouts since manufacture are loaded into KS_CHAN_TOUT (R119). -/
def loadTouts (s : State) : State :=
  { s with fl := { s.fl with
      chans := s.fl.chans.map fun c => (c.1, { c.2 with tout := sat32 (c.2.tout + mapAt 0 c.1 s.nv.saved.tout) }) } }

/-- Step 6; the engines' tables fail their CRC under REASON 0x09. -/
def engineStart (s : State) : State :=
  readyPoint (takeCoastStripes (confirmSet (slotsStart (echelonsStart (loadTouts (takeLive s))))))

end Sys2Proof.Machine
end

