-- ==== Sys2Proof/Machine/Start.lean ====
section
/-! DEFINITION. The commands that start, stop and return the part (R174, R188, R190 to R193, R220, R445): PERST#,
the end of a Coast, and CC.EN. -/

namespace Sys2Proof.Machine

/-! ## Start-up (Table 8.4) -/

/-- KS_START_LOG once `n` steps have ended. -/
def logSteps (f : StartFacts) (n : Nat) (s : State) : State :=
  { s with mode := { s.mode with startLog := (List.range 6).map fun i => if i < n then natAt f.stepMs i else 0 } }

/-- Step 1: the Colophon row, the spine, and the endpaper block that runs or that an armed set is streamed from. -/
def stepColophon (f : StartFacts) (s : State) : State :=
  if ! colophonOk s then enterRecovery 1 s
  else match streamSet (spineStart s) with
    | none => enterRecovery 2 s
    | some t => logSteps f 1 (loadIdentity t)

/-- The PCIe core and PHY are awake: link training begins (R191). -/
def wakeLink (s : State) : State := { s with mode := { s.mode with gates := { s.mode.gates with pcie := false } } }

/-- Step 2: the check of a set that is activated for the first time, the Folio bank, the power-cycle count and the
Librarian; link training begins. -/
def stepFolio (f : StartFacts) (s : State) : State :=
  match firstCheck s with
  | none => enterRecovery 2 s
  | some s1 =>
    let t := noteBank true (noteBank false (loadIdentity s1))
    match chooseBank t with
    | none => enterRecovery 3 t
    | some b =>
      let u := countPower (takeBank b t)
      let v := if f.lockstepBad = 0 then u else lockstepOnce u
      if 2 ≤ f.lockstepBad then enterRecovery 4 v
      else logSteps f 2 (wakeLink (portsUp { v with lib := { v.lib with state := 0, started := true } }))

/-- Step 3. -/
def stepDram (f : StartFacts) (s : State) : State :=
  let s1 : State := { s with mode := { s.mode with gates := { s.mode.gates with dram := false } } }
  match dramStart f s1 with
  | none => enterRecovery 5 { s1 with mode := { s1.mode with fullDram := true } }
  | some t => logSteps f 3 t

/-- The tiles of present channels and the cipher cores are awake. -/
def wakeTiles (s : State) : State :=
  { s with mode := { s.mode with gates := { s.mode.gates with
      cores := [], tiles := (List.range 64).filter fun ch => ! s.fl.dies.any fun d => d.channel = ch } } }

/-- Step 4. -/
def stepFlash (f : StartFacts) (s : State) : State :=
  let t := trainAll f (wakeTiles (buildRoster s))
  if ! channelPasses t then enterRecovery 6 t else logSteps f 4 (keyStart f t)

/-- The decoders are awake: the reads of step 5 pass through them. -/
def wakeDecoders (s : State) : State :=
  { s with mode := { s.mode with gates := { s.mode.gates with hardDec := [], softDec := [] } } }

/-- Step 5. -/
def stepRoot (f : StartFacts) (s : State) : State :=
  match rootStart f (wakeDecoders s) with
  | (t, 0) => logSteps f 5 t
  | (t, reason) => enterRecovery reason t

/-- Step 6. -/
def stepEngines (f : StartFacts) (s : State) : State :=
  if ! (blockOf s (activeBlock s)).facts.tablesOk then enterRecovery 9 s else logSteps f 6 (engineStart s)

/-- What step `n` of Table 8.4 has done by its end, counted from 0. -/
def startStep (f : StartFacts) : Nat → State → State
  | 0 => stepColophon f
  | 1 => stepFolio f
  | 2 => stepDram f
  | 3 => stepFlash f
  | 4 => stepRoot f
  | _ => stepEngines f

/-- The units that a start finds gated: all but the Librarian's and the Bufold core's clocks (R195). -/
def gatedAtStart : Gates :=
  { tiles := List.range 64, hardDec := List.range 128, softDec := List.range 24, cores := List.range 24
    ports := [0, 1, 2, 3], engines := false, pcie := true, dram := true }

/-- PERST# is deasserted in Dormant: the mode is Rising, and step 1 begins. -/
def beginStart (f : StartFacts) (s : State) : State :=
  let t := setMode .rising { s with
    pins := { s.pins with perstN := true, pwrfailN := true, railOk := List.replicate 10 true }
    mode := { s.mode with manufacturing := manufacturingNow s } }
  { t with mode := { t.mode with
      gates := gatedAtStart, startRun := some { facts := f, ended := 0, us := s.clock.us } } }

/-- The ports that `pick` names drive their ALIVE, and where a partner's is high training starts (R271, R273). -/
def raiseAlive (pick : Nat → Bool) (s : State) : State :=
  ([0, 1, 2, 3].filter pick).foldl (fun t p =>
    let u := modPort p (fun x => { x with aliveTx := true }) t
    if (portAt u p).partner && (portAt u p).state = 0 then startTraining p u else u) s

/-- The ports drive their ALIVE again. -/
def portsAlive (s : State) : State := raiseAlive (portUsed s) s

/-- In Recovery the boot ROM brings the ports up with the bank that R351 would select (R430), and drives ALIVE on every port
(R271); without a valid bank the Peloton identifier is zero, and its partners fence it. -/
def recoveryPorts (s : State) : State :=
  if s.mode.mode != .recovery || s.pel.ports.all (fun p => p.aliveTx) then s
  else
    let t := if s.pel.ports.any fun p => p.aliveTx then s
      else match chooseBank s with
        | none => s
        | some b => portsUp (if s.fol.inForce.isSome then s else takeBank b s)
    raiseAlive (fun _ => true) t

/-- The step of the start in progress that ends by now. -/
def stepDue (s : State) : Option StartRun :=
  s.mode.startRun.filter fun r => s.mode.mode = .rising && decide (r.us + 1000 * natAt r.facts.stepMs r.ended ≤ s.clock.us)

/-- The end of a step of the start: its work, and the next step while the mode is Rising (R190; the effects of a step
stand at its end, DESIGN CHOICE, log entry 53). -/
def startAdvance (s : State) : State :=
  match stepDue s with
  | none => s
  | some r =>
    let t := recoveryPorts (startStep r.facts r.ended s)
    { t with mode := { t.mode with startRun :=
      if t.mode.mode = .rising then some { r with ended := r.ended + 1 } else none } }

/-- PERST_DEASSERT: with every rail in range. Released during the Coast that its assertion began, start-up
waits for that Coast (R174). -/
def execPerstDeassert (f : StartFacts) (s : State) : Outcome :=
  .next (match s.mode.mode with
    | .dormant => beginStart f s
    | .coast => if s.pins.perstN then s
      else { s with
        pins := { s.pins with perstN := true }
        coast := { s.coast with perstFacts := some f } }
    | _ => s)

/-! ## PERST_ASSERT -/

/-- A low pulse of `ns`: 10 µs is recognised, 1 µs ignored; between the two it is open (R445). -/
def perstSeen (s : State) (ns : Nat) : Bool :=
  if 10000 ≤ ns then true else if ns ≤ 1000 then false else Config.freeBit s.free

/-- The assertion in each mode (Table 8.3, R174): a serving device runs Coast first. -/
def assertPerst (s : State) : State :=
  let t : State := { s with
    pins := { s.pins with perstN := false }
    link := { s.link with up := false } }
  match s.mode.mode with
  | .unpowered => s
  | .dormant => s
  | .rising => dormant (finishCodex t)
  | .recovery => dormant (finishCodex t)
  | .coast => if s.coast.phase = .hold then dormant t
    else { t with coast := { t.coast with perstFacts := none } }
  | .warming => coastEntry .perst t
  | .service => coastEntry .perst t
  | .degraded => coastEntry .perst t
  | .preserve => coastEntry .perst t

/-- PERST_ASSERT. -/
def execPerstAssert (lowNs : Nat) (s : State) : Outcome :=
  let t := if decide (1000 < lowNs) && decide (lowNs < 10000) then drawFree s else s
  .next (if perstSeen s lowNs then assertPerst t else t)

/-! ## COAST_COMPLETE (R168, R173, R174) -/

/-- The Coast record is read back; one that is torn leaves the record before it in force. -/
def coastRecord (readBackOk : Bool) (s : State) : State :=
  match s.inv.writing with
  | none => s
  | some r => if readBackOk then spineRead r s else tearSpine r s

/-- The device holds; SHST is 2h, and the counts of the Coast are kept. -/
def coastHold (s : State) : State :=
  saveLogs { s with
    nv := { s.nv with shst := 2 }
    coast := { s.coast with
      phase := .hold, lastCoastUs := s.clock.us - s.coast.entryUs } }

/-- COAST_COMPLETE: with PERST# asserted the device is reset, and with PERST# released since, it starts. -/
def execCoastComplete (readBackOk : Bool) (s : State) : Outcome :=
  .next (if s.coast.phase != .record then s
    else
      let t := coastHold (coastRecord readBackOk s)
      match s.coast.perstFacts with
      | some f => beginStart f (dormant t)
      | none => if s.pins.perstN then t else dormant t)

/-! ## CC.EN (R174, R192, R213, R220) -/

/-- CC.EN reads `v`. -/
def setEn (v : Bool) (s : State) : State :=
  { s with nv := { s.nv with cc := if v then s.nv.cc ||| 0x1#32 else s.nv.cc &&& 0xFFFFFFFE#32 } }

/-- The admin queues, as AQA sizes them. -/
def adminQueues (s : State) : State :=
  { s with nv := { s.nv with
      sqs := [{ qid := 0, size := (s.nv.aqa.extractLsb' 0 12).toNat + 1, cqid := 0, prio := 0, tail := 0,
                head := 0, fence := none }]
      cqs := [{ qid := 0, size := (s.nv.aqa.extractLsb' 16 12).toNat + 1, vector := 0, ien := true, head := 0,
                tail := 0 }] } }

/-- A controller that is enabled: RDY with the readiness of the part. -/
def enable (s : State) : State :=
  let t := adminQueues (setEn true s)
  { t with nv := { t.nv with rdy := t.mode.ready } }

/-- Coast block stripes that hold cards are closed, and new ones taken. -/
def renewCoastStripes (s : State) : State :=
  let used := s.coast.stripes.filter fun n => ! (mapAt [] n s.blk.lists).isEmpty
  let s1 : State := { s with coast := { s.coast with stripes := s.coast.stripes.filter fun n => ! used.contains n } }
  takeCoastStripes (used.foldl (fun t n => modBlk n (fun b => { b with
    state := 2, closed := nowMin t, closedSeq := t.led.nextSeq, listRows := 0 }) t) s1)

/-- The end of the hold after a shutdown notification: a start record, Coast block stripes, and the mode that
was left. -/
def returnFromHold (s : State) : State :=
  let cc := s.nv.cc
  let s1 := setMode s.coast.modeAt (controllerReset { s with coast := { s.coast with phase := .none } })
  let s2 := match appendSpine 1 (passToName s1) s1 with
    | some t => match t.inv.writing with
      | some r => spineRead r t
      | none => t
    | none => s1
  let s3 := portsAlive (renewCoastStripes s2)
  enable { s3 with nv := { s3.nv with cc := cc &&& 0xFFFF3FFF#32 } }

/-- The hold that a shutdown notification ended in. -/
def shutdownHold (s : State) : Bool :=
  s.mode.mode = .coast && s.coast.phase = .hold && (s.coast.cause = .normal || s.coast.cause = .abrupt)

/-- CC_EN_SET. -/
def execCcEnSet (s : State) : Outcome :=
  .next (if ! awake s || s.link.d3hot || s.nv.cc.getLsbD 0 then s
    else if shutdownHold s then returnFromHold s
    else if s.mode.mode = .coast then setEn true s
    else enable s)

/-- CC_EN_CLEAR: a controller reset; in Coast the register alone changes, and SHST stays. -/
def execCcEnClear (s : State) : Outcome :=
  .next (if ! awake s || s.link.d3hot || ! s.nv.cc.getLsbD 0 then s
    else if s.mode.mode = .coast then
      let t := setEn false s
      { t with nv := { t.nv with rdy := false } }
    else
      let t := hostReset 0 s
      { t with nv := { t.nv with cc := s.nv.cc &&& 0xFFFF3FFE#32 } })

end Sys2Proof.Machine
end

