-- ==== Sys2Proof/Machine/Power.lean ====
section
/-! DEFINITION. Power gates, Idle Service, DRAM self-refresh, CORE_VSET, rails and the test access port (R195 to R197,
R251, R339, R442, R444, R447, R450). -/

namespace Sys2Proof.Machine

/-! ## Idle Service (R197) -/

/-- The conditions of R197. -/
def quiet (s : State) : Bool :=
  s.nv.cmds.isEmpty && s.nv.waiting.isEmpty && ! s.wr.folding && s.blk.victims.isEmpty && s.blk.rotating.isEmpty
    && ! degradedNow s && s.inv.running.isNone && s.esc.contexts.isEmpty && s.pel.txns.isEmpty
    && s.wr.rows.all (fun r => r.sealed)

/-- Every unit of Table 8.6 is gated, the ports by their own rule; Latency Tolerance is reported where enabled (R200). -/
def gateAll (s : State) : State :=
  { s with
    mode := { s.mode with
      idle := true
      gates := { s.mode.gates with
        tiles := List.range 64, hardDec := List.range 128, softDec := List.range 24, cores := List.range 24
        engines := true } }
    link := { s.link with ltrSent := if s.link.cfg.ltr then s.link.ltrSent + 1 else s.link.ltrSent } }

/-- IDLE_SERVICE_ENTRY: the conditions have held for 20 ms. -/
def execIdleServiceEntry (s : State) : Outcome :=
  .next (if s.mode.mode = .service && ! s.mode.idle && quiet s then gateAll s else s)

/-- IDLE_SERVICE_EXIT: a due timer or background work wakes the engines and the crossbar. -/
def execIdleServiceExit (s : State) : Outcome := .next (if s.mode.idle then leaveIdle s else s)

/-! ## Units (R196, Table 8.6) -/

/-- UNIT_WAKE: the unit keeps its state through the gate and serves the request that waited. The wake of the
engines ends Idle Service; that of a tile, a decoder or a core alone does not. -/
def execUnitWake (unit index : Nat) (s : State) : Outcome :=
  .next (if ! awake s then s
    else if unit = 5 then (if s.mode.gates.engines then leaveIdle s else s)
    else useUnit unit index s)

/-- DRAM_SELF_REFRESH_ENTRY: 1 ms after Idle Service entry (R339). -/
def execDramSelfRefreshEntry (s : State) : Outcome :=
  .next (if s.mode.idle then
    { s with
      dram := { s.dram with selfRef := true }
      mode := { s.mode with gates := { s.mode.gates with dram := true } } }
  else s)

/-! ## Clocks and PLLs (R195, R447, Table 19.10) -/

/-- The clock domains of Table 19.10, one constructor a row. -/
inductive ClockDomain where
  | alwaysOn | librarian | pciePhy | pcieCore | frontEnd | bufoldCore | weedingEngine | foldEngine | bufferPools
  | parityEngine | transitBuffer | indexCache | cipher | ldpc | flashPhy (group : Nat) | quadrant (q : Nat)
  | dramPhy (sub : Nat) | dramController (channel : Nat) | portTransmit (port : Nat) | portReceive (port : Nat)
  | router | codexInterface | sensorAdc | holdupMonitor | sideband | jtag
  deriving DecidableEq, Repr

/-- What a domain is clocked from: the column Source of Table 19.10. -/
inductive ClockSource where
  | oscillator | librarianPll | pciePll | bufoldPll | enginePll | flashPll (group : Nat) | quadrantPll (q : Nat)
  | dramPll | pelotonPll | lanes (port : Nat) | ref25 | tck
  deriving DecidableEq, Repr

def clockSource : ClockDomain → ClockSource
  | .alwaysOn => .oscillator
  | .librarian | .codexInterface => .librarianPll
  | .pciePhy | .pcieCore => .pciePll
  | .frontEnd | .bufoldCore | .bufferPools | .transitBuffer | .indexCache | .router => .bufoldPll
  | .weedingEngine | .foldEngine | .parityEngine | .cipher | .ldpc => .enginePll
  | .flashPhy g => .flashPll g
  | .quadrant q => .quadrantPll q
  | .dramPhy _ | .dramController _ => .dramPll
  | .portTransmit _ => .pelotonPll
  | .portReceive p => .lanes p
  | .sensorAdc | .holdupMonitor | .sideband => .ref25
  | .jtag => .tck

/-- The 60 domains. -/
def clockDomains : List ClockDomain :=
  [ClockDomain.alwaysOn, .librarian, .pciePhy, .pcieCore, .frontEnd, .bufoldCore, .weedingEngine, .foldEngine, .bufferPools,
    .parityEngine, .transitBuffer, .indexCache, .cipher, .ldpc]
    ++ (List.range 16).map ClockDomain.flashPhy ++ (List.range 4).map ClockDomain.quadrant ++ (List.range 8).map ClockDomain.dramPhy
    ++ (List.range 4).map ClockDomain.dramController ++ (List.range 4).map ClockDomain.portTransmit ++ (List.range 4).map ClockDomain.portReceive
    ++ [.router, .codexInterface, .sensorAdc, .holdupMonitor, .sideband, .jtag]

/-- All of `n` units from the `i`-th on are gated. -/
def allGated (l : List Nat) (i n : Nat) : Bool := (List.range n).all fun k => l.contains (i + k)

/-- The column Gated when, in a mode past Dormant; JTAG's own clock comes with TCK and is not gated. -/
def domainGated (s : State) : ClockDomain → Bool
  | .pciePhy | .pcieCore => s.mode.gates.pcie
  | .bufoldCore | .bufferPools | .parityEngine | .transitBuffer | .indexCache => s.mode.gates.engines
  | .weedingEngine => s.mode.gates.engines || s.blk.victims.isEmpty && s.blk.rotating.isEmpty
  | .foldEngine => s.mode.gates.engines || ! s.wr.folding
  | .cipher => allGated s.mode.gates.cores 0 24
  | .ldpc => allGated s.mode.gates.hardDec 0 128 && allGated s.mode.gates.softDec 0 24
  | .flashPhy g => allGated s.mode.gates.tiles (4 * g) 4
  | .quadrant q => allGated s.mode.gates.tiles (16 * q) 16
  | .dramPhy _ | .dramController _ => s.dram.selfRef || s.mode.gates.dram || s.mode.mode = .coast
  | .portTransmit p | .portReceive p => s.mode.gates.ports.contains p
  | .router => allGated s.mode.gates.ports 0 4
  | .alwaysOn | .librarian | .frontEnd | .codexInterface | .sensorAdc | .holdupMonitor | .sideband | .jtag => false

/-- The domain's clock runs: only the always-on domain in Dormant, none without power. -/
def clockRuns (s : State) (d : ClockDomain) : Bool :=
  match s.mode.mode with
  | .unpowered => false
  | .dormant => d = .alwaysOn
  | _ => ! domainGated s d

/-- A PLL runs while some domain it clocks does (R195): it starts when the first unit it clocks is woken, and
stops when every domain it clocks is gated. The Librarian's and the Bufold core's run from PERST# deassertion on,
as their domains are gated in Dormant only. -/
def pllRuns (s : State) (src : ClockSource) : Bool :=
  clockDomains.any fun d => decide (clockSource d = src) && clockRuns s d

/-! ## CORE_VSET (R444) -/

/-- CORE_VSET_UPDATE: the duty that the monitors ask for, between steps 1 and 2 of start-up and Coast. The
setpoint moves by at most 10 mV per 10 µs, and so reaches any value within the 1 ms of an update. -/
def execCoreVsetUpdate (duty : Nat) (s : State) : Outcome :=
  .next (if ! awake s || s.mode.mode = .coast || s.mode.mode = .rising then s
    else { s with pins := { s.pins with coreVset := min duty 1000 } })

/-! ## Rails (R442, R444, R448; Table 19.8) -/

/-- A rail: nominal, operating range and absolute maximum in mV, current in mA. -/
structure Rail where
  nominal : Nat
  low     : Nat
  high    : Nat
  absMax  : Nat
  maxMa   : Nat
  deriving DecidableEq, Repr

/-- The VDD_CORE setpoint in tenths of a mV for a high fraction in thousandths. -/
def coreSetpoint (duty : Nat) : Nat := 6000 + 2 * duty

/-- Rail `r` of R379; VDD_CORE within 3 % of the setpoint in force. -/
def railAt (s : State) (r : Nat) : Option Rail :=
  let core := coreSetpoint s.pins.coreVset
  match r with
  | 0 => some { nominal := core / 10, low := ceilDiv (97 * core) 1000, high := 103 * core / 1000, absMax := 950, maxMa := 45000 }
  | 1 => some { nominal := 750, low := 720, high := 780, absMax := 950, maxMa := 6000 }
  | 2 => some { nominal := 800, low := 760, high := 840, absMax := 950, maxMa := 100 }
  | 3 => some { nominal := 1100, low := 1067, high := 1133, absMax := 1400, maxMa := 4000 }
  | 4 => some { nominal := 1200, low := 1140, high := 1260, absMax := 1500, maxMa := 6000 }
  | 5 => some { nominal := 750, low := 720, high := 780, absMax := 950, maxMa := 3000 }
  | 6 => some { nominal := 1200, low := 1160, high := 1240, absMax := 1500, maxMa := 1500 }
  | 7 => some { nominal := 750, low := 720, high := 780, absMax := 950, maxMa := 3000 }
  | 8 => some { nominal := 1200, low := 1160, high := 1240, absMax := 1500, maxMa := 1500 }
  | 9 => some { nominal := 1800, low := 1710, high := 1890, absMax := 2100, maxMa := 100 }
  | _ => none

/-- A measured voltage lies in the operating range of its rail. -/
def railInRange (s : State) (r mv : Nat) : Bool :=
  match railAt s r with
  | some x => decide (x.low ≤ mv) && decide (mv ≤ x.high)
  | none => false

/-! ## Test access (R251, R450) -/

/-- Every slot register and the state of the unwrap engine are cleared. -/
def clearSlots (s : State) : State := { s with key := { s.key with loaded := [], testKey := false } }

/-- JTAG_INSTRUCTION_LOAD: BYPASS, IDCODE, a boundary instruction, or one that clears the key slots. -/
def execJtagInstructionLoad (kind : Nat) (s : State) : Outcome :=
  .next (if ! awake s then s
    else
      let t : State := { s with pins := { s.pins with jtagBoundary := kind = 2 } }
      if kind ≤ 2 then t else clearSlots t)

/-- TEST_MODE_ASSERT. -/
def execTestModeAssert (s : State) : Outcome :=
  .next (clearSlots { s with pins := { s.pins with testMode := true } })

end Sys2Proof.Machine
end

