-- ==== Sys2Proof/Machine/Health.lean ====
section
/-! DEFINITION. Temperatures, spare and wear, and Critical Warning (R378, R382, R383). -/

namespace Sys2Proof.Machine

/-! ## Temperatures (R378); readings are in 0.125 °C -/

/-- The highest of a list of readings. -/
def hottest (l : List Int) : Int :=
  match l with
  | [] => 0
  | x :: r => r.foldl max x

/-- The mean of a list of readings, rounded down (DESIGN CHOICE, log entry 162). -/
def meanOf (l : List Int) : Int := if l.isEmpty then 0 else l.foldl (fun a b => a + b) 0 / (l.length : Int)

/-- The index of the highest reading. -/
def hotIndex (l : List Int) : Nat := (firstNat (fun i => l[i]? = some (hottest l)) l.length 0).getD 0

/-- Readings of the dies that have been read since the boot. -/
def flashTemps (s : State) : List Int := (s.fl.dies.filter fun d => d.tempRead).map fun d => 8 * d.temp

/-- The hottest on-die sensor. -/
def controllerTemp (s : State) : Int := hottest s.sens.ts

/-- The hottest flash die; with no die read, the hottest on-die sensor stands for it (DESIGN CHOICE, log entry 175). -/
def flashTemp (s : State) : Int := if (flashTemps s).isEmpty then controllerTemp s else hottest (flashTemps s)

/-- The composite temperature. -/
def composite (s : State) : Int := max (controllerTemp s) (flashTemp s)

/-- A reading in K, rounded down. -/
def kelvin (t : Int) : Nat := (t / 8 + 273).toNat

/-- Temperature Sensors 1 to 8. -/
def sensorTemps (s : State) : List Int :=
  let at_ := fun i => s.sens.ts.getD i 0
  [controllerTemp s, meanOf s.sens.ts, at_ 8, at_ 9, at_ 10, flashTemp s,
   if (flashTemps s).isEmpty then flashTemp s else meanOf (flashTemps s),
   8 * hottest (s.dram.rankTemp.map fun x => x.2)]

/-- The composite temperature and the sensors, in K, as the Temperature Threshold feature numbers them. -/
def kelvins (s : State) : List Nat := kelvin (composite s) :: (sensorTemps s).map kelvin

/-- A temperature at or above its over threshold, or at or below its under threshold. -/
def outsideThresholds (s : State) : Bool :=
  (List.range 9).any fun i =>
    decide (natAt s.nv.feat.overTemp i ≤ natAt (kelvins s) i) || decide (natAt (kelvins s) i ≤ natAt s.nv.feat.underTemp i)

/-! ## Power (R224, R355, R378) -/

/-- The figures of the power states, in W (Table 10.4). -/
def statePower (n : Nat) : Nat := natAt [55, 38, 25] n

/-- The controller power cap in force, in W: 10 under the cap of R378, the throttle power while the throttle acts (R355), else
the lower of the power state's figure and the service profile's cap (R224). It paces command fetch, which is time (log entry
123). -/
def powerCap (s : State) : Nat :=
  if s.sens.cap10 then 10
  else if s.sens.throttle then fld s 0x704
  else min (statePower s.nv.feat.power) (profileParam s 6)

/-! ## Spare and wear (R383) -/

/-- H_full: stacks headroom at full user capacity. -/
def headFull (s : State) : Nat := (stacksCapacity s - fld s 0x500 / 4096) / max 1 (fullStripeCards s)

/-- Available Spare, in percent. -/
def availableSpare (s : State) : Nat :=
  min 100 (100 * (headFull s - preserveFloor s) / max 1 (s.blk.headFull0 - preserveFloor s))

/-- Percentage Used. -/
def percentageUsed (s : State) : Nat :=
  min 255 (100 * (s.blk.headFull0 - headFull s) / max 1 (s.blk.headFull0 - preserveFloor s))

/-! ## Critical Warning (R382) -/

/-- A bit of a byte. -/
def bitAt (n : Nat) (b : Bool) : Nat := if b then 2 ^ n else 0

/-- A position of an echelon of this member is out. -/
def positionOut (s : State) : Bool := s.ech.ech.any fun x => x.view.places.any fun p => p.2 = 4

/-- Critical Warning. -/
def criticalWarning (s : State) : Nat :=
  bitAt 0 (decide (availableSpare s < 10)) + bitAt 1 (outsideThresholds s)
    + bitAt 2 (s.mode.degraded || s.lib.state = 2 || s.dram.sticky.getLsbD 4 || positionOut s)
    + bitAt 3 (s.mode.mode = .preserve) + bitAt 4 (policyArmed s && ! s.coast.armed)

/-- The information of the SMART event of a bit (NVMe base specification): reliability 0, temperature 1, spare
2. -/
def warningInfo (n : Nat) : Nat := if n = 1 then 1 else if n = 0 then 2 else 0

/-- A bit that has come up since the last report raises a SMART event when its bit of Asynchronous Event
Configuration is set (R224). -/
def reportWarnings (s : State) : State :=
  let w := criticalWarning s
  let t : State := { s with nv := { s.nv with warned := w } }
  (List.range 5).foldl (fun u n =>
    if w.testBit n && ! s.nv.warned.testBit n && u.nv.feat.async.getLsbD n then asyncEvent 1 (warningInfo n) u
    else u) t

end Sys2Proof.Machine
end

