-- ==== Sys2Proof/Machine/Logs.lean ====
section
/-! DEFINITION. Log pages and Get Log Page (R225, R226, R231, R266, R320, R382 to R386, R393, R431). A page is a
layout of fields; the standard pages follow the NVMe base specification. -/

namespace Sys2Proof.Machine

/-! ## Layouts -/

/-- The fields of a layout moved up by `base`. -/
def fieldsAt (base : Nat) (l : List (Nat × Nat × Nat)) : List (Nat × Nat × Nat) :=
  l.map fun x => (base + x.1, x.2)

/-- Numbers of `n` bytes each, one after the other from `base`. -/
def column (base n : Nat) (l : List Nat) : List (Nat × Nat × Nat) :=
  (l.zip (List.range l.length)).map fun x => (base + n * x.2, n, x.1)

/-- The part of a field that lies in `len` bytes from `off`, counted from there. -/
def cutField (off len : Nat) (x : Nat × Nat × Nat) : Option (Nat × Nat × Nat) :=
  let lo := max x.1 off
  let hi := min (x.1 + x.2.1) (off + len)
  if hi ≤ lo then none else some (lo - off, hi - lo, x.2.2 / 256 ^ (lo - x.1) % 256 ^ (hi - lo))

/-- `len` bytes of a page from byte `off`; beyond the page they are zero (R225). -/
def pagePart (b : Blob) (off len : Nat) : Blob :=
  { len := len, fields := b.fields.filterMap fun x => cutField off (min len (b.len - off)) x }

/-- A signed number in `n` bytes. -/
def signed (n : Nat) (x : Int) : Nat := (x % (256 ^ n : Int)).toNat

/-- The header of a vendor page (Table 10.6). -/
def pageHeader (s : State) (lid len : Nat) : List (Nat × Nat × Nat) :=
  [(0, 1, lid), (1, 1, 1), (4, 4, len), (8, 6, s.clock.opMs % 2 ^ 48), (16, 4, s.cdx.powerCycles)]

/-- A vendor page of a fixed length. -/
def vendorPage (s : State) (lid len : Nat) (l : List (Nat × Nat × Nat)) : Blob :=
  { len := len, fields := pageHeader s lid len ++ l }

/-! ## Standard pages -/

/-- Status Field of a completion: phase bit clear. -/
def statusField (sct sc : Nat) : Nat := 2 * (sc + 256 * sct)

/-- Error Information, newest first. -/
def errorPage (s : State) : Blob :=
  { len := 16384
    fields := (s.nv.errLog.zip (List.range 256)).flatMap fun x => fieldsAt (64 * x.2)
      [(0, 8, x.1.count), (8, 2, x.1.sq), (10, 2, x.1.cid), (12, 2, statusField x.1.sct x.1.sc),
       (16, 8, x.1.lba), (24, 4, x.1.nsid)] }

/-- SMART / Health Information (Table 16.7). The data units are rounded up to the next thousand (DESIGN CHOICE, log entry
163: the table names no rounding). -/
def smartPage (s : State) : Blob :=
  { len := 512
    fields :=
      [(0, 1, criticalWarning s), (1, 2, kelvin (composite s)), (3, 1, availableSpare s), (4, 1, 10),
       (5, 1, percentageUsed s), (32, 16, ceilDiv s.nv.unitsRd 1000), (48, 16, ceilDiv s.nv.unitsWr 1000),
       (64, 16, s.nv.cmdsRd), (80, 16, s.nv.cmdsWr), (96, 16, s.nv.busyMin), (112, 16, s.cdx.powerCycles),
       (128, 16, s.clock.opMs / 3600000), (144, 16, s.nv.unsafeSd), (160, 16, s.nv.mediaErr),
       (176, 16, s.nv.errCount), (192, 4, s.nv.warnMin), (196, 4, s.nv.critMin)]
      ++ column 200 2 ((sensorTemps s).map kelvin) }

/-- The block that is armed and not rejected, plus 1 (R431). -/
def armedBlock (s : State) : Nat :=
  match [0, 1].find? fun n => n != activeBlock s && armedSet s n with
  | some n => n + 1
  | none => 0

/-- FW_REV of a block whose header is valid. -/
def revisionOf (s : State) (n : Nat) : Nat :=
  if (blockOf s n).written && (blockOf s n).facts.headerOk then (blockOf s n).facts.fwRev else 0

/-- Firmware Slot Information. -/
def slotPage (s : State) : Blob :=
  { len := 512
    fields := [(0, 1, activeBlock s + 1 + 16 * armedBlock s), (8, 8, revisionOf s 0), (16, 8, revisionOf s 1)] }

/-- Commands Supported and Effects: supported is bit 0, LBCC bit 1, NIC bit 3. Ordered Write (81h) and Retire
(C4h) change logical block content; Folio Stage (C5h) does not. -/
def effectsPage : Blob :=
  let admin := adminOpcodes.map fun op =>
    (4 * op, 4, if [0x80, 0x84, 0xC4].contains op then 3 else if op = 0x0D || op = 0x15 then 9 else 1)
  let io := [0x00, 0x01, 0x02, 0x05, 0x08, 0x09, 0x81].map fun op =>
    (1024 + 4 * op, 4, if [0x01, 0x08, 0x09, 0x81].contains op then 3 else 1)
  { len := 4096, fields := admin ++ io }

/-- The ANA groups with their state and namespaces: one per echelon of this member, and group 65. -/
def anaGroups (s : State) : List (Nat × Nat × List Nat) :=
  (s.ech.ech.map fun x => (x.echelon + 1, x.ana, [ecNsid s x.echelon]))
    ++ [(65, 1, (s.nv.nss.filter fun n => n.spanned.isNone).map fun n => n.nsid)]

/-- Asymmetric Namespace Access: 40 bytes per group hold its descriptor and at most two NSIDs. -/
def anaPage (s : State) : Blob :=
  let gs := anaGroups s
  { len := 16 + 40 * gs.length
    fields := [(0, 8, s.nv.anaCount), (8, 2, gs.length)] ++
      ((gs.zip (List.range gs.length)).flatMap fun x => fieldsAt (16 + 40 * x.2)
        ([(0, 4, x.1.1), (4, 4, x.1.2.2.length), (8, 8, s.nv.anaCount), (16, 1, x.1.2.1)]
          ++ column 32 4 (x.1.2.2.take 2))) }

/-- Sanitize Status, with the times of Table 11.10; the progress figure is open. -/
def sanitizePage (s : State) : Blob :=
  { len := 512
    fields := [(0, 2, if s.key.sanitize = 0 then 65535 else (Config.freeProgress s.free).toNat),
      (2, 2, s.key.sanStatus), (4, 4, s.key.sanDw), (8, 4, 0xFFFFFFFF), (12, 4, 110), (16, 4, 70),
      (20, 4, 0xFFFFFFFF), (24, 4, 110), (28, 4, 70)] }

/-! ## C0h (Table 16.8) -/

/-- Maximum, mean and minimum ERASES over the block stripes `l`, 20 bits each. -/
def erasesField (s : State) (l : List Nat) : Nat :=
  let es := l.map fun n => (blkAt s n).erases
  let sum := es.foldl (fun a b => a + b) 0
  let least := match es with
    | [] => 0
    | x :: r => r.foldl min x
  2 ^ 40 * es.foldl max 0 + 2 ^ 20 * (sum / max 1 es.length) + least

/-- Block stripes of one region that are not retired. -/
def regionStripes (s : State) (carrel : Bool) : List Nat :=
  (allEntries s).filter fun n => inCarrel s n = carrel && (blkAt s n).state != 5

/-- Die blocks excluded from their block stripes. -/
def excludedCount (s : State) : Nat :=
  (allEntries s).foldl (fun a n => a + ((List.range 64).filter fun i => (blkAt s n).excluded.getLsbD i).length) 0

/-- Dies retired. -/
def retiredDies (s : State) : Nat :=
  s.fl.chans.foldl (fun a c => a + ((List.range 32).filter fun t =>
    c.2.copy.present.getLsbD t && c.2.copy.retired.getLsbD t).length) 0

/-- Channels retired. -/
def retiredChannels (s : State) : Nat := (s.fl.chans.filter fun c => c.2.copy.chState = 1).length

/-- Free carrel block stripes. -/
def freeCarrel (s : State) : Nat :=
  ((allEntries s).filter fun n => inCarrel s n && (blkAt s n).state = 0).length

/-- Spare and wear by region. -/
def wearPage (s : State) : Blob :=
  vendorPage s 0xC0 4096
    [(0x40, 8, s.blk.headFull0), (0x48, 8, headFull s), (0x50, 8, s.blk.headroom), (0x58, 4, preserveFloor s),
     (0x5C, 4, freeCarrel s), (0x60, 8, erasesField s (regionStripes s true)),
     (0x68, 8, erasesField s (regionStripes s false)), (0x70, 8, s.wr.bypassCards), (0x78, 8, s.wr.hostCards),
     (0x80, 8, s.wr.foldCards), (0x88, 8, s.wr.weedCards), (0x90, 8, s.wr.carrelPages),
     (0x98, 8, s.wr.stacksPages), (0xA0, 4, excludedCount s), (0xA4, 2, retiredDies s),
     (0xA6, 2, retiredChannels s), (0xA8, 8, s.blk.weedVictims), (0xB0, 8, s.blk.rotVictims),
     (0xB8, 8, s.blk.forcedVictims), (0xC0, 1, percentageUsed s), (0xC1, 1, availableSpare s)]

/-! ## C1h, C2h, C3h (Tables 10.7, 16.9, 16.10) -/

/-- Error counts by class. -/
def countsPage (s : State) : Blob := vendorPage s 0xC1 256 (column 0x40 8 s.nv.c1)

/-- An extreme record (R385). -/
def extremeFields (base : Nat) (x : Option Extreme) : List (Nat × Nat × Nat) :=
  match x with
  | none => []
  | some e => fieldsAt base [(0, 6, e.timeMs % 2 ^ 48), (8, 4, e.cycles), (12, 2, signed 2 e.reading),
      (14, 1, e.channel), (15, 1, e.sensor)]

/-- The counts of the 36 bins. -/
def binList (l : List (Nat)) : List Nat := (List.range 36).map fun i => natAt l i

/-- Temperature history. -/
def historyPage (s : State) : Blob :=
  let ext := fun i => (s.sens.extremes.getD i none)
  vendorPage s 0xC2 8192
    (column 0x40 8 (binList s.sens.ctrlBins) ++ column 0x160 8 (binList s.sens.flashBins)
      ++ extremeFields 0x280 (ext 0) ++ extremeFields 0x290 (ext 1) ++ extremeFields 0x2A0 (ext 2)
      ++ extremeFields 0x2B0 (ext 3))

/-- Hold-up health. -/
def holdupPage (s : State) : Blob :=
  vendorPage s 0xC3 1024
    (column 0x40 4 [s.coast.abandoned, s.coast.passes, s.coast.fails, s.coast.disarmedMin, s.coast.tdMin,
        s.coast.tdMax, s.coast.coastsDone, s.coast.coastsNot, s.coast.lastCoastUs]
      ++ ((s.coast.history.zip (List.range 56)).flatMap fun x => fieldsAt (0x80 + 16 * x.2)
        [(0, 6, x.1.timeMs % 2 ^ 48), (7, 1, x.1.result), (8, 4, x.1.tdUs), (12, 4, x.1.cycles)]))

/-! ## C4h (Tables 16.11, 16.13) -/

/-- Fields packed from byte `base` in order. -/
def packed (base : Nat) : List (Nat × Nat) → List (Nat × Nat × Nat)
  | [] => []
  | (n, v) :: l => (base, n, v % 256 ^ n) :: packed (base + n) l

/-- A Daybook record of 64 bytes at `base`. -/
def recordFields (base : Nat) (r : DayRec) : List (Nat × Nat × Nat) :=
  fieldsAt base ([(0, 8, r.seq), (8, 6, r.timeMs % 2 ^ 48), (15, 1, 16 * r.mode + if r.fault then 1 else 0),
    (16, 4, r.cycles), (20, 2, r.event), (22, 2, 0xDB0C)] ++ packed 24 r.payload)

/-- The newest DB_SEQ entered. -/
def newestRecord (s : State) : Nat := if s.day.known then s.day.next - 1 else 0

/-- Records of the ring and the buffer, oldest first. -/
def allRecords (s : State) : List DayRec := s.day.ring ++ s.day.flushing ++ s.day.buffer

/-- The Daybook read window `w` (R393). -/
def daybookPage (w : Nat) (s : State) : Blob :=
  let n := newestRecord s
  let top := n - 1022 * w
  let rs := (allRecords s).filter fun r => decide (r.seq + 1022 * w ≤ n) && decide (top < r.seq + 1022)
  vendorPage s 0xC4 65536
    ([(0x40, 8, n), (0x48, 8, match rs with | r :: _ => r.seq | [] => 0), (0x50, 4, rs.length),
      (0x58, 8, match s.day.ring with | r :: _ => r.seq | [] => 0)]
      ++ ((rs.zip (List.range 1022)).flatMap fun x => recordFields (0x80 + 64 * x.2) x.1))

/-! ## C5h (Table 13.9) -/

/-- Echelons in which a member holds a position. -/
def echelonsOf (s : State) (m : Nat) : List EchelonSt :=
  s.ech.ech.filter fun x => match positionOf x.view m with
    | some p => holds (placeAt x.view p).2
    | none => false

/-- One entry of the roll call. -/
def rollEntry (s : State) (x : Seen) : List (Nat × Nat × Nat) :=
  let es := if x.assigned then echelonsOf s x.member else []
  let match_ := es.all fun e => x.digest = referenceDigest s e.view
  [(0, 8, x.serial), (8, 8, x.digest), (16, 4, (s.clock.us - x.atUs) / 1000),
   (21, 1, bitAt 4 (x.serial = s.cdx.serial) + bitAt 5 x.assigned + bitAt 6 match_ + bitAt 7 x.captain),
   (22, 1, x.mode), (23, 1, x.member), (24, 8, es.foldl (fun a e => a + 2 ^ e.echelon) 0)]

/-- The members in ascending member number, unassigned members last, by serial. -/
def rollOrder (s : State) : List Seen :=
  sortBy (fun a b => decide (a.member < b.member)) ((linkState s).filter fun x => x.assigned)
    ++ (linkState s).filter fun x => ! x.assigned

/-- Peloton roll call. -/
def rollPage (s : State) : Blob :=
  let l := rollOrder s
  vendorPage s 0xC5 (64 + 32 * l.length)
    ((l.zip (List.range l.length)).flatMap fun x => fieldsAt (64 + 32 * x.2) (rollEntry s x.1))

/-! ## GET_LOG_PAGE -/

/-- Log Specific Parameter, Log Specific Identifier, bytes asked for, and the offset (NVMe base
specification). -/
def logLsp (e : SqEntry) : Nat := bitsOf e.dw10 14 8
def logLsi (e : SqEntry) : Nat := bitsOf e.dw11 31 16
def logBytes (e : SqEntry) : Nat := 4 * (bitsOf e.dw10 31 16 + 65536 * bitsOf e.dw11 15 0 + 1)
def logOffset (e : SqEntry) : Nat := e.dw12 % 2 ^ 32 + 2 ^ 32 * (e.dw13 % 2 ^ 32)

/-- The page of a log identifier (Table 10.5). -/
def logPage (s : State) (e : SqEntry) : Option Blob :=
  match lowByte e with
  | 0x01 => some (errorPage s)
  | 0x02 => some (smartPage s)
  | 0x03 => some (slotPage s)
  | 0x05 => some effectsPage
  | 0x0C => some (anaPage s)
  | 0x81 => some (sanitizePage s)
  | 0xC0 => some (wearPage s)
  | 0xC1 => some (countsPage s)
  | 0xC2 => some (historyPage s)
  | 0xC3 => some (holdupPage s)
  | 0xC4 => some (daybookPage (logLsi e) s)
  | 0xC5 => some (rollPage s)
  | _ => none

/-- Fields that the page does not allow: an offset that is not in dwords, a window of C4h above 1,026 or with
LSP, a SMART log of one namespace. -/
def logFieldBad (e : SqEntry) : Bool :=
  logOffset e % 4 != 0 || (lowByte e = 0xC4 && (decide (1026 < logLsi e) || logLsp e != 0))
    || (lowByte e = 0x02 && e.nsid != 0 && e.nsid != 0xFFFFFFFF)

/-- Invalid Log Page (NVMe base specification). -/
def scLogPage : Nat × Nat := (1, 0x09)

/-- What a Get Log Page answers: its data, or a status. -/
def logAnswer (s : State) (e : SqEntry) : (Nat × Nat) × Blob :=
  match logPage s e with
  | none => (scLogPage, { len := 0, fields := [] })
  | some b =>
    if logFieldBad e then (scField, { len := 0, fields := [] })
    else (scSuccess, pagePart b (logOffset e) (logBytes e))

/-- A Sanitize in progress leaves its progress figure open. -/
def logDraws (s : State) (e : SqEntry) : State := if lowByte e = 0x81 && s.key.sanitize != 0 then drawFree s else s

/-- GET_LOG_PAGE: the bytes of the page, or the status. -/
def execGetLogPage (slot : Nat) (s : State) : Outcome :=
  .next (runAdmin slot (fun e => e.opcode = 0x02) (fun c t =>
    match logAnswer t c.e with
    | (st, b) => if st = scSuccess then finishOk slot 0 (sendData slot b (logDraws t c.e)) else finishErr slot st t) s)

end Sys2Proof.Machine
end

