-- ==== Sys2Proof/Machine/Identify.lean ====
section
/-! DEFINITION. Identify (R209, R221, R227 to R231, R266, R378, R419) and Sticky Clear (R208, R237). Places of
fields that the manual does not give follow the NVMe base specification. -/

namespace Sys2Proof.Machine

/-! ## The serial number (R209, Table 15.4) -/

/-- An upper-case hexadecimal digit in ASCII. -/
def hexDigit (n : Nat) : Nat := if n < 10 then 48 + n else 55 + n

/-- The 20 bytes of the serial number: the prefix and 16 hexadecimal digits, or 20 decimal digits. -/
def serialBytes (s : State) : List Nat :=
  if fld s 0x104 = 0 then
    ((List.range 4).map fun i => fld s 0x108 / 256 ^ i % 256)
      ++ (List.range 16).map fun i => hexDigit (s.cdx.serial / 16 ^ (15 - i) % 16)
  else (List.range 20).map fun i => 48 + s.cdx.serial / 10 ^ (19 - i) % 10

/-- Bytes as a little-endian number. -/
def bytesNumber : List Nat → Nat
  | [] => 0
  | b :: l => b + 256 * bytesNumber l

/-- The model number of the Folio. -/
def modelNumber (s : State) : Nat := match folioInForce s with | some f => f.model | none => 0

/-- Subsystem IDs: zero selects the default (R199). -/
def subsystemVendor (s : State) : Nat :=
  if fld s 0x100 % 65536 = 0 then 0x2C4F else fld s 0x100 % 65536
def subsystemId (s : State) : Nat := fld s 0x100 / 65536

/-! ## Identify Controller -/

/-- Bytes that the local namespaces take. -/
def takenBytes (s : State) : Nat :=
  s.nv.nss.foldl (fun a n => a + 65536 * (n.extents.foldl (fun b x => b + x.2) 0)) 0

/-- A power state descriptor: maximum power in 0.01 W. -/
def powerState (n centiwatts : Nat) : Nat × Nat × Nat := (2048 + 32 * n, 2, centiwatts)

/-- FR: FW_REV of the set that runs. -/
def runningRevision (s : State) : Nat := revisionOf s (activeBlock s)

/-- Identify Controller, CNS 01h. -/
def identController (s : State) : Blob :=
  { len := 4096
    fields :=
      [(0, 2, 0x2C4F), (2, 2, subsystemVendor s), (4, 20, bytesNumber (serialBytes s)), (24, 40, modelNumber s),
       (64, 8, runningRevision s), (76, 1, 8), (77, 1, 9), (80, 4, 0x00020100), (92, 4, 0xB00), (111, 1, 1),
       (256, 2, 0x0F), (258, 1, 15), (259, 1, 15), (260, 1, 0x14), (262, 1, 255), (263, 1, 2), (266, 2, 358),
       (268, 2, 378), (280, 16, fld s 0x500), (296, 16, fld s 0x500 - takenBytes s), (319, 1, 0xFF),
       (328, 4, 0x20000003), (342, 1, 10), (344, 4, 65), (348, 4, 65), (512, 1, 0x66), (513, 1, 0x44),
       (514, 2, 65535), (516, 4, 255), (520, 2, 0x0D), (524, 1, 4), (525, 1, 0), (526, 2, 0), (528, 2, 0), (532, 2, 0),
       (536, 4, 2), powerState 0 5500, powerState 1 3800, powerState 2 2500] }

/-! ## Identify Namespace -/

/-- LBA formats 0 to 4 (Table 10.8): metadata size, data size as a power of two, relative performance. -/
def lbaFormats : List (Nat × Nat × Nat) :=
  [(128, 2, 0), (130, 1, 9), (131, 1, 2), (132, 2, 8), (134, 1, 9), (135, 1, 2), (136, 2, 0), (138, 1, 12),
   (139, 1, 0), (140, 2, 8), (142, 1, 12), (143, 1, 0), (144, 2, 16), (146, 1, 12), (147, 1, 0)]

/-- Mapped cards of a namespace, in LBAs: NUSE. -/
def usedLbas (s : State) (n : Namespace) : Nat :=
  let shelves := n.extents.flatMap fun x => (List.range x.2).map fun i => x.1 + i
  let cards := shelves.foldl (fun a sh => a + (shelfPpas (shelfNow s sh)).length) 0
  if n.lbaf ≤ 1 then 8 * cards else cards

/-- The ANA group of a namespace (R231). -/
def anaGroup (n : Namespace) : Nat := match n.spanned with | some e => e + 1 | none => 65

/-- Atomicity of a 512-byte format: NABSP, and 7 in NAWUN, NAWUPF, NABSN and NABSPF (R229). -/
def atomicFields (n : Namespace) : List (Nat × Nat × Nat) :=
  if n.lbaf ≤ 1 then [(24, 1, 2), (34, 2, 7), (36, 2, 7), (40, 2, 7), (42, 2, 0), (44, 2, 7)] else []

/-- Identify Namespace, CNS 00h and 11h. -/
def identNamespace (s : State) (n : Namespace) : Blob :=
  { len := 4096
    fields :=
      [(0, 8, n.nsze), (8, 8, n.nsze), (16, 8, usedLbas s n), (25, 1, 4), (26, 1, n.lbaf + bitAt 4 n.extended), (27, 1, 3),
       (28, 1, 0x17), (29, 1, n.pi), (33, 1, 9), (92, 4, anaGroup n)] ++ atomicFields n
      ++ lbaFormats }

/-- A list of NSIDs above `after`, in rising order, at most 1,024. -/
def nsidList (l : List Nat) (after : Nat) : Blob :=
  { len := 4096
    fields := column 0 4 ((sortBy (fun a b => decide (a < b)) (l.filter fun n => decide (after < n))).take 1024) }

/-- Every NSID that exists here, and those of them that are attached. -/
def allNsids (s : State) : List Nat := s.nv.nss.map fun n => n.nsid
def activeNsids (s : State) : List Nat := (s.nv.nss.filter fun n => n.attached).map fun n => n.nsid

/-- A controller list that names this controller, 0, or nobody. -/
def controllerList (present : Bool) : Blob :=
  { len := 4096, fields := [(0, 2, if present then 1 else 0), (2, 2, 0)] }

/-- The I/O command set data structures of the NVM command set: PI formats of Table 10.8 (64-bit guard in format
4). -/
def nvmNamespace : Blob := { len := 4096, fields := [(12 + 4 * 4, 4, 0x100)] }

/-! ## IDENTIFY -/

/-- The data of an Identify, or its status: `none` is Invalid Namespace or Format. -/
def identData (s : State) (e : SqEntry) : Option Blob :=
  match lowByte e with
  | 0x00 => if e.nsid = 0xFFFFFFFF then
      some { len := 4096, fields := (27, 1, 3) :: (25, 1, 4) :: lbaFormats }
    else (match nsAttached s e.nsid with
      | some n => some (identNamespace s n)
      | none => if decide (1 ≤ e.nsid) && decide (e.nsid ≤ 255) then some { len := 4096, fields := [] } else none)
  | 0x01 => some (identController s)
  | 0x02 => some (nsidList (activeNsids s) e.nsid)
  | 0x03 => if (nsAt s e.nsid).isNone then none
    else some { len := 4096, fields := [(0, 1, 4), (1, 1, 1)] }
  | 0x05 => if (nsAttached s e.nsid).isNone then none else some nvmNamespace
  | 0x06 => some { len := 4096, fields := [] }
  | 0x08 => match nsAttached s e.nsid with
    | some n => some { len := 4096, fields := [(4, 4, anaGroup n), (14, 1, 1)] }
    | none => none
  | 0x10 => some (nsidList (allNsids s) e.nsid)
  | 0x11 => (nsAt s e.nsid).map fun n => identNamespace s n
  | 0x12 => (nsAt s e.nsid).map fun n => controllerList n.attached
  | 0x13 => some (controllerList true)
  | 0x1C => some { len := 4096, fields := [(0, 8, 1)] }
  | _ => none

/-- CNS values supported (Table 10.3). -/
def cnsValues : List Nat := [0x00, 0x01, 0x02, 0x03, 0x05, 0x06, 0x08, 0x10, 0x11, 0x12, 0x13, 0x1C]

/-- What an Identify answers. -/
def identAnswer (s : State) (e : SqEntry) : (Nat × Nat) × Blob :=
  if ! cnsValues.contains (lowByte e) then (scField, { len := 0, fields := [] })
  else match identData s e with
    | some b => (scSuccess, b)
    | none => (scNsFormat, { len := 0, fields := [] })

/-- IDENTIFY. -/
def execIdentify (slot : Nat) (s : State) : Outcome :=
  .next (runAdmin slot (fun e => e.opcode = 0x06) (fun c t =>
    match identAnswer t c.e with
    | (st, b) => if st = scSuccess then finishOk slot 0 (sendData slot b t) else finishErr slot st t) s)

end Sys2Proof.Machine
end

