-- ==== Sys2Proof/Machine/Sideband.lean ====
section
/-! DEFINITION. The management sideband: the NVMe-MI commands of Table 9.9 (R211, R212, R372, R374). Message codes
and the places of fields that the manual does not give follow the NVMe-MI specification. -/

namespace Sys2Proof.Machine

/-! ## Answers -/

/-- An answer leaves the sideband: command code, NVMe-MI status, body. -/
def miSend (cmd status : Nat) (b : Blob) (s : State) : State :=
  { s with upd := { s.upd with miOut := s.upd.miOut ++ [(cmd, status, b)] } }

/-- An answer with no body. -/
def miRefuse (cmd status : Nat) (s : State) : State := miSend cmd status { len := 0, fields := [] } s

/-- NVMe-MI statuses: Internal Error, Invalid Command Opcode, Invalid Parameter, Access Denied. -/
def miInternal : Nat := 2
def miOpcode : Nat := 3
def miParam : Nat := 4
def miDenied : Nat := 7

/-- Supported Link Speeds: 2.5, 8, 16, 32, 64 and 128 GT/s, and never 5.0 (Table 9.1). -/
def linkSpeeds : Nat := 0x7D

/-- The code of a link rate, in 0.1 GT/s. -/
def speedCode (rate : Nat) : Nat :=
  match rate with
  | 25 => 1
  | 80 => 3
  | 160 => 4
  | 320 => 5
  | 640 => 6
  | 1280 => 7
  | _ => 0

/-- Status flags of the Basic Management Command: the drive functions, no reset is required, the PCIe link is up,
the drive is not ready. -/
def statusFlags (s : State) : Nat :=
  bitAt 7 true + bitAt 6 (! s.nv.rdy) + bitAt 5 (s.mode.mode != .recovery) + bitAt 4 true + bitAt 3 s.link.up

/-- SMART warnings, a zero bit for each that holds. -/
def invertedWarning (s : State) : Nat := 255 - criticalWarning s

/-- The composite temperature in °C, in one byte. -/
def miTemp (s : State) : Nat := signed 1 (composite s / 8)

/-- The Basic Management Command. -/
def basicBody (s : State) : Blob :=
  { len := 8
    fields := [(0, 1, 6), (1, 1, statusFlags s), (2, 1, invertedWarning s), (3, 1, miTemp s),
               (4, 1, percentageUsed s)] }

/-- Subsystem information of two ports; port information of port 0, PCIe, and of port 1, the sideband (SMBus, or the port
type that the specification leaves to others under I3C), with Port Identifier in [15:8]; controller list (log entry
101). -/
def structureBody (s : State) (kind : Nat) : Option Blob :=
  match kind with
  | 0x000 => some { len := 32, fields := [(0, 1, 1)] }
  | 0x001 => some { len := 32, fields :=
      [(0, 1, 1), (2, 2, 64), (8, 1, 2), (9, 1, linkSpeeds), (10, 1, speedCode s.link.rate), (11, 1, 16),
       (12, 1, s.link.width), (13, 1, 0)] }
  | 0x101 => some { len := 32, fields :=
      [(0, 1, if fld s 0x400 % 2 = 0 then 2 else 3), (2, 2, 64), (8, 1, 0x6A), (10, 1, fld s 0x404)] }
  | 0x002 => some (controllerList true)
  | _ => none

/-- Composite Controller Status: the CSTS of the one controller. -/
def compositeStatus (s : State) : Nat := bitAt 0 s.nv.rdy + bitAt 1 s.nv.cfs + 4 * s.nv.shst

/-- Health of the subsystem, with the spare beside what the structure of the NVMe-MI specification holds (Table 9.9). -/
def subsystemHealth (s : State) : Blob :=
  { len := 8
    fields := [(0, 1, statusFlags s), (1, 1, invertedWarning s), (2, 1, miTemp s), (3, 1, percentageUsed s),
               (4, 2, compositeStatus s), (6, 1, availableSpare s)] }

/-- Health of the controller: status, temperature in K, spare, life used, Critical Warning. -/
def controllerHealth (s : State) : Blob :=
  { len := 16
    fields := [(0, 2, 0), (2, 2, compositeStatus s), (4, 2, kelvin (composite s)),
               (6, 1, percentageUsed s), (7, 1, availableSpare s), (8, 1, criticalWarning s)] }

/-- The FRU data of the Folio. -/
def fruData (s : State) : Nat := match folioInForce s with | some f => f.fru | none => 0

/-- A tunnelled admin command: its completion in the first 16 bytes, its data after it. -/
def tunnelBody (s : State) (e : SqEntry) : Option Blob :=
  let wrap := fun (st : Nat × Nat) (dw0 : Nat) (b : Blob) =>
    ({ len := 16 + b.len, fields := [(0, 4, dw0), (14, 2, statusField st.1 st.2)] ++ fieldsAt 16 b.fields } : Blob)
  match e.opcode with
  | 0x02 => let a := logAnswer s e; some (wrap a.1 0 a.2)
  | 0x06 => let a := identAnswer s e; some (wrap a.1 0 a.2)
  | 0x0A => let a := featureAnswer s e; some (wrap a.1 a.2.1 (a.2.2.getD { len := 0, fields := [] }))
  | _ => none

/-! ## Running -/

/-- The command code of a request; a tunnelled command shows its opcode above 0x200. -/
def miCode : Instr → Nat
  | .nvmeMiBasicManagement => 0x100
  | .nvmeMiReadDataStructure _ => 0
  | .nvmeMiSubsystemHealthPoll => 1
  | .nvmeMiControllerHealthPoll => 2
  | .nvmeMiConfigurationSet _ _ => 3
  | .nvmeMiConfigurationGet _ => 4
  | .nvmeMiVpdRead _ _ => 5
  | .nvmeMiVpdWrite _ _ => 6
  | .nvmeMiTunnelledAdmin e => 0x200 + e.opcode
  | .nvmeMiInvalidCommand op => op
  | _ => 0

/-- The two configuration identifiers: the SMBus frequency, 1 to 3, and the transmission unit, 64 bytes. -/
def configGet (s : State) (id : Nat) : Option Nat :=
  if id = 1 then some (s.upd.miFreq + 1) else if id = 3 then some 64 else none

/-- A new configuration: the frequency changes, and no other transmission unit is taken. -/
def configSet (id value : Nat) (s : State) : Option State :=
  if id = 1 && decide (1 ≤ value) && decide (value ≤ 3) then
    some { s with upd := { s.upd with miFreq := value - 1 } }
  else if id = 3 && value = 64 then some s
  else none

/-- A request is answered. -/
def miRun (i : Instr) (s : State) : State :=
  let n := miCode i
  match i with
  | .nvmeMiBasicManagement => miSend n 0 (basicBody s) s
  | .nvmeMiReadDataStructure kind => (match structureBody s kind with
    | some b => miSend n 0 b s
    | none => miRefuse n miParam s)
  | .nvmeMiSubsystemHealthPoll => miSend n 0 (subsystemHealth s) s
  | .nvmeMiControllerHealthPoll => miSend n 0 (controllerHealth s) s
  | .nvmeMiConfigurationGet id => (match configGet s id with
    | some v => miSend n 0 { len := 4, fields := [(0, 4, v)] } s
    | none => miRefuse n miParam s)
  | .nvmeMiConfigurationSet id value => (match configSet id value s with
    | some t => miRefuse n 0 t
    | none => miRefuse n miParam s)
  | .nvmeMiVpdRead off len =>
    if 256 < off + len then miRefuse n miParam s
    else miSend n 0 { len := len, fields := [(0, len, fruData s / 256 ^ off % 256 ^ len)] } s
  | .nvmeMiVpdWrite _ _ => miRefuse n miDenied s
  | .nvmeMiTunnelledAdmin e => (match tunnelBody s e with
    | some b => miSend n 0 b (if e.opcode = 0x02 then logDraws s e else s)
    | none => miRefuse n miOpcode s)
  | .nvmeMiInvalidCommand _ => miRefuse n miOpcode s
  | _ => s

/-- What the boot ROM answers in Recovery. -/
def miInRecovery : Instr → Bool
  | .nvmeMiBasicManagement => true
  | .nvmeMiReadDataStructure _ => true
  | _ => false

/-- A request arrives: in Dormant and in Coast nothing answers; in Recovery two commands are answered; while the
Librarian restarts a request is held, and with it halted it is refused. -/
def miArrives (i : Instr) (s : State) : State :=
  if ! awake s || s.mode.mode = .coast then s
  else if i = .nvmeMiBasicManagement then miRun i s
  else if s.mode.mode = .recovery then
    if miInRecovery i then miRun i s else miRefuse (miCode i) miOpcode s
  else if s.lib.state = 1 then { s with lib := { s.lib with heldMi := s.lib.heldMi ++ [i] } }
  else if s.lib.state = 2 then miRefuse (miCode i) miInternal s
  else miRun i s

/-- NVME_MI_BASIC_MANAGEMENT. -/
def execNvmeMiBasicManagement (s : State) : Outcome := .next (miArrives .nvmeMiBasicManagement s)

/-- NVME_MI_READ_DATA_STRUCTURE. -/
def execNvmeMiReadDataStructure (kind : Nat) (s : State) : Outcome :=
  .next (miArrives (.nvmeMiReadDataStructure kind) s)

/-- NVME_MI_SUBSYSTEM_HEALTH_POLL. -/
def execNvmeMiSubsystemHealthPoll (s : State) : Outcome := .next (miArrives .nvmeMiSubsystemHealthPoll s)

/-- NVME_MI_CONTROLLER_HEALTH_POLL. -/
def execNvmeMiControllerHealthPoll (s : State) : Outcome := .next (miArrives .nvmeMiControllerHealthPoll s)

/-- NVME_MI_CONFIGURATION_GET. -/
def execNvmeMiConfigurationGet (id : Nat) (s : State) : Outcome :=
  .next (miArrives (.nvmeMiConfigurationGet id) s)

/-- NVME_MI_CONFIGURATION_SET. -/
def execNvmeMiConfigurationSet (id value : Nat) (s : State) : Outcome :=
  .next (miArrives (.nvmeMiConfigurationSet id value) s)

/-- NVME_MI_VPD_READ. -/
def execNvmeMiVpdRead (offset len : Nat) (s : State) : Outcome := .next (miArrives (.nvmeMiVpdRead offset len) s)

/-- NVME_MI_VPD_WRITE: refused. -/
def execNvmeMiVpdWrite (offset len : Nat) (s : State) : Outcome :=
  .next (miArrives (.nvmeMiVpdWrite offset len) s)

/-- NVME_MI_TUNNELLED_ADMIN. -/
def execNvmeMiTunnelledAdmin (e : SqEntry) (s : State) : Outcome := .next (miArrives (.nvmeMiTunnelledAdmin e) s)

/-- NVME_MI_INVALID_COMMAND. -/
def execNvmeMiInvalidCommand (opcode : Nat) (s : State) : Outcome :=
  .next (miArrives (.nvmeMiInvalidCommand opcode) s)

end Sys2Proof.Machine
end

