-- ==== Sys2Proof/Machine/Daybook.lean ====
section
/-! DEFINITION. The Daybook's own events (R388 to R391) and the sensors (R377 to R379, R385). -/

namespace Sys2Proof.Machine

/-! ## DAYBOOK_RECORD_ENTRY (R388, R389) -/

/-- The events of Table 16.12 that a source enters; PAD is the flush's own. -/
def dayEvents : List Nat :=
  [0x0001, 0x0002, 0x0003, 0x0004, 0x0005, 0x0006, 0x0007, 0x0008, 0x0009, 0x0101, 0x0102, 0x0103, 0x0104, 0x0105,
   0x0106, 0x0201, 0x0202, 0x0301, 0x0401, 0x0402, 0x0403, 0x0501, 0x0502, 0x0601, 0x0701, 0x0702, 0x0703]

/-- DAYBOOK_RECORD_ENTRY. -/
def execDaybookRecordEntry (_source event : Nat) (payload : List (Nat × Nat)) (s : State) : Outcome :=
  .next (if dayEvents.contains event then record event payload s else s)

/-! ## Flushes (R390, R391) -/

/-- The open Daybook block stripe holds so many cards more. -/
def dayRoom (s : State) (n : Nat) : Bool := decide (s.day.cards + n ≤ stripeCards s s.day.stripe)

/-- A flush can run: after the numbers of this start are known, outside Coast and Recovery. -/
def flushRuns (s : State) : Bool :=
  s.day.known && (serving s || s.mode.mode = .rising) && ! s.day.buffer.isEmpty

/-- The cards of the unflushed records are built and handed to the dies; a full Daybook block stripe gives way to
a new one, whose RING_OPEN joins the flush. -/
def buildCards (s : State) : State :=
  let t := if dayRoom s (flushCards s.day.buffer.length) then s else openDay s
  { t with day := { t.day with
      cards := t.day.cards + flushCards t.day.buffer.length
      flushing := t.day.flushing ++ t.day.buffer, buffer := [], flushDue := false } }

/-- DAYBOOK_FLUSH. -/
def execDaybookFlush (s : State) : Outcome :=
  .next (if flushRuns s && s.day.flushDue then buildCards s else s)

/-- Records of sources that stalled take the places that came free, in their order. -/
def admitRecords : Nat → State → State
  | 0, s => s
  | fuel + 1, s =>
    match s.day.stalled with
    | [] => s
    | r :: rest =>
      if bufferUse s < 4096 then
        admitRecords fuel (placeRecord (makeRecord s r.event r.payload)
          { s with day := { s.day with stalled := rest } })
      else s

/-- The records of one programmed page of four cards are on the ring. -/
def pageProgrammed (s : State) : State :=
  let n := 4 * dayPerCard
  storeDay s.day.stripe (s.day.cards - flushCards s.day.flushing.length) (s.day.flushing.take n)
    { s with day := { s.day with flushing := s.day.flushing.drop n } }

/-- DAYBOOK_FLUSH_DONE: the oldest page that is being programmed. -/
def execDaybookFlushDone (s : State) : Outcome :=
  .next (if s.day.flushing.isEmpty || ! (serving s || s.mode.mode = .rising) then s
    else
      let t := pageProgrammed s
      admitRecords t.day.stalled.length t)

/-! ## SENSOR_SAMPLE (R377, R378, R385) -/

/-- A reading of a present sensor. -/
def thermal (kind : Nat) (s : State) : State :=
  record 0x0702 [(1, kind), (1, hotIndex s.sens.ts), (2, signed 2 (controllerTemp s))] s

/-- The rails in range after a sample: one that was out of its range and reads within it is in range again (DESIGN CHOICE,
log entry 177). -/
def railsOk (s : State) (l : List Nat) : List Bool :=
  (List.range 10).map fun i => s.pins.railOk.getD i false || ((l[i]?).any fun mv => railInRange s i mv)

/-- The registers take the readings. -/
def takeReadings (r : SensorReadings) (s : State) : State :=
  let ts := (List.range 12).map fun i => r.ts.getD i (s.sens.ts.getD i 0)
  { s with
    pins := { s.pins with railOk := railsOk s r.rails }
    sens := { s.sens with
      sampled := true
      ts := ts
      tsMax := if s.sens.sampled then (ts.zip s.sens.tsMax).map fun x => max x.1 x.2 else ts
      rails := (List.range 10).map fun i => r.rails.getD i (natAt s.sens.rails i)
      v12 := r.v12
      minuteHot := max s.sens.minuteHot (hottest ts)
      minuteFl := if (flashTemps s).isEmpty then s.sens.minuteFl else max s.sens.minuteFl (hottest (flashTemps s)) } }

/-- The throttle of R355: on at the throttle temperature, off below it. -/
def setThrottle (s : State) : State :=
  let on := decide (8 * (fld s 0x700 : Int) ≤ controllerTemp s)
  if on = s.sens.throttle then s
  else thermal (if on then 0 else 1) { s with sens := { s.sens with throttle := on } }

/-- THERM_ALERT_N: low from CCTEMP or 105 °C on, released 2 °C below both. -/
def setAlert (s : State) : State :=
  let hot := decide (840 ≤ composite s) || decide (840 ≤ controllerTemp s)
  let cool := decide (composite s ≤ 824) && decide (controllerTemp s ≤ 824)
  if hot && ! s.pins.thermAlertLow then
    thermal 2 { s with
      pins := { s.pins with thermAlertLow := true }
      day := { s.day with sticky := s.day.sticky ||| 0x8 } }
  else if cool && s.pins.thermAlertLow then { s with pins := { s.pins with thermAlertLow := false } }
  else s

/-- The 10 W cap: from 115 °C on, until every on-die sensor reads below 110 °C. -/
def setCap (s : State) : State :=
  if decide (920 ≤ controllerTemp s) && ! s.sens.cap10 then
    thermal 3 { s with
      sens := { s.sens with cap10 := true }
      day := { s.day with sticky := s.day.sticky ||| 0x10 } }
  else if s.sens.cap10 && decide (controllerTemp s < 880) then { s with sens := { s.sens with cap10 := false } }
  else s

/-- An extreme record of a reading now. -/
def extremeNow (s : State) (sensor channel : Nat) (x : Int) : Extreme :=
  { sensor := sensor, channel := channel, reading := x, cycles := s.cdx.powerCycles, timeMs := s.clock.opMs }

/-- Extreme `i` takes a reading that lies beyond it; `top`: a highest reading. -/
def noteExtreme (i : Nat) (top : Bool) (e : Extreme) (l : List (Option Extreme)) : List (Option Extreme) :=
  modAt i (fun o => match o with
    | none => some e
    | some y => if (if top then decide (y.reading < e.reading) else decide (e.reading < y.reading)) then some e
      else some y) l

/-- The hottest die. -/
def hotDie (s : State) : Option Die := s.fl.dies.find? fun d => d.tempRead && 8 * d.temp = flashTemp s

/-- Highest and lowest readings since manufacture. -/
def noteExtremes (s : State) : State :=
  let c := extremeNow s (hotIndex s.sens.ts) 0 (controllerTemp s)
  let l1 := noteExtreme 1 false c (noteExtreme 0 true c s.sens.extremes)
  let l2 := match hotDie s with
    | some d =>
      let f := extremeNow s d.target d.channel (flashTemp s)
      noteExtreme 3 false f (noteExtreme 2 true f l1)
    | none => l1
  { s with sens := { s.sens with extremes := l2 } }

/-- SENSOR_SAMPLE: the 1 ms sample; Critical Warning is looked at with it. -/
def execSensorSample (r : SensorReadings) (s : State) : Outcome :=
  .next (if ! awake s then s
    else reportWarnings (noteExtremes (setCap (setAlert (setThrottle (takeReadings r s))))))

/-- RAIL_OUT_OF_RANGE: rails 0 to 9, and 10 for the 12 V supply. -/
def execRailOutOfRange (rail mv : Nat) (s : State) : Outcome :=
  .next (if ! awake s || decide (10 < rail) then s
    else record 0x0703 [(1, rail), (2, mv % 65536)]
      { s with
        pins := { s.pins with railOk := s.pins.railOk.set rail false }
        day := { s.day with sticky := s.day.sticky ||| 0x4 } })

end Sys2Proof.Machine
end

