-- ==== Sys2Proof/Machine/Relay.lean ====
section
/-! DEFINITION. Chain relay, the sender's side (R425 to R428, R430). -/

namespace Sys2Proof.Machine

/-! ## The chain (R426) -/

/-- Bytes of a bundle, and of a relay stream: the bundle with its descriptor. -/
def bundleBytes : Nat := 3145728
def streamBytes : Nat := 3145792

/-- Member numbers in the order of the chain after `m`: rising, then from the lowest. -/
def chainOrder (m : Nat) (l : List Nat) : List Nat :=
  let l1 := sortBy (fun a b => decide (a < b)) l.eraseDups
  (l1.filter fun x => decide (m < x)) ++ l1.filter fun x => decide (x < m)

/-- The other members of the link state. -/
def otherMembers (s : State) : List Nat :=
  (s.pel.seen.filter fun x => x.assigned && x.member != s.pel.self).map fun x => x.member

/-- A KS8480, as the COMPAT bit of a link partner shows it. -/
def olderMember (s : State) (m : Nat) : Bool :=
  (linkState s).any fun x => (x.partners.zip x.compat).any fun p => p.1 = m && p.2

/-- A member that the chain passes over. -/
def passedOver (s : State) (m : Nat) : Bool :=
  (s.pel.seen.any fun x => x.assigned && x.member = m && x.mode = 7) || olderMember s m

/-- The next member after `m` of a chain that began at `origin`. -/
def nextMember (s : State) (origin m : Nat) : Option Nat :=
  ((chainOrder m (origin :: s.pel.self :: otherMembers s)).takeWhile fun x =>
    x != origin && x != s.pel.self).find? fun x => ! passedOver s x

/-! ## The stream (R425, R427) -/

/-- The relay's own fields. -/
def modRelay (f : Relay → Relay) (s : State) : State :=
  { s with upd := { s.upd with relay := f s.upd.relay } }

/-- Requests of the relay are over: their later answers are stale. -/
def dropRelay (s : State) : State :=
  (s.pel.out.filter fun r => r.owner = .relay).foldl (fun t r => dropRequest r t) s

/-- The relay ends. -/
def relayIdle (s : State) : State :=
  dropRelay (modRelay (fun r => { r with state := 0, waitRound := false, single := false }) s)

/-- The stream goes to the next member after `m`; with none left the relay is over. -/
def relayTo (m : Nat) (s : State) : State :=
  match nextMember s s.upd.relay.origin m with
  | none => relayIdle s
  | some n => modRelay (fun r => { r with
      state := 2, next := n, bytes := 0, sent := 0, rounds := 0, waitRound := false }) (dropRelay s)

/-- A relay of a block that was written: at once for actions 0 and 1; `wait`: after the own activation. A relay
still being sent gives way to it. -/
def startRelay (origin action : Nat) (facts : BundleFacts) (wait : Bool) (s : State) : State :=
  if fld s 0xC40 = 0 || ! s.pel.assigned then s
  else
    let t := modRelay (fun r => { r with
      state := 3, origin := origin, next := 0, skipped := 0, bytes := 0, sent := 0, action := action, rounds := 0
      waitRound := false, single := false, facts := facts }) (dropRelay s)
    if wait then t else relayTo s.pel.self t

/-- The own activation has ended, whether or not the set passed. -/
def relayResume (s : State) : State :=
  if s.upd.relay.state = 3 then relayTo s.pel.self s else s

/-- Bytes of the packet at a stream offset. -/
def packetBytes (off : Nat) : Nat := if off < bundleBytes then 4096 else streamBytes - bundleBytes

/-- The next packet of the stream leaves. -/
def sendChunk (s : State) : State :=
  let r := s.upd.relay
  let h := mkHdr r.next 0xA 0 false 0 r.sent streamBytes
  startRequest (mkReq h (.bundle (packetBytes r.sent)) 0 .relay noDesc [])
    (modRelay (fun x => { x with sent := x.sent + packetBytes x.sent }) s)

/-- Packets of the relay that are outstanding. -/
def relayOut (s : State) : Nat := (s.pel.out.filter fun r => r.owner = .relay).length

/-- RELAY_SEND: at most 64 outstanding, one to a recovering member. -/
def execRelaySend (s : State) : Outcome :=
  let r := s.upd.relay
  .next (if ! fabricOn s || r.state != 2 || r.waitRound || decide (streamBytes ≤ r.sent)
      || decide ((if r.single then 1 else 64) ≤ relayOut s) then s
    else sendChunk s)

/-- The next member has taken a packet. -/
def relayTaken (n : Nat) (s : State) : State :=
  let t := modRelay (fun r => { r with bytes := r.bytes + n }) s
  if streamBytes ≤ t.upd.relay.bytes then relayIdle t else t

/-- A packet failed or timed out: a round begins after 1 s; after eight the member is skipped (R428). -/
def relayFailed (s : State) : State :=
  let r := s.upd.relay
  if r.rounds < 8 then modRelay (fun x => { x with waitRound := true }) (dropRelay s)
  else if r.single then relayIdle (modRelay (fun x => { x with skipped := min 255 (x.skipped + 1) }) s)
  else relayTo r.next (modRelay (fun x => { x with skipped := min 255 (x.skipped + 1) }) s)

/-- RELAY_ROUND_RESTART. -/
def execRelayRoundRestart (s : State) : Outcome :=
  .next (if ! fabricOn s || s.upd.relay.state != 2 || ! s.upd.relay.waitRound then s
    else modRelay (fun r => { r with
      waitRound := false, sent := 0, bytes := 0, rounds := r.rounds + 1 }) s)

/-- The partner of a port, when it recovers and this member has the lowest number of those linked to it. -/
def recoversOn (s : State) (port : Nat) : Bool :=
  portMember s port && ! s.pel.recSent.contains port
    && s.pel.seen.any fun x => x.member = (portAt s port).member && x.mode = 7
      && x.partners.contains s.pel.self && x.partners.all fun m => decide (s.pel.self ≤ m)

/-- RECOVERY_RELAY_SEND: the stream of the active set, ACTION 1, once each time the link enters Member. -/
def execRecoveryRelaySend (port : Nat) (s : State) : Outcome :=
  .next (if ! fabricOn s || ! serving s || ! s.pel.assigned || s.upd.relay.state != 0 || ! recoversOn s port
    then s
    else modRelay (fun r => { r with
        state := 2, origin := s.pel.self, next := (portAt s port).member, skipped := 0, bytes := 0, sent := 0
        action := 1, rounds := 0, waitRound := false, single := true
        facts := (blockOf s (activeBlock s)).facts })
      { s with pel := { s.pel with recSent := port :: s.pel.recSent } })

end Sys2Proof.Machine
end

