-- ==== Sys2Proof/Machine/Librarian.lean ====
section
/-! DEFINITION. Librarian restarts and the hitless activation inside them (R18, R21, R371 to R374, R424). -/

namespace Sys2Proof.Machine

/-! ## The start of a restart (Table 16.2) -/

/-- Restarts within the last 10 minutes, one that starts now with them. -/
def recentRestarts (s : State) : List Nat :=
  (s.lib.restartsMs.filter fun t => decide (s.clock.opMs < 600000 + t)) ++ [s.clock.opMs]

/-- A hitless set: every component that Table 18.2 lets carry HITLESS carries it. -/
def hitlessSet (f : BundleFacts) : Bool := (List.range 5).all fun i => f.hitless.getD (i + 2) false

/-- The set of the inactive block activates at the next restart (R424). -/
def hitlessArmed (s : State) : Bool :=
  armedSet s (1 - activeBlock s) && hitlessSet (blockOf s (1 - activeBlock s)).facts

/-- The boot ROM checks the armed set: one that fails is rejected; one that passes is swapped in, its components are
loaded, and the held pause begins. -/
def activateHitless (s : State) : State :=
  let o := 1 - activeBlock s
  let code := setCheck s o
  let t := noteCheck code s
  if code = 1 then
    let u := swapTo o t
    { u with
      lib := { u.lib with hitless := true }
      upd := { u.upd with held := true } }
  else noteSet 3 o code (modBlock o (fun b => { b with reject := true }) t)

/-- The stage images are lost (R373, R419). -/
def dropStages (s : State) : State :=
  { s with
    fol := { s.fol with staged := [] }
    upd := { s.upd with
      staged := [], stFacts := noFacts, relay := { s.upd.relay with rx := false, got := 0 } } }

/-- Every admin command that needs the Librarian ends with Internal Error (R374). -/
def failAdmin (s : State) : State :=
  (slotsWhere (fun c => c.qid = 0 && needsLibrarian c.e) s).foldl
    (fun t n => finishErr n scInternal t)
    { s with
      lib := { s.lib with heldAdmin := [], cutCmds := [] }
      key := { s.key with renewals := s.key.renewals.map fun r => { r with cmd := none } }
      upd := { s.upd with commitCmd := none } }

/-- Command slots of the commits that erase and write now. -/
def commitSlots (s : State) : List Nat :=
  (match s.upd.writing with | some (.command n) => [n] | _ => []) ++ (s.fol.committing.map fun x => x.1).toList

/-- A restart cuts the commits that run: their commands wait for its end (R373, R421). -/
def cutCommits (s : State) : State :=
  { s with
    lib := { s.lib with cutCmds := s.lib.cutCmds ++ commitSlots s }
    fol := { s.fol with committing := none }
    upd := { s.upd with writing := none } }

/-- The LIBRARIAN record of a cause. -/
def noteRestart (cause : Nat) (s : State) : State :=
  record 0x0701 [(1, cause), (1, s.lib.restartsMs.length), (1, if s.lib.state = 2 then 1 else 0)] s

/-- The pair is held in reset: the hold table's buffers return, its stalled requests are given up, the stage images
go, LIB_RESTART is set. -/
def holdPair (cause : Nat) (s : State) : State :=
  let l := recentRestarts s
  let t := cutCommits (dropStages (dropWait .librarian (freeHoldTable s)))
  { t with
    lib := { t.lib with
      state := if 3 ≤ l.length then 2 else 1, restartsMs := l, restarts := min 255 (t.lib.restarts + 1)
      cause := cause, hitless := false }
    day := { t.day with sticky := t.day.sticky ||| if 3 ≤ l.length then 0x3 else 0x1 } }

/-- A restart of the Librarian, or a restart begun again, beside which every engine runs on (R12, R370); the third within
10 minutes holds it stopped. A hitless set that is armed activates, and a restart that did nothing else has its record at the end of the held pause. -/
def startRestart (cause : Nat) (s : State) : State :=
  if ! (serving s || s.mode.mode = .coast) || s.lib.state = 2 then s
  else
    let t := holdPair cause s
    if t.lib.state = 2 then
      let u := relayResume (failAdmin (noteRestart cause t))
      u.lib.heldMi.foldl (fun v i => miRefuse (miCode i) miInternal v) { u with lib := { u.lib with heldMi := [] } }
    else if serving s && hitlessArmed t then
      let u := activateHitless t
      if cause = 3 && u.lib.hitless then u else noteRestart cause u
    else noteRestart cause t

/-- LOCKSTEP_MISMATCH. -/
def execLockstepMismatch (s : State) : Outcome := .next (startRestart 0 s)

/-- WATCHDOG_EXPIRY: no heartbeat for 100 ms. -/
def execWatchdogExpiry (s : State) : Outcome := .next (startRestart 1 s)

/-! ## HELD_PAUSE_END (R424) -/

/-- The identity registers show the set that runs. -/
def showSet (s : State) : State :=
  { s with upd := { s.upd with identLo := (blockOf s (activeBlock s)).facts.version } }

/-- HELD_PAUSE_END: fetching resumes, CONFIRMED is programmed and the records are written. -/
def execHeldPauseEnd (s : State) : Outcome :=
  .next (if ! s.upd.held || ! serving s then s
    else showSet (confirmSet (noteRestart 3 { s with upd := { s.upd with held := false } })))

/-! ## LIBRARIAN_RESTART_END (R372, R373) -/

/-- A retirement that waited. -/
def doRetire (x : Nat × Nat × Nat) (s : State) : State :=
  if x.2.1 = 32 then retireChannelDies x.1 x.2.2 s
  else settleChannel x.1 (retireDie x.1 x.2.1 x.2.2 s)

/-- A change of a view that waited. -/
def doView (j : ViewJob) (s : State) : State :=
  match j with
  | .view h v => viewNow h v s
  | .eject e m => ejectNow e m s
  | .place e p st => placeNow e p st s

/-- Held admin commands go on in fetch order. -/
def resumeAdmin (s : State) : State :=
  s.lib.heldAdmin.foldl (fun t n => modCmd n (fun c => { c with phase := .fetched }) t)
    { s with lib := { s.lib with heldAdmin := [] } }

/-- A commit that activates completes: the set passed its check or not (Table 18.4). -/
def endCommit (s : State) : State :=
  match s.upd.commitCmd with
  | none => s
  | some n =>
    let t : State := { s with upd := { s.upd with commitCmd := none } }
    if s.lib.hitless then finishOk n 0 t else finishErr n (1, 0x07) t

/-- The commits that the restart cut end with Internal Error. -/
def endCut (s : State) : State :=
  inSlotOrder (fun u => s.lib.cutCmds.foldl (fun t n => finishErr n scInternal t) u)
    { s with lib := { s.lib with cutCmds := [] } }

/-- What waited is decided: retirements, syncs, views and the routing table; then held requests go on. -/
def librarianRuns (s : State) : State :=
  let rets := s.lib.waitingRet
  let syncs := s.lib.waitingSync
  let jobs := s.lib.viewJobs
  let mi := s.lib.heldMi
  let t : State := { s with lib := { s.lib with
    state := 0, waitingRet := [], waitingSync := [], viewJobs := [], heldMi := [] } }
  let t1 := writeRoutes [] t
  let t2 := rets.foldl (fun u x => doRetire x u) t1
  let t3 := syncs.foldl (fun u n => askSync n u) t2
  let t4 := jobs.foldl (fun u j => doView j u) t3
  mi.foldl (fun u i => miRun i u) (resumeAdmin (relayResume (endCut (endCommit t4))))

/-- LIBRARIAN_RESTART_END: after the held pause, where one runs. -/
def execLibrarianRestartEnd (s : State) : Outcome :=
  .next (if s.lib.state != 1 || s.upd.held || ! (serving s || s.mode.mode = .coast) then s else librarianRuns s)

end Sys2Proof.Machine
end

