-- ==== Sys2Proof/Machine/Update.lean ====
section
/-! DEFINITION. Firmware Image Download, Firmware Commit and the receiver of a chain relay (R419 to R421, R427 to
R430), and the two ends of a request that is answered or not (R285, R313). -/

namespace Sys2Proof.Machine

/-! ## The stage image (R419) -/

/-- NUMD and OFST of a download, in bytes: its length and its offset. -/
def portionLen (e : SqEntry) : Nat := 4 * (e.dw10 + 1)
def portionAt (e : SqEntry) : Nat := 4 * e.dw11

/-- The 4 KiB units that `len` bytes at `off` reach are staged. -/
def stageBytes (off len : Nat) (facts : BundleFacts) (s : State) : State :=
  let fresh := (List.range (ceilDiv (off % 4096 + len) 4096)).filterMap fun i =>
    if s.upd.staged.contains (off / 4096 + i) then none else some (off / 4096 + i)
  { s with upd := { s.upd with staged := s.upd.staged ++ fresh, stFacts := facts } }

/-- Every unit of the stage image is written. -/
def stageWhole (s : State) : Bool := s.upd.staged.length = 768

/-- A firmware command outside Recovery; one that arrives while a relay is received is held (R428). -/
def firmwareAdmin (slot : Nat) (pick : SqEntry → Bool) (f : Cmd → State → State) (s : State) : State :=
  if s.upd.relay.rx then s else runAdmin slot pick f s

/-- FIRMWARE_IMAGE_DOWNLOAD. -/
def execFirmwareImageDownload (slot : Nat) (facts : BundleFacts) (s : State) : Outcome :=
  .next (if s.mode.mode = .recovery then s
    else firmwareAdmin slot (fun e => e.opcode = 0x11) (fun c t =>
      if bundleBytes < portionAt c.e + portionLen c.e then finishErr slot scField t
      else finishOk slot 0 (stageBytes (portionAt c.e) (portionLen c.e) facts t)) s)

/-! ## Writing a block (R419, R421) -/

/-- CA and FS of a Firmware Commit. -/
def commitAct (e : SqEntry) : Nat := bitsOf e.dw10 5 3
def commitSlot (e : SqEntry) : Nat := bitsOf e.dw10 2 0

/-- The block that FS selects. -/
def commitTarget (s : State) (e : SqEntry) : Nat :=
  if commitSlot e = 0 then 1 - activeBlock s else commitSlot e - 1

/-- A writing commit that Table 18.4 allows: it names the inactive block. -/
def writeLegal (s : State) (e : SqEntry) : Bool :=
  decide (commitSlot e ≤ 2) && commitTarget s e != activeBlock s

/-- The 16 sectors of a block and the 32 of its set area. -/
def blockSectors (n : Nat) : List Nat := (List.range 96).filter fun i => sectorBlock i = some n

/-- Every sector of a block and its set area is erased (R429). -/
def eraseBlock (n : Nat) (s : State) : State :=
  let t := (blockSectors n).foldl (fun u i => clearBytes i u) s
  modBlock n (fun _ => emptyBlock)
    { t with cdx := { t.cdx with flags := t.cdx.flags.filter fun i => ! (blockSectors n).contains i } }

/-- The block holds a bundle with its three state bytes erased; one that does not read back spells nothing. -/
def fillBlock (n : Nat) (facts : BundleFacts) (good : Bool) (s : State) : State :=
  modBlock n (fun _ => { emptyBlock with written := true, facts := if good then facts else noFacts }) s

/-- Steps 1 and 2 of R421: a commit begins to erase the inactive block. -/
def startWriting (w : Writer) (s : State) : State :=
  eraseSectors (blockSectors (1 - activeBlock s)) { s with upd := { s.upd with writing := some w } }

/-- The erases of the commit are over. -/
def blockErased (s : State) : Bool := erasesOver (blockSectors (1 - activeBlock s)) s

/-- What was written reads back: no sector of the block is still flagged (R421, R422). -/
def blockReads (readBackOk : Bool) (s : State) : Bool :=
  readBackOk && ! anyFlagged (blockSectors (1 - activeBlock s)) s

def armBlock (n : Nat) (s : State) : State := modBlock n (fun b => { b with arm := true }) s

/-- The stage image is emptied. -/
def emptyStage (s : State) : State :=
  { s with upd := { s.upd with staged := [], stFacts := noFacts } }

/-- Invalid Firmware Slot, Invalid Firmware Image, Firmware Activation Requires Conventional Reset. -/
def scFwSlot : Nat × Nat := (1, 0x06)
def scFwImage : Nat × Nat := (1, 0x07)
def scFwReset : Nat × Nat := (1, 0x0B)

/-- A writing commit in service begins: the stage image must be whole. -/
def commitStage (slot : Nat) (s : State) : State :=
  if ! stageWhole s then finishErr slot scFwImage s
  else startWriting (.command slot) (modCmd slot (fun c => { c with phase := .running }) s)

/-- It ends: the whole stage image into the inactive block, ARM where `arm`, and the relay; then `f`. -/
def commitWritten (slot : Nat) (act : Nat) (arm good : Bool) (wait : BundleFacts → Bool) (f : State → State)
    (s : State) : State :=
  let n := 1 - activeBlock s
  let facts := s.upd.stFacts
  let ok := blockReads good s
  let t := emptyStage (fillBlock n facts ok { s with upd := { s.upd with writing := none } })
  if ! ok then finishErr slot scInternal t
  else f (startRelay s.pel.self act facts (wait facts) (if arm then armBlock n t else t))

/-- A Firmware Commit that writes: its first event runs `start`; one after the erases runs `finish`. -/
def commitEvent (slot : Nat) (pick : SqEntry → Bool) (start finish : State → State) (s : State) : State :=
  if s.upd.writing = some (.command slot) then
    match cmdAt s slot with
    | none => s
    | some c => if pick c.e && serving s && blockErased s then finish s else s
  else firmwareAdmin slot (fun e => e.opcode = 0x10 && pick e) (fun _ => start) s

/-- A commit in Recovery: the block's bytes are there already (R429). -/
def commitRecovery (slot : Nat) (arm good : Bool) (st : Nat × Nat) (s : State) : State :=
  if s.upd.recBytes != bundleBytes then finishErr slot scFwImage s
  else if ! good then finishErr slot scInternal s
  else finishErr slot st (if arm then armBlock (1 - activeBlock s) s else s)

/-- FIRMWARE_COMMIT_WRITE: CA 0. -/
def execFirmwareCommitWrite (slot : Nat) (readBackOk : Bool) (s : State) : Outcome :=
  .next (commitEvent slot (fun e => commitAct e = 0 && writeLegal s e)
    (fun t => if t.mode.mode = .recovery then commitRecovery slot false readBackOk scSuccess t else commitStage slot t)
    (commitWritten slot 0 false readBackOk (fun _ => false) (finishOk slot 0)) s)

/-- FIRMWARE_COMMIT_WRITE_ARM: CA 1. -/
def execFirmwareCommitWriteArm (slot : Nat) (readBackOk : Bool) (s : State) : Outcome :=
  .next (commitEvent slot (fun e => commitAct e = 1 && writeLegal s e)
    (fun t => if t.mode.mode = .recovery then commitRecovery slot true readBackOk scSuccess t else commitStage slot t)
    (commitWritten slot 1 true readBackOk (fun _ => false) (finishOk slot 0)) s)

/-- FIRMWARE_COMMIT_ARM: CA 2. -/
def execFirmwareCommitArm (slot : Nat) (s : State) : Outcome :=
  .next (firmwareAdmin slot (fun e => e.opcode = 0x10 && commitAct e = 2 && decide (commitSlot e ≤ 2))
    (fun c t =>
      let n := commitTarget t c.e
      let b := blockOf t n
      if n = activeBlock t then finishOk slot 0 t
      else if ! b.written || ! b.facts.headerOk || b.reject then finishErr slot scFwImage t
      else finishOk slot 0 (armBlock n t)) s)

/-- A hitless set activates at a Librarian restart, at whose end the command completes. -/
def activateCommit (slot : Nat) (s : State) : State :=
  startRestart 3 (modCmd slot (fun c => { c with phase := .running })
    { s with upd := { s.upd with commitCmd := some slot } })

/-- FIRMWARE_COMMIT_ACTIVATE: CA 3. -/
def execFirmwareCommitActivate (slot : Nat) (readBackOk : Bool) (s : State) : Outcome :=
  .next (commitEvent slot (fun e => commitAct e = 3 && writeLegal s e)
    (fun t => if t.mode.mode = .recovery then commitRecovery slot true readBackOk scFwReset t else commitStage slot t)
    (commitWritten slot 3 true readBackOk hitlessSet
      (if hitlessSet s.upd.stFacts then activateCommit slot else finishErr slot scFwReset)) s)

/-- FIRMWARE_COMMIT_INVALID: CA 4 to 7; a slot that is none, or is active where the commit would write. -/
def execFirmwareCommitInvalid (slot : Nat) (s : State) : Outcome :=
  .next (firmwareAdmin slot (fun e => e.opcode = 0x10 && (decide (4 ≤ commitAct e) || decide (2 < commitSlot e)
      || (commitAct e != 2 && ! writeLegal s e)))
    (fun c => finishErr slot (if 4 ≤ commitAct c.e then scField else scFwSlot)) s)

/-! ## Recovery (R429) -/

/-- Bytes of a bundle are programmed in order into the inactive block; those at offset 0 erase it first. -/
def recoveryBytes (off len : Nat) (facts : BundleFacts) (s : State) : State :=
  let n := 1 - activeBlock s
  let t := if off = 0 then eraseBlock n s else s
  modBlock n (fun b => { b with written := true, facts := facts })
    { t with upd := { t.upd with recBytes := off + len } }

/-- RECOVERY_FIRMWARE_DOWNLOAD. -/
def execRecoveryFirmwareDownload (slot : Nat) (facts : BundleFacts) (s : State) : Outcome :=
  .next (if s.mode.mode != .recovery then s
    else runAdmin slot (fun e => e.opcode = 0x11) (fun c t =>
      if portionAt c.e != t.upd.recBytes || decide (bundleBytes < portionAt c.e + portionLen c.e) then
        finishErr slot scField t
      else finishOk slot 0 (recoveryBytes (portionAt c.e) (portionLen c.e) facts t)) s)

/-! ## RELAY and RELAY_COMMIT (R427, R428, R430) -/

/-- The stage image holds bytes of a host download that no commit has written. -/
def hostStaged (s : State) : Bool := ! s.upd.relay.rx && ! s.upd.staged.isEmpty

/-- The receiver answers BACKOFF. -/
def relayBusy (s : State) (origin : Nat) : Bool :=
  s.lib.state != 0 || hostStaged s || (s.upd.relay.rx && s.upd.relay.rxOrigin != origin)

/-- Bytes of the stream enter the stage image; offset 0 begins it. -/
def relayBytes (off len origin action : Nat) (facts : BundleFacts) (s : State) : State :=
  let t := if off = 0 then
      modRelay (fun r => { r with rx := true, rxOrigin := origin, got := 0 }) (emptyStage s) else s
  if off < bundleBytes then
    modRelay (fun r => { r with got := r.got + len }) (stageBytes off len facts t)
  else modRelay (fun r => { r with got := r.got + len, rxAction := action, rxFacts := t.upd.stFacts }) t

/-- A packet in Recovery: the next bytes in order; the descriptor ends the stream and arms the set. -/
def relayRecovery (h : PacketHdr) (len : Nat) (facts : BundleFacts) (s : State) : State :=
  if h.arg0 = bundleBytes && s.upd.recBytes = bundleBytes then
    sendDone h scSuccess (armBlock (1 - activeBlock s) s)
  else if h.arg0 = 0 || (h.arg0 = s.upd.recBytes && decide (h.arg0 + len ≤ bundleBytes)) then
    sendDone h scSuccess (recoveryBytes h.arg0 len facts s)
  else s

/-- RELAY: a stream that did not begin here has no answer, and its sender starts again. -/
def relayIn (h : PacketHdr) (len origin action : Nat) (facts : BundleFacts) (s : State) : State :=
  if s.mode.mode = .recovery then relayRecovery h len facts s
  else if relayBusy s origin then sendBackoff h 1 s
  else if h.arg0 != 0 && ! s.upd.relay.rx then s
  else sendDone h scSuccess (relayBytes h.arg0 len origin action facts s)

def execRelay (h : PacketHdr) (len origin action : Nat) (facts : BundleFacts) (s : State) : Outcome :=
  .next (onPacket 0xA h (relayIn h len origin action facts) s)

/-- The block is written from a relay's stream, armed and activated as ACTION says; the stream goes on along the chain. -/
def relayWritten (readBackOk : Bool) (s : State) : State :=
  let r := s.upd.relay
  let n := 1 - activeBlock s
  let ok := blockReads readBackOk s
  let hitless := r.rxAction = 3 && ok && hitlessSet r.rxFacts
  let t := modRelay (fun x => { x with rx := false, got := 0 })
    (emptyStage (fillBlock n r.rxFacts ok { s with upd := { s.upd with writing := none } }))
  let u := if ok && r.rxAction != 0 then armBlock n t else t
  let v := if r.rxAction = 3 then startRelay r.rxOrigin r.rxAction r.rxFacts hitless u else u
  if hitless then startRestart 3 v else v

/-- The commit of a relay begins; for actions 0 and 1 the stream goes on at once, in parallel with it (R427). -/
def relayBegin (s : State) : State :=
  let r := s.upd.relay
  startWriting .relay (if r.rxAction = 3 then s else startRelay r.rxOrigin r.rxAction r.rxFacts false s)

/-- RELAY_COMMIT: its first event begins the commit of a whole stream; one after the erases ends it. -/
def execRelayCommit (readBackOk : Bool) (s : State) : Outcome :=
  let r := s.upd.relay
  .next (if ! serving s || s.lib.state != 0 || ! r.rx || r.got != streamBytes || ! stageWhole s then s
    else if s.upd.writing = some .relay then (if blockErased s then relayWritten readBackOk s else s)
    else if s.upd.writing.isNone then relayBegin s else s)

/-! ## DONE and MEMBER_TIMEOUT (R285, R313) -/

/-- A FORMAT of a host command is over at a member: its command ends when no other is outstanding (R321). -/
def formatHeard (slot : Nat) (st : Nat × Nat) (s : State) : State :=
  let t := if st = scSuccess then s
    else modCmd slot (fun c => { c with fails := c.fails ++ [{ lba := 0, sct := st.1, sc := st.2 }] }) s
  if t.pel.out.any (fun r => r.owner = .host slot) then t
  else match cmdAt t slot with
    | none => t
    | some c => match c.fails with
      | [] => finishOk slot 0 t
      | f :: _ => finishErr slot (f.sct, f.sc) t

/-- A request that is over, with its status: none when it had no answer. -/
def requestOver (r : OutReq) (st : Option (Nat × Nat)) (s : State) : State :=
  if r.owner = .relay then
    if st = some scSuccess then relayTaken (bodyBytes r.body) s else relayFailed s
  else match r.owner, st with
    | .host slot, _ =>
      if r.op = 8 then formatHeard slot (st.getD (7, 0xC2)) s
      else (match st with | some x => answered r x s | none => timedOut r s)
    | _, some x => answered r x s
    | _, none => timedOut r s

/-- DONE. -/
def doneIn (h : PacketHdr) (s : State) : State :=
  match requestOf s h with
  | none => countStale s
  | some r => requestOver r (some (doneStatus h)) (dropRequest r s)

def execDone (h : PacketHdr) (s : State) : Outcome := .next (onPacket 0x6 h (doneIn h) s)

/-- MEMBER_TIMEOUT. -/
def execMemberTimeout (dst index : Nat) (s : State) : Outcome :=
  .next (match s.pel.out.find? fun r => r.dst = dst && r.index = index with
    | none => s
    | some r =>
      if ! fabricOn s then s else requestOver r none (reportTimeout r (dropRequest r s)))

end Sys2Proof.Machine
end

