-- ==== Sys2Proof/Machine/Dram.lean ====
section
/-! DEFINITION. The DRAM subsystem (R326 to R331, R334 to R338, R340 to R343): address mapping, the code, the choice among
requests, decode outcomes and what an uncorrectable word does, scrub, refresh, Brake, and row retirement. -/

namespace Sys2Proof.Machine

/-! ## Addresses (R325, R326) -/

/-- The interleave grain, in bytes. -/
def grain (s : State) : Nat := 2 ^ (8 + fld s 0x2008)

/-- Subchannel and subchannel offset of a DRAM address under grain `g`. -/
def subchannelOf (g a : Nat) : Nat := a / g % 8
def offsetOf (g a : Nat) : Nat := a / g / 8 * g + a % g

/-- Data devices of a rank, ranks, and bytes of a row. -/
def dataDevices (s : State) : Nat := if (fld s 0x2000).testBit 0 then 8 else 4
def dramRanks (s : State) : Nat := if (fld s 0x2000).testBit 16 then 2 else 1
def rowBytes (s : State) : Nat := 1024 * dataDevices s

/-- The fields of a subchannel offset, with `rb` bytes to a row. -/
def rowAddr (u rb ranks o : Nat) : RowAddr :=
  { u := u, rank := o / (32 * rb) % ranks, bg := o / 64 % 8, bank := o / (8 * rb) % 4, row := o / (32 * rb) / ranks }

/-- Rows of a bank, and its spare rows (R340). -/
def bankRows (s : State) : Nat := dramBytes s / (8 * dramRanks s * 32 * rowBytes s)
def bankSpares (s : State) : Nat := ceilDiv (bankRows s) 200

/-! ## The code (R327) -/

/-- One message bit through the divider of the generator, the product of the minimal polynomials of α and α³:
x¹⁴ + x⁹ + x⁸ + x⁶ + x⁵ + x⁴ + x² + x + 1. -/
def bchBit (c : BitVec 14) (b : Bool) : BitVec 14 :=
  if c.getLsbD 13 != b then (c <<< 1) ^^^ 0x0377#14 else c <<< 1

/-- C[13:0] of a data word and its fox bit, the message bits taken from D[0] to D[63], then F. -/
def bchCheck (d : Word64) (f : Bool) : BitVec 14 :=
  bchBit ((List.range 64).foldl (fun c i => bchBit c (d.getLsbD i)) 0) f

/-- The parity of a list of bits. -/
def oddOnes (l : List Bool) : Bool := l.foldl xor false

/-- C[14:0]: C[14] makes the parity of the 80 bits even. -/
def dramCheck (d : Word64) (f : Bool) : BitVec 15 :=
  let c := bchCheck d f
  let p := oddOnes ([f] ++ (List.range 64).map (fun i => d.getLsbD i) ++ (List.range 14).map fun i => c.getLsbD i)
  (if p then 1#1 else 0#1) ++ c

/-! ## Requests (R335, R336) -/

/-- Latency target of a port in ns (Table 14.5); scrub has none. -/
def portTarget (port : Nat) : Option Nat := [300, 1000, 5000, 2000, 10000, 2000, 2000][port]?

def isRealTime (r : DramReq) : Bool := r.port = 5 || r.port = 6
def isScrub (r : DramReq) : Bool := decide (7 ≤ r.port)

/-- The deadline of a request, in ns: its arrival plus its port's target. -/
def deadlineOf (r : DramReq) : Nat := r.arrivedNs + (portTarget r.port).getD 0

/-- Urgency: 2 past the deadline, 1 with less than half of the target left, else 0. -/
def urgencyOf (now : Nat) (r : DramReq) : Nat :=
  if deadlineOf r < now then 2
  else if 2 * (deadlineOf r - now) < (portTarget r.port).getD 0 then 1 else 0

/-- The request with the earliest deadline, the oldest among equals. -/
def earliest (l : List DramReq) : Option DramReq :=
  l.foldl (fun m r => match m with
    | none => some r
    | some x => if deadlineOf r < deadlineOf x then some r else some x) none

/-- Brake is up while either real-time port raises it (R337). -/
def brakeUp (s : State) : Bool := s.dram.brake.any fun b => b

/-- The row of a request. -/
def reqRow (u : Nat) (r : DramReq) : RowAddr := { u := u, rank := r.rank, bg := r.bg, bank := r.bank, row := r.row }

/-- The requests that wait on a subchannel. -/
def waitingReqs (s : State) (u : Nat) : List DramReq := (s.dram.reqs.filter fun x => x.1 = u).map fun x => x.2

/-- A request past its deadline that is not of a real-time port. -/
def overdue (now : Nat) (l : List DramReq) : List DramReq :=
  l.filter fun r => ! isScrub r && ! isRealTime r && urgencyOf now r = 2

/-- Item 2 of R336: the highest urgency; at urgency 0 row hits before the others. -/
def byUrgency (s : State) (u now : Nat) (l : List DramReq) : Option DramReq :=
  let at1 := fun (n : Nat) => l.filter fun r => urgencyOf now r = n
  match earliest (at1 2) with
  | some r => some r
  | none => match earliest (at1 1) with
    | some r => some r
    | none => match earliest ((at1 0).filter fun r => s.dram.openRows.contains (reqRow u r)) with
      | some r => some r
      | none => earliest (at1 0)

/-- The next request of a subchannel (R336). -/
def nextReq (s : State) (u now : Nat) : Option DramReq :=
  let all := waitingReqs s u
  let l := all.filter fun r => ! isScrub r
  let rt := l.filter isRealTime
  if l.isEmpty then all.head?
  else if brakeUp s && ! rt.isEmpty then
    match overdue now l with
    | [] => rt.head?
    | late => if 64 ≤ natAt s.dram.rtRun u then earliest late else rt.head?
  else byUrgency s u now l

/-- The request is served: it leaves the queue, its row is open, real-time bursts that an overdue request waits behind
are counted, and so is a missed deadline, during Brake or not (R336, R337, Table 14.9). -/
def serveReq (u now : Nat) (r : DramReq) (s : State) : State :=
  let a := reqRow u r
  let run := if isRealTime r && ! (overdue now (waitingReqs s u)).isEmpty then natAt s.dram.rtRun u + r.bursts else 0
  let miss := decide (r.port < 5) && urgencyOf now r = 2
  { s with dram := { s.dram with
      reqs := dropFirst (fun x => x = (u, r)) s.dram.reqs
      openRows := a :: s.dram.openRows.filter fun b =>
        ! (b.u = a.u && b.rank = a.rank && b.bg = a.bg && b.bank = a.bank)
      rtRun := s.dram.rtRun.set u run
      late := if miss then bumpAt r.port s.dram.late else s.dram.late } }

/-- Requests arrive at a subchannel, and its next one is served. -/
def takeReqs (u : Nat) (arrived : List DramReq) (now : Nat) (s : State) : State :=
  let t : State := { s with dram := { s.dram with reqs := s.dram.reqs ++ arrived.map fun r => (u, r) } }
  match nextReq t u now with
  | some r => serveReq u now r t
  | none => t

/-! ## The row-error log (R340) -/

/-- Entries of the log. -/
def rowLogSize : Nat := 4194304

/-- Counts of an entry together. -/
def rowTotal (r : RowErr) : Nat := r.single + r.double + r.uncorr

/-- The entry that a new row replaces: the lowest total, of those the oldest. -/
def rowVictim (l : List RowErr) : Option RowErr :=
  l.foldl (fun m r => match m with
    | none => some r
    | some x => if decide (rowTotal r < rowTotal x) || (rowTotal r = rowTotal x && decide (r.lastMs < x.lastMs))
      then some r else some x) none

/-- The row's entry is updated by `f`, made first where it has none. -/
def logRow (a : RowAddr) (f : RowErr → RowErr) (s : State) : State :=
  let upd := fun r => { f r with lastMs := s.clock.opMs }
  let fresh : RowErr := { addr := a, single := 0, double := 0, uncorr := 0, lastMs := 0, retired := false }
  { s with dram := { s.dram with
      log :=
        if s.dram.log.any (fun r => r.addr = a) then modWhere (fun r => r.addr = a) upd s.dram.log
        else if s.dram.log.length < rowLogSize then s.dram.log ++ [upd fresh]
        else match rowVictim s.dram.log with
          | some v => dropFirst (fun r => r = v) s.dram.log ++ [upd fresh]
          | none => s.dram.log } }

/-- A DRAM record. -/
def noteDram (kind : Nat) (a : RowAddr) (spare : Nat) (s : State) : State :=
  record 0x0301 [(1, kind), (1, a.u), (1, a.rank), (1, a.bg), (1, a.bank), (4, a.row), (4, spare)] s

def stickDram (m : Word32) (s : State) : State := { s with dram := { s.dram with sticky := s.dram.sticky ||| m } }

/-- A corrected word: one bit or two. -/
def noteCorrected (a : RowAddr) (two : Bool) (s : State) : State :=
  logRow a (fun r => if two then { r with double := min 255 (r.double + 1) }
      else { r with single := min 65535 (r.single + 1) })
    (countC1 15 { s with dram := { s.dram with corr := bumpAt a.u s.dram.corr } })

/-- An uncorrectable word. -/
def noteUncorrectable (a : RowAddr) (s : State) : State :=
  noteDram 0 a 0 (logRow a (fun r => { r with uncorr := min 255 (r.uncorr + 1) })
    (stickDram 0x1 (countC1 16 { s with dram := { s.dram with uncorr := bumpAt a.u s.dram.uncorr } })))

/-- What a decode returns as uncorrectable: three bits, or more that were not miscorrected. -/
def wordLost (errors : Nat) (miscorrected : Bool) : Bool := decide (3 ≤ errors) && ! miscorrected

/-- What the requester of a word gets (Table 14.3): the corrected word and F, or the data as read with F = 1. A
miscorrected word is `raw` too: the word that the code took for the right one. -/
def decodeWord (word : Word64 × Bool) (raw : Word64) (errors : Nat) (miscorrected : Bool) : Word64 × Bool :=
  if errors ≤ 2 then word
  else if wordLost errors miscorrected then (raw, true)
  else (raw, word.2)

/-- Byte `i` of a word. -/
def byteAt64 (d : Word64) (i : Nat) : Byte := d.extractLsb' (8 * i) 8

/-- A write of the bytes that `mask` names into a word (R330): a word that it covers whole is written unread, another is
merged with what its read returned, and keeps F = 1 where the old word was uncorrectable. -/
def mergeWord (mask : BitVec 8) (new : Word64) (foxed : Bool) (old : Word64 × Bool) (lost : Bool) : Word64 × Bool :=
  if mask = 0xFF#8 then (new, foxed)
  else
    ((List.range 8).foldl (fun w i =>
      w ||| ((if mask.getLsbD i then byteAt64 new i else byteAt64 old.1 i).setWidth 64 <<< (8 * i))) 0,
     foxed || old.2 || lost)

/-- What a decode records (Table 14.3). A miscorrection of an even number of bits leaves the parity even and so is
one of two bits. -/
def noteDecode (a : RowAddr) (errors : Nat) (miscorrected : Bool) (s : State) : State :=
  if errors = 0 then s
  else if wordLost errors miscorrected then noteUncorrectable a s
  else noteCorrected a (errors % 2 = 0) s

/-! ## DRAM_READ_DECODE and PATROL_SCRUB (R328, R329, R331) -/

/-- The controllers serve requests. -/
def dramOn (s : State) : Bool := serving s && s.dram.rate != 0

/-- A request brings the ranks out of self-refresh (R339). -/
def wakeDram (s : State) : State :=
  { s with
    dram := { s.dram with selfRef := false }
    mode := { s.mode with gates := { s.mode.gates with dram := false } } }

/-- The key of a drift-table entry by its number. -/
def driftNumber (k : Nat × Nat × Nat × Nat) : Nat := ((k.1 * 32 + k.2.1) * 16 + k.2.2.1) * 65536 + k.2.2.2

/-- The work-pool copy of the card at `p` is lost: its engine reads it once more, and a second loss marks the card as at
step 7. -/
def lostCopy (p : Ppa) (s : State) : State :=
  let t : State := { s with
    dram := { s.dram with
      discards := sat32 (s.dram.discards + 1), repeats := s.dram.repeats.filter fun x => x != p }
    wr := { s.wr with fetched := s.wr.fetched.filter fun x => x.2.1 != p }
    cat := { s.cat with arrived := s.cat.arrived.filter fun x => x.2.2 != p } }
  if s.dram.repeats.contains p then failWord p 7 1 [.nobody] true t
  else retryLoads { t with dram := { t.dram with repeats := t.dram.repeats ++ [p] } }

/-- A work-pool copy of a rebuild transfer is lost: card `i` of position `pos`. The rebuilder requests the position's transfer
once more; a second loss leaves the card unknown, so that the rebuild solves it without it or marks it (R318, R329). -/
def lostRebuild (e i pos : Nat) (s : State) : State :=
  let t : State := { s with dram := { s.dram with discards := sat32 (s.dram.discards + 1) } }
  match t.ech.stewards.find? fun r => r.kind = 6 && r.echelon = e with
  | none => t
  | some r =>
    if r.again.contains pos then
      modRun r.id (fun x => { x with others := x.others.filter fun y => ! (y.1 = pos && y.2.1 = i) }) t
    else
      runRead r pos (modRun r.id (fun x => { x with
        again := pos :: x.again, others := x.others.filter fun y => y.1 != pos }) t)

/-- What the owner of an uncorrectable word does (Table 14.4). Regions: 0 work-pool buffer of an engine (`owner`: the PPA
of the card in it), 1 of a rebuild transfer (`owner`: echelon [5:0], card [9:6], position [14:10]), 2 shelf page or fine segment, 3 pending-update table, 4 block table, 5
drift table (`owner`: its entry), 6 row-error log (`owner`: its place), 7 Roster copy (`owner`: the channel), 8
Librarian data. What regions 2 to 4 derive again is what they held. -/
def lostWord (region owner : Nat) (s : State) : State :=
  match region with
  | 0 => lostCopy (BitVec.ofNat 40 owner) s
  | 1 => lostRebuild (bitsOf owner 5 0) (bitsOf owner 9 6) (bitsOf owner 14 10) s
  | 5 => { s with esc := { s.esc with drift := s.esc.drift.filter fun x => driftNumber x.1 != owner } }
  | 6 => { s with dram := { s.dram with log := s.dram.log.eraseIdx owner } }
  | 7 => if owner < 64 then askSync owner s else s
  | 8 => startRestart 2 s
  | _ => s

/-- DRAM_READ_DECODE: the requests that have arrived join their subchannel's queue, the next one is served, and the word
read is decoded. -/
def execDramReadDecode (u rank bg bank row errors : Nat) (miscorrected : Bool) (lost : DramLoss)
    (turn : DramTurn) (s : State) : Outcome :=
  .next (if ! dramOn s || decide (7 < u) then s
    else
      let t := noteDecode { u := u, rank := rank, bg := bg, bank := bank, row := row } errors miscorrected
        (takeReqs u turn.arrived turn.nowNs (wakeDram s))
      if wordLost errors miscorrected then lostWord lost.region lost.owner t else t)

/-- PATROL_SCRUB: the words of a pass are counted; a correction is written back unless a write came between. -/
def execPatrolScrub (u rank bg bank row errors : Nat) (_writeIntervened : Bool) (s : State) : Outcome :=
  .next (if ! dramOn s || decide (7 < u) then s
    else
      let t := noteDecode { u := u, rank := rank, bg := bg, bank := bank, row := row } errors false (wakeDram s)
      { t with dram := { t.dram with
          scrubbed := if dramBytes t / 8 ≤ t.dram.scrubbed + 1 then 0 else t.dram.scrubbed + 1 } })

/-! ## Refresh, MR4, the oscillator (R334, R338) -/

/-- REFRESH_TICK: postponed while an urgent request waits, up to the limit that DDR5 sets. -/
def execRefreshTick (u : Nat) (urgent : Bool) (s : State) : Outcome :=
  .next (if ! dramOn s || s.dram.selfRef || decide (7 < u) then s
    else
      let k := natAt s.dram.postponed u
      if urgent && decide (k < Config.postponeLimit) then
        { s with dram := { s.dram with postponed := s.dram.postponed.set u (k + 1) } }
      else
        let n := if urgent then 1 else k + 1
        { s with dram := { s.dram with
            postponed := s.dram.postponed.set u (k + 1 - n)
            refreshes := s.dram.refreshes.set u (natAt s.dram.refreshes u + n) } })

/-- MR4_READ. -/
def execMr4Read (rank : Nat) (doubled beyond : Bool) (tempTop : Int) (s : State) : Outcome :=
  .next (if ! dramOn s || decide (dramRanks s ≤ rank) then s
    else
      let l := s.dram.doubled.filter fun r => r != rank
      let t : State := { s with dram := { s.dram with
        doubled := if doubled then insertBy (fun a b => decide (a < b)) rank l else l
        rankTemp := mapSet rank tempTop s.dram.rankTemp } }
      if beyond then noteDram 4 { u := 0, rank := rank, bg := 0, bank := 0, row := 0 } 0 (stickDram 0x8 t) else t)

/-- The centring follows the DRAM PHY's sensor TS9 by the re-centring step. -/
def recentreDram (s : State) : State :=
  let now := s.sens.ts.getD 9 0
  let d := now - s.dram.centreTemp
  if decide (8 * (fld s 0x7C4 : Int) ≤ d) || decide (d ≤ -(8 * (fld s 0x7C4 : Int))) then
    { s with dram := { s.dram with centreTemp := now } } else s

/-- DQS_OSCILLATOR_READ: the write delays of a rank move by the change measured. -/
def execDqsOscillatorRead (rank : Nat) (change : Int) (s : State) : Outcome :=
  .next (if ! dramOn s || s.dram.selfRef || decide (dramRanks s ≤ rank) then s
    else recentreDram { s with dram := { s.dram with
      writeDly := mapPut 0 rank (mapAt 0 rank s.dram.writeDly + change) s.dram.writeDly } })

/-! ## Brake (R337) -/

/-- BRAKE_RAISE. -/
def execBrakeRaise (port fill : Nat) (s : State) : Outcome :=
  .next (if ! dramOn s || decide (1 < port) || decide (fill < 50) then s
    else
      let up := s.dram.brake.getD port false
      let t : State := { s with dram := { s.dram with
        brake := s.dram.brake.set port true
        brakes := if up then s.dram.brakes else sat32 (s.dram.brakes + 1)
        hold := s.dram.hold.set port (decide (90 ≤ fill)) } }
      if 90 ≤ fill then stickDram 0x4 t else t)

/-- BRAKE_LOWER: at 25 % fill. -/
def execBrakeLower (port : Nat) (s : State) : Outcome :=
  .next (if ! dramOn s || decide (1 < port) then s
    else { s with dram := { s.dram with
      brake := s.dram.brake.set port false, hold := s.dram.hold.set port false } })

/-! ## Retirement (R340 to R343) -/

/-- ROW_ERROR_LOG_HALVE. -/
def execRowErrorLogHalve (s : State) : Outcome :=
  .next (if ! dramOn s then s
    else { s with dram := { s.dram with log := s.dram.log.map fun r => { r with
      single := r.single / 2, double := r.double / 2, uncorr := r.uncorr / 2 } } })

/-- Spare rows of the device. -/
def spareCount (s : State) : Nat := 256 * dramRanks s * bankSpares s

/-- The number of a bank on its subchannel. -/
def bankNumber (a : RowAddr) : Nat := (a.rank * 8 + a.bg) * 4 + a.bank

def sameBank (a b : RowAddr) : Bool := a.u = b.u && bankNumber a = bankNumber b

/-- A spare index lies in a bank: on its subchannel, by rank, bank and row. -/
def spareInBank (s : State) (a : RowAddr) (i : Nat) : Bool :=
  i % 8 = a.u && i / 8 / max 1 (bankSpares s) = bankNumber a

/-- Usable rows of a bank: those that a bank's retirement maps. -/
def usableRows (s : State) : Nat := bankRows s - bankSpares s

/-- A spare index that no entry of the map uses, in no retired bank. -/
def spareFree (s : State) (i : Nat) : Bool :=
  ! s.dram.map.any fun e =>
    if e.whole then (decide (e.spare ≤ i) && decide (i < e.spare + usableRows s)) || spareInBank s e.addr i
    else e.spare = i

/-- The lowest free spare index on a subchannel. -/
def rowSpare (s : State) (u : Nat) : Option Nat :=
  (firstNat (fun j => spareFree s (8 * j + u)) (spareCount s / 8) 0).map fun j => 8 * j + u

/-- The index ranges that a bank's retirement cannot cross: first index, and the index after the last. -/
def spareBlocks (s : State) (a : RowAddr) : List (Nat × Nat) :=
  let own := fun (b : RowAddr) => (8 * (bankNumber b * bankSpares s) + b.u,
    8 * (bankNumber b * bankSpares s + bankSpares s - 1) + b.u + 1)
  own a :: s.dram.map.flatMap fun e =>
    if e.whole then [(e.spare, e.spare + usableRows s), own e.addr] else [(e.spare, e.spare + 1)]

/-- The highest base of `n` free indexes below `top` that no block, given from the highest down, crosses. -/
def topRange (n : Nat) : Nat → List (Nat × Nat) → Option Nat
  | top, [] => if n ≤ top then some (top - n) else none
  | top, b :: l => if b.2 + n ≤ top then some (top - n) else topRange n (min top b.1) l

/-- The base of a bank's range. -/
def bankSpare (s : State) (a : RowAddr) : Option Nat :=
  topRange (usableRows s) (spareCount s) (sortBy (fun x y => decide (y.2 < x.2)) (spareBlocks s a))

/-- The row's entry has reached a threshold (R341). -/
def rowDue (s : State) (a : RowAddr) : Bool :=
  s.dram.log.any fun r => r.addr = a && ! r.retired
    && (decide (fld s 0x7C8 ≤ r.single) || decide (fld s 0x7CC ≤ r.double) || decide (0 < r.uncorr))

/-- Retired rows of a bank. -/
def bankRetired (s : State) (a : RowAddr) : Nat :=
  (s.dram.map.filter fun e => ! e.whole && sameBank e.addr a).length

/-- A row or a bank that the map does not hold yet, and that is to be retired. -/
def retireDue (s : State) (a : RowAddr) (wholeBank : Bool) : Bool :=
  ! s.dram.map.any (fun e => (e.whole && sameBank e.addr a) || (! wholeBank && e.addr = a))
    && if wholeBank then decide (fld s 0x7D0 ≤ bankRetired s a) else rowDue s a

/-- The part of the spare map that a new entry goes to, and whether its record finds a place (R408). -/
def sparePart (s : State) : Nat := 0x50000 + s.dram.map.length / 12

/-- A place for one more entry of the remap table. -/
def mapRoom (s : State) (wholeBank : Bool) : Bool :=
  ! rtFull s (sparePart s)
    && decide ((s.dram.map.filter fun e => e.whole = wholeBank).length < if wholeBank then 4 else 32768)

/-- The part as it is stored: its twelve entries. -/
def partValue (l : List SpareEntry) (k : Nat) : Nat :=
  (List.range 12).foldl (fun n i => match l[12 * k + i]? with
    | some e => n + encodeSpare e * 2 ^ (64 * i)
    | none => n) 0

/-- The remap entry is stored and put in force. -/
def remap (e : SpareEntry) (s : State) : State :=
  let l := s.dram.map ++ [e]
  let t : State := { s with dram := { s.dram with
    map := l
    log := modWhere (fun r => if e.whole then sameBank r.addr e.addr else r.addr = e.addr)
      (fun r => { r with retired := true }) s.dram.log } }
  noteDram (if e.whole then 2 else 1) e.addr e.spare
    (stickDram 0x2 (storeRt (sparePart s) (partValue l (s.dram.map.length / 12)) t))

/-- ROW_RETIRE: with no spare free, or no place for its record, nothing is retired and EXHAUST is set. -/
def execRowRetire (u rank bg bank row : Nat) (wholeBank : Bool) (s : State) : Outcome :=
  let a : RowAddr := { u := u, rank := rank, bg := bg, bank := bank, row := if wholeBank then 0 else row }
  .next (if ! dramOn s || s.lib.state != 0 || decide (7 < u) || ! retireDue s a wholeBank || ! rtRoom s then s
    else match (if mapRoom s wholeBank then (if wholeBank then bankSpare s a else rowSpare s u) else none) with
      | some i => remap { addr := a, whole := wholeBank, spare := i } s
      | none => noteDram 3 a 0 (stickDram 0x10 s))

end Sys2Proof.Machine
end

