-- ==== Sys2Proof/Machine/Pcie.lean ====
section
/-! DEFINITION. The configuration space of the function (R191, R198 to R203): the capabilities, the registers that
configuration requests reach, and what the device sends under them. -/

namespace Sys2Proof.Machine

/-! ## Capabilities (Table 9.3) -/

/-- The capabilities of the lists. -/
inductive Capability where
  | powerManagement | pciExpress | msix | advancedErrors | deviceSerial | latencyTolerance | l1Substates
  | secondary | physical16 | physical32 | physical64 | physical128 | dataLinkFeature | flitLogging | laneMargining
  deriving DecidableEq, Repr

/-- The capability lists hold exactly these (R200). -/
def capabilities : List Capability :=
  [.powerManagement, .pciExpress, .msix, .advancedErrors, .deviceSerial, .latencyTolerance, .l1Substates, .secondary,
   .physical16, .physical32, .physical64, .physical128, .dataLinkFeature, .flitLogging, .laneMargining]

/-- L0p may narrow a link at x8 and x4 in FLIT mode (Table 9.1). -/
def l0pLegal (s : State) : Bool := s.link.flit && (s.link.width = 8 || s.link.width = 4)

/-- The Device Serial Number: the 64-bit serial of the Colophon row (R199). -/
def deviceSerial (s : State) : Nat := s.cdx.serial

/-! ## Configuration requests (R191, R205, R206) -/

/-- Hardware answers configuration requests from the first L0 on, in D3hot and in Coast too. -/
def configOn (s : State) : Bool := awake s && s.link.seenL0

/-- BAR `i` of three 64-bit BARs of 64 KiB, non-prefetchable memory: type bits and the base (Table 9.4). -/
def barLow (s : State) (i : Nat) : Nat := natAt s.link.cfg.bars i / 65536 % 65536 * 65536 + 4

/-- Device Control: Max Payload Size [7:5], Relaxed Ordering [4], No Snoop never, Max Read Request Size [14:12]. -/
def devControl (c : PcieCfg) : Nat := bitAt 4 c.relaxed + 2 ^ 5 * c.mps + 2 ^ 12 * c.mrrs

/-- The configuration registers by number: the header by its offset, and the registers of the capabilities, whose offsets
the manual does not give, from 0x100 on in the order of Table 9.3 (DESIGN CHOICE, log entry 170). -/
def configValue (s : State) (n : Nat) : Nat :=
  let c := s.link.cfg
  match n with
  | 0x00 => 0x96402C4F
  | 0x04 => bitAt 1 c.memory + bitAt 2 c.master + 2 ^ 20
  | 0x08 => 0x01080210
  | 0x10 => barLow s 0
  | 0x14 => natAt c.bars 0 / 2 ^ 32
  | 0x18 => barLow s 1
  | 0x1C => natAt c.bars 1 / 2 ^ 32
  | 0x20 => barLow s 2
  | 0x24 => natAt c.bars 2 / 2 ^ 32
  | 0x2C => subsystemVendor s + 65536 * subsystemId s
  | 0x100 => 8 + if s.link.d3hot then 3 else 0
  | 0x104 => devControl c
  | 0x108 => c.timeoutRange + bitAt 10 c.ltr
  | 0x10C => linkSpeeds
  | 0x110 => c.severity
  | 0x114 => bitAt 6 c.ecrcGen + bitAt 8 s.link.ecrcCheck + bitAt 5 true + bitAt 7 true
  | 0x118 => s.cdx.serial % 2 ^ 32
  | 0x11C => s.cdx.serial / 2 ^ 32
  | 0x120 => c.l1ss
  | 0x124 => s.link.corrErrs
  | _ => 0

/-- A configuration read; none where no request is answered. -/
def configRead (s : State) (n : Nat) : Option Word32 :=
  if configOn s then some (BitVec.ofNat 32 (configValue s n)) else none

/-- A 64-bit BAR takes its low or its high half; its 64 KiB fix the low 16 bits. -/
def setBar (i : Nat) (high : Bool) (v : Nat) (l : List Nat) : List Nat :=
  l.set i (if high then natAt l i % 2 ^ 32 + 2 ^ 32 * v else natAt l i / 2 ^ 32 * 2 ^ 32 + v / 65536 * 65536)

/-- A configuration write: a field takes what the device supports (Table 9.3). -/
def configWrite (n value : Nat) (s : State) : State :=
  let c := s.link.cfg
  let v := value % 2 ^ 32
  let put := fun (d : PcieCfg) => ({ s with link := { s.link with cfg := d } } : State)
  match n with
  | 0x04 => put { c with memory := v.testBit 1, master := v.testBit 2 }
  | 0x10 => put { c with bars := setBar 0 false v c.bars }
  | 0x14 => put { c with bars := setBar 0 true v c.bars }
  | 0x18 => put { c with bars := setBar 1 false v c.bars }
  | 0x1C => put { c with bars := setBar 1 true v c.bars }
  | 0x20 => put { c with bars := setBar 2 false v c.bars }
  | 0x24 => put { c with bars := setBar 2 true v c.bars }
  | 0x104 => put { c with relaxed := v.testBit 4, mps := min 2 (bitsOf v 7 5), mrrs := min 5 (bitsOf v 14 12) }
  | 0x108 => put { c with timeoutRange := bitsOf v 3 0, ltr := v.testBit 10 }
  | 0x110 => put { c with severity := v &&& 0x1FF000 }
  | 0x114 => { s with link := { s.link with ecrcCheck := v.testBit 8, cfg := { c with ecrcGen := v.testBit 6 } } }
  | 0x120 => put { c with l1ss := v % 16 }
  | _ => s

/-! ## Memory requests (R202, Table 9.4) -/

/-- The BAR and the offset that a memory address falls into; none: Unsupported Request. -/
def barOf (s : State) (addr : Nat) : Option (Nat × Nat) :=
  if ! s.link.cfg.memory then none
  else (List.range 3).findSome? fun i =>
    let base := natAt s.link.cfg.bars i
    if base ≤ addr && decide (addr < base + 65536) then some (2 * i, addr - base) else none

/-- A dword of BAR4: the MSI-X table, the PBA, and zero (Table 9.4). -/
def bar4Read (s : State) (off : Nat) : Nat :=
  if off < 0x8000 then mapAt (if off / 4 % 4 = 3 then 1 else 0) (off / 4) s.nv.msixTab
  else if off < 0x8100 then
    ((List.range 32).map fun i => bitAt i (s.nv.pba.contains (8 * (off - 0x8000) + i))).foldl (· + ·) 0
  else 0

/-! ## What the device sends (R200, R201) -/

/-- Max Read Request Size in bytes. -/
def readSize (s : State) : Nat := 128 * 2 ^ s.link.cfg.mrrs

/-- The memory reads that fetch `len` bytes of a command: none above the Max Read Request Size. -/
def readRequests (s : State) (len : Nat) : List Nat :=
  (List.range (ceilDiv len (readSize s))).map fun i => min (readSize s) (len - readSize s * i)

/-- Non-posted requests outstanding: those of writes whose data moves, at most 4,096 at a time. -/
def nonPosted (s : State) : Nat :=
  min 4096 ((s.nv.cmds.filter fun c => c.phase = .buffered).map fun c => match nsAt s c.e.nsid with
    | some n => (readRequests s (512 * sectorCount n c.e)).length
    | none => 0).sum

/-- What a posted write carries. -/
inductive PostedWrite where
  | readData | completionEntry | message
  deriving DecidableEq, Repr

/-- The Relaxed Ordering attribute that a posted write may carry: that of read data alone, while it is enabled. -/
def mayRelax (s : State) : PostedWrite → Bool
  | .readData => s.link.cfg.relaxed
  | .completionEntry => false
  | .message => false

end Sys2Proof.Machine
end

