-- ==== Sys2Proof/Machine/Image.lean ====
section
/-! DEFINITION. The bytes of a Folio bank and of a training record, as they stand in the Codex array (R6, R348 to R353,
R358 to R361, R366). -/

namespace Sys2Proof.Machine

/-! ## The regions of a bank (Table 15.1) -/

/-- The word of `n` bytes that `x` spells, at `base`, as the byte at `off`. -/
def wordByte (base n x off : Nat) : Option Byte := if base ≤ off then (leBytes n x)[off - base]? else none

/-- A slot of an image: its value in the low bits of 4 or 8 bytes (R352). -/
def slotByte (f : FolioImage) (off : Nat) : Option Byte :=
  (fieldRows.find? fun r => decide (r.off ≤ off) && decide (off < r.off + r.len)).bind fun r =>
    wordByte r.off r.len (imageField f (r.off / 4)) off

/-- An entry of the echelon table: 64 bytes (Table 15.9). -/
def echelonBytes (e : EchelonEntry) : List Byte :=
  leBytes 8 e.capacity ++ leBytes 8 (2 ^ 63 + 2 ^ 24 * e.spares.length + 2 ^ 16 * e.lbaf + 2 ^ 8 * e.nsid + e.k)
    ++ (List.range 18).flatMap (fun p => leBytes 1 (natAt e.positions p))
    ++ (List.range 4).flatMap (fun i => leBytes 1 (natAt e.spares i)) ++ leBytes 26 0

/-- A Roster source entry: 16 bytes, and a lane-table entry: 2 bytes (Table 15.11). -/
def sourceBytes (r : RosterSource) : List Byte :=
  leBytes 4 r.present.toNat ++ leBytes 4 (2 ^ 8 * r.ldpcProfile + r.dieProfile) ++ leBytes 8 0
def laneBytes (e : LaneEntry) : List Byte := leBytes 2 (2 ^ 15 + 2 ^ 8 * e.lane + e.slot)

/-- A signed byte. -/
def intByte (x : Int) : Nat := (BitVec.ofInt 8 x).toNat

/-- Bytes 0x000 to 0x04F of a die profile (Table 15.12), a maximum time in [31:16] of its word. -/
def profileHead (g : DieProfile) : List Byte :=
  let time := fun (x : Nat) => leBytes 4 (2 ^ 16 * x)
  leBytes 4 ((if g.valid then 2 ^ 31 else 0) + 2 ^ 16 * g.densityTb + 2 ^ 8 * g.planes + g.cell)
    ++ leBytes 4 (2 ^ 16 * g.pages + g.blocks) ++ leBytes 4 (2 ^ 16 * g.pslcPages + g.spareBytes)
    ++ leBytes 4 (2 ^ 16 * g.maxRate)
    ++ time g.tRead ++ time g.tReadPslc ++ time g.tProg ++ time g.tProgPslc ++ time g.tErase ++ time g.tErasePslc
    ++ time g.tPsusp ++ time g.tEsusp ++ time g.tReset ++ leBytes 4 g.minRunProg ++ leBytes 4 g.minRunErase
    ++ leBytes 4 0 ++ leBytes 4 (2 ^ 8 * g.retryCount)
    ++ leBytes 4 (2 ^ 24 * intByte g.offsetMax + 2 ^ 16 * intByte g.offsetMin + 2 ^ 8 * g.soft3Step + g.soft2Step)
    ++ leBytes 4 g.tSoft2 ++ leBytes 4 g.tSoft3

/-- Byte `o` of a die profile: its head, timing sets, features and retry entries. -/
def profileByte (g : DieProfile) (o : Nat) : Option Byte :=
  if o < 0x80 then (profileHead g)[o]?
  else if o < 0x180 then (g.timing.find? fun t => t.1 = (o - 0x80) / 32).bind fun t =>
    (leBytes 32 (2 ^ 31 + t.2))[(o - 0x80) % 32]?
  else if o < 0x200 then (g.functions[(o - 0x180) / 8]?).bind fun x =>
    (leBytes 8 (2 ^ 56 * x.1 + 2 ^ 48 * x.2.1 + 2 ^ 40 * x.2.2))[o % 8]?
  else (g.retries[(o - 0x200) / 16]?).bind fun l => (l[o % 16]?).map fun x => BitVec.ofInt 8 x

/-- A namespace default entry: 16 bytes (Table 15.10). -/
def nsDefaultBytes (n : NsDefault) : List Byte :=
  leBytes 8 n.size ++ leBytes 4 (2 ^ 31 + 2 ^ 8 * n.lbaf + n.nsid) ++ leBytes 4 0

/-- Bytes 0x00 to 0x1F of the header (Table 15.2). -/
def bankHeader (f : FolioImage) : List Byte :=
  leBytes 8 (if f.headerOk then 0x494C4F46 else 0) ++ leBytes 4 (2 ^ 8 + f.schema) ++ leBytes 4 0 ++ leBytes 8 f.sequence
    ++ leBytes 8 0

/-- The byte that a field of the image spells at an offset. -/
def fieldByte (f : FolioImage) (off : Nat) : Option Byte :=
  if off < 0x100 then (bankHeader f)[off]?
  else if 0x110 ≤ off && decide (off < 0x138) then (leBytes 40 f.model)[off - 0x110]?
  else if 0x200 ≤ off && decide (off < 0x300) then (leBytes 256 f.fru)[off - 0x200]?
  else if 0x1000 ≤ off && decide (off < 0x2000) then
    (f.echelons.find? fun e => e.echelon = (off - 0x1000) / 64).bind fun e => (echelonBytes e)[off % 64]?
  else if 0x3000 ≤ off && decide (off < 0x3080) then
    (f.namespaces[(off - 0x3000) / 16]?).bind fun n => (nsDefaultBytes n)[off % 16]?
  else if 0x4000 ≤ off && decide (off < 0x4400) then
    (f.roster.find? fun r => r.channel = (off - 0x4000) / 16).bind fun r => (sourceBytes r)[off % 16]?
  else if 0x4400 ≤ off && decide (off < 0x5400) then
    (f.lanes.find? fun e => 32 * e.channel + e.target = (off - 0x4400) / 2).bind fun e => (laneBytes e)[off % 2]?
  else if 0x8000 ≤ off && decide (off < 0x10000) then
    (f.profiles[(off - 0x8000) / 0x800]?).bind fun g => if g.valid then profileByte g (off % 0x800) else none
  else slotByte f off

/-- A byte of a bank below its training area: one that no field spells is as the image lists it, else zero. -/
def bodyByte (f : FolioImage) (off : Nat) : Byte :=
  match mapGet off f.rest with
  | some b => BitVec.ofNat 8 b
  | none => (fieldByte f off).getD 0

/-- The bank CRC: over bytes 0x0_0000 to 0xB_FFFF, its own taken as zero (R349). -/
def bankCrc (f : FolioImage) : Word32 :=
  crc32c ((List.range 0xC0000).map fun o => if 0xFC ≤ o && decide (o < 0x100) then 0 else bodyByte f o)

/-- A byte of a bank below its training area; of a bank whose CRC fails the CRC field differs. -/
def bankByte (f : FolioImage) (off : Nat) : Byte :=
  if 0xFC ≤ off && decide (off < 0x100) then
    ((leBytes 4 (if f.crcOk then bankCrc f else ~~~ (bankCrc f)).toNat)[off - 0xFC]?).getD 0
  else bodyByte f off

/-! ## Training records (Table 15.17) -/

/-- PAYLOAD of a record: of a flash channel the training bytes of its Roster entry; the delays of a DRAM subchannel are as
measured (a free value, log entry 174). -/
def trainingBytes (r : TrainRec) : List Byte :=
  if r.kind = 1 then
    (List.range 8).flatMap (ceBytes r.centres)
      ++ leBytes 8 (2 ^ 56 * intByte r.trainTemp + 2 ^ 48 * (r.trainCount % 256) + r.trainTime % 2 ^ 48) ++ leBytes 340 0
  else (List.range 476).map fun i => Config.freeByte (512 * r.seq + i)

/-- A training record: 512 bytes. -/
def trainRecBytes (r : TrainRec) : List Byte :=
  let body := leBytes 4 (2 ^ 24 + 2 ^ 16 * (r.kind % 256) + r.unit % 256) ++ leBytes 4 0
    ++ leBytes 8 (2 ^ 48 * (r.rate % 2 ^ 16) + r.mtch % 2 ^ 32) ++ leBytes 8 r.seq ++ leBytes 8 (r.timeMs % 2 ^ 48)
    ++ trainingBytes r
  body ++ leBytes 4 (crc32c body).toNat

end Sys2Proof.Machine
end

