-- ==== Sys2Proof/Machine/Window.lean ====
section
/-! DEFINITION. What a read of the Codex window gives (R6, R52, R252, R258, R348, R364, R366, R396, R404, R405, R411): the records
that the part's own engines keep, as bytes in their places, over the array that raw programs write. -/

namespace Sys2Proof.Machine

/-! ## Records as bytes -/

/-- A key record (Table 11.4); zeroised, its bytes 0x00 to 0x4B are zero. -/
def keyBytes (r : KeyRec) : List Byte :=
  let body := leBytes 4 (r.slot % 1024 + 2 ^ 16 + 2 ^ 24) ++ leBytes 4 r.gen ++ leBytes 8 r.accFrom
    ++ leBytes 56 r.wrapped.toNat
  (if r.zeroised then leBytes 76 0 else body ++ leBytes 4 (crc32c body).toNat)
    ++ leBytes 48 0 ++ leBytes 4 (if r.sweepDone then 0 else 0xFF)

/-- Bytes of VALUE that a runtime setting uses (Table 15.16). -/
def rtLength (key : Nat) : Nat :=
  match key / 0x10000 with
  | 1 => 4
  | 2 => 1
  | 3 => 64
  | 4 => 8
  | 5 => 96
  | 6 => 8
  | _ => 1

/-- A runtime setting (Table 15.15); a view is stored with its CRC (Table 13.2). -/
def rtBytes (r : RtRec) : List Byte :=
  let body := leBytes 4 r.key ++ leBytes 4 (r.schema % 256 + 2 ^ 8 + 2 ^ 16 * rtLength r.key) ++ leBytes 8 r.binding
    ++ leBytes 8 r.seq
    ++ (if r.key / 0x10000 = 3 then leBytes 60 r.value ++ leBytes 4 (crc32c (leBytes 60 r.value)).toNat ++ leBytes 36 0
      else leBytes 100 r.value)
  body ++ leBytes 4 (crc32c body).toNat

/-- A power-cycle record (R405). -/
def powerBytes (count : Nat) : List Byte :=
  let body := leBytes 4 count ++ leBytes 24 0
  body ++ leBytes 4 (crc32c body).toNat

/-- COUNT of the power-cycle record at place `p` of the two sectors' 4,096: the newest stands before place `pcRecords`,
and the sector that is not active holds none once it is erased, at 1,792 records in the active one (R405). -/
def powerCount (s : State) (p : Nat) : Option Nat :=
  let age := (s.cdx.pcRecords + 4095 - p) % 4096
  let held := (s.cdx.pcRecords + 4095) % 2048
  if s.cdx.powerCycles ≤ age || decide (held < age) && decide (1791 ≤ held) then none
  else some (s.cdx.powerCycles - age)

/-! ## Their places (Table 17.2) -/

/-- Byte `o` of records of `n` bytes one after the other. -/
def recordAt {α : Type} (n : Nat) (f : α → List Byte) (l : List α) (o : Nat) : Option Byte :=
  (l[o / n]?).bind fun r => (f r)[o % n]?

/-- A byte of a bank's sectors: what a raw program put there, a byte of the image, or in the half of the training area in use
a byte of its records. -/
def folioAt (s : State) (isB : Bool) (a o : Nat) : Option Byte :=
  if (s.cdx.mem.any fun c => c.1 = a) then none
  else if o < 0xC0000 then ((if isB then s.fol.bankB else s.fol.bankA).image?).map fun f => bankByte f o
  else if 0xC0000 + 0x20000 * s.fol.trHalf ≤ o && decide (o < 0xE0000 + 0x20000 * s.fol.trHalf) then
    recordAt 512 trainRecBytes (if isB then s.fol.trainB else s.fol.trainA) (o - (0xC0000 + 0x20000 * s.fol.trHalf))
  else none

/-- The byte at `a` of the record that stands there, if one does. -/
def recordByte (s : State) (a : Nat) : Option Byte :=
  let o := a % 65536
  match a / 65536 with
  | 128 => recordAt 64 spineBytes s.inv.spine0 o
  | 129 => recordAt 64 spineBytes s.inv.spine1 o
  | 130 => recordAt 128 rtBytes s.fol.rt0 o
  | 131 => recordAt 128 rtBytes s.fol.rt1 o
  | 142 => recordAt 64 dayBytes s.cdx.recRecords o
  | 143 => recordAt 64 dayBytes (s.cdx.recRecords.drop 1024) o
  | n =>
    if 132 ≤ n && decide (n < 138) then recordAt 128 keyBytes ((s.key.ring[n - 132]?).getD []) o
    else if 96 ≤ n && decide (n < 112) then folioAt s false a (a - 65536 * 96)
    else if 112 ≤ n && decide (n < 128) then folioAt s true a (a - 65536 * 112)
    else if n = 140 || n = 141 then ((powerCount s (2048 * (n - 140) + o / 32)).map powerBytes).bind fun l => l[o % 32]?
    else none

/-- A byte of the array as a read gives it: 0xFF in a sector with an erase in progress or suspended (R404). -/
def arrayByte (s : State) (a : Nat) : Byte :=
  if s.cdx.erasing = some (a / 65536) then 0xFF else (recordByte s a).getD (codexByte s a)

/-- A swap cell (R411); what an invalid one holds is open. -/
def swapBytes (cell : Nat) : Option Nat → List Byte
  | some g => leBytes 2 g ++ leBytes 2 (65535 - g % 65536)
  | none => (List.range 4).map fun i => Config.freeByte (4 * cell + i)

/-- A byte of the window (Table 17.1); the key segment reads zeros. -/
def windowByte (s : State) (a : Nat) : Byte :=
  if a < 0x4000000 then arrayByte s a
  else if a = 0x4001000 then BitVec.ofNat 8
    (s.cdx.colophon.zipIdx.foldl (fun m x => m + if x.1.locked then 2 ^ x.2 else 0) 0)
  else if 0x4001004 ≤ a && decide (a < 0x4001008) then ((swapBytes 0 s.cdx.swap0)[a % 4]?).getD 0
  else if 0x4001008 ≤ a && decide (a < 0x400100C) then ((swapBytes 1 s.cdx.swap1)[a % 4]?).getD 0
  else match s.cdx.colophon[(a - 0x4000000) / 512]? with
    | some g => if (a - 0x4000000) / 512 = 2 then 0 else segByte g (a % 512)
    | none => 0

end Sys2Proof.Machine
end

