-- ==== Sys2Proof/Machine/Flags.lean ====
section
/-! DEFINITION. The register file as a host reads it: the sticky registers and their clears (R208, R237, R381), the
BAR2 window (R207 to R210, R294, R322, R345, R380, R392, R414, R415, R431) and the BAR0 registers (R213). -/

namespace Sys2Proof.Machine

/-! ## Sticky registers (R381) -/

/-- The sticky register of an INDEX. -/
def stickyAt (s : State) (idx : Nat) : Option Word32 :=
  match idx with
  | 0 => some s.esc.sticky
  | 1 => some s.coast.sticky
  | 2 => some s.key.sticky
  | 3 => some s.dram.sticky
  | 4 => some s.day.sticky
  | _ => none

/-- The sticky register of an INDEX takes a value. -/
def setSticky (idx : Nat) (v : Word32) (s : State) : State :=
  match idx with
  | 0 => { s with esc := { s.esc with sticky := v } }
  | 1 => { s with coast := { s.coast with sticky := v } }
  | 2 => { s with key := { s.key with sticky := v } }
  | 3 => { s with dram := { s.dram with sticky := v } }
  | 4 => { s with day := { s.day with sticky := v } }
  | _ => s

/-- The bits of a mask are cleared. -/
def clearSticky (idx : Nat) (mask : Word32) (s : State) : State :=
  match stickyAt s idx with
  | some v => setSticky idx (v &&& ~~~ mask) s
  | none => s

/-- STICKY_RW1C_WRITE (access code RW1C of Table 0.2, R8). -/
def execStickyRw1cWrite (idx : Nat) (mask : Word32) (s : State) : Outcome :=
  .next (if barOn s then clearSticky idx mask s else s)

/-- STICKY_CLEAR (C0h): INDEX is dword 10 [6:0], MASK dword 11; dword 0 of the completion is the old value. -/
def execStickyClear (slot : Nat) (s : State) : Outcome :=
  .next (runAdmin slot (fun e => e.opcode = 0xC0) (fun c t =>
    let i := bitsOf c.e.dw10 6 0
    match stickyAt t i with
    | some v => finishOk slot v.toNat (clearSticky i (BitVec.ofNat 32 c.e.dw11) t)
    | none => finishErr slot scField t) s)

/-- A write to KS_ESC_CLEAR: 1 clears KS_ESC_QMAX and KS_ESC_STALL_US. -/
def clearEsc (value : Word32) (s : State) : State :=
  if value.getLsbD 0 then { s with esc := { s.esc with qMax := 0, stallUs := 0 } } else s

/-- A write to KS_DRAM_CLEAR: 1 clears KS_DRAM_LATE. -/
def clearLate (value : Word32) (s : State) : State :=
  if value.getLsbD 0 then { s with dram := { s.dram with late := List.replicate 5 0 } } else s

/-- KS_ESC_CLEAR (R163). -/
def execKsEscClear (value : Word32) (s : State) : Outcome := .next (if barOn s then clearEsc value s else s)

/-- KS_DRAM_CLEAR (R345). -/
def execKsDramClear (value : Word32) (s : State) : Outcome := .next (if barOn s then clearLate value s else s)

/-! ## Writes by offset (R207) -/

/-- A write of exactly one aligned dword of BAR2 acts where the register is RW1C or WO; every other write is ignored. -/
def writeBar2 (off size : Nat) (value : Word32) (s : State) : State :=
  if size != 4 || off % 4 != 0 then s
  else if 0x200 ≤ off && decide (off < 0x214) then clearSticky ((off - 0x200) / 4) value s
  else match off with
    | 0x0130 => if value.getLsbD 0 then requestTest s else s
    | 0x0134 => clearPools value s
    | 0x058C => clearLate value s
    | 0x200C => clearEsc value s
    | 0x8000 => setCxPage value s
    | 0x8004 => setCxAddr value s
    | 0x8008 => writeCxData value 0 none s
    | _ => s

/-- REGISTER_WRITE: BAR0 and BAR4 registers without behaviour of their own take the value; of BAR2 the RW1C and WO
registers act (R207). A write with BAR 255 is a configuration write, for which the table has no row (DESIGN CHOICE, log entry
170). Memory writes reach the part in D0 outside Dormant, configuration writes from the first L0 on. -/
def execRegisterWrite (bar off size value : Nat) (s : State) : Outcome :=
  .next (if bar = 255 then (if configOn s && size = 4 then configWrite off value s else s)
    else if ! awake s || s.link.d3hot then s
    else if bar = 0 then writeBar0 off size value s
    else if bar = 2 then writeBar2 off size (BitVec.ofNat 32 value) s
    else if bar = 4 && off % 4 = 0 && size = 4 && decide (off < 0x8000) then
      writeMsix (off / 4) value s
    else s)

/-! ## Mode, start and pool registers (Tables 1.6, 7.8, 8.2) -/

/-- Shelf pages loaded, in percent; none are before the ready point or in Recovery. -/
def warmPercent (s : State) : Nat :=
  if ! s.mode.ready || s.mode.mode = .recovery then 0 else if s.mode.warmTotal = 0 then 100 else 100 * s.mode.pagesLoaded / s.mode.warmTotal

def regMode (s : State) : Nat :=
  2 ^ 28 * modeCode s.mode.mode + bitAt 27 s.mode.idle + bitAt 26 s.mode.preservePend + bitAt 25 s.mode.degraded
    + bitAt 24 s.mode.warm + 65536 * s.mode.reason + warmPercent s

def regStartFlags (s : State) : Nat :=
  bitAt 7 s.mode.folioBankB + bitAt 6 s.mode.schema3 + bitAt 5 s.mode.keyFail + bitAt 4 s.mode.oldSet
    + bitAt 3 s.mode.fullFlash + bitAt 2 s.mode.fullDram + bitAt 1 s.mode.libRetry + bitAt 0 s.mode.firstStart

def regCoast (s : State) : Nat :=
  2 ^ 24 * min 255 s.coast.failCount + 64 * s.coast.lossBefore
    + bitAt 5 (! s.pins.holdupSupLow && ! s.pins.holdupDevLow) + bitAt 4 s.pins.pwrfailN
    + bitAt 3 (s.coast.test != .none && s.coast.test != .requested) + bitAt 2 s.coast.armed + bitAt 1 (s.fol.inForce.isSome && policyArmed s)

/-- One value for each pool. -/
def regPool (f : Pool → Nat) (s : State) (n : Nat) : Nat := match s.pools.pool[n]? with | some p => f p | none => 0

/-- Block 0x0100 to 0x01FF. -/
def readMode (s : State) (off : Nat) : Nat :=
  let n := off / 4 % 8
  if off = 0x100 then regMode s
  else if off = 0x104 then s.mode.timeMs
  else if off = 0x108 then regStartFlags s
  else if off = 0x10C then s.mode.startLink
  else if off < 0x128 then natAt s.mode.startLog ((off - 0x110) / 4)
  else if off = 0x128 then regCoast s
  else if off = 0x12C then s.coast.holdupLast
  else if off < 0x140 then 0
  else if off < 0x160 then regPool (fun p => p.free) s n
  else if off < 0x180 then regPool (fun p => p.minFree) s n
  else if off < 0x1A0 then regPool (fun p => p.fall) s n
  else if off < 0x1C0 then regPool (fun p => p.stall) s n
  else if off < 0x1E0 then regPool (fun p => p.stallUs) s n
  else 0

/-! ## Identity (Table 9.7) -/

/-- Five words of the serial, the version in two. -/
def readIdentity (s : State) (off : Nat) : Nat :=
  let schema := match folioInForce s with | some f => f.schema | none => 0
  if off = 0 then 0x96402C4F
  else if off = 4 then 0xB010
  else if off = 8 then 256 * schema + 4
  else if 0x10 ≤ off && decide (off < 0x24) then
    if s.upd.identOn then bytesNumber ((serialBytes s).drop (off - 0x10) |>.take 4) else 0
  else if off = 0x28 then s.upd.identLo % 2 ^ 32
  else if off = 0x2C then s.upd.identLo / 2 ^ 32 % 2 ^ 32
  else 0

/-! ## Update and Codex status (Tables 17.8, 18.9) -/

/-- Four bits of a block. -/
def blockBits (b : SetBlock) : Nat :=
  bitAt 3 (b.written && b.facts.headerOk) + bitAt 2 b.arm + bitAt 1 b.reject + bitAt 0 b.confirmed

def regSet (s : State) : Nat :=
  2 ^ 24 * s.upd.lastCheck + bitAt 19 s.upd.held + bitAt 18 s.upd.writing.isSome + 4096 * blockBits s.upd.block1
    + 256 * blockBits s.upd.block0 + activeBlock s

/-- The relay in progress: the one sent before the one received. -/
def regRelay (s : State) : Nat :=
  let r := s.upd.relay
  let st := if r.state != 0 then r.state else if r.rx then 1 else 0
  2 ^ 24 * (if r.state != 0 then r.origin else if r.rx then r.rxOrigin else 0)
    + 65536 * (if r.state != 0 then r.next else 0) + 256 * r.skipped + st

def regCodex (s : State) : Nat :=
  bitAt 25 (activeBlock s = 1) + bitAt 24 s.mode.manufacturing + bitAt 23 s.cdx.cont.isSome + bitAt 22 s.cdx.erSusp
    + bitAt 21 s.cdx.erasing.isSome + bitAt 20 s.cdx.progging.isSome + s.cdx.lastErase

/-! ## Sensors, Librarian, Daybook, DRAM (Tables 14.9, 16.4) -/

def regTemp (s : State) (i : Nat) : Nat := 65536 * signed 2 (s.sens.tsMax.getD i 0) + signed 2 (s.sens.ts.getD i 0)

def regTempFlash (s : State) : Nat :=
  match hotDie s with
  | none => 0
  | some d => 2 ^ 24 * signed 1 (flashTemp s / 8) + 65536 * signed 1 (meanOf (flashTemps s) / 8) + 256 * d.channel
      + d.target

def regTempComp (s : State) : Nat :=
  bitAt 18 s.sens.cap10 + bitAt 17 s.pins.thermAlertLow + bitAt 16 s.sens.throttle
    + if s.sens.sampled then kelvin (composite s) else 0

def regLib (s : State) : Nat :=
  2 ^ 30 * (if s.lib.started then s.lib.state else 0) + 256 * (s.lib.restartsMs.filter fun t => decide (s.clock.opMs < 600000 + t)).length
    + s.lib.restarts

def regDram (s : State) : Nat :=
  65536 * s.dram.rate + (if s.fol.inForce.isSome then 4096 * fld s 0x2008 else 0) + bitAt 11 (s.dram.brake.any fun b => b)
    + bitAt 10 (! s.dram.doubled.isEmpty) + bitAt 9 s.dram.selfRef

/-- Spare rows that an entry of the map may still take. -/
def freeSpares (s : State) : Nat :=
  let banks := s.dram.map.filter fun e => e.whole
  let rows := s.dram.map.filter fun e => ! e.whole && ! banks.any fun b => spareInBank s b.addr e.spare
  spareCount s - rows.length - banks.length * bankRows s

def regRetired (s : State) : Nat :=
  256 * (s.dram.map.filter fun e => ! e.whole).length + (s.dram.map.filter fun e => e.whole).length

/-- Block 0x0400 to 0x07FF. -/
def readSensors (s : State) (off : Nat) : Nat :=
  if off < 0x430 then regTemp s ((off - 0x400) / 4)
  else if off = 0x430 then regTempFlash s
  else if off = 0x434 then regTempComp s
  else if 0x440 ≤ off && decide (off < 0x468) then natAt s.sens.rails ((off - 0x440) / 4)
  else if off = 0x468 then s.sens.v12
  else if off = 0x470 then regLib s
  else if off = 0x480 then newestRecord s
  else if off = 0x484 then s.day.flushed
  else if off = 0x488 then s.day.stallUs
  else if off = 0x500 then regDram s
  else if 0x520 ≤ off && decide (off < 0x540) then natAt s.dram.corr ((off - 0x520) / 4)
  else if 0x540 ≤ off && decide (off < 0x560) then natAt s.dram.uncorr ((off - 0x540) / 4)
  else if 0x560 ≤ off && decide (off < 0x574) then natAt s.dram.late ((off - 0x560) / 4)
  else if off = 0x580 then s.dram.brakes
  else if off = 0x584 then freeSpares s
  else if off = 0x588 then regRetired s
  else if off = 0x5C0 then regCodex s
  else if off = 0x5C4 then s.cdx.eFails
  else if off = 0x5C8 then s.cdx.flags.length
  else 0

/-! ## Peloton and echelons (Tables 12.11, 13.10) -/

def regPort (s : State) (p : Nat) : Nat :=
  let x := portAt s p
  2 ^ 29 * x.state + bitAt 28 x.partner + bitAt 27 x.aliveTx + bitAt 26 x.level1 + 2 ^ 24 * x.width
    + 65536 * x.member + 256 * x.rate + x.fence

def regSelf (s : State) : Nat :=
  bitAt 31 s.pel.assigned + bitAt 30 s.pel.captain + 65536 * (if s.lib.started then s.pel.seen.length + 1 else 0)
    + 256 * s.pel.capMember + s.pel.self

/-- The member's state code of an echelon: that of its position, or spare. -/
def ownState (s : State) (x : EchelonSt) : Nat :=
  match positionOf x.view s.pel.self with
  | some p => (placeAt x.view p).2
  | none => match ecConfig s x.echelon with
    | some c => if c.spares.contains s.pel.self then 5 else 0
    | none => 0

/-- ANA state codes of KS_EC_STAT. -/
def anaCode (a : Nat) : Nat := if a = 15 then 4 else a - 1

def regEchelon (s : State) (e : Nat) : Nat :=
  match echAt s e with
  | none => 0
  | some x => 2 ^ 29 * ownState s x + 2 ^ 26 * anaCode x.ana
      + 2 ^ 21 * ((positionOf x.view s.pel.self).getD 0)
      + 65536 * (x.view.places.filter fun p => p.2 != 1).length + x.view.viewNum % 65536

/-- Rebuild progress of a rebuilding position. -/
def regRebuild (s : State) (e : Nat) : Nat :=
  match echAt s e with
  | none => 0
  | some x => if ownState s x = 3 then min 10000 (10000 * x.pointer / max 1 (ecStripes s e)) else 0

/-- Block 0x0800 to 0x0FFF. -/
def readPeloton (s : State) (off : Nat) : Nat :=
  if off < 0x810 then regPort s ((off - 0x800) / 4)
  else if off = 0x810 then regSelf s
  else if 0x820 ≤ off && decide (off < 0x830) then (portAt s ((off - 0x820) / 4)).crcErr
  else if 0x830 ≤ off && decide (off < 0x840) then (portAt s ((off - 0x830) / 4)).replays
  else if off = 0x840 then s.pel.failover
  else if off = 0x844 then s.pel.backoffs
  else if off = 0x848 then s.pel.dups
  else if off = 0x84C then s.pel.stale
  else if off = 0x850 then s.pel.unroute
  else if off = 0x854 then s.pel.locks.length
  else if off = 0x860 then regRelay s
  else if off = 0x864 then s.upd.relay.bytes
  else if off < 0x900 then 0
  else if off < 0xA00 then regEchelon s ((off - 0x900) / 4)
  else if off < 0xB00 then (slotsUsed s ((off - 0xA00) / 4) true).length
  else if off < 0xC00 then regRebuild s ((off - 0xB00) / 4)
  else (routeAt s ((off - 0xC00) / 4)).toNat

/-! ## Data-path counters (Tables 5.6, 6.9) -/

def chanOf (s : State) (n : Nat) : Option Channel := mapGet n s.fl.chans

def regChannel (s : State) (n : Nat) : Nat :=
  match chanOf s n with
  | none => 2 ^ 31
  | some c =>
    let on := s.fl.dies.filter fun d => d.channel = n && ! c.inForce.retired.getLsbD d.target
    let st := if c.inForce.chState = 1 then 1 else if c.training then 2
      else if c.held || (! on.isEmpty && on.all fun d => d.held) then 3 else 0
    2 ^ 30 * st + 65536 * (c.inForce.dataRate / 100) + c.inForce.generation % 65536

/-- Targets that are present, not retired and not held. -/
def regDies (s : State) (n : Nat) : Nat :=
  match chanOf s n with
  | none => 0
  | some c => (List.range 32).foldl (fun a t =>
      a + bitAt t (c.inForce.present.getLsbD t && ! c.inForce.retired.getLsbD t
        && ! s.fl.dies.any fun d => d.channel = n && d.target = t && d.held)) 0

/-- A count of a channel. -/
def chanCount (f : Channel → Nat) (s : State) (n : Nat) : Nat := match chanOf s n with | some c => f c | none => 0

/-- Block 0x2000 to 0x25FF. -/
def readCounters (s : State) (off : Nat) : Nat :=
  let n := off / 4 % 64
  if off = 0x2000 then 65536 * queueUse s + s.esc.contexts.length
  else if off = 0x2004 then s.esc.qMax
  else if off = 0x2008 then s.esc.stallUs
  else if off < 0x2010 then 0
  else if off < 0x202C then natAt s.esc.steps ((off - 0x2010) / 4)
  else if off = 0x2030 then s.esc.foxSet
  else if off = 0x2034 then s.esc.foxBite
  else if off = 0x2038 then s.esc.tagFail
  else if off < 0x2100 then 0
  else if off < 0x2200 then regChannel s n
  else if off < 0x2300 then regDies s n
  else if off < 0x2400 then chanCount (fun c => c.tout) s n
  else if off < 0x2500 then chanCount (fun c => c.susp) s n
  else chanCount (fun c => c.capped) s n

/-! ## The window -/

/-- A dword of the Daybook tail: record n lies at 64 × (n mod 64) (R392). -/
def readTail (s : State) (off : Nat) : Nat :=
  match s.day.tail.find? fun r => r.seq % 64 = off / 64 with
  | none => 0
  | some r => (pagePart { len := 64, fields := recordFields 0 r } (off % 64) 4).fields.foldl
      (fun a f => a + f.2.2 * 256 ^ f.1) 0

/-- Four bytes of the aperture: a status read returns the status byte, a flag-cell query the cell of its sector, and any
other read the window. -/
def readAperture (s : State) (off : Nat) : Nat :=
  let a := s.cdx.cxPage * 16384 + off
  let one := fun i =>
    if s.cdx.statusNext then statusByte s
    else match s.cdx.flagNext with
      | some n => bitAt 0 (flagged s n)
      | none => (windowByte s (a + i)).toNat
  one 0 + 256 * one 1 + 65536 * one 2 + 16777216 * one 3

/-- The register at an aligned offset of BAR2; reserved offsets read zero. -/
def bar2Read (s : State) (off : Nat) : Word32 :=
  BitVec.ofNat 32
    (if ! awake s then 0
    else if off < 0x100 then readIdentity s off
    else if off < 0x1E0 then readMode s off
    else if off = 0x1E0 then regSet s
    else if off < 0x200 then 0
    else if off < 0x214 then (match stickyAt s ((off - 0x200) / 4) with | some v => v.toNat | none => 0)
    else if off < 0x400 then 0
    else if off < 0x800 then readSensors s off
    else if off < 0x1000 then readPeloton s off
    else if off < 0x2000 then readTail s (off - 0x1000)
    else if off < 0x2600 then readCounters s off
    else if 0xC000 ≤ off && decide (off < 0x10000) && passThroughOn s then readAperture s (off - 0xC000)
    else 0)

/-- CAP (Table 10.1): MQES, CQR, AMS, TO, CSS, MPSMAX. -/
def capValue : Nat := 0xFFFF + 2 ^ 16 + 2 ^ 17 + 6 * 2 ^ 24 + 2 ^ 37 + 4 * 2 ^ 52

/-- The register at an aligned offset of BAR0. -/
def bar0Read (s : State) (off : Nat) : Word32 :=
  if ! awake s then 0
  else match off with
    | 0x00 => BitVec.ofNat 32 capValue
    | 0x04 => BitVec.ofNat 32 (capValue / 2 ^ 32)
    | 0x08 => 0x00020100#32
    | 0x0C => s.nv.intms
    | 0x10 => s.nv.intms
    | 0x14 => s.nv.cc
    | 0x1C => BitVec.ofNat 32 (bitAt 0 s.nv.rdy + bitAt 1 s.nv.cfs + 4 * s.nv.shst)
    | 0x24 => s.nv.aqa
    | 0x28 => s.nv.asq.extractLsb' 0 32
    | 0x2C => s.nv.asq.extractLsb' 32 32
    | 0x30 => s.nv.acq.extractLsb' 0 32
    | 0x34 => s.nv.acq.extractLsb' 32 32
    | _ => 0

/-! ## Memory reads (R202, R206, R207) -/

/-- The aligned dword at `off` of a BAR. -/
def barDword (s : State) (bar off : Nat) : Nat :=
  if bar = 0 then (bar0Read s off).toNat else if bar = 2 then (bar2Read s off).toNat else bar4Read s off

/-- A memory read of `size` bytes at `off`: of BAR2 any 1 to 8 bytes within one aligned 8-byte unit, each aligned dword read
for itself; no answer in Dormant and, configuration requests apart, in D3hot. -/
def barRead (s : State) (bar off size : Nat) : Option Nat :=
  let u := off / 8 * 8
  if ! barOn s || size = 0 || decide (8 < off % 8 + size) then none
  else some ((barDword s bar u + 2 ^ 32 * barDword s bar (u + 4)) / 256 ^ (off % 8) % 256 ^ size)

/-- A memory read at a host address; none where the device answers Unsupported Request, or not at all. -/
def memoryRead (s : State) (addr size : Nat) : Option Nat :=
  (barOf s addr).bind fun x => barRead s x.1 x.2 size

end Sys2Proof.Machine
end

