-- ==== Sys2Proof/Machine/Dispatch.lean ====
section
/-! DEFINITION. The dispatch: one arm per command, each one direct call of its meaning. -/

namespace Sys2Proof.Machine

def exec (i : Instr) (s : State) : Host.Outcome State Fault Refusal :=
  match i with
  | .perstDeassert f => Sys2Proof.Machine.execPerstDeassert f s
  | .perstAssert lowNs => Sys2Proof.Machine.execPerstAssert lowNs s
  | .linkUp ms rate width flit => Sys2Proof.Machine.execLinkUp ms rate width flit s
  | .dStateChange d3hot => Sys2Proof.Machine.execDStateChange d3hot s
  | .poisonedTlp k ecrc => Sys2Proof.Machine.execPoisonedTlp k ecrc s
  | .completionTimeout k => Sys2Proof.Machine.execCompletionTimeout k s
  | .unsupportedRequest nonPosted => Sys2Proof.Machine.execUnsupportedRequest nonPosted s
  | .malformedTlp kind => Sys2Proof.Machine.execMalformedTlp kind s
  | .correctableLinkError kind => Sys2Proof.Machine.execCorrectableLinkError kind s
  | .sqTailDoorbell qid tail => Sys2Proof.Machine.execSqTailDoorbell qid tail s
  | .cqHeadDoorbell qid head => Sys2Proof.Machine.execCqHeadDoorbell qid head s
  | .commandFetch slot qid e => Sys2Proof.Machine.execCommandFetch slot qid e s
  | .interruptCoalesceExpiry vector => Sys2Proof.Machine.execInterruptCoalesceExpiry vector s
  | .registerWrite bar off size value => Sys2Proof.Machine.execRegisterWrite bar off size value s
  | .stickyRw1cWrite idx mask => Sys2Proof.Machine.execStickyRw1cWrite idx mask s
  | .ksPoolClear value => Sys2Proof.Machine.execKsPoolClear value s
  | .ksEscClear value => Sys2Proof.Machine.execKsEscClear value s
  | .ksDramClear value => Sys2Proof.Machine.execKsDramClear value s
  | .ksHoldupRun value => Sys2Proof.Machine.execKsHoldupRun value s
  | .ksCxPageWrite value => Sys2Proof.Machine.execKsCxPageWrite value s
  | .ksCxAddrWrite value => Sys2Proof.Machine.execKsCxAddrWrite value s
  | .ksCxDataWrite value gapNs spell => Sys2Proof.Machine.execKsCxDataWrite value gapNs spell s
  | .deleteIoSubmissionQueue slot => Sys2Proof.Machine.execDeleteIoSubmissionQueue slot s
  | .createIoSubmissionQueue slot => Sys2Proof.Machine.execCreateIoSubmissionQueue slot s
  | .getLogPage slot => Sys2Proof.Machine.execGetLogPage slot s
  | .deleteIoCompletionQueue slot => Sys2Proof.Machine.execDeleteIoCompletionQueue slot s
  | .createIoCompletionQueue slot => Sys2Proof.Machine.execCreateIoCompletionQueue slot s
  | .identify slot => Sys2Proof.Machine.execIdentify slot s
  | .abort slot => Sys2Proof.Machine.execAbort slot s
  | .setFeaturesArbitration slot => Sys2Proof.Machine.execSetFeaturesArbitration slot s
  | .setFeaturesPowerManagement slot => Sys2Proof.Machine.execSetFeaturesPowerManagement slot s
  | .setFeaturesTemperatureThreshold slot => Sys2Proof.Machine.execSetFeaturesTemperatureThreshold slot s
  | .setFeaturesNumberOfQueues slot => Sys2Proof.Machine.execSetFeaturesNumberOfQueues slot s
  | .setFeaturesInterruptCoalescing slot => Sys2Proof.Machine.execSetFeaturesInterruptCoalescing slot s
  | .setFeaturesIntVectorConfig slot => Sys2Proof.Machine.execSetFeaturesIntVectorConfig slot s
  | .setFeaturesWriteAtomicity slot => Sys2Proof.Machine.execSetFeaturesWriteAtomicity slot s
  | .setFeaturesAsyncEventConfig slot => Sys2Proof.Machine.execSetFeaturesAsyncEventConfig slot s
  | .setFeaturesTimestamp slot ms => Sys2Proof.Machine.execSetFeaturesTimestamp slot ms s
  | .setFeaturesUnsupported slot => Sys2Proof.Machine.execSetFeaturesUnsupported slot s
  | .getFeatures slot => Sys2Proof.Machine.execGetFeatures slot s
  | .asynchronousEventRequest slot => Sys2Proof.Machine.execAsynchronousEventRequest slot s
  | .namespaceCreate slot nsze ncap lbaf pi => Sys2Proof.Machine.execNamespaceCreate slot nsze ncap lbaf pi s
  | .namespaceDelete slot => Sys2Proof.Machine.execNamespaceDelete slot s
  | .namespaceAttach slot => Sys2Proof.Machine.execNamespaceAttach slot s
  | .namespaceDetach slot => Sys2Proof.Machine.execNamespaceDetach slot s
  | .firmwareImageDownload slot facts => Sys2Proof.Machine.execFirmwareImageDownload slot facts s
  | .firmwareCommitWrite slot readBackOk => Sys2Proof.Machine.execFirmwareCommitWrite slot readBackOk s
  | .firmwareCommitWriteArm slot readBackOk => Sys2Proof.Machine.execFirmwareCommitWriteArm slot readBackOk s
  | .firmwareCommitArm slot => Sys2Proof.Machine.execFirmwareCommitArm slot s
  | .firmwareCommitActivate slot readBackOk => Sys2Proof.Machine.execFirmwareCommitActivate slot readBackOk s
  | .firmwareCommitInvalid slot => Sys2Proof.Machine.execFirmwareCommitInvalid slot s
  | .formatNvmRelease slot => Sys2Proof.Machine.execFormatNvmRelease slot s
  | .formatNvmCryptoErase slot => Sys2Proof.Machine.execFormatNvmCryptoErase slot s
  | .securityReceive slot => Sys2Proof.Machine.execSecurityReceive slot s
  | .opalGenkey slot session nsid r => Sys2Proof.Machine.execOpalGenkey slot session nsid r s
  | .opalSetRange slot session nsid r start len => Sys2Proof.Machine.execOpalSetRange slot session nsid r start len s
  | .opalSetLocking slot session nsid r readLocked writeLocked => Sys2Proof.Machine.execOpalSetLocking slot session nsid r readLocked writeLocked s
  | .opalRevert slot session => Sys2Proof.Machine.execOpalRevert slot session s
  | .opalSessionMethod slot session method authority nsid r arg authOk => Sys2Proof.Machine.execOpalSessionMethod slot session method authority nsid r arg authOk s
  | .sanitizeCryptoErase slot => Sys2Proof.Machine.execSanitizeCryptoErase slot s
  | .sanitizeBlockErase slot => Sys2Proof.Machine.execSanitizeBlockErase slot s
  | .sanitizeInvalid slot => Sys2Proof.Machine.execSanitizeInvalid slot s
  | .stickyClear slot => Sys2Proof.Machine.execStickyClear slot s
  | .liveFieldSet slot value => Sys2Proof.Machine.execLiveFieldSet slot value s
  | .liveFieldGet slot => Sys2Proof.Machine.execLiveFieldGet slot s
  | .retireDie slot => Sys2Proof.Machine.execRetireDie slot s
  | .retireChannel slot => Sys2Proof.Machine.execRetireChannel slot s
  | .folioStage slot => Sys2Proof.Machine.execFolioStage slot s
  | .folioCommit slot img readBackOk => Sys2Proof.Machine.execFolioCommit slot img readBackOk s
  | .foxReport slot => Sys2Proof.Machine.execFoxReport slot s
  | .invalidAdminOpcode slot => Sys2Proof.Machine.execInvalidAdminOpcode slot s
  | .flush slot => Sys2Proof.Machine.execFlush slot s
  | .write slot => Sys2Proof.Machine.execWrite slot s
  | .read slot => Sys2Proof.Machine.execRead slot s
  | .compare slot data => Sys2Proof.Machine.execCompare slot data s
  | .writeZeroes slot => Sys2Proof.Machine.execWriteZeroes slot s
  | .datasetManagement slot ranges => Sys2Proof.Machine.execDatasetManagement slot ranges s
  | .orderedWrite slot => Sys2Proof.Machine.execOrderedWrite slot s
  | .orderedWriteStart slot => Sys2Proof.Machine.execOrderedWriteStart slot s
  | .invalidIoOpcode slot => Sys2Proof.Machine.execInvalidIoOpcode slot s
  | .poolRequest set who sizesKiB => Sys2Proof.Machine.execPoolRequest set who sizesKiB s
  | .poolFree pool addr => Sys2Proof.Machine.execPoolFree pool addr s
  | .poolStallServed set => Sys2Proof.Machine.execPoolStallServed set s
  | .writeDataArrived slot data picks info => Sys2Proof.Machine.execWriteDataArrived slot data picks info s
  | .cardLockGrant slot shelf card fresh picks => Sys2Proof.Machine.execCardLockGrant slot shelf card fresh picks s
  | .seqDetectorExpiry index => Sys2Proof.Machine.execSeqDetectorExpiry index s
  | .sealDelayExpiry row page dataIndex => Sys2Proof.Machine.execSealDelayExpiry row page dataIndex s
  | .rowIdleSeal row => Sys2Proof.Machine.execRowIdleSeal row s
  | .pageProgramDone channel target => Sys2Proof.Machine.execPageProgramDone channel target s
  | .programFail channel target picks => Sys2Proof.Machine.execProgramFail channel target picks s
  | .ledgerCardProgrammed firstSeq => Sys2Proof.Machine.execLedgerCardProgrammed firstSeq s
  | .mapMissReadDone page index => Sys2Proof.Machine.execMapMissReadDone page index s
  | .shelfRelease shelf => Sys2Proof.Machine.execShelfRelease shelf s
  | .spineRecordReadback ok => Sys2Proof.Machine.execSpineRecordReadback ok s
  | .shelfPageLoad page => Sys2Proof.Machine.execShelfPageLoad page s
  | .foldUnit fresh picks => Sys2Proof.Machine.execFoldUnit fresh picks s
  | .foldRowProgrammed row => Sys2Proof.Machine.execFoldRowProgrammed row s
  | .weedingVictimSelect planeGroup => Sys2Proof.Machine.execWeedingVictimSelect planeGroup s
  | .weedingCopy planeGroup fresh picks => Sys2Proof.Machine.execWeedingCopy planeGroup fresh picks s
  | .rotationStart planeGroup => Sys2Proof.Machine.execRotationStart planeGroup s
  | .eraseGateOpen entry => Sys2Proof.Machine.execEraseGateOpen entry s
  | .eraseIntentDurable entry => Sys2Proof.Machine.execEraseIntentDurable entry s
  | .blockEraseDone entry failed => Sys2Proof.Machine.execBlockEraseDone entry failed s
  | .startupReerase entry bad => Sys2Proof.Machine.execStartupReerase entry bad s
  | .laneRebuildStep lane picks => Sys2Proof.Machine.execLaneRebuildStep lane picks s
  | .laneRebuildEnd lane => Sys2Proof.Machine.execLaneRebuildEnd lane s
  | .rosterSync channel => Sys2Proof.Machine.execRosterSync channel s
  | .rosterLoad channel crcOk => Sys2Proof.Machine.execRosterLoad channel crcOk s
  | .flashReadIssue channel target => Sys2Proof.Machine.execFlashReadIssue channel target s
  | .flashReadDone channel target outcome wrongCard => Sys2Proof.Machine.execFlashReadDone channel target outcome wrongCard s
  | .arrayOpIssue channel target => Sys2Proof.Machine.execArrayOpIssue channel target s
  | .issueLimitExpiry channel target => Sys2Proof.Machine.execIssueLimitExpiry channel target s
  | .eraseWaitExpiry channel target => Sys2Proof.Machine.execEraseWaitExpiry channel target s
  | .readWaitLimitExpiry channel target ranUs => Sys2Proof.Machine.execReadWaitLimitExpiry channel target ranUs s
  | .suspendReady channel target => Sys2Proof.Machine.execSuspendReady channel target s
  | .suspendedReadsDone channel target => Sys2Proof.Machine.execSuspendedReadsDone channel target s
  | .zqIntervalExpiry channel ce => Sys2Proof.Machine.execZqIntervalExpiry channel ce s
  | .dieTempRead channel target temp => Sys2Proof.Machine.execDieTempRead channel target temp s
  | .recentreSweep channel centres temp => Sys2Proof.Machine.execRecentreSweep channel centres temp s
  | .dieTimeout channel target => Sys2Proof.Machine.execDieTimeout channel target s
  | .resetLunDone channel target => Sys2Proof.Machine.execResetLunDone channel target s
  | .dieNotAnswering channel target cause => Sys2Proof.Machine.execDieNotAnswering channel target cause s
  | .channelFault channel r => Sys2Proof.Machine.execChannelFault channel r s
  | .escalationEntry ppa cls step => Sys2Proof.Machine.execEscalationEntry ppa cls step s
  | .contextFree lane block page => Sys2Proof.Machine.execContextFree lane block page s
  | .ladderStepDone ppa fresh picks => Sys2Proof.Machine.execLadderStepDone ppa fresh picks s
  | .escalationBudgetExpiry lane block page => Sys2Proof.Machine.execEscalationBudgetExpiry lane block page s
  | .cipherUnit core slot len kind => Sys2Proof.Machine.execCipherUnit core slot len kind s
  | .cipherUnitDone ppa intact => Sys2Proof.Machine.execCipherUnitDone ppa intact s
  | .pwrfailNLow ns => Sys2Proof.Machine.execPwrfailNLow ns s
  | .v12BelowThreshold mv us => Sys2Proof.Machine.execV12BelowThreshold mv us s
  | .coastComplete readBackOk => Sys2Proof.Machine.execCoastComplete readBackOk s
  | .coastDisarm cause => Sys2Proof.Machine.execCoastDisarm cause s
  | .holdupTestIntervalExpiry retest => Sys2Proof.Machine.execHoldupTestIntervalExpiry retest s
  | .holdupDischargeEnd tdUs => Sys2Proof.Machine.execHoldupDischargeEnd tdUs s
  | .unitWake unit index => Sys2Proof.Machine.execUnitWake unit index s
  | .sensorSample r => Sys2Proof.Machine.execSensorSample r s
  | .railOutOfRange rail mv => Sys2Proof.Machine.execRailOutOfRange rail mv s
  | .coreVsetUpdate duty => Sys2Proof.Machine.execCoreVsetUpdate duty s
  | .daybookRecordEntry source event payload => Sys2Proof.Machine.execDaybookRecordEntry source event payload s
  | .renewSlot slot => Sys2Proof.Machine.execRenewSlot slot s
  | .sweepDurable slot => Sys2Proof.Machine.execSweepDurable slot s
  | .keygenTimeout slot => Sys2Proof.Machine.execKeygenTimeout slot s
  | .jtagInstructionLoad kind => Sys2Proof.Machine.execJtagInstructionLoad kind s
  | .partnerAliveRise port => Sys2Proof.Machine.execPartnerAliveRise port s
  | .partnerAliveLow port ns => Sys2Proof.Machine.execPartnerAliveLow port ns s
  | .portFecLock port width => Sys2Proof.Machine.execPortFecLock port width s
  | .trainingRetryExpiry port => Sys2Proof.Machine.execTrainingRetryExpiry port s
  | .hello h b level1 numberingAuto => Sys2Proof.Machine.execHello h b level1 numberingAuto s
  | .helloAssign h b number serial => Sys2Proof.Machine.execHelloAssign h b number serial s
  | .pulse h b => Sys2Proof.Machine.execPulse h b s
  | .pulseTimeout serial => Sys2Proof.Machine.execPulseTimeout serial s
  | .flitReceive port f => Sys2Proof.Machine.execFlitReceive port f s
  | .flitNak port ack => Sys2Proof.Machine.execFlitNak port ack s
  | .fecLockLoss port => Sys2Proof.Machine.execFecLockLoss port s
  | .routingTableWrite prefer => Sys2Proof.Machine.execRoutingTableWrite prefer s
  | .cmd h d => Sys2Proof.Machine.execCmd h d s
  | .go h => Sys2Proof.Machine.execGo h s
  | .data h sectors => Sys2Proof.Machine.execData h sectors s
  | .done h => Sys2Proof.Machine.execDone h s
  | .lock h => Sys2Proof.Machine.execLock h s
  | .unlock h => Sys2Proof.Machine.execUnlock h s
  | .backoff h => Sys2Proof.Machine.execBackoff h s
  | .backoffRetryExpiry dst index => Sys2Proof.Machine.execBackoffRetryExpiry dst index s
  | .relay h len origin action facts => Sys2Proof.Machine.execRelay h len origin action facts s
  | .intent h d kind dataMask position => Sys2Proof.Machine.execIntent h d kind dataMask position s
  | .reservedPacket h => Sys2Proof.Machine.execReservedPacket h s
  | .packetCrcFail port => Sys2Proof.Machine.execPacketCrcFail port s
  | .memberTimeout dst index => Sys2Proof.Machine.execMemberTimeout dst index s
  | .forwardWrite h d => Sys2Proof.Machine.execForwardWrite h d s
  | .ecRead h d => Sys2Proof.Machine.execEcRead h d s
  | .ecWrite h d picks => Sys2Proof.Machine.execEcWrite h d picks s
  | .delta h d fresh picks => Sys2Proof.Machine.execDelta h d fresh picks s
  | .parity h d picks => Sys2Proof.Machine.execParity h d picks s
  | .readChecked h d order => Sys2Proof.Machine.execReadChecked h d order s
  | .repair h d picks => Sys2Proof.Machine.execRepair h d picks s
  | .ecFormat h nsid ses => Sys2Proof.Machine.execEcFormat h nsid ses s
  | .view h v crcOk => Sys2Proof.Machine.execView h v crcOk s
  | .timeoutReport h echelon member ms => Sys2Proof.Machine.execTimeoutReport h echelon member ms s
  | .ecReservedOperation h => Sys2Proof.Machine.execEcReservedOperation h s
  | .intentSettle echelon stripe order picks => Sys2Proof.Machine.execIntentSettle echelon stripe order picks s
  | .intentAgeExpiry echelon stripe => Sys2Proof.Machine.execIntentAgeExpiry echelon stripe s
  | .lagRepair echelon stripe position order => Sys2Proof.Machine.execLagRepair echelon stripe position order s
  | .rebuildStripe echelon order picks => Sys2Proof.Machine.execRebuildStripe echelon order picks s
  | .rebuildPointerStore echelon => Sys2Proof.Machine.execRebuildPointerStore echelon s
  | .relayCommit readBackOk => Sys2Proof.Machine.execRelayCommit readBackOk s
  | .dramReadDecode u rank bg bank row errors miscorrected lost turn => Sys2Proof.Machine.execDramReadDecode u rank bg bank row errors miscorrected lost turn s
  | .patrolScrub u rank bg bank row errors writeIntervened => Sys2Proof.Machine.execPatrolScrub u rank bg bank row errors writeIntervened s
  | .refreshTick u urgent => Sys2Proof.Machine.execRefreshTick u urgent s
  | .mr4Read rank doubled beyond tempTop => Sys2Proof.Machine.execMr4Read rank doubled beyond tempTop s
  | .dqsOscillatorRead rank change => Sys2Proof.Machine.execDqsOscillatorRead rank change s
  | .brakeRaise port fill => Sys2Proof.Machine.execBrakeRaise port fill s
  | .brakeLower port => Sys2Proof.Machine.execBrakeLower port s
  | .rowRetire u rank bg bank row wholeBank => Sys2Proof.Machine.execRowRetire u rank bg bank row wholeBank s
  | .trainingRecordAppend kind unit rate matchWord => Sys2Proof.Machine.execTrainingRecordAppend kind unit rate matchWord s
  | .liveFieldBoundary field => Sys2Proof.Machine.execLiveFieldBoundary field s
  | .codexArrayErase passThrough => Sys2Proof.Machine.execCodexArrayErase passThrough s
  | .codexContinuousReadEnter addr => Sys2Proof.Machine.execCodexContinuousReadEnter addr s
  | .codexSectorErase who addr => Sys2Proof.Machine.execCodexSectorErase who addr s
  | .codexProgram who addr bytes spell => Sys2Proof.Machine.execCodexProgram who addr bytes spell s
  | .codexFlagCellQuery addr => Sys2Proof.Machine.execCodexFlagCellQuery addr s
  | .colophonProgram addr bytes => Sys2Proof.Machine.execColophonProgram addr bytes s
  | .colophonLock mask => Sys2Proof.Machine.execColophonLock mask s
  | .endpaperSwap who target => Sys2Proof.Machine.execEndpaperSwap who target s
  | .codexProgramDone readBackOk => Sys2Proof.Machine.execCodexProgramDone readBackOk s
  | .codexEraseDone verifyOk => Sys2Proof.Machine.execCodexEraseDone verifyOk s
  | .codexRequestServe ran5ms => Sys2Proof.Machine.execCodexRequestServe ran5ms s
  | .nvmeMiReadDataStructure kind => Sys2Proof.Machine.execNvmeMiReadDataStructure kind s
  | .nvmeMiConfigurationGet id => Sys2Proof.Machine.execNvmeMiConfigurationGet id s
  | .nvmeMiConfigurationSet id value => Sys2Proof.Machine.execNvmeMiConfigurationSet id value s
  | .nvmeMiVpdRead offset len => Sys2Proof.Machine.execNvmeMiVpdRead offset len s
  | .nvmeMiVpdWrite offset len => Sys2Proof.Machine.execNvmeMiVpdWrite offset len s
  | .nvmeMiTunnelledAdmin e => Sys2Proof.Machine.execNvmeMiTunnelledAdmin e s
  | .nvmeMiInvalidCommand opcode => Sys2Proof.Machine.execNvmeMiInvalidCommand opcode s
  | .recoveryFirmwareDownload slot facts => Sys2Proof.Machine.execRecoveryFirmwareDownload slot facts s
  | .recoveryRelaySend port => Sys2Proof.Machine.execRecoveryRelaySend port s
  | .failedTrainingAttempt port => Sys2Proof.Machine.execFailedTrainingAttempt port s
  | .noViewHolderReachable echelon => Sys2Proof.Machine.execNoViewHolderReachable echelon s
  | .aspmL1 enter substate => Sys2Proof.Machine.execAspmL1 enter substate s
  | .powerOnAon => Sys2Proof.Machine.execPowerOnAon s
  | .linkDown => Sys2Proof.Machine.execLinkDown s
  | .hotReset => Sys2Proof.Machine.execHotReset s
  | .functionLevelReset => Sys2Proof.Machine.execFunctionLevelReset s
  | .unexpectedCompletion => Sys2Proof.Machine.execUnexpectedCompletion s
  | .ccEnSet => Sys2Proof.Machine.execCcEnSet s
  | .ccEnClear => Sys2Proof.Machine.execCcEnClear s
  | .shutdownNormal => Sys2Proof.Machine.execShutdownNormal s
  | .shutdownAbrupt => Sys2Proof.Machine.execShutdownAbrupt s
  | .completionPost => Sys2Proof.Machine.execCompletionPost s
  | .ledgerIdleClose => Sys2Proof.Machine.execLedgerIdleClose s
  | .ledgerSpaceFreed => Sys2Proof.Machine.execLedgerSpaceFreed s
  | .pendingUpdateRoom => Sys2Proof.Machine.execPendingUpdateRoom s
  | .inventoryPassStart => Sys2Proof.Machine.execInventoryPassStart s
  | .checkpointIntervalExpiry => Sys2Proof.Machine.execCheckpointIntervalExpiry s
  | .inventoryPassComplete => Sys2Proof.Machine.execInventoryPassComplete s
  | .warmingEnd => Sys2Proof.Machine.execWarmingEnd s
  | .foldStart => Sys2Proof.Machine.execFoldStart s
  | .idleFoldDelayExpiry => Sys2Proof.Machine.execIdleFoldDelayExpiry s
  | .retireEvaluate => Sys2Proof.Machine.execRetireEvaluate s
  | .preserveEntry => Sys2Proof.Machine.execPreserveEntry s
  | .coastProgramsDone => Sys2Proof.Machine.execCoastProgramsDone s
  | .ackDrainDone => Sys2Proof.Machine.execAckDrainDone s
  | .holdupTestStart => Sys2Proof.Machine.execHoldupTestStart s
  | .holdupMaxDischargeExpiry => Sys2Proof.Machine.execHoldupMaxDischargeExpiry s
  | .holdupRecharged => Sys2Proof.Machine.execHoldupRecharged s
  | .holdupRechargeExpiry => Sys2Proof.Machine.execHoldupRechargeExpiry s
  | .holdupLowOutsideTest => Sys2Proof.Machine.execHoldupLowOutsideTest s
  | .idleServiceEntry => Sys2Proof.Machine.execIdleServiceEntry s
  | .idleServiceExit => Sys2Proof.Machine.execIdleServiceExit s
  | .dramSelfRefreshEntry => Sys2Proof.Machine.execDramSelfRefreshEntry s
  | .lockstepMismatch => Sys2Proof.Machine.execLockstepMismatch s
  | .watchdogExpiry => Sys2Proof.Machine.execWatchdogExpiry s
  | .librarianRestartEnd => Sys2Proof.Machine.execLibrarianRestartEnd s
  | .heldPauseEnd => Sys2Proof.Machine.execHeldPauseEnd s
  | .daybookFlush => Sys2Proof.Machine.execDaybookFlush s
  | .daybookFlushDone => Sys2Proof.Machine.execDaybookFlushDone s
  | .noiseHealthFail => Sys2Proof.Machine.execNoiseHealthFail s
  | .drbgReseed => Sys2Proof.Machine.execDrbgReseed s
  | .testModeAssert => Sys2Proof.Machine.execTestModeAssert s
  | .pulseSend => Sys2Proof.Machine.execPulseSend s
  | .roadCaptainStable => Sys2Proof.Machine.execRoadCaptainStable s
  | .relaySend => Sys2Proof.Machine.execRelaySend s
  | .relayRoundRestart => Sys2Proof.Machine.execRelayRoundRestart s
  | .rowErrorLogHalve => Sys2Proof.Machine.execRowErrorLogHalve s
  | .codexContinuousReadExit => Sys2Proof.Machine.execCodexContinuousReadExit s
  | .codexEraseSuspend => Sys2Proof.Machine.execCodexEraseSuspend s
  | .codexEraseResume => Sys2Proof.Machine.execCodexEraseResume s
  | .codexStatus => Sys2Proof.Machine.execCodexStatus s
  | .codexSequenceError => Sys2Proof.Machine.execCodexSequenceError s
  | .nvmeMiBasicManagement => Sys2Proof.Machine.execNvmeMiBasicManagement s
  | .nvmeMiSubsystemHealthPoll => Sys2Proof.Machine.execNvmeMiSubsystemHealthPoll s
  | .nvmeMiControllerHealthPoll => Sys2Proof.Machine.execNvmeMiControllerHealthPoll s
  | .lossOfPower => Sys2Proof.Machine.execLossOfPower s

end Sys2Proof.Machine
end

