-- ==== Sys2Proof/Machine/Tick.lean ====
section
/-! DEFINITION. A microsecond without a command: what the device counts by time (R15, R20, R163, R187, R375, R382,
R385, R386, R390). -/

namespace Sys2Proof.Machine

/-- Stall times: pool requests, decoders, record sources. -/
def tickStalls (s : State) : State :=
  { s with
    pools := { s.pools with
      pool := stallTick 1 s.pools.waitW (stallTick 0 s.pools.waitT s.pools.pool) }
    esc := { s.esc with stallUs := sat32 (s.esc.stallUs + s.esc.stalled.length) }
    day := { s.day with stallUs := sat32 (s.day.stallUs + s.day.stalled.length) } }

/-- The temperature bin of a reading. -/
def binOf (t : Int) : Nat := min 35 ((t + 400) / 40).toNat

/-- A bin counts one minute more. -/
def countBin (t : Int) (l : List Nat) : List Nat :=
  modAt (binOf t) (fun c => sat64 (c + 1)) ((List.range 36).map fun i => natAt l i)

/-- An I/O command is outstanding. -/
def ioBusy (s : State) : Bool := s.nv.cmds.any fun c => c.qid != 0

/-- A minute of operating time ends. -/
def tickMinute (s : State) : State :=
  if ! awake s then s
  else
    let k := kelvin (composite s)
    { s with
      sens := { s.sens with
        ctrlBins := countBin s.sens.minuteHot s.sens.ctrlBins
        flashBins := if s.fl.dies.isEmpty then s.sens.flashBins else countBin s.sens.minuteFl s.sens.flashBins
        minuteHot := -440, minuteFl := -440 }
      nv := { s.nv with
        busyMin := s.nv.busyMin + if ioBusy s then 1 else 0
        warnMin := sat32 (s.nv.warnMin + if 358 ≤ k then 1 else 0)
        critMin := sat32 (s.nv.critMin + if 378 ≤ k then 1 else 0) }
      coast := { s.coast with
        disarmedMin := sat32 (s.coast.disarmedMin + if policyArmed s && ! s.coast.armed then 1 else 0) } }

/-- A millisecond of operating time ends. -/
def tickMs (s : State) : State :=
  let t : State := { s with
    clock := { s.clock with opMs := min (2 ^ 48 - 1) (s.clock.opMs + 1) }
    mode := { s.mode with timeMs := sat32 (s.mode.timeMs + 1) } }
  if t.clock.opMs % 60000 = 0 then tickMinute t else t

/-- A unit of Table 8.6 is at work: a tile with a queued operation or a busy die, a hard-decision unit that keeps a
codeword. -/
def unitBusy (s : State) (unit i : Nat) : Bool :=
  match unit with
  | 0 => s.fl.dies.any fun d => d.channel = i && (d.op.isSome || d.suspended.isSome || ! d.readQ.isEmpty
      || ! d.progQ.isEmpty || ! d.eraseQ.isEmpty)
  | 1 => decide (i % 32 < hardBusy s (i / 32))
  | _ => false

/-- The 4 hard-decision units of a quadrant that R141 holds are gated in Idle Service only. -/
def heldUnit (unit i : Nat) : Bool := unit = 1 && decide (28 ≤ i % 32)

/-- The units of a kind that are gated. -/
def gatedOf (g : Gates) : Nat → List Nat
  | 0 => g.tiles
  | 1 => g.hardDec
  | 2 => g.softDec
  | _ => g.cores

/-- Unit `i` of a kind is gated. -/
def gateUnit (unit i : Nat) (g : Gates) : Gates :=
  match unit with
  | 0 => { g with tiles := g.tiles ++ [i] }
  | 1 => { g with hardDec := g.hardDec ++ [i] }
  | 2 => { g with softDec := g.softDec ++ [i] }
  | _ => { g with cores := g.cores ++ [i] }

/-- A unit at work is awake; one that has been idle for its time of Table 8.6 is gated. -/
def tickUnit (s : State) (g : Gates) (x : Nat × Nat) : Gates :=
  let key := 256 * x.1 + x.2
  if unitBusy s x.1 x.2 then { ungate x.1 x.2 g with lastUse := mapSet key s.clock.us g.lastUse }
  else if (gatedOf g x.1).contains x.2 || heldUnit x.1 x.2
      || decide (s.clock.us < mapAt 0 key g.lastUse + if x.1 = 0 then 2000 else 100) then g
  else gateUnit x.1 x.2 g

/-- Every unit of the kinds 0 tile, 1 and 2 decoders, 3 cipher core. -/
def allUnits : List (Nat × Nat) :=
  [(0, 64), (1, 128), (2, 24), (3, 24)].flatMap fun k => (List.range k.2).map fun i => (k.1, i)

/-- The power gates follow use outside Idle Service and start-up (R196). -/
def tickGates (s : State) : State :=
  if ! serving s || s.mode.idle then s
  else { s with mode := { s.mode with gates := allUnits.foldl (tickUnit s) s.mode.gates } }

/-- One microsecond: nothing with no power. -/
def tick (s : State) : State :=
  if s.mode.mode = .unpowered then s
  else
    let t := tickStalls { s with clock := { s.clock with us := s.clock.us + 1 } }
    let u := if t.clock.us % 1000 = 0 then tickMs t else t
    tickGates (shutdownAdvance (startAdvance u))

end Sys2Proof.Machine
end

