-- ==== Sys2Proof/WellFormed.lean ====
section
/-! DEFINITION. Well-formed commands: every operand fits the field that the manual gives it. The machine takes any
command; a command that is not well-formed stands for nothing that can arrive. -/

namespace Sys2Proof

/-- `x` fits `n` bits. -/
def fits (n x : Nat) : Bool := decide (x < 2 ^ n)

/-- Numbers of the device: command slots, ports, flash channels, targets, subchannels, members, echelons, lanes. -/
def slotNo (x : Nat) : Bool := fits 16 x
def portNo (x : Nat) : Bool := decide (x < 4)
def chanNo (x : Nat) : Bool := decide (x < 64)
def targetNo (x : Nat) : Bool := decide (x < 32)
def dieNo (c t : Nat) : Bool := chanNo c && targetNo t
def subchNo (x : Nat) : Bool := decide (x < 8)
def memberNo (x : Nat) : Bool := decide (x < 256)
def echelonNo (x : Nat) : Bool := decide (x < 64)
def laneNo (x : Nat) : Bool := decide (x < 128)

/-- An entry of a submission queue: 16 bits of CID, 8 of opcode, dwords of 32, descriptor types of 4 bits. -/
def SqEntry.wf (e : SqEntry) : Bool :=
  fits 16 e.cid && fits 8 e.opcode && fits 32 e.nsid && fits 32 e.dw10 && fits 32 e.dw11 && fits 32 e.dw12
    && fits 32 e.dw13 && fits 32 e.dw14 && fits 32 e.dw15
    && fits 2 e.psdt && e.sgl.all (fits 4) && fits 2 e.fuse && fits 32 e.dw2 && fits 32 e.dw3

/-- A packet header (Table 12.6); port 4 is the member itself. -/
def PacketHdr.wf (h : PacketHdr) : Bool :=
  decide (h.port ≤ 4) && fits 8 h.src && fits 8 h.dst && fits 8 h.ttl && fits 4 h.ptype && fits 3 h.rank
    && fits 16 h.tag && fits 32 h.seq && fits 64 h.arg0 && fits 64 h.arg1

/-- A PULSE or HELLO body (Table 12.4): four ports. -/
def PulseBody.wf (b : PulseBody) : Bool :=
  fits 64 b.serial && fits 64 b.digest && fits 32 b.pelotonId && fits 32 b.pulseNum && b.partners.length = 4
    && b.partners.all memberNo && b.linked.length = 4 && b.compat.length = 4 && fits 4 b.mode && memberNo b.member

/-- A command descriptor (Table 13.5). -/
def EcDesc.wf (d : EcDesc) : Bool :=
  echelonNo d.echelon && fits 58 d.stripe && fits 32 d.viewNum && fits 8 d.role && decide (d.cardFirst < 16)
    && decide (d.cardFirst + d.cardsM1 < 16) && fits 8 d.dataIndex

/-- A view record (Table 13.2): at most 18 positions, states 0 to 4. -/
def ViewRec.wf (v : ViewRec) : Bool :=
  fits 32 v.viewNum && echelonNo v.echelon && memberNo v.holder && decide (v.places.length ≤ 18)
    && v.places.all fun p => memberNo p.1 && decide (p.2 ≤ 4)

/-- A flit (Table 12.2): 12-bit sequence numbers, ranks 0 to 4; a header comes with SOP. -/
def FlitIn.wf (f : FlitIn) : Bool :=
  fits 12 f.fseq && fits 12 f.ack && decide (f.creditRank ≤ 4) && decide (f.rank ≤ 4) && f.hdr.isSome == f.sop
    && match f.hdr with | some h => h.wf | none => true

/-- The trained values of a CE# target (Table 5.5). -/
def CeTrain.wf (x : CeTrain) : Bool :=
  subchNo x.ce && x.dqRd.length = 8 && x.dqRd.all (fits 8) && fits 8 x.dqsRd && fits 8 x.reDly && fits 8 x.dqsWr
    && fits 4 x.dfe && fits 4 x.ctle && fits 8 x.duty && fits 8 x.vref && fits 8 x.eyeWidth && fits 8 x.wrWidth

/-- A result of training names a channel, a timing set 0 to 7, targets and their centres. -/
def TrainResult.wf (r : TrainResult) : Bool :=
  chanNo r.channel && decide (r.set ≤ 7) && r.missing.all targetNo && r.centres.all CeTrain.wf

/-- Six step times, channels named once. -/
def StartFacts.wf (f : StartFacts) : Bool :=
  f.stepMs.length = 6 && f.stepMs.all (fits 32) && decide (f.lockstepBad ≤ 2) && fits 16 f.dramRate
    && f.training.all TrainResult.wf && decide ((f.training.map fun r => r.channel).Nodup)
    && f.rosterBad.all chanNo && f.unwrapBad.all fun x => fits 10 x.1 && decide (1 ≤ x.2) && decide (x.2 ≤ 3)

/-- A bundle's facts: HITLESS of seven components. -/
def BundleFacts.wf (b : BundleFacts) : Bool :=
  b.hitless.length = 7 && fits 8 b.schema && fits 8 b.schemaMin && fits 64 b.version && fits 64 b.fwRev

/-- An image's lists fit their tables. -/
def FolioImage.wf (f : FolioImage) : Bool :=
  fits 64 f.sequence && f.rest.all (fun x => decide (x.1 < 0xC0000) && fits 8 x.2) && fits 320 f.model && fits 2048 f.fru && decide (f.profiles.length ≤ 16)
    && f.roster.all (fun r => chanNo r.channel) && f.lanes.all (fun l => dieNo l.channel l.target && laneNo l.lane)
    && f.echelons.all (fun e => echelonNo e.echelon) && fits 64 f.layoutDigest && fits 64 f.folioDigest

def CodexSpell.wf : CodexSpell → Bool
  | .folio f => f.wf
  | .bundle b => b.wf

def spellWf (x : Option CodexSpell) : Bool := match x with | some y => y.wf | none => true

/-- What a TLP was: a command slot, a queue and CID, or a write. -/
def TlpKind.wf : TlpKind → Bool
  | .dataOf n => slotNo n
  | .entryOf q c => fits 16 q && fits 16 c
  | .barWrite => true

/-- A sample: twelve sensors, ten rails. -/
def SensorReadings.wf (r : SensorReadings) : Bool :=
  r.ts.length = 12 && r.rails.length = 10 && r.rails.all (fits 16) && fits 16 r.v12

/-- Cards of eight 512-byte sectors. -/
def sectorWf (x : Nat) : Bool := fits 4096 x
def cardWf (l : List Nat) : Bool := l.length = 8 && l.all sectorWf

/-- A row of DRAM: subchannel, rank, bank group, bank, row of 18 bits. -/
def rowWf (u rank bg bank row : Nat) : Bool := subchNo u && fits 1 rank && fits 3 bg && fits 2 bank && fits 18 row

/-- A DRAM request: ports 0 to 7, a row of the part. -/
def DramReq.wf (r : DramReq) : Bool :=
  decide (r.port < 8) && rowWf 0 r.rank r.bg r.bank r.row

/-- A payload of a Daybook record: at most 40 bytes, every value in its bytes. -/
def payloadWf (l : List (Nat × Nat)) : Bool :=
  decide ((l.map fun x => x.1).sum ≤ 40) && l.all fun x => fits (8 * x.1) x.2

/-- A command's operands fit. -/
def Instr.wf : Instr → Bool
  | .perstDeassert f => f.wf
  | .perstAssert _ => true
  | .linkUp ms rate width _ => fits 32 ms && decide (rate ≤ 1280) && [1, 2, 4, 8, 16].contains width
  | .dStateChange _ => true
  | .poisonedTlp k _ => k.wf
  | .completionTimeout k => k.wf
  | .unsupportedRequest _ => true
  | .malformedTlp kind => decide (kind ≤ 2)
  | .correctableLinkError kind => decide (kind ≤ 3)
  | .sqTailDoorbell qid tail => fits 16 qid && fits 16 tail
  | .cqHeadDoorbell qid head => fits 16 qid && fits 16 head
  | .commandFetch slot qid e => slotNo slot && fits 16 qid && e.wf
  | .interruptCoalesceExpiry vector => fits 11 vector
  | .registerWrite bar off size value => [0, 2, 4, 255].contains bar && fits 16 off && decide (1 ≤ size)
      && decide (size ≤ 8) && fits (8 * size) value
  | .stickyRw1cWrite idx _ => decide (idx ≤ 4)
  | .ksPoolClear _ => true
  | .ksEscClear _ => true
  | .ksDramClear _ => true
  | .ksHoldupRun _ => true
  | .ksCxPageWrite _ => true
  | .ksCxAddrWrite _ => true
  | .ksCxDataWrite _ _ spell => spellWf spell
  | .deleteIoSubmissionQueue slot | .createIoSubmissionQueue slot | .getLogPage slot
  | .deleteIoCompletionQueue slot | .createIoCompletionQueue slot | .identify slot | .abort slot
  | .setFeaturesArbitration slot | .setFeaturesPowerManagement slot | .setFeaturesTemperatureThreshold slot
  | .setFeaturesNumberOfQueues slot | .setFeaturesInterruptCoalescing slot | .setFeaturesIntVectorConfig slot
  | .setFeaturesWriteAtomicity slot | .setFeaturesAsyncEventConfig slot | .setFeaturesUnsupported slot
  | .getFeatures slot | .asynchronousEventRequest slot | .namespaceDelete slot | .namespaceAttach slot
  | .namespaceDetach slot | .firmwareCommitArm slot | .firmwareCommitInvalid slot | .formatNvmRelease slot
  | .formatNvmCryptoErase slot | .securityReceive slot | .sanitizeCryptoErase slot | .sanitizeBlockErase slot
  | .sanitizeInvalid slot | .stickyClear slot | .liveFieldGet slot | .retireDie slot | .retireChannel slot
  | .folioStage slot | .foxReport slot | .invalidAdminOpcode slot | .flush slot | .write slot | .read slot
  | .writeZeroes slot | .orderedWrite slot | .orderedWriteStart slot | .invalidIoOpcode slot => slotNo slot
  | .setFeaturesTimestamp slot ms => slotNo slot && fits 48 ms
  | .namespaceCreate slot nsze ncap lbaf pi => slotNo slot && fits 64 nsze && fits 64 ncap && fits 8 lbaf
      && fits 3 pi
  | .firmwareImageDownload slot facts => slotNo slot && facts.wf
  | .firmwareCommitWrite slot _ | .firmwareCommitWriteArm slot _ | .firmwareCommitActivate slot _ => slotNo slot
  | .opalGenkey slot session nsid r => slotNo slot && fits 32 session && fits 32 nsid && fits 8 r
  | .opalSetRange slot session nsid r start len => slotNo slot && fits 32 session && fits 32 nsid && fits 8 r
      && fits 64 start && fits 64 len
  | .opalSetLocking slot session nsid r _ _ => slotNo slot && fits 32 session && fits 32 nsid && fits 8 r
  | .opalRevert slot session => slotNo slot && fits 32 session
  | .opalSessionMethod slot session method authority nsid r arg _ => slotNo slot && fits 32 session
      && decide (method ≤ 4) && fits 8 authority && fits 32 nsid && fits 8 r && fits 2 arg
  | .liveFieldSet slot value => slotNo slot && fits 512 value
  | .folioCommit slot img _ => slotNo slot && img.wf
  | .compare slot l => slotNo slot && l.all sectorWf
  | .datasetManagement slot ranges => slotNo slot && decide (ranges.length ≤ 256)
      && ranges.all fun x => fits 64 x.1 && fits 32 x.2
  | .poolRequest set _ sizesKiB => decide (set ≤ 1) && ! sizesKiB.isEmpty
      && sizesKiB.all fun x => [4, 16, 64, 256].contains x
  | .poolFree pool _ => subchNo pool
  | .poolStallServed set => decide (set ≤ 1)
  | .writeDataArrived slot l _ info => slotNo slot && l.all sectorWf
      && info.all fun x => fits 64 x.1 && fits 16 x.2.1 && fits 48 x.2.2
  | .cardLockGrant slot shelf card _ _ => slotNo slot && fits 32 shelf && decide (card < 16)
  | .seqDetectorExpiry index => decide (index < 1024)
  | .sealDelayExpiry _ page dataIndex => fits 11 page && fits 6 dataIndex
  | .rowIdleSeal _ | .foldRowProgrammed _ => true
  | .pageProgramDone channel target | .flashReadIssue channel target | .arrayOpIssue channel target
  | .issueLimitExpiry channel target | .eraseWaitExpiry channel target | .suspendReady channel target
  | .suspendedReadsDone channel target | .dieTimeout channel target | .resetLunDone channel target =>
      dieNo channel target
  | .programFail channel target _ => dieNo channel target
  | .ledgerCardProgrammed _ => true
  | .mapMissReadDone _ _ => true
  | .shelfRelease shelf => fits 32 shelf
  | .spineRecordReadback _ => true
  | .shelfPageLoad page => fits 32 page
  | .foldUnit _ _ => true
  | .weedingVictimSelect planeGroup | .rotationStart planeGroup => fits 10 planeGroup
  | .weedingCopy planeGroup _ _ => fits 10 planeGroup
  | .eraseGateOpen _ | .eraseIntentDurable _ => true
  | .blockEraseDone _ failed => failed.all (fits 6)
  | .startupReerase _ bad => bad.all (fits 6)
  | .laneRebuildStep lane _ => laneNo lane
  | .laneRebuildEnd lane => laneNo lane
  | .rosterSync channel => chanNo channel
  | .rosterLoad channel _ => chanNo channel
  | .flashReadDone channel target _ _ => dieNo channel target
  | .readWaitLimitExpiry channel target _ => dieNo channel target
  | .zqIntervalExpiry channel ce => chanNo channel && subchNo ce
  | .dieTempRead channel target temp => dieNo channel target && decide (-128 ≤ temp) && decide (temp ≤ 127)
  | .recentreSweep channel centres temp => chanNo channel && centres.all CeTrain.wf && decide (-128 ≤ temp)
      && decide (temp ≤ 127)
  | .dieNotAnswering channel target cause => dieNo channel target && decide (cause ≤ 2)
  | .channelFault channel r => chanNo channel && r.wf && r.channel = channel
  | .escalationEntry _ cls step => decide (cls ≤ 1) && [3, 6].contains step
  | .contextFree lane block page | .escalationBudgetExpiry lane block page =>
      laneNo lane && fits 13 block && fits 11 page
  | .ladderStepDone _ _ _ => true
  | .cipherUnit core slot len kind => decide (core < 24) && fits 10 slot && fits 32 len && decide (kind ≤ 2)
  | .cipherUnitDone _ _ => true
  | .pwrfailNLow _ => true
  | .v12BelowThreshold mv _ => fits 16 mv
  | .coastComplete _ => true
  | .coastDisarm cause => decide (cause ≤ 1)
  | .holdupTestIntervalExpiry _ => true
  | .holdupDischargeEnd _ => true
  | .unitWake unit _ => decide (unit ≤ 5)
  | .sensorSample r => r.wf
  | .railOutOfRange rail mv => decide (rail ≤ 10) && fits 16 mv
  | .coreVsetUpdate duty => decide (duty ≤ 1000)
  | .daybookRecordEntry _ event payload => fits 16 event && payloadWf payload
  | .renewSlot slot | .sweepDurable slot | .keygenTimeout slot => fits 10 slot
  | .jtagInstructionLoad _ => true
  | .partnerAliveRise port => portNo port
  | .partnerAliveLow port _ => portNo port
  | .portFecLock port width => portNo port && decide (width ≤ 3)
  | .trainingRetryExpiry port => portNo port
  | .hello h b _ _ => h.wf && b.wf
  | .helloAssign h b number serial => h.wf && b.wf && memberNo number && fits 64 serial
  | .pulse h b => h.wf && b.wf
  | .pulseTimeout serial => fits 64 serial
  | .flitReceive port f => portNo port && f.wf
  | .flitNak port ack => portNo port && fits 12 ack
  | .fecLockLoss port => portNo port
  | .routingTableWrite prefer => prefer.all portNo
  | .cmd h d | .forwardWrite h d | .ecRead h d => h.wf && d.wf
  | .go h | .done h | .lock h | .unlock h | .backoff h | .reservedPacket h | .ecReservedOperation h => h.wf
  | .data h sectors => h.wf && cardWf sectors
  | .backoffRetryExpiry dst _ | .memberTimeout dst _ => memberNo dst
  | .relay h len origin action facts => h.wf && decide (len ≤ 4096) && memberNo origin
      && [0, 1, 3].contains action && facts.wf
  | .intent h d kind dataMask position => h.wf && d.wf && decide (kind ≤ 2) && fits 16 dataMask
      && decide (position < 18)
  | .packetCrcFail port => portNo port
  | .ecWrite h d _ | .parity h d _ | .repair h d _ => h.wf && d.wf
  | .delta h d _ _ => h.wf && d.wf
  | .readChecked h d _ => h.wf && d.wf
  | .ecFormat h nsid ses => h.wf && fits 32 nsid && decide (ses ≤ 2)
  | .view h v _ => h.wf && v.wf
  | .timeoutReport h echelon member _ => h.wf && echelonNo echelon && memberNo member
  | .intentSettle echelon stripe _ _ => echelonNo echelon && fits 58 stripe
  | .intentAgeExpiry echelon stripe => echelonNo echelon && fits 58 stripe
  | .lagRepair echelon stripe position _ => echelonNo echelon && fits 58 stripe && decide (position < 18)
  | .rebuildStripe echelon _ _ => echelonNo echelon
  | .rebuildPointerStore echelon => echelonNo echelon
  | .relayCommit _ => true
  | .dramReadDecode u rank bg bank row errors _ lost turn => rowWf u rank bg bank row
      && decide (errors ≤ 80) && decide (lost.region ≤ 8) && turn.arrived.all DramReq.wf
  | .patrolScrub u rank bg bank row errors _ => rowWf u rank bg bank row && decide (errors ≤ 80)
  | .refreshTick u _ => subchNo u
  | .mr4Read rank _ _ _ => fits 1 rank
  | .dqsOscillatorRead rank _ => fits 1 rank
  | .brakeRaise port fill => decide (port ≤ 1) && decide (fill ≤ 100)
  | .brakeLower port => decide (port ≤ 1)
  | .rowRetire u rank bg bank row _ => rowWf u rank bg bank row
  | .trainingRecordAppend kind unit rate matchWord => [1, 2].contains kind && chanNo unit && fits 16 rate
      && fits 32 matchWord
  | .liveFieldBoundary field => fits 16 field
  | .codexArrayErase _ => true
  | .codexContinuousReadEnter addr | .codexFlagCellQuery addr => fits 27 addr
  | .codexSectorErase who addr => decide (who ≤ 4) && fits 27 addr
  | .codexProgram who addr bytes spell => decide (who ≤ 4) && fits 27 addr && decide (bytes.length ≤ 256)
      && spellWf spell
  | .colophonProgram addr bytes => fits 27 addr && decide (bytes.length ≤ 256)
  | .colophonLock mask => fits 8 mask
  | .endpaperSwap who target => decide (who ≤ 4) && fits 1 target
  | .codexProgramDone _ | .codexEraseDone _ | .codexRequestServe _ => true
  | .nvmeMiReadDataStructure kind => fits 8 kind
  | .nvmeMiConfigurationGet id => fits 8 id
  | .nvmeMiConfigurationSet id value => fits 8 id && fits 32 value
  | .nvmeMiVpdRead offset len | .nvmeMiVpdWrite offset len => fits 16 offset && fits 16 len
  | .nvmeMiTunnelledAdmin e => e.wf
  | .nvmeMiInvalidCommand opcode => fits 8 opcode
  | .recoveryFirmwareDownload slot facts => slotNo slot && facts.wf
  | .recoveryRelaySend port | .failedTrainingAttempt port => portNo port
  | .noViewHolderReachable echelon => echelonNo echelon
  | .aspmL1 _ substate => decide (substate ≤ 2)
  | .powerOnAon | .linkDown | .hotReset | .functionLevelReset | .unexpectedCompletion | .ccEnSet | .ccEnClear
  | .shutdownNormal | .shutdownAbrupt | .completionPost | .ledgerIdleClose | .ledgerSpaceFreed
  | .pendingUpdateRoom | .inventoryPassStart | .checkpointIntervalExpiry | .inventoryPassComplete | .warmingEnd
  | .foldStart | .idleFoldDelayExpiry | .retireEvaluate | .preserveEntry | .coastProgramsDone | .ackDrainDone
  | .holdupTestStart | .holdupMaxDischargeExpiry | .holdupRecharged | .holdupRechargeExpiry
  | .holdupLowOutsideTest | .idleServiceEntry | .idleServiceExit | .dramSelfRefreshEntry | .lockstepMismatch
  | .watchdogExpiry | .librarianRestartEnd | .heldPauseEnd | .daybookFlush | .daybookFlushDone | .noiseHealthFail
  | .drbgReseed | .testModeAssert | .pulseSend | .roadCaptainStable | .relaySend | .relayRoundRestart
  | .rowErrorLogHalve | .codexContinuousReadExit | .codexEraseSuspend | .codexEraseResume | .codexStatus
  | .codexSequenceError | .nvmeMiBasicManagement | .nvmeMiSubsystemHealthPoll | .nvmeMiControllerHealthPoll
  | .lossOfPower => true

end Sys2Proof
end

