-- ==== Sys2Proof/Safety.lean ====
section
/-! DEFINITION. What the statements say of a run: how a command in a slot ends, what must never change, and the
canonical form of the Codex array. -/

namespace Sys2Proof.Machine

/-- The admin command `c` in slot `slot` runs in its turn: fetched and not started, in a serving mode, with the
Librarian running and no earlier command of its own before it (R21, R221). -/
def AdminReady (slot : Nat) (c : Cmd) (s : State) : Prop :=
  cmdAt s slot = some c ∧ c.qid = 0 ∧ c.phase = .fetched ∧ serving s = true ∧ s.lib.state = 0 ∧
    behindLibrarian s slot = false

/-- The I/O command `c` in slot `slot` is fetched and not started, in a serving mode. -/
def IoReady (slot : Nat) (c : Cmd) (s : State) : Prop :=
  cmdAt s slot = some c ∧ c.qid ≠ 0 ∧ c.phase = .fetched ∧ serving s = true

/-- The completion of the command `c` in slot `slot` with status `st` and dword 0 `dw0` (R217). -/
def entryOf (slot : Nat) (c : Cmd) (st : Nat × Nat) (dw0 : Nat) : Completion :=
  { sq := c.qid, cq := c.cq, cid := c.e.cid, slot := slot, sct := st.1, sc := st.2, dnr := dnrOf st false,
    dw0 := dw0 }

/-- From `s` to `t` the command `c` in slot `slot` ended with status `st` and dword 0 `dw0`: its completion is
the newest that waits, and the slot runs no command. -/
def Ended (slot : Nat) (c : Cmd) (st : Nat × Nat) (dw0 : Nat) (s t : State) : Prop :=
  t.nv.waiting = s.nv.waiting ++ [entryOf slot c st dw0] ∧ cmdAt t slot = none

/-- A locked Colophon segment of `s` reads in `t` as it read in `s` (R409). -/
def ColophonKept (s t : State) : Prop :=
  ∀ (n : Nat) (g : ColSegment), s.cdx.colophon[n]? = some g → g.locked = true → t.cdx.colophon[n]? = some g

/-- From `s` to `t` nothing changed but the die of `channel` and `target`, which became `f` of what it was. -/
def DieChanged (channel target : Nat) (f : Die → Die) (s t : State) : Prop :=
  t = { s with fl := { s.fl with dies := t.fl.dies } } ∧
    ∀ a b, dieAt t a b = if a = channel ∧ b = target then (dieAt s a b).map f else dieAt s a b

/-- What a read of its temperature leaves in a die (R126). -/
def readTemp (s : State) (ch : Nat) (temp : Int) (d : Die) : Die :=
  { d with temp := temp, tempRead := true, cycles := tempCycles s ch }

/-- From `s` to `t` nothing changed but block-table entry `n`, and the entries of other block stripes read
as before. -/
def EntryChanged (n : Nat) (s t : State) : Prop :=
  t = { s with blk := { s.blk with table := t.blk.table } } ∧ ∀ m, m ≠ n → blkAt t m = blkAt s m

/-- Keys strictly rise from `lo` on, and no value is the default `d` of unlisted keys. -/
def canonical {α : Type} [DecidableEq α] (d : α) : Nat → List (Nat × α) → Bool
  | _, [] => true
  | lo, (k, v) :: l => decide (lo ≤ k) && decide (v ≠ d) && canonical d (k + 1) l

/-- The Codex array is in its one canonical form: addresses strictly rising, no entry of an erased byte. -/
abbrev State.memWf (s : State) : Prop := canonical (0xFF : Byte) 0 s.cdx.mem = true

end Sys2Proof.Machine
end

