-- ==== Sys2Proof/Certificates/Slice0/Obligations.lean ====
section
/-! DEFINITION. The statements for the provers. -/

open Sys2Proof Sys2Proof.Machine




/-- R13, R16: a freed buffer becomes the head of its pool's free list and points at the old head; nothing is
checked, and no other pool changes. -/
def Obligations.FreedBufferBecomesListHead : Prop :=
  ∀ (s : State) (n a : Nat) (p : Pool), s.pools.pool[n]? = some p →
    ∃ t q, exec (.poolFree n a) s = .next t ∧ t = { s with pools := t.pools } ∧
      t.pools.pool[n]? = some q ∧ q.head = a ∧ nextOf n q a = p.head ∧ (∀ b, b ≠ a → nextOf n q b = nextOf n p b) ∧
      q.free = min (p.free + 1) 4294967295 ∧ q.minFree = p.minFree ∧ q.total = p.total ∧
      (∀ m, m ≠ n → t.pools.pool[m]? = s.pools.pool[m]?) ∧
      t.pools.waitT = s.pools.waitT ∧ t.pools.waitW = s.pools.waitW

/-- R14, R20: with no request waiting, an engine's request for one buffer is served from the smallest pool of the
set that holds one of at least the size; a larger pool than the fitting one counts a fall-through.
R15, R17, R20: a request behind another of its set, or one whose buffers are not all there, stalls last in
line: no free list moves and nothing is held for it.
R15, R20: the oldest stalled request of a set is served when the pools can serve all of it; writing 1 to
KS_POOL_CLEAR clears the minimum, fall-through and stall counters of all pools, not the free counts. -/
def Obligations.PoolsServeRequestsInOrder : Prop :=
  (∀ (s : State) (set e kib k : Nat) (p : Pool), set ≤ 1 → 1 ≤ kib → kib ≤ 256 → s.mode.mode ≠ .coast →
    waitList set s.pools = [] → k ≤ 3 → kib ≤ 4 * 4 ^ k → s.pools.pool[4 * set + k]? = some p → p.head ≠ 0 →
    (∀ j, j < k → kib ≤ 4 * 4 ^ j → ∀ q, s.pools.pool[4 * set + j]? = some q → q.head = 0) →
    ∃ t q, exec (.poolRequest set (.engine e) [kib]) s = .next t ∧ t = { s with pools := t.pools } ∧
      t.pools.pool[4 * set + k]? = some q ∧ q.head = nextOf (4 * set + k) p p.head ∧ q.free = p.free - 1 ∧
      q.fall = (if k = 0 ∨ 4 * 4 ^ (k - 1) < kib then p.fall else min (p.fall + 1) 4294967295) ∧
      (∀ m, m ≠ 4 * set + k → t.pools.pool[m]? = s.pools.pool[m]?) ∧
      t.pools.held = s.pools.held ++ [(.engine e, 4 * set + k, p.head)] ∧
      waitList set t.pools = []) ∧
  (∀ (s : State) (set e : Nat) (sizes : List Nat), requestLegal set (.engine e) sizes s = true →
    s.mode.mode ≠ .coast → (waitList set s.pools ≠ [] ∨ takeAll set sizes s.pools.pool = none) →
    ∃ t, exec (.poolRequest set (.engine e) sizes) s = .next t ∧ t = { s with pools := t.pools } ∧
      waitList set t.pools = waitList set s.pools ++ [{ who := .engine e, sizes := sizes }] ∧
      waitList (1 - set) t.pools = waitList (1 - set) s.pools ∧ t.pools.held = s.pools.held ∧
      (∀ (m : Nat) (p : Pool), s.pools.pool[m]? = some p → ∃ q, t.pools.pool[m]? = some q ∧
        q.head = p.head ∧ q.next = p.next ∧ q.free = p.free ∧
        q.stall = (if m = 4 * set + fitPool (largest sizes) then min (p.stall + 1) 4294967295 else p.stall))) ∧
  ((∀ (s : State) (set e : Nat) (sizes : List Nat) (rest : List PoolReq) (got : List (Nat × Nat)) (ps : List Pool),
    s.mode.mode ≠ .coast → set ≤ 1 → waitList set s.pools = { who := .engine e, sizes := sizes } :: rest →
    takeAll set sizes s.pools.pool = some (got, ps) →
    ∃ t, exec (.poolStallServed set) s = .next (resumeAll t) ∧ t = { s with pools := t.pools } ∧
      waitList set t.pools = rest ∧ t.pools.pool = ps ∧
      t.pools.held = s.pools.held ++ got.map fun b => (.engine e, b.1, b.2)) ∧
  (∀ (s : State) (v : Word32), barOn s = true → v.getLsbD 0 = true →
    ∃ t, exec (.ksPoolClear v) s = .next t ∧ t = { s with pools := { s.pools with pool := t.pools.pool } } ∧
      ∀ (m : Nat) (p : Pool), s.pools.pool[m]? = some p →
        t.pools.pool[m]? = some { p with minFree := p.free, fall := 0, stall := 0, stallUs := 0 }))

/-- R188, R183, R165: power. The always-on supply starts Dormant; a loss of power leaves what flash and the Codex
die hold and nothing else, and the device runs no mode. -/
def Obligations.PowerKeepsFlashAndCodexOnly : Prop :=
  (∀ (s : State), s.mode.mode = .unpowered → exec .powerOnAon s = .next { s with
    pins := { s.pins with aonOk := true, perstN := false }, mode := { s.mode with mode := .dormant } }) ∧
  (∀ (s : State), ∃ t, exec .lossOfPower s = .next t ∧
    t.mode = State.reset.mode ∧ t.clock = State.reset.clock ∧ t.pools = State.reset.pools ∧ t.cat = State.reset.cat ∧
    t.dram = State.reset.dram ∧ t.esc = State.reset.esc ∧ t.pel = State.reset.pel ∧ t.link = State.reset.link ∧
    t.nv.cmds = [] ∧ t.nv.sqs = [] ∧ t.nv.cqs = [] ∧ t.key.loaded = [] ∧ t.wr.transit = [] ∧ t.day.buffer = [] ∧
    t.wr.flash = s.wr.flash ∧ t.led.onFlash = s.led.onFlash ∧ t.day.ring = s.day.ring ∧ t.key.ring = s.key.ring ∧
    t.cdx.flags = s.cdx.flags ∧ t.cdx.colophon = s.cdx.colophon ∧
    (s.cdx.progging = none → t.cdx.mem = s.cdx.mem ∧ t.fol.bankA = s.fol.bankA ∧ t.fol.bankB = s.fol.bankB))

/-- R174, R190, R445: PERST#. A low pulse of 10 µs resets a device that serves no host; released outside a Coast
it begins the start, whose steps end by the clock (that the effects of a step stand at its end is the model's choice,
log entry 53); in a running Coast its release waits for the Coast.
R197, R196, R339, R444: Idle Service gates the units of Table 8.6, a wake ungates one of them, and the engines
and DRAM come back together. -/
def Obligations.PerstAndIdleService : Prop :=
  ((∀ (s : State) (ns : Nat), 10000 ≤ ns → s.mode.mode = .recovery → s.cdx.progging = none →
    ∃ t, exec (.perstAssert ns) s = .next t ∧ t.mode.mode = .dormant ∧ t.pins.perstN = false ∧
      t.clock = s.clock ∧ t.coast.sticky = s.coast.sticky ∧ t.esc.sticky = s.esc.sticky ∧
      t.key.sticky = s.key.sticky ∧ t.dram.sticky = s.dram.sticky ∧ t.day.sticky = s.day.sticky ∧
      t.cdx.mem = s.cdx.mem ∧ t.cdx.colophon = s.cdx.colophon ∧ t.wr.flash = s.wr.flash ∧ t.pending = s.pending) ∧
  (∀ (s : State) (ns : Nat), ns ≤ 1000 → exec (.perstAssert ns) s = .next s) ∧
  (∀ (s : State) (f : StartFacts), s.mode.mode = .dormant →
    ∃ t, exec (.perstDeassert f) s = .next t ∧ t.mode.mode = .rising ∧ t.pins.perstN = true ∧
      t.mode.startRun = some { facts := f, ended := 0, us := s.clock.us } ∧ t.clock = s.clock ∧
      t.cdx = s.cdx ∧ t.wr = s.wr ∧ t.fl = s.fl ∧ t.cat = s.cat ∧ t.nv = s.nv) ∧
  (∀ (s : State) (r : StartRun), s.mode.mode = .rising → s.mode.startRun = some r → r.ended = 0 →
    r.us + 1000 * natAt r.facts.stepMs 0 ≤ s.clock.us → colophonOk s = false →
    (startAdvance s).mode.mode = .recovery ∧ (startAdvance s).mode.reason = 1 ∧
      (startAdvance s).mode.startRun = none ∧ (startAdvance s).wr = s.wr) ∧
  (∀ (s : State) (r : StartRun), s.mode.mode = .rising → s.mode.startRun = some r →
    s.clock.us < r.us + 1000 * natAt r.facts.stepMs r.ended → startAdvance s = s) ∧
  (∀ (s : State) (f : StartFacts), s.mode.mode = .coast → s.pins.perstN = false →
    exec (.perstDeassert f) s = .next { s with
      pins := { s.pins with perstN := true }, coast := { s.coast with perstFacts := some f } })) ∧
  ((∀ (s : State), s.mode.mode = .service → s.mode.idle = false → quiet s = true →
    ∃ t, exec .idleServiceEntry s = .next t ∧
      t = { s with mode := t.mode, link := { s.link with ltrSent := t.link.ltrSent } } ∧
      t.link.ltrSent = (if s.link.cfg.ltr then s.link.ltrSent + 1 else s.link.ltrSent) ∧ t.mode.mode = .service ∧
      t.mode.idle = true ∧ t.mode.gates.engines = true ∧ t.mode.gates.ports = s.mode.gates.ports ∧
      (∀ i, i ∈ t.mode.gates.tiles ↔ i < 64) ∧ (∀ i, i ∈ t.mode.gates.hardDec ↔ i < 128) ∧
      (∀ i, i ∈ t.mode.gates.softDec ↔ i < 24) ∧ (∀ i, i ∈ t.mode.gates.cores ↔ i < 24)) ∧
  (∀ (s : State), s.mode.idle = true →
    ∃ t, exec .idleServiceExit s = .next t ∧
      t = { s with mode := t.mode, dram := t.dram, link := { s.link with ltrSent := t.link.ltrSent } } ∧
      t.link.ltrSent = (if s.link.cfg.ltr then s.link.ltrSent + 1 else s.link.ltrSent) ∧
      t.mode.idle = false ∧ t.mode.gates.engines = false ∧ t.mode.gates.dram = false ∧ t.dram.selfRef = false ∧
      t.mode.gates.tiles = s.mode.gates.tiles) ∧
  (∀ (s : State) (i : Nat), awake s = true →
    ∃ t, exec (.unitWake 0 i) s = .next t ∧ t = { s with mode := t.mode } ∧ t.mode.idle = s.mode.idle ∧
      (∀ j, j ∈ t.mode.gates.tiles ↔ j ∈ s.mode.gates.tiles ∧ j ≠ i)) ∧
  (∀ (s : State), s.mode.idle = true →
    exec .dramSelfRefreshEntry s = .next { s with
      dram := { s.dram with selfRef := true }
      mode := { s.mode with gates := { s.mode.gates with dram := true } } }) ∧
  (∀ (s : State) (duty : Nat), awake s = true → s.mode.mode ≠ .coast → s.mode.mode ≠ .rising → duty ≤ 1000 →
    exec (.coreVsetUpdate duty) s = .next { s with pins := { s.pins with coreVset := duty } }))

/-- R205, R220: a controller reset deletes every queue and command, and keeps the map, the flash and the Codex die;
in Coast an FLR and a Hot Reset are accepted at configuration level and change nothing else. -/
def Obligations.ControllerResetsKeepTheMap : Prop :=
  (∀ (s : State), awake s = true → s.mode.mode ≠ .coast →
    ∃ t, exec .functionLevelReset s = .next t ∧ t.nv.sqs = [] ∧ t.nv.cqs = [] ∧ t.nv.cmds = [] ∧ t.nv.waiting = [] ∧
      t.nv.aers = [] ∧ t.nv.rdy = false ∧ t.nv.cc = 0 ∧ t.wr.locks = [] ∧ t.link = { s.link with d3hot := false } ∧
      t.nv.nss = s.nv.nss ∧ t.nv.posted = s.nv.posted ∧ t.cat = s.cat ∧ t.led = s.led ∧ t.blk = s.blk ∧
      t.wr.flash = s.wr.flash ∧ t.fol = { s.fol with committing := none } ∧ t.key.loaded = s.key.loaded ∧ t.mode.mode = s.mode.mode) ∧
  (∀ (s : State), awake s = true → s.mode.mode ≠ .coast →
    ∃ t, exec .hotReset s = .next t ∧ t.nv.sqs = [] ∧ t.nv.cqs = [] ∧ t.nv.cmds = [] ∧ t.nv.rdy = false ∧
      t.nv.cc = 0 ∧ t.nv.msixTab = [] ∧ t.link.d3hot = false ∧ t.link.aspm = 0 ∧ t.link.ecrcCheck = s.link.ecrcCheck ∧
      t.link.cfg.memory = false ∧ t.link.cfg.severity = s.link.cfg.severity ∧
      t.link.uncorr = s.link.uncorr ∧ t.cat = s.cat ∧ t.led = s.led ∧ t.blk = s.blk ∧ t.wr.flash = s.wr.flash ∧
      t.key.ranges = s.key.ranges.map (fun r =>
        if r.onHot then { r with readLocked := true, writeLocked := true } else r)) ∧
  (∀ (s : State), awake s = true → s.mode.mode ≠ .coast →
    ∃ t, exec .linkDown s = .next t ∧ t.link.up = false ∧ t.nv.sqs = [] ∧ t.nv.cqs = [] ∧ t.nv.cmds = [] ∧
      t.nv.rdy = false ∧ t.cat = s.cat ∧ t.led = s.led ∧ t.blk = s.blk ∧ t.wr.flash = s.wr.flash) ∧
  (∀ (s : State), awake s = true → s.link.d3hot = false → s.nv.cc.getLsbD 0 = true → s.mode.mode ≠ .coast →
    ∃ t, exec .ccEnClear s = .next t ∧ t.nv.cc = s.nv.cc &&& 0xFFFF3FFE#32 ∧ t.nv.rdy = false ∧ t.nv.shst = 0 ∧
      t.nv.sqs = [] ∧ t.nv.cqs = [] ∧ t.nv.cmds = [] ∧ t.cat = s.cat ∧ t.led = s.led ∧ t.wr.flash = s.wr.flash) ∧
  (∀ (s : State), s.mode.mode = .coast →
    exec .functionLevelReset s = .next { s with link := { s.link with d3hot := false } } ∧
    ∃ t, exec .hotReset s = .next t ∧ t = { s with link := t.link, nv := t.nv } ∧ t.nv.msixTab = [] ∧
      t.link.d3hot = false ∧ t.link.aspm = 0 ∧ t.link.cfg.memory = false ∧
      t.nv = { s.nv with msixTab := [], pba := [] })

/-- R191, R201, R207, R208, R213: register writes. INTMS sets bits, INTMC clears them, CC, AQA, ASQ and ACQ keep their fields, a word
of the MSI-X table is stored, a clearing register of BAR2 acts as its own command does, a configuration write reaches the
Command register, and a write to any other place, or one that no register hears, is ignored.
R192, R213, R174: CC.EN and CC.SHN. Enabling makes the admin queues of AQA and shows readiness; a shutdown
notification shows SHST, and in a mode that runs no Coast it completes at once. -/
def Obligations.RegistersEnableAndShutdown : Prop :=
  ((∀ (s : State) (v : Nat), awake s = true → s.link.d3hot = false →
    exec (.registerWrite 0 0x0C 4 v) s = .next { s with nv := { s.nv with intms := s.nv.intms ||| BitVec.ofNat 32 v } }) ∧
  (∀ (s : State) (v : Nat), awake s = true → s.link.d3hot = false →
    exec (.registerWrite 0 0x10 4 v) s = .next { s with nv := { s.nv with intms := s.nv.intms &&& ~~~ BitVec.ofNat 32 v } }) ∧
  (∀ (s : State) (v : Nat), awake s = true → s.link.d3hot = false →
    exec (.registerWrite 0 0x24 4 v) s = .next { s with nv := { s.nv with aqa := BitVec.ofNat 32 v &&& 0x0FFF0FFF#32 } }) ∧
  (∀ (s : State) (v : Nat), awake s = true → s.link.d3hot = false →
    exec (.registerWrite 0 0x28 8 v) s = .next { s with nv := { s.nv with
      asq := BitVec.ofNat 64 v &&& 0xFFFFFFFFFFFFF000#64 } }) ∧
  (∀ (s : State) (v : Nat), awake s = true → s.link.d3hot = false →
    exec (.registerWrite 0 0x30 8 v) s = .next { s with nv := { s.nv with
      acq := BitVec.ofNat 64 v &&& 0xFFFFFFFFFFFFF000#64 } } ∧
    exec (.registerWrite 0 0x14 4 v) s = .next { s with nv := { s.nv with
      cc := (s.nv.cc &&& 0xC001#32) ||| (BitVec.ofNat 32 v &&& 0x00FF3FF0#32) } } ∧
    exec (.registerWrite 0 0x28 4 v) s = .next { s with nv := { s.nv with
      asq := (s.nv.asq.extractLsb' 32 32 : BitVec 32) ++ (BitVec.ofNat 32 v &&& 0xFFFFF000#32) } } ∧
    exec (.registerWrite 0 0x2C 4 v) s = .next { s with nv := { s.nv with
      asq := BitVec.ofNat 32 v ++ (s.nv.asq.extractLsb' 0 32 : BitVec 32) } } ∧
    exec (.registerWrite 0 0x30 4 v) s = .next { s with nv := { s.nv with
      acq := (s.nv.acq.extractLsb' 32 32 : BitVec 32) ++ (BitVec.ofNat 32 v &&& 0xFFFFF000#32) } } ∧
    exec (.registerWrite 0 0x34 4 v) s = .next { s with nv := { s.nv with
      acq := BitVec.ofNat 32 v ++ (s.nv.acq.extractLsb' 0 32 : BitVec 32) } }) ∧
  (∀ (s : State) (off size v : Nat), (off, size) ∉ [(0x0C, 4), (0x10, 4), (0x14, 4), (0x24, 4), (0x28, 8), (0x28, 4),
      (0x2C, 4), (0x30, 8), (0x30, 4), (0x34, 4)] →
    exec (.registerWrite 0 off size v) s = .next s) ∧
  (∀ (s : State) (i v : Nat), awake s = true → s.link.d3hot = false → i < 8192 →
    ∃ t, exec (.registerWrite 4 (4 * i) 4 v) s = .next t ∧
      t = { s with nv := { s.nv with msixTab := t.nv.msixTab, pba := t.nv.pba, msix := t.nv.msix } } ∧
      ∀ j, mapAt (if j % 4 = 3 then 1 else 0) j t.nv.msixTab =
        if j = i then v % 4294967296 else mapAt (if j % 4 = 3 then 1 else 0) j s.nv.msixTab) ∧
  (∀ (s : State) (off size v : Nat), off % 4 ≠ 0 ∨ size ≠ 4 ∨ 0x8000 ≤ off →
    exec (.registerWrite 4 off size v) s = .next s) ∧
  (∀ (s : State) (v : Nat), awake s = true → s.link.d3hot = false →
    exec (.registerWrite 2 0x134 4 v) s = exec (.ksPoolClear (BitVec.ofNat 32 v)) s ∧
    exec (.registerWrite 2 0x58C 4 v) s = exec (.ksDramClear (BitVec.ofNat 32 v)) s ∧
    exec (.registerWrite 2 0x200C 4 v) s = exec (.ksEscClear (BitVec.ofNat 32 v)) s ∧
    ∀ i, i < 5 → exec (.registerWrite 2 (0x200 + 4 * i) 4 v) s = exec (.stickyRw1cWrite i (BitVec.ofNat 32 v)) s) ∧
  (∀ (s : State) (off size v : Nat), size ≠ 4 ∨ off % 4 ≠ 0 ∨ off < 0x130 →
    exec (.registerWrite 2 off size v) s = .next s) ∧
  (∀ (s : State) (v : Nat), configOn s = true →
    exec (.registerWrite 255 0x04 4 v) s = .next { s with link := { s.link with cfg := { s.link.cfg with
      memory := v.testBit 1, master := v.testBit 2 } } }) ∧
  (∀ (s : State) (off v : Nat), configOn s = false → exec (.registerWrite 255 off 4 v) s = .next s) ∧
  (∀ (s : State) (bar off size v : Nat), bar ≠ 255 → (awake s = false ∨ s.link.d3hot = true ∨ bar ∉ [0, 2, 4]) →
    exec (.registerWrite bar off size v) s = .next s)) ∧
  ((∀ (s : State), awake s = true → s.link.d3hot = false → s.nv.cc.getLsbD 0 = false → s.mode.mode ≠ .coast →
    ∃ t, exec .ccEnSet s = .next t ∧ t = { s with nv := t.nv } ∧ t.nv.cc = s.nv.cc ||| 1 ∧ t.nv.rdy = s.mode.ready ∧
      t.nv.sqs = [{ qid := 0, size := (s.nv.aqa.extractLsb' 0 12).toNat + 1, cqid := 0, prio := 0, tail := 0,
                    head := 0, fence := none }] ∧
      t.nv.cqs = [{ qid := 0, size := (s.nv.aqa.extractLsb' 16 12).toNat + 1, vector := 0, ien := true, head := 0,
                    tail := 0 }]) ∧
  (∀ (s : State), awake s = true → s.link.d3hot = false → s.mode.mode = .recovery →
    exec .shutdownNormal s = .next { s with nv := { s.nv with
      shst := 2, cc := (s.nv.cc &&& 0xFFFF3FFF#32) ||| 0x4000#32 } }) ∧
  (∀ (s : State), awake s = true → s.link.d3hot = false → s.mode.mode = .recovery →
    exec .shutdownAbrupt s = .next { s with nv := { s.nv with
      shst := 2, cc := (s.nv.cc &&& 0xFFFF3FFF#32) ||| 0x8000#32 } }) ∧
  (∀ (s : State), serving s = true → s.link.d3hot = false → s.nv.shst = 0 → commandsDone s = false →
    exec .shutdownNormal s = .next { s with nv := { s.nv with
      shst := 1, cc := (s.nv.cc &&& 0xFFFF3FFF#32) ||| 0x4000#32 } }) ∧
  (∀ (s : State), serving s = true → s.link.d3hot = false →
    exec .shutdownAbrupt s = .next (coastRuns .abrupt { s with nv := { s.nv with
      shst := 1, cc := (s.nv.cc &&& 0xFFFF3FFF#32) ||| 0x8000#32 } })))

/-- R191, R198, R203, R206: the link's events. A first L0 of a start stores its time; each error of Table 9.5
is logged and changes the link alone; a D-state change leaves the controller as it is.
R203: a completion that carried an error ends its command with Data Transfer Error, except a write whose cards
are placed already; a fetched entry that failed completes with the CID as received. -/
def Obligations.LinkEventsAndErrors : Prop :=
  ((∀ (s : State) (ms rate width : Nat) (flit : Bool), awake s = true → linkLegal rate width flit = true →
    s.link.seenL0 = false →
    exec (.linkUp ms rate width flit) s = .next { s with
      link := { s.link with
        up := true, seenL0 := true, rate := rate, width := width, flit := flit, fatal := false, aspm := 0 }
      mode := { s.mode with startLink := min ms 4294967295 } }) ∧
  (∀ (s : State) (ms rate width : Nat) (flit : Bool), awake s = true → linkLegal rate width flit = true →
    s.link.seenL0 = true →
    exec (.linkUp ms rate width flit) s = .next { s with
      link := { s.link with
        up := true, rate := rate, width := width, flit := flit, fatal := false, aspm := 0 } }) ∧
  (∀ (s : State) (d3 : Bool), awake s = true →
    exec (.dStateChange d3) s = .next { s with link := { s.link with d3hot := d3 } }) ∧
  (∀ (s : State), awake s = true → exec .unexpectedCompletion s = .next { s with
    link := { s.link with dropped := s.link.dropped + 1, uncorr := s.link.uncorr ++ [3], errMsgs := s.link.errMsgs ++ [(3, aerKind s 3)] } }) ∧
  (∀ (s : State), awake s = true → exec (.unsupportedRequest true) s = .next { s with
    link := { s.link with urSent := s.link.urSent + 1, uncorr := s.link.uncorr ++ [4], errMsgs := s.link.errMsgs ++ [(4, aerKind s 4)] } }) ∧
  (∀ (s : State), awake s = true → exec (.unsupportedRequest false) s = .next { s with
    link := { s.link with uncorr := s.link.uncorr ++ [4], errMsgs := s.link.errMsgs ++ [(4, aerKind s 4)] } }) ∧
  (∀ (s : State) (k : Nat), awake s = true → exec (.malformedTlp k) s = .next { s with
    link := { s.link with fatal := true, uncorr := s.link.uncorr ++ [5], errMsgs := s.link.errMsgs ++ [(5, aerKind s 5)] } }) ∧
  (∀ (s : State) (k : Nat), awake s = true → ∃ t, exec (.correctableLinkError k) s = .next t ∧
    t = { s with link := { s.link with corrErrs := t.link.corrErrs, flitErrs := t.link.flitErrs }, nv := { s.nv with c1 := t.nv.c1 } } ∧
    t.link.corrErrs = min (s.link.corrErrs + 1) 4294967295 ∧
    t.link.flitErrs = (if k = 1 then min (s.link.flitErrs + 1) 4294967295 else s.link.flitErrs) ∧
    (∀ n, n ≠ 19 → t.nv.c1[n]? = s.nv.c1[n]?) ∧
    ∀ v, s.nv.c1[19]? = some v → t.nv.c1[19]? = some (min (v + 1) 18446744073709551615)) ∧
  (∀ (s : State) (sub : Nat), awake s = true → s.link.up = true → sub ≤ 2 →
    exec (.aspmL1 true sub) s = .next { s with
      link := { s.link with aspm := sub + 1 }
      mode := { s.mode with gates := { s.mode.gates with pcie := decide (sub = 2) } } }) ∧
  (∀ (s : State) (sub : Nat), awake s = true → s.link.up = true → sub ≤ 2 →
    exec (.aspmL1 false sub) s = .next { s with
      link := { s.link with aspm := 0 }, mode := { s.mode with gates := { s.mode.gates with pcie := false } } })) ∧
  ((∀ (s : State) (n : Nat) (c : Cmd), awake s = true → cmdAt s n = some c → c.phase ≠ .placed →
    ∃ t, exec (.poisonedTlp (.dataOf n) false) s = .next t ∧ Ended n c (0, 0x04) 0 s t ∧
      t.link.uncorr = s.link.uncorr ++ [0] ∧ t.cat = s.cat ∧ t.led = s.led ∧ t.wr = s.wr) ∧
  (∀ (s : State) (n : Nat) (c : Cmd), awake s = true → cmdAt s n = some c → c.phase ≠ .placed →
    ∃ t, exec (.completionTimeout (.dataOf n)) s = .next t ∧ Ended n c (0, 0x04) 0 s t ∧
      t.link.uncorr = s.link.uncorr ++ [2] ∧ t.cat = s.cat ∧ t.led = s.led ∧ t.wr = s.wr) ∧
  (∀ (s : State), awake s = true → exec (.poisonedTlp .barWrite false) s = .next { s with
    link := { s.link with uncorr := s.link.uncorr ++ [1], errMsgs := s.link.errMsgs ++ [(1, aerKind s 1)] } }) ∧
  (∀ (s : State) (k : TlpKind), s.link.ecrcCheck = false → exec (.poisonedTlp k true) s = .next s))

/-- R215: doorbells. A valid tail is latched in its queue and wakes the engines; a valid head frees entries of its
queue and ends Idle Service too; a value outside the queue changes no queue. -/
def Obligations.DoorbellsMoveTheirQueueAlone : Prop :=
  (∀ (s : State) (q : Sq) (n tail : Nat), doorbellsLive s = true → sqAt s n = some q → tail < q.size →
    ∃ t, exec (.sqTailDoorbell n tail) s = .next t ∧
      t = { s with nv := t.nv, mode := t.mode, dram := t.dram, link := t.link } ∧
      t.link = { s.link with ltrSent := t.link.ltrSent } ∧
      t.nv = { s.nv with sqs := t.nv.sqs } ∧ sqAt t n = some { q with tail := tail } ∧
      (∀ m, m ≠ n → sqAt t m = sqAt s m) ∧ t.mode.idle = false ∧ t.mode.mode = s.mode.mode) ∧
  (∀ (s : State) (q : Sq) (n tail : Nat), doorbellsLive s = true → sqAt s n = some q → q.size ≤ tail →
    s.nv.aers = [] → exec (.sqTailDoorbell n tail) s = .next s) ∧
  (∀ (s : State) (q : Cq) (n head : Nat), doorbellsLive s = true → cqAt s n = some q → head < q.size →
    (head + q.size - q.head) % q.size ≤ cqUsed q →
    ∃ t, exec (.cqHeadDoorbell n head) s = .next t ∧
      t = { s with nv := { s.nv with cqs := t.nv.cqs }, mode := t.mode, dram := t.dram, link := t.link } ∧
      t.link = { s.link with ltrSent := t.link.ltrSent } ∧ t.mode.idle = false ∧ t.mode.mode = s.mode.mode ∧
      cqAt t n = some { q with head := head } ∧ (∀ m, m ≠ n → cqAt t m = cqAt s m)) ∧
  (∀ (s : State) (q : Cq) (n head : Nat), doorbellsLive s = true → cqAt s n = some q →
    (q.size ≤ head ∨ cqUsed q < (head + q.size - q.head) % q.size) → s.nv.aers = [] →
    exec (.cqHeadDoorbell n head) s = .next s)

/-- R215, R217, R71: the fetch takes the entry at the head of its queue into its slot, and an Ordered Write fences
its queue. -/
def Obligations.FetchTakesTheHeadEntry : Prop :=
  ∀ (s : State) (slot n : Nat) (q : Sq) (e : SqEntry), fetchLegal slot n s = true → sqAt s n = some q →
    atBoundary s = s → pointerOk n e = true → (n = 0 ∨ fetchStatus s e = none) →
    ∃ t, exec (.commandFetch slot n e) s = .next t ∧ cmdAt t slot = some (newCmd slot n q.cqid e s) ∧
      sqAt t n = some { q with
        head := (q.head + 1) % q.size, fence := if n ≠ 0 ∧ e.opcode = 0x81 then some slot else q.fence } ∧
      (∀ m, m ≠ n → sqAt t m = sqAt s m) ∧ (∀ m, m ≠ slot → cmdAt t m = cmdAt s m) ∧
      t.nv.waiting = s.nv.waiting ∧ t.cat = s.cat ∧ t.led = s.led ∧ t.pools = s.pools ∧ t.mode.idle = false

/-- R218, R219, R71: the oldest waiting completion whose queue has room is posted at that queue's tail, its slot
frees, and the fence of an Ordered Write in that slot falls.
R201, R219: the aggregation time of a vector with waiting entries sends its message, or its pending bit while it
is masked. -/
def Obligations.CompletionsAndTheirMessages : Prop :=
  (∀ (s : State) (c : Completion) (q : Cq), s.mode.mode ≠ .coast → s.nv.cc.getLsbD 0 = true → s.link.d3hot = false →
    nextToPost s = some c → cqAt s c.cq = some q →
    ∃ t, exec .completionPost s = .next t ∧ t = { s with nv := t.nv } ∧ t.nv.posted = s.nv.posted ++ [c] ∧
      t.nv.waiting = s.nv.waiting.filter (fun x => x.slot != c.slot) ∧
      cqAt t c.cq = some { q with tail := (q.tail + 1) % q.size } ∧ (∀ m, m ≠ c.cq → cqAt t m = cqAt s m) ∧
      t.nv.sqs = s.nv.sqs.map (fun x => if x.fence = some c.slot then { x with fence := none } else x) ∧
      t.nv.cmds = s.nv.cmds ∧ (q.ien = false → t.nv.msix = s.nv.msix)) ∧
  ((∀ (s : State) (v : Nat), s.mode.mode ≠ .coast → s.link.d3hot = false →
    (vectorAt s v).waiting ≠ 0 → vectorMasked s v = false →
    ∃ t, exec (.interruptCoalesceExpiry v) s = .next t ∧
      t = { s with nv := { s.nv with msix := s.nv.msix ++ [v], vectors := t.nv.vectors } } ∧
      (vectorAt t v).waiting = 0 ∧ (∀ w, w ≠ v → vectorAt t w = vectorAt s w)) ∧
  (∀ (s : State) (v : Nat), s.mode.mode ≠ .coast → s.link.d3hot = false →
    (vectorAt s v).waiting ≠ 0 → vectorMasked s v = true →
    ∃ t, exec (.interruptCoalesceExpiry v) s = .next t ∧ v ∈ t.nv.pba ∧ t.nv.msix = s.nv.msix ∧
      t = { s with nv := { s.nv with pba := t.nv.pba, vectors := t.nv.vectors } }))

/-- R214, R221: creating and deleting I/O queues.
R215, R221, R223, R236: Abort, Asynchronous Event Request, and opcodes outside Table 10.3. -/
def Obligations.QueuesAbortsAndEvents : Prop :=
  ((∀ (s : State) (slot : Nat) (c : Cmd), AdminReady slot c s → c.e.opcode = 0x05 → cqAt s (createQid c.e) = none →
    1 ≤ createQid c.e → createQid c.e ≤ 4096 → 2 ≤ createSize c.e → bitsOf c.e.dw11 31 16 ≤ 2047 →
    c.e.dw11 % 2 = 1 →
    ∃ t, exec (.createIoCompletionQueue slot) s = .next t ∧ t = { s with nv := t.nv } ∧ Ended slot c (0, 0) 0 s t ∧
      t.nv.sqs = s.nv.sqs ∧
      t.nv.cqs = s.nv.cqs ++ [{
        qid := createQid c.e, size := createSize c.e, vector := bitsOf c.e.dw11 31 16
        ien := c.e.dw11.testBit 1, head := 0, tail := 0 }]) ∧
  (∀ (s : State) (slot : Nat) (c : Cmd) (x : Cq), AdminReady slot c s → c.e.opcode = 0x01 →
    sqAt s (createQid c.e) = none → 1 ≤ createQid c.e → createQid c.e ≤ 4096 → 2 ≤ createSize c.e →
    1 ≤ bitsOf c.e.dw11 31 16 → bitsOf c.e.dw11 31 16 ≤ 4096 → cqAt s (bitsOf c.e.dw11 31 16) = some x →
    c.e.dw11 % 2 = 1 →
    ∃ t, exec (.createIoSubmissionQueue slot) s = .next t ∧ t = { s with nv := t.nv } ∧ Ended slot c (0, 0) 0 s t ∧
      t.nv.cqs = s.nv.cqs ∧
      t.nv.sqs = s.nv.sqs ++ [{
        qid := createQid c.e, size := createSize c.e, cqid := bitsOf c.e.dw11 31 16
        prio := bitsOf c.e.dw11 2 1, tail := 0, head := 0, fence := none }]) ∧
  (∀ (s : State) (slot : Nat) (c : Cmd) (x : Cq), AdminReady slot c s → c.e.opcode = 0x04 →
    bitsOf c.e.dw10 15 0 ≠ 0 → cqAt s (bitsOf c.e.dw10 15 0) = some x →
    (∀ q ∈ s.nv.sqs, q.cqid ≠ bitsOf c.e.dw10 15 0) → (∀ y ∈ s.nv.waiting, y.cq ≠ bitsOf c.e.dw10 15 0) →
    ∃ t, exec (.deleteIoCompletionQueue slot) s = .next t ∧ t = { s with nv := t.nv } ∧ Ended slot c (0, 0) 0 s t ∧
      t.nv.cqs = s.nv.cqs.filter (fun y => y.qid != bitsOf c.e.dw10 15 0) ∧ t.nv.sqs = s.nv.sqs) ∧
  (∀ (s : State) (slot : Nat) (c : Cmd) (x : Sq), AdminReady slot c s → c.e.opcode = 0x00 →
    bitsOf c.e.dw10 15 0 ≠ 0 → sqAt s (bitsOf c.e.dw10 15 0) = some x →
    (∀ y ∈ s.nv.cmds, y.qid ≠ bitsOf c.e.dw10 15 0) → (∀ y ∈ s.nv.waiting, y.sq ≠ bitsOf c.e.dw10 15 0) →
    ∃ t, exec (.deleteIoSubmissionQueue slot) s = .next t ∧ t = { s with nv := t.nv } ∧ Ended slot c (0, 0) 0 s t ∧
      t.nv.sqs = s.nv.sqs.filter (fun y => y.qid != bitsOf c.e.dw10 15 0) ∧ t.nv.cqs = s.nv.cqs)) ∧
  ((∀ (s : State) (slot : Nat) (c : Cmd), AdminReady slot c s → c.e.opcode = 0x08 →
    (∀ x ∈ s.nv.cmds, x.slot ≠ slot →
      ¬ (x.qid = bitsOf c.e.dw10 15 0 ∧ x.e.cid = bitsOf c.e.dw10 31 16 ∧ abortable x = true)) →
    ∃ t, exec (.abort slot) s = .next t ∧ t = { s with nv := t.nv } ∧ Ended slot c (0, 0) 1 s t ∧
      ∀ n, n ≠ slot → cmdAt t n = cmdAt s n) ∧
  (∀ (s : State) (slot : Nat) (c x : Cmd), AdminReady slot c s → c.e.opcode = 0x08 →
    (s.nv.cmds.find? fun y => y.qid = bitsOf c.e.dw10 15 0 && y.e.cid = bitsOf c.e.dw10 31 16 && y.slot != slot) = some x →
    cmdAt s x.slot = some x → abortable x = true →
    ∃ t, exec (.abort slot) s = .next t ∧ t = { s with nv := t.nv, pools := t.pools } ∧
      t.nv.waiting = s.nv.waiting ++ [entryOf x.slot x (0, 7) 0, entryOf slot c (0, 0) 0] ∧
      cmdAt t slot = none ∧ cmdAt t x.slot = none ∧ ∀ n, n ≠ slot → n ≠ x.slot → cmdAt t n = cmdAt s n) ∧
  (∀ (s : State) (slot : Nat) (c : Cmd), AdminReady slot c s → c.e.opcode = 0x0C → s.nv.events = [] →
    s.nv.aers.length < 16 →
    ∃ t, exec (.asynchronousEventRequest slot) s = .next t ∧ t = { s with nv := t.nv } ∧
      t.nv.aers = s.nv.aers ++ [slot] ∧ t.nv.waiting = s.nv.waiting ∧
      cmdAt t slot = some { c with phase := .running }) ∧
  (∀ (s : State) (slot : Nat) (c : Cmd) (ev : AsyncEvent) (rest : List AsyncEvent), AdminReady slot c s →
    c.e.opcode = 0x0C → s.nv.events = ev :: rest →
    ∃ t, exec (.asynchronousEventRequest slot) s = .next t ∧ t = { s with nv := t.nv } ∧ t.nv.events = rest ∧
      Ended slot c (0, 0) (ev.typ + 256 * ev.info + 65536 * eventPage ev.typ ev.info) s t) ∧
  (∀ (s : State) (slot : Nat) (c : Cmd), AdminReady slot c s → c.e.opcode ∉ adminOpcodes →
    ∃ t, exec (.invalidAdminOpcode slot) s = .next t ∧ t = { s with nv := t.nv } ∧ Ended slot c (0, 1) 0 s t) ∧
  (∀ (s : State) (slot : Nat) (c : Cmd), IoReady slot c s → ioOpcode c.e.opcode = false →
    ∃ t, exec (.invalidIoOpcode slot) s = .next t ∧ t = { s with nv := t.nv } ∧ Ended slot c (0, 1) 0 s t))

/-- R219, R224, Table 10.4: Set Features changes the named feature alone, completes with success, and shows the new
value; Number of Queues always answers 0x0FFF_0FFF.
R224, R229, R394: the other features, what Get Features shows, and the identifiers that do not exist. -/
def Obligations.FeaturesAreSetAndShown : Prop :=
  ((∀ (s : State) (slot : Nat) (c : Cmd), AdminReady slot c s → isSet 0x01 c.e = true →
    ∃ t, exec (.setFeaturesArbitration slot) s = .next t ∧ t = { s with nv := t.nv } ∧ Ended slot c (0, 0) 0 s t ∧
      t.nv.feat = { s.nv.feat with
        arbHigh := bitsOf c.e.dw11 31 24, arbMed := bitsOf c.e.dw11 23 16, arbLow := bitsOf c.e.dw11 15 8,
        arbBurst := bitsOf c.e.dw11 2 0 }) ∧
  (∀ (s : State) (slot : Nat) (c : Cmd), AdminReady slot c s → isSet 0x02 c.e = true → bitsOf c.e.dw11 4 0 ≤ 2 →
    ∃ t, exec (.setFeaturesPowerManagement slot) s = .next t ∧ t = { s with nv := t.nv } ∧
      Ended slot c (0, 0) 0 s t ∧ t.nv.feat = { s.nv.feat with power := bitsOf c.e.dw11 4 0 }) ∧
  (∀ (s : State) (slot : Nat) (c : Cmd), AdminReady slot c s → isSet 0x02 c.e = true → 2 < bitsOf c.e.dw11 4 0 →
    ∃ t, exec (.setFeaturesPowerManagement slot) s = .next t ∧ t = { s with nv := t.nv } ∧
      Ended slot c (0, 2) 0 s t ∧ t.nv.feat = s.nv.feat) ∧
  (∀ (s : State) (slot : Nat) (c : Cmd), AdminReady slot c s → isSet 0x04 c.e = true → bitsOf c.e.dw11 19 16 ≤ 8 →
    bitsOf c.e.dw11 21 20 ≤ 1 →
    ∃ t, exec (.setFeaturesTemperatureThreshold slot) s = .next t ∧ t = { s with nv := t.nv } ∧
      Ended slot c (0, 0) 0 s t ∧ t.nv.feat = if bitsOf c.e.dw11 21 20 = 0 then { s.nv.feat with
          overTemp := s.nv.feat.overTemp.set (bitsOf c.e.dw11 19 16) (bitsOf c.e.dw11 15 0) }
        else { s.nv.feat with
          underTemp := s.nv.feat.underTemp.set (bitsOf c.e.dw11 19 16) (bitsOf c.e.dw11 15 0) }) ∧
  (∀ (s : State) (slot : Nat) (c : Cmd), AdminReady slot c s → isSet 0x04 c.e = true → bitsOf c.e.dw11 19 16 = 15 →
    bitsOf c.e.dw11 21 20 ≤ 1 →
    ∃ t, exec (.setFeaturesTemperatureThreshold slot) s = .next t ∧ t = { s with nv := t.nv } ∧
      Ended slot c (0, 0) 0 s t ∧ t.nv.feat = if bitsOf c.e.dw11 21 20 = 0 then { s.nv.feat with
          overTemp := s.nv.feat.overTemp.map fun _ => bitsOf c.e.dw11 15 0 }
        else { s.nv.feat with underTemp := s.nv.feat.underTemp.map fun _ => bitsOf c.e.dw11 15 0 }) ∧
  (∀ (s : State) (slot : Nat) (c : Cmd), AdminReady slot c s → isSet 0x04 c.e = true →
    (8 < bitsOf c.e.dw11 19 16 ∧ bitsOf c.e.dw11 19 16 ≠ 15) ∨ 1 < bitsOf c.e.dw11 21 20 →
    ∃ t, exec (.setFeaturesTemperatureThreshold slot) s = .next t ∧ t = { s with nv := t.nv } ∧
      Ended slot c (0, 2) 0 s t ∧ t.nv.feat = s.nv.feat) ∧
  (∀ (s : State) (slot : Nat) (c : Cmd), AdminReady slot c s → isSet 0x07 c.e = true →
    ∃ t, exec (.setFeaturesNumberOfQueues slot) s = .next t ∧ t = { s with nv := t.nv } ∧
      Ended slot c (0, 0) 0x0FFF0FFF s t ∧ t.nv.feat = s.nv.feat) ∧
  (∀ (s : State) (slot : Nat) (c : Cmd), AdminReady slot c s → isSet 0x08 c.e = true →
    ∃ t, exec (.setFeaturesInterruptCoalescing slot) s = .next t ∧ t = { s with nv := t.nv } ∧
      Ended slot c (0, 0) 0 s t ∧ t.nv.feat = { s.nv.feat with
        coalThr := bitsOf c.e.dw11 7 0, coalTime := bitsOf c.e.dw11 15 8 }) ∧
  (∀ (s : State) (slot : Nat) (c : Cmd), AdminReady slot c s → isSet 0x09 c.e = true → bitsOf c.e.dw11 15 0 ≤ 2047 →
    ∃ t, exec (.setFeaturesIntVectorConfig slot) s = .next t ∧ t = { s with nv := t.nv } ∧
      Ended slot c (0, 0) 0 s t ∧ (vectorAt t (bitsOf c.e.dw11 15 0)).noCoal = c.e.dw11.testBit 16 ∧
      (∀ w, w ≠ bitsOf c.e.dw11 15 0 → vectorAt t w = vectorAt s w)) ∧
  (∀ (s : State) (slot : Nat) (c : Cmd), AdminReady slot c s → isSet 0x09 c.e = true → 2047 < bitsOf c.e.dw11 15 0 →
    ∃ t, exec (.setFeaturesIntVectorConfig slot) s = .next t ∧ t = { s with nv := t.nv } ∧
      Ended slot c (0, 2) 0 s t ∧ t.nv.feat = s.nv.feat ∧ t.nv.vectors = s.nv.vectors)) ∧
  ((∀ (s : State) (slot : Nat) (c : Cmd), AdminReady slot c s → isSet 0x0A c.e = true →
    ∃ t, exec (.setFeaturesWriteAtomicity slot) s = .next t ∧ t = { s with nv := t.nv } ∧
      Ended slot c (0, 0) 0 s t ∧ t.nv.feat = { s.nv.feat with atomicity := c.e.dw11 % 2 }) ∧
  (∀ (s : State) (slot : Nat) (c : Cmd), AdminReady slot c s → isSet 0x0B c.e = true →
    ∃ t, exec (.setFeaturesAsyncEventConfig slot) s = .next t ∧ t = { s with nv := t.nv } ∧
      Ended slot c (0, 0) 0 s t ∧ t.nv.feat = { s.nv.feat with async := BitVec.ofNat 32 c.e.dw11 &&& 0xBFF#32 }) ∧
  (∀ (s : State) (slot ms : Nat) (c : Cmd), AdminReady slot c s → isSet 0x0E c.e = true → ms < 281474976710656 →
    ∃ t, exec (.setFeaturesTimestamp slot ms) s = .next t ∧ Ended slot c (0, 0) 0 s t ∧
      t.nv.feat = { s.nv.feat with stampMs := ms, stampAt := s.clock.opMs, stampOrigin := 1 } ∧
      t.wr = s.wr ∧ t.cat = s.cat ∧ t.led = s.led) ∧
  (∀ (s : State) (slot : Nat) (c : Cmd), AdminReady slot c s → c.e.opcode = 0x09 → saveBit c.e = true →
    ∃ t, exec (.setFeaturesUnsupported slot) s = .next t ∧ t = { s with nv := t.nv } ∧
      Ended slot c (1, 0x0D) 0 s t ∧ t.nv.feat = s.nv.feat) ∧
  (∀ (s : State) (slot : Nat) (c : Cmd), AdminReady slot c s → c.e.opcode = 0x09 → saveBit c.e = false →
    lowByte c.e ∉ featureIds →
    ∃ t, exec (.setFeaturesUnsupported slot) s = .next t ∧ t = { s with nv := t.nv } ∧
      Ended slot c (0, 2) 0 s t ∧ t.nv.feat = s.nv.feat) ∧
  (∀ (s : State) (slot : Nat) (c : Cmd), AdminReady slot c s → c.e.opcode = 0x0A → lowByte c.e = 0x08 →
    bitsOf c.e.dw10 10 8 = 0 →
    ∃ t, exec (.getFeatures slot) s = .next t ∧ t = { s with nv := t.nv } ∧ t.nv.feat = s.nv.feat ∧
      Ended slot c (0, 0) (s.nv.feat.coalThr + 256 * s.nv.feat.coalTime) s t) ∧
  (∀ (s : State) (slot v : Nat) (b : Option Blob) (c : Cmd), AdminReady slot c s → c.e.opcode = 0x0A →
    featureAnswer s c.e = (scSuccess, v, b) →
    ∃ t, exec (.getFeatures slot) s = .next t ∧ t = { s with nv := t.nv } ∧ t.nv.feat = s.nv.feat ∧
      Ended slot c (0, 0) v s t ∧ t.nv.dataOut = s.nv.dataOut ++ b.toList.map fun x => (c.e.cid, x)) ∧
  (∀ (s : State) (slot : Nat) (c : Cmd), AdminReady slot c s → c.e.opcode = 0x0A → lowByte c.e ∉ featureIds →
    ∃ t, exec (.getFeatures slot) s = .next t ∧ t = { s with nv := t.nv } ∧ Ended slot c (0, 2) 0 s t))

/-- R221, R225, R226: Identify and Get Log Page send the bytes of the structure or page and complete with success; a
CNS value or log identifier the device does not have is refused. -/
def Obligations.IdentifyAndLogPagesAnswer : Prop :=
  (∀ (s : State) (slot : Nat) (c : Cmd) (b : Blob), AdminReady slot c s → c.e.opcode = 0x06 →
    identAnswer s c.e = (scSuccess, b) →
    ∃ t, exec (.identify slot) s = .next t ∧ t = { s with nv := t.nv } ∧ Ended slot c (0, 0) 0 s t ∧
      t.nv.dataOut = s.nv.dataOut ++ [(c.e.cid, b)]) ∧
  (∀ (s : State) (slot : Nat) (c : Cmd), AdminReady slot c s → c.e.opcode = 0x06 → lowByte c.e ∉ cnsValues →
    ∃ t, exec (.identify slot) s = .next t ∧ t = { s with nv := t.nv } ∧ Ended slot c (0, 2) 0 s t ∧
      t.nv.dataOut = s.nv.dataOut) ∧
  (∀ (s : State) (slot : Nat) (c : Cmd) (b : Blob), AdminReady slot c s → c.e.opcode = 0x02 →
    logAnswer s c.e = (scSuccess, b) →
    ∃ t, exec (.getLogPage slot) s = .next t ∧ t = { s with nv := t.nv, free := t.free } ∧
      Ended slot c (0, 0) 0 s t ∧ t.nv.dataOut = s.nv.dataOut ++ [(c.e.cid, b)]) ∧
  (∀ (s : State) (slot : Nat) (c : Cmd), AdminReady slot c s → c.e.opcode = 0x02 → logPage s c.e = none →
    ∃ t, exec (.getLogPage slot) s = .next t ∧ t = { s with nv := t.nv } ∧ Ended slot c (1, 0x09) 0 s t)

/-- R227 to R229: attaching and detaching a namespace changes its attachment alone; creating one takes free shelves
and a new key; deleting one starts the renewal of its key slots and takes it from other commands. -/
def Obligations.NamespaceManagement : Prop :=
  (∀ (s : State) (slot : Nat) (c : Cmd) (n : Namespace), AdminReady slot c s → c.e.opcode = 0x15 → selOf c.e = 0 →
    nsAt s c.e.nsid = some n → n.attached = false →
    ∃ t, exec (.namespaceAttach slot) s = .next t ∧ t = { s with nv := t.nv } ∧ Ended slot c (0, 0) 0 s t ∧
      t.nv.nss = s.nv.nss.map fun x => if x.nsid = n.nsid then { x with attached := true } else x) ∧
  (∀ (s : State) (slot : Nat) (c : Cmd) (n : Namespace), AdminReady slot c s → c.e.opcode = 0x15 → selOf c.e = 1 →
    nsAt s c.e.nsid = some n → n.attached = true →
    ∃ t, exec (.namespaceDetach slot) s = .next t ∧ t = { s with nv := t.nv } ∧ Ended slot c (0, 0) 0 s t ∧
      t.nv.nss = s.nv.nss.map fun x => if x.nsid = n.nsid then { x with attached := false } else x) ∧
  (∀ (s : State) (slot nsze lbaf pi nsid : Nat) (ext : Bool) (l : List (Nat × Nat)) (c : Cmd), AdminReady slot c s →
    c.e.opcode = 0x0D → selOf c.e = 0 → lbaf ≤ 4 → nsze ≠ 0 → pi ≤ 3 → ((lbaf = 0 ∨ lbaf = 2) → pi = 0) →
    freeNsid s = some nsid → takeExtents s (localNs nsid nsze lbaf pi [] false).shelves = some l →
    drbgReady s = true → keyRoom s = true →
    exec (.namespaceCreate slot nsze nsze (lbaf + if ext then 16 else 0) pi) s =
      .next (finishOk slot nsid (makeNamespace
        { localNs nsid nsze lbaf pi [] false with extents := l, extended := ext } s))) ∧
  (∀ (s : State) (slot nsze ncap lbaf pi : Nat) (c : Cmd), AdminReady slot c s → c.e.opcode = 0x0D →
    selOf c.e = 0 → lbaf ≤ 4 → nsze ≠ ncap →
    ∃ t, exec (.namespaceCreate slot nsze ncap lbaf pi) s = .next t ∧ t = { s with nv := t.nv } ∧
      Ended slot c (0, 2) 0 s t ∧ t.nv.nss = s.nv.nss) ∧
  (∀ (s : State) (slot : Nat) (c : Cmd) (n : Namespace), AdminReady slot c s → c.e.opcode = 0x0D → selOf c.e = 1 →
    deleteNames s c.e.nsid = [n.nsid] →
    ∃ t, exec (.namespaceDelete slot) s = .next t ∧ t = { s with nv := t.nv, key := t.key } ∧
      t.nv.exclusive = s.nv.exclusive ++ [(slot, n.nsid)] ∧ t.nv.waiting = s.nv.waiting ∧
      cmdAt t slot = some { c with phase := .running } ∧
      t.key.renewals = s.key.renewals ++ deleteRenewals s slot n.nsid)

/-- R260, R265, R222, R242: a Format takes its namespace and asks for the renewals of its key slots: SES 0 and 1 a
release and the ranges' keys, SES 2 the four slots with one sweep.
R266: a Sanitize of crypto erase or block erase starts and completes; an overwrite, No-Deallocate or another
action is refused; none starts while one runs. -/
def Obligations.FormatAndSanitize : Prop :=
  ((∀ (s : State) (slot : Nat) (c : Cmd) (n : Namespace), AdminReady slot c s → c.e.opcode = 0x80 → fmtSes c.e = 2 →
    formatStatus s c.e = none → nsAt s c.e.nsid = some n → n.spanned = none →
    ∃ t, exec (.formatNvmCryptoErase slot) s = .next t ∧ t = { s with nv := t.nv, key := t.key } ∧
      t.nv.exclusive = s.nv.exclusive ++ [(slot, n.nsid)] ∧ cmdAt t slot = some { c with phase := .running } ∧
      ∃ l, t.key = { s.key with renewals := s.key.renewals ++ l } ∧
        l.map (fun r => (r.slot, r.rekey, r.whole, r.cmd)) =
          [0, 1, 2, 3].map fun r => (keySlot n.nsid r, true, true, some slot)) ∧
  (∀ (s : State) (slot : Nat) (c : Cmd) (n : Namespace), AdminReady slot c s → c.e.opcode = 0x80 → fmtSes c.e ≠ 2 →
    formatStatus s c.e = none → nsAt s c.e.nsid = some n → n.spanned = none →
    ∃ t, exec (.formatNvmRelease slot) s = .next t ∧ t = { s with nv := t.nv, key := t.key } ∧
      t.nv.exclusive = s.nv.exclusive ++ [(slot, n.nsid)] ∧ cmdAt t slot = some { c with phase := .running } ∧
      t.key.ranges = s.key.ranges.filter (fun x => ! (x.nsid = n.nsid && x.r != 0)) ∧
      ∃ l, t.key.renewals = s.key.renewals ++ l ∧
        (l.head?.map fun r => (r.slot, r.rekey, r.whole, r.cmd)) = some (keySlot n.nsid 0, false, true, some slot)) ∧
  (∀ (s : State) (slot e : Nat) (c : Cmd) (n : Namespace) (v : ViewRec), AdminReady slot c s → c.e.opcode = 0x80 →
    formatStatus s c.e = none → nsAt s c.e.nsid = some n → n.spanned = some e → viewOf s e = some v →
    ∃ t, (fmtSes c.e = 2 → exec (.formatNvmCryptoErase slot) s = .next t) ∧
      (fmtSes c.e ≠ 2 → exec (.formatNvmRelease slot) s = .next t) ∧
      t = { s with nv := t.nv, pel := t.pel } ∧ t.nv.exclusive = s.nv.exclusive ++ [(slot, n.nsid)] ∧
      cmdAt t slot = some { c with phase := .running } ∧
      ∀ p, p ∈ v.places → 1 ≤ p.2 → p.2 ≤ 3 → ∃ r, r ∈ t.pel.out ∧ r.dst = p.1 ∧ r.op = 8 ∧ r.owner = .host slot) ∧
  (∀ (s : State) (slot : Nat) (c : Cmd) (st : Nat × Nat), AdminReady slot c s → c.e.opcode = 0x80 →
    formatStatus s c.e = some st →
    ∃ t, (fmtSes c.e = 2 → exec (.formatNvmCryptoErase slot) s = .next t) ∧
      (fmtSes c.e ≠ 2 → exec (.formatNvmRelease slot) s = .next t) ∧
      t = { s with nv := t.nv } ∧ Ended slot c st 0 s t) ∧
  (∀ (s : State) (slot : Nat) (c : Cmd), AdminReady slot c s → c.e.opcode = 0x80 → fmtSes c.e = 2 →
    nsAttached s c.e.nsid = none →
    ∃ t, exec (.formatNvmCryptoErase slot) s = .next t ∧ t = { s with nv := t.nv } ∧
      Ended slot c (0, 0x0B) 0 s t)) ∧
  ((∀ (s : State) (slot : Nat) (c : Cmd), AdminReady slot c s → c.e.opcode = 0x84 → sanAct c.e = 4 →
    sanNoDealloc c.e = false → s.key.sanitize = 0 → localSlots s ++ s.key.sanForced ≠ [] ∨ s.key.renewals ≠ [] →
    ∃ t, exec (.sanitizeCryptoErase slot) s = .next t ∧ t = { s with nv := t.nv, key := t.key } ∧
      Ended slot c (0, 0) 0 s t ∧ t.key.sanitize = 1 ∧ t.key.sanStatus = 2 ∧
      t.key.renewals = s.key.renewals ++ (localSlots s).map (fun k => newRenewal
        { s with key := { s.key with sanitize := 1, sanStatus := 2, sanDw := c.e.dw10 } } k none none true false)) ∧
  (∀ (s : State) (slot : Nat) (c : Cmd), AdminReady slot c s → c.e.opcode = 0x84 → sanAct c.e = 2 →
    sanNoDealloc c.e = false → s.key.sanitize = 0 → localSlots s ++ s.key.sanForced ≠ [] ∨ s.key.renewals ≠ [] →
    ∃ t, exec (.sanitizeBlockErase slot) s = .next t ∧ t = { s with nv := t.nv, key := t.key } ∧
      Ended slot c (0, 0) 0 s t ∧ t.key.sanitize = 2 ∧ t.key.sanStatus = 2 ∧
      t.key.renewals = s.key.renewals ++ (localSlots s).map (fun k => newRenewal
        { s with key := { s.key with sanitize := 2, sanStatus := 2, sanDw := c.e.dw10 } } k none none true false)) ∧
  (∀ (s : State) (slot : Nat) (c : Cmd), AdminReady slot c s → c.e.opcode = 0x84 → sanNoDealloc c.e = false →
    s.key.sanitize = 0 → localSlots s = [] → s.key.sanForced = [] → s.key.renewals = [] →
    (∀ x ∈ s.blk.table, x.2.state = 0) →
    ∃ t, t = { s with nv := t.nv, key := t.key } ∧ Ended slot c (0, 0) 0 s t ∧ t.key.sanitize = 0 ∧
      t.key.sanStatus = 1 ∧ t.key.renewals = [] ∧
      (sanAct c.e = 4 → exec (.sanitizeCryptoErase slot) s = .next t) ∧
      (sanAct c.e = 2 → exec (.sanitizeBlockErase slot) s = .next t)) ∧
  (∀ (s : State) (slot : Nat) (c : Cmd), AdminReady slot c s → c.e.opcode = 0x84 → sanNoDealloc c.e = false →
    s.key.sanitize = 0 → localSlots s = [] → s.key.sanForced = [] → s.key.renewals = [] →
    (∃ x ∈ s.blk.table, x.2.stream ≠ 3 ∧ 1 ≤ x.2.state ∧ x.2.state ≤ 4) →
    (sanAct c.e = 4 → ∃ t, exec (.sanitizeCryptoErase slot) s = .next t ∧ t = { s with nv := t.nv, key := t.key } ∧
      Ended slot c (0, 0) 0 s t ∧ t.key.sanitize = 0 ∧ t.key.sanStatus = 1) ∧
    (sanAct c.e = 2 → ∃ t, exec (.sanitizeBlockErase slot) s = .next t ∧ t.key.sanitize = 2 ∧ t.key.sanStatus = 2 ∧
      t.key.sanForced = (s.blk.table.filter fun x =>
        x.2.stream != 3 && decide (1 ≤ x.2.state) && decide (x.2.state ≤ 4)).map fun x => x.1)) ∧
  (∀ (s : State) (slot : Nat) (c : Cmd), AdminReady slot c s → c.e.opcode = 0x84 → sanAct c.e = 4 →
    sanNoDealloc c.e = false → s.key.sanitize ≠ 0 →
    ∃ t, exec (.sanitizeCryptoErase slot) s = .next t ∧ t = { s with nv := t.nv } ∧ Ended slot c (0, 0x1D) 0 s t) ∧
  (∀ (s : State) (slot : Nat) (c : Cmd), AdminReady slot c s → c.e.opcode = 0x84 → sanAct c.e = 2 →
    sanNoDealloc c.e = false → s.key.sanitize ≠ 0 →
    ∃ t, exec (.sanitizeBlockErase slot) s = .next t ∧ t = { s with nv := t.nv } ∧ Ended slot c (0, 0x1D) 0 s t) ∧
  (∀ (s : State) (slot : Nat) (c : Cmd), AdminReady slot c s → c.e.opcode = 0x84 → sanNoDealloc c.e = true →
    ∃ t, exec (.sanitizeInvalid slot) s = .next t ∧ t = { s with nv := t.nv } ∧ Ended slot c (0, 2) 0 s t))

/-- R251, R450: the test access port. TEST_MODE and every instruction beyond BYPASS, IDCODE and the boundary
ones clear every key slot register; the others clear none.
R259, R260, R261, R264: a slot's renewal runs when nothing that touches its interval is outstanding; once its
sweep is durable the interval is served again; a DRBG that gives nothing for 10 ms fails the command.
R259: the noise source's health test stops the DRBG, and a reseed starts it again. -/
def Obligations.KeySlotsAreRenewedAndCleared : Prop :=
  ((∀ (s : State), exec .testModeAssert s = .next { s with
    pins := { s.pins with testMode := true }, key := { s.key with loaded := [], testKey := false } }) ∧
  (∀ (s : State) (k : Nat), awake s = true → 2 < k → exec (.jtagInstructionLoad k) s = .next { s with
    pins := { s.pins with jtagBoundary := false }, key := { s.key with loaded := [], testKey := false } }) ∧
  (∀ (s : State) (k : Nat), awake s = true → k ≤ 2 → exec (.jtagInstructionLoad k) s = .next { s with
    pins := { s.pins with jtagBoundary := decide (k = 2) } })) ∧
  ((∀ (s : State) (k : Nat) (r : Renewal), renewalAt s k = some r → serving s = true → s.lib.state = 0 →
    r.loaded = false → renewalWaits s r = false → drbgReady s = true → keyRoom s = true →
    exec (.renewSlot k) s = .next (runRenewal r s)) ∧
  (∀ (s : State) (k : Nat) (r : Renewal), renewalAt s k = some r → serving s = true → s.lib.state = 0 →
    r.loaded = true → r.lastSeq ≠ 0 → r.lastSeq ≤ s.led.progSeq → r.rekey = true → s.key.sanitize = 0 →
    r.cmd = none → r.session = none → r.reply = none →
    ∃ t, exec (.sweepDurable k) s = .next t ∧ t = { s with key := t.key } ∧
      t.key.renewals = dropFirst (fun x => x = r) s.key.renewals ∧ t.key.loaded = s.key.loaded ∧
      t.key.ring = s.key.ring.map fun l => l.map fun x =>
        if some x = recInForce s k then { x with sweepDone := true } else x) ∧
  (∀ (s : State) (k : Nat) (r : Renewal), renewalAt s k = some r → serving s = true → s.lib.state = 0 →
    r.loaded = true → r.lastSeq ≠ 0 → r.lastSeq ≤ s.led.durable → r.rekey = false → s.key.sanitize = 0 →
    r.cmd = none → r.session = none → r.reply = none →
    exec (.sweepDurable k) s = .next { s with key := { s.key with
      renewals := dropFirst (fun x => x = r) s.key.renewals } }) ∧
  (∀ (s : State) (k slot : Nat) (c : Cmd) (r : Renewal), renewalAt s k = some r → serving s = true → s.lib.state = 0 →
    r.loaded = true → r.lastSeq ≠ 0 → r.lastSeq ≤ (if r.rekey then s.led.progSeq else s.led.durable) →
    s.key.sanitize = 0 → r.cmd = some slot → r.session = none → r.reply = none →
    (∀ x, x ∈ dropFirst (fun x => x = r) s.key.renewals → x.cmd ≠ some slot) → cmdAt s slot = some c →
    slot ∉ s.nv.aers →
    ∃ t, exec (.sweepDurable k) s = .next t ∧ t = { s with nv := t.nv, key := t.key } ∧ cmdAt t slot = none ∧
      t.nv.waiting.getLast? = some (entryOf slot c (0, 0) 0) ∧
      (c.e.opcode ≠ 0x0D → Ended slot c (0, 0) 0 s t ∧ t.nv.nss = s.nv.nss) ∧
      (c.e.opcode = 0x0D → t.nv.nss = s.nv.nss.filter fun n => ! (deleteNames s c.e.nsid).contains n.nsid)) ∧
  (∀ (s : State) (k slot : Nat) (c : Cmd) (r : Renewal), drbgReady s = false → serving s = true →
    (s.key.renewals.find? fun x => x.slot = k && x.rekey && ! x.loaded) = some r → r.cmd = some slot →
    cmdAt s slot = some c → r.session = none → r.reply = none →
    ∃ t, exec (.keygenTimeout k) s = .next t ∧ t = { s with nv := t.nv, key := t.key } ∧
      Ended slot c (0, 6) 0 s t ∧ r ∉ t.key.renewals ∧ t.key.loaded = s.key.loaded)) ∧
  ((∀ (s : State), awake s = true → exec .noiseHealthFail s = .next { s with
    key := { s.key with drbgOk := false, sticky := s.key.sticky ||| 0x10 } }) ∧
  (∀ (s : State), awake s = true → exec .drbgReseed s = .next { s with
    key := { s.key with drbgOk := true, drbgUsed := 0 } }))

/-- R262, R263, Table 11.9: Opal methods of an authenticated session on a local namespace. -/
def Obligations.OpalMethodsChangeLockingRanges : Prop :=
  (∀ (s : State) (slot ses r a : Nat) (rl wl : Bool) (c : Cmd) (n : Namespace), AdminReady slot c s →
    c.e.opcode = 0x81 → secProtocol c.e = 1 → authorityOf s ses = some a → a ≠ 0 → nsAt s n.nsid = some n →
    n.spanned = none → r ≤ maxRange s →
    ∃ t, exec (.opalSetLocking slot ses n.nsid r rl wl) s = .next t ∧ t = { s with nv := t.nv, key := t.key } ∧
      Ended slot c (0, 0) 0 s t ∧ t.key.opalOut = s.key.opalOut ++ [(ses, opSuccess, [])] ∧
      t.key.ranges = s.key.ranges.filter (fun y => ! (y.nsid = n.nsid && y.r = r)) ++
        [{ rangeAt s n.nsid r with readLocked := rl, writeLocked := wl }]) ∧
  (∀ (s : State) (slot ses r start len a : Nat) (c : Cmd) (n : Namespace), AdminReady slot c s → c.e.opcode = 0x81 →
    secProtocol c.e = 1 → authorityOf s ses = some a → a ≠ 0 → nsAt s n.nsid = some n → n.spanned = none →
    1 ≤ r → r ≤ maxRange s → (rangeAt s n.nsid r).len = 0 → boundsLegal s n r start len = true → len ≠ 0 →
    ∃ t, exec (.opalSetRange slot ses n.nsid r start len) s = .next t ∧ Ended slot c (0, 0) 0 s t ∧
      t = { s with nv := t.nv, key := t.key } ∧
      t.key.ranges = s.key.ranges.filter (fun y => ! (y.nsid = n.nsid && y.r = r)) ++
        [{ rangeAt s n.nsid r with start := start, len := len }] ∧
      ∃ x, t.key.renewals = s.key.renewals ++ [x] ∧ x.slot = keySlot n.nsid r ∧ x.rekey = true) ∧
  (∀ (s : State) (slot ses r a : Nat) (c : Cmd) (n : Namespace), AdminReady slot c s → c.e.opcode = 0x81 →
    secProtocol c.e = 1 → authorityOf s ses = some a → a ≠ 0 → nsAt s n.nsid = some n → n.spanned = none →
    r ≤ maxRange s → rangeLive s n.nsid r = true →
    ∃ t, exec (.opalGenkey slot ses n.nsid r) s = .next t ∧ Ended slot c (0, 0) 0 s t ∧
      t.key.ranges = s.key.ranges ∧
      ∃ x, t.key.renewals = s.key.renewals ++ [x] ∧ x.slot = keySlot n.nsid r ∧ x.rekey = true ∧
        x.session = some ses) ∧
  (∀ (s : State) (slot ses a : Nat) (c : Cmd), AdminReady slot c s → c.e.opcode = 0x81 → secProtocol c.e = 1 →
    authorityOf s ses = some a → a ≠ 0 →
    ∃ t, exec (.opalRevert slot ses) s = .next t ∧ Ended slot c (0, 0) 0 s t ∧ t.key.ranges = [] ∧
      ∃ l, t.key.renewals = s.key.renewals ++ l ∧ l.map (fun x => (x.slot, x.rekey)) =
        (localSlots s).map fun k => (k, true)) ∧
  (∀ (s : State) (slot ses nsid r arg : Nat) (c : Cmd), AdminReady slot c s → c.e.opcode = 0x81 →
    secProtocol c.e = 1 → authorityOf s ses = none → s.key.sessions.length < 4 →
    ∃ t, exec (.opalSessionMethod slot ses 0 0 nsid r arg false) s = .next t ∧ Ended slot c (0, 0) 0 s t ∧
      t.key.sessions = mapSet ses 0 s.key.sessions ∧ t.key.opalOut = s.key.opalOut ++ [(ses, opSuccess, [])] ∧
      t.key.ranges = s.key.ranges) ∧
  (∀ (s : State) (slot ses r : Nat) (rl wl : Bool) (nsid : Nat) (c : Cmd), AdminReady slot c s → c.e.opcode = 0x81 →
    secProtocol c.e = 1 → (authorityOf s ses = none ∨ authorityOf s ses = some 0) →
    ∃ t, exec (.opalSetLocking slot ses nsid r rl wl) s = .next t ∧ Ended slot c (0, 0) 0 s t ∧
      t.key.ranges = s.key.ranges ∧ t.key.opalOut = s.key.opalOut ++ [(ses, opDenied, [])]) ∧
  (∀ (s : State) (slot : Nat) (c : Cmd) (x : Nat × Nat × List Nat) (rest : List (Nat × Nat × List Nat)),
    AdminReady slot c s → c.e.opcode = 0x82 → secProtocol c.e = 1 → asksDiscovery c.e = false →
    s.key.opalOut = x :: rest →
    ∃ t, exec (.securityReceive slot) s = .next t ∧ Ended slot c (0, 0) 0 s t ∧ t.key.opalOut = rest ∧
      t.nv.dataOut = s.nv.dataOut ++ [(c.e.cid, opalBlob x)]) ∧
  (∀ (s : State) (slot : Nat) (c : Cmd), AdminReady slot c s → c.e.opcode = 0x82 → asksDiscovery c.e = true →
    ∃ t, exec (.securityReceive slot) s = .next t ∧ Ended slot c (0, 0) 0 s t ∧ t.key = s.key ∧
      t.nv.dataOut = s.nv.dataOut ++ [(c.e.cid, discoveryBlob s)])

/-- R212, Table 9.9: NVMe-MI requests in a serving mode with the Librarian running are answered once each, and
change nothing but the SMBus frequency that a Configuration Set selects. -/
def Obligations.NvmeMiRequestsAreAnswered : Prop :=
  (∀ (s : State), awake s = true → s.mode.mode ≠ .coast →
    exec .nvmeMiBasicManagement s = .next (miSend 0x100 0 (basicBody s) s)) ∧
  (∀ (s : State), serving s = true → s.lib.state = 0 →
    exec .nvmeMiSubsystemHealthPoll s = .next (miSend 1 0 (subsystemHealth s) s) ∧
    exec .nvmeMiControllerHealthPoll s = .next (miSend 2 0 (controllerHealth s) s)) ∧
  (∀ (s : State) (kind : Nat) (b : Blob), serving s = true → s.lib.state = 0 → structureBody s kind = some b →
    exec (.nvmeMiReadDataStructure kind) s = .next (miSend 0 0 b s)) ∧
  (∀ (s : State), serving s = true → s.lib.state = 0 →
    exec (.nvmeMiConfigurationGet 1) s = .next (miSend 4 0 { len := 4, fields := [(0, 4, s.upd.miFreq + 1)] } s)) ∧
  (∀ (s : State) (v : Nat), serving s = true → s.lib.state = 0 → 1 ≤ v → v ≤ 3 →
    exec (.nvmeMiConfigurationSet 1 v) s = .next { s with upd := { s.upd with
      miFreq := v - 1, miOut := s.upd.miOut ++ [(3, 0, { len := 0, fields := [] })] } }) ∧
  (∀ (s : State) (off len : Nat), serving s = true → s.lib.state = 0 → off + len ≤ 256 →
    exec (.nvmeMiVpdRead off len) s = .next (miSend 5 0
      { len := len, fields := [(0, len, fruData s / 256 ^ off % 256 ^ len)] } s)) ∧
  (∀ (s : State) (off len : Nat), serving s = true → s.lib.state = 0 →
    exec (.nvmeMiVpdWrite off len) s = .next (miSend 6 miDenied { len := 0, fields := [] } s)) ∧
  (∀ (s : State) (e : SqEntry) (b : Blob), serving s = true → s.lib.state = 0 → e.opcode ≠ 0x02 →
    tunnelBody s e = some b →
    exec (.nvmeMiTunnelledAdmin e) s = .next (miSend (0x200 + e.opcode) 0 b s)) ∧
  (∀ (s : State) (op : Nat), serving s = true → s.lib.state = 0 →
    exec (.nvmeMiInvalidCommand op) s = .next (miSend op miOpcode { len := 0, fields := [] } s)) ∧
  (∀ (s : State), serving s = true → s.lib.state = 1 →
    exec .nvmeMiSubsystemHealthPoll s = .next { s with lib := { s.lib with
      heldMi := s.lib.heldMi ++ [.nvmeMiSubsystemHealthPoll] } })

/-- R208, R381: the sticky registers and the clearing registers of BAR0 clear what is written as one, and nothing else. -/
def Obligations.ClearingWritesClearTheirBits : Prop :=
  (∀ (s : State) (idx : Nat) (v mask : Word32), barOn s = true → stickyAt s idx = some v →
    ∃ t, exec (.stickyRw1cWrite idx mask) s = .next t ∧ stickyAt t idx = some (v &&& ~~~ mask) ∧
      (∀ j, j ≠ idx → stickyAt t j = stickyAt s j) ∧
      t = { s with
        esc := { s.esc with sticky := t.esc.sticky }, coast := { s.coast with sticky := t.coast.sticky },
        key := { s.key with sticky := t.key.sticky }, dram := { s.dram with sticky := t.dram.sticky },
        day := { s.day with sticky := t.day.sticky } }) ∧
  (∀ (s : State) (v : Word32), barOn s = true → v.getLsbD 0 = true →
    exec (.ksEscClear v) s = .next { s with esc := { s.esc with qMax := 0, stallUs := 0 } } ∧
    exec (.ksDramClear v) s = .next { s with dram := { s.dram with late := [0, 0, 0, 0, 0] } } ∧
    (testFree s = true →
      exec (.ksHoldupRun v) s = .next (leaveIdle { s with coast := { s.coast with test := .requested } }))) ∧
  (∀ (s : State) (v : Word32), v.getLsbD 0 = false →
    exec (.ksEscClear v) s = .next s ∧ exec (.ksDramClear v) s = .next s ∧ exec (.ksHoldupRun v) s = .next s)

/-- R237: Sticky Clear clears the bits of MASK in the sticky register at INDEX, as an RW1C write does, and no other bit; an
INDEX without a sticky register is refused. -/
def Obligations.StickyClearClearsItsMask : Prop :=
  (∀ (s : State) (slot : Nat) (c : Cmd) (v : Word32), AdminReady slot c s → c.e.opcode = 0xC0 →
    stickyAt s (bitsOf c.e.dw10 6 0) = some v →
    ∃ t, exec (.stickyClear slot) s = .next t ∧ Ended slot c (0, 0) v.toNat s t ∧
      stickyAt t (bitsOf c.e.dw10 6 0) = some (v &&& ~~~ BitVec.ofNat 32 c.e.dw11) ∧
      (∀ j, j ≠ bitsOf c.e.dw10 6 0 → stickyAt t j = stickyAt s j)) ∧
  (∀ (s : State) (slot : Nat) (c : Cmd), AdminReady slot c s → c.e.opcode = 0xC0 →
    stickyAt s (bitsOf c.e.dw10 6 0) = none →
    ∃ t, exec (.stickyClear slot) s = .next t ∧ Ended slot c (0, 2) 0 s t ∧ t = { s with nv := t.nv })

/-- R400, R414: the pass-through registers work in manufacturing mode alone; a first cycle that Table 17.3 does not have,
at whatever address, and a cycle too late are sequence errors, and KS_CX_ADDR rises by one. -/
def Obligations.PassThroughCycles : Prop :=
  (∀ (s : State) (v : Word32), passThroughOn s = true →
    exec (.ksCxPageWrite v) s = .next { s with cdx := { s.cdx with cxPage := v.toNat % 2 ^ 13 } } ∧
    exec (.ksCxAddrWrite v) s = .next { s with cdx := { s.cdx with cxAddr := v.toNat % 2 ^ 27 } }) ∧
  (∀ (s : State) (v : Word32) (gap : Nat) (spell : Option CodexSpell), passThroughOn s = false →
    exec (.ksCxPageWrite v) s = .next s ∧ exec (.ksCxAddrWrite v) s = .next s ∧
    exec (.ksCxDataWrite v gap spell) s = .next s) ∧
  (∀ (s : State) (v : Word32) (gap : Nat) (spell : Option CodexSpell), passThroughOn s = true →
    s.cdx.cxAddr = 0xD5A → v.toNat % 256 = 0x5A → s.cdx.cycles = [] →
    exec (.ksCxDataWrite v gap spell) s =
      .next { s with cdx := { s.cdx with cycles := [(0xD5A, 0x5A)], cxAddr := 0xD5B } }) ∧
  (∀ (s : State) (v : Word32) (gap : Nat) (spell : Option CodexSpell), passThroughOn s = true →
    s.cdx.cycles ≠ [] → 10000 < gap →
    exec (.ksCxDataWrite v gap spell) s =
      .next { sequenceError s with cdx := { (sequenceError s).cdx with cxAddr := (s.cdx.cxAddr + 1) % 2 ^ 27 } }) ∧
  (∀ (s : State) (v : Word32) (gap : Nat) (spell : Option CodexSpell), passThroughOn s = true →
    s.cdx.cycles = [] → (s.cdx.cxAddr ≠ 0xD5A ∨ v.toNat % 256 ≠ 0x5A) →
    exec (.ksCxDataWrite v gap spell) s =
      .next { sequenceError s with cdx := { (sequenceError s).cdx with cxAddr := (s.cdx.cxAddr + 1) % 2 ^ 27 } })

/-- R420: the commit `c` of slot `slot`, of action `act`, has the erases of the inactive block behind it. -/
def CommitErased (slot : Nat) (c : Cmd) (act : Nat) (s : State) : Prop :=
  s.upd.writing = some (.command slot) ∧ cmdAt s slot = some c ∧ serving s = true ∧ blockErased s = true ∧
    commitAct c.e = act ∧ writeLegal s c.e = true

/-- Every sector of `l` is being erased or waits for its erase. -/
def ErasesAsked (l : List Nat) (s : State) : Prop :=
  ∀ i, i ∈ l → s.cdx.erasing = some i ∨ ∃ r, r ∈ s.cdx.requests ∧ r.erase = true ∧ sectorOf r.addr = i

/-- R417, R419, R420, Table 18.6: a portion is staged; a whole stage image is committed to the inactive block alone,
armed or not; arming a written block; an incomplete image and an action the table does not have are refused. -/
def Obligations.FirmwareDownloadAndCommit : Prop :=
  (∀ (s : State) (slot : Nat) (c : Cmd) (f : BundleFacts), AdminReady slot c s → s.upd.relay.rx = false →
    c.e.opcode = 0x11 → portionAt c.e + portionLen c.e ≤ bundleBytes →
    ∃ t, exec (.firmwareImageDownload slot f) s = .next t ∧ Ended slot c (0, 0) 0 s t ∧
      t = { s with nv := t.nv, upd := { s.upd with staged := t.upd.staged, stFacts := f } } ∧
      ∀ u, u ∈ t.upd.staged ↔ u ∈ s.upd.staged ∨
        portionAt c.e / 4096 ≤ u ∧ u * 4096 < portionAt c.e + portionLen c.e) ∧
  (∀ (s : State) (slot : Nat) (c : Cmd), AdminReady slot c s → s.upd.relay.rx = false → c.e.opcode = 0x10 →
    writeLegal s c.e = true → stageWhole s = true → s.upd.writing ≠ some (.command slot) →
    ∃ t, (∀ ok, commitAct c.e = 0 → exec (.firmwareCommitWrite slot ok) s = .next t) ∧
      (∀ ok, commitAct c.e = 1 → exec (.firmwareCommitWriteArm slot ok) s = .next t) ∧
      (∀ ok, commitAct c.e = 3 → exec (.firmwareCommitActivate slot ok) s = .next t) ∧
      t.upd.writing = some (.command slot) ∧ t.upd.staged = s.upd.staged ∧ t.upd.stFacts = s.upd.stFacts ∧
      cmdAt t slot = some { c with phase := .running } ∧ ErasesAsked (blockSectors (1 - activeBlock s)) t ∧
      blockOf t (activeBlock s) = blockOf s (activeBlock s) ∧ t.nv.waiting = s.nv.waiting) ∧
  (∀ (s : State) (slot : Nat) (ok : Bool), s.upd.writing = some (.command slot) → blockErased s = false →
    exec (.firmwareCommitWrite slot ok) s = .next s ∧ exec (.firmwareCommitWriteArm slot ok) s = .next s ∧
    exec (.firmwareCommitActivate slot ok) s = .next s) ∧
  (∀ (s : State) (slot : Nat) (c : Cmd), CommitErased slot c 0 s → blockReads true s = true →
    ∃ t, exec (.firmwareCommitWrite slot true) s = .next t ∧ Ended slot c (0, 0) 0 s t ∧ t.upd.staged = [] ∧
      t.upd.writing = none ∧
      blockOf t (1 - activeBlock s) = { emptyBlock with written := true, facts := s.upd.stFacts } ∧
      blockOf t (activeBlock s) = blockOf s (activeBlock s)) ∧
  (∀ (s : State) (slot : Nat) (c : Cmd), CommitErased slot c 1 s → blockReads true s = true →
    ∃ t, exec (.firmwareCommitWriteArm slot true) s = .next t ∧ Ended slot c (0, 0) 0 s t ∧ t.upd.staged = [] ∧
      blockOf t (1 - activeBlock s) = { emptyBlock with written := true, facts := s.upd.stFacts, arm := true } ∧
      blockOf t (activeBlock s) = blockOf s (activeBlock s)) ∧
  (∀ (s : State) (slot : Nat) (c : Cmd), CommitErased slot c 3 s → blockReads true s = true →
    hitlessSet s.upd.stFacts = false →
    ∃ t, exec (.firmwareCommitActivate slot true) s = .next t ∧ Ended slot c (1, 0x0B) 0 s t ∧
      (blockOf t (1 - activeBlock s)).arm = true ∧ blockOf t (activeBlock s) = blockOf s (activeBlock s)) ∧
  (∀ (s : State) (slot : Nat) (c : Cmd), CommitErased slot c 3 s → blockReads true s = true →
    hitlessSet s.upd.stFacts = true →
    ∃ t, exec (.firmwareCommitActivate slot true) s = .next (startRestart 3 t) ∧ t.upd.commitCmd = some slot ∧
      cmdAt t slot = some { c with phase := .running } ∧ t.lib = s.lib ∧ t.nv.waiting = s.nv.waiting ∧
      (blockOf t (1 - activeBlock s)).arm = true ∧ blockOf t (activeBlock s) = blockOf s (activeBlock s)) ∧
  (∀ (s : State) (slot : Nat) (c : Cmd) (ok : Bool), CommitErased slot c (commitAct c.e) s → blockReads ok s = false →
    ∃ t, (commitAct c.e = 0 → exec (.firmwareCommitWrite slot ok) s = .next t) ∧
      (commitAct c.e = 1 → exec (.firmwareCommitWriteArm slot ok) s = .next t) ∧
      (commitAct c.e = 3 → exec (.firmwareCommitActivate slot ok) s = .next t) ∧
      Ended slot c (0, 6) 0 s t ∧ t.upd.staged = [] ∧ (blockOf t (1 - activeBlock s)).facts = noFacts ∧
      (blockOf t (1 - activeBlock s)).arm = false ∧ blockOf t (activeBlock s) = blockOf s (activeBlock s)) ∧
  (∀ (s : State) (slot n : Nat) (c : Cmd), AdminReady slot c s → s.upd.relay.rx = false → c.e.opcode = 0x10 →
    commitAct c.e = 2 → commitSlot c.e ≤ 2 → n = commitTarget s c.e → n ≠ activeBlock s →
    (blockOf s n).written = true → (blockOf s n).facts.headerOk = true → (blockOf s n).reject = false →
    ∃ t, exec (.firmwareCommitArm slot) s = .next t ∧ Ended slot c (0, 0) 0 s t ∧
      t = { s with nv := t.nv, upd := t.upd } ∧ blockOf t n = { blockOf s n with arm := true } ∧
      blockOf t (activeBlock s) = blockOf s (activeBlock s)) ∧
  (∀ (s : State) (slot : Nat) (c : Cmd) (ok : Bool), AdminReady slot c s → s.upd.relay.rx = false →
    c.e.opcode = 0x10 → commitAct c.e = 0 → writeLegal s c.e = true → stageWhole s = false →
    s.upd.writing ≠ some (.command slot) →
    ∃ t, exec (.firmwareCommitWrite slot ok) s = .next t ∧ Ended slot c (1, 0x07) 0 s t ∧
      t = { s with nv := t.nv }) ∧
  (∀ (s : State) (slot : Nat) (c : Cmd), AdminReady slot c s → s.upd.relay.rx = false → c.e.opcode = 0x10 →
    4 ≤ commitAct c.e →
    ∃ t, exec (.firmwareCommitInvalid slot) s = .next t ∧ Ended slot c (0, 2) 0 s t ∧ t = { s with nv := t.nv })

/-- R238, R364, R365, R82: a legal Live Field Set becomes pending and takes effect at its boundary, not before; Get
shows both values; an illegal one changes nothing. -/
def Obligations.LiveFieldsPendUntilTheirBoundary : Prop :=
  (∀ (s : State) (slot v : Nat) (c : Cmd), AdminReady slot c s → c.e.opcode = 0xC1 → setLegal s c.e v = true →
    rtFull s (0x10000 + fieldOf c.e) = false → rtRoom s = true →
    ∃ t, exec (.liveFieldSet slot v) s = .next t ∧ Ended slot c (0, 0) 0 s t ∧
      mapGet (fieldOf c.e) t.fol.pend = some v ∧ t.fol.live = s.fol.live ∧
      (∀ g, g ≠ fieldOf c.e → mapGet g t.fol.pend = mapGet g s.fol.pend)) ∧
  (∀ (s : State) (slot v : Nat) (c : Cmd), AdminReady slot c s → c.e.opcode = 0xC1 → setLegal s c.e v = false →
    ∃ t, exec (.liveFieldSet slot v) s = .next t ∧ Ended slot c (0, 2) 0 s t ∧ t = { s with nv := t.nv }) ∧
  (∀ (s : State) (slot : Nat) (c : Cmd) (r : FieldRow), AdminReady slot c s → c.e.opcode = 0xC2 →
    fieldRow (fieldOf c.e) = some r →
    ∃ t, exec (.liveFieldGet slot) s = .next t ∧ t = { s with nv := t.nv } ∧
      Ended slot c (0, 0) (if (mapGet (fieldOf c.e) s.fol.pend).isSome then 1 else 0) s t ∧
      t.nv.dataOut = s.nv.dataOut ++ [(c.e.cid, { len := 128, fields :=
        [(0, 8, fld s r.off), (64, 8, (mapGet (fieldOf c.e) s.fol.pend).getD 0)] })]) ∧
  (∀ (s : State) (field v : Nat), awake s = true → mapGet field s.fol.pend = some v →
    mapGet profileField s.fol.pend = none →
    ∃ t, exec (.liveFieldBoundary field) s = .next t ∧
      t = { s with fol := { s.fol with pend := t.fol.pend, live := t.fol.live } } ∧
      fld t (4 * field) = v ∧ mapGet field t.fol.pend = none ∧
      (∀ g, g ≠ field → fld t (4 * g) = fld s (4 * g) ∧ mapGet g t.fol.pend = mapGet g s.fol.pend))

/-- R240, R368, R366, R367: a Folio image is staged in units and committed to the bank that is not in force; a set of
bytes that fails a check is refused and leaves both banks; training records join those of the bank in force. -/
def Obligations.FolioImagesGoToTheOtherBank : Prop :=
  (∀ (s : State) (slot : Nat) (c : Cmd), AdminReady slot c s → c.e.opcode = 0xC5 → c.e.dw10.testBit 31 = false →
    c.e.dw11 ≤ 1023 →
    ∃ t, exec (.folioStage slot) s = .next t ∧ Ended slot c (0, 0) 0 s t ∧ bitsOf c.e.dw10 7 0 ∈ t.fol.staged ∧
      t = { s with nv := t.nv, fol := { s.fol with staged := t.fol.staged } } ∧
      ∀ u, u ∈ s.fol.staged → u ∈ t.fol.staged) ∧
  (∀ (s : State) (slot : Nat) (c : Cmd) (img : FolioImage), AdminReady slot c s → c.e.opcode = 0xC5 →
    c.e.dw10.testBit 31 = true → c.e.dw11 ≤ 1023 → stageCode (stageUnit (bitsOf c.e.dw10 7 0) s) img = 0 →
    s.fol.committing = none →
    ∃ t, (∀ ok, exec (.folioCommit slot img ok) s = .next t) ∧
      t.fol.committing = some (slot, { img with sequence := topSequence s + 1 }) ∧
      cmdAt t slot = some { c with phase := .running } ∧ t.fol.inForce = s.fol.inForce ∧
      ErasesAsked (bankSectors (targetBank s)) t ∧ t.nv.waiting = s.nv.waiting ∧
      (if targetBank s then t.fol.bankA else t.fol.bankB) = (if targetBank s then s.fol.bankA else s.fol.bankB)) ∧
  (∀ (s : State) (slot : Nat) (c : Cmd) (img x : FolioImage) (ok : Bool), cmdAt s slot = some c → serving s = true →
    s.fol.committing = some (slot, x) → erasesOver (bankSectors (targetBank s)) s = true →
    ∃ t, exec (.folioCommit slot img ok) s = .next t ∧ t.fol.staged = [] ∧ t.fol.committing = none ∧
      t.fol.inForce = s.fol.inForce ∧ t.fol.commit = true ∧
      Ended slot c (if ok && ! anyFlagged (bankSectors (targetBank s)) s then (0, 0) else (0, 2)) 0 s t ∧
      (if targetBank s then t.fol.bankB else t.fol.bankA) =
        .image { x with crcOk := ok && ! anyFlagged (bankSectors (targetBank s)) s } ∧
      (if targetBank s then t.fol.bankA else t.fol.bankB) =
        (if targetBank s then s.fol.bankA else s.fol.bankB)) ∧
  (∀ (s : State) (slot n : Nat) (img x : FolioImage) (ok : Bool), s.fol.committing = some (n, x) →
    (n ≠ slot ∨ erasesOver (bankSectors (targetBank s)) s = false) → exec (.folioCommit slot img ok) s = .next s) ∧
  (∀ (s : State) (slot : Nat) (c : Cmd) (img : FolioImage) (ok : Bool), AdminReady slot c s → c.e.opcode = 0xC5 →
    c.e.dw10.testBit 31 = true → c.e.dw11 ≤ 1023 → stageCode (stageUnit (bitsOf c.e.dw10 7 0) s) img ≠ 0 →
    s.fol.committing = none →
    ∃ t, exec (.folioCommit slot img ok) s = .next t ∧ Ended slot c (0, 2) 0 s t ∧
      t.fol.bankA = s.fol.bankA ∧ t.fol.bankB = s.fol.bankB ∧ t.fol.commit = s.fol.commit) ∧
  (∀ (s : State) (kind unit rate m : Nat) (isB : Bool), awake s = true → s.fol.inForce = some isB →
    (kind = 1 ∧ unit ≤ 63 ∨ kind = 2 ∧ unit ≤ 7) → (trainingOf s isB).length ≤ 184 → s.fol.commit = false →
    ∃ t, exec (.trainingRecordAppend kind unit rate m) s = .next t ∧ t = { s with fol := t.fol } ∧
      trainingOf t isB = trainingOf s isB ++
        [trainPayload s { kind := kind, unit := unit, seq := s.fol.trSeq + 1, rate := rate, mtch := m, timeMs := s.clock.opMs }] ∧
      trainingOf t (! isB) = trainingOf s (! isB) ∧
      t.fol.trSeq = s.fol.trSeq + 1)

/-- R239, R241: the admin retirement of a die, or of a channel's serving dies, completes in the Roster copy whose sync it
asks for (the command waits for that sync: ROSTER_LOAD ends it); dies that their lanes cannot lose are refused; a Fox
Report completes with the marked cards it scans. -/
def Obligations.RetireAndFoxReportCommands : Prop :=
  (∀ (s : State) (slot ch d : Nat) (c : Cmd) (x : Channel), AdminReady slot c s → c.e.opcode = 0xC4 →
    retWhole c.e = false → retChannel c.e = ch → retTarget c.e = d → chanAt s ch = some x →
    (servingDies s ch).contains d = true → lanesKeep s [(ch, d)] = true →
    ∃ u y, exec (.retireDie slot) s = .next (resumeAll (settleChannel ch (leaveLane ch d u))) ∧
      dieRetired u ch d = true ∧ chanAt u ch = some y ∧ y.sync = true ∧ y.inForce = x.inForce ∧
      y.copy.generation = (x.copy.generation + 1) % 65536 ∧ mapGet d y.copy.reasons = some 5 ∧
      cmdAt u slot = some { c with phase := .running } ∧ u.cat = s.cat ∧ u.led = s.led ∧ u.wr = s.wr ∧
      u.nv.waiting = s.nv.waiting) ∧
  (∀ (s : State) (slot : Nat) (c : Cmd), AdminReady slot c s → c.e.opcode = 0xC4 → retWhole c.e = false →
    (lanesKeep s [(retChannel c.e, retTarget c.e)] = false ∨
      (servingDies s (retChannel c.e)).contains (retTarget c.e) = false) →
    ∃ t, exec (.retireDie slot) s = .next t ∧ Ended slot c (0, 2) 0 s t ∧ t = { s with nv := t.nv }) ∧
  (∀ (s : State) (slot ch : Nat) (c : Cmd), AdminReady slot c s → c.e.opcode = 0xC4 → retWhole c.e = true →
    retChannel c.e = ch → servingDies s ch ≠ [] → lanesKeep s ((servingDies s ch).map fun d => (ch, d)) = true →
    ∃ u t, u = (servingDies s ch).foldl (fun t d => Sys2Proof.Machine.retireDie ch d 5 t) (waitSync slot s) ∧
      exec (.retireChannel slot) s = .next (resumeAll t) ∧
      t = record 0x0101 [(1, 2), (1, ch), (1, 0), (1, 0), (2, 0), (1, 5)]
        (changeRoster ch (fun r => { r with chState := 1 }) u) ∧
      ∀ y, chanAt t ch = some y → y.copy.chState = 1) ∧
  (∀ (s : State) (slot : Nat) (c : Cmd), AdminReady slot c s → c.e.opcode = 0xC4 → retWhole c.e = true →
    (servingDies s (retChannel c.e) = [] ∨
      lanesKeep s ((servingDies s (retChannel c.e)).map fun d => (retChannel c.e, d)) = false) →
    ∃ t, exec (.retireChannel slot) s = .next t ∧ Ended slot c (0, 2) 0 s t ∧ t = { s with nv := t.nv }) ∧
  (∀ (s : State) (slot : Nat) (c : Cmd) (n : Namespace), AdminReady slot c s → c.e.opcode = 0xC6 →
    nsAttached s c.e.nsid = some n → n.spanned = none → c.e.dw12 ≤ 16777215 → 4 * (c.e.dw13 + 1) ≤ 1048576 →
    slbaOf c.e < n.nsze →
    ∃ t b k stop, exec (.foxReport slot) s = .next (foxLookups n (firstSector n c.e / 8) stop t) ∧
      Ended slot c (0, 0) k s t ∧ t = { s with nv := t.nv } ∧ t.nv.dataOut = s.nv.dataOut ++ [(c.e.cid, b)] ∧
      b.len = 16 + 8 * k ∧ k ≤ c.e.dw12 + 1 ∧ stop ≤ firstSector n c.e / 8 + (c.e.dw12 + 1)) ∧
  (∀ (s : State) (slot : Nat) (c : Cmd), AdminReady slot c s → c.e.opcode = 0xC6 →
    nsAttached s c.e.nsid = none →
    ∃ t, exec (.foxReport slot) s = .next t ∧ Ended slot c (0, 0x0B) 0 s t ∧ t = { s with nv := t.nv })

/-- R69, R70, R71: a Flush completes at once unless writes are being drained; an Ordered Write waits until every command
fetched before it from its queue has been posted, and then starts as a Write. -/
def Obligations.FlushAndOrderedWrite : Prop :=
  (∀ (s : State) (slot : Nat) (c : Cmd), IoReady slot c s → c.e.opcode = 0x00 → s.coast.draining = false →
    ∃ t, exec (.flush slot) s = .next t ∧ Ended slot c (0, 0) 0 s t ∧ t = { s with nv := t.nv }) ∧
  (∀ (s : State) (slot : Nat) (c : Cmd), IoReady slot c s → c.e.opcode = 0x00 → s.coast.draining = true →
    ∃ t, exec (.flush slot) s = .next t ∧ cmdAt t slot = some { c with phase := .running } ∧
      t = { s with nv := { s.nv with cmds := t.nv.cmds } }) ∧
  (∀ (s : State) (slot : Nat) (c : Cmd), IoReady slot c s → c.e.opcode = 0x81 →
    ∃ t, exec (.orderedWrite slot) s = .next t ∧ cmdAt t slot = some { c with phase := .waiting } ∧
      (∀ m, m ≠ slot → cmdAt t m = cmdAt s m) ∧ t = { s with nv := { s.nv with cmds := t.nv.cmds } }) ∧
  (∀ (s : State) (slot : Nat) (c : Cmd), cmdAt s slot = some c → earlierOpen s slot c.qid = true →
    exec (.orderedWriteStart slot) s = .next s) ∧
  (∀ (s : State) (slot : Nat) (c : Cmd) (n : Namespace), cmdAt s slot = some c → c.qid ≠ 0 → c.phase = .waiting →
    serving s = true → c.e.opcode = 0x81 → earlierOpen s slot c.qid = false → nsAt s c.e.nsid = some n →
    nlbOf c.e * lbaBytes n ≤ 2097152 → rangeOk n c.e = true →
    accessStatus s slot n (cardsOf (firstSector n c.e) (sectorCount n c.e)) true true = none →
    exec (.orderedWriteStart slot) s = .next (startWrite slot c n s))

/-- R24, R26, R157: a Read of one card that is not mapped returns zeros and success, and a Compare of it succeeds exactly
when its data is zeros.
R232, R242, R263, R250: a data command past the end of its namespace, of more than 2 MiB, or on a range whose key or
lock denies it ends with its status and changes nothing else; otherwise it starts. -/
def Obligations.DataCommandsReadAndCheck : Prop :=
  (∀ (s : State) (slot i sh k : Nat) (c : Cmd) (n : Namespace), IoReady slot c s → nsAt s c.e.nsid = some n →
    nlbOf c.e * lbaBytes n ≤ 2097152 → slbaOf c.e + nlbOf c.e ≤ n.nsze → n.spanned = none →
    cardsOf (firstSector n c.e) (sectorCount n c.e) = [i] → cardPlace n i = some (sh, k) → lookup s sh k = .zeros →
    accessStatus s slot n [i] false true = none → c.got = [] → c.fails = [] →
    (c.e.opcode = 0x02 → ∃ t, exec (.read slot) s = .next t ∧ Ended slot c (0, 0) 0 s t ∧
      t.nv.readOut = s.nv.readOut ++
        [(c.e.cid, i, rangePart (firstSector n c.e) (sectorCount n c.e) i zeroCard, false)] ∧
      t = { s with nv := t.nv, pools := t.pools }) ∧
    (c.e.opcode = 0x05 → (∃ t, exec (.compare slot (List.replicate (sectorCount n c.e) 0)) s = .next t ∧
        Ended slot c (0, 0) 0 s t ∧ t.nv.readOut = s.nv.readOut) ∧
      (∃ t, exec (.compare slot (1 :: List.replicate (sectorCount n c.e) 0)) s = .next t ∧
        Ended slot c (2, 0x85) 0 s t ∧ t.nv.readOut = s.nv.readOut))) ∧
  ((∀ (s : State) (slot : Nat) (c : Cmd) (n : Namespace) (data : List Nat), IoReady slot c s →
    nsAt s c.e.nsid = some n → nlbOf c.e * lbaBytes n ≤ 2097152 → n.nsze < slbaOf c.e + nlbOf c.e →
    (c.e.opcode = 0x01 → ∃ t, exec (.write slot) s = .next t ∧ Ended slot c (0, 0x80) 0 s t ∧ t = { s with nv := t.nv }) ∧
    (c.e.opcode = 0x02 → ∃ t, exec (.read slot) s = .next t ∧ Ended slot c (0, 0x80) 0 s t ∧ t = { s with nv := t.nv }) ∧
    (c.e.opcode = 0x05 → ∃ t, exec (.compare slot data) s = .next t ∧ Ended slot c (0, 0x80) 0 s t ∧
      t = { s with nv := t.nv }) ∧
    (c.e.opcode = 0x08 → ∃ t, exec (.writeZeroes slot) s = .next t ∧ Ended slot c (0, 0x80) 0 s t ∧
      t = { s with nv := t.nv })) ∧
  (∀ (s : State) (slot : Nat) (c : Cmd) (n : Namespace) (data : List Nat), IoReady slot c s →
    nsAt s c.e.nsid = some n → 2097152 < nlbOf c.e * lbaBytes n →
    (c.e.opcode = 0x01 → ∃ t, exec (.write slot) s = .next t ∧ Ended slot c (0, 2) 0 s t ∧ t = { s with nv := t.nv }) ∧
    (c.e.opcode = 0x02 → ∃ t, exec (.read slot) s = .next t ∧ Ended slot c (0, 2) 0 s t ∧ t = { s with nv := t.nv }) ∧
    (c.e.opcode = 0x05 → ∃ t, exec (.compare slot data) s = .next t ∧ Ended slot c (0, 2) 0 s t ∧
      t = { s with nv := t.nv })) ∧
  (∀ (s : State) (slot : Nat) (c : Cmd) (n : Namespace) (data : List Nat), IoReady slot c s →
    nsAt s c.e.nsid = some n → nlbOf c.e * lbaBytes n ≤ 2097152 → slbaOf c.e + nlbOf c.e ≤ n.nsze →
    (c.e.opcode = 0x01 → accessStatus s slot n (cardsOf (firstSector n c.e) (sectorCount n c.e)) true true = none →
      exec (.write slot) s = .next (startWrite slot c n s)) ∧
    (accessStatus s slot n (cardsOf (firstSector n c.e) (sectorCount n c.e)) false true = none →
      (c.e.opcode = 0x02 → exec (.read slot) s = .next (readCards slot c n [] s)) ∧
      (c.e.opcode = 0x05 → exec (.compare slot data) s = .next (readCards slot c n data s))) ∧
    (c.e.opcode = 0x08 → accessStatus s slot n (cardsOf (firstSector n c.e) (sectorCount n c.e)) true false = none →
      (deacOf c.e = true ∨ allFenced s = false) → exec (.writeZeroes slot) s = .next (startZeroes slot c n s)) ∧
    (c.e.opcode = 0x02 → ∀ st, accessStatus s slot n (cardsOf (firstSector n c.e) (sectorCount n c.e)) false true =
        some (st, false) → st ≠ (0, 0) →
      ∃ t, exec (.read slot) s = .next t ∧ t.nv.readOut = s.nv.readOut ∧ cmdAt t slot = none ∧
        t.nv.waiting = s.nv.waiting ++ [{ entryOf slot c st 0 with dnr := false }])))

/-- R204, R230, R73, R74, R80, R234: arrived data that fails its protection information fails the write and frees its
buffers; a granted card lock applies the merged card, or fails it when the old contents carry a fox mark; a Dataset
Management without Deallocate changes nothing, and with it releases the mappings of the cards its ranges cover whole; a
detector goes alone. -/
def Obligations.WriteDataAndLocks : Prop :=
  (∀ (s : State) (slot i : Nat) (data picks : List Nat) (info : List (Nat × Nat × Nat)) (c : Cmd) (n : Namespace)
      (st : Nat × Nat),
    s.mode.mode ≠ .coast → cmdAt s slot = some c → nsAt s c.e.nsid = some n → n.spanned = none →
    (c.e.opcode = 0x01 ∨ c.e.opcode = 0x81) → c.phase = .buffered → data.length = sectorCount n c.e →
    infoWhole n c.e info = true → piFailed n c.e data info = some (i, st) →
    ∃ t, exec (.writeDataArrived slot data picks info) s = .next t ∧ Ended slot c st 0 s t ∧
      t = { s with nv := t.nv, pools := t.pools }) ∧
  (∀ (s : State) (slot : Nat) (data picks : List Nat) (info : List (Nat × Nat × Nat)) (c : Cmd) (n : Namespace),
    s.mode.mode ≠ .coast → cmdAt s slot = some c → nsAt s c.e.nsid = some n → n.spanned = none →
    (c.e.opcode = 0x01 ∨ c.e.opcode = 0x81) → c.phase = .buffered → data.length = sectorCount n c.e →
    infoWhole n c.e info = true → piFailed n c.e data info = none → partialPlaces n c.e = [] →
    exec (.writeDataArrived slot data picks info) s = .next (placeWrite slot picks
      (modCmd slot (fun x => { x with data := data, want := [] })
        { s with nv := { s.nv with unitsWr := s.nv.unitsWr + data.length } }))) ∧
  (∀ (n : Namespace) (e : SqEntry) (data : List Nat) (info : List (Nat × Nat × Nat)), n.pi ≠ 0 → e.opcode = 0x01 →
    practOf e = false → checksGuard e = true → (∃ i, i < info.length ∧
      (info.getD i (0, 0, 0)).1 ≠ guardOf n (blockAt n data i) ∧ piEscape n (info.getD i (0, 0, 0)) = false) →
    (piFailed n e data info).isSome = true) ∧
  (∀ (s : State) (slot : Nat) (data picks : List Nat) (info : List (Nat × Nat × Nat)) (c : Cmd),
    cmdAt s slot = some c → c.phase ≠ .buffered →
    exec (.writeDataArrived slot data picks info) s = .next s) ∧
  (∀ (s u : State) (slot sh k lba : Nat) (fresh : Bool) (picks : List Nat) (c : Cmd) (n : Namespace),
    s.mode.mode ≠ .coast → cmdAt s slot = some c → nsAt s c.e.nsid = some n → n.spanned = none →
    partialOf s slot sh k = some (c, n, lba) → (c.got.find? fun g => g.1 = lba) = none →
    mergeUnderWay slot sh k s = false →
    u = { s with wr := { s.wr with
      locks := modWhere (fun l => l.shelf = sh && l.card = k && l.holder = slot)
        (fun l => { l with granted := true }) s.wr.locks } } →
    (oldContents s n.nsid lba sh k = .marked →
      exec (.cardLockGrant slot sh k fresh picks) s =
        .next (donePartial slot sh k lba (failCard slot (cardLba n lba) scUnrecovered (touchSegment sh u)))) ∧
    (∀ sectors t, oldContents s n.nsid lba sh k = .here sectors →
      placeCard slot { c with group := cardGroup n c lba } n false sh k lba
        (mergeCard (firstSector n c.e) c.data lba sectors) (natAt (choices fresh picks s) 0)
        (setOverflow (touchSegment sh u)) = some t →
      exec (.cardLockGrant slot sh k fresh picks) s = .next (donePartial slot sh k lba t)) ∧
    (∀ p age, oldContents s n.nsid lba sh k = .flash p age →
      exec (.cardLockGrant slot sh k fresh picks) s =
        .next (queueRead { ppa := p, cls := 0, why := .merge slot sh k lba age } (touchSegment sh u))) ∧
    (∀ page i, oldContents s n.nsid lba sh k = .miss page i →
      exec (.cardLockGrant slot sh k fresh picks) s = .next (startLoad page i u))) ∧
  (∀ (s : State) (slot : Nat) (c : Cmd) (n : Namespace) (ranges : List (Nat × Nat)), IoReady slot c s →
    c.e.opcode = 0x09 → nsAt s c.e.nsid = some n → c.e.dw11.testBit 2 = false →
    ∃ t, exec (.datasetManagement slot ranges) s = .next t ∧ Ended slot c (0, 0) 0 s t ∧ t = { s with nv := t.nv }) ∧
  (∀ (s : State) (slot : Nat) (c : Cmd) (n : Namespace) (ranges : List (Nat × Nat)), IoReady slot c s →
    c.e.opcode = 0x09 → nsAt s c.e.nsid = some n → c.e.dw11.testBit 2 = true →
    ((ranges.take (bitsOf c.e.dw10 7 0 + 1)).any fun r => decide (n.nsze < r.1 + r.2)) = true →
    ∃ t, exec (.datasetManagement slot ranges) s = .next t ∧ cmdAt t slot = none ∧ t = { s with nv := t.nv }) ∧
  (∀ (s : State) (slot : Nat) (c : Cmd) (n : Namespace) (ranges used : List (Nat × Nat)), IoReady slot c s →
    c.e.opcode = 0x09 → nsAt s c.e.nsid = some n → c.e.dw11.testBit 2 = true →
    used = ranges.take (bitsOf c.e.dw10 7 0 + 1) → (used.any fun r => decide (n.nsze < r.1 + r.2)) = false →
    accessStatus s slot n (used.flatMap fun r => cardsOf (r.1 * lbaSectors n) (r.2 * lbaSectors n)) true false = none →
    exec (.datasetManagement slot ranges) s = .next (settlePlaced slot n
      (releaseWhole slot c n (unionCards n used) (modCmd slot (fun x => { x with armed := s.coast.armed }) s)))) ∧
  (∀ (s : State) (i : Nat),
    exec (.seqDetectorExpiry i) s = .next { s with wr := { s.wr with detectors := s.wr.detectors.eraseIdx i } })

/-- R65, R114, R149: a row that is sealed takes PAD cards in its free places; the end of a program, good or failed, is
that of the unit in progress on its die and of nothing else. -/
def Obligations.RowsAreSealedAndProgrammed : Prop :=
  (∀ (s : State) (row : Nat) (r : OpenRow), s.mode.mode ≠ .coast → rowAt s row = some r →
    ∃ t, exec (.rowIdleSeal row) s = .next t ∧ t = { s with wr := t.wr, fl := t.fl, blk := { s.blk with credits := t.blk.credits } } ∧ t.wr.flash = s.wr.flash ∧
      t.wr.transit = s.wr.transit ∧ (∀ x, rowAt t row = some x → x.sealed = true)) ∧
  (∀ (s : State) (row page j : Nat) (r : OpenRow), s.mode.mode ≠ .coast → rowAt s row = some r →
    inCarrel s r.entry = true → page ≤ 3 → pageWaits s r page j = true →
    exec (.sealDelayExpiry row page j) s =
      .next (padCells row (unitCells true (dataWidth s r.entry) (66 * page + j)) s)) ∧
  (∀ (s : State) (row page j : Nat) (r : OpenRow), rowAt s row = some r → inCarrel s r.entry = false →
    exec (.sealDelayExpiry row page j) s = .next s) ∧
  (∀ (s : State) (ch tg : Nat) (d : Die) (p : ProgReq) (picks : List Nat), dieAt s ch tg = some d →
    d.op = some (.program p) → d.resetting = false → s.mode.mode ≠ .coast →
    exec (.pageProgramDone ch tg) s = .next (programOk p (modDie ch tg nextPlane s)) ∧
    exec (.programFail ch tg picks) s = .next (shutdownAdvance (resumeAll (failUnit ch tg p picks
      (modDie ch tg nextPlane s)))) ∧ (d.joined = [] → (nextPlane d).op = none)) ∧
  (∀ (s : State) (ch tg : Nat) (d : Die) (picks : List Nat), dieAt s ch tg = some d → d.op = none →
    exec (.pageProgramDone ch tg) s = .next s ∧ exec (.programFail ch tg picks) s = .next s)

/-- R45, R46: a programmed Ledger card leaves the region and extends what is programmed and durable, never back; the idle
close pads the open card and moves nothing else; stalled appends and updates go on in their order. -/
def Obligations.LedgerCardsAndDurability : Prop :=
  (∀ (s : State) (first : Nat), s.mode.mode = .coast → first ∈ s.led.placed →
    ∃ t, exec (.ledgerCardProgrammed first) s = .next t ∧
      (∀ r, r ∈ t.led.region ↔ r ∈ s.led.region ∧ (r.seq < first ∨ first + 128 ≤ r.seq)) ∧ first ∉ t.led.placed ∧
      (∀ r, r ∈ s.led.region → first ≤ r.seq → r.seq < first + 128 → r ∈ t.led.onFlash) ∧
      s.led.progSeq ≤ t.led.progSeq ∧ s.led.durable ≤ t.led.durable ∧ t.led.nextSeq = s.led.nextSeq ∧
      t.cat = s.cat) ∧
  (∀ (s : State) (first : Nat), awake s = true → s.mode.mode ≠ .coast → first ∈ s.led.placed →
    exec (.ledgerCardProgrammed first) s = .next (resumeAll (cardProgrammed first s))) ∧
  (∀ (s : State) (first : Nat), first ∉ s.led.placed → exec (.ledgerCardProgrammed first) s = .next s) ∧
  (∀ (s : State), serving s = true → openRecords s ≠ 0 → regionRoom s (512 - openRecords s) = true →
    ∃ t pads, exec .ledgerIdleClose s = .next t ∧ t = { s with led := t.led } ∧
      t.led.nextSeq = s.led.nextSeq + (512 - openRecords s) ∧ t.led.region = s.led.region ++ pads ∧
      pads.length = 512 - openRecords s ∧ (∀ r, r ∈ pads → r.typ = 0xB)) ∧
  (∀ (s : State), serving s = true → openRecords s = 0 → exec .ledgerIdleClose s = .next s) ∧
  (∀ (s : State), regionRoom s (512 - openRecords s) = false → exec .ledgerIdleClose s = .next s) ∧
  (∀ (s : State), serving s = true → s.led.stalled ≠ [] →
    exec .ledgerSpaceFreed s = .next (resumeAll (admitAppends (s.led.stalled.length + 1) s))) ∧
  (∀ (s : State), s.led.stalled = [] → exec .ledgerSpaceFreed s = .next s) ∧
  (∀ (s : State), serving s = true → s.cat.stalledUpd ≠ [] →
    exec .pendingUpdateRoom s = .next (resumeAll (admitUpdates s.cat.stalledUpd.length s))) ∧
  (∀ (s : State), s.cat.stalledUpd = [] → exec .pendingUpdateRoom s = .next s)

/-- R38, R56, R28, R105, R188: loads serve their misses, a released shelf becomes FORM 0, Warming ends when every page
is loaded, and Preserve is entered only below its floor. -/
def Obligations.MapLoadsAndModes : Prop :=
  (∀ (s : State) (page : Bool) (n : Nat), loadHere s page n = true →
    exec (.mapMissReadDone page n) s = .next (settleWrites (retryLookups (takeLoad page n s)))) ∧
  (∀ (s : State) (page : Bool) (n : Nat), loadHere s page n = false → exec (.mapMissReadDone page n) s = .next s) ∧
  (∀ (s : State) (page : Nat), serving s = true → s.mode.warm = true → nextPage s = some page →
    exec (.shelfPageLoad page) s = .next (startLoadAt true true page s)) ∧
  (∀ (s : State) (page : Nat), s.mode.warm = false → exec (.shelfPageLoad page) s = .next s) ∧
  (∀ (s : State) (shelf : Nat), serving s = true → pageResident s shelf = false →
    exec (.shelfRelease shelf) s = .next (startLoad true (pageOfShelf shelf) s)) ∧
  (∀ (s : State) (shelf : Nat), serving s = true → pageResident s shelf = true → segResident s shelf = false →
    (shelfBase s shelf).e.form = 3 → exec (.shelfRelease shelf) s = .next (startLoad false shelf s)) ∧
  (∀ (s : State) (shelf : Nat), serving s = true → pageResident s shelf = true → segResident s shelf = true →
    (shelfBase s shelf).e.form = 3 →
    ∃ t, exec (.shelfRelease shelf) s = .next t ∧ (shelfBase t shelf).e.form = 0 ∧
      t = { s with cat := t.cat, blk := t.blk, inv := { s.inv with superseded := t.inv.superseded } } ∧
      (∀ n, n ≠ shelf → mapGet n t.cat.shelves = mapGet n s.cat.shelves)) ∧
  (∀ (s : State), s.mode.mode = .warming → s.mode.warm = true → pagesToLoad s = [] → s.mode.preservePend = false →
    ∃ t, exec .warmingEnd s = .next t ∧ t.mode.warm = false ∧
      t.mode.mode = (if s.mode.degraded then .degraded else .service) ∧ t.cat = s.cat ∧ t.nv = s.nv) ∧
  (∀ (s : State), serving s = true → s.mode.warm = true → pagesToLoad s ≠ [] → exec .warmingEnd s = .next s) ∧
  (∀ (s : State), s.mode.mode = .service → s.blk.headroom < preserveFloor s →
    ∃ t, exec .preserveEntry s = .next t ∧ t.mode.mode = .preserve ∧ t.mode.preservePend = true ∧
      t.wr.folding = false ∧ t.wr.flash = s.wr.flash ∧ t.cat = s.cat) ∧
  (∀ (s : State), s.mode.mode = .service → preserveFloor s ≤ s.blk.headroom → exec .preserveEntry s = .next s)

/-- R47 to R53: a pass starts when it is due, completes when its cards are on flash, and a spine record counts once it
has been read back; a torn one is written again. -/
def Obligations.PassesAndSpineRecords : Prop :=
  (∀ (s : State), serving s = true →
    ∃ t, exec .checkpointIntervalExpiry s = .next t ∧ t.mode.idle = false ∧
      t.inv.ckptDue = (s.inv.ckptDue || intervalOver s s.inv.spineMs) ∧
      t.inv.passDue = (s.inv.passDue || intervalOver s s.inv.passMs) ∧
      t = { s with
        inv := { s.inv with ckptDue := t.inv.ckptDue, passDue := t.inv.passDue }, mode := t.mode, dram := t.dram
        link := { s.link with ltrSent := t.link.ltrSent } }) ∧
  (∀ (s t u : State), serving s = true → s.inv.running = none → s.inv.passDue = true →
    u = askOnce 1 passReq [16] s → holdsBuf passReq u = true → runPass u = some t →
    exec .inventoryPassStart s = .next (leaveIdle t)) ∧
  (∀ (s u : State), serving s = true → s.inv.running = none → s.inv.passDue = true →
    u = askOnce 1 passReq [16] s → holdsBuf passReq u = false → exec .inventoryPassStart s = .next u) ∧
  (∀ (s : State) (m : MapSnap), s.inv.running = some m → exec .inventoryPassStart s = .next s) ∧
  (∀ (s : State) (m : MapSnap), serving s = true → s.inv.running = some m → passWritten s m = true →
    checkpointDue s = false →
    ∃ t, exec .inventoryPassComplete s = .next t ∧ t = { s with
      pools := t.pools
      inv := { s.inv with running := none, completed := some m, interval := fld s 0x600 } }) ∧
  (∀ (s : State) (m : MapSnap), serving s = true → s.inv.running = some m → passWritten s m = true →
    checkpointDue s = true → s.inv.writing = none → (spineOf s s.inv.activeSpine).length < 896 →
    ∃ t r, exec .inventoryPassComplete s = .next t ∧ t.inv.running = none ∧ t.inv.completed = some m ∧
      t.inv.writing = some r ∧ r.kind = 0 ∧ r.redoSeq = m.redo ∧ t.inv.nextSpine = s.inv.nextSpine + 1) ∧
  (∀ (s : State) (m : MapSnap), s.inv.running = some m → passWritten s m = false →
    exec .inventoryPassComplete s = .next s) ∧
  (∀ (s : State) (r : SpineRec), s.inv.writing = some r → s.mode.mode ≠ .coast →
    exec (.spineRecordReadback true) s = .next (resumeAll (spineRead r s)) ∧
    (spineRead r s).inv.writing = none ∧ (spineRead r s).inv.refFloor = r.accFloor ∧
    (spineRead r s).inv.ckptDue = false ∧
    (∀ n, spinePlace (tearSpine r s) = some n → exec (.spineRecordReadback false) s =
      .next (putSpine n { r with spineSeq := s.inv.nextSpine } (tearSpine r s)))) ∧
  (∀ (s : State) (ok : Bool), s.inv.writing = none → exec (.spineRecordReadback ok) s = .next s)

/-- R75 to R78, R103: the fold starts at its mark, runs only while it folds, and stops at its lower mark. -/
def Obligations.FoldStartsAndStops : Prop :=
  (∀ (s : State), serving s = true → s.wr.folding = false → s.mode.mode ≠ .preserve →
    fillAtLeast s (profileParam s 1) = true →
    ∃ t, exec .foldStart s = .next t ∧ t.wr = { s.wr with folding := true, idleFold := false } ∧ t.mode.idle = false ∧
      t = { s with wr := t.wr, mode := t.mode, dram := t.dram, link := { s.link with ltrSent := t.link.ltrSent } }) ∧
  (∀ (s : State), s.wr.folding = true ∨ s.mode.mode = .preserve → exec .foldStart s = .next s) ∧
  (∀ (s : State), serving s = true → s.wr.folding = false → s.mode.mode ≠ .preserve →
    fillAtLeast s (profileParam s 1) = false → fillAtMost s (profileParam s 2) = false →
    ∃ t, exec .idleFoldDelayExpiry s = .next t ∧
      t.wr = { s.wr with folding := true, idleFold := true, idleSeen := true } ∧
      t = { s with wr := t.wr, mode := t.mode, dram := t.dram, link := { s.link with ltrSent := t.link.ltrSent } }) ∧
  (∀ (s : State) (fresh : Bool) (picks : List Nat), s.wr.folding = true → moverReads s = true →
    s.mode.mode ≠ .preserve → fillAtMost s (profileParam s 2) = true →
    exec (.foldUnit fresh picks) s = .next { s with wr := { s.wr with folding := false, idleFold := false } }) ∧
  (∀ (s : State) (fresh : Bool) (picks : List Nat), s.wr.folding = true → moverReads s = true →
    s.mode.mode ≠ .preserve → fillAtMost s (profileParam s 2) = false →
    exec (.foldUnit fresh picks) s = .next (foldOne (choices fresh picks s) s)) ∧
  (∀ (s : State) (fresh : Bool) (picks : List Nat), s.wr.folding = false →
    exec (.foldUnit fresh picks) s = .next s) ∧
  (∀ (s : State) (row : Nat), serving s = true →
    exec (.foldRowProgrammed row) s = .next (resumeAll (finishRow row s)))

/-- R92, R93, R98, R101: weeding takes a forced victim first and otherwise the highest score while it is on; rotation takes
its victim only in a plane group in rotation; one victim at a time in a plane group. -/
def Obligations.VictimsAreTakenInOrder : Prop :=
  (∀ (s : State) (g n : Nat) (l : List Nat), serving s = true → s.mode.mode ≠ .preserve → victimBusy s g false = false →
    forcedFull s g = n :: l →
    ∃ t, exec (.weedingVictimSelect g) s = .next t ∧ (blkAt t n).state = 3 ∧ (blkAt t n).examined = 0 ∧
      t.blk.victims = s.blk.victims ++ [{ planeGroup := g, entry := n, rotation := false, forced := true, dest := none }] ∧
      t.wr = s.wr ∧ t.cat = s.cat ∧ t.led = s.led) ∧
  (∀ (s : State) (g n : Nat), serving s = true → s.mode.mode ≠ .preserve → victimBusy s g false = false →
    forcedFull s g = [] → weedingOn s g = true → mostBy (score s) (scored s g) = some n →
    exec (.weedingVictimSelect g) s = .next (takeVictim g n false s)) ∧
  (∀ (s : State) (g : Nat), victimBusy s g false = true ∨ (forcedFull s g = [] ∧ weedingOn s g = false) →
    exec (.weedingVictimSelect g) s = .next s) ∧
  (∀ (s : State) (g : Nat) (v : Victim) (fresh : Bool) (picks : List Nat), moverReads s = true →
    victimNow s g = some v →
    exec (.weedingCopy g fresh picks) s = .next (recountVictims (copyVictim v (choices fresh picks s) s))) ∧
  (∀ (s : State) (g : Nat) (fresh : Bool) (picks : List Nat), moverReads s = true → victimNow s g = none →
    exec (.weedingCopy g fresh picks) s = .next (recountVictims s)) ∧
  (∀ (s : State) (g n : Nat), serving s = true → s.mode.mode ≠ .preserve → s.mode.mode ≠ .warming →
    g < groupCount s →
    (rotatingNow s g).contains g = true → victimBusy s g true = false →
    rotationVictim { s with blk := { s.blk with rotating := rotatingNow s g } } g = some n →
    exec (.rotationStart g) s =
      .next (takeRotation g n { s with blk := { s.blk with rotating := rotatingNow s g } })) ∧
  (∀ (s : State) (g : Nat), serving s = true → s.mode.mode ≠ .preserve → s.mode.mode ≠ .warming →
    g < groupCount s →
    (rotatingNow s g).contains g = false →
    exec (.rotationStart g) s = .next { s with blk := { s.blk with rotating := rotatingNow s g } })

/-- R96, R97, R100: a block stripe enters erase pending only behind a durable gate, is erased on its dies once its intent is
programmed, and ends free or retired with one erase more. -/
def Obligations.ErasesPassTheirGate : Prop :=
  (∀ (s : State) (n : Nat), systemFull s n = false → sanitizeWants s n = false → gateHolds s n = false →
    exec (.eraseGateOpen n) s = .next s) ∧
  (∀ (s : State) (n : Nat), systemFull s n = false → sanitizeWants s n = false → serving s = true →
    gateHolds s n = true → keptApart s n = false → (blkAt s n).stream ≠ 3 →
    exec (.eraseGateOpen n) s = .next (eraseIntent n s)) ∧
  (∀ (s : State) (n : Nat), systemFull s n = false → sanitizeWants s n = false → serving s = true →
    gateHolds s n = true → keptApart s n = false → (blkAt s n).stream = 3 → mustStay s n = true →
    ∃ t, exec (.eraseGateOpen n) s = .next t ∧ EntryChanged n s t ∧ (blkAt t n).forced = true ∧
      t.blk.erases = s.blk.erases) ∧
  (∀ (s : State) (n : Nat) (j : EraseJob), serving s = true → jobOf s n = some j → j.issued = false → j.restart = false →
    j.intent ≤ s.led.progSeq → ((eraseDies s n).any fun d => decide (4 ≤ d.eraseQ.length)) = false →
    ∃ t, exec (.eraseIntentDurable n) s = .next t ∧ t = { s with fl := t.fl, blk := t.blk } ∧
      jobOf t n = some { j with issued := true, atUs := s.clock.us } ∧ t.blk.table = s.blk.table ∧
      (∀ d, d ∈ eraseDies s n → ∃ x, dieAt t d.channel d.target = some x ∧ n ∈ x.eraseQ)) ∧
  (∀ (s : State) (n : Nat) (j : EraseJob), jobOf s n = some j → s.led.progSeq < j.intent →
    exec (.eraseIntentDurable n) s = .next s) ∧
  (∀ (s : State) (n : Nat) (j : EraseJob) (bad : List Nat), serving s = true → jobOf s n = some j →
    j.issued = true → (s.fl.dies.any (eraseWaits n)) = false →
    exec (.blockEraseDone n bad) s = .next (if j.restart then
      reeraseEnded j ((bad ++ j.failed).eraseDups) (clearErase n s)
      else eraseEnds n ((bad ++ j.failed).eraseDups) (clearErase n s))) ∧
  (∀ (s : State) (n : Nat) (j : EraseJob) (bad : List Nat), serving s = true → jobOf s n = some j →
    j.restart = true → j.issued = false →
    (j.phase = 0 → exec (.startupReerase n bad) s = .next (startReerase j s)) ∧
    (j.phase = 2 → bad = [] → j.failed = [] → exec (.startupReerase n bad) s = .next (eraseEnds n [] s)) ∧
    (j.phase = 3 → exec (.startupReerase n bad) s = .next (startReerase j s)) ∧
    (3 < j.phase → exec (.startupReerase n bad) s = .next (eraseEnds n ((bad ++ j.failed).eraseDups) s))) ∧
  (∀ (s : State) (j : EraseJob), jobOf s j.entry = some j →
    ((reeraseDies s j).any fun d => decide (4 ≤ d.eraseQ.length)) = false →
    jobOf (startReerase j s) j.entry = some { j with issued := true, phase := j.phase + 1, atUs := s.clock.us } ∧
    ∀ d, d ∈ reeraseDies s j → ∃ x, dieAt (startReerase j s) d.channel d.target = some x ∧ j.entry ∈ x.eraseQ) ∧
  (∀ (s : State) (n : Nat) (bad : List Nat), jobOf s n = none →
    exec (.eraseIntentDurable n) s = .next s ∧ exec (.blockEraseDone n bad) s = .next s ∧
    exec (.startupReerase n bad) s = .next s)

/-- R99, R102: a lane rebuild moves what its retired dies hold, then forces its wide block stripes, and ends when none is
left; Degraded ends with the last rebuild; silicon over its thresholds is retired. -/
def Obligations.LaneRebuildsAndRetirement : Prop :=
  (∀ (s : State) (lane : Nat) (picks : List Nat) (r : LaneRebuild),
    s.blk.rebuilds.find? (fun x => x.lane = lane) = some r → moverReads s = true → r.step = 1 →
    retiredItems s lane = [] → retiredLeft s lane = false →
    exec (.laneRebuildStep lane picks) s = .next (setRebuild lane 2 (forceWide lane true s)) ∧
    (((wideStripes s lane).filter fun n => (blkAt s n).stream = 3) = [] →
      ∃ t, exec (.laneRebuildStep lane picks) s = .next t ∧
        t = { s with blk := { s.blk with rebuilds := t.blk.rebuilds } } ∧
        t.blk.rebuilds.find? (fun x => x.lane = lane) = some { r with step := 2 })) ∧
  (∀ (s : State) (lane : Nat) (picks : List Nat) (r : LaneRebuild),
    s.blk.rebuilds.find? (fun x => x.lane = lane) = some r → moverReads s = true → r.step = 1 →
    retiredItems s lane ≠ [] →
    exec (.laneRebuildStep lane picks) s = .next (countWeed (forceWide lane true s)
      (moveUnit 2 4 lane none (retiredItems s lane) picks (rowCards (forceWide lane true s))
        (forceWide lane true s)))) ∧
  (∀ (s : State) (lane : Nat) (picks : List Nat) (r : LaneRebuild),
    s.blk.rebuilds.find? (fun x => x.lane = lane) = some r → moverReads s = true → r.step ≠ 1 →
    s.mode.mode ≠ .preserve → exec (.laneRebuildStep lane picks) s = .next (forceWide lane false s)) ∧
  (∀ (s : State) (lane : Nat) (picks : List Nat), s.blk.rebuilds.find? (fun x => x.lane = lane) = none →
    exec (.laneRebuildStep lane picks) s = .next s) ∧
  (∀ (s : State) (lane : Nat) (r : LaneRebuild), s.mode.mode = .degraded → s.blk.rebuilds = [r] → r.lane = lane →
    r.step = 2 → wideStripes s lane = [] → rebuildingHere s = [] →
    ∃ t, exec (.laneRebuildEnd lane) s = .next t ∧ t.blk.rebuilds = [] ∧ t.mode.mode = .service ∧
      t.mode.degraded = false ∧ t.cat = s.cat ∧ t.wr = s.wr) ∧
  (∀ (s : State) (lane : Nat), wideStripes s lane ≠ [] → exec (.laneRebuildEnd lane) s = .next s) ∧
  (∀ (s : State), serving s = true → s.lib.state = 0 →
    (s.blk.softReads.filter fun x => decide (fld s 0x630 ≤ x.2)) = [] →
    ((lanesInForce s).filter fun e => fractionReached s e && ! dieRetired s e.channel e.target) = [] →
    exec .retireEvaluate s = .next s) ∧
  (∀ (s : State) (e : LaneEntry), serving s = true → s.lib.state = 0 →
    (s.blk.softReads.filter fun x => decide (fld s 0x630 ≤ x.2)) = [] →
    ((lanesInForce s).filter fun x => fractionReached s x && ! dieRetired s x.channel x.target) = [e] →
    exec .retireEvaluate s =
      .next (settleChannel e.channel (Sys2Proof.Machine.retireDie e.channel e.target 1 s)))

/-- R120, R122 to R125, R114: what starts, waits and is suspended on a die changes that die alone. -/
def Obligations.DieOperationsChangeTheirDieAlone : Prop :=
  (∀ (s : State) (ch tg : Nat) (d : Die), dieAt s ch tg = some d → dieTakes s d = true → readTime d = true →
    s.mode.mode ≠ .coast → ch ∉ s.mode.gates.tiles → zqWaits s ch tg = false →
    ∃ t, exec (.flashReadIssue ch tg) s = .next t ∧ DieChanged ch tg (groupReads s (4 * planesOf s) false) s t) ∧
  (∀ (s : State) (ch tg : Nat) (d : Die), dieAt s ch tg = some d → zqWaits s ch tg = true →
    ceIdle s ch (ceOf tg) = false → exec (.flashReadIssue ch tg) s = .next s ∧
    (dieServes s ch tg = true → exec (.arrayOpIssue ch tg) s = .next s)) ∧
  (∀ (s : State) (ch tg : Nat) (d : Die) (o : ArrayOp), dieAt s ch tg = some d → tilesRun s = true →
    dieServes s ch tg = true → ch ∉ s.mode.gates.tiles → dieTakes s d = true → d.op = none →
    (d.readQ = [] ∨ limited1 d ≠ none) → zqWaits s ch tg = false → nextArrayOp s d = some o →
    ∃ t, exec (.arrayOpIssue ch tg) s = .next t ∧
      DieChanged ch tg (beginOp o (joinedWith s d o) (capOf s o) (opCycles s ch (o :: joinedWith s d o))) s t ∧
      ∃ x, dieAt t ch tg = some x ∧ x.op = some o ∧ x.joined = joinedWith s d o ∧ x.suspends = 0 ∧ x.cap = capOf s o) ∧
  (∀ (s : State) (ch tg : Nat) (d : Die), dieAt s ch tg = some d → tilesRun s = true → dieServes s ch tg = true →
    (d.op ≠ none ∨ (d.readQ ≠ [] ∧ limited1 d = none)) → exec (.arrayOpIssue ch tg) s = .next s) ∧
  (∀ (s : State) (ch tg : Nat) (d : Die), dieAt s ch tg = some d → (d.progQ ≠ [] ∨ d.eraseQ ≠ []) →
    s.mode.mode ≠ .coast → limited1 d = none →
    ∃ t, exec (.issueLimitExpiry ch tg) s = .next t ∧
      DieChanged ch tg (fun x => { x with limitNext := longestWait s d }) s t) ∧
  (∀ (s : State) (ch tg : Nat) (d : Die), dieAt s ch tg = some d → limited1 d ≠ none →
    exec (.issueLimitExpiry ch tg) s = .next s) ∧
  (∀ (s : State) (ch tg : Nat) (d : Die), dieAt s ch tg = some d → d.eraseQ ≠ [] → s.mode.mode ≠ .coast →
    ∃ t, exec (.eraseWaitExpiry ch tg) s = .next t ∧ DieChanged ch tg (fun x => { x with eraseNext := true }) s t) ∧
  (∀ (s : State) (ch tg ran cap run : Nat) (d : Die) (c : Channel), dieAt s ch tg = some d → dieTakes s d = true →
    class0 (readsSeen d) ≠ [] → s.mode.mode ≠ .coast → suspendRule s d = some (cap, run) → chanAt s ch = some c →
    (d.suspends < cap → run ≤ ran → ∃ t, exec (.readWaitLimitExpiry ch tg ran) s = .next t ∧
      (∃ x, dieAt t ch tg = some x ∧ x.suspending = true ∧ x.suspends = d.suspends + 1 ∧ x.suspReads = class0 (readsSeen d) ∧
        x.op = d.op) ∧ chanAt t ch = some { c with susp := sat32 (c.susp + 1) }) ∧
    (d.suspends < cap → ran < run → exec (.readWaitLimitExpiry ch tg ran) s = .next s) ∧
    (cap ≤ d.suspends → ∃ t, exec (.readWaitLimitExpiry ch tg ran) s = .next t ∧ t.fl.dies = s.fl.dies ∧
      chanAt t ch = some { c with capped := sat32 (c.capped + 1) })) ∧
  (∀ (s : State) (ch tg : Nat) (d : Die), dieAt s ch tg = some d → d.suspending = true → d.resetting = false →
    ∃ t, exec (.suspendReady ch tg) s = .next t ∧ DieChanged ch tg (fun x =>
      { x.suspReads.foldl (issueSuspended s) { x with cycles := [] } with
        suspending := false, suspended := x.op, op := some (.reads x.suspReads), suspReads := [] }) s t ∧
      ∃ x, dieAt t ch tg = some x ∧ x.op = some (.reads d.suspReads) ∧ x.suspended = d.op ∧ x.suspending = false) ∧
  (∀ (s : State) (ch tg : Nat) (d : Die) (o : ArrayOp), dieAt s ch tg = some d → d.suspended = some o →
    readsOn d = [] → d.resetting = false →
    ∃ t, exec (.suspendedReadsDone ch tg) s = .next t ∧
      DieChanged ch tg (fun x => { x with
        cycles := resumeCycles x.suspended, op := x.suspended, suspended := none }) s t)

/-- R131, R132, R134, R99: a timed-out die is held and reset, an answering one goes on, and one that does not answer is
retired with reason 2. -/
def Obligations.TimedOutDiesAreHeldAndRetired : Prop :=
  (∀ (s u : State) (ch tg : Nat) (d : Die) (o : ArrayOp) (c : Channel), dieAt s ch tg = some d → d.op = some o →
    d.resetting = false → tilesRun s = true → chanAt s ch = some c →
    u = record 0x0103 [(1, ch), (1, tg), (1, opCode o)] (countC1 14 (modChan ch (fun x => { x with
      tout := sat32 (x.tout + 1)
      toutAt := (x.toutAt.filter fun y => decide (s.clock.us ≤ 100000 + y.2)) ++ [(tg, s.clock.us)] })
      (modDie ch tg (holdDie s.clock.us) s))) →
    dieAt u ch tg = some (holdDie s.clock.us d) ∧
    (∃ y, chanAt u ch = some y ∧ y.tout = sat32 (c.tout + 1)) ∧
    (s.mode.mode = .coast → exec (.dieTimeout ch tg) s =
      .next ((programsOf (begun d) ++ d.progQ).foldl (fun t p => coastFail p t) u)) ∧
    (s.mode.mode ≠ .coast → exec (.dieTimeout ch tg) s =
      .next (resumeAll ((programsOf (begun d) ++ d.progQ).foldl
        (fun t p => failUnit ch tg p [] t) (unavailable (d.readQ ++ d.suspReads) u))))) ∧
  (∀ (s : State) (ch tg : Nat) (d : Die), dieAt s ch tg = some d → d.op = none →
    exec (.dieTimeout ch tg) s = .next s) ∧
  (∀ (s : State) (ch tg : Nat) (d : Die) (c : Channel), dieAt s ch tg = some d → chanAt s ch = some c →
    d.resetting = true → (d.timedOut = none ∨ ∃ p, d.timedOut = some (.program p)) →
    ∃ t, exec (.resetLunDone ch tg) s = .next t ∧ DieChanged ch tg (fun x => { x with
      resetting := false, timedOut := none, joined := [], held := tooMany s d || c.held }) s t) ∧
  (∀ (s : State) (ch tg : Nat) (d : Die) (c : Channel), dieAt s ch tg = some d → chanAt s ch = some c →
    d.resetting = true → exec (.resetLunDone ch tg) s = .next (settleTimeout d (modDie ch tg (fun x => { x with
      resetting := false, timedOut := none, joined := [], held := tooMany s d || c.held }) s))) ∧
  (∀ (s : State) (ch tg : Nat) (d : Die), dieAt s ch tg = some d → d.resetting = false →
    exec (.resetLunDone ch tg) s = .next s) ∧
  (∀ (s : State) (ch tg cause : Nat) (d : Die), dieAt s ch tg = some d → d.held = true → cause ≤ 1 →
    s.mode.mode ≠ .coast → tilesRun s = true →
    exec (.dieNotAnswering ch tg cause) s = .next (resumeAll (settleChannel ch (askRetire ch tg 2
      (settleTimeout d (modDie ch tg (fun x => { x with resetting := false, timedOut := none, joined := [] }) s)))))) ∧
  (∀ (s : State) (ch tg cause : Nat) (d : Die), dieAt s ch tg = some d → d.held = false →
    exec (.dieNotAnswering ch tg cause) s = .next s) ∧
  (∀ (s u : State) (ch : Nat) (r : TrainResult) (c : Channel), chanAt s ch = some c → faultSeen c = true →
    s.mode.mode ≠ .coast → tilesRun s = true → r.channel = ch → u = openChannel ch true
      (modChan ch (fun x => { x with held := true, iface := [] }) (holdChannel ch s)) →
    trainedSet s r c.inForce.timingSet = 0 →
    exec (.channelFault ch r) s = .next (resumeAll (retireChannelDies ch 3 u))) ∧
  (∀ (s u : State) (ch : Nat) (r : TrainResult) (c : Channel), chanAt s ch = some c → faultSeen c = true →
    s.mode.mode ≠ .coast → tilesRun s = true → r.channel = ch → u = openChannel ch true
      (modChan ch (fun x => { x with held := true, iface := [] }) (holdChannel ch s)) →
    trainedSet s r c.inForce.timingSet = c.inForce.timingSet → c.inForce.timingSet ≠ 0 →
    exec (.channelFault ch r) s = .next (resumeAll (settleChannel ch (r.missing.foldl (fun t x => askRetire ch x 2 t)
      (releaseChannel ch (takeTraining r c.inForce.timingSet u)))))) ∧
  (∀ (s : State) (ch : Nat) (r : TrainResult) (c : Channel), chanAt s ch = some c → faultSeen c = false →
    exec (.channelFault ch r) s = .next s)

/-- R117, R118, R126, R130, R144: Roster changes wait for their sync and load whole; calibration and re-centring follow
the temperature. -/
def Obligations.RosterSyncsAndCalibration : Prop :=
  (∀ (s : State) (ch : Nat) (c : Channel), tilesRun s = true → s.lib.state = 0 → chanAt s ch = some c →
    ∃ t x, exec (.rosterSync ch) s = .next t ∧ chanAt t ch = some x ∧ x.sync = true ∧ x.inForce = c.inForce ∧
      x.copy = { c.copy with zqInterval := fld s 0x650, generation := (c.copy.generation + 1) % 65536 } ∧
      (∀ k, k ≠ ch → chanAt t k = chanAt s k) ∧ t.cat = s.cat ∧ t.nv = s.nv) ∧
  (∀ (s : State) (ch : Nat) (c : Channel), chanAt s ch = some c → c.sync = true → tilesRun s = true →
    ((s.nv.cmds.filter fun x => x.qid = 0 && x.phase = .running && x.e.opcode = 0xC4) = []) →
    ∃ t, exec (.rosterLoad ch true) s = .next t ∧ t = { s with fl := t.fl } ∧
      chanAt t ch = some { c with
        sync := false
        iface := c.iface.map fun x => (x.1, c.copy.timingSet)
        inForce := { c.copy with
          present := c.inForce.present, dieProfile := c.inForce.dieProfile, ldpc := c.inForce.ldpc } }) ∧
  (∀ (s : State) (ch slot : Nat) (c : Channel) (x : Cmd), chanAt s ch = some c → c.sync = true → tilesRun s = true →
    cmdAt s slot = some x →
    (s.nv.cmds.filter fun y => y.qid = 0 && y.phase = .running && y.e.opcode = 0xC4 && bitsOf y.e.dw10 13 8 = ch) = [x] →
    ∃ t, exec (.rosterLoad ch true) s = .next t ∧ t = { s with fl := t.fl, nv := t.nv } ∧
      Ended slot x (0, 0) c.copy.generation s t) ∧
  (∀ (s : State) (ch : Nat) (c : Channel), chanAt s ch = some c → c.sync = true → tilesRun s = true →
    ∃ t, exec (.rosterLoad ch false) s = .next t ∧ chanAt t ch = some { c with sync := false } ∧ t.nv = s.nv) ∧
  (∀ (s : State) (ch : Nat) (ok : Bool) (c : Channel), chanAt s ch = some c → c.sync = false →
    exec (.rosterLoad ch ok) s = .next s) ∧
  (∀ (s : State) (ch ce : Nat) (c : Channel), tilesRun s = true → chanAt s ch = some c → ceDies s ch ce ≠ [] →
    ceIdle s ch ce = true →
    ∃ t, exec (.zqIntervalExpiry ch ce) s = .next t ∧ t = { s with fl := t.fl } ∧
      t.fl.dies = s.fl.dies.map (fun x =>
        if x.channel = ch ∧ ceOf x.target = ce then
          { x with cycles := (if x.caching then [0x3F] else []) ++ [0xD9], caching := false, lastPage := none } else x) ∧
      chanAt t ch = some { c with
        zqDone := c.zqDone + 1, zqDue := c.zqDue.filter (fun x => x != ce)
        zqTemp := match meanTemp (ceDies s ch ce) with
          | some m => mapSet ce m c.zqTemp
          | none => c.zqTemp }) ∧
  (∀ (s : State) (ch ce : Nat) (c : Channel), tilesRun s = true → chanAt s ch = some c → ceDies s ch ce ≠ [] →
    ceIdle s ch ce = false →
    ∃ t x, exec (.zqIntervalExpiry ch ce) s = .next t ∧ t = { s with fl := t.fl } ∧ t.fl.dies = s.fl.dies ∧
      chanAt t ch = some x ∧ x = { c with zqDue := x.zqDue } ∧ ce ∈ x.zqDue) ∧
  (∀ (s : State) (ch tg : Nat) (temp : Int), tilesRun s = true →
    zqMoved (modDie ch tg (readTemp s ch temp) s) ch (ceOf tg) = false →
    ∃ t, exec (.dieTempRead ch tg temp) s = .next t ∧ DieChanged ch tg (readTemp s ch temp) s t) ∧
  (∀ (s : State) (ch : Nat) (l : List CeTrain) (temp : Int) (c : Channel), chanAt s ch = some c → serving s = true →
    recentreDue s ch c = true → sweepPasses s ch [] l = true →
    ∃ t x, exec (.recentreSweep ch l temp) s = .next t ∧ chanAt t ch = some x ∧ x.copy.trainTemp = temp ∧
      x.copy.training = mergeCentres l c.copy.training ∧ x.inForce = c.inForce) ∧
  (∀ (s : State) (ch : Nat) (l : List CeTrain) (temp : Int) (c : Channel), chanAt s ch = some c → serving s = true →
    recentreDue s ch c = true → sweepPasses s ch [] l = false →
    ∃ t x, exec (.recentreSweep ch l temp) s = .next t ∧ chanAt t ch = some x ∧ x.retrainNext = true ∧
      x.copy = c.copy)

/-- R142, R143, R147, R150, R151, R245, R249, R157: reads end in delivery or in the ladder; a codeword enters a context or
the queue; a context that is free serves the queue; a cipher unit runs only with a loaded key and 4,096 bytes. -/
def Obligations.LadderAndCipherUnits : Prop :=
  (∀ (s : State) (ch tg : Nat) (d : Die) (r : ReadReq) (rest : List ReadReq) (o : DecodeOutcome) (w : Bool),
    dieAt s ch tg = some d → d.op = some (.reads (r :: rest)) → d.resetting = false →
    (o = .unavailable ∨ unitFree s r = true) →
    exec (.flashReadDone ch tg o w) s =
      .next (endRead r o w (useDecoder s r
        (modDie ch tg (fun x => { x with op := afterRead d rest, cycles := dataCycles }) s)))) ∧
  (∀ (s : State) (ppa : Ppa) (cls step : Nat) (w : LadderWord), awake s = true → s.mode.mode ≠ .coast →
    s.esc.failed.find? (fun x => x.ppa = ppa) = some w → ctxOf s ppa = none → s.esc.contexts.length < 256 →
    s.esc.queue = [] →
    exec (.escalationEntry ppa cls step) s = .next (newCtx w { s with esc := { s.esc with
      failed := dropFirst (fun x => x = w) s.esc.failed } }) ∧
    (w.step = 6 → ∃ t c, exec (.escalationEntry ppa cls step) s = .next t ∧
      t.esc.contexts = s.esc.contexts ++ [c] ∧ c.words.map (fun x => x.ppa) = [ppa] ∧
      t = { s with esc := t.esc, mode := t.mode, dram := t.dram, link := { s.link with ltrSent := t.link.ltrSent } } ∧
      t.mode.idle = false ∧
      t.esc.failed = dropFirst (fun x => x = w) s.esc.failed ∧ t.esc.queue = [])) ∧
  (∀ (s : State) (ppa : Ppa) (cls step : Nat), awake s = true → s.mode.mode ≠ .coast →
    s.esc.failed.find? (fun x => x.ppa = ppa) = none → (step = 3 ∨ step = 6) →
    exec (.escalationEntry ppa cls step) s = .next (enterWord
      { ppa := ppa, step := step, cls := min cls 1, why := [.nobody], decoded := decide (step = 3), places := 0 } s)) ∧
  (∀ (s : State) (ppa : Ppa) (cls step : Nat), awake s = true → s.mode.mode ≠ .coast →
    s.esc.failed.find? (fun x => x.ppa = ppa) = none → step ≠ 3 → step ≠ 6 →
    exec (.escalationEntry ppa cls step) s = .next s) ∧
  (∀ (s : State) (c : EscContext), c ∈ s.esc.contexts → c.words = [] → s.esc.queue = [] → s.esc.stalled = [] →
    (∀ x, x ∈ s.esc.contexts → x.lane = c.lane → x.block = c.block → x.page = c.page → x = c) →
    ∃ t, exec (.contextFree c.lane c.block c.page) s = .next t ∧
      t = { s with esc := { s.esc with contexts := dropFirst (fun x => x = c) s.esc.contexts } }) ∧
  (∀ (s : State) (lane block page : Nat),
    ∃ t, exec (.escalationBudgetExpiry lane block page) s = .next t ∧
      t = { s with esc := { s.esc with contexts := t.esc.contexts } } ∧
      t.esc.contexts = expireFirst (fun c => c.lane = lane && c.block = block && c.page = page && ! c.budget)
        s.esc.contexts) ∧
  (∀ (s : State) (a b : List EscContext) (c : EscContext), s.esc.contexts = a ++ c :: b → c.budget = false →
    (∀ x, x ∈ a → x.lane = c.lane → x.block = c.block → x.page = c.page → x.budget = true) →
    ∃ t, exec (.escalationBudgetExpiry c.lane c.block c.page) s = .next t ∧
      t.esc.contexts = a ++ { c with budget := true } :: b) ∧
  (∀ (s : State) (ppa : Ppa) (fresh : Bool) (picks : List Nat) (w : LadderWord), tilesRun s = true →
    s.mode.mode ≠ .coast → wordOf s ppa = some w →
    (w.step ≤ 5 → exec (.ladderStepDone ppa fresh picks) s = .next (resumeAll (retryStep w s))) ∧
    (w.step = 6 → exec (.ladderStepDone ppa fresh picks) s = .next (resumeAll (rebuildStep w (natAt (choices fresh picks s) 0) s))) ∧
    (7 ≤ w.step → exec (.ladderStepDone ppa fresh picks) s = .next (resumeAll (foxStep w (natAt (choices fresh picks s) 0) s)))) ∧
  (∀ (s : State) (ppa : Ppa) (fresh : Bool) (picks : List Nat), wordOf s ppa = none →
    exec (.ladderStepDone ppa fresh picks) s = .next s) ∧
  (∀ (s : State) (core slot kind k : Nat), awake s = true → core ≤ 23 → slot ≤ 1022 → kind ≤ 2 →
    core ∉ s.key.fenced → keyLoaded s slot = some k →
    ∃ t, exec (.cipherUnit core slot 4096 kind) s = .next t ∧ t = { s with mode := t.mode, key := t.key } ∧
      t.key = { s.key with unitsRun := mapSet core k s.key.unitsRun } ∧ core ∉ t.mode.gates.cores) ∧
  (∀ (s : State) (core slot len kind : Nat), awake s = true → core ≤ 23 → slot ≤ 1023 → kind ≤ 2 →
    core ∉ s.key.fenced → len ≠ 4096 →
    exec (.cipherUnit core slot len kind) s = .next { s with key := { s.key with sticky := s.key.sticky ||| 0x8 } }) ∧
  (∀ (s : State) (ppa : Ppa) (intact : Bool) (x : Ppa × ReadFor),
    s.esc.cipherIn.find? (fun y => y.1 = ppa) = some x →
    exec (.cipherUnitDone ppa intact) s = .next (endUnit1 ppa x.2 intact
      { s with esc := { s.esc with cipherIn := dropFirst (fun y => y = x) s.esc.cipherIn } })) ∧
  (∀ (s : State) (ppa : Ppa) (intact : Bool), s.esc.cipherIn.find? (fun y => y.1 = ppa) = none →
    exec (.cipherUnitDone ppa intact) s = .next s)

/-- R166, R168, R172 to R174: PWRFAIL_N or V12 that lasts enters Coast from every mode that serves; Coast writes its record
and holds, or, PERST# being low, becomes Dormant. -/
def Obligations.CoastIsEnteredAndHolds : Prop :=
  (∀ (s : State) (ns : Nat), serving s = true → 1000 ≤ ns →
    ∃ t, exec (.pwrfailNLow ns) s = .next t ∧ t.mode.mode = .coast ∧ t.coast.phase = .programs ∧
      t.coast.cause = .pwrfail ∧ t.coast.modeAt = s.mode.mode ∧ t.coast.entryUs = s.clock.us ∧ t.key.ring = s.key.ring) ∧
  (∀ (s : State) (ns : Nat), ns < 500 → exec (.pwrfailNLow ns) s = .next s) ∧
  (∀ (s : State) (ns : Nat), 500 ≤ ns → ns < 1000 → exec (.pwrfailNLow ns) s =
    .next (if Config.freeBit s.free then
      coastEntry .pwrfail { drawFree s with pins := { s.pins with pwrfailN := s.pins.pwrfailN && ! awake s } }
      else drawFree s)) ∧
  (∀ (s : State) (ns : Nat), serving s = true → 1000 ≤ ns →
    exec (.pwrfailNLow ns) s = .next (coastRuns .pwrfail { s with pins := { s.pins with pwrfailN := false } })) ∧
  (∀ (s : State) (mv us : Nat), serving s = true → mv < 100 * fld s 0x6C4 → 4 ≤ us →
    exec (.v12BelowThreshold mv us) s = .next (coastRuns .v12 s)) ∧
  (∀ (s : State) (mv us : Nat), serving s = true → mv < 100 * fld s 0x6C4 → 4 ≤ us →
    ∃ t, exec (.v12BelowThreshold mv us) s = .next t ∧ t.mode.mode = .coast ∧ t.coast.cause = .v12 ∧
      t.coast.modeAt = s.mode.mode) ∧
  (∀ (s : State) (mv us : Nat), 100 * fld s 0x6C4 ≤ mv ∨ us < 4 → exec (.v12BelowThreshold mv us) s = .next s) ∧
  (∀ (s : State), s.coast.phase = .programs →
    ∃ t, exec .coastProgramsDone s = .next t ∧ t.coast.phase = .record ∧ t.mode = s.mode ∧
      (∀ r, t.inv.writing = some r → t.coast.recordDue = true → r.kind = 2)) ∧
  (∀ (s : State), s.coast.phase ≠ .programs → exec .coastProgramsDone s = .next s) ∧
  (∀ (s : State) (ok : Bool), s.coast.phase = .record → s.coast.perstFacts = none → s.pins.perstN = true →
    ∃ t, exec (.coastComplete ok) s = .next t ∧ t.coast.phase = .hold ∧ t.nv.shst = 2 ∧ t.inv.writing = none ∧
      t.mode = s.mode ∧ t.wr = s.wr ∧ t.cat = s.cat ∧ t.cdx = s.cdx) ∧
  (∀ (s : State) (ok : Bool), s.coast.phase = .record → s.coast.perstFacts = none → s.pins.perstN = false →
    ∃ t, exec (.coastComplete ok) s = .next t ∧ t.mode.mode = .dormant ∧ t.wr.flash = s.wr.flash ∧
      t.cdx.mem = s.cdx.mem ∧ t.cdx.colophon = s.cdx.colophon ∧ t.clock = s.clock) ∧
  (∀ (s : State) (ok : Bool), s.coast.phase ≠ .record → exec (.coastComplete ok) s = .next s)

/-- R70, R175, R176, R177: a hold-up test runs from its request through discharge and recharge to a pass that arms Coast or
a failure that disarms it; disarming drains what is acknowledged. -/
def Obligations.HoldupTestsArmAndDisarm : Prop :=
  (∀ (s : State), testFree s = true →
    exec (.holdupTestIntervalExpiry false) s =
      .next (leaveIdle { s with coast := { s.coast with test := .requested } })) ∧
  (∀ (s : State), s.coast.armed = true ∨ holdupLow s = true → exec (.holdupTestIntervalExpiry true) s = .next s) ∧
  (∀ (s : State), s.coast.test = .requested → serving s = true → policyArmed s = false →
    exec .holdupTestStart s = .next { s with coast := { s.coast with test := .none } }) ∧
  (∀ (s : State), s.coast.test = .requested → serving s = true → policyArmed s = true → holdupLow s = false →
    exec .holdupTestStart s = .next { s with coast := { s.coast with test := .discharging } }) ∧
  (∀ (s : State), s.coast.test ≠ .requested → exec .holdupTestStart s = .next s) ∧
  (∀ (s : State) (td : Nat), s.coast.test = .discharging → 1000 * fld s 0x6CC ≤ td → td ≤ 1000 * fld s 0x6D0 →
    exec (.holdupDischargeEnd td) s = .next { s with
      pins := { s.pins with holdupSupLow := true }, coast := { s.coast with test := .recharging td } }) ∧
  (∀ (s : State) (td : Nat), s.coast.test = .discharging → td < 1000 * fld s 0x6CC →
    ∃ t h, exec (.holdupDischargeEnd td) s = .next t ∧ t.coast.armed = false ∧ t.coast.test = .none ∧
      t.coast.fails = sat32 (s.coast.fails + 1) ∧ t.coast.history.head? = some h ∧ h.result = 1 ∧ h.tdUs = td) ∧
  (∀ (s : State), s.coast.test = .discharging →
    ∃ t h, exec .holdupMaxDischargeExpiry s = .next t ∧ t.coast.armed = false ∧ t.coast.test = .none ∧
      t.coast.history.head? = some h ∧ h.result = 2 ∧ h.tdUs = 0xFFFFFFFF) ∧
  (∀ (s : State) (td : Nat), s.coast.test = .recharging td → policyArmed s = true →
    ∃ t h, exec .holdupRecharged s = .next t ∧ t.coast.armed = true ∧ t.coast.test = .none ∧ t.coast.failCount = 0 ∧
      t.coast.holdupLast = td ∧ t.coast.history.head? = some h ∧ h.result = 0 ∧ t.pins.holdupSupLow = false) ∧
  (∀ (s : State) (td : Nat), s.coast.test = .recharging td →
    ∃ t h, exec .holdupRechargeExpiry s = .next t ∧ t.coast.armed = false ∧ t.coast.history.head? = some h ∧
      h.result = 3 ∧ h.tdUs = td) ∧
  (∀ (s : State), serving s = true → s.coast.test = .none →
    ∃ t h, exec .holdupLowOutsideTest s = .next t ∧ t.coast.armed = false ∧ t.pins.holdupSupLow = true ∧
      t.coast.history.head? = some h ∧ h.result = 5) ∧
  (∀ (s : State) (cause : Nat), serving s = true → cause ≤ 1 → s.coast.armed = true →
    ∃ t, exec (.coastDisarm cause) s = .next t ∧ t.coast.armed = false ∧ t.coast.draining = true ∧
      (∀ p, p ∈ t.coast.drainLeft ↔ ∃ x, x ∈ t.wr.transit ∧ x.isAcked = true ∧ x.pageDone = false ∧ x.ppa = p)) ∧
  (∀ (s : State) (cause : Nat), s.coast.armed = false → exec (.coastDisarm cause) s = .next s) ∧
  (∀ (s : State), s.coast.draining = true → serving s = true → drainOpen s = false → armedOpen s = false →
    ∃ t, exec .ackDrainDone s = .next t ∧ t.coast.draining = false ∧ t.coast.drainLeft = [] ∧ t.wr = s.wr ∧
      t.cat = s.cat) ∧
  (∀ (s : State), s.coast.draining = false → exec .ackDrainDone s = .next s)

/-- R371 to R374, R424: a lockstep mismatch or a watchdog expiry restarts the Librarian alone; the third within ten minutes
holds it stopped; the end of the restart, and of a held pause, puts it back. -/
def Obligations.LibrarianRestarts : Prop :=
  (∀ (s : State), serving s = true ∨ s.mode.mode = .coast → s.lib.state ≠ 2 →
    ∃ t, exec .lockstepMismatch s = .next t ∧ t.lib.cause = 0 ∧ t.lib.restarts = min 255 (s.lib.restarts + 1) ∧
      t.lib.state = (if (recentRestarts s).length < 3 then 1 else 2) ∧ t.upd.staged = [] ∧ t.fol.staged = [] ∧
      t.wr = s.wr ∧ t.cat = s.cat ∧ t.led = s.led ∧ t.mode.mode = s.mode.mode) ∧
  (∀ (s : State), serving s = true ∨ s.mode.mode = .coast → s.lib.state ≠ 2 →
    ∃ t, exec .watchdogExpiry s = .next t ∧ t.lib.cause = 1 ∧ t.lib.restarts = min 255 (s.lib.restarts + 1) ∧
      t.lib.state = (if (recentRestarts s).length < 3 then 1 else 2) ∧ t.wr = s.wr ∧ t.cat = s.cat ∧ t.led = s.led) ∧
  (∀ (s : State), (serving s = false ∧ s.mode.mode ≠ .coast) ∨ s.lib.state = 2 →
    exec .lockstepMismatch s = .next s ∧ exec .watchdogExpiry s = .next s) ∧
  (∀ (s : State), serving s = true → s.lib.state = 1 → s.upd.held = false →
    exec .librarianRestartEnd s = .next (librarianRuns s)) ∧
  (∀ (s : State), serving s = true → s.lib.state = 1 → s.upd.held = false → s.lib.heldMi = [] → s.lib.viewJobs = [] →
    s.lib.waitingRet = [] → s.lib.waitingSync = [] → s.upd.relay.state ≠ 3 →
    ∃ t, exec .librarianRestartEnd s = .next t ∧ t.lib.state = 0 ∧ t.lib.heldAdmin = [] ∧ t.wr = s.wr ∧
      t.cat = s.cat) ∧
  (∀ (s : State), s.lib.state ≠ 1 ∨ s.upd.held = true → exec .librarianRestartEnd s = .next s) ∧
  (∀ (s : State), serving s = true → s.upd.held = true →
    ∃ t, exec .heldPauseEnd s = .next t ∧ t.upd.held = false ∧ t.upd.loaded = true ∧
      (blockOf t (activeBlock s)).confirmed = true ∧
      t.upd.identLo = (blockOf s (activeBlock s)).facts.version ∧ t.lib.state = s.lib.state) ∧
  (∀ (s : State), s.upd.held = false → exec .heldPauseEnd s = .next s)

/-- R377, R379, R388 to R390: samples and rails are recorded as read; a record takes its place in the buffer and the tail
and is flushed in order, once. -/
def Obligations.SensorsAndDaybook : Prop :=
  (∀ (s : State) (r : SensorReadings), awake s = true → r.ts.length = 12 → r.rails.length = 10 →
    ∃ t, exec (.sensorSample r) s = .next t ∧ t.sens.ts = r.ts ∧ t.sens.rails = r.rails ∧ t.sens.v12 = r.v12 ∧
      t.sens.throttle = decide (8 * (fld s 0x700 : Int) ≤ hottest r.ts) ∧ t.wr = s.wr ∧ t.cat = s.cat ∧
      t.mode = s.mode) ∧
  (∀ (s : State) (rail mv : Nat), awake s = true → rail ≤ 9 →
    ∃ t, exec (.railOutOfRange rail mv) s = .next t ∧ t.pins.railOk = s.pins.railOk.set rail false ∧
      t = { s with pins := t.pins, day := t.day, cdx := { s.cdx with recRecords := t.cdx.recRecords } } ∧
      t.day.sticky.getLsbD 2 = true) ∧
  (∀ (s : State) (src ev : Nat) (pay : List (Nat × Nat)), serving s = true → ev ∈ dayEvents →
    recordWanted s ev pay = true → bufferUse s < 4096 → s.day.stalled = [] →
    ∃ t, exec (.daybookRecordEntry src ev pay) s = .next t ∧ t = { s with day := t.day } ∧
      t.day.buffer = s.day.buffer ++ [makeRecord s ev pay] ∧ t.day.tail.getLast? = some (makeRecord s ev pay) ∧
      t.day.tail.length ≤ max 64 s.day.tail.length ∧
      (recordKind ev pay = 0 → t.day.flushDue = true)) ∧
  (∀ (s : State) (src ev : Nat) (pay : List (Nat × Nat)), serving s = true → ev ∈ dayEvents →
    recordWanted s ev pay = true → 4096 ≤ bufferUse s →
    ∃ t, exec (.daybookRecordEntry src ev pay) s = .next t ∧ t.day.buffer = s.day.buffer ∧
      t.day.stalled = s.day.stalled ++ [makeRecord s ev pay] ∧ t.day.sticky.getLsbD 5 = true) ∧
  (∀ (s : State) (src ev : Nat) (pay : List (Nat × Nat)), ev ∉ dayEvents ∨ recordWanted s ev pay = false →
    exec (.daybookRecordEntry src ev pay) s = .next s) ∧
  (∀ (s : State), flushRuns s = true → s.day.flushDue = true → dayRoom s (flushCards s.day.buffer.length) = true →
    ∃ t, exec .daybookFlush s = .next t ∧ t = { s with day := t.day } ∧ t.day.buffer = [] ∧ t.day.flushDue = false ∧
      t.day.flushing = s.day.flushing ++ s.day.buffer) ∧
  (∀ (s : State), s.day.flushDue = false → exec .daybookFlush s = .next s) ∧
  (∀ (s : State), serving s = true → s.day.flushing ≠ [] → s.day.stalled = [] →
    ∃ t, exec .daybookFlushDone s = .next t ∧ t = { s with day := t.day, wr := t.wr } ∧ t.wr.transit = s.wr.transit ∧
      t.day.flushing = s.day.flushing.drop 256 ∧
      (s.day.ring.length + 256 ≤ 1048576 → t.day.ring = s.day.ring ++ s.day.flushing.take 256)) ∧
  (∀ (s : State), s.day.flushing = [] → exec .daybookFlushDone s = .next s)

/-- R271 to R275: a port trains when its partner rises, tries narrower widths, takes the partner's HELLO, and leaves its
traffic when the link is lost. -/
def Obligations.PortsTrainFenceAndFail : Prop :=
  (∀ (s : State) (p : Nat), awake s = true → p < 4 → s.pel.ports.length = 4 → (portAt s p).aliveTx = true →
    (portAt s p).state = 0 →
    ∃ t, exec (.partnerAliveRise p) s = .next t ∧ (portAt t p).partner = true ∧ (portAt t p).state = 1 ∧
      (portAt t p).attempt = 0 ∧ (∀ q, q ≠ p → portAt t q = portAt s q) ∧
      t = { s with mode := { s.mode with gates := t.mode.gates }, pel := { s.pel with ports := t.pel.ports } }) ∧
  (∀ (s : State) (p ns : Nat), awake s = true → p < 4 → s.pel.ports.length = 4 → ns < 500 →
    ∃ t, exec (.partnerAliveLow p ns) s = .next t ∧ portAt t p = { portAt s p with partner := false } ∧
      p ∈ t.mode.gates.ports ∧ t.pel.routes = s.pel.routes) ∧
  (∀ (s : State) (p ns : Nat), awake s = true → p < 4 → s.pel.ports.length = 4 → 500 ≤ ns → (portAt s p).state = 3 →
    ∃ t, exec (.partnerAliveLow p ns) s = .next t ∧ (portAt t p).masked = true ∧ (portAt t p).state = 0 ∧
      t.pel.failover = sat32 (s.pel.failover + 1)) ∧
  (∀ (s : State) (p w : Nat), awake s = true → p < 4 → s.pel.ports.length = 4 → (portAt s p).state = 1 →
    (portAt s p).retryWait = false → w = attemptWidth (portAt s p).attempt → (portAt s p).level1 = false →
    ∃ t, exec (.portFecLock p w) s = .next t ∧
      portAt t p = { portAt s p with state := 2, width := w, rate := 0x70 } ∧
      (∃ x, t.pel.send.getLast? = some x ∧ x.port = p ∧ x.hdr.ptype = 1)) ∧
  (∀ (s : State) (p w : Nat), (portAt s p).state ≠ 1 ∨ w ≠ attemptWidth (portAt s p).attempt →
    exec (.portFecLock p w) s = .next s) ∧
  (∀ (s : State) (p : Nat), awake s = true → p < 4 → s.pel.ports.length = 4 → (portAt s p).state = 1 →
    (portAt s p).retryWait = false →
    ∃ t, exec (.failedTrainingAttempt p) s = .next t ∧
      portAt t p = (if (portAt s p).attempt = 2 ∨ (portAt s p).level1 = true
        then { portAt s p with retryWait := true }
        else { portAt s p with attempt := (portAt s p).attempt + 1 })) ∧
  (∀ (s : State) (p : Nat), awake s = true → p < 4 → s.pel.ports.length = 4 → (portAt s p).state = 1 →
    (portAt s p).retryWait = true →
    ∃ t, exec (.trainingRetryExpiry p) s = .next t ∧ (portAt t p).attempt = 0 ∧ (portAt t p).retryWait = false ∧
      (portAt t p).state = 1 ∧ t = { s with pel := { s.pel with ports := t.pel.ports } }) ∧
  (∀ (s : State) (h : PacketHdr) (b : PulseBody) (l a : Bool), awake s = true → h.port < 4 → s.pel.ports.length = 4 →
    (portAt s h.port).state = 2 → helloRefusal s h.port b l a = 0 →
    ∃ t, exec (.hello h b l a) s = .next t ∧
      portAt t h.port = { portAt s h.port with state := 3, masked := false, member := b.member, serial := b.serial } ∧
      t.pel.routes = s.pel.routes) ∧
  (∀ (s : State) (h : PacketHdr) (b : PulseBody) (l a : Bool), awake s = true → h.port < 4 → s.pel.ports.length = 4 →
    (portAt s h.port).state = 2 → helloRefusal s h.port b l a ≠ 0 →
    ∃ t, exec (.hello h b l a) s = .next t ∧
      portAt t h.port = { portAt s h.port with state := 4, fence := helloRefusal s h.port b l a }) ∧
  (∀ (s : State) (p : Nat), awake s = true → p < 4 → s.pel.ports.length = 4 → (portAt s p).state = 3 →
    ∃ t, exec (.fecLockLoss p) s = .next t ∧ (portAt t p).state = 0 ∧ (portAt t p).replay = [] ∧
      t.pel.routes = s.pel.routes.map (fun e => (e.1, failoverEntry p e.2)) ∧
      t.pel.failover = sat32 (s.pel.failover + 1)) ∧
  (∀ (s : State) (p : Nat), (portAt s p).state = 0 → exec (.fecLockLoss p) s = .next s)

/-- R275 to R279: numbers, PULSEs and routes: each member learns another only from a fresh PULSE, forgets it at the
timeout with its locks, and sends its own on every port in use. -/
def Obligations.NumbersPulsesAndRoutes : Prop :=
  (∀ (s : State), fabricOn s = true →
    ∃ t, exec .pulseSend s = .next t ∧ t.pel.pulseNum = s.pel.pulseNum + 1 ∧ t.pel.ports = s.pel.ports ∧
      t.pel.send.length = s.pel.send.length +
        ([0, 1, 2, 3].filter fun p => (portAt s p).state = 3 || (portAt s p).state = 4).length) ∧
  (∀ (s : State) (h : PacketHdr) (b : PulseBody), freshPulse s b = false → exec (.pulse h b) s = .next s) ∧
  (∀ (s : State) (h : PacketHdr) (b : PulseBody), fabricOn s = true → freshPulse s b = true → s.ech.ech = [] →
    (portAt s h.port).state = 3 →
    ∃ t x, exec (.pulse h b) s = .next t ∧ x ∈ t.pel.seen ∧ x.serial = b.serial ∧ x.pulseNum = b.pulseNum ∧
      x.member = b.member ∧ x.assigned = b.assigned ∧ x.digest = b.digest ∧ t.mode.idle = false) ∧
  (∀ (s : State) (serial : Nat) (x : Seen), fabricOn s = true → seenAt s serial = some x → x.assigned = true →
    s.ech.ech = [] →
    ∃ t, exec (.pulseTimeout serial) s = .next t ∧ seenAt t serial = none ∧
      t.pel.locks = s.pel.locks.filter (fun l => l.2.2 != x.member)) ∧
  (∀ (s : State) (serial : Nat), seenAt s serial = none → exec (.pulseTimeout serial) s = .next s) ∧
  (∀ (s : State) (h : PacketHdr) (b : PulseBody) (n : Nat), fabricOn s = true → autoNumbering s = true →
    (portAt s h.port).state = 3 → s.pel.assigned = false →
    ∃ t, exec (.helloAssign h b n s.cdx.serial) s = .next t ∧ t.pel.assigned = true ∧ t.pel.self = n) ∧
  (∀ (s : State) (h : PacketHdr) (b : PulseBody) (n serial : Nat), autoNumbering s = false →
    exec (.helloAssign h b n serial) s = .next s) ∧
  (∀ (s : State), fabricOn s = true → s.lib.state = 0 → (∀ x, x ∈ s.pel.seen → s.cdx.serial ≤ x.serial) →
    autoNumbering s = false →
    exec .roadCaptainStable s = .next { s with pel := { s.pel with captain := true, capMember := s.pel.self } }) ∧
  (∀ (s : State) (x : Seen), x ∈ s.pel.seen → x.serial < s.cdx.serial → exec .roadCaptainStable s = .next s) ∧
  (∀ (s : State) (prefer : List Nat), fabricOn s = true → s.lib.state = 0 →
    exec (.routingTableWrite prefer) s = .next (writeRoutes prefer s)) ∧
  (∀ (s : State) (prefer : List Nat), s.lib.state ≠ 0 → exec (.routingTableWrite prefer) s = .next s)

/-- R270, R281, R283, R268: a flit out of order or damaged is asked for again and moves no packet; a packet is served once;
one of a reserved type or without a route is counted and dropped. -/
def Obligations.FlitsAndPacketsAreTakenOnce : Prop :=
  (∀ (s : State) (p : Nat) (f : FlitIn), fabricOn s = true → p < 4 → 2 ≤ (portAt s p).state →
    (portAt s p).masked = false → (f.fcrcOk = false ∨ f.fseq ≠ ((portAt s p).rxSeq + 1) % 4096) →
    exec (.flitReceive p f) s = .next (grantSlot p (modPort p (fun x => { x with nakOut := true }) s))) ∧
  (∀ (s : State) (p : Nat) (f : FlitIn), fabricOn s = true → p < 4 → 2 ≤ (portAt s p).state →
    (portAt s p).masked = false → f.fcrcOk = true → f.fseq = ((portAt s p).rxSeq + 1) % 4096 →
    exec (.flitReceive p f) s = .next (goodFlit p f s)) ∧
  (∀ (s : State) (p : Nat) (f : FlitIn), (portAt s p).state < 2 → exec (.flitReceive p f) s = .next s) ∧
  (∀ (s : State) (p a : Nat), fabricOn s = true → 2 ≤ (portAt s p).state →
    exec (.flitNak p a) s = .next (takeNak p a s)) ∧
  (∀ (s : State) (p a : Nat), (portAt s p).state < 2 → exec (.flitNak p a) s = .next s) ∧
  (∀ (s : State) (p : Nat), fabricOn s = true → p < 4 → s.pel.ports.length = 4 →
    ∃ t, exec (.packetCrcFail p) s = .next t ∧
      portAt t p = { portAt s p with crcErr := sat32 ((portAt s p).crcErr + 1) } ∧
      (∀ q, q ≠ p → portAt t q = portAt s q) ∧ t.pel.send = s.pel.send ∧ t.pel.txns = s.pel.txns) ∧
  (∀ (s : State) (h : PacketHdr), fabricOn s = true → (h.ptype = 0 ∨ 0xC ≤ h.ptype ∨ h.ttl = 0) →
    exec (.reservedPacket h) s = .next { s with pel := { s.pel with unroute := sat32 (s.pel.unroute + 1) } }) ∧
  (∀ (s : State) (h : PacketHdr) (d : EcDesc), fabricOn s = true → h.ptype = 3 → h.dst = s.pel.self →
    s.pel.assigned = true → s.mode.mode ≠ .recovery → h.port < 4 → portMember s h.port = true → duplicate s h = true →
    exec (.cmd h d) s = .next { s with pel := { s.pel with dups := sat32 (s.pel.dups + 1) } }) ∧
  (∀ (s : State) (h : PacketHdr) (d : EcDesc), h.dst ≠ s.pel.self → exec (.cmd h d) s = .next s)

/-- R284 to R287, R292, R305, R306, R313: what an accepted packet of each type does, and what becomes of a request that is
refused, answered or not answered. -/
def Obligations.TransactionPacketsAreServed : Prop :=
  (∀ (s u : State) (h : PacketHdr) (d : EcDesc), accept 3 h s = (true, u) →
    exec (.cmd h d) s = .next (cmdIn h d (leaveIdle u))) ∧
  (∀ (s u : State) (h : PacketHdr), accept 4 h s = (true, u) → requestOf (leaveIdle u) h = none →
    ∃ t, exec (.go h) s = .next t ∧ t.pel.stale = sat32 (u.pel.stale + 1) ∧ t.pel.out = u.pel.out ∧
      t.pel.send = u.pel.send) ∧
  (∀ (s u : State) (h : PacketHdr) (r : OutReq), accept 4 h s = (true, u) → requestOf (leaveIdle u) h = some r →
    r.hdr.ptype ≠ 7 → r.payload = [] → exec (.go h) s = .next (leaveIdle u)) ∧
  (∀ (s u : State) (h : PacketHdr) (sec : List Nat) (x : InTxn), accept 5 h s = (true, u) →
    requestOf (leaveIdle u) h = none → txnAt (leaveIdle u) h = some x →
    ∃ t, exec (.data h sec) s = .next t ∧ txnAt t h = some { x with data := mapSet (h.arg0 / 4096) sec x.data } ∧
      t.pel.out = u.pel.out) ∧
  (∀ (s u : State) (h : PacketHdr), accept 6 h s = (true, u) → requestOf (leaveIdle u) h = none →
    ∃ t, exec (.done h) s = .next t ∧ t.pel.stale = sat32 (u.pel.stale + 1) ∧ t.pel.out = u.pel.out) ∧
  (∀ (s u : State) (h : PacketHdr) (r : OutReq), accept 6 h s = (true, u) → requestOf (leaveIdle u) h = some r →
    exec (.done h) s = .next (requestOver r (some (doneStatus h)) (dropRequest r (leaveIdle u)))) ∧
  (∀ (s u : State) (h : PacketHdr), accept 7 h s = (true, u) →
    keeperOf (leaveIdle u) (argEchelon h) (argStripe h) = u.pel.self →
    (echAt (leaveIdle u) (argEchelon h)).isSome = true →
    lockRefusal (leaveIdle u) (argEchelon h) (argStripe h) = 0 →
    ∃ t, exec (.lock h) s = .next t ∧ t.pel.locks = u.pel.locks ++ [(argEchelon h, argStripe h, h.src)] ∧
      t.ech = u.ech) ∧
  (∀ (s u : State) (h : PacketHdr), accept 7 h s = (true, u) →
    keeperOf (leaveIdle u) (argEchelon h) (argStripe h) ≠ u.pel.self →
    ∃ t, exec (.lock h) s = .next t ∧ t.pel.locks = u.pel.locks ∧ t.ech = u.ech) ∧
  (∀ (s u : State) (h : PacketHdr), accept 8 h s = (true, u) → u.ech.intents = [] →
    ∃ t, exec (.unlock h) s = .next t ∧
      t.pel.locks = u.pel.locks.filter (fun l => l != (argEchelon h, argStripe h, h.src)) ∧ t.ech = u.ech) ∧
  (∀ (s u : State) (h : PacketHdr) (r : OutReq), accept 9 h s = (true, u) → requestOf (leaveIdle u) h = some r →
    ∃ t, exec (.backoff h) s = .next t ∧ t.pel.backoffs = sat32 (u.pel.backoffs + 1) ∧
      t.pel.out = modWhere (fun x => x.dst = r.dst && x.index = r.index) (fun x => { x with
        refused := x.refused + 1, retryUs := max u.clock.us (x.sentUs + 2 * 2 ^ min x.refused 10) }) u.pel.out) ∧
  (∀ (s : State) (dst i : Nat) (r : OutReq), fabricOn s = true →
    s.pel.out.find? (fun x => x.dst = dst && x.index = i) = some r → r.refused ≠ 0 →
    exec (.backoffRetryExpiry dst i) s = .next (sendPacket r.hdr r.body (modRequest r (fun x => { x with
      retryUs := 0, sentUs := s.clock.us }) s))) ∧
  (∀ (s : State) (dst i : Nat), s.pel.out.find? (fun x => x.dst = dst && x.index = i) = none →
    exec (.backoffRetryExpiry dst i) s = .next s ∧ exec (.memberTimeout dst i) s = .next s) ∧
  (∀ (s : State) (dst i : Nat) (r : OutReq), fabricOn s = true →
    s.pel.out.find? (fun x => x.dst = dst && x.index = i) = some r →
    exec (.memberTimeout dst i) s = .next (requestOver r none (reportTimeout r (dropRequest r s)))) ∧
  (∀ (s u : State) (h : PacketHdr) (d : EcDesc) (k m p : Nat), accept 0xB h s = (true, u) →
    exec (.intent h d k m p) s = .next (intentIn h d k m p (leaveIdle u))) ∧
  (∀ (s u : State) (h : PacketHdr) (l o a : Nat) (f : BundleFacts), accept 0xA h s = (true, u) →
    s.mode.mode ≠ .recovery → relayBusy (leaveIdle u) o = false → h.arg0 = 0 →
    ∃ t, exec (.relay h l o a f) s = .next t ∧ t.upd.relay.rx = true ∧ t.upd.relay.rxOrigin = o ∧
      t.upd.relay.got = l ∧ t.upd.stFacts = f)

/-- R328, R331, R339, R340: a decoded or scrubbed word without errors records nothing; one bit is a correction, three an
uncorrectable word; every request brings the ranks out of self-refresh (R336: the next one that waits is served). The halving of the log changes the log alone. -/
def Obligations.DramWordsAreCountedAndScrubbed : Prop :=
  (∀ (s : State) (u rank bg bank row region owner now : Nat) (m : Bool) (l : List DramReq), dramOn s = true → u ≤ 7 →
    exec (.dramReadDecode u rank bg bank row 0 m ⟨region, owner⟩ ⟨l, now⟩) s = .next (takeReqs u l now (wakeDram s))) ∧
  (∀ (s : State) (u rank bg bank row region owner now : Nat) (m : Bool), dramOn s = true → u ≤ 7 →
    waitingReqs s u = [] →
    exec (.dramReadDecode u rank bg bank row 0 m ⟨region, owner⟩ ⟨[], now⟩) s = .next (wakeDram s) ∧
    ∀ r : DramReq, ∃ t, exec (.dramReadDecode u rank bg bank row 0 m ⟨region, owner⟩ ⟨[r], now⟩) s = .next t ∧
      t.dram.reqs = s.dram.reqs ∧ reqRow u r ∈ t.dram.openRows ∧
      t = { wakeDram s with dram := { (wakeDram s).dram with
        openRows := t.dram.openRows, rtRun := t.dram.rtRun, late := t.dram.late } }) ∧
  (∀ (s : State) (u rank bg bank row region owner now : Nat) (m : Bool) (l : List DramReq) (n : Nat), dramOn s = true →
    u ≤ 7 → s.dram.corr[u]? = some n →
    ∃ t, exec (.dramReadDecode u rank bg bank row 1 m ⟨region, owner⟩ ⟨l, now⟩) s = .next t ∧
      t = { s with dram := t.dram, mode := t.mode, nv := { s.nv with c1 := t.nv.c1 } } ∧
      t.dram.corr[u]? = some (min (n + 1) 4294967295) ∧ t.dram.uncorr = s.dram.uncorr ∧ t.dram.map = s.dram.map ∧
      t.mode.mode = s.mode.mode ∧ t.dram.selfRef = false ∧
      (∀ r, r ∈ s.dram.log → r.addr ≠ { u := u, rank := rank, bg := bg, bank := bank, row := row } →
        s.dram.log.length < rowLogSize → r ∈ t.dram.log)) ∧
  (∀ (s : State) (u rank bg bank row owner now : Nat) (l : List DramReq) (n : Nat), dramOn s = true → u ≤ 7 →
    s.dram.uncorr[u]? = some n → (∀ r, r ∈ s.ech.stewards → r.kind ≠ 6) →
    ∃ t, exec (.dramReadDecode u rank bg bank row 3 false ⟨1, owner⟩ ⟨l, now⟩) s = .next t ∧
      t.dram.uncorr[u]? = some (min (n + 1) 4294967295) ∧ t.dram.corr = s.dram.corr ∧
      t.dram.discards = sat32 (s.dram.discards + 1) ∧ t.dram.sticky.getLsbD 0 = true ∧ t.dram.map = s.dram.map ∧
      t.wr = s.wr ∧ t.cat = s.cat ∧ t.led = s.led) ∧
  (∀ (s : State) (u rank bg bank row now : Nat) (l : List DramReq) (n : Nat) (p : Ppa), dramOn s = true → u ≤ 7 →
    s.dram.uncorr[u]? = some n → s.cat.misses = [] → p ∉ s.dram.repeats →
    ∃ t, exec (.dramReadDecode u rank bg bank row 3 false ⟨0, p.toNat⟩ ⟨l, now⟩) s = .next t ∧
      t.dram.uncorr[u]? = some (min (n + 1) 4294967295) ∧ t.dram.discards = sat32 (s.dram.discards + 1) ∧
      t.dram.repeats = s.dram.repeats ++ [p] ∧ t.wr = { s.wr with fetched := s.wr.fetched.filter fun x => x.2.1 != p } ∧
      t.cat = { s.cat with arrived := s.cat.arrived.filter fun x => x.2.2 != p } ∧ t.led = s.led ∧ t.esc = s.esc) ∧
  (∀ (s : State) (u rank bg bank row : Nat) (w : Bool), dramOn s = true → u ≤ 7 →
    ∃ t, exec (.patrolScrub u rank bg bank row 0 w) s = .next t ∧
      t = { s with
        dram := { s.dram with selfRef := false, scrubbed := t.dram.scrubbed }
        mode := { s.mode with gates := { s.mode.gates with dram := false } } } ∧
      (t.dram.scrubbed = s.dram.scrubbed + 1 ∨ t.dram.scrubbed = 0)) ∧
  (∀ (s : State) (u rank bg bank row region owner k now : Nat) (m w : Bool) (l : List DramReq),
    dramOn s = false ∨ 7 < u → exec (.dramReadDecode u rank bg bank row k m ⟨region, owner⟩ ⟨l, now⟩) s = .next s ∧
    exec (.patrolScrub u rank bg bank row k w) s = .next s) ∧
  (∀ (s : State), dramOn s = true → ∃ t, exec .rowErrorLogHalve s = .next t ∧
    t = { s with dram := { s.dram with log := t.dram.log } } ∧ t.dram.log.length = s.dram.log.length ∧
    ∀ (i : Nat) (r : RowErr), s.dram.log[i]? = some r → ∃ q, t.dram.log[i]? = some q ∧ q.addr = r.addr ∧
      q.single = r.single / 2 ∧ q.double = r.double / 2 ∧ q.uncorr = r.uncorr / 2 ∧ q.lastMs = r.lastMs ∧
      q.retired = r.retired)

/-- R334, R337, R338, R341 to R343: refreshes are issued or postponed up to the limit; MR4, the oscillator and Brake change
the DRAM subsystem alone; a row that is due takes the lowest free spare of its subchannel, and with none nothing is
retired. -/
def Obligations.DramRefreshBrakeAndRetirement : Prop :=
  (∀ (s : State) (u n k : Nat), dramOn s = true → s.dram.selfRef = false → u ≤ 7 → s.dram.postponed[u]? = some k →
    s.dram.refreshes[u]? = some n → k < Config.postponeLimit →
    ∃ t, exec (.refreshTick u true) s = .next t ∧
      t = { s with dram := { s.dram with postponed := t.dram.postponed } } ∧ t.dram.postponed[u]? = some (k + 1) ∧
      ∀ v, v ≠ u → t.dram.postponed[v]? = s.dram.postponed[v]?) ∧
  (∀ (s : State) (u n k : Nat), dramOn s = true → s.dram.selfRef = false → u ≤ 7 → s.dram.postponed[u]? = some k →
    s.dram.refreshes[u]? = some n → Config.postponeLimit ≤ k →
    ∃ t, exec (.refreshTick u true) s = .next t ∧ t.dram.postponed[u]? = some k ∧
      t.dram.refreshes[u]? = some (n + 1)) ∧
  (∀ (s : State) (u n k : Nat), dramOn s = true → s.dram.selfRef = false → u ≤ 7 → s.dram.postponed[u]? = some k →
    s.dram.refreshes[u]? = some n →
    ∃ t, exec (.refreshTick u false) s = .next t ∧
      t = { s with dram := { s.dram with postponed := t.dram.postponed, refreshes := t.dram.refreshes } } ∧
      t.dram.postponed[u]? = some 0 ∧ t.dram.refreshes[u]? = some (n + (k + 1))) ∧
  (∀ (s : State) (rank : Nat) (doubled : Bool) (c : Int), dramOn s = true → rank < dramRanks s →
    ∃ t, exec (.mr4Read rank doubled false c) s = .next t ∧
      t = { s with dram := { s.dram with doubled := t.dram.doubled, rankTemp := t.dram.rankTemp } } ∧
      (rank ∈ t.dram.doubled ↔ doubled = true) ∧ (∀ r, r ≠ rank → (r ∈ t.dram.doubled ↔ r ∈ s.dram.doubled))) ∧
  (∀ (s : State) (rank : Nat) (doubled : Bool) (c : Int), dramOn s = true → rank < dramRanks s →
    ∃ t, exec (.mr4Read rank doubled true c) s = .next t ∧ t.dram.sticky.getLsbD 3 = true ∧
      t.dram.map = s.dram.map ∧ t.wr = s.wr ∧ t.cat = s.cat) ∧
  (∀ (s : State) (rank : Nat) (d : Int), dramOn s = true → s.dram.selfRef = false → rank < dramRanks s →
    ∃ t, exec (.dqsOscillatorRead rank d) s = .next t ∧
      t = { s with dram := { s.dram with writeDly := t.dram.writeDly, centreTemp := t.dram.centreTemp } } ∧
      mapAt 0 rank t.dram.writeDly = mapAt 0 rank s.dram.writeDly + d) ∧
  (∀ (s : State) (port fill : Nat), dramOn s = true → port ≤ 1 → s.dram.brake.length = 2 → 50 ≤ fill → fill < 90 →
    ∃ t, exec (.brakeRaise port fill) s = .next t ∧
      t = { s with dram := { s.dram with brake := t.dram.brake, brakes := t.dram.brakes, hold := t.dram.hold } } ∧
      t.dram.brake[port]? = some true ∧
      t.dram.brakes = (if s.dram.brake[port]? = some true then s.dram.brakes else sat32 (s.dram.brakes + 1))) ∧
  (∀ (s : State) (port fill : Nat), dramOn s = true → port ≤ 1 → s.dram.hold.length = 2 → 90 ≤ fill →
    ∃ t, exec (.brakeRaise port fill) s = .next t ∧ t.dram.hold[port]? = some true ∧
      t.dram.sticky.getLsbD 2 = true) ∧
  (∀ (s : State) (port : Nat), dramOn s = true → port ≤ 1 →
    exec (.brakeLower port) s = .next { s with dram := { s.dram with
      brake := s.dram.brake.set port false, hold := s.dram.hold.set port false } }) ∧
  (∀ (s : State) (u rank bg bank row i : Nat), dramOn s = true → s.lib.state = 0 → u ≤ 7 → rtRoom s = true →
    retireDue s { u := u, rank := rank, bg := bg, bank := bank, row := row } false = true → mapRoom s false = true →
    rowSpare s u = some i →
    ∃ t, exec (.rowRetire u rank bg bank row false) s = .next t ∧
      t.dram.map = s.dram.map ++
        [{ addr := { u := u, rank := rank, bg := bg, bank := bank, row := row }, whole := false, spare := i }] ∧
      t.dram.sticky.getLsbD 1 = true ∧ t.dram.corr = s.dram.corr ∧ t.wr = s.wr ∧ t.cat = s.cat ∧ t.led = s.led) ∧
  (∀ (s : State) (u rank bg bank row : Nat), dramOn s = true → s.lib.state = 0 → u ≤ 7 → rtRoom s = true →
    retireDue s { u := u, rank := rank, bg := bg, bank := bank, row := row } false = true → rowSpare s u = none →
    ∃ t, exec (.rowRetire u rank bg bank row false) s = .next t ∧ t.dram.map = s.dram.map ∧
      t.dram.sticky.getLsbD 4 = true ∧ t.fol = s.fol) ∧
  (∀ (s : State) (u rank bg bank row : Nat) (w : Bool),
    retireDue s { u := u, rank := rank, bg := bg, bank := bank, row := if w then 0 else row } w = false →
    exec (.rowRetire u rank bg bank row w) s = .next s)

/-- R398, R401, R402, R404, R406: a program that the die takes clears bits of its bytes alone; an erase sets the flag cell
of its sector, and leaves it erased and the flag clear only when it passes its verify; a refusal changes no byte. -/
def Obligations.CodexProgramsAndErases : Prop :=
  (∀ (s : State) (who a : Nat) (b : List Byte) (sp : Option CodexSpell), whoServed s who = true →
    s.cdx.cont = none → programLegal a b = true → dieBusy s = false → s.cdx.requests = [] →
    s.cdx.erasing ≠ some (a / 65536) → protectedFrom s who (a / 65536) = false →
    ∃ t r, exec (.codexProgram who a b sp) s = .next t ∧ t = { s with cdx := t.cdx } ∧ t.cdx.progging = some r ∧
      r.addr = a ∧ r.bytes = b ∧ r.spell = sp ∧ t.cdx.pFail = false ∧ t.cdx.locked = false ∧
      t.cdx.mem = s.cdx.mem ∧ t.cdx.flags = s.cdx.flags ∧ t.cdx.colophon = s.cdx.colophon) ∧
  (∀ (s : State) (who a : Nat) (b : List Byte) (sp : Option CodexSpell), whoServed s who = true →
    s.cdx.cont = none → programLegal a b = true → dieBusy s = false → s.cdx.requests = [] →
    s.cdx.erasing ≠ some (a / 65536) → protectedFrom s who (a / 65536) = true →
    ∃ t, exec (.codexProgram who a b sp) s = .next t ∧ t = { s with cdx := t.cdx } ∧ t.cdx.pFail = true ∧
      t.cdx.locked = true ∧ t.cdx.progging = s.cdx.progging ∧ t.cdx.mem = s.cdx.mem ∧ t.cdx.flags = s.cdx.flags) ∧
  (∀ (s : State) (who a : Nat) (b : List Byte) (sp : Option CodexSpell), whoServed s who = true → 0x4000000 ≤ a →
    exec (.codexProgram who a b sp) s = .next (sequenceError s) ∧
    exec (.codexSectorErase who a) s = .next (sequenceError s)) ∧
  (∀ (s : State) (r : CodexReq), s.cdx.progging = some r → mapAt 0 (r.addr / 256) s.cdx.pageProgs < 8 →
    s.fol.rtWait = [] →
    ∃ t, exec (.codexProgramDone true) s = .next t ∧ t.cdx.progging = none ∧ t.cdx.flags = s.cdx.flags ∧
      t.cdx.colophon = s.cdx.colophon ∧
      (∀ i v, r.bytes[i]? = some v → codexByte t (r.addr + i) = codexByte s (r.addr + i) &&& v) ∧
      ∀ a, a < r.addr ∨ r.addr + r.bytes.length ≤ a → codexByte t a = codexByte s a) ∧
  (∀ (s : State) (r : CodexReq), s.cdx.progging = some r → programLegal r.addr r.bytes = true →
    8 ≤ mapAt 0 (r.addr / 256) s.cdx.pageProgs → s.fol.rtWait = [] →
    ∃ t, exec (.codexProgramDone true) s = .next t ∧ t.cdx.progging = none ∧
      (∀ i, i < 256 → codexByte t (256 * (r.addr / 256) + i) = Config.freeByte (256 * s.free + i)) ∧
      ∀ a, a / 256 ≠ r.addr / 256 → codexByte t a = codexByte s a) ∧
  (∀ (s : State) (ok : Bool), s.cdx.progging = none → exec (.codexProgramDone ok) s = .next s) ∧
  (∀ (s : State) (who a : Nat), whoServed s who = true → s.cdx.cont = none → a < 0x4000000 → dieBusy s = false →
    s.cdx.requests = [] → s.cdx.erasing = none → protectedFrom s who (a / 65536) = false →
    ∃ t, exec (.codexSectorErase who a) s = .next t ∧ t.cdx.erasing = some (a / 65536) ∧ t.cdx.erSusp = false ∧
      (∀ n, n ∈ t.cdx.flags ↔ n = a / 65536 ∨ n ∈ s.cdx.flags) ∧ t.cdx.mem = s.cdx.mem ∧
      t.cdx.colophon = s.cdx.colophon ∧ t.cdx.progging = s.cdx.progging ∧ t.wr = s.wr ∧ t.cat = s.cat) ∧
  (∀ (s : State) (n : Nat), s.cdx.arrayErase = false → s.cdx.erasing = some n → s.cdx.erSusp = false →
    ∃ t, exec (.codexEraseDone true) s = .next t ∧ t.cdx.erasing = none ∧ t.cdx.eFail = false ∧
      (∀ m, m ∈ t.cdx.flags → m ∈ s.cdx.flags ∧ m ≠ n) ∧
      ∀ a, codexByte t a = if a / 65536 = n then 0xFF else codexByte s a) ∧
  (∀ (s : State) (n : Nat), s.cdx.arrayErase = false → s.cdx.erasing = some n → s.cdx.erSusp = false →
    exec (.codexEraseDone false) s = .next { s with cdx := { s.cdx with
      erasing := none, erSusp := false, eFail := true, eFails := sat32 (s.cdx.eFails + 1) } }) ∧
  (∀ (s : State), s.cdx.arrayErase = true → ∃ t, exec (.codexEraseDone true) s = .next t ∧
    t.cdx.arrayErase = false ∧ t.cdx.flags = [] ∧ t.cdx.colophon = s.cdx.colophon ∧ ∀ a, codexByte t a = 0xFF) ∧
  (∀ (s : State) (r : CodexReq) (e : Nat), awake s = true → s.cdx.progging = none → s.cdx.arrayErase = false →
    s.cdx.requests = [r] → r.erase = false → s.cdx.erasing = some e → s.cdx.erSusp = false →
    exec (.codexRequestServe true) s = .next { s with cdx := { s.cdx with erSusp := true } } ∧
    exec (.codexRequestServe false) s = .next s) ∧
  (∀ (s : State) (ok : Bool), awake s = true → s.cdx.requests = [] → s.cdx.erSusp = true → s.cdx.progging = none →
    s.cdx.arrayErase = false → s.mode.mode ≠ .coast →
    exec (.codexRequestServe ok) s = .next { s with cdx := { s.cdx with erSusp := false } })

/-- R399, R400, R409, R412: what the other sequences of Table 17.3 leave; a sequence error changes nothing but the status.
A locked Colophon segment takes no program, and no command clears a lock bit. -/
def Obligations.CodexSequencesAndColophon : Prop :=
  (∀ (s : State), whoServed s 0 = true → ∃ t, exec .codexSequenceError s = .next t ∧
    t = { s with cdx := { s.cdx with
      eFail := false, pFail := false, seqErr := true, locked := false, statusNext := false, flagNext := none,
      cycles := [] } }) ∧
  (∀ (s : State), whoServed s 0 = true → exec (.codexArrayErase false) s = .next (sequenceError s)) ∧
  (∀ (s : State), whoServed s 0 = true → s.mode.manufacturing = true → s.cdx.cont = none → dieBusy s = false →
    ∃ t, exec (.codexArrayErase true) s = .next t ∧ t = { s with cdx := t.cdx } ∧ t.cdx.arrayErase = true ∧
      (∀ n, n ∈ t.cdx.flags ↔ n < 1024) ∧ t.cdx.mem = s.cdx.mem ∧ t.cdx.colophon = s.cdx.colophon) ∧
  (∀ (s : State) (a : Nat), whoServed s 0 = true → a < 0x400100C → s.cdx.cont = none →
    ∃ t, exec (.codexContinuousReadEnter a) s = .next t ∧ t = { s with cdx := t.cdx } ∧ t.cdx.cont = some a ∧
      t.cdx.mem = s.cdx.mem) ∧
  (∀ (s : State), whoServed s 0 = true → ∃ t, exec .codexContinuousReadExit s = .next t ∧
    t = { s with cdx := t.cdx } ∧ t.cdx.cont = none ∧ t.cdx.mem = s.cdx.mem ∧ t.cdx.flags = s.cdx.flags) ∧
  (∀ (s : State) (a c : Nat), whoServed s 0 = true → s.cdx.cont = some c →
    exec (.codexContinuousReadEnter a) s = .next (sequenceError s) ∧
    exec (.codexFlagCellQuery a) s = .next (sequenceError s) ∧
    exec .codexEraseSuspend s = .next (sequenceError s)) ∧
  (∀ (s : State) (a : Nat), whoServed s 0 = true →
    (0x400100C ≤ a → exec (.codexContinuousReadEnter a) s = .next (sequenceError s)) ∧
    (0x4000000 ≤ a → exec (.codexFlagCellQuery a) s = .next (sequenceError s))) ∧
  (∀ (s : State) (a : Nat), whoServed s 0 = true → a < 0x4000000 → s.cdx.cont = none →
    ∃ t, exec (.codexFlagCellQuery a) s = .next t ∧ t = { s with cdx := t.cdx } ∧
      t.cdx.flagNext = some (a / 65536) ∧ t.cdx.mem = s.cdx.mem ∧ t.cdx.flags = s.cdx.flags) ∧
  (∀ (s : State), whoServed s 0 = true →
    exec .codexStatus s = .next { s with cdx := { s.cdx with statusNext := true } }) ∧
  (∀ (s : State) (n : Nat), whoServed s 0 = true → s.cdx.cont = none → s.cdx.erasing = some n →
    ∃ t, exec .codexEraseSuspend s = .next t ∧ t = { s with cdx := t.cdx } ∧ t.cdx.erSusp = true ∧
      t.cdx.erasing = some n ∧ t.cdx.flags = s.cdx.flags ∧ t.cdx.mem = s.cdx.mem) ∧
  (∀ (s : State), whoServed s 0 = true → s.mode.mode ≠ .coast → s.cdx.cont = none →
    ∃ t, exec .codexEraseResume s = .next t ∧ t = { s with cdx := t.cdx } ∧ t.cdx.erSusp = false ∧
      t.cdx.erasing = s.cdx.erasing ∧ t.cdx.mem = s.cdx.mem) ∧
  (∀ (s : State) (m : Nat), whoServed s 0 = true → s.cdx.cont = none →
    ∃ t, exec (.colophonLock m) s = .next t ∧ t = { s with cdx := t.cdx } ∧ t.cdx.mem = s.cdx.mem ∧
      ∀ (i : Nat) (g : ColSegment), s.cdx.colophon[i]? = some g →
        t.cdx.colophon[i]? = some { g with locked := m.testBit i || g.locked }) ∧
  (∀ (s : State) (a : Nat) (b : List Byte) (g : ColSegment), whoServed s 0 = true → s.cdx.cont = none →
    0x4000000 ≤ a → a ≤ 0x4000FFF → b ≠ [] → b.length ≤ 256 → a / 256 = (a + b.length - 1) / 256 →
    s.cdx.colophon[(a - 0x4000000) / 512]? = some g → g.locked = true →
    ∃ t, exec (.colophonProgram a b) s = .next t ∧ t = { s with cdx := t.cdx } ∧ t.cdx.pFail = true ∧
      t.cdx.locked = true ∧ t.cdx.colophon = s.cdx.colophon ∧ t.cdx.mem = s.cdx.mem) ∧
  (∀ (s : State) (a : Nat) (b : List Byte) (g : ColSegment), whoServed s 0 = true → s.cdx.cont = none →
    0x4000000 ≤ a → a ≤ 0x4000FFF → b ≠ [] → b.length ≤ 256 → a / 256 = (a + b.length - 1) / 256 →
    s.cdx.colophon[(a - 0x4000000) / 512]? = some g → g.locked = false → (a - 0x4000000) / 512 ≠ 2 →
    ∃ t q, exec (.colophonProgram a b) s = .next t ∧ t = { s with cdx := t.cdx } ∧ t.cdx.mem = s.cdx.mem ∧
      t.cdx.colophon[(a - 0x4000000) / 512]? = some q ∧ q.locked = false ∧
      (∀ n, n ≠ (a - 0x4000000) / 512 → t.cdx.colophon[n]? = s.cdx.colophon[n]?) ∧
      (∀ i v, b[i]? = some v → segByte q (a % 512 + i) = segByte g (a % 512 + i) &&& v) ∧
      ∀ j, j < a % 512 ∨ a % 512 + b.length ≤ j → segByte q j = segByte g j) ∧
  (∀ (s : State) (who x : Nat), whoServed s who = true → who = 1 ∨ who = 2 → s.cdx.cont = none →
    s.cdx.erSusp = false → s.cdx.swap1 = some x →
    ∃ t, exec (.endpaperSwap who 0) s = .next t ∧ t = { s with cdx := t.cdx } ∧
      t.cdx.swap0 = some ((x + 1) % 65536) ∧ t.cdx.swap1 = s.cdx.swap1 ∧ t.cdx.mem = s.cdx.mem) ∧
  (∀ (s : State) (who x : Nat), whoServed s who = true → who = 1 ∨ who = 2 → s.cdx.cont = none →
    s.cdx.erSusp = false → s.cdx.swap0 = some x →
    ∃ t, exec (.endpaperSwap who 1) s = .next t ∧ t = { s with cdx := t.cdx } ∧
      t.cdx.swap1 = some ((x + 1) % 65536) ∧ t.cdx.swap0 = s.cdx.swap0) ∧
  (∀ (s : State) (who b : Nat), whoServed s who = true → who = 0 ∨ who = 3 →
    exec (.endpaperSwap who b) s = .next (sequenceError s))

/-- R286, R305: the transaction `t` of header `h` runs operation `op` at state `s`: accepted, of this operation, its turn
come and its data here. -/
def Served (h : PacketHdr) (op : Nat) (t : InTxn) (s : State) : Prop :=
  fabricOn s = true ∧ txnAt s h = some t ∧ t.op = op ∧ t.started = false ∧ txnReady s t = true ∧
    (opTakesData op t.desc = true → t.data.length = t.cards)

/-- R300, R303, R305, R308, R309, R314: an echelon operation runs on its accepted transaction alone; a stale view and an
empty key slot answer with their status; a read changes no card and takes a card on flash by a read of its die; WRITE, DELTA,
PARITY and REPAIR write the cards that the rule gives. -/
def Obligations.ShareOperations : Prop :=
  (∀ (s : State) (h : PacketHdr) (d : EcDesc) (fresh : Bool) (picks order : List Nat), txnAt s h = none →
    exec (.forwardWrite h d) s = .next s ∧ exec (.ecRead h d) s = .next s ∧ exec (.ecWrite h d picks) s = .next s ∧
      exec (.delta h d fresh picks) s = .next s ∧ exec (.parity h d picks) s = .next s ∧
      exec (.repair h d picks) s = .next s ∧
      (waitingChecked h s = none → exec (.readChecked h d order) s = .next s)) ∧
  (∀ (s : State) (h : PacketHdr) (d : EcDesc) (t : InTxn) (st : Nat × Nat), shareRefusal s t = some st →
    (Served h 2 t s → exec (.ecRead h d) s = .next (endTxn t st s)) ∧
    (∀ picks, Served h 3 t s → exec (.ecWrite h d picks) s = .next (endTxn t st s)) ∧
    (∀ fresh picks, Served h 4 t s → exec (.delta h d fresh picks) s = .next (endTxn t st s)) ∧
    (∀ picks, Served h 5 t s → exec (.parity h d picks) s = .next (endTxn t st s)) ∧
    (∀ picks, Served h 7 t s → exec (.repair h d picks) s = .next (endTxn t st s))) ∧
  (∀ (s : State) (h : PacketHdr) (d : EcDesc) (t : InTxn), Served h 2 t s → shareRefusal s t = none →
    ∃ u, exec (.ecRead h d) s = .next u ∧
      u = { s with pel := u.pel, pools := u.pools, cat := u.cat, fl := u.fl, esc := u.esc } ∧
      ∀ sh c, mapped u sh c = mapped s sh c) ∧
  (∀ (s : State) (h : PacketHdr) (d : EcDesc) (t : InTxn) (n : Namespace) (sh c lba : Nat) (sectors : List Nat),
    Served h 2 t s → shareRefusal s t = none → t.desc.cardsM1 = 0 → t.want = [] → t.got = [] →
    shareUnderWay h t.desc.cardFirst s = false → shareCard s t.nsid t.desc.stripe t.desc.cardFirst = some (n, sh, c, lba) →
    oldContents s t.nsid lba sh c = .here sectors →
    ∃ u, exec (.ecRead h d) s = .next u ∧ u = { s with pel := u.pel, pools := u.pools, cat := u.cat } ∧
      txnAt u h = none) ∧
  (∀ (s : State) (h : PacketHdr) (d : EcDesc) (t : InTxn) (n : Namespace) (sh c lba age : Nat) (p : Ppa) (x : Die),
    shareRefusal s t = none → t.desc.cardsM1 = 0 → t.want = [] → t.got = [] →
    shareUnderWay h t.desc.cardFirst s = false → shareCard s t.nsid t.desc.stripe t.desc.cardFirst = some (n, sh, c, lba) →
    oldContents s t.nsid lba sh c = .flash p age → dieServes s (ppaChannel p) (ppaTarget p) = true →
    excludedSince s p = false → dieAt s (ppaChannel p) (ppaTarget p) = some x →
    ∃ u, (Served h 2 t s → exec (.ecRead h d) s = .next u) ∧
      (∀ fresh picks, Served h 4 t s → exec (.delta h d fresh picks) s = .next u) ∧
      (Served h 2 t s ∨ Served h 4 t s → u = { s with pel := u.pel, cat := u.cat, fl := u.fl } ∧
        txnAt u h = some { t with want := [t.desc.cardFirst] } ∧
        dieAt u (ppaChannel p) (ppaTarget p) = some { x with readQ := x.readQ ++
          [{ ppa := p, cls := shareClass s t, why := .share h.src h.tag t.desc.cardFirst lba age }] })) ∧
  (∀ (s : State) (h : PacketHdr) (d : EcDesc) (t : InTxn) (picks : List Nat), Served h 3 t s →
    shareRefusal s t = none → t.desc.dealloc = false →
    exec (.ecWrite h d picks) s = .next (txnWrite t t.desc.stripe (txnCards t) picks s)) ∧
  (∀ (s : State) (h : PacketHdr) (d : EcDesc) (t : InTxn) (picks : List Nat), Served h 3 t s →
    shareRefusal s t = none → t.desc.dealloc = true →
    exec (.ecWrite h d picks) s = .next (settleAll (modTxn (txnHdr t) (fun x => { x with
        started := true, needSeq := seqMark (releaseShare t.nsid t.desc.stripe t.desc.cardFirst (t.desc.cardsM1 + 1) s) })
      (releaseShare t.nsid t.desc.stripe t.desc.cardFirst (t.desc.cardsM1 + 1) s)))) ∧
  (∀ (s : State) (h : PacketHdr) (d : EcDesc) (t : InTxn) (fresh : Bool) (picks : List Nat) (g : Nat × List Nat × Bool), Served h 4 t s →
    shareRefusal s t = none → t.want = [] → g ∈ t.got → g.2.2 = true →
    exec (.delta h d fresh picks) s = .next (endTxn t (2, 0x81) s)) ∧
  (∀ (s : State) (h : PacketHdr) (d : EcDesc) (t : InTxn) (fresh : Bool) (picks : List Nat) (old : Nat → List Nat), Served h 4 t s →
    shareRefusal s t = none → t.want = [] → t.got ≠ [] → (∀ g, g ∈ t.got → g.2.2 = false) →
    (∀ x, x ∈ txnCards t → t.got.find? (fun g => g.1 = x.1) = some (x.1, old x.1, false)) →
    exec (.delta h d fresh picks) s = .next (txnWrite t t.desc.stripe ((txnCards t).map fun x =>
      (x.1, xorCard (old x.1) (mulCard (if t.desc.role = 0x41 then gfPow t.desc.dataIndex else 1) x.2))) (choices fresh picks s) s)) ∧
  (∀ (s : State) (h : PacketHdr) (d : EcDesc) (t : InTxn) (picks : List Nat), shareRefusal s t = none →
    (Served h 5 t s → exec (.parity h d picks) s = .next (txnWrite t t.desc.stripe (txnCards t) picks s)) ∧
    (Served h 7 t s → exec (.repair h d picks) s = .next (txnWrite t t.desc.stripe (txnCards t) picks s))) ∧
  (∀ (s : State) (h : PacketHdr) (d : EcDesc) (t : InTxn) (order : List Nat), Served h 6 t s → waitingChecked h s = none →
    (staleView s t.desc = true ∨ keeperOf s t.desc.echelon t.desc.stripe ≠ s.pel.self →
      exec (.readChecked h d order) s = .next (endTxn t (3, 3) s)) ∧
    (staleView s t.desc = false → keeperOf s t.desc.echelon t.desc.stripe = s.pel.self →
      lagEntry s t.desc.echelon t.desc.stripe (posOfRole s t.desc.echelon t.desc.stripe t.desc.role) = none →
      posKnown s t.desc.echelon t.desc.stripe (posOfRole s t.desc.echelon t.desc.stripe t.desc.role) = true →
      ∃ u r q, exec (.readChecked h d order) s = .next u ∧ u = { s with pel := u.pel, ech := u.ech } ∧
        u.ech.ech = s.ech.ech ∧ u.ech.intents = s.ech.intents ∧ u.pel.locks = s.pel.locks ∧ r ∈ u.ech.stewards ∧
        r.kind = 3 ∧ r.entries = [(t.src, t.tag, t.rank)] ∧ q ∈ u.pel.out ∧ q.op = 2 ∧ q.owner = .run r.id ∧
        q.dst = memberAt s t.desc.echelon (posOfRole s t.desc.echelon t.desc.stripe t.desc.role))) ∧
  (∀ (s : State) (h : PacketHdr) (d : EcDesc) (order : List Nat) (r : Steward), waitingChecked h s = some r →
    fabricOn s = false ∨ runBusy s r.id = true → exec (.readChecked h d order) s = .next s) ∧
  (∀ (s : State) (h : PacketHdr) (d : EcDesc) (t : InTxn), Served h 1 t s → staleView s t.desc = true →
    exec (.forwardWrite h d) s = .next (endTxn t (3, 3) s)) ∧
  (∀ (s : State) (h : PacketHdr) (d : EcDesc) (t : InTxn), Served h 1 t s → staleView s t.desc = false →
    t.desc.full = false → stewardOf s t.desc.echelon t.desc.stripe t.desc.role = s.pel.self →
    ∃ u r, exec (.forwardWrite h d) s = .next u ∧ u = { s with pel := u.pel, ech := u.ech } ∧
      u.ech.stewards = s.ech.stewards ++ [r] ∧ r.kind = 0 ∧ r.echelon = t.desc.echelon ∧ r.stripe = t.desc.stripe ∧
      r.dataIdx = t.desc.role ∧ r.new = partCards t ∧ r.entries = [(t.src, t.tag, t.rank)] ∧
      u.ech.intents = s.ech.intents ∧ u.ech.ech = s.ech.ech) ∧
  (∀ (s u : State) (h : PacketHdr), accept 3 h s = (true, u) → opKnown (cmdOp h) = false →
    exec (.ecReservedOperation h) s = .next (sendDone h (0, 1) (leaveIdle u))) ∧
  (∀ (s u : State) (h : PacketHdr), accept 3 h s = (true, u) → opKnown (cmdOp h) = true →
    exec (.ecReservedOperation h) s = .next (leaveIdle u)) ∧
  (∀ (s u : State) (h : PacketHdr) (nsid ses e : Nat) (n : Namespace), txnAt s h = none → accept 3 h s = (true, u) →
    cmdOp h = 8 → nsAt u nsid = some n → n.spanned = some e → ses ≤ 2 →
    exec (.ecFormat h nsid ses) s = .next (addRenewals
      [{ newRenewal (leaveIdle u) (keySlot nsid 0) none none (decide (ses = 2)) true with
        reply := some (h.src, h.tag, h.rank) }] (endRebuild e (leaveIdle u)))) ∧
  (∀ (s u : State) (h : PacketHdr) (nsid ses e : Nat) (n : Namespace), txnAt s h = none → accept 3 h s = (true, u) →
    cmdOp h = 8 → nsAt u nsid = some n → n.spanned = some e → ses ≤ 2 →
    (∀ v p, viewOf u e = some v → positionOf v u.pel.self = some p → (placeAt v p).2 ≠ 3) →
    ∃ t r, exec (.ecFormat h nsid ses) s = .next t ∧ t = { leaveIdle u with key := t.key } ∧
      t.key.renewals = u.key.renewals ++ [r] ∧ r.slot = keySlot nsid 0 ∧ r.rekey = decide (ses = 2) ∧
      r.whole = true ∧ r.reply = some (h.src, h.tag, h.rank))

/-- R301, R304, R306, R312 to R315, R317: views are taken when they are newer; reports and timeouts count at the holder;
intents age, settle and clear; a lagging position is repaired and a rebuilding one advances by stripes. -/
def Obligations.ViewsIntentsAndRebuilds : Prop :=
  (∀ (s u : State) (h : PacketHdr) (v : ViewRec) (x : EchelonSt), txnAt s h = none → accept 3 h s = (true, u) →
    cmdOp h = 9 → u.lib.state = 0 → echAt u v.echelon = some x → x.view.viewNum < v.viewNum →
    exec (.view h v true) s = .next (sendDone h (0, 0) (takeView v (leaveIdle u))) ∧
    viewOf (takeView v (leaveIdle u)) v.echelon = some v) ∧
  (∀ (s u : State) (h : PacketHdr) (v : ViewRec) (x : EchelonSt), txnAt s h = none → accept 3 h s = (true, u) →
    cmdOp h = 9 → u.lib.state = 0 → echAt u v.echelon = some x → v.viewNum < x.view.viewNum →
    exec (.view h v true) s = .next (leaveIdle u)) ∧
  (∀ (s u : State) (h : PacketHdr) (v : ViewRec), txnAt s h = none → accept 3 h s = (true, u) →
    exec (.view h v false) s = .next (leaveIdle u)) ∧
  (∀ (s u : State) (h : PacketHdr) (e m ms : Nat) (x : EchelonSt), txnAt s h = none → accept 3 h s = (true, u) →
    cmdOp h = 10 → echAt u e = some x → holderOf x.view ≠ u.pel.self →
    ∃ t y, exec (.timeoutReport h e m ms) s = .next t ∧ echAt t e = some y ∧ y.view = x.view ∧
      y.reports = (x.reports.filter fun r => decide (ms < 10000 + r.2)) ++ [(m, ms)] ∧
      t = { leaveIdle u with pel := t.pel, ech := t.ech }) ∧
  (∀ (s : State) (e : Nat), (∀ x, echAt s e = some x → x.waiting = false) →
    exec (.noViewHolderReachable e) s = .next s) ∧
  (∀ (s : State) (e : Nat) (x : EchelonSt), echAt s e = some x → x.waiting = true →
    ∃ t y, exec (.noViewHolderReachable e) s = .next t ∧ echAt t e = some y ∧ y.waiting = false ∧ y.unreach = true ∧
      y.view = x.view ∧ t.wr = s.wr ∧ t.cat = s.cat ∧ t.ech.intents = s.ech.intents) ∧
  (∀ (s : State) (e n : Nat), ∃ t, exec (.intentAgeExpiry e n) s = .next t ∧
    t = { s with ech := { s.ech with intents := t.ech.intents } } ∧
    ∀ (i : Nat) (r : IntentRec), s.ech.intents[i]? = some r → t.ech.intents[i]? =
      some (if r.echelon = e ∧ r.stripe = n ∧ r.kind < 2 then { r with settling := true } else r)) ∧
  (∀ (s : State) (e n p : Nat) (order picks : List Nat), fabricOn s = false →
    exec (.intentSettle e n order picks) s = .next s ∧ exec (.lagRepair e n p order) s = .next s) ∧
  (∀ (s : State) (e n : Nat) (order picks : List Nat), runOf s 4 e n = none →
    keeperOf s e n ≠ s.pel.self ∨ (lockHolder s e n).isSome = true ∨
      (∀ r, r ∈ s.ech.intents → r.echelon = e → r.stripe = n → r.kind < 2 → r.settling = false) →
    exec (.intentSettle e n order picks) s = .next s) ∧
  (∀ (s : State) (e n : Nat) (order picks : List Nat) (x : IntentRec), fabricOn s = true → runOf s 4 e n = none →
    keeperOf s e n = s.pel.self → lockHolder s e n = none → s.pel.locks.length < 8192 →
    s.ech.intents.find? (fun x => x.echelon = e && x.stripe = n && x.kind < 2 && x.settling) = some x →
    ∃ t r, exec (.intentSettle e n order picks) s = .next t ∧ t = { s with pel := t.pel, ech := t.ech } ∧
      t.ech.ech = s.ech.ech ∧ t.ech.intents = s.ech.intents ∧ (e, n, s.pel.self) ∈ t.pel.locks ∧ r ∈ t.ech.stewards ∧
      r.kind = 4 ∧ r.echelon = e ∧ r.stripe = n ∧ r.own = true) ∧
  (∀ (s : State) (e n : Nat) (order picks : List Nat) (r : Steward), fabricOn s = true → runOf s 4 e n = some r →
    (runBusy s r.id = true → exec (.intentSettle e n order picks) s = .next s) ∧
    (runBusy s r.id = false → r.phase = 7 → ∃ t, exec (.intentSettle e n order picks) s = .next t ∧
      ∀ x, x ∈ t.ech.intents → x.echelon = e → x.stripe = n → 2 ≤ x.kind)) ∧
  (∀ (s : State) (e n p : Nat) (order : List Nat), runOf s 5 e n = none → keeperOf s e n ≠ s.pel.self →
    exec (.lagRepair e n p order) s = .next s) ∧
  (∀ (s : State) (e n p : Nat) (order : List Nat), fabricOn s = true → runOf s 5 e n = none →
    keeperOf s e n = s.pel.self → freeIntentSlot s e true = none →
    exec (.lagRepair e n p order) s = .next (eject e (memberAt s e p) s)) ∧
  (∀ (s : State) (e n p : Nat) (order : List Nat) (x : IntentRec), fabricOn s = true → runOf s 5 e n = none →
    keeperOf s e n = s.pel.self → (freeIntentSlot s e true).isSome = true → lockRefusal s e n = 0 →
    lagEntry s e n p = some x →
    ∃ t r, exec (.lagRepair e n p order) s = .next t ∧ t = { s with pel := t.pel, ech := t.ech } ∧
      t.ech.ech = s.ech.ech ∧ t.ech.intents = s.ech.intents ∧ (e, n, s.pel.self) ∈ t.pel.locks ∧ r ∈ t.ech.stewards ∧
      r.kind = 5 ∧ r.echelon = e ∧ r.stripe = n ∧ r.dataIdx = p) ∧
  (∀ (s : State) (e n p : Nat) (order : List Nat) (r : Steward), fabricOn s = true → runOf s 5 e n = some r →
    (runBusy s r.id = true → exec (.lagRepair e n p order) s = .next s) ∧
    (runBusy s r.id = false → r.phase = 7 → r.failed = [] → ∃ t, exec (.lagRepair e n p order) s = .next t ∧
      ∀ x, x ∈ t.ech.intents → x.echelon = e → x.stripe = n → x.kind = 2 → x.position ≠ r.dataIdx) ∧
    (runBusy s r.id = false → r.phase = 7 → r.failed ≠ [] → ∃ t, exec (.lagRepair e n p order) s = .next t ∧
      t.ech.intents = s.ech.intents)) ∧
  (∀ (s : State) (e : Nat) (order picks : List Nat),
    (∀ x p, echAt s e = some x → positionOf x.view s.pel.self = some p → (placeAt x.view p).2 ≠ 3) →
    exec (.rebuildStripe e order picks) s = .next s) ∧
  (∀ (s : State) (e p : Nat) (order picks : List Nat) (x : EchelonSt),
    echAt s e = some x → positionOf x.view s.pel.self = some p → (placeAt x.view p).2 = 3 → serving s = true →
    s.mode.mode ≠ .preserve → x.pointer < ecStripes s e →
    ((∀ r, r ∈ s.ech.stewards → r.kind = 6 → r.echelon ≠ e) →
      ∃ t r q, exec (.rebuildStripe e order picks) s = .next t ∧ echAt t e = some x ∧ r ∈ t.ech.stewards ∧ r.kind = 6 ∧
        r.echelon = e ∧ r.stripe = x.pointer ∧ r.dataIdx = p ∧ q ∈ t.pel.out ∧ q.owner = .run r.id ∧ q.hdr.ptype = 7 ∧
        q.dst = keeperOf s e x.pointer) ∧
    ∃ t, exec (.rebuildStripe e order picks) s = .next t ∧
      (x.pointer + 1 < ecStripes s e → ∃ y, echAt t e = some y ∧ y.view = x.view ∧
        (y.pointer = x.pointer + 1 ∨ y.pointer = x.pointer ∧ t.led = s.led))) ∧
  (∀ (s u : State) (e p : Nat) (order picks : List Nat) (x : EchelonSt) (r : Steward),
    echAt s e = some x → positionOf x.view s.pel.self = some p → (placeAt x.view p).2 = 3 → serving s = true →
    s.mode.mode ≠ .preserve → x.pointer + 1 < ecStripes s e →
    s.ech.stewards.find? (fun r => r.kind = 6 && r.echelon = e) = some r → runBusy s r.id = false →
    r.stripe = x.pointer → r.dataIdx = p → r.phase = 5 → jobSolved s r = true →
    writeOwn e r.stripe ((List.range 16).map fun i => (i, (rebuiltCard s e r.stripe p (jobGot r i)).1)) picks s = some u →
    ∃ t y, exec (.rebuildStripe e order picks) s = .next t ∧ echAt t e = some y ∧ y.view = x.view ∧
      y.pointer = x.pointer + 1) ∧
  (∀ (s : State) (e : Nat) (x : EchelonSt), echAt s e = some x → s.mode.mode ≠ .coast → awake s = true →
    (rtActive s).length < 512 →
    ∃ t y, exec (.rebuildPointerStore e) s = .next t ∧ echAt t e = some y ∧ y.stored = x.pointer ∧
      y.pointer = x.pointer ∧ y.view = x.view ∧ t.wr = s.wr ∧ t.cat = s.cat ∧
      ∃ r, (rtActive t).getLast? = some r ∧ r.key = 0x40000 + e ∧ r.value = x.pointer)

/-- R425 to R430: a relay sends its stream packet by packet, begins a round again, and what a member received is written to
its inactive block; a recovering member takes its download in order. -/
def Obligations.RelaysAndRecoveryDownloads : Prop :=
  (∀ (s : State), fabricOn s = false ∨ s.upd.relay.state ≠ 2 ∨ s.upd.relay.waitRound = true ∨
      streamBytes ≤ s.upd.relay.sent ∨ 64 ≤ relayOut s →
    exec .relaySend s = .next s) ∧
  (∀ (s : State), fabricOn s = true → s.upd.relay.state = 2 → s.upd.relay.waitRound = false →
    s.upd.relay.sent < streamBytes → relayOut s < (if s.upd.relay.single then 1 else 64) →
    ∃ t, exec .relaySend s = .next t ∧ t = { s with pel := t.pel, upd := { s.upd with relay := t.upd.relay } } ∧
      t.upd.relay = { s.upd.relay with sent := s.upd.relay.sent + packetBytes s.upd.relay.sent } ∧
      relayOut t = relayOut s + 1) ∧
  (∀ (s : State), fabricOn s = true → s.upd.relay.state = 2 → s.upd.relay.waitRound = true →
    exec .relayRoundRestart s = .next { s with upd := { s.upd with relay := { s.upd.relay with
      waitRound := false, sent := 0, bytes := 0, rounds := s.upd.relay.rounds + 1 } } }) ∧
  (∀ (s : State), s.upd.relay.waitRound = false → exec .relayRoundRestart s = .next s) ∧
  (∀ (s : State) (p : Nat), serving s = true → s.pel.assigned = true → s.upd.relay.state = 0 → recoversOn s p = true →
    ∃ t, exec (.recoveryRelaySend p) s = .next t ∧
      t = { s with pel := { s.pel with recSent := p :: s.pel.recSent }, upd := { s.upd with relay := t.upd.relay } } ∧
      t.upd.relay.state = 2 ∧ t.upd.relay.next = (portAt s p).member ∧ t.upd.relay.action = 1 ∧
      t.upd.relay.sent = 0 ∧ t.upd.relay.single = true ∧ t.upd.relay.facts = (blockOf s (activeBlock s)).facts) ∧
  (∀ (s : State) (p : Nat), recoversOn s p = false → exec (.recoveryRelaySend p) s = .next s) ∧
  (∀ (s : State), serving s = true → s.lib.state = 0 → s.upd.relay.rx = true →
    s.upd.relay.got = streamBytes → stageWhole s = true → s.upd.relay.rxAction ≤ 1 → s.upd.writing = none →
    ∃ t, (∀ ok, exec (.relayCommit ok) s = .next t) ∧ t.upd.writing = some .relay ∧ t.upd.staged = s.upd.staged ∧
      t.upd.relay.rx = true ∧ ErasesAsked (blockSectors (1 - activeBlock s)) t ∧
      blockOf t (activeBlock s) = blockOf s (activeBlock s)) ∧
  (∀ (s : State) (ok : Bool), serving s = true → s.lib.state = 0 → s.upd.relay.rx = true →
    s.upd.relay.got = streamBytes → stageWhole s = true → s.upd.relay.rxAction ≤ 1 → s.upd.writing = some .relay →
    blockErased s = true →
    ∃ t, exec (.relayCommit ok) s = .next t ∧ t.upd.relay.rx = false ∧ t.upd.staged = [] ∧ t.upd.writing = none ∧
      blockOf t (1 - activeBlock s) = { emptyBlock with
        written := true, facts := if blockReads ok s then s.upd.relay.rxFacts else noFacts
        arm := blockReads ok s && s.upd.relay.rxAction = 1 } ∧
      blockOf t (activeBlock s) = blockOf s (activeBlock s) ∧ t.lib = s.lib ∧ t.wr = s.wr ∧ t.cat = s.cat) ∧
  (∀ (s : State) (ok : Bool), s.upd.writing = some .relay → blockErased s = false →
    exec (.relayCommit ok) s = .next s) ∧
  (∀ (s : State) (ok : Bool), s.upd.relay.rx = false ∨ s.upd.relay.got ≠ streamBytes ∨ stageWhole s = false →
    exec (.relayCommit ok) s = .next s) ∧
  (∀ (s : State) (slot : Nat) (c : Cmd) (f : BundleFacts), s.mode.mode = .recovery → cmdAt s slot = some c → c.qid = 0 →
    c.phase = .fetched → c.e.opcode = 0x11 → portionAt c.e = s.upd.recBytes →
    portionAt c.e + portionLen c.e ≤ bundleBytes →
    ∃ t, exec (.recoveryFirmwareDownload slot f) s = .next t ∧ Ended slot c (0, 0) 0 s t ∧
      t.upd.recBytes = portionAt c.e + portionLen c.e ∧ (blockOf t (1 - activeBlock s)).facts = f ∧
      (blockOf t (1 - activeBlock s)).written = true ∧ blockOf t (activeBlock s) = blockOf s (activeBlock s)) ∧
  (∀ (s : State) (slot : Nat) (c : Cmd) (f : BundleFacts), s.mode.mode = .recovery → cmdAt s slot = some c → c.qid = 0 →
    c.phase = .fetched → c.e.opcode = 0x11 →
    portionAt c.e ≠ s.upd.recBytes ∨ bundleBytes < portionAt c.e + portionLen c.e →
    ∃ t, exec (.recoveryFirmwareDownload slot f) s = .next t ∧ Ended slot c (0, 2) 0 s t ∧ t.upd = s.upd ∧
      t.cdx = s.cdx) ∧
  (∀ (s : State) (slot : Nat) (f : BundleFacts), s.mode.mode ≠ .recovery →
    exec (.recoveryFirmwareDownload slot f) s = .next s)

/-- The model's choice (log entry on the queue): a step runs exec of the command at the front of the queue on the state with
the queue's rest; without one a microsecond passes. -/
def Obligations.FrontCommandRuns : Prop :=
  (∀ (s : State) (c : Instr) (rest : List Instr), s.pending = c :: rest →
    step s = exec c { s with pending := rest }) ∧
  (∀ (s : State), s.pending = [] → s.mode.mode = .unpowered → step s = .next s) ∧
  (∀ (s : State), s.pending = [] → s.mode.mode ≠ .unpowered →
    ∃ t, step s = .next t ∧ t.clock.us = s.clock.us + 1 ∧ t.pending = [])

/-- R188, R395: State.reset is the part without power: no command waits, the controller, the links and the ports are down,
and the Codex array is in its canonical form. -/
def Obligations.ResetState : Prop :=
  State.reset.pending = [] ∧ State.reset.mode.mode = .unpowered ∧ State.reset.memWf ∧
    (∀ a, codexByte State.reset a = 0xFF) ∧ State.reset.nv.cmds = [] ∧ State.reset.link.up = false ∧
    (∀ (i : Nat) (p : Port), State.reset.pel.ports[i]? = some p → p.state = 0)

/-- No command stops the block: every command, on every state, answers a next state with the queue as it was, so every
step answers one, takes exactly the front of the queue off and adds nothing to it. -/
def Obligations.QueueIsTakenInOrder : Prop :=
  (∀ (i : Instr) (s : State), ∃ t, exec i s = .next t ∧ t.pending = s.pending) ∧
  ∀ s : State, ∃ t, step s = .next t ∧ t.pending = s.pending.tail

/-- R409: no step changes a Colophon segment whose lock bit is set, or clears a lock bit. -/
def Obligations.LockedColophonIsKept : Prop := ∀ s t : State, step s = .next t → ColophonKept s t

/-- Every step keeps the canonical form of the Codex array. -/
def Obligations.CodexArrayStaysCanonical : Prop := ∀ s t : State, s.memWf → step s = .next t → t.memWf
end

