-- ==== Sys2Proof/Laws/Core.lean ====
section
/-! SUPPORT. What operations keep: the queue, the Codex array and the Colophon row (`SameCore`, `CoreKept`), and
the canonical form of lists of key and value pairs. The `Frame` files beside this one say it of every operation
and meaning, one lemma each, named after the definition with `_core` added. -/

namespace Sys2Proof.Machine

/-- A fold of steps that keep the core keeps it. -/
theorem foldl_core {α : Type} (f : State → α → State)
    (h : ∀ s a, (f s a).pending = s.pending ∧ (f s a).cdx.mem = s.cdx.mem ∧ (f s a).cdx.colophon = s.cdx.colophon)
    (l : List α) (s : State) :
    (l.foldl f s).pending = s.pending ∧ (l.foldl f s).cdx.mem = s.cdx.mem ∧ (l.foldl f s).cdx.colophon = s.cdx.colophon := by
  induction l generalizing s with
  | nil => simp
  | cons a l ih => simp [ih, h]

/-- From `s` to `t` the queue, the Codex array and the Colophon row stay the same. -/
abbrev SameCore (s t : State) : Prop :=
  t.pending = s.pending ∧ t.cdx.mem = s.cdx.mem ∧ t.cdx.colophon = s.cdx.colophon

theorem SameCore.refl (s : State) : SameCore s s := ⟨rfl, rfl, rfl⟩

theorem SameCore.trans {s t u : State} (h : SameCore s t) (k : SameCore t u) : SameCore s u :=
  ⟨k.1.trans h.1, k.2.1.trans h.2.1, k.2.2.trans h.2.2⟩

theorem SameCore.ite {c : Prop} [Decidable c] {s a b : State} (ha : SameCore s a) (hb : SameCore s b) :
    SameCore s (if c then a else b) := by
  split
  · exact ha
  · exact hb

theorem SameCore.fold {α : Type} (f : State → α → State) (h : ∀ s a, SameCore s (f s a)) (l : List α) (s : State) :
    SameCore s (l.foldl f s) := foldl_core f h l s

/-- What every meaning keeps: the queue, the locked Colophon segments, and the canonical form of the Codex array. -/
def CoreKept (s t : State) : Prop :=
  t.pending = s.pending ∧ ColophonKept s t ∧ (s.memWf → t.memWf)

theorem CoreKept.of_eq {s t : State}
    (h : t.pending = s.pending ∧ t.cdx.mem = s.cdx.mem ∧ t.cdx.colophon = s.cdx.colophon) : CoreKept s t := by
  obtain ⟨h1, h2, h3⟩ := h
  refine ⟨h1, ?_, ?_⟩
  · intro n g hg _; rw [h3]; exact hg
  · intro hw; unfold State.memWf; rw [h2]; exact hw

theorem CoreKept.refl (s : State) : CoreKept s s := CoreKept.of_eq ⟨rfl, rfl, rfl⟩

theorem CoreKept.trans {s t u : State} (h : CoreKept s t) (k : CoreKept t u) : CoreKept s u := by
  obtain ⟨h1, h2, h3⟩ := h
  obtain ⟨k1, k2, k3⟩ := k
  exact ⟨k1.trans h1, fun n g hg hl => k2 n g (h2 n g hg hl) hl, fun hw => k3 (h3 hw)⟩

theorem CoreKept.then_eq {s t u : State} (h : CoreKept s t)
    (k : u.pending = t.pending ∧ u.cdx.mem = t.cdx.mem ∧ u.cdx.colophon = t.cdx.colophon) : CoreKept s u :=
  h.trans (.of_eq k)

theorem foldl_kept {α : Type} (f : State → α → State) (h : ∀ s a, CoreKept s (f s a)) (l : List α) (s : State) :
    CoreKept s (l.foldl f s) := by
  induction l generalizing s with
  | nil => exact .refl s
  | cons a l ih => exact (h s a).trans (ih _)

/-! ## Canonical lists -/

theorem canonical_weaken {α : Type} [DecidableEq α] (d : α) {lo lo' : Nat} (h : lo ≤ lo') (l : List (Nat × α))
    (hc : canonical d lo' l = true) : canonical d lo l = true := by
  cases l with
  | nil => rfl
  | cons x l =>
    obtain ⟨k, v⟩ := x
    simp only [canonical, Bool.and_eq_true, decide_eq_true_eq] at hc ⊢
    exact ⟨⟨by omega, hc.1.2⟩, hc.2⟩

theorem mapDel_canonical {α : Type} [DecidableEq α] (d : α) (k : Nat) (l : List (Nat × α)) :
    ∀ lo, canonical d lo l = true → canonical d lo (mapDel k l) = true := by
  induction l with
  | nil => intro lo h; simpa [mapDel] using h
  | cons x l ih =>
    intro lo h
    obtain ⟨a, w⟩ := x
    simp only [canonical, Bool.and_eq_true, decide_eq_true_eq] at h
    unfold mapDel
    split
    · exact ih lo (canonical_weaken d (by omega) l h.2)
    · simp only [canonical, Bool.and_eq_true, decide_eq_true_eq]
      exact ⟨h.1, ih _ h.2⟩

theorem mapSet_canonical {α : Type} [DecidableEq α] (d : α) (k : Nat) (v : α) (hv : v ≠ d) (l : List (Nat × α)) :
    ∀ lo, lo ≤ k → canonical d lo l = true → canonical d lo (mapSet k v l) = true := by
  induction l with
  | nil => intro lo hk _; simp [mapSet, canonical, hv, hk]
  | cons x l ih =>
    intro lo hk h
    obtain ⟨a, w⟩ := x
    simp only [canonical, Bool.and_eq_true, decide_eq_true_eq] at h
    unfold mapSet
    split
    · simp only [canonical, Bool.and_eq_true, decide_eq_true_eq]
      exact ⟨⟨hk, hv⟩, ⟨by omega, h.1.2⟩, h.2⟩
    · split
      · subst_vars
        simp only [canonical, Bool.and_eq_true, decide_eq_true_eq]
        exact ⟨⟨hk, hv⟩, h.2⟩
      · simp only [canonical, Bool.and_eq_true, decide_eq_true_eq]
        exact ⟨h.1, ih _ (by omega) h.2⟩

/-- Putting a value under a key keeps the canonical form, a default value taking the key out. -/
theorem mapPut_canonical {α : Type} [DecidableEq α] (d : α) (k : Nat) (v : α) (l : List (Nat × α))
    (h : canonical d 0 l = true) : canonical d 0 (mapPut d k v l) = true := by
  unfold mapPut
  split
  · exact mapDel_canonical d k l 0 h
  · exact mapSet_canonical d k v (by assumption) l 0 (Nat.zero_le k) h

theorem filter_canonical {α : Type} [DecidableEq α] (d : α) (p : Nat × α → Bool) (l : List (Nat × α)) :
    ∀ lo, canonical d lo l = true → canonical d lo (l.filter p) = true := by
  induction l with
  | nil => intro lo h; simpa using h
  | cons x l ih =>
    intro lo h
    obtain ⟨a, w⟩ := x
    simp only [canonical, Bool.and_eq_true, decide_eq_true_eq] at h
    rw [List.filter_cons]
    split
    · simp only [canonical, Bool.and_eq_true, decide_eq_true_eq]
      exact ⟨h.1, ih _ h.2⟩
    · exact ih lo (canonical_weaken d (by omega) _ h.2)

theorem foldl_canonical {β : Type} (f : List (Nat × Byte) → β → List (Nat × Byte))
    (h : ∀ m i, canonical (0xFF : Byte) 0 m = true → canonical (0xFF : Byte) 0 (f m i) = true) (l : List β) :
    ∀ m, canonical (0xFF : Byte) 0 m = true → canonical (0xFF : Byte) 0 (l.foldl f m) = true := by
  induction l with
  | nil => intro m hm; exact hm
  | cons a l ih => intro m hm; exact ih _ (h m a hm)

/-- Both branches keep the core. -/
theorem ite_core {c : Prop} [Decidable c] {s a b : State}
    (ha : a.pending = s.pending ∧ a.cdx.mem = s.cdx.mem ∧ a.cdx.colophon = s.cdx.colophon)
    (hb : b.pending = s.pending ∧ b.cdx.mem = s.cdx.mem ∧ b.cdx.colophon = s.cdx.colophon) :
    (if c then a else b).pending = s.pending ∧ (if c then a else b).cdx.mem = s.cdx.mem ∧
      (if c then a else b).cdx.colophon = s.cdx.colophon := by
  split
  · exact ha
  · exact hb

theorem ite_kept {c : Prop} [Decidable c] {s a b : State} (ha : CoreKept s a) (hb : CoreKept s b) :
    CoreKept s (if c then a else b) := by
  split
  · exact ha
  · exact hb


end Sys2Proof.Machine
end

