-- ==== Sys2Proof/Laws/FrameOps.lean ====
section
/-! SUPPORT. What the definitions of Machine/Ops.lean keep of the queue, the Codex array and the Colophon row. -/

namespace Sys2Proof.Machine

@[simp] theorem placeRecord_core (r : DayRec) (s : State) :
    (placeRecord r s).pending = s.pending ∧ (placeRecord r s).cdx.mem = s.cdx.mem ∧ (placeRecord r s).cdx.colophon = s.cdx.colophon := by
  unfold placeRecord
  simp

@[simp] theorem stallRecord_core (r : DayRec) (s : State) :
    (stallRecord r s).pending = s.pending ∧ (stallRecord r s).cdx.mem = s.cdx.mem ∧ (stallRecord r s).cdx.colophon = s.cdx.colophon := by
  unfold stallRecord
  simp

@[simp] theorem record_core (event : Nat) (payload : List (Nat × Nat)) (s : State) :
    (record event payload s).pending = s.pending ∧ (record event payload s).cdx.mem = s.cdx.mem ∧ (record event payload s).cdx.colophon = s.cdx.colophon := by
  unfold record
  (repeat' split) <;> simp

@[simp] theorem useUnit_core (unit i : Nat) (s : State) :
    (useUnit unit i s).pending = s.pending ∧ (useUnit unit i s).cdx.mem = s.cdx.mem ∧ (useUnit unit i s).cdx.colophon = s.cdx.colophon := by
  unfold useUnit
  simp

@[simp] theorem leaveIdle_core (s : State) :
    (leaveIdle s).pending = s.pending ∧ (leaveIdle s).cdx.mem = s.cdx.mem ∧ (leaveIdle s).cdx.colophon = s.cdx.colophon := by
  unfold leaveIdle
  simp

@[simp] theorem setMode_core (m : Mode) (s : State) :
    (setMode m s).pending = s.pending ∧ (setMode m s).cdx.mem = s.cdx.mem ∧ (setMode m s).cdx.colophon = s.cdx.colophon := by
  unfold setMode
  (repeat' split) <;> simp

@[simp] theorem inSlotOrder_core (f : State → State) (s : State) :
    (inSlotOrder f s).pending = (f s).pending ∧ (inSlotOrder f s).cdx.mem = (f s).cdx.mem ∧
      (inSlotOrder f s).cdx.colophon = (f s).cdx.colophon := ⟨rfl, rfl, rfl⟩

@[simp] theorem modCmd_core (n : Nat) (f : Cmd → Cmd) (s : State) :
    (modCmd n f s).pending = s.pending ∧ (modCmd n f s).cdx.mem = s.cdx.mem ∧ (modCmd n f s).cdx.colophon = s.cdx.colophon := by
  unfold modCmd
  simp

@[simp] theorem addError_core (c : Cmd) (st : Nat × Nat) (lba : Nat) (s : State) :
    (addError c st lba s).pending = s.pending ∧ (addError c st lba s).cdx.mem = s.cdx.mem ∧ (addError c st lba s).cdx.colophon = s.cdx.colophon := by
  unfold addError
  (repeat' split) <;> simp

@[simp] theorem finishAt_core (slot : Nat) (st : Nat × Nat) (lba : Nat) (dnr : Bool) (dw0 : Nat) (s : State) :
    (finishAt slot st lba dnr dw0 s).pending = s.pending ∧ (finishAt slot st lba dnr dw0 s).cdx.mem = s.cdx.mem ∧ (finishAt slot st lba dnr dw0 s).cdx.colophon = s.cdx.colophon := by
  unfold finishAt
  (repeat' split) <;> simp

@[simp] theorem finish_core (slot : Nat) (st : Nat × Nat) (dw0 : Nat) (s : State) :
    (finish slot st dw0 s).pending = s.pending ∧ (finish slot st dw0 s).cdx.mem = s.cdx.mem ∧ (finish slot st dw0 s).cdx.colophon = s.cdx.colophon := by
  unfold finish
  (repeat' split) <;> simp

@[simp] theorem finishOk_core (slot dw0 : Nat) (s : State) :
    (finishOk slot dw0 s).pending = s.pending ∧ (finishOk slot dw0 s).cdx.mem = s.cdx.mem ∧ (finishOk slot dw0 s).cdx.colophon = s.cdx.colophon := by
  unfold finishOk
  simp

@[simp] theorem finishErr_core (slot : Nat) (st : Nat × Nat) (s : State) :
    (finishErr slot st s).pending = s.pending ∧ (finishErr slot st s).cdx.mem = s.cdx.mem ∧ (finishErr slot st s).cdx.colophon = s.cdx.colophon := by
  unfold finishErr
  simp

@[simp] theorem sendData_core (slot : Nat) (b : Blob) (s : State) :
    (sendData slot b s).pending = s.pending ∧ (sendData slot b s).cdx.mem = s.cdx.mem ∧ (sendData slot b s).cdx.colophon = s.cdx.colophon := by
  unfold sendData
  (repeat' split) <;> simp

@[simp] theorem asyncEvent_core (typ info : Nat) (s : State) :
    (asyncEvent typ info s).pending = s.pending ∧ (asyncEvent typ info s).cdx.mem = s.cdx.mem ∧ (asyncEvent typ info s).cdx.colophon = s.cdx.colophon := by
  unfold asyncEvent
  (repeat' split) <;> simp

@[simp] theorem countC1_core (n : Nat) (s : State) :
    (countC1 n s).pending = s.pending ∧ (countC1 n s).cdx.mem = s.cdx.mem ∧ (countC1 n s).cdx.colophon = s.cdx.colophon := by
  unfold countC1
  simp

@[simp] theorem drawFree_core (s : State) :
    (drawFree s).pending = s.pending ∧ (drawFree s).cdx.mem = s.cdx.mem ∧ (drawFree s).cdx.colophon = s.cdx.colophon := by
  unfold drawFree
  simp

end Sys2Proof.Machine
end

