-- ==== Sys2Proof/Laws/FrameOperands.lean ====
section
/-! SUPPORT. What the definitions of Machine/Operands.lean keep of the queue, the Codex array and the Colophon row. -/

namespace Sys2Proof.Machine

@[simp] theorem modBlk_core (n : Nat) (f : BlockEntry → BlockEntry) (s : State) :
    (modBlk n f s).pending = s.pending ∧ (modBlk n f s).cdx.mem = s.cdx.mem ∧ (modBlk n f s).cdx.colophon = s.cdx.colophon := by
  unfold modBlk
  simp

end Sys2Proof.Machine
end

