-- ==== Sys2Proof/Laws/FramePools.lean ====
section
/-! SUPPORT. What the definitions of Machine/Pools.lean keep of the queue, the Codex array and the Colophon row. -/

namespace Sys2Proof.Machine

@[simp] theorem slotPhase_core (who : Requester) (ph : CmdPhase) (s : State) :
    (slotPhase who ph s).pending = s.pending ∧ (slotPhase who ph s).cdx.mem = s.cdx.mem ∧ (slotPhase who ph s).cdx.colophon = s.cdx.colophon := by
  unfold slotPhase
  (repeat' split) <;> simp

@[simp] theorem requestBuffers_core (set : Nat) (who : Requester) (sizes : List Nat) (s : State) :
    (requestBuffers set who sizes s).pending = s.pending ∧ (requestBuffers set who sizes s).cdx.mem = s.cdx.mem ∧ (requestBuffers set who sizes s).cdx.colophon = s.cdx.colophon := by
  unfold requestBuffers
  (repeat' split) <;> simp

theorem execPoolRequest_core (set : Nat) (who : Requester) (sizesKiB : List Nat) (s : State) (t : State) (h : execPoolRequest set who sizesKiB s = .next t) :
    (t).pending = s.pending ∧ (t).cdx.mem = s.cdx.mem ∧ (t).cdx.colophon = s.cdx.colophon := by
  unfold execPoolRequest at h
  injection h with h
  subst h
  (repeat' split) <;> simp

@[simp] theorem freeBuffer_core (n a : Nat) (s : State) :
    (freeBuffer n a s).pending = s.pending ∧ (freeBuffer n a s).cdx.mem = s.cdx.mem ∧ (freeBuffer n a s).cdx.colophon = s.cdx.colophon := by
  unfold freeBuffer
  simp

theorem execPoolFree_core (pool addr : Nat) (s : State) (t : State) (h : execPoolFree pool addr s = .next t) :
    (t).pending = s.pending ∧ (t).cdx.mem = s.cdx.mem ∧ (t).cdx.colophon = s.cdx.colophon := by
  unfold execPoolFree at h
  injection h with h
  subst h
  simp

@[simp] theorem serveStalled_core (set : Nat) (s : State) :
    (serveStalled set s).pending = s.pending ∧ (serveStalled set s).cdx.mem = s.cdx.mem ∧ (serveStalled set s).cdx.colophon = s.cdx.colophon := by
  unfold serveStalled
  (repeat' split) <;> simp

@[simp] theorem clearPools_core (value : Word32) (s : State) :
    (clearPools value s).pending = s.pending ∧ (clearPools value s).cdx.mem = s.cdx.mem ∧ (clearPools value s).cdx.colophon = s.cdx.colophon := by
  unfold clearPools
  (repeat' split) <;> simp

theorem execKsPoolClear_core (value : Word32) (s : State) (t : State) (h : execKsPoolClear value s = .next t) :
    (t).pending = s.pending ∧ (t).cdx.mem = s.cdx.mem ∧ (t).cdx.colophon = s.cdx.colophon := by
  unfold execKsPoolClear at h
  injection h with h
  subst h
  (repeat' split) <;> simp

@[simp] theorem freeAllOf_core (who : Requester) (s : State) :
    (freeAllOf who s).pending = s.pending ∧ (freeAllOf who s).cdx.mem = s.cdx.mem ∧ (freeAllOf who s).cdx.colophon = s.cdx.colophon := by
  unfold freeAllOf
  simp [foldl_core]

@[simp] theorem dropWait_core (who : Requester) (s : State) :
    (dropWait who s).pending = s.pending ∧ (dropWait who s).cdx.mem = s.cdx.mem ∧ (dropWait who s).cdx.colophon = s.cdx.colophon := by
  unfold dropWait
  simp

@[simp] theorem freeHoldTable_core (s : State) :
    (freeHoldTable s).pending = s.pending ∧ (freeHoldTable s).cdx.mem = s.cdx.mem ∧ (freeHoldTable s).cdx.colophon = s.cdx.colophon := by
  unfold freeHoldTable
  simp [foldl_core]

@[simp] theorem askOnce_core (set : Nat) (who : Requester) (sizes : List Nat) (s : State) :
    (askOnce set who sizes s).pending = s.pending ∧ (askOnce set who sizes s).cdx.mem = s.cdx.mem ∧ (askOnce set who sizes s).cdx.colophon = s.cdx.colophon := by
  unfold askOnce
  (repeat' split) <;> simp

@[simp] theorem spareRows_core (n : Nat) (s : State) :
    (spareRows n s).pending = s.pending ∧ (spareRows n s).cdx.mem = s.cdx.mem ∧ (spareRows n s).cdx.colophon = s.cdx.colophon := by
  unfold spareRows
  simp

@[simp] theorem stallRow_core (n : Nat) (ok : State → Bool) (s : State) :
    (stallRow n ok s).pending = s.pending ∧ (stallRow n ok s).cdx.mem = s.cdx.mem ∧ (stallRow n ok s).cdx.colophon = s.cdx.colophon := by
  unfold stallRow
  repeat' (first | split | simp [foldl_core])

end Sys2Proof.Machine
end

