-- ==== Sys2Proof/Laws/FrameRows.lean ====
section
/-! SUPPORT. What the definitions of Machine/Rows.lean keep of the queue, the Codex array and the Colophon row. -/

namespace Sys2Proof.Machine

@[simp] theorem modDie_core (ch t : Nat) (f : Die → Die) (s : State) :
    (modDie ch t f s).pending = s.pending ∧ (modDie ch t f s).cdx.mem = s.cdx.mem ∧ (modDie ch t f s).cdx.colophon = s.cdx.colophon := by
  unfold modDie
  simp

@[simp] theorem newHeadroom_core (s : State) :
    (newHeadroom s).pending = s.pending ∧ (newHeadroom s).cdx.mem = s.cdx.mem ∧ (newHeadroom s).cdx.colophon = s.cdx.colophon := by
  unfold newHeadroom
  simp

@[simp] theorem openStripe_core (n stream : Nat) (s : State) :
    (openStripe n stream s).pending = s.pending ∧ (openStripe n stream s).cdx.mem = s.cdx.mem ∧ (openStripe n stream s).cdx.colophon = s.cdx.colophon := by
  unfold openStripe
  (repeat' split) <;> simp

@[simp] theorem modRow_core (id : Nat) (f : OpenRow → OpenRow) (s : State) :
    (modRow id f s).pending = s.pending ∧ (modRow id f s).cdx.mem = s.cdx.mem ∧ (modRow id f s).cdx.colophon = s.cdx.colophon := by
  unfold modRow
  simp

@[simp] theorem countProgram_core (r : OpenRow) (s : State) :
    (countProgram r s).pending = s.pending ∧ (countProgram r s).cdx.mem = s.cdx.mem ∧ (countProgram r s).cdx.colophon = s.cdx.colophon := by
  unfold countProgram
  (repeat' split) <;> simp

@[simp] theorem queueUnit_core (r : OpenRow) (u : Nat) (s : State) :
    (queueUnit r u s).pending = s.pending ∧ (queueUnit r u s).cdx.mem = s.cdx.mem ∧ (queueUnit r u s).cdx.colophon = s.cdx.colophon := by
  unfold queueUnit
  (repeat' split) <;> simp

@[simp] theorem queueReady_core (id : Nat) (s : State) :
    (queueReady id s).pending = s.pending ∧ (queueReady id s).cdx.mem = s.cdx.mem ∧ (queueReady id s).cdx.colophon = s.cdx.colophon := by
  unfold queueReady
  repeat' (first | split | simp [foldl_core])

@[simp] theorem fillCells_core (id : Nat) (cells : List Nat) (s : State) :
    (fillCells id cells s).pending = s.pending ∧ (fillCells id cells s).cdx.mem = s.cdx.mem ∧ (fillCells id cells s).cdx.colophon = s.cdx.colophon := by
  unfold fillCells
  simp

@[simp] theorem padCells_core (id : Nat) (cells : List Nat) (s : State) :
    (padCells id cells s).pending = s.pending ∧ (padCells id cells s).cdx.mem = s.cdx.mem ∧ (padCells id cells s).cdx.colophon = s.cdx.colophon := by
  unfold padCells
  (repeat' split) <;> simp

@[simp] theorem sealRow_core (id : Nat) (s : State) :
    (sealRow id s).pending = s.pending ∧ (sealRow id s).cdx.mem = s.cdx.mem ∧ (sealRow id s).cdx.colophon = s.cdx.colophon := by
  unfold sealRow
  (repeat' split) <;> simp

theorem easeDie_core (e : LaneEntry) (s : State)  (out : State) (hout : easeDie e s = some out) :
    (out).pending = s.pending ∧ (out).cdx.mem = s.cdx.mem ∧ (out).cdx.colophon = s.cdx.colophon := by
  unfold easeDie at hout
  grind [padCells_core, foldl_core]

theorem openRowIn_core (n stream engine : Nat) (s : State)  (out : State) (hout : openRowIn n stream engine s = some out) :
    (out).pending = s.pending ∧ (out).cdx.mem = s.cdx.mem ∧ (out).cdx.colophon = s.cdx.colophon := by
  unfold openRowIn at hout
  grind [modBlk_core, foldl_core]

theorem openRowFor_core (stream : Nat) (carrel : Bool) (engine : Nat) (group : Option Nat) (s : State)  (out : State) (hout : openRowFor stream carrel engine group s = some out) :
    (out).pending = s.pending ∧ (out).cdx.mem = s.cdx.mem ∧ (out).cdx.colophon = s.cdx.colophon := by
  unfold openRowFor at hout
  grind [openRowIn_core, openStripe_core, foldl_core]

theorem chooseCells_core (stream : Nat) (carrel : Bool) (engine : Nat) (group : Option Nat) (run : Bool) (pick : Nat) (s : State) (b0 : OpenRow) (b1 : List Nat) (out : State) (hout : chooseCells stream carrel engine group run pick s = some (b0, b1, out)) :
    (out).pending = s.pending ∧ (out).cdx.mem = s.cdx.mem ∧ (out).cdx.colophon = s.cdx.colophon := by
  unfold chooseCells at hout
  grind [openRowFor_core, foldl_core]

theorem takeWithin_core (stream : Nat) (carrel : Bool) (engine : Nat) (group : Option Nat) (run : Bool) (pick : Nat) (a0 : Nat) (s : State) (b0 : OpenRow) (b1 : List Nat) (out : State) (hout : takeWithin stream carrel engine group run pick a0 s = some (b0, b1, out)) :
    (out).pending = s.pending ∧ (out).cdx.mem = s.cdx.mem ∧ (out).cdx.colophon = s.cdx.colophon := by
  induction a0 generalizing s <;> unfold takeWithin at hout <;> grind [chooseCells_core, modRow_core, easeDie_core, foldl_core]

theorem takeCells_core (stream : Nat) (carrel : Bool) (engine : Nat) (group : Option Nat) (run : Bool) (pick : Nat) (s : State) (b0 : OpenRow) (b1 : List Nat) (out : State) (hout : takeCells stream carrel engine group run pick s = some (b0, b1, out)) :
    (out).pending = s.pending ∧ (out).cdx.mem = s.cdx.mem ∧ (out).cdx.colophon = s.cdx.colophon := by
  unfold takeCells at hout
  grind [takeWithin_core, foldl_core]

@[simp] theorem noteList_core (r : OpenRow) (l : List (Nat × Nat × Nat)) (s : State) :
    (noteList r l s).pending = s.pending ∧ (noteList r l s).cdx.mem = s.cdx.mem ∧ (noteList r l s).cdx.colophon = s.cdx.colophon := by
  unfold noteList
  simp

@[simp] theorem freeTransit_core (s : State) :
    (freeTransit s).pending = s.pending ∧ (freeTransit s).cdx.mem = s.cdx.mem ∧ (freeTransit s).cdx.colophon = s.cdx.colophon := by
  unfold freeTransit
  apply foldl_core
  intro s a
  repeat' (first | split | simp [foldl_core])

@[simp] theorem dropRowBuffer_core (r : OpenRow) (s : State) :
    (dropRowBuffer r s).pending = s.pending ∧ (dropRowBuffer r s).cdx.mem = s.cdx.mem ∧ (dropRowBuffer r s).cdx.colophon = s.cdx.colophon := by
  unfold dropRowBuffer
  (repeat' split) <;> simp

@[simp] theorem endRow_core (r : OpenRow) (s : State) :
    (endRow r s).pending = s.pending ∧ (endRow r s).cdx.mem = s.cdx.mem ∧ (endRow r s).cdx.colophon = s.cdx.colophon := by
  unfold endRow
  repeat' (first | split | simp [foldl_core])

@[simp] theorem parityPage_core (n stream : Nat) (q : Bool) (page : Nat) (s : State) :
    (parityPage n stream q page s).pending = s.pending ∧ (parityPage n stream q page s).cdx.mem = s.cdx.mem ∧ (parityPage n stream q page s).cdx.colophon = s.cdx.colophon := by
  unfold parityPage
  (repeat' split) <;> simp

@[simp] theorem storeParity_core (r : OpenRow) (q : Bool) (p : Nat) (s : State) :
    (storeParity r q p s).pending = s.pending ∧ (storeParity r q p s).cdx.mem = s.cdx.mem ∧ (storeParity r q p s).cdx.colophon = s.cdx.colophon := by
  unfold storeParity
  (repeat' split) <;> simp

@[simp] theorem systemParity_core (ppa : Ppa) (s : State) :
    (systemParity ppa s).pending = s.pending ∧ (systemParity ppa s).cdx.mem = s.cdx.mem ∧ (systemParity ppa s).cdx.colophon = s.cdx.colophon := by
  unfold systemParity
  repeat' (first | split | simp [foldl_core])

@[simp] theorem storeUnit_core (r : OpenRow) (u : Nat) (s : State) :
    (storeUnit r u s).pending = s.pending ∧ (storeUnit r u s).cdx.mem = s.cdx.mem ∧ (storeUnit r u s).cdx.colophon = s.cdx.colophon := by
  unfold storeUnit
  repeat' (first | split | simp [foldl_core])

@[simp] theorem endUnit_core (r : OpenRow) (u : Nat) (ok : Bool) (s : State) :
    (endUnit r u ok s).pending = s.pending ∧ (endUnit r u ok s).cdx.mem = s.cdx.mem ∧ (endUnit r u ok s).cdx.colophon = s.cdx.colophon := by
  unfold endUnit
  repeat' (first | split | simp [foldl_core])

theorem placeSystem_core (pick : Nat) (data : List Nat) (s : State) (b0 : Ppa) (out : State) (hout : placeSystem pick data s = some (b0, out)) :
    (out).pending = s.pending ∧ (out).cdx.mem = s.cdx.mem ∧ (out).cdx.colophon = s.cdx.colophon := by
  unfold placeSystem at hout
  grind [takeCells_core, fillCells_core, foldl_core]

theorem placeSystems_core (l : List (List Nat)) (s : State) (b0 : List Ppa) (out : State)
    (hout : placeSystems l s = some (b0, out)) : SameCore s out := by
  induction l generalizing b0 s with
  | nil => unfold placeSystems at hout; simp at hout; exact hout.2 ▸ .refl s
  | cons d l ih =>
    unfold placeSystems at hout
    split at hout
    · cases hout
    · rename_i p t ht
      have k := placeSystem_core _ _ _ _ _ ht
      cases hq : placeSystems l t with
      | none => simp [hq] at hout
      | some x =>
        obtain ⟨y, z⟩ := x
        simp [hq] at hout
        obtain ⟨-, rfl⟩ := hout
        exact SameCore.trans k (ih _ _ hq)

@[simp] theorem placeList_core (n : Nat) (s : State) :
    (placeList n s).pending = s.pending ∧ (placeList n s).cdx.mem = s.cdx.mem ∧ (placeList n s).cdx.colophon = s.cdx.colophon := by
  unfold placeList
  grind [placeSystems_core, stallRow_core, freeAllOf_core, dropWait_core, modBlk_core, foldl_core]

@[simp] theorem closeStripe_core (n : Nat) (s : State) :
    (closeStripe n s).pending = s.pending ∧ (closeStripe n s).cdx.mem = s.cdx.mem ∧ (closeStripe n s).cdx.colophon = s.cdx.colophon := by
  unfold closeStripe
  (repeat' split) <;> simp

@[simp] theorem retryLists_core (s : State) :
    (retryLists s).pending = s.pending ∧ (retryLists s).cdx.mem = s.cdx.mem ∧ (retryLists s).cdx.colophon = s.cdx.colophon := by
  unfold retryLists
  simp [foldl_core]

@[simp] theorem settleRow_core (id : Nat) (s : State) :
    (settleRow id s).pending = s.pending ∧ (settleRow id s).cdx.mem = s.cdx.mem ∧ (settleRow id s).cdx.colophon = s.cdx.colophon := by
  unfold settleRow
  repeat' (first | split | simp [foldl_core])

end Sys2Proof.Machine
end

