-- ==== Sys2Proof/Laws/FrameReads.lean ====
section
/-! SUPPORT. What the definitions of Machine/Reads.lean keep of the queue, the Codex array and the Colophon row. -/

namespace Sys2Proof.Machine

@[simp] theorem modChan_core (ch : Nat) (f : Channel → Channel) (s : State) :
    (modChan ch f s).pending = s.pending ∧ (modChan ch f s).cdx.mem = s.cdx.mem ∧ (modChan ch f s).cdx.colophon = s.cdx.colophon := by
  unfold modChan
  (repeat' split) <;> simp

@[simp] theorem failWord_core (p : Ppa) (step cls : Nat) (why : List ReadFor) (decoded : Bool) (s : State) :
    (failWord p step cls why decoded s).pending = s.pending ∧ (failWord p step cls why decoded s).cdx.mem = s.cdx.mem ∧ (failWord p step cls why decoded s).cdx.colophon = s.cdx.colophon := by
  unfold failWord
  (repeat' split) <;> simp

@[simp] theorem queueRead_core (r : ReadReq) (s : State) :
    (queueRead r s).pending = s.pending ∧ (queueRead r s).cdx.mem = s.cdx.mem ∧ (queueRead r s).cdx.colophon = s.cdx.colophon := by
  unfold queueRead
  (repeat' split) <;> simp

end Sys2Proof.Machine
end

