-- ==== Sys2Proof/Laws/FrameCatalogue.lean ====
section
/-! SUPPORT. What the definitions of Machine/Catalogue.lean keep of the queue, the Codex array and the Colophon row. -/

namespace Sys2Proof.Machine

@[simp] theorem gainValid_core (s : State) (ppa : Ppa) :
    (gainValid s ppa).pending = s.pending ∧ (gainValid s ppa).cdx.mem = s.cdx.mem ∧ (gainValid s ppa).cdx.colophon = s.cdx.colophon := by
  unfold gainValid
  (repeat' split) <;> simp

@[simp] theorem loseValid_core (seq : Nat) (s : State) (ppa : Ppa) :
    (loseValid seq s ppa).pending = s.pending ∧ (loseValid seq s ppa).cdx.mem = s.cdx.mem ∧ (loseValid seq s ppa).cdx.colophon = s.cdx.colophon := by
  unfold loseValid
  (repeat' split) <;> simp

@[simp] theorem shiftValid_core (seq : Nat) (before after : List Ppa) (s : State) :
    (shiftValid seq before after s).pending = s.pending ∧ (shiftValid seq before after s).cdx.mem = s.cdx.mem ∧ (shiftValid seq before after s).cdx.colophon = s.cdx.colophon := by
  unfold shiftValid
  simp [foldl_core]

@[simp] theorem modIndex_core (c : Nat) (f : IndexEntry → IndexEntry) (s : State) :
    (modIndex c f s).pending = s.pending ∧ (modIndex c f s).cdx.mem = s.cdx.mem ∧ (modIndex c f s).cdx.colophon = s.cdx.colophon := by
  unfold modIndex
  simp

@[simp] theorem modSeg_core (shelf : Nat) (f : Segment → Segment) (s : State) :
    (modSeg shelf f s).pending = s.pending ∧ (modSeg shelf f s).cdx.mem = s.cdx.mem ∧ (modSeg shelf f s).cdx.colophon = s.cdx.colophon := by
  unfold modSeg
  simp

@[simp] theorem supersede_core (p : Ppa) (s : State) :
    (supersede p s).pending = s.pending ∧ (supersede p s).cdx.mem = s.cdx.mem ∧ (supersede p s).cdx.colophon = s.cdx.colophon := by
  unfold supersede
  (repeat' split) <;> simp

@[simp] theorem dropSegment_core (g : Segment) (s : State) :
    (dropSegment g s).pending = s.pending ∧ (dropSegment g s).cdx.mem = s.cdx.mem ∧ (dropSegment g s).cdx.colophon = s.cdx.colophon := by
  unfold dropSegment
  grind [placeSystem_core, stallRow_core, modIndex_core, modSeg_core, supersede_core, foldl_core]

@[simp] theorem evictOne_core (s : State) :
    (evictOne s).pending = s.pending ∧ (evictOne s).cdx.mem = s.cdx.mem ∧ (evictOne s).cdx.colophon = s.cdx.colophon := by
  unfold evictOne
  repeat' (first | split | simp [foldl_core])

@[simp] theorem takeSlot_core (s : State) :
    ((takeSlot s).2).pending = s.pending ∧ ((takeSlot s).2).cdx.mem = s.cdx.mem ∧ ((takeSlot s).2).cdx.colophon = s.cdx.colophon := by
  unfold takeSlot
  grind [evictOne_core, foldl_core]

@[simp] theorem seatSegment_core (shelf : Nat) (s : State) :
    (seatSegment shelf s).pending = s.pending ∧ (seatSegment shelf s).cdx.mem = s.cdx.mem ∧ (seatSegment shelf s).cdx.colophon = s.cdx.colophon := by
  unfold seatSegment
  simp only []
  repeat' (first | split | simp_all [foldl_core])

@[simp] theorem putShelf_core (shelf : Nat) (st : ShelfSt) (s : State) :
    (putShelf shelf st s).pending = s.pending ∧ (putShelf shelf st s).cdx.mem = s.cdx.mem ∧ (putShelf shelf st s).cdx.colophon = s.cdx.colophon := by
  unfold putShelf
  (repeat' split) <;> simp

@[simp] theorem applyNow_core (r : LedgerRec) (s : State) :
    (applyNow r s).pending = s.pending ∧ (applyNow r s).cdx.mem = s.cdx.mem ∧ (applyNow r s).cdx.colophon = s.cdx.colophon := by
  unfold applyNow
  repeat' (first | split | simp [foldl_core])

@[simp] theorem cardArrived_core (page : Bool) (index : Nat) (p : Ppa) (s : State) :
    (cardArrived page index p s).pending = s.pending ∧ (cardArrived page index p s).cdx.mem = s.cdx.mem ∧ (cardArrived page index p s).cdx.colophon = s.cdx.colophon := by
  unfold cardArrived
  (repeat' split) <;> simp

@[simp] theorem issueLoad_core (page : Bool) (index : Nat) (s : State) :
    (issueLoad page index s).pending = s.pending ∧ (issueLoad page index s).cdx.mem = s.cdx.mem ∧ (issueLoad page index s).cdx.colophon = s.cdx.colophon := by
  unfold issueLoad
  grind [cardArrived_core, queueRead_core, foldl_core]

@[simp] theorem startLoadAt_core (warm : Bool) (page : Bool) (index : Nat) (s : State) :
    (startLoadAt warm page index s).pending = s.pending ∧ (startLoadAt warm page index s).cdx.mem = s.cdx.mem ∧ (startLoadAt warm page index s).cdx.colophon = s.cdx.colophon := by
  unfold startLoadAt
  (repeat' split) <;> simp

@[simp] theorem startLoad_core (page : Bool) (index : Nat) (s : State) :
    (startLoad page index s).pending = s.pending ∧ (startLoad page index s).cdx.mem = s.cdx.mem ∧ (startLoad page index s).cdx.colophon = s.cdx.colophon := by
  unfold startLoad
  (repeat' split) <;> simp

@[simp] theorem endLoad_core (page : Bool) (index : Nat) (s : State) :
    (endLoad page index s).pending = s.pending ∧ (endLoad page index s).cdx.mem = s.cdx.mem ∧ (endLoad page index s).cdx.colophon = s.cdx.colophon := by
  unfold endLoad
  simp

@[simp] theorem retryLoads_core (s : State) :
    (retryLoads s).pending = s.pending ∧ (retryLoads s).cdx.mem = s.cdx.mem ∧ (retryLoads s).cdx.colophon = s.cdx.colophon := by
  unfold retryLoads
  simp [foldl_core]

@[simp] theorem loadFor_core (shelf : Nat) (s : State) :
    (loadFor shelf s).pending = s.pending ∧ (loadFor shelf s).cdx.mem = s.cdx.mem ∧ (loadFor shelf s).cdx.colophon = s.cdx.colophon := by
  unfold loadFor
  (repeat' split) <;> simp

@[simp] theorem enterUpdate_core (r : LedgerRec) (s : State) :
    (enterUpdate r s).pending = s.pending ∧ (enterUpdate r s).cdx.mem = s.cdx.mem ∧ (enterUpdate r s).cdx.colophon = s.cdx.colophon := by
  unfold enterUpdate
  (repeat' split) <;> simp

@[simp] theorem settleShelf_core (shelf : Nat) (s : State) :
    (settleShelf shelf s).pending = s.pending ∧ (settleShelf shelf s).cdx.mem = s.cdx.mem ∧ (settleShelf shelf s).cdx.colophon = s.cdx.colophon := by
  unfold settleShelf
  simp [foldl_core]

@[simp] theorem settleOrLoad_core (shelf : Nat) (s : State) :
    (settleOrLoad shelf s).pending = s.pending ∧ (settleOrLoad shelf s).cdx.mem = s.cdx.mem ∧ (settleOrLoad shelf s).cdx.colophon = s.cdx.colophon := by
  unfold settleOrLoad
  (repeat' split) <;> simp

@[simp] theorem loadSegment_core (shelf : Nat) (s : State) :
    (loadSegment shelf s).pending = s.pending ∧ (loadSegment shelf s).cdx.mem = s.cdx.mem ∧ (loadSegment shelf s).cdx.colophon = s.cdx.colophon := by
  unfold loadSegment
  repeat' (first | split | simp [foldl_core])

@[simp] theorem retrySeats_core (s : State) :
    (retrySeats s).pending = s.pending ∧ (retrySeats s).cdx.mem = s.cdx.mem ∧ (retrySeats s).cdx.colophon = s.cdx.colophon := by
  unfold retrySeats
  simp [foldl_core]

@[simp] theorem loadPage_core (c : Nat) (s : State) :
    (loadPage c s).pending = s.pending ∧ (loadPage c s).cdx.mem = s.cdx.mem ∧ (loadPage c s).cdx.colophon = s.cdx.colophon := by
  unfold loadPage
  apply foldl_core
  intro s a
  repeat' (first | split | simp [foldl_core])

@[simp] theorem takeLoad_core (page : Bool) (index : Nat) (s : State) :
    (takeLoad page index s).pending = s.pending ∧ (takeLoad page index s).cdx.mem = s.cdx.mem ∧ (takeLoad page index s).cdx.colophon = s.cdx.colophon := by
  unfold takeLoad
  (repeat' split) <;> simp

@[simp] theorem admitUpdates_core  (a0 : Nat) (s : State) :
    (admitUpdates a0 s).pending = s.pending ∧ (admitUpdates a0 s).cdx.mem = s.cdx.mem ∧ (admitUpdates a0 s).cdx.colophon = s.cdx.colophon := by
  induction a0 generalizing s <;> unfold admitUpdates <;> grind [applyNow_core, loadFor_core, foldl_core]

@[simp] theorem touchSegment_core (shelf : Nat) (s : State) :
    (touchSegment shelf s).pending = s.pending ∧ (touchSegment shelf s).cdx.mem = s.cdx.mem ∧ (touchSegment shelf s).cdx.colophon = s.cdx.colophon := by
  unfold touchSegment
  simp

end Sys2Proof.Machine
end

