-- ==== Sys2Proof/Laws/FrameLedger.lean ====
section
/-! SUPPORT. What the definitions of Machine/Ledger.lean keep of the queue, the Codex array and the Colophon row. -/

namespace Sys2Proof.Machine

@[simp] theorem publishDurable_core (s : State) :
    (publishDurable s).pending = s.pending ∧ (publishDurable s).cdx.mem = s.cdx.mem ∧ (publishDurable s).cdx.colophon = s.cdx.colophon := by
  unfold publishDurable
  simp

@[simp] theorem openWhole_core (n : Nat) (s : State) :
    (openWhole n s).pending = s.pending ∧ (openWhole n s).cdx.mem = s.cdx.mem ∧ (openWhole n s).cdx.colophon = s.cdx.colophon := by
  unfold openWhole
  simp

@[simp] theorem openExtents_core (n : Nat) (s : State) :
    (openExtents n s).pending = s.pending ∧ (openExtents n s).cdx.mem = s.cdx.mem ∧ (openExtents n s).cdx.colophon = s.cdx.colophon := by
  unfold openExtents
  simp

@[simp] theorem allocExtent_core (s : State) :
    (allocExtent s).pending = s.pending ∧ (allocExtent s).cdx.mem = s.cdx.mem ∧ (allocExtent s).cdx.colophon = s.cdx.colophon := by
  unfold allocExtent
  repeat' (first | split | simp [foldl_core])

@[simp] theorem pushRec_core (r : LedgerRec) (s : State) :
    (pushRec r s).pending = s.pending ∧ (pushRec r s).cdx.mem = s.cdx.mem ∧ (pushRec r s).cdx.colophon = s.cdx.colophon := by
  unfold pushRec
  repeat' (first | split | simp [foldl_core])

@[simp] theorem startExtent_core (first : Bool) (s : State) :
    (startExtent first s).pending = s.pending ∧ (startExtent first s).cdx.mem = s.cdx.mem ∧ (startExtent first s).cdx.colophon = s.cdx.colophon := by
  unfold startExtent
  simp

theorem easeLedger_core  (a0 : Nat) (s : State)  (out : State) (hout : easeLedger a0 s = some out) :
    (out).pending = s.pending ∧ (out).cdx.mem = s.cdx.mem ∧ (out).cdx.colophon = s.cdx.colophon := by
  induction a0 generalizing s <;> unfold easeLedger at hout <;> grind [easeDie_core, foldl_core]

@[simp] theorem stallAppend_core (r : LedgerRec) (s : State) :
    (stallAppend r s).pending = s.pending ∧ (stallAppend r s).cdx.mem = s.cdx.mem ∧ (stallAppend r s).cdx.colophon = s.cdx.colophon := by
  unfold stallAppend
  simp

@[simp] theorem append_core (r : LedgerRec) (s : State) :
    (append r s).pending = s.pending ∧ (append r s).cdx.mem = s.cdx.mem ∧ (append r s).cdx.colophon = s.cdx.colophon := by
  unfold append
  grind [stallAppend_core, startExtent_core, easeLedger_core, pushRec_core, foldl_core]

@[simp] theorem appendAll_core (rs : List LedgerRec) (s : State) :
    (appendAll rs s).pending = s.pending ∧ (appendAll rs s).cdx.mem = s.cdx.mem ∧ (appendAll rs s).cdx.colophon = s.cdx.colophon := by
  unfold appendAll
  simp [foldl_core]

@[simp] theorem padRecs_core  (a0 : Nat) (s : State) :
    (padRecs a0 s).pending = s.pending ∧ (padRecs a0 s).cdx.mem = s.cdx.mem ∧ (padRecs a0 s).cdx.colophon = s.cdx.colophon := by
  induction a0 generalizing s with
  | zero => simp [padRecs]
  | succ n ih =>
    unfold padRecs
    (repeat' split) <;> simp [ih]

@[simp] theorem closeCard_core (s : State) :
    (closeCard s).pending = s.pending ∧ (closeCard s).cdx.mem = s.cdx.mem ∧ (closeCard s).cdx.colophon = s.cdx.colophon := by
  unfold closeCard
  (repeat' split) <;> simp

@[simp] theorem countFox_core (nsid lba cause : Nat) (s : State) :
    (countFox nsid lba cause s).pending = s.pending ∧ (countFox nsid lba cause s).cdx.mem = s.cdx.mem ∧ (countFox nsid lba cause s).cdx.colophon = s.cdx.colophon := by
  unfold countFox
  simp

@[simp] theorem foxSet_core (shelf card : Nat) (ppa : Ppa) (cause : Nat) (s : State) :
    (foxSet shelf card ppa cause s).pending = s.pending ∧ (foxSet shelf card ppa cause s).cdx.mem = s.cdx.mem ∧ (foxSet shelf card ppa cause s).cdx.colophon = s.cdx.colophon := by
  unfold foxSet
  simp

@[simp] theorem flagTransit_core (ppa : Ppa) (s : State) :
    (flagTransit ppa s).pending = s.pending ∧ (flagTransit ppa s).cdx.mem = s.cdx.mem ∧ (flagTransit ppa s).cdx.colophon = s.cdx.colophon := by
  unfold flagTransit
  simp

@[simp] theorem finishCmd_core (slot : Nat) (s : State) :
    (finishCmd slot s).pending = s.pending ∧ (finishCmd slot s).cdx.mem = s.cdx.mem ∧ (finishCmd slot s).cdx.colophon = s.cdx.colophon := by
  unfold finishCmd
  (repeat' split) <;> simp

@[simp] theorem settleReady_core (s : State) :
    (settleReady s).pending = s.pending ∧ (settleReady s).cdx.mem = s.cdx.mem ∧ (settleReady s).cdx.colophon = s.cdx.colophon := by
  unfold settleReady
  simp [foldl_core]

@[simp] theorem closeWaiting_core (s : State) :
    (closeWaiting s).pending = s.pending ∧ (closeWaiting s).cdx.mem = s.cdx.mem ∧ (closeWaiting s).cdx.colophon = s.cdx.colophon := by
  unfold closeWaiting
  (repeat' split) <;> simp

@[simp] theorem settleWrites_core (s : State) :
    (settleWrites s).pending = s.pending ∧ (settleWrites s).cdx.mem = s.cdx.mem ∧ (settleWrites s).cdx.colophon = s.cdx.colophon := by
  unfold settleWrites
  simp [foldl_core]

@[simp] theorem countPublications_core (first : Nat) (s : State) :
    (countPublications first s).pending = s.pending ∧ (countPublications first s).cdx.mem = s.cdx.mem ∧ (countPublications first s).cdx.colophon = s.cdx.colophon := by
  unfold countPublications
  simp

@[simp] theorem storeDay_core (n first : Nat) (rs : List DayRec) (s : State) :
    (storeDay n first rs s).pending = s.pending ∧ (storeDay n first rs s).cdx.mem = s.cdx.mem ∧ (storeDay n first rs s).cdx.colophon = s.cdx.colophon := by
  unfold storeDay
  simp [foldl_core]

@[simp] theorem sealSystem_core (ppa : Ppa) (s : State) :
    (sealSystem ppa s).pending = s.pending ∧ (sealSystem ppa s).cdx.mem = s.cdx.mem ∧ (sealSystem ppa s).cdx.colophon = s.cdx.colophon := by
  unfold sealSystem
  (repeat' split) <;> simp

@[simp] theorem cardProgrammed_core (first : Nat) (s : State) :
    (cardProgrammed first s).pending = s.pending ∧ (cardProgrammed first s).cdx.mem = s.cdx.mem ∧ (cardProgrammed first s).cdx.colophon = s.cdx.colophon := by
  unfold cardProgrammed
  simp

end Sys2Proof.Machine
end

