-- ==== Sys2Proof/Laws/FrameQueues.lean ====
section
/-! SUPPORT. What the definitions of Machine/Queues.lean keep of the queue, the Codex array and the Colophon row. -/

namespace Sys2Proof.Machine

theorem execLinkUp_core (ms rate width : Nat) (flit : Bool) (s : State) (t : State) (h : execLinkUp ms rate width flit s = .next t) :
    (t).pending = s.pending ∧ (t).cdx.mem = s.cdx.mem ∧ (t).cdx.colophon = s.cdx.colophon := by
  unfold execLinkUp at h
  injection h with h
  subst h
  (repeat' split) <;> simp

@[simp] theorem logAer_core (row : Nat) (s : State) :
    (logAer row s).pending = s.pending ∧ (logAer row s).cdx.mem = s.cdx.mem ∧ (logAer row s).cdx.colophon = s.cdx.colophon := by
  unfold logAer
  simp

@[simp] theorem dropBuffers_core (slot : Nat) (s : State) :
    (dropBuffers slot s).pending = s.pending ∧ (dropBuffers slot s).cdx.mem = s.cdx.mem ∧ (dropBuffers slot s).cdx.colophon = s.cdx.colophon := by
  unfold dropBuffers
  simp

@[simp] theorem modSq_core (q : Nat) (f : Sq → Sq) (s : State) :
    (modSq q f s).pending = s.pending ∧ (modSq q f s).cdx.mem = s.cdx.mem ∧ (modSq q f s).cdx.colophon = s.cdx.colophon := by
  unfold modSq
  simp

@[simp] theorem modCq_core (q : Nat) (f : Cq → Cq) (s : State) :
    (modCq q f s).pending = s.pending ∧ (modCq q f s).cdx.mem = s.cdx.mem ∧ (modCq q f s).cdx.colophon = s.cdx.colophon := by
  unfold modCq
  simp

@[simp] theorem failEntry_core (qid cid : Nat) (s : State) :
    (failEntry qid cid s).pending = s.pending ∧ (failEntry qid cid s).cdx.mem = s.cdx.mem ∧ (failEntry qid cid s).cdx.colophon = s.cdx.colophon := by
  unfold failEntry
  (repeat' split) <;> simp

@[simp] theorem failData_core (slot : Nat) (s : State) :
    (failData slot s).pending = s.pending ∧ (failData slot s).cdx.mem = s.cdx.mem ∧ (failData slot s).cdx.colophon = s.cdx.colophon := by
  unfold failData
  (repeat' split) <;> simp

@[simp] theorem failTlp_core (k : TlpKind) (s : State) :
    (failTlp k s).pending = s.pending ∧ (failTlp k s).cdx.mem = s.cdx.mem ∧ (failTlp k s).cdx.colophon = s.cdx.colophon := by
  unfold failTlp
  (repeat' split) <;> simp

theorem execPoisonedTlp_core (k : TlpKind) (ecrc : Bool) (s : State) (t : State) (h : execPoisonedTlp k ecrc s = .next t) :
    (t).pending = s.pending ∧ (t).cdx.mem = s.cdx.mem ∧ (t).cdx.colophon = s.cdx.colophon := by
  unfold execPoisonedTlp at h
  injection h with h
  subst h
  (repeat' split) <;> simp

theorem execCompletionTimeout_core (k : TlpKind) (s : State) (t : State) (h : execCompletionTimeout k s = .next t) :
    (t).pending = s.pending ∧ (t).cdx.mem = s.cdx.mem ∧ (t).cdx.colophon = s.cdx.colophon := by
  unfold execCompletionTimeout at h
  injection h with h
  subst h
  (repeat' split) <;> simp

theorem execUnexpectedCompletion_core (s : State) (t : State) (h : execUnexpectedCompletion s = .next t) :
    (t).pending = s.pending ∧ (t).cdx.mem = s.cdx.mem ∧ (t).cdx.colophon = s.cdx.colophon := by
  unfold execUnexpectedCompletion at h
  injection h with h
  subst h
  (repeat' split) <;> simp

theorem execUnsupportedRequest_core (nonPosted : Bool) (s : State) (t : State) (h : execUnsupportedRequest nonPosted s = .next t) :
    (t).pending = s.pending ∧ (t).cdx.mem = s.cdx.mem ∧ (t).cdx.colophon = s.cdx.colophon := by
  unfold execUnsupportedRequest at h
  injection h with h
  subst h
  (repeat' split) <;> simp

theorem execMalformedTlp_core (x_kind : Nat) (s : State) (t : State) (h : execMalformedTlp x_kind s = .next t) :
    (t).pending = s.pending ∧ (t).cdx.mem = s.cdx.mem ∧ (t).cdx.colophon = s.cdx.colophon := by
  unfold execMalformedTlp at h
  injection h with h
  subst h
  (repeat' split) <;> simp

theorem execCorrectableLinkError_core (kind : Nat) (s : State) (t : State) (h : execCorrectableLinkError kind s = .next t) :
    (t).pending = s.pending ∧ (t).cdx.mem = s.cdx.mem ∧ (t).cdx.colophon = s.cdx.colophon := by
  unfold execCorrectableLinkError at h
  injection h with h
  subst h
  (repeat' split) <;> simp

theorem execAspmL1_core (enter : Bool) (substate : Nat) (s : State) (t : State) (h : execAspmL1 enter substate s = .next t) :
    (t).pending = s.pending ∧ (t).cdx.mem = s.cdx.mem ∧ (t).cdx.colophon = s.cdx.colophon := by
  unfold execAspmL1 at h
  injection h with h
  subst h
  (repeat' split) <;> simp

theorem execDStateChange_core (d3hot : Bool) (s : State) (t : State) (h : execDStateChange d3hot s = .next t) :
    (t).pending = s.pending ∧ (t).cdx.mem = s.cdx.mem ∧ (t).cdx.colophon = s.cdx.colophon := by
  unfold execDStateChange at h
  injection h with h
  subst h
  (repeat' split) <;> simp

@[simp] theorem dropAll_core (s : State) :
    (dropAll s).pending = s.pending ∧ (dropAll s).cdx.mem = s.cdx.mem ∧ (dropAll s).cdx.colophon = s.cdx.colophon := by
  unfold dropAll
  simp [foldl_core]

@[simp] theorem forgetReads_core (p : Nat → Bool) (s : State) :
    (forgetReads p s).pending = s.pending ∧ (forgetReads p s).cdx.mem = s.cdx.mem ∧ (forgetReads p s).cdx.colophon = s.cdx.colophon := by
  unfold forgetReads
  simp

@[simp] theorem controllerReset_core (s : State) :
    (controllerReset s).pending = s.pending ∧ (controllerReset s).cdx.mem = s.cdx.mem ∧ (controllerReset s).cdx.colophon = s.cdx.colophon := by
  unfold controllerReset
  simp

@[simp] theorem hostReset_core (kind : Nat) (s : State) :
    (hostReset kind s).pending = s.pending ∧ (hostReset kind s).cdx.mem = s.cdx.mem ∧ (hostReset kind s).cdx.colophon = s.cdx.colophon := by
  unfold hostReset
  simp

@[simp] theorem resetConfig_core (s : State) :
    (resetConfig s).pending = s.pending ∧ (resetConfig s).cdx.mem = s.cdx.mem ∧ (resetConfig s).cdx.colophon = s.cdx.colophon := by
  unfold resetConfig
  simp

@[simp] theorem lockOnHot_core (s : State) :
    (lockOnHot s).pending = s.pending ∧ (lockOnHot s).cdx.mem = s.cdx.mem ∧ (lockOnHot s).cdx.colophon = s.cdx.colophon := by
  unfold lockOnHot
  simp

theorem execFunctionLevelReset_core (s : State) (t : State) (h : execFunctionLevelReset s = .next t) :
    (t).pending = s.pending ∧ (t).cdx.mem = s.cdx.mem ∧ (t).cdx.colophon = s.cdx.colophon := by
  unfold execFunctionLevelReset at h
  injection h with h
  subst h
  (repeat' split) <;> simp

theorem execHotReset_core (s : State) (t : State) (h : execHotReset s = .next t) :
    (t).pending = s.pending ∧ (t).cdx.mem = s.cdx.mem ∧ (t).cdx.colophon = s.cdx.colophon := by
  unfold execHotReset at h
  injection h with h
  subst h
  (repeat' split) <;> simp

theorem execLinkDown_core (s : State) (t : State) (h : execLinkDown s = .next t) :
    (t).pending = s.pending ∧ (t).cdx.mem = s.cdx.mem ∧ (t).cdx.colophon = s.cdx.colophon := by
  unfold execLinkDown at h
  injection h with h
  subst h
  (repeat' split) <;> simp

@[simp] theorem badDoorbell_core (info : Nat) (s : State) :
    (badDoorbell info s).pending = s.pending ∧ (badDoorbell info s).cdx.mem = s.cdx.mem ∧ (badDoorbell info s).cdx.colophon = s.cdx.colophon := by
  unfold badDoorbell
  (repeat' split) <;> simp

theorem execSqTailDoorbell_core (qid tail : Nat) (s : State) (t : State) (h : execSqTailDoorbell qid tail s = .next t) :
    (t).pending = s.pending ∧ (t).cdx.mem = s.cdx.mem ∧ (t).cdx.colophon = s.cdx.colophon := by
  unfold execSqTailDoorbell at h
  injection h with h
  subst h
  (repeat' split) <;> simp

theorem execCqHeadDoorbell_core (qid head : Nat) (s : State) (t : State) (h : execCqHeadDoorbell qid head s = .next t) :
    (t).pending = s.pending ∧ (t).cdx.mem = s.cdx.mem ∧ (t).cdx.colophon = s.cdx.colophon := by
  unfold execCqHeadDoorbell at h
  injection h with h
  subst h
  (repeat' split) <;> simp

@[simp] theorem takeEntry_core (slot : Nat) (q : Sq) (e : SqEntry) (s : State) :
    (takeEntry slot q e s).pending = s.pending ∧ (takeEntry slot q e s).cdx.mem = s.cdx.mem ∧ (takeEntry slot q e s).cdx.colophon = s.cdx.colophon := by
  unfold takeEntry
  simp

@[simp] theorem fetchEntry_core (slot qid : Nat) (e : SqEntry) (s : State) :
    (fetchEntry slot qid e s).pending = s.pending ∧ (fetchEntry slot qid e s).cdx.mem = s.cdx.mem ∧ (fetchEntry slot qid e s).cdx.colophon = s.cdx.colophon := by
  unfold fetchEntry
  (repeat' split) <;> simp

@[simp] theorem setVector_core (v : VectorSt) (s : State) :
    (setVector v s).pending = s.pending ∧ (setVector v s).cdx.mem = s.cdx.mem ∧ (setVector v s).cdx.colophon = s.cdx.colophon := by
  unfold setVector
  simp

@[simp] theorem emitMsix_core (v : Nat) (s : State) :
    (emitMsix v s).pending = s.pending ∧ (emitMsix v s).cdx.mem = s.cdx.mem ∧ (emitMsix v s).cdx.colophon = s.cdx.colophon := by
  unfold emitMsix
  (repeat' split) <;> simp

@[simp] theorem sendMsix_core (v : Nat) (s : State) :
    (sendMsix v s).pending = s.pending ∧ (sendMsix v s).cdx.mem = s.cdx.mem ∧ (sendMsix v s).cdx.colophon = s.cdx.colophon := by
  unfold sendMsix
  simp

@[simp] theorem notify_core (v : Nat) (s : State) :
    (notify v s).pending = s.pending ∧ (notify v s).cdx.mem = s.cdx.mem ∧ (notify v s).cdx.colophon = s.cdx.colophon := by
  unfold notify
  (repeat' split) <;> simp

@[simp] theorem postEntry_core (c : Completion) (q : Cq) (s : State) :
    (postEntry c q s).pending = s.pending ∧ (postEntry c q s).cdx.mem = s.cdx.mem ∧ (postEntry c q s).cdx.colophon = s.cdx.colophon := by
  unfold postEntry
  (repeat' split) <;> simp

theorem execCompletionPost_core (s : State) (t : State) (h : execCompletionPost s = .next t) :
    (t).pending = s.pending ∧ (t).cdx.mem = s.cdx.mem ∧ (t).cdx.colophon = s.cdx.colophon := by
  unfold execCompletionPost at h
  injection h with h
  subst h
  (repeat' split) <;> simp

theorem execInterruptCoalesceExpiry_core (vector : Nat) (s : State) (t : State) (h : execInterruptCoalesceExpiry vector s = .next t) :
    (t).pending = s.pending ∧ (t).cdx.mem = s.cdx.mem ∧ (t).cdx.colophon = s.cdx.colophon := by
  unfold execInterruptCoalesceExpiry at h
  injection h with h
  subst h
  (repeat' split) <;> simp

end Sys2Proof.Machine
end

