-- ==== Sys2Proof/Laws/FrameAdmin.lean ====
section
/-! SUPPORT. What the definitions of Machine/Admin.lean keep of the queue, the Codex array and the Colophon row. -/

namespace Sys2Proof.Machine

@[simp] theorem holdAdmin_core (slot : Nat) (s : State) :
    (holdAdmin slot s).pending = s.pending ∧ (holdAdmin slot s).cdx.mem = s.cdx.mem ∧ (holdAdmin slot s).cdx.colophon = s.cdx.colophon := by
  unfold holdAdmin
  simp

@[simp] theorem runAdmin_core (slot : Nat) (pick : SqEntry → Bool) (f : Cmd → State → State) (s : State)
    (h : ∀ c t, (f c t).pending = t.pending ∧ (f c t).cdx.mem = t.cdx.mem ∧ (f c t).cdx.colophon = t.cdx.colophon) :
    (runAdmin slot pick f s).pending = s.pending ∧ (runAdmin slot pick f s).cdx.mem = s.cdx.mem ∧
      (runAdmin slot pick f s).cdx.colophon = s.cdx.colophon := by
  unfold runAdmin
  (repeat' split) <;> simp [h]

/-- What an admin command's own effect keeps, the frame it runs in keeps too. -/
theorem runAdmin_kept (slot : Nat) (pick : SqEntry → Bool) (f : Cmd → State → State) (s : State)
    (h : ∀ c t, CoreKept t (f c t)) : CoreKept s (runAdmin slot pick f s) := by
  unfold runAdmin
  repeat' split
  all_goals first | exact h _ _ | exact .of_eq (by simp)

theorem execInvalidAdminOpcode_core (slot : Nat) (s : State) (t : State) (h : execInvalidAdminOpcode slot s = .next t) :
    (t).pending = s.pending ∧ (t).cdx.mem = s.cdx.mem ∧ (t).cdx.colophon = s.cdx.colophon := by
  unfold execInvalidAdminOpcode at h
  injection h with h
  subst h
  simp

@[simp] theorem abortQueue_core (q : Nat) (s : State) :
    (abortQueue q s).pending = s.pending ∧ (abortQueue q s).cdx.mem = s.cdx.mem ∧ (abortQueue q s).cdx.colophon = s.cdx.colophon := by
  unfold abortQueue
  simp [foldl_core]

@[simp] theorem deleteSq_core (slot : Nat) (c : Cmd) (s : State) :
    (deleteSq slot c s).pending = s.pending ∧ (deleteSq slot c s).cdx.mem = s.cdx.mem ∧ (deleteSq slot c s).cdx.colophon = s.cdx.colophon := by
  unfold deleteSq
  repeat' (first | split | simp [foldl_core])

theorem execDeleteIoSubmissionQueue_core (slot : Nat) (s : State) (t : State) (h : execDeleteIoSubmissionQueue slot s = .next t) :
    (t).pending = s.pending ∧ (t).cdx.mem = s.cdx.mem ∧ (t).cdx.colophon = s.cdx.colophon := by
  unfold execDeleteIoSubmissionQueue at h
  injection h with h
  subst h
  simp

@[simp] theorem createSq_core (slot : Nat) (c : Cmd) (s : State) :
    (createSq slot c s).pending = s.pending ∧ (createSq slot c s).cdx.mem = s.cdx.mem ∧ (createSq slot c s).cdx.colophon = s.cdx.colophon := by
  unfold createSq
  repeat' (first | split | simp [foldl_core])

theorem execCreateIoSubmissionQueue_core (slot : Nat) (s : State) (t : State) (h : execCreateIoSubmissionQueue slot s = .next t) :
    (t).pending = s.pending ∧ (t).cdx.mem = s.cdx.mem ∧ (t).cdx.colophon = s.cdx.colophon := by
  unfold execCreateIoSubmissionQueue at h
  injection h with h
  subst h
  simp

@[simp] theorem deleteCq_core (slot : Nat) (c : Cmd) (s : State) :
    (deleteCq slot c s).pending = s.pending ∧ (deleteCq slot c s).cdx.mem = s.cdx.mem ∧ (deleteCq slot c s).cdx.colophon = s.cdx.colophon := by
  unfold deleteCq
  repeat' (first | split | simp [foldl_core])

theorem execDeleteIoCompletionQueue_core (slot : Nat) (s : State) (t : State) (h : execDeleteIoCompletionQueue slot s = .next t) :
    (t).pending = s.pending ∧ (t).cdx.mem = s.cdx.mem ∧ (t).cdx.colophon = s.cdx.colophon := by
  unfold execDeleteIoCompletionQueue at h
  injection h with h
  subst h
  simp

@[simp] theorem createCq_core (slot : Nat) (c : Cmd) (s : State) :
    (createCq slot c s).pending = s.pending ∧ (createCq slot c s).cdx.mem = s.cdx.mem ∧ (createCq slot c s).cdx.colophon = s.cdx.colophon := by
  unfold createCq
  repeat' (first | split | simp [foldl_core])

theorem execCreateIoCompletionQueue_core (slot : Nat) (s : State) (t : State) (h : execCreateIoCompletionQueue slot s = .next t) :
    (t).pending = s.pending ∧ (t).cdx.mem = s.cdx.mem ∧ (t).cdx.colophon = s.cdx.colophon := by
  unfold execCreateIoCompletionQueue at h
  injection h with h
  subst h
  simp

@[simp] theorem abortCmd_core (slot : Nat) (c : Cmd) (s : State) :
    (abortCmd slot c s).pending = s.pending ∧ (abortCmd slot c s).cdx.mem = s.cdx.mem ∧ (abortCmd slot c s).cdx.colophon = s.cdx.colophon := by
  unfold abortCmd
  (repeat' split) <;> simp

theorem execAbort_core (slot : Nat) (s : State) (t : State) (h : execAbort slot s = .next t) :
    (t).pending = s.pending ∧ (t).cdx.mem = s.cdx.mem ∧ (t).cdx.colophon = s.cdx.colophon := by
  unfold execAbort at h
  injection h with h
  subst h
  simp

@[simp] theorem setFeat_core (f : Features → Features) (s : State) :
    (setFeat f s).pending = s.pending ∧ (setFeat f s).cdx.mem = s.cdx.mem ∧ (setFeat f s).cdx.colophon = s.cdx.colophon := by
  unfold setFeat
  simp

theorem execSetFeaturesArbitration_core (slot : Nat) (s : State) (t : State) (h : execSetFeaturesArbitration slot s = .next t) :
    (t).pending = s.pending ∧ (t).cdx.mem = s.cdx.mem ∧ (t).cdx.colophon = s.cdx.colophon := by
  unfold execSetFeaturesArbitration at h
  injection h with h
  subst h
  simp

theorem execSetFeaturesPowerManagement_core (slot : Nat) (s : State) (t : State) (h : execSetFeaturesPowerManagement slot s = .next t) :
    (t).pending = s.pending ∧ (t).cdx.mem = s.cdx.mem ∧ (t).cdx.colophon = s.cdx.colophon := by
  unfold execSetFeaturesPowerManagement at h
  grind [runAdmin_core, finishErr_core, finishOk_core, setFeat_core, foldl_core]

theorem execSetFeaturesTemperatureThreshold_core (slot : Nat) (s : State) (t : State) (h : execSetFeaturesTemperatureThreshold slot s = .next t) :
    (t).pending = s.pending ∧ (t).cdx.mem = s.cdx.mem ∧ (t).cdx.colophon = s.cdx.colophon := by
  unfold execSetFeaturesTemperatureThreshold at h
  grind [runAdmin_core, finishErr_core, finishOk_core, setFeat_core, foldl_core]

theorem execSetFeaturesNumberOfQueues_core (slot : Nat) (s : State) (t : State) (h : execSetFeaturesNumberOfQueues slot s = .next t) :
    (t).pending = s.pending ∧ (t).cdx.mem = s.cdx.mem ∧ (t).cdx.colophon = s.cdx.colophon := by
  unfold execSetFeaturesNumberOfQueues at h
  injection h with h
  subst h
  simp

theorem execSetFeaturesInterruptCoalescing_core (slot : Nat) (s : State) (t : State) (h : execSetFeaturesInterruptCoalescing slot s = .next t) :
    (t).pending = s.pending ∧ (t).cdx.mem = s.cdx.mem ∧ (t).cdx.colophon = s.cdx.colophon := by
  unfold execSetFeaturesInterruptCoalescing at h
  injection h with h
  subst h
  simp

theorem execSetFeaturesIntVectorConfig_core (slot : Nat) (s : State) (t : State) (h : execSetFeaturesIntVectorConfig slot s = .next t) :
    (t).pending = s.pending ∧ (t).cdx.mem = s.cdx.mem ∧ (t).cdx.colophon = s.cdx.colophon := by
  unfold execSetFeaturesIntVectorConfig at h
  grind [runAdmin_core, finishErr_core, finishOk_core, setVector_core, foldl_core]

theorem execSetFeaturesWriteAtomicity_core (slot : Nat) (s : State) (t : State) (h : execSetFeaturesWriteAtomicity slot s = .next t) :
    (t).pending = s.pending ∧ (t).cdx.mem = s.cdx.mem ∧ (t).cdx.colophon = s.cdx.colophon := by
  unfold execSetFeaturesWriteAtomicity at h
  injection h with h
  subst h
  simp

theorem execSetFeaturesAsyncEventConfig_core (slot : Nat) (s : State) (t : State) (h : execSetFeaturesAsyncEventConfig slot s = .next t) :
    (t).pending = s.pending ∧ (t).cdx.mem = s.cdx.mem ∧ (t).cdx.colophon = s.cdx.colophon := by
  unfold execSetFeaturesAsyncEventConfig at h
  injection h with h
  subst h
  simp

theorem execSetFeaturesTimestamp_core (slot ms : Nat) (s : State) (t : State) (h : execSetFeaturesTimestamp slot ms s = .next t) :
    (t).pending = s.pending ∧ (t).cdx.mem = s.cdx.mem ∧ (t).cdx.colophon = s.cdx.colophon := by
  unfold execSetFeaturesTimestamp at h
  injection h with h
  subst h
  simp

theorem execSetFeaturesUnsupported_core (slot : Nat) (s : State) (t : State) (h : execSetFeaturesUnsupported slot s = .next t) :
    (t).pending = s.pending ∧ (t).cdx.mem = s.cdx.mem ∧ (t).cdx.colophon = s.cdx.colophon := by
  unfold execSetFeaturesUnsupported at h
  injection h with h
  subst h
  simp

@[simp] theorem getFeature_core (slot : Nat) (c : Cmd) (s : State) :
    (getFeature slot c s).pending = s.pending ∧ (getFeature slot c s).cdx.mem = s.cdx.mem ∧ (getFeature slot c s).cdx.colophon = s.cdx.colophon := by
  unfold getFeature
  (repeat' split) <;> simp

theorem execGetFeatures_core (slot : Nat) (s : State) (t : State) (h : execGetFeatures slot s = .next t) :
    (t).pending = s.pending ∧ (t).cdx.mem = s.cdx.mem ∧ (t).cdx.colophon = s.cdx.colophon := by
  unfold execGetFeatures at h
  injection h with h
  subst h
  simp

@[simp] theorem takeAer_core (slot : Nat) (x_c : Cmd) (s : State) :
    (takeAer slot x_c s).pending = s.pending ∧ (takeAer slot x_c s).cdx.mem = s.cdx.mem ∧ (takeAer slot x_c s).cdx.colophon = s.cdx.colophon := by
  unfold takeAer
  (repeat' split) <;> simp

theorem execAsynchronousEventRequest_core (slot : Nat) (s : State) (t : State) (h : execAsynchronousEventRequest slot s = .next t) :
    (t).pending = s.pending ∧ (t).cdx.mem = s.cdx.mem ∧ (t).cdx.colophon = s.cdx.colophon := by
  unfold execAsynchronousEventRequest at h
  injection h with h
  subst h
  simp

@[simp] theorem writeBar0_core (off size value : Nat) (s : State) :
    (writeBar0 off size value s).pending = s.pending ∧ (writeBar0 off size value s).cdx.mem = s.cdx.mem ∧ (writeBar0 off size value s).cdx.colophon = s.cdx.colophon := by
  unfold writeBar0
  (repeat' split) <;> simp

@[simp] theorem writeMsix_core (i value : Nat) (s : State) :
    (writeMsix i value s).pending = s.pending ∧ (writeMsix i value s).cdx.mem = s.cdx.mem ∧ (writeMsix i value s).cdx.colophon = s.cdx.colophon := by
  unfold writeMsix
  repeat' (first | split | simp [foldl_core])

end Sys2Proof.Machine
end

