-- ==== Sys2Proof/Laws/FramePlacement.lean ====
section
/-! SUPPORT. What the definitions of Machine/Placement.lean keep of the queue, the Codex array and the Colophon row. -/

namespace Sys2Proof.Machine

theorem issueCard_core (s : State) (b0 : Nat) (out : State) (hout : issueCard s = some (b0, out)) :
    (out).pending = s.pending ∧ (out).cdx.mem = s.cdx.mem ∧ (out).cdx.colophon = s.cdx.colophon := by
  unfold issueCard at hout
  grind [foldl_core]

theorem issueRun_core (s : State) (b0 : Nat) (out : State) (hout : issueRun s = some (b0, out)) :
    (out).pending = s.pending ∧ (out).cdx.mem = s.cdx.mem ∧ (out).cdx.colophon = s.cdx.colophon := by
  unfold issueRun at hout
  grind [foldl_core]

@[simp] theorem setOverflow_core (s : State) :
    (setOverflow s).pending = s.pending ∧ (setOverflow s).cdx.mem = s.cdx.mem ∧ (setOverflow s).cdx.colophon = s.cdx.colophon := by
  unfold setOverflow
  simp

@[simp] theorem noteRecord_core (slot : Nat) (ppas : List Ppa) (s : State) :
    (noteRecord slot ppas s).pending = s.pending ∧ (noteRecord slot ppas s).cdx.mem = s.cdx.mem ∧ (noteRecord slot ppas s).cdx.colophon = s.cdx.colophon := by
  unfold noteRecord
  simp

theorem appendNow_core (r : LedgerRec) (s : State)  (out : State) (hout : appendNow r s = some out) :
    (out).pending = s.pending ∧ (out).cdx.mem = s.cdx.mem ∧ (out).cdx.colophon = s.cdx.colophon := by
  unfold appendNow at hout
  grind [append_core, foldl_core]

@[simp] theorem addHostCards_core (past : Bool) (cards : List TransitCard) (s : State) :
    (addHostCards past cards s).pending = s.pending ∧ (addHostCards past cards s).cdx.mem = s.cdx.mem ∧ (addHostCards past cards s).cdx.colophon = s.cdx.colophon := by
  unfold addHostCards
  simp

theorem bookCards_core (slot : Nat) (r : OpenRow) (cells : List Nat) (list : List (Nat × Nat × Nat)) (ppas : List Ppa)
    (rec : LedgerRec) (s t : State) (h : bookCards slot r cells list ppas rec s = some t) :
    t.pending = s.pending ∧ t.cdx.mem = s.cdx.mem ∧ t.cdx.colophon = s.cdx.colophon := by
  unfold bookCards at h
  rw [Option.map_eq_some_iff] at h
  obtain ⟨u, h3, h4⟩ := h
  have k3 := appendNow_core _ _ u h3
  rw [(fillCells_core _ _ _).1, (fillCells_core _ _ _).2.1, (fillCells_core _ _ _).2.2,
    (noteList_core _ _ _).1, (noteList_core _ _ _).2.1, (noteList_core _ _ _).2.2] at k3
  rw [← h4]
  have k4 := noteRecord_core slot ppas u
  exact ⟨k4.1.trans k3.1, k4.2.1.trans k3.2.1, k4.2.2.trans k3.2.2⟩

theorem placeCard_core (slot : Nat) (c : Cmd) (n : Namespace) (bypass : Bool) (shelf i lba : Nat) (data : List Nat)
    (pick : Nat) (s t : State) (h : placeCard slot c n bypass shelf i lba data pick s = some t) :
    t.pending = s.pending ∧ t.cdx.mem = s.cdx.mem ∧ t.cdx.colophon = s.cdx.colophon := by
  unfold placeCard at h
  split at h
  · cases h
  · rename_i acc s1 h1
    have k1 := issueCard_core s acc s1 h1
    split at h
    split at h
    · cases h
    · rename_i r cells s2 h2
      have k2 := takeCells_core _ _ _ _ _ _ _ _ _ _ h2
      split at h
      · cases h
      · have k3 := bookCards_core _ _ _ _ _ _ _ t h
        rw [(addHostCards_core _ _ _).1, (addHostCards_core _ _ _).2.1, (addHostCards_core _ _ _).2.2] at k3
        exact ⟨k3.1.trans (k2.1.trans k1.1), k3.2.1.trans (k2.2.1.trans k1.2.1), k3.2.2.trans (k2.2.2.trans k1.2.2)⟩

theorem placeRun_core (slot : Nat) (c : Cmd) (n : Namespace) (bypass : Bool) (shelf lba : Nat) (data : Nat → List Nat)
    (pick : Nat) (s t : State) (h : placeRun slot c n bypass shelf lba data pick s = some t) :
    t.pending = s.pending ∧ t.cdx.mem = s.cdx.mem ∧ t.cdx.colophon = s.cdx.colophon := by
  unfold placeRun at h
  split at h
  · cases h
  · rename_i acc s1 h1
    have k1 := issueRun_core s acc s1 h1
    split at h
    split at h
    · cases h
    · rename_i r cells s2 h2
      have k2 := takeCells_core _ _ _ _ _ _ _ _ _ _ h2
      split at h
      · cases h
      · have k3 := bookCards_core _ _ _ _ _ _ _ t h
        rw [(addHostCards_core _ _ _).1, (addHostCards_core _ _ _).2.1, (addHostCards_core _ _ _).2.2] at k3
        exact ⟨k3.1.trans (k2.1.trans k1.1), k3.2.1.trans (k2.2.1.trans k1.2.1), k3.2.2.trans (k2.2.2.trans k1.2.2)⟩

theorem placePiece_core (slot : Nat) (c : Cmd) (n : Namespace) (first count pick : Nat) (p : Piece) (s : State)  (out : State) (hout : placePiece slot c n first count pick p s = some out) :
    (out).pending = s.pending ∧ (out).cdx.mem = s.cdx.mem ∧ (out).cdx.colophon = s.cdx.colophon := by
  unfold placePiece at hout
  grind [placeRun_core, placeCard_core, foldl_core]

theorem placePieces_core (slot : Nat) (c : Cmd) (n : Namespace) (first count : Nat) (picks : List Nat) (l : List Piece)
    (s t : State) (h : placePieces slot c n first count picks l s = some t) :
    t.pending = s.pending ∧ t.cdx.mem = s.cdx.mem ∧ t.cdx.colophon = s.cdx.colophon := by
  induction l generalizing picks s with
  | nil => unfold placePieces at h; cases h; exact ⟨rfl, rfl, rfl⟩
  | cons p l ih =>
    unfold placePieces at h
    split at h
    · cases h
    · rename_i u hu
      have k := placePiece_core _ _ _ _ _ _ _ _ u hu
      have k' := ih _ _ h
      simp_all

@[simp] theorem handToGroup_core (slot : Nat) (s : State) :
    (handToGroup slot s).pending = s.pending ∧ (handToGroup slot s).cdx.mem = s.cdx.mem ∧ (handToGroup slot s).cdx.colophon = s.cdx.colophon := by
  unfold handToGroup
  simp

@[simp] theorem markPlaced_core (slot : Nat) (s : State) :
    (markPlaced slot s).pending = s.pending ∧ (markPlaced slot s).cdx.mem = s.cdx.mem ∧ (markPlaced slot s).cdx.colophon = s.cdx.colophon := by
  unfold markPlaced
  simp

@[simp] theorem placeWrite_core (slot : Nat) (picks : List Nat) (s : State) :
    (placeWrite slot picks s).pending = s.pending ∧ (placeWrite slot picks s).cdx.mem = s.cdx.mem ∧ (placeWrite slot picks s).cdx.colophon = s.cdx.colophon := by
  unfold placeWrite
  grind [placePieces_core, setOverflow_core, handToGroup_core, settleWrites_core, freeTransit_core, markPlaced_core, stallRow_core, modCmd_core, foldl_core]

@[simp] theorem askLock_core (slot shelf card : Nat) (s : State) :
    (askLock slot shelf card s).pending = s.pending ∧ (askLock slot shelf card s).cdx.mem = s.cdx.mem ∧ (askLock slot shelf card s).cdx.colophon = s.cdx.colophon := by
  unfold askLock
  (repeat' split) <;> simp

@[simp] theorem passLock_core (shelf card : Nat) (s : State) :
    (passLock shelf card s).pending = s.pending ∧ (passLock shelf card s).cdx.mem = s.cdx.mem ∧ (passLock shelf card s).cdx.colophon = s.cdx.colophon := by
  unfold passLock
  simp

@[simp] theorem donePartial_core (slot shelf i lba : Nat) (s : State) :
    (donePartial slot shelf i lba s).pending = s.pending ∧ (donePartial slot shelf i lba s).cdx.mem = s.cdx.mem ∧ (donePartial slot shelf i lba s).cdx.colophon = s.cdx.colophon := by
  unfold donePartial
  simp

@[simp] theorem failCard_core (slot lba : Nat) (st : Nat × Nat) (s : State) :
    (failCard slot lba st s).pending = s.pending ∧ (failCard slot lba st s).cdx.mem = s.cdx.mem ∧ (failCard slot lba st s).cdx.colophon = s.cdx.colophon := by
  unfold failCard
  simp

@[simp] theorem mergeOld_core (slot shelf i : Nat) (sectors : List Nat) (pick : Nat) (s : State) :
    (mergeOld slot shelf i sectors pick s).pending = s.pending ∧ (mergeOld slot shelf i sectors pick s).cdx.mem = s.cdx.mem ∧ (mergeOld slot shelf i sectors pick s).cdx.colophon = s.cdx.colophon := by
  unfold mergeOld
  grind [placeCard_core, setOverflow_core, donePartial_core, stallRow_core, modCmd_core, foldl_core]

@[simp] theorem failPartial_core (slot shelf i : Nat) (st : Nat × Nat) (s : State) :
    (failPartial slot shelf i st s).pending = s.pending ∧ (failPartial slot shelf i st s).cdx.mem = s.cdx.mem ∧ (failPartial slot shelf i st s).cdx.colophon = s.cdx.colophon := by
  unfold failPartial
  (repeat' split) <;> simp

@[simp] theorem obtainOld_core (slot shelf i pick : Nat) (s : State) :
    (obtainOld slot shelf i pick s).pending = s.pending ∧ (obtainOld slot shelf i pick s).cdx.mem = s.cdx.mem ∧ (obtainOld slot shelf i pick s).cdx.colophon = s.cdx.colophon := by
  unfold obtainOld
  (repeat' split) <;> simp

@[simp] theorem grantLock_core (slot shelf i : Nat) (picks : List Nat) (s : State) :
    (grantLock slot shelf i picks s).pending = s.pending ∧ (grantLock slot shelf i picks s).cdx.mem = s.cdx.mem ∧ (grantLock slot shelf i picks s).cdx.colophon = s.cdx.colophon := by
  unfold grantLock
  (repeat' split) <;> simp

@[simp] theorem resumeLocks_core (s : State) :
    (resumeLocks s).pending = s.pending ∧ (resumeLocks s).cdx.mem = s.cdx.mem ∧ (resumeLocks s).cdx.colophon = s.cdx.colophon := by
  unfold resumeLocks
  simp [foldl_core]

@[simp] theorem resumeHeld_core (s : State) :
    (resumeHeld s).pending = s.pending ∧ (resumeHeld s).cdx.mem = s.cdx.mem ∧ (resumeHeld s).cdx.colophon = s.cdx.colophon := by
  unfold resumeHeld
  simp [foldl_core]

@[simp] theorem failPi_core (slot : Nat) (i : Nat) (st : Nat × Nat) (n : Namespace) (s : State) :
    (failPi slot i st n s).pending = s.pending ∧ (failPi slot i st n s).cdx.mem = s.cdx.mem ∧ (failPi slot i st n s).cdx.colophon = s.cdx.colophon := by
  unfold failPi
  (repeat' split) <;> simp

@[simp] theorem dataArrived_core (slot : Nat) (data picks : List Nat) (info : List (Nat × Nat × Nat)) (s : State) :
    (dataArrived slot data picks info s).pending = s.pending ∧ (dataArrived slot data picks info s).cdx.mem = s.cdx.mem ∧ (dataArrived slot data picks info s).cdx.colophon = s.cdx.colophon := by
  unfold dataArrived
  repeat' (first | split | simp [foldl_core])

end Sys2Proof.Machine
end

