-- ==== Sys2Proof/Laws/FrameDeliver.lean ====
section
/-! SUPPORT. What the definitions of Machine/Deliver.lean keep of the queue, the Codex array and the Colophon row. -/

namespace Sys2Proof.Machine

@[simp] theorem deliverCard_core (slot lba : Nat) (sectors : List Nat) (foxed : Bool) (s : State) :
    (deliverCard slot lba sectors foxed s).pending = s.pending ∧ (deliverCard slot lba sectors foxed s).cdx.mem = s.cdx.mem ∧ (deliverCard slot lba sectors foxed s).cdx.colophon = s.cdx.colophon := by
  unfold deliverCard
  (repeat' split) <;> simp

@[simp] theorem finishReads_core (slot : Nat) (s : State) :
    (finishReads slot s).pending = s.pending ∧ (finishReads slot s).cdx.mem = s.cdx.mem ∧ (finishReads slot s).cdx.colophon = s.cdx.colophon := by
  unfold finishReads
  (repeat' split) <;> simp

@[simp] theorem bite_core (slot lba : Nat) (st : Nat × Nat) (sectors : List Nat) (s : State) :
    (bite slot lba st sectors s).pending = s.pending ∧ (bite slot lba st sectors s).cdx.mem = s.cdx.mem ∧ (bite slot lba st sectors s).cdx.colophon = s.cdx.colophon := by
  unfold bite
  (repeat' split) <;> simp

@[simp] theorem deliver_core (slot lba : Nat) (sectors : List Nat) (s : State) :
    (deliver slot lba sectors s).pending = s.pending ∧ (deliver slot lba sectors s).cdx.mem = s.cdx.mem ∧ (deliver slot lba sectors s).cdx.colophon = s.cdx.colophon := by
  unfold deliver
  simp

end Sys2Proof.Machine
end

