-- ==== Sys2Proof/Laws/FrameModes.lean ====
section
/-! SUPPORT. What the definitions of Machine/Modes.lean keep of the queue, the Codex array and the Colophon row. -/

namespace Sys2Proof.Machine

@[simp] theorem settleDegraded_core (s : State) :
    (settleDegraded s).pending = s.pending ∧ (settleDegraded s).cdx.mem = s.cdx.mem ∧ (settleDegraded s).cdx.colophon = s.cdx.colophon := by
  unfold settleDegraded
  repeat' (first | split | simp [foldl_core])

@[simp] theorem loseMember_core (s : State) :
    (loseMember s).pending = s.pending ∧ (loseMember s).cdx.mem = s.cdx.mem ∧ (loseMember s).cdx.colophon = s.cdx.colophon := by
  unfold loseMember
  (repeat' split) <;> simp

end Sys2Proof.Machine
end

