-- ==== Sys2Proof/Laws/FrameCodex.lean ====
section
/-! SUPPORT. What the definitions of Machine/Codex.lean keep of the queue, the Codex array and the Colophon row. -/

namespace Sys2Proof.Machine

@[simp] theorem modBlock_core (n : Nat) (f : SetBlock → SetBlock) (s : State) :
    (modBlock n f s).pending = s.pending ∧ (modBlock n f s).cdx.mem = s.cdx.mem ∧ (modBlock n f s).cdx.colophon = s.cdx.colophon := by
  unfold modBlock
  simp

@[simp] theorem dropSector_core (n : Nat) (s : State) :
    (dropSector n s).pending = s.pending ∧ (dropSector n s).cdx.mem = s.cdx.mem ∧
      (dropSector n s).cdx.colophon = s.cdx.colophon := by
  unfold dropSector
  repeat' apply ite_core
  all_goals simp

theorem clearBytes_core (n : Nat) (s : State) : CoreKept s (clearBytes n s) :=
  ⟨rfl, fun _ _ h _ => h, fun h => filter_canonical _ _ _ 0 h⟩

@[simp] theorem askErase_core (n : Nat) (s : State) :
    (askErase n s).pending = s.pending ∧ (askErase n s).cdx.mem = s.cdx.mem ∧ (askErase n s).cdx.colophon = s.cdx.colophon := by
  unfold askErase
  (repeat' split) <;> simp

@[simp] theorem eraseSectors_core (l : List Nat) (s : State) :
    (eraseSectors l s).pending = s.pending ∧ (eraseSectors l s).cdx.mem = s.cdx.mem ∧ (eraseSectors l s).cdx.colophon = s.cdx.colophon := by
  unfold eraseSectors
  simp [foldl_core]

@[simp] theorem rtAppend_core (key binding value : Nat) (s : State) :
    (rtAppend key binding value s).pending = s.pending ∧ (rtAppend key binding value s).cdx.mem = s.cdx.mem ∧ (rtAppend key binding value s).cdx.colophon = s.cdx.colophon := by
  unfold rtAppend
  simp

@[simp] theorem rtRotate_core (s : State) :
    (rtRotate s).pending = s.pending ∧ (rtRotate s).cdx.mem = s.cdx.mem ∧ (rtRotate s).cdx.colophon = s.cdx.colophon := by
  unfold rtRotate
  simp [foldl_core]

@[simp] theorem storeRt_core (key value : Nat) (s : State) :
    (storeRt key value s).pending = s.pending ∧ (storeRt key value s).cdx.mem = s.cdx.mem ∧ (storeRt key value s).cdx.colophon = s.cdx.colophon := by
  unfold storeRt
  (repeat' split) <;> simp

@[simp] theorem drainRt_core (s : State) :
    (drainRt s).pending = s.pending ∧ (drainRt s).cdx.mem = s.cdx.mem ∧ (drainRt s).cdx.colophon = s.cdx.colophon := by
  unfold drainRt
  repeat' (first | split | simp [foldl_core])

@[simp] theorem clearStatus_core (s : State) :
    (clearStatus s).pending = s.pending ∧ (clearStatus s).cdx.mem = s.cdx.mem ∧ (clearStatus s).cdx.colophon = s.cdx.colophon := by
  unfold clearStatus
  simp

@[simp] theorem sequenceError_core (s : State) :
    (sequenceError s).pending = s.pending ∧ (sequenceError s).cdx.mem = s.cdx.mem ∧ (sequenceError s).cdx.colophon = s.cdx.colophon := by
  unfold sequenceError
  simp

@[simp] theorem refuse_core (locked : Bool) (s : State) :
    (refuse locked s).pending = s.pending ∧ (refuse locked s).cdx.mem = s.cdx.mem ∧ (refuse locked s).cdx.colophon = s.cdx.colophon := by
  unfold refuse
  simp

@[simp] theorem startProgram_core (r : CodexReq) (s : State) :
    (startProgram r s).pending = s.pending ∧ (startProgram r s).cdx.mem = s.cdx.mem ∧ (startProgram r s).cdx.colophon = s.cdx.colophon := by
  unfold startProgram
  repeat' (first | split | simp [foldl_core])

@[simp] theorem startErase_core (who addr : Nat) (s : State) :
    (startErase who addr s).pending = s.pending ∧ (startErase who addr s).cdx.mem = s.cdx.mem ∧ (startErase who addr s).cdx.colophon = s.cdx.colophon := by
  unfold startErase
  repeat' (first | split | simp [foldl_core])

@[simp] theorem codexRequest_core (r : CodexReq) (s : State) :
    (codexRequest r s).pending = s.pending ∧ (codexRequest r s).cdx.mem = s.cdx.mem ∧ (codexRequest r s).cdx.colophon = s.cdx.colophon := by
  unfold codexRequest
  (repeat' split) <;> simp

@[simp] theorem programSeq_core (who addr : Nat) (bytes : List Byte) (spell : Option CodexSpell) (s : State) :
    (programSeq who addr bytes spell s).pending = s.pending ∧ (programSeq who addr bytes spell s).cdx.mem = s.cdx.mem ∧ (programSeq who addr bytes spell s).cdx.colophon = s.cdx.colophon := by
  unfold programSeq
  (repeat' split) <;> simp

@[simp] theorem eraseSeq_core (who addr : Nat) (s : State) :
    (eraseSeq who addr s).pending = s.pending ∧ (eraseSeq who addr s).cdx.mem = s.cdx.mem ∧ (eraseSeq who addr s).cdx.colophon = s.cdx.colophon := by
  unfold eraseSeq
  (repeat' split) <;> simp

theorem execCodexProgram_core (who addr : Nat) (bytes : List Byte) (spell : Option CodexSpell) (s : State) (t : State) (h : execCodexProgram who addr bytes spell s = .next t) :
    (t).pending = s.pending ∧ (t).cdx.mem = s.cdx.mem ∧ (t).cdx.colophon = s.cdx.colophon := by
  unfold execCodexProgram at h
  repeat' (first | split at h | (injection h with h; subst h) | simp at h)
  all_goals simp [foldl_core]

theorem execCodexSectorErase_core (who addr : Nat) (s : State) (t : State) (h : execCodexSectorErase who addr s = .next t) :
    (t).pending = s.pending ∧ (t).cdx.mem = s.cdx.mem ∧ (t).cdx.colophon = s.cdx.colophon := by
  unfold execCodexSectorErase at h
  repeat' (first | split at h | (injection h with h; subst h) | simp at h)
  all_goals simp [foldl_core]

theorem andByte_core (a : Nat) (b : Byte) (s : State) : CoreKept s (andByte a b s) :=
  ⟨rfl, fun _ _ h _ => h, fun h => mapPut_canonical _ _ _ _ h⟩

theorem andBytes_core (a : Nat) (l : List Byte) (s : State) : CoreKept s (andBytes a l s) := by
  induction l generalizing a s with
  | nil => exact .refl s
  | cons b l ih => exact (andByte_core a b s).trans (ih _ _)

theorem undefPage_core (page : Nat) (s : State) : CoreKept s (undefPage page s) := by
  refine ⟨by simp [undefPage], fun n g h _ => by simpa [undefPage] using h, fun h => ?_⟩
  simp only [State.memWf, undefPage, drawFree]
  exact foldl_canonical _ (fun m _ hm => mapPut_canonical _ _ _ m hm) _ _ h

@[simp] theorem spellSector_core (n : Nat) (spell : Option CodexSpell) (s : State) :
    (spellSector n spell s).pending = s.pending ∧ (spellSector n spell s).cdx.mem = s.cdx.mem ∧ (spellSector n spell s).cdx.colophon = s.cdx.colophon := by
  unfold spellSector
  (repeat' split) <;> simp

theorem endProgram_core (r : CodexReq) (ok : Bool) (s : State) : CoreKept s (endProgram r ok s) := by
  have h0 : ∀ k : Nat, CoreKept s { s with cdx := { s.cdx with
      progging := none, pageProgs := mapSet (r.addr / 256) k s.cdx.pageProgs } } := fun k => .of_eq ⟨rfl, rfl, rfl⟩
  unfold endProgram
  refine CoreKept.then_eq ?_ (spellSector_core _ _ _)
  split
  · exact ((h0 _).trans (andBytes_core _ _ _)).trans (undefPage_core _ _)
  · exact (h0 _).trans (andBytes_core _ _ _)

theorem execCodexProgramDone_core (ok : Bool) (s t : State) (h : execCodexProgramDone ok s = .next t) :
    CoreKept s t := by
  unfold execCodexProgramDone at h
  injection h with h
  subst h
  split
  · exact .refl s
  · rename_i r _
    exact (endProgram_core r ok s).then_eq (drainRt_core _)

@[simp] theorem sectorErased_core (n : Nat) (s : State) :
    (sectorErased n s).pending = s.pending ∧ (sectorErased n s).cdx.mem = s.cdx.mem ∧ (sectorErased n s).cdx.colophon = s.cdx.colophon := by
  unfold sectorErased
  (repeat' split) <;> simp

theorem eraseArray_core (s : State) : CoreKept s (eraseArray s) := by
  have h := foldl_core (fun t n => dropSector n t) (fun t n => dropSector_core n t) (List.range 144) s
  unfold eraseArray
  generalize (List.range 144).foldl (fun t n => dropSector n t) s = t at h
  exact ⟨h.1, fun n g hg _ => by rw [← h.2.2] at hg; exact hg, fun _ => rfl⟩

theorem execCodexEraseDone_core (verifyOk : Bool) (s t : State) (h : execCodexEraseDone verifyOk s = .next t) :
    CoreKept s t := by
  have h0 : CoreKept s { s with cdx := { s.cdx with erasing := none, erSusp := false } } := .of_eq ⟨rfl, rfl, rfl⟩
  unfold execCodexEraseDone at h
  injection h with h
  subst h
  refine ite_kept (eraseArray_core s) ?_
  split
  · exact .refl s
  · rename_i n _
    refine ite_kept (.refl s) (ite_kept ?_ (.of_eq ⟨rfl, rfl, rfl⟩))
    have h1 := h0.trans (clearBytes_core n _)
    exact CoreKept.then_eq (CoreKept.then_eq h1 ⟨rfl, rfl, rfl⟩) (sectorErased_core n _)

theorem execCodexEraseSuspend_core (s : State) (t : State) (h : execCodexEraseSuspend s = .next t) :
    (t).pending = s.pending ∧ (t).cdx.mem = s.cdx.mem ∧ (t).cdx.colophon = s.cdx.colophon := by
  unfold execCodexEraseSuspend at h
  injection h with h
  subst h
  (repeat' split) <;> simp

theorem execCodexEraseResume_core (s : State) (t : State) (h : execCodexEraseResume s = .next t) :
    (t).pending = s.pending ∧ (t).cdx.mem = s.cdx.mem ∧ (t).cdx.colophon = s.cdx.colophon := by
  unfold execCodexEraseResume at h
  injection h with h
  subst h
  (repeat' split) <;> simp

theorem execCodexStatus_core (s : State) (t : State) (h : execCodexStatus s = .next t) :
    (t).pending = s.pending ∧ (t).cdx.mem = s.cdx.mem ∧ (t).cdx.colophon = s.cdx.colophon := by
  unfold execCodexStatus at h
  injection h with h
  subst h
  (repeat' split) <;> simp

@[simp] theorem flagQuery_core (addr : Nat) (s : State) :
    (flagQuery addr s).pending = s.pending ∧ (flagQuery addr s).cdx.mem = s.cdx.mem ∧ (flagQuery addr s).cdx.colophon = s.cdx.colophon := by
  unfold flagQuery
  (repeat' split) <;> simp

theorem execCodexFlagCellQuery_core (addr : Nat) (s : State) (t : State) (h : execCodexFlagCellQuery addr s = .next t) :
    (t).pending = s.pending ∧ (t).cdx.mem = s.cdx.mem ∧ (t).cdx.colophon = s.cdx.colophon := by
  unfold execCodexFlagCellQuery at h
  repeat' (first | split at h | (injection h with h; subst h) | simp at h)
  all_goals simp [foldl_core]

@[simp] theorem enterContinuous_core (addr : Nat) (s : State) :
    (enterContinuous addr s).pending = s.pending ∧ (enterContinuous addr s).cdx.mem = s.cdx.mem ∧ (enterContinuous addr s).cdx.colophon = s.cdx.colophon := by
  unfold enterContinuous
  (repeat' split) <;> simp

theorem execCodexContinuousReadEnter_core (addr : Nat) (s : State) (t : State) (h : execCodexContinuousReadEnter addr s = .next t) :
    (t).pending = s.pending ∧ (t).cdx.mem = s.cdx.mem ∧ (t).cdx.colophon = s.cdx.colophon := by
  unfold execCodexContinuousReadEnter at h
  repeat' (first | split at h | (injection h with h; subst h) | simp at h)
  all_goals simp [foldl_core]

@[simp] theorem exitContinuous_core (s : State) :
    (exitContinuous s).pending = s.pending ∧ (exitContinuous s).cdx.mem = s.cdx.mem ∧ (exitContinuous s).cdx.colophon = s.cdx.colophon := by
  unfold exitContinuous
  simp

theorem execCodexContinuousReadExit_core (s : State) (t : State) (h : execCodexContinuousReadExit s = .next t) :
    (t).pending = s.pending ∧ (t).cdx.mem = s.cdx.mem ∧ (t).cdx.colophon = s.cdx.colophon := by
  unfold execCodexContinuousReadExit at h
  injection h with h
  subst h
  (repeat' split) <;> simp

@[simp] theorem arrayErase_core (passThrough : Bool) (s : State) :
    (arrayErase passThrough s).pending = s.pending ∧ (arrayErase passThrough s).cdx.mem = s.cdx.mem ∧ (arrayErase passThrough s).cdx.colophon = s.cdx.colophon := by
  unfold arrayErase
  (repeat' split) <;> simp

theorem execCodexArrayErase_core (passThrough : Bool) (s : State) (t : State) (h : execCodexArrayErase passThrough s = .next t) :
    (t).pending = s.pending ∧ (t).cdx.mem = s.cdx.mem ∧ (t).cdx.colophon = s.cdx.colophon := by
  unfold execCodexArrayErase at h
  injection h with h
  subst h
  (repeat' split) <;> simp

theorem execCodexSequenceError_core (s : State) (t : State) (h : execCodexSequenceError s = .next t) :
    (t).pending = s.pending ∧ (t).cdx.mem = s.cdx.mem ∧ (t).cdx.colophon = s.cdx.colophon := by
  unfold execCodexSequenceError at h
  injection h with h
  subst h
  (repeat' split) <;> simp

theorem colProgram_core (addr : Nat) (bytes : List Byte) (s : State) : CoreKept s (colProgram addr bytes s) := by
  unfold colProgram
  simp only []
  split
  · exact .of_eq (by simp)
  · rename_i g hg
    split
    · exact .of_eq (by simp)
    · split
      · exact .of_eq (by simp)
      · rename_i hl
        refine ⟨by simp, ?_, fun h => by simpa [State.memWf] using h⟩
        intro n x hx hk
        simp only [clearStatus_core]
        by_cases e : (addr - 0x4000000) / 512 = n
        · rw [e] at hg
          rw [hg] at hx
          simp_all
        · rw [List.getElem?_set_ne e]; exact hx

theorem execColophonProgram_core (addr : Nat) (bytes : List Byte) (s t : State)
    (h : execColophonProgram addr bytes s = .next t) : CoreKept s t := by
  unfold execColophonProgram at h
  injection h with h
  subst h
  repeat' split
  all_goals first
    | exact colProgram_core _ _ _
    | exact .of_eq (by simp)

theorem colLock_core (mask : Nat) (s : State) : CoreKept s (colLock mask s) := by
  unfold colLock
  simp only []
  split
  · exact .of_eq (by simp)
  · refine ⟨by simp, ?_, fun h => by simpa [State.memWf] using h⟩
    intro n x hx hk
    simp only [clearStatus_core, List.getElem?_mapIdx, hx, Option.map_some]
    split
    · cases x; simp_all
    · rfl

theorem execColophonLock_core (mask : Nat) (s t : State) (h : execColophonLock mask s = .next t) : CoreKept s t := by
  unfold execColophonLock at h
  injection h with h
  subst h
  split
  · exact colLock_core mask s
  · exact .refl s

@[simp] theorem swapTo_core (t : Nat) (s : State) :
    (swapTo t s).pending = s.pending ∧ (swapTo t s).cdx.mem = s.cdx.mem ∧ (swapTo t s).cdx.colophon = s.cdx.colophon := by
  unfold swapTo
  repeat' (first | split | simp [foldl_core])

theorem execEndpaperSwap_core (who target : Nat) (s : State) (t : State) (h : execEndpaperSwap who target s = .next t) :
    (t).pending = s.pending ∧ (t).cdx.mem = s.cdx.mem ∧ (t).cdx.colophon = s.cdx.colophon := by
  unfold execEndpaperSwap at h
  injection h with h
  subst h
  (repeat' split) <;> simp

@[simp] theorem serveCodex_core (ran5ms : Bool) (s : State) :
    (serveCodex ran5ms s).pending = s.pending ∧ (serveCodex ran5ms s).cdx.mem = s.cdx.mem ∧ (serveCodex ran5ms s).cdx.colophon = s.cdx.colophon := by
  unfold serveCodex
  (repeat' split) <;> simp

theorem execCodexRequestServe_core (ran5ms : Bool) (s : State) (t : State) (h : execCodexRequestServe ran5ms s = .next t) :
    (t).pending = s.pending ∧ (t).cdx.mem = s.cdx.mem ∧ (t).cdx.colophon = s.cdx.colophon := by
  unfold execCodexRequestServe at h
  injection h with h
  subst h
  (repeat' split) <;> simp

@[simp] theorem setCxPage_core (value : Word32) (s : State) :
    (setCxPage value s).pending = s.pending ∧ (setCxPage value s).cdx.mem = s.cdx.mem ∧ (setCxPage value s).cdx.colophon = s.cdx.colophon := by
  unfold setCxPage
  (repeat' split) <;> simp

@[simp] theorem setCxAddr_core (value : Word32) (s : State) :
    (setCxAddr value s).pending = s.pending ∧ (setCxAddr value s).cdx.mem = s.cdx.mem ∧ (setCxAddr value s).cdx.colophon = s.cdx.colophon := by
  unfold setCxAddr
  (repeat' split) <;> simp

theorem execKsCxPageWrite_core (value : Word32) (s : State) (t : State) (h : execKsCxPageWrite value s = .next t) :
    (t).pending = s.pending ∧ (t).cdx.mem = s.cdx.mem ∧ (t).cdx.colophon = s.cdx.colophon := by
  unfold execKsCxPageWrite at h
  injection h with h
  subst h
  (repeat' split) <;> simp

theorem execKsCxAddrWrite_core (value : Word32) (s : State) (t : State) (h : execKsCxAddrWrite value s = .next t) :
    (t).pending = s.pending ∧ (t).cdx.mem = s.cdx.mem ∧ (t).cdx.colophon = s.cdx.colophon := by
  unfold execKsCxAddrWrite at h
  injection h with h
  subst h
  (repeat' split) <;> simp

@[simp] theorem keepCycles_core (l : List (Nat × Nat)) (s : State) :
    (keepCycles l s).pending = s.pending ∧ (keepCycles l s).cdx.mem = s.cdx.mem ∧ (keepCycles l s).cdx.colophon = s.cdx.colophon := by
  unfold keepCycles
  simp

theorem doneCycles_core (f : State → State) (s : State)
    (h : ∀ u, (f u).pending = u.pending ∧ (f u).cdx.mem = u.cdx.mem ∧ (f u).cdx.colophon = u.cdx.colophon) :
    (doneCycles f s).pending = s.pending ∧ (doneCycles f s).cdx.mem = s.cdx.mem ∧
      (doneCycles f s).cdx.colophon = s.cdx.colophon := by
  simp [doneCycles, h]

theorem doneCycles_kept (f : State → State) (s : State) (h : ∀ u, CoreKept u (f u)) :
    CoreKept s (doneCycles f s) :=
  CoreKept.trans (.of_eq (by simp)) (h _)

theorem programCycles_core (code : Nat) (l rest : List (Nat × Nat)) (spell : Option CodexSpell) (s : State) :
    CoreKept s (programCycles code l rest spell s) := by
  have k : CoreKept s (keepCycles l s) := .of_eq (keepCycles_core l s)
  have e : CoreKept s (sequenceError s) := .of_eq (sequenceError_core s)
  unfold programCycles
  split
  · exact k
  · refine ite_kept e (ite_kept k ?_)
    split
    · refine ite_kept e (ite_kept ?_ (ite_kept e ?_))
      · exact doneCycles_kept _ _ fun u => .of_eq (programSeq_core _ _ _ _ u)
      · exact doneCycles_kept _ _ fun u => colProgram_core _ _ u
    · exact e

theorem runCode_core (code : Nat) (l rest : List (Nat × Nat)) (spell : Option CodexSpell) (s : State) :
    CoreKept s (runCode code l rest spell s) := by
  unfold runCode
  split
  all_goals first
    | exact programCycles_core _ _ _ _ _
    | exact doneCycles_kept _ _ (fun u => colLock_core _ u)
    | exact doneCycles_kept _ _ (fun u => .of_eq (by simp))
    | exact .of_eq (by simp)

theorem runCycles_core (l : List (Nat × Nat)) (spell : Option CodexSpell) (s : State) :
    CoreKept s (runCycles l spell s) := by
  unfold runCycles
  repeat' split
  all_goals first
    | exact runCode_core _ _ _ _ _
    | exact .of_eq (by simp)

theorem writeCxData_core (value : Word32) (gapNs : Nat) (spell : Option CodexSpell) (s : State) :
    CoreKept s (writeCxData value gapNs spell s) := by
  unfold writeCxData
  refine ite_kept (.refl s) ?_
  refine CoreKept.then_eq (t := if _ then sequenceError s else runCycles _ spell s) ?_ ⟨rfl, rfl, rfl⟩
  split
  · exact .of_eq (by simp)
  · exact runCycles_core _ _ _

theorem execKsCxDataWrite_core (value : Word32) (gapNs : Nat) (spell : Option CodexSpell) (s t : State)
    (h : execKsCxDataWrite value gapNs spell s = .next t) : CoreKept s t := by
  unfold execKsCxDataWrite at h
  injection h with h
  subst h
  exact writeCxData_core value gapNs spell s

end Sys2Proof.Machine
end

