-- ==== Sys2Proof/Laws/FramePeloton.lean ====
section
/-! SUPPORT. What the definitions of Machine/Peloton.lean keep of the queue, the Codex array and the Colophon row. -/

namespace Sys2Proof.Machine

@[simp] theorem modPort_core (p : Nat) (f : Port → Port) (s : State) :
    (modPort p f s).pending = s.pending ∧ (modPort p f s).cdx.mem = s.cdx.mem ∧ (modPort p f s).cdx.colophon = s.cdx.colophon := by
  unfold modPort
  simp

@[simp] theorem countUnroute_core (s : State) :
    (countUnroute s).pending = s.pending ∧ (countUnroute s).cdx.mem = s.cdx.mem ∧ (countUnroute s).cdx.colophon = s.cdx.colophon := by
  unfold countUnroute
  simp

@[simp] theorem enqueue_core (port req : Nat) (h : PacketHdr) (b : PktBody) (whole : Bool) (s : State) :
    (enqueue port req h b whole s).pending = s.pending ∧ (enqueue port req h b whole s).cdx.mem = s.cdx.mem ∧ (enqueue port req h b whole s).cdx.colophon = s.cdx.colophon := by
  unfold enqueue
  simp

@[simp] theorem sendPacket_core (h : PacketHdr) (b : PktBody) (s : State) :
    (sendPacket h b s).pending = s.pending ∧ (sendPacket h b s).cdx.mem = s.cdx.mem ∧ (sendPacket h b s).cdx.colophon = s.cdx.colophon := by
  unfold sendPacket
  (repeat' split) <;> simp

@[simp] theorem answer_core (h : PacketHdr) (ptype arg0 : Nat) (b : PktBody) (s : State) :
    (answer h ptype arg0 b s).pending = s.pending ∧ (answer h ptype arg0 b s).cdx.mem = s.cdx.mem ∧ (answer h ptype arg0 b s).cdx.colophon = s.cdx.colophon := by
  unfold answer
  simp

@[simp] theorem sendDone_core (h : PacketHdr) (st : Nat × Nat) (s : State) :
    (sendDone h st s).pending = s.pending ∧ (sendDone h st s).cdx.mem = s.cdx.mem ∧ (sendDone h st s).cdx.colophon = s.cdx.colophon := by
  unfold sendDone
  simp

@[simp] theorem sendBackoff_core (h : PacketHdr) (reason : Nat) (s : State) :
    (sendBackoff h reason s).pending = s.pending ∧ (sendBackoff h reason s).cdx.mem = s.cdx.mem ∧ (sendBackoff h reason s).cdx.colophon = s.cdx.colophon := by
  unfold sendBackoff
  simp

@[simp] theorem windowTake_core (h : PacketHdr) (s : State) :
    (windowTake h s).pending = s.pending ∧ (windowTake h s).cdx.mem = s.cdx.mem ∧ (windowTake h s).cdx.colophon = s.cdx.colophon := by
  unfold windowTake
  simp

@[simp] theorem accept_core (t : Nat) (h : PacketHdr) (s : State) :
    ((accept t h s).2).pending = s.pending ∧ ((accept t h s).2).cdx.mem = s.cdx.mem ∧ ((accept t h s).2).cdx.colophon = s.cdx.colophon := by
  unfold accept
  grind [windowTake_core, foldl_core]

@[simp] theorem onPacket_core (t : Nat) (h : PacketHdr) (f : State → State) (s : State)
    (k : ∀ u, (f u).pending = u.pending ∧ (f u).cdx.mem = u.cdx.mem ∧ (f u).cdx.colophon = u.cdx.colophon) :
    (onPacket t h f s).pending = s.pending ∧ (onPacket t h f s).cdx.mem = s.cdx.mem ∧
      (onPacket t h f s).cdx.colophon = s.cdx.colophon := by
  have e := accept_core t h s
  unfold onPacket
  split <;> rename_i s1 he <;> simp [he] at e <;> simp [k, e]

theorem onPacket_kept (t : Nat) (h : PacketHdr) (f : State → State) (s : State) (k : ∀ u, CoreKept u (f u)) :
    CoreKept s (onPacket t h f s) := by
  have e := accept_core t h s
  unfold onPacket
  split <;> rename_i s1 he <;> simp [he] at e
  · exact CoreKept.trans (.of_eq (by simp [e])) (k _)
  · exact .of_eq (by simp [e])

theorem execReservedPacket_core (h : PacketHdr) (s : State) (out : State) (k : execReservedPacket h s = .next out) :
    (out).pending = s.pending ∧ (out).cdx.mem = s.cdx.mem ∧ (out).cdx.colophon = s.cdx.colophon := by
  unfold execReservedPacket at k
  injection k with k
  subst k
  (repeat' split) <;> simp

theorem execPacketCrcFail_core (port : Nat) (s : State) (t : State) (h : execPacketCrcFail port s = .next t) :
    (t).pending = s.pending ∧ (t).cdx.mem = s.cdx.mem ∧ (t).cdx.colophon = s.cdx.colophon := by
  unfold execPacketCrcFail at h
  injection h with h
  subst h
  (repeat' split) <;> simp

@[simp] theorem requeue_core (p : Nat) (s : State) :
    (requeue p s).pending = s.pending ∧ (requeue p s).cdx.mem = s.cdx.mem ∧ (requeue p s).cdx.colophon = s.cdx.colophon := by
  unfold requeue
  simp

@[simp] theorem dropPartial_core (p : Nat) (s : State) :
    (dropPartial p s).pending = s.pending ∧ (dropPartial p s).cdx.mem = s.cdx.mem ∧ (dropPartial p s).cdx.colophon = s.cdx.colophon := by
  unfold dropPartial
  simp

@[simp] theorem loseLink_core (p : Nat) (s : State) :
    (loseLink p s).pending = s.pending ∧ (loseLink p s).cdx.mem = s.cdx.mem ∧ (loseLink p s).cdx.colophon = s.cdx.colophon := by
  unfold loseLink
  repeat' (first | split | simp [foldl_core])

theorem execFecLockLoss_core (port : Nat) (s : State) (t : State) (h : execFecLockLoss port s = .next t) :
    (t).pending = s.pending ∧ (t).cdx.mem = s.cdx.mem ∧ (t).cdx.colophon = s.cdx.colophon := by
  unfold execFecLockLoss at h
  injection h with h
  subst h
  (repeat' split) <;> simp

@[simp] theorem gatePort_core (p : Nat) (shut : Bool) (s : State) :
    (gatePort p shut s).pending = s.pending ∧ (gatePort p shut s).cdx.mem = s.cdx.mem ∧ (gatePort p shut s).cdx.colophon = s.cdx.colophon := by
  unfold gatePort
  simp

theorem execPartnerAliveLow_core (port ns : Nat) (s : State) (t : State) (h : execPartnerAliveLow port ns s = .next t) :
    (t).pending = s.pending ∧ (t).cdx.mem = s.cdx.mem ∧ (t).cdx.colophon = s.cdx.colophon := by
  unfold execPartnerAliveLow at h
  injection h with h
  subst h
  (repeat' split) <;> simp

@[simp] theorem startTraining_core (p : Nat) (s : State) :
    (startTraining p s).pending = s.pending ∧ (startTraining p s).cdx.mem = s.cdx.mem ∧ (startTraining p s).cdx.colophon = s.cdx.colophon := by
  unfold startTraining
  simp

theorem execPartnerAliveRise_core (port : Nat) (s : State) (t : State) (h : execPartnerAliveRise port s = .next t) :
    (t).pending = s.pending ∧ (t).cdx.mem = s.cdx.mem ∧ (t).cdx.colophon = s.cdx.colophon := by
  unfold execPartnerAliveRise at h
  injection h with h
  subst h
  (repeat' split) <;> simp

@[simp] theorem sendControl_core (p ptype num arg0 arg1 : Nat) (b : PulseBody) (s : State) :
    (sendControl p ptype num arg0 arg1 b s).pending = s.pending ∧ (sendControl p ptype num arg0 arg1 b s).cdx.mem = s.cdx.mem ∧ (sendControl p ptype num arg0 arg1 b s).cdx.colophon = s.cdx.colophon := by
  unfold sendControl
  simp

theorem execPortFecLock_core (port width : Nat) (s : State) (t : State) (h : execPortFecLock port width s = .next t) :
    (t).pending = s.pending ∧ (t).cdx.mem = s.cdx.mem ∧ (t).cdx.colophon = s.cdx.colophon := by
  unfold execPortFecLock at h
  injection h with h
  subst h
  (repeat' split) <;> simp

theorem execFailedTrainingAttempt_core (port : Nat) (s : State) (t : State) (h : execFailedTrainingAttempt port s = .next t) :
    (t).pending = s.pending ∧ (t).cdx.mem = s.cdx.mem ∧ (t).cdx.colophon = s.cdx.colophon := by
  unfold execFailedTrainingAttempt at h
  injection h with h
  subst h
  repeat' (first | split | simp [foldl_core])

theorem execTrainingRetryExpiry_core (port : Nat) (s : State) (t : State) (h : execTrainingRetryExpiry port s = .next t) :
    (t).pending = s.pending ∧ (t).cdx.mem = s.cdx.mem ∧ (t).cdx.colophon = s.cdx.colophon := by
  unfold execTrainingRetryExpiry at h
  injection h with h
  subst h
  (repeat' split) <;> simp

@[simp] theorem fencePort_core (port reason serial : Nat) (s : State) :
    (fencePort port reason serial s).pending = s.pending ∧ (fencePort port reason serial s).cdx.mem = s.cdx.mem ∧ (fencePort port reason serial s).cdx.colophon = s.cdx.colophon := by
  unfold fencePort
  simp

theorem execHello_core (h : PacketHdr) (b : PulseBody) (level1 numberingAuto : Bool) (s : State) (out : State) (k : execHello h b level1 numberingAuto s = .next out) :
    (out).pending = s.pending ∧ (out).cdx.mem = s.cdx.mem ∧ (out).cdx.colophon = s.cdx.colophon := by
  unfold execHello at k
  injection k with k
  subst k
  (repeat' split) <;> simp

@[simp] theorem takePulse_core (b : PulseBody) (s : State) :
    (takePulse b s).pending = s.pending ∧ (takePulse b s).cdx.mem = s.cdx.mem ∧ (takePulse b s).cdx.colophon = s.cdx.colophon := by
  unfold takePulse
  simp

@[simp] theorem flood_core (h : PacketHdr) (b : PulseBody) (s : State) :
    (flood h b s).pending = s.pending ∧ (flood h b s).cdx.mem = s.cdx.mem ∧ (flood h b s).cdx.colophon = s.cdx.colophon := by
  unfold flood
  simp [foldl_core]

@[simp] theorem fenceDuplicates_core (s : State) :
    (fenceDuplicates s).pending = s.pending ∧ (fenceDuplicates s).cdx.mem = s.cdx.mem ∧ (fenceDuplicates s).cdx.colophon = s.cdx.colophon := by
  unfold fenceDuplicates
  repeat' (first | split | simp [foldl_core])

@[simp] theorem pulseIn_core (h : PacketHdr) (b : PulseBody) (s : State) :
    (pulseIn h b s).pending = s.pending ∧ (pulseIn h b s).cdx.mem = s.cdx.mem ∧ (pulseIn h b s).cdx.colophon = s.cdx.colophon := by
  unfold pulseIn
  (repeat' split) <;> simp

theorem execPulseSend_core (s : State) (t : State) (h : execPulseSend s = .next t) :
    (t).pending = s.pending ∧ (t).cdx.mem = s.cdx.mem ∧ (t).cdx.colophon = s.cdx.colophon := by
  unfold execPulseSend at h
  injection h with h
  subst h
  repeat' (first | split | simp [foldl_core])

@[simp] theorem takeNumber_core (n : Nat) (s : State) :
    (takeNumber n s).pending = s.pending ∧ (takeNumber n s).cdx.mem = s.cdx.mem ∧ (takeNumber n s).cdx.colophon = s.cdx.colophon := by
  unfold takeNumber
  simp

@[simp] theorem giveNumber_core (x : Nat × Nat) (s : State) :
    (giveNumber x s).pending = s.pending ∧ (giveNumber x s).cdx.mem = s.cdx.mem ∧ (giveNumber x s).cdx.colophon = s.cdx.colophon := by
  unfold giveNumber
  repeat' (first | split | simp [foldl_core])

theorem execRoadCaptainStable_core (s : State) (t : State) (h : execRoadCaptainStable s = .next t) :
    (t).pending = s.pending ∧ (t).cdx.mem = s.cdx.mem ∧ (t).cdx.colophon = s.cdx.colophon := by
  unfold execRoadCaptainStable at h
  injection h with h
  subst h
  repeat' (first | split | simp [foldl_core])

theorem execHelloAssign_core (h : PacketHdr) (b : PulseBody) (number serial : Nat) (s : State) (out : State) (k : execHelloAssign h b number serial s = .next out) :
    (out).pending = s.pending ∧ (out).cdx.mem = s.cdx.mem ∧ (out).cdx.colophon = s.cdx.colophon := by
  unfold execHelloAssign at k
  injection k with k
  subst k
  (repeat' split) <;> simp

@[simp] theorem writeRoutes_core (prefer : List Nat) (s : State) :
    (writeRoutes prefer s).pending = s.pending ∧ (writeRoutes prefer s).cdx.mem = s.cdx.mem ∧ (writeRoutes prefer s).cdx.colophon = s.cdx.colophon := by
  unfold writeRoutes
  simp [foldl_core]

theorem execRoutingTableWrite_core (prefer : List Nat) (s : State) (t : State) (h : execRoutingTableWrite prefer s = .next t) :
    (t).pending = s.pending ∧ (t).cdx.mem = s.cdx.mem ∧ (t).cdx.colophon = s.cdx.colophon := by
  unfold execRoutingTableWrite at h
  injection h with h
  subst h
  (repeat' split) <;> simp

@[simp] theorem takeAck_core (p ack : Nat) (s : State) :
    (takeAck p ack s).pending = s.pending ∧ (takeAck p ack s).cdx.mem = s.cdx.mem ∧ (takeAck p ack s).cdx.colophon = s.cdx.colophon := by
  unfold takeAck
  simp

@[simp] theorem takeNak_core (p ack : Nat) (s : State) :
    (takeNak p ack s).pending = s.pending ∧ (takeNak p ack s).cdx.mem = s.cdx.mem ∧ (takeNak p ack s).cdx.colophon = s.cdx.colophon := by
  unfold takeNak
  repeat' (first | split | simp [foldl_core])

theorem execFlitNak_core (port ack : Nat) (s : State) (t : State) (h : execFlitNak port ack s = .next t) :
    (t).pending = s.pending ∧ (t).cdx.mem = s.cdx.mem ∧ (t).cdx.colophon = s.cdx.colophon := by
  unfold execFlitNak at h
  injection h with h
  subst h
  (repeat' split) <;> simp

@[simp] theorem modEgress_core (p : Nat) (f : Egress → Egress) (s : State) :
    (modEgress p f s).pending = s.pending ∧ (modEgress p f s).cdx.mem = s.cdx.mem ∧ (modEgress p f s).cdx.colophon = s.cdx.colophon := by
  unfold modEgress
  simp

@[simp] theorem sendFlit_core (p : Nat) (x : OutPkt) (s : State) :
    (sendFlit p x s).pending = s.pending ∧ (sendFlit p x s).cdx.mem = s.cdx.mem ∧ (sendFlit p x s).cdx.colophon = s.cdx.colophon := by
  unfold sendFlit
  simp

@[simp] theorem grantSlot_core (p : Nat) (s : State) :
    (grantSlot p s).pending = s.pending ∧ (grantSlot p s).cdx.mem = s.cdx.mem ∧ (grantSlot p s).cdx.colophon = s.cdx.colophon := by
  unfold grantSlot
  (repeat' split) <;> simp

@[simp] theorem forwardFlit_core (p : Nat) (f : FlitIn) (s : State) :
    (forwardFlit p f s).pending = s.pending ∧ (forwardFlit p f s).cdx.mem = s.cdx.mem ∧ (forwardFlit p f s).cdx.colophon = s.cdx.colophon := by
  unfold forwardFlit
  (repeat' split) <;> simp

@[simp] theorem goodFlit_core (p : Nat) (f : FlitIn) (s : State) :
    (goodFlit p f s).pending = s.pending ∧ (goodFlit p f s).cdx.mem = s.cdx.mem ∧ (goodFlit p f s).cdx.colophon = s.cdx.colophon := by
  unfold goodFlit
  repeat' (first | split | simp [foldl_core])

theorem execFlitReceive_core (port : Nat) (f : FlitIn) (s : State) (t : State) (h : execFlitReceive port f s = .next t) :
    (t).pending = s.pending ∧ (t).cdx.mem = s.cdx.mem ∧ (t).cdx.colophon = s.cdx.colophon := by
  unfold execFlitReceive at h
  injection h with h
  subst h
  (repeat' split) <;> simp

end Sys2Proof.Machine
end

