-- ==== Sys2Proof/Laws/FrameEchelon.lean ====
section
/-! SUPPORT. What the definitions of Machine/Echelon.lean keep of the queue, the Codex array and the Colophon row. -/

namespace Sys2Proof.Machine

@[simp] theorem modEch_core (e : Nat) (f : EchelonSt → EchelonSt) (s : State) :
    (modEch e f s).pending = s.pending ∧ (modEch e f s).cdx.mem = s.cdx.mem ∧ (modEch e f s).cdx.colophon = s.cdx.colophon := by
  unfold modEch
  simp

@[simp] theorem settleAna_core (s : State) :
    (settleAna s).pending = s.pending ∧ (settleAna s).cdx.mem = s.cdx.mem ∧ (settleAna s).cdx.colophon = s.cdx.colophon := by
  unfold settleAna
  apply foldl_core
  intro s a
  repeat' (first | split | simp [foldl_core])

@[simp] theorem sendRequest_core (index : Nat) (r : OutReq) (s : State) :
    (sendRequest index r s).pending = s.pending ∧ (sendRequest index r s).cdx.mem = s.cdx.mem ∧ (sendRequest index r s).cdx.colophon = s.cdx.colophon := by
  unfold sendRequest
  simp

@[simp] theorem startRequest_core (r : OutReq) (s : State) :
    (startRequest r s).pending = s.pending ∧ (startRequest r s).cdx.mem = s.cdx.mem ∧ (startRequest r s).cdx.colophon = s.cdx.colophon := by
  unfold startRequest
  (repeat' split) <;> simp

@[simp] theorem dropRequest_core (r : OutReq) (s : State) :
    (dropRequest r s).pending = s.pending ∧ (dropRequest r s).cdx.mem = s.cdx.mem ∧ (dropRequest r s).cdx.colophon = s.cdx.colophon := by
  unfold dropRequest
  repeat' (first | split | simp [foldl_core])

@[simp] theorem countStale_core (s : State) :
    (countStale s).pending = s.pending ∧ (countStale s).cdx.mem = s.cdx.mem ∧ (countStale s).cdx.colophon = s.cdx.colophon := by
  unfold countStale
  simp

@[simp] theorem modRequest_core (r : OutReq) (f : OutReq → OutReq) (s : State) :
    (modRequest r f s).pending = s.pending ∧ (modRequest r f s).cdx.mem = s.cdx.mem ∧ (modRequest r f s).cdx.colophon = s.cdx.colophon := by
  unfold modRequest
  simp

@[simp] theorem sendCmd_core (dst op rank : Nat) (locked ordered : Bool) (d : EcDesc) (owner : ReqOwner) (payload : List (List Nat)) (s : State) :
    (sendCmd dst op rank locked ordered d owner payload s).pending = s.pending ∧ (sendCmd dst op rank locked ordered d owner payload s).cdx.mem = s.cdx.mem ∧ (sendCmd dst op rank locked ordered d owner payload s).cdx.colophon = s.cdx.colophon := by
  unfold sendCmd
  simp

@[simp] theorem sendLock_core (e stripe rank : Nat) (owner : ReqOwner) (s : State) :
    (sendLock e stripe rank owner s).pending = s.pending ∧ (sendLock e stripe rank owner s).cdx.mem = s.cdx.mem ∧ (sendLock e stripe rank owner s).cdx.colophon = s.cdx.colophon := by
  unfold sendLock
  simp

@[simp] theorem sendUnlock_core (m e stripe : Nat) (s : State) :
    (sendUnlock m e stripe s).pending = s.pending ∧ (sendUnlock m e stripe s).cdx.mem = s.cdx.mem ∧ (sendUnlock m e stripe s).cdx.colophon = s.cdx.colophon := by
  unfold sendUnlock
  simp

@[simp] theorem sendIntent_core (m : Nat) (d : EcDesc) (kind mask position rank : Nat) (locked : Bool) (owner : ReqOwner) (s : State) :
    (sendIntent m d kind mask position rank locked owner s).pending = s.pending ∧ (sendIntent m d kind mask position rank locked owner s).cdx.mem = s.cdx.mem ∧ (sendIntent m d kind mask position rank locked owner s).cdx.colophon = s.cdx.colophon := by
  unfold sendIntent
  simp

@[simp] theorem modTxn_core (h : PacketHdr) (f : InTxn → InTxn) (s : State) :
    (modTxn h f s).pending = s.pending ∧ (modTxn h f s).cdx.mem = s.cdx.mem ∧ (modTxn h f s).cdx.colophon = s.cdx.colophon := by
  unfold modTxn
  simp

@[simp] theorem dropTxn_core (h : PacketHdr) (s : State) :
    (dropTxn h s).pending = s.pending ∧ (dropTxn h s).cdx.mem = s.cdx.mem ∧ (dropTxn h s).cdx.colophon = s.cdx.colophon := by
  unfold dropTxn
  simp

@[simp] theorem endTxn_core (t : InTxn) (st : Nat × Nat) (s : State) :
    (endTxn t st s).pending = s.pending ∧ (endTxn t st s).cdx.mem = s.cdx.mem ∧ (endTxn t st s).cdx.colophon = s.cdx.colophon := by
  unfold endTxn
  simp

@[simp] theorem settleTxns_core (s : State) :
    (settleTxns s).pending = s.pending ∧ (settleTxns s).cdx.mem = s.cdx.mem ∧ (settleTxns s).cdx.colophon = s.cdx.colophon := by
  unfold settleTxns
  simp [foldl_core]

@[simp] theorem settleAll_core (s : State) :
    (settleAll s).pending = s.pending ∧ (settleAll s).cdx.mem = s.cdx.mem ∧ (settleAll s).cdx.colophon = s.cdx.colophon := by
  unfold settleAll
  simp

theorem writeShare_core (t : InTxn) (group stripe i : Nat) (sectors : List Nat) (pick : Nat) (s : State)  (out : State) (hout : writeShare t group stripe i sectors pick s = some out) :
    (out).pending = s.pending ∧ (out).cdx.mem = s.cdx.mem ∧ (out).cdx.colophon = s.cdx.colophon := by
  unfold writeShare at hout
  grind [placeCard_core, setOverflow_core, foldl_core]

theorem writeCards_core (t : InTxn) (group stripe : Nat) (a0 : List (Nat × List Nat)) (a1 : List Nat) (s : State)  (out : State) (hout : writeCards t group stripe a0 a1 s = some out) :
    (out).pending = s.pending ∧ (out).cdx.mem = s.cdx.mem ∧ (out).cdx.colophon = s.cdx.colophon := by
  induction a0 generalizing a1 s <;> unfold writeCards at hout <;> grind [writeShare_core, foldl_core]

@[simp] theorem txnGroup_core (h : PacketHdr) (g : Nat) (s : State) :
    (txnGroup h g s).pending = s.pending ∧ (txnGroup h g s).cdx.mem = s.cdx.mem ∧ (txnGroup h g s).cdx.colophon = s.cdx.colophon := by
  unfold txnGroup
  simp

@[simp] theorem txnWrite_core (t : InTxn) (stripe : Nat) (cards : List (Nat × List Nat)) (picks : List Nat) (s : State) :
    SameCore s (txnWrite t stripe cards picks s) := by
  unfold txnWrite
  extract_lets h g go
  split
  · exact stallRow_core _ _ _
  · rename_i u hu
    have k : SameCore s u := writeCards_core _ _ _ _ _ { s with wr := { s.wr with nextGroup := g } } u hu
    exact k.trans (SameCore.trans (modTxn_core _ _ u) (SameCore.trans (txnGroup_core _ _ _)
      (SameCore.trans (freeTransit_core _) (settleAll_core _))))

@[simp] theorem releaseShare_core (nsid stripe first n : Nat) (s : State) :
    (releaseShare nsid stripe first n s).pending = s.pending ∧ (releaseShare nsid stripe first n s).cdx.mem = s.cdx.mem ∧ (releaseShare nsid stripe first n s).cdx.colophon = s.cdx.colophon := by
  unfold releaseShare
  grind [append_core, foldl_core]

@[simp] theorem clearIntent_core (r : IntentRec) (s : State) :
    (clearIntent r s).pending = s.pending ∧ (clearIntent r s).cdx.mem = s.cdx.mem ∧ (clearIntent r s).cdx.colophon = s.cdx.colophon := by
  unfold clearIntent
  repeat' (first | split | simp [foldl_core])

@[simp] theorem clearIntents_core (pick : IntentRec → Bool) (s : State) :
    (clearIntents pick s).pending = s.pending ∧ (clearIntents pick s).cdx.mem = s.cdx.mem ∧ (clearIntents pick s).cdx.colophon = s.cdx.colophon := by
  unfold clearIntents
  simp [foldl_core]

@[simp] theorem takeLock_core (e stripe m : Nat) (s : State) :
    (takeLock e stripe m s).pending = s.pending ∧ (takeLock e stripe m s).cdx.mem = s.cdx.mem ∧ (takeLock e stripe m s).cdx.colophon = s.cdx.colophon := by
  unfold takeLock
  simp

@[simp] theorem freeLock_core (e stripe m : Nat) (s : State) :
    (freeLock e stripe m s).pending = s.pending ∧ (freeLock e stripe m s).cdx.mem = s.cdx.mem ∧ (freeLock e stripe m s).cdx.colophon = s.cdx.colophon := by
  unfold freeLock
  simp

@[simp] theorem freeLocksOf_core (m : Nat) (s : State) :
    (freeLocksOf m s).pending = s.pending ∧ (freeLocksOf m s).cdx.mem = s.cdx.mem ∧ (freeLocksOf m s).cdx.colophon = s.cdx.colophon := by
  unfold freeLocksOf
  simp

@[simp] theorem markSettling_core (e : Nat) (s : State) :
    (markSettling e s).pending = s.pending ∧ (markSettling e s).cdx.mem = s.cdx.mem ∧ (markSettling e s).cdx.colophon = s.cdx.colophon := by
  unfold markSettling
  (repeat' split) <;> simp

@[simp] theorem releaseAllShare_core (e : Nat) (s : State) :
    (releaseAllShare e s).pending = s.pending ∧ (releaseAllShare e s).cdx.mem = s.cdx.mem ∧ (releaseAllShare e s).cdx.colophon = s.cdx.colophon := by
  unfold releaseAllShare
  repeat' (first | split | simp [foldl_core])

@[simp] theorem beginRebuild_core (e : Nat) (old new : ViewRec) (s : State) :
    (beginRebuild e old new s).pending = s.pending ∧ (beginRebuild e old new s).cdx.mem = s.cdx.mem ∧ (beginRebuild e old new s).cdx.colophon = s.cdx.colophon := by
  unfold beginRebuild
  repeat' (first | split | simp [foldl_core])

@[simp] theorem lapseLost_core (e : Nat) (old new : ViewRec) (s : State) :
    (lapseLost e old new s).pending = s.pending ∧ (lapseLost e old new s).cdx.mem = s.cdx.mem ∧ (lapseLost e old new s).cdx.colophon = s.cdx.colophon := by
  unfold lapseLost
  apply foldl_core
  intro s a
  repeat' (first | split | simp [foldl_core])

@[simp] theorem takeView_core (v : ViewRec) (s : State) :
    (takeView v s).pending = s.pending ∧ (takeView v s).cdx.mem = s.cdx.mem ∧ (takeView v s).cdx.colophon = s.cdx.colophon := by
  unfold takeView
  repeat' (first | split | simp [foldl_core])

@[simp] theorem issueView_core (v : ViewRec) (s : State) :
    (issueView v s).pending = s.pending ∧ (issueView v s).cdx.mem = s.cdx.mem ∧ (issueView v s).cdx.colophon = s.cdx.colophon := by
  unfold issueView
  simp [foldl_core]

@[simp] theorem waitView_core (j : ViewJob) (s : State) :
    (waitView j s).pending = s.pending ∧ (waitView j s).cdx.mem = s.cdx.mem ∧ (waitView j s).cdx.colophon = s.cdx.colophon := by
  unfold waitView
  (repeat' split) <;> simp

@[simp] theorem ejectNow_core (e m : Nat) (s : State) :
    (ejectNow e m s).pending = s.pending ∧ (ejectNow e m s).cdx.mem = s.cdx.mem ∧ (ejectNow e m s).cdx.colophon = s.cdx.colophon := by
  unfold ejectNow
  repeat' (first | split | simp [foldl_core])

@[simp] theorem eject_core (e m : Nat) (s : State) :
    (eject e m s).pending = s.pending ∧ (eject e m s).cdx.mem = s.cdx.mem ∧ (eject e m s).cdx.colophon = s.cdx.colophon := by
  unfold eject
  (repeat' split) <;> simp

@[simp] theorem placeNow_core (e p st : Nat) (s : State) :
    (placeNow e p st s).pending = s.pending ∧ (placeNow e p st s).cdx.mem = s.cdx.mem ∧ (placeNow e p st s).cdx.colophon = s.cdx.colophon := by
  unfold placeNow
  (repeat' split) <;> simp

@[simp] theorem setPosition_core (e p st : Nat) (s : State) :
    (setPosition e p st s).pending = s.pending ∧ (setPosition e p st s).cdx.mem = s.cdx.mem ∧ (setPosition e p st s).cdx.colophon = s.cdx.colophon := by
  unfold setPosition
  (repeat' split) <;> simp

@[simp] theorem sendTimeoutReport_core (e m : Nat) (s : State) :
    (sendTimeoutReport e m s).pending = s.pending ∧ (sendTimeoutReport e m s).cdx.mem = s.cdx.mem ∧ (sendTimeoutReport e m s).cdx.colophon = s.cdx.colophon := by
  unfold sendTimeoutReport
  (repeat' split) <;> simp

end Sys2Proof.Machine
end

