-- ==== Sys2Proof/Laws/FrameShares.lean ====
section
/-! SUPPORT. What the definitions of Machine/Shares.lean keep of the queue, the Codex array and the Colophon row. -/

namespace Sys2Proof.Machine

@[simp] theorem onShare_core (t : InTxn) (f : State → State) (s : State)
    (k : ∀ u, (f u).pending = u.pending ∧ (f u).cdx.mem = u.cdx.mem ∧ (f u).cdx.colophon = u.cdx.colophon) :
    (onShare t f s).pending = s.pending ∧ (onShare t f s).cdx.mem = s.cdx.mem ∧
      (onShare t f s).cdx.colophon = s.cdx.colophon := by
  unfold onShare
  split <;> simp [k]

@[simp] theorem finishShare_core (h : PacketHdr) (picks : List Nat) (s : State) :
    (finishShare h picks s).pending = s.pending ∧ (finishShare h picks s).cdx.mem = s.cdx.mem ∧ (finishShare h picks s).cdx.colophon = s.cdx.colophon := by
  unfold finishShare
  repeat' (first | split | simp [foldl_core])

@[simp] theorem gotShare_core (h : PacketHdr) (x : Nat) (sectors : List Nat) (fox : Bool) (s : State) :
    (gotShare h x sectors fox s).pending = s.pending ∧ (gotShare h x sectors fox s).cdx.mem = s.cdx.mem ∧ (gotShare h x sectors fox s).cdx.colophon = s.cdx.colophon := by
  unfold gotShare
  simp

@[simp] theorem readShareCard_core (h : PacketHdr) (x : Nat) (s : State) :
    (readShareCard h x s).pending = s.pending ∧ (readShareCard h x s).cdx.mem = s.cdx.mem ∧ (readShareCard h x s).cdx.colophon = s.cdx.colophon := by
  unfold readShareCard
  (repeat' split) <;> simp

@[simp] theorem readIn_core (picks : List Nat) (t : InTxn) (s : State) : SameCore s (readIn picks t s) := by
  unfold readIn
  refine onShare_core _ _ s fun v => ?_
  extract_lets cards v1
  have k1 : SameCore v v1 := .ite (modTxn_core _ _ v) (.refl v)
  refine SameCore.ite (finishShare_core _ _ v) (k1.trans (.fold _ (fun u x => ?_) _ _))
  exact SameCore.ite (readShareCard_core _ _ u) (.refl u)

@[simp] theorem retryShares_core (s : State) :
    (retryShares s).pending = s.pending ∧ (retryShares s).cdx.mem = s.cdx.mem ∧ (retryShares s).cdx.colophon = s.cdx.colophon := by
  unfold retryShares
  simp [foldl_core]

end Sys2Proof.Machine
end

