-- ==== Sys2Proof/Laws/FrameReadPath.lean ====
section
/-! SUPPORT. What the definitions of Machine/ReadPath.lean keep of the queue, the Codex array and the Colophon row. -/

namespace Sys2Proof.Machine

@[simp] theorem setDrift_core (p : Ppa) (d : Drift) (s : State) :
    (setDrift p d s).pending = s.pending ∧ (setDrift p d s).cdx.mem = s.cdx.mem ∧ (setDrift p d s).cdx.colophon = s.cdx.colophon := by
  unfold setDrift
  simp

@[simp] theorem driftDecode_core (p : Ppa) (weight : Nat) (corrected : Bool) (up down : List (Nat × Nat)) (s : State) :
    (driftDecode p weight corrected up down s).pending = s.pending ∧ (driftDecode p weight corrected up down s).cdx.mem = s.cdx.mem ∧ (driftDecode p weight corrected up down s).cdx.colophon = s.cdx.colophon := by
  unfold driftDecode
  (repeat' split) <;> simp

@[simp] theorem driftRetry_core (p : Ppa) (ofs : List Int) (s : State) :
    (driftRetry p ofs s).pending = s.pending ∧ (driftRetry p ofs s).cdx.mem = s.cdx.mem ∧ (driftRetry p ofs s).cdx.colophon = s.cdx.colophon := by
  unfold driftRetry
  (repeat' split) <;> simp

@[simp] theorem countStep_core (n : Nat) (s : State) :
    (countStep n s).pending = s.pending ∧ (countStep n s).cdx.mem = s.cdx.mem ∧ (countStep n s).cdx.colophon = s.cdx.colophon := by
  unfold countStep
  simp

@[simp] theorem modCtx_core (key : Nat × Nat × Nat × Nat) (f : EscContext → EscContext) (s : State) :
    (modCtx key f s).pending = s.pending ∧ (modCtx key f s).cdx.mem = s.cdx.mem ∧ (modCtx key f s).cdx.colophon = s.cdx.colophon := by
  unfold modCtx
  simp

@[simp] theorem noteQueue_core (s : State) :
    (noteQueue s).pending = s.pending ∧ (noteQueue s).cdx.mem = s.cdx.mem ∧ (noteQueue s).cdx.colophon = s.cdx.colophon := by
  unfold noteQueue
  simp

@[simp] theorem overlap_core (p : Ppa) (joined : Bool) (s : State) :
    (overlap p joined s).pending = s.pending ∧ (overlap p joined s).cdx.mem = s.cdx.mem ∧ (overlap p joined s).cdx.colophon = s.cdx.colophon := by
  unfold overlap
  simp

@[simp] theorem modWord_core (ppa : Ppa) (f : LadderWord → LadderWord) (s : State) :
    (modWord ppa f s).pending = s.pending ∧ (modWord ppa f s).cdx.mem = s.cdx.mem ∧ (modWord ppa f s).cdx.colophon = s.cdx.colophon := by
  unfold modWord
  (repeat' split) <;> simp

@[simp] theorem ladderRead_core (ppa : Ppa) (s : State) :
    (ladderRead ppa s).pending = s.pending ∧ (ladderRead ppa s).cdx.mem = s.cdx.mem ∧ (ladderRead ppa s).cdx.colophon = s.cdx.colophon := by
  unfold ladderRead
  (repeat' split) <;> simp

@[simp] theorem modKnown_core (word ppa : Ppa) (s : State) :
    (modKnown word ppa s).pending = s.pending ∧ (modKnown word ppa s).cdx.mem = s.cdx.mem ∧ (modKnown word ppa s).cdx.colophon = s.cdx.colophon := by
  unfold modKnown
  simp

@[simp] theorem newCtx_core (w : LadderWord) (s : State) :
    (newCtx w s).pending = s.pending ∧ (newCtx w s).cdx.mem = s.cdx.mem ∧ (newCtx w s).cdx.colophon = s.cdx.colophon := by
  unfold newCtx
  simp

@[simp] theorem stallWord_core (w : LadderWord) (s : State) :
    (stallWord w s).pending = s.pending ∧ (stallWord w s).cdx.mem = s.cdx.mem ∧ (stallWord w s).cdx.colophon = s.cdx.colophon := by
  unfold stallWord
  simp

@[simp] theorem enterWord_core (w : LadderWord) (s : State) :
    (enterWord w s).pending = s.pending ∧ (enterWord w s).cdx.mem = s.cdx.mem ∧ (enterWord w s).cdx.colophon = s.cdx.colophon := by
  unfold enterWord
  (repeat' split) <;> simp

@[simp] theorem serveQueue_core  (a0 : Nat) (s : State) :
    (serveQueue a0 s).pending = s.pending ∧ (serveQueue a0 s).cdx.mem = s.cdx.mem ∧ (serveQueue a0 s).cdx.colophon = s.cdx.colophon := by
  induction a0 generalizing s <;> unfold serveQueue <;> grind [ladderRead_core, modCtx_core, newCtx_core, foldl_core]

@[simp] theorem admitStalled_core  (a0 : Nat) (s : State) :
    (admitStalled a0 s).pending = s.pending ∧ (admitStalled a0 s).cdx.mem = s.cdx.mem ∧ (admitStalled a0 s).cdx.colophon = s.cdx.colophon := by
  induction a0 generalizing s with
  | zero => simp [admitStalled]
  | succ n ih =>
    unfold admitStalled
    (repeat' split) <;> simp [ih]

@[simp] theorem failLimited_core (slot lba : Nat) (s : State) :
    (failLimited slot lba s).pending = s.pending ∧ (failLimited slot lba s).cdx.mem = s.cdx.mem ∧ (failLimited slot lba s).cdx.colophon = s.cdx.colophon := by
  unfold failLimited
  simp

@[simp] theorem hostRead_core (r : ReadReq) (s : State) :
    (hostRead r s).pending = s.pending ∧ (hostRead r s).cdx.mem = s.cdx.mem ∧ (hostRead r s).cdx.colophon = s.cdx.colophon := by
  unfold hostRead
  (repeat' split) <;> simp

@[simp] theorem readCard_core (slot lba : Nat) (s : State) :
    (readCard slot lba s).pending = s.pending ∧ (readCard slot lba s).cdx.mem = s.cdx.mem ∧ (readCard slot lba s).cdx.colophon = s.cdx.colophon := by
  unfold readCard
  repeat' (first | split | simp [foldl_core])

@[simp] theorem retryLookups_core (s : State) :
    (retryLookups s).pending = s.pending ∧ (retryLookups s).cdx.mem = s.cdx.mem ∧ (retryLookups s).cdx.colophon = s.cdx.colophon := by
  unfold retryLookups
  grind [inSlotOrder_core, retryShares_core, resumeLocks_core, readCard_core, foldl_core]

@[simp] theorem giveCard_core (why : ReadFor) (sectors : List Nat) (s : State) :
    (giveCard why sectors s).pending = s.pending ∧ (giveCard why sectors s).cdx.mem = s.cdx.mem ∧ (giveCard why sectors s).cdx.colophon = s.cdx.colophon := by
  unfold giveCard
  (repeat' split) <;> simp

@[simp] theorem biteCard_core (why : ReadFor) (st : Nat × Nat) (sectors : List Nat) (s : State) :
    (biteCard why st sectors s).pending = s.pending ∧ (biteCard why st sectors s).cdx.mem = s.cdx.mem ∧ (biteCard why st sectors s).cdx.colophon = s.cdx.colophon := by
  unfold biteCard
  (repeat' split) <;> simp

@[simp] theorem markIfCurrent_core (sh i : Nat) (ppa : Ppa) (cause : Nat) (s : State) :
    (markIfCurrent sh i ppa cause s).pending = s.pending ∧ (markIfCurrent sh i ppa cause s).cdx.mem = s.cdx.mem ∧ (markIfCurrent sh i ppa cause s).cdx.colophon = s.cdx.colophon := by
  unfold markIfCurrent
  (repeat' split) <;> simp

@[simp] theorem passCard_core (ppa : Ppa) (x : Stored) (why : ReadFor) (r : Reader) (s : State) :
    (passCard ppa x why r s).pending = s.pending ∧ (passCard ppa x why r s).cdx.mem = s.cdx.mem ∧ (passCard ppa x why r s).cdx.colophon = s.cdx.colophon := by
  unfold passCard
  (repeat' split) <;> simp

@[simp] theorem serveRead_core (ppa : Ppa) (why : ReadFor) (s : State) :
    (serveRead ppa why s).pending = s.pending ∧ (serveRead ppa why s).cdx.mem = s.cdx.mem ∧ (serveRead ppa why s).cdx.colophon = s.cdx.colophon := by
  unfold serveRead
  (repeat' split) <;> simp

@[simp] theorem failRead1_core (r : ReadReq) (s : State) :
    (failRead1 r s).pending = s.pending ∧ (failRead1 r s).cdx.mem = s.cdx.mem ∧ (failRead1 r s).cdx.colophon = s.cdx.colophon := by
  unfold failRead1
  (repeat' split) <;> simp

@[simp] theorem nextRetry_core (ppa : Ppa) (s : State) :
    (nextRetry ppa s).pending = s.pending ∧ (nextRetry ppa s).cdx.mem = s.cdx.mem ∧ (nextRetry ppa s).cdx.colophon = s.cdx.colophon := by
  unfold nextRetry
  (repeat' split) <;> simp

@[simp] theorem endLadderRead_core (r : ReadReq) (o : DecodeOutcome) (wrongCard : Bool) (s : State) :
    (endLadderRead r o wrongCard s).pending = s.pending ∧ (endLadderRead r o wrongCard s).cdx.mem = s.cdx.mem ∧ (endLadderRead r o wrongCard s).cdx.colophon = s.cdx.colophon := by
  unfold endLadderRead
  repeat' (first | split | simp [foldl_core])

@[simp] theorem endRead_core (r : ReadReq) (o : DecodeOutcome) (wrongCard : Bool) (s : State) :
    (endRead r o wrongCard s).pending = s.pending ∧ (endRead r o wrongCard s).cdx.mem = s.cdx.mem ∧ (endRead r o wrongCard s).cdx.colophon = s.cdx.colophon := by
  unfold endRead
  repeat' (first | split | simp [foldl_core])

@[simp] theorem endUnit1_core (ppa : Ppa) (why : ReadFor) (intact : Bool) (s : State) :
    (endUnit1 ppa why intact s).pending = s.pending ∧ (endUnit1 ppa why intact s).cdx.mem = s.cdx.mem ∧ (endUnit1 ppa why intact s).cdx.colophon = s.cdx.colophon := by
  unfold endUnit1
  (repeat' split) <;> simp

theorem execCipherUnitDone_core (ppa : Ppa) (intact : Bool) (s : State) (t : State) (h : execCipherUnitDone ppa intact s = .next t) :
    (t).pending = s.pending ∧ (t).cdx.mem = s.cdx.mem ∧ (t).cdx.colophon = s.cdx.colophon := by
  unfold execCipherUnitDone at h
  injection h with h
  subst h
  (repeat' split) <;> simp

theorem execCipherUnit_core (core slot len kind : Nat) (s : State) (t : State) (h : execCipherUnit core slot len kind s = .next t) :
    (t).pending = s.pending ∧ (t).cdx.mem = s.cdx.mem ∧ (t).cdx.colophon = s.cdx.colophon := by
  unfold execCipherUnit at h
  injection h with h
  subst h
  (repeat' split) <;> simp

theorem execEscalationEntry_core (ppa : Ppa) (cls step : Nat) (s : State) (t : State) (h : execEscalationEntry ppa cls step s = .next t) :
    (t).pending = s.pending ∧ (t).cdx.mem = s.cdx.mem ∧ (t).cdx.colophon = s.cdx.colophon := by
  unfold execEscalationEntry at h
  injection h with h
  subst h
  (repeat' split) <;> simp

theorem execContextFree_core (lane block page : Nat) (s : State) (t : State) (h : execContextFree lane block page s = .next t) :
    (t).pending = s.pending ∧ (t).cdx.mem = s.cdx.mem ∧ (t).cdx.colophon = s.cdx.colophon := by
  unfold execContextFree at h
  injection h with h
  subst h
  (repeat' split) <;> simp

theorem execEscalationBudgetExpiry_core (lane block page : Nat) (s : State) (t : State) (h : execEscalationBudgetExpiry lane block page s = .next t) :
    (t).pending = s.pending ∧ (t).cdx.mem = s.cdx.mem ∧ (t).cdx.colophon = s.cdx.colophon := by
  unfold execEscalationBudgetExpiry at h
  injection h with h
  subst h
  simp

end Sys2Proof.Machine
end

