-- ==== Sys2Proof/Laws/FrameMoves.lean ====
section
/-! SUPPORT. What the definitions of Machine/Moves.lean keep of the queue, the Codex array and the Colophon row. -/

namespace Sys2Proof.Machine

theorem placeItem_core (stream engine : Nat) (group : Option Nat) (item : CopyItem) (pick : Nat) (s : State)  (out : State) (hout : placeItem stream engine group item pick s = some out) :
    (out).pending = s.pending ∧ (out).cdx.mem = s.cdx.mem ∧ (out).cdx.colophon = s.cdx.colophon := by
  unfold placeItem at hout
  grind [takeCells_core, fillCells_core, noteList_core, foldl_core]

@[simp] theorem fetchCard_core (engine : Nat) (p : Ppa) (s : State) :
    (fetchCard engine p s).pending = s.pending ∧ (fetchCard engine p s).cdx.mem = s.cdx.mem ∧ (fetchCard engine p s).cdx.colophon = s.cdx.colophon := by
  unfold fetchCard
  (repeat' split) <;> simp

@[simp] theorem dropFetched_core (engine : Nat) (gone : Ppa → Bool) (s : State) :
    (dropFetched engine gone s).pending = s.pending ∧ (dropFetched engine gone s).cdx.mem = s.cdx.mem ∧ (dropFetched engine gone s).cdx.colophon = s.cdx.colophon := by
  unfold dropFetched
  simp

@[simp] theorem copyLoop_core (stream engine : Nat) (group : Option Nat) (l : List CopyItem) (picks : List Nat) (room : Nat)
    (s : State) : SameCore s (copyLoop stream engine group l picks room s) := by
  induction l generalizing picks room s with
  | nil => exact .refl s
  | cons x l ih =>
    unfold copyLoop
    refine .ite (.refl s) (.ite (SameCore.trans (loadFor_core _ s) (ih _ _ _)) ?_)
    extract_lets s1
    have k : SameCore s s1 := touchSegment_core _ s
    clear_value s1
    refine .ite ?_ ?_
    · split
      · exact k.trans (stallRow_core _ _ _)
      · rename_i t ht
        exact k.trans (SameCore.trans (placeItem_core _ _ _ _ _ _ _ ht)
          (SameCore.trans (dropFetched_core _ _ t) (ih _ _ _)))
    · exact k.trans (SameCore.trans (.fold _ (fun u p => fetchCard_core _ p u) _ s1) (ih _ _ _))

@[simp] theorem freeMoves_core (engine : Nat) (s : State) :
    (freeMoves engine s).pending = s.pending ∧ (freeMoves engine s).cdx.mem = s.cdx.mem ∧ (freeMoves engine s).cdx.colophon = s.cdx.colophon := by
  unfold freeMoves
  repeat' (first | split | simp [foldl_core])

@[simp] theorem moveUnit_core (stream engine g : Nat) (group : Option Nat) (items : List CopyItem) (picks : List Nat) (room : Nat) (s : State) :
    (moveUnit stream engine g group items picks room s).pending = s.pending ∧ (moveUnit stream engine g group items picks room s).cdx.mem = s.cdx.mem ∧ (moveUnit stream engine g group items picks room s).cdx.colophon = s.cdx.colophon := by
  unfold moveUnit
  repeat' (first | split | simp [foldl_core])

@[simp] theorem appendMoves_core (cards : List TransitCard) (s : State) :
    (appendMoves cards s).pending = s.pending ∧ (appendMoves cards s).cdx.mem = s.cdx.mem ∧ (appendMoves cards s).cdx.colophon = s.cdx.colophon := by
  unfold appendMoves
  apply foldl_core
  intro s a
  repeat' (first | split | simp [foldl_core])

@[simp] theorem recount_core (n : Nat) (s : State) :
    (recount n s).pending = s.pending ∧ (recount n s).cdx.mem = s.cdx.mem ∧ (recount n s).cdx.colophon = s.cdx.colophon := by
  unfold recount
  repeat' (first | split | simp [foldl_core])

@[simp] theorem recountVictims_core (s : State) :
    (recountVictims s).pending = s.pending ∧ (recountVictims s).cdx.mem = s.cdx.mem ∧ (recountVictims s).cdx.colophon = s.cdx.colophon := by
  unfold recountVictims
  simp [foldl_core]

@[simp] theorem finishRow_core (id : Nat) (s : State) :
    (finishRow id s).pending = s.pending ∧ (finishRow id s).cdx.mem = s.cdx.mem ∧ (finishRow id s).cdx.colophon = s.cdx.colophon := by
  unfold finishRow
  (repeat' split) <;> simp

theorem rewriteCard_core (shelf i : Nat) (old : Ppa) (x : Stored) (pick : Nat) (s : State) (b0 : Ppa) (out : State) (hout : rewriteCard shelf i old x pick s = some (b0, out)) :
    (out).pending = s.pending ∧ (out).cdx.mem = s.cdx.mem ∧ (out).cdx.colophon = s.cdx.colophon := by
  unfold rewriteCard at hout
  grind [takeCells_core, noteList_core, append_core, fillCells_core, foldl_core]

@[simp] theorem forceVictim_core (n : Nat) (pos : Option Nat) (s : State) :
    (forceVictim n pos s).pending = s.pending ∧ (forceVictim n pos s).cdx.mem = s.cdx.mem ∧ (forceVictim n pos s).cdx.colophon = s.cdx.colophon := by
  unfold forceVictim
  simp

@[simp] theorem closeEarly_core (n : Nat) (s : State) :
    (closeEarly n s).pending = s.pending ∧ (closeEarly n s).cdx.mem = s.cdx.mem ∧ (closeEarly n s).cdx.colophon = s.cdx.colophon := by
  unfold closeEarly
  simp [foldl_core]

@[simp] theorem redirect_core (old new : Ppa) (s : State) :
    (redirect old new s).pending = s.pending ∧ (redirect old new s).cdx.mem = s.cdx.mem ∧ (redirect old new s).cdx.colophon = s.cdx.colophon := by
  unfold redirect
  simp

theorem placeAgain_core (c : TransitCard) (stream engine : Nat) (carrel : Bool) (pick : Nat) (s : State)  (out : State) (hout : placeAgain c stream engine carrel pick s = some out) :
    (out).pending = s.pending ∧ (out).cdx.mem = s.cdx.mem ∧ (out).cdx.colophon = s.cdx.colophon := by
  unfold placeAgain at hout
  grind [takeCells_core, redirect_core, fillCells_core, noteList_core, append_core, foldl_core]

@[simp] theorem placeAgainOr_core (c : TransitCard) (stream engine : Nat) (carrel : Bool) (pick : Nat) (s : State) :
    (placeAgainOr c stream engine carrel pick s).pending = s.pending ∧ (placeAgainOr c stream engine carrel pick s).cdx.mem = s.cdx.mem ∧ (placeAgainOr c stream engine carrel pick s).cdx.colophon = s.cdx.colophon := by
  unfold placeAgainOr
  grind [placeAgain_core, stallRow_core, foldl_core]

theorem placeRunAgain_core (cards : List TransitCard) (stream engine : Nat) (pick : Nat) (s : State)  (out : State) (hout : placeRunAgain cards stream engine pick s = some out) :
    (out).pending = s.pending ∧ (out).cdx.mem = s.cdx.mem ∧ (out).cdx.colophon = s.cdx.colophon := by
  unfold placeRunAgain at hout
  (repeat' split at hout) <;> simp_all <;> grind [takeCells_core, append_core, fillCells_core, noteList_core, foldl_core]

@[simp] theorem readBack_core (ch t : Nat) (r : OpenRow) (s : State) :
    (readBack ch t r s).pending = s.pending ∧ (readBack ch t r s).cdx.mem = s.cdx.mem ∧ (readBack ch t r s).cdx.colophon = s.cdx.colophon := by
  unfold readBack
  repeat' (first | split | simp [foldl_core])

@[simp] theorem failUnit_core (ch t : Nat) (q : ProgReq) (picks : List Nat) (s : State) :
    (failUnit ch t q picks s).pending = s.pending ∧ (failUnit ch t q picks s).cdx.mem = s.cdx.mem ∧ (failUnit ch t q picks s).cdx.colophon = s.cdx.colophon := by
  unfold failUnit
  grind [record_core, countC1_core, endUnit_core, storeUnit_core, forceVictim_core, closeEarly_core, placeRunAgain_core, placeAgainOr_core, freeTransit_core, settleRow_core, readBack_core, foldl_core]

@[simp] theorem retryAgain_core (s : State) :
    (retryAgain s).pending = s.pending ∧ (retryAgain s).cdx.mem = s.cdx.mem ∧ (retryAgain s).cdx.colophon = s.cdx.colophon := by
  unfold retryAgain
  apply foldl_core
  intro s a
  repeat' (first | split | simp [foldl_core])

@[simp] theorem resumeAll_core (s : State) :
    (resumeAll s).pending = s.pending ∧ (resumeAll s).cdx.mem = s.cdx.mem ∧ (resumeAll s).cdx.colophon = s.cdx.colophon := by
  unfold resumeAll
  simp

theorem execPoolStallServed_core (set : Nat) (s : State) (t : State) (h : execPoolStallServed set s = .next t) :
    (t).pending = s.pending ∧ (t).cdx.mem = s.cdx.mem ∧ (t).cdx.colophon = s.cdx.colophon := by
  unfold execPoolStallServed at h
  injection h with h
  subst h
  repeat' (first | split | simp [foldl_core])

@[simp] theorem askSync_core (ch : Nat) (s : State) :
    (askSync ch s).pending = s.pending ∧ (askSync ch s).cdx.mem = s.cdx.mem ∧ (askSync ch s).cdx.colophon = s.cdx.colophon := by
  unfold askSync
  (repeat' split) <;> simp

@[simp] theorem changeRoster_core (ch : Nat) (f : Roster → Roster) (s : State) :
    (changeRoster ch f s).pending = s.pending ∧ (changeRoster ch f s).cdx.mem = s.cdx.mem ∧ (changeRoster ch f s).cdx.colophon = s.cdx.colophon := by
  unfold changeRoster
  simp

@[simp] theorem addRebuild_core (lane : Nat) (die : Nat × Nat) (s : State) :
    (addRebuild lane die s).pending = s.pending ∧ (addRebuild lane die s).cdx.mem = s.cdx.mem ∧ (addRebuild lane die s).cdx.colophon = s.cdx.colophon := by
  unfold addRebuild
  simp

@[simp] theorem closeNarrow_core (lane : Nat) (s : State) :
    (closeNarrow lane s).pending = s.pending ∧ (closeNarrow lane s).cdx.mem = s.cdx.mem ∧ (closeNarrow lane s).cdx.colophon = s.cdx.colophon := by
  unfold closeNarrow
  simp [foldl_core]

@[simp] theorem markRetired_core (ch t reason : Nat) (s : State) :
    (markRetired ch t reason s).pending = s.pending ∧ (markRetired ch t reason s).cdx.mem = s.cdx.mem ∧ (markRetired ch t reason s).cdx.colophon = s.cdx.colophon := by
  unfold markRetired
  simp

@[simp] theorem leaveLane_core (ch t : Nat) (s : State) :
    (leaveLane ch t s).pending = s.pending ∧ (leaveLane ch t s).cdx.mem = s.cdx.mem ∧ (leaveLane ch t s).cdx.colophon = s.cdx.colophon := by
  unfold leaveLane
  (repeat' split) <;> simp

@[simp] theorem retireDie_core (ch t reason : Nat) (s : State) :
    (retireDie ch t reason s).pending = s.pending ∧ (retireDie ch t reason s).cdx.mem = s.cdx.mem ∧ (retireDie ch t reason s).cdx.colophon = s.cdx.colophon := by
  unfold retireDie
  repeat' (first | split | simp [foldl_core])

@[simp] theorem askRetire_core (ch t reason : Nat) (s : State) :
    (askRetire ch t reason s).pending = s.pending ∧ (askRetire ch t reason s).cdx.mem = s.cdx.mem ∧ (askRetire ch t reason s).cdx.colophon = s.cdx.colophon := by
  unfold askRetire
  (repeat' split) <;> simp

@[simp] theorem retireChannelDies_core (ch reason : Nat) (s : State) :
    (retireChannelDies ch reason s).pending = s.pending ∧ (retireChannelDies ch reason s).cdx.mem = s.cdx.mem ∧ (retireChannelDies ch reason s).cdx.colophon = s.cdx.colophon := by
  unfold retireChannelDies
  repeat' (first | split | simp [foldl_core])

@[simp] theorem settleChannel_core (ch : Nat) (s : State) :
    (settleChannel ch s).pending = s.pending ∧ (settleChannel ch s).cdx.mem = s.cdx.mem ∧ (settleChannel ch s).cdx.colophon = s.cdx.colophon := by
  unfold settleChannel
  (repeat' split) <;> simp

end Sys2Proof.Machine
end

