-- ==== Sys2Proof/Laws/FramePasses.lean ====
section
/-! SUPPORT. What the definitions of Machine/Passes.lean keep of the queue, the Codex array and the Colophon row. -/

namespace Sys2Proof.Machine

@[simp] theorem saveLogs_core (s : State) :
    (saveLogs s).pending = s.pending ∧ (saveLogs s).cdx.mem = s.cdx.mem ∧ (saveLogs s).cdx.colophon = s.cdx.colophon := by
  unfold saveLogs
  simp

theorem placePage_core (data : Nat → List Nat) (a0 : Nat) (s : State) (b0 : Ppa) (out : State) (hout : placePage data a0 s = some (b0, out)) :
    (out).pending = s.pending ∧ (out).cdx.mem = s.cdx.mem ∧ (out).cdx.colophon = s.cdx.colophon := by
  induction a0 generalizing s <;> unfold placePage at hout <;> grind [takeCells_core, sealRow_core, fillCells_core, foldl_core]

theorem placePages_core (data : Nat → Nat → List Nat) (l : List Nat) (s : State) (ps : List (Nat × Ppa)) (out : State)
    (h : placePages data l s = some (ps, out)) :
    out.pending = s.pending ∧ out.cdx.mem = s.cdx.mem ∧ out.cdx.colophon = s.cdx.colophon := by
  induction l generalizing s ps with
  | nil => unfold placePages at h; cases h; exact ⟨rfl, rfl, rfl⟩
  | cons n l ih =>
    unfold placePages at h
    split at h
    · cases h
    · rename_i p t h1
      have k1 := placePage_core _ _ _ _ _ h1
      split at h
      · cases h
      · rename_i rest u h2
        have k2 := ih t rest
        cases h
        have k2 := k2 h2
        exact ⟨k2.1.trans k1.1, k2.2.1.trans k1.2.1, k2.2.2.trans k1.2.2⟩

theorem placeDirs_core (idx tbl : Nat) (l : List (List Ppa)) (s : State) (ps : List Ppa) (out : State)
    (h : placeDirs idx tbl l s = some (ps, out)) : SameCore s out := by
  induction l generalizing s ps out with
  | nil => unfold placeDirs at h; cases h; exact .refl _
  | cons x l ih =>
    unfold placeDirs at h
    split at h
    · cases h
    · rename_i rest t ht
      cases hp : placePage (pageCard (dirEntry idx tbl x (rest.headD 0))) (t.wr.rows.length + 2) t with
      | none => rw [hp] at h; cases h
      | some y =>
        obtain ⟨p, u⟩ := y
        rw [hp] at h
        cases h
        exact SameCore.trans (ih _ _ _ ht) (placePage_core _ _ _ _ _ hp)

@[simp] theorem supersedePage_core (p : Ppa) (s : State) :
    (supersedePage p s).pending = s.pending ∧ (supersedePage p s).cdx.mem = s.cdx.mem ∧ (supersedePage p s).cdx.colophon = s.cdx.colophon := by
  unfold supersedePage
  (repeat' split) <;> simp

theorem placeSegments_core  (a0 : List (List Nat)) (s : State)  (out : State) (hout : placeSegments a0 s = some out) :
    (out).pending = s.pending ∧ (out).cdx.mem = s.cdx.mem ∧ (out).cdx.colophon = s.cdx.colophon := by
  induction a0 generalizing s <;> unfold placeSegments at hout <;> grind [placeSystem_core, modIndex_core, modSeg_core, supersede_core, foldl_core]

theorem writeList_core (n : Nat) (x y : List (Nat × BlockEntry) × State) (h : writeList n x = some y) :
    SameCore x.2 y.2 := by
  unfold writeList at h
  simp only at h
  split at h
  · cases h
  · rename_i t ht
    rw [← Option.some.inj h]
    refine SameCore.ite ?_ (SameCore.trans ?_ (modBlk_core _ _ _)) <;>
      exact SameCore.trans (placeSystems_core _ _ _ _ ht) (.fold _ (fun u p => supersede_core p u) _ t)

theorem writeLists_core (l : List Nat) (x y : List (Nat × BlockEntry) × State) (h : writeLists l x = some y) :
    SameCore x.2 y.2 := by
  induction l generalizing x with
  | nil => unfold writeLists at h; cases h; exact .refl _
  | cons n l ih =>
    unfold writeLists at h
    split at h
    · cases h
    · rename_i z hz
      exact (writeList_core _ _ _ hz).trans (ih _ h)

@[simp] theorem settledMap_core (s : State) :
    (settledMap s).pending = s.pending ∧ (settledMap s).cdx.mem = s.cdx.mem ∧ (settledMap s).cdx.colophon = s.cdx.colophon := by
  unfold settledMap
  simp [foldl_core]

theorem passMap_core (s out : State) (h : passMap s = some out) : SameCore s out := by
  unfold passMap at h
  extract_lets segs at h
  split at h
  · cases h
  · rename_i s1 h1
    cases hp : placePages (shelfPageCard s1) (dirtyPages s1) s1 with
    | none => simp [hp] at h
    | some y =>
      obtain ⟨p, u⟩ := y
      simp only [hp, Option.map_some, Option.some.injEq] at h
      subst h
      exact SameCore.trans (placeSegments_core _ _ _ h1) (SameCore.trans (placePages_core _ _ _ _ _ hp)
        (.fold _ (fun t q => SameCore.trans (supersedePage_core _ t) (modIndex_core _ _ _)) _ u))

@[simp] theorem supersedeOld_core (last new : List (Nat × Ppa)) (s : State) :
    (supersedeOld last new s).pending = s.pending ∧ (supersedeOld last new s).cdx.mem = s.cdx.mem ∧ (supersedeOld last new s).cdx.colophon = s.cdx.colophon := by
  unfold supersedeOld
  apply foldl_core
  intro s a
  repeat' (first | split | simp [foldl_core])

theorem passRoot_core (redo : Nat) (blocks : List (Nat × BlockEntry)) (s out : State)
    (h : passRoot redo blocks s = some out) : SameCore s out := by
  unfold passRoot at h
  extract_lets last m tbl at h
  split at h
  · cases h
  · rename_i idx s1 h1
    split at h
    · cases h
    · rename_i tb s2 h2
      extract_lets idxPages tblPages ppas at h
      split at h
      · cases h
      · rename_i dirs s3 h3
        extract_lets snap s4 at h
        have k : SameCore s s3 := SameCore.trans (placePages_core _ _ _ _ _ h1)
          (SameCore.trans (placePages_core _ _ _ _ _ h2) (placeDirs_core _ _ _ _ _ _ h3))
        have k4 : SameCore s3 s4 := SameCore.trans (supersedeOld_core _ _ s3) (SameCore.trans (supersedeOld_core _ _ _)
          (.fold _ (fun t p => supersedePage_core p t) _ _))
        rw [← Option.some.inj h]
        exact SameCore.trans k k4

theorem runPass_core (s out : State) (h : runPass s = some out) : SameCore s out := by
  unfold runPass at h
  split at h
  · cases h
  · rename_i blocks s0 h0
    split at h
    · cases h
    · rename_i s1 h1
      exact (writeLists_core _ (s.blk.table, s) _ h0).trans ((passMap_core _ _ h1).trans (passRoot_core _ _ _ _ h))

theorem execInventoryPassStart_core (s : State) (t : State) (h : execInventoryPassStart s = .next t) :
    (t).pending = s.pending ∧ (t).cdx.mem = s.cdx.mem ∧ (t).cdx.colophon = s.cdx.colophon := by
  unfold execInventoryPassStart at h
  grind [askOnce_core, runPass_core, leaveIdle_core, stallRow_core, foldl_core]

theorem execCheckpointIntervalExpiry_core (s : State) (t : State) (h : execCheckpointIntervalExpiry s = .next t) :
    (t).pending = s.pending ∧ (t).cdx.mem = s.cdx.mem ∧ (t).cdx.colophon = s.cdx.colophon := by
  unfold execCheckpointIntervalExpiry at h
  injection h with h
  subst h
  (repeat' split) <;> simp

@[simp] theorem putSpine_core (n : Nat) (r : SpineRec) (s : State) :
    (putSpine n r s).pending = s.pending ∧ (putSpine n r s).cdx.mem = s.cdx.mem ∧ (putSpine n r s).cdx.colophon = s.cdx.colophon := by
  unfold putSpine
  repeat' (first | split | simp [foldl_core])

theorem appendSpine_core (kind : Nat) (m : MapSnap) (s : State)  (out : State) (hout : appendSpine kind m s = some out) :
    (out).pending = s.pending ∧ (out).cdx.mem = s.cdx.mem ∧ (out).cdx.colophon = s.cdx.colophon := by
  unfold appendSpine at hout
  (repeat' split at hout) <;> simp_all <;> grind [putSpine_core, foldl_core]

@[simp] theorem tearSpine_core (r : SpineRec) (s : State) :
    (tearSpine r s).pending = s.pending ∧ (tearSpine r s).cdx.mem = s.cdx.mem ∧ (tearSpine r s).cdx.colophon = s.cdx.colophon := by
  unfold tearSpine
  simp

@[simp] theorem spineRead_core (r : SpineRec) (s : State) :
    (spineRead r s).pending = s.pending ∧ (spineRead r s).cdx.mem = s.cdx.mem ∧ (spineRead r s).cdx.colophon = s.cdx.colophon := by
  unfold spineRead
  simp

theorem execSpineRecordReadback_core (ok : Bool) (s : State) (t : State) (h : execSpineRecordReadback ok s = .next t) :
    (t).pending = s.pending ∧ (t).cdx.mem = s.cdx.mem ∧ (t).cdx.colophon = s.cdx.colophon := by
  unfold execSpineRecordReadback at h
  injection h with h
  subst h
  repeat' (first | split | simp [foldl_core])

theorem execInventoryPassComplete_core (s out : State) (h : execInventoryPassComplete s = .next out) : SameCore s out := by
  unfold execInventoryPassComplete at h
  injection h with h
  subst h
  split
  · exact .refl _
  · refine SameCore.ite (.refl _) ?_
    refine SameCore.ite (freeAllOf_core passReq _) ?_
    split
    · rename_i t ht
      have a : SameCore s t := by simpa using appendSpine_core _ _ _ t ht
      exact SameCore.trans a (saveLogs_core t)
    · exact freeAllOf_core passReq _

theorem execLedgerCardProgrammed_core (firstSeq : Nat) (s : State) (t : State) (h : execLedgerCardProgrammed firstSeq s = .next t) :
    (t).pending = s.pending ∧ (t).cdx.mem = s.cdx.mem ∧ (t).cdx.colophon = s.cdx.colophon := by
  unfold execLedgerCardProgrammed at h
  injection h with h
  subst h
  (repeat' split) <;> simp

theorem execLedgerIdleClose_core (s : State) (t : State) (h : execLedgerIdleClose s = .next t) :
    (t).pending = s.pending ∧ (t).cdx.mem = s.cdx.mem ∧ (t).cdx.colophon = s.cdx.colophon := by
  unfold execLedgerIdleClose at h
  injection h with h
  subst h
  (repeat' split) <;> simp

@[simp] theorem numberWaiters_core (s : State) :
    (numberWaiters s).pending = s.pending ∧ (numberWaiters s).cdx.mem = s.cdx.mem ∧ (numberWaiters s).cdx.colophon = s.cdx.colophon := by
  unfold numberWaiters
  simp

@[simp] theorem admitAppends_core  (a0 : Nat) (s : State) :
    (admitAppends a0 s).pending = s.pending ∧ (admitAppends a0 s).cdx.mem = s.cdx.mem ∧ (admitAppends a0 s).cdx.colophon = s.cdx.colophon := by
  induction a0 generalizing s <;> unfold admitAppends <;> grind [numberWaiters_core, append_core, foldl_core]

theorem execLedgerSpaceFreed_core (s : State) (t : State) (h : execLedgerSpaceFreed s = .next t) :
    (t).pending = s.pending ∧ (t).cdx.mem = s.cdx.mem ∧ (t).cdx.colophon = s.cdx.colophon := by
  unfold execLedgerSpaceFreed at h
  injection h with h
  subst h
  (repeat' split) <;> simp

theorem execPendingUpdateRoom_core (s : State) (t : State) (h : execPendingUpdateRoom s = .next t) :
    (t).pending = s.pending ∧ (t).cdx.mem = s.cdx.mem ∧ (t).cdx.colophon = s.cdx.colophon := by
  unfold execPendingUpdateRoom at h
  injection h with h
  subst h
  (repeat' split) <;> simp

@[simp] theorem releaseShelf_core (shelf : Nat) (s : State) :
    (releaseShelf shelf s).pending = s.pending ∧ (releaseShelf shelf s).cdx.mem = s.cdx.mem ∧ (releaseShelf shelf s).cdx.colophon = s.cdx.colophon := by
  unfold releaseShelf
  repeat' (first | split | simp [foldl_core])

theorem execShelfRelease_core (shelf : Nat) (s : State) (t : State) (h : execShelfRelease shelf s = .next t) :
    (t).pending = s.pending ∧ (t).cdx.mem = s.cdx.mem ∧ (t).cdx.colophon = s.cdx.colophon := by
  unfold execShelfRelease at h
  injection h with h
  subst h
  (repeat' split) <;> simp

theorem execShelfPageLoad_core (page : Nat) (s : State) (t : State) (h : execShelfPageLoad page s = .next t) :
    (t).pending = s.pending ∧ (t).cdx.mem = s.cdx.mem ∧ (t).cdx.colophon = s.cdx.colophon := by
  unfold execShelfPageLoad at h
  injection h with h
  subst h
  (repeat' split) <;> simp

@[simp] theorem enterPreserve_core (s : State) :
    (enterPreserve s).pending = s.pending ∧ (enterPreserve s).cdx.mem = s.cdx.mem ∧ (enterPreserve s).cdx.colophon = s.cdx.colophon := by
  unfold enterPreserve
  simp [foldl_core]

@[simp] theorem afterWarming_core (s : State) :
    (afterWarming s).pending = s.pending ∧ (afterWarming s).cdx.mem = s.cdx.mem ∧ (afterWarming s).cdx.colophon = s.cdx.colophon := by
  unfold afterWarming
  (repeat' split) <;> simp

theorem execWarmingEnd_core (s : State) (t : State) (h : execWarmingEnd s = .next t) :
    (t).pending = s.pending ∧ (t).cdx.mem = s.cdx.mem ∧ (t).cdx.colophon = s.cdx.colophon := by
  unfold execWarmingEnd at h
  injection h with h
  subst h
  (repeat' split) <;> simp

@[simp] theorem atBoundary_core (s : State) :
    (atBoundary s).pending = s.pending ∧ (atBoundary s).cdx.mem = s.cdx.mem ∧ (atBoundary s).cdx.colophon = s.cdx.colophon := by
  unfold atBoundary
  (repeat' split) <;> simp

theorem execPreserveEntry_core (s : State) (t : State) (h : execPreserveEntry s = .next t) :
    (t).pending = s.pending ∧ (t).cdx.mem = s.cdx.mem ∧ (t).cdx.colophon = s.cdx.colophon := by
  unfold execPreserveEntry at h
  injection h with h
  subst h
  (repeat' split) <;> simp

theorem execCommandFetch_core (slot qid : Nat) (e : SqEntry) (s : State) (t : State) (h : execCommandFetch slot qid e s = .next t) :
    (t).pending = s.pending ∧ (t).cdx.mem = s.cdx.mem ∧ (t).cdx.colophon = s.cdx.colophon := by
  unfold execCommandFetch at h
  injection h with h
  subst h
  (repeat' split) <;> simp

end Sys2Proof.Machine
end

