-- ==== Sys2Proof/Laws/FrameCoast.lean ====
section
/-! SUPPORT. What the definitions of Machine/Coast.lean keep of the queue, the Codex array and the Colophon row. -/

namespace Sys2Proof.Machine

@[simp] theorem tilesCoast_core (s : State) :
    (tilesCoast s).pending = s.pending ∧ (tilesCoast s).cdx.mem = s.cdx.mem ∧ (tilesCoast s).cdx.colophon = s.cdx.colophon := by
  unfold tilesCoast
  simp

@[simp] theorem portsCoast_core (s : State) :
    (portsCoast s).pending = s.pending ∧ (portsCoast s).cdx.mem = s.cdx.mem ∧ (portsCoast s).cdx.colophon = s.cdx.colophon := by
  unfold portsCoast
  simp

@[simp] theorem codexCoast_core (s : State) :
    (codexCoast s).pending = s.pending ∧ (codexCoast s).cdx.mem = s.cdx.mem ∧ (codexCoast s).cdx.colophon = s.cdx.colophon := by
  unfold codexCoast
  (repeat' split) <;> simp

@[simp] theorem abandonTest_core (s : State) :
    (abandonTest s).pending = s.pending ∧ (abandonTest s).cdx.mem = s.cdx.mem ∧ (abandonTest s).cdx.colophon = s.cdx.colophon := by
  unfold abandonTest
  (repeat' split) <;> simp

@[simp] theorem dropStalled_core (s : State) :
    (dropStalled s).pending = s.pending ∧ (dropStalled s).cdx.mem = s.cdx.mem ∧ (dropStalled s).cdx.colophon = s.cdx.colophon := by
  unfold dropStalled
  simp

@[simp] theorem coastMove_core (x : TransitCard × Nat × Nat) (s : State) :
    (coastMove x s).pending = s.pending ∧ (coastMove x s).cdx.mem = s.cdx.mem ∧ (coastMove x s).cdx.colophon = s.cdx.colophon := by
  unfold coastMove
  simp

@[simp] theorem coastLane_core (lane : Nat) (s : State) :
    (coastLane lane s).pending = s.pending ∧ (coastLane lane s).cdx.mem = s.cdx.mem ∧ (coastLane lane s).cdx.colophon = s.cdx.colophon := by
  unfold coastLane
  simp [foldl_core]

@[simp] theorem leaveStacks_core (s : State) : SameCore s (leaveStacks s) := by
  unfold leaveStacks
  extract_lets rows ids entries s1
  have h1 : SameCore s s1 := SameCore.fold _ (fun t n => modBlk_core n _ t) _ s
  refine SameCore.trans (t := { s1 with
    wr := { s1.wr with
      transit := s1.wr.transit.filter fun c => ! inStacks s1 c
      rows := s1.wr.rows.filter fun r => ! ids.contains r.id
      handed := [] }
    fl := { s1.fl with dies := s1.fl.dies.map fun d => { d with
      progQ := d.progQ.filter fun q => ! ids.contains q.row } } }) h1 (SameCore.fold _ (fun t r => ?_) _ _)
  split
  · exact freeBuffer_core _ _ t
  · exact .refl t

@[simp] theorem placementEnds_core (s : State) :
    (placementEnds s).pending = s.pending ∧ (placementEnds s).cdx.mem = s.cdx.mem ∧ (placementEnds s).cdx.colophon = s.cdx.colophon := by
  unfold placementEnds
  simp [foldl_core]

@[simp] theorem sealStripes_core (s : State) :
    (sealStripes s).pending = s.pending ∧ (sealStripes s).cdx.mem = s.cdx.mem ∧ (sealStripes s).cdx.colophon = s.cdx.colophon := by
  unfold sealStripes
  apply foldl_core
  intro s a
  repeat' (first | split | simp [foldl_core])

@[simp] theorem wakeAll_core (s : State) :
    (wakeAll s).pending = s.pending ∧ (wakeAll s).cdx.mem = s.cdx.mem ∧ (wakeAll s).cdx.colophon = s.cdx.colophon := by
  unfold wakeAll
  simp

@[simp] theorem coastRuns_core (cause : CoastCause) (s : State) :
    (coastRuns cause s).pending = s.pending ∧ (coastRuns cause s).cdx.mem = s.cdx.mem ∧ (coastRuns cause s).cdx.colophon = s.cdx.colophon := by
  unfold coastRuns
  simp

@[simp] theorem coastEntry_core (cause : CoastCause) (s : State) :
    (coastEntry cause s).pending = s.pending ∧ (coastEntry cause s).cdx.mem = s.cdx.mem ∧ (coastEntry cause s).cdx.colophon = s.cdx.colophon := by
  unfold coastEntry
  (repeat' split) <;> simp

theorem execPwrfailNLow_core (ns : Nat) (s : State) (t : State) (h : execPwrfailNLow ns s = .next t) :
    (t).pending = s.pending ∧ (t).cdx.mem = s.cdx.mem ∧ (t).cdx.colophon = s.cdx.colophon := by
  unfold execPwrfailNLow at h
  injection h with h
  subst h
  (repeat' split) <;> simp

theorem execV12BelowThreshold_core (mv us : Nat) (s : State) (t : State) (h : execV12BelowThreshold mv us s = .next t) :
    (t).pending = s.pending ∧ (t).cdx.mem = s.cdx.mem ∧ (t).cdx.colophon = s.cdx.colophon := by
  unfold execV12BelowThreshold at h
  injection h with h
  subst h
  (repeat' split) <;> simp

@[simp] theorem programEnds_core (p : ProgReq) (s : State) :
    (programEnds p s).pending = s.pending ∧ (programEnds p s).cdx.mem = s.cdx.mem ∧ (programEnds p s).cdx.colophon = s.cdx.colophon := by
  unfold programEnds
  (repeat' split) <;> simp

@[simp] theorem allProgramsEnd_core (s : State) :
    (allProgramsEnd s).pending = s.pending ∧ (allProgramsEnd s).cdx.mem = s.cdx.mem ∧ (allProgramsEnd s).cdx.colophon = s.cdx.colophon := by
  unfold allProgramsEnd
  simp [foldl_core]

@[simp] theorem coastStored_core (s : State) :
    (coastStored s).pending = s.pending ∧ (coastStored s).cdx.mem = s.cdx.mem ∧ (coastStored s).cdx.colophon = s.cdx.colophon := by
  unfold coastStored
  simp [foldl_core]

@[simp] theorem dayStored_core (s : State) :
    (dayStored s).pending = s.pending ∧ (dayStored s).cdx.mem = s.cdx.mem ∧ (dayStored s).cdx.colophon = s.cdx.colophon := by
  unfold dayStored
  repeat' (first | split | simp [foldl_core])

@[simp] theorem ledgerStored_core (s : State) :
    (ledgerStored s).pending = s.pending ∧ (ledgerStored s).cdx.mem = s.cdx.mem ∧ (ledgerStored s).cdx.colophon = s.cdx.colophon := by
  unfold ledgerStored
  simp [foldl_core]

theorem execCoastProgramsDone_core (s : State) (t : State) (h : execCoastProgramsDone s = .next t) :
    (t).pending = s.pending ∧ (t).cdx.mem = s.cdx.mem ∧ (t).cdx.colophon = s.cdx.colophon := by
  unfold execCoastProgramsDone at h
  grind [saveLogs_core, dayStored_core, ledgerStored_core, coastStored_core, allProgramsEnd_core, appendSpine_core, record_core, foldl_core]

@[simp] theorem takeCoastStripe_core (g : Nat) (s : State) :
    (takeCoastStripe g s).pending = s.pending ∧ (takeCoastStripe g s).cdx.mem = s.cdx.mem ∧ (takeCoastStripe g s).cdx.colophon = s.cdx.colophon := by
  unfold takeCoastStripe
  (repeat' split) <;> simp

@[simp] theorem takeCoastStripes_core (s : State) :
    (takeCoastStripes s).pending = s.pending ∧ (takeCoastStripes s).cdx.mem = s.cdx.mem ∧ (takeCoastStripes s).cdx.colophon = s.cdx.colophon := by
  unfold takeCoastStripes
  simp [foldl_core]

@[simp] theorem arm_core (s : State) :
    (arm s).pending = s.pending ∧ (arm s).cdx.mem = s.cdx.mem ∧ (arm s).cdx.colophon = s.cdx.colophon := by
  unfold arm
  simp

@[simp] theorem sealRows_core (s : State) :
    (sealRows s).pending = s.pending ∧ (sealRows s).cdx.mem = s.cdx.mem ∧ (sealRows s).cdx.colophon = s.cdx.colophon := by
  unfold sealRows
  simp [foldl_core]

@[simp] theorem disarm_core (cause : Nat) (s : State) :
    (disarm cause s).pending = s.pending ∧ (disarm cause s).cdx.mem = s.cdx.mem ∧ (disarm cause s).cdx.colophon = s.cdx.colophon := by
  unfold disarm
  (repeat' split) <;> simp

theorem execCoastDisarm_core (cause : Nat) (s : State) (t : State) (h : execCoastDisarm cause s = .next t) :
    (t).pending = s.pending ∧ (t).cdx.mem = s.cdx.mem ∧ (t).cdx.colophon = s.cdx.colophon := by
  unfold execCoastDisarm at h
  injection h with h
  subst h
  (repeat' split) <;> simp

theorem execAckDrainDone_core (s : State) (t : State) (h : execAckDrainDone s = .next t) :
    (t).pending = s.pending ∧ (t).cdx.mem = s.cdx.mem ∧ (t).cdx.colophon = s.cdx.colophon := by
  unfold execAckDrainDone at h
  injection h with h
  subst h
  repeat' (first | split | simp [foldl_core])

@[simp] theorem requestTest_core (s : State) :
    (requestTest s).pending = s.pending ∧ (requestTest s).cdx.mem = s.cdx.mem ∧ (requestTest s).cdx.colophon = s.cdx.colophon := by
  unfold requestTest
  (repeat' split) <;> simp

@[simp] theorem noteResult_core (result td : Nat) (s : State) :
    (noteResult result td s).pending = s.pending ∧ (noteResult result td s).cdx.mem = s.cdx.mem ∧ (noteResult result td s).cdx.colophon = s.cdx.colophon := by
  unfold noteResult
  simp

@[simp] theorem failTest_core (result td : Nat) (s : State) :
    (failTest result td s).pending = s.pending ∧ (failTest result td s).cdx.mem = s.cdx.mem ∧ (failTest result td s).cdx.colophon = s.cdx.colophon := by
  unfold failTest
  simp

@[simp] theorem setLast_core (td : Nat) (s : State) :
    (setLast td s).pending = s.pending ∧ (setLast td s).cdx.mem = s.cdx.mem ∧ (setLast td s).cdx.colophon = s.cdx.colophon := by
  unfold setLast
  simp

@[simp] theorem passTest_core (td : Nat) (s : State) :
    (passTest td s).pending = s.pending ∧ (passTest td s).cdx.mem = s.cdx.mem ∧ (passTest td s).cdx.colophon = s.cdx.colophon := by
  unfold passTest
  repeat' (first | split | simp [foldl_core])

theorem execKsHoldupRun_core (value : Word32) (s : State) (t : State) (h : execKsHoldupRun value s = .next t) :
    (t).pending = s.pending ∧ (t).cdx.mem = s.cdx.mem ∧ (t).cdx.colophon = s.cdx.colophon := by
  unfold execKsHoldupRun at h
  injection h with h
  subst h
  (repeat' split) <;> simp

theorem execHoldupTestIntervalExpiry_core (retest : Bool) (s : State) (t : State) (h : execHoldupTestIntervalExpiry retest s = .next t) :
    (t).pending = s.pending ∧ (t).cdx.mem = s.cdx.mem ∧ (t).cdx.colophon = s.cdx.colophon := by
  unfold execHoldupTestIntervalExpiry at h
  injection h with h
  subst h
  (repeat' split) <;> simp

theorem execHoldupTestStart_core (s : State) (t : State) (h : execHoldupTestStart s = .next t) :
    (t).pending = s.pending ∧ (t).cdx.mem = s.cdx.mem ∧ (t).cdx.colophon = s.cdx.colophon := by
  unfold execHoldupTestStart at h
  injection h with h
  subst h
  (repeat' split) <;> simp

theorem execHoldupDischargeEnd_core (tdUs : Nat) (s : State) (t : State) (h : execHoldupDischargeEnd tdUs s = .next t) :
    (t).pending = s.pending ∧ (t).cdx.mem = s.cdx.mem ∧ (t).cdx.colophon = s.cdx.colophon := by
  unfold execHoldupDischargeEnd at h
  injection h with h
  subst h
  (repeat' split) <;> simp

theorem execHoldupMaxDischargeExpiry_core (s : State) (t : State) (h : execHoldupMaxDischargeExpiry s = .next t) :
    (t).pending = s.pending ∧ (t).cdx.mem = s.cdx.mem ∧ (t).cdx.colophon = s.cdx.colophon := by
  unfold execHoldupMaxDischargeExpiry at h
  injection h with h
  subst h
  (repeat' split) <;> simp

theorem execHoldupRecharged_core (s : State) (t : State) (h : execHoldupRecharged s = .next t) :
    (t).pending = s.pending ∧ (t).cdx.mem = s.cdx.mem ∧ (t).cdx.colophon = s.cdx.colophon := by
  unfold execHoldupRecharged at h
  injection h with h
  subst h
  (repeat' split) <;> simp

theorem execHoldupRechargeExpiry_core (s : State) (t : State) (h : execHoldupRechargeExpiry s = .next t) :
    (t).pending = s.pending ∧ (t).cdx.mem = s.cdx.mem ∧ (t).cdx.colophon = s.cdx.colophon := by
  unfold execHoldupRechargeExpiry at h
  injection h with h
  subst h
  (repeat' split) <;> simp

theorem execHoldupLowOutsideTest_core (s : State) (t : State) (h : execHoldupLowOutsideTest s = .next t) :
    (t).pending = s.pending ∧ (t).cdx.mem = s.cdx.mem ∧ (t).cdx.colophon = s.cdx.colophon := by
  unfold execHoldupLowOutsideTest at h
  injection h with h
  subst h
  (repeat' split) <;> simp

@[simp] theorem noteShn_core (kind : Nat) (s : State) :
    (noteShn kind s).pending = s.pending ∧ (noteShn kind s).cdx.mem = s.cdx.mem ∧ (noteShn kind s).cdx.colophon = s.cdx.colophon := by
  unfold noteShn
  simp

@[simp] theorem shutdownAdvance_core (s : State) :
    (shutdownAdvance s).pending = s.pending ∧ (shutdownAdvance s).cdx.mem = s.cdx.mem ∧ (shutdownAdvance s).cdx.colophon = s.cdx.colophon := by
  unfold shutdownAdvance
  repeat' (first | split | simp [foldl_core])

@[simp] theorem shutdownPlain_core (s : State) :
    (shutdownPlain s).pending = s.pending ∧ (shutdownPlain s).cdx.mem = s.cdx.mem ∧ (shutdownPlain s).cdx.colophon = s.cdx.colophon := by
  unfold shutdownPlain
  simp

theorem execShutdownNormal_core (s : State) (t : State) (h : execShutdownNormal s = .next t) :
    (t).pending = s.pending ∧ (t).cdx.mem = s.cdx.mem ∧ (t).cdx.colophon = s.cdx.colophon := by
  unfold execShutdownNormal at h
  injection h with h
  subst h
  (repeat' split) <;> simp

theorem execShutdownAbrupt_core (s : State) (t : State) (h : execShutdownAbrupt s = .next t) :
    (t).pending = s.pending ∧ (t).cdx.mem = s.cdx.mem ∧ (t).cdx.colophon = s.cdx.colophon := by
  unfold execShutdownAbrupt at h
  injection h with h
  subst h
  (repeat' split) <;> simp

end Sys2Proof.Machine
end

