-- ==== Sys2Proof/Laws/FrameEchelonOps.lean ====
section
/-! SUPPORT. What the definitions of Machine/EchelonOps.lean keep of the queue, the Codex array and the Colophon row. -/

namespace Sys2Proof.Machine

@[simp] theorem modRun_core (id : Nat) (f : Steward → Steward) (s : State) :
    (modRun id f s).pending = s.pending ∧ (modRun id f s).cdx.mem = s.cdx.mem ∧ (modRun id f s).cdx.colophon = s.cdx.colophon := by
  unfold modRun
  simp

@[simp] theorem dropRun_core (id : Nat) (s : State) :
    (dropRun id s).pending = s.pending ∧ (dropRun id s).cdx.mem = s.cdx.mem ∧ (dropRun id s).cdx.colophon = s.cdx.colophon := by
  unfold dropRun
  simp

@[simp] theorem runCmd_core (r : Steward) (pos op rank : Nat) (locked : Bool) (payload : List (List Nat)) (s : State) :
    (runCmd r pos op rank locked payload s).pending = s.pending ∧ (runCmd r pos op rank locked payload s).cdx.mem = s.cdx.mem ∧ (runCmd r pos op rank locked payload s).cdx.colophon = s.cdx.colophon := by
  unfold runCmd
  (repeat' split) <;> simp

@[simp] theorem runRead_core (r : Steward) (pos : Nat) (s : State) :
    (runRead r pos s).pending = s.pending ∧ (runRead r pos s).cdx.mem = s.cdx.mem ∧ (runRead r pos s).cdx.colophon = s.cdx.colophon := by
  unfold runRead
  repeat' (first | split | simp [foldl_core])

@[simp] theorem readOthers_core (r : Steward) (s : State) :
    (readOthers r s).pending = s.pending ∧ (readOthers r s).cdx.mem = s.cdx.mem ∧ (readOthers r s).cdx.colophon = s.cdx.colophon := by
  unfold readOthers
  simp [foldl_core]

@[simp] theorem runIntent_core (r : Steward) (pos rank : Nat) (s : State) :
    (runIntent r pos rank s).pending = s.pending ∧ (runIntent r pos rank s).cdx.mem = s.cdx.mem ∧ (runIntent r pos rank s).cdx.colophon = s.cdx.colophon := by
  unfold runIntent
  simp

@[simp] theorem runDone_core (r : Steward) (st : Nat × Nat) (s : State) :
    (runDone r st s).pending = s.pending ∧ (runDone r st s).cdx.mem = s.cdx.mem ∧ (runDone r st s).cdx.colophon = s.cdx.colophon := by
  unfold runDone
  apply foldl_core
  intro s a
  repeat' (first | split | simp [foldl_core])

@[simp] theorem reportLagging_core (r : Steward) (s : State) :
    (reportLagging r s).pending = s.pending ∧ (reportLagging r s).cdx.mem = s.cdx.mem ∧ (reportLagging r s).cdx.colophon = s.cdx.colophon := by
  unfold reportLagging
  grind [sendIntent_core, foldl_core]

@[simp] theorem runUnlock_core (r : Steward) (s : State) :
    (runUnlock r s).pending = s.pending ∧ (runUnlock r s).cdx.mem = s.cdx.mem ∧ (runUnlock r s).cdx.colophon = s.cdx.colophon := by
  unfold runUnlock
  simp [foldl_core]

@[simp] theorem runEnd_core (r : Steward) (s : State) :
    (runEnd r s).pending = s.pending ∧ (runEnd r s).cdx.mem = s.cdx.mem ∧ (runEnd r s).cdx.colophon = s.cdx.colophon := by
  unfold runEnd
  simp

@[simp] theorem runFail_core (r : Steward) (s : State) :
    (runFail r s).pending = s.pending ∧ (runFail r s).cdx.mem = s.cdx.mem ∧ (runFail r s).cdx.colophon = s.cdx.colophon := by
  unfold runFail
  simp

@[simp] theorem runDeltas_core (r : Steward) (s : State) :
    (runDeltas r s).pending = s.pending ∧ (runDeltas r s).cdx.mem = s.cdx.mem ∧ (runDeltas r s).cdx.colophon = s.cdx.colophon := by
  unfold runDeltas
  repeat' (first | split | simp [foldl_core])

@[simp] theorem runFullWrites_core (r : Steward) (s : State) :
    (runFullWrites r s).pending = s.pending ∧ (runFullWrites r s).cdx.mem = s.cdx.mem ∧ (runFullWrites r s).cdx.colophon = s.cdx.colophon := by
  unfold runFullWrites
  simp [foldl_core]

@[simp] theorem runDeliver_core (r : Steward) (s : State) :
    (runDeliver r s).pending = s.pending ∧ (runDeliver r s).cdx.mem = s.cdx.mem ∧ (runDeliver r s).cdx.colophon = s.cdx.colophon := by
  unfold runDeliver
  grind [sendUnlock_core, dropRun_core, deliverCard_core, modCmd_core, foldl_core]

@[simp] theorem sendForward_core (slot : Nat) (d : EcDesc) (ordered : Bool) (payload : List (List Nat)) (s : State) :
    (sendForward slot d ordered payload s).pending = s.pending ∧ (sendForward slot d ordered payload s).cdx.mem = s.cdx.mem ∧ (sendForward slot d ordered payload s).cdx.colophon = s.cdx.colophon := by
  unfold sendForward
  simp

@[simp] theorem forwardParts_core (slot e : Nat) (fua dealloc ordered : Bool) (data : Nat → List Nat) (parts : List (Nat × Nat)) (s : State) :
    (forwardParts slot e fua dealloc ordered data parts s).pending = s.pending ∧ (forwardParts slot e fua dealloc ordered data parts s).cdx.mem = s.cdx.mem ∧ (forwardParts slot e fua dealloc ordered data parts s).cdx.colophon = s.cdx.colophon := by
  unfold forwardParts
  simp [foldl_core]

@[simp] theorem mergeOne_core (slot e : Nat) (n : Namespace) (w : Nat × Nat) (s : State) :
    (mergeOne slot e n w s).pending = s.pending ∧ (mergeOne slot e n w s).cdx.mem = s.cdx.mem ∧ (mergeOne slot e n w s).cdx.colophon = s.cdx.colophon := by
  unfold mergeOne
  repeat' (first | split | simp [foldl_core])

@[simp] theorem mergeArrived_core (slot : Nat) (s : State) :
    (mergeArrived slot s).pending = s.pending ∧ (mergeArrived slot s).cdx.mem = s.cdx.mem ∧ (mergeArrived slot s).cdx.colophon = s.cdx.colophon := by
  unfold mergeArrived
  repeat' (first | split | simp [foldl_core])

@[simp] theorem passLocks_core (slot : Nat) (s : State) :
    (passLocks slot s).pending = s.pending ∧ (passLocks slot s).cdx.mem = s.cdx.mem ∧ (passLocks slot s).cdx.colophon = s.cdx.colophon := by
  unfold passLocks
  simp [foldl_core]

@[simp] theorem settleHost_core (slot : Nat) (s : State) : SameCore s (settleHost slot s) := by
  unfold settleHost
  extract_lets t
  have k : SameCore s t := mergeArrived_core slot s
  refine .ite k ?_
  split
  · exact k
  · refine .ite (k.trans (finishReads_core slot t)) (.ite (k.trans ?_) k)
    exact SameCore.trans (passLocks_core _ _) (SameCore.trans (freeAllOf_core _ _) (finishCmd_core _ _))

@[simp] theorem newRun_core (r : Steward) (s : State) :
    ((newRun r s).2).pending = s.pending ∧ ((newRun r s).2).cdx.mem = s.cdx.mem ∧ ((newRun r s).2).cdx.colophon = s.cdx.colophon := by
  unfold newRun
  grind [foldl_core]

@[simp] theorem readWave_core (order l : List Nat) (r : Steward) (s : State) :
    (readWave order l r s).pending = s.pending ∧ (readWave order l r s).cdx.mem = s.cdx.mem ∧ (readWave order l r s).cdx.colophon = s.cdx.colophon := by
  unfold readWave
  simp [foldl_core]

theorem afterReads_core (order : List Nat) (enough : Bool) (f : State → State) (r : Steward) (s : State)
    (h : ∀ u, SameCore u (f u)) : SameCore s (afterReads order enough f r s) := by
  unfold afterReads
  extract_lets t
  have k : SameCore s t := SameCore.trans (modRun_core _ _ s) (readWave_core _ _ _ _)
  exact .ite (.ite k (k.trans (h t))) (h s)

@[simp] theorem keeperLeave_core (r : Steward) (s : State) :
    (keeperLeave r s).pending = s.pending ∧ (keeperLeave r s).cdx.mem = s.cdx.mem ∧ (keeperLeave r s).cdx.colophon = s.cdx.colophon := by
  unfold keeperLeave
  (repeat' split) <;> simp

@[simp] theorem checkedDone_core (r : Steward) (s : State) :
    (checkedDone r s).pending = s.pending ∧ (checkedDone r s).cdx.mem = s.cdx.mem ∧ (checkedDone r s).cdx.colophon = s.cdx.colophon := by
  unfold checkedDone
  repeat' (first | split | simp [foldl_core])

@[simp] theorem checkedRepair_core (r : Steward) (s : State) :
    (checkedRepair r s).pending = s.pending ∧ (checkedRepair r s).cdx.mem = s.cdx.mem ∧ (checkedRepair r s).cdx.colophon = s.cdx.colophon := by
  unfold checkedRepair
  repeat' (first | split | simp [foldl_core])

@[simp] theorem checkedReads_core (order : List Nat) (r : Steward) (s : State) :
    (checkedReads order r s).pending = s.pending ∧ (checkedReads order r s).cdx.mem = s.cdx.mem ∧ (checkedReads order r s).cdx.colophon = s.cdx.colophon := by
  unfold checkedReads
  grind [afterReads_core, checkedRepair_core, foldl_core]

@[simp] theorem checkedLock_core (order : List Nat) (r : Steward) (s : State) :
    (checkedLock order r s).pending = s.pending ∧ (checkedLock order r s).cdx.mem = s.cdx.mem ∧ (checkedLock order r s).cdx.colophon = s.cdx.colophon := by
  unfold checkedLock
  repeat' (first | split | simp [foldl_core])

@[simp] theorem checkedStep_core (order : List Nat) (r : Steward) (s : State) :
    (checkedStep order r s).pending = s.pending ∧ (checkedStep order r s).cdx.mem = s.cdx.mem ∧ (checkedStep order r s).cdx.colophon = s.cdx.colophon := by
  unfold checkedStep
  (repeat' split) <;> simp

@[simp] theorem runStep_core (id : Nat) (s : State) : SameCore s (runStep id s) := by
  unfold runStep
  refine .ite (.refl s) ?_
  split
  · exact .refl s
  · rename_i r hr
    split
    · refine .ite (runDeltas_core r s) ?_
      have h : SameCore s (readOthers r (modRun id (fun x => { x with phase := 5 }) s)) :=
        SameCore.trans (modRun_core id _ s) (readOthers_core r _)
      exact .ite h (h.trans (runFail_core r _))
    · exact runDeltas_core r s
    · exact runEnd_core r s
    · extract_lets others t
      have h : SameCore s t := SameCore.trans (modRun_core id _ s) (SameCore.fold _ (fun u p => runIntent_core r p 3 u) _ _)
      exact .ite h (h.trans (runFullWrites_core r _))
    · exact runFullWrites_core r s
    · exact runEnd_core r s
    · exact checkedStep_core [] r s
    · have h : SameCore s (runDeliver r s) := runDeliver_core r s
      cases r.slot with
      | some n => exact h.trans (settleHost_core _ _)
      | none => exact h
    · exact .refl s

@[simp] theorem runLocked_core (id : Nat) (s : State) :
    (runLocked id s).pending = s.pending ∧ (runLocked id s).cdx.mem = s.cdx.mem ∧ (runLocked id s).cdx.colophon = s.cdx.colophon := by
  unfold runLocked
  repeat' (first | split | simp [foldl_core])

@[simp] theorem startRecon_core (slot e stripe j first n : Nat) (s : State) :
    (startRecon slot e stripe j first n s).pending = s.pending ∧ (startRecon slot e stripe j first n s).cdx.mem = s.cdx.mem ∧ (startRecon slot e stripe j first n s).cdx.colophon = s.cdx.colophon := by
  unfold startRecon
  simp

@[simp] theorem runAbsorb_core (id : Nat) (q : OutReq) (st : Nat × Nat) (s : State) :
    (runAbsorb id q st s).pending = s.pending ∧ (runAbsorb id q st s).cdx.mem = s.cdx.mem ∧ (runAbsorb id q st s).cdx.colophon = s.cdx.colophon := by
  unfold runAbsorb
  repeat' (first | split | simp [foldl_core])

@[simp] theorem rebuilderLeave_core (r : Steward) (s : State) :
    (rebuilderLeave r s).pending = s.pending ∧ (rebuilderLeave r s).cdx.mem = s.cdx.mem ∧ (rebuilderLeave r s).cdx.colophon = s.cdx.colophon := by
  unfold rebuilderLeave
  simp

@[simp] theorem lockLost_core (r : Steward) (s : State) : SameCore s (lockLost r s) := by
  unfold lockLost
  refine .ite ?_ (.ite (rebuilderLeave_core r s) (runFail_core r s))
  have h : SameCore s (runDeliver r s) := runDeliver_core r s
  cases r.slot with
  | some n => exact h.trans (settleHost_core _ _)
  | none => exact h

@[simp] theorem sendRead_core (slot e c n : Nat) (ordered : Bool) (s : State) :
    (sendRead slot e c n ordered s).pending = s.pending ∧ (sendRead slot e c n ordered s).cdx.mem = s.cdx.mem ∧ (sendRead slot e c n ordered s).cdx.colophon = s.cdx.colophon := by
  unfold sendRead
  simp only []
  repeat' (first | split | simp_all [foldl_core])

@[simp] theorem takeRead_core (slot : Nat) (q : OutReq) (s : State) :
    (takeRead slot q s).pending = s.pending ∧ (takeRead slot q s).cdx.mem = s.cdx.mem ∧ (takeRead slot q s).cdx.colophon = s.cdx.colophon := by
  unfold takeRead
  repeat' (first | split | simp [foldl_core])

@[simp] theorem failRead_core (slot : Nat) (q : OutReq) (st : Nat × Nat) (s : State) :
    (failRead slot q st s).pending = s.pending ∧ (failRead slot q st s).cdx.mem = s.cdx.mem ∧ (failRead slot q st s).cdx.colophon = s.cdx.colophon := by
  unfold failRead
  simp [foldl_core]

@[simp] theorem hostAnswer_core (slot : Nat) (q : OutReq) (st : Nat × Nat) (s : State) :
    (hostAnswer slot q st s).pending = s.pending ∧ (hostAnswer slot q st s).cdx.mem = s.cdx.mem ∧ (hostAnswer slot q st s).cdx.colophon = s.cdx.colophon := by
  unfold hostAnswer
  (repeat' split) <;> simp

@[simp] theorem addTxn_core (t : InTxn) (s : State) :
    (addTxn t s).pending = s.pending ∧ (addTxn t s).cdx.mem = s.cdx.mem ∧ (addTxn t s).cdx.colophon = s.cdx.colophon := by
  unfold addTxn
  simp

@[simp] theorem cmdIn_core (h : PacketHdr) (d : EcDesc) (s : State) :
    (cmdIn h d s).pending = s.pending ∧ (cmdIn h d s).cdx.mem = s.cdx.mem ∧ (cmdIn h d s).cdx.colophon = s.cdx.colophon := by
  unfold cmdIn
  repeat' (first | split | simp [foldl_core])

theorem execCmd_core (h : PacketHdr) (d : EcDesc) (s : State) (out : State) (k : execCmd h d s = .next out) :
    (out).pending = s.pending ∧ (out).cdx.mem = s.cdx.mem ∧ (out).cdx.colophon = s.cdx.colophon := by
  unfold execCmd at k
  injection k with k
  subst k
  simp

@[simp] theorem goIn_core (h : PacketHdr) (s : State) :
    (goIn h s).pending = s.pending ∧ (goIn h s).cdx.mem = s.cdx.mem ∧ (goIn h s).cdx.colophon = s.cdx.colophon := by
  unfold goIn
  repeat' (first | split | simp [foldl_core])

theorem execGo_core (h : PacketHdr) (s : State) (out : State) (k : execGo h s = .next out) :
    (out).pending = s.pending ∧ (out).cdx.mem = s.cdx.mem ∧ (out).cdx.colophon = s.cdx.colophon := by
  unfold execGo at k
  injection k with k
  subst k
  simp

@[simp] theorem dataIn_core (h : PacketHdr) (sectors : List Nat) (s : State) :
    (dataIn h sectors s).pending = s.pending ∧ (dataIn h sectors s).cdx.mem = s.cdx.mem ∧ (dataIn h sectors s).cdx.colophon = s.cdx.colophon := by
  unfold dataIn
  (repeat' split) <;> simp

theorem execData_core (h : PacketHdr) (sectors : List Nat) (s : State) (out : State) (k : execData h sectors s = .next out) :
    (out).pending = s.pending ∧ (out).cdx.mem = s.cdx.mem ∧ (out).cdx.colophon = s.cdx.colophon := by
  unfold execData at k
  injection k with k
  subst k
  simp

@[simp] theorem answered_core (r : OutReq) (st : Nat × Nat) (s : State) :
    (answered r st s).pending = s.pending ∧ (answered r st s).cdx.mem = s.cdx.mem ∧ (answered r st s).cdx.colophon = s.cdx.colophon := by
  unfold answered
  (repeat' split) <;> simp

@[simp] theorem backoffIn_core (h : PacketHdr) (s : State) :
    (backoffIn h s).pending = s.pending ∧ (backoffIn h s).cdx.mem = s.cdx.mem ∧ (backoffIn h s).cdx.colophon = s.cdx.colophon := by
  unfold backoffIn
  (repeat' split) <;> simp

theorem execBackoff_core (h : PacketHdr) (s : State) (out : State) (k : execBackoff h s = .next out) :
    (out).pending = s.pending ∧ (out).cdx.mem = s.cdx.mem ∧ (out).cdx.colophon = s.cdx.colophon := by
  unfold execBackoff at k
  injection k with k
  subst k
  simp

theorem execBackoffRetryExpiry_core (dst index : Nat) (s : State) (t : State) (h : execBackoffRetryExpiry dst index s = .next t) :
    (t).pending = s.pending ∧ (t).cdx.mem = s.cdx.mem ∧ (t).cdx.colophon = s.cdx.colophon := by
  unfold execBackoffRetryExpiry at h
  injection h with h
  subst h
  (repeat' split) <;> simp

@[simp] theorem timedOut_core (r : OutReq) (s : State) : SameCore s (timedOut r s) := by
  unfold timedOut
  split
  · exact .refl s
  · exact .ite (startRecon_core _ _ _ _ _ _ s) (SameCore.trans (modCmd_core _ _ s) (settleHost_core _ _))
  · refine .ite ?_ (SameCore.trans (runAbsorb_core _ _ _ s) (runStep_core _ _))
    split
    · exact lockLost_core _ s
    · exact .refl s
  · split
    · exact endTxn_core _ _ s
    · exact .refl s
  · exact .refl s

@[simp] theorem reportTimeout_core (r : OutReq) (s : State) :
    (reportTimeout r s).pending = s.pending ∧ (reportTimeout r s).cdx.mem = s.cdx.mem ∧ (reportTimeout r s).cdx.colophon = s.cdx.colophon := by
  unfold reportTimeout
  (repeat' split) <;> simp

@[simp] theorem lockIn_core (h : PacketHdr) (s : State) :
    (lockIn h s).pending = s.pending ∧ (lockIn h s).cdx.mem = s.cdx.mem ∧ (lockIn h s).cdx.colophon = s.cdx.colophon := by
  unfold lockIn
  repeat' (first | split | simp [foldl_core])

theorem execLock_core (h : PacketHdr) (s : State) (out : State) (k : execLock h s = .next out) :
    (out).pending = s.pending ∧ (out).cdx.mem = s.cdx.mem ∧ (out).cdx.colophon = s.cdx.colophon := by
  unfold execLock at k
  injection k with k
  subst k
  simp

@[simp] theorem unlockIn_core (h : PacketHdr) (s : State) :
    (unlockIn h s).pending = s.pending ∧ (unlockIn h s).cdx.mem = s.cdx.mem ∧ (unlockIn h s).cdx.colophon = s.cdx.colophon := by
  unfold unlockIn
  repeat' (first | split | simp [foldl_core])

theorem execUnlock_core (h : PacketHdr) (s : State) (out : State) (k : execUnlock h s = .next out) :
    (out).pending = s.pending ∧ (out).cdx.mem = s.cdx.mem ∧ (out).cdx.colophon = s.cdx.colophon := by
  unfold execUnlock at k
  injection k with k
  subst k
  simp

@[simp] theorem intentIn_core (h : PacketHdr) (d : EcDesc) (kind dataMask position : Nat) (s : State) :
    (intentIn h d kind dataMask position s).pending = s.pending ∧ (intentIn h d kind dataMask position s).cdx.mem = s.cdx.mem ∧ (intentIn h d kind dataMask position s).cdx.colophon = s.cdx.colophon := by
  unfold intentIn
  grind [sendBackoff_core, placeCard_core, setOverflow_core, settleTxns_core, addTxn_core, foldl_core]

theorem execIntent_core (h : PacketHdr) (d : EcDesc) (kind dataMask position : Nat) (s : State) (out : State) (k : execIntent h d kind dataMask position s = .next out) :
    (out).pending = s.pending ∧ (out).cdx.mem = s.cdx.mem ∧ (out).cdx.colophon = s.cdx.colophon := by
  unfold execIntent at k
  injection k with k
  subst k
  simp

@[simp] theorem withTxn_core (h : PacketHdr) (op : Nat) (f : InTxn → State → State) (s : State)
    (k : ∀ x t, (f x t).pending = t.pending ∧ (f x t).cdx.mem = t.cdx.mem ∧ (f x t).cdx.colophon = t.cdx.colophon) :
    (withTxn h op f s).pending = s.pending ∧ (withTxn h op f s).cdx.mem = s.cdx.mem ∧
      (withTxn h op f s).cdx.colophon = s.cdx.colophon := by
  unfold withTxn
  (repeat' split) <;> simp [k]

@[simp] theorem markRunning_core (ts : List InTxn) (s : State) :
    (markRunning ts s).pending = s.pending ∧ (markRunning ts s).cdx.mem = s.cdx.mem ∧ (markRunning ts s).cdx.colophon = s.cdx.colophon := by
  unfold markRunning
  simp [foldl_core]

@[simp] theorem forwardIn_core (t : InTxn) (s : State) : SameCore s (forwardIn t s) := by
  have hm : ∀ ts, SameCore s (markRunning ts s) := fun ts => markRunning_core ts s
  unfold forwardIn
  simp only []
  refine .ite (endTxn_core _ _ s) (.ite ((hm _).trans (sendCmd_core _ _ _ _ _ _ _ _ _)) (.ite ?_ ?_))
  · split
    · exact .refl s
    · rename_i ts hts
      have h := (hm ts).trans (newRun_core
        { id := 0, kind := 1, echelon := t.desc.echelon, stripe := t.desc.stripe, dataIdx := 0, cardFirst := 0,
          cards := 16, fua := t.desc.fua, dealloc := t.desc.dealloc, phase := 1, new := ts.flatMap partCards,
          old := [], others := [], failed := [], entries := ts.map fun x => (x.src, x.tag, x.rank),
          slot := none } _)
      refine h.trans ((SameCore.fold _ (fun u p => ?_) _ _).trans (runStep_core _ _))
      exact .ite (runIntent_core _ _ _ u) (.refl u)
  · exact ((hm _).trans (newRun_core _ _)).trans (sendLock_core _ _ _ _ _)

theorem execForwardWrite_core (h : PacketHdr) (x_d : EcDesc) (s : State) (out : State) (k : execForwardWrite h x_d s = .next out) :
    (out).pending = s.pending ∧ (out).cdx.mem = s.cdx.mem ∧ (out).cdx.colophon = s.cdx.colophon := by
  unfold execForwardWrite at k
  injection k with k
  subst k
  simp

theorem execEcRead_core (h : PacketHdr) (x_d : EcDesc) (s : State) (out : State) (k : execEcRead h x_d s = .next out) :
    (out).pending = s.pending ∧ (out).cdx.mem = s.cdx.mem ∧ (out).cdx.colophon = s.cdx.colophon := by
  unfold execEcRead at k
  injection k with k
  subst k
  simp

@[simp] theorem writeIn_core (picks : List Nat) (t : InTxn) (s : State) :
    (writeIn picks t s).pending = s.pending ∧ (writeIn picks t s).cdx.mem = s.cdx.mem ∧ (writeIn picks t s).cdx.colophon = s.cdx.colophon := by
  unfold writeIn
  repeat' (first | split | simp [foldl_core])

theorem execEcWrite_core (h : PacketHdr) (x_d : EcDesc) (picks : List Nat) (s : State) (out : State) (k : execEcWrite h x_d picks s = .next out) :
    (out).pending = s.pending ∧ (out).cdx.mem = s.cdx.mem ∧ (out).cdx.colophon = s.cdx.colophon := by
  unfold execEcWrite at k
  injection k with k
  subst k
  simp

theorem execDelta_core (h : PacketHdr) (x_d : EcDesc) (fresh : Bool) (picks : List Nat) (s : State) (out : State) (k : execDelta h x_d fresh picks s = .next out) :
    (out).pending = s.pending ∧ (out).cdx.mem = s.cdx.mem ∧ (out).cdx.colophon = s.cdx.colophon := by
  unfold execDelta at k
  injection k with k
  subst k
  simp

@[simp] theorem wholeIn_core (picks : List Nat) (t : InTxn) (s : State) :
    (wholeIn picks t s).pending = s.pending ∧ (wholeIn picks t s).cdx.mem = s.cdx.mem ∧ (wholeIn picks t s).cdx.colophon = s.cdx.colophon := by
  unfold wholeIn
  simp

theorem execParity_core (h : PacketHdr) (x_d : EcDesc) (picks : List Nat) (s : State) (out : State) (k : execParity h x_d picks s = .next out) :
    (out).pending = s.pending ∧ (out).cdx.mem = s.cdx.mem ∧ (out).cdx.colophon = s.cdx.colophon := by
  unfold execParity at k
  injection k with k
  subst k
  simp

theorem execRepair_core (h : PacketHdr) (x_d : EcDesc) (picks : List Nat) (s : State) (out : State) (k : execRepair h x_d picks s = .next out) :
    (out).pending = s.pending ∧ (out).cdx.mem = s.cdx.mem ∧ (out).cdx.colophon = s.cdx.colophon := by
  unfold execRepair at k
  injection k with k
  subst k
  simp

@[simp] theorem checkedIn_core (order : List Nat) (t : InTxn) (s : State) :
    (checkedIn order t s).pending = s.pending ∧ (checkedIn order t s).cdx.mem = s.cdx.mem ∧ (checkedIn order t s).cdx.colophon = s.cdx.colophon := by
  unfold checkedIn
  repeat' (first | split | simp [foldl_core])

theorem execReadChecked_core (h : PacketHdr) (x_d : EcDesc) (order : List Nat) (s : State) (out : State) (k : execReadChecked h x_d order s = .next out) :
    (out).pending = s.pending ∧ (out).cdx.mem = s.cdx.mem ∧ (out).cdx.colophon = s.cdx.colophon := by
  unfold execReadChecked at k
  injection k with k
  subst k
  (repeat' split) <;> simp

theorem execEcReservedOperation_core (h : PacketHdr) (s : State) (out : State) (k : execEcReservedOperation h s = .next out) :
    (out).pending = s.pending ∧ (out).cdx.mem = s.cdx.mem ∧ (out).cdx.colophon = s.cdx.colophon := by
  unfold execEcReservedOperation at k
  injection k with k
  subst k
  (repeat' split) <;> simp

@[simp] theorem agentCmd_core (h : PacketHdr) (op : Nat) (f : State → State) (s : State) (k : ∀ u, SameCore u (f u)) :
    SameCore s (agentCmd h op f s) := by
  unfold agentCmd
  split
  · exact .ite (SameCore.trans (dropTxn_core h s) (k _)) (.refl s)
  · exact onPacket_core _ _ _ _ fun u => SameCore.ite (k u) (.refl u)

@[simp] theorem viewNow_core (h : PacketHdr) (v : ViewRec) (s : State) :
    (viewNow h v s).pending = s.pending ∧ (viewNow h v s).cdx.mem = s.cdx.mem ∧ (viewNow h v s).cdx.colophon = s.cdx.colophon := by
  unfold viewNow
  (repeat' split) <;> simp

@[simp] theorem viewIn_core (h : PacketHdr) (v : ViewRec) (crcOk : Bool) (s : State) :
    (viewIn h v crcOk s).pending = s.pending ∧ (viewIn h v crcOk s).cdx.mem = s.cdx.mem ∧ (viewIn h v crcOk s).cdx.colophon = s.cdx.colophon := by
  unfold viewIn
  (repeat' split) <;> simp

theorem execView_core (h : PacketHdr) (v : ViewRec) (crcOk : Bool) (s : State) (out : State) (k : execView h v crcOk s = .next out) :
    (out).pending = s.pending ∧ (out).cdx.mem = s.cdx.mem ∧ (out).cdx.colophon = s.cdx.colophon := by
  unfold execView at k
  grind [agentCmd_core, viewIn_core, foldl_core]

@[simp] theorem timeoutIn_core (h : PacketHdr) (e m ms : Nat) (s : State) :
    (timeoutIn h e m ms s).pending = s.pending ∧ (timeoutIn h e m ms s).cdx.mem = s.cdx.mem ∧ (timeoutIn h e m ms s).cdx.colophon = s.cdx.colophon := by
  unfold timeoutIn
  repeat' (first | split | simp [foldl_core])

theorem execTimeoutReport_core (h : PacketHdr) (echelon member ms : Nat) (s : State) (out : State) (k : execTimeoutReport h echelon member ms s = .next out) :
    (out).pending = s.pending ∧ (out).cdx.mem = s.cdx.mem ∧ (out).cdx.colophon = s.cdx.colophon := by
  unfold execTimeoutReport at k
  grind [agentCmd_core, timeoutIn_core, foldl_core]

@[simp] theorem settleDigest_core (s : State) (x : EchelonSt) :
    (settleDigest s x).pending = s.pending ∧ (settleDigest s x).cdx.mem = s.cdx.mem ∧ (settleDigest s x).cdx.colophon = s.cdx.colophon := by
  unfold settleDigest
  repeat' (first | split | simp [foldl_core])

@[simp] theorem recordMismatch_core (b : PulseBody) (before : Option Seen) (s : State) :
    (recordMismatch b before s).pending = s.pending ∧ (recordMismatch b before s).cdx.mem = s.cdx.mem ∧ (recordMismatch b before s).cdx.colophon = s.cdx.colophon := by
  unfold recordMismatch
  repeat' (first | split | simp [foldl_core])

@[simp] theorem takeBack_core (m : Nat) (s : State) :
    (takeBack m s).pending = s.pending ∧ (takeBack m s).cdx.mem = s.cdx.mem ∧ (takeBack m s).cdx.colophon = s.cdx.colophon := by
  unfold takeBack
  apply foldl_core
  intro s a
  repeat' (first | split | simp [foldl_core])

theorem execPulse_core (h : PacketHdr) (b : PulseBody) (s : State) (out : State) (k : execPulse h b s = .next out) :
    (out).pending = s.pending ∧ (out).cdx.mem = s.cdx.mem ∧ (out).cdx.colophon = s.cdx.colophon := by
  unfold execPulse at k
  injection k with k
  subst k
  repeat' (first | split | simp [foldl_core])

theorem execPulseTimeout_core (serial : Nat) (s : State) (t : State) (h : execPulseTimeout serial s = .next t) :
    (t).pending = s.pending ∧ (t).cdx.mem = s.cdx.mem ∧ (t).cdx.colophon = s.cdx.colophon := by
  unfold execPulseTimeout at h
  injection h with h
  subst h
  repeat' (first | split | simp [foldl_core])

theorem execNoViewHolderReachable_core (echelon : Nat) (s : State) (t : State) (h : execNoViewHolderReachable echelon s = .next t) :
    (t).pending = s.pending ∧ (t).cdx.mem = s.cdx.mem ∧ (t).cdx.colophon = s.cdx.colophon := by
  unfold execNoViewHolderReachable at h
  injection h with h
  subst h
  (repeat' split) <;> simp

theorem writeOwn_core (e stripe : Nat) (cards : List (Nat × List Nat)) (picks : List Nat) (s : State)  (out : State) (hout : writeOwn e stripe cards picks s = some out) :
    (out).pending = s.pending ∧ (out).cdx.mem = s.cdx.mem ∧ (out).cdx.colophon = s.cdx.colophon := by
  unfold writeOwn at hout
  (repeat' split at hout) <;> simp_all <;> grind [writeCards_core, foldl_core]

theorem putParity_core (r : Steward) (pos : Nat) (cards : List (List Nat)) (picks : List Nat) (s : State)  (out : State) (hout : putParity r pos cards picks s = some out) :
    (out).pending = s.pending ∧ (out).cdx.mem = s.cdx.mem ∧ (out).cdx.colophon = s.cdx.colophon := by
  unfold putParity at hout
  grind [writeOwn_core, runCmd_core, foldl_core]

@[simp] theorem keeperStart_core (order : List Nat) (r0 : Steward) (s : State) :
    (keeperStart order r0 s).pending = s.pending ∧ (keeperStart order r0 s).cdx.mem = s.cdx.mem ∧ (keeperStart order r0 s).cdx.colophon = s.cdx.colophon := by
  unfold keeperStart
  simp only []
  repeat' (first | split | simp_all [foldl_core])

@[simp] theorem keeperUnlock_core (r : Steward) (s : State) :
    (keeperUnlock r s).pending = s.pending ∧ (keeperUnlock r s).cdx.mem = s.cdx.mem ∧ (keeperUnlock r s).cdx.colophon = s.cdx.colophon := by
  unfold keeperUnlock
  simp [foldl_core]

@[simp] theorem settleEnd_core (r : Steward) (s : State) :
    (settleEnd r s).pending = s.pending ∧ (settleEnd r s).cdx.mem = s.cdx.mem ∧ (settleEnd r s).cdx.colophon = s.cdx.colophon := by
  unfold settleEnd
  simp

@[simp] theorem settleWrite_core (picks : List Nat) (r : Steward) (s : State) : SameCore s (settleWrite picks r s) := by
  unfold settleWrite
  extract_lets solved ok cards s0 step1 step2
  have h0 : SameCore s s0 := modRun_core _ _ s
  have h1 : ∀ t, step1 = some t → SameCore s t := by
    intro t h
    simp only [step1] at h
    split at h
    · exact h0.trans (putParity_core _ _ _ _ _ _ h)
    · injection h with h; subst h; exact h0
  clear_value step1
  have h2 : ∀ t, step2 = some t → SameCore s t := by
    intro t h
    simp only [step2] at h
    cases hs : step1 with
    | none => rw [hs] at h; simp at h
    | some x =>
      rw [hs] at h
      simp only at h
      split at h
      · exact (h1 x hs).trans (putParity_core _ _ _ _ _ _ h)
      · injection h with h; subst h; exact h1 x hs
  clear_value step2
  cases hs : step2 with
  | none => exact .refl s
  | some t => exact .ite (h2 t hs) ((h2 t hs).trans (settleEnd_core _ _))

@[simp] theorem settleStep_core (order picks : List Nat) (r : Steward) (s : State) :
    (settleStep order picks r s).pending = s.pending ∧ (settleStep order picks r s).cdx.mem = s.cdx.mem ∧ (settleStep order picks r s).cdx.colophon = s.cdx.colophon := by
  unfold settleStep
  grind [settleEnd_core, afterReads_core, settleWrite_core, foldl_core]

theorem execIntentSettle_core (echelon stripe : Nat) (order picks : List Nat) (s : State) (t : State) (h : execIntentSettle echelon stripe order picks s = .next t) :
    (t).pending = s.pending ∧ (t).cdx.mem = s.cdx.mem ∧ (t).cdx.colophon = s.cdx.colophon := by
  unfold execIntentSettle at h
  injection h with h
  subst h
  (repeat' split) <;> simp

theorem execIntentAgeExpiry_core (echelon stripe : Nat) (s : State) (t : State) (h : execIntentAgeExpiry echelon stripe s = .next t) :
    (t).pending = s.pending ∧ (t).cdx.mem = s.cdx.mem ∧ (t).cdx.colophon = s.cdx.colophon := by
  unfold execIntentAgeExpiry at h
  injection h with h
  subst h
  simp

@[simp] theorem repairEnd_core (r : Steward) (s : State) :
    (repairEnd r s).pending = s.pending ∧ (repairEnd r s).cdx.mem = s.cdx.mem ∧ (repairEnd r s).cdx.colophon = s.cdx.colophon := by
  unfold repairEnd
  repeat' (first | split | simp [foldl_core])

@[simp] theorem repairWrite_core (r : Steward) (s : State) :
    (repairWrite r s).pending = s.pending ∧ (repairWrite r s).cdx.mem = s.cdx.mem ∧ (repairWrite r s).cdx.colophon = s.cdx.colophon := by
  unfold repairWrite
  repeat' (first | split | simp [foldl_core])

theorem execLagRepair_core (echelon stripe position : Nat) (order : List Nat) (s : State) (t : State) (h : execLagRepair echelon stripe position order s = .next t) :
    (t).pending = s.pending ∧ (t).cdx.mem = s.cdx.mem ∧ (t).cdx.colophon = s.cdx.colophon := by
  unfold execLagRepair at h
  grind [repairEnd_core, afterReads_core, repairWrite_core, eject_core, keeperStart_core, foldl_core]

@[simp] theorem markRebuilt_core (e stripe i : Nat) (s : State) :
    (markRebuilt e stripe i s).pending = s.pending ∧ (markRebuilt e stripe i s).cdx.mem = s.cdx.mem ∧ (markRebuilt e stripe i s).cdx.colophon = s.cdx.colophon := by
  unfold markRebuilt
  (repeat' split) <;> simp

@[simp] theorem rebuildEnd_core (picks : List Nat) (r : Steward) (s : State) :
    (rebuildEnd picks r s).pending = s.pending ∧ (rebuildEnd picks r s).cdx.mem = s.cdx.mem ∧ (rebuildEnd picks r s).cdx.colophon = s.cdx.colophon := by
  unfold rebuildEnd
  grind [rebuilderLeave_core, writeOwn_core, markRebuilt_core, modEch_core, setPosition_core, foldl_core]

@[simp] theorem rebuildNext_core (echelon : Nat) (order picks : List Nat) (pointer pos : Nat) (s : State) :
    (rebuildNext echelon order picks pointer pos s).pending = s.pending ∧ (rebuildNext echelon order picks pointer pos s).cdx.mem = s.cdx.mem ∧ (rebuildNext echelon order picks pointer pos s).cdx.colophon = s.cdx.colophon := by
  unfold rebuildNext
  grind [newRun_core, sendLock_core, rebuilderLeave_core, readWave_core, modRun_core, afterReads_core, rebuildEnd_core, foldl_core]

theorem execRebuildStripe_core (echelon : Nat) (order picks : List Nat) (s : State) (t : State) (h : execRebuildStripe echelon order picks s = .next t) :
    (t).pending = s.pending ∧ (t).cdx.mem = s.cdx.mem ∧ (t).cdx.colophon = s.cdx.colophon := by
  unfold execRebuildStripe at h
  injection h with h
  subst h
  (repeat' split) <;> simp

theorem execRebuildPointerStore_core (echelon : Nat) (s : State) (t : State) (h : execRebuildPointerStore echelon s = .next t) :
    (t).pending = s.pending ∧ (t).cdx.mem = s.cdx.mem ∧ (t).cdx.colophon = s.cdx.colophon := by
  unfold execRebuildPointerStore at h
  injection h with h
  subst h
  (repeat' split) <;> simp

end Sys2Proof.Machine
end

