-- ==== Sys2Proof/Laws/FrameIo.lean ====
section
/-! SUPPORT. What the definitions of Machine/Io.lean keep of the queue, the Codex array and the Colophon row. -/

namespace Sys2Proof.Machine

@[simp] theorem startIo_core (slot : Nat) (ph : CmdPhase) (pick : SqEntry → Bool) (f : Cmd → State → State) (s : State)
    (h : ∀ c t, (f c t).pending = t.pending ∧ (f c t).cdx.mem = t.cdx.mem ∧ (f c t).cdx.colophon = t.cdx.colophon) :
    (startIo slot ph pick f s).pending = s.pending ∧ (startIo slot ph pick f s).cdx.mem = s.cdx.mem ∧
      (startIo slot ph pick f s).cdx.colophon = s.cdx.colophon := by
  unfold startIo
  (repeat' split) <;> simp [h]

@[simp] theorem withRange_core (slot : Nat) (writing moves : Bool) (c : Cmd) (f : Namespace → State → State) (s : State)
    (h : ∀ n t, (f n t).pending = t.pending ∧ (f n t).cdx.mem = t.cdx.mem ∧ (f n t).cdx.colophon = t.cdx.colophon) :
    (withRange slot writing moves c f s).pending = s.pending ∧
      (withRange slot writing moves c f s).cdx.mem = s.cdx.mem ∧
      (withRange slot writing moves c f s).cdx.colophon = s.cdx.colophon := by
  unfold withRange
  (repeat' split) <;> simp [h]

theorem execFlush_core (slot : Nat) (s : State) (t : State) (h : execFlush slot s = .next t) :
    (t).pending = s.pending ∧ (t).cdx.mem = s.cdx.mem ∧ (t).cdx.colophon = s.cdx.colophon := by
  unfold execFlush at h
  grind [startIo_core, modCmd_core, finishOk_core, foldl_core]

@[simp] theorem readSpanned_core (slot e : Nat) (ordered : Bool) (cards : List Nat) (s : State) :
    (readSpanned slot e ordered cards s).pending = s.pending ∧ (readSpanned slot e ordered cards s).cdx.mem = s.cdx.mem ∧ (readSpanned slot e ordered cards s).cdx.colophon = s.cdx.colophon := by
  unfold readSpanned
  simp [foldl_core]

@[simp] theorem readCards_core (slot : Nat) (c : Cmd) (n : Namespace) (data : List Nat) (s : State) :
    (readCards slot c n data s).pending = s.pending ∧ (readCards slot c n data s).cdx.mem = s.cdx.mem ∧ (readCards slot c n data s).cdx.colophon = s.cdx.colophon := by
  unfold readCards
  repeat' (first | split | simp [foldl_core])

theorem execRead_core (slot : Nat) (s : State) (t : State) (h : execRead slot s = .next t) :
    (t).pending = s.pending ∧ (t).cdx.mem = s.cdx.mem ∧ (t).cdx.colophon = s.cdx.colophon := by
  unfold execRead at h
  injection h with h
  subst h
  simp

theorem execCompare_core (slot : Nat) (data : List Nat) (s : State) (t : State) (h : execCompare slot data s = .next t) :
    (t).pending = s.pending ∧ (t).cdx.mem = s.cdx.mem ∧ (t).cdx.colophon = s.cdx.colophon := by
  unfold execCompare at h
  injection h with h
  subst h
  simp

theorem execMapMissReadDone_core (page : Bool) (index : Nat) (s : State) (t : State) (h : execMapMissReadDone page index s = .next t) :
    (t).pending = s.pending ∧ (t).cdx.mem = s.cdx.mem ∧ (t).cdx.colophon = s.cdx.colophon := by
  unfold execMapMissReadDone at h
  injection h with h
  subst h
  (repeat' split) <;> simp

@[simp] theorem noteSequential_core (nsid lba n bytes : Nat) (s : State) :
    (noteSequential nsid lba n bytes s).pending = s.pending ∧ (noteSequential nsid lba n bytes s).cdx.mem = s.cdx.mem ∧ (noteSequential nsid lba n bytes s).cdx.colophon = s.cdx.colophon := by
  unfold noteSequential
  simp

theorem execSeqDetectorExpiry_core (index : Nat) (s : State) (t : State) (h : execSeqDetectorExpiry index s = .next t) :
    (t).pending = s.pending ∧ (t).cdx.mem = s.cdx.mem ∧ (t).cdx.colophon = s.cdx.colophon := by
  unfold execSeqDetectorExpiry at h
  injection h with h
  subst h
  simp

@[simp] theorem startWrite_core (slot : Nat) (c : Cmd) (n : Namespace) (s : State) :
    (startWrite slot c n s).pending = s.pending ∧ (startWrite slot c n s).cdx.mem = s.cdx.mem ∧ (startWrite slot c n s).cdx.colophon = s.cdx.colophon := by
  unfold startWrite
  simp

theorem execWrite_core (slot : Nat) (s : State) (t : State) (h : execWrite slot s = .next t) :
    (t).pending = s.pending ∧ (t).cdx.mem = s.cdx.mem ∧ (t).cdx.colophon = s.cdx.colophon := by
  unfold execWrite at h
  injection h with h
  subst h
  simp

theorem execOrderedWrite_core (slot : Nat) (s : State) (t : State) (h : execOrderedWrite slot s = .next t) :
    (t).pending = s.pending ∧ (t).cdx.mem = s.cdx.mem ∧ (t).cdx.colophon = s.cdx.colophon := by
  unfold execOrderedWrite at h
  injection h with h
  subst h
  simp

theorem execOrderedWriteStart_core (slot : Nat) (s : State) (t : State) (h : execOrderedWriteStart slot s = .next t) :
    (t).pending = s.pending ∧ (t).cdx.mem = s.cdx.mem ∧ (t).cdx.colophon = s.cdx.colophon := by
  unfold execOrderedWriteStart at h
  grind [startIo_core, withRange_core, startWrite_core, foldl_core]

@[simp] theorem noteRelease_core (slot : Nat) (s : State) :
    (noteRelease slot s).pending = s.pending ∧ (noteRelease slot s).cdx.mem = s.cdx.mem ∧ (noteRelease slot s).cdx.colophon = s.cdx.colophon := by
  unfold noteRelease
  simp

@[simp] theorem releaseCards_core (n : Namespace) (cards : List Nat) (s : State) :
    (releaseCards n cards s).pending = s.pending ∧ (releaseCards n cards s).cdx.mem = s.cdx.mem ∧
      (releaseCards n cards s).cdx.colophon = s.cdx.colophon := by
  refine foldl_core _ (fun t p => ?_) _ s
  split
  · exact ⟨rfl, rfl, rfl⟩
  · refine ite_core (append_core _ t) (foldl_core _ (fun u k => ?_) _ t)
    split
    · exact append_core _ u
    · exact ⟨rfl, rfl, rfl⟩

@[simp] theorem releaseWhole_core (slot : Nat) (c : Cmd) (n : Namespace) (cards : List Nat) (s : State) :
    (releaseWhole slot c n cards s).pending = s.pending ∧ (releaseWhole slot c n cards s).cdx.mem = s.cdx.mem ∧ (releaseWhole slot c n cards s).cdx.colophon = s.cdx.colophon := by
  unfold releaseWhole
  (repeat' split) <;> simp

@[simp] theorem settlePlaced_core (slot : Nat) (n : Namespace) (s : State) :
    (settlePlaced slot n s).pending = s.pending ∧ (settlePlaced slot n s).cdx.mem = s.cdx.mem ∧ (settlePlaced slot n s).cdx.colophon = s.cdx.colophon := by
  unfold settlePlaced
  (repeat' split) <;> simp

@[simp] theorem startZeroes_core (slot : Nat) (c : Cmd) (n : Namespace) (s : State) :
    (startZeroes slot c n s).pending = s.pending ∧ (startZeroes slot c n s).cdx.mem = s.cdx.mem ∧ (startZeroes slot c n s).cdx.colophon = s.cdx.colophon := by
  unfold startZeroes
  repeat' (first | split | simp [foldl_core])

theorem execWriteZeroes_core (slot : Nat) (s : State) (t : State) (h : execWriteZeroes slot s = .next t) :
    (t).pending = s.pending ∧ (t).cdx.mem = s.cdx.mem ∧ (t).cdx.colophon = s.cdx.colophon := by
  unfold execWriteZeroes at h
  grind [startIo_core, withRange_core, finishErr_core, startZeroes_core, foldl_core]

@[simp] theorem startDsm_core (slot : Nat) (c : Cmd) (ranges : List (Nat × Nat)) (s : State) :
    (startDsm slot c ranges s).pending = s.pending ∧ (startDsm slot c ranges s).cdx.mem = s.cdx.mem ∧ (startDsm slot c ranges s).cdx.colophon = s.cdx.colophon := by
  unfold startDsm
  repeat' (first | split | simp [foldl_core])

theorem execDatasetManagement_core (slot : Nat) (ranges : List (Nat × Nat)) (s : State) (t : State) (h : execDatasetManagement slot ranges s = .next t) :
    (t).pending = s.pending ∧ (t).cdx.mem = s.cdx.mem ∧ (t).cdx.colophon = s.cdx.colophon := by
  unfold execDatasetManagement at h
  injection h with h
  subst h
  simp

theorem execInvalidIoOpcode_core (slot : Nat) (s : State) (t : State) (h : execInvalidIoOpcode slot s = .next t) :
    (t).pending = s.pending ∧ (t).cdx.mem = s.cdx.mem ∧ (t).cdx.colophon = s.cdx.colophon := by
  unfold execInvalidIoOpcode at h
  injection h with h
  subst h
  simp

@[simp] theorem spanWrite_core (slot e : Nat) (c : Cmd) (n : Namespace) (data : List Nat) (s : State) :
    (spanWrite slot e c n data s).pending = s.pending ∧ (spanWrite slot e c n data s).cdx.mem = s.cdx.mem ∧ (spanWrite slot e c n data s).cdx.colophon = s.cdx.colophon := by
  unfold spanWrite
  repeat' (first | split | simp [foldl_core])

theorem execWriteDataArrived_core (slot : Nat) (data picks : List Nat) (info : List (Nat × Nat × Nat)) (s : State) (t : State) (h : execWriteDataArrived slot data picks info s = .next t) :
    (t).pending = s.pending ∧ (t).cdx.mem = s.cdx.mem ∧ (t).cdx.colophon = s.cdx.colophon := by
  unfold execWriteDataArrived at h
  injection h with h
  subst h
  repeat' (first | split | simp [foldl_core])

@[simp] theorem grantSpanned_core (slot e shelf i : Nat) (c : Cmd) (n : Namespace) (s : State) :
    (grantSpanned slot e shelf i c n s).pending = s.pending ∧ (grantSpanned slot e shelf i c n s).cdx.mem = s.cdx.mem ∧ (grantSpanned slot e shelf i c n s).cdx.colophon = s.cdx.colophon := by
  unfold grantSpanned
  (repeat' split) <;> simp

theorem execCardLockGrant_core (slot shelf card : Nat) (fresh : Bool) (picks : List Nat) (s : State) (t : State) (h : execCardLockGrant slot shelf card fresh picks s = .next t) :
    (t).pending = s.pending ∧ (t).cdx.mem = s.cdx.mem ∧ (t).cdx.colophon = s.cdx.colophon := by
  unfold execCardLockGrant at h
  injection h with h
  subst h
  (repeat' split) <;> simp

theorem execSealDelayExpiry_core (row page dataIndex : Nat) (s : State) (t : State) (h : execSealDelayExpiry row page dataIndex s = .next t) :
    (t).pending = s.pending ∧ (t).cdx.mem = s.cdx.mem ∧ (t).cdx.colophon = s.cdx.colophon := by
  unfold execSealDelayExpiry at h
  injection h with h
  subst h
  (repeat' split) <;> simp

theorem execRowIdleSeal_core (row : Nat) (s : State) (t : State) (h : execRowIdleSeal row s = .next t) :
    (t).pending = s.pending ∧ (t).cdx.mem = s.cdx.mem ∧ (t).cdx.colophon = s.cdx.colophon := by
  unfold execRowIdleSeal at h
  injection h with h
  subst h
  (repeat' split) <;> simp

end Sys2Proof.Machine
end

