-- ==== Sys2Proof/Laws/FrameDies.lean ====
section
/-! SUPPORT. What the definitions of Machine/Dies.lean keep of the queue, the Codex array and the Colophon row. -/

namespace Sys2Proof.Machine

@[simp] theorem calibrate_core (ch ce : Nat) (s : State) :
    (calibrate ch ce s).pending = s.pending ∧ (calibrate ch ce s).cdx.mem = s.cdx.mem ∧ (calibrate ch ce s).cdx.colophon = s.cdx.colophon := by
  unfold calibrate
  simp

@[simp] theorem askCalibrate_core (ch ce : Nat) (s : State) :
    (askCalibrate ch ce s).pending = s.pending ∧ (askCalibrate ch ce s).cdx.mem = s.cdx.mem ∧ (askCalibrate ch ce s).cdx.colophon = s.cdx.colophon := by
  unfold askCalibrate
  (repeat' split) <;> simp

@[simp] theorem calibrateFirst_core (ch t : Nat) (s : State) :
    (calibrateFirst ch t s).pending = s.pending ∧ (calibrateFirst ch t s).cdx.mem = s.cdx.mem ∧ (calibrateFirst ch t s).cdx.colophon = s.cdx.colophon := by
  unfold calibrateFirst
  (repeat' split) <;> simp

theorem execFlashReadIssue_core (channel target : Nat) (s : State) (t : State) (h : execFlashReadIssue channel target s = .next t) :
    (t).pending = s.pending ∧ (t).cdx.mem = s.cdx.mem ∧ (t).cdx.colophon = s.cdx.colophon := by
  unfold execFlashReadIssue at h
  injection h with h
  subst h
  repeat' (first | split | simp [foldl_core])

@[simp] theorem useDecoder_core (s0 : State) (r : ReadReq) (s : State) :
    (useDecoder s0 r s).pending = s.pending ∧ (useDecoder s0 r s).cdx.mem = s.cdx.mem ∧ (useDecoder s0 r s).cdx.colophon = s.cdx.colophon := by
  unfold useDecoder
  (repeat' split) <;> simp

theorem execFlashReadDone_core (channel target : Nat) (outcome : DecodeOutcome) (wrongCard : Bool) (s : State) (t : State) (h : execFlashReadDone channel target outcome wrongCard s = .next t) :
    (t).pending = s.pending ∧ (t).cdx.mem = s.cdx.mem ∧ (t).cdx.colophon = s.cdx.colophon := by
  unfold execFlashReadDone at h
  injection h with h
  subst h
  (repeat' split) <;> simp

@[simp] theorem returnPrograms_core (ch t : Nat) (s : State) :
    (returnPrograms ch t s).pending = s.pending ∧ (returnPrograms ch t s).cdx.mem = s.cdx.mem ∧ (returnPrograms ch t s).cdx.colophon = s.cdx.colophon := by
  unfold returnPrograms
  repeat' (first | split | simp [foldl_core])

theorem execArrayOpIssue_core (channel target : Nat) (s : State) (t : State) (h : execArrayOpIssue channel target s = .next t) :
    (t).pending = s.pending ∧ (t).cdx.mem = s.cdx.mem ∧ (t).cdx.colophon = s.cdx.colophon := by
  unfold execArrayOpIssue at h
  injection h with h
  subst h
  repeat' (first | split | simp [foldl_core])

theorem execIssueLimitExpiry_core (channel target : Nat) (s : State) (t : State) (h : execIssueLimitExpiry channel target s = .next t) :
    (t).pending = s.pending ∧ (t).cdx.mem = s.cdx.mem ∧ (t).cdx.colophon = s.cdx.colophon := by
  unfold execIssueLimitExpiry at h
  injection h with h
  subst h
  (repeat' split) <;> simp

theorem execEraseWaitExpiry_core (channel target : Nat) (s : State) (t : State) (h : execEraseWaitExpiry channel target s = .next t) :
    (t).pending = s.pending ∧ (t).cdx.mem = s.cdx.mem ∧ (t).cdx.colophon = s.cdx.colophon := by
  unfold execEraseWaitExpiry at h
  injection h with h
  subst h
  (repeat' split) <;> simp

@[simp] theorem countPages_core (s : State) (r : OpenRow) :
    (countPages s r).pending = s.pending ∧ (countPages s r).cdx.mem = s.cdx.mem ∧ (countPages s r).cdx.colophon = s.cdx.colophon := by
  unfold countPages
  (repeat' split) <;> simp

@[simp] theorem pagesDone_core (ppas : List Ppa) (s : State) :
    (pagesDone ppas s).pending = s.pending ∧ (pagesDone ppas s).cdx.mem = s.cdx.mem ∧ (pagesDone ppas s).cdx.colophon = s.cdx.colophon := by
  unfold pagesDone
  simp

@[simp] theorem programOk_core (p : ProgReq) (s : State) :
    (programOk p s).pending = s.pending ∧ (programOk p s).cdx.mem = s.cdx.mem ∧ (programOk p s).cdx.colophon = s.cdx.colophon := by
  unfold programOk
  (repeat' split) <;> simp

@[simp] theorem coastRow_core (row : Nat) (s : State) :
    (coastRow row s).pending = s.pending ∧ (coastRow row s).cdx.mem = s.cdx.mem ∧ (coastRow row s).cdx.colophon = s.cdx.colophon := by
  unfold coastRow
  (repeat' split) <;> simp

theorem execPageProgramDone_core (channel target : Nat) (s : State) (t : State) (h : execPageProgramDone channel target s = .next t) :
    (t).pending = s.pending ∧ (t).cdx.mem = s.cdx.mem ∧ (t).cdx.colophon = s.cdx.colophon := by
  unfold execPageProgramDone at h
  injection h with h
  subst h
  (repeat' split) <;> simp

@[simp] theorem coastFail_core (p : ProgReq) (s : State) :
    (coastFail p s).pending = s.pending ∧ (coastFail p s).cdx.mem = s.cdx.mem ∧ (coastFail p s).cdx.colophon = s.cdx.colophon := by
  unfold coastFail
  (repeat' split) <;> simp

theorem execProgramFail_core (channel target : Nat) (picks : List Nat) (s : State) (t : State) (h : execProgramFail channel target picks s = .next t) :
    (t).pending = s.pending ∧ (t).cdx.mem = s.cdx.mem ∧ (t).cdx.colophon = s.cdx.colophon := by
  unfold execProgramFail at h
  injection h with h
  subst h
  (repeat' split) <;> simp

@[simp] theorem bumpSusp_core (ch : Nat) (s : State) :
    (bumpSusp ch s).pending = s.pending ∧ (bumpSusp ch s).cdx.mem = s.cdx.mem ∧ (bumpSusp ch s).cdx.colophon = s.cdx.colophon := by
  unfold bumpSusp
  simp

@[simp] theorem bumpCapped_core (ch : Nat) (s : State) :
    (bumpCapped ch s).pending = s.pending ∧ (bumpCapped ch s).cdx.mem = s.cdx.mem ∧ (bumpCapped ch s).cdx.colophon = s.cdx.colophon := by
  unfold bumpCapped
  simp

theorem execReadWaitLimitExpiry_core (channel target ranUs : Nat) (s : State) (t : State) (h : execReadWaitLimitExpiry channel target ranUs s = .next t) :
    (t).pending = s.pending ∧ (t).cdx.mem = s.cdx.mem ∧ (t).cdx.colophon = s.cdx.colophon := by
  unfold execReadWaitLimitExpiry at h
  injection h with h
  subst h
  (repeat' split) <;> simp

theorem execSuspendReady_core (channel target : Nat) (s : State) (t : State) (h : execSuspendReady channel target s = .next t) :
    (t).pending = s.pending ∧ (t).cdx.mem = s.cdx.mem ∧ (t).cdx.colophon = s.cdx.colophon := by
  unfold execSuspendReady at h
  injection h with h
  subst h
  (repeat' split) <;> simp

theorem execSuspendedReadsDone_core (channel target : Nat) (s : State) (t : State) (h : execSuspendedReadsDone channel target s = .next t) :
    (t).pending = s.pending ∧ (t).cdx.mem = s.cdx.mem ∧ (t).cdx.colophon = s.cdx.colophon := by
  unfold execSuspendedReadsDone at h
  injection h with h
  subst h
  (repeat' split) <;> simp

@[simp] theorem unavailable_core (rs : List ReadReq) (s : State) :
    (unavailable rs s).pending = s.pending ∧ (unavailable rs s).cdx.mem = s.cdx.mem ∧ (unavailable rs s).cdx.colophon = s.cdx.colophon := by
  unfold unavailable
  simp [foldl_core]

theorem execDieTimeout_core (channel target : Nat) (s : State) (t : State) (h : execDieTimeout channel target s = .next t) :
    (t).pending = s.pending ∧ (t).cdx.mem = s.cdx.mem ∧ (t).cdx.colophon = s.cdx.colophon := by
  unfold execDieTimeout at h
  injection h with h
  subst h
  repeat' (first | split | simp [foldl_core])

@[simp] theorem eraseFailed_core (entry ch t : Nat) (s : State) :
    (eraseFailed entry ch t s).pending = s.pending ∧ (eraseFailed entry ch t s).cdx.mem = s.cdx.mem ∧ (eraseFailed entry ch t s).cdx.colophon = s.cdx.colophon := by
  unfold eraseFailed
  simp

@[simp] theorem settleTimeout_core (d : Die) (s : State) :
    (settleTimeout d s).pending = s.pending ∧ (settleTimeout d s).cdx.mem = s.cdx.mem ∧ (settleTimeout d s).cdx.colophon = s.cdx.colophon := by
  unfold settleTimeout
  repeat' (first | split | simp [foldl_core])

theorem execResetLunDone_core (channel target : Nat) (s : State) (t : State) (h : execResetLunDone channel target s = .next t) :
    (t).pending = s.pending ∧ (t).cdx.mem = s.cdx.mem ∧ (t).cdx.colophon = s.cdx.colophon := by
  unfold execResetLunDone at h
  injection h with h
  subst h
  (repeat' split) <;> simp

theorem execDieNotAnswering_core (channel target cause : Nat) (s : State) (t : State) (h : execDieNotAnswering channel target cause s = .next t) :
    (t).pending = s.pending ∧ (t).cdx.mem = s.cdx.mem ∧ (t).cdx.colophon = s.cdx.colophon := by
  unfold execDieNotAnswering at h
  injection h with h
  subst h
  (repeat' split) <;> simp

@[simp] theorem holdChannel_core (ch : Nat) (s : State) :
    (holdChannel ch s).pending = s.pending ∧ (holdChannel ch s).cdx.mem = s.cdx.mem ∧ (holdChannel ch s).cdx.colophon = s.cdx.colophon := by
  unfold holdChannel
  simp [foldl_core]

@[simp] theorem openChannel_core (ch : Nat) (train : Bool) (s : State) :
    (openChannel ch train s).pending = s.pending ∧ (openChannel ch train s).cdx.mem = s.cdx.mem ∧ (openChannel ch train s).cdx.colophon = s.cdx.colophon := by
  unfold openChannel
  simp

@[simp] theorem takeTraining_core (r : TrainResult) (set : Nat) (s : State) :
    (takeTraining r set s).pending = s.pending ∧ (takeTraining r set s).cdx.mem = s.cdx.mem ∧ (takeTraining r set s).cdx.colophon = s.cdx.colophon := by
  unfold takeTraining
  simp

@[simp] theorem releaseChannel_core (ch : Nat) (s : State) :
    (releaseChannel ch s).pending = s.pending ∧ (releaseChannel ch s).cdx.mem = s.cdx.mem ∧ (releaseChannel ch s).cdx.colophon = s.cdx.colophon := by
  unfold releaseChannel
  simp

theorem execChannelFault_core (channel : Nat) (r : TrainResult) (s : State) (t : State) (h : execChannelFault channel r s = .next t) :
    (t).pending = s.pending ∧ (t).cdx.mem = s.cdx.mem ∧ (t).cdx.colophon = s.cdx.colophon := by
  unfold execChannelFault at h
  injection h with h
  subst h
  repeat' (first | split | simp [foldl_core])

theorem execZqIntervalExpiry_core (channel ce : Nat) (s : State) (t : State) (h : execZqIntervalExpiry channel ce s = .next t) :
    (t).pending = s.pending ∧ (t).cdx.mem = s.cdx.mem ∧ (t).cdx.colophon = s.cdx.colophon := by
  unfold execZqIntervalExpiry at h
  injection h with h
  subst h
  (repeat' split) <;> simp

theorem execDieTempRead_core (channel target : Nat) (temp : Int) (s : State) (t : State) (h : execDieTempRead channel target temp s = .next t) :
    (t).pending = s.pending ∧ (t).cdx.mem = s.cdx.mem ∧ (t).cdx.colophon = s.cdx.colophon := by
  unfold execDieTempRead at h
  injection h with h
  subst h
  repeat' (first | split | simp [foldl_core])

theorem execRecentreSweep_core (channel : Nat) (centres : List CeTrain) (temp : Int) (s : State) (t : State) (h : execRecentreSweep channel centres temp s = .next t) :
    (t).pending = s.pending ∧ (t).cdx.mem = s.cdx.mem ∧ (t).cdx.colophon = s.cdx.colophon := by
  unfold execRecentreSweep at h
  injection h with h
  subst h
  (repeat' split) <;> simp

theorem execRosterSync_core (channel : Nat) (s : State) (t : State) (h : execRosterSync channel s = .next t) :
    (t).pending = s.pending ∧ (t).cdx.mem = s.cdx.mem ∧ (t).cdx.colophon = s.cdx.colophon := by
  unfold execRosterSync at h
  injection h with h
  subst h
  (repeat' split) <;> simp

@[simp] theorem retireDone_core (channel : Nat) (s : State) :
    (retireDone channel s).pending = s.pending ∧ (retireDone channel s).cdx.mem = s.cdx.mem ∧ (retireDone channel s).cdx.colophon = s.cdx.colophon := by
  unfold retireDone
  simp [foldl_core]

theorem execRosterLoad_core (channel : Nat) (crcOk : Bool) (s : State) (t : State) (h : execRosterLoad channel crcOk s = .next t) :
    (t).pending = s.pending ∧ (t).cdx.mem = s.cdx.mem ∧ (t).cdx.colophon = s.cdx.colophon := by
  unfold execRosterLoad at h
  injection h with h
  subst h
  (repeat' split) <;> simp

end Sys2Proof.Machine
end

