-- ==== Sys2Proof/Laws/FrameLadder.lean ====
section
/-! SUPPORT. What the definitions of Machine/Ladder.lean keep of the queue, the Codex array and the Colophon row. -/

namespace Sys2Proof.Machine

@[simp] theorem dropWord_core (ppa : Ppa) (s : State) :
    (dropWord ppa s).pending = s.pending ∧ (dropWord ppa s).cdx.mem = s.cdx.mem ∧ (dropWord ppa s).cdx.colophon = s.cdx.colophon := by
  unfold dropWord
  (repeat' split) <;> simp

@[simp] theorem handBack_core (ppa : Ppa) (s : State) :
    (handBack ppa s).pending = s.pending ∧ (handBack ppa s).cdx.mem = s.cdx.mem ∧ (handBack ppa s).cdx.colophon = s.cdx.colophon := by
  unfold handBack
  simp

@[simp] theorem serveWord_core (w : LadderWord) (s : State) :
    (serveWord w s).pending = s.pending ∧ (serveWord w s).cdx.mem = s.cdx.mem ∧ (serveWord w s).cdx.colophon = s.cdx.colophon := by
  unfold serveWord
  simp [foldl_core]

@[simp] theorem countSoft_core (p : Ppa) (s : State) :
    (countSoft p s).pending = s.pending ∧ (countSoft p s).cdx.mem = s.cdx.mem ∧ (countSoft p s).cdx.colophon = s.cdx.colophon := by
  unfold countSoft
  simp

@[simp] theorem goToStep_core (n : Nat) (ppa : Ppa) (s : State) :
    (goToStep n ppa s).pending = s.pending ∧ (goToStep n ppa s).cdx.mem = s.cdx.mem ∧ (goToStep n ppa s).cdx.colophon = s.cdx.colophon := by
  unfold goToStep
  simp

@[simp] theorem retryStep_core (w : LadderWord) (s : State) :
    (retryStep w s).pending = s.pending ∧ (retryStep w s).cdx.mem = s.cdx.mem ∧ (retryStep w s).cdx.colophon = s.cdx.colophon := by
  unfold retryStep
  (repeat' split) <;> simp

@[simp] theorem readCompanions_core (w : LadderWord) (l : List (Nat × Ppa)) (s : State) :
    (readCompanions w l s).pending = s.pending ∧ (readCompanions w l s).cdx.mem = s.cdx.mem ∧ (readCompanions w l s).cdx.colophon = s.cdx.colophon := by
  unfold readCompanions
  apply foldl_core
  intro s a
  repeat' (first | split | simp [foldl_core])

@[simp] theorem countRebuild_core (w : LadderWord) (s : State) :
    (countRebuild w s).pending = s.pending ∧ (countRebuild w s).cdx.mem = s.cdx.mem ∧ (countRebuild w s).cdx.colophon = s.cdx.colophon := by
  unfold countRebuild
  (repeat' split) <;> simp

@[simp] theorem serveHeld_core (w : LadderWord) (s : State) :
    (serveHeld w s).pending = s.pending ∧ (serveHeld w s).cdx.mem = s.cdx.mem ∧ (serveHeld w s).cdx.colophon = s.cdx.colophon := by
  unfold serveHeld
  simp [foldl_core]

@[simp] theorem rebuildWord_core (w : LadderWord) (pick : Nat) (s : State) : SameCore s (rebuildWord w pick s) := by
  unfold rebuildWord
  extract_lets t
  have k : SameCore s t := countRebuild_core w s
  clear_value t
  split
  · rename_i sh i x _ _
    have k2 : SameCore s (touchSegment sh t) := k.trans (touchSegment_core sh t)
    split
    · rename_i u hu
      exact k2.trans (SameCore.trans (rewriteCard_core _ _ _ _ _ _ _ _ hu) (serveWord_core w u))
    · exact k2.trans (SameCore.trans (serveHeld_core w _) (stallRow_core _ _ _))
  · exact k.trans (serveWord_core w t)

@[simp] theorem rebuildStep_core (w : LadderWord) (pick : Nat) (s : State) : SameCore s (rebuildStep w pick s) := by
  unfold rebuildStep
  split
  · exact serveWord_core w s
  · rename_i n _
    extract_lets t lost
    have k : SameCore s t := forceVictim_core n _ s
    clear_value t
    have a : ∀ f : LadderWord → LadderWord, SameCore s (modWord w.ppa f t) := fun f => k.trans (modWord_core _ f t)
    refine .ite (.ite (k.trans (serveWord_core w t)) k) (.ite (a _) ?_)
    refine .ite (k.trans (readCompanions_core w _ t)) (.ite ?_ (.ite ?_ k))
    · exact k.trans (.fold (fun u (x : _ × LadderWord) => rebuildWord x.2 pick u)
        (fun u x => rebuildWord_core x.2 pick u) lost t)
    · exact k.trans (.fold (fun u (x : _ × LadderWord) => modWord x.2.ppa (fun y => { y with step := 7 }) u)
        (fun u x => modWord_core _ _ u) lost t)

@[simp] theorem loseShelf_core (shelf : Nat) (s : State) :
    (loseShelf shelf s).pending = s.pending ∧ (loseShelf shelf s).cdx.mem = s.cdx.mem ∧ (loseShelf shelf s).cdx.colophon = s.cdx.colophon := by
  unfold loseShelf
  simp

@[simp] theorem countLost_core (n : Nat) (s : State) :
    (countLost n s).pending = s.pending ∧ (countLost n s).cdx.mem = s.cdx.mem ∧ (countLost n s).cdx.colophon = s.cdx.colophon := by
  unfold countLost
  simp

@[simp] theorem loseSegment_core (g : Segment) (s : State) :
    (loseSegment g s).pending = s.pending ∧ (loseSegment g s).cdx.mem = s.cdx.mem ∧ (loseSegment g s).cdx.colophon = s.cdx.colophon := by
  unfold loseSegment
  simp [foldl_core]

@[simp] theorem markShelf_core (shelf : Nat) (s : State) : SameCore s (markShelf shelf s) := by
  unfold markShelf
  exact .fold _ (fun u k => append_core _ u) _ s

@[simp] theorem loseSlot_core (c : Nat) (s : State) (i : Nat) : SameCore s (loseSlot c s i) := by
  unfold loseSlot
  generalize 2048 * c + i = n
  exact SameCore.trans (markShelf_core n s) (loseShelf_core n _)

@[simp] theorem losePage_core (c : Nat) (s : State) : SameCore s (losePage c s) := by
  unfold losePage
  generalize List.range 2048 = l, (32768 : Nat) = n
  exact SameCore.trans (.fold (loseSlot c) (fun u i => loseSlot_core c u i) l s)
    (SameCore.trans (countLost_core n _) (modIndex_core c _ _))

@[simp] theorem loseSystem_core (ppa : Ppa) (s : State) :
    (loseSystem ppa s).pending = s.pending ∧ (loseSystem ppa s).cdx.mem = s.cdx.mem ∧ (loseSystem ppa s).cdx.colophon = s.cdx.colophon := by
  unfold loseSystem
  grind [losePage_core, loseSegment_core, record_core, foldl_core]

@[simp] theorem askAgain_core (why : ReadFor) (s : State) :
    (askAgain why s).pending = s.pending ∧ (askAgain why s).cdx.mem = s.cdx.mem ∧ (askAgain why s).cdx.colophon = s.cdx.colophon := by
  unfold askAgain
  (repeat' split) <;> simp

@[simp] theorem readAgain_core (w : LadderWord) (s : State) :
    (readAgain w s).pending = s.pending ∧ (readAgain w s).cdx.mem = s.cdx.mem ∧ (readAgain w s).cdx.colophon = s.cdx.colophon := by
  unfold readAgain
  grind [handBack_core, askAgain_core, dropWord_core, foldl_core]

@[simp] theorem biteOne_core (why : ReadFor) (s : State) :
    (biteOne why s).pending = s.pending ∧ (biteOne why s).cdx.mem = s.cdx.mem ∧ (biteOne why s).cdx.colophon = s.cdx.colophon := by
  unfold biteOne
  (repeat' split) <;> simp

@[simp] theorem biteWord_core (w : LadderWord) (s : State) :
    (biteWord w s).pending = s.pending ∧ (biteWord w s).cdx.mem = s.cdx.mem ∧ (biteWord w s).cdx.colophon = s.cdx.colophon := by
  unfold biteWord
  grind [inSlotOrder_core, retryLookups_core, handBack_core, biteOne_core, dropWord_core, foldl_core]

@[simp] theorem foxStep_core (w : LadderWord) (pick : Nat) (s : State) : SameCore s (foxStep w pick s) := by
  unfold foxStep
  refine .ite ?_ ?_
  · extract_lets t
    have k : SameCore s t := loseSystem_core _ s
    clear_value t
    exact .ite (k.trans (SameCore.trans (countStep_core 7 t) (biteWord_core w _))) (.refl s)
  · split
    · exact readAgain_core w s
    · rename_i sh i _
      extract_lets t
      have k : SameCore s t := touchSegment_core sh s
      clear_value t
      split
      · exact k.trans (stallRow_core _ _ _)
      · rename_i new u hu
        have k2 : SameCore t u := by
          have h := rewriteCard_core _ _ _ _ _ _ _ _ hu
          split at h
          · exact SameCore.trans (drawFree_core t) h
          · exact h
        exact k.trans (k2.trans (SameCore.trans (foxSet_core _ _ _ _ u)
          (SameCore.trans (countStep_core 7 _) (biteWord_core w _))))

@[simp] theorem ladderStep_core (w : LadderWord) (pick : Nat) (s : State) : SameCore s (ladderStep w pick s) := by
  unfold ladderStep
  exact .ite (retryStep_core w s) (.ite (rebuildStep_core w pick s) (foxStep_core w pick s))

theorem execLadderStepDone_core (ppa : Ppa) (fresh : Bool) (picks : List Nat) (s : State) (t : State) (h : execLadderStepDone ppa fresh picks s = .next t) :
    (t).pending = s.pending ∧ (t).cdx.mem = s.cdx.mem ∧ (t).cdx.colophon = s.cdx.colophon := by
  unfold execLadderStepDone at h
  injection h with h
  subst h
  (repeat' split) <;> simp

end Sys2Proof.Machine
end

