-- ==== Sys2Proof/Laws/FrameReclaim.lean ====
section
/-! SUPPORT. What the definitions of Machine/Reclaim.lean keep of the queue, the Codex array and the Colophon row. -/

namespace Sys2Proof.Machine

@[simp] theorem makeVictim_core (n : Nat) (s : State) :
    (makeVictim n s).pending = s.pending ∧ (makeVictim n s).cdx.mem = s.cdx.mem ∧ (makeVictim n s).cdx.colophon = s.cdx.colophon := by
  unfold makeVictim
  simp

@[simp] theorem startFold_core (idle : Bool) (s : State) :
    (startFold idle s).pending = s.pending ∧ (startFold idle s).cdx.mem = s.cdx.mem ∧ (startFold idle s).cdx.colophon = s.cdx.colophon := by
  unfold startFold
  simp

@[simp] theorem foldWanted_core (s : State) :
    (foldWanted s).pending = s.pending ∧ (foldWanted s).cdx.mem = s.cdx.mem ∧ (foldWanted s).cdx.colophon = s.cdx.colophon := by
  unfold foldWanted
  (repeat' split) <;> simp

theorem execFoldStart_core (s : State) (t : State) (h : execFoldStart s = .next t) :
    (t).pending = s.pending ∧ (t).cdx.mem = s.cdx.mem ∧ (t).cdx.colophon = s.cdx.colophon := by
  unfold execFoldStart at h
  injection h with h
  subst h
  simp

theorem execIdleFoldDelayExpiry_core (s : State) (t : State) (h : execIdleFoldDelayExpiry s = .next t) :
    (t).pending = s.pending ∧ (t).cdx.mem = s.cdx.mem ∧ (t).cdx.colophon = s.cdx.colophon := by
  unfold execIdleFoldDelayExpiry at h
  injection h with h
  subst h
  (repeat' split) <;> simp

theorem foldSourceNow_core (s : State) (b0 : Nat) (out : State) (hout : foldSourceNow s = some (b0, out)) :
    (out).pending = s.pending ∧ (out).cdx.mem = s.cdx.mem ∧ (out).cdx.colophon = s.cdx.colophon := by
  unfold foldSourceNow at hout
  (repeat' split at hout) <;> simp_all <;> grind [makeVictim_core, foldl_core]

@[simp] theorem stopFold_core (s : State) :
    (stopFold s).pending = s.pending ∧ (stopFold s).cdx.mem = s.cdx.mem ∧ (stopFold s).cdx.colophon = s.cdx.colophon := by
  unfold stopFold
  simp

@[simp] theorem foldOne_core (picks : List Nat) (s : State) :
    (foldOne picks s).pending = s.pending ∧ (foldOne picks s).cdx.mem = s.cdx.mem ∧ (foldOne picks s).cdx.colophon = s.cdx.colophon := by
  unfold foldOne
  grind [foldSourceNow_core, copyLoop_core, recountVictims_core, foldl_core]

theorem execFoldUnit_core (fresh : Bool) (picks : List Nat) (s : State) (t : State) (h : execFoldUnit fresh picks s = .next t) :
    (t).pending = s.pending ∧ (t).cdx.mem = s.cdx.mem ∧ (t).cdx.colophon = s.cdx.colophon := by
  unfold execFoldUnit at h
  injection h with h
  subst h
  (repeat' split) <;> simp

theorem execFoldRowProgrammed_core (row : Nat) (s : State) (t : State) (h : execFoldRowProgrammed row s = .next t) :
    (t).pending = s.pending ∧ (t).cdx.mem = s.cdx.mem ∧ (t).cdx.colophon = s.cdx.colophon := by
  unfold execFoldRowProgrammed at h
  injection h with h
  subst h
  (repeat' split) <;> simp

@[simp] theorem takeVictim_core (g n : Nat) (forced : Bool) (s : State) :
    (takeVictim g n forced s).pending = s.pending ∧ (takeVictim g n forced s).cdx.mem = s.cdx.mem ∧ (takeVictim g n forced s).cdx.colophon = s.cdx.colophon := by
  unfold takeVictim
  simp

theorem execWeedingVictimSelect_core (planeGroup : Nat) (s : State) (t : State) (h : execWeedingVictimSelect planeGroup s = .next t) :
    (t).pending = s.pending ∧ (t).cdx.mem = s.cdx.mem ∧ (t).cdx.colophon = s.cdx.colophon := by
  unfold execWeedingVictimSelect at h
  injection h with h
  subst h
  (repeat' split) <;> simp

@[simp] theorem countWeed_core (before after : State) : SameCore after (countWeed before after) := ⟨rfl, rfl, rfl⟩

theorem rotationRow_core (v : Victim) (s : State) (b0 : Nat) (out : State) (hout : rotationRow v s = some (b0, out)) :
    (out).pending = s.pending ∧ (out).cdx.mem = s.cdx.mem ∧ (out).cdx.colophon = s.cdx.colophon := by
  unfold rotationRow at hout
  (repeat' split at hout) <;> simp_all <;> grind [openRowIn_core, openStripe_core, foldl_core]

@[simp] theorem copyVictim_core (v : Victim) (picks : List Nat) (s : State) : SameCore s (copyVictim v picks s) := by
  unfold copyVictim
  refine .ite ?_ (SameCore.trans (moveUnit_core _ _ _ _ _ _ _ s) (countWeed_core _ _))
  split
  · exact .refl s
  · rename_i room t ht
    exact SameCore.trans (rotationRow_core v s room t ht)
      (SameCore.trans (moveUnit_core _ _ _ _ _ _ _ t) (countWeed_core _ _))

theorem execWeedingCopy_core (planeGroup : Nat) (fresh : Bool) (picks : List Nat) (s : State) (t : State) (h : execWeedingCopy planeGroup fresh picks s = .next t) :
    (t).pending = s.pending ∧ (t).cdx.mem = s.cdx.mem ∧ (t).cdx.colophon = s.cdx.colophon := by
  unfold execWeedingCopy at h
  repeat' (first | split at h | (injection h with h; subst h) | simp at h)
  all_goals simp [foldl_core]

@[simp] theorem takeRotation_core (g n : Nat) (s : State) :
    (takeRotation g n s).pending = s.pending ∧ (takeRotation g n s).cdx.mem = s.cdx.mem ∧ (takeRotation g n s).cdx.colophon = s.cdx.colophon := by
  unfold takeRotation
  simp

theorem execRotationStart_core (planeGroup : Nat) (s : State) (t : State) (h : execRotationStart planeGroup s = .next t) :
    (t).pending = s.pending ∧ (t).cdx.mem = s.cdx.mem ∧ (t).cdx.colophon = s.cdx.colophon := by
  unfold execRotationStart at h
  injection h with h
  subst h
  repeat' (first | split | simp [foldl_core])

@[simp] theorem eraseIntent_core (n : Nat) (s : State) :
    (eraseIntent n s).pending = s.pending ∧ (eraseIntent n s).cdx.mem = s.cdx.mem ∧ (eraseIntent n s).cdx.colophon = s.cdx.colophon := by
  unfold eraseIntent
  grind [appendNow_core, closeWaiting_core, modBlk_core, foldl_core]

theorem execEraseGateOpen_core (entry : Nat) (s : State) (t : State) (h : execEraseGateOpen entry s = .next t) :
    (t).pending = s.pending ∧ (t).cdx.mem = s.cdx.mem ∧ (t).cdx.colophon = s.cdx.colophon := by
  unfold execEraseGateOpen at h
  injection h with h
  subst h
  (repeat' split) <;> simp

@[simp] theorem modJob_core (n : Nat) (f : EraseJob → EraseJob) (s : State) :
    (modJob n f s).pending = s.pending ∧ (modJob n f s).cdx.mem = s.cdx.mem ∧ (modJob n f s).cdx.colophon = s.cdx.colophon := by
  unfold modJob
  simp

theorem execEraseIntentDurable_core (entry : Nat) (s : State) (t : State) (h : execEraseIntentDurable entry s = .next t) :
    (t).pending = s.pending ∧ (t).cdx.mem = s.cdx.mem ∧ (t).cdx.colophon = s.cdx.colophon := by
  unfold execEraseIntentDurable at h
  injection h with h
  subst h
  repeat' (first | split | simp [foldl_core])

@[simp] theorem forgetCards_core (n : Nat) (s : State) :
    (forgetCards n s).pending = s.pending ∧ (forgetCards n s).cdx.mem = s.cdx.mem ∧ (forgetCards n s).cdx.colophon = s.cdx.colophon := by
  unfold forgetCards
  simp

@[simp] theorem retireBlock_core (n pos : Nat) (s : State) :
    (retireBlock n pos s).pending = s.pending ∧ (retireBlock n pos s).cdx.mem = s.cdx.mem ∧ (retireBlock n pos s).cdx.colophon = s.cdx.colophon := by
  unfold retireBlock
  (repeat' split) <;> simp

@[simp] theorem noteEraseFail_core (n pos : Nat) (s : State) :
    (noteEraseFail n pos s).pending = s.pending ∧ (noteEraseFail n pos s).cdx.mem = s.cdx.mem ∧ (noteEraseFail n pos s).cdx.colophon = s.cdx.colophon := by
  unfold noteEraseFail
  (repeat' split) <;> simp

@[simp] theorem forgetSoft_core (n : Nat) (s : State) :
    (forgetSoft n s).pending = s.pending ∧ (forgetSoft n s).cdx.mem = s.cdx.mem ∧ (forgetSoft n s).cdx.colophon = s.cdx.colophon := by
  unfold forgetSoft
  simp

@[simp] theorem sanitizeSettle_core (n : Nat) (s : State) :
    (sanitizeSettle n s).pending = s.pending ∧ (sanitizeSettle n s).cdx.mem = s.cdx.mem ∧ (sanitizeSettle n s).cdx.colophon = s.cdx.colophon := by
  unfold sanitizeSettle
  repeat' (first | split | simp [foldl_core])

@[simp] theorem eraseEnds_core (n : Nat) (failed : List Nat) (s : State) :
    (eraseEnds n failed s).pending = s.pending ∧ (eraseEnds n failed s).cdx.mem = s.cdx.mem ∧ (eraseEnds n failed s).cdx.colophon = s.cdx.colophon := by
  unfold eraseEnds
  repeat' (first | split | simp [foldl_core])

@[simp] theorem clearErase_core (n : Nat) (s : State) :
    (clearErase n s).pending = s.pending ∧ (clearErase n s).cdx.mem = s.cdx.mem ∧ (clearErase n s).cdx.colophon = s.cdx.colophon := by
  unfold clearErase
  simp

@[simp] theorem startReerase_core (j : EraseJob) (s : State) :
    (startReerase j s).pending = s.pending ∧ (startReerase j s).cdx.mem = s.cdx.mem ∧ (startReerase j s).cdx.colophon = s.cdx.colophon := by
  unfold startReerase
  repeat' (first | split | simp [foldl_core])

@[simp] theorem checkReerase_core (j : EraseJob) (s : State) :
    (checkReerase j s).pending = s.pending ∧ (checkReerase j s).cdx.mem = s.cdx.mem ∧ (checkReerase j s).cdx.colophon = s.cdx.colophon := by
  unfold checkReerase
  simp [foldl_core]

@[simp] theorem reeraseEnded_core (j : EraseJob) (failed : List Nat) (s : State) :
    (reeraseEnded j failed s).pending = s.pending ∧ (reeraseEnded j failed s).cdx.mem = s.cdx.mem ∧ (reeraseEnded j failed s).cdx.colophon = s.cdx.colophon := by
  unfold reeraseEnded
  simp

theorem execBlockEraseDone_core (entry : Nat) (failed : List Nat) (s : State) (t : State) (h : execBlockEraseDone entry failed s = .next t) :
    (t).pending = s.pending ∧ (t).cdx.mem = s.cdx.mem ∧ (t).cdx.colophon = s.cdx.colophon := by
  unfold execBlockEraseDone at h
  injection h with h
  subst h
  (repeat' split) <;> simp

theorem execStartupReerase_core (entry : Nat) (bad : List Nat) (s : State) (t : State) (h : execStartupReerase entry bad s = .next t) :
    (t).pending = s.pending ∧ (t).cdx.mem = s.cdx.mem ∧ (t).cdx.colophon = s.cdx.colophon := by
  unfold execStartupReerase at h
  injection h with h
  subst h
  repeat' (first | split | simp [foldl_core])

@[simp] theorem softRetire_core (k : Nat × Nat × Nat × Nat) (s : State) :
    (softRetire k s).pending = s.pending ∧ (softRetire k s).cdx.mem = s.cdx.mem ∧ (softRetire k s).cdx.colophon = s.cdx.colophon := by
  unfold softRetire
  (repeat' split) <;> simp

theorem execRetireEvaluate_core (s : State) (t : State) (h : execRetireEvaluate s = .next t) :
    (t).pending = s.pending ∧ (t).cdx.mem = s.cdx.mem ∧ (t).cdx.colophon = s.cdx.colophon := by
  unfold execRetireEvaluate at h
  injection h with h
  subst h
  repeat' (first | split | simp [foldl_core])

@[simp] theorem setRebuild_core (lane step : Nat) (s : State) :
    (setRebuild lane step s).pending = s.pending ∧ (setRebuild lane step s).cdx.mem = s.cdx.mem ∧ (setRebuild lane step s).cdx.colophon = s.cdx.colophon := by
  unfold setRebuild
  simp

@[simp] theorem forceWide_core (lane : Nat) (system : Bool) (s : State) :
    (forceWide lane system s).pending = s.pending ∧ (forceWide lane system s).cdx.mem = s.cdx.mem ∧ (forceWide lane system s).cdx.colophon = s.cdx.colophon := by
  unfold forceWide
  simp [foldl_core]

theorem execLaneRebuildStep_core (lane : Nat) (picks : List Nat) (s out : State)
    (h : execLaneRebuildStep lane picks s = .next out) : SameCore s out := by
  unfold execLaneRebuildStep at h
  injection h with h
  subst h
  split
  · exact .refl s
  · refine SameCore.ite (.refl s) (.ite ?_ (.ite (.refl s) (forceWide_core lane false s)))
    extract_lets items t
    have k : SameCore s t := forceWide_core lane true s
    clear_value t
    exact .ite (k.trans (SameCore.trans (moveUnit_core _ _ _ _ _ _ _ t) (countWeed_core _ _)))
      (.ite k (k.trans (setRebuild_core _ _ t)))

theorem execLaneRebuildEnd_core (lane : Nat) (s : State) (t : State) (h : execLaneRebuildEnd lane s = .next t) :
    (t).pending = s.pending ∧ (t).cdx.mem = s.cdx.mem ∧ (t).cdx.colophon = s.cdx.colophon := by
  unfold execLaneRebuildEnd at h
  injection h with h
  subst h
  (repeat' split) <;> simp

end Sys2Proof.Machine
end

