-- ==== Sys2Proof/Laws/FrameKeys.lean ====
section
/-! SUPPORT. What the definitions of Machine/Keys.lean keep of the queue, the Codex array and the Colophon row. -/

namespace Sys2Proof.Machine

@[simp] theorem putKey_core (r : KeyRec) (s : State) :
    (putKey r s).pending = s.pending ∧ (putKey r s).cdx.mem = s.cdx.mem ∧ (putKey r s).cdx.colophon = s.cdx.colophon := by
  unfold putKey
  simp

@[simp] theorem compactKeys_core (s : State) :
    (compactKeys s).pending = s.pending ∧ (compactKeys s).cdx.mem = s.cdx.mem ∧ (compactKeys s).cdx.colophon = s.cdx.colophon := by
  unfold compactKeys
  repeat' (first | split | simp [foldl_core])

@[simp] theorem appendKey_core (r : KeyRec) (s : State) :
    (appendKey r s).pending = s.pending ∧ (appendKey r s).cdx.mem = s.cdx.mem ∧ (appendKey r s).cdx.colophon = s.cdx.colophon := by
  unfold appendKey
  simp

@[simp] theorem zeroiseBelow_core (k g : Nat) (s : State) :
    (zeroiseBelow k g s).pending = s.pending ∧ (zeroiseBelow k g s).cdx.mem = s.cdx.mem ∧ (zeroiseBelow k g s).cdx.colophon = s.cdx.colophon := by
  unfold zeroiseBelow
  simp

@[simp] theorem markSwept_core (k : Nat) (s : State) :
    (markSwept k s).pending = s.pending ∧ (markSwept k s).cdx.mem = s.cdx.mem ∧ (markSwept k s).cdx.colophon = s.cdx.colophon := by
  unfold markSwept
  simp

theorem execNoiseHealthFail_core (s : State) (t : State) (h : execNoiseHealthFail s = .next t) :
    (t).pending = s.pending ∧ (t).cdx.mem = s.cdx.mem ∧ (t).cdx.colophon = s.cdx.colophon := by
  unfold execNoiseHealthFail at h
  injection h with h
  subst h
  (repeat' split) <;> simp

theorem execDrbgReseed_core (s : State) (t : State) (h : execDrbgReseed s = .next t) :
    (t).pending = s.pending ∧ (t).cdx.mem = s.cdx.mem ∧ (t).cdx.colophon = s.cdx.colophon := by
  unfold execDrbgReseed at h
  injection h with h
  subst h
  (repeat' split) <;> simp

@[simp] theorem newKey_core (k : Nat) (sweepDone : Bool) (s : State) :
    (newKey k sweepDone s).pending = s.pending ∧ (newKey k sweepDone s).cdx.mem = s.cdx.mem ∧ (newKey k sweepDone s).cdx.colophon = s.cdx.colophon := by
  unfold newKey
  simp

@[simp] theorem addRenewals_core (l : List Renewal) (s : State) :
    (addRenewals l s).pending = s.pending ∧ (addRenewals l s).cdx.mem = s.cdx.mem ∧ (addRenewals l s).cdx.colophon = s.cdx.colophon := by
  unfold addRenewals
  simp

@[simp] theorem modRenewal_core (r : Renewal) (f : Renewal → Renewal) (s : State) :
    (modRenewal r f s).pending = s.pending ∧ (modRenewal r f s).cdx.mem = s.cdx.mem ∧ (modRenewal r f s).cdx.colophon = s.cdx.colophon := by
  unfold modRenewal
  simp

@[simp] theorem appendSweep_core (r : Renewal) (s : State) :
    (appendSweep r s).pending = s.pending ∧ (appendSweep r s).cdx.mem = s.cdx.mem ∧ (appendSweep r s).cdx.colophon = s.cdx.colophon := by
  unfold appendSweep
  (repeat' split) <;> simp

@[simp] theorem takeFormat_core (r : Renewal) (s : State) :
    (takeFormat r s).pending = s.pending ∧ (takeFormat r s).cdx.mem = s.cdx.mem ∧ (takeFormat r s).cdx.colophon = s.cdx.colophon := by
  unfold takeFormat
  (repeat' split) <;> simp

@[simp] theorem runRenewal_core (r : Renewal) (s : State) :
    (runRenewal r s).pending = s.pending ∧ (runRenewal r s).cdx.mem = s.cdx.mem ∧ (runRenewal r s).cdx.colophon = s.cdx.colophon := by
  unfold runRenewal
  simp [foldl_core]

theorem execRenewSlot_core (slot : Nat) (s : State) (t : State) (h : execRenewSlot slot s = .next t) :
    (t).pending = s.pending ∧ (t).cdx.mem = s.cdx.mem ∧ (t).cdx.colophon = s.cdx.colophon := by
  unfold execRenewSlot at h
  injection h with h
  subst h
  (repeat' split) <;> simp

@[simp] theorem opalAnswer_core (session status : Nat) (values : List Nat) (s : State) :
    (opalAnswer session status values s).pending = s.pending ∧ (opalAnswer session status values s).cdx.mem = s.cdx.mem ∧ (opalAnswer session status values s).cdx.colophon = s.cdx.colophon := by
  unfold opalAnswer
  simp

@[simp] theorem dropNamespaces_core (l : List Nat) (s : State) :
    (dropNamespaces l s).pending = s.pending ∧ (dropNamespaces l s).cdx.mem = s.cdx.mem ∧ (dropNamespaces l s).cdx.colophon = s.cdx.colophon := by
  unfold dropNamespaces
  simp

@[simp] theorem renewalCommandDone_core (slot : Nat) (s : State) :
    (renewalCommandDone slot s).pending = s.pending ∧ (renewalCommandDone slot s).cdx.mem = s.cdx.mem ∧ (renewalCommandDone slot s).cdx.colophon = s.cdx.colophon := by
  unfold renewalCommandDone
  (repeat' split) <;> simp

@[simp] theorem sanitizeAdvance_core (s : State) :
    (sanitizeAdvance s).pending = s.pending ∧ (sanitizeAdvance s).cdx.mem = s.cdx.mem ∧ (sanitizeAdvance s).cdx.colophon = s.cdx.colophon := by
  unfold sanitizeAdvance
  repeat' (first | split | simp [foldl_core])

@[simp] theorem renewalHeard_core (r : Renewal) (s : State) :
    (renewalHeard r s).pending = s.pending ∧ (renewalHeard r s).cdx.mem = s.cdx.mem ∧ (renewalHeard r s).cdx.colophon = s.cdx.colophon := by
  unfold renewalHeard
  repeat' (first | split | simp [foldl_core])

theorem execSweepDurable_core (slot : Nat) (s : State) (t : State) (h : execSweepDurable slot s = .next t) :
    (t).pending = s.pending ∧ (t).cdx.mem = s.cdx.mem ∧ (t).cdx.colophon = s.cdx.colophon := by
  unfold execSweepDurable at h
  injection h with h
  subst h
  repeat' (first | split | simp [foldl_core])

@[simp] theorem renewalFails_core (r : Renewal) (s : State) :
    (renewalFails r s).pending = s.pending ∧ (renewalFails r s).cdx.mem = s.cdx.mem ∧ (renewalFails r s).cdx.colophon = s.cdx.colophon := by
  unfold renewalFails
  repeat' (first | split | simp [foldl_core])

theorem execKeygenTimeout_core (slot : Nat) (s : State) (t : State) (h : execKeygenTimeout slot s = .next t) :
    (t).pending = s.pending ∧ (t).cdx.mem = s.cdx.mem ∧ (t).cdx.colophon = s.cdx.colophon := by
  unfold execKeygenTimeout at h
  injection h with h
  subst h
  (repeat' split) <;> simp

@[simp] theorem clearRanges_core (nsid : Nat) (s : State) :
    (clearRanges nsid s).pending = s.pending ∧ (clearRanges nsid s).cdx.mem = s.cdx.mem ∧ (clearRanges nsid s).cdx.colophon = s.cdx.colophon := by
  unfold clearRanges
  simp

@[simp] theorem takeNamespace_core (slot nsid : Nat) (s : State) :
    (takeNamespace slot nsid s).pending = s.pending ∧ (takeNamespace slot nsid s).cdx.mem = s.cdx.mem ∧ (takeNamespace slot nsid s).cdx.colophon = s.cdx.colophon := by
  unfold takeNamespace
  simp

@[simp] theorem sendFormat_core (slot e ses : Nat) (s : State) :
    (sendFormat slot e ses s).pending = s.pending ∧ (sendFormat slot e ses s).cdx.mem = s.cdx.mem ∧ (sendFormat slot e ses s).cdx.colophon = s.cdx.colophon := by
  unfold sendFormat
  repeat' (first | split | simp [foldl_core])

@[simp] theorem formatNvm_core (slot : Nat) (own : Namespace → State → State) (c : Cmd) (s : State)
    (h : ∀ n t, (own n t).pending = t.pending ∧ (own n t).cdx.mem = t.cdx.mem ∧ (own n t).cdx.colophon = t.cdx.colophon) :
    (formatNvm slot own c s).pending = s.pending ∧ (formatNvm slot own c s).cdx.mem = s.cdx.mem ∧
      (formatNvm slot own c s).cdx.colophon = s.cdx.colophon := by
  unfold formatNvm
  (repeat' split) <;> simp [h]

theorem execFormatNvmRelease_core (slot : Nat) (s : State) (t : State) (h : execFormatNvmRelease slot s = .next t) :
    (t).pending = s.pending ∧ (t).cdx.mem = s.cdx.mem ∧ (t).cdx.colophon = s.cdx.colophon := by
  unfold execFormatNvmRelease at h
  injection h with h
  subst h
  simp

theorem execFormatNvmCryptoErase_core (slot : Nat) (s : State) (t : State) (h : execFormatNvmCryptoErase slot s = .next t) :
    (t).pending = s.pending ∧ (t).cdx.mem = s.cdx.mem ∧ (t).cdx.colophon = s.cdx.colophon := by
  unfold execFormatNvmCryptoErase at h
  injection h with h
  subst h
  simp

@[simp] theorem endRebuild_core (e : Nat) (s : State) :
    (endRebuild e s).pending = s.pending ∧ (endRebuild e s).cdx.mem = s.cdx.mem ∧ (endRebuild e s).cdx.colophon = s.cdx.colophon := by
  unfold endRebuild
  (repeat' split) <;> simp

@[simp] theorem formatShare_core (h : PacketHdr) (nsid ses : Nat) (s : State) :
    (formatShare h nsid ses s).pending = s.pending ∧ (formatShare h nsid ses s).cdx.mem = s.cdx.mem ∧ (formatShare h nsid ses s).cdx.colophon = s.cdx.colophon := by
  unfold formatShare
  (repeat' split) <;> simp

theorem execEcFormat_core (h : PacketHdr) (nsid ses : Nat) (s : State) (out : State) (k : execEcFormat h nsid ses s = .next out) :
    (out).pending = s.pending ∧ (out).cdx.mem = s.cdx.mem ∧ (out).cdx.colophon = s.cdx.colophon := by
  unfold execEcFormat at k
  grind [agentCmd_core, formatShare_core, foldl_core]

@[simp] theorem startSanitize_core (slot kind : Nat) (s : State) :
    (startSanitize slot kind s).pending = s.pending ∧ (startSanitize slot kind s).cdx.mem = s.cdx.mem ∧ (startSanitize slot kind s).cdx.colophon = s.cdx.colophon := by
  unfold startSanitize
  (repeat' split) <;> simp

theorem execSanitizeCryptoErase_core (slot : Nat) (s : State) (t : State) (h : execSanitizeCryptoErase slot s = .next t) :
    (t).pending = s.pending ∧ (t).cdx.mem = s.cdx.mem ∧ (t).cdx.colophon = s.cdx.colophon := by
  unfold execSanitizeCryptoErase at h
  injection h with h
  subst h
  simp

theorem execSanitizeBlockErase_core (slot : Nat) (s : State) (t : State) (h : execSanitizeBlockErase slot s = .next t) :
    (t).pending = s.pending ∧ (t).cdx.mem = s.cdx.mem ∧ (t).cdx.colophon = s.cdx.colophon := by
  unfold execSanitizeBlockErase at h
  injection h with h
  subst h
  simp

theorem execSanitizeInvalid_core (slot : Nat) (s : State) (t : State) (h : execSanitizeInvalid slot s = .next t) :
    (t).pending = s.pending ∧ (t).cdx.mem = s.cdx.mem ∧ (t).cdx.colophon = s.cdx.colophon := by
  unfold execSanitizeInvalid at h
  injection h with h
  subst h
  simp

theorem opalMethod_core (slot : Nat) (f : State → State) (s out : State) (k : ∀ u, SameCore u (f u))
    (h : opalMethod slot f s = .next out) : SameCore s out := by
  unfold opalMethod at h
  injection h with h
  subst h
  refine runAdmin_core _ _ _ s fun c t => ?_
  exact SameCore.ite (finishErr_core _ _ t) (SameCore.trans (k t) (finishOk_core _ _ _))

@[simp] theorem opalOn_core (session nsid : Nat) (f : Namespace → State → State) (s : State)
    (h : ∀ n t, (f n t).pending = t.pending ∧ (f n t).cdx.mem = t.cdx.mem ∧ (f n t).cdx.colophon = t.cdx.colophon) :
    (opalOn session nsid f s).pending = s.pending ∧ (opalOn session nsid f s).cdx.mem = s.cdx.mem ∧
      (opalOn session nsid f s).cdx.colophon = s.cdx.colophon := by
  unfold opalOn
  (repeat' split) <;> simp [h]

@[simp] theorem setRange_core (x : LockRange) (s : State) :
    (setRange x s).pending = s.pending ∧ (setRange x s).cdx.mem = s.cdx.mem ∧ (setRange x s).cdx.colophon = s.cdx.colophon := by
  unfold setRange
  simp

theorem execOpalGenkey_core (slot session nsid r : Nat) (s : State) (t : State) (h : execOpalGenkey slot session nsid r s = .next t) :
    (t).pending = s.pending ∧ (t).cdx.mem = s.cdx.mem ∧ (t).cdx.colophon = s.cdx.colophon := by
  unfold execOpalGenkey at h
  grind [opalMethod_core, opalOn_core, opalAnswer_core, addRenewals_core, foldl_core]

theorem execOpalSetRange_core (slot session nsid r start len : Nat) (s : State) (t : State) (h : execOpalSetRange slot session nsid r start len s = .next t) :
    (t).pending = s.pending ∧ (t).cdx.mem = s.cdx.mem ∧ (t).cdx.colophon = s.cdx.colophon := by
  unfold execOpalSetRange at h
  grind [opalMethod_core, opalOn_core, opalAnswer_core, setRange_core, addRenewals_core, foldl_core]

theorem execOpalSetLocking_core (slot session nsid r : Nat) (readLocked writeLocked : Bool) (s : State) (t : State) (h : execOpalSetLocking slot session nsid r readLocked writeLocked s = .next t) :
    (t).pending = s.pending ∧ (t).cdx.mem = s.cdx.mem ∧ (t).cdx.colophon = s.cdx.colophon := by
  unfold execOpalSetLocking at h
  grind [opalMethod_core, opalOn_core, opalAnswer_core, setRange_core, foldl_core]

@[simp] theorem opalRevertAll_core (session : Nat) (s : State) :
    (opalRevertAll session s).pending = s.pending ∧ (opalRevertAll session s).cdx.mem = s.cdx.mem ∧ (opalRevertAll session s).cdx.colophon = s.cdx.colophon := by
  unfold opalRevertAll
  repeat' (first | split | simp [foldl_core])

theorem execOpalRevert_core (slot session : Nat) (s : State) (t : State) (h : execOpalRevert slot session s = .next t) :
    (t).pending = s.pending ∧ (t).cdx.mem = s.cdx.mem ∧ (t).cdx.colophon = s.cdx.colophon := by
  unfold execOpalRevert at h
  grind [opalMethod_core, opalAnswer_core, opalRevertAll_core, foldl_core]

@[simp] theorem opalSession_core (session method authority : Nat) (authOk : Bool) (s : State) :
    (opalSession session method authority authOk s).pending = s.pending ∧ (opalSession session method authority authOk s).cdx.mem = s.cdx.mem ∧ (opalSession session method authority authOk s).cdx.colophon = s.cdx.colophon := by
  unfold opalSession
  (repeat' split) <;> simp

theorem execOpalSessionMethod_core (slot session method authority nsid r arg : Nat) (authOk : Bool) (s : State) (t : State) (h : execOpalSessionMethod slot session method authority nsid r arg authOk s = .next t) :
    (t).pending = s.pending ∧ (t).cdx.mem = s.cdx.mem ∧ (t).cdx.colophon = s.cdx.colophon := by
  unfold execOpalSessionMethod at h
  grind [opalMethod_core, opalSession_core, opalAnswer_core, opalOn_core, setRange_core, foldl_core]

@[simp] theorem securityReceive_core (slot : Nat) (c : Cmd) (s : State) :
    (securityReceive slot c s).pending = s.pending ∧ (securityReceive slot c s).cdx.mem = s.cdx.mem ∧ (securityReceive slot c s).cdx.colophon = s.cdx.colophon := by
  unfold securityReceive
  (repeat' split) <;> simp

theorem execSecurityReceive_core (slot : Nat) (s : State) (t : State) (h : execSecurityReceive slot s = .next t) :
    (t).pending = s.pending ∧ (t).cdx.mem = s.cdx.mem ∧ (t).cdx.colophon = s.cdx.colophon := by
  unfold execSecurityReceive at h
  injection h with h
  subst h
  simp

end Sys2Proof.Machine
end

