-- ==== Sys2Proof/Laws/FrameSpaces.lean ====
section
/-! SUPPORT. What the definitions of Machine/Spaces.lean keep of the queue, the Codex array and the Colophon row. -/

namespace Sys2Proof.Machine

@[simp] theorem makeNamespace_core (n : Namespace) (s : State) :
    (makeNamespace n s).pending = s.pending ∧ (makeNamespace n s).cdx.mem = s.cdx.mem ∧ (makeNamespace n s).cdx.colophon = s.cdx.colophon := by
  unfold makeNamespace
  simp

@[simp] theorem makeDefault_core (d : NsDefault) (s : State) :
    (makeDefault d s).pending = s.pending ∧ (makeDefault d s).cdx.mem = s.cdx.mem ∧ (makeDefault d s).cdx.colophon = s.cdx.colophon := by
  unfold makeDefault
  repeat' (first | split | simp [foldl_core])

@[simp] theorem makeShare_core (c : EchelonEntry) (s : State) :
    (makeShare c s).pending = s.pending ∧ (makeShare c s).cdx.mem = s.cdx.mem ∧ (makeShare c s).cdx.colophon = s.cdx.colophon := by
  unfold makeShare
  repeat' (first | split | simp [foldl_core])

@[simp] theorem takeShares_core (s : State) :
    (takeShares s).pending = s.pending ∧ (takeShares s).cdx.mem = s.cdx.mem ∧ (takeShares s).cdx.colophon = s.cdx.colophon := by
  unfold takeShares
  repeat' (first | split | simp [foldl_core])

@[simp] theorem createNs_core (slot nsze ncap lbaf pi : Nat) (s : State) :
    (createNs slot nsze ncap lbaf pi s).pending = s.pending ∧ (createNs slot nsze ncap lbaf pi s).cdx.mem = s.cdx.mem ∧ (createNs slot nsze ncap lbaf pi s).cdx.colophon = s.cdx.colophon := by
  unfold createNs
  repeat' (first | split | simp [foldl_core])

theorem execNamespaceCreate_core (slot nsze ncap lbaf pi : Nat) (s : State) (t : State) (h : execNamespaceCreate slot nsze ncap lbaf pi s = .next t) :
    (t).pending = s.pending ∧ (t).cdx.mem = s.cdx.mem ∧ (t).cdx.colophon = s.cdx.colophon := by
  unfold execNamespaceCreate at h
  injection h with h
  subst h
  simp

@[simp] theorem deleteNs_core (slot : Nat) (c : Cmd) (s : State) :
    (deleteNs slot c s).pending = s.pending ∧ (deleteNs slot c s).cdx.mem = s.cdx.mem ∧ (deleteNs slot c s).cdx.colophon = s.cdx.colophon := by
  unfold deleteNs
  repeat' (first | split | simp [foldl_core])

theorem execNamespaceDelete_core (slot : Nat) (s : State) (t : State) (h : execNamespaceDelete slot s = .next t) :
    (t).pending = s.pending ∧ (t).cdx.mem = s.cdx.mem ∧ (t).cdx.colophon = s.cdx.colophon := by
  unfold execNamespaceDelete at h
  grind [runAdmin_core, deleteNs_core, finishErr_core, foldl_core]

@[simp] theorem setAttached_core (nsid : Nat) (v : Bool) (s : State) :
    (setAttached nsid v s).pending = s.pending ∧ (setAttached nsid v s).cdx.mem = s.cdx.mem ∧ (setAttached nsid v s).cdx.colophon = s.cdx.colophon := by
  unfold setAttached
  simp

theorem execNamespaceAttach_core (slot : Nat) (s : State) (t : State) (h : execNamespaceAttach slot s = .next t) :
    (t).pending = s.pending ∧ (t).cdx.mem = s.cdx.mem ∧ (t).cdx.colophon = s.cdx.colophon := by
  unfold execNamespaceAttach at h
  grind [runAdmin_core, finishErr_core, finishOk_core, setAttached_core, foldl_core]

theorem execNamespaceDetach_core (slot : Nat) (s : State) (t : State) (h : execNamespaceDetach slot s = .next t) :
    (t).pending = s.pending ∧ (t).cdx.mem = s.cdx.mem ∧ (t).cdx.colophon = s.cdx.colophon := by
  unfold execNamespaceDetach at h
  grind [runAdmin_core, finishErr_core, finishOk_core, setAttached_core, foldl_core]

end Sys2Proof.Machine
end

