-- ==== Sys2Proof/Laws/FrameFolio.lean ====
section
/-! SUPPORT. What the definitions of Machine/Folio.lean keep of the queue, the Codex array and the Colophon row. -/

namespace Sys2Proof.Machine

@[simp] theorem stageUnit_core (off : Nat) (s : State) :
    (stageUnit off s).pending = s.pending ∧ (stageUnit off s).cdx.mem = s.cdx.mem ∧ (stageUnit off s).cdx.colophon = s.cdx.colophon := by
  unfold stageUnit
  simp

theorem execFolioStage_core (slot : Nat) (s : State) (t : State) (h : execFolioStage slot s = .next t) :
    (t).pending = s.pending ∧ (t).cdx.mem = s.cdx.mem ∧ (t).cdx.colophon = s.cdx.colophon := by
  unfold execFolioStage at h
  grind [runAdmin_core, finishErr_core, finishOk_core, stageUnit_core, foldl_core]

@[simp] theorem setTraining_core (isB : Bool) (l : List TrainRec) (s : State) :
    (setTraining isB l s).pending = s.pending ∧ (setTraining isB l s).cdx.mem = s.cdx.mem ∧ (setTraining isB l s).cdx.colophon = s.cdx.colophon := by
  unfold setTraining
  simp

@[simp] theorem writeBank_core (img : FolioImage) (good : Bool) (s : State) :
    (writeBank img good s).pending = s.pending ∧ (writeBank img good s).cdx.mem = s.cdx.mem ∧ (writeBank img good s).cdx.colophon = s.cdx.colophon := by
  unfold writeBank
  simp

@[simp] theorem noteCommit_core (s : State) (code : Nat) (sequence : Nat) :
    (noteCommit s code sequence).pending = s.pending ∧ (noteCommit s code sequence).cdx.mem = s.cdx.mem ∧ (noteCommit s code sequence).cdx.colophon = s.cdx.colophon := by
  unfold noteCommit
  simp

@[simp] theorem commitBegin_core (slot : Nat) (img : FolioImage) (e : SqEntry) (s : State) :
    (commitBegin slot img e s).pending = s.pending ∧ (commitBegin slot img e s).cdx.mem = s.cdx.mem ∧ (commitBegin slot img e s).cdx.colophon = s.cdx.colophon := by
  unfold commitBegin
  repeat' (first | split | simp [foldl_core])

@[simp] theorem commitEnd_core (slot : Nat) (img : FolioImage) (readBackOk : Bool) (s : State) :
    (commitEnd slot img readBackOk s).pending = s.pending ∧ (commitEnd slot img readBackOk s).cdx.mem = s.cdx.mem ∧ (commitEnd slot img readBackOk s).cdx.colophon = s.cdx.colophon := by
  unfold commitEnd
  repeat' (first | split | simp [foldl_core])

theorem execFolioCommit_core (slot : Nat) (img : FolioImage) (readBackOk : Bool) (s : State) (t : State) (h : execFolioCommit slot img readBackOk s = .next t) :
    (t).pending = s.pending ∧ (t).cdx.mem = s.cdx.mem ∧ (t).cdx.colophon = s.cdx.colophon := by
  unfold execFolioCommit at h
  grind [runAdmin_core, commitBegin_core, commitEnd_core, foldl_core]

theorem execLiveFieldSet_core (slot value : Nat) (s : State) (t : State) (h : execLiveFieldSet slot value s = .next t) :
    (t).pending = s.pending ∧ (t).cdx.mem = s.cdx.mem ∧ (t).cdx.colophon = s.cdx.colophon := by
  unfold execLiveFieldSet at h
  grind [runAdmin_core, finishErr_core, storeRt_core, finishOk_core, record_core, foldl_core]

theorem execLiveFieldGet_core (slot : Nat) (s : State) (t : State) (h : execLiveFieldGet slot s = .next t) :
    (t).pending = s.pending ∧ (t).cdx.mem = s.cdx.mem ∧ (t).cdx.colophon = s.cdx.colophon := by
  unfold execLiveFieldGet at h
  grind [runAdmin_core, finishErr_core, finishOk_core, sendData_core, foldl_core]

@[simp] theorem endTest_core (s : State) :
    (endTest s).pending = s.pending ∧ (endTest s).cdx.mem = s.cdx.mem ∧ (endTest s).cdx.colophon = s.cdx.colophon := by
  unfold endTest
  (repeat' split) <;> simp

@[simp] theorem takePending_core (field v : Nat) (s : State) :
    (takePending field v s).pending = s.pending ∧ (takePending field v s).cdx.mem = s.cdx.mem ∧ (takePending field v s).cdx.colophon = s.cdx.colophon := by
  unfold takePending
  simp

@[simp] theorem takeParam_core (p k : Nat) (s : State) :
    (takeParam p k s).pending = s.pending ∧ (takeParam p k s).cdx.mem = s.cdx.mem ∧ (takeParam p k s).cdx.colophon = s.cdx.colophon := by
  unfold takeParam
  repeat' (first | split | simp [foldl_core])

theorem execLiveFieldBoundary_core (field : Nat) (s : State) (t : State) (h : execLiveFieldBoundary field s = .next t) :
    (t).pending = s.pending ∧ (t).cdx.mem = s.cdx.mem ∧ (t).cdx.colophon = s.cdx.colophon := by
  unfold execLiveFieldBoundary at h
  injection h with h
  subst h
  repeat' (first | split | simp [foldl_core])

@[simp] theorem appendTraining_core (isB : Bool) (r : TrainRec) (s : State) :
    (appendTraining isB r s).pending = s.pending ∧ (appendTraining isB r s).cdx.mem = s.cdx.mem ∧ (appendTraining isB r s).cdx.colophon = s.cdx.colophon := by
  unfold appendTraining
  repeat' (first | split | simp [foldl_core])

theorem execTrainingRecordAppend_core (kind unit rate matchWord : Nat) (s : State) (t : State) (h : execTrainingRecordAppend kind unit rate matchWord s = .next t) :
    (t).pending = s.pending ∧ (t).cdx.mem = s.cdx.mem ∧ (t).cdx.colophon = s.cdx.colophon := by
  unfold execTrainingRecordAppend at h
  injection h with h
  subst h
  repeat' (first | split | simp [foldl_core])

@[simp] theorem waitSync_core (slot : Nat) (s : State) :
    (waitSync slot s).pending = s.pending ∧ (waitSync slot s).cdx.mem = s.cdx.mem ∧ (waitSync slot s).cdx.colophon = s.cdx.colophon := by
  unfold waitSync
  simp

theorem execRetireDie_core (slot : Nat) (s : State) (t : State) (h : execRetireDie slot s = .next t) :
    (t).pending = s.pending ∧ (t).cdx.mem = s.cdx.mem ∧ (t).cdx.colophon = s.cdx.colophon := by
  unfold execRetireDie at h
  grind [runAdmin_core, finishErr_core, resumeAll_core, settleChannel_core, retireDie_core, waitSync_core, foldl_core]

theorem execRetireChannel_core (slot : Nat) (s : State) (t : State) (h : execRetireChannel slot s = .next t) :
    (t).pending = s.pending ∧ (t).cdx.mem = s.cdx.mem ∧ (t).cdx.colophon = s.cdx.colophon := by
  unfold execRetireChannel at h
  grind [runAdmin_core, finishErr_core, resumeAll_core, retireChannelDies_core, waitSync_core, foldl_core]

@[simp] theorem lookUp_core (shelf : Nat) (s : State) :
    (lookUp shelf s).pending = s.pending ∧ (lookUp shelf s).cdx.mem = s.cdx.mem ∧ (lookUp shelf s).cdx.colophon = s.cdx.colophon := by
  unfold lookUp
  simp

@[simp] theorem foxLookups_core (n : Namespace) (first stop : Nat) (s : State) :
    (foxLookups n first stop s).pending = s.pending ∧ (foxLookups n first stop s).cdx.mem = s.cdx.mem ∧ (foxLookups n first stop s).cdx.colophon = s.cdx.colophon := by
  unfold foxLookups
  apply foldl_core
  intro s a
  repeat' (first | split | simp [foldl_core])

@[simp] theorem foxReport_core (slot : Nat) (c : Cmd) (s : State) :
    (foxReport slot c s).pending = s.pending ∧ (foxReport slot c s).cdx.mem = s.cdx.mem ∧ (foxReport slot c s).cdx.colophon = s.cdx.colophon := by
  unfold foxReport
  repeat' (first | split | simp [foldl_core])

theorem execFoxReport_core (slot : Nat) (s : State) (t : State) (h : execFoxReport slot s = .next t) :
    (t).pending = s.pending ∧ (t).cdx.mem = s.cdx.mem ∧ (t).cdx.colophon = s.cdx.colophon := by
  unfold execFoxReport at h
  injection h with h
  subst h
  simp

end Sys2Proof.Machine
end

