-- ==== Sys2Proof/Laws/FrameBoot.lean ====
section
/-! SUPPORT. What the definitions of Machine/Boot.lean keep of the queue, the Codex array and the Colophon row. -/

namespace Sys2Proof.Machine

@[simp] theorem kept_core (s : State) :
    (kept s).pending = s.pending ∧ (kept s).cdx.mem = s.cdx.mem ∧ (kept s).cdx.colophon = s.cdx.colophon :=
  ⟨rfl, rfl, rfl⟩

@[simp] theorem dormant_core (s : State) :
    (dormant s).pending = s.pending ∧ (dormant s).cdx.mem = s.cdx.mem ∧
      (dormant s).cdx.colophon = s.cdx.colophon :=
  ⟨rfl, rfl, rfl⟩

theorem finishCodex_core (s : State) : CoreKept s (finishCodex s) := by
  unfold finishCodex
  split
  · exact endProgram_core _ _ s
  · exact .refl s

theorem cutCodex_core (s : State) : CoreKept s (cutCodex s) := by
  have h0 : CoreKept s { s with cdx := { s.cdx with progging := none } } := .of_eq ⟨rfl, rfl, rfl⟩
  unfold cutCodex
  split
  · exact CoreKept.then_eq (h0.trans (undefPage_core _ _)) (spellSector_core _ _ _)
  · exact .refl s

@[simp] theorem cutSpine_core (s : State) :
    (cutSpine s).pending = s.pending ∧ (cutSpine s).cdx.mem = s.cdx.mem ∧ (cutSpine s).cdx.colophon = s.cdx.colophon := by
  unfold cutSpine
  (repeat' split) <;> simp

theorem execLossOfPower_core (s t : State) (h : execLossOfPower s = .next t) : CoreKept s t := by
  unfold execLossOfPower at h
  injection h with h
  subst h
  have h1 : CoreKept s (kept (cutSpine (cutCodex s))) :=
    CoreKept.then_eq (CoreKept.then_eq (cutCodex_core s) (cutSpine_core _)) (kept_core _)
  exact CoreKept.then_eq h1 ⟨rfl, rfl, rfl⟩

theorem execPowerOnAon_core (s : State) (t : State) (h : execPowerOnAon s = .next t) :
    (t).pending = s.pending ∧ (t).cdx.mem = s.cdx.mem ∧ (t).cdx.colophon = s.cdx.colophon := by
  unfold execPowerOnAon at h
  injection h with h
  subst h
  (repeat' split) <;> simp

@[simp] theorem enterRecovery_core (reason : Nat) (s : State) :
    (enterRecovery reason s).pending = s.pending ∧ (enterRecovery reason s).cdx.mem = s.cdx.mem ∧ (enterRecovery reason s).cdx.colophon = s.cdx.colophon := by
  unfold enterRecovery
  (repeat' split) <;> simp

@[simp] theorem noteCheck_core (code : Nat) (s : State) :
    (noteCheck code s).pending = s.pending ∧ (noteCheck code s).cdx.mem = s.cdx.mem ∧ (noteCheck code s).cdx.colophon = s.cdx.colophon := by
  unfold noteCheck
  simp

@[simp] theorem noteSet_core (kind n code : Nat) (s : State) :
    (noteSet kind n code s).pending = s.pending ∧ (noteSet kind n code s).cdx.mem = s.cdx.mem ∧ (noteSet kind n code s).cdx.colophon = s.cdx.colophon := by
  unfold noteSet
  simp

@[simp] theorem setOld_core (s : State) :
    (setOld s).pending = s.pending ∧ (setOld s).cdx.mem = s.cdx.mem ∧ (setOld s).cdx.colophon = s.cdx.colophon := by
  unfold setOld
  simp

theorem chooseRunning_core (s : State)  (out : State) (hout : chooseRunning s = some out) :
    (out).pending = s.pending ∧ (out).cdx.mem = s.cdx.mem ∧ (out).cdx.colophon = s.cdx.colophon := by
  unfold chooseRunning at hout
  grind [noteCheck_core, setOld_core, swapTo_core, foldl_core]

theorem streamSet_core (s : State)  (out : State) (hout : streamSet s = some out) :
    (out).pending = s.pending ∧ (out).cdx.mem = s.cdx.mem ∧ (out).cdx.colophon = s.cdx.colophon := by
  unfold streamSet at hout
  grind [chooseRunning_core, foldl_core]

theorem chooseSet_core (s : State)  (out : State) (hout : chooseSet s = some out) :
    (out).pending = s.pending ∧ (out).cdx.mem = s.cdx.mem ∧ (out).cdx.colophon = s.cdx.colophon := by
  unfold chooseSet at hout
  grind [swapTo_core, noteCheck_core, chooseRunning_core, setOld_core, noteSet_core, modBlock_core, foldl_core]

theorem firstCheck_core (s : State)  (out : State) (hout : firstCheck s = some out) :
    (out).pending = s.pending ∧ (out).cdx.mem = s.cdx.mem ∧ (out).cdx.colophon = s.cdx.colophon := by
  unfold firstCheck at hout
  grind [chooseSet_core, foldl_core]

@[simp] theorem spineStart_core (s : State) :
    (spineStart s).pending = s.pending ∧ (spineStart s).cdx.mem = s.cdx.mem ∧ (spineStart s).cdx.colophon = s.cdx.colophon := by
  unfold spineStart
  repeat' (first | split | simp [foldl_core])

@[simp] theorem loadIdentity_core (s : State) :
    (loadIdentity s).pending = s.pending ∧ (loadIdentity s).cdx.mem = s.cdx.mem ∧ (loadIdentity s).cdx.colophon = s.cdx.colophon := by
  unfold loadIdentity
  simp

@[simp] theorem noteBank_core (isB : Bool) (s : State) :
    (noteBank isB s).pending = s.pending ∧ (noteBank isB s).cdx.mem = s.cdx.mem ∧ (noteBank isB s).cdx.colophon = s.cdx.colophon := by
  unfold noteBank
  (repeat' split) <;> simp

@[simp] theorem countPower_core (s : State) :
    (countPower s).pending = s.pending ∧ (countPower s).cdx.mem = s.cdx.mem ∧ (countPower s).cdx.colophon = s.cdx.colophon := by
  unfold countPower
  repeat' (first | split | simp [foldl_core])

@[simp] theorem takeBank_core (isB : Bool) (s : State) :
    (takeBank isB s).pending = s.pending ∧ (takeBank isB s).cdx.mem = s.cdx.mem ∧ (takeBank isB s).cdx.colophon = s.cdx.colophon := by
  unfold takeBank
  simp

@[simp] theorem takeLive_core (s : State) :
    (takeLive s).pending = s.pending ∧ (takeLive s).cdx.mem = s.cdx.mem ∧ (takeLive s).cdx.colophon = s.cdx.colophon := by
  unfold takeLive
  simp

@[simp] theorem lockstepOnce_core (s : State) :
    (lockstepOnce s).pending = s.pending ∧ (lockstepOnce s).cdx.mem = s.cdx.mem ∧ (lockstepOnce s).cdx.colophon = s.cdx.colophon := by
  unfold lockstepOnce
  simp

@[simp] theorem portsUp_core (s : State) :
    (portsUp s).pending = s.pending ∧ (portsUp s).cdx.mem = s.cdx.mem ∧ (portsUp s).cdx.colophon = s.cdx.colophon := by
  unfold portsUp
  apply foldl_core
  intro s a
  repeat' (first | split | simp [foldl_core])

@[simp] theorem noteTraining_core (kind unit rate m : Nat) (s : State) :
    (noteTraining kind unit rate m s).pending = s.pending ∧ (noteTraining kind unit rate m s).cdx.mem = s.cdx.mem ∧ (noteTraining kind unit rate m s).cdx.colophon = s.cdx.colophon := by
  unfold noteTraining
  (repeat' split) <;> simp

@[simp] theorem makePools_core (s : State) :
    (makePools s).pending = s.pending ∧ (makePools s).cdx.mem = s.cdx.mem ∧ (makePools s).cdx.colophon = s.cdx.colophon := by
  unfold makePools
  simp

theorem dramStart_core (f : StartFacts) (s : State)  (out : State) (hout : dramStart f s = some out) :
    (out).pending = s.pending ∧ (out).cdx.mem = s.cdx.mem ∧ (out).cdx.colophon = s.cdx.colophon := by
  unfold dramStart at hout
  grind [noteTraining_core, makePools_core, foldl_core]

@[simp] theorem buildRoster_core (s : State) :
    (buildRoster s).pending = s.pending ∧ (buildRoster s).cdx.mem = s.cdx.mem ∧ (buildRoster s).cdx.colophon = s.cdx.colophon := by
  unfold buildRoster
  simp

@[simp] theorem bootChange_core (ch : Nat) (f : Roster → Roster) (s : State) :
    (bootChange ch f s).pending = s.pending ∧ (bootChange ch f s).cdx.mem = s.cdx.mem ∧ (bootChange ch f s).cdx.colophon = s.cdx.colophon := by
  unfold bootChange
  simp

@[simp] theorem bootRetire_core (ch t reason : Nat) (s : State) :
    (bootRetire ch t reason s).pending = s.pending ∧ (bootRetire ch t reason s).cdx.mem = s.cdx.mem ∧ (bootRetire ch t reason s).cdx.colophon = s.cdx.colophon := by
  unfold bootRetire
  (repeat' split) <;> simp

@[simp] theorem bootRetireChannel_core (ch reason : Nat) (s : State) :
    (bootRetireChannel ch reason s).pending = s.pending ∧ (bootRetireChannel ch reason s).cdx.mem = s.cdx.mem ∧ (bootRetireChannel ch reason s).cdx.colophon = s.cdx.colophon := by
  unfold bootRetireChannel
  simp [foldl_core]

@[simp] theorem trainChannel_core (f : StartFacts) (ch : Nat) (s : State) :
    (trainChannel f ch s).pending = s.pending ∧ (trainChannel f ch s).cdx.mem = s.cdx.mem ∧ (trainChannel f ch s).cdx.colophon = s.cdx.colophon := by
  unfold trainChannel
  repeat' (first | split | simp [foldl_core])

@[simp] theorem trainAll_core (f : StartFacts) (s : State) :
    (trainAll f s).pending = s.pending ∧ (trainAll f s).cdx.mem = s.cdx.mem ∧ (trainAll f s).cdx.colophon = s.cdx.colophon := by
  unfold trainAll
  simp [foldl_core]

@[simp] theorem unwrapSlot_core (f : StartFacts) (k : Nat) (s : State) :
    (unwrapSlot f k s).pending = s.pending ∧ (unwrapSlot f k s).cdx.mem = s.cdx.mem ∧ (unwrapSlot f k s).cdx.colophon = s.cdx.colophon := by
  unfold unwrapSlot
  (repeat' split) <;> simp

@[simp] theorem keyStart_core (f : StartFacts) (s : State) :
    (keyStart f s).pending = s.pending ∧ (keyStart f s).cdx.mem = s.cdx.mem ∧ (keyStart f s).cdx.colophon = s.cdx.colophon := by
  unfold keyStart
  simp [foldl_core]

end Sys2Proof.Machine
end

