-- ==== Sys2Proof/Laws/FrameRecover.lean ====
section
/-! SUPPORT. What the definitions of Machine/Recover.lean keep of the queue, the Codex array and the Colophon row. -/

namespace Sys2Proof.Machine

@[simp] theorem replayPlace_core (p : Ppa) (shelf card : Nat) (s : State) :
    (replayPlace p shelf card s).pending = s.pending ∧ (replayPlace p shelf card s).cdx.mem = s.cdx.mem ∧ (replayPlace p shelf card s).cdx.colophon = s.cdx.colophon := by
  unfold replayPlace
  repeat' (first | split | simp [foldl_core])

@[simp] theorem replayBlock_core (s : State) (r : LedgerRec) :
    (replayBlock s r).pending = s.pending ∧ (replayBlock s r).cdx.mem = s.cdx.mem ∧ (replayBlock s r).cdx.colophon = s.cdx.colophon := by
  unfold replayBlock
  repeat' (first | split | simp [foldl_core])

@[simp] theorem recountValid_core (s : State) :
    (recountValid s).pending = s.pending ∧ (recountValid s).cdx.mem = s.cdx.mem ∧ (recountValid s).cdx.colophon = s.cdx.colophon := by
  unfold recountValid
  simp [foldl_core]

@[simp] theorem retiredBlocks_core (s : State) :
    (retiredBlocks s).pending = s.pending ∧ (retiredBlocks s).cdx.mem = s.cdx.mem ∧ (retiredBlocks s).cdx.colophon = s.cdx.colophon := by
  unfold retiredBlocks
  apply foldl_core
  intro s a
  repeat' (first | split | simp [foldl_core])

@[simp] theorem publishPass_core (p : MapSnap) (s : State) :
    (publishPass p s).pending = s.pending ∧ (publishPass p s).cdx.mem = s.cdx.mem ∧ (publishPass p s).cdx.colophon = s.cdx.colophon := by
  unfold publishPass
  simp

@[simp] theorem takeMap_core (f : StartFacts) (p : MapSnap) (s : State) :
    (takeMap f p s).pending = s.pending ∧ (takeMap f p s).cdx.mem = s.cdx.mem ∧ (takeMap f p s).cdx.colophon = s.cdx.colophon := by
  unfold takeMap
  simp

@[simp] theorem nameExtent_core (f : StartFacts) (w : SpineRec) (s : State) :
    (nameExtent f w s).pending = s.pending ∧ (nameExtent f w s).cdx.mem = s.cdx.mem ∧ (nameExtent f w s).cdx.colophon = s.cdx.colophon := by
  unfold nameExtent
  simp

@[simp] theorem loadMap_core (f : StartFacts) (w : SpineRec) (s : State) : SameCore s (loadMap f w s) := by
  unfold loadMap
  extract_lets p t u
  have h1 : SameCore s t := publishPass_core p s
  clear_value t
  have h2 : SameCore t u := SameCore.trans (takeMap_core f p t) (SameCore.trans (nameExtent_core f w _)
    (SameCore.trans (.fold _ (fun t r => replayBlock_core t r) _ _)
      (SameCore.trans (recountValid_core _) (retiredBlocks_core _))))
  exact h1.trans (h2.trans ⟨rfl, rfl, rfl⟩)

@[simp] theorem accountLoss_core (f : StartFacts) (r : SpineRec) (s : State) :
    (accountLoss f r s).pending = s.pending ∧ (accountLoss f r s).cdx.mem = s.cdx.mem ∧ (accountLoss f r s).cdx.colophon = s.cdx.colophon := by
  unfold accountLoss
  (repeat' split) <;> simp

@[simp] theorem restoreCounts_core (s : State) :
    (restoreCounts s).pending = s.pending ∧ (restoreCounts s).cdx.mem = s.cdx.mem ∧ (restoreCounts s).cdx.colophon = s.cdx.colophon := by
  unfold restoreCounts
  simp

@[simp] theorem rebase_core (s : State) :
    (rebase s).pending = s.pending ∧ (rebase s).cdx.mem = s.cdx.mem ∧ (rebase s).cdx.colophon = s.cdx.colophon := by
  unfold rebase
  (repeat' split) <;> simp

@[simp] theorem numberDay_core (unsafeStart : Bool) (s : State) :
    (numberDay unsafeStart s).pending = s.pending ∧ (numberDay unsafeStart s).cdx.mem = s.cdx.mem ∧ (numberDay unsafeStart s).cdx.colophon = s.cdx.colophon := by
  unfold numberDay
  simp

@[simp] theorem probeOpen_core (s : State) (n : Nat) :
    (probeOpen s n).pending = s.pending ∧ (probeOpen s n).cdx.mem = s.cdx.mem ∧ (probeOpen s n).cdx.colophon = s.cdx.colophon := by
  unfold probeOpen
  (repeat' split) <;> simp

@[simp] theorem probe_core (s : State) :
    (probe s).pending = s.pending ∧ (probe s).cdx.mem = s.cdx.mem ∧ (probe s).cdx.colophon = s.cdx.colophon := by
  unfold probe
  apply foldl_core
  intro s a
  repeat' (first | split | simp [foldl_core])

@[simp] theorem dropTorn_core (f : StartFacts) (l : List Nat) (s : State) :
    (dropTorn f l s).pending = s.pending ∧ (dropTorn f l s).cdx.mem = s.cdx.mem ∧ (dropTorn f l s).cdx.colophon = s.cdx.colophon := by
  unfold dropTorn
  simp

@[simp] theorem closeListed_core (n : Nat) (s : State) :
    (closeListed n s).pending = s.pending ∧ (closeListed n s).cdx.mem = s.cdx.mem ∧ (closeListed n s).cdx.colophon = s.cdx.colophon := by
  unfold closeListed
  (repeat' split) <;> simp

@[simp] theorem settleTorn_core (f : StartFacts) (x : Nat × Nat × Ppa) (s : State) : SameCore s (settleTorn f x s) := by
  obtain ⟨sh, i, p⟩ := x
  unfold settleTorn
  refine SameCore.ite (.refl s) ?_
  extract_lets s1
  have k : SameCore s s1 := by
    show SameCore s (match ppaEntry s p with | some n => forceVictim n none s | none => s)
    split
    · exact forceVictim_core _ _ s
    · exact .refl s
  clear_value s1
  split
  · split
    · rename_i t ht
      exact k.trans (rewriteCard_core _ _ _ _ _ _ _ _ ht)
    · exact k
  · split
    · rename_i new t ht
      exact k.trans (SameCore.trans (rewriteCard_core _ _ _ _ _ _ _ _ ht) (foxSet_core _ _ _ _ t))
    · exact k

@[simp] theorem enterOrphans_core (n : Nat) (s : State) :
    (enterOrphans n s).pending = s.pending ∧ (enterOrphans n s).cdx.mem = s.cdx.mem ∧ (enterOrphans n s).cdx.colophon = s.cdx.colophon := by
  unfold enterOrphans
  (repeat' split) <;> simp

@[simp] theorem eraseExtent_core (p : Ppa) (s : State) :
    (eraseExtent p s).pending = s.pending ∧ (eraseExtent p s).cdx.mem = s.cdx.mem ∧ (eraseExtent p s).cdx.colophon = s.cdx.colophon := by
  unfold eraseExtent
  simp

@[simp] theorem firstExtent_core (s : State) :
    (firstExtent s).pending = s.pending ∧ (firstExtent s).cdx.mem = s.cdx.mem ∧ (firstExtent s).cdx.colophon = s.cdx.colophon := by
  unfold firstExtent
  repeat' (first | split | simp [foldl_core])

@[simp] theorem openDay_core (s : State) :
    (openDay s).pending = s.pending ∧ (openDay s).cdx.mem = s.cdx.mem ∧ (openDay s).cdx.colophon = s.cdx.colophon := by
  unfold openDay
  repeat' (first | split | simp [foldl_core])

@[simp] theorem takeReserve_core  (a0 : Nat) (s : State) :
    (takeReserve a0 s).pending = s.pending ∧ (takeReserve a0 s).cdx.mem = s.cdx.mem ∧ (takeReserve a0 s).cdx.colophon = s.cdx.colophon := by
  induction a0 generalizing s with
  | zero => simp [takeReserve]
  | succ n ih =>
    unfold takeReserve
    (repeat' split) <;> simp [ih]

@[simp] theorem takeReserves_core (s : State) :
    (takeReserves s).pending = s.pending ∧ (takeReserves s).cdx.mem = s.cdx.mem ∧ (takeReserves s).cdx.colophon = s.cdx.colophon := by
  unfold takeReserves
  simp

@[simp] theorem resumeRebuilds_core (s : State) :
    (resumeRebuilds s).pending = s.pending ∧ (resumeRebuilds s).cdx.mem = s.cdx.mem ∧ (resumeRebuilds s).cdx.colophon = s.cdx.colophon := by
  unfold resumeRebuilds
  simp

@[simp] theorem foundIntents_core (s : State) :
    (foundIntents s).pending = s.pending ∧ (foundIntents s).cdx.mem = s.cdx.mem ∧ (foundIntents s).cdx.colophon = s.cdx.colophon := by
  unfold foundIntents
  simp

@[simp] theorem flushDay_core (s : State) :
    (flushDay s).pending = s.pending ∧ (flushDay s).cdx.mem = s.cdx.mem ∧ (flushDay s).cdx.colophon = s.cdx.colophon := by
  unfold flushDay
  simp

@[simp] theorem startRecords_core (newest : Nat) (s : State) :
    (startRecords newest s).pending = s.pending ∧ (startRecords newest s).cdx.mem = s.cdx.mem ∧ (startRecords newest s).cdx.colophon = s.cdx.colophon := by
  unfold startRecords
  simp

theorem startSpine_core (s : State) : CoreKept s (startSpine s) := by
  unfold startSpine
  extract_lets other x s1
  have h1 : CoreKept s s1 := by
    refine ite_kept (.refl s) ?_
    refine CoreKept.then_eq ?_ (sectorErased_core _ _)
    exact CoreKept.trans (.of_eq ⟨rfl, rfl, rfl⟩) (clearBytes_core _ _)
  split
  · rename_i t ht
    have h2 := h1.then_eq (appendSpine_core _ _ _ t ht)
    split
    · exact h2.then_eq (spineRead_core _ _)
    · exact h2
  · exact h1

@[simp] theorem weighPreserve_core (s : State) :
    (weighPreserve s).pending = s.pending ∧ (weighPreserve s).cdx.mem = s.cdx.mem ∧ (weighPreserve s).cdx.colophon = s.cdx.colophon := by
  unfold weighPreserve
  repeat' (first | split | simp [foldl_core])

@[simp] theorem firstStart_core (s : State) :
    (firstStart s).pending = s.pending ∧ (firstStart s).cdx.mem = s.cdx.mem ∧ (firstStart s).cdx.colophon = s.cdx.colophon := by
  unfold firstStart
  repeat' (first | split | simp [foldl_core])

@[simp] theorem createPages_core (s : State) :
    (createPages s).pending = s.pending ∧ (createPages s).cdx.mem = s.cdx.mem ∧ (createPages s).cdx.colophon = s.cdx.colophon := by
  unfold createPages
  simp [foldl_core]

@[simp] theorem settleOpen_core (f : StartFacts) (s : State) :
    (settleOpen f s).pending = s.pending ∧ (settleOpen f s).cdx.mem = s.cdx.mem ∧ (settleOpen f s).cdx.colophon = s.cdx.colophon := by
  unfold settleOpen
  simp [foldl_core]

@[simp] theorem settleCards_core (f : StartFacts) (l : List Nat) (s : State) :
    (settleCards f l s).pending = s.pending ∧ (settleCards f l s).cdx.mem = s.cdx.mem ∧ (settleCards f l s).cdx.colophon = s.cdx.colophon := by
  unfold settleCards
  repeat' (first | split | simp [foldl_core])

theorem finishRoot_core (unsafeStart : Bool) (newest : Nat) (s : State) :
    CoreKept s (finishRoot unsafeStart newest s) := by
  unfold finishRoot
  extract_lets x s1
  have h1 : CoreKept s s1 := .of_eq (by simp [s1])
  have h2 : CoreKept s1 (startRecords newest (resumeRebuilds s1)) := .of_eq (by simp)
  exact ((h1.trans h2).trans (startSpine_core _)).then_eq (weighPreserve_core _)

theorem recoverMap_core (f : StartFacts) (r : SpineRec) (s : State) : CoreKept s (recoverMap f r s) := by
  unfold recoverMap
  extract_lets s1 c2 i2 s2 s3 s4
  have h1 : SameCore s s1 := SameCore.trans (rebase_core s)
    (SameCore.trans (restoreCounts_core _) (loadMap_core f _ _))
  clear_value s1
  have h2 : SameCore s1 s2 := ⟨rfl, rfl, rfl⟩
  clear_value s2
  have h3 : SameCore s2 s3 := accountLoss_core f r s2
  clear_value s3
  have h4 : SameCore s3 s4 := SameCore.trans (settleOpen_core f s3)
    (SameCore.trans (firstExtent_core _) (settleCards_core f _ _))
  clear_value s4
  have h5 : SameCore s4 (foundIntents (takeShares s4)) :=
    SameCore.trans (takeShares_core s4) (foundIntents_core _)
  generalize foundIntents (takeShares s4) = s5 at h5 ⊢
  exact (CoreKept.of_eq ((h1.trans h2).trans ((h3.trans h4).trans h5))).trans (finishRoot_core _ _ s5)

theorem rootStart_core (f : StartFacts) (s : State) : CoreKept s (rootStart f s).1 := by
  have h1 : SameCore s (firstExtent (firstStart (restoreCounts (rebase s)))) :=
    SameCore.trans (rebase_core s) (SameCore.trans (restoreCounts_core _)
      (SameCore.trans (firstStart_core _) (firstExtent_core _)))
  unfold rootStart
  generalize firstExtent (firstStart (restoreCounts (rebase s))) = u at h1 ⊢
  have h2 := (CoreKept.of_eq h1).trans (finishRoot_core false 0 u)
  have h3 : ∀ r, CoreKept s (recoverMap f r s) := fun r => recoverMap_core f r s
  generalize finishRoot false 0 u = v at h2 ⊢
  generalize newestSpine s = n
  generalize (s.inv.spine0.isEmpty && s.inv.spine1.isEmpty && ! flagged s 128 && ! flagged s 129) = b
  cases n with
  | some x =>
    obtain ⟨r, q⟩ := x
    by_cases hb : f.rootBad = true
    · simp only [hb, if_true]
      exact CoreKept.refl s
    · simp only [hb, Bool.false_eq_true, if_false]
      exact h3 r
  | none =>
    cases b
    · simp only [Bool.false_eq_true, if_false]
      exact CoreKept.refl s
    · simp only [if_true]
      exact h2

@[simp] theorem echelonsStart_core (s : State) :
    (echelonsStart s).pending = s.pending ∧ (echelonsStart s).cdx.mem = s.cdx.mem ∧ (echelonsStart s).cdx.colophon = s.cdx.colophon := by
  unfold echelonsStart
  (repeat' split) <;> simp

@[simp] theorem confirmSet_core (s : State) :
    (confirmSet s).pending = s.pending ∧ (confirmSet s).cdx.mem = s.cdx.mem ∧ (confirmSet s).cdx.colophon = s.cdx.colophon := by
  unfold confirmSet
  repeat' (first | split | simp [foldl_core])

@[simp] theorem slotsStart_core (s : State) :
    (slotsStart s).pending = s.pending ∧ (slotsStart s).cdx.mem = s.cdx.mem ∧ (slotsStart s).cdx.colophon = s.cdx.colophon := by
  unfold slotsStart
  (repeat' split) <;> simp

@[simp] theorem resumeRenewals_core (s : State) :
    (resumeRenewals s).pending = s.pending ∧ (resumeRenewals s).cdx.mem = s.cdx.mem ∧ (resumeRenewals s).cdx.colophon = s.cdx.colophon := by
  unfold resumeRenewals
  simp

theorem librarianStart_core (s : State) : SameCore s (librarianStart s) := by
  unfold librarianStart
  extract_lets s1 s2 s3
  have h1 : SameCore s s1 := SameCore.fold _ (fun t k => by
    split
    · exact zeroiseBelow_core _ _ t
    · exact .refl t) _ s
  have h2 : SameCore s1 s2 := SameCore.fold _ (fun t n => askErase_core n t) _ s1
  have h3 : SameCore s2 s3 := SameCore.fold _ (fun t r => placeRecord_core _ t) _ s2
  refine h1.trans (h2.trans (SameCore.ite (.refl s2) (h3.trans ?_)))
  exact SameCore.trans (t := { s3 with cdx := { s3.cdx with recRecords := [] } }) ⟨rfl, rfl, rfl⟩
    (SameCore.trans (askErase_core _ _) (askErase_core _ _))

@[simp] theorem readyPoint_core (s : State) :
    (readyPoint s).pending = s.pending ∧ (readyPoint s).cdx.mem = s.cdx.mem ∧ (readyPoint s).cdx.colophon = s.cdx.colophon := by
  unfold readyPoint
  grind [createPages_core, enterPreserve_core, setMode_core, requestTest_core, librarianStart_core, resumeRenewals_core, foldl_core]

@[simp] theorem loadTouts_core (s : State) :
    (loadTouts s).pending = s.pending ∧ (loadTouts s).cdx.mem = s.cdx.mem ∧ (loadTouts s).cdx.colophon = s.cdx.colophon := by
  unfold loadTouts
  simp

@[simp] theorem engineStart_core (s : State) :
    (engineStart s).pending = s.pending ∧ (engineStart s).cdx.mem = s.cdx.mem ∧ (engineStart s).cdx.colophon = s.cdx.colophon := by
  unfold engineStart
  simp

end Sys2Proof.Machine
end

