-- ==== Sys2Proof/Laws/FrameStart.lean ====
section
/-! SUPPORT. What the definitions of Machine/Start.lean keep of the queue, the Codex array and the Colophon row. -/

namespace Sys2Proof.Machine

@[simp] theorem logSteps_core (f : StartFacts) (n : Nat) (s : State) :
    (logSteps f n s).pending = s.pending ∧ (logSteps f n s).cdx.mem = s.cdx.mem ∧ (logSteps f n s).cdx.colophon = s.cdx.colophon := by
  unfold logSteps
  simp

@[simp] theorem stepColophon_core (f : StartFacts) (s : State) :
    (stepColophon f s).pending = s.pending ∧ (stepColophon f s).cdx.mem = s.cdx.mem ∧ (stepColophon f s).cdx.colophon = s.cdx.colophon := by
  unfold stepColophon
  grind [enterRecovery_core, streamSet_core, spineStart_core, logSteps_core, loadIdentity_core, foldl_core]

@[simp] theorem wakeLink_core (s : State) :
    (wakeLink s).pending = s.pending ∧ (wakeLink s).cdx.mem = s.cdx.mem ∧ (wakeLink s).cdx.colophon = s.cdx.colophon := by
  unfold wakeLink
  simp

@[simp] theorem stepFolio_core (f : StartFacts) (s : State) :
    (stepFolio f s).pending = s.pending ∧ (stepFolio f s).cdx.mem = s.cdx.mem ∧ (stepFolio f s).cdx.colophon = s.cdx.colophon := by
  unfold stepFolio
  grind [firstCheck_core, enterRecovery_core, noteBank_core, loadIdentity_core, countPower_core, takeBank_core, lockstepOnce_core, logSteps_core, wakeLink_core, portsUp_core, foldl_core]

@[simp] theorem stepDram_core (f : StartFacts) (s : State) : SameCore s (stepDram f s) := by
  unfold stepDram
  extract_lets g m s1
  have k : SameCore s s1 := ⟨rfl, rfl, rfl⟩
  clear_value s1
  split
  · exact k.trans (SameCore.trans (t := { s1 with mode := { s1.mode with fullDram := true } }) ⟨rfl, rfl, rfl⟩
      (enterRecovery_core 5 _))
  · rename_i t ht
    exact k.trans (SameCore.trans (dramStart_core f s1 t ht) (logSteps_core f 3 t))

@[simp] theorem wakeTiles_core (s : State) :
    (wakeTiles s).pending = s.pending ∧ (wakeTiles s).cdx.mem = s.cdx.mem ∧ (wakeTiles s).cdx.colophon = s.cdx.colophon := by
  unfold wakeTiles
  simp

@[simp] theorem stepFlash_core (f : StartFacts) (s : State) :
    (stepFlash f s).pending = s.pending ∧ (stepFlash f s).cdx.mem = s.cdx.mem ∧ (stepFlash f s).cdx.colophon = s.cdx.colophon := by
  unfold stepFlash
  repeat' (first | split | simp [foldl_core])

@[simp] theorem wakeDecoders_core (s : State) :
    (wakeDecoders s).pending = s.pending ∧ (wakeDecoders s).cdx.mem = s.cdx.mem ∧ (wakeDecoders s).cdx.colophon = s.cdx.colophon := by
  unfold wakeDecoders
  simp

theorem stepRoot_core (f : StartFacts) (s : State) : CoreKept s (stepRoot f s) := by
  have h := CoreKept.trans (.of_eq (wakeDecoders_core s)) (rootStart_core f (wakeDecoders s))
  unfold stepRoot
  split
  · rename_i t he
    rw [he] at h
    exact h.then_eq (logSteps_core f 5 t)
  · rename_i t reason _ he
    rw [he] at h
    exact h.then_eq (enterRecovery_core _ _)

@[simp] theorem stepEngines_core (f : StartFacts) (s : State) :
    (stepEngines f s).pending = s.pending ∧ (stepEngines f s).cdx.mem = s.cdx.mem ∧ (stepEngines f s).cdx.colophon = s.cdx.colophon := by
  unfold stepEngines
  (repeat' split) <;> simp

theorem startStep_core (f : StartFacts) (n : Nat) (s : State) : CoreKept s (startStep f n s) := by
  unfold startStep
  split
  · exact .of_eq (stepColophon_core f s)
  · exact .of_eq (stepFolio_core f s)
  · exact .of_eq (stepDram_core f s)
  · exact .of_eq (stepFlash_core f s)
  · exact stepRoot_core f s
  · exact .of_eq (stepEngines_core f s)

@[simp] theorem beginStart_core (f : StartFacts) (s : State) :
    (beginStart f s).pending = s.pending ∧ (beginStart f s).cdx.mem = s.cdx.mem ∧ (beginStart f s).cdx.colophon = s.cdx.colophon := by
  unfold beginStart
  simp

@[simp] theorem raiseAlive_core (pick : Nat → Bool) (s : State) :
    (raiseAlive pick s).pending = s.pending ∧ (raiseAlive pick s).cdx.mem = s.cdx.mem ∧ (raiseAlive pick s).cdx.colophon = s.cdx.colophon := by
  unfold raiseAlive
  apply foldl_core
  intro s a
  repeat' (first | split | simp [foldl_core])

@[simp] theorem portsAlive_core (s : State) :
    (portsAlive s).pending = s.pending ∧ (portsAlive s).cdx.mem = s.cdx.mem ∧ (portsAlive s).cdx.colophon = s.cdx.colophon := by
  unfold portsAlive
  apply foldl_core
  intro s a
  repeat' (first | split | simp [foldl_core])

@[simp] theorem recoveryPorts_core (s : State) :
    (recoveryPorts s).pending = s.pending ∧ (recoveryPorts s).cdx.mem = s.cdx.mem ∧ (recoveryPorts s).cdx.colophon = s.cdx.colophon := by
  unfold recoveryPorts
  (repeat' split) <;> simp

theorem startAdvance_core (s : State) : CoreKept s (startAdvance s) := by
  unfold startAdvance
  split
  · exact .refl s
  · rename_i r _
    exact ((startStep_core r.facts r.ended s).then_eq (recoveryPorts_core _)).then_eq ⟨rfl, rfl, rfl⟩

theorem execPerstDeassert_core (f : StartFacts) (s t : State) (h : execPerstDeassert f s = .next t) :
    CoreKept s t := by
  unfold execPerstDeassert at h
  injection h with h
  subst h
  split
  · exact .of_eq (beginStart_core f s)
  · exact ite_kept (.refl s) (.of_eq ⟨rfl, rfl, rfl⟩)
  · exact .refl s

theorem assertPerst_core (s : State) : CoreKept s (assertPerst s) := by
  unfold assertPerst
  extract_lets x y t
  have h : CoreKept s t := .of_eq ⟨rfl, rfl, rfl⟩
  have hf := (h.trans (finishCodex_core t)).then_eq (dormant_core _)
  have hc := h.then_eq (coastEntry_core .perst t)
  split
  · exact .refl s
  · exact .refl s
  · exact hf
  · exact hf
  · exact ite_kept (h.then_eq (dormant_core t)) (.of_eq ⟨rfl, rfl, rfl⟩)
  · exact hc
  · exact hc
  · exact hc
  · exact hc

theorem execPerstAssert_core (lowNs : Nat) (s t : State) (h : execPerstAssert lowNs s = .next t) : CoreKept s t := by
  unfold execPerstAssert at h
  injection h with h
  subst h
  have h1 : CoreKept s (if decide (1000 < lowNs) && decide (lowNs < 10000) then drawFree s else s) :=
    ite_kept (.of_eq ⟨rfl, rfl, rfl⟩) (.refl s)
  exact ite_kept (h1.trans (assertPerst_core _)) h1

@[simp] theorem coastRecord_core (readBackOk : Bool) (s : State) :
    (coastRecord readBackOk s).pending = s.pending ∧ (coastRecord readBackOk s).cdx.mem = s.cdx.mem ∧ (coastRecord readBackOk s).cdx.colophon = s.cdx.colophon := by
  unfold coastRecord
  (repeat' split) <;> simp

@[simp] theorem coastHold_core (s : State) :
    (coastHold s).pending = s.pending ∧ (coastHold s).cdx.mem = s.cdx.mem ∧ (coastHold s).cdx.colophon = s.cdx.colophon := by
  unfold coastHold
  simp

theorem execCoastComplete_core (ok : Bool) (s t : State) (h : execCoastComplete ok s = .next t) : CoreKept s t := by
  unfold execCoastComplete at h
  injection h with h
  subst h
  refine ite_kept (.refl s) ?_
  have h1 : CoreKept s (coastHold (coastRecord ok s)) := .of_eq (by simp)
  split
  · rename_i f _
    exact (h1.then_eq (dormant_core _)).then_eq (beginStart_core f _)
  · exact ite_kept h1 (h1.then_eq (dormant_core _))

@[simp] theorem setEn_core (v : Bool) (s : State) :
    (setEn v s).pending = s.pending ∧ (setEn v s).cdx.mem = s.cdx.mem ∧ (setEn v s).cdx.colophon = s.cdx.colophon := by
  unfold setEn
  simp

@[simp] theorem adminQueues_core (s : State) :
    (adminQueues s).pending = s.pending ∧ (adminQueues s).cdx.mem = s.cdx.mem ∧ (adminQueues s).cdx.colophon = s.cdx.colophon := by
  unfold adminQueues
  simp

@[simp] theorem enable_core (s : State) :
    (enable s).pending = s.pending ∧ (enable s).cdx.mem = s.cdx.mem ∧ (enable s).cdx.colophon = s.cdx.colophon := by
  unfold enable
  simp

@[simp] theorem renewCoastStripes_core (s : State) :
    (renewCoastStripes s).pending = s.pending ∧ (renewCoastStripes s).cdx.mem = s.cdx.mem ∧ (renewCoastStripes s).cdx.colophon = s.cdx.colophon := by
  unfold renewCoastStripes
  simp [foldl_core]

@[simp] theorem returnFromHold_core (s : State) :
    (returnFromHold s).pending = s.pending ∧ (returnFromHold s).cdx.mem = s.cdx.mem ∧ (returnFromHold s).cdx.colophon = s.cdx.colophon := by
  unfold returnFromHold
  grind [setMode_core, controllerReset_core, appendSpine_core, spineRead_core, portsAlive_core, renewCoastStripes_core, enable_core, foldl_core]

theorem execCcEnSet_core (s : State) (t : State) (h : execCcEnSet s = .next t) :
    (t).pending = s.pending ∧ (t).cdx.mem = s.cdx.mem ∧ (t).cdx.colophon = s.cdx.colophon := by
  unfold execCcEnSet at h
  injection h with h
  subst h
  (repeat' split) <;> simp

theorem execCcEnClear_core (s : State) (t : State) (h : execCcEnClear s = .next t) :
    (t).pending = s.pending ∧ (t).cdx.mem = s.cdx.mem ∧ (t).cdx.colophon = s.cdx.colophon := by
  unfold execCcEnClear at h
  injection h with h
  subst h
  (repeat' split) <;> simp

end Sys2Proof.Machine
end

