-- ==== Sys2Proof/Laws/FramePower.lean ====
section
/-! SUPPORT. What the definitions of Machine/Power.lean keep of the queue, the Codex array and the Colophon row. -/

namespace Sys2Proof.Machine

@[simp] theorem gateAll_core (s : State) :
    (gateAll s).pending = s.pending ∧ (gateAll s).cdx.mem = s.cdx.mem ∧ (gateAll s).cdx.colophon = s.cdx.colophon := by
  unfold gateAll
  simp

theorem execIdleServiceEntry_core (s : State) (t : State) (h : execIdleServiceEntry s = .next t) :
    (t).pending = s.pending ∧ (t).cdx.mem = s.cdx.mem ∧ (t).cdx.colophon = s.cdx.colophon := by
  unfold execIdleServiceEntry at h
  injection h with h
  subst h
  (repeat' split) <;> simp

theorem execIdleServiceExit_core (s : State) (t : State) (h : execIdleServiceExit s = .next t) :
    (t).pending = s.pending ∧ (t).cdx.mem = s.cdx.mem ∧ (t).cdx.colophon = s.cdx.colophon := by
  unfold execIdleServiceExit at h
  injection h with h
  subst h
  (repeat' split) <;> simp

theorem execUnitWake_core (unit index : Nat) (s : State) (t : State) (h : execUnitWake unit index s = .next t) :
    (t).pending = s.pending ∧ (t).cdx.mem = s.cdx.mem ∧ (t).cdx.colophon = s.cdx.colophon := by
  unfold execUnitWake at h
  injection h with h
  subst h
  (repeat' split) <;> simp

theorem execDramSelfRefreshEntry_core (s : State) (t : State) (h : execDramSelfRefreshEntry s = .next t) :
    (t).pending = s.pending ∧ (t).cdx.mem = s.cdx.mem ∧ (t).cdx.colophon = s.cdx.colophon := by
  unfold execDramSelfRefreshEntry at h
  injection h with h
  subst h
  (repeat' split) <;> simp

theorem execCoreVsetUpdate_core (duty : Nat) (s : State) (t : State) (h : execCoreVsetUpdate duty s = .next t) :
    (t).pending = s.pending ∧ (t).cdx.mem = s.cdx.mem ∧ (t).cdx.colophon = s.cdx.colophon := by
  unfold execCoreVsetUpdate at h
  injection h with h
  subst h
  (repeat' split) <;> simp

@[simp] theorem clearSlots_core (s : State) :
    (clearSlots s).pending = s.pending ∧ (clearSlots s).cdx.mem = s.cdx.mem ∧ (clearSlots s).cdx.colophon = s.cdx.colophon := by
  unfold clearSlots
  simp

theorem execJtagInstructionLoad_core (kind : Nat) (s : State) (t : State) (h : execJtagInstructionLoad kind s = .next t) :
    (t).pending = s.pending ∧ (t).cdx.mem = s.cdx.mem ∧ (t).cdx.colophon = s.cdx.colophon := by
  unfold execJtagInstructionLoad at h
  injection h with h
  subst h
  (repeat' split) <;> simp

theorem execTestModeAssert_core (s : State) (t : State) (h : execTestModeAssert s = .next t) :
    (t).pending = s.pending ∧ (t).cdx.mem = s.cdx.mem ∧ (t).cdx.colophon = s.cdx.colophon := by
  unfold execTestModeAssert at h
  injection h with h
  subst h
  simp

end Sys2Proof.Machine
end

