-- ==== Sys2Proof/Laws/FrameHealth.lean ====
section
/-! SUPPORT. What the definitions of Machine/Health.lean keep of the queue, the Codex array and the Colophon row. -/

namespace Sys2Proof.Machine

@[simp] theorem reportWarnings_core (s : State) :
    (reportWarnings s).pending = s.pending ∧ (reportWarnings s).cdx.mem = s.cdx.mem ∧ (reportWarnings s).cdx.colophon = s.cdx.colophon := by
  unfold reportWarnings
  apply foldl_core
  intro s a
  repeat' (first | split | simp [foldl_core])

end Sys2Proof.Machine
end

