-- ==== Sys2Proof/Laws/FrameLogs.lean ====
section
/-! SUPPORT. What the definitions of Machine/Logs.lean keep of the queue, the Codex array and the Colophon row. -/

namespace Sys2Proof.Machine

@[simp] theorem logDraws_core (s : State) (e : SqEntry) :
    (logDraws s e).pending = s.pending ∧ (logDraws s e).cdx.mem = s.cdx.mem ∧ (logDraws s e).cdx.colophon = s.cdx.colophon := by
  unfold logDraws
  (repeat' split) <;> simp

theorem execGetLogPage_core (slot : Nat) (s : State) (t : State) (h : execGetLogPage slot s = .next t) :
    (t).pending = s.pending ∧ (t).cdx.mem = s.cdx.mem ∧ (t).cdx.colophon = s.cdx.colophon := by
  unfold execGetLogPage at h
  grind [runAdmin_core, finishOk_core, sendData_core, logDraws_core, finishErr_core, foldl_core]

end Sys2Proof.Machine
end

