-- ==== Sys2Proof/Laws/FrameIdentify.lean ====
section
/-! SUPPORT. What the definitions of Machine/Identify.lean keep of the queue, the Codex array and the Colophon row. -/

namespace Sys2Proof.Machine

theorem execIdentify_core (slot : Nat) (s : State) (t : State) (h : execIdentify slot s = .next t) :
    (t).pending = s.pending ∧ (t).cdx.mem = s.cdx.mem ∧ (t).cdx.colophon = s.cdx.colophon := by
  unfold execIdentify at h
  grind [runAdmin_core, finishOk_core, sendData_core, finishErr_core, foldl_core]

end Sys2Proof.Machine
end

