-- ==== Sys2Proof/Laws/FrameSideband.lean ====
section
/-! SUPPORT. What the definitions of Machine/Sideband.lean keep of the queue, the Codex array and the Colophon row. -/

namespace Sys2Proof.Machine

@[simp] theorem miSend_core (cmd status : Nat) (b : Blob) (s : State) :
    (miSend cmd status b s).pending = s.pending ∧ (miSend cmd status b s).cdx.mem = s.cdx.mem ∧ (miSend cmd status b s).cdx.colophon = s.cdx.colophon := by
  unfold miSend
  simp

@[simp] theorem miRefuse_core (cmd status : Nat) (s : State) :
    (miRefuse cmd status s).pending = s.pending ∧ (miRefuse cmd status s).cdx.mem = s.cdx.mem ∧ (miRefuse cmd status s).cdx.colophon = s.cdx.colophon := by
  unfold miRefuse
  simp

theorem configSet_core (id value : Nat) (s : State)  (out : State) (hout : configSet id value s = some out) :
    (out).pending = s.pending ∧ (out).cdx.mem = s.cdx.mem ∧ (out).cdx.colophon = s.cdx.colophon := by
  unfold configSet at hout
  grind [foldl_core]

@[simp] theorem miRun_core (i : Instr) (s : State) :
    (miRun i s).pending = s.pending ∧ (miRun i s).cdx.mem = s.cdx.mem ∧ (miRun i s).cdx.colophon = s.cdx.colophon := by
  unfold miRun
  grind [miSend_core, miRefuse_core, configSet_core, logDraws_core, foldl_core]

@[simp] theorem miArrives_core (i : Instr) (s : State) :
    (miArrives i s).pending = s.pending ∧ (miArrives i s).cdx.mem = s.cdx.mem ∧ (miArrives i s).cdx.colophon = s.cdx.colophon := by
  unfold miArrives
  (repeat' split) <;> simp

theorem execNvmeMiBasicManagement_core (s : State) (t : State) (h : execNvmeMiBasicManagement s = .next t) :
    (t).pending = s.pending ∧ (t).cdx.mem = s.cdx.mem ∧ (t).cdx.colophon = s.cdx.colophon := by
  unfold execNvmeMiBasicManagement at h
  injection h with h
  subst h
  simp

theorem execNvmeMiReadDataStructure_core (kind : Nat) (s : State) (t : State) (h : execNvmeMiReadDataStructure kind s = .next t) :
    (t).pending = s.pending ∧ (t).cdx.mem = s.cdx.mem ∧ (t).cdx.colophon = s.cdx.colophon := by
  unfold execNvmeMiReadDataStructure at h
  injection h with h
  subst h
  simp

theorem execNvmeMiSubsystemHealthPoll_core (s : State) (t : State) (h : execNvmeMiSubsystemHealthPoll s = .next t) :
    (t).pending = s.pending ∧ (t).cdx.mem = s.cdx.mem ∧ (t).cdx.colophon = s.cdx.colophon := by
  unfold execNvmeMiSubsystemHealthPoll at h
  injection h with h
  subst h
  simp

theorem execNvmeMiControllerHealthPoll_core (s : State) (t : State) (h : execNvmeMiControllerHealthPoll s = .next t) :
    (t).pending = s.pending ∧ (t).cdx.mem = s.cdx.mem ∧ (t).cdx.colophon = s.cdx.colophon := by
  unfold execNvmeMiControllerHealthPoll at h
  injection h with h
  subst h
  simp

theorem execNvmeMiConfigurationGet_core (id : Nat) (s : State) (t : State) (h : execNvmeMiConfigurationGet id s = .next t) :
    (t).pending = s.pending ∧ (t).cdx.mem = s.cdx.mem ∧ (t).cdx.colophon = s.cdx.colophon := by
  unfold execNvmeMiConfigurationGet at h
  injection h with h
  subst h
  simp

theorem execNvmeMiConfigurationSet_core (id value : Nat) (s : State) (t : State) (h : execNvmeMiConfigurationSet id value s = .next t) :
    (t).pending = s.pending ∧ (t).cdx.mem = s.cdx.mem ∧ (t).cdx.colophon = s.cdx.colophon := by
  unfold execNvmeMiConfigurationSet at h
  injection h with h
  subst h
  simp

theorem execNvmeMiVpdRead_core (offset len : Nat) (s : State) (t : State) (h : execNvmeMiVpdRead offset len s = .next t) :
    (t).pending = s.pending ∧ (t).cdx.mem = s.cdx.mem ∧ (t).cdx.colophon = s.cdx.colophon := by
  unfold execNvmeMiVpdRead at h
  injection h with h
  subst h
  simp

theorem execNvmeMiVpdWrite_core (offset len : Nat) (s : State) (t : State) (h : execNvmeMiVpdWrite offset len s = .next t) :
    (t).pending = s.pending ∧ (t).cdx.mem = s.cdx.mem ∧ (t).cdx.colophon = s.cdx.colophon := by
  unfold execNvmeMiVpdWrite at h
  injection h with h
  subst h
  simp

theorem execNvmeMiTunnelledAdmin_core (e : SqEntry) (s : State) (t : State) (h : execNvmeMiTunnelledAdmin e s = .next t) :
    (t).pending = s.pending ∧ (t).cdx.mem = s.cdx.mem ∧ (t).cdx.colophon = s.cdx.colophon := by
  unfold execNvmeMiTunnelledAdmin at h
  injection h with h
  subst h
  simp

theorem execNvmeMiInvalidCommand_core (opcode : Nat) (s : State) (t : State) (h : execNvmeMiInvalidCommand opcode s = .next t) :
    (t).pending = s.pending ∧ (t).cdx.mem = s.cdx.mem ∧ (t).cdx.colophon = s.cdx.colophon := by
  unfold execNvmeMiInvalidCommand at h
  injection h with h
  subst h
  simp

end Sys2Proof.Machine
end

