-- ==== Sys2Proof/Laws/FrameDaybook.lean ====
section
/-! SUPPORT. What the definitions of Machine/Daybook.lean keep of the queue, the Codex array and the Colophon row. -/

namespace Sys2Proof.Machine

theorem execDaybookRecordEntry_core (x_source event : Nat) (payload : List (Nat × Nat)) (s : State) (t : State) (h : execDaybookRecordEntry x_source event payload s = .next t) :
    (t).pending = s.pending ∧ (t).cdx.mem = s.cdx.mem ∧ (t).cdx.colophon = s.cdx.colophon := by
  unfold execDaybookRecordEntry at h
  injection h with h
  subst h
  (repeat' split) <;> simp

@[simp] theorem buildCards_core (s : State) :
    (buildCards s).pending = s.pending ∧ (buildCards s).cdx.mem = s.cdx.mem ∧ (buildCards s).cdx.colophon = s.cdx.colophon := by
  unfold buildCards
  (repeat' split) <;> simp

theorem execDaybookFlush_core (s : State) (t : State) (h : execDaybookFlush s = .next t) :
    (t).pending = s.pending ∧ (t).cdx.mem = s.cdx.mem ∧ (t).cdx.colophon = s.cdx.colophon := by
  unfold execDaybookFlush at h
  injection h with h
  subst h
  (repeat' split) <;> simp

@[simp] theorem admitRecords_core  (a0 : Nat) (s : State) :
    (admitRecords a0 s).pending = s.pending ∧ (admitRecords a0 s).cdx.mem = s.cdx.mem ∧ (admitRecords a0 s).cdx.colophon = s.cdx.colophon := by
  induction a0 generalizing s with
  | zero => simp [admitRecords]
  | succ n ih =>
    unfold admitRecords
    (repeat' split) <;> simp [ih]

@[simp] theorem pageProgrammed_core (s : State) :
    (pageProgrammed s).pending = s.pending ∧ (pageProgrammed s).cdx.mem = s.cdx.mem ∧ (pageProgrammed s).cdx.colophon = s.cdx.colophon := by
  unfold pageProgrammed
  simp

theorem execDaybookFlushDone_core (s : State) (t : State) (h : execDaybookFlushDone s = .next t) :
    (t).pending = s.pending ∧ (t).cdx.mem = s.cdx.mem ∧ (t).cdx.colophon = s.cdx.colophon := by
  unfold execDaybookFlushDone at h
  injection h with h
  subst h
  (repeat' split) <;> simp

@[simp] theorem thermal_core (kind : Nat) (s : State) :
    (thermal kind s).pending = s.pending ∧ (thermal kind s).cdx.mem = s.cdx.mem ∧ (thermal kind s).cdx.colophon = s.cdx.colophon := by
  unfold thermal
  simp

@[simp] theorem takeReadings_core (r : SensorReadings) (s : State) :
    (takeReadings r s).pending = s.pending ∧ (takeReadings r s).cdx.mem = s.cdx.mem ∧ (takeReadings r s).cdx.colophon = s.cdx.colophon := by
  unfold takeReadings
  simp

@[simp] theorem setThrottle_core (s : State) :
    (setThrottle s).pending = s.pending ∧ (setThrottle s).cdx.mem = s.cdx.mem ∧ (setThrottle s).cdx.colophon = s.cdx.colophon := by
  unfold setThrottle
  repeat' (first | split | simp [foldl_core])

@[simp] theorem setAlert_core (s : State) :
    (setAlert s).pending = s.pending ∧ (setAlert s).cdx.mem = s.cdx.mem ∧ (setAlert s).cdx.colophon = s.cdx.colophon := by
  unfold setAlert
  repeat' (first | split | simp [foldl_core])

@[simp] theorem setCap_core (s : State) :
    (setCap s).pending = s.pending ∧ (setCap s).cdx.mem = s.cdx.mem ∧ (setCap s).cdx.colophon = s.cdx.colophon := by
  unfold setCap
  (repeat' split) <;> simp

@[simp] theorem noteExtremes_core (s : State) :
    (noteExtremes s).pending = s.pending ∧ (noteExtremes s).cdx.mem = s.cdx.mem ∧ (noteExtremes s).cdx.colophon = s.cdx.colophon := by
  unfold noteExtremes
  simp

theorem execSensorSample_core (r : SensorReadings) (s : State) (t : State) (h : execSensorSample r s = .next t) :
    (t).pending = s.pending ∧ (t).cdx.mem = s.cdx.mem ∧ (t).cdx.colophon = s.cdx.colophon := by
  unfold execSensorSample at h
  injection h with h
  subst h
  (repeat' split) <;> simp

theorem execRailOutOfRange_core (rail mv : Nat) (s : State) (t : State) (h : execRailOutOfRange rail mv s = .next t) :
    (t).pending = s.pending ∧ (t).cdx.mem = s.cdx.mem ∧ (t).cdx.colophon = s.cdx.colophon := by
  unfold execRailOutOfRange at h
  injection h with h
  subst h
  (repeat' split) <;> simp

end Sys2Proof.Machine
end

