-- ==== Sys2Proof/Laws/FrameRelay.lean ====
section
/-! SUPPORT. What the definitions of Machine/Relay.lean keep of the queue, the Codex array and the Colophon row. -/

namespace Sys2Proof.Machine

@[simp] theorem modRelay_core (f : Relay → Relay) (s : State) :
    (modRelay f s).pending = s.pending ∧ (modRelay f s).cdx.mem = s.cdx.mem ∧ (modRelay f s).cdx.colophon = s.cdx.colophon := by
  unfold modRelay
  simp

@[simp] theorem dropRelay_core (s : State) :
    (dropRelay s).pending = s.pending ∧ (dropRelay s).cdx.mem = s.cdx.mem ∧ (dropRelay s).cdx.colophon = s.cdx.colophon := by
  unfold dropRelay
  simp [foldl_core]

@[simp] theorem relayIdle_core (s : State) :
    (relayIdle s).pending = s.pending ∧ (relayIdle s).cdx.mem = s.cdx.mem ∧ (relayIdle s).cdx.colophon = s.cdx.colophon := by
  unfold relayIdle
  simp

@[simp] theorem relayTo_core (m : Nat) (s : State) :
    (relayTo m s).pending = s.pending ∧ (relayTo m s).cdx.mem = s.cdx.mem ∧ (relayTo m s).cdx.colophon = s.cdx.colophon := by
  unfold relayTo
  (repeat' split) <;> simp

@[simp] theorem startRelay_core (origin action : Nat) (facts : BundleFacts) (wait : Bool) (s : State) :
    (startRelay origin action facts wait s).pending = s.pending ∧ (startRelay origin action facts wait s).cdx.mem = s.cdx.mem ∧ (startRelay origin action facts wait s).cdx.colophon = s.cdx.colophon := by
  unfold startRelay
  (repeat' split) <;> simp

@[simp] theorem relayResume_core (s : State) :
    (relayResume s).pending = s.pending ∧ (relayResume s).cdx.mem = s.cdx.mem ∧ (relayResume s).cdx.colophon = s.cdx.colophon := by
  unfold relayResume
  (repeat' split) <;> simp

@[simp] theorem sendChunk_core (s : State) :
    (sendChunk s).pending = s.pending ∧ (sendChunk s).cdx.mem = s.cdx.mem ∧ (sendChunk s).cdx.colophon = s.cdx.colophon := by
  unfold sendChunk
  simp

theorem execRelaySend_core (s : State) (t : State) (h : execRelaySend s = .next t) :
    (t).pending = s.pending ∧ (t).cdx.mem = s.cdx.mem ∧ (t).cdx.colophon = s.cdx.colophon := by
  unfold execRelaySend at h
  injection h with h
  subst h
  (repeat' split) <;> simp

@[simp] theorem relayTaken_core (n : Nat) (s : State) :
    (relayTaken n s).pending = s.pending ∧ (relayTaken n s).cdx.mem = s.cdx.mem ∧ (relayTaken n s).cdx.colophon = s.cdx.colophon := by
  unfold relayTaken
  repeat' (first | split | simp [foldl_core])

@[simp] theorem relayFailed_core (s : State) :
    (relayFailed s).pending = s.pending ∧ (relayFailed s).cdx.mem = s.cdx.mem ∧ (relayFailed s).cdx.colophon = s.cdx.colophon := by
  unfold relayFailed
  repeat' (first | split | simp [foldl_core])

theorem execRelayRoundRestart_core (s : State) (t : State) (h : execRelayRoundRestart s = .next t) :
    (t).pending = s.pending ∧ (t).cdx.mem = s.cdx.mem ∧ (t).cdx.colophon = s.cdx.colophon := by
  unfold execRelayRoundRestart at h
  injection h with h
  subst h
  (repeat' split) <;> simp

theorem execRecoveryRelaySend_core (port : Nat) (s : State) (t : State) (h : execRecoveryRelaySend port s = .next t) :
    (t).pending = s.pending ∧ (t).cdx.mem = s.cdx.mem ∧ (t).cdx.colophon = s.cdx.colophon := by
  unfold execRecoveryRelaySend at h
  injection h with h
  subst h
  (repeat' split) <;> simp

end Sys2Proof.Machine
end

