-- ==== Sys2Proof/Laws/FrameLibrarian.lean ====
section
/-! SUPPORT. What the definitions of Machine/Librarian.lean keep of the queue, the Codex array and the Colophon row. -/

namespace Sys2Proof.Machine

@[simp] theorem activateHitless_core (s : State) :
    (activateHitless s).pending = s.pending ∧ (activateHitless s).cdx.mem = s.cdx.mem ∧ (activateHitless s).cdx.colophon = s.cdx.colophon := by
  unfold activateHitless
  repeat' (first | split | simp [foldl_core])

@[simp] theorem dropStages_core (s : State) :
    (dropStages s).pending = s.pending ∧ (dropStages s).cdx.mem = s.cdx.mem ∧ (dropStages s).cdx.colophon = s.cdx.colophon := by
  unfold dropStages
  simp

@[simp] theorem failAdmin_core (s : State) :
    (failAdmin s).pending = s.pending ∧ (failAdmin s).cdx.mem = s.cdx.mem ∧ (failAdmin s).cdx.colophon = s.cdx.colophon := by
  unfold failAdmin
  simp [foldl_core]

@[simp] theorem cutCommits_core (s : State) :
    (cutCommits s).pending = s.pending ∧ (cutCommits s).cdx.mem = s.cdx.mem ∧ (cutCommits s).cdx.colophon = s.cdx.colophon := by
  unfold cutCommits
  simp

@[simp] theorem noteRestart_core (cause : Nat) (s : State) :
    (noteRestart cause s).pending = s.pending ∧ (noteRestart cause s).cdx.mem = s.cdx.mem ∧ (noteRestart cause s).cdx.colophon = s.cdx.colophon := by
  unfold noteRestart
  simp

@[simp] theorem holdPair_core (cause : Nat) (s : State) :
    (holdPair cause s).pending = s.pending ∧ (holdPair cause s).cdx.mem = s.cdx.mem ∧ (holdPair cause s).cdx.colophon = s.cdx.colophon := by
  unfold holdPair
  simp

@[simp] theorem startRestart_core (cause : Nat) (s : State) :
    (startRestart cause s).pending = s.pending ∧ (startRestart cause s).cdx.mem = s.cdx.mem ∧ (startRestart cause s).cdx.colophon = s.cdx.colophon := by
  unfold startRestart
  repeat' (first | split | simp [foldl_core])

theorem execLockstepMismatch_core (s : State) (t : State) (h : execLockstepMismatch s = .next t) :
    (t).pending = s.pending ∧ (t).cdx.mem = s.cdx.mem ∧ (t).cdx.colophon = s.cdx.colophon := by
  unfold execLockstepMismatch at h
  injection h with h
  subst h
  simp

theorem execWatchdogExpiry_core (s : State) (t : State) (h : execWatchdogExpiry s = .next t) :
    (t).pending = s.pending ∧ (t).cdx.mem = s.cdx.mem ∧ (t).cdx.colophon = s.cdx.colophon := by
  unfold execWatchdogExpiry at h
  injection h with h
  subst h
  simp

@[simp] theorem showSet_core (s : State) :
    (showSet s).pending = s.pending ∧ (showSet s).cdx.mem = s.cdx.mem ∧ (showSet s).cdx.colophon = s.cdx.colophon := by
  unfold showSet
  simp

theorem execHeldPauseEnd_core (s : State) (t : State) (h : execHeldPauseEnd s = .next t) :
    (t).pending = s.pending ∧ (t).cdx.mem = s.cdx.mem ∧ (t).cdx.colophon = s.cdx.colophon := by
  unfold execHeldPauseEnd at h
  injection h with h
  subst h
  (repeat' split) <;> simp

@[simp] theorem doRetire_core (x : Nat × Nat × Nat) (s : State) :
    (doRetire x s).pending = s.pending ∧ (doRetire x s).cdx.mem = s.cdx.mem ∧ (doRetire x s).cdx.colophon = s.cdx.colophon := by
  unfold doRetire
  (repeat' split) <;> simp

@[simp] theorem doView_core (j : ViewJob) (s : State) :
    (doView j s).pending = s.pending ∧ (doView j s).cdx.mem = s.cdx.mem ∧ (doView j s).cdx.colophon = s.cdx.colophon := by
  unfold doView
  (repeat' split) <;> simp

@[simp] theorem resumeAdmin_core (s : State) :
    (resumeAdmin s).pending = s.pending ∧ (resumeAdmin s).cdx.mem = s.cdx.mem ∧ (resumeAdmin s).cdx.colophon = s.cdx.colophon := by
  unfold resumeAdmin
  simp [foldl_core]

@[simp] theorem endCommit_core (s : State) :
    (endCommit s).pending = s.pending ∧ (endCommit s).cdx.mem = s.cdx.mem ∧ (endCommit s).cdx.colophon = s.cdx.colophon := by
  unfold endCommit
  (repeat' split) <;> simp

@[simp] theorem endCut_core (s : State) :
    (endCut s).pending = s.pending ∧ (endCut s).cdx.mem = s.cdx.mem ∧ (endCut s).cdx.colophon = s.cdx.colophon := by
  unfold endCut
  simp [foldl_core]

@[simp] theorem librarianRuns_core (s : State) :
    (librarianRuns s).pending = s.pending ∧ (librarianRuns s).cdx.mem = s.cdx.mem ∧ (librarianRuns s).cdx.colophon = s.cdx.colophon := by
  unfold librarianRuns
  simp [foldl_core]

theorem execLibrarianRestartEnd_core (s : State) (t : State) (h : execLibrarianRestartEnd s = .next t) :
    (t).pending = s.pending ∧ (t).cdx.mem = s.cdx.mem ∧ (t).cdx.colophon = s.cdx.colophon := by
  unfold execLibrarianRestartEnd at h
  injection h with h
  subst h
  (repeat' split) <;> simp

end Sys2Proof.Machine
end

