-- ==== Sys2Proof/Laws/FrameUpdate.lean ====
section
/-! SUPPORT. What the definitions of Machine/Update.lean keep of the queue, the Codex array and the Colophon row. -/

namespace Sys2Proof.Machine

@[simp] theorem stageBytes_core (off len : Nat) (facts : BundleFacts) (s : State) :
    (stageBytes off len facts s).pending = s.pending ∧ (stageBytes off len facts s).cdx.mem = s.cdx.mem ∧ (stageBytes off len facts s).cdx.colophon = s.cdx.colophon := by
  unfold stageBytes
  simp

@[simp] theorem firmwareAdmin_core (slot : Nat) (pick : SqEntry → Bool) (f : Cmd → State → State) (s : State)
    (h : ∀ c t, (f c t).pending = t.pending ∧ (f c t).cdx.mem = t.cdx.mem ∧ (f c t).cdx.colophon = t.cdx.colophon) :
    (firmwareAdmin slot pick f s).pending = s.pending ∧ (firmwareAdmin slot pick f s).cdx.mem = s.cdx.mem ∧
      (firmwareAdmin slot pick f s).cdx.colophon = s.cdx.colophon := by
  unfold firmwareAdmin
  exact ite_core ⟨rfl, rfl, rfl⟩ (runAdmin_core _ _ _ _ h)

theorem firmwareAdmin_kept (slot : Nat) (pick : SqEntry → Bool) (f : Cmd → State → State) (s : State)
    (h : ∀ c t, CoreKept t (f c t)) : CoreKept s (firmwareAdmin slot pick f s) := by
  unfold firmwareAdmin
  exact ite_kept (.refl s) (runAdmin_kept _ _ _ _ h)

theorem execFirmwareImageDownload_core (slot : Nat) (facts : BundleFacts) (s : State) (t : State) (h : execFirmwareImageDownload slot facts s = .next t) :
    (t).pending = s.pending ∧ (t).cdx.mem = s.cdx.mem ∧ (t).cdx.colophon = s.cdx.colophon := by
  unfold execFirmwareImageDownload at h
  grind [firmwareAdmin_core, finishErr_core, finishOk_core, stageBytes_core, foldl_core]

theorem eraseBlock_core (n : Nat) (s : State) : CoreKept s (eraseBlock n s) := by
  unfold eraseBlock
  extract_lets t
  have h : CoreKept s t := foldl_kept _ (fun u i => clearBytes_core i u) _ s
  exact (CoreKept.then_eq h ⟨rfl, rfl, rfl⟩).then_eq (modBlock_core n _ _)

@[simp] theorem fillBlock_core (n : Nat) (facts : BundleFacts) (good : Bool) (s : State) :
    (fillBlock n facts good s).pending = s.pending ∧ (fillBlock n facts good s).cdx.mem = s.cdx.mem ∧ (fillBlock n facts good s).cdx.colophon = s.cdx.colophon := by
  unfold fillBlock
  simp

@[simp] theorem startWriting_core (w : Writer) (s : State) :
    (startWriting w s).pending = s.pending ∧ (startWriting w s).cdx.mem = s.cdx.mem ∧ (startWriting w s).cdx.colophon = s.cdx.colophon := by
  unfold startWriting
  simp

@[simp] theorem armBlock_core (n : Nat) (s : State) :
    (armBlock n s).pending = s.pending ∧ (armBlock n s).cdx.mem = s.cdx.mem ∧ (armBlock n s).cdx.colophon = s.cdx.colophon := by
  unfold armBlock
  simp

@[simp] theorem emptyStage_core (s : State) :
    (emptyStage s).pending = s.pending ∧ (emptyStage s).cdx.mem = s.cdx.mem ∧ (emptyStage s).cdx.colophon = s.cdx.colophon := by
  unfold emptyStage
  simp

@[simp] theorem commitStage_core (slot : Nat) (s : State) :
    (commitStage slot s).pending = s.pending ∧ (commitStage slot s).cdx.mem = s.cdx.mem ∧ (commitStage slot s).cdx.colophon = s.cdx.colophon := by
  unfold commitStage
  (repeat' split) <;> simp

theorem commitWritten_core (slot act : Nat) (arm good : Bool) (wait : BundleFacts → Bool) (f : State → State) (s : State)
    (k : ∀ u, SameCore u (f u)) : SameCore s (commitWritten slot act arm good wait f s) := by
  unfold commitWritten
  extract_lets n facts ok u0 t
  have h : SameCore s t := ⟨by simp [t], by simp [t], by simp [t]⟩
  split
  · exact h.trans (finishErr_core _ _ _)
  · refine (h.trans ?_).trans (k _)
    have h2 : SameCore t (if arm then armBlock n t else t) := .ite (armBlock_core n t) (.refl t)
    exact h2.trans (startRelay_core _ _ _ _ _)

theorem commitEvent_core (slot : Nat) (pick : SqEntry → Bool) (start finish : State → State) (s : State)
    (h : ∀ u, SameCore u (start u)) (k : ∀ u, SameCore u (finish u)) : SameCore s (commitEvent slot pick start finish s) := by
  unfold commitEvent
  split
  · split
    · exact .refl s
    · exact .ite (k s) (.refl s)
  · exact firmwareAdmin_core _ _ _ _ fun _ t => h t

@[simp] theorem commitRecovery_core (slot : Nat) (arm good : Bool) (st : Nat × Nat) (s : State) :
    (commitRecovery slot arm good st s).pending = s.pending ∧ (commitRecovery slot arm good st s).cdx.mem = s.cdx.mem ∧ (commitRecovery slot arm good st s).cdx.colophon = s.cdx.colophon := by
  unfold commitRecovery
  (repeat' split) <;> simp

theorem execFirmwareCommitWrite_core (slot : Nat) (ok : Bool) (s t : State)
    (h : execFirmwareCommitWrite slot ok s = .next t) : SameCore s t := by
  unfold execFirmwareCommitWrite at h
  injection h with h
  subst h
  exact commitEvent_core _ _ _ _ s (fun u => .ite (commitRecovery_core _ _ _ _ u) (commitStage_core _ u))
    fun u => commitWritten_core _ _ _ _ _ _ u fun v => finishOk_core _ _ v

theorem execFirmwareCommitWriteArm_core (slot : Nat) (ok : Bool) (s t : State)
    (h : execFirmwareCommitWriteArm slot ok s = .next t) : SameCore s t := by
  unfold execFirmwareCommitWriteArm at h
  injection h with h
  subst h
  exact commitEvent_core _ _ _ _ s (fun u => .ite (commitRecovery_core _ _ _ _ u) (commitStage_core _ u))
    fun u => commitWritten_core _ _ _ _ _ _ u fun v => finishOk_core _ _ v

theorem execFirmwareCommitArm_core (slot : Nat) (s : State) (t : State) (h : execFirmwareCommitArm slot s = .next t) :
    (t).pending = s.pending ∧ (t).cdx.mem = s.cdx.mem ∧ (t).cdx.colophon = s.cdx.colophon := by
  unfold execFirmwareCommitArm at h
  grind [firmwareAdmin_core, finishOk_core, finishErr_core, armBlock_core, foldl_core]

@[simp] theorem activateCommit_core (slot : Nat) (s : State) :
    (activateCommit slot s).pending = s.pending ∧ (activateCommit slot s).cdx.mem = s.cdx.mem ∧ (activateCommit slot s).cdx.colophon = s.cdx.colophon := by
  unfold activateCommit
  simp

theorem execFirmwareCommitActivate_core (slot : Nat) (ok : Bool) (s t : State)
    (h : execFirmwareCommitActivate slot ok s = .next t) : SameCore s t := by
  unfold execFirmwareCommitActivate at h
  injection h with h
  subst h
  refine commitEvent_core _ _ _ _ s (fun u => .ite (commitRecovery_core _ _ _ _ u) (commitStage_core _ u))
    fun u => commitWritten_core _ _ _ _ _ _ u fun v => ?_
  split
  · exact activateCommit_core _ v
  · exact finishErr_core _ _ v

theorem execFirmwareCommitInvalid_core (slot : Nat) (s : State) (t : State) (h : execFirmwareCommitInvalid slot s = .next t) :
    (t).pending = s.pending ∧ (t).cdx.mem = s.cdx.mem ∧ (t).cdx.colophon = s.cdx.colophon := by
  unfold execFirmwareCommitInvalid at h
  injection h with h
  subst h
  simp

theorem recoveryBytes_core (off len : Nat) (facts : BundleFacts) (s : State) :
    CoreKept s (recoveryBytes off len facts s) := by
  unfold recoveryBytes
  extract_lets n t
  have h : CoreKept s t := ite_kept (eraseBlock_core n s) (.refl s)
  exact (CoreKept.then_eq h ⟨rfl, rfl, rfl⟩).then_eq (modBlock_core n _ _)

theorem execRecoveryFirmwareDownload_core (slot : Nat) (facts : BundleFacts) (s t : State)
    (h : execRecoveryFirmwareDownload slot facts s = .next t) : CoreKept s t := by
  unfold execRecoveryFirmwareDownload at h
  injection h with h
  subst h
  refine ite_kept (.refl s) (runAdmin_kept _ _ _ _ fun c t => ?_)
  refine ite_kept (.of_eq (finishErr_core _ _ t)) ((recoveryBytes_core _ _ _ t).then_eq (finishOk_core _ _ _))

@[simp] theorem relayBytes_core (off len origin action : Nat) (facts : BundleFacts) (s : State) :
    (relayBytes off len origin action facts s).pending = s.pending ∧ (relayBytes off len origin action facts s).cdx.mem = s.cdx.mem ∧ (relayBytes off len origin action facts s).cdx.colophon = s.cdx.colophon := by
  unfold relayBytes
  (repeat' split) <;> simp

theorem relayRecovery_core (h : PacketHdr) (len : Nat) (facts : BundleFacts) (s : State) :
    CoreKept s (relayRecovery h len facts s) := by
  unfold relayRecovery
  refine ite_kept (.of_eq (by simp)) (ite_kept ?_ (.refl s))
  exact (recoveryBytes_core _ _ _ s).then_eq (sendDone_core _ _ _)

theorem relayIn_core (h : PacketHdr) (len origin action : Nat) (facts : BundleFacts) (s : State) :
    CoreKept s (relayIn h len origin action facts s) := by
  unfold relayIn
  refine ite_kept (relayRecovery_core _ _ _ s) (ite_kept (.of_eq (by simp)) (ite_kept (.refl s) (.of_eq (by simp))))

theorem execRelay_core (h : PacketHdr) (len origin action : Nat) (facts : BundleFacts) (s t : State)
    (e : execRelay h len origin action facts s = .next t) : CoreKept s t := by
  unfold execRelay at e
  injection e with e
  subst e
  exact onPacket_kept _ _ _ _ fun u => relayIn_core _ _ _ _ _ u

theorem relayWritten_core (ok : Bool) (s : State) : SameCore s (relayWritten ok s) := by
  unfold relayWritten
  extract_lets r n good hitless u0 t u v
  have h : SameCore s t := ⟨by simp [t], by simp [t], by simp [t]⟩
  have h2 : SameCore t u := .ite (armBlock_core n t) (.refl t)
  have h3 : SameCore u v := .ite (startRelay_core _ _ _ _ _) (.refl u)
  exact ((h.trans h2).trans h3).trans (.ite (startRestart_core _ _) (.refl v))

@[simp] theorem relayBegin_core (s : State) :
    (relayBegin s).pending = s.pending ∧ (relayBegin s).cdx.mem = s.cdx.mem ∧ (relayBegin s).cdx.colophon = s.cdx.colophon := by
  unfold relayBegin
  repeat' (first | split | simp [foldl_core])

theorem execRelayCommit_core (ok : Bool) (s t : State) (h : execRelayCommit ok s = .next t) : SameCore s t := by
  unfold execRelayCommit at h
  injection h with h
  subst h
  refine .ite (.refl s) (.ite (.ite (relayWritten_core ok s) (.refl s)) (.ite ?_ (.refl s)))
  exact relayBegin_core s

@[simp] theorem formatHeard_core (slot : Nat) (st : Nat × Nat) (s : State) :
    (formatHeard slot st s).pending = s.pending ∧ (formatHeard slot st s).cdx.mem = s.cdx.mem ∧ (formatHeard slot st s).cdx.colophon = s.cdx.colophon := by
  unfold formatHeard
  repeat' (first | split | simp [foldl_core])

@[simp] theorem requestOver_core (r : OutReq) (st : Option (Nat × Nat)) (s : State) :
    (requestOver r st s).pending = s.pending ∧ (requestOver r st s).cdx.mem = s.cdx.mem ∧ (requestOver r st s).cdx.colophon = s.cdx.colophon := by
  unfold requestOver
  (repeat' split) <;> simp

@[simp] theorem doneIn_core (h : PacketHdr) (s : State) :
    (doneIn h s).pending = s.pending ∧ (doneIn h s).cdx.mem = s.cdx.mem ∧ (doneIn h s).cdx.colophon = s.cdx.colophon := by
  unfold doneIn
  (repeat' split) <;> simp

theorem execDone_core (h : PacketHdr) (s : State) (out : State) (k : execDone h s = .next out) :
    (out).pending = s.pending ∧ (out).cdx.mem = s.cdx.mem ∧ (out).cdx.colophon = s.cdx.colophon := by
  unfold execDone at k
  injection k with k
  subst k
  simp

theorem execMemberTimeout_core (dst index : Nat) (s : State) (t : State) (h : execMemberTimeout dst index s = .next t) :
    (t).pending = s.pending ∧ (t).cdx.mem = s.cdx.mem ∧ (t).cdx.colophon = s.cdx.colophon := by
  unfold execMemberTimeout at h
  injection h with h
  subst h
  (repeat' split) <;> simp

end Sys2Proof.Machine
end

