-- ==== Sys2Proof/Laws/FrameDram.lean ====
section
/-! SUPPORT. What the definitions of Machine/Dram.lean keep of the queue, the Codex array and the Colophon row. -/

namespace Sys2Proof.Machine

@[simp] theorem serveReq_core (u now : Nat) (r : DramReq) (s : State) :
    (serveReq u now r s).pending = s.pending ∧ (serveReq u now r s).cdx.mem = s.cdx.mem ∧ (serveReq u now r s).cdx.colophon = s.cdx.colophon := by
  unfold serveReq
  simp

@[simp] theorem takeReqs_core (u : Nat) (arrived : List DramReq) (now : Nat) (s : State) :
    (takeReqs u arrived now s).pending = s.pending ∧ (takeReqs u arrived now s).cdx.mem = s.cdx.mem ∧ (takeReqs u arrived now s).cdx.colophon = s.cdx.colophon := by
  unfold takeReqs
  repeat' (first | split | simp [foldl_core])

@[simp] theorem logRow_core (a : RowAddr) (f : RowErr → RowErr) (s : State) :
    (logRow a f s).pending = s.pending ∧ (logRow a f s).cdx.mem = s.cdx.mem ∧ (logRow a f s).cdx.colophon = s.cdx.colophon := by
  unfold logRow
  simp

@[simp] theorem noteDram_core (kind : Nat) (a : RowAddr) (spare : Nat) (s : State) :
    (noteDram kind a spare s).pending = s.pending ∧ (noteDram kind a spare s).cdx.mem = s.cdx.mem ∧ (noteDram kind a spare s).cdx.colophon = s.cdx.colophon := by
  unfold noteDram
  simp

@[simp] theorem stickDram_core (m : Word32) (s : State) :
    (stickDram m s).pending = s.pending ∧ (stickDram m s).cdx.mem = s.cdx.mem ∧ (stickDram m s).cdx.colophon = s.cdx.colophon := by
  unfold stickDram
  simp

@[simp] theorem noteCorrected_core (a : RowAddr) (two : Bool) (s : State) :
    (noteCorrected a two s).pending = s.pending ∧ (noteCorrected a two s).cdx.mem = s.cdx.mem ∧ (noteCorrected a two s).cdx.colophon = s.cdx.colophon := by
  unfold noteCorrected
  simp

@[simp] theorem noteUncorrectable_core (a : RowAddr) (s : State) :
    (noteUncorrectable a s).pending = s.pending ∧ (noteUncorrectable a s).cdx.mem = s.cdx.mem ∧ (noteUncorrectable a s).cdx.colophon = s.cdx.colophon := by
  unfold noteUncorrectable
  simp

@[simp] theorem noteDecode_core (a : RowAddr) (errors : Nat) (miscorrected : Bool) (s : State) :
    (noteDecode a errors miscorrected s).pending = s.pending ∧ (noteDecode a errors miscorrected s).cdx.mem = s.cdx.mem ∧ (noteDecode a errors miscorrected s).cdx.colophon = s.cdx.colophon := by
  unfold noteDecode
  (repeat' split) <;> simp

@[simp] theorem wakeDram_core (s : State) :
    (wakeDram s).pending = s.pending ∧ (wakeDram s).cdx.mem = s.cdx.mem ∧ (wakeDram s).cdx.colophon = s.cdx.colophon := by
  unfold wakeDram
  simp

@[simp] theorem lostCopy_core (p : Ppa) (s : State) :
    (lostCopy p s).pending = s.pending ∧ (lostCopy p s).cdx.mem = s.cdx.mem ∧ (lostCopy p s).cdx.colophon = s.cdx.colophon := by
  unfold lostCopy
  (repeat' split) <;> simp

@[simp] theorem lostRebuild_core (e i pos : Nat) (s : State) :
    (lostRebuild e i pos s).pending = s.pending ∧ (lostRebuild e i pos s).cdx.mem = s.cdx.mem ∧ (lostRebuild e i pos s).cdx.colophon = s.cdx.colophon := by
  unfold lostRebuild
  repeat' (first | split | simp [foldl_core])

@[simp] theorem lostWord_core (region owner : Nat) (s : State) :
    (lostWord region owner s).pending = s.pending ∧ (lostWord region owner s).cdx.mem = s.cdx.mem ∧ (lostWord region owner s).cdx.colophon = s.cdx.colophon := by
  unfold lostWord
  (repeat' split) <;> simp

theorem execDramReadDecode_core (u rank bg bank row errors : Nat) (miscorrected : Bool) (lost : DramLoss) (turn : DramTurn) (s : State) (t : State) (h : execDramReadDecode u rank bg bank row errors miscorrected lost turn s = .next t) :
    (t).pending = s.pending ∧ (t).cdx.mem = s.cdx.mem ∧ (t).cdx.colophon = s.cdx.colophon := by
  unfold execDramReadDecode at h
  injection h with h
  subst h
  (repeat' split) <;> simp

theorem execPatrolScrub_core (u rank bg bank row errors : Nat) (x_writeIntervened : Bool) (s : State) (t : State) (h : execPatrolScrub u rank bg bank row errors x_writeIntervened s = .next t) :
    (t).pending = s.pending ∧ (t).cdx.mem = s.cdx.mem ∧ (t).cdx.colophon = s.cdx.colophon := by
  unfold execPatrolScrub at h
  injection h with h
  subst h
  (repeat' split) <;> simp

theorem execRefreshTick_core (u : Nat) (urgent : Bool) (s : State) (t : State) (h : execRefreshTick u urgent s = .next t) :
    (t).pending = s.pending ∧ (t).cdx.mem = s.cdx.mem ∧ (t).cdx.colophon = s.cdx.colophon := by
  unfold execRefreshTick at h
  injection h with h
  subst h
  repeat' (first | split | simp [foldl_core])

theorem execMr4Read_core (rank : Nat) (doubled beyond : Bool) (tempTop : Int) (s : State) (t : State) (h : execMr4Read rank doubled beyond tempTop s = .next t) :
    (t).pending = s.pending ∧ (t).cdx.mem = s.cdx.mem ∧ (t).cdx.colophon = s.cdx.colophon := by
  unfold execMr4Read at h
  injection h with h
  subst h
  (repeat' split) <;> simp

@[simp] theorem recentreDram_core (s : State) :
    (recentreDram s).pending = s.pending ∧ (recentreDram s).cdx.mem = s.cdx.mem ∧ (recentreDram s).cdx.colophon = s.cdx.colophon := by
  unfold recentreDram
  repeat' (first | split | simp [foldl_core])

theorem execDqsOscillatorRead_core (rank : Nat) (change : Int) (s : State) (t : State) (h : execDqsOscillatorRead rank change s = .next t) :
    (t).pending = s.pending ∧ (t).cdx.mem = s.cdx.mem ∧ (t).cdx.colophon = s.cdx.colophon := by
  unfold execDqsOscillatorRead at h
  injection h with h
  subst h
  (repeat' split) <;> simp

theorem execBrakeRaise_core (port fill : Nat) (s : State) (t : State) (h : execBrakeRaise port fill s = .next t) :
    (t).pending = s.pending ∧ (t).cdx.mem = s.cdx.mem ∧ (t).cdx.colophon = s.cdx.colophon := by
  unfold execBrakeRaise at h
  injection h with h
  subst h
  (repeat' split) <;> simp

theorem execBrakeLower_core (port : Nat) (s : State) (t : State) (h : execBrakeLower port s = .next t) :
    (t).pending = s.pending ∧ (t).cdx.mem = s.cdx.mem ∧ (t).cdx.colophon = s.cdx.colophon := by
  unfold execBrakeLower at h
  injection h with h
  subst h
  (repeat' split) <;> simp

theorem execRowErrorLogHalve_core (s : State) (t : State) (h : execRowErrorLogHalve s = .next t) :
    (t).pending = s.pending ∧ (t).cdx.mem = s.cdx.mem ∧ (t).cdx.colophon = s.cdx.colophon := by
  unfold execRowErrorLogHalve at h
  injection h with h
  subst h
  (repeat' split) <;> simp

@[simp] theorem remap_core (e : SpareEntry) (s : State) :
    (remap e s).pending = s.pending ∧ (remap e s).cdx.mem = s.cdx.mem ∧ (remap e s).cdx.colophon = s.cdx.colophon := by
  unfold remap
  simp

theorem execRowRetire_core (u rank bg bank row : Nat) (wholeBank : Bool) (s : State) (t : State) (h : execRowRetire u rank bg bank row wholeBank s = .next t) :
    (t).pending = s.pending ∧ (t).cdx.mem = s.cdx.mem ∧ (t).cdx.colophon = s.cdx.colophon := by
  unfold execRowRetire at h
  injection h with h
  subst h
  (repeat' split) <;> simp

end Sys2Proof.Machine
end

