-- ==== Sys2Proof/Laws/FramePcie.lean ====
section
/-! SUPPORT. What the definitions of Machine/Pcie.lean keep of the queue, the Codex array and the Colophon row. -/

namespace Sys2Proof.Machine

@[simp] theorem configWrite_core (n value : Nat) (s : State) :
    (configWrite n value s).pending = s.pending ∧ (configWrite n value s).cdx.mem = s.cdx.mem ∧ (configWrite n value s).cdx.colophon = s.cdx.colophon := by
  unfold configWrite
  (repeat' split) <;> simp

end Sys2Proof.Machine
end

