-- ==== Sys2Proof/Laws/FrameFlags.lean ====
section
/-! SUPPORT. What the definitions of Machine/Flags.lean keep of the queue, the Codex array and the Colophon row. -/

namespace Sys2Proof.Machine

@[simp] theorem setSticky_core (idx : Nat) (v : Word32) (s : State) :
    (setSticky idx v s).pending = s.pending ∧ (setSticky idx v s).cdx.mem = s.cdx.mem ∧ (setSticky idx v s).cdx.colophon = s.cdx.colophon := by
  unfold setSticky
  (repeat' split) <;> simp

@[simp] theorem clearSticky_core (idx : Nat) (mask : Word32) (s : State) :
    (clearSticky idx mask s).pending = s.pending ∧ (clearSticky idx mask s).cdx.mem = s.cdx.mem ∧ (clearSticky idx mask s).cdx.colophon = s.cdx.colophon := by
  unfold clearSticky
  (repeat' split) <;> simp

theorem execStickyRw1cWrite_core (idx : Nat) (mask : Word32) (s : State) (t : State) (h : execStickyRw1cWrite idx mask s = .next t) :
    (t).pending = s.pending ∧ (t).cdx.mem = s.cdx.mem ∧ (t).cdx.colophon = s.cdx.colophon := by
  unfold execStickyRw1cWrite at h
  injection h with h
  subst h
  (repeat' split) <;> simp

theorem execStickyClear_core (slot : Nat) (s : State) (t : State) (h : execStickyClear slot s = .next t) :
    (t).pending = s.pending ∧ (t).cdx.mem = s.cdx.mem ∧ (t).cdx.colophon = s.cdx.colophon := by
  unfold execStickyClear at h
  grind [runAdmin_core, finishOk_core, clearSticky_core, finishErr_core, foldl_core]

@[simp] theorem clearEsc_core (value : Word32) (s : State) :
    (clearEsc value s).pending = s.pending ∧ (clearEsc value s).cdx.mem = s.cdx.mem ∧ (clearEsc value s).cdx.colophon = s.cdx.colophon := by
  unfold clearEsc
  (repeat' split) <;> simp

@[simp] theorem clearLate_core (value : Word32) (s : State) :
    (clearLate value s).pending = s.pending ∧ (clearLate value s).cdx.mem = s.cdx.mem ∧ (clearLate value s).cdx.colophon = s.cdx.colophon := by
  unfold clearLate
  (repeat' split) <;> simp

theorem execKsEscClear_core (value : Word32) (s : State) (t : State) (h : execKsEscClear value s = .next t) :
    (t).pending = s.pending ∧ (t).cdx.mem = s.cdx.mem ∧ (t).cdx.colophon = s.cdx.colophon := by
  unfold execKsEscClear at h
  injection h with h
  subst h
  (repeat' split) <;> simp

theorem execKsDramClear_core (value : Word32) (s : State) (t : State) (h : execKsDramClear value s = .next t) :
    (t).pending = s.pending ∧ (t).cdx.mem = s.cdx.mem ∧ (t).cdx.colophon = s.cdx.colophon := by
  unfold execKsDramClear at h
  injection h with h
  subst h
  (repeat' split) <;> simp

theorem writeBar2_core (off size : Nat) (value : Word32) (s : State) : CoreKept s (writeBar2 off size value s) := by
  unfold writeBar2
  refine ite_kept (.refl s) (ite_kept (.of_eq (clearSticky_core _ _ s)) ?_)
  split
  · exact .of_eq (ite_core (requestTest_core s) ⟨rfl, rfl, rfl⟩)
  · exact .of_eq (clearPools_core _ s)
  · exact .of_eq (clearLate_core _ s)
  · exact .of_eq (clearEsc_core _ s)
  · exact .of_eq (setCxPage_core _ s)
  · exact .of_eq (setCxAddr_core _ s)
  · exact writeCxData_core _ _ _ s
  · exact .refl s

theorem execRegisterWrite_core (bar off size value : Nat) (s t : State) (h : execRegisterWrite bar off size value s = .next t) :
    CoreKept s t := by
  unfold execRegisterWrite at h
  injection h with h
  subst h
  refine ite_kept (ite_kept (.of_eq (configWrite_core _ _ s)) (.refl s)) (ite_kept (.refl s) ?_)
  refine ite_kept (.of_eq (writeBar0_core _ _ _ s)) (ite_kept (writeBar2_core _ _ _ s) (ite_kept ?_ (.refl s)))
  exact .of_eq (writeMsix_core _ _ s)

end Sys2Proof.Machine
end

