-- ==== Sys2Proof/Laws/FrameTick.lean ====
section
/-! SUPPORT. What the definitions of Machine/Tick.lean keep of the queue, the Codex array and the Colophon row. -/

namespace Sys2Proof.Machine

@[simp] theorem tickStalls_core (s : State) :
    (tickStalls s).pending = s.pending ∧ (tickStalls s).cdx.mem = s.cdx.mem ∧ (tickStalls s).cdx.colophon = s.cdx.colophon := by
  unfold tickStalls
  simp

@[simp] theorem tickMinute_core (s : State) :
    (tickMinute s).pending = s.pending ∧ (tickMinute s).cdx.mem = s.cdx.mem ∧ (tickMinute s).cdx.colophon = s.cdx.colophon := by
  unfold tickMinute
  (repeat' split) <;> simp

@[simp] theorem tickMs_core (s : State) :
    (tickMs s).pending = s.pending ∧ (tickMs s).cdx.mem = s.cdx.mem ∧ (tickMs s).cdx.colophon = s.cdx.colophon := by
  unfold tickMs
  repeat' (first | split | simp [foldl_core])

@[simp] theorem tickGates_core (s : State) :
    (tickGates s).pending = s.pending ∧ (tickGates s).cdx.mem = s.cdx.mem ∧ (tickGates s).cdx.colophon = s.cdx.colophon := by
  unfold tickGates
  (repeat' split) <;> simp

theorem tick_core (s : State) : CoreKept s (tick s) := by
  unfold tick
  refine ite_kept (.refl s) ?_
  extract_lets c t u
  have h1 : SameCore s u := by
    have ht : SameCore s t := SameCore.trans (t := { s with clock := { s.clock with us := s.clock.us + 1 } })
      ⟨rfl, rfl, rfl⟩ (tickStalls_core _)
    exact .ite (ht.trans (tickMs_core t)) ht
  clear_value u
  exact (((CoreKept.of_eq h1).trans (startAdvance_core u)).then_eq (shutdownAdvance_core _)).then_eq (tickGates_core _)

end Sys2Proof.Machine
end

