-- ==== Sys2Proof/Laws/Operations.lean ====
section
/-! SUPPORT. What the shared operations can do: lists and maps read after a write, buffers given back, a command that
ends, a record of the Daybook, a die that changes, bytes programmed into the Codex. -/

namespace Sys2Proof.Machine

theorem freeBuffer_rest (n a : Nat) (s : State) : freeBuffer n a s = { s with pools := (freeBuffer n a s).pools } := rfl

theorem freeAllOf_rest (w : Requester) (s : State) : ∃ p, freeAllOf w s = { s with pools := p } := by
  unfold freeAllOf
  generalize (s.pools.held.filter fun h => h.1 = w) = l
  induction l generalizing s with
  | nil => exact ⟨s.pools, rfl⟩
  | cons x l ih =>
    obtain ⟨p, hp⟩ := ih (freeBuffer x.2.1 x.2.2 s)
    exact ⟨p, by simp only [List.foldl_cons]; rw [hp]; rfl⟩

theorem dropBuffers_rest (n : Nat) (s : State) : ∃ p, dropBuffers n s = { s with pools := p } := by
  obtain ⟨p, hp⟩ := freeAllOf_rest (.slot n) (dropWait (.slot n) s)
  exact ⟨p, by unfold dropBuffers; rw [hp]; rfl⟩

theorem dropAll_rest (s : State) : ∃ p, dropAll s = { s with pools := p } := by
  unfold dropAll
  generalize s.nv.cmds = l
  induction l generalizing s with
  | nil => exact ⟨s.pools, rfl⟩
  | cons x l ih =>
    obtain ⟨p, hp⟩ := dropBuffers_rest x.slot s
    obtain ⟨q, hq⟩ := ih { s with pools := p }
    exact ⟨q, by simp only [List.foldl_cons]; rw [hp, hq]⟩

theorem cmdAt_slot {s : State} {n : Nat} {c : Cmd} (h : cmdAt s n = some c) : c.slot = n := by
  unfold cmdAt at h
  have := List.find?_some h
  simpa using this

theorem addError_waiting (c : Cmd) (st : Nat × Nat) (l : Nat) (s : State) : (addError c st l s).nv.waiting = s.nv.waiting := by
  unfold addError; split <;> rfl

theorem addError_rest (c : Cmd) (st : Nat × Nat) (l : Nat) (s : State) : addError c st l s = { s with nv := (addError c st l s).nv } := by
  unfold addError; split <;> rfl

theorem finish_ended {slot : Nat} {c : Cmd} {s : State} (st : Nat × Nat) (dw0 : Nat) (h : cmdAt s slot = some c) :
    Ended slot c st dw0 s (finish slot st dw0 s) := by
  unfold finish
  rw [h]
  simp only [finishAt, h]
  refine ⟨?_, ?_⟩
  · simp [addError_waiting, entryOf]
  · simp [cmdAt]

theorem finish_rest (slot : Nat) (st : Nat × Nat) (dw0 : Nat) (s : State) :
    finish slot st dw0 s = { s with nv := (finish slot st dw0 s).nv } := by
  unfold finish
  split
  · rfl
  · unfold finishAt
    split
    · rfl
    · rw [addError_rest]

theorem record_rest (e : Nat) (p : List (Nat × Nat)) (s : State) :
    record e p s = { s with day := (record e p s).day, cdx := { s.cdx with recRecords := (record e p s).cdx.recRecords } } := by
  unfold record
  split
  · rfl
  · split
    · rfl
    · split
      · rfl
      · split <;> rfl

theorem find?_modWhere {α : Type} (p : α → Bool) (f : α → α) (r : α → Bool) (l : List α)
    (h : ∀ x, r (if p x then f x else x) = r x) :
    (modWhere p f l).find? r = (l.find? r).map (fun x => if p x then f x else x) := by
  unfold modWhere
  rw [List.find?_map]
  congr 1
  congr 1
  funext x; simp [Function.comp, h]

theorem runAdmin_ready {slot : Nat} {c : Cmd} {s : State} (h : AdminReady slot c s) (pick : SqEntry → Bool)
    (f : Cmd → State → State) (hp : pick c.e = true) : runAdmin slot pick f s = f c s := by
  obtain ⟨h1, h2, h3, h4, h5, h6⟩ := h
  have hm : s.mode.mode ≠ .recovery := by intro hr; simp [serving, hr] at h4
  simp [runAdmin, h1, h2, h3, h4, h5, h6, hm, hp]

theorem modAt_getElem {α : Type} (n : Nat) (f : α → α) (l : List α) (m : Nat) :
    (modAt n f l)[m]? = if m = n then l[m]?.map f else l[m]? := by
  induction l generalizing n m with
  | nil => simp [modAt]
  | cons x l ih =>
    cases n <;> cases m <;> simp [modAt, ih]

theorem mapGet_mapSet {α : Type} (k : Nat) (v : α) (b : Nat) : ∀ (l : List (Nat × α)),
    mapGet b (mapSet k v l) = if b = k then some v else mapGet b l := by
  intro l
  induction l with
  | nil => simp [mapSet, mapGet, eq_comm]
  | cons x l ih =>
    obtain ⟨a, w⟩ := x
    simp only [mapSet]
    split_ifs <;> simp only [mapGet] <;> grind

theorem mapGet_mapDel {α : Type} (k b : Nat) : ∀ (l : List (Nat × α)),
    mapGet b (mapDel k l) = if b = k then none else mapGet b l := by
  intro l
  induction l with
  | nil => simp [mapDel, mapGet]
  | cons x l ih =>
    obtain ⟨a, w⟩ := x
    simp only [mapDel, mapGet]
    grind [mapGet]

theorem mapAt_mapPut {α : Type} [DecidableEq α] (d : α) (k : Nat) (v : α) (b : Nat) (l : List (Nat × α)) (d' : α) :
    mapAt d' b (mapPut d k v l) = if b = k then (if v = d then d' else v) else mapAt d' b l := by
  unfold mapAt mapPut
  split <;> simp only [mapGet_mapSet, mapGet_mapDel] <;> grind

theorem serving_facts {s : State} (h : serving s = true) : awake s = true ∧ s.mode.mode ≠ .coast ∧ s.mode.mode ≠ .recovery := by
  unfold serving at h; unfold awake; split at h <;> simp_all

theorem modDie_changed (ch tg : Nat) (f : Die → Die) (s : State) (hf : ∀ d, (f d).channel = d.channel ∧ (f d).target = d.target) :
    DieChanged ch tg f s (modDie ch tg f s) := by
  refine ⟨rfl, ?_⟩
  intro a b
  unfold dieAt modDie
  simp only
  rw [find?_modWhere]
  · cases h : s.fl.dies.find? (fun d => decide (d.channel = a) && decide (d.target = b)) with
    | none => simp
    | some d =>
      have := List.find?_some h
      simp at this
      simp [this]
      split <;> simp_all
  · intro x; split <;> simp [hf]

theorem record_keep (e : Nat) (p : List (Nat × Nat)) (u : State) : (record e p u).coast = u.coast ∧ (record e p u).mode = u.mode ∧ (record e p u).pins = u.pins ∧ (record e p u).wr = u.wr ∧ (record e p u).cat = u.cat ∧ (record e p u).nv = u.nv := by
  rw [record_rest]; simp

theorem mapAt_mapPut_eq {α : Type} [DecidableEq α] (d v : α) (k j : Nat) (l : List (Nat × α)) :
   mapAt d j (mapPut d k v l) = if j = k then v else mapAt d j l := by
  rw [mapAt_mapPut]; grind

theorem andBytes_byte (l : List Byte) (a : Nat) (s : State) :
    (∀ i v, l[i]? = some v → codexByte (andBytes a l s) (a + i) = codexByte s (a + i) &&& v) ∧
    (∀ x, x < a ∨ a + l.length ≤ x → codexByte (andBytes a l s) x = codexByte s x) ∧
    andBytes a l s = { s with cdx := { s.cdx with mem := (andBytes a l s).cdx.mem } } := by
  induction l generalizing a s with
  | nil => simp [andBytes]
  | cons b l ih =>
    obtain ⟨h1, h2, h3⟩ := ih (a + 1) (andByte a b s)
    have hb : ∀ x, codexByte (andByte a b s) x = if x = a then codexByte s a &&& b else codexByte s x := by
      intro x; simp [andByte, codexByte, mapAt_mapPut_eq]
    refine ⟨?_, ?_, ?_⟩
    · intro i v hv
      match i with
      | 0 =>
        simp at hv; subst hv
        simp only [andBytes]
        rw [h2 _ (by omega), hb]; simp
      | i + 1 =>
        simp at hv
        have := h1 i v hv
        simp only [andBytes]
        rw [show a + (i + 1) = a + 1 + i by omega, this, hb, if_neg (by omega)]
    · intro x hx
      simp only [andBytes]
      simp at hx
      rw [h2 _ (by omega), hb, if_neg (by omega)]
    · simp only [andBytes]; rw [h3]; rfl

theorem spellSector_keeps (n : Nat) (sp) (s : State) : (spellSector n sp s).cdx = s.cdx ∧ (spellSector n sp s).free = s.free ∧ (spellSector n sp s).fol.rtWait = s.fol.rtWait := by
  unfold spellSector modBlock; split
  · split <;> simp
  · split
    · simp
    · split <;> simp

theorem codexByte_congr {s t : State} (h : s.cdx = t.cdx) (a : Nat) : codexByte s a = codexByte t a := by simp [codexByte, h]

theorem txnAt_header {s : State} {h : PacketHdr} {t : InTxn} (h1 : txnAt s h = some t) : t.src = h.src ∧ t.tag = h.tag := by
  have := List.find?_some h1; simpa using this

end Sys2Proof.Machine
end

