-- ==== Sys2Proof/Laws/State.lean ====
section
/-! SUPPORT. The named updates of the state, field by field: which part each writes, and that it leaves every other
part as it was. -/

namespace Sys2Proof.Machine

/-! `setFeat` -/

theorem setFeat_nv (f : Features → Features) (s : State) :
    (setFeat f s).nv = { s.nv with feat := f s.nv.feat } := rfl
@[simp] theorem setFeat_clock (f : Features → Features) (s : State) : (setFeat f s).clock = s.clock := rfl
@[simp] theorem setFeat_pins (f : Features → Features) (s : State) : (setFeat f s).pins = s.pins := rfl
@[simp] theorem setFeat_mode (f : Features → Features) (s : State) : (setFeat f s).mode = s.mode := rfl
@[simp] theorem setFeat_coast (f : Features → Features) (s : State) : (setFeat f s).coast = s.coast := rfl
@[simp] theorem setFeat_pools (f : Features → Features) (s : State) : (setFeat f s).pools = s.pools := rfl
@[simp] theorem setFeat_cat (f : Features → Features) (s : State) : (setFeat f s).cat = s.cat := rfl
@[simp] theorem setFeat_led (f : Features → Features) (s : State) : (setFeat f s).led = s.led := rfl
@[simp] theorem setFeat_inv (f : Features → Features) (s : State) : (setFeat f s).inv = s.inv := rfl
@[simp] theorem setFeat_wr (f : Features → Features) (s : State) : (setFeat f s).wr = s.wr := rfl
@[simp] theorem setFeat_blk (f : Features → Features) (s : State) : (setFeat f s).blk = s.blk := rfl
@[simp] theorem setFeat_fl (f : Features → Features) (s : State) : (setFeat f s).fl = s.fl := rfl
@[simp] theorem setFeat_esc (f : Features → Features) (s : State) : (setFeat f s).esc = s.esc := rfl
@[simp] theorem setFeat_link (f : Features → Features) (s : State) : (setFeat f s).link = s.link := rfl
@[simp] theorem setFeat_key (f : Features → Features) (s : State) : (setFeat f s).key = s.key := rfl
@[simp] theorem setFeat_pel (f : Features → Features) (s : State) : (setFeat f s).pel = s.pel := rfl
@[simp] theorem setFeat_ech (f : Features → Features) (s : State) : (setFeat f s).ech = s.ech := rfl
@[simp] theorem setFeat_dram (f : Features → Features) (s : State) : (setFeat f s).dram = s.dram := rfl
@[simp] theorem setFeat_fol (f : Features → Features) (s : State) : (setFeat f s).fol = s.fol := rfl
@[simp] theorem setFeat_lib (f : Features → Features) (s : State) : (setFeat f s).lib = s.lib := rfl
@[simp] theorem setFeat_sens (f : Features → Features) (s : State) : (setFeat f s).sens = s.sens := rfl
@[simp] theorem setFeat_day (f : Features → Features) (s : State) : (setFeat f s).day = s.day := rfl
@[simp] theorem setFeat_cdx (f : Features → Features) (s : State) : (setFeat f s).cdx = s.cdx := rfl
@[simp] theorem setFeat_upd (f : Features → Features) (s : State) : (setFeat f s).upd = s.upd := rfl
@[simp] theorem setFeat_free (f : Features → Features) (s : State) : (setFeat f s).free = s.free := rfl
@[simp] theorem setFeat_pending (f : Features → Features) (s : State) : (setFeat f s).pending = s.pending := rfl

/-! `noteCheck` -/

theorem noteCheck_upd (code : Nat) (s : State) :
    (noteCheck code s).upd = { s.upd with lastCheck := code } := rfl
@[simp] theorem noteCheck_clock (code : Nat) (s : State) : (noteCheck code s).clock = s.clock := rfl
@[simp] theorem noteCheck_pins (code : Nat) (s : State) : (noteCheck code s).pins = s.pins := rfl
@[simp] theorem noteCheck_mode (code : Nat) (s : State) : (noteCheck code s).mode = s.mode := rfl
@[simp] theorem noteCheck_coast (code : Nat) (s : State) : (noteCheck code s).coast = s.coast := rfl
@[simp] theorem noteCheck_pools (code : Nat) (s : State) : (noteCheck code s).pools = s.pools := rfl
@[simp] theorem noteCheck_cat (code : Nat) (s : State) : (noteCheck code s).cat = s.cat := rfl
@[simp] theorem noteCheck_led (code : Nat) (s : State) : (noteCheck code s).led = s.led := rfl
@[simp] theorem noteCheck_inv (code : Nat) (s : State) : (noteCheck code s).inv = s.inv := rfl
@[simp] theorem noteCheck_wr (code : Nat) (s : State) : (noteCheck code s).wr = s.wr := rfl
@[simp] theorem noteCheck_blk (code : Nat) (s : State) : (noteCheck code s).blk = s.blk := rfl
@[simp] theorem noteCheck_fl (code : Nat) (s : State) : (noteCheck code s).fl = s.fl := rfl
@[simp] theorem noteCheck_esc (code : Nat) (s : State) : (noteCheck code s).esc = s.esc := rfl
@[simp] theorem noteCheck_link (code : Nat) (s : State) : (noteCheck code s).link = s.link := rfl
@[simp] theorem noteCheck_nv (code : Nat) (s : State) : (noteCheck code s).nv = s.nv := rfl
@[simp] theorem noteCheck_key (code : Nat) (s : State) : (noteCheck code s).key = s.key := rfl
@[simp] theorem noteCheck_pel (code : Nat) (s : State) : (noteCheck code s).pel = s.pel := rfl
@[simp] theorem noteCheck_ech (code : Nat) (s : State) : (noteCheck code s).ech = s.ech := rfl
@[simp] theorem noteCheck_dram (code : Nat) (s : State) : (noteCheck code s).dram = s.dram := rfl
@[simp] theorem noteCheck_fol (code : Nat) (s : State) : (noteCheck code s).fol = s.fol := rfl
@[simp] theorem noteCheck_lib (code : Nat) (s : State) : (noteCheck code s).lib = s.lib := rfl
@[simp] theorem noteCheck_sens (code : Nat) (s : State) : (noteCheck code s).sens = s.sens := rfl
@[simp] theorem noteCheck_day (code : Nat) (s : State) : (noteCheck code s).day = s.day := rfl
@[simp] theorem noteCheck_cdx (code : Nat) (s : State) : (noteCheck code s).cdx = s.cdx := rfl
@[simp] theorem noteCheck_free (code : Nat) (s : State) : (noteCheck code s).free = s.free := rfl
@[simp] theorem noteCheck_pending (code : Nat) (s : State) : (noteCheck code s).pending = s.pending := rfl

/-! `setOld` -/

theorem setOld_mode (s : State) :
    (setOld s).mode = { s.mode with oldSet := true } := rfl
@[simp] theorem setOld_clock (s : State) : (setOld s).clock = s.clock := rfl
@[simp] theorem setOld_pins (s : State) : (setOld s).pins = s.pins := rfl
@[simp] theorem setOld_coast (s : State) : (setOld s).coast = s.coast := rfl
@[simp] theorem setOld_pools (s : State) : (setOld s).pools = s.pools := rfl
@[simp] theorem setOld_cat (s : State) : (setOld s).cat = s.cat := rfl
@[simp] theorem setOld_led (s : State) : (setOld s).led = s.led := rfl
@[simp] theorem setOld_inv (s : State) : (setOld s).inv = s.inv := rfl
@[simp] theorem setOld_wr (s : State) : (setOld s).wr = s.wr := rfl
@[simp] theorem setOld_blk (s : State) : (setOld s).blk = s.blk := rfl
@[simp] theorem setOld_fl (s : State) : (setOld s).fl = s.fl := rfl
@[simp] theorem setOld_esc (s : State) : (setOld s).esc = s.esc := rfl
@[simp] theorem setOld_link (s : State) : (setOld s).link = s.link := rfl
@[simp] theorem setOld_nv (s : State) : (setOld s).nv = s.nv := rfl
@[simp] theorem setOld_key (s : State) : (setOld s).key = s.key := rfl
@[simp] theorem setOld_pel (s : State) : (setOld s).pel = s.pel := rfl
@[simp] theorem setOld_ech (s : State) : (setOld s).ech = s.ech := rfl
@[simp] theorem setOld_dram (s : State) : (setOld s).dram = s.dram := rfl
@[simp] theorem setOld_fol (s : State) : (setOld s).fol = s.fol := rfl
@[simp] theorem setOld_lib (s : State) : (setOld s).lib = s.lib := rfl
@[simp] theorem setOld_sens (s : State) : (setOld s).sens = s.sens := rfl
@[simp] theorem setOld_day (s : State) : (setOld s).day = s.day := rfl
@[simp] theorem setOld_cdx (s : State) : (setOld s).cdx = s.cdx := rfl
@[simp] theorem setOld_upd (s : State) : (setOld s).upd = s.upd := rfl
@[simp] theorem setOld_free (s : State) : (setOld s).free = s.free := rfl
@[simp] theorem setOld_pending (s : State) : (setOld s).pending = s.pending := rfl

/-! `modIndex` -/

theorem modIndex_cat (c : Nat) (f : IndexEntry → IndexEntry) (s : State) :
    (modIndex c f s).cat = { s.cat with
      index := mapPut { state := 0, loaded := false, dirty := false, ppa := 0 } c (f (indexAt s c))
        s.cat.index } := rfl
@[simp] theorem modIndex_clock (c : Nat) (f : IndexEntry → IndexEntry) (s : State) : (modIndex c f s).clock = s.clock := rfl
@[simp] theorem modIndex_pins (c : Nat) (f : IndexEntry → IndexEntry) (s : State) : (modIndex c f s).pins = s.pins := rfl
@[simp] theorem modIndex_mode (c : Nat) (f : IndexEntry → IndexEntry) (s : State) : (modIndex c f s).mode = s.mode := rfl
@[simp] theorem modIndex_coast (c : Nat) (f : IndexEntry → IndexEntry) (s : State) : (modIndex c f s).coast = s.coast := rfl
@[simp] theorem modIndex_pools (c : Nat) (f : IndexEntry → IndexEntry) (s : State) : (modIndex c f s).pools = s.pools := rfl
@[simp] theorem modIndex_led (c : Nat) (f : IndexEntry → IndexEntry) (s : State) : (modIndex c f s).led = s.led := rfl
@[simp] theorem modIndex_inv (c : Nat) (f : IndexEntry → IndexEntry) (s : State) : (modIndex c f s).inv = s.inv := rfl
@[simp] theorem modIndex_wr (c : Nat) (f : IndexEntry → IndexEntry) (s : State) : (modIndex c f s).wr = s.wr := rfl
@[simp] theorem modIndex_blk (c : Nat) (f : IndexEntry → IndexEntry) (s : State) : (modIndex c f s).blk = s.blk := rfl
@[simp] theorem modIndex_fl (c : Nat) (f : IndexEntry → IndexEntry) (s : State) : (modIndex c f s).fl = s.fl := rfl
@[simp] theorem modIndex_esc (c : Nat) (f : IndexEntry → IndexEntry) (s : State) : (modIndex c f s).esc = s.esc := rfl
@[simp] theorem modIndex_link (c : Nat) (f : IndexEntry → IndexEntry) (s : State) : (modIndex c f s).link = s.link := rfl
@[simp] theorem modIndex_nv (c : Nat) (f : IndexEntry → IndexEntry) (s : State) : (modIndex c f s).nv = s.nv := rfl
@[simp] theorem modIndex_key (c : Nat) (f : IndexEntry → IndexEntry) (s : State) : (modIndex c f s).key = s.key := rfl
@[simp] theorem modIndex_pel (c : Nat) (f : IndexEntry → IndexEntry) (s : State) : (modIndex c f s).pel = s.pel := rfl
@[simp] theorem modIndex_ech (c : Nat) (f : IndexEntry → IndexEntry) (s : State) : (modIndex c f s).ech = s.ech := rfl
@[simp] theorem modIndex_dram (c : Nat) (f : IndexEntry → IndexEntry) (s : State) : (modIndex c f s).dram = s.dram := rfl
@[simp] theorem modIndex_fol (c : Nat) (f : IndexEntry → IndexEntry) (s : State) : (modIndex c f s).fol = s.fol := rfl
@[simp] theorem modIndex_lib (c : Nat) (f : IndexEntry → IndexEntry) (s : State) : (modIndex c f s).lib = s.lib := rfl
@[simp] theorem modIndex_sens (c : Nat) (f : IndexEntry → IndexEntry) (s : State) : (modIndex c f s).sens = s.sens := rfl
@[simp] theorem modIndex_day (c : Nat) (f : IndexEntry → IndexEntry) (s : State) : (modIndex c f s).day = s.day := rfl
@[simp] theorem modIndex_cdx (c : Nat) (f : IndexEntry → IndexEntry) (s : State) : (modIndex c f s).cdx = s.cdx := rfl
@[simp] theorem modIndex_upd (c : Nat) (f : IndexEntry → IndexEntry) (s : State) : (modIndex c f s).upd = s.upd := rfl
@[simp] theorem modIndex_free (c : Nat) (f : IndexEntry → IndexEntry) (s : State) : (modIndex c f s).free = s.free := rfl
@[simp] theorem modIndex_pending (c : Nat) (f : IndexEntry → IndexEntry) (s : State) : (modIndex c f s).pending = s.pending := rfl

/-! `modSeg` -/

theorem modSeg_cat (shelf : Nat) (f : Segment → Segment) (s : State) :
    (modSeg shelf f s).cat = { s.cat with segs := modWhere (fun g => g.shelf = shelf) f s.cat.segs } := rfl
@[simp] theorem modSeg_clock (shelf : Nat) (f : Segment → Segment) (s : State) : (modSeg shelf f s).clock = s.clock := rfl
@[simp] theorem modSeg_pins (shelf : Nat) (f : Segment → Segment) (s : State) : (modSeg shelf f s).pins = s.pins := rfl
@[simp] theorem modSeg_mode (shelf : Nat) (f : Segment → Segment) (s : State) : (modSeg shelf f s).mode = s.mode := rfl
@[simp] theorem modSeg_coast (shelf : Nat) (f : Segment → Segment) (s : State) : (modSeg shelf f s).coast = s.coast := rfl
@[simp] theorem modSeg_pools (shelf : Nat) (f : Segment → Segment) (s : State) : (modSeg shelf f s).pools = s.pools := rfl
@[simp] theorem modSeg_led (shelf : Nat) (f : Segment → Segment) (s : State) : (modSeg shelf f s).led = s.led := rfl
@[simp] theorem modSeg_inv (shelf : Nat) (f : Segment → Segment) (s : State) : (modSeg shelf f s).inv = s.inv := rfl
@[simp] theorem modSeg_wr (shelf : Nat) (f : Segment → Segment) (s : State) : (modSeg shelf f s).wr = s.wr := rfl
@[simp] theorem modSeg_blk (shelf : Nat) (f : Segment → Segment) (s : State) : (modSeg shelf f s).blk = s.blk := rfl
@[simp] theorem modSeg_fl (shelf : Nat) (f : Segment → Segment) (s : State) : (modSeg shelf f s).fl = s.fl := rfl
@[simp] theorem modSeg_esc (shelf : Nat) (f : Segment → Segment) (s : State) : (modSeg shelf f s).esc = s.esc := rfl
@[simp] theorem modSeg_link (shelf : Nat) (f : Segment → Segment) (s : State) : (modSeg shelf f s).link = s.link := rfl
@[simp] theorem modSeg_nv (shelf : Nat) (f : Segment → Segment) (s : State) : (modSeg shelf f s).nv = s.nv := rfl
@[simp] theorem modSeg_key (shelf : Nat) (f : Segment → Segment) (s : State) : (modSeg shelf f s).key = s.key := rfl
@[simp] theorem modSeg_pel (shelf : Nat) (f : Segment → Segment) (s : State) : (modSeg shelf f s).pel = s.pel := rfl
@[simp] theorem modSeg_ech (shelf : Nat) (f : Segment → Segment) (s : State) : (modSeg shelf f s).ech = s.ech := rfl
@[simp] theorem modSeg_dram (shelf : Nat) (f : Segment → Segment) (s : State) : (modSeg shelf f s).dram = s.dram := rfl
@[simp] theorem modSeg_fol (shelf : Nat) (f : Segment → Segment) (s : State) : (modSeg shelf f s).fol = s.fol := rfl
@[simp] theorem modSeg_lib (shelf : Nat) (f : Segment → Segment) (s : State) : (modSeg shelf f s).lib = s.lib := rfl
@[simp] theorem modSeg_sens (shelf : Nat) (f : Segment → Segment) (s : State) : (modSeg shelf f s).sens = s.sens := rfl
@[simp] theorem modSeg_day (shelf : Nat) (f : Segment → Segment) (s : State) : (modSeg shelf f s).day = s.day := rfl
@[simp] theorem modSeg_cdx (shelf : Nat) (f : Segment → Segment) (s : State) : (modSeg shelf f s).cdx = s.cdx := rfl
@[simp] theorem modSeg_upd (shelf : Nat) (f : Segment → Segment) (s : State) : (modSeg shelf f s).upd = s.upd := rfl
@[simp] theorem modSeg_free (shelf : Nat) (f : Segment → Segment) (s : State) : (modSeg shelf f s).free = s.free := rfl
@[simp] theorem modSeg_pending (shelf : Nat) (f : Segment → Segment) (s : State) : (modSeg shelf f s).pending = s.pending := rfl

/-! `setLast` -/

theorem setLast_coast (td : Nat) (s : State) :
    (setLast td s).coast = { s.coast with holdupLast := td } := rfl
@[simp] theorem setLast_clock (td : Nat) (s : State) : (setLast td s).clock = s.clock := rfl
@[simp] theorem setLast_pins (td : Nat) (s : State) : (setLast td s).pins = s.pins := rfl
@[simp] theorem setLast_mode (td : Nat) (s : State) : (setLast td s).mode = s.mode := rfl
@[simp] theorem setLast_pools (td : Nat) (s : State) : (setLast td s).pools = s.pools := rfl
@[simp] theorem setLast_cat (td : Nat) (s : State) : (setLast td s).cat = s.cat := rfl
@[simp] theorem setLast_led (td : Nat) (s : State) : (setLast td s).led = s.led := rfl
@[simp] theorem setLast_inv (td : Nat) (s : State) : (setLast td s).inv = s.inv := rfl
@[simp] theorem setLast_wr (td : Nat) (s : State) : (setLast td s).wr = s.wr := rfl
@[simp] theorem setLast_blk (td : Nat) (s : State) : (setLast td s).blk = s.blk := rfl
@[simp] theorem setLast_fl (td : Nat) (s : State) : (setLast td s).fl = s.fl := rfl
@[simp] theorem setLast_esc (td : Nat) (s : State) : (setLast td s).esc = s.esc := rfl
@[simp] theorem setLast_link (td : Nat) (s : State) : (setLast td s).link = s.link := rfl
@[simp] theorem setLast_nv (td : Nat) (s : State) : (setLast td s).nv = s.nv := rfl
@[simp] theorem setLast_key (td : Nat) (s : State) : (setLast td s).key = s.key := rfl
@[simp] theorem setLast_pel (td : Nat) (s : State) : (setLast td s).pel = s.pel := rfl
@[simp] theorem setLast_ech (td : Nat) (s : State) : (setLast td s).ech = s.ech := rfl
@[simp] theorem setLast_dram (td : Nat) (s : State) : (setLast td s).dram = s.dram := rfl
@[simp] theorem setLast_fol (td : Nat) (s : State) : (setLast td s).fol = s.fol := rfl
@[simp] theorem setLast_lib (td : Nat) (s : State) : (setLast td s).lib = s.lib := rfl
@[simp] theorem setLast_sens (td : Nat) (s : State) : (setLast td s).sens = s.sens := rfl
@[simp] theorem setLast_day (td : Nat) (s : State) : (setLast td s).day = s.day := rfl
@[simp] theorem setLast_cdx (td : Nat) (s : State) : (setLast td s).cdx = s.cdx := rfl
@[simp] theorem setLast_upd (td : Nat) (s : State) : (setLast td s).upd = s.upd := rfl
@[simp] theorem setLast_free (td : Nat) (s : State) : (setLast td s).free = s.free := rfl
@[simp] theorem setLast_pending (td : Nat) (s : State) : (setLast td s).pending = s.pending := rfl

/-! `modBlock` -/

theorem modBlock_upd (n : Nat) (f : SetBlock → SetBlock) (s : State) :
    (modBlock n f s).upd = if n = 1 then { s.upd with block1 := f s.upd.block1 }
                  else { s.upd with block0 := f s.upd.block0 } := rfl
@[simp] theorem modBlock_clock (n : Nat) (f : SetBlock → SetBlock) (s : State) : (modBlock n f s).clock = s.clock := rfl
@[simp] theorem modBlock_pins (n : Nat) (f : SetBlock → SetBlock) (s : State) : (modBlock n f s).pins = s.pins := rfl
@[simp] theorem modBlock_mode (n : Nat) (f : SetBlock → SetBlock) (s : State) : (modBlock n f s).mode = s.mode := rfl
@[simp] theorem modBlock_coast (n : Nat) (f : SetBlock → SetBlock) (s : State) : (modBlock n f s).coast = s.coast := rfl
@[simp] theorem modBlock_pools (n : Nat) (f : SetBlock → SetBlock) (s : State) : (modBlock n f s).pools = s.pools := rfl
@[simp] theorem modBlock_cat (n : Nat) (f : SetBlock → SetBlock) (s : State) : (modBlock n f s).cat = s.cat := rfl
@[simp] theorem modBlock_led (n : Nat) (f : SetBlock → SetBlock) (s : State) : (modBlock n f s).led = s.led := rfl
@[simp] theorem modBlock_inv (n : Nat) (f : SetBlock → SetBlock) (s : State) : (modBlock n f s).inv = s.inv := rfl
@[simp] theorem modBlock_wr (n : Nat) (f : SetBlock → SetBlock) (s : State) : (modBlock n f s).wr = s.wr := rfl
@[simp] theorem modBlock_blk (n : Nat) (f : SetBlock → SetBlock) (s : State) : (modBlock n f s).blk = s.blk := rfl
@[simp] theorem modBlock_fl (n : Nat) (f : SetBlock → SetBlock) (s : State) : (modBlock n f s).fl = s.fl := rfl
@[simp] theorem modBlock_esc (n : Nat) (f : SetBlock → SetBlock) (s : State) : (modBlock n f s).esc = s.esc := rfl
@[simp] theorem modBlock_link (n : Nat) (f : SetBlock → SetBlock) (s : State) : (modBlock n f s).link = s.link := rfl
@[simp] theorem modBlock_nv (n : Nat) (f : SetBlock → SetBlock) (s : State) : (modBlock n f s).nv = s.nv := rfl
@[simp] theorem modBlock_key (n : Nat) (f : SetBlock → SetBlock) (s : State) : (modBlock n f s).key = s.key := rfl
@[simp] theorem modBlock_pel (n : Nat) (f : SetBlock → SetBlock) (s : State) : (modBlock n f s).pel = s.pel := rfl
@[simp] theorem modBlock_ech (n : Nat) (f : SetBlock → SetBlock) (s : State) : (modBlock n f s).ech = s.ech := rfl
@[simp] theorem modBlock_dram (n : Nat) (f : SetBlock → SetBlock) (s : State) : (modBlock n f s).dram = s.dram := rfl
@[simp] theorem modBlock_fol (n : Nat) (f : SetBlock → SetBlock) (s : State) : (modBlock n f s).fol = s.fol := rfl
@[simp] theorem modBlock_lib (n : Nat) (f : SetBlock → SetBlock) (s : State) : (modBlock n f s).lib = s.lib := rfl
@[simp] theorem modBlock_sens (n : Nat) (f : SetBlock → SetBlock) (s : State) : (modBlock n f s).sens = s.sens := rfl
@[simp] theorem modBlock_day (n : Nat) (f : SetBlock → SetBlock) (s : State) : (modBlock n f s).day = s.day := rfl
@[simp] theorem modBlock_cdx (n : Nat) (f : SetBlock → SetBlock) (s : State) : (modBlock n f s).cdx = s.cdx := rfl
@[simp] theorem modBlock_free (n : Nat) (f : SetBlock → SetBlock) (s : State) : (modBlock n f s).free = s.free := rfl
@[simp] theorem modBlock_pending (n : Nat) (f : SetBlock → SetBlock) (s : State) : (modBlock n f s).pending = s.pending := rfl

/-! `clearStatus` -/

theorem clearStatus_cdx (s : State) :
    (clearStatus s).cdx = { s.cdx with
      eFail := false, pFail := false, seqErr := false, locked := false, statusNext := false,
      flagNext := none } := rfl
@[simp] theorem clearStatus_clock (s : State) : (clearStatus s).clock = s.clock := rfl
@[simp] theorem clearStatus_pins (s : State) : (clearStatus s).pins = s.pins := rfl
@[simp] theorem clearStatus_mode (s : State) : (clearStatus s).mode = s.mode := rfl
@[simp] theorem clearStatus_coast (s : State) : (clearStatus s).coast = s.coast := rfl
@[simp] theorem clearStatus_pools (s : State) : (clearStatus s).pools = s.pools := rfl
@[simp] theorem clearStatus_cat (s : State) : (clearStatus s).cat = s.cat := rfl
@[simp] theorem clearStatus_led (s : State) : (clearStatus s).led = s.led := rfl
@[simp] theorem clearStatus_inv (s : State) : (clearStatus s).inv = s.inv := rfl
@[simp] theorem clearStatus_wr (s : State) : (clearStatus s).wr = s.wr := rfl
@[simp] theorem clearStatus_blk (s : State) : (clearStatus s).blk = s.blk := rfl
@[simp] theorem clearStatus_fl (s : State) : (clearStatus s).fl = s.fl := rfl
@[simp] theorem clearStatus_esc (s : State) : (clearStatus s).esc = s.esc := rfl
@[simp] theorem clearStatus_link (s : State) : (clearStatus s).link = s.link := rfl
@[simp] theorem clearStatus_nv (s : State) : (clearStatus s).nv = s.nv := rfl
@[simp] theorem clearStatus_key (s : State) : (clearStatus s).key = s.key := rfl
@[simp] theorem clearStatus_pel (s : State) : (clearStatus s).pel = s.pel := rfl
@[simp] theorem clearStatus_ech (s : State) : (clearStatus s).ech = s.ech := rfl
@[simp] theorem clearStatus_dram (s : State) : (clearStatus s).dram = s.dram := rfl
@[simp] theorem clearStatus_fol (s : State) : (clearStatus s).fol = s.fol := rfl
@[simp] theorem clearStatus_lib (s : State) : (clearStatus s).lib = s.lib := rfl
@[simp] theorem clearStatus_sens (s : State) : (clearStatus s).sens = s.sens := rfl
@[simp] theorem clearStatus_day (s : State) : (clearStatus s).day = s.day := rfl
@[simp] theorem clearStatus_upd (s : State) : (clearStatus s).upd = s.upd := rfl
@[simp] theorem clearStatus_free (s : State) : (clearStatus s).free = s.free := rfl
@[simp] theorem clearStatus_pending (s : State) : (clearStatus s).pending = s.pending := rfl

/-! `keepCycles` -/

theorem keepCycles_cdx (l : List (Nat × Nat)) (s : State) :
    (keepCycles l s).cdx = { s.cdx with cycles := l } := rfl
@[simp] theorem keepCycles_clock (l : List (Nat × Nat)) (s : State) : (keepCycles l s).clock = s.clock := rfl
@[simp] theorem keepCycles_pins (l : List (Nat × Nat)) (s : State) : (keepCycles l s).pins = s.pins := rfl
@[simp] theorem keepCycles_mode (l : List (Nat × Nat)) (s : State) : (keepCycles l s).mode = s.mode := rfl
@[simp] theorem keepCycles_coast (l : List (Nat × Nat)) (s : State) : (keepCycles l s).coast = s.coast := rfl
@[simp] theorem keepCycles_pools (l : List (Nat × Nat)) (s : State) : (keepCycles l s).pools = s.pools := rfl
@[simp] theorem keepCycles_cat (l : List (Nat × Nat)) (s : State) : (keepCycles l s).cat = s.cat := rfl
@[simp] theorem keepCycles_led (l : List (Nat × Nat)) (s : State) : (keepCycles l s).led = s.led := rfl
@[simp] theorem keepCycles_inv (l : List (Nat × Nat)) (s : State) : (keepCycles l s).inv = s.inv := rfl
@[simp] theorem keepCycles_wr (l : List (Nat × Nat)) (s : State) : (keepCycles l s).wr = s.wr := rfl
@[simp] theorem keepCycles_blk (l : List (Nat × Nat)) (s : State) : (keepCycles l s).blk = s.blk := rfl
@[simp] theorem keepCycles_fl (l : List (Nat × Nat)) (s : State) : (keepCycles l s).fl = s.fl := rfl
@[simp] theorem keepCycles_esc (l : List (Nat × Nat)) (s : State) : (keepCycles l s).esc = s.esc := rfl
@[simp] theorem keepCycles_link (l : List (Nat × Nat)) (s : State) : (keepCycles l s).link = s.link := rfl
@[simp] theorem keepCycles_nv (l : List (Nat × Nat)) (s : State) : (keepCycles l s).nv = s.nv := rfl
@[simp] theorem keepCycles_key (l : List (Nat × Nat)) (s : State) : (keepCycles l s).key = s.key := rfl
@[simp] theorem keepCycles_pel (l : List (Nat × Nat)) (s : State) : (keepCycles l s).pel = s.pel := rfl
@[simp] theorem keepCycles_ech (l : List (Nat × Nat)) (s : State) : (keepCycles l s).ech = s.ech := rfl
@[simp] theorem keepCycles_dram (l : List (Nat × Nat)) (s : State) : (keepCycles l s).dram = s.dram := rfl
@[simp] theorem keepCycles_fol (l : List (Nat × Nat)) (s : State) : (keepCycles l s).fol = s.fol := rfl
@[simp] theorem keepCycles_lib (l : List (Nat × Nat)) (s : State) : (keepCycles l s).lib = s.lib := rfl
@[simp] theorem keepCycles_sens (l : List (Nat × Nat)) (s : State) : (keepCycles l s).sens = s.sens := rfl
@[simp] theorem keepCycles_day (l : List (Nat × Nat)) (s : State) : (keepCycles l s).day = s.day := rfl
@[simp] theorem keepCycles_upd (l : List (Nat × Nat)) (s : State) : (keepCycles l s).upd = s.upd := rfl
@[simp] theorem keepCycles_free (l : List (Nat × Nat)) (s : State) : (keepCycles l s).free = s.free := rfl
@[simp] theorem keepCycles_pending (l : List (Nat × Nat)) (s : State) : (keepCycles l s).pending = s.pending := rfl

/-! `stickDram` -/

theorem stickDram_dram (m : Word32) (s : State) :
    (stickDram m s).dram = { s.dram with sticky := s.dram.sticky ||| m } := rfl
@[simp] theorem stickDram_clock (m : Word32) (s : State) : (stickDram m s).clock = s.clock := rfl
@[simp] theorem stickDram_pins (m : Word32) (s : State) : (stickDram m s).pins = s.pins := rfl
@[simp] theorem stickDram_mode (m : Word32) (s : State) : (stickDram m s).mode = s.mode := rfl
@[simp] theorem stickDram_coast (m : Word32) (s : State) : (stickDram m s).coast = s.coast := rfl
@[simp] theorem stickDram_pools (m : Word32) (s : State) : (stickDram m s).pools = s.pools := rfl
@[simp] theorem stickDram_cat (m : Word32) (s : State) : (stickDram m s).cat = s.cat := rfl
@[simp] theorem stickDram_led (m : Word32) (s : State) : (stickDram m s).led = s.led := rfl
@[simp] theorem stickDram_inv (m : Word32) (s : State) : (stickDram m s).inv = s.inv := rfl
@[simp] theorem stickDram_wr (m : Word32) (s : State) : (stickDram m s).wr = s.wr := rfl
@[simp] theorem stickDram_blk (m : Word32) (s : State) : (stickDram m s).blk = s.blk := rfl
@[simp] theorem stickDram_fl (m : Word32) (s : State) : (stickDram m s).fl = s.fl := rfl
@[simp] theorem stickDram_esc (m : Word32) (s : State) : (stickDram m s).esc = s.esc := rfl
@[simp] theorem stickDram_link (m : Word32) (s : State) : (stickDram m s).link = s.link := rfl
@[simp] theorem stickDram_nv (m : Word32) (s : State) : (stickDram m s).nv = s.nv := rfl
@[simp] theorem stickDram_key (m : Word32) (s : State) : (stickDram m s).key = s.key := rfl
@[simp] theorem stickDram_pel (m : Word32) (s : State) : (stickDram m s).pel = s.pel := rfl
@[simp] theorem stickDram_ech (m : Word32) (s : State) : (stickDram m s).ech = s.ech := rfl
@[simp] theorem stickDram_fol (m : Word32) (s : State) : (stickDram m s).fol = s.fol := rfl
@[simp] theorem stickDram_lib (m : Word32) (s : State) : (stickDram m s).lib = s.lib := rfl
@[simp] theorem stickDram_sens (m : Word32) (s : State) : (stickDram m s).sens = s.sens := rfl
@[simp] theorem stickDram_day (m : Word32) (s : State) : (stickDram m s).day = s.day := rfl
@[simp] theorem stickDram_cdx (m : Word32) (s : State) : (stickDram m s).cdx = s.cdx := rfl
@[simp] theorem stickDram_upd (m : Word32) (s : State) : (stickDram m s).upd = s.upd := rfl
@[simp] theorem stickDram_free (m : Word32) (s : State) : (stickDram m s).free = s.free := rfl
@[simp] theorem stickDram_pending (m : Word32) (s : State) : (stickDram m s).pending = s.pending := rfl

/-! `wakeDram` -/

@[simp] theorem wakeDram_clock (s : State) : (wakeDram s).clock = s.clock := rfl
@[simp] theorem wakeDram_pins (s : State) : (wakeDram s).pins = s.pins := rfl
@[simp] theorem wakeDram_coast (s : State) : (wakeDram s).coast = s.coast := rfl
@[simp] theorem wakeDram_pools (s : State) : (wakeDram s).pools = s.pools := rfl
@[simp] theorem wakeDram_cat (s : State) : (wakeDram s).cat = s.cat := rfl
@[simp] theorem wakeDram_led (s : State) : (wakeDram s).led = s.led := rfl
@[simp] theorem wakeDram_inv (s : State) : (wakeDram s).inv = s.inv := rfl
@[simp] theorem wakeDram_wr (s : State) : (wakeDram s).wr = s.wr := rfl
@[simp] theorem wakeDram_blk (s : State) : (wakeDram s).blk = s.blk := rfl
@[simp] theorem wakeDram_fl (s : State) : (wakeDram s).fl = s.fl := rfl
@[simp] theorem wakeDram_esc (s : State) : (wakeDram s).esc = s.esc := rfl
@[simp] theorem wakeDram_link (s : State) : (wakeDram s).link = s.link := rfl
@[simp] theorem wakeDram_nv (s : State) : (wakeDram s).nv = s.nv := rfl
@[simp] theorem wakeDram_key (s : State) : (wakeDram s).key = s.key := rfl
@[simp] theorem wakeDram_pel (s : State) : (wakeDram s).pel = s.pel := rfl
@[simp] theorem wakeDram_ech (s : State) : (wakeDram s).ech = s.ech := rfl
@[simp] theorem wakeDram_fol (s : State) : (wakeDram s).fol = s.fol := rfl
@[simp] theorem wakeDram_lib (s : State) : (wakeDram s).lib = s.lib := rfl
@[simp] theorem wakeDram_sens (s : State) : (wakeDram s).sens = s.sens := rfl
@[simp] theorem wakeDram_day (s : State) : (wakeDram s).day = s.day := rfl
@[simp] theorem wakeDram_cdx (s : State) : (wakeDram s).cdx = s.cdx := rfl
@[simp] theorem wakeDram_upd (s : State) : (wakeDram s).upd = s.upd := rfl
@[simp] theorem wakeDram_free (s : State) : (wakeDram s).free = s.free := rfl
@[simp] theorem wakeDram_pending (s : State) : (wakeDram s).pending = s.pending := rfl

/-! `modEch` -/

theorem modEch_ech (e : Nat) (f : EchelonSt → EchelonSt) (s : State) :
    (modEch e f s).ech = { s.ech with ech := modWhere (fun x => x.echelon = e) f s.ech.ech } := rfl
@[simp] theorem modEch_clock (e : Nat) (f : EchelonSt → EchelonSt) (s : State) : (modEch e f s).clock = s.clock := rfl
@[simp] theorem modEch_pins (e : Nat) (f : EchelonSt → EchelonSt) (s : State) : (modEch e f s).pins = s.pins := rfl
@[simp] theorem modEch_mode (e : Nat) (f : EchelonSt → EchelonSt) (s : State) : (modEch e f s).mode = s.mode := rfl
@[simp] theorem modEch_coast (e : Nat) (f : EchelonSt → EchelonSt) (s : State) : (modEch e f s).coast = s.coast := rfl
@[simp] theorem modEch_pools (e : Nat) (f : EchelonSt → EchelonSt) (s : State) : (modEch e f s).pools = s.pools := rfl
@[simp] theorem modEch_cat (e : Nat) (f : EchelonSt → EchelonSt) (s : State) : (modEch e f s).cat = s.cat := rfl
@[simp] theorem modEch_led (e : Nat) (f : EchelonSt → EchelonSt) (s : State) : (modEch e f s).led = s.led := rfl
@[simp] theorem modEch_inv (e : Nat) (f : EchelonSt → EchelonSt) (s : State) : (modEch e f s).inv = s.inv := rfl
@[simp] theorem modEch_wr (e : Nat) (f : EchelonSt → EchelonSt) (s : State) : (modEch e f s).wr = s.wr := rfl
@[simp] theorem modEch_blk (e : Nat) (f : EchelonSt → EchelonSt) (s : State) : (modEch e f s).blk = s.blk := rfl
@[simp] theorem modEch_fl (e : Nat) (f : EchelonSt → EchelonSt) (s : State) : (modEch e f s).fl = s.fl := rfl
@[simp] theorem modEch_esc (e : Nat) (f : EchelonSt → EchelonSt) (s : State) : (modEch e f s).esc = s.esc := rfl
@[simp] theorem modEch_link (e : Nat) (f : EchelonSt → EchelonSt) (s : State) : (modEch e f s).link = s.link := rfl
@[simp] theorem modEch_nv (e : Nat) (f : EchelonSt → EchelonSt) (s : State) : (modEch e f s).nv = s.nv := rfl
@[simp] theorem modEch_key (e : Nat) (f : EchelonSt → EchelonSt) (s : State) : (modEch e f s).key = s.key := rfl
@[simp] theorem modEch_pel (e : Nat) (f : EchelonSt → EchelonSt) (s : State) : (modEch e f s).pel = s.pel := rfl
@[simp] theorem modEch_dram (e : Nat) (f : EchelonSt → EchelonSt) (s : State) : (modEch e f s).dram = s.dram := rfl
@[simp] theorem modEch_fol (e : Nat) (f : EchelonSt → EchelonSt) (s : State) : (modEch e f s).fol = s.fol := rfl
@[simp] theorem modEch_lib (e : Nat) (f : EchelonSt → EchelonSt) (s : State) : (modEch e f s).lib = s.lib := rfl
@[simp] theorem modEch_sens (e : Nat) (f : EchelonSt → EchelonSt) (s : State) : (modEch e f s).sens = s.sens := rfl
@[simp] theorem modEch_day (e : Nat) (f : EchelonSt → EchelonSt) (s : State) : (modEch e f s).day = s.day := rfl
@[simp] theorem modEch_cdx (e : Nat) (f : EchelonSt → EchelonSt) (s : State) : (modEch e f s).cdx = s.cdx := rfl
@[simp] theorem modEch_upd (e : Nat) (f : EchelonSt → EchelonSt) (s : State) : (modEch e f s).upd = s.upd := rfl
@[simp] theorem modEch_free (e : Nat) (f : EchelonSt → EchelonSt) (s : State) : (modEch e f s).free = s.free := rfl
@[simp] theorem modEch_pending (e : Nat) (f : EchelonSt → EchelonSt) (s : State) : (modEch e f s).pending = s.pending := rfl

/-! `countStale` -/

theorem countStale_pel (s : State) :
    (countStale s).pel = { s.pel with stale := sat32 (s.pel.stale + 1) } := rfl
@[simp] theorem countStale_clock (s : State) : (countStale s).clock = s.clock := rfl
@[simp] theorem countStale_pins (s : State) : (countStale s).pins = s.pins := rfl
@[simp] theorem countStale_mode (s : State) : (countStale s).mode = s.mode := rfl
@[simp] theorem countStale_coast (s : State) : (countStale s).coast = s.coast := rfl
@[simp] theorem countStale_pools (s : State) : (countStale s).pools = s.pools := rfl
@[simp] theorem countStale_cat (s : State) : (countStale s).cat = s.cat := rfl
@[simp] theorem countStale_led (s : State) : (countStale s).led = s.led := rfl
@[simp] theorem countStale_inv (s : State) : (countStale s).inv = s.inv := rfl
@[simp] theorem countStale_wr (s : State) : (countStale s).wr = s.wr := rfl
@[simp] theorem countStale_blk (s : State) : (countStale s).blk = s.blk := rfl
@[simp] theorem countStale_fl (s : State) : (countStale s).fl = s.fl := rfl
@[simp] theorem countStale_esc (s : State) : (countStale s).esc = s.esc := rfl
@[simp] theorem countStale_link (s : State) : (countStale s).link = s.link := rfl
@[simp] theorem countStale_nv (s : State) : (countStale s).nv = s.nv := rfl
@[simp] theorem countStale_key (s : State) : (countStale s).key = s.key := rfl
@[simp] theorem countStale_ech (s : State) : (countStale s).ech = s.ech := rfl
@[simp] theorem countStale_dram (s : State) : (countStale s).dram = s.dram := rfl
@[simp] theorem countStale_fol (s : State) : (countStale s).fol = s.fol := rfl
@[simp] theorem countStale_lib (s : State) : (countStale s).lib = s.lib := rfl
@[simp] theorem countStale_sens (s : State) : (countStale s).sens = s.sens := rfl
@[simp] theorem countStale_day (s : State) : (countStale s).day = s.day := rfl
@[simp] theorem countStale_cdx (s : State) : (countStale s).cdx = s.cdx := rfl
@[simp] theorem countStale_upd (s : State) : (countStale s).upd = s.upd := rfl
@[simp] theorem countStale_free (s : State) : (countStale s).free = s.free := rfl
@[simp] theorem countStale_pending (s : State) : (countStale s).pending = s.pending := rfl

/-! `modRequest` -/

theorem modRequest_pel (r : OutReq) (f : OutReq → OutReq) (s : State) :
    (modRequest r f s).pel = { s.pel with
      out := modWhere (fun x => x.dst = r.dst && x.index = r.index) f s.pel.out } := rfl
@[simp] theorem modRequest_clock (r : OutReq) (f : OutReq → OutReq) (s : State) : (modRequest r f s).clock = s.clock := rfl
@[simp] theorem modRequest_pins (r : OutReq) (f : OutReq → OutReq) (s : State) : (modRequest r f s).pins = s.pins := rfl
@[simp] theorem modRequest_mode (r : OutReq) (f : OutReq → OutReq) (s : State) : (modRequest r f s).mode = s.mode := rfl
@[simp] theorem modRequest_coast (r : OutReq) (f : OutReq → OutReq) (s : State) : (modRequest r f s).coast = s.coast := rfl
@[simp] theorem modRequest_pools (r : OutReq) (f : OutReq → OutReq) (s : State) : (modRequest r f s).pools = s.pools := rfl
@[simp] theorem modRequest_cat (r : OutReq) (f : OutReq → OutReq) (s : State) : (modRequest r f s).cat = s.cat := rfl
@[simp] theorem modRequest_led (r : OutReq) (f : OutReq → OutReq) (s : State) : (modRequest r f s).led = s.led := rfl
@[simp] theorem modRequest_inv (r : OutReq) (f : OutReq → OutReq) (s : State) : (modRequest r f s).inv = s.inv := rfl
@[simp] theorem modRequest_wr (r : OutReq) (f : OutReq → OutReq) (s : State) : (modRequest r f s).wr = s.wr := rfl
@[simp] theorem modRequest_blk (r : OutReq) (f : OutReq → OutReq) (s : State) : (modRequest r f s).blk = s.blk := rfl
@[simp] theorem modRequest_fl (r : OutReq) (f : OutReq → OutReq) (s : State) : (modRequest r f s).fl = s.fl := rfl
@[simp] theorem modRequest_esc (r : OutReq) (f : OutReq → OutReq) (s : State) : (modRequest r f s).esc = s.esc := rfl
@[simp] theorem modRequest_link (r : OutReq) (f : OutReq → OutReq) (s : State) : (modRequest r f s).link = s.link := rfl
@[simp] theorem modRequest_nv (r : OutReq) (f : OutReq → OutReq) (s : State) : (modRequest r f s).nv = s.nv := rfl
@[simp] theorem modRequest_key (r : OutReq) (f : OutReq → OutReq) (s : State) : (modRequest r f s).key = s.key := rfl
@[simp] theorem modRequest_ech (r : OutReq) (f : OutReq → OutReq) (s : State) : (modRequest r f s).ech = s.ech := rfl
@[simp] theorem modRequest_dram (r : OutReq) (f : OutReq → OutReq) (s : State) : (modRequest r f s).dram = s.dram := rfl
@[simp] theorem modRequest_fol (r : OutReq) (f : OutReq → OutReq) (s : State) : (modRequest r f s).fol = s.fol := rfl
@[simp] theorem modRequest_lib (r : OutReq) (f : OutReq → OutReq) (s : State) : (modRequest r f s).lib = s.lib := rfl
@[simp] theorem modRequest_sens (r : OutReq) (f : OutReq → OutReq) (s : State) : (modRequest r f s).sens = s.sens := rfl
@[simp] theorem modRequest_day (r : OutReq) (f : OutReq → OutReq) (s : State) : (modRequest r f s).day = s.day := rfl
@[simp] theorem modRequest_cdx (r : OutReq) (f : OutReq → OutReq) (s : State) : (modRequest r f s).cdx = s.cdx := rfl
@[simp] theorem modRequest_upd (r : OutReq) (f : OutReq → OutReq) (s : State) : (modRequest r f s).upd = s.upd := rfl
@[simp] theorem modRequest_free (r : OutReq) (f : OutReq → OutReq) (s : State) : (modRequest r f s).free = s.free := rfl
@[simp] theorem modRequest_pending (r : OutReq) (f : OutReq → OutReq) (s : State) : (modRequest r f s).pending = s.pending := rfl

/-! `modTxn` -/

theorem modTxn_pel (h : PacketHdr) (f : InTxn → InTxn) (s : State) :
    (modTxn h f s).pel = { s.pel with
      txns := modWhere (fun t => t.src = h.src && t.tag = h.tag) f s.pel.txns } := rfl
@[simp] theorem modTxn_clock (h : PacketHdr) (f : InTxn → InTxn) (s : State) : (modTxn h f s).clock = s.clock := rfl
@[simp] theorem modTxn_pins (h : PacketHdr) (f : InTxn → InTxn) (s : State) : (modTxn h f s).pins = s.pins := rfl
@[simp] theorem modTxn_mode (h : PacketHdr) (f : InTxn → InTxn) (s : State) : (modTxn h f s).mode = s.mode := rfl
@[simp] theorem modTxn_coast (h : PacketHdr) (f : InTxn → InTxn) (s : State) : (modTxn h f s).coast = s.coast := rfl
@[simp] theorem modTxn_pools (h : PacketHdr) (f : InTxn → InTxn) (s : State) : (modTxn h f s).pools = s.pools := rfl
@[simp] theorem modTxn_cat (h : PacketHdr) (f : InTxn → InTxn) (s : State) : (modTxn h f s).cat = s.cat := rfl
@[simp] theorem modTxn_led (h : PacketHdr) (f : InTxn → InTxn) (s : State) : (modTxn h f s).led = s.led := rfl
@[simp] theorem modTxn_inv (h : PacketHdr) (f : InTxn → InTxn) (s : State) : (modTxn h f s).inv = s.inv := rfl
@[simp] theorem modTxn_wr (h : PacketHdr) (f : InTxn → InTxn) (s : State) : (modTxn h f s).wr = s.wr := rfl
@[simp] theorem modTxn_blk (h : PacketHdr) (f : InTxn → InTxn) (s : State) : (modTxn h f s).blk = s.blk := rfl
@[simp] theorem modTxn_fl (h : PacketHdr) (f : InTxn → InTxn) (s : State) : (modTxn h f s).fl = s.fl := rfl
@[simp] theorem modTxn_esc (h : PacketHdr) (f : InTxn → InTxn) (s : State) : (modTxn h f s).esc = s.esc := rfl
@[simp] theorem modTxn_link (h : PacketHdr) (f : InTxn → InTxn) (s : State) : (modTxn h f s).link = s.link := rfl
@[simp] theorem modTxn_nv (h : PacketHdr) (f : InTxn → InTxn) (s : State) : (modTxn h f s).nv = s.nv := rfl
@[simp] theorem modTxn_key (h : PacketHdr) (f : InTxn → InTxn) (s : State) : (modTxn h f s).key = s.key := rfl
@[simp] theorem modTxn_ech (h : PacketHdr) (f : InTxn → InTxn) (s : State) : (modTxn h f s).ech = s.ech := rfl
@[simp] theorem modTxn_dram (h : PacketHdr) (f : InTxn → InTxn) (s : State) : (modTxn h f s).dram = s.dram := rfl
@[simp] theorem modTxn_fol (h : PacketHdr) (f : InTxn → InTxn) (s : State) : (modTxn h f s).fol = s.fol := rfl
@[simp] theorem modTxn_lib (h : PacketHdr) (f : InTxn → InTxn) (s : State) : (modTxn h f s).lib = s.lib := rfl
@[simp] theorem modTxn_sens (h : PacketHdr) (f : InTxn → InTxn) (s : State) : (modTxn h f s).sens = s.sens := rfl
@[simp] theorem modTxn_day (h : PacketHdr) (f : InTxn → InTxn) (s : State) : (modTxn h f s).day = s.day := rfl
@[simp] theorem modTxn_cdx (h : PacketHdr) (f : InTxn → InTxn) (s : State) : (modTxn h f s).cdx = s.cdx := rfl
@[simp] theorem modTxn_upd (h : PacketHdr) (f : InTxn → InTxn) (s : State) : (modTxn h f s).upd = s.upd := rfl
@[simp] theorem modTxn_free (h : PacketHdr) (f : InTxn → InTxn) (s : State) : (modTxn h f s).free = s.free := rfl
@[simp] theorem modTxn_pending (h : PacketHdr) (f : InTxn → InTxn) (s : State) : (modTxn h f s).pending = s.pending := rfl

/-! `takeLock` -/

theorem takeLock_pel (e stripe m : Nat) (s : State) :
    (takeLock e stripe m s).pel = { s.pel with locks := s.pel.locks ++ [(e, stripe, m)] } := rfl
@[simp] theorem takeLock_clock (e stripe m : Nat) (s : State) : (takeLock e stripe m s).clock = s.clock := rfl
@[simp] theorem takeLock_pins (e stripe m : Nat) (s : State) : (takeLock e stripe m s).pins = s.pins := rfl
@[simp] theorem takeLock_mode (e stripe m : Nat) (s : State) : (takeLock e stripe m s).mode = s.mode := rfl
@[simp] theorem takeLock_coast (e stripe m : Nat) (s : State) : (takeLock e stripe m s).coast = s.coast := rfl
@[simp] theorem takeLock_pools (e stripe m : Nat) (s : State) : (takeLock e stripe m s).pools = s.pools := rfl
@[simp] theorem takeLock_cat (e stripe m : Nat) (s : State) : (takeLock e stripe m s).cat = s.cat := rfl
@[simp] theorem takeLock_led (e stripe m : Nat) (s : State) : (takeLock e stripe m s).led = s.led := rfl
@[simp] theorem takeLock_inv (e stripe m : Nat) (s : State) : (takeLock e stripe m s).inv = s.inv := rfl
@[simp] theorem takeLock_wr (e stripe m : Nat) (s : State) : (takeLock e stripe m s).wr = s.wr := rfl
@[simp] theorem takeLock_blk (e stripe m : Nat) (s : State) : (takeLock e stripe m s).blk = s.blk := rfl
@[simp] theorem takeLock_fl (e stripe m : Nat) (s : State) : (takeLock e stripe m s).fl = s.fl := rfl
@[simp] theorem takeLock_esc (e stripe m : Nat) (s : State) : (takeLock e stripe m s).esc = s.esc := rfl
@[simp] theorem takeLock_link (e stripe m : Nat) (s : State) : (takeLock e stripe m s).link = s.link := rfl
@[simp] theorem takeLock_nv (e stripe m : Nat) (s : State) : (takeLock e stripe m s).nv = s.nv := rfl
@[simp] theorem takeLock_key (e stripe m : Nat) (s : State) : (takeLock e stripe m s).key = s.key := rfl
@[simp] theorem takeLock_ech (e stripe m : Nat) (s : State) : (takeLock e stripe m s).ech = s.ech := rfl
@[simp] theorem takeLock_dram (e stripe m : Nat) (s : State) : (takeLock e stripe m s).dram = s.dram := rfl
@[simp] theorem takeLock_fol (e stripe m : Nat) (s : State) : (takeLock e stripe m s).fol = s.fol := rfl
@[simp] theorem takeLock_lib (e stripe m : Nat) (s : State) : (takeLock e stripe m s).lib = s.lib := rfl
@[simp] theorem takeLock_sens (e stripe m : Nat) (s : State) : (takeLock e stripe m s).sens = s.sens := rfl
@[simp] theorem takeLock_day (e stripe m : Nat) (s : State) : (takeLock e stripe m s).day = s.day := rfl
@[simp] theorem takeLock_cdx (e stripe m : Nat) (s : State) : (takeLock e stripe m s).cdx = s.cdx := rfl
@[simp] theorem takeLock_upd (e stripe m : Nat) (s : State) : (takeLock e stripe m s).upd = s.upd := rfl
@[simp] theorem takeLock_free (e stripe m : Nat) (s : State) : (takeLock e stripe m s).free = s.free := rfl
@[simp] theorem takeLock_pending (e stripe m : Nat) (s : State) : (takeLock e stripe m s).pending = s.pending := rfl

/-! `freeLock` -/

theorem freeLock_pel (e stripe m : Nat) (s : State) :
    (freeLock e stripe m s).pel = { s.pel with locks := s.pel.locks.filter fun l => l != (e, stripe, m) } := rfl
@[simp] theorem freeLock_clock (e stripe m : Nat) (s : State) : (freeLock e stripe m s).clock = s.clock := rfl
@[simp] theorem freeLock_pins (e stripe m : Nat) (s : State) : (freeLock e stripe m s).pins = s.pins := rfl
@[simp] theorem freeLock_mode (e stripe m : Nat) (s : State) : (freeLock e stripe m s).mode = s.mode := rfl
@[simp] theorem freeLock_coast (e stripe m : Nat) (s : State) : (freeLock e stripe m s).coast = s.coast := rfl
@[simp] theorem freeLock_pools (e stripe m : Nat) (s : State) : (freeLock e stripe m s).pools = s.pools := rfl
@[simp] theorem freeLock_cat (e stripe m : Nat) (s : State) : (freeLock e stripe m s).cat = s.cat := rfl
@[simp] theorem freeLock_led (e stripe m : Nat) (s : State) : (freeLock e stripe m s).led = s.led := rfl
@[simp] theorem freeLock_inv (e stripe m : Nat) (s : State) : (freeLock e stripe m s).inv = s.inv := rfl
@[simp] theorem freeLock_wr (e stripe m : Nat) (s : State) : (freeLock e stripe m s).wr = s.wr := rfl
@[simp] theorem freeLock_blk (e stripe m : Nat) (s : State) : (freeLock e stripe m s).blk = s.blk := rfl
@[simp] theorem freeLock_fl (e stripe m : Nat) (s : State) : (freeLock e stripe m s).fl = s.fl := rfl
@[simp] theorem freeLock_esc (e stripe m : Nat) (s : State) : (freeLock e stripe m s).esc = s.esc := rfl
@[simp] theorem freeLock_link (e stripe m : Nat) (s : State) : (freeLock e stripe m s).link = s.link := rfl
@[simp] theorem freeLock_nv (e stripe m : Nat) (s : State) : (freeLock e stripe m s).nv = s.nv := rfl
@[simp] theorem freeLock_key (e stripe m : Nat) (s : State) : (freeLock e stripe m s).key = s.key := rfl
@[simp] theorem freeLock_ech (e stripe m : Nat) (s : State) : (freeLock e stripe m s).ech = s.ech := rfl
@[simp] theorem freeLock_dram (e stripe m : Nat) (s : State) : (freeLock e stripe m s).dram = s.dram := rfl
@[simp] theorem freeLock_fol (e stripe m : Nat) (s : State) : (freeLock e stripe m s).fol = s.fol := rfl
@[simp] theorem freeLock_lib (e stripe m : Nat) (s : State) : (freeLock e stripe m s).lib = s.lib := rfl
@[simp] theorem freeLock_sens (e stripe m : Nat) (s : State) : (freeLock e stripe m s).sens = s.sens := rfl
@[simp] theorem freeLock_day (e stripe m : Nat) (s : State) : (freeLock e stripe m s).day = s.day := rfl
@[simp] theorem freeLock_cdx (e stripe m : Nat) (s : State) : (freeLock e stripe m s).cdx = s.cdx := rfl
@[simp] theorem freeLock_upd (e stripe m : Nat) (s : State) : (freeLock e stripe m s).upd = s.upd := rfl
@[simp] theorem freeLock_free (e stripe m : Nat) (s : State) : (freeLock e stripe m s).free = s.free := rfl
@[simp] theorem freeLock_pending (e stripe m : Nat) (s : State) : (freeLock e stripe m s).pending = s.pending := rfl

/-! `freeLocksOf` -/

theorem freeLocksOf_pel (m : Nat) (s : State) :
    (freeLocksOf m s).pel = { s.pel with locks := s.pel.locks.filter fun l => l.2.2 != m } := rfl
@[simp] theorem freeLocksOf_clock (m : Nat) (s : State) : (freeLocksOf m s).clock = s.clock := rfl
@[simp] theorem freeLocksOf_pins (m : Nat) (s : State) : (freeLocksOf m s).pins = s.pins := rfl
@[simp] theorem freeLocksOf_mode (m : Nat) (s : State) : (freeLocksOf m s).mode = s.mode := rfl
@[simp] theorem freeLocksOf_coast (m : Nat) (s : State) : (freeLocksOf m s).coast = s.coast := rfl
@[simp] theorem freeLocksOf_pools (m : Nat) (s : State) : (freeLocksOf m s).pools = s.pools := rfl
@[simp] theorem freeLocksOf_cat (m : Nat) (s : State) : (freeLocksOf m s).cat = s.cat := rfl
@[simp] theorem freeLocksOf_led (m : Nat) (s : State) : (freeLocksOf m s).led = s.led := rfl
@[simp] theorem freeLocksOf_inv (m : Nat) (s : State) : (freeLocksOf m s).inv = s.inv := rfl
@[simp] theorem freeLocksOf_wr (m : Nat) (s : State) : (freeLocksOf m s).wr = s.wr := rfl
@[simp] theorem freeLocksOf_blk (m : Nat) (s : State) : (freeLocksOf m s).blk = s.blk := rfl
@[simp] theorem freeLocksOf_fl (m : Nat) (s : State) : (freeLocksOf m s).fl = s.fl := rfl
@[simp] theorem freeLocksOf_esc (m : Nat) (s : State) : (freeLocksOf m s).esc = s.esc := rfl
@[simp] theorem freeLocksOf_link (m : Nat) (s : State) : (freeLocksOf m s).link = s.link := rfl
@[simp] theorem freeLocksOf_nv (m : Nat) (s : State) : (freeLocksOf m s).nv = s.nv := rfl
@[simp] theorem freeLocksOf_key (m : Nat) (s : State) : (freeLocksOf m s).key = s.key := rfl
@[simp] theorem freeLocksOf_ech (m : Nat) (s : State) : (freeLocksOf m s).ech = s.ech := rfl
@[simp] theorem freeLocksOf_dram (m : Nat) (s : State) : (freeLocksOf m s).dram = s.dram := rfl
@[simp] theorem freeLocksOf_fol (m : Nat) (s : State) : (freeLocksOf m s).fol = s.fol := rfl
@[simp] theorem freeLocksOf_lib (m : Nat) (s : State) : (freeLocksOf m s).lib = s.lib := rfl
@[simp] theorem freeLocksOf_sens (m : Nat) (s : State) : (freeLocksOf m s).sens = s.sens := rfl
@[simp] theorem freeLocksOf_day (m : Nat) (s : State) : (freeLocksOf m s).day = s.day := rfl
@[simp] theorem freeLocksOf_cdx (m : Nat) (s : State) : (freeLocksOf m s).cdx = s.cdx := rfl
@[simp] theorem freeLocksOf_upd (m : Nat) (s : State) : (freeLocksOf m s).upd = s.upd := rfl
@[simp] theorem freeLocksOf_free (m : Nat) (s : State) : (freeLocksOf m s).free = s.free := rfl
@[simp] theorem freeLocksOf_pending (m : Nat) (s : State) : (freeLocksOf m s).pending = s.pending := rfl

/-! `modRun` -/

theorem modRun_ech (id : Nat) (f : Steward → Steward) (s : State) :
    (modRun id f s).ech = { s.ech with stewards := modWhere (fun r => r.id = id) f s.ech.stewards } := rfl
@[simp] theorem modRun_clock (id : Nat) (f : Steward → Steward) (s : State) : (modRun id f s).clock = s.clock := rfl
@[simp] theorem modRun_pins (id : Nat) (f : Steward → Steward) (s : State) : (modRun id f s).pins = s.pins := rfl
@[simp] theorem modRun_mode (id : Nat) (f : Steward → Steward) (s : State) : (modRun id f s).mode = s.mode := rfl
@[simp] theorem modRun_coast (id : Nat) (f : Steward → Steward) (s : State) : (modRun id f s).coast = s.coast := rfl
@[simp] theorem modRun_pools (id : Nat) (f : Steward → Steward) (s : State) : (modRun id f s).pools = s.pools := rfl
@[simp] theorem modRun_cat (id : Nat) (f : Steward → Steward) (s : State) : (modRun id f s).cat = s.cat := rfl
@[simp] theorem modRun_led (id : Nat) (f : Steward → Steward) (s : State) : (modRun id f s).led = s.led := rfl
@[simp] theorem modRun_inv (id : Nat) (f : Steward → Steward) (s : State) : (modRun id f s).inv = s.inv := rfl
@[simp] theorem modRun_wr (id : Nat) (f : Steward → Steward) (s : State) : (modRun id f s).wr = s.wr := rfl
@[simp] theorem modRun_blk (id : Nat) (f : Steward → Steward) (s : State) : (modRun id f s).blk = s.blk := rfl
@[simp] theorem modRun_fl (id : Nat) (f : Steward → Steward) (s : State) : (modRun id f s).fl = s.fl := rfl
@[simp] theorem modRun_esc (id : Nat) (f : Steward → Steward) (s : State) : (modRun id f s).esc = s.esc := rfl
@[simp] theorem modRun_link (id : Nat) (f : Steward → Steward) (s : State) : (modRun id f s).link = s.link := rfl
@[simp] theorem modRun_nv (id : Nat) (f : Steward → Steward) (s : State) : (modRun id f s).nv = s.nv := rfl
@[simp] theorem modRun_key (id : Nat) (f : Steward → Steward) (s : State) : (modRun id f s).key = s.key := rfl
@[simp] theorem modRun_pel (id : Nat) (f : Steward → Steward) (s : State) : (modRun id f s).pel = s.pel := rfl
@[simp] theorem modRun_dram (id : Nat) (f : Steward → Steward) (s : State) : (modRun id f s).dram = s.dram := rfl
@[simp] theorem modRun_fol (id : Nat) (f : Steward → Steward) (s : State) : (modRun id f s).fol = s.fol := rfl
@[simp] theorem modRun_lib (id : Nat) (f : Steward → Steward) (s : State) : (modRun id f s).lib = s.lib := rfl
@[simp] theorem modRun_sens (id : Nat) (f : Steward → Steward) (s : State) : (modRun id f s).sens = s.sens := rfl
@[simp] theorem modRun_day (id : Nat) (f : Steward → Steward) (s : State) : (modRun id f s).day = s.day := rfl
@[simp] theorem modRun_cdx (id : Nat) (f : Steward → Steward) (s : State) : (modRun id f s).cdx = s.cdx := rfl
@[simp] theorem modRun_upd (id : Nat) (f : Steward → Steward) (s : State) : (modRun id f s).upd = s.upd := rfl
@[simp] theorem modRun_free (id : Nat) (f : Steward → Steward) (s : State) : (modRun id f s).free = s.free := rfl
@[simp] theorem modRun_pending (id : Nat) (f : Steward → Steward) (s : State) : (modRun id f s).pending = s.pending := rfl

/-! `dropRun` -/

theorem dropRun_ech (id : Nat) (s : State) :
    (dropRun id s).ech = { s.ech with stewards := s.ech.stewards.filter fun r => r.id != id } := rfl
@[simp] theorem dropRun_clock (id : Nat) (s : State) : (dropRun id s).clock = s.clock := rfl
@[simp] theorem dropRun_pins (id : Nat) (s : State) : (dropRun id s).pins = s.pins := rfl
@[simp] theorem dropRun_mode (id : Nat) (s : State) : (dropRun id s).mode = s.mode := rfl
@[simp] theorem dropRun_coast (id : Nat) (s : State) : (dropRun id s).coast = s.coast := rfl
@[simp] theorem dropRun_pools (id : Nat) (s : State) : (dropRun id s).pools = s.pools := rfl
@[simp] theorem dropRun_cat (id : Nat) (s : State) : (dropRun id s).cat = s.cat := rfl
@[simp] theorem dropRun_led (id : Nat) (s : State) : (dropRun id s).led = s.led := rfl
@[simp] theorem dropRun_inv (id : Nat) (s : State) : (dropRun id s).inv = s.inv := rfl
@[simp] theorem dropRun_wr (id : Nat) (s : State) : (dropRun id s).wr = s.wr := rfl
@[simp] theorem dropRun_blk (id : Nat) (s : State) : (dropRun id s).blk = s.blk := rfl
@[simp] theorem dropRun_fl (id : Nat) (s : State) : (dropRun id s).fl = s.fl := rfl
@[simp] theorem dropRun_esc (id : Nat) (s : State) : (dropRun id s).esc = s.esc := rfl
@[simp] theorem dropRun_link (id : Nat) (s : State) : (dropRun id s).link = s.link := rfl
@[simp] theorem dropRun_nv (id : Nat) (s : State) : (dropRun id s).nv = s.nv := rfl
@[simp] theorem dropRun_key (id : Nat) (s : State) : (dropRun id s).key = s.key := rfl
@[simp] theorem dropRun_pel (id : Nat) (s : State) : (dropRun id s).pel = s.pel := rfl
@[simp] theorem dropRun_dram (id : Nat) (s : State) : (dropRun id s).dram = s.dram := rfl
@[simp] theorem dropRun_fol (id : Nat) (s : State) : (dropRun id s).fol = s.fol := rfl
@[simp] theorem dropRun_lib (id : Nat) (s : State) : (dropRun id s).lib = s.lib := rfl
@[simp] theorem dropRun_sens (id : Nat) (s : State) : (dropRun id s).sens = s.sens := rfl
@[simp] theorem dropRun_day (id : Nat) (s : State) : (dropRun id s).day = s.day := rfl
@[simp] theorem dropRun_cdx (id : Nat) (s : State) : (dropRun id s).cdx = s.cdx := rfl
@[simp] theorem dropRun_upd (id : Nat) (s : State) : (dropRun id s).upd = s.upd := rfl
@[simp] theorem dropRun_free (id : Nat) (s : State) : (dropRun id s).free = s.free := rfl
@[simp] theorem dropRun_pending (id : Nat) (s : State) : (dropRun id s).pending = s.pending := rfl

/-! `addTxn` -/

theorem addTxn_pel (t : InTxn) (s : State) :
    (addTxn t s).pel = { s.pel with txns := s.pel.txns ++ [t] } := rfl
@[simp] theorem addTxn_clock (t : InTxn) (s : State) : (addTxn t s).clock = s.clock := rfl
@[simp] theorem addTxn_pins (t : InTxn) (s : State) : (addTxn t s).pins = s.pins := rfl
@[simp] theorem addTxn_mode (t : InTxn) (s : State) : (addTxn t s).mode = s.mode := rfl
@[simp] theorem addTxn_coast (t : InTxn) (s : State) : (addTxn t s).coast = s.coast := rfl
@[simp] theorem addTxn_pools (t : InTxn) (s : State) : (addTxn t s).pools = s.pools := rfl
@[simp] theorem addTxn_cat (t : InTxn) (s : State) : (addTxn t s).cat = s.cat := rfl
@[simp] theorem addTxn_led (t : InTxn) (s : State) : (addTxn t s).led = s.led := rfl
@[simp] theorem addTxn_inv (t : InTxn) (s : State) : (addTxn t s).inv = s.inv := rfl
@[simp] theorem addTxn_wr (t : InTxn) (s : State) : (addTxn t s).wr = s.wr := rfl
@[simp] theorem addTxn_blk (t : InTxn) (s : State) : (addTxn t s).blk = s.blk := rfl
@[simp] theorem addTxn_fl (t : InTxn) (s : State) : (addTxn t s).fl = s.fl := rfl
@[simp] theorem addTxn_esc (t : InTxn) (s : State) : (addTxn t s).esc = s.esc := rfl
@[simp] theorem addTxn_link (t : InTxn) (s : State) : (addTxn t s).link = s.link := rfl
@[simp] theorem addTxn_nv (t : InTxn) (s : State) : (addTxn t s).nv = s.nv := rfl
@[simp] theorem addTxn_key (t : InTxn) (s : State) : (addTxn t s).key = s.key := rfl
@[simp] theorem addTxn_ech (t : InTxn) (s : State) : (addTxn t s).ech = s.ech := rfl
@[simp] theorem addTxn_dram (t : InTxn) (s : State) : (addTxn t s).dram = s.dram := rfl
@[simp] theorem addTxn_fol (t : InTxn) (s : State) : (addTxn t s).fol = s.fol := rfl
@[simp] theorem addTxn_lib (t : InTxn) (s : State) : (addTxn t s).lib = s.lib := rfl
@[simp] theorem addTxn_sens (t : InTxn) (s : State) : (addTxn t s).sens = s.sens := rfl
@[simp] theorem addTxn_day (t : InTxn) (s : State) : (addTxn t s).day = s.day := rfl
@[simp] theorem addTxn_cdx (t : InTxn) (s : State) : (addTxn t s).cdx = s.cdx := rfl
@[simp] theorem addTxn_upd (t : InTxn) (s : State) : (addTxn t s).upd = s.upd := rfl
@[simp] theorem addTxn_free (t : InTxn) (s : State) : (addTxn t s).free = s.free := rfl
@[simp] theorem addTxn_pending (t : InTxn) (s : State) : (addTxn t s).pending = s.pending := rfl

/-! `setTraining` -/

theorem setTraining_fol (isB : Bool) (l : List TrainRec) (s : State) :
    (setTraining isB l s).fol = if isB then { s.fol with trainB := l } else { s.fol with trainA := l } := rfl
@[simp] theorem setTraining_clock (isB : Bool) (l : List TrainRec) (s : State) : (setTraining isB l s).clock = s.clock := rfl
@[simp] theorem setTraining_pins (isB : Bool) (l : List TrainRec) (s : State) : (setTraining isB l s).pins = s.pins := rfl
@[simp] theorem setTraining_mode (isB : Bool) (l : List TrainRec) (s : State) : (setTraining isB l s).mode = s.mode := rfl
@[simp] theorem setTraining_coast (isB : Bool) (l : List TrainRec) (s : State) : (setTraining isB l s).coast = s.coast := rfl
@[simp] theorem setTraining_pools (isB : Bool) (l : List TrainRec) (s : State) : (setTraining isB l s).pools = s.pools := rfl
@[simp] theorem setTraining_cat (isB : Bool) (l : List TrainRec) (s : State) : (setTraining isB l s).cat = s.cat := rfl
@[simp] theorem setTraining_led (isB : Bool) (l : List TrainRec) (s : State) : (setTraining isB l s).led = s.led := rfl
@[simp] theorem setTraining_inv (isB : Bool) (l : List TrainRec) (s : State) : (setTraining isB l s).inv = s.inv := rfl
@[simp] theorem setTraining_wr (isB : Bool) (l : List TrainRec) (s : State) : (setTraining isB l s).wr = s.wr := rfl
@[simp] theorem setTraining_blk (isB : Bool) (l : List TrainRec) (s : State) : (setTraining isB l s).blk = s.blk := rfl
@[simp] theorem setTraining_fl (isB : Bool) (l : List TrainRec) (s : State) : (setTraining isB l s).fl = s.fl := rfl
@[simp] theorem setTraining_esc (isB : Bool) (l : List TrainRec) (s : State) : (setTraining isB l s).esc = s.esc := rfl
@[simp] theorem setTraining_link (isB : Bool) (l : List TrainRec) (s : State) : (setTraining isB l s).link = s.link := rfl
@[simp] theorem setTraining_nv (isB : Bool) (l : List TrainRec) (s : State) : (setTraining isB l s).nv = s.nv := rfl
@[simp] theorem setTraining_key (isB : Bool) (l : List TrainRec) (s : State) : (setTraining isB l s).key = s.key := rfl
@[simp] theorem setTraining_pel (isB : Bool) (l : List TrainRec) (s : State) : (setTraining isB l s).pel = s.pel := rfl
@[simp] theorem setTraining_ech (isB : Bool) (l : List TrainRec) (s : State) : (setTraining isB l s).ech = s.ech := rfl
@[simp] theorem setTraining_dram (isB : Bool) (l : List TrainRec) (s : State) : (setTraining isB l s).dram = s.dram := rfl
@[simp] theorem setTraining_lib (isB : Bool) (l : List TrainRec) (s : State) : (setTraining isB l s).lib = s.lib := rfl
@[simp] theorem setTraining_sens (isB : Bool) (l : List TrainRec) (s : State) : (setTraining isB l s).sens = s.sens := rfl
@[simp] theorem setTraining_day (isB : Bool) (l : List TrainRec) (s : State) : (setTraining isB l s).day = s.day := rfl
@[simp] theorem setTraining_cdx (isB : Bool) (l : List TrainRec) (s : State) : (setTraining isB l s).cdx = s.cdx := rfl
@[simp] theorem setTraining_upd (isB : Bool) (l : List TrainRec) (s : State) : (setTraining isB l s).upd = s.upd := rfl
@[simp] theorem setTraining_free (isB : Bool) (l : List TrainRec) (s : State) : (setTraining isB l s).free = s.free := rfl
@[simp] theorem setTraining_pending (isB : Bool) (l : List TrainRec) (s : State) : (setTraining isB l s).pending = s.pending := rfl

/-! `putKey` -/

theorem putKey_key (r : KeyRec) (s : State) :
    (putKey r s).key = { s.key with
      ring := modAt (keyPlace s) (fun l => l ++ [r]) s.key.ring
      headSect := keyPlace s } := rfl
@[simp] theorem putKey_clock (r : KeyRec) (s : State) : (putKey r s).clock = s.clock := rfl
@[simp] theorem putKey_pins (r : KeyRec) (s : State) : (putKey r s).pins = s.pins := rfl
@[simp] theorem putKey_mode (r : KeyRec) (s : State) : (putKey r s).mode = s.mode := rfl
@[simp] theorem putKey_coast (r : KeyRec) (s : State) : (putKey r s).coast = s.coast := rfl
@[simp] theorem putKey_pools (r : KeyRec) (s : State) : (putKey r s).pools = s.pools := rfl
@[simp] theorem putKey_cat (r : KeyRec) (s : State) : (putKey r s).cat = s.cat := rfl
@[simp] theorem putKey_led (r : KeyRec) (s : State) : (putKey r s).led = s.led := rfl
@[simp] theorem putKey_inv (r : KeyRec) (s : State) : (putKey r s).inv = s.inv := rfl
@[simp] theorem putKey_wr (r : KeyRec) (s : State) : (putKey r s).wr = s.wr := rfl
@[simp] theorem putKey_blk (r : KeyRec) (s : State) : (putKey r s).blk = s.blk := rfl
@[simp] theorem putKey_fl (r : KeyRec) (s : State) : (putKey r s).fl = s.fl := rfl
@[simp] theorem putKey_esc (r : KeyRec) (s : State) : (putKey r s).esc = s.esc := rfl
@[simp] theorem putKey_link (r : KeyRec) (s : State) : (putKey r s).link = s.link := rfl
@[simp] theorem putKey_nv (r : KeyRec) (s : State) : (putKey r s).nv = s.nv := rfl
@[simp] theorem putKey_pel (r : KeyRec) (s : State) : (putKey r s).pel = s.pel := rfl
@[simp] theorem putKey_ech (r : KeyRec) (s : State) : (putKey r s).ech = s.ech := rfl
@[simp] theorem putKey_dram (r : KeyRec) (s : State) : (putKey r s).dram = s.dram := rfl
@[simp] theorem putKey_fol (r : KeyRec) (s : State) : (putKey r s).fol = s.fol := rfl
@[simp] theorem putKey_lib (r : KeyRec) (s : State) : (putKey r s).lib = s.lib := rfl
@[simp] theorem putKey_sens (r : KeyRec) (s : State) : (putKey r s).sens = s.sens := rfl
@[simp] theorem putKey_day (r : KeyRec) (s : State) : (putKey r s).day = s.day := rfl
@[simp] theorem putKey_cdx (r : KeyRec) (s : State) : (putKey r s).cdx = s.cdx := rfl
@[simp] theorem putKey_upd (r : KeyRec) (s : State) : (putKey r s).upd = s.upd := rfl
@[simp] theorem putKey_free (r : KeyRec) (s : State) : (putKey r s).free = s.free := rfl
@[simp] theorem putKey_pending (r : KeyRec) (s : State) : (putKey r s).pending = s.pending := rfl

/-! `zeroiseBelow` -/

theorem zeroiseBelow_key (k g : Nat) (s : State) :
    (zeroiseBelow k g s).key = { s.key with
      ring := s.key.ring.map fun l => l.map fun r =>
        if r.slot = k && decide (r.gen < g) then { r with zeroised := true, wrapped := 0 } else r } := rfl
@[simp] theorem zeroiseBelow_clock (k g : Nat) (s : State) : (zeroiseBelow k g s).clock = s.clock := rfl
@[simp] theorem zeroiseBelow_pins (k g : Nat) (s : State) : (zeroiseBelow k g s).pins = s.pins := rfl
@[simp] theorem zeroiseBelow_mode (k g : Nat) (s : State) : (zeroiseBelow k g s).mode = s.mode := rfl
@[simp] theorem zeroiseBelow_coast (k g : Nat) (s : State) : (zeroiseBelow k g s).coast = s.coast := rfl
@[simp] theorem zeroiseBelow_pools (k g : Nat) (s : State) : (zeroiseBelow k g s).pools = s.pools := rfl
@[simp] theorem zeroiseBelow_cat (k g : Nat) (s : State) : (zeroiseBelow k g s).cat = s.cat := rfl
@[simp] theorem zeroiseBelow_led (k g : Nat) (s : State) : (zeroiseBelow k g s).led = s.led := rfl
@[simp] theorem zeroiseBelow_inv (k g : Nat) (s : State) : (zeroiseBelow k g s).inv = s.inv := rfl
@[simp] theorem zeroiseBelow_wr (k g : Nat) (s : State) : (zeroiseBelow k g s).wr = s.wr := rfl
@[simp] theorem zeroiseBelow_blk (k g : Nat) (s : State) : (zeroiseBelow k g s).blk = s.blk := rfl
@[simp] theorem zeroiseBelow_fl (k g : Nat) (s : State) : (zeroiseBelow k g s).fl = s.fl := rfl
@[simp] theorem zeroiseBelow_esc (k g : Nat) (s : State) : (zeroiseBelow k g s).esc = s.esc := rfl
@[simp] theorem zeroiseBelow_link (k g : Nat) (s : State) : (zeroiseBelow k g s).link = s.link := rfl
@[simp] theorem zeroiseBelow_nv (k g : Nat) (s : State) : (zeroiseBelow k g s).nv = s.nv := rfl
@[simp] theorem zeroiseBelow_pel (k g : Nat) (s : State) : (zeroiseBelow k g s).pel = s.pel := rfl
@[simp] theorem zeroiseBelow_ech (k g : Nat) (s : State) : (zeroiseBelow k g s).ech = s.ech := rfl
@[simp] theorem zeroiseBelow_dram (k g : Nat) (s : State) : (zeroiseBelow k g s).dram = s.dram := rfl
@[simp] theorem zeroiseBelow_fol (k g : Nat) (s : State) : (zeroiseBelow k g s).fol = s.fol := rfl
@[simp] theorem zeroiseBelow_lib (k g : Nat) (s : State) : (zeroiseBelow k g s).lib = s.lib := rfl
@[simp] theorem zeroiseBelow_sens (k g : Nat) (s : State) : (zeroiseBelow k g s).sens = s.sens := rfl
@[simp] theorem zeroiseBelow_day (k g : Nat) (s : State) : (zeroiseBelow k g s).day = s.day := rfl
@[simp] theorem zeroiseBelow_cdx (k g : Nat) (s : State) : (zeroiseBelow k g s).cdx = s.cdx := rfl
@[simp] theorem zeroiseBelow_upd (k g : Nat) (s : State) : (zeroiseBelow k g s).upd = s.upd := rfl
@[simp] theorem zeroiseBelow_free (k g : Nat) (s : State) : (zeroiseBelow k g s).free = s.free := rfl
@[simp] theorem zeroiseBelow_pending (k g : Nat) (s : State) : (zeroiseBelow k g s).pending = s.pending := rfl

/-! `markSwept` -/

theorem markSwept_key (k : Nat) (s : State) :
    (markSwept k s).key = { s.key with
      ring := s.key.ring.map fun l => l.map fun r =>
        if some r = recInForce s k then { r with sweepDone := true } else r } := rfl
@[simp] theorem markSwept_clock (k : Nat) (s : State) : (markSwept k s).clock = s.clock := rfl
@[simp] theorem markSwept_pins (k : Nat) (s : State) : (markSwept k s).pins = s.pins := rfl
@[simp] theorem markSwept_mode (k : Nat) (s : State) : (markSwept k s).mode = s.mode := rfl
@[simp] theorem markSwept_coast (k : Nat) (s : State) : (markSwept k s).coast = s.coast := rfl
@[simp] theorem markSwept_pools (k : Nat) (s : State) : (markSwept k s).pools = s.pools := rfl
@[simp] theorem markSwept_cat (k : Nat) (s : State) : (markSwept k s).cat = s.cat := rfl
@[simp] theorem markSwept_led (k : Nat) (s : State) : (markSwept k s).led = s.led := rfl
@[simp] theorem markSwept_inv (k : Nat) (s : State) : (markSwept k s).inv = s.inv := rfl
@[simp] theorem markSwept_wr (k : Nat) (s : State) : (markSwept k s).wr = s.wr := rfl
@[simp] theorem markSwept_blk (k : Nat) (s : State) : (markSwept k s).blk = s.blk := rfl
@[simp] theorem markSwept_fl (k : Nat) (s : State) : (markSwept k s).fl = s.fl := rfl
@[simp] theorem markSwept_esc (k : Nat) (s : State) : (markSwept k s).esc = s.esc := rfl
@[simp] theorem markSwept_link (k : Nat) (s : State) : (markSwept k s).link = s.link := rfl
@[simp] theorem markSwept_nv (k : Nat) (s : State) : (markSwept k s).nv = s.nv := rfl
@[simp] theorem markSwept_pel (k : Nat) (s : State) : (markSwept k s).pel = s.pel := rfl
@[simp] theorem markSwept_ech (k : Nat) (s : State) : (markSwept k s).ech = s.ech := rfl
@[simp] theorem markSwept_dram (k : Nat) (s : State) : (markSwept k s).dram = s.dram := rfl
@[simp] theorem markSwept_fol (k : Nat) (s : State) : (markSwept k s).fol = s.fol := rfl
@[simp] theorem markSwept_lib (k : Nat) (s : State) : (markSwept k s).lib = s.lib := rfl
@[simp] theorem markSwept_sens (k : Nat) (s : State) : (markSwept k s).sens = s.sens := rfl
@[simp] theorem markSwept_day (k : Nat) (s : State) : (markSwept k s).day = s.day := rfl
@[simp] theorem markSwept_cdx (k : Nat) (s : State) : (markSwept k s).cdx = s.cdx := rfl
@[simp] theorem markSwept_upd (k : Nat) (s : State) : (markSwept k s).upd = s.upd := rfl
@[simp] theorem markSwept_free (k : Nat) (s : State) : (markSwept k s).free = s.free := rfl
@[simp] theorem markSwept_pending (k : Nat) (s : State) : (markSwept k s).pending = s.pending := rfl

/-! `addRenewals` -/

theorem addRenewals_key (l : List Renewal) (s : State) :
    (addRenewals l s).key = { s.key with renewals := s.key.renewals ++ l } := rfl
@[simp] theorem addRenewals_clock (l : List Renewal) (s : State) : (addRenewals l s).clock = s.clock := rfl
@[simp] theorem addRenewals_pins (l : List Renewal) (s : State) : (addRenewals l s).pins = s.pins := rfl
@[simp] theorem addRenewals_mode (l : List Renewal) (s : State) : (addRenewals l s).mode = s.mode := rfl
@[simp] theorem addRenewals_coast (l : List Renewal) (s : State) : (addRenewals l s).coast = s.coast := rfl
@[simp] theorem addRenewals_pools (l : List Renewal) (s : State) : (addRenewals l s).pools = s.pools := rfl
@[simp] theorem addRenewals_cat (l : List Renewal) (s : State) : (addRenewals l s).cat = s.cat := rfl
@[simp] theorem addRenewals_led (l : List Renewal) (s : State) : (addRenewals l s).led = s.led := rfl
@[simp] theorem addRenewals_inv (l : List Renewal) (s : State) : (addRenewals l s).inv = s.inv := rfl
@[simp] theorem addRenewals_wr (l : List Renewal) (s : State) : (addRenewals l s).wr = s.wr := rfl
@[simp] theorem addRenewals_blk (l : List Renewal) (s : State) : (addRenewals l s).blk = s.blk := rfl
@[simp] theorem addRenewals_fl (l : List Renewal) (s : State) : (addRenewals l s).fl = s.fl := rfl
@[simp] theorem addRenewals_esc (l : List Renewal) (s : State) : (addRenewals l s).esc = s.esc := rfl
@[simp] theorem addRenewals_link (l : List Renewal) (s : State) : (addRenewals l s).link = s.link := rfl
@[simp] theorem addRenewals_nv (l : List Renewal) (s : State) : (addRenewals l s).nv = s.nv := rfl
@[simp] theorem addRenewals_pel (l : List Renewal) (s : State) : (addRenewals l s).pel = s.pel := rfl
@[simp] theorem addRenewals_ech (l : List Renewal) (s : State) : (addRenewals l s).ech = s.ech := rfl
@[simp] theorem addRenewals_dram (l : List Renewal) (s : State) : (addRenewals l s).dram = s.dram := rfl
@[simp] theorem addRenewals_fol (l : List Renewal) (s : State) : (addRenewals l s).fol = s.fol := rfl
@[simp] theorem addRenewals_lib (l : List Renewal) (s : State) : (addRenewals l s).lib = s.lib := rfl
@[simp] theorem addRenewals_sens (l : List Renewal) (s : State) : (addRenewals l s).sens = s.sens := rfl
@[simp] theorem addRenewals_day (l : List Renewal) (s : State) : (addRenewals l s).day = s.day := rfl
@[simp] theorem addRenewals_cdx (l : List Renewal) (s : State) : (addRenewals l s).cdx = s.cdx := rfl
@[simp] theorem addRenewals_upd (l : List Renewal) (s : State) : (addRenewals l s).upd = s.upd := rfl
@[simp] theorem addRenewals_free (l : List Renewal) (s : State) : (addRenewals l s).free = s.free := rfl
@[simp] theorem addRenewals_pending (l : List Renewal) (s : State) : (addRenewals l s).pending = s.pending := rfl

/-! `modRenewal` -/

theorem modRenewal_key (r : Renewal) (f : Renewal → Renewal) (s : State) :
    (modRenewal r f s).key = { s.key with renewals := s.key.renewals.map fun x => if x = r then f x else x } := rfl
@[simp] theorem modRenewal_clock (r : Renewal) (f : Renewal → Renewal) (s : State) : (modRenewal r f s).clock = s.clock := rfl
@[simp] theorem modRenewal_pins (r : Renewal) (f : Renewal → Renewal) (s : State) : (modRenewal r f s).pins = s.pins := rfl
@[simp] theorem modRenewal_mode (r : Renewal) (f : Renewal → Renewal) (s : State) : (modRenewal r f s).mode = s.mode := rfl
@[simp] theorem modRenewal_coast (r : Renewal) (f : Renewal → Renewal) (s : State) : (modRenewal r f s).coast = s.coast := rfl
@[simp] theorem modRenewal_pools (r : Renewal) (f : Renewal → Renewal) (s : State) : (modRenewal r f s).pools = s.pools := rfl
@[simp] theorem modRenewal_cat (r : Renewal) (f : Renewal → Renewal) (s : State) : (modRenewal r f s).cat = s.cat := rfl
@[simp] theorem modRenewal_led (r : Renewal) (f : Renewal → Renewal) (s : State) : (modRenewal r f s).led = s.led := rfl
@[simp] theorem modRenewal_inv (r : Renewal) (f : Renewal → Renewal) (s : State) : (modRenewal r f s).inv = s.inv := rfl
@[simp] theorem modRenewal_wr (r : Renewal) (f : Renewal → Renewal) (s : State) : (modRenewal r f s).wr = s.wr := rfl
@[simp] theorem modRenewal_blk (r : Renewal) (f : Renewal → Renewal) (s : State) : (modRenewal r f s).blk = s.blk := rfl
@[simp] theorem modRenewal_fl (r : Renewal) (f : Renewal → Renewal) (s : State) : (modRenewal r f s).fl = s.fl := rfl
@[simp] theorem modRenewal_esc (r : Renewal) (f : Renewal → Renewal) (s : State) : (modRenewal r f s).esc = s.esc := rfl
@[simp] theorem modRenewal_link (r : Renewal) (f : Renewal → Renewal) (s : State) : (modRenewal r f s).link = s.link := rfl
@[simp] theorem modRenewal_nv (r : Renewal) (f : Renewal → Renewal) (s : State) : (modRenewal r f s).nv = s.nv := rfl
@[simp] theorem modRenewal_pel (r : Renewal) (f : Renewal → Renewal) (s : State) : (modRenewal r f s).pel = s.pel := rfl
@[simp] theorem modRenewal_ech (r : Renewal) (f : Renewal → Renewal) (s : State) : (modRenewal r f s).ech = s.ech := rfl
@[simp] theorem modRenewal_dram (r : Renewal) (f : Renewal → Renewal) (s : State) : (modRenewal r f s).dram = s.dram := rfl
@[simp] theorem modRenewal_fol (r : Renewal) (f : Renewal → Renewal) (s : State) : (modRenewal r f s).fol = s.fol := rfl
@[simp] theorem modRenewal_lib (r : Renewal) (f : Renewal → Renewal) (s : State) : (modRenewal r f s).lib = s.lib := rfl
@[simp] theorem modRenewal_sens (r : Renewal) (f : Renewal → Renewal) (s : State) : (modRenewal r f s).sens = s.sens := rfl
@[simp] theorem modRenewal_day (r : Renewal) (f : Renewal → Renewal) (s : State) : (modRenewal r f s).day = s.day := rfl
@[simp] theorem modRenewal_cdx (r : Renewal) (f : Renewal → Renewal) (s : State) : (modRenewal r f s).cdx = s.cdx := rfl
@[simp] theorem modRenewal_upd (r : Renewal) (f : Renewal → Renewal) (s : State) : (modRenewal r f s).upd = s.upd := rfl
@[simp] theorem modRenewal_free (r : Renewal) (f : Renewal → Renewal) (s : State) : (modRenewal r f s).free = s.free := rfl
@[simp] theorem modRenewal_pending (r : Renewal) (f : Renewal → Renewal) (s : State) : (modRenewal r f s).pending = s.pending := rfl

/-! `opalAnswer` -/

theorem opalAnswer_key (session status : Nat) (values : List Nat) (s : State) :
    (opalAnswer session status values s).key = { s.key with opalOut := s.key.opalOut ++ [(session, status, values)] } := rfl
@[simp] theorem opalAnswer_clock (session status : Nat) (values : List Nat) (s : State) : (opalAnswer session status values s).clock = s.clock := rfl
@[simp] theorem opalAnswer_pins (session status : Nat) (values : List Nat) (s : State) : (opalAnswer session status values s).pins = s.pins := rfl
@[simp] theorem opalAnswer_mode (session status : Nat) (values : List Nat) (s : State) : (opalAnswer session status values s).mode = s.mode := rfl
@[simp] theorem opalAnswer_coast (session status : Nat) (values : List Nat) (s : State) : (opalAnswer session status values s).coast = s.coast := rfl
@[simp] theorem opalAnswer_pools (session status : Nat) (values : List Nat) (s : State) : (opalAnswer session status values s).pools = s.pools := rfl
@[simp] theorem opalAnswer_cat (session status : Nat) (values : List Nat) (s : State) : (opalAnswer session status values s).cat = s.cat := rfl
@[simp] theorem opalAnswer_led (session status : Nat) (values : List Nat) (s : State) : (opalAnswer session status values s).led = s.led := rfl
@[simp] theorem opalAnswer_inv (session status : Nat) (values : List Nat) (s : State) : (opalAnswer session status values s).inv = s.inv := rfl
@[simp] theorem opalAnswer_wr (session status : Nat) (values : List Nat) (s : State) : (opalAnswer session status values s).wr = s.wr := rfl
@[simp] theorem opalAnswer_blk (session status : Nat) (values : List Nat) (s : State) : (opalAnswer session status values s).blk = s.blk := rfl
@[simp] theorem opalAnswer_fl (session status : Nat) (values : List Nat) (s : State) : (opalAnswer session status values s).fl = s.fl := rfl
@[simp] theorem opalAnswer_esc (session status : Nat) (values : List Nat) (s : State) : (opalAnswer session status values s).esc = s.esc := rfl
@[simp] theorem opalAnswer_link (session status : Nat) (values : List Nat) (s : State) : (opalAnswer session status values s).link = s.link := rfl
@[simp] theorem opalAnswer_nv (session status : Nat) (values : List Nat) (s : State) : (opalAnswer session status values s).nv = s.nv := rfl
@[simp] theorem opalAnswer_pel (session status : Nat) (values : List Nat) (s : State) : (opalAnswer session status values s).pel = s.pel := rfl
@[simp] theorem opalAnswer_ech (session status : Nat) (values : List Nat) (s : State) : (opalAnswer session status values s).ech = s.ech := rfl
@[simp] theorem opalAnswer_dram (session status : Nat) (values : List Nat) (s : State) : (opalAnswer session status values s).dram = s.dram := rfl
@[simp] theorem opalAnswer_fol (session status : Nat) (values : List Nat) (s : State) : (opalAnswer session status values s).fol = s.fol := rfl
@[simp] theorem opalAnswer_lib (session status : Nat) (values : List Nat) (s : State) : (opalAnswer session status values s).lib = s.lib := rfl
@[simp] theorem opalAnswer_sens (session status : Nat) (values : List Nat) (s : State) : (opalAnswer session status values s).sens = s.sens := rfl
@[simp] theorem opalAnswer_day (session status : Nat) (values : List Nat) (s : State) : (opalAnswer session status values s).day = s.day := rfl
@[simp] theorem opalAnswer_cdx (session status : Nat) (values : List Nat) (s : State) : (opalAnswer session status values s).cdx = s.cdx := rfl
@[simp] theorem opalAnswer_upd (session status : Nat) (values : List Nat) (s : State) : (opalAnswer session status values s).upd = s.upd := rfl
@[simp] theorem opalAnswer_free (session status : Nat) (values : List Nat) (s : State) : (opalAnswer session status values s).free = s.free := rfl
@[simp] theorem opalAnswer_pending (session status : Nat) (values : List Nat) (s : State) : (opalAnswer session status values s).pending = s.pending := rfl

/-! `dropNamespaces` -/

@[simp] theorem dropNamespaces_clock (l : List Nat) (s : State) : (dropNamespaces l s).clock = s.clock := rfl
@[simp] theorem dropNamespaces_pins (l : List Nat) (s : State) : (dropNamespaces l s).pins = s.pins := rfl
@[simp] theorem dropNamespaces_mode (l : List Nat) (s : State) : (dropNamespaces l s).mode = s.mode := rfl
@[simp] theorem dropNamespaces_coast (l : List Nat) (s : State) : (dropNamespaces l s).coast = s.coast := rfl
@[simp] theorem dropNamespaces_pools (l : List Nat) (s : State) : (dropNamespaces l s).pools = s.pools := rfl
@[simp] theorem dropNamespaces_cat (l : List Nat) (s : State) : (dropNamespaces l s).cat = s.cat := rfl
@[simp] theorem dropNamespaces_led (l : List Nat) (s : State) : (dropNamespaces l s).led = s.led := rfl
@[simp] theorem dropNamespaces_inv (l : List Nat) (s : State) : (dropNamespaces l s).inv = s.inv := rfl
@[simp] theorem dropNamespaces_wr (l : List Nat) (s : State) : (dropNamespaces l s).wr = s.wr := rfl
@[simp] theorem dropNamespaces_blk (l : List Nat) (s : State) : (dropNamespaces l s).blk = s.blk := rfl
@[simp] theorem dropNamespaces_fl (l : List Nat) (s : State) : (dropNamespaces l s).fl = s.fl := rfl
@[simp] theorem dropNamespaces_esc (l : List Nat) (s : State) : (dropNamespaces l s).esc = s.esc := rfl
@[simp] theorem dropNamespaces_link (l : List Nat) (s : State) : (dropNamespaces l s).link = s.link := rfl
@[simp] theorem dropNamespaces_pel (l : List Nat) (s : State) : (dropNamespaces l s).pel = s.pel := rfl
@[simp] theorem dropNamespaces_ech (l : List Nat) (s : State) : (dropNamespaces l s).ech = s.ech := rfl
@[simp] theorem dropNamespaces_dram (l : List Nat) (s : State) : (dropNamespaces l s).dram = s.dram := rfl
@[simp] theorem dropNamespaces_fol (l : List Nat) (s : State) : (dropNamespaces l s).fol = s.fol := rfl
@[simp] theorem dropNamespaces_lib (l : List Nat) (s : State) : (dropNamespaces l s).lib = s.lib := rfl
@[simp] theorem dropNamespaces_sens (l : List Nat) (s : State) : (dropNamespaces l s).sens = s.sens := rfl
@[simp] theorem dropNamespaces_day (l : List Nat) (s : State) : (dropNamespaces l s).day = s.day := rfl
@[simp] theorem dropNamespaces_cdx (l : List Nat) (s : State) : (dropNamespaces l s).cdx = s.cdx := rfl
@[simp] theorem dropNamespaces_upd (l : List Nat) (s : State) : (dropNamespaces l s).upd = s.upd := rfl
@[simp] theorem dropNamespaces_free (l : List Nat) (s : State) : (dropNamespaces l s).free = s.free := rfl
@[simp] theorem dropNamespaces_pending (l : List Nat) (s : State) : (dropNamespaces l s).pending = s.pending := rfl

/-! `setRange` -/

theorem setRange_key (x : LockRange) (s : State) :
    (setRange x s).key = { s.key with
      ranges := s.key.ranges.filter (fun y => ! (y.nsid = x.nsid && y.r = x.r)) ++ [x] } := rfl
@[simp] theorem setRange_clock (x : LockRange) (s : State) : (setRange x s).clock = s.clock := rfl
@[simp] theorem setRange_pins (x : LockRange) (s : State) : (setRange x s).pins = s.pins := rfl
@[simp] theorem setRange_mode (x : LockRange) (s : State) : (setRange x s).mode = s.mode := rfl
@[simp] theorem setRange_coast (x : LockRange) (s : State) : (setRange x s).coast = s.coast := rfl
@[simp] theorem setRange_pools (x : LockRange) (s : State) : (setRange x s).pools = s.pools := rfl
@[simp] theorem setRange_cat (x : LockRange) (s : State) : (setRange x s).cat = s.cat := rfl
@[simp] theorem setRange_led (x : LockRange) (s : State) : (setRange x s).led = s.led := rfl
@[simp] theorem setRange_inv (x : LockRange) (s : State) : (setRange x s).inv = s.inv := rfl
@[simp] theorem setRange_wr (x : LockRange) (s : State) : (setRange x s).wr = s.wr := rfl
@[simp] theorem setRange_blk (x : LockRange) (s : State) : (setRange x s).blk = s.blk := rfl
@[simp] theorem setRange_fl (x : LockRange) (s : State) : (setRange x s).fl = s.fl := rfl
@[simp] theorem setRange_esc (x : LockRange) (s : State) : (setRange x s).esc = s.esc := rfl
@[simp] theorem setRange_link (x : LockRange) (s : State) : (setRange x s).link = s.link := rfl
@[simp] theorem setRange_nv (x : LockRange) (s : State) : (setRange x s).nv = s.nv := rfl
@[simp] theorem setRange_pel (x : LockRange) (s : State) : (setRange x s).pel = s.pel := rfl
@[simp] theorem setRange_ech (x : LockRange) (s : State) : (setRange x s).ech = s.ech := rfl
@[simp] theorem setRange_dram (x : LockRange) (s : State) : (setRange x s).dram = s.dram := rfl
@[simp] theorem setRange_fol (x : LockRange) (s : State) : (setRange x s).fol = s.fol := rfl
@[simp] theorem setRange_lib (x : LockRange) (s : State) : (setRange x s).lib = s.lib := rfl
@[simp] theorem setRange_sens (x : LockRange) (s : State) : (setRange x s).sens = s.sens := rfl
@[simp] theorem setRange_day (x : LockRange) (s : State) : (setRange x s).day = s.day := rfl
@[simp] theorem setRange_cdx (x : LockRange) (s : State) : (setRange x s).cdx = s.cdx := rfl
@[simp] theorem setRange_upd (x : LockRange) (s : State) : (setRange x s).upd = s.upd := rfl
@[simp] theorem setRange_free (x : LockRange) (s : State) : (setRange x s).free = s.free := rfl
@[simp] theorem setRange_pending (x : LockRange) (s : State) : (setRange x s).pending = s.pending := rfl

/-! `handBack` -/

theorem handBack_wr (ppa : Ppa) (s : State) :
    (handBack ppa s).wr = { s.wr with handed := s.wr.handed.filter fun p => p != ppa } := rfl
@[simp] theorem handBack_clock (ppa : Ppa) (s : State) : (handBack ppa s).clock = s.clock := rfl
@[simp] theorem handBack_pins (ppa : Ppa) (s : State) : (handBack ppa s).pins = s.pins := rfl
@[simp] theorem handBack_mode (ppa : Ppa) (s : State) : (handBack ppa s).mode = s.mode := rfl
@[simp] theorem handBack_coast (ppa : Ppa) (s : State) : (handBack ppa s).coast = s.coast := rfl
@[simp] theorem handBack_pools (ppa : Ppa) (s : State) : (handBack ppa s).pools = s.pools := rfl
@[simp] theorem handBack_cat (ppa : Ppa) (s : State) : (handBack ppa s).cat = s.cat := rfl
@[simp] theorem handBack_led (ppa : Ppa) (s : State) : (handBack ppa s).led = s.led := rfl
@[simp] theorem handBack_inv (ppa : Ppa) (s : State) : (handBack ppa s).inv = s.inv := rfl
@[simp] theorem handBack_blk (ppa : Ppa) (s : State) : (handBack ppa s).blk = s.blk := rfl
@[simp] theorem handBack_fl (ppa : Ppa) (s : State) : (handBack ppa s).fl = s.fl := rfl
@[simp] theorem handBack_esc (ppa : Ppa) (s : State) : (handBack ppa s).esc = s.esc := rfl
@[simp] theorem handBack_link (ppa : Ppa) (s : State) : (handBack ppa s).link = s.link := rfl
@[simp] theorem handBack_nv (ppa : Ppa) (s : State) : (handBack ppa s).nv = s.nv := rfl
@[simp] theorem handBack_key (ppa : Ppa) (s : State) : (handBack ppa s).key = s.key := rfl
@[simp] theorem handBack_pel (ppa : Ppa) (s : State) : (handBack ppa s).pel = s.pel := rfl
@[simp] theorem handBack_ech (ppa : Ppa) (s : State) : (handBack ppa s).ech = s.ech := rfl
@[simp] theorem handBack_dram (ppa : Ppa) (s : State) : (handBack ppa s).dram = s.dram := rfl
@[simp] theorem handBack_fol (ppa : Ppa) (s : State) : (handBack ppa s).fol = s.fol := rfl
@[simp] theorem handBack_lib (ppa : Ppa) (s : State) : (handBack ppa s).lib = s.lib := rfl
@[simp] theorem handBack_sens (ppa : Ppa) (s : State) : (handBack ppa s).sens = s.sens := rfl
@[simp] theorem handBack_day (ppa : Ppa) (s : State) : (handBack ppa s).day = s.day := rfl
@[simp] theorem handBack_cdx (ppa : Ppa) (s : State) : (handBack ppa s).cdx = s.cdx := rfl
@[simp] theorem handBack_upd (ppa : Ppa) (s : State) : (handBack ppa s).upd = s.upd := rfl
@[simp] theorem handBack_free (ppa : Ppa) (s : State) : (handBack ppa s).free = s.free := rfl
@[simp] theorem handBack_pending (ppa : Ppa) (s : State) : (handBack ppa s).pending = s.pending := rfl

/-! `stallAppend` -/

theorem stallAppend_led (r : LedgerRec) (s : State) :
    (stallAppend r s).led = { s.led with stalled := s.led.stalled ++ [r] } := rfl
@[simp] theorem stallAppend_clock (r : LedgerRec) (s : State) : (stallAppend r s).clock = s.clock := rfl
@[simp] theorem stallAppend_pins (r : LedgerRec) (s : State) : (stallAppend r s).pins = s.pins := rfl
@[simp] theorem stallAppend_mode (r : LedgerRec) (s : State) : (stallAppend r s).mode = s.mode := rfl
@[simp] theorem stallAppend_coast (r : LedgerRec) (s : State) : (stallAppend r s).coast = s.coast := rfl
@[simp] theorem stallAppend_pools (r : LedgerRec) (s : State) : (stallAppend r s).pools = s.pools := rfl
@[simp] theorem stallAppend_cat (r : LedgerRec) (s : State) : (stallAppend r s).cat = s.cat := rfl
@[simp] theorem stallAppend_inv (r : LedgerRec) (s : State) : (stallAppend r s).inv = s.inv := rfl
@[simp] theorem stallAppend_wr (r : LedgerRec) (s : State) : (stallAppend r s).wr = s.wr := rfl
@[simp] theorem stallAppend_blk (r : LedgerRec) (s : State) : (stallAppend r s).blk = s.blk := rfl
@[simp] theorem stallAppend_fl (r : LedgerRec) (s : State) : (stallAppend r s).fl = s.fl := rfl
@[simp] theorem stallAppend_esc (r : LedgerRec) (s : State) : (stallAppend r s).esc = s.esc := rfl
@[simp] theorem stallAppend_link (r : LedgerRec) (s : State) : (stallAppend r s).link = s.link := rfl
@[simp] theorem stallAppend_nv (r : LedgerRec) (s : State) : (stallAppend r s).nv = s.nv := rfl
@[simp] theorem stallAppend_key (r : LedgerRec) (s : State) : (stallAppend r s).key = s.key := rfl
@[simp] theorem stallAppend_pel (r : LedgerRec) (s : State) : (stallAppend r s).pel = s.pel := rfl
@[simp] theorem stallAppend_ech (r : LedgerRec) (s : State) : (stallAppend r s).ech = s.ech := rfl
@[simp] theorem stallAppend_dram (r : LedgerRec) (s : State) : (stallAppend r s).dram = s.dram := rfl
@[simp] theorem stallAppend_fol (r : LedgerRec) (s : State) : (stallAppend r s).fol = s.fol := rfl
@[simp] theorem stallAppend_lib (r : LedgerRec) (s : State) : (stallAppend r s).lib = s.lib := rfl
@[simp] theorem stallAppend_sens (r : LedgerRec) (s : State) : (stallAppend r s).sens = s.sens := rfl
@[simp] theorem stallAppend_day (r : LedgerRec) (s : State) : (stallAppend r s).day = s.day := rfl
@[simp] theorem stallAppend_cdx (r : LedgerRec) (s : State) : (stallAppend r s).cdx = s.cdx := rfl
@[simp] theorem stallAppend_upd (r : LedgerRec) (s : State) : (stallAppend r s).upd = s.upd := rfl
@[simp] theorem stallAppend_free (r : LedgerRec) (s : State) : (stallAppend r s).free = s.free := rfl
@[simp] theorem stallAppend_pending (r : LedgerRec) (s : State) : (stallAppend r s).pending = s.pending := rfl

/-! `dropStages` -/

@[simp] theorem dropStages_clock (s : State) : (dropStages s).clock = s.clock := rfl
@[simp] theorem dropStages_pins (s : State) : (dropStages s).pins = s.pins := rfl
@[simp] theorem dropStages_mode (s : State) : (dropStages s).mode = s.mode := rfl
@[simp] theorem dropStages_coast (s : State) : (dropStages s).coast = s.coast := rfl
@[simp] theorem dropStages_pools (s : State) : (dropStages s).pools = s.pools := rfl
@[simp] theorem dropStages_cat (s : State) : (dropStages s).cat = s.cat := rfl
@[simp] theorem dropStages_led (s : State) : (dropStages s).led = s.led := rfl
@[simp] theorem dropStages_inv (s : State) : (dropStages s).inv = s.inv := rfl
@[simp] theorem dropStages_wr (s : State) : (dropStages s).wr = s.wr := rfl
@[simp] theorem dropStages_blk (s : State) : (dropStages s).blk = s.blk := rfl
@[simp] theorem dropStages_fl (s : State) : (dropStages s).fl = s.fl := rfl
@[simp] theorem dropStages_esc (s : State) : (dropStages s).esc = s.esc := rfl
@[simp] theorem dropStages_link (s : State) : (dropStages s).link = s.link := rfl
@[simp] theorem dropStages_nv (s : State) : (dropStages s).nv = s.nv := rfl
@[simp] theorem dropStages_key (s : State) : (dropStages s).key = s.key := rfl
@[simp] theorem dropStages_pel (s : State) : (dropStages s).pel = s.pel := rfl
@[simp] theorem dropStages_ech (s : State) : (dropStages s).ech = s.ech := rfl
@[simp] theorem dropStages_dram (s : State) : (dropStages s).dram = s.dram := rfl
@[simp] theorem dropStages_lib (s : State) : (dropStages s).lib = s.lib := rfl
@[simp] theorem dropStages_sens (s : State) : (dropStages s).sens = s.sens := rfl
@[simp] theorem dropStages_day (s : State) : (dropStages s).day = s.day := rfl
@[simp] theorem dropStages_cdx (s : State) : (dropStages s).cdx = s.cdx := rfl
@[simp] theorem dropStages_free (s : State) : (dropStages s).free = s.free := rfl
@[simp] theorem dropStages_pending (s : State) : (dropStages s).pending = s.pending := rfl

/-! `dropFetched` -/

theorem dropFetched_wr (engine : Nat) (gone : Ppa → Bool) (s : State) :
    (dropFetched engine gone s).wr = { s.wr with fetched := s.wr.fetched.filter fun x => ! (x.1 = engine && gone x.2.1) } := rfl
@[simp] theorem dropFetched_clock (engine : Nat) (gone : Ppa → Bool) (s : State) : (dropFetched engine gone s).clock = s.clock := rfl
@[simp] theorem dropFetched_pins (engine : Nat) (gone : Ppa → Bool) (s : State) : (dropFetched engine gone s).pins = s.pins := rfl
@[simp] theorem dropFetched_mode (engine : Nat) (gone : Ppa → Bool) (s : State) : (dropFetched engine gone s).mode = s.mode := rfl
@[simp] theorem dropFetched_coast (engine : Nat) (gone : Ppa → Bool) (s : State) : (dropFetched engine gone s).coast = s.coast := rfl
@[simp] theorem dropFetched_pools (engine : Nat) (gone : Ppa → Bool) (s : State) : (dropFetched engine gone s).pools = s.pools := rfl
@[simp] theorem dropFetched_cat (engine : Nat) (gone : Ppa → Bool) (s : State) : (dropFetched engine gone s).cat = s.cat := rfl
@[simp] theorem dropFetched_led (engine : Nat) (gone : Ppa → Bool) (s : State) : (dropFetched engine gone s).led = s.led := rfl
@[simp] theorem dropFetched_inv (engine : Nat) (gone : Ppa → Bool) (s : State) : (dropFetched engine gone s).inv = s.inv := rfl
@[simp] theorem dropFetched_blk (engine : Nat) (gone : Ppa → Bool) (s : State) : (dropFetched engine gone s).blk = s.blk := rfl
@[simp] theorem dropFetched_fl (engine : Nat) (gone : Ppa → Bool) (s : State) : (dropFetched engine gone s).fl = s.fl := rfl
@[simp] theorem dropFetched_esc (engine : Nat) (gone : Ppa → Bool) (s : State) : (dropFetched engine gone s).esc = s.esc := rfl
@[simp] theorem dropFetched_link (engine : Nat) (gone : Ppa → Bool) (s : State) : (dropFetched engine gone s).link = s.link := rfl
@[simp] theorem dropFetched_nv (engine : Nat) (gone : Ppa → Bool) (s : State) : (dropFetched engine gone s).nv = s.nv := rfl
@[simp] theorem dropFetched_key (engine : Nat) (gone : Ppa → Bool) (s : State) : (dropFetched engine gone s).key = s.key := rfl
@[simp] theorem dropFetched_pel (engine : Nat) (gone : Ppa → Bool) (s : State) : (dropFetched engine gone s).pel = s.pel := rfl
@[simp] theorem dropFetched_ech (engine : Nat) (gone : Ppa → Bool) (s : State) : (dropFetched engine gone s).ech = s.ech := rfl
@[simp] theorem dropFetched_dram (engine : Nat) (gone : Ppa → Bool) (s : State) : (dropFetched engine gone s).dram = s.dram := rfl
@[simp] theorem dropFetched_fol (engine : Nat) (gone : Ppa → Bool) (s : State) : (dropFetched engine gone s).fol = s.fol := rfl
@[simp] theorem dropFetched_lib (engine : Nat) (gone : Ppa → Bool) (s : State) : (dropFetched engine gone s).lib = s.lib := rfl
@[simp] theorem dropFetched_sens (engine : Nat) (gone : Ppa → Bool) (s : State) : (dropFetched engine gone s).sens = s.sens := rfl
@[simp] theorem dropFetched_day (engine : Nat) (gone : Ppa → Bool) (s : State) : (dropFetched engine gone s).day = s.day := rfl
@[simp] theorem dropFetched_cdx (engine : Nat) (gone : Ppa → Bool) (s : State) : (dropFetched engine gone s).cdx = s.cdx := rfl
@[simp] theorem dropFetched_upd (engine : Nat) (gone : Ppa → Bool) (s : State) : (dropFetched engine gone s).upd = s.upd := rfl
@[simp] theorem dropFetched_free (engine : Nat) (gone : Ppa → Bool) (s : State) : (dropFetched engine gone s).free = s.free := rfl
@[simp] theorem dropFetched_pending (engine : Nat) (gone : Ppa → Bool) (s : State) : (dropFetched engine gone s).pending = s.pending := rfl

/-! `addRebuild` -/

theorem addRebuild_blk (lane : Nat) (die : Nat × Nat) (s : State) :
    (addRebuild lane die s).blk = { s.blk with
      rebuilds := if s.blk.rebuilds.any (fun x => x.lane = lane) then
          modWhere (fun x => x.lane = lane) (fun x => { x with step := 1, dies := x.dies ++ [die] })
            s.blk.rebuilds
        else s.blk.rebuilds ++ [{ lane := lane, step := 1, dies := [die] }] } := rfl
@[simp] theorem addRebuild_clock (lane : Nat) (die : Nat × Nat) (s : State) : (addRebuild lane die s).clock = s.clock := rfl
@[simp] theorem addRebuild_pins (lane : Nat) (die : Nat × Nat) (s : State) : (addRebuild lane die s).pins = s.pins := rfl
@[simp] theorem addRebuild_mode (lane : Nat) (die : Nat × Nat) (s : State) : (addRebuild lane die s).mode = s.mode := rfl
@[simp] theorem addRebuild_coast (lane : Nat) (die : Nat × Nat) (s : State) : (addRebuild lane die s).coast = s.coast := rfl
@[simp] theorem addRebuild_pools (lane : Nat) (die : Nat × Nat) (s : State) : (addRebuild lane die s).pools = s.pools := rfl
@[simp] theorem addRebuild_cat (lane : Nat) (die : Nat × Nat) (s : State) : (addRebuild lane die s).cat = s.cat := rfl
@[simp] theorem addRebuild_led (lane : Nat) (die : Nat × Nat) (s : State) : (addRebuild lane die s).led = s.led := rfl
@[simp] theorem addRebuild_inv (lane : Nat) (die : Nat × Nat) (s : State) : (addRebuild lane die s).inv = s.inv := rfl
@[simp] theorem addRebuild_wr (lane : Nat) (die : Nat × Nat) (s : State) : (addRebuild lane die s).wr = s.wr := rfl
@[simp] theorem addRebuild_fl (lane : Nat) (die : Nat × Nat) (s : State) : (addRebuild lane die s).fl = s.fl := rfl
@[simp] theorem addRebuild_esc (lane : Nat) (die : Nat × Nat) (s : State) : (addRebuild lane die s).esc = s.esc := rfl
@[simp] theorem addRebuild_link (lane : Nat) (die : Nat × Nat) (s : State) : (addRebuild lane die s).link = s.link := rfl
@[simp] theorem addRebuild_nv (lane : Nat) (die : Nat × Nat) (s : State) : (addRebuild lane die s).nv = s.nv := rfl
@[simp] theorem addRebuild_key (lane : Nat) (die : Nat × Nat) (s : State) : (addRebuild lane die s).key = s.key := rfl
@[simp] theorem addRebuild_pel (lane : Nat) (die : Nat × Nat) (s : State) : (addRebuild lane die s).pel = s.pel := rfl
@[simp] theorem addRebuild_ech (lane : Nat) (die : Nat × Nat) (s : State) : (addRebuild lane die s).ech = s.ech := rfl
@[simp] theorem addRebuild_dram (lane : Nat) (die : Nat × Nat) (s : State) : (addRebuild lane die s).dram = s.dram := rfl
@[simp] theorem addRebuild_fol (lane : Nat) (die : Nat × Nat) (s : State) : (addRebuild lane die s).fol = s.fol := rfl
@[simp] theorem addRebuild_lib (lane : Nat) (die : Nat × Nat) (s : State) : (addRebuild lane die s).lib = s.lib := rfl
@[simp] theorem addRebuild_sens (lane : Nat) (die : Nat × Nat) (s : State) : (addRebuild lane die s).sens = s.sens := rfl
@[simp] theorem addRebuild_day (lane : Nat) (die : Nat × Nat) (s : State) : (addRebuild lane die s).day = s.day := rfl
@[simp] theorem addRebuild_cdx (lane : Nat) (die : Nat × Nat) (s : State) : (addRebuild lane die s).cdx = s.cdx := rfl
@[simp] theorem addRebuild_upd (lane : Nat) (die : Nat × Nat) (s : State) : (addRebuild lane die s).upd = s.upd := rfl
@[simp] theorem addRebuild_free (lane : Nat) (die : Nat × Nat) (s : State) : (addRebuild lane die s).free = s.free := rfl
@[simp] theorem addRebuild_pending (lane : Nat) (die : Nat × Nat) (s : State) : (addRebuild lane die s).pending = s.pending := rfl

/-! `modBlk` -/

theorem modBlk_blk (n : Nat) (f : BlockEntry → BlockEntry) (s : State) :
    (modBlk n f s).blk = { s.blk with
      table := mapPut (freeEntry (inCarrel s n)) n (f (blkAt s n)) s.blk.table } := rfl
@[simp] theorem modBlk_clock (n : Nat) (f : BlockEntry → BlockEntry) (s : State) : (modBlk n f s).clock = s.clock := rfl
@[simp] theorem modBlk_pins (n : Nat) (f : BlockEntry → BlockEntry) (s : State) : (modBlk n f s).pins = s.pins := rfl
@[simp] theorem modBlk_mode (n : Nat) (f : BlockEntry → BlockEntry) (s : State) : (modBlk n f s).mode = s.mode := rfl
@[simp] theorem modBlk_coast (n : Nat) (f : BlockEntry → BlockEntry) (s : State) : (modBlk n f s).coast = s.coast := rfl
@[simp] theorem modBlk_pools (n : Nat) (f : BlockEntry → BlockEntry) (s : State) : (modBlk n f s).pools = s.pools := rfl
@[simp] theorem modBlk_cat (n : Nat) (f : BlockEntry → BlockEntry) (s : State) : (modBlk n f s).cat = s.cat := rfl
@[simp] theorem modBlk_led (n : Nat) (f : BlockEntry → BlockEntry) (s : State) : (modBlk n f s).led = s.led := rfl
@[simp] theorem modBlk_inv (n : Nat) (f : BlockEntry → BlockEntry) (s : State) : (modBlk n f s).inv = s.inv := rfl
@[simp] theorem modBlk_wr (n : Nat) (f : BlockEntry → BlockEntry) (s : State) : (modBlk n f s).wr = s.wr := rfl
@[simp] theorem modBlk_fl (n : Nat) (f : BlockEntry → BlockEntry) (s : State) : (modBlk n f s).fl = s.fl := rfl
@[simp] theorem modBlk_esc (n : Nat) (f : BlockEntry → BlockEntry) (s : State) : (modBlk n f s).esc = s.esc := rfl
@[simp] theorem modBlk_link (n : Nat) (f : BlockEntry → BlockEntry) (s : State) : (modBlk n f s).link = s.link := rfl
@[simp] theorem modBlk_nv (n : Nat) (f : BlockEntry → BlockEntry) (s : State) : (modBlk n f s).nv = s.nv := rfl
@[simp] theorem modBlk_key (n : Nat) (f : BlockEntry → BlockEntry) (s : State) : (modBlk n f s).key = s.key := rfl
@[simp] theorem modBlk_pel (n : Nat) (f : BlockEntry → BlockEntry) (s : State) : (modBlk n f s).pel = s.pel := rfl
@[simp] theorem modBlk_ech (n : Nat) (f : BlockEntry → BlockEntry) (s : State) : (modBlk n f s).ech = s.ech := rfl
@[simp] theorem modBlk_dram (n : Nat) (f : BlockEntry → BlockEntry) (s : State) : (modBlk n f s).dram = s.dram := rfl
@[simp] theorem modBlk_fol (n : Nat) (f : BlockEntry → BlockEntry) (s : State) : (modBlk n f s).fol = s.fol := rfl
@[simp] theorem modBlk_lib (n : Nat) (f : BlockEntry → BlockEntry) (s : State) : (modBlk n f s).lib = s.lib := rfl
@[simp] theorem modBlk_sens (n : Nat) (f : BlockEntry → BlockEntry) (s : State) : (modBlk n f s).sens = s.sens := rfl
@[simp] theorem modBlk_day (n : Nat) (f : BlockEntry → BlockEntry) (s : State) : (modBlk n f s).day = s.day := rfl
@[simp] theorem modBlk_cdx (n : Nat) (f : BlockEntry → BlockEntry) (s : State) : (modBlk n f s).cdx = s.cdx := rfl
@[simp] theorem modBlk_upd (n : Nat) (f : BlockEntry → BlockEntry) (s : State) : (modBlk n f s).upd = s.upd := rfl
@[simp] theorem modBlk_free (n : Nat) (f : BlockEntry → BlockEntry) (s : State) : (modBlk n f s).free = s.free := rfl
@[simp] theorem modBlk_pending (n : Nat) (f : BlockEntry → BlockEntry) (s : State) : (modBlk n f s).pending = s.pending := rfl

/-! `placeRecord` -/

theorem placeRecord_day (r : DayRec) (s : State) :
    (placeRecord r s).day = { s.day with
      next := if s.day.known then s.day.next + 1 else s.day.next
      buffer := s.day.buffer ++ [r]
      tail := tailPush r s.day.tail
      flushDue := s.day.flushDue || r.fault || r.event == 0x0004
        || s.day.buffer.length + 1 ≥ 4096 } := rfl
@[simp] theorem placeRecord_clock (r : DayRec) (s : State) : (placeRecord r s).clock = s.clock := rfl
@[simp] theorem placeRecord_pins (r : DayRec) (s : State) : (placeRecord r s).pins = s.pins := rfl
@[simp] theorem placeRecord_mode (r : DayRec) (s : State) : (placeRecord r s).mode = s.mode := rfl
@[simp] theorem placeRecord_coast (r : DayRec) (s : State) : (placeRecord r s).coast = s.coast := rfl
@[simp] theorem placeRecord_pools (r : DayRec) (s : State) : (placeRecord r s).pools = s.pools := rfl
@[simp] theorem placeRecord_cat (r : DayRec) (s : State) : (placeRecord r s).cat = s.cat := rfl
@[simp] theorem placeRecord_led (r : DayRec) (s : State) : (placeRecord r s).led = s.led := rfl
@[simp] theorem placeRecord_inv (r : DayRec) (s : State) : (placeRecord r s).inv = s.inv := rfl
@[simp] theorem placeRecord_wr (r : DayRec) (s : State) : (placeRecord r s).wr = s.wr := rfl
@[simp] theorem placeRecord_blk (r : DayRec) (s : State) : (placeRecord r s).blk = s.blk := rfl
@[simp] theorem placeRecord_fl (r : DayRec) (s : State) : (placeRecord r s).fl = s.fl := rfl
@[simp] theorem placeRecord_esc (r : DayRec) (s : State) : (placeRecord r s).esc = s.esc := rfl
@[simp] theorem placeRecord_link (r : DayRec) (s : State) : (placeRecord r s).link = s.link := rfl
@[simp] theorem placeRecord_nv (r : DayRec) (s : State) : (placeRecord r s).nv = s.nv := rfl
@[simp] theorem placeRecord_key (r : DayRec) (s : State) : (placeRecord r s).key = s.key := rfl
@[simp] theorem placeRecord_pel (r : DayRec) (s : State) : (placeRecord r s).pel = s.pel := rfl
@[simp] theorem placeRecord_ech (r : DayRec) (s : State) : (placeRecord r s).ech = s.ech := rfl
@[simp] theorem placeRecord_dram (r : DayRec) (s : State) : (placeRecord r s).dram = s.dram := rfl
@[simp] theorem placeRecord_fol (r : DayRec) (s : State) : (placeRecord r s).fol = s.fol := rfl
@[simp] theorem placeRecord_lib (r : DayRec) (s : State) : (placeRecord r s).lib = s.lib := rfl
@[simp] theorem placeRecord_sens (r : DayRec) (s : State) : (placeRecord r s).sens = s.sens := rfl
@[simp] theorem placeRecord_cdx (r : DayRec) (s : State) : (placeRecord r s).cdx = s.cdx := rfl
@[simp] theorem placeRecord_upd (r : DayRec) (s : State) : (placeRecord r s).upd = s.upd := rfl
@[simp] theorem placeRecord_free (r : DayRec) (s : State) : (placeRecord r s).free = s.free := rfl
@[simp] theorem placeRecord_pending (r : DayRec) (s : State) : (placeRecord r s).pending = s.pending := rfl

/-! `stallRecord` -/

theorem stallRecord_day (r : DayRec) (s : State) :
    (stallRecord r s).day = { s.day with stalled := s.day.stalled ++ [r], sticky := s.day.sticky ||| 0x20 } := rfl
@[simp] theorem stallRecord_clock (r : DayRec) (s : State) : (stallRecord r s).clock = s.clock := rfl
@[simp] theorem stallRecord_pins (r : DayRec) (s : State) : (stallRecord r s).pins = s.pins := rfl
@[simp] theorem stallRecord_mode (r : DayRec) (s : State) : (stallRecord r s).mode = s.mode := rfl
@[simp] theorem stallRecord_coast (r : DayRec) (s : State) : (stallRecord r s).coast = s.coast := rfl
@[simp] theorem stallRecord_pools (r : DayRec) (s : State) : (stallRecord r s).pools = s.pools := rfl
@[simp] theorem stallRecord_cat (r : DayRec) (s : State) : (stallRecord r s).cat = s.cat := rfl
@[simp] theorem stallRecord_led (r : DayRec) (s : State) : (stallRecord r s).led = s.led := rfl
@[simp] theorem stallRecord_inv (r : DayRec) (s : State) : (stallRecord r s).inv = s.inv := rfl
@[simp] theorem stallRecord_wr (r : DayRec) (s : State) : (stallRecord r s).wr = s.wr := rfl
@[simp] theorem stallRecord_blk (r : DayRec) (s : State) : (stallRecord r s).blk = s.blk := rfl
@[simp] theorem stallRecord_fl (r : DayRec) (s : State) : (stallRecord r s).fl = s.fl := rfl
@[simp] theorem stallRecord_esc (r : DayRec) (s : State) : (stallRecord r s).esc = s.esc := rfl
@[simp] theorem stallRecord_link (r : DayRec) (s : State) : (stallRecord r s).link = s.link := rfl
@[simp] theorem stallRecord_nv (r : DayRec) (s : State) : (stallRecord r s).nv = s.nv := rfl
@[simp] theorem stallRecord_key (r : DayRec) (s : State) : (stallRecord r s).key = s.key := rfl
@[simp] theorem stallRecord_pel (r : DayRec) (s : State) : (stallRecord r s).pel = s.pel := rfl
@[simp] theorem stallRecord_ech (r : DayRec) (s : State) : (stallRecord r s).ech = s.ech := rfl
@[simp] theorem stallRecord_dram (r : DayRec) (s : State) : (stallRecord r s).dram = s.dram := rfl
@[simp] theorem stallRecord_fol (r : DayRec) (s : State) : (stallRecord r s).fol = s.fol := rfl
@[simp] theorem stallRecord_lib (r : DayRec) (s : State) : (stallRecord r s).lib = s.lib := rfl
@[simp] theorem stallRecord_sens (r : DayRec) (s : State) : (stallRecord r s).sens = s.sens := rfl
@[simp] theorem stallRecord_cdx (r : DayRec) (s : State) : (stallRecord r s).cdx = s.cdx := rfl
@[simp] theorem stallRecord_upd (r : DayRec) (s : State) : (stallRecord r s).upd = s.upd := rfl
@[simp] theorem stallRecord_free (r : DayRec) (s : State) : (stallRecord r s).free = s.free := rfl
@[simp] theorem stallRecord_pending (r : DayRec) (s : State) : (stallRecord r s).pending = s.pending := rfl

/-! `leaveIdle` -/

@[simp] theorem leaveIdle_clock (s : State) : (leaveIdle s).clock = s.clock := rfl
@[simp] theorem leaveIdle_pins (s : State) : (leaveIdle s).pins = s.pins := rfl
@[simp] theorem leaveIdle_coast (s : State) : (leaveIdle s).coast = s.coast := rfl
@[simp] theorem leaveIdle_pools (s : State) : (leaveIdle s).pools = s.pools := rfl
@[simp] theorem leaveIdle_cat (s : State) : (leaveIdle s).cat = s.cat := rfl
@[simp] theorem leaveIdle_led (s : State) : (leaveIdle s).led = s.led := rfl
@[simp] theorem leaveIdle_inv (s : State) : (leaveIdle s).inv = s.inv := rfl
@[simp] theorem leaveIdle_wr (s : State) : (leaveIdle s).wr = s.wr := rfl
@[simp] theorem leaveIdle_blk (s : State) : (leaveIdle s).blk = s.blk := rfl
@[simp] theorem leaveIdle_fl (s : State) : (leaveIdle s).fl = s.fl := rfl
@[simp] theorem leaveIdle_esc (s : State) : (leaveIdle s).esc = s.esc := rfl
@[simp] theorem leaveIdle_nv (s : State) : (leaveIdle s).nv = s.nv := rfl
@[simp] theorem leaveIdle_key (s : State) : (leaveIdle s).key = s.key := rfl
@[simp] theorem leaveIdle_pel (s : State) : (leaveIdle s).pel = s.pel := rfl
@[simp] theorem leaveIdle_ech (s : State) : (leaveIdle s).ech = s.ech := rfl
@[simp] theorem leaveIdle_fol (s : State) : (leaveIdle s).fol = s.fol := rfl
@[simp] theorem leaveIdle_lib (s : State) : (leaveIdle s).lib = s.lib := rfl
@[simp] theorem leaveIdle_sens (s : State) : (leaveIdle s).sens = s.sens := rfl
@[simp] theorem leaveIdle_day (s : State) : (leaveIdle s).day = s.day := rfl
@[simp] theorem leaveIdle_cdx (s : State) : (leaveIdle s).cdx = s.cdx := rfl
@[simp] theorem leaveIdle_upd (s : State) : (leaveIdle s).upd = s.upd := rfl
@[simp] theorem leaveIdle_free (s : State) : (leaveIdle s).free = s.free := rfl
@[simp] theorem leaveIdle_pending (s : State) : (leaveIdle s).pending = s.pending := rfl

/-! `modCmd` -/

theorem modCmd_nv (n : Nat) (f : Cmd → Cmd) (s : State) :
    (modCmd n f s).nv = { s.nv with cmds := modWhere (fun c => c.slot = n) f s.nv.cmds } := rfl
@[simp] theorem modCmd_clock (n : Nat) (f : Cmd → Cmd) (s : State) : (modCmd n f s).clock = s.clock := rfl
@[simp] theorem modCmd_pins (n : Nat) (f : Cmd → Cmd) (s : State) : (modCmd n f s).pins = s.pins := rfl
@[simp] theorem modCmd_mode (n : Nat) (f : Cmd → Cmd) (s : State) : (modCmd n f s).mode = s.mode := rfl
@[simp] theorem modCmd_coast (n : Nat) (f : Cmd → Cmd) (s : State) : (modCmd n f s).coast = s.coast := rfl
@[simp] theorem modCmd_pools (n : Nat) (f : Cmd → Cmd) (s : State) : (modCmd n f s).pools = s.pools := rfl
@[simp] theorem modCmd_cat (n : Nat) (f : Cmd → Cmd) (s : State) : (modCmd n f s).cat = s.cat := rfl
@[simp] theorem modCmd_led (n : Nat) (f : Cmd → Cmd) (s : State) : (modCmd n f s).led = s.led := rfl
@[simp] theorem modCmd_inv (n : Nat) (f : Cmd → Cmd) (s : State) : (modCmd n f s).inv = s.inv := rfl
@[simp] theorem modCmd_wr (n : Nat) (f : Cmd → Cmd) (s : State) : (modCmd n f s).wr = s.wr := rfl
@[simp] theorem modCmd_blk (n : Nat) (f : Cmd → Cmd) (s : State) : (modCmd n f s).blk = s.blk := rfl
@[simp] theorem modCmd_fl (n : Nat) (f : Cmd → Cmd) (s : State) : (modCmd n f s).fl = s.fl := rfl
@[simp] theorem modCmd_esc (n : Nat) (f : Cmd → Cmd) (s : State) : (modCmd n f s).esc = s.esc := rfl
@[simp] theorem modCmd_link (n : Nat) (f : Cmd → Cmd) (s : State) : (modCmd n f s).link = s.link := rfl
@[simp] theorem modCmd_key (n : Nat) (f : Cmd → Cmd) (s : State) : (modCmd n f s).key = s.key := rfl
@[simp] theorem modCmd_pel (n : Nat) (f : Cmd → Cmd) (s : State) : (modCmd n f s).pel = s.pel := rfl
@[simp] theorem modCmd_ech (n : Nat) (f : Cmd → Cmd) (s : State) : (modCmd n f s).ech = s.ech := rfl
@[simp] theorem modCmd_dram (n : Nat) (f : Cmd → Cmd) (s : State) : (modCmd n f s).dram = s.dram := rfl
@[simp] theorem modCmd_fol (n : Nat) (f : Cmd → Cmd) (s : State) : (modCmd n f s).fol = s.fol := rfl
@[simp] theorem modCmd_lib (n : Nat) (f : Cmd → Cmd) (s : State) : (modCmd n f s).lib = s.lib := rfl
@[simp] theorem modCmd_sens (n : Nat) (f : Cmd → Cmd) (s : State) : (modCmd n f s).sens = s.sens := rfl
@[simp] theorem modCmd_day (n : Nat) (f : Cmd → Cmd) (s : State) : (modCmd n f s).day = s.day := rfl
@[simp] theorem modCmd_cdx (n : Nat) (f : Cmd → Cmd) (s : State) : (modCmd n f s).cdx = s.cdx := rfl
@[simp] theorem modCmd_upd (n : Nat) (f : Cmd → Cmd) (s : State) : (modCmd n f s).upd = s.upd := rfl
@[simp] theorem modCmd_free (n : Nat) (f : Cmd → Cmd) (s : State) : (modCmd n f s).free = s.free := rfl
@[simp] theorem modCmd_pending (n : Nat) (f : Cmd → Cmd) (s : State) : (modCmd n f s).pending = s.pending := rfl

/-! `countC1` -/

theorem countC1_nv (n : Nat) (s : State) :
    (countC1 n s).nv = { s.nv with c1 := modAt n (fun c => sat64 (c + 1)) s.nv.c1 } := rfl
@[simp] theorem countC1_clock (n : Nat) (s : State) : (countC1 n s).clock = s.clock := rfl
@[simp] theorem countC1_pins (n : Nat) (s : State) : (countC1 n s).pins = s.pins := rfl
@[simp] theorem countC1_mode (n : Nat) (s : State) : (countC1 n s).mode = s.mode := rfl
@[simp] theorem countC1_coast (n : Nat) (s : State) : (countC1 n s).coast = s.coast := rfl
@[simp] theorem countC1_pools (n : Nat) (s : State) : (countC1 n s).pools = s.pools := rfl
@[simp] theorem countC1_cat (n : Nat) (s : State) : (countC1 n s).cat = s.cat := rfl
@[simp] theorem countC1_led (n : Nat) (s : State) : (countC1 n s).led = s.led := rfl
@[simp] theorem countC1_inv (n : Nat) (s : State) : (countC1 n s).inv = s.inv := rfl
@[simp] theorem countC1_wr (n : Nat) (s : State) : (countC1 n s).wr = s.wr := rfl
@[simp] theorem countC1_blk (n : Nat) (s : State) : (countC1 n s).blk = s.blk := rfl
@[simp] theorem countC1_fl (n : Nat) (s : State) : (countC1 n s).fl = s.fl := rfl
@[simp] theorem countC1_esc (n : Nat) (s : State) : (countC1 n s).esc = s.esc := rfl
@[simp] theorem countC1_link (n : Nat) (s : State) : (countC1 n s).link = s.link := rfl
@[simp] theorem countC1_key (n : Nat) (s : State) : (countC1 n s).key = s.key := rfl
@[simp] theorem countC1_pel (n : Nat) (s : State) : (countC1 n s).pel = s.pel := rfl
@[simp] theorem countC1_ech (n : Nat) (s : State) : (countC1 n s).ech = s.ech := rfl
@[simp] theorem countC1_dram (n : Nat) (s : State) : (countC1 n s).dram = s.dram := rfl
@[simp] theorem countC1_fol (n : Nat) (s : State) : (countC1 n s).fol = s.fol := rfl
@[simp] theorem countC1_lib (n : Nat) (s : State) : (countC1 n s).lib = s.lib := rfl
@[simp] theorem countC1_sens (n : Nat) (s : State) : (countC1 n s).sens = s.sens := rfl
@[simp] theorem countC1_day (n : Nat) (s : State) : (countC1 n s).day = s.day := rfl
@[simp] theorem countC1_cdx (n : Nat) (s : State) : (countC1 n s).cdx = s.cdx := rfl
@[simp] theorem countC1_upd (n : Nat) (s : State) : (countC1 n s).upd = s.upd := rfl
@[simp] theorem countC1_free (n : Nat) (s : State) : (countC1 n s).free = s.free := rfl
@[simp] theorem countC1_pending (n : Nat) (s : State) : (countC1 n s).pending = s.pending := rfl

/-! `drawFree` -/

theorem drawFree_free (s : State) :
    (drawFree s).free = s.free + 1 := rfl
@[simp] theorem drawFree_clock (s : State) : (drawFree s).clock = s.clock := rfl
@[simp] theorem drawFree_pins (s : State) : (drawFree s).pins = s.pins := rfl
@[simp] theorem drawFree_mode (s : State) : (drawFree s).mode = s.mode := rfl
@[simp] theorem drawFree_coast (s : State) : (drawFree s).coast = s.coast := rfl
@[simp] theorem drawFree_pools (s : State) : (drawFree s).pools = s.pools := rfl
@[simp] theorem drawFree_cat (s : State) : (drawFree s).cat = s.cat := rfl
@[simp] theorem drawFree_led (s : State) : (drawFree s).led = s.led := rfl
@[simp] theorem drawFree_inv (s : State) : (drawFree s).inv = s.inv := rfl
@[simp] theorem drawFree_wr (s : State) : (drawFree s).wr = s.wr := rfl
@[simp] theorem drawFree_blk (s : State) : (drawFree s).blk = s.blk := rfl
@[simp] theorem drawFree_fl (s : State) : (drawFree s).fl = s.fl := rfl
@[simp] theorem drawFree_esc (s : State) : (drawFree s).esc = s.esc := rfl
@[simp] theorem drawFree_link (s : State) : (drawFree s).link = s.link := rfl
@[simp] theorem drawFree_nv (s : State) : (drawFree s).nv = s.nv := rfl
@[simp] theorem drawFree_key (s : State) : (drawFree s).key = s.key := rfl
@[simp] theorem drawFree_pel (s : State) : (drawFree s).pel = s.pel := rfl
@[simp] theorem drawFree_ech (s : State) : (drawFree s).ech = s.ech := rfl
@[simp] theorem drawFree_dram (s : State) : (drawFree s).dram = s.dram := rfl
@[simp] theorem drawFree_fol (s : State) : (drawFree s).fol = s.fol := rfl
@[simp] theorem drawFree_lib (s : State) : (drawFree s).lib = s.lib := rfl
@[simp] theorem drawFree_sens (s : State) : (drawFree s).sens = s.sens := rfl
@[simp] theorem drawFree_day (s : State) : (drawFree s).day = s.day := rfl
@[simp] theorem drawFree_cdx (s : State) : (drawFree s).cdx = s.cdx := rfl
@[simp] theorem drawFree_upd (s : State) : (drawFree s).upd = s.upd := rfl
@[simp] theorem drawFree_pending (s : State) : (drawFree s).pending = s.pending := rfl

/-! `saveLogs` -/

theorem saveLogs_nv (s : State) :
    (saveLogs s).nv = { s.nv with saved := logCounts s } := rfl
@[simp] theorem saveLogs_clock (s : State) : (saveLogs s).clock = s.clock := rfl
@[simp] theorem saveLogs_pins (s : State) : (saveLogs s).pins = s.pins := rfl
@[simp] theorem saveLogs_mode (s : State) : (saveLogs s).mode = s.mode := rfl
@[simp] theorem saveLogs_coast (s : State) : (saveLogs s).coast = s.coast := rfl
@[simp] theorem saveLogs_pools (s : State) : (saveLogs s).pools = s.pools := rfl
@[simp] theorem saveLogs_cat (s : State) : (saveLogs s).cat = s.cat := rfl
@[simp] theorem saveLogs_led (s : State) : (saveLogs s).led = s.led := rfl
@[simp] theorem saveLogs_inv (s : State) : (saveLogs s).inv = s.inv := rfl
@[simp] theorem saveLogs_wr (s : State) : (saveLogs s).wr = s.wr := rfl
@[simp] theorem saveLogs_blk (s : State) : (saveLogs s).blk = s.blk := rfl
@[simp] theorem saveLogs_fl (s : State) : (saveLogs s).fl = s.fl := rfl
@[simp] theorem saveLogs_esc (s : State) : (saveLogs s).esc = s.esc := rfl
@[simp] theorem saveLogs_link (s : State) : (saveLogs s).link = s.link := rfl
@[simp] theorem saveLogs_key (s : State) : (saveLogs s).key = s.key := rfl
@[simp] theorem saveLogs_pel (s : State) : (saveLogs s).pel = s.pel := rfl
@[simp] theorem saveLogs_ech (s : State) : (saveLogs s).ech = s.ech := rfl
@[simp] theorem saveLogs_dram (s : State) : (saveLogs s).dram = s.dram := rfl
@[simp] theorem saveLogs_fol (s : State) : (saveLogs s).fol = s.fol := rfl
@[simp] theorem saveLogs_lib (s : State) : (saveLogs s).lib = s.lib := rfl
@[simp] theorem saveLogs_sens (s : State) : (saveLogs s).sens = s.sens := rfl
@[simp] theorem saveLogs_day (s : State) : (saveLogs s).day = s.day := rfl
@[simp] theorem saveLogs_cdx (s : State) : (saveLogs s).cdx = s.cdx := rfl
@[simp] theorem saveLogs_upd (s : State) : (saveLogs s).upd = s.upd := rfl
@[simp] theorem saveLogs_free (s : State) : (saveLogs s).free = s.free := rfl
@[simp] theorem saveLogs_pending (s : State) : (saveLogs s).pending = s.pending := rfl

/-! `modPort` -/

theorem modPort_pel (p : Nat) (f : Port → Port) (s : State) :
    (modPort p f s).pel = { s.pel with ports := modAt p f s.pel.ports } := rfl
@[simp] theorem modPort_clock (p : Nat) (f : Port → Port) (s : State) : (modPort p f s).clock = s.clock := rfl
@[simp] theorem modPort_pins (p : Nat) (f : Port → Port) (s : State) : (modPort p f s).pins = s.pins := rfl
@[simp] theorem modPort_mode (p : Nat) (f : Port → Port) (s : State) : (modPort p f s).mode = s.mode := rfl
@[simp] theorem modPort_coast (p : Nat) (f : Port → Port) (s : State) : (modPort p f s).coast = s.coast := rfl
@[simp] theorem modPort_pools (p : Nat) (f : Port → Port) (s : State) : (modPort p f s).pools = s.pools := rfl
@[simp] theorem modPort_cat (p : Nat) (f : Port → Port) (s : State) : (modPort p f s).cat = s.cat := rfl
@[simp] theorem modPort_led (p : Nat) (f : Port → Port) (s : State) : (modPort p f s).led = s.led := rfl
@[simp] theorem modPort_inv (p : Nat) (f : Port → Port) (s : State) : (modPort p f s).inv = s.inv := rfl
@[simp] theorem modPort_wr (p : Nat) (f : Port → Port) (s : State) : (modPort p f s).wr = s.wr := rfl
@[simp] theorem modPort_blk (p : Nat) (f : Port → Port) (s : State) : (modPort p f s).blk = s.blk := rfl
@[simp] theorem modPort_fl (p : Nat) (f : Port → Port) (s : State) : (modPort p f s).fl = s.fl := rfl
@[simp] theorem modPort_esc (p : Nat) (f : Port → Port) (s : State) : (modPort p f s).esc = s.esc := rfl
@[simp] theorem modPort_link (p : Nat) (f : Port → Port) (s : State) : (modPort p f s).link = s.link := rfl
@[simp] theorem modPort_nv (p : Nat) (f : Port → Port) (s : State) : (modPort p f s).nv = s.nv := rfl
@[simp] theorem modPort_key (p : Nat) (f : Port → Port) (s : State) : (modPort p f s).key = s.key := rfl
@[simp] theorem modPort_ech (p : Nat) (f : Port → Port) (s : State) : (modPort p f s).ech = s.ech := rfl
@[simp] theorem modPort_dram (p : Nat) (f : Port → Port) (s : State) : (modPort p f s).dram = s.dram := rfl
@[simp] theorem modPort_fol (p : Nat) (f : Port → Port) (s : State) : (modPort p f s).fol = s.fol := rfl
@[simp] theorem modPort_lib (p : Nat) (f : Port → Port) (s : State) : (modPort p f s).lib = s.lib := rfl
@[simp] theorem modPort_sens (p : Nat) (f : Port → Port) (s : State) : (modPort p f s).sens = s.sens := rfl
@[simp] theorem modPort_day (p : Nat) (f : Port → Port) (s : State) : (modPort p f s).day = s.day := rfl
@[simp] theorem modPort_cdx (p : Nat) (f : Port → Port) (s : State) : (modPort p f s).cdx = s.cdx := rfl
@[simp] theorem modPort_upd (p : Nat) (f : Port → Port) (s : State) : (modPort p f s).upd = s.upd := rfl
@[simp] theorem modPort_free (p : Nat) (f : Port → Port) (s : State) : (modPort p f s).free = s.free := rfl
@[simp] theorem modPort_pending (p : Nat) (f : Port → Port) (s : State) : (modPort p f s).pending = s.pending := rfl

/-! `countUnroute` -/

theorem countUnroute_pel (s : State) :
    (countUnroute s).pel = { s.pel with unroute := sat32 (s.pel.unroute + 1) } := rfl
@[simp] theorem countUnroute_clock (s : State) : (countUnroute s).clock = s.clock := rfl
@[simp] theorem countUnroute_pins (s : State) : (countUnroute s).pins = s.pins := rfl
@[simp] theorem countUnroute_mode (s : State) : (countUnroute s).mode = s.mode := rfl
@[simp] theorem countUnroute_coast (s : State) : (countUnroute s).coast = s.coast := rfl
@[simp] theorem countUnroute_pools (s : State) : (countUnroute s).pools = s.pools := rfl
@[simp] theorem countUnroute_cat (s : State) : (countUnroute s).cat = s.cat := rfl
@[simp] theorem countUnroute_led (s : State) : (countUnroute s).led = s.led := rfl
@[simp] theorem countUnroute_inv (s : State) : (countUnroute s).inv = s.inv := rfl
@[simp] theorem countUnroute_wr (s : State) : (countUnroute s).wr = s.wr := rfl
@[simp] theorem countUnroute_blk (s : State) : (countUnroute s).blk = s.blk := rfl
@[simp] theorem countUnroute_fl (s : State) : (countUnroute s).fl = s.fl := rfl
@[simp] theorem countUnroute_esc (s : State) : (countUnroute s).esc = s.esc := rfl
@[simp] theorem countUnroute_link (s : State) : (countUnroute s).link = s.link := rfl
@[simp] theorem countUnroute_nv (s : State) : (countUnroute s).nv = s.nv := rfl
@[simp] theorem countUnroute_key (s : State) : (countUnroute s).key = s.key := rfl
@[simp] theorem countUnroute_ech (s : State) : (countUnroute s).ech = s.ech := rfl
@[simp] theorem countUnroute_dram (s : State) : (countUnroute s).dram = s.dram := rfl
@[simp] theorem countUnroute_fol (s : State) : (countUnroute s).fol = s.fol := rfl
@[simp] theorem countUnroute_lib (s : State) : (countUnroute s).lib = s.lib := rfl
@[simp] theorem countUnroute_sens (s : State) : (countUnroute s).sens = s.sens := rfl
@[simp] theorem countUnroute_day (s : State) : (countUnroute s).day = s.day := rfl
@[simp] theorem countUnroute_cdx (s : State) : (countUnroute s).cdx = s.cdx := rfl
@[simp] theorem countUnroute_upd (s : State) : (countUnroute s).upd = s.upd := rfl
@[simp] theorem countUnroute_free (s : State) : (countUnroute s).free = s.free := rfl
@[simp] theorem countUnroute_pending (s : State) : (countUnroute s).pending = s.pending := rfl

/-! `enqueue` -/

theorem enqueue_pel (port req : Nat) (h : PacketHdr) (b : PktBody) (whole : Bool) (s : State) :
    (enqueue port req h b whole s).pel = { s.pel with
      nextPkt := s.pel.nextPkt + 1
      send := s.pel.send ++
        [{ id := s.pel.nextPkt, port := port, req := req, hdr := h, body := b,
           total := flitsOf (portAt s port).level1 b, sent := 0, whole := whole }] } := rfl
@[simp] theorem enqueue_clock (port req : Nat) (h : PacketHdr) (b : PktBody) (whole : Bool) (s : State) : (enqueue port req h b whole s).clock = s.clock := rfl
@[simp] theorem enqueue_pins (port req : Nat) (h : PacketHdr) (b : PktBody) (whole : Bool) (s : State) : (enqueue port req h b whole s).pins = s.pins := rfl
@[simp] theorem enqueue_mode (port req : Nat) (h : PacketHdr) (b : PktBody) (whole : Bool) (s : State) : (enqueue port req h b whole s).mode = s.mode := rfl
@[simp] theorem enqueue_coast (port req : Nat) (h : PacketHdr) (b : PktBody) (whole : Bool) (s : State) : (enqueue port req h b whole s).coast = s.coast := rfl
@[simp] theorem enqueue_pools (port req : Nat) (h : PacketHdr) (b : PktBody) (whole : Bool) (s : State) : (enqueue port req h b whole s).pools = s.pools := rfl
@[simp] theorem enqueue_cat (port req : Nat) (h : PacketHdr) (b : PktBody) (whole : Bool) (s : State) : (enqueue port req h b whole s).cat = s.cat := rfl
@[simp] theorem enqueue_led (port req : Nat) (h : PacketHdr) (b : PktBody) (whole : Bool) (s : State) : (enqueue port req h b whole s).led = s.led := rfl
@[simp] theorem enqueue_inv (port req : Nat) (h : PacketHdr) (b : PktBody) (whole : Bool) (s : State) : (enqueue port req h b whole s).inv = s.inv := rfl
@[simp] theorem enqueue_wr (port req : Nat) (h : PacketHdr) (b : PktBody) (whole : Bool) (s : State) : (enqueue port req h b whole s).wr = s.wr := rfl
@[simp] theorem enqueue_blk (port req : Nat) (h : PacketHdr) (b : PktBody) (whole : Bool) (s : State) : (enqueue port req h b whole s).blk = s.blk := rfl
@[simp] theorem enqueue_fl (port req : Nat) (h : PacketHdr) (b : PktBody) (whole : Bool) (s : State) : (enqueue port req h b whole s).fl = s.fl := rfl
@[simp] theorem enqueue_esc (port req : Nat) (h : PacketHdr) (b : PktBody) (whole : Bool) (s : State) : (enqueue port req h b whole s).esc = s.esc := rfl
@[simp] theorem enqueue_link (port req : Nat) (h : PacketHdr) (b : PktBody) (whole : Bool) (s : State) : (enqueue port req h b whole s).link = s.link := rfl
@[simp] theorem enqueue_nv (port req : Nat) (h : PacketHdr) (b : PktBody) (whole : Bool) (s : State) : (enqueue port req h b whole s).nv = s.nv := rfl
@[simp] theorem enqueue_key (port req : Nat) (h : PacketHdr) (b : PktBody) (whole : Bool) (s : State) : (enqueue port req h b whole s).key = s.key := rfl
@[simp] theorem enqueue_ech (port req : Nat) (h : PacketHdr) (b : PktBody) (whole : Bool) (s : State) : (enqueue port req h b whole s).ech = s.ech := rfl
@[simp] theorem enqueue_dram (port req : Nat) (h : PacketHdr) (b : PktBody) (whole : Bool) (s : State) : (enqueue port req h b whole s).dram = s.dram := rfl
@[simp] theorem enqueue_fol (port req : Nat) (h : PacketHdr) (b : PktBody) (whole : Bool) (s : State) : (enqueue port req h b whole s).fol = s.fol := rfl
@[simp] theorem enqueue_lib (port req : Nat) (h : PacketHdr) (b : PktBody) (whole : Bool) (s : State) : (enqueue port req h b whole s).lib = s.lib := rfl
@[simp] theorem enqueue_sens (port req : Nat) (h : PacketHdr) (b : PktBody) (whole : Bool) (s : State) : (enqueue port req h b whole s).sens = s.sens := rfl
@[simp] theorem enqueue_day (port req : Nat) (h : PacketHdr) (b : PktBody) (whole : Bool) (s : State) : (enqueue port req h b whole s).day = s.day := rfl
@[simp] theorem enqueue_cdx (port req : Nat) (h : PacketHdr) (b : PktBody) (whole : Bool) (s : State) : (enqueue port req h b whole s).cdx = s.cdx := rfl
@[simp] theorem enqueue_upd (port req : Nat) (h : PacketHdr) (b : PktBody) (whole : Bool) (s : State) : (enqueue port req h b whole s).upd = s.upd := rfl
@[simp] theorem enqueue_free (port req : Nat) (h : PacketHdr) (b : PktBody) (whole : Bool) (s : State) : (enqueue port req h b whole s).free = s.free := rfl
@[simp] theorem enqueue_pending (port req : Nat) (h : PacketHdr) (b : PktBody) (whole : Bool) (s : State) : (enqueue port req h b whole s).pending = s.pending := rfl

/-! `modEgress` -/

theorem modEgress_pel (p : Nat) (f : Egress → Egress) (s : State) :
    (modEgress p f s).pel = { s.pel with
      egress := (List.range 5).map fun i => if i = p then f (egressAt s i) else egressAt s i } := rfl
@[simp] theorem modEgress_clock (p : Nat) (f : Egress → Egress) (s : State) : (modEgress p f s).clock = s.clock := rfl
@[simp] theorem modEgress_pins (p : Nat) (f : Egress → Egress) (s : State) : (modEgress p f s).pins = s.pins := rfl
@[simp] theorem modEgress_mode (p : Nat) (f : Egress → Egress) (s : State) : (modEgress p f s).mode = s.mode := rfl
@[simp] theorem modEgress_coast (p : Nat) (f : Egress → Egress) (s : State) : (modEgress p f s).coast = s.coast := rfl
@[simp] theorem modEgress_pools (p : Nat) (f : Egress → Egress) (s : State) : (modEgress p f s).pools = s.pools := rfl
@[simp] theorem modEgress_cat (p : Nat) (f : Egress → Egress) (s : State) : (modEgress p f s).cat = s.cat := rfl
@[simp] theorem modEgress_led (p : Nat) (f : Egress → Egress) (s : State) : (modEgress p f s).led = s.led := rfl
@[simp] theorem modEgress_inv (p : Nat) (f : Egress → Egress) (s : State) : (modEgress p f s).inv = s.inv := rfl
@[simp] theorem modEgress_wr (p : Nat) (f : Egress → Egress) (s : State) : (modEgress p f s).wr = s.wr := rfl
@[simp] theorem modEgress_blk (p : Nat) (f : Egress → Egress) (s : State) : (modEgress p f s).blk = s.blk := rfl
@[simp] theorem modEgress_fl (p : Nat) (f : Egress → Egress) (s : State) : (modEgress p f s).fl = s.fl := rfl
@[simp] theorem modEgress_esc (p : Nat) (f : Egress → Egress) (s : State) : (modEgress p f s).esc = s.esc := rfl
@[simp] theorem modEgress_link (p : Nat) (f : Egress → Egress) (s : State) : (modEgress p f s).link = s.link := rfl
@[simp] theorem modEgress_nv (p : Nat) (f : Egress → Egress) (s : State) : (modEgress p f s).nv = s.nv := rfl
@[simp] theorem modEgress_key (p : Nat) (f : Egress → Egress) (s : State) : (modEgress p f s).key = s.key := rfl
@[simp] theorem modEgress_ech (p : Nat) (f : Egress → Egress) (s : State) : (modEgress p f s).ech = s.ech := rfl
@[simp] theorem modEgress_dram (p : Nat) (f : Egress → Egress) (s : State) : (modEgress p f s).dram = s.dram := rfl
@[simp] theorem modEgress_fol (p : Nat) (f : Egress → Egress) (s : State) : (modEgress p f s).fol = s.fol := rfl
@[simp] theorem modEgress_lib (p : Nat) (f : Egress → Egress) (s : State) : (modEgress p f s).lib = s.lib := rfl
@[simp] theorem modEgress_sens (p : Nat) (f : Egress → Egress) (s : State) : (modEgress p f s).sens = s.sens := rfl
@[simp] theorem modEgress_day (p : Nat) (f : Egress → Egress) (s : State) : (modEgress p f s).day = s.day := rfl
@[simp] theorem modEgress_cdx (p : Nat) (f : Egress → Egress) (s : State) : (modEgress p f s).cdx = s.cdx := rfl
@[simp] theorem modEgress_upd (p : Nat) (f : Egress → Egress) (s : State) : (modEgress p f s).upd = s.upd := rfl
@[simp] theorem modEgress_free (p : Nat) (f : Egress → Egress) (s : State) : (modEgress p f s).free = s.free := rfl
@[simp] theorem modEgress_pending (p : Nat) (f : Egress → Egress) (s : State) : (modEgress p f s).pending = s.pending := rfl

/-! `setOverflow` -/

theorem setOverflow_wr (s : State) :
    (setOverflow s).wr = { s.wr with overflow := overflowNow s } := rfl
@[simp] theorem setOverflow_clock (s : State) : (setOverflow s).clock = s.clock := rfl
@[simp] theorem setOverflow_pins (s : State) : (setOverflow s).pins = s.pins := rfl
@[simp] theorem setOverflow_mode (s : State) : (setOverflow s).mode = s.mode := rfl
@[simp] theorem setOverflow_coast (s : State) : (setOverflow s).coast = s.coast := rfl
@[simp] theorem setOverflow_pools (s : State) : (setOverflow s).pools = s.pools := rfl
@[simp] theorem setOverflow_cat (s : State) : (setOverflow s).cat = s.cat := rfl
@[simp] theorem setOverflow_led (s : State) : (setOverflow s).led = s.led := rfl
@[simp] theorem setOverflow_inv (s : State) : (setOverflow s).inv = s.inv := rfl
@[simp] theorem setOverflow_blk (s : State) : (setOverflow s).blk = s.blk := rfl
@[simp] theorem setOverflow_fl (s : State) : (setOverflow s).fl = s.fl := rfl
@[simp] theorem setOverflow_esc (s : State) : (setOverflow s).esc = s.esc := rfl
@[simp] theorem setOverflow_link (s : State) : (setOverflow s).link = s.link := rfl
@[simp] theorem setOverflow_nv (s : State) : (setOverflow s).nv = s.nv := rfl
@[simp] theorem setOverflow_key (s : State) : (setOverflow s).key = s.key := rfl
@[simp] theorem setOverflow_pel (s : State) : (setOverflow s).pel = s.pel := rfl
@[simp] theorem setOverflow_ech (s : State) : (setOverflow s).ech = s.ech := rfl
@[simp] theorem setOverflow_dram (s : State) : (setOverflow s).dram = s.dram := rfl
@[simp] theorem setOverflow_fol (s : State) : (setOverflow s).fol = s.fol := rfl
@[simp] theorem setOverflow_lib (s : State) : (setOverflow s).lib = s.lib := rfl
@[simp] theorem setOverflow_sens (s : State) : (setOverflow s).sens = s.sens := rfl
@[simp] theorem setOverflow_day (s : State) : (setOverflow s).day = s.day := rfl
@[simp] theorem setOverflow_cdx (s : State) : (setOverflow s).cdx = s.cdx := rfl
@[simp] theorem setOverflow_upd (s : State) : (setOverflow s).upd = s.upd := rfl
@[simp] theorem setOverflow_free (s : State) : (setOverflow s).free = s.free := rfl
@[simp] theorem setOverflow_pending (s : State) : (setOverflow s).pending = s.pending := rfl

/-! `addHostCards` -/

theorem addHostCards_wr (past : Bool) (cards : List TransitCard) (s : State) :
    (addHostCards past cards s).wr = { s.wr with
      transit := s.wr.transit ++ cards
      hostCards := sat64 (s.wr.hostCards + cards.length)
      bypassCards := if past then sat64 (s.wr.bypassCards + cards.length) else s.wr.bypassCards } := rfl
@[simp] theorem addHostCards_clock (past : Bool) (cards : List TransitCard) (s : State) : (addHostCards past cards s).clock = s.clock := rfl
@[simp] theorem addHostCards_pins (past : Bool) (cards : List TransitCard) (s : State) : (addHostCards past cards s).pins = s.pins := rfl
@[simp] theorem addHostCards_mode (past : Bool) (cards : List TransitCard) (s : State) : (addHostCards past cards s).mode = s.mode := rfl
@[simp] theorem addHostCards_coast (past : Bool) (cards : List TransitCard) (s : State) : (addHostCards past cards s).coast = s.coast := rfl
@[simp] theorem addHostCards_pools (past : Bool) (cards : List TransitCard) (s : State) : (addHostCards past cards s).pools = s.pools := rfl
@[simp] theorem addHostCards_cat (past : Bool) (cards : List TransitCard) (s : State) : (addHostCards past cards s).cat = s.cat := rfl
@[simp] theorem addHostCards_led (past : Bool) (cards : List TransitCard) (s : State) : (addHostCards past cards s).led = s.led := rfl
@[simp] theorem addHostCards_inv (past : Bool) (cards : List TransitCard) (s : State) : (addHostCards past cards s).inv = s.inv := rfl
@[simp] theorem addHostCards_blk (past : Bool) (cards : List TransitCard) (s : State) : (addHostCards past cards s).blk = s.blk := rfl
@[simp] theorem addHostCards_fl (past : Bool) (cards : List TransitCard) (s : State) : (addHostCards past cards s).fl = s.fl := rfl
@[simp] theorem addHostCards_esc (past : Bool) (cards : List TransitCard) (s : State) : (addHostCards past cards s).esc = s.esc := rfl
@[simp] theorem addHostCards_link (past : Bool) (cards : List TransitCard) (s : State) : (addHostCards past cards s).link = s.link := rfl
@[simp] theorem addHostCards_nv (past : Bool) (cards : List TransitCard) (s : State) : (addHostCards past cards s).nv = s.nv := rfl
@[simp] theorem addHostCards_key (past : Bool) (cards : List TransitCard) (s : State) : (addHostCards past cards s).key = s.key := rfl
@[simp] theorem addHostCards_pel (past : Bool) (cards : List TransitCard) (s : State) : (addHostCards past cards s).pel = s.pel := rfl
@[simp] theorem addHostCards_ech (past : Bool) (cards : List TransitCard) (s : State) : (addHostCards past cards s).ech = s.ech := rfl
@[simp] theorem addHostCards_dram (past : Bool) (cards : List TransitCard) (s : State) : (addHostCards past cards s).dram = s.dram := rfl
@[simp] theorem addHostCards_fol (past : Bool) (cards : List TransitCard) (s : State) : (addHostCards past cards s).fol = s.fol := rfl
@[simp] theorem addHostCards_lib (past : Bool) (cards : List TransitCard) (s : State) : (addHostCards past cards s).lib = s.lib := rfl
@[simp] theorem addHostCards_sens (past : Bool) (cards : List TransitCard) (s : State) : (addHostCards past cards s).sens = s.sens := rfl
@[simp] theorem addHostCards_day (past : Bool) (cards : List TransitCard) (s : State) : (addHostCards past cards s).day = s.day := rfl
@[simp] theorem addHostCards_cdx (past : Bool) (cards : List TransitCard) (s : State) : (addHostCards past cards s).cdx = s.cdx := rfl
@[simp] theorem addHostCards_upd (past : Bool) (cards : List TransitCard) (s : State) : (addHostCards past cards s).upd = s.upd := rfl
@[simp] theorem addHostCards_free (past : Bool) (cards : List TransitCard) (s : State) : (addHostCards past cards s).free = s.free := rfl
@[simp] theorem addHostCards_pending (past : Bool) (cards : List TransitCard) (s : State) : (addHostCards past cards s).pending = s.pending := rfl

/-! `passLock` -/

theorem passLock_wr (shelf card : Nat) (s : State) :
    (passLock shelf card s).wr = { s.wr with
      locks := s.wr.locks.filterMap fun l =>
        if l.shelf = shelf && l.card = card then
          match l.waiters with
          | [] => none
          | w :: ws => some { l with holder := w, granted := false, waiters := ws }
        else some l } := rfl
@[simp] theorem passLock_clock (shelf card : Nat) (s : State) : (passLock shelf card s).clock = s.clock := rfl
@[simp] theorem passLock_pins (shelf card : Nat) (s : State) : (passLock shelf card s).pins = s.pins := rfl
@[simp] theorem passLock_mode (shelf card : Nat) (s : State) : (passLock shelf card s).mode = s.mode := rfl
@[simp] theorem passLock_coast (shelf card : Nat) (s : State) : (passLock shelf card s).coast = s.coast := rfl
@[simp] theorem passLock_pools (shelf card : Nat) (s : State) : (passLock shelf card s).pools = s.pools := rfl
@[simp] theorem passLock_cat (shelf card : Nat) (s : State) : (passLock shelf card s).cat = s.cat := rfl
@[simp] theorem passLock_led (shelf card : Nat) (s : State) : (passLock shelf card s).led = s.led := rfl
@[simp] theorem passLock_inv (shelf card : Nat) (s : State) : (passLock shelf card s).inv = s.inv := rfl
@[simp] theorem passLock_blk (shelf card : Nat) (s : State) : (passLock shelf card s).blk = s.blk := rfl
@[simp] theorem passLock_fl (shelf card : Nat) (s : State) : (passLock shelf card s).fl = s.fl := rfl
@[simp] theorem passLock_esc (shelf card : Nat) (s : State) : (passLock shelf card s).esc = s.esc := rfl
@[simp] theorem passLock_link (shelf card : Nat) (s : State) : (passLock shelf card s).link = s.link := rfl
@[simp] theorem passLock_nv (shelf card : Nat) (s : State) : (passLock shelf card s).nv = s.nv := rfl
@[simp] theorem passLock_key (shelf card : Nat) (s : State) : (passLock shelf card s).key = s.key := rfl
@[simp] theorem passLock_pel (shelf card : Nat) (s : State) : (passLock shelf card s).pel = s.pel := rfl
@[simp] theorem passLock_ech (shelf card : Nat) (s : State) : (passLock shelf card s).ech = s.ech := rfl
@[simp] theorem passLock_dram (shelf card : Nat) (s : State) : (passLock shelf card s).dram = s.dram := rfl
@[simp] theorem passLock_fol (shelf card : Nat) (s : State) : (passLock shelf card s).fol = s.fol := rfl
@[simp] theorem passLock_lib (shelf card : Nat) (s : State) : (passLock shelf card s).lib = s.lib := rfl
@[simp] theorem passLock_sens (shelf card : Nat) (s : State) : (passLock shelf card s).sens = s.sens := rfl
@[simp] theorem passLock_day (shelf card : Nat) (s : State) : (passLock shelf card s).day = s.day := rfl
@[simp] theorem passLock_cdx (shelf card : Nat) (s : State) : (passLock shelf card s).cdx = s.cdx := rfl
@[simp] theorem passLock_upd (shelf card : Nat) (s : State) : (passLock shelf card s).upd = s.upd := rfl
@[simp] theorem passLock_free (shelf card : Nat) (s : State) : (passLock shelf card s).free = s.free := rfl
@[simp] theorem passLock_pending (shelf card : Nat) (s : State) : (passLock shelf card s).pending = s.pending := rfl

/-! `freeBuffer` -/

theorem freeBuffer_pools (n a : Nat) (s : State) :
    (freeBuffer n a s).pools = { s.pools with
      pool := modAt n (pushPool n a) s.pools.pool
      held := dropFirst (fun h => decide (h.2.1 = n) && decide (h.2.2 = a)) s.pools.held
      holdTab := s.pools.holdTab.filter fun h => h != (n, a) } := rfl
@[simp] theorem freeBuffer_clock (n a : Nat) (s : State) : (freeBuffer n a s).clock = s.clock := rfl
@[simp] theorem freeBuffer_pins (n a : Nat) (s : State) : (freeBuffer n a s).pins = s.pins := rfl
@[simp] theorem freeBuffer_mode (n a : Nat) (s : State) : (freeBuffer n a s).mode = s.mode := rfl
@[simp] theorem freeBuffer_coast (n a : Nat) (s : State) : (freeBuffer n a s).coast = s.coast := rfl
@[simp] theorem freeBuffer_cat (n a : Nat) (s : State) : (freeBuffer n a s).cat = s.cat := rfl
@[simp] theorem freeBuffer_led (n a : Nat) (s : State) : (freeBuffer n a s).led = s.led := rfl
@[simp] theorem freeBuffer_inv (n a : Nat) (s : State) : (freeBuffer n a s).inv = s.inv := rfl
@[simp] theorem freeBuffer_wr (n a : Nat) (s : State) : (freeBuffer n a s).wr = s.wr := rfl
@[simp] theorem freeBuffer_blk (n a : Nat) (s : State) : (freeBuffer n a s).blk = s.blk := rfl
@[simp] theorem freeBuffer_fl (n a : Nat) (s : State) : (freeBuffer n a s).fl = s.fl := rfl
@[simp] theorem freeBuffer_esc (n a : Nat) (s : State) : (freeBuffer n a s).esc = s.esc := rfl
@[simp] theorem freeBuffer_link (n a : Nat) (s : State) : (freeBuffer n a s).link = s.link := rfl
@[simp] theorem freeBuffer_nv (n a : Nat) (s : State) : (freeBuffer n a s).nv = s.nv := rfl
@[simp] theorem freeBuffer_key (n a : Nat) (s : State) : (freeBuffer n a s).key = s.key := rfl
@[simp] theorem freeBuffer_pel (n a : Nat) (s : State) : (freeBuffer n a s).pel = s.pel := rfl
@[simp] theorem freeBuffer_ech (n a : Nat) (s : State) : (freeBuffer n a s).ech = s.ech := rfl
@[simp] theorem freeBuffer_dram (n a : Nat) (s : State) : (freeBuffer n a s).dram = s.dram := rfl
@[simp] theorem freeBuffer_fol (n a : Nat) (s : State) : (freeBuffer n a s).fol = s.fol := rfl
@[simp] theorem freeBuffer_lib (n a : Nat) (s : State) : (freeBuffer n a s).lib = s.lib := rfl
@[simp] theorem freeBuffer_sens (n a : Nat) (s : State) : (freeBuffer n a s).sens = s.sens := rfl
@[simp] theorem freeBuffer_day (n a : Nat) (s : State) : (freeBuffer n a s).day = s.day := rfl
@[simp] theorem freeBuffer_cdx (n a : Nat) (s : State) : (freeBuffer n a s).cdx = s.cdx := rfl
@[simp] theorem freeBuffer_upd (n a : Nat) (s : State) : (freeBuffer n a s).upd = s.upd := rfl
@[simp] theorem freeBuffer_free (n a : Nat) (s : State) : (freeBuffer n a s).free = s.free := rfl
@[simp] theorem freeBuffer_pending (n a : Nat) (s : State) : (freeBuffer n a s).pending = s.pending := rfl

/-! `dropWait` -/

theorem dropWait_pools (who : Requester) (s : State) :
    (dropWait who s).pools = { s.pools with
      waitT := s.pools.waitT.filter fun r => r.who != who
      waitW := s.pools.waitW.filter fun r => r.who != who } := rfl
@[simp] theorem dropWait_clock (who : Requester) (s : State) : (dropWait who s).clock = s.clock := rfl
@[simp] theorem dropWait_pins (who : Requester) (s : State) : (dropWait who s).pins = s.pins := rfl
@[simp] theorem dropWait_mode (who : Requester) (s : State) : (dropWait who s).mode = s.mode := rfl
@[simp] theorem dropWait_coast (who : Requester) (s : State) : (dropWait who s).coast = s.coast := rfl
@[simp] theorem dropWait_cat (who : Requester) (s : State) : (dropWait who s).cat = s.cat := rfl
@[simp] theorem dropWait_led (who : Requester) (s : State) : (dropWait who s).led = s.led := rfl
@[simp] theorem dropWait_inv (who : Requester) (s : State) : (dropWait who s).inv = s.inv := rfl
@[simp] theorem dropWait_wr (who : Requester) (s : State) : (dropWait who s).wr = s.wr := rfl
@[simp] theorem dropWait_blk (who : Requester) (s : State) : (dropWait who s).blk = s.blk := rfl
@[simp] theorem dropWait_fl (who : Requester) (s : State) : (dropWait who s).fl = s.fl := rfl
@[simp] theorem dropWait_esc (who : Requester) (s : State) : (dropWait who s).esc = s.esc := rfl
@[simp] theorem dropWait_link (who : Requester) (s : State) : (dropWait who s).link = s.link := rfl
@[simp] theorem dropWait_nv (who : Requester) (s : State) : (dropWait who s).nv = s.nv := rfl
@[simp] theorem dropWait_key (who : Requester) (s : State) : (dropWait who s).key = s.key := rfl
@[simp] theorem dropWait_pel (who : Requester) (s : State) : (dropWait who s).pel = s.pel := rfl
@[simp] theorem dropWait_ech (who : Requester) (s : State) : (dropWait who s).ech = s.ech := rfl
@[simp] theorem dropWait_dram (who : Requester) (s : State) : (dropWait who s).dram = s.dram := rfl
@[simp] theorem dropWait_fol (who : Requester) (s : State) : (dropWait who s).fol = s.fol := rfl
@[simp] theorem dropWait_lib (who : Requester) (s : State) : (dropWait who s).lib = s.lib := rfl
@[simp] theorem dropWait_sens (who : Requester) (s : State) : (dropWait who s).sens = s.sens := rfl
@[simp] theorem dropWait_day (who : Requester) (s : State) : (dropWait who s).day = s.day := rfl
@[simp] theorem dropWait_cdx (who : Requester) (s : State) : (dropWait who s).cdx = s.cdx := rfl
@[simp] theorem dropWait_upd (who : Requester) (s : State) : (dropWait who s).upd = s.upd := rfl
@[simp] theorem dropWait_free (who : Requester) (s : State) : (dropWait who s).free = s.free := rfl
@[simp] theorem dropWait_pending (who : Requester) (s : State) : (dropWait who s).pending = s.pending := rfl

/-! `gateAll` -/

@[simp] theorem gateAll_clock (s : State) : (gateAll s).clock = s.clock := rfl
@[simp] theorem gateAll_pins (s : State) : (gateAll s).pins = s.pins := rfl
@[simp] theorem gateAll_coast (s : State) : (gateAll s).coast = s.coast := rfl
@[simp] theorem gateAll_pools (s : State) : (gateAll s).pools = s.pools := rfl
@[simp] theorem gateAll_cat (s : State) : (gateAll s).cat = s.cat := rfl
@[simp] theorem gateAll_led (s : State) : (gateAll s).led = s.led := rfl
@[simp] theorem gateAll_inv (s : State) : (gateAll s).inv = s.inv := rfl
@[simp] theorem gateAll_wr (s : State) : (gateAll s).wr = s.wr := rfl
@[simp] theorem gateAll_blk (s : State) : (gateAll s).blk = s.blk := rfl
@[simp] theorem gateAll_fl (s : State) : (gateAll s).fl = s.fl := rfl
@[simp] theorem gateAll_esc (s : State) : (gateAll s).esc = s.esc := rfl
@[simp] theorem gateAll_nv (s : State) : (gateAll s).nv = s.nv := rfl
@[simp] theorem gateAll_key (s : State) : (gateAll s).key = s.key := rfl
@[simp] theorem gateAll_pel (s : State) : (gateAll s).pel = s.pel := rfl
@[simp] theorem gateAll_ech (s : State) : (gateAll s).ech = s.ech := rfl
@[simp] theorem gateAll_dram (s : State) : (gateAll s).dram = s.dram := rfl
@[simp] theorem gateAll_fol (s : State) : (gateAll s).fol = s.fol := rfl
@[simp] theorem gateAll_lib (s : State) : (gateAll s).lib = s.lib := rfl
@[simp] theorem gateAll_sens (s : State) : (gateAll s).sens = s.sens := rfl
@[simp] theorem gateAll_day (s : State) : (gateAll s).day = s.day := rfl
@[simp] theorem gateAll_cdx (s : State) : (gateAll s).cdx = s.cdx := rfl
@[simp] theorem gateAll_upd (s : State) : (gateAll s).upd = s.upd := rfl
@[simp] theorem gateAll_free (s : State) : (gateAll s).free = s.free := rfl
@[simp] theorem gateAll_pending (s : State) : (gateAll s).pending = s.pending := rfl

/-! `clearSlots` -/

theorem clearSlots_key (s : State) :
    (clearSlots s).key = { s.key with loaded := [], testKey := false } := rfl
@[simp] theorem clearSlots_clock (s : State) : (clearSlots s).clock = s.clock := rfl
@[simp] theorem clearSlots_pins (s : State) : (clearSlots s).pins = s.pins := rfl
@[simp] theorem clearSlots_mode (s : State) : (clearSlots s).mode = s.mode := rfl
@[simp] theorem clearSlots_coast (s : State) : (clearSlots s).coast = s.coast := rfl
@[simp] theorem clearSlots_pools (s : State) : (clearSlots s).pools = s.pools := rfl
@[simp] theorem clearSlots_cat (s : State) : (clearSlots s).cat = s.cat := rfl
@[simp] theorem clearSlots_led (s : State) : (clearSlots s).led = s.led := rfl
@[simp] theorem clearSlots_inv (s : State) : (clearSlots s).inv = s.inv := rfl
@[simp] theorem clearSlots_wr (s : State) : (clearSlots s).wr = s.wr := rfl
@[simp] theorem clearSlots_blk (s : State) : (clearSlots s).blk = s.blk := rfl
@[simp] theorem clearSlots_fl (s : State) : (clearSlots s).fl = s.fl := rfl
@[simp] theorem clearSlots_esc (s : State) : (clearSlots s).esc = s.esc := rfl
@[simp] theorem clearSlots_link (s : State) : (clearSlots s).link = s.link := rfl
@[simp] theorem clearSlots_nv (s : State) : (clearSlots s).nv = s.nv := rfl
@[simp] theorem clearSlots_pel (s : State) : (clearSlots s).pel = s.pel := rfl
@[simp] theorem clearSlots_ech (s : State) : (clearSlots s).ech = s.ech := rfl
@[simp] theorem clearSlots_dram (s : State) : (clearSlots s).dram = s.dram := rfl
@[simp] theorem clearSlots_fol (s : State) : (clearSlots s).fol = s.fol := rfl
@[simp] theorem clearSlots_lib (s : State) : (clearSlots s).lib = s.lib := rfl
@[simp] theorem clearSlots_sens (s : State) : (clearSlots s).sens = s.sens := rfl
@[simp] theorem clearSlots_day (s : State) : (clearSlots s).day = s.day := rfl
@[simp] theorem clearSlots_cdx (s : State) : (clearSlots s).cdx = s.cdx := rfl
@[simp] theorem clearSlots_upd (s : State) : (clearSlots s).upd = s.upd := rfl
@[simp] theorem clearSlots_free (s : State) : (clearSlots s).free = s.free := rfl
@[simp] theorem clearSlots_pending (s : State) : (clearSlots s).pending = s.pending := rfl

/-! `logAer` -/

theorem logAer_link (row : Nat) (s : State) :
    (logAer row s).link = { s.link with
      uncorr := s.link.uncorr ++ [row], errMsgs := s.link.errMsgs ++ [(row, aerKind s row)] } := rfl
@[simp] theorem logAer_clock (row : Nat) (s : State) : (logAer row s).clock = s.clock := rfl
@[simp] theorem logAer_pins (row : Nat) (s : State) : (logAer row s).pins = s.pins := rfl
@[simp] theorem logAer_mode (row : Nat) (s : State) : (logAer row s).mode = s.mode := rfl
@[simp] theorem logAer_coast (row : Nat) (s : State) : (logAer row s).coast = s.coast := rfl
@[simp] theorem logAer_pools (row : Nat) (s : State) : (logAer row s).pools = s.pools := rfl
@[simp] theorem logAer_cat (row : Nat) (s : State) : (logAer row s).cat = s.cat := rfl
@[simp] theorem logAer_led (row : Nat) (s : State) : (logAer row s).led = s.led := rfl
@[simp] theorem logAer_inv (row : Nat) (s : State) : (logAer row s).inv = s.inv := rfl
@[simp] theorem logAer_wr (row : Nat) (s : State) : (logAer row s).wr = s.wr := rfl
@[simp] theorem logAer_blk (row : Nat) (s : State) : (logAer row s).blk = s.blk := rfl
@[simp] theorem logAer_fl (row : Nat) (s : State) : (logAer row s).fl = s.fl := rfl
@[simp] theorem logAer_esc (row : Nat) (s : State) : (logAer row s).esc = s.esc := rfl
@[simp] theorem logAer_nv (row : Nat) (s : State) : (logAer row s).nv = s.nv := rfl
@[simp] theorem logAer_key (row : Nat) (s : State) : (logAer row s).key = s.key := rfl
@[simp] theorem logAer_pel (row : Nat) (s : State) : (logAer row s).pel = s.pel := rfl
@[simp] theorem logAer_ech (row : Nat) (s : State) : (logAer row s).ech = s.ech := rfl
@[simp] theorem logAer_dram (row : Nat) (s : State) : (logAer row s).dram = s.dram := rfl
@[simp] theorem logAer_fol (row : Nat) (s : State) : (logAer row s).fol = s.fol := rfl
@[simp] theorem logAer_lib (row : Nat) (s : State) : (logAer row s).lib = s.lib := rfl
@[simp] theorem logAer_sens (row : Nat) (s : State) : (logAer row s).sens = s.sens := rfl
@[simp] theorem logAer_day (row : Nat) (s : State) : (logAer row s).day = s.day := rfl
@[simp] theorem logAer_cdx (row : Nat) (s : State) : (logAer row s).cdx = s.cdx := rfl
@[simp] theorem logAer_upd (row : Nat) (s : State) : (logAer row s).upd = s.upd := rfl
@[simp] theorem logAer_free (row : Nat) (s : State) : (logAer row s).free = s.free := rfl
@[simp] theorem logAer_pending (row : Nat) (s : State) : (logAer row s).pending = s.pending := rfl

/-! `modSq` -/

theorem modSq_nv (q : Nat) (f : Sq → Sq) (s : State) :
    (modSq q f s).nv = { s.nv with sqs := modWhere (fun x => x.qid = q) f s.nv.sqs } := rfl
@[simp] theorem modSq_clock (q : Nat) (f : Sq → Sq) (s : State) : (modSq q f s).clock = s.clock := rfl
@[simp] theorem modSq_pins (q : Nat) (f : Sq → Sq) (s : State) : (modSq q f s).pins = s.pins := rfl
@[simp] theorem modSq_mode (q : Nat) (f : Sq → Sq) (s : State) : (modSq q f s).mode = s.mode := rfl
@[simp] theorem modSq_coast (q : Nat) (f : Sq → Sq) (s : State) : (modSq q f s).coast = s.coast := rfl
@[simp] theorem modSq_pools (q : Nat) (f : Sq → Sq) (s : State) : (modSq q f s).pools = s.pools := rfl
@[simp] theorem modSq_cat (q : Nat) (f : Sq → Sq) (s : State) : (modSq q f s).cat = s.cat := rfl
@[simp] theorem modSq_led (q : Nat) (f : Sq → Sq) (s : State) : (modSq q f s).led = s.led := rfl
@[simp] theorem modSq_inv (q : Nat) (f : Sq → Sq) (s : State) : (modSq q f s).inv = s.inv := rfl
@[simp] theorem modSq_wr (q : Nat) (f : Sq → Sq) (s : State) : (modSq q f s).wr = s.wr := rfl
@[simp] theorem modSq_blk (q : Nat) (f : Sq → Sq) (s : State) : (modSq q f s).blk = s.blk := rfl
@[simp] theorem modSq_fl (q : Nat) (f : Sq → Sq) (s : State) : (modSq q f s).fl = s.fl := rfl
@[simp] theorem modSq_esc (q : Nat) (f : Sq → Sq) (s : State) : (modSq q f s).esc = s.esc := rfl
@[simp] theorem modSq_link (q : Nat) (f : Sq → Sq) (s : State) : (modSq q f s).link = s.link := rfl
@[simp] theorem modSq_key (q : Nat) (f : Sq → Sq) (s : State) : (modSq q f s).key = s.key := rfl
@[simp] theorem modSq_pel (q : Nat) (f : Sq → Sq) (s : State) : (modSq q f s).pel = s.pel := rfl
@[simp] theorem modSq_ech (q : Nat) (f : Sq → Sq) (s : State) : (modSq q f s).ech = s.ech := rfl
@[simp] theorem modSq_dram (q : Nat) (f : Sq → Sq) (s : State) : (modSq q f s).dram = s.dram := rfl
@[simp] theorem modSq_fol (q : Nat) (f : Sq → Sq) (s : State) : (modSq q f s).fol = s.fol := rfl
@[simp] theorem modSq_lib (q : Nat) (f : Sq → Sq) (s : State) : (modSq q f s).lib = s.lib := rfl
@[simp] theorem modSq_sens (q : Nat) (f : Sq → Sq) (s : State) : (modSq q f s).sens = s.sens := rfl
@[simp] theorem modSq_day (q : Nat) (f : Sq → Sq) (s : State) : (modSq q f s).day = s.day := rfl
@[simp] theorem modSq_cdx (q : Nat) (f : Sq → Sq) (s : State) : (modSq q f s).cdx = s.cdx := rfl
@[simp] theorem modSq_upd (q : Nat) (f : Sq → Sq) (s : State) : (modSq q f s).upd = s.upd := rfl
@[simp] theorem modSq_free (q : Nat) (f : Sq → Sq) (s : State) : (modSq q f s).free = s.free := rfl
@[simp] theorem modSq_pending (q : Nat) (f : Sq → Sq) (s : State) : (modSq q f s).pending = s.pending := rfl

/-! `modCq` -/

theorem modCq_nv (q : Nat) (f : Cq → Cq) (s : State) :
    (modCq q f s).nv = { s.nv with cqs := modWhere (fun x => x.qid = q) f s.nv.cqs } := rfl
@[simp] theorem modCq_clock (q : Nat) (f : Cq → Cq) (s : State) : (modCq q f s).clock = s.clock := rfl
@[simp] theorem modCq_pins (q : Nat) (f : Cq → Cq) (s : State) : (modCq q f s).pins = s.pins := rfl
@[simp] theorem modCq_mode (q : Nat) (f : Cq → Cq) (s : State) : (modCq q f s).mode = s.mode := rfl
@[simp] theorem modCq_coast (q : Nat) (f : Cq → Cq) (s : State) : (modCq q f s).coast = s.coast := rfl
@[simp] theorem modCq_pools (q : Nat) (f : Cq → Cq) (s : State) : (modCq q f s).pools = s.pools := rfl
@[simp] theorem modCq_cat (q : Nat) (f : Cq → Cq) (s : State) : (modCq q f s).cat = s.cat := rfl
@[simp] theorem modCq_led (q : Nat) (f : Cq → Cq) (s : State) : (modCq q f s).led = s.led := rfl
@[simp] theorem modCq_inv (q : Nat) (f : Cq → Cq) (s : State) : (modCq q f s).inv = s.inv := rfl
@[simp] theorem modCq_wr (q : Nat) (f : Cq → Cq) (s : State) : (modCq q f s).wr = s.wr := rfl
@[simp] theorem modCq_blk (q : Nat) (f : Cq → Cq) (s : State) : (modCq q f s).blk = s.blk := rfl
@[simp] theorem modCq_fl (q : Nat) (f : Cq → Cq) (s : State) : (modCq q f s).fl = s.fl := rfl
@[simp] theorem modCq_esc (q : Nat) (f : Cq → Cq) (s : State) : (modCq q f s).esc = s.esc := rfl
@[simp] theorem modCq_link (q : Nat) (f : Cq → Cq) (s : State) : (modCq q f s).link = s.link := rfl
@[simp] theorem modCq_key (q : Nat) (f : Cq → Cq) (s : State) : (modCq q f s).key = s.key := rfl
@[simp] theorem modCq_pel (q : Nat) (f : Cq → Cq) (s : State) : (modCq q f s).pel = s.pel := rfl
@[simp] theorem modCq_ech (q : Nat) (f : Cq → Cq) (s : State) : (modCq q f s).ech = s.ech := rfl
@[simp] theorem modCq_dram (q : Nat) (f : Cq → Cq) (s : State) : (modCq q f s).dram = s.dram := rfl
@[simp] theorem modCq_fol (q : Nat) (f : Cq → Cq) (s : State) : (modCq q f s).fol = s.fol := rfl
@[simp] theorem modCq_lib (q : Nat) (f : Cq → Cq) (s : State) : (modCq q f s).lib = s.lib := rfl
@[simp] theorem modCq_sens (q : Nat) (f : Cq → Cq) (s : State) : (modCq q f s).sens = s.sens := rfl
@[simp] theorem modCq_day (q : Nat) (f : Cq → Cq) (s : State) : (modCq q f s).day = s.day := rfl
@[simp] theorem modCq_cdx (q : Nat) (f : Cq → Cq) (s : State) : (modCq q f s).cdx = s.cdx := rfl
@[simp] theorem modCq_upd (q : Nat) (f : Cq → Cq) (s : State) : (modCq q f s).upd = s.upd := rfl
@[simp] theorem modCq_free (q : Nat) (f : Cq → Cq) (s : State) : (modCq q f s).free = s.free := rfl
@[simp] theorem modCq_pending (q : Nat) (f : Cq → Cq) (s : State) : (modCq q f s).pending = s.pending := rfl

/-! `lockOnHot` -/

theorem lockOnHot_key (s : State) :
    (lockOnHot s).key = { s.key with
      ranges := s.key.ranges.map fun r =>
        if r.onHot then { r with readLocked := true, writeLocked := true } else r } := rfl
@[simp] theorem lockOnHot_clock (s : State) : (lockOnHot s).clock = s.clock := rfl
@[simp] theorem lockOnHot_pins (s : State) : (lockOnHot s).pins = s.pins := rfl
@[simp] theorem lockOnHot_mode (s : State) : (lockOnHot s).mode = s.mode := rfl
@[simp] theorem lockOnHot_coast (s : State) : (lockOnHot s).coast = s.coast := rfl
@[simp] theorem lockOnHot_pools (s : State) : (lockOnHot s).pools = s.pools := rfl
@[simp] theorem lockOnHot_cat (s : State) : (lockOnHot s).cat = s.cat := rfl
@[simp] theorem lockOnHot_led (s : State) : (lockOnHot s).led = s.led := rfl
@[simp] theorem lockOnHot_inv (s : State) : (lockOnHot s).inv = s.inv := rfl
@[simp] theorem lockOnHot_wr (s : State) : (lockOnHot s).wr = s.wr := rfl
@[simp] theorem lockOnHot_blk (s : State) : (lockOnHot s).blk = s.blk := rfl
@[simp] theorem lockOnHot_fl (s : State) : (lockOnHot s).fl = s.fl := rfl
@[simp] theorem lockOnHot_esc (s : State) : (lockOnHot s).esc = s.esc := rfl
@[simp] theorem lockOnHot_link (s : State) : (lockOnHot s).link = s.link := rfl
@[simp] theorem lockOnHot_nv (s : State) : (lockOnHot s).nv = s.nv := rfl
@[simp] theorem lockOnHot_pel (s : State) : (lockOnHot s).pel = s.pel := rfl
@[simp] theorem lockOnHot_ech (s : State) : (lockOnHot s).ech = s.ech := rfl
@[simp] theorem lockOnHot_dram (s : State) : (lockOnHot s).dram = s.dram := rfl
@[simp] theorem lockOnHot_fol (s : State) : (lockOnHot s).fol = s.fol := rfl
@[simp] theorem lockOnHot_lib (s : State) : (lockOnHot s).lib = s.lib := rfl
@[simp] theorem lockOnHot_sens (s : State) : (lockOnHot s).sens = s.sens := rfl
@[simp] theorem lockOnHot_day (s : State) : (lockOnHot s).day = s.day := rfl
@[simp] theorem lockOnHot_cdx (s : State) : (lockOnHot s).cdx = s.cdx := rfl
@[simp] theorem lockOnHot_upd (s : State) : (lockOnHot s).upd = s.upd := rfl
@[simp] theorem lockOnHot_free (s : State) : (lockOnHot s).free = s.free := rfl
@[simp] theorem lockOnHot_pending (s : State) : (lockOnHot s).pending = s.pending := rfl

/-! `setVector` -/

theorem setVector_nv (v : VectorSt) (s : State) :
    (setVector v s).nv = { s.nv with vectors := v :: s.nv.vectors.filter fun x => x.vector != v.vector } := rfl
@[simp] theorem setVector_clock (v : VectorSt) (s : State) : (setVector v s).clock = s.clock := rfl
@[simp] theorem setVector_pins (v : VectorSt) (s : State) : (setVector v s).pins = s.pins := rfl
@[simp] theorem setVector_mode (v : VectorSt) (s : State) : (setVector v s).mode = s.mode := rfl
@[simp] theorem setVector_coast (v : VectorSt) (s : State) : (setVector v s).coast = s.coast := rfl
@[simp] theorem setVector_pools (v : VectorSt) (s : State) : (setVector v s).pools = s.pools := rfl
@[simp] theorem setVector_cat (v : VectorSt) (s : State) : (setVector v s).cat = s.cat := rfl
@[simp] theorem setVector_led (v : VectorSt) (s : State) : (setVector v s).led = s.led := rfl
@[simp] theorem setVector_inv (v : VectorSt) (s : State) : (setVector v s).inv = s.inv := rfl
@[simp] theorem setVector_wr (v : VectorSt) (s : State) : (setVector v s).wr = s.wr := rfl
@[simp] theorem setVector_blk (v : VectorSt) (s : State) : (setVector v s).blk = s.blk := rfl
@[simp] theorem setVector_fl (v : VectorSt) (s : State) : (setVector v s).fl = s.fl := rfl
@[simp] theorem setVector_esc (v : VectorSt) (s : State) : (setVector v s).esc = s.esc := rfl
@[simp] theorem setVector_link (v : VectorSt) (s : State) : (setVector v s).link = s.link := rfl
@[simp] theorem setVector_key (v : VectorSt) (s : State) : (setVector v s).key = s.key := rfl
@[simp] theorem setVector_pel (v : VectorSt) (s : State) : (setVector v s).pel = s.pel := rfl
@[simp] theorem setVector_ech (v : VectorSt) (s : State) : (setVector v s).ech = s.ech := rfl
@[simp] theorem setVector_dram (v : VectorSt) (s : State) : (setVector v s).dram = s.dram := rfl
@[simp] theorem setVector_fol (v : VectorSt) (s : State) : (setVector v s).fol = s.fol := rfl
@[simp] theorem setVector_lib (v : VectorSt) (s : State) : (setVector v s).lib = s.lib := rfl
@[simp] theorem setVector_sens (v : VectorSt) (s : State) : (setVector v s).sens = s.sens := rfl
@[simp] theorem setVector_day (v : VectorSt) (s : State) : (setVector v s).day = s.day := rfl
@[simp] theorem setVector_cdx (v : VectorSt) (s : State) : (setVector v s).cdx = s.cdx := rfl
@[simp] theorem setVector_upd (v : VectorSt) (s : State) : (setVector v s).upd = s.upd := rfl
@[simp] theorem setVector_free (v : VectorSt) (s : State) : (setVector v s).free = s.free := rfl
@[simp] theorem setVector_pending (v : VectorSt) (s : State) : (setVector v s).pending = s.pending := rfl

/-! `setDrift` -/

theorem setDrift_esc (p : Ppa) (d : Drift) (s : State) :
    (setDrift p d s).esc = { s.esc with
      drift := (driftKey p, d) :: s.esc.drift.filter fun x => x.1 != driftKey p } := rfl
@[simp] theorem setDrift_clock (p : Ppa) (d : Drift) (s : State) : (setDrift p d s).clock = s.clock := rfl
@[simp] theorem setDrift_pins (p : Ppa) (d : Drift) (s : State) : (setDrift p d s).pins = s.pins := rfl
@[simp] theorem setDrift_mode (p : Ppa) (d : Drift) (s : State) : (setDrift p d s).mode = s.mode := rfl
@[simp] theorem setDrift_coast (p : Ppa) (d : Drift) (s : State) : (setDrift p d s).coast = s.coast := rfl
@[simp] theorem setDrift_pools (p : Ppa) (d : Drift) (s : State) : (setDrift p d s).pools = s.pools := rfl
@[simp] theorem setDrift_cat (p : Ppa) (d : Drift) (s : State) : (setDrift p d s).cat = s.cat := rfl
@[simp] theorem setDrift_led (p : Ppa) (d : Drift) (s : State) : (setDrift p d s).led = s.led := rfl
@[simp] theorem setDrift_inv (p : Ppa) (d : Drift) (s : State) : (setDrift p d s).inv = s.inv := rfl
@[simp] theorem setDrift_wr (p : Ppa) (d : Drift) (s : State) : (setDrift p d s).wr = s.wr := rfl
@[simp] theorem setDrift_blk (p : Ppa) (d : Drift) (s : State) : (setDrift p d s).blk = s.blk := rfl
@[simp] theorem setDrift_fl (p : Ppa) (d : Drift) (s : State) : (setDrift p d s).fl = s.fl := rfl
@[simp] theorem setDrift_link (p : Ppa) (d : Drift) (s : State) : (setDrift p d s).link = s.link := rfl
@[simp] theorem setDrift_nv (p : Ppa) (d : Drift) (s : State) : (setDrift p d s).nv = s.nv := rfl
@[simp] theorem setDrift_key (p : Ppa) (d : Drift) (s : State) : (setDrift p d s).key = s.key := rfl
@[simp] theorem setDrift_pel (p : Ppa) (d : Drift) (s : State) : (setDrift p d s).pel = s.pel := rfl
@[simp] theorem setDrift_ech (p : Ppa) (d : Drift) (s : State) : (setDrift p d s).ech = s.ech := rfl
@[simp] theorem setDrift_dram (p : Ppa) (d : Drift) (s : State) : (setDrift p d s).dram = s.dram := rfl
@[simp] theorem setDrift_fol (p : Ppa) (d : Drift) (s : State) : (setDrift p d s).fol = s.fol := rfl
@[simp] theorem setDrift_lib (p : Ppa) (d : Drift) (s : State) : (setDrift p d s).lib = s.lib := rfl
@[simp] theorem setDrift_sens (p : Ppa) (d : Drift) (s : State) : (setDrift p d s).sens = s.sens := rfl
@[simp] theorem setDrift_day (p : Ppa) (d : Drift) (s : State) : (setDrift p d s).day = s.day := rfl
@[simp] theorem setDrift_cdx (p : Ppa) (d : Drift) (s : State) : (setDrift p d s).cdx = s.cdx := rfl
@[simp] theorem setDrift_upd (p : Ppa) (d : Drift) (s : State) : (setDrift p d s).upd = s.upd := rfl
@[simp] theorem setDrift_free (p : Ppa) (d : Drift) (s : State) : (setDrift p d s).free = s.free := rfl
@[simp] theorem setDrift_pending (p : Ppa) (d : Drift) (s : State) : (setDrift p d s).pending = s.pending := rfl

/-! `modCtx` -/

theorem modCtx_esc (key : Nat × Nat × Nat × Nat) (f : EscContext → EscContext) (s : State) :
    (modCtx key f s).esc = { s.esc with contexts := modWhere (fun c => ctxKey c = key) f s.esc.contexts } := rfl
@[simp] theorem modCtx_clock (key : Nat × Nat × Nat × Nat) (f : EscContext → EscContext) (s : State) : (modCtx key f s).clock = s.clock := rfl
@[simp] theorem modCtx_pins (key : Nat × Nat × Nat × Nat) (f : EscContext → EscContext) (s : State) : (modCtx key f s).pins = s.pins := rfl
@[simp] theorem modCtx_mode (key : Nat × Nat × Nat × Nat) (f : EscContext → EscContext) (s : State) : (modCtx key f s).mode = s.mode := rfl
@[simp] theorem modCtx_coast (key : Nat × Nat × Nat × Nat) (f : EscContext → EscContext) (s : State) : (modCtx key f s).coast = s.coast := rfl
@[simp] theorem modCtx_pools (key : Nat × Nat × Nat × Nat) (f : EscContext → EscContext) (s : State) : (modCtx key f s).pools = s.pools := rfl
@[simp] theorem modCtx_cat (key : Nat × Nat × Nat × Nat) (f : EscContext → EscContext) (s : State) : (modCtx key f s).cat = s.cat := rfl
@[simp] theorem modCtx_led (key : Nat × Nat × Nat × Nat) (f : EscContext → EscContext) (s : State) : (modCtx key f s).led = s.led := rfl
@[simp] theorem modCtx_inv (key : Nat × Nat × Nat × Nat) (f : EscContext → EscContext) (s : State) : (modCtx key f s).inv = s.inv := rfl
@[simp] theorem modCtx_wr (key : Nat × Nat × Nat × Nat) (f : EscContext → EscContext) (s : State) : (modCtx key f s).wr = s.wr := rfl
@[simp] theorem modCtx_blk (key : Nat × Nat × Nat × Nat) (f : EscContext → EscContext) (s : State) : (modCtx key f s).blk = s.blk := rfl
@[simp] theorem modCtx_fl (key : Nat × Nat × Nat × Nat) (f : EscContext → EscContext) (s : State) : (modCtx key f s).fl = s.fl := rfl
@[simp] theorem modCtx_link (key : Nat × Nat × Nat × Nat) (f : EscContext → EscContext) (s : State) : (modCtx key f s).link = s.link := rfl
@[simp] theorem modCtx_nv (key : Nat × Nat × Nat × Nat) (f : EscContext → EscContext) (s : State) : (modCtx key f s).nv = s.nv := rfl
@[simp] theorem modCtx_key (key : Nat × Nat × Nat × Nat) (f : EscContext → EscContext) (s : State) : (modCtx key f s).key = s.key := rfl
@[simp] theorem modCtx_pel (key : Nat × Nat × Nat × Nat) (f : EscContext → EscContext) (s : State) : (modCtx key f s).pel = s.pel := rfl
@[simp] theorem modCtx_ech (key : Nat × Nat × Nat × Nat) (f : EscContext → EscContext) (s : State) : (modCtx key f s).ech = s.ech := rfl
@[simp] theorem modCtx_dram (key : Nat × Nat × Nat × Nat) (f : EscContext → EscContext) (s : State) : (modCtx key f s).dram = s.dram := rfl
@[simp] theorem modCtx_fol (key : Nat × Nat × Nat × Nat) (f : EscContext → EscContext) (s : State) : (modCtx key f s).fol = s.fol := rfl
@[simp] theorem modCtx_lib (key : Nat × Nat × Nat × Nat) (f : EscContext → EscContext) (s : State) : (modCtx key f s).lib = s.lib := rfl
@[simp] theorem modCtx_sens (key : Nat × Nat × Nat × Nat) (f : EscContext → EscContext) (s : State) : (modCtx key f s).sens = s.sens := rfl
@[simp] theorem modCtx_day (key : Nat × Nat × Nat × Nat) (f : EscContext → EscContext) (s : State) : (modCtx key f s).day = s.day := rfl
@[simp] theorem modCtx_cdx (key : Nat × Nat × Nat × Nat) (f : EscContext → EscContext) (s : State) : (modCtx key f s).cdx = s.cdx := rfl
@[simp] theorem modCtx_upd (key : Nat × Nat × Nat × Nat) (f : EscContext → EscContext) (s : State) : (modCtx key f s).upd = s.upd := rfl
@[simp] theorem modCtx_free (key : Nat × Nat × Nat × Nat) (f : EscContext → EscContext) (s : State) : (modCtx key f s).free = s.free := rfl
@[simp] theorem modCtx_pending (key : Nat × Nat × Nat × Nat) (f : EscContext → EscContext) (s : State) : (modCtx key f s).pending = s.pending := rfl

/-! `noteQueue` -/

theorem noteQueue_esc (s : State) :
    (noteQueue s).esc = { s.esc with
      qMax := max s.esc.qMax (queueUse s)
      sticky := if decide (4096 ≤ queueUse s) then s.esc.sticky ||| 0x10 else s.esc.sticky } := rfl
@[simp] theorem noteQueue_clock (s : State) : (noteQueue s).clock = s.clock := rfl
@[simp] theorem noteQueue_pins (s : State) : (noteQueue s).pins = s.pins := rfl
@[simp] theorem noteQueue_mode (s : State) : (noteQueue s).mode = s.mode := rfl
@[simp] theorem noteQueue_coast (s : State) : (noteQueue s).coast = s.coast := rfl
@[simp] theorem noteQueue_pools (s : State) : (noteQueue s).pools = s.pools := rfl
@[simp] theorem noteQueue_cat (s : State) : (noteQueue s).cat = s.cat := rfl
@[simp] theorem noteQueue_led (s : State) : (noteQueue s).led = s.led := rfl
@[simp] theorem noteQueue_inv (s : State) : (noteQueue s).inv = s.inv := rfl
@[simp] theorem noteQueue_wr (s : State) : (noteQueue s).wr = s.wr := rfl
@[simp] theorem noteQueue_blk (s : State) : (noteQueue s).blk = s.blk := rfl
@[simp] theorem noteQueue_fl (s : State) : (noteQueue s).fl = s.fl := rfl
@[simp] theorem noteQueue_link (s : State) : (noteQueue s).link = s.link := rfl
@[simp] theorem noteQueue_nv (s : State) : (noteQueue s).nv = s.nv := rfl
@[simp] theorem noteQueue_key (s : State) : (noteQueue s).key = s.key := rfl
@[simp] theorem noteQueue_pel (s : State) : (noteQueue s).pel = s.pel := rfl
@[simp] theorem noteQueue_ech (s : State) : (noteQueue s).ech = s.ech := rfl
@[simp] theorem noteQueue_dram (s : State) : (noteQueue s).dram = s.dram := rfl
@[simp] theorem noteQueue_fol (s : State) : (noteQueue s).fol = s.fol := rfl
@[simp] theorem noteQueue_lib (s : State) : (noteQueue s).lib = s.lib := rfl
@[simp] theorem noteQueue_sens (s : State) : (noteQueue s).sens = s.sens := rfl
@[simp] theorem noteQueue_day (s : State) : (noteQueue s).day = s.day := rfl
@[simp] theorem noteQueue_cdx (s : State) : (noteQueue s).cdx = s.cdx := rfl
@[simp] theorem noteQueue_upd (s : State) : (noteQueue s).upd = s.upd := rfl
@[simp] theorem noteQueue_free (s : State) : (noteQueue s).free = s.free := rfl
@[simp] theorem noteQueue_pending (s : State) : (noteQueue s).pending = s.pending := rfl

/-! `modKnown` -/

theorem modKnown_esc (word ppa : Ppa) (s : State) :
    (modKnown word ppa s).esc = { s.esc with
      contexts := s.esc.contexts.map fun c => { c with
        words := modWhere (fun w => w.ppa = word && ! w.known.contains ppa)
          (fun w => { w with known := w.known ++ [ppa] }) c.words } } := rfl
@[simp] theorem modKnown_clock (word ppa : Ppa) (s : State) : (modKnown word ppa s).clock = s.clock := rfl
@[simp] theorem modKnown_pins (word ppa : Ppa) (s : State) : (modKnown word ppa s).pins = s.pins := rfl
@[simp] theorem modKnown_mode (word ppa : Ppa) (s : State) : (modKnown word ppa s).mode = s.mode := rfl
@[simp] theorem modKnown_coast (word ppa : Ppa) (s : State) : (modKnown word ppa s).coast = s.coast := rfl
@[simp] theorem modKnown_pools (word ppa : Ppa) (s : State) : (modKnown word ppa s).pools = s.pools := rfl
@[simp] theorem modKnown_cat (word ppa : Ppa) (s : State) : (modKnown word ppa s).cat = s.cat := rfl
@[simp] theorem modKnown_led (word ppa : Ppa) (s : State) : (modKnown word ppa s).led = s.led := rfl
@[simp] theorem modKnown_inv (word ppa : Ppa) (s : State) : (modKnown word ppa s).inv = s.inv := rfl
@[simp] theorem modKnown_wr (word ppa : Ppa) (s : State) : (modKnown word ppa s).wr = s.wr := rfl
@[simp] theorem modKnown_blk (word ppa : Ppa) (s : State) : (modKnown word ppa s).blk = s.blk := rfl
@[simp] theorem modKnown_fl (word ppa : Ppa) (s : State) : (modKnown word ppa s).fl = s.fl := rfl
@[simp] theorem modKnown_link (word ppa : Ppa) (s : State) : (modKnown word ppa s).link = s.link := rfl
@[simp] theorem modKnown_nv (word ppa : Ppa) (s : State) : (modKnown word ppa s).nv = s.nv := rfl
@[simp] theorem modKnown_key (word ppa : Ppa) (s : State) : (modKnown word ppa s).key = s.key := rfl
@[simp] theorem modKnown_pel (word ppa : Ppa) (s : State) : (modKnown word ppa s).pel = s.pel := rfl
@[simp] theorem modKnown_ech (word ppa : Ppa) (s : State) : (modKnown word ppa s).ech = s.ech := rfl
@[simp] theorem modKnown_dram (word ppa : Ppa) (s : State) : (modKnown word ppa s).dram = s.dram := rfl
@[simp] theorem modKnown_fol (word ppa : Ppa) (s : State) : (modKnown word ppa s).fol = s.fol := rfl
@[simp] theorem modKnown_lib (word ppa : Ppa) (s : State) : (modKnown word ppa s).lib = s.lib := rfl
@[simp] theorem modKnown_sens (word ppa : Ppa) (s : State) : (modKnown word ppa s).sens = s.sens := rfl
@[simp] theorem modKnown_day (word ppa : Ppa) (s : State) : (modKnown word ppa s).day = s.day := rfl
@[simp] theorem modKnown_cdx (word ppa : Ppa) (s : State) : (modKnown word ppa s).cdx = s.cdx := rfl
@[simp] theorem modKnown_upd (word ppa : Ppa) (s : State) : (modKnown word ppa s).upd = s.upd := rfl
@[simp] theorem modKnown_free (word ppa : Ppa) (s : State) : (modKnown word ppa s).free = s.free := rfl
@[simp] theorem modKnown_pending (word ppa : Ppa) (s : State) : (modKnown word ppa s).pending = s.pending := rfl

/-! `stopFold` -/

theorem stopFold_wr (s : State) :
    (stopFold s).wr = { s.wr with folding := false, idleFold := false } := rfl
@[simp] theorem stopFold_clock (s : State) : (stopFold s).clock = s.clock := rfl
@[simp] theorem stopFold_pins (s : State) : (stopFold s).pins = s.pins := rfl
@[simp] theorem stopFold_mode (s : State) : (stopFold s).mode = s.mode := rfl
@[simp] theorem stopFold_coast (s : State) : (stopFold s).coast = s.coast := rfl
@[simp] theorem stopFold_pools (s : State) : (stopFold s).pools = s.pools := rfl
@[simp] theorem stopFold_cat (s : State) : (stopFold s).cat = s.cat := rfl
@[simp] theorem stopFold_led (s : State) : (stopFold s).led = s.led := rfl
@[simp] theorem stopFold_inv (s : State) : (stopFold s).inv = s.inv := rfl
@[simp] theorem stopFold_blk (s : State) : (stopFold s).blk = s.blk := rfl
@[simp] theorem stopFold_fl (s : State) : (stopFold s).fl = s.fl := rfl
@[simp] theorem stopFold_esc (s : State) : (stopFold s).esc = s.esc := rfl
@[simp] theorem stopFold_link (s : State) : (stopFold s).link = s.link := rfl
@[simp] theorem stopFold_nv (s : State) : (stopFold s).nv = s.nv := rfl
@[simp] theorem stopFold_key (s : State) : (stopFold s).key = s.key := rfl
@[simp] theorem stopFold_pel (s : State) : (stopFold s).pel = s.pel := rfl
@[simp] theorem stopFold_ech (s : State) : (stopFold s).ech = s.ech := rfl
@[simp] theorem stopFold_dram (s : State) : (stopFold s).dram = s.dram := rfl
@[simp] theorem stopFold_fol (s : State) : (stopFold s).fol = s.fol := rfl
@[simp] theorem stopFold_lib (s : State) : (stopFold s).lib = s.lib := rfl
@[simp] theorem stopFold_sens (s : State) : (stopFold s).sens = s.sens := rfl
@[simp] theorem stopFold_day (s : State) : (stopFold s).day = s.day := rfl
@[simp] theorem stopFold_cdx (s : State) : (stopFold s).cdx = s.cdx := rfl
@[simp] theorem stopFold_upd (s : State) : (stopFold s).upd = s.upd := rfl
@[simp] theorem stopFold_free (s : State) : (stopFold s).free = s.free := rfl
@[simp] theorem stopFold_pending (s : State) : (stopFold s).pending = s.pending := rfl

/-! `modJob` -/

theorem modJob_blk (n : Nat) (f : EraseJob → EraseJob) (s : State) :
    (modJob n f s).blk = { s.blk with erases := modWhere (fun j => j.entry = n) f s.blk.erases } := rfl
@[simp] theorem modJob_clock (n : Nat) (f : EraseJob → EraseJob) (s : State) : (modJob n f s).clock = s.clock := rfl
@[simp] theorem modJob_pins (n : Nat) (f : EraseJob → EraseJob) (s : State) : (modJob n f s).pins = s.pins := rfl
@[simp] theorem modJob_mode (n : Nat) (f : EraseJob → EraseJob) (s : State) : (modJob n f s).mode = s.mode := rfl
@[simp] theorem modJob_coast (n : Nat) (f : EraseJob → EraseJob) (s : State) : (modJob n f s).coast = s.coast := rfl
@[simp] theorem modJob_pools (n : Nat) (f : EraseJob → EraseJob) (s : State) : (modJob n f s).pools = s.pools := rfl
@[simp] theorem modJob_cat (n : Nat) (f : EraseJob → EraseJob) (s : State) : (modJob n f s).cat = s.cat := rfl
@[simp] theorem modJob_led (n : Nat) (f : EraseJob → EraseJob) (s : State) : (modJob n f s).led = s.led := rfl
@[simp] theorem modJob_inv (n : Nat) (f : EraseJob → EraseJob) (s : State) : (modJob n f s).inv = s.inv := rfl
@[simp] theorem modJob_wr (n : Nat) (f : EraseJob → EraseJob) (s : State) : (modJob n f s).wr = s.wr := rfl
@[simp] theorem modJob_fl (n : Nat) (f : EraseJob → EraseJob) (s : State) : (modJob n f s).fl = s.fl := rfl
@[simp] theorem modJob_esc (n : Nat) (f : EraseJob → EraseJob) (s : State) : (modJob n f s).esc = s.esc := rfl
@[simp] theorem modJob_link (n : Nat) (f : EraseJob → EraseJob) (s : State) : (modJob n f s).link = s.link := rfl
@[simp] theorem modJob_nv (n : Nat) (f : EraseJob → EraseJob) (s : State) : (modJob n f s).nv = s.nv := rfl
@[simp] theorem modJob_key (n : Nat) (f : EraseJob → EraseJob) (s : State) : (modJob n f s).key = s.key := rfl
@[simp] theorem modJob_pel (n : Nat) (f : EraseJob → EraseJob) (s : State) : (modJob n f s).pel = s.pel := rfl
@[simp] theorem modJob_ech (n : Nat) (f : EraseJob → EraseJob) (s : State) : (modJob n f s).ech = s.ech := rfl
@[simp] theorem modJob_dram (n : Nat) (f : EraseJob → EraseJob) (s : State) : (modJob n f s).dram = s.dram := rfl
@[simp] theorem modJob_fol (n : Nat) (f : EraseJob → EraseJob) (s : State) : (modJob n f s).fol = s.fol := rfl
@[simp] theorem modJob_lib (n : Nat) (f : EraseJob → EraseJob) (s : State) : (modJob n f s).lib = s.lib := rfl
@[simp] theorem modJob_sens (n : Nat) (f : EraseJob → EraseJob) (s : State) : (modJob n f s).sens = s.sens := rfl
@[simp] theorem modJob_day (n : Nat) (f : EraseJob → EraseJob) (s : State) : (modJob n f s).day = s.day := rfl
@[simp] theorem modJob_cdx (n : Nat) (f : EraseJob → EraseJob) (s : State) : (modJob n f s).cdx = s.cdx := rfl
@[simp] theorem modJob_upd (n : Nat) (f : EraseJob → EraseJob) (s : State) : (modJob n f s).upd = s.upd := rfl
@[simp] theorem modJob_free (n : Nat) (f : EraseJob → EraseJob) (s : State) : (modJob n f s).free = s.free := rfl
@[simp] theorem modJob_pending (n : Nat) (f : EraseJob → EraseJob) (s : State) : (modJob n f s).pending = s.pending := rfl

/-! `setRebuild` -/

theorem setRebuild_blk (lane step : Nat) (s : State) :
    (setRebuild lane step s).blk = { s.blk with
      rebuilds := modWhere (fun r => r.lane = lane) (fun r => { r with step := step }) s.blk.rebuilds } := rfl
@[simp] theorem setRebuild_clock (lane step : Nat) (s : State) : (setRebuild lane step s).clock = s.clock := rfl
@[simp] theorem setRebuild_pins (lane step : Nat) (s : State) : (setRebuild lane step s).pins = s.pins := rfl
@[simp] theorem setRebuild_mode (lane step : Nat) (s : State) : (setRebuild lane step s).mode = s.mode := rfl
@[simp] theorem setRebuild_coast (lane step : Nat) (s : State) : (setRebuild lane step s).coast = s.coast := rfl
@[simp] theorem setRebuild_pools (lane step : Nat) (s : State) : (setRebuild lane step s).pools = s.pools := rfl
@[simp] theorem setRebuild_cat (lane step : Nat) (s : State) : (setRebuild lane step s).cat = s.cat := rfl
@[simp] theorem setRebuild_led (lane step : Nat) (s : State) : (setRebuild lane step s).led = s.led := rfl
@[simp] theorem setRebuild_inv (lane step : Nat) (s : State) : (setRebuild lane step s).inv = s.inv := rfl
@[simp] theorem setRebuild_wr (lane step : Nat) (s : State) : (setRebuild lane step s).wr = s.wr := rfl
@[simp] theorem setRebuild_fl (lane step : Nat) (s : State) : (setRebuild lane step s).fl = s.fl := rfl
@[simp] theorem setRebuild_esc (lane step : Nat) (s : State) : (setRebuild lane step s).esc = s.esc := rfl
@[simp] theorem setRebuild_link (lane step : Nat) (s : State) : (setRebuild lane step s).link = s.link := rfl
@[simp] theorem setRebuild_nv (lane step : Nat) (s : State) : (setRebuild lane step s).nv = s.nv := rfl
@[simp] theorem setRebuild_key (lane step : Nat) (s : State) : (setRebuild lane step s).key = s.key := rfl
@[simp] theorem setRebuild_pel (lane step : Nat) (s : State) : (setRebuild lane step s).pel = s.pel := rfl
@[simp] theorem setRebuild_ech (lane step : Nat) (s : State) : (setRebuild lane step s).ech = s.ech := rfl
@[simp] theorem setRebuild_dram (lane step : Nat) (s : State) : (setRebuild lane step s).dram = s.dram := rfl
@[simp] theorem setRebuild_fol (lane step : Nat) (s : State) : (setRebuild lane step s).fol = s.fol := rfl
@[simp] theorem setRebuild_lib (lane step : Nat) (s : State) : (setRebuild lane step s).lib = s.lib := rfl
@[simp] theorem setRebuild_sens (lane step : Nat) (s : State) : (setRebuild lane step s).sens = s.sens := rfl
@[simp] theorem setRebuild_day (lane step : Nat) (s : State) : (setRebuild lane step s).day = s.day := rfl
@[simp] theorem setRebuild_cdx (lane step : Nat) (s : State) : (setRebuild lane step s).cdx = s.cdx := rfl
@[simp] theorem setRebuild_upd (lane step : Nat) (s : State) : (setRebuild lane step s).upd = s.upd := rfl
@[simp] theorem setRebuild_free (lane step : Nat) (s : State) : (setRebuild lane step s).free = s.free := rfl
@[simp] theorem setRebuild_pending (lane step : Nat) (s : State) : (setRebuild lane step s).pending = s.pending := rfl

/-! `dropTorn` -/

theorem dropTorn_wr (f : StartFacts) (l : List Nat) (s : State) :
    (dropTorn f l s).wr = { s.wr with
      flash := s.wr.flash.filter fun c => ! tornAt f l s (BitVec.ofNat 40 c.1)
      parity := s.wr.parity.filter fun c => ! tornAt f l s (BitVec.ofNat 40 c.1) } := rfl
@[simp] theorem dropTorn_clock (f : StartFacts) (l : List Nat) (s : State) : (dropTorn f l s).clock = s.clock := rfl
@[simp] theorem dropTorn_pins (f : StartFacts) (l : List Nat) (s : State) : (dropTorn f l s).pins = s.pins := rfl
@[simp] theorem dropTorn_mode (f : StartFacts) (l : List Nat) (s : State) : (dropTorn f l s).mode = s.mode := rfl
@[simp] theorem dropTorn_coast (f : StartFacts) (l : List Nat) (s : State) : (dropTorn f l s).coast = s.coast := rfl
@[simp] theorem dropTorn_pools (f : StartFacts) (l : List Nat) (s : State) : (dropTorn f l s).pools = s.pools := rfl
@[simp] theorem dropTorn_cat (f : StartFacts) (l : List Nat) (s : State) : (dropTorn f l s).cat = s.cat := rfl
@[simp] theorem dropTorn_led (f : StartFacts) (l : List Nat) (s : State) : (dropTorn f l s).led = s.led := rfl
@[simp] theorem dropTorn_inv (f : StartFacts) (l : List Nat) (s : State) : (dropTorn f l s).inv = s.inv := rfl
@[simp] theorem dropTorn_blk (f : StartFacts) (l : List Nat) (s : State) : (dropTorn f l s).blk = s.blk := rfl
@[simp] theorem dropTorn_fl (f : StartFacts) (l : List Nat) (s : State) : (dropTorn f l s).fl = s.fl := rfl
@[simp] theorem dropTorn_esc (f : StartFacts) (l : List Nat) (s : State) : (dropTorn f l s).esc = s.esc := rfl
@[simp] theorem dropTorn_link (f : StartFacts) (l : List Nat) (s : State) : (dropTorn f l s).link = s.link := rfl
@[simp] theorem dropTorn_nv (f : StartFacts) (l : List Nat) (s : State) : (dropTorn f l s).nv = s.nv := rfl
@[simp] theorem dropTorn_key (f : StartFacts) (l : List Nat) (s : State) : (dropTorn f l s).key = s.key := rfl
@[simp] theorem dropTorn_pel (f : StartFacts) (l : List Nat) (s : State) : (dropTorn f l s).pel = s.pel := rfl
@[simp] theorem dropTorn_ech (f : StartFacts) (l : List Nat) (s : State) : (dropTorn f l s).ech = s.ech := rfl
@[simp] theorem dropTorn_dram (f : StartFacts) (l : List Nat) (s : State) : (dropTorn f l s).dram = s.dram := rfl
@[simp] theorem dropTorn_fol (f : StartFacts) (l : List Nat) (s : State) : (dropTorn f l s).fol = s.fol := rfl
@[simp] theorem dropTorn_lib (f : StartFacts) (l : List Nat) (s : State) : (dropTorn f l s).lib = s.lib := rfl
@[simp] theorem dropTorn_sens (f : StartFacts) (l : List Nat) (s : State) : (dropTorn f l s).sens = s.sens := rfl
@[simp] theorem dropTorn_day (f : StartFacts) (l : List Nat) (s : State) : (dropTorn f l s).day = s.day := rfl
@[simp] theorem dropTorn_cdx (f : StartFacts) (l : List Nat) (s : State) : (dropTorn f l s).cdx = s.cdx := rfl
@[simp] theorem dropTorn_upd (f : StartFacts) (l : List Nat) (s : State) : (dropTorn f l s).upd = s.upd := rfl
@[simp] theorem dropTorn_free (f : StartFacts) (l : List Nat) (s : State) : (dropTorn f l s).free = s.free := rfl
@[simp] theorem dropTorn_pending (f : StartFacts) (l : List Nat) (s : State) : (dropTorn f l s).pending = s.pending := rfl

/-! `modRelay` -/

theorem modRelay_upd (f : Relay → Relay) (s : State) :
    (modRelay f s).upd = { s.upd with relay := f s.upd.relay } := rfl
@[simp] theorem modRelay_clock (f : Relay → Relay) (s : State) : (modRelay f s).clock = s.clock := rfl
@[simp] theorem modRelay_pins (f : Relay → Relay) (s : State) : (modRelay f s).pins = s.pins := rfl
@[simp] theorem modRelay_mode (f : Relay → Relay) (s : State) : (modRelay f s).mode = s.mode := rfl
@[simp] theorem modRelay_coast (f : Relay → Relay) (s : State) : (modRelay f s).coast = s.coast := rfl
@[simp] theorem modRelay_pools (f : Relay → Relay) (s : State) : (modRelay f s).pools = s.pools := rfl
@[simp] theorem modRelay_cat (f : Relay → Relay) (s : State) : (modRelay f s).cat = s.cat := rfl
@[simp] theorem modRelay_led (f : Relay → Relay) (s : State) : (modRelay f s).led = s.led := rfl
@[simp] theorem modRelay_inv (f : Relay → Relay) (s : State) : (modRelay f s).inv = s.inv := rfl
@[simp] theorem modRelay_wr (f : Relay → Relay) (s : State) : (modRelay f s).wr = s.wr := rfl
@[simp] theorem modRelay_blk (f : Relay → Relay) (s : State) : (modRelay f s).blk = s.blk := rfl
@[simp] theorem modRelay_fl (f : Relay → Relay) (s : State) : (modRelay f s).fl = s.fl := rfl
@[simp] theorem modRelay_esc (f : Relay → Relay) (s : State) : (modRelay f s).esc = s.esc := rfl
@[simp] theorem modRelay_link (f : Relay → Relay) (s : State) : (modRelay f s).link = s.link := rfl
@[simp] theorem modRelay_nv (f : Relay → Relay) (s : State) : (modRelay f s).nv = s.nv := rfl
@[simp] theorem modRelay_key (f : Relay → Relay) (s : State) : (modRelay f s).key = s.key := rfl
@[simp] theorem modRelay_pel (f : Relay → Relay) (s : State) : (modRelay f s).pel = s.pel := rfl
@[simp] theorem modRelay_ech (f : Relay → Relay) (s : State) : (modRelay f s).ech = s.ech := rfl
@[simp] theorem modRelay_dram (f : Relay → Relay) (s : State) : (modRelay f s).dram = s.dram := rfl
@[simp] theorem modRelay_fol (f : Relay → Relay) (s : State) : (modRelay f s).fol = s.fol := rfl
@[simp] theorem modRelay_lib (f : Relay → Relay) (s : State) : (modRelay f s).lib = s.lib := rfl
@[simp] theorem modRelay_sens (f : Relay → Relay) (s : State) : (modRelay f s).sens = s.sens := rfl
@[simp] theorem modRelay_day (f : Relay → Relay) (s : State) : (modRelay f s).day = s.day := rfl
@[simp] theorem modRelay_cdx (f : Relay → Relay) (s : State) : (modRelay f s).cdx = s.cdx := rfl
@[simp] theorem modRelay_free (f : Relay → Relay) (s : State) : (modRelay f s).free = s.free := rfl
@[simp] theorem modRelay_pending (f : Relay → Relay) (s : State) : (modRelay f s).pending = s.pending := rfl

/-! `modDie` -/

theorem modDie_fl (ch t : Nat) (f : Die → Die) (s : State) :
    (modDie ch t f s).fl = { s.fl with
      dies := modWhere (fun d => d.channel = ch && d.target = t) f s.fl.dies } := rfl
@[simp] theorem modDie_clock (ch t : Nat) (f : Die → Die) (s : State) : (modDie ch t f s).clock = s.clock := rfl
@[simp] theorem modDie_pins (ch t : Nat) (f : Die → Die) (s : State) : (modDie ch t f s).pins = s.pins := rfl
@[simp] theorem modDie_mode (ch t : Nat) (f : Die → Die) (s : State) : (modDie ch t f s).mode = s.mode := rfl
@[simp] theorem modDie_coast (ch t : Nat) (f : Die → Die) (s : State) : (modDie ch t f s).coast = s.coast := rfl
@[simp] theorem modDie_pools (ch t : Nat) (f : Die → Die) (s : State) : (modDie ch t f s).pools = s.pools := rfl
@[simp] theorem modDie_cat (ch t : Nat) (f : Die → Die) (s : State) : (modDie ch t f s).cat = s.cat := rfl
@[simp] theorem modDie_led (ch t : Nat) (f : Die → Die) (s : State) : (modDie ch t f s).led = s.led := rfl
@[simp] theorem modDie_inv (ch t : Nat) (f : Die → Die) (s : State) : (modDie ch t f s).inv = s.inv := rfl
@[simp] theorem modDie_wr (ch t : Nat) (f : Die → Die) (s : State) : (modDie ch t f s).wr = s.wr := rfl
@[simp] theorem modDie_blk (ch t : Nat) (f : Die → Die) (s : State) : (modDie ch t f s).blk = s.blk := rfl
@[simp] theorem modDie_esc (ch t : Nat) (f : Die → Die) (s : State) : (modDie ch t f s).esc = s.esc := rfl
@[simp] theorem modDie_link (ch t : Nat) (f : Die → Die) (s : State) : (modDie ch t f s).link = s.link := rfl
@[simp] theorem modDie_nv (ch t : Nat) (f : Die → Die) (s : State) : (modDie ch t f s).nv = s.nv := rfl
@[simp] theorem modDie_key (ch t : Nat) (f : Die → Die) (s : State) : (modDie ch t f s).key = s.key := rfl
@[simp] theorem modDie_pel (ch t : Nat) (f : Die → Die) (s : State) : (modDie ch t f s).pel = s.pel := rfl
@[simp] theorem modDie_ech (ch t : Nat) (f : Die → Die) (s : State) : (modDie ch t f s).ech = s.ech := rfl
@[simp] theorem modDie_dram (ch t : Nat) (f : Die → Die) (s : State) : (modDie ch t f s).dram = s.dram := rfl
@[simp] theorem modDie_fol (ch t : Nat) (f : Die → Die) (s : State) : (modDie ch t f s).fol = s.fol := rfl
@[simp] theorem modDie_lib (ch t : Nat) (f : Die → Die) (s : State) : (modDie ch t f s).lib = s.lib := rfl
@[simp] theorem modDie_sens (ch t : Nat) (f : Die → Die) (s : State) : (modDie ch t f s).sens = s.sens := rfl
@[simp] theorem modDie_day (ch t : Nat) (f : Die → Die) (s : State) : (modDie ch t f s).day = s.day := rfl
@[simp] theorem modDie_cdx (ch t : Nat) (f : Die → Die) (s : State) : (modDie ch t f s).cdx = s.cdx := rfl
@[simp] theorem modDie_upd (ch t : Nat) (f : Die → Die) (s : State) : (modDie ch t f s).upd = s.upd := rfl
@[simp] theorem modDie_free (ch t : Nat) (f : Die → Die) (s : State) : (modDie ch t f s).free = s.free := rfl
@[simp] theorem modDie_pending (ch t : Nat) (f : Die → Die) (s : State) : (modDie ch t f s).pending = s.pending := rfl

/-! `newHeadroom` -/

theorem newHeadroom_blk (s : State) :
    (newHeadroom s).blk = { s.blk with
      headroom := headroom s, belowBoot := s.blk.belowBoot && decide (headroom s < preserveFloor s) } := rfl
@[simp] theorem newHeadroom_clock (s : State) : (newHeadroom s).clock = s.clock := rfl
@[simp] theorem newHeadroom_pins (s : State) : (newHeadroom s).pins = s.pins := rfl
@[simp] theorem newHeadroom_mode (s : State) : (newHeadroom s).mode = s.mode := rfl
@[simp] theorem newHeadroom_coast (s : State) : (newHeadroom s).coast = s.coast := rfl
@[simp] theorem newHeadroom_pools (s : State) : (newHeadroom s).pools = s.pools := rfl
@[simp] theorem newHeadroom_cat (s : State) : (newHeadroom s).cat = s.cat := rfl
@[simp] theorem newHeadroom_led (s : State) : (newHeadroom s).led = s.led := rfl
@[simp] theorem newHeadroom_inv (s : State) : (newHeadroom s).inv = s.inv := rfl
@[simp] theorem newHeadroom_wr (s : State) : (newHeadroom s).wr = s.wr := rfl
@[simp] theorem newHeadroom_fl (s : State) : (newHeadroom s).fl = s.fl := rfl
@[simp] theorem newHeadroom_esc (s : State) : (newHeadroom s).esc = s.esc := rfl
@[simp] theorem newHeadroom_link (s : State) : (newHeadroom s).link = s.link := rfl
@[simp] theorem newHeadroom_nv (s : State) : (newHeadroom s).nv = s.nv := rfl
@[simp] theorem newHeadroom_key (s : State) : (newHeadroom s).key = s.key := rfl
@[simp] theorem newHeadroom_pel (s : State) : (newHeadroom s).pel = s.pel := rfl
@[simp] theorem newHeadroom_ech (s : State) : (newHeadroom s).ech = s.ech := rfl
@[simp] theorem newHeadroom_dram (s : State) : (newHeadroom s).dram = s.dram := rfl
@[simp] theorem newHeadroom_fol (s : State) : (newHeadroom s).fol = s.fol := rfl
@[simp] theorem newHeadroom_lib (s : State) : (newHeadroom s).lib = s.lib := rfl
@[simp] theorem newHeadroom_sens (s : State) : (newHeadroom s).sens = s.sens := rfl
@[simp] theorem newHeadroom_day (s : State) : (newHeadroom s).day = s.day := rfl
@[simp] theorem newHeadroom_cdx (s : State) : (newHeadroom s).cdx = s.cdx := rfl
@[simp] theorem newHeadroom_upd (s : State) : (newHeadroom s).upd = s.upd := rfl
@[simp] theorem newHeadroom_free (s : State) : (newHeadroom s).free = s.free := rfl
@[simp] theorem newHeadroom_pending (s : State) : (newHeadroom s).pending = s.pending := rfl

/-! `modRow` -/

theorem modRow_wr (id : Nat) (f : OpenRow → OpenRow) (s : State) :
    (modRow id f s).wr = { s.wr with rows := modWhere (fun r => r.id = id) f s.wr.rows } := rfl
@[simp] theorem modRow_clock (id : Nat) (f : OpenRow → OpenRow) (s : State) : (modRow id f s).clock = s.clock := rfl
@[simp] theorem modRow_pins (id : Nat) (f : OpenRow → OpenRow) (s : State) : (modRow id f s).pins = s.pins := rfl
@[simp] theorem modRow_mode (id : Nat) (f : OpenRow → OpenRow) (s : State) : (modRow id f s).mode = s.mode := rfl
@[simp] theorem modRow_coast (id : Nat) (f : OpenRow → OpenRow) (s : State) : (modRow id f s).coast = s.coast := rfl
@[simp] theorem modRow_pools (id : Nat) (f : OpenRow → OpenRow) (s : State) : (modRow id f s).pools = s.pools := rfl
@[simp] theorem modRow_cat (id : Nat) (f : OpenRow → OpenRow) (s : State) : (modRow id f s).cat = s.cat := rfl
@[simp] theorem modRow_led (id : Nat) (f : OpenRow → OpenRow) (s : State) : (modRow id f s).led = s.led := rfl
@[simp] theorem modRow_inv (id : Nat) (f : OpenRow → OpenRow) (s : State) : (modRow id f s).inv = s.inv := rfl
@[simp] theorem modRow_blk (id : Nat) (f : OpenRow → OpenRow) (s : State) : (modRow id f s).blk = s.blk := rfl
@[simp] theorem modRow_fl (id : Nat) (f : OpenRow → OpenRow) (s : State) : (modRow id f s).fl = s.fl := rfl
@[simp] theorem modRow_esc (id : Nat) (f : OpenRow → OpenRow) (s : State) : (modRow id f s).esc = s.esc := rfl
@[simp] theorem modRow_link (id : Nat) (f : OpenRow → OpenRow) (s : State) : (modRow id f s).link = s.link := rfl
@[simp] theorem modRow_nv (id : Nat) (f : OpenRow → OpenRow) (s : State) : (modRow id f s).nv = s.nv := rfl
@[simp] theorem modRow_key (id : Nat) (f : OpenRow → OpenRow) (s : State) : (modRow id f s).key = s.key := rfl
@[simp] theorem modRow_pel (id : Nat) (f : OpenRow → OpenRow) (s : State) : (modRow id f s).pel = s.pel := rfl
@[simp] theorem modRow_ech (id : Nat) (f : OpenRow → OpenRow) (s : State) : (modRow id f s).ech = s.ech := rfl
@[simp] theorem modRow_dram (id : Nat) (f : OpenRow → OpenRow) (s : State) : (modRow id f s).dram = s.dram := rfl
@[simp] theorem modRow_fol (id : Nat) (f : OpenRow → OpenRow) (s : State) : (modRow id f s).fol = s.fol := rfl
@[simp] theorem modRow_lib (id : Nat) (f : OpenRow → OpenRow) (s : State) : (modRow id f s).lib = s.lib := rfl
@[simp] theorem modRow_sens (id : Nat) (f : OpenRow → OpenRow) (s : State) : (modRow id f s).sens = s.sens := rfl
@[simp] theorem modRow_day (id : Nat) (f : OpenRow → OpenRow) (s : State) : (modRow id f s).day = s.day := rfl
@[simp] theorem modRow_cdx (id : Nat) (f : OpenRow → OpenRow) (s : State) : (modRow id f s).cdx = s.cdx := rfl
@[simp] theorem modRow_upd (id : Nat) (f : OpenRow → OpenRow) (s : State) : (modRow id f s).upd = s.upd := rfl
@[simp] theorem modRow_free (id : Nat) (f : OpenRow → OpenRow) (s : State) : (modRow id f s).free = s.free := rfl
@[simp] theorem modRow_pending (id : Nat) (f : OpenRow → OpenRow) (s : State) : (modRow id f s).pending = s.pending := rfl

/-! `miSend` -/

theorem miSend_upd (cmd status : Nat) (b : Blob) (s : State) :
    (miSend cmd status b s).upd = { s.upd with miOut := s.upd.miOut ++ [(cmd, status, b)] } := rfl
@[simp] theorem miSend_clock (cmd status : Nat) (b : Blob) (s : State) : (miSend cmd status b s).clock = s.clock := rfl
@[simp] theorem miSend_pins (cmd status : Nat) (b : Blob) (s : State) : (miSend cmd status b s).pins = s.pins := rfl
@[simp] theorem miSend_mode (cmd status : Nat) (b : Blob) (s : State) : (miSend cmd status b s).mode = s.mode := rfl
@[simp] theorem miSend_coast (cmd status : Nat) (b : Blob) (s : State) : (miSend cmd status b s).coast = s.coast := rfl
@[simp] theorem miSend_pools (cmd status : Nat) (b : Blob) (s : State) : (miSend cmd status b s).pools = s.pools := rfl
@[simp] theorem miSend_cat (cmd status : Nat) (b : Blob) (s : State) : (miSend cmd status b s).cat = s.cat := rfl
@[simp] theorem miSend_led (cmd status : Nat) (b : Blob) (s : State) : (miSend cmd status b s).led = s.led := rfl
@[simp] theorem miSend_inv (cmd status : Nat) (b : Blob) (s : State) : (miSend cmd status b s).inv = s.inv := rfl
@[simp] theorem miSend_wr (cmd status : Nat) (b : Blob) (s : State) : (miSend cmd status b s).wr = s.wr := rfl
@[simp] theorem miSend_blk (cmd status : Nat) (b : Blob) (s : State) : (miSend cmd status b s).blk = s.blk := rfl
@[simp] theorem miSend_fl (cmd status : Nat) (b : Blob) (s : State) : (miSend cmd status b s).fl = s.fl := rfl
@[simp] theorem miSend_esc (cmd status : Nat) (b : Blob) (s : State) : (miSend cmd status b s).esc = s.esc := rfl
@[simp] theorem miSend_link (cmd status : Nat) (b : Blob) (s : State) : (miSend cmd status b s).link = s.link := rfl
@[simp] theorem miSend_nv (cmd status : Nat) (b : Blob) (s : State) : (miSend cmd status b s).nv = s.nv := rfl
@[simp] theorem miSend_key (cmd status : Nat) (b : Blob) (s : State) : (miSend cmd status b s).key = s.key := rfl
@[simp] theorem miSend_pel (cmd status : Nat) (b : Blob) (s : State) : (miSend cmd status b s).pel = s.pel := rfl
@[simp] theorem miSend_ech (cmd status : Nat) (b : Blob) (s : State) : (miSend cmd status b s).ech = s.ech := rfl
@[simp] theorem miSend_dram (cmd status : Nat) (b : Blob) (s : State) : (miSend cmd status b s).dram = s.dram := rfl
@[simp] theorem miSend_fol (cmd status : Nat) (b : Blob) (s : State) : (miSend cmd status b s).fol = s.fol := rfl
@[simp] theorem miSend_lib (cmd status : Nat) (b : Blob) (s : State) : (miSend cmd status b s).lib = s.lib := rfl
@[simp] theorem miSend_sens (cmd status : Nat) (b : Blob) (s : State) : (miSend cmd status b s).sens = s.sens := rfl
@[simp] theorem miSend_day (cmd status : Nat) (b : Blob) (s : State) : (miSend cmd status b s).day = s.day := rfl
@[simp] theorem miSend_cdx (cmd status : Nat) (b : Blob) (s : State) : (miSend cmd status b s).cdx = s.cdx := rfl
@[simp] theorem miSend_free (cmd status : Nat) (b : Blob) (s : State) : (miSend cmd status b s).free = s.free := rfl
@[simp] theorem miSend_pending (cmd status : Nat) (b : Blob) (s : State) : (miSend cmd status b s).pending = s.pending := rfl

/-! `setAttached` -/

theorem setAttached_nv (nsid : Nat) (v : Bool) (s : State) :
    (setAttached nsid v s).nv = { s.nv with
      nss := modWhere (fun n => n.nsid = nsid) (fun n => { n with attached := v }) s.nv.nss } := rfl
@[simp] theorem setAttached_clock (nsid : Nat) (v : Bool) (s : State) : (setAttached nsid v s).clock = s.clock := rfl
@[simp] theorem setAttached_pins (nsid : Nat) (v : Bool) (s : State) : (setAttached nsid v s).pins = s.pins := rfl
@[simp] theorem setAttached_mode (nsid : Nat) (v : Bool) (s : State) : (setAttached nsid v s).mode = s.mode := rfl
@[simp] theorem setAttached_coast (nsid : Nat) (v : Bool) (s : State) : (setAttached nsid v s).coast = s.coast := rfl
@[simp] theorem setAttached_pools (nsid : Nat) (v : Bool) (s : State) : (setAttached nsid v s).pools = s.pools := rfl
@[simp] theorem setAttached_cat (nsid : Nat) (v : Bool) (s : State) : (setAttached nsid v s).cat = s.cat := rfl
@[simp] theorem setAttached_led (nsid : Nat) (v : Bool) (s : State) : (setAttached nsid v s).led = s.led := rfl
@[simp] theorem setAttached_inv (nsid : Nat) (v : Bool) (s : State) : (setAttached nsid v s).inv = s.inv := rfl
@[simp] theorem setAttached_wr (nsid : Nat) (v : Bool) (s : State) : (setAttached nsid v s).wr = s.wr := rfl
@[simp] theorem setAttached_blk (nsid : Nat) (v : Bool) (s : State) : (setAttached nsid v s).blk = s.blk := rfl
@[simp] theorem setAttached_fl (nsid : Nat) (v : Bool) (s : State) : (setAttached nsid v s).fl = s.fl := rfl
@[simp] theorem setAttached_esc (nsid : Nat) (v : Bool) (s : State) : (setAttached nsid v s).esc = s.esc := rfl
@[simp] theorem setAttached_link (nsid : Nat) (v : Bool) (s : State) : (setAttached nsid v s).link = s.link := rfl
@[simp] theorem setAttached_key (nsid : Nat) (v : Bool) (s : State) : (setAttached nsid v s).key = s.key := rfl
@[simp] theorem setAttached_pel (nsid : Nat) (v : Bool) (s : State) : (setAttached nsid v s).pel = s.pel := rfl
@[simp] theorem setAttached_ech (nsid : Nat) (v : Bool) (s : State) : (setAttached nsid v s).ech = s.ech := rfl
@[simp] theorem setAttached_dram (nsid : Nat) (v : Bool) (s : State) : (setAttached nsid v s).dram = s.dram := rfl
@[simp] theorem setAttached_fol (nsid : Nat) (v : Bool) (s : State) : (setAttached nsid v s).fol = s.fol := rfl
@[simp] theorem setAttached_lib (nsid : Nat) (v : Bool) (s : State) : (setAttached nsid v s).lib = s.lib := rfl
@[simp] theorem setAttached_sens (nsid : Nat) (v : Bool) (s : State) : (setAttached nsid v s).sens = s.sens := rfl
@[simp] theorem setAttached_day (nsid : Nat) (v : Bool) (s : State) : (setAttached nsid v s).day = s.day := rfl
@[simp] theorem setAttached_cdx (nsid : Nat) (v : Bool) (s : State) : (setAttached nsid v s).cdx = s.cdx := rfl
@[simp] theorem setAttached_upd (nsid : Nat) (v : Bool) (s : State) : (setAttached nsid v s).upd = s.upd := rfl
@[simp] theorem setAttached_free (nsid : Nat) (v : Bool) (s : State) : (setAttached nsid v s).free = s.free := rfl
@[simp] theorem setAttached_pending (nsid : Nat) (v : Bool) (s : State) : (setAttached nsid v s).pending = s.pending := rfl

/-! `setEn` -/

theorem setEn_nv (v : Bool) (s : State) :
    (setEn v s).nv = { s.nv with cc := if v then s.nv.cc ||| 0x1#32 else s.nv.cc &&& 0xFFFFFFFE#32 } := rfl
@[simp] theorem setEn_clock (v : Bool) (s : State) : (setEn v s).clock = s.clock := rfl
@[simp] theorem setEn_pins (v : Bool) (s : State) : (setEn v s).pins = s.pins := rfl
@[simp] theorem setEn_mode (v : Bool) (s : State) : (setEn v s).mode = s.mode := rfl
@[simp] theorem setEn_coast (v : Bool) (s : State) : (setEn v s).coast = s.coast := rfl
@[simp] theorem setEn_pools (v : Bool) (s : State) : (setEn v s).pools = s.pools := rfl
@[simp] theorem setEn_cat (v : Bool) (s : State) : (setEn v s).cat = s.cat := rfl
@[simp] theorem setEn_led (v : Bool) (s : State) : (setEn v s).led = s.led := rfl
@[simp] theorem setEn_inv (v : Bool) (s : State) : (setEn v s).inv = s.inv := rfl
@[simp] theorem setEn_wr (v : Bool) (s : State) : (setEn v s).wr = s.wr := rfl
@[simp] theorem setEn_blk (v : Bool) (s : State) : (setEn v s).blk = s.blk := rfl
@[simp] theorem setEn_fl (v : Bool) (s : State) : (setEn v s).fl = s.fl := rfl
@[simp] theorem setEn_esc (v : Bool) (s : State) : (setEn v s).esc = s.esc := rfl
@[simp] theorem setEn_link (v : Bool) (s : State) : (setEn v s).link = s.link := rfl
@[simp] theorem setEn_key (v : Bool) (s : State) : (setEn v s).key = s.key := rfl
@[simp] theorem setEn_pel (v : Bool) (s : State) : (setEn v s).pel = s.pel := rfl
@[simp] theorem setEn_ech (v : Bool) (s : State) : (setEn v s).ech = s.ech := rfl
@[simp] theorem setEn_dram (v : Bool) (s : State) : (setEn v s).dram = s.dram := rfl
@[simp] theorem setEn_fol (v : Bool) (s : State) : (setEn v s).fol = s.fol := rfl
@[simp] theorem setEn_lib (v : Bool) (s : State) : (setEn v s).lib = s.lib := rfl
@[simp] theorem setEn_sens (v : Bool) (s : State) : (setEn v s).sens = s.sens := rfl
@[simp] theorem setEn_day (v : Bool) (s : State) : (setEn v s).day = s.day := rfl
@[simp] theorem setEn_cdx (v : Bool) (s : State) : (setEn v s).cdx = s.cdx := rfl
@[simp] theorem setEn_upd (v : Bool) (s : State) : (setEn v s).upd = s.upd := rfl
@[simp] theorem setEn_free (v : Bool) (s : State) : (setEn v s).free = s.free := rfl
@[simp] theorem setEn_pending (v : Bool) (s : State) : (setEn v s).pending = s.pending := rfl

end Sys2Proof.Machine
end

