-- ==== Sys2Proof/Machine/Checks.lean ====
section
/-! DEFINITION. The values that the hardware computes over bytes: check values with their seeds and context words (R160,
R161), the flit CRC (R270), and the initialisation vector of a card (R247). -/

namespace Sys2Proof.Machine

/-! ## Check values (Table 6.7) -/

/-- The CRC of a packet's header and payload. -/
def packetCrc (src dst seq : Nat) (bytes : List Byte) : Word32 := crc32c (packetSeed src dst seq ++ bytes)

/-! ## Context words (Table 6.8) -/

/-- A unit before its first byte; `wide` when a protection information unit computes the 64-bit CRC. -/
def freshContext (cls : Nat) (wide : Bool) : CheckContext :=
  { running := if cls != 2 then 0xFFFFFFFF#64 else if wide then 0xFFFFFFFFFFFFFFFF#64 else 0, count := 0, cls := cls }

/-- The running register after bytes: CRC-32C in its low 32 bits, the T10 CRC in its low 16, the 64-bit CRC in all. -/
def feedRunning (cls : Nat) (wide : Bool) (r : Word64) (l : List Byte) : Word64 :=
  if cls != 2 then (l.foldl crcByte (r.setWidth 32)).setWidth 64
  else if wide then l.foldl crc64Byte r
  else (l.foldl t10Byte (r.setWidth 16)).setWidth 64

/-- The unit takes bytes. A word written back goes on as if the whole input had been processed in one pass. -/
def feedContext (wide : Bool) (c : CheckContext) (l : List Byte) : CheckContext :=
  { c with running := feedRunning c.cls wide c.running l, count := (c.count + l.length) % 2 ^ 32 }

/-- The check value: the running register with the final XOR of its class. -/
def contextValue (wide : Bool) (c : CheckContext) : Word64 :=
  if c.cls != 2 then (~~~ (c.running.setWidth 32)).setWidth 64
  else if wide then ~~~ c.running
  else c.running

/-- The context word of Table 6.8: RUNNING, COUNT, CLASS. -/
def contextWord (c : CheckContext) : BitVec 128 :=
  BitVec.ofNat 128 (2 ^ 64 * c.running.toNat + 2 ^ 32 * (c.count % 2 ^ 32) + c.cls % 4)

/-- The context that a written word holds. -/
def contextOf (w : BitVec 128) : CheckContext :=
  { running := w.extractLsb' 64 64, count := (w.extractLsb' 32 32).toNat, cls := (w.extractLsb' 0 2).toNat }

/-! ## The initialisation vector (Table 11.1) -/

/-- The 12 bytes: ACCESSION, then SLOT in [31:22] and NSID in [21:14] of the last word. -/
def cardIv (accession slot nsid : Nat) : List Byte :=
  leBytes 8 accession ++ leBytes 4 (2 ^ 22 * (slot % 1024) + 2 ^ 14 * (nsid % 256))

end Sys2Proof.Machine
end

