-- ==== Sys2Proof/Machine/Package.lean ====
section
/-! DEFINITION. The package: identity, ball map, signals, pin states and limits (R2, R22, R23, R432 to R451). -/

namespace Sys2Proof.Machine

/-! ## Identity (R1, R2, R199, R450, R451) -/

def vendorId : Nat := 0x2C4F
def deviceId : Nat := 0x9640
def revisionId : Nat := 0x10
def classCode : Nat := 0x010802

/-- IDCODE of the test access port. -/
def idcode : Word32 := 0x196404F1#32

/-- The part number field of IDCODE: [27:12]. -/
def idcodePart (w : Word32) : Nat := (w.extractLsb' 12 16).toNat

/-- The ordering code (Table 19.12) and the marking of the lid. -/
def orderingCode : String := "KS9640-B0FX-T"
def lidMarking : String := "KS9640-B0FX"

/-! ## The ball grid (R432) -/

/-- The 19 letters of row names. -/
def rowLetters : List Char := ['A', 'B', 'C', 'D', 'E', 'F', 'G', 'H', 'J', 'K', 'L', 'M', 'N', 'P', 'T', 'U', 'V', 'W', 'Y']

/-- The name of the row of index `i`. -/
def rowName (i : Nat) : List Char :=
  let letter := fun n => rowLetters.getD n '?'
  if i < 19 then [letter i] else [letter ((i - 19) / 19), letter ((i - 19) % 19)]

/-- The centre of ball (i, n) in tenths of a millimetre from the package centre, seen from the top. -/
def ballPlace (i n : Nat) : Int × Int := (8 * (n : Int) - 276, 268 - 8 * (i : Int))

/-! ## What a ball carries (R434 to R439) -/

/-- The supply nets of Table 19.5. -/
inductive Supply where
  | vss | vccqFl | vddCore | vddqMem | vddSram | vddAon | vddIo | vddaPe075 | vddaPe12 | vddaPl075 | vddaPl12
  deriving DecidableEq, Repr

/-- The signals of a flash channel: FLcc_. -/
inductive FlashPin where
  | dq | dqsT | dqsC | reT | reC | cle | ale | weN | wpN | ceN | rbN
  deriving DecidableEq, Repr

/-- The signals of a DRAM subchannel: MEMcs_, and MEMc_RESET_N. -/
inductive MemPin where
  | dq | cb | dqsT | dqsC | ca | csN | ckT | ckC | alertN | resetN
  deriving DecidableEq, Repr

/-- The signals of a Peloton port: PLp_. -/
inductive PortPin where
  | txP | txN | rxP | rxN | aliveTx | aliveRx
  deriving DecidableEq, Repr

/-- The signals of the PCIe block. -/
inductive PciePin where
  | txP | txN | rxP | rxN | refclkP | refclkN | perstN | clkreqN
  deriving DecidableEq, Repr

/-- The signals of the system block (Table 19.4). -/
inductive SystemPin where
  | trstN | testMode | coreVset | tck | tms | tdi | tdo | mgmtScl | mgmtSda | ref25In | pwrfailN | holdupOk | v12Sense
  | thermAlertN
  deriving DecidableEq, Repr

/-- What stands at a grid position; `unit` is a channel, port or lane group, `i` the bit or lane; none: depopulated. -/
inductive Ball where
  | flash (channel : Nat) (pin : FlashPin) (i : Nat)
  | mem (channel : Nat) (b : Bool) (pin : MemPin) (i : Nat)
  | port (port : Nat) (pin : PortPin) (i : Nat)
  | pcie (pin : PciePin) (i : Nat)
  | system (pin : SystemPin)
  | supply (net : Supply)
  | none
  deriving DecidableEq, Repr

/-- Table 19.2: the ball at offset (o, j) of the block of channel `c`. -/
def flashBall (c o j : Nat) : Ball :=
  match o, j with
  | 0, _ => .flash c .dq j
  | 1, 1 => .flash c .dqsT 0
  | 1, 2 => .flash c .dqsC 0
  | 1, _ => .supply .vss
  | 2, _ => .flash c .dq (4 + j)
  | 3, 0 => .supply .vss
  | 3, 1 => .flash c .reT 0
  | 3, 2 => .flash c .reC 0
  | 3, _ => .supply .vccqFl
  | 4, 0 => .flash c .cle 0
  | 4, 1 => .flash c .ale 0
  | 4, 2 => .flash c .weN 0
  | 4, _ => .flash c .wpN 0
  | 5, 0 => .flash c .rbN 0
  | 5, 2 => .supply .vss
  | 5, _ => .supply .vccqFl
  | 6, _ => .flash c .ceN j
  | _, _ => .flash c .ceN (4 + j)

/-- The data bit `m` of lane `l`: CB for lane 4. -/
def laneBit (c : Nat) (b : Bool) (l m : Nat) : Ball := if l < 4 then .mem c b .dq (8 * l + m) else .mem c b .cb m

/-- R435: the ball at row offset `o` (0 to 7) and column offset `j` of a subchannel. -/
def memBall (c : Nat) (b : Bool) (o j : Nat) : Ball :=
  let odd := j % 2
  if o = 7 then match j with
    | 0 => .mem c b .csN 0
    | 1 => .mem c b .csN 1
    | 2 => .mem c b .ckT 0
    | 3 => .mem c b .ckC 0
    | 4 => .mem c b .alertN 0
    | 5 => if b then .supply .vss else .mem c false .resetN 0
    | _ => .supply (if odd = 0 then .vddqMem else .vss)
  else if 10 ≤ j then .mem c b .ca (7 * (j - 10) + o)
  else match o with
    | 0 => laneBit c b (j / 2) (4 * odd)
    | 1 => laneBit c b (j / 2) (4 * odd + 1)
    | 2 => .mem c b .dqsT j
    | 3 => .mem c b .dqsC j
    | 4 => laneBit c b (j / 2) (4 * odd + 2)
    | 5 => laneBit c b (j / 2) (4 * odd + 3)
    | _ => .supply (if odd = 0 then .vss else .vddqMem)

/-- A differential pair of lanes `l` and `l + 1` in columns 1, 2, 4 and 5 of a port block's row. -/
def pairBall (p : Nat) (pos neg : PortPin) (l j : Nat) (last : Ball) : Ball :=
  match j with
  | 1 => .port p pos l
  | 2 => .port p neg l
  | 4 => .port p pos (l + 1)
  | 5 => .port p neg (l + 1)
  | 7 => last
  | _ => .supply .vss

/-- Table 19.3: the ball at offset (o, j) of the block of port `p`. -/
def portBall (p o j : Nat) : Ball :=
  match o with
  | 0 => pairBall p .txP .txN 0 j (.port p .aliveTx 0)
  | 1 => pairBall p .txP .txN 2 j (.port p .aliveRx 0)
  | 2 => .supply .vss
  | 3 => pairBall p .rxP .rxN 0 j (.supply .vddaPl075)
  | 4 => pairBall p .rxP .rxN 2 j (.supply .vddaPl12)
  | _ => .supply (match j with | 0 => .vddaPl075 | 1 => .vddaPl12 | _ => .vss)

/-- R437: the ball of lane `n` at row offset `o`, in the second column of its pair where `second`. -/
def pcieBall (n o : Nat) (second : Bool) : Ball :=
  match o with
  | 0 => .pcie (if second then .rxN else .rxP) n
  | 2 => .pcie (if second then .txN else .txP) n
  | 4 => .supply (if second then .vss else .vddaPe075)
  | 5 =>
    if n = 7 then .pcie (if second then .refclkN else .refclkP) 0
    else if n = 8 then .pcie (if second then .clkreqN else .perstN) 0
    else .supply (if second then .vss else .vddaPe12)
  | _ => .supply .vss

/-- Table 19.4, rows BJ to BM as offsets 0 to 3, columns 13 to 16 as offsets 0 to 3. -/
def systemBall (o j : Nat) : Ball :=
  match o, j with
  | 0, 0 => .system .pwrfailN
  | 0, 1 => .system .holdupOk
  | 0, 2 => .system .v12Sense
  | 0, _ => .system .thermAlertN
  | 1, 0 => .system .mgmtScl
  | 1, 1 => .system .mgmtSda
  | 1, 2 => .system .ref25In
  | 1, _ => .supply .vss
  | 2, 0 => .system .tck
  | 2, 1 => .system .tms
  | 2, 2 => .system .tdi
  | 2, _ => .system .tdo
  | _, 0 => .system .trstN
  | _, 1 => .system .testMode
  | _, 2 => .system .coreVset
  | _, _ => .supply .vss

/-- The channel whose block holds row offset `r` from its edge (0 to 15) and column `n`, of the half `q` / 2. -/
def flashAt (half r n : Nat) : Ball :=
  let side := (n - 3) / 32
  let b := (n - 3) % 32 / 4
  flashBall (16 * (2 * half + side) + 8 * (r / 8) + b) (r % 8) ((n - 3) % 4)

/-- R438: a position outside the blocks. -/
def groundBall (i n : Nat) : Ball :=
  if i < 16 || 52 ≤ i then .supply (if n = 1 || n = 68 then .vss else .vccqFl)
  else if n ≤ 12 || 57 ≤ n then .supply (if i = 16 || i = 51 then .vss else .vddqMem)
  else if (i + n) % 2 = 0 then .supply .vss
  else if i ≤ 21 then .supply (if n ≤ 18 then .vddIo else .vddAon)
  else if 46 ≤ i || n = 13 || n = 56 then .supply .vddSram
  else .supply .vddCore

/-- The ball at row index `i` (0 to 67) and column `n` (1 to 68) (Table 19.1). -/
def ballAt (i n : Nat) : Ball :=
  let middle := decide (19 ≤ n) && decide (n ≤ 50)
  if i < 16 && 3 ≤ n && n ≤ 66 then flashAt 0 i n
  else if 52 ≤ i && 3 ≤ n && n ≤ 66 then flashAt 1 (67 - i) n
  else if 18 ≤ i && i ≤ 49 && n ≤ 12 then memBall ((i - 18) / 16) (8 ≤ (i - 18) % 16) ((i - 18) % 8) (n - 1)
  else if 18 ≤ i && i ≤ 49 && 57 ≤ n then memBall (2 + (i - 18) / 16) (8 ≤ (i - 18) % 16) ((i - 18) % 8) (68 - n)
  else if 16 ≤ i && i ≤ 21 && middle then portBall ((n - 19) / 8) (i - 16) ((n - 19) % 8)
  else if 46 ≤ i && i ≤ 51 && middle then pcieBall ((n - 19) / 2) (i - 46) ((n - 19) % 2 = 1)
  else if 46 ≤ i && i ≤ 49 && 13 ≤ n && n ≤ 16 then systemBall (i - 46) (n - 13)
  else if 22 ≤ i && i ≤ 45 && 22 ≤ n && n ≤ 47 then .none
  else groundBall i n

/-- Balls of a row that `f` selects. -/
def rowCount (f : Ball → Bool) (i : Nat) : Nat := ((List.range 68).filter fun n => f (ballAt i (n + 1))).length

/-- Balls of the grid that `f` selects (Table 19.5). -/
def ballCount (f : Ball → Bool) : Nat := (List.range 68).foldl (fun a i => a + rowCount f i) 0

/-- A ball that carries a signal. -/
def isSignal : Ball → Bool
  | .supply _ | .none => false
  | _ => true

/-! ## Signals (Table 19.6) -/

inductive PinDir where
  | input | output | both | openDrain | analog
  deriving DecidableEq, Repr

def flashDir : FlashPin → PinDir
  | .dq | .dqsT | .dqsC => .both
  | .rbN => .input
  | _ => .output

def memDir : MemPin → PinDir
  | .dq | .cb | .dqsT | .dqsC => .both
  | .alertN => .input
  | _ => .output

def portDir : PortPin → PinDir
  | .txP | .txN | .aliveTx => .output
  | _ => .input

def pcieDir : PciePin → PinDir
  | .txP | .txN => .output
  | .clkreqN => .openDrain
  | _ => .input

def systemDir : SystemPin → PinDir
  | .coreVset | .tdo => .output
  | .mgmtScl | .mgmtSda | .holdupOk | .thermAlertN => .openDrain
  | .v12Sense => .analog
  | _ => .input

def signalDir : Ball → Option PinDir
  | .flash _ p _ => some (flashDir p)
  | .mem _ _ p _ => some (memDir p)
  | .port _ p _ => some (portDir p)
  | .pcie p _ => some (pcieDir p)
  | .system p => some (systemDir p)
  | .supply _ | .none => Option.none

/-- The pad supply of a signal; of two, the first that Table 19.6 names. -/
def padSupply : Ball → Option Supply
  | .flash .. => some .vccqFl
  | .mem .. => some .vddqMem
  | .port _ .aliveTx _ | .port _ .aliveRx _ => some .vddIo
  | .port .. => some .vddaPl075
  | .pcie .perstN _ | .pcie .clkreqN _ => some .vddAon
  | .pcie .refclkP _ | .pcie .refclkN _ => some .vddaPe12
  | .pcie .. => some .vddaPe075
  | .system .pwrfailN | .system .holdupOk | .system .v12Sense => some .vddAon
  | .system _ => some .vddIo
  | .supply _ | .none => Option.none

/-- The 12 V supply at V12_SENSE in mV, through the divider of 9 kΩ over 1 kΩ. -/
def senseMv (v12Mv : Nat) : Nat := v12Mv / 10

/-! ## Pin states (R440, Table 19.7) -/

/-- A column of Table 19.7; the modes that it has no column for are `running`. -/
inductive PinPhase where
  | padOff | reset | rising (step : Nat) | running | coasted
  deriving DecidableEq, Repr

/-- What a pin does. `asRules`: as the rules of its interface say. -/
inductive PinState where
  | highZ | low | high | pullUp | pullDown | driven | idle | electricalIdle | released | terminated | unterminated
  | asRules | duty (thousandths : Nat)
  deriving DecidableEq, Repr

/-- The column that holds for pads of a supply that is on; in Rising with the step of Table 8.4 in progress, from 1 on. -/
def pinPhase (s : State) : PinPhase :=
  match s.mode.mode with
  | .unpowered => .padOff
  | .dormant => .reset
  | .rising => match s.mode.startRun with
    | some r => .rising (r.ended + 1)
    | none => .running
  | .coast => if s.coast.phase = .hold then .coasted else .running
  | _ => .running

/-- The rows of the flash pins. -/
def flashState (ph : PinPhase) : FlashPin → PinState
  | .ceN => match ph with
    | .padOff | .reset => .highZ
    | .rising n => if n < 4 then .high else .driven
    | .running => .driven
    | .coasted => .high
  | .wpN => match ph with
    | .padOff | .reset => .highZ
    | .rising n => if n ≤ 4 then .low else .high
    | .running => .high
    | .coasted => .low
  | .cle | .ale => match ph with | .padOff => .highZ | .reset => .pullDown | .coasted => .idle | _ => .driven
  | .weN => match ph with | .padOff => .highZ | .reset => .pullUp | .coasted => .idle | _ => .driven
  | .rbN => .pullUp
  | _ => match ph with | .padOff | .reset | .coasted => .highZ | _ => .driven

/-- The rows of the DRAM pins. -/
def memState (ph : PinPhase) : MemPin → PinState
  | .resetN => match ph with
    | .padOff => .highZ
    | .reset | .coasted => .low
    | .rising n => if n < 3 then .low else .high
    | .running => .high
  | _ => match ph with
    | .padOff | .reset | .coasted => .highZ
    | .rising n => if n < 3 then .highZ else .driven
    | .running => .driven

/-- The rows of the Peloton pins. -/
def portState (ph : PinPhase) : PortPin → PinState
  | .txP | .txN => match ph with
    | .padOff => .highZ
    | .reset | .coasted => .electricalIdle
    | .rising n => if n ≤ 2 then .electricalIdle else .asRules
    | .running => .asRules
  | .aliveTx => match ph with
    | .padOff => .highZ
    | .reset | .coasted => .low
    | .rising n => if n ≤ 2 then .low else .asRules
    | .running => .asRules
  | .aliveRx => match ph with | .padOff => .highZ | _ => .pullDown
  | _ => .asRules

/-- The rows of the PCIe pins. -/
def pcieState (ph : PinPhase) : PciePin → PinState
  | .txP | .txN => match ph with | .padOff => .highZ | .reset => .electricalIdle | _ => .asRules
  | .rxP | .rxN => match ph with | .padOff | .reset => .unterminated | _ => .terminated
  | .clkreqN => match ph with | .padOff => .highZ | .reset => .released | _ => .asRules
  | _ => .asRules

/-- The rows of the system pins; CORE_VSET is driven with its high fraction, 0.70 V once Coast has completed. -/
def systemState (duty : Nat) (ph : PinPhase) : SystemPin → PinState
  | .holdupOk | .thermAlertN | .mgmtScl | .mgmtSda => match ph with
    | .padOff => .highZ
    | .reset | .coasted => .released
    | _ => .asRules
  | .coreVset => match ph with
    | .padOff | .reset => .highZ
    | .rising n => if n = 0 then .highZ else .duty 500
    | .running => .duty duty
    | .coasted => .duty 500
  | .tck | .trstN | .testMode => match ph with | .padOff => .highZ | _ => .pullDown
  | .tms | .tdi => match ph with | .padOff => .highZ | _ => .pullUp
  | .tdo => match ph with | .padOff => .highZ | _ => .asRules
  | _ => .asRules

/-- The rail of R379 that feeds a supply net. -/
def railOf : Supply → Nat
  | .vddCore => 0
  | .vddSram => 1
  | .vddAon => 2
  | .vddqMem => 3
  | .vccqFl => 4
  | .vddaPe075 => 5
  | .vddaPe12 => 6
  | .vddaPl075 => 7
  | .vddaPl12 => 8
  | .vddIo => 9
  | .vss => 10

/-- The pad supply of a signal is on. -/
def padOn (s : State) (b : Ball) : Bool :=
  match padSupply b with
  | some .vddAon => s.pins.aonOk
  | some r => s.pins.railOk.getD (railOf r) false
  | Option.none => true

/-- The state of a signal pin: none while the scan chain drives it, and for a ball that carries no signal. -/
def pinState (s : State) (b : Ball) : Option PinState :=
  if s.pins.jtagBoundary then Option.none
  else
    let ph := if padOn s b then pinPhase s else .padOff
    match b with
    | .flash _ p _ => some (flashState ph p)
    | .mem _ _ p _ => some (memState ph p)
    | .port _ p _ => some (portState ph p)
    | .pcie p _ => some (pcieState ph p)
    | .system p => some (systemState s.pins.coreVset ph p)
    | .supply _ | .none => Option.none

/-! ## Limits (R22, R23, R448, R449) -/

/-- Rate limits of Table 1.8 in MB/s: PCIe link, flash channels, hard-decision decode, cipher, DRAM. -/
def rateLimits : List Nat := [236000, 307200, 307200, 384000, 281600]

/-- Completion entries per second. -/
def completionLimit : Nat := 96000000

/-- Table 1.9: power by block in mW, maximum at full load and typical in Service. -/
def powerByBlock : List (Nat × Nat) :=
  [(14000, 10000), (9000, 6000), (6000, 5000), (7000, 6000), (6000, 0), (6000, 5000), (4000, 3000), (3000, 3000)]

/-- Junction limits in °C: operating, and absolute (Table 19.11). -/
def junctionLow : Int := -40
def junctionHigh : Int := 105
def junctionAbsolute : Int := 125

/-- The junction temperature in hundredths of a °C, from the inlet in °C, the power in mW and θCA in hundredths of
°C/W; θJC is 0.08 °C/W (R449). -/
def junctionTemp (inlet : Int) (milliwatts thetaCa : Nat) : Int := 100 * inlet + milliwatts * (thetaCa + 8) / 1000

end Sys2Proof.Machine
end

