-- ==== Sys2Proof/Machine/Wire.lean ====
section
/-! DEFINITION. The bytes of a fabric packet as its flits carry them: header, payload and CRC-32C, little-endian (R6, R160,
R277, R282, R301, R305, R306). -/

namespace Sys2Proof.Machine

/-- A bit mask of a list of flags, the first in bit 0. -/
def portMask (l : List Bool) : Nat := l.zipIdx.foldl (fun m x => m + if x.1 then 2 ^ x.2 else 0) 0

/-- The body of a PULSE or HELLO (Table 12.4). -/
def pulseBytes (b : PulseBody) : List Byte :=
  leBytes 8 b.serial ++ leBytes 8 b.digest ++ leBytes 4 b.pelotonId ++ leBytes 4 b.pulseNum
    ++ (List.range 4).flatMap (fun p => leBytes 1 (natAt b.partners p))
    ++ leBytes 4 ((if b.captain then 2 ^ 25 else 0) + (if b.assigned then 2 ^ 24 else 0) + 2 ^ 16 * (b.mode % 256)
      + 2 ^ 4 * (portMask b.compat % 16) + portMask b.linked % 16)

/-- A command descriptor (Table 13.5); that of TIMEOUT_REPORT holds the timed-out member at 0x10 instead of a role. -/
def descBytes (d : EcDesc) (timeout : Bool) : List Byte :=
  leBytes 8 (stripeArg d.echelon d.stripe) ++ leBytes 4 d.viewNum
    ++ leBytes 4 ((if timeout then 0 else 2 ^ 24 * (d.role % 256)) + 2 ^ 20 * (d.cardFirst % 16) + 2 ^ 16 * (d.cardsM1 % 16)
      + (if d.full then 2 ^ 15 else 0) + (if d.fua then 2 ^ 14 else 0) + (if d.dealloc then 2 ^ 13 else 0)
      + 2 ^ 9 * (d.dataIndex % 16))
    ++ leBytes 16 (if timeout then d.role % 256 else 0)

/-- A view record with its CRC (Table 13.2). -/
def viewBytes (v : ViewRec) : List Byte :=
  leBytes 60 (encodeView v) ++ leBytes 4 (crc32c (leBytes 60 (encodeView v))).toNat

/-- The record that an INTENT of member `steward` carries (Table 13.6). -/
def intentOf (steward : Nat) (d : EcDesc) (kind dataMask position : Nat) : IntentRec :=
  { slotNo := 0, echelon := d.echelon, stripe := d.stripe, kind := kind
    position := if kind = 2 then position else 0, dataMask := dataMask, steward := steward, cardFirst := d.cardFirst
    cardsM1 := d.cardsM1, viewNum := d.viewNum, timeMs := 0, settling := false }

/-- The payload of a packet; none for relay bytes, which stand in the block that they come from. -/
def payloadBytes (h : PacketHdr) : PktBody → Option (List Byte)
  | .empty => some []
  | .pulse b => some (pulseBytes b)
  | .desc d => some (descBytes d (h.ptype = 3 && h.arg1 / 2 ^ 24 % 256 = 10))
  | .view v => some (viewBytes v)
  | .card l => some (l.flatMap (leBytes 512))
  | .intent d kind mask position => some (leBytes 64 (intentBytes (intentOf h.src d kind mask position)))
  | .bundle _ => none

/-- The 32 bytes of a packet header (Table 12.6). -/
def headerBytes (h : PacketHdr) (len : Nat) : List Byte :=
  leBytes 4 (2 ^ 28 * (h.ptype % 16) + 2 ^ 25 * (h.rank % 8) + (if h.ordered then 2 ^ 24 else 0)
      + (if h.fox then 2 ^ 23 else 0) + (if h.locked then 2 ^ 22 else 0) + len % 2 ^ 16)
    ++ leBytes 4 (2 ^ 24 * (h.ttl % 256) + 2 ^ 16 * (h.dst % 256) + 2 ^ 8 * (h.src % 256))
    ++ leBytes 4 (h.tag % 2 ^ 16) ++ leBytes 4 h.seq ++ leBytes 8 h.arg0 ++ leBytes 8 h.arg1

/-- A packet on the fabric: header, payload, and the CRC over both, seeded with SRC, DST and SEQ. A router that lowers TTL
computes it again (DEDUCED, log entry 173). -/
def wireBytes (h : PacketHdr) (b : PktBody) : Option (List Byte) :=
  (payloadBytes h b).map fun l =>
    let body := headerBytes h l.length ++ l
    body ++ leBytes 4 (packetCrc h.src h.dst h.seq body).toNat

/-- The bytes that the flits of a packet carry: zeros pad it to the end of the last one (R282). -/
def flitBytes (level1 : Bool) (h : PacketHdr) (b : PktBody) : Option (List Byte) :=
  (wireBytes h b).map fun l => l ++ List.replicate (flitsOf level1 b * (if level1 then 120 else 248) - l.length) 0

/-- A receiver's check of the CRC of a packet of a pair SRC to DST (R282). -/
def wireGood (src dst seq : Nat) (l : List Byte) : Bool :=
  (l.drop (l.length - 4)) = leBytes 4 (packetCrc src dst seq (l.take (l.length - 4))).toNat

end Sys2Proof.Machine
end

