-- ==== Sys2Proof/Tests/Slice0.lean ====
section
/-! SUPPORT. The model's own tests: words and steps on small states, and for every statement for the provers a
state and operands that meet its hypotheses. -/

open Sys2Proof Sys2Proof.Machine

namespace Sys2Proof.Tests

/-- A part in Service with its controller ready and its Librarian running. -/
def live : State :=
  { State.reset with
    pins := { State.reset.pins with aonOk := true, perstN := true }
    mode := { State.reset.mode with mode := .service, ready := true }
    lib := { State.reset.lib with state := 0 }
    nv := { State.reset.nv with cc := 1, rdy := true } }

/-- The same part in mode `m`. -/
def inMode (m : Mode) : State := { live with mode := { live.mode with mode := m } }

/-- A submission entry. -/
def entry (op nsid dw10 dw11 : Nat) : SqEntry :=
  { cid := 9, opcode := op, nsid := nsid, dw10 := dw10, dw11 := dw11, dw12 := 0, dw13 := 0, dw14 := 0, dw15 := 0 }

/-- `s` with one command, of queue `q`, in slot `slot`. -/
def withCmd (slot q : Nat) (e : SqEntry) (s : State) : State :=
  { s with nv := { s.nv with cmds := [newCmd slot q q e s] } }


/-- A die profile: QLC, two planes, 64 blocks of 64 pages. -/
def smallProfile : DieProfile :=
  { valid := true, cell := 1, planes := 2, densityTb := 1, blocks := 64, pages := 64, pslcPages := 16, spareBytes := 2048,
    maxRate := 2400, tRead := 60, tReadPslc := 30, tProg := 2000, tProgPslc := 300, tErase := 10000,
    tErasePslc := 5000, tPsusp := 50, tEsusp := 100, tReset := 500, minRunProg := 100, minRunErase := 1000,
    retryCount := 0, offsetMin := -100, offsetMax := 100
    functions := [(1, 1, 0), (2, 2, 0), (3, 3, 0), (4, 4, 0), (5, 5, 0)] }

/-- A Folio of one lane: ten dies on channels 0 to 9, target 0, in slots 0 to 9, with 8 carrel block stripes per plane
group and parity over 8 data slots. -/
def smallFolio : FolioImage :=
  { headerOk := true, crcOk := true, reservedOk := true, schema := 4, sequence := 1, slots := [(0x143, 8)], model := 0,
    fru := 0, profiles := [smallProfile],
    roster := (List.range 10).map fun c => { channel := c, present := 1, ldpcProfile := 0, dieProfile := 0 },
    lanes := (List.range 10).map fun c => { channel := c, target := 0, lane := 0, slot := c },
    echelons := [], namespaces := [], layoutDigest := 0, folioDigest := 0 }

/-- A die that does nothing. -/
def idleDie (ch : Nat) : Die :=
  { channel := ch, target := 0, held := false, resetting := false, timedOut := none, readQ := [], progQ := [],
    eraseQ := [], op := none, suspends := 0, suspended := none, suspending := false, suspReads := [], run0 := 0,
    eraseNext := false, limitNext := none, temp := 0, offsets := [], toutAt := [] }

/-- A Roster of a channel with one present die. -/
def oneDie : Roster :=
  { generation := 1, chState := 0, dieProfile := 0, ldpc := 0, present := 1, retired := 0, reasons := [],
    timingSet := 1, dataRate := 2400, zqInterval := 1, drive := 0, odt := 0, training := [], trainTime := 0,
    trainCount := 0, trainTemp := 0 }

/-- A channel tile at rest. -/
def restChan : Channel :=
  { inForce := oneDie, copy := oneDie, sync := false, training := false, held := false, retrainNext := false, tout := 0,
    susp := 0, capped := 0, iface := [(0, 1)], zqTemp := [], zqDone := 0, toutAt := [] }

/-- The part in Service with that Folio in force and its ten dies idle. -/
def built : State :=
  { live with
    fol := { live.fol with bankA := .image smallFolio, inForce := some false }
    fl := { chans := (List.range 10).map fun c => (c, restChan), dies := (List.range 10).map idleDie } }

theorem withCmd_ready (b : State) (e : SqEntry) (h1 : serving b = true) (h2 : b.lib.state = 0) :
    AdminReady 3 (newCmd 3 0 0 e b) (withCmd 3 0 e b) := by
  refine ⟨?_, rfl, rfl, h1, h2, ?_⟩
  · simp [cmdAt, withCmd, newCmd]
  · simp [behindLibrarian, withCmd, newCmd]

theorem withCmd_ioReady (b : State) (e : SqEntry) (h1 : serving b = true) :
    IoReady 64 (newCmd 64 1 1 e b) (withCmd 64 1 e b) := by
  refine ⟨?_, by simp [newCmd], rfl, h1⟩
  simp [cmdAt, withCmd, newCmd]

/-- A Folio that passes its checks: one lane of sixteen dies of 512 blocks. -/
def goodFolio : FolioImage :=
  { smallFolio with
    profiles := [{ smallProfile with blocks := 512, pages := 1024, pslcPages := 256 }]
    slots := [(0x140, 107374182400), (0x142, 14), (0x143, 64)]
    roster := (List.range 16).map fun c => { channel := c, present := 1, ldpcProfile := 0, dieProfile := 0 }
    lanes := (List.range 16).map fun c => { channel := c, target := 0, lane := 0, slot := c } }

/-! ## Well-formed commands: every check refuses a term -/

def okFacts : StartFacts :=
  { stepMs := [1, 2, 3, 4, 5, 6], lockstepBad := 0, dramFull := false, dramRate := 4400, training := [], coresBad := [],
    unwrapBad := [], rootBad := false, tornPages := [], unbuildable := [], ledgerEnd := 0, picks := [] }

def okTrain : TrainResult := { channel := 3, swept := true, full := false, set := 2, missing := [], temp := 30 }

def okBundle : BundleFacts :=
  { headerOk := true, vendorKeyOk := true, signatureOk := true, hashesOk := true, ldpcSame := true, tablesOk := true,
    hitless := List.replicate 7 true, schema := 4, schemaMin := 1, version := 2, fwRev := 3 }

def okHdr : PacketHdr :=
  { port := 1, src := 1, dst := 2, ttl := 3, ptype := 7, rank := 2, ordered := false, fox := false, locked := false,
    tag := 5, seq := 6, arg0 := 0, arg1 := 0 }

def okPulse : PulseBody :=
  { serial := 1, digest := 0, pelotonId := 0, pulseNum := 0, partners := [0, 0, 0, 0],
    linked := [true, true, true, true], compat := [true, true, true, true], mode := 2, assigned := true,
    captain := false, member := 2 }

def okDesc : EcDesc :=
  { echelon := 0, stripe := 0, viewNum := 0, role := 0, cardFirst := 0, cardsM1 := 3, full := false, fua := false,
    dealloc := false, dataIndex := 0 }

def okView : ViewRec := { viewNum := 1, echelon := 0, holder := 1, places := [(1, 1)] }

def okFlit : FlitIn :=
  { fseq := 0, ack := 0, nak := false, fcrcOk := true, creditRank := 0, credit := 0, rank := 0, sop := true,
    eop := true, ctrl := false, idle := false, hdr := some okHdr }

def okReadings : SensorReadings := { ts := List.replicate 12 30, rails := List.replicate 10 800, v12 := 12000 }

/-- Well-formed terms, one a shape. -/
theorem test_wf_accepts : ([.perstDeassert okFacts, .linkUp 20 640 4 true, .firmwareImageDownload 1 okBundle,
    .go okHdr, .hello okHdr okPulse true true, .cmd okHdr okDesc, .view okHdr okView true, .flitReceive 0 okFlit,
    .sensorSample okReadings, .channelFault 3 okTrain, .data okHdr (List.replicate 8 0),
    .daybookRecordEntry 0 3 [(4, 2), (8, 1)], .codexProgram 0 5 [1#8] none] : List Instr).all Instr.wf = true := by
  decide +kernel

theorem test_wf_refuses_facts : ([{ okFacts with stepMs := [1] }, { okFacts with stepMs := [2 ^ 32, 0, 0, 0, 0, 0] },
    { okFacts with lockstepBad := 3 }, { okFacts with dramRate := 65536 },
    { okFacts with training := [{ okTrain with channel := 64 }] }, { okFacts with training := [{ okTrain with set := 8 }] },
    { okFacts with training := [{ okTrain with missing := [32] }] }, { okFacts with training := [okTrain, okTrain] },
    { okFacts with unwrapBad := [(1024, 1)] }, { okFacts with unwrapBad := [(3, 0)] },
    { okFacts with unwrapBad := [(3, 4)] }] : List StartFacts).any
      (fun f => (Instr.perstDeassert f).wf) = false := by decide +kernel

theorem test_wf_refuses_link_and_queues : ([.linkUp (2 ^ 32) 320 4 false, .linkUp 0 1281 4 false, .linkUp 0 320 3 false,
    .poisonedTlp (.dataOf 65536) false, .completionTimeout (.entryOf 65536 0), .poisonedTlp (.entryOf 0 65536) false,
    .malformedTlp 3, .correctableLinkError 4, .sqTailDoorbell 65536 0, .sqTailDoorbell 0 65536, .cqHeadDoorbell 65536 0,
    .cqHeadDoorbell 0 65536, .commandFetch 65536 0 (entry 0 0 0 0), .commandFetch 0 65536 (entry 0 0 0 0),
    .commandFetch 0 0 (entry 256 0 0 0), .commandFetch 0 0 (entry 0 (2 ^ 32) 0 0),
    .commandFetch 0 0 (entry 0 0 (2 ^ 32) 0), .commandFetch 0 0 (entry 0 0 0 (2 ^ 32)),
    .commandFetch 0 0 { entry 0 0 0 0 with cid := 65536 }, .commandFetch 0 0 { entry 0 0 0 0 with dw12 := 2 ^ 32 },
    .commandFetch 0 0 { entry 0 0 0 0 with dw13 := 2 ^ 32 }, .commandFetch 0 0 { entry 0 0 0 0 with dw14 := 2 ^ 32 },
    .commandFetch 0 0 { entry 0 0 0 0 with dw15 := 2 ^ 32 },
    .commandFetch 0 0 { entry 0 0 0 0 with fuse := 4 }, .commandFetch 0 0 { entry 0 0 0 0 with dw2 := 2 ^ 32 },
    .commandFetch 0 0 { entry 0 0 0 0 with dw3 := 2 ^ 32 }, .interruptCoalesceExpiry 2048, .registerWrite 1 0 4 0,
    .registerWrite 0 65536 4 0, .registerWrite 0 0 0 0, .registerWrite 0 0 9 0, .registerWrite 0 0 1 256,
    .stickyRw1cWrite 5 0] : List Instr).any Instr.wf = false := by decide +kernel

theorem test_wf_refuses_admin : ([.identify 65536, .setFeaturesTimestamp 65536 0, .setFeaturesTimestamp 0 (2 ^ 48),
    .namespaceCreate 65536 0 0 0 0, .namespaceCreate 0 (2 ^ 64) 0 0 0, .namespaceCreate 0 0 (2 ^ 64) 0 0,
    .namespaceCreate 0 0 0 256 0, .namespaceCreate 0 0 0 0 8, .firmwareImageDownload 65536 okBundle,
    .firmwareImageDownload 0 { okBundle with hitless := [] }, .firmwareImageDownload 0 { okBundle with schema := 256 },
    .recoveryFirmwareDownload 0 { okBundle with schemaMin := 256 }, .firmwareImageDownload 0 { okBundle with version := 2 ^ 64 },
    .firmwareImageDownload 0 { okBundle with fwRev := 2 ^ 64 }, .firmwareCommitWrite 65536 true,
    .opalGenkey 0 (2 ^ 32) 0 0, .opalGenkey 0 0 (2 ^ 32) 0, .opalGenkey 0 0 0 256, .opalSetRange 0 0 0 0 (2 ^ 64) 0,
    .opalSetRange 0 0 0 0 0 (2 ^ 64), .opalSetLocking 65536 0 0 0 true true, .opalRevert 0 (2 ^ 32),
    .opalSessionMethod 0 0 5 0 0 0 0 true, .opalSessionMethod 0 0 0 256 0 0 0 true,
    .opalSessionMethod 0 0 0 0 0 0 4 true, .liveFieldSet 65536 0, .compare 65536 [], .datasetManagement 0 [(2 ^ 64, 0)],
    .datasetManagement 0 [(0, 2 ^ 32)], .datasetManagement 0 (List.replicate 257 (0, 0)),
    .folioCommit 65536 smallFolio true, .folioCommit 0 { smallFolio with sequence := 2 ^ 64 } true, .folioCommit 0 { smallFolio with rest := [(0xC0000, 0)] } true,
    .folioCommit 0 { smallFolio with rest := [(0, 256)] } true,
    .folioCommit 0 { smallFolio with profiles := List.replicate 17 smallProfile } true,
    .folioCommit 0 { smallFolio with roster := [{ channel := 64, present := 0, ldpcProfile := 0, dieProfile := 0 }] } true,
    .folioCommit 0 { smallFolio with lanes := [{ channel := 0, target := 32, lane := 0, slot := 0 }] } true,
    .folioCommit 0 { smallFolio with lanes := [{ channel := 0, target := 0, lane := 128, slot := 0 }] } true,
    .folioCommit 0 { smallFolio with layoutDigest := 2 ^ 64 } true,
    .folioCommit 0 { smallFolio with folioDigest := 2 ^ 64 } true,
    .folioCommit 0 { smallFolio with echelons := [{ echelon := 64, k := 1, positions := [], spares := [], nsid := 1, capacity := 0, lbaf := 0 }] } true] :
    List Instr).any Instr.wf = false := by decide +kernel

theorem test_wf_refuses_io_and_flash : ([.poolRequest 2 (.slot 0) [4], .poolRequest 0 (.slot 0) [],
    .poolRequest 0 (.slot 0) [5], .poolFree 8 0, .poolStallServed 2, .writeDataArrived 0 [] [] [(0, 65536, 0)],
    .cardLockGrant 0 (2 ^ 32) 0 false [], .cardLockGrant 1100000 0 0 false [], .cardLockGrant 0 0 16 false [],
    .seqDetectorExpiry 1024, .sealDelayExpiry 0 2048 0, .sealDelayExpiry 0 0 64, .pageProgramDone 64 0,
    .pageProgramDone 0 32, .programFail 64 0 [], .shelfRelease (2 ^ 32), .shelfPageLoad (2 ^ 32),
    .weedingVictimSelect 1024, .weedingCopy 1024 false [], .blockEraseDone 0 [64], .startupReerase 0 [64],
    .laneRebuildStep 128 [], .laneRebuildEnd 128, .rosterSync 64, .rosterLoad 64 true, .flashReadDone 64 0 .unavailable false,
    .readWaitLimitExpiry 0 32 0, .zqIntervalExpiry 64 0, .zqIntervalExpiry 0 8, .dieTempRead 0 0 (-129),
    .dieTempRead 0 0 128, .dieTempRead 64 0 0, .recentreSweep 64 [] 0, .recentreSweep 0 [] 128, .dieNotAnswering 0 0 3,
    .channelFault 64 okTrain, .channelFault 4 okTrain, .escalationEntry 0 2 3, .escalationEntry 0 0 4,
    .contextFree 128 0 0, .contextFree 0 8192 0, .contextFree 0 0 2048, .cipherUnit 24 0 0 0, .cipherUnit 0 1024 0 0,
    .cipherUnit 0 0 (2 ^ 32) 0, .cipherUnit 0 0 0 3] : List Instr).any Instr.wf = false := by decide +kernel

theorem test_wf_refuses_board : ([.v12BelowThreshold 65536 0, .coastDisarm 2, .unitWake 6 0,
    .sensorSample { okReadings with ts := [] }, .sensorSample { okReadings with rails := [] },
    .sensorSample { okReadings with rails := List.replicate 10 65536 }, .sensorSample { okReadings with v12 := 65536 },
    .railOutOfRange 11 0, .railOutOfRange 0 65536, .coreVsetUpdate 1001, .daybookRecordEntry 0 65536 [],
    .daybookRecordEntry 0 0 [(41, 0)], .daybookRecordEntry 0 0 [(1, 256)], .renewSlot 1024, .sweepDurable 1024,
    .keygenTimeout 1024, .dramReadDecode 8 0 0 0 0 0 false ⟨0, 0⟩ ⟨[], 0⟩, .dramReadDecode 0 2 0 0 0 0 false ⟨0, 0⟩ ⟨[], 0⟩,
    .dramReadDecode 0 0 8 0 0 0 false ⟨0, 0⟩ ⟨[], 0⟩, .dramReadDecode 0 0 0 4 0 0 false ⟨0, 0⟩ ⟨[], 0⟩,
    .dramReadDecode 0 0 0 0 262144 0 false ⟨0, 0⟩ ⟨[], 0⟩, .dramReadDecode 0 0 0 0 0 81 false ⟨0, 0⟩ ⟨[], 0⟩,
    .dramReadDecode 0 0 0 0 0 0 false ⟨9, 0⟩ ⟨[], 0⟩, .dramReadDecode 0 0 0 0 0 0 false ⟨0, 0⟩ ⟨[{ port := 8, arrivedNs := 0, rank := 0, bg := 0, bank := 0, row := 0, bursts := 1 }], 0⟩, .patrolScrub 0 0 0 0 0 81 false, .refreshTick 8 false, .mr4Read 2 false false 0,
    .dqsOscillatorRead 2 0, .brakeRaise 2 0, .brakeRaise 0 101, .brakeLower 2, .rowRetire 8 0 0 0 0 false,
    .trainingRecordAppend 0 0 0 0, .trainingRecordAppend 1 64 0 0, .trainingRecordAppend 1 0 65536 0,
    .trainingRecordAppend 1 0 0 (2 ^ 32), .liveFieldBoundary 65536, .codexContinuousReadEnter (2 ^ 27),
    .codexFlagCellQuery (2 ^ 27), .codexSectorErase 5 0, .codexSectorErase 0 (2 ^ 27), .codexProgram 5 0 [] none,
    .codexProgram 0 0 (List.replicate 257 0) none, .codexProgram 0 (2 ^ 27) [] none,
    .codexProgram 0 0 [] (some (.bundle { okBundle with hitless := [] })), .colophonProgram (2 ^ 27) [], .colophonLock 256,
    .endpaperSwap 5 0, .endpaperSwap 0 2, .nvmeMiReadDataStructure 256, .nvmeMiConfigurationGet 256,
    .nvmeMiConfigurationSet 0 (2 ^ 32), .nvmeMiVpdRead 65536 0, .nvmeMiVpdWrite 0 65536,
    .nvmeMiTunnelledAdmin (entry 256 0 0 0), .nvmeMiInvalidCommand 256, .aspmL1 true 3] : List Instr).any Instr.wf
      = false := by decide +kernel

theorem test_wf_refuses_fabric : ([.partnerAliveRise 4, .portFecLock 0 4, .trainingRetryExpiry 4,
    .helloAssign okHdr okPulse 256 0, .helloAssign okHdr okPulse 0 (2 ^ 64), .pulseTimeout (2 ^ 64), .flitNak 0 4096,
    .routingTableWrite [4], .go { okHdr with port := 5 }, .go { okHdr with src := 256 }, .go { okHdr with dst := 256 },
    .go { okHdr with ttl := 256 }, .go { okHdr with ptype := 16 }, .go { okHdr with rank := 8 },
    .go { okHdr with tag := 65536 }, .go { okHdr with seq := 2 ^ 32 }, .go { okHdr with arg0 := 2 ^ 64 },
    .go { okHdr with arg1 := 2 ^ 64 }, .pulse okHdr { okPulse with partners := [] },
    .pulse okHdr { okPulse with partners := [256, 0, 0, 0] }, .pulse okHdr { okPulse with linked := [] },
    .pulse okHdr { okPulse with compat := [] }, .pulse okHdr { okPulse with mode := 16 },
    .pulse okHdr { okPulse with member := 256 }, .pulse okHdr { okPulse with serial := 2 ^ 64 },
    .cmd okHdr { okDesc with echelon := 64 }, .cmd okHdr { okDesc with stripe := 2 ^ 58 },
    .cmd okHdr { okDesc with cardFirst := 13 }, .cmd okHdr { okDesc with dataIndex := 256 },
    .view okHdr { okView with places := [(1, 5)] } true, .view okHdr { okView with places := List.replicate 19 (1, 1) } true,
    .flitReceive 0 { okFlit with fseq := 4096 }, .flitReceive 0 { okFlit with creditRank := 5 },
    .flitReceive 0 { okFlit with rank := 5 }, .flitReceive 0 { okFlit with sop := false },
    .flitReceive 0 { okFlit with hdr := some { okHdr with port := 9 } }, .data okHdr [], .backoffRetryExpiry 256 0,
    .relay okHdr 4097 0 0 okBundle, .relay okHdr 0 256 0 okBundle, .relay okHdr 0 0 2 okBundle,
    .intent okHdr okDesc 3 0 0, .intent okHdr okDesc 0 65536 0, .intent okHdr okDesc 0 0 18, .ecFormat okHdr (2 ^ 32) 0,
    .ecFormat okHdr 0 3, .timeoutReport okHdr 64 0 0, .timeoutReport okHdr 0 256 0, .intentSettle 64 0 [] [],
    .intentSettle 0 (2 ^ 58) [] [], .lagRepair 0 0 18 [], .rebuildStripe 64 [] [], .rebuildPointerStore 64,
    .noViewHolderReachable 64] : List Instr).any Instr.wf = false := by decide +kernel

/-! ## Worked examples of the manual -/

/-- R247 and R248: NSID 3, slot 8, accession 0x2_9A41_0123. -/
theorem test_iv_example : cardIv 0x29A410123 8 3 =
    [0x23, 0x01, 0x41, 0x9A, 0x02, 0, 0, 0, 0, 0xC0, 0, 0x02] := by decide +kernel

/-- R326 in Build A with G = 4 KiB, one rank and rows of 4 KiB. -/
theorem test_dram_address_example :
    subchannelOf 4096 0x400035A40 = 5 ∧ offsetOf 4096 0x400035A40 = 0x80006A40 ∧
    rowAddr 5 4096 1 0x80006A40 = { u := 5, rank := 0, bg := 1, bank := 0, row := 16384 } := by decide +kernel

/-- R161: the check value of "123456789". -/
theorem test_crc32c_check : crc32c [0x31, 0x32, 0x33, 0x34, 0x35, 0x36, 0x37, 0x38, 0x39] = 0xE3069283#32 := by
  decide +kernel

/-- A part with both Folio banks erased enters Recovery with REASON 3 by the end of its second start step (R190, R193). -/
theorem test_first_start_without_folio :
    (match exec .powerOnAon State.reset with
     | .next s => (match exec (.perstDeassert okFacts) s with
       | .next t =>
         let u := startAdvance (startAdvance { t with clock := { t.clock with us := 1000000 } })
         decide (t.mode.mode = .rising ∧ u.mode.mode = .recovery ∧ u.mode.reason = 3)
       | _ => false)
     | _ => false) = true := by decide +kernel

/-- R433 to R437: the worked examples of the ball map, CL31, AH66 and V42. -/
theorem test_ball_examples :
    rowName 67 = ['C', 'L'] ∧ ballAt 67 31 = .flash 39 .dq 0 ∧ rowName 26 = ['A', 'H'] ∧ ballAt 26 66 = .mem 2 true .dq 8 ∧
    rowName 16 = ['V'] ∧ ballAt 16 42 = .port 2 .aliveTx 0 := by decide +kernel

theorem witness_LinkEventsAndErrors_LinkEventsChangeTheLinkAlone :
    (awake live = true ∧ linkLegal 640 16 true = true ∧ live.link.seenL0 = false) ∧
    (let s := { live with link := { live.link with up := true, seenL0 := true } }
     awake s = true ∧ linkLegal 320 4 false = true ∧ s.link.seenL0 = true ∧ s.link.up = true) ∧
    live.nv.c1[19]? = some 0 := by decide

/-- The pools of reset with the head of pool 0 taken off, so that the next size serves. -/
def emptyPool0 : State :=
  { live with pools := { live.pools with pool := modAt 0 (fun p => { p with head := 0 }) live.pools.pool } }

theorem witness_FreedBufferBecomesListHead : (live.pools.pool[7]?).isSome = true := by decide

theorem witness_PoolsServeRequestsInOrder_RequestIsServedFromTheSmallestFittingPool :
    live.mode.mode ≠ .coast ∧ waitList 0 emptyPool0.pools = [] ∧ (4 : Nat) ≤ 4 * 4 ^ 1 ∧
    ((emptyPool0.pools.pool[1]?).map fun p => p.head != 0) = some true ∧
    ((emptyPool0.pools.pool[0]?).map fun p => p.head) = some 0 ∧ (256 : Nat) ≤ 4 * 4 ^ 3 := by decide

theorem witness_PoolsServeRequestsInOrder_StalledRequestTakesNothing :
    requestLegal 1 (.engine 2) [256, 1] live = true ∧ live.mode.mode ≠ .coast ∧
    takeAll 1 [256, 1] live.pools.pool = none := by decide

theorem witness_PoolsServeRequestsInOrder_OldestStalledRequestIsServedFirst :
    (let s := { live with pools := { live.pools with waitT := [{ who := .engine 2, sizes := [4] }] } }
     s.mode.mode ≠ .coast ∧ waitList 0 s.pools = { who := .engine 2, sizes := [4] } :: [] ∧
     (takeAll 0 [4] s.pools.pool).isSome = true) ∧
    barOn live = true ∧ (1#32).getLsbD 0 = true := by decide

theorem witness_PowerKeepsFlashAndCodexOnly : State.reset.mode.mode = .unpowered ∧ live.cdx.progging = none := by decide

/-- Facts of a start in which nothing was found. -/
def plainFacts : StartFacts :=
  { stepMs := [5, 20], lockstepBad := 0, dramFull := false, dramRate := 6400, training := [], coresBad := [], unwrapBad := [],
    rootBad := false, tornPages := [], unbuildable := [], ledgerEnd := 0, picks := [] }

/-- A start 5 ms after its release, with a Colophon segment 0 that fails its CRC. -/
def badColophon : State :=
  { inMode .rising with
    clock := { live.clock with us := 5000 }
    mode := { live.mode with mode := .rising, startRun := some { facts := plainFacts, ended := 0, us := 0 } }
    cdx := { live.cdx with colophon := modAt 0 (fun g => { g with crcOk := false }) live.cdx.colophon } }

theorem witness_PerstAndIdleService_PerstResetsAndStarts :
    ((10000 : Nat) ≤ 10000 ∧ (inMode .recovery).mode.mode = .recovery ∧ (inMode .recovery).cdx.progging = none) ∧
    (inMode .dormant).mode.mode = .dormant ∧
    (badColophon.mode.mode = .rising ∧ badColophon.mode.startRun = some { facts := plainFacts, ended := 0, us := 0 } ∧
      0 + 1000 * natAt plainFacts.stepMs 0 ≤ badColophon.clock.us ∧ colophonOk badColophon = false ∧
      badColophon.clock.us < 0 + 1000 * natAt plainFacts.stepMs 1) ∧
    (let s := { inMode .coast with pins := { live.pins with perstN := false } }
     s.mode.mode = .coast ∧ s.pins.perstN = false) := by decide

theorem witness_PerstAndIdleService_IdleServiceGatesAndWakes :
    live.mode.mode = .service ∧ live.mode.idle = false ∧ quiet live = true ∧ awake live = true ∧
    live.mode.mode ≠ .coast ∧ live.mode.mode ≠ .rising ∧
    ({ live with mode := { live.mode with idle := true } } : State).mode.idle = true := by decide

theorem witness_KeySlotsAreRenewedAndCleared_TestAccessClearsKeySlots : awake live = true ∧ (2 : Nat) < 3 ∧ (2 : Nat) ≤ 2 := by decide

theorem witness_ControllerResetsKeepTheMap :
    awake live = true ∧ live.mode.mode ≠ .coast ∧ live.link.d3hot = false ∧ live.nv.cc.getLsbD 0 = true ∧
    (inMode .coast).mode.mode = .coast := by decide

theorem witness_RegistersEnableAndShutdown_ControllerEnableAndShutdown :
    (let s := { live with nv := { live.nv with cc := 0 } }
     awake s = true ∧ s.link.d3hot = false ∧ s.nv.cc.getLsbD 0 = false ∧ s.mode.mode ≠ .coast) ∧
    awake (inMode .recovery) = true ∧ serving live = true ∧ live.nv.shst = 0 ∧
    commandsDone (withCmd 64 1 (entry 2 1 0 0) live) = false := by decide

theorem witness_LinkEventsAndErrors_LinkErrorsEndTheirCommand :
    (let s := withCmd 64 1 (entry 1 1 0 0) live
     awake s = true ∧ (cmdAt s 64).map (fun c => decide (c.phase ≠ .placed)) = some true) ∧
    live.link.ecrcCheck = false := by decide

/-- A part with admin queues of 32 entries and one I/O queue pair, a command waiting in each submission queue. -/
def queued : State :=
  { live with nv := { live.nv with
      sqs := [{ qid := 0, size := 32, cqid := 0, prio := 0, tail := 1, head := 0, fence := none },
              { qid := 1, size := 64, cqid := 1, prio := 0, tail := 2, head := 1, fence := none }]
      cqs := [{ qid := 0, size := 32, vector := 0, ien := true, head := 0, tail := 0 },
              { qid := 1, size := 64, vector := 1, ien := true, head := 3, tail := 9 }] } }

/-- The same with its admin queue empty. -/
def ioQueued : State :=
  { queued with nv := { queued.nv with sqs := modAt 0 (fun q => { q with tail := 0 }) queued.nv.sqs } }

theorem witness_DoorbellsMoveTheirQueueAlone :
    doorbellsLive queued = true ∧ (sqAt queued 1).map (fun q => q.size) = some 64 ∧ (63 : Nat) < 64 ∧
    (cqAt queued 1).map (fun q => decide ((9 + q.size - q.head) % q.size ≤ cqUsed q)) = some true ∧
    (cqAt queued 1).map (fun q => decide (cqUsed q < (10 + q.size - q.head) % q.size)) = some true ∧
    queued.nv.aers = [] := by decide

theorem witness_FetchTakesTheHeadEntry :
    fetchLegal 0 0 queued = true ∧ (sqAt queued 0).isSome = true ∧ fetchLegal 65535 1 ioQueued = true ∧
    (sqAt ioQueued 1).isSome = true ∧ pointerOk 1 (entry 0 1 0 0) = true ∧ fetchStatus ioQueued (entry 0 1 0 0) = none ∧
    atBoundary queued = queued ∧ atBoundary ioQueued = ioQueued := by
  refine ⟨?_, ?_, ?_, ?_, ?_, ?_, rfl, rfl⟩ <;> decide

/-- A completion of queue 1 that waits. -/
def waits1 : State :=
  { queued with nv := { queued.nv with
      waiting := [{ sq := 1, cq := 1, cid := 9, slot := 64, sct := 0, sc := 0, dnr := false, dw0 := 0 }] } }

theorem witness_CompletionsAndTheirMessages_OldestPostableCompletionIsPosted :
    waits1.mode.mode ≠ .coast ∧ waits1.nv.cc.getLsbD 0 = true ∧ waits1.link.d3hot = false ∧
    (nextToPost waits1).isSome = true ∧ (cqAt waits1 1).isSome = true := by decide

theorem witness_CompletionsAndTheirMessages_CoalescedVectorSendsItsMessage :
    (let s := { live with nv := { live.nv with vectors := [{ vector := 5, waiting := 2, noCoal := false }] } }
     (vectorAt s 5).waiting ≠ 0 ∧ vectorMasked s 5 = true ∧
     vectorMasked { s with nv := { s.nv with msixTab := [(23, 0)] } } 5 = false) := by decide

theorem witness_RegistersEnableAndShutdown_RegisterWritesKeepToTheirFields : awake live = true ∧ live.link.d3hot = false ∧ awake State.reset = false ∧
    ((0x0C, 8) : Nat × Nat) ∉ [(0x0C, 4), (0x10, 4), (0x14, 4), (0x24, 4), (0x28, 8), (0x28, 4), (0x2C, 4), (0x30, 8),
      (0x30, 4), (0x34, 4)] ∧ 3 ∉ [0, 2, 4] ∧
    configOn { live with link := { live.link with seenL0 := true } } = true ∧ configOn live = false := by decide

/-- A part with the admin command `e` fetched into slot 3. -/
def admin (op dw10 dw11 : Nat) : State := withCmd 3 0 (entry op 0 dw10 dw11) queued

/-- The command of `admin`. -/
def adminCmd (op dw10 dw11 : Nat) : Cmd := newCmd 3 0 0 (entry op 0 dw10 dw11) live

theorem admin_ready (op dw10 dw11 : Nat) : AdminReady 3 (adminCmd op dw10 dw11) (admin op dw10 dw11) := by
  refine ⟨?_, rfl, rfl, ?_, rfl, ?_⟩
  · simp [cmdAt, admin, withCmd, adminCmd, newCmd]; decide
  · rfl
  · simp [behindLibrarian, admin, withCmd, newCmd]

theorem witness_QueuesAbortsAndEvents_QueuesAreCreatedAndDeleted :
    (cqAt (admin 0x05 (65535 * 65536 + 4096) (2047 * 65536 + 3)) 4096 = none ∧
      createQid (entry 0x05 0 (65535 * 65536 + 4096) 0) = 4096 ∧
      createSize (entry 0x05 0 (65535 * 65536 + 4096) 0) = 65536 ∧ bitsOf (2047 * 65536 + 3) 31 16 = 2047) ∧
    (sqAt (admin 0x01 (1 * 65536 + 7) (1 * 65536 + 1)) 7 = none ∧
      (cqAt (admin 0x01 (1 * 65536 + 7) (1 * 65536 + 1)) 1).isSome = true ∧
      createSize (entry 0x01 0 (1 * 65536 + 7) 0) = 2 ∧ bitsOf (1 * 65536 + 1) 31 16 = 1) ∧
    (let s := { admin 0x04 1 0 with nv := { (admin 0x04 1 0).nv with sqs := [] } }
     (cqAt s 1).isSome = true ∧ (∀ q ∈ s.nv.sqs, q.cqid ≠ 1) ∧ ∀ y ∈ s.nv.waiting, y.cq ≠ 1) ∧
    ((sqAt (admin 0x00 1 0) 1).isSome = true ∧ (∀ y ∈ (admin 0x00 1 0).nv.cmds, y.qid ≠ 1) ∧
      ∀ y ∈ (admin 0x00 1 0).nv.waiting, y.sq ≠ 1) := by decide

theorem witness_QueuesAbortsAndEvents_AbortEventsAndInvalidOpcodes :
    (∀ x ∈ (admin 0x08 1 0).nv.cmds, ¬ x.slot ≠ 3) ∧
    ((admin 0x0C 0 0).nv.events = [] ∧ (admin 0x0C 0 0).nv.aers.length < 16) ∧
    ({ admin 0x0C 0 0 with nv := { (admin 0x0C 0 0).nv with events := [{ typ := 1, info := 1 }] } } : State).nv.events =
      { typ := 1, info := 1 } :: [] ∧
    0xFF ∉ adminOpcodes ∧ ioOpcode 0x7F = false ∧ serving (withCmd 64 1 (entry 0x7F 1 0 0) live) = true := by decide

/-- An Abort of command 9 of queue 1, which has no buffers yet. -/
def aborting : State :=
  { admin 0x08 (9 * 65536 + 1) 0 with nv := { queued.nv with cmds :=
    [adminCmd 0x08 (9 * 65536 + 1) 0, { newCmd 64 1 1 (entry 0x01 1 0 0) live with phase := .stalled }] } }

theorem witness_QueuesAbortsAndEvents_AbortEventsAndInvalidOpcodes_abort :
    (cmdAt aborting 3).map (fun c => (c.e.opcode, c.phase)) = some (0x08, .fetched) ∧
    serving aborting = true ∧ behindLibrarian aborting 3 = false ∧
    (aborting.nv.cmds.find? fun y => y.qid = bitsOf (9 * 65536 + 1) 15 0 && y.e.cid = bitsOf (9 * 65536 + 1) 31 16 &&
      y.slot != 3).map (fun x => (x.slot, abortable x)) = some (64, true) := by decide

theorem witness_FeaturesAreSetAndShown_SetFeaturesChangesItsFeature :
    isSet 0x01 (entry 0x09 0 1 0) = true ∧ isSet 0x02 (entry 0x09 0 2 2) = true ∧ bitsOf 2 4 0 ≤ 2 ∧
    2 < bitsOf 3 4 0 ∧ isSet 0x04 (entry 0x09 0 4 (8 * 65536 + 350)) = true ∧ bitsOf (8 * 65536 + 350) 19 16 ≤ 8 ∧
    bitsOf (8 * 65536 + 350) 21 20 = 0 ∧ bitsOf (31 * 65536 + 350) 19 16 = 15 ∧ bitsOf (31 * 65536 + 350) 21 20 = 1 ∧
    8 < bitsOf (9 * 65536) 19 16 ∧ bitsOf (9 * 65536) 19 16 ≠ 15 ∧ 1 < bitsOf (32 * 65536) 21 20 ∧ 2047 < bitsOf 2048 15 0 ∧ isSet 0x07 (entry 0x09 0 7 0) = true ∧
    isSet 0x08 (entry 0x09 0 8 0) = true ∧ isSet 0x09 (entry 0x09 0 9 (65536 + 2047)) = true ∧
    bitsOf (65536 + 2047) 15 0 ≤ 2047 := by decide

theorem witness_FeaturesAreSetAndShown_FeaturesAreStoredAndShown :
    isSet 0x0A (entry 0x09 0 0x0A 1) = true ∧ isSet 0x0B (entry 0x09 0 0x0B 0) = true ∧
    isSet 0x0E (entry 0x09 0 0x0E 0) = true ∧ (281474976710655 : Nat) < 281474976710656 ∧
    saveBit (entry 0x09 0 (2 ^ 31 + 1) 0) = true ∧ saveBit (entry 0x09 0 0x0C 0) = false ∧
    lowByte (entry 0x09 0 0x0C 0) ∉ featureIds ∧ lowByte (entry 0x0A 0 0x08 0) = 0x08 ∧
    bitsOf 0x08 10 8 = 0 ∧ lowByte (entry 0x0A 0 0x0C 0) ∉ featureIds ∧
    (featureAnswer live (entry 0x0A 0 0x0E 0)).1 = scSuccess ∧ featureAnswer live (entry 0x0A 0 0x07 0) = (scSuccess, 0x0FFF0FFF, none) := by decide

theorem witness_IdentifyAndLogPagesAnswer :
    (identAnswer (admin 0x06 1 0) (entry 0x06 0 1 0)).1 = scSuccess ∧ lowByte (entry 0x06 0 0x77 0) ∉ cnsValues ∧
    (logAnswer (admin 0x02 (127 * 65536 + 2) 0) (entry 0x02 0 (127 * 65536 + 2) 0)).1 = scSuccess ∧
    (logPage (admin 0x02 0x77 0) (entry 0x02 0 0x77 0)).isNone = true := by decide +kernel

/-- One local namespace of 1 Mi LBAs of 4 KiB, in 64 shelves. -/
def oneNs (attached : Bool) : Namespace :=
  { nsid := 1, shelves := 64, nsze := 1024, lbaf := 1, pi := 0, extents := [(0, 64)], attached := attached,
    spanned := none }

/-- `s` with that namespace. -/
def withNs (attached : Bool) (s : State) : State := { s with nv := { s.nv with nss := [oneNs attached] } }

theorem witness_NamespaceManagement :
    (nsAt (withNs false live) 1 = some (oneNs false) ∧ selOf (entry 0x15 1 0 0) = 0) ∧
    (nsAt (withNs true live) 1 = some (oneNs true) ∧ selOf (entry 0x15 1 1 0) = 1) ∧
    ((freeNsid live).isSome = true ∧ drbgReady { live with key := { live.key with drbgOk := true } } = true ∧
      keyRoom live = true ∧ (1024 : Nat) ≠ 0 ∧ (4 : Nat) ≤ 4) ∧ (1024 : Nat) ≠ 1023 ∧
    deleteNames (withNs true live) 1 = [(oneNs true).nsid] := by decide +kernel

theorem witness_FormatAndSanitize_FormatRenewsKeySlots :
    formatStatus (withNs true live) (entry 0x80 1 (2 * 512 + 1) 0) = none ∧
    fmtSes (entry 0x80 1 (2 * 512 + 1) 0) = 2 ∧ fmtSes (entry 0x80 1 (512 + 1) 0) ≠ 2 ∧
    formatStatus (withNs true live) (entry 0x80 1 (512 + 1) 0) = none ∧
    (oneNs true).spanned = none ∧ nsAttached live 1 = none := by decide +kernel

theorem witness_FormatAndSanitize_SanitizeStartsOrIsRefused :
    sanAct (entry 0x84 0 4 0) = 4 ∧ sanNoDealloc (entry 0x84 0 4 0) = false ∧ live.key.sanitize = 0 ∧
    localSlots (withNs true live) ++ live.key.sanForced ≠ [] ∧ localSlots live = [] ∧ live.key.sanForced = [] ∧
    live.key.renewals = [] ∧ live.blk.table = [] ∧
    (let s : State := { live with blk := { live.blk with table := [(0, { freeEntry false with state := 2 })] } }
     ∃ x ∈ s.blk.table, x.2.stream ≠ 3 ∧ 1 ≤ x.2.state ∧ x.2.state ≤ 4) ∧ sanAct (entry 0x84 0 2 0) = 2 ∧
    sanNoDealloc (entry 0x84 0 (512 + 4) 0) = true := by decide +kernel

/-- A renewal of slot 4 that waits to run. -/
def renewal4 : Renewal :=
  { slot := 4, cmd := none, session := none, reply := none, before := [], rekey := true, whole := true,
    loaded := false, lastSeq := 0 }

/-- A part with that renewal, its DRBG running or not. -/
def renewing (ok : Bool) (r : Renewal) : State :=
  { withCmd 3 0 (entry 0x80 1 (2 * 512) 0) live with key := { live.key with renewals := [r], drbgOk := ok } }

theorem witness_KeySlotsAreRenewedAndCleared_SlotRenewalRunsAndEnds :
    (let s := renewing true renewal4
     renewalAt s 4 = some renewal4 ∧ serving s = true ∧ s.lib.state = 0 ∧ renewalWaits s renewal4 = false ∧
     drbgReady s = true ∧ keyRoom s = true) ∧
    (let r := { renewal4 with loaded := true, lastSeq := 200 }
     let s := { renewing true r with led := { live.led with progSeq := 200 } }
     renewalAt s 4 = some r ∧ serving s = true ∧ s.lib.state = 0 ∧ r.lastSeq ≠ 0 ∧ r.lastSeq ≤ s.led.progSeq ∧
     s.key.sanitize = 0) ∧
    (∀ rk : Bool, let r := { renewal4 with loaded := true, lastSeq := 200, cmd := some 3, rekey := rk }
     let s := { renewing true r with led := { live.led with progSeq := 200, durable := 200 } }
     renewalAt s 4 = some r ∧ r.lastSeq ≤ (if r.rekey then s.led.progSeq else s.led.durable) ∧
     (∀ x ∈ dropFirst (fun x => x = r) s.key.renewals, x.cmd ≠ some 3) ∧ (cmdAt s 3).isSome = true ∧ 3 ∉ s.nv.aers) ∧
    (let r := { renewal4 with cmd := some 3 }
     drbgReady (renewing false r) = false ∧
     ((renewing false r).key.renewals.find? fun x => x.slot = 4 && x.rekey && ! x.loaded) = some r ∧
     (cmdAt (renewing false r) 3).isSome = true) := by decide +kernel

theorem witness_KeySlotsAreRenewedAndCleared_NoiseHealthStopsTheDrbg : awake live = true := by decide

/-- A part with session 1 of authority 1 and one local namespace. -/
def opal : State :=
  { withNs true live with key := { live.key with sessions := [(1, 1)], opalOut := [(1, 0, [])] } }

theorem witness_OpalMethodsChangeLockingRanges :
    authorityOf opal 1 = some 1 ∧ nsAt opal (oneNs true).nsid = some (oneNs true) ∧ (oneNs true).spanned = none ∧
    3 ≤ maxRange opal ∧ (rangeAt opal 1 3).len = 0 ∧ boundsLegal opal (oneNs true) 3 4096 8192 = true ∧ rangeLive opal 1 0 = true ∧
    secProtocol (entry 0x81 0 (1 * 16777216) 0) = 1 ∧ authorityOf live 1 = none ∧ live.key.sessions.length < 4 ∧
    opal.key.opalOut = (1, 0, []) :: [] ∧ asksDiscovery (entry 0x82 0 (1 * 16777216) 0) = false ∧
    asksDiscovery (entry 0x82 0 (1 * 16777216 + 1 * 256) 0) = true := by decide +kernel

theorem witness_NvmeMiRequestsAreAnswered :
    awake live = true ∧ live.mode.mode ≠ .coast ∧ serving live = true ∧ live.lib.state = 0 ∧
    (structureBody live 0).isSome = true ∧ (0 : Nat) + 256 ≤ 256 ∧ (tunnelBody live (entry 0x06 0 1 0)).isSome = true ∧
    ({ live with lib := { live.lib with state := 1 } } : State).lib.state = 1 := by decide +kernel

theorem witness_ClearingWritesClearTheirBits :
    barOn live = true ∧ (stickyAt live 4).isSome = true ∧ (0x1#32).getLsbD 0 = true ∧ (0x2#32).getLsbD 0 = false ∧
    stickyAt live (bitsOf (entry 0xC0 0 5 0).dw10 6 0) = none ∧
    (stickyAt live (bitsOf (entry 0xC0 0 4 0).dw10 6 0)).isSome = true ∧
    testFree { live with coast := { live.coast with armed := true } } = policyArmed { live with
      coast := { live.coast with armed := true } } := by decide +kernel

/-- A part in manufacturing mode with the pass-through at address `a`, `cycles` given. -/
def passing (a : Nat) (cycles : List (Nat × Nat)) : State :=
  { live with
    mode := { live.mode with manufacturing := true }
    cdx := { live.cdx with cxAddr := a, cycles := cycles } }

theorem witness_PassThroughCycles :
    passThroughOn live = false ∧ passThroughOn (passing 0xD5A []) = true ∧ (0x15A#32).toNat % 256 = 0x5A ∧
    (passing 0x400100F [(0xD5A, 0x5A)]).cdx.cycles ≠ [] ∧ (passing 0xD5A []).cdx.cxAddr = 0xD5A ∧
    (passing 0x4001010 []).cdx.cycles = [] ∧ (passing 0x4001010 []).cdx.cxAddr ≠ 0xD5A ∧
    (0x15B#32).toNat % 256 ≠ 0x5A := by
  decide +kernel

/-- A whole stage image. -/
def staged : State :=
  { live with upd := { live.upd with staged := List.range 768, stFacts := firstFacts } }

theorem witness_FirmwareDownloadAndCommit :
    portionAt (entry 0x11 0 1023 785408) + portionLen (entry 0x11 0 1023 785408) ≤ bundleBytes ∧
    live.upd.relay.rx = false ∧ commitAct (entry 0x10 0 2 0) = 0 ∧ writeLegal staged (entry 0x10 0 2 0) = true ∧
    stageWhole staged = true ∧ commitAct (entry 0x10 0 (8 + 2) 0) = 1 ∧
    writeLegal staged (entry 0x10 0 (8 + 2) 0) = true ∧ commitAct (entry 0x10 0 24 0) = 3 ∧
    writeLegal staged (entry 0x10 0 24 0) = true ∧ hitlessSet staged.upd.stFacts = false ∧
    hitlessSet { firstFacts with hitless := List.replicate 7 true } = true ∧
    commitAct (entry 0x10 0 (16 + 2) 0) = 2 ∧ commitTarget live (entry 0x10 0 (16 + 2) 0) = 1 ∧
    activeBlock live = 0 ∧ stageWhole live = false ∧ commitAct (entry 0x10 0 32 0) = 4 ∧
    (let s := modBlock 1 (fun _ => { emptyBlock with written := true, facts := firstFacts }) live
     activeBlock s = 0 ∧ (blockOf s 1).written = true ∧ (blockOf s 1).facts.headerOk = true ∧
       (blockOf s 1).reject = false) ∧ staged.upd.writing = none := by decide +kernel

/-- A commit of dword 10 `dw10` whose erases are over. -/
def erasedFor (dw10 : Nat) : State :=
  let s := withCmd 3 0 (entry 0x10 0 dw10 0) staged
  { s with upd := { s.upd with writing := some (.command 3) } }

theorem witness_FirmwareDownloadAndCommit_erased :
    (∀ x ∈ [(0, 2), (1, 8 + 2), (3, 24)], let s := erasedFor x.2
      serving s = true ∧ blockErased s = true ∧ blockReads true s = true ∧ blockReads false s = false ∧
      (cmdAt s 3).any (fun c => decide (commitAct c.e = x.1) && writeLegal s c.e) = true) ∧
    (let s := erasedFor 2
     blockErased (askErase 48 s) = blockErased (askErase 64 s) → False) ∧
    (let s := { live with fol := { live.fol with committing := some (3, smallFolio) } }
     serving s = true ∧ erasesOver (bankSectors (targetBank s)) s = true ∧
       erasesOver (bankSectors (targetBank s)) (eraseSectors (bankSectors (targetBank s)) s) = false) := by decide +kernel

theorem witness_LiveFieldsPendUntilTheirBoundary :
    setLegal live (entry 0xC1 0 0x180 4) 300 = true ∧ setLegal live (entry 0xC1 0 0x180 4) 301 = false ∧
    rtFull live (0x10000 + fieldOf (entry 0xC1 0 0x180 4)) = false ∧ rtRoom live = true ∧
    (fieldRow (fieldOf (entry 0xC2 0 0x180 4))).isSome = true ∧
    (let s := { live with fol := { live.fol with pend := [(0x180, 300)] } }
     awake s = true ∧ mapGet 0x180 s.fol.pend = some 300 ∧ mapGet profileField s.fol.pend = none) := by
  decide +kernel

theorem witness_StickyClearClearsItsMask :
    AdminReady 3 (newCmd 3 0 0 (entry 0xC0 0 4 1) live) (withCmd 3 0 (entry 0xC0 0 4 1) live) ∧
    (stickyAt live (bitsOf (entry 0xC0 0 4 1).dw10 6 0)).isSome = true ∧
    AdminReady 3 (newCmd 3 0 0 (entry 0xC0 0 5 1) live) (withCmd 3 0 (entry 0xC0 0 5 1) live) ∧
    stickyAt live (bitsOf (entry 0xC0 0 5 1).dw10 6 0) = none :=
  ⟨withCmd_ready _ _ (by decide) (by decide), by decide, withCmd_ready _ _ (by decide) (by decide), by decide⟩

/-- A part that runs under `goodFolio` in bank A, with all of a stage image but its first unit staged, and the command
`e` fetched. -/
def staging (e : SqEntry) : State :=
  withCmd 3 0 e { live with fol := { live.fol with
    bankA := .image goodFolio, inForce := some false, staged := (List.range 255).map fun u => u + 1 } }

theorem staging_ready (e : SqEntry) : AdminReady 3 (newCmd 3 0 0 e live) (staging e) := by
  refine ⟨?_, rfl, rfl, rfl, rfl, ?_⟩
  · simp [cmdAt, staging, withCmd, newCmd]; decide
  · simp [behindLibrarian, staging, withCmd, newCmd]

theorem witness_FolioImagesGoToTheOtherBank :
    (let e := entry 0xC5 0 7 1023
     AdminReady 3 (newCmd 3 0 0 e live) (staging e) ∧ e.dw10.testBit 31 = false ∧ e.dw11 ≤ 1023) ∧
    (let e := entry 0xC5 0 (2 ^ 31) 1023
     AdminReady 3 (newCmd 3 0 0 e live) (staging e) ∧ e.dw10.testBit 31 = true ∧ (staging e).fol.committing = none ∧
     stageCode (stageUnit (bitsOf e.dw10 7 0) (staging e)) goodFolio = 0 ∧
     stageCode (stageUnit (bitsOf e.dw10 7 0) (staging e)) smallFolio ≠ 0) ∧
    (let e := entry 0xC5 0 (2 ^ 31) 1023
     let s := { staging e with fol := { (staging e).fol with committing := some (3, goodFolio) } }
     (cmdAt s 3).isSome = true ∧ serving s = true ∧ erasesOver (bankSectors (targetBank s)) s = true ∧
       erasesOver (bankSectors (targetBank s)) (askErase 112 s) = false) ∧
    (let s := staging (entry 0xC5 0 0 0)
     awake s = true ∧ s.fol.inForce = some false ∧ (trainingOf s false).length ≤ 184 ∧ s.fol.commit = false) :=
  ⟨⟨staging_ready _, by decide, by decide⟩, ⟨staging_ready _, by decide, by decide, by decide +kernel, by decide +kernel⟩,
    by decide +kernel, by decide +kernel⟩

/-- The part `built` with `n` of its ten dies retired already. -/
def narrowed (n : Nat) : State :=
  { built with fl := { built.fl with chans := built.fl.chans.map fun c =>
      if c.1 < n then (c.1, { c.2 with copy := { c.2.copy with retired := 1 } }) else c } }

theorem witness_RetireAndFoxReportCommands :
    (let e := entry 0xC4 0 (256 * 3) 0
     AdminReady 3 (newCmd 3 0 0 e built) (withCmd 3 0 e built) ∧ retWhole e = false ∧ retChannel e = 3 ∧ retTarget e = 0 ∧
     (chanAt (withCmd 3 0 e built) 3).isSome = true ∧ (servingDies (withCmd 3 0 e built) 3).contains 0 = true ∧
     lanesKeep (withCmd 3 0 e built) [(3, 0)] = true ∧
     AdminReady 3 (newCmd 3 0 0 e (narrowed 2)) (withCmd 3 0 e (narrowed 2)) ∧
     lanesKeep (withCmd 3 0 e (narrowed 2)) [(retChannel e, retTarget e)] = false) ∧
    (let e := entry 0xC4 0 (2 ^ 31 + 256 * 3) 0
     AdminReady 3 (newCmd 3 0 0 e built) (withCmd 3 0 e built) ∧ retWhole e = true ∧ retChannel e = 3 ∧
     servingDies (withCmd 3 0 e built) 3 ≠ [] ∧
     lanesKeep (withCmd 3 0 e built) ((servingDies (withCmd 3 0 e built) 3).map fun d => (3, d)) = true ∧
     AdminReady 3 (newCmd 3 0 0 e (narrowed 4)) (withCmd 3 0 e (narrowed 4)) ∧
     servingDies (withCmd 3 0 e (narrowed 4)) (retChannel e) = []) ∧
    (let e := { entry 0xC6 1 0 0 with dw12 := 127, dw13 := 63 }
     let s := withCmd 3 0 e (withNs true live)
     AdminReady 3 (newCmd 3 0 0 e (withNs true live)) s ∧ nsAttached s e.nsid = some (oneNs true) ∧
     (oneNs true).spanned = none ∧ e.dw12 ≤ 16777215 ∧ 4 * (e.dw13 + 1) ≤ 1048576 ∧ slbaOf e < (oneNs true).nsze ∧
     AdminReady 3 (newCmd 3 0 0 e live) (withCmd 3 0 e live) ∧ nsAttached (withCmd 3 0 e live) e.nsid = none) := by
  refine ⟨⟨withCmd_ready _ _ (by decide) (by decide), ?_, ?_, ?_, ?_, ?_, ?_, withCmd_ready _ _ (by decide) (by decide), ?_⟩,
    ⟨withCmd_ready _ _ (by decide) (by decide), ?_, ?_, ?_, ?_, withCmd_ready _ _ (by decide) (by decide), ?_⟩,
    ⟨withCmd_ready _ _ (by decide) (by decide), ?_, ?_, ?_, ?_, ?_, withCmd_ready _ _ (by decide) (by decide), ?_⟩⟩ <;>
    decide +kernel

/-- `n` 4 KiB logical blocks from LBA 0 of namespace 1, as one I/O command of queue 1 in slot 64. -/
def ioCmd (op n : Nat) (s : State) : State := withCmd 64 1 { entry op 1 0 0 with dw12 := n - 1 } s

/-- A namespace of 1,024 LBAs of 4 KiB. -/
def keyNs : Namespace :=
  { nsid := 1, shelves := 64, nsze := 1024, lbaf := 3, pi := 0, extents := [(0, 64)], attached := true,
    spanned := none }

/-- The part with that namespace and its key loaded. -/
def keyed : State :=
  { live with
    nv := { live.nv with nss := [keyNs] }
    key := { live.key with loaded := [(keySlot 1 0, 1)] } }

theorem witness_FlushAndOrderedWrite :
    IoReady 64 (newCmd 64 1 1 (entry 0x00 1 0 0) live) (withCmd 64 1 (entry 0x00 1 0 0) live) ∧
    live.coast.draining = false ∧
    IoReady 64 (newCmd 64 1 1 (entry 0x81 1 0 0) live) (withCmd 64 1 (entry 0x81 1 0 0) live) ∧
    (let e := { entry 0x81 1 0 0 with dw12 := 0 }
     let c := { newCmd 64 1 1 e live with phase := .waiting }
     let s := { keyed with nv := { keyed.nv with cmds := [c] } }
     let n := keyNs
     cmdAt s 64 = some c ∧ serving s = true ∧ earlierOpen s 64 c.qid = false ∧ nsAt s c.e.nsid = some n ∧
       nlbOf c.e * lbaBytes n ≤ 2097152 ∧ rangeOk n c.e = true ∧
       accessStatus s 64 n (cardsOf (firstSector n c.e) (sectorCount n c.e)) true true = none ∧
     earlierOpen { s with nv := { s.nv with cmds := newCmd 65 1 1 e live :: s.nv.cmds } } 64 1 = true) := by
  refine ⟨⟨by decide, by decide, by decide, by decide⟩, by decide, ⟨by decide, by decide, by decide, by decide⟩, ?_⟩
  decide +kernel

theorem witness_DataCommandsReadAndCheck_DataCommandsCheckTheirRange :
    (∃ c, cmdAt (ioCmd 0x02 512 keyed) 64 = some c ∧ c.qid ≠ 0 ∧ c.phase = .fetched ∧
      nsAt (ioCmd 0x02 512 keyed) c.e.nsid = some keyNs ∧ nlbOf c.e * lbaBytes keyNs = 2097152 ∧
      slbaOf c.e + nlbOf c.e ≤ keyNs.nsze ∧
      accessStatus (ioCmd 0x02 512 keyed) 64 keyNs (cardsOf (firstSector keyNs c.e) (sectorCount keyNs c.e)) false true
        = none) ∧
    (∃ c, cmdAt (ioCmd 0x02 513 keyed) 64 = some c ∧ 2097152 < nlbOf c.e * lbaBytes keyNs) ∧
    (∃ c, cmdAt (withCmd 64 1 { entry 0x02 1 1024 0 with dw12 := 0 } keyed) 64 = some c ∧
      keyNs.nsze < slbaOf c.e + nlbOf c.e) := by
  refine ⟨⟨_, rfl, ?_⟩, ⟨_, rfl, ?_⟩, ⟨_, rfl, ?_⟩⟩ <;>
  decide +kernel

theorem witness_DataCommandsReadAndCheck_UnmappedCardReadsZeros :
    (let s := ioCmd 0x02 1 keyed
     let c := newCmd 64 1 1 { entry 0x02 1 0 0 with dw12 := 0 } live
     let n := keyNs
     cmdAt s 64 = some c ∧ c.qid ≠ 0 ∧ c.phase = .fetched ∧ serving s = true ∧ nsAt s c.e.nsid = some n ∧
       cardsOf (firstSector n c.e) (sectorCount n c.e) = [0] ∧ cardPlace n 0 = some (0, 0) ∧
       lookup s 0 0 = .zeros ∧ accessStatus s 64 n [0] false true = none ∧ c.got = [] ∧ c.fails = []) := by decide +kernel

theorem witness_WriteDataAndLocks_guard :
    (let e := { entry 0x01 1 0 0 with dw12 := 2 ^ 28 }
     let n := { keyNs with pi := 1, lbaf := 0 }
     practOf e = false ∧ checksGuard e = true ∧ n.pi ≠ 0 ∧ ∀ g, piEscape n (g + 1, 0, 0) = false ∧ g + 1 ≠ g) := by
  refine ⟨by decide, by decide, by decide, fun g => ⟨rfl, by omega⟩⟩

theorem witness_WriteDataAndLocks :
    (let e := { entry 0x01 1 0 0 with dw12 := 0 }
     let e := { e with dw12 := 2 ^ 26 }
     let c := { newCmd 64 1 1 e live with phase := .buffered }
     let n := { keyNs with pi := 1 }
     let s := { keyed with nv := { keyed.nv with cmds := [c], nss := [n] } }
     s.mode.mode ≠ .coast ∧ cmdAt s 64 = some c ∧ nsAt s 1 = some n ∧ n.spanned = none ∧
       (List.replicate 8 5).length = sectorCount n e ∧ infoWhole n e [(0, 0, 0)] = true ∧
       piFailed n e (List.replicate 8 5) [(0, 0, 1)] = some (0, (2, 0x84)) ∧
       piFailed n e (List.replicate 8 5) [(0, 0, 0)] = none ∧
       partialPlaces n e = []) ∧
    (let e := { entry 0x01 1 0 0 with dw12 := 0 }
     let c := { newCmd 64 1 1 e live with phase := .placed, want := [(0, 0)], data := [7] }
     let n := { keyNs with lbaf := 0 }
     let s := { keyed with
       nv := { keyed.nv with cmds := [c], nss := [n] }
       wr := { keyed.wr with locks := [{ shelf := 0, card := 0, holder := 64, waiters := [], granted := false }] } }
     cmdAt s 64 = some c ∧ nsAt s 1 = some n ∧ partialOf s 64 0 0 = some (c, n, 0) ∧
       (c.got.find? fun g => g.1 = 0) = none ∧ mergeUnderWay 64 0 0 s = false ∧
       oldContents s n.nsid 0 0 0 = .here zeroCard) ∧
    ([(1000, 25)].take (bitsOf 0 7 0 + 1)).any (fun r => decide (1024 < r.1 + r.2)) = true ∧
    (let e := entry 0x09 1 0 4
     let s := withCmd 64 1 e keyed
     let c := newCmd 64 1 1 e keyed
     let used := [(8, 16)].take (bitsOf e.dw10 7 0 + 1)
     cmdAt s 64 = some c ∧ c.qid ≠ 0 ∧ c.phase = .fetched ∧ serving s = true ∧ nsAt s 1 = some keyNs ∧
       e.dw11.testBit 2 = true ∧ (used.any fun r => decide (keyNs.nsze < r.1 + r.2)) = false ∧
       accessStatus s 64 keyNs (used.flatMap fun r => cardsOf (r.1 * lbaSectors keyNs) (r.2 * lbaSectors keyNs)) true false
         = none) := by decide +kernel

/-- An open carrel row of block stripe 0 with its first place filled, and a die that programs a unit of it. -/
def openRow7 : OpenRow :=
  { id := 7, entry := 0, page := 0, stream := 0, filled := [0], sealed := false, queued := [], ended := [],
    buffer := none, engine := 0 }

def rowOpen : State :=
  { built with
    wr := { built.wr with rows := [openRow7] }
    fl := { built.fl with dies := [{ idleDie 2 with
      op := some (.program { row := 7, unit := 0, page := some 0, system := false, coast := false }) }] } }

/-- An acknowledged write-through card of a row waits in the first page of that row. -/
def rowWaits : State :=
  { rowOpen with wr := { rowOpen.wr with transit := (unitPpas rowOpen openRow7 0).take 1 |>.map fun p =>
      { ppa := p, nsid := 1, shelf := 0, card := 0, owner := some 1048576, group := 0,
        card4k := { data := zeroCard, md := { accession := 1, nsid := 1, lba := 0, age := 0, stream := 0, plain := false,
                                              pad := false, fox := false, keyGen := 1 } },
        isAcked := false, pageDone := false, parLeft := 2, foxFlag := false, move := none, run := false } } }

theorem witness_RowsAreSealedAndProgrammed :
    rowOpen.mode.mode ≠ .coast ∧ (rowAt rowOpen 7).isSome = true ∧ inCarrel rowOpen 0 = true ∧
    inCarrel rowOpen 8 = false ∧
    (dieAt rowOpen 2 0).map (fun d => (d.op.isSome, d.resetting)) = some (true, false) ∧
    (rowAt rowWaits 7).map (fun r => pageWaits rowWaits r 0 0) = some true := by decide +kernel

/-- A Ledger with one open record of sequence 128 and its card placed. -/
def oneRecord (m : Mode) : State :=
  let r : LedgerRec := { seq := 128, typ := 1, card := 0, shelf := 0, oldPpa := 0, newPpa := 0, accession := 1 }
  { inMode m with led := { live.led with nextSeq := 129, region := [r], placed := [128], stalled := [r] }
                  cat := { live.cat with stalledUpd := [r] } }

theorem witness_LedgerCardsAndDurability :
    (oneRecord .coast).mode.mode = .coast ∧ (128 : Nat) ∈ (oneRecord .coast).led.placed ∧
    awake (oneRecord .service) = true ∧ (oneRecord .service).mode.mode ≠ .coast ∧
    (0 : Nat) ∉ (oneRecord .service).led.placed ∧ serving (oneRecord .service) = true ∧
    openRecords (oneRecord .service) ≠ 0 ∧ regionRoom (oneRecord .service) (512 - openRecords (oneRecord .service)) = false ∧
    (let s := { oneRecord .service with led := { (oneRecord .service).led with stalled := [] } }
     serving s = true ∧ openRecords s ≠ 0 ∧ regionRoom s (512 - openRecords s) = true) ∧
    openRecords { live with led := { live.led with nextSeq := 512, extentSeq := 0 } } = 0 ∧ (oneRecord .service).led.stalled ≠ [] ∧
    live.led.stalled = [] ∧ (oneRecord .service).cat.stalledUpd ≠ [] ∧ live.cat.stalledUpd = [] := by decide +kernel

/-- A part in Warming with one page not loaded and shelf 0 in FORM 3. -/
def warms (loaded : Bool) : State :=
  let s := inMode .warming
  { s with
    mode := { s.mode with warm := true }
    cat := { s.cat with
      shelves := [(0, { form := 3, age := 0, ppa := 0, presence := 0, prevForm := 0, relSeq := 0 })]
      index := [(0, { state := 1, loaded := loaded, dirty := false, ppa := 0 })], misses := [(true, 0)] } }

/-- The same part with all cards of shelf page 0 read. -/
def arrivedPage (s : State) : State :=
  { s with cat := { s.cat with arrived := (loadCards s true 0).map fun p => (true, 0, p) } }

theorem witness_MapLoadsAndModes :
    loadHere (arrivedPage (warms false)) true 0 = true ∧ loadHere (warms false) false 0 = false ∧ serving (warms false) = true ∧
    (warms false).mode.warm = true ∧ nextPage { warms false with cat := { (warms false).cat with misses := [] } } = some 0 ∧ pageResident (warms false) 0 = false ∧ live.mode.warm = false ∧
    pageResident (warms true) 0 = true ∧ segResident (warms true) 0 = true ∧ (shelfBase (warms true) 0).e.form = 3 ∧
    (warms true).mode.mode = .warming ∧ pagesToLoad (warms true) = [] ∧ (warms true).mode.preservePend = false ∧
    pagesToLoad (warms false) ≠ [] ∧ built.mode.mode = .service ∧ built.blk.headroom < preserveFloor built ∧ preserveFloor live ≤ live.blk.headroom := by
  decide +kernel

/-- A pass in progress with nothing left to program. -/
def passing47 (due : Bool) : State :=
  { live with inv := { live.inv with running := some emptySnap, ckptDue := due } }

/-- A spine record that is being read back. -/
def readingBack : State :=
  { live with inv := { live.inv with writing := some (makeSpine 0 emptySnap live) } }

theorem witness_PassesAndSpineRecords :
    serving live = true ∧ live.inv.running = none ∧
    (let s := { live with inv := { live.inv with passDue := true }
                          pools := { live.pools with held := [(passReq, 5, 16)] } }
     holdsBuf passReq (askOnce 1 passReq [16] s) = true ∧ (runPass (askOnce 1 passReq [16] s)).isSome = true) ∧
    holdsBuf passReq (askOnce 1 passReq [16] { live with inv := { live.inv with passDue := true } }) = false ∧
    (passing47 false).inv.running = some emptySnap ∧ passWritten (passing47 false) emptySnap = true ∧
    checkpointDue (passing47 false) = false ∧ checkpointDue (passing47 true) = true ∧
    (passing47 true).inv.writing = none ∧ (spineOf (passing47 true) (passing47 true).inv.activeSpine).length < 896 ∧
    readingBack.inv.writing = some (makeSpine 0 emptySnap live) ∧ readingBack.mode.mode ≠ .coast ∧
    spinePlace (tearSpine (makeSpine 0 emptySnap live) readingBack) = some 0 ∧ live.inv.writing = none := by
  decide +kernel

/-- The built part with its fold running, `used` carrel pages in use being 0 of all. -/
def folds (on : Bool) : State := { built with wr := { built.wr with folding := on } }

/-- The block table of the built part with block stripes `l` full in the carrel. -/
def fullCarrel (l : List Nat) : State :=
  { built with blk := { built.blk with table := l.map fun n => (n, { freeEntry true with state := 2 }) } }

/-- Every carrel block stripe full. -/
def carrelFull : State := fullCarrel (List.range 8 ++ (List.range 8).map fun n => 64 + n)

theorem witness_FoldStartsAndStops :
    serving carrelFull = true ∧ carrelFull.wr.folding = false ∧ carrelFull.mode.mode ≠ .preserve ∧
    fillAtLeast carrelFull (profileParam carrelFull 1) = true ∧ (folds true).wr.folding = true ∧
    moverReads (folds true) = true ∧ fillAtMost (folds true) (profileParam (folds true) 2) = true ∧
    fillAtMost (fullCarrel (List.range 8)) 40 = false ∧ fillAtLeast (fullCarrel (List.range 8)) 70 = false ∧
    profileParam (fullCarrel (List.range 8)) 2 = 40 ∧ profileParam (fullCarrel (List.range 8)) 1 = 70 := by decide +kernel

/-- A full stacks block stripe that is a forced victim, and a scored one. -/
def forcedOne (forced : Bool) : State :=
  { built with blk := { built.blk with table := [(9, { freeEntry false with state := 2, forced := forced, width := 10 })] } }

/-- A forced victim whose one valid run is shelf 0. -/
def victim9 : State :=
  let s := forcedOne true
  { s with
    blk := { s.blk with
      table := [(9, { freeEntry false with state := 3, forced := true, width := 10, valid := 16 })]
      lists := [(9, [(0, 0, 0)])]
      victims := [{ planeGroup := 0, entry := 9, rotation := false, forced := true, dest := none }] }
    cat := { s.cat with
      shelves := [(0, { form := 1, age := 1, ppa := posPpa s 9 0, presence := 65535, prevForm := 0, relSeq := 0 })]
      index := [(0, { state := 1, loaded := true, dirty := false, ppa := 0 })] } }

theorem witness_VictimsAreTakenInOrder :
    serving (forcedOne true) = true ∧ victimBusy (forcedOne true) 0 false = false ∧
    forcedFull (forcedOne true) 0 = [9] ∧ forcedFull (forcedOne false) 0 = [] ∧
    weedingOn (forcedOne false) 0 = true ∧ mostBy (score (forcedOne false)) (scored (forcedOne false) 0) = some 9 ∧
    (let s := { forcedOne false with fol := { (forcedOne false).fol with live := [(0x182, 8)] } }
     forcedFull s 0 = [] ∧ weedingOn s 0 = false) ∧ moverReads (forcedOne true) = true ∧ (0 : Nat) < groupCount built ∧
    (victimNow victim9 0).isSome = true ∧ moverReads victim9 = true ∧ victimNow (forcedOne true) 0 = none ∧
    (rotatingNow built 0).contains 0 = false := by decide +kernel

/-- An erase of block stripe 9 whose intent is record 200. -/
def erasing9 (issued restart : Bool) (prog : Nat) : State :=
  { built with
    blk := { built.blk with
      table := [(9, { freeEntry false with state := 4, width := 10 })]
      erases := [{ entry := 9, intent := 200, issued := issued, restart := restart, failed := [] }] }
    led := { built.led with progSeq := prog } }

theorem witness_ErasesPassTheirGate :
    systemFull (erasing9 false false 200) 9 = false ∧ sanitizeWants (erasing9 false false 200) 9 = false ∧
    gateHolds (erasing9 false false 200) 9 = false ∧ serving (erasing9 false false 200) = true ∧
    (jobOf (erasing9 false false 200) 9).isSome = true ∧
    ((eraseDies (erasing9 false false 200) 9).any fun d => decide (4 ≤ d.eraseQ.length)) = false ∧
    ((jobOf (erasing9 false true 200) 9).map fun j => (j.restart, j.issued, j.phase)) = some (true, false, 0) ∧
    (jobOf (erasing9 false true 200) 9).any (fun j =>
      ! (reeraseDies (erasing9 false true 200) j).any fun d => decide (4 ≤ d.eraseQ.length)) = true ∧
    (erasing9 false false 199).led.progSeq < 200 ∧
    ((erasing9 true false 200).fl.dies.any (eraseWaits 9)) = false ∧ jobOf built 9 = none ∧
    (let s := forcedOne false
     gateHolds s 9 = true ∧ keptApart s 9 = false ∧ (blkAt s 9).stream ≠ 3) := by decide +kernel

/-- A lane rebuild of lane 0 at step `n`. -/
def rebuilding0 (n : Nat) : State :=
  { built with
    mode := { built.mode with mode := .degraded, degraded := true }
    blk := { built.blk with rebuilds := [{ lane := 0, step := n, dies := [(3, 0)] }] } }

theorem witness_LaneRebuildsAndRetirement :
    ((rebuilding0 1).blk.rebuilds.find? (fun x => x.lane = 0)).isSome = true ∧ moverReads (rebuilding0 1) = true ∧
    (retiredItems (rebuilding0 1) 0).isEmpty = true ∧ retiredLeft (rebuilding0 1) 0 = false ∧
    ((wideStripes (rebuilding0 1) 0).filter fun n => (blkAt (rebuilding0 1) n).stream = 3) = [] ∧
    (rebuilding0 2).mode.mode ≠ .preserve ∧ moverReads (rebuilding0 2) = true ∧
    built.blk.rebuilds.find? (fun x => x.lane = 0) = none ∧ (rebuilding0 2).mode.mode = .degraded ∧
    wideStripes (rebuilding0 2) 0 = [] ∧ rebuildingHere (rebuilding0 2) = [] ∧ serving built = true ∧
    built.lib.state = 0 ∧ (built.blk.softReads.filter fun x => decide (fld built 0x630 ≤ x.2)) = [] ∧
    ((lanesInForce built).filter fun e => fractionReached built e && ! dieRetired built e.channel e.target) = [] := by
  decide +kernel

/-- A program of unit 0 of row 7. -/
def prog7 : ProgReq := { row := 7, unit := 0, page := some 0, system := false, coast := false }

/-- A host read of a card of channel 2. -/
def read2 : ReadReq := { ppa := mkPpa 2 0 0 9 0 0, cls := 0, why := .host 64 0 0 }

/-- The built part with die 2 replaced by `d`. -/
def withDie (d : Die) : State := { built with fl := { built.fl with dies := [d] } }

theorem witness_DieOperationsChangeTheirDieAlone :
    (let d := { idleDie 2 with readQ := [read2] }
     let s := withDie d
     dieAt s 2 0 = some d ∧ dieTakes s d = true ∧ readTime d = true ∧ s.mode.mode ≠ .coast ∧ 2 ∉ s.mode.gates.tiles ∧ zqWaits s 2 0 = false) ∧
    (let d := { idleDie 2 with op := some (.program prog7) }
     let s := modChan 2 (fun c => { c with zqDue := [0] }) (withDie d)
     dieAt s 2 0 = some d ∧ zqWaits s 2 0 = true ∧ ceIdle s 2 (ceOf 0) = false ∧ dieServes s 2 0 = true) ∧
    (let d := { idleDie 2 with progQ := [prog7] }
     let s := withDie d
     dieAt s 2 0 = some d ∧ tilesRun s = true ∧ dieServes s 2 0 = true ∧ dieTakes s d = true ∧ d.op = none ∧
       d.readQ = [] ∧ nextArrayOp s d = some (.program prog7) ∧ d.progQ ≠ [] ∧ limited1 d = none ∧ zqWaits s 2 0 = false ∧
       limited1 { d with limitNext := some (.program prog7) } ≠ none) ∧
    (let d := { idleDie 2 with eraseQ := [9] }
     let s := withDie d
     dieAt s 2 0 = some d ∧ d.eraseQ ≠ []) ∧
    (let d := { idleDie 2 with op := some (.program prog7), cap := 4, readQ := [read2] }
     let s := withDie d
     dieAt s 2 0 = some d ∧ dieTakes s d = true ∧ class0 (readsSeen d) ≠ [] ∧ suspendRule s d = some (4, 100) ∧
       (chanAt s 2).isSome = true ∧ d.suspends < 4 ∧ d.op ≠ none) ∧
    (let d := { idleDie 2 with op := some (.program prog7), suspending := true, suspReads := [read2] }
     dieAt (withDie d) 2 0 = some d ∧ d.suspending = true ∧ d.resetting = false) ∧
    (let d := { idleDie 2 with op := some (.reads []), suspended := some (.program prog7) }
     dieAt (withDie d) 2 0 = some d ∧ d.suspended = some (.program prog7) ∧ readsOn d = []) := by decide +kernel

/-- The centres of CE# target 0 with eyes wide open. -/
def goodCentre : CeTrain :=
  { ce := 0, dqRd := [], dqsRd := 0, reDly := 0, dqsWr := 0, ctle := 0, dfe := 0, vref := 0, duty := 0, eyeWidth := 64 }

theorem witness_TimedOutDiesAreHeldAndRetired :
    (let d := { idleDie 2 with op := some (.program prog7) }
     let s := { withDie d with mode := { built.mode with mode := .coast } }
     dieAt s 2 0 = some d ∧ d.op = some (.program prog7) ∧ d.resetting = false ∧ s.mode.mode = .coast ∧
       tilesRun s = true ∧ (chanAt s 2).isSome = true) ∧
    (let d := { idleDie 2 with held := true, resetting := true, timedOut := some (.program prog7) }
     dieAt (withDie d) 2 0 = some d ∧ (chanAt (withDie d) 2).isSome = true ∧ d.resetting = true) ∧
    (let d := { idleDie 2 with held := true }
     let s := withDie d
     dieAt s 2 0 = some d ∧ d.held = true ∧ s.mode.mode ≠ .coast ∧ tilesRun s = true ∧ d.timedOut = none) ∧
    dieAt built 2 0 = some (idleDie 2) ∧ (idleDie 2).op = none ∧ (idleDie 2).held = false ∧
    (let c := { restChan with toutAt := [(0, 10), (4, 20)] }
     let s := { built with fl := { built.fl with chans := [(2, c)] } }
     let r : TrainResult := { channel := 2, set := 1, temp := 300, missing := [], swept := true, full := false, centres := [goodCentre] }
     (chanAt s 2).isSome = true ∧ faultSeen c = true ∧ trainedSet s r c.inForce.timingSet = 1 ∧
       trainedSet s { r with set := 0 } c.inForce.timingSet = 0 ∧ tilesRun s = true) ∧
    restChan.inForce.timingSet = 1 ∧ faultSeen restChan = false := by decide +kernel

theorem witness_RosterSyncsAndCalibration :
    tilesRun built = true ∧ built.lib.state = 0 ∧ chanAt built 2 = some restChan ∧ restChan.sync = false ∧
    chanAt (modChan 2 (fun c => { c with sync := true }) built) 2 = some { restChan with sync := true } ∧
    (built.nv.cmds.filter fun x => x.qid = 0 && x.phase = .running && x.e.opcode = 0xC4) = [] ∧
    ceDies built 2 0 ≠ [] ∧ ceIdle built 2 0 = true ∧
    ceIdle (withDie { idleDie 2 with op := some (.program prog7) }) 2 0 = false ∧ sweepPasses built 2 [] [] = false ∧
    sweepPasses built 2 [] [goodCentre] = true ∧ zqMoved (modDie 2 0 (readTemp built 2 300) built) 2 (ceOf 0) = false ∧
    serving built = true ∧
    (let s := withCmd 3 0 (entry 0xC4 0 (2 * 2 ^ 8) 0) (modChan 2 (fun c => { c with sync := true }) built)
     let s := { s with nv := { s.nv with cmds := s.nv.cmds.map fun x => { x with phase := .running } } }
     (cmdAt s 3).isSome = true ∧ (s.nv.cmds.filter fun y => y.qid = 0 && y.phase = .running && y.e.opcode = 0xC4 &&
       bitsOf y.e.dw10 13 8 = 2).map (fun y => y.slot) = [3]) ∧
    (let s := modDie 2 0 (readTemp built 2 300) built
     recentreDue s 2 restChan = true) := by decide +kernel

/-- A codeword that a decoder gave up on. -/
def lostWord : LadderWord :=
  { ppa := mkPpa 2 0 0 9 0 0, step := 3, cls := 0, why := [.nobody], decoded := false, places := 0 }

/-- A context of that word's die stripe at step `n`. -/
def inContext (n : Nat) (ws : List LadderWord) : State :=
  let k := stripeKey built lostWord.ppa
  let c : EscContext :=
    { lane := k.1, block := k.2.1, plane := k.2.2.1, page := k.2.2.2, words := ws.map fun w => { w with step := n },
      budget := false }
  { built with esc := { built.esc with contexts := [c] } }

theorem witness_LadderAndCipherUnits :
    (let d := { idleDie 2 with op := some (.reads [read2]) }
     dieAt (withDie d) 2 0 = some d ∧ d.resetting = false ∧ unitFree (withDie d) read2 = true) ∧
    built.esc.failed.find? (fun x => x.ppa = lostWord.ppa) = none ∧
    (let s := { built with esc := { built.esc with failed := [lostWord] } }
     awake s = true ∧ s.mode.mode ≠ .coast ∧ s.esc.failed.find? (fun x => x.ppa = lostWord.ppa) = some lostWord ∧
       ctxOf s lostWord.ppa = none ∧ s.esc.contexts.length < 256 ∧ s.esc.queue = []) ∧
    (inContext 3 []).esc.contexts.map (fun c => c.words.isEmpty) = [true] ∧ (inContext 3 []).esc.queue = [] ∧
    (inContext 3 []).esc.stalled = [] ∧ tilesRun (inContext 6 [lostWord]) = true ∧
    (wordOf (inContext 5 [lostWord]) lostWord.ppa).map (fun w => w.step) = some 5 ∧
    (wordOf (inContext 6 [lostWord]) lostWord.ppa).map (fun w => w.step) = some 6 ∧
    (wordOf (inContext 7 [lostWord]) lostWord.ppa).map (fun w => w.step) = some 7 ∧
    wordOf built lostWord.ppa = none ∧ keyLoaded keyed (keySlot 1 0) = some 1 ∧ keySlot 1 0 ≤ 1022 ∧
    23 ∉ keyed.key.fenced ∧ (4095 : Nat) ≠ 4096 ∧
    ({ built with esc := { built.esc with cipherIn := [(lostWord.ppa, .host 64 0 0)] } } : State).esc.cipherIn.find?
      (fun y => y.1 = lostWord.ppa) = some (lostWord.ppa, .host 64 0 0) ∧
    built.esc.cipherIn.find? (fun y => y.1 = lostWord.ppa) = none := by decide +kernel

/-- A running Coast at phase `p` with PERST# at `n`. -/
def coasting (p : CoastPhase) (n : Bool) : State :=
  let s := inMode .coast
  { s with
    coast := { s.coast with phase := p }
    pins := { s.pins with perstN := n } }

theorem witness_CoastIsEnteredAndHolds :
    serving live = true ∧ (1000 : Nat) ≤ 1000 ∧ (499 : Nat) < 500 ∧ 100 * fld live 0x6C4 = 10200 ∧
    (coasting .programs true).coast.phase = .programs ∧ live.coast.phase ≠ .programs ∧
    (coasting .record true).coast.phase = .record ∧ (coasting .record true).coast.perstFacts = none ∧
    (coasting .record true).pins.perstN = true ∧ (coasting .record false).pins.perstN = false ∧
    live.coast.phase ≠ .record := by decide +kernel

/-- The part with its hold-up test at `t` and Coast armed or not. -/
def testing (t : HoldupTest) (armed : Bool) : State :=
  { live with coast := { live.coast with test := t, armed := armed } }

theorem witness_HoldupTestsArmAndDisarm :
    testFree live = true ∧ (testing .none true).coast.armed = true ∧
    (testing .requested true).coast.test = .requested ∧ holdupLow (testing .requested true) = false ∧
    policyArmed (testing .requested true) = true ∧
    policyArmed { built with fol := { built.fol with live := [(0x6C0 / 4, 0)] } } = false ∧ serving built = true ∧
    (testing .discharging true).coast.test = .discharging ∧ 1000 * fld live 0x6CC = 20000 ∧
    1000 * fld live 0x6D0 = 200000 ∧ (testing (.recharging 30000) false).coast.test = .recharging 30000 ∧
    serving live = true ∧ live.coast.test = .none ∧ live.coast.armed = false ∧
    (let s := { live with coast := { live.coast with draining := true } }
     s.coast.draining = true ∧ drainOpen s = false ∧ armedOpen s = false) ∧ live.coast.draining = false := by decide +kernel

/-- A Librarian in state `n`. -/
def librarian (n : Nat) (held : Bool) : State :=
  { live with
    lib := { live.lib with state := n }
    upd := { live.upd with held := held } }

theorem witness_LibrarianRestarts :
    serving live = true ∧ live.lib.state ≠ 2 ∧ (librarian 2 false).lib.state = 2 ∧ (recentRestarts live).length < 3 ∧
    (librarian 1 false).lib.state = 1 ∧ (librarian 1 false).upd.held = false ∧ live.lib.heldMi = [] ∧
    live.lib.viewJobs = [] ∧ live.lib.waitingRet = [] ∧ live.lib.waitingSync = [] ∧ live.upd.relay.state ≠ 3 ∧
    serving (librarian 1 true) = true ∧ (librarian 1 true).upd.held = true := by decide +kernel

/-- A Daybook that knows its number, with `n` records to flush. -/
def booked (n : Nat) : State :=
  let r : DayRec := { seq := 1, timeMs := 0, fault := true, mode := 3, cycles := 1, event := 0x0703, payload := [] }
  { built with day := { built.day with
      known := true, flushDue := true, buffer := List.replicate n r, flushing := List.replicate n r } }

theorem witness_SensorsAndDaybook :
    awake live = true ∧ (List.replicate 12 (320 : Int)).length = 12 ∧ (List.replicate 10 1000).length = 10 ∧
    0x0703 ∈ dayEvents ∧ recordWanted live 0x0703 [(1, 0), (2, 900)] = true ∧ bufferUse live < 4096 ∧
    live.day.stalled = [] ∧ recordKind 0x0703 [(1, 0), (2, 900)] = 0 ∧ 0x0704 ∉ dayEvents ∧
    flushRuns (booked 3) = true ∧ (booked 3).day.flushDue = true ∧
    dayRoom (booked 3) (flushCards (booked 3).day.buffer.length) = true ∧ live.day.flushDue = false ∧
    (booked 3).day.flushing ≠ [] ∧ (booked 3).day.stalled = [] ∧ serving (booked 3) = true ∧
    live.day.flushing = [] := by decide +kernel

/-- A part with port 1 as `p` and its other ports Down, member 2. -/
def ported (p : Port) : State :=
  { live with pel := { live.pel with ports := [downPort, p, downPort, downPort], assigned := true, self := 2 } }

/-- A request header on port 1 from member 5 to member 2, of packet type `t`. -/
def hdr (t : Nat) : PacketHdr :=
  { port := 1, src := 5, dst := 2, ttl := 9, ptype := t, rank := 2, ordered := false, fox := false, locked := false,
    tag := 4096 + 7, seq := 10, arg0 := 0, arg1 := 0 }

/-- A PULSE body of serial 50, member 5. -/
def pulse5 : PulseBody :=
  { serial := 50, digest := 0, pelotonId := 0, pulseNum := 3, partners := [], linked := [], compat := [], mode := 3,
    assigned := true, captain := false, member := 5 }

theorem witness_PortsTrainFenceAndFail :
    awake (ported { downPort with aliveTx := true }) = true ∧
    (ported { downPort with aliveTx := true }).pel.ports.length = 4 ∧
    (portAt (ported { downPort with aliveTx := true }) 1).aliveTx = true ∧
    (portAt (ported { downPort with aliveTx := true }) 1).state = 0 ∧
    (portAt (ported { downPort with state := 1, attempt := 2 }) 1).state = 1 ∧
    (portAt (ported { downPort with state := 1, attempt := 2 }) 1).retryWait = false ∧
    attemptWidth (portAt (ported { downPort with state := 1, attempt := 2 }) 1).attempt = 2 ∧
    (portAt (ported { downPort with state := 1, retryWait := true }) 1).retryWait = true ∧
    (portAt (ported { downPort with state := 2 }) 1).state = 2 ∧
    helloRefusal (ported { downPort with state := 2 }) 1 pulse5 false false = 0 ∧
    helloRefusal (ported { downPort with state := 2 }) 1 pulse5 true false ≠ 0 ∧
    (portAt (ported { downPort with state := 3 }) 1).state = 3 := by decide +kernel

/-- Member 5 seen. -/
def seen5 : Seen :=
  { serial := 50, digest := 0, member := 5, assigned := true, captain := false, mode := 3, pulseNum := 2, atUs := 0,
    partners := [], compat := [] }

/-- Port 1 as Member port, member 5 seen, with serial `n` of this part. -/
def linked (n : Nat) : State :=
  let s := ported { downPort with state := 3, member := 5 }
  { s with
    pel := { s.pel with seen := [seen5], locks := [(0, 3, 5)] }
    cdx := { s.cdx with serial := n } }

theorem witness_NumbersPulsesAndRoutes :
    fabricOn (linked 40) = true ∧ freshPulse (linked 40) pulse5 = true ∧
    freshPulse (linked 40) { pulse5 with pulseNum := 2 } = false ∧ (linked 40).ech.ech = [] ∧
    (portAt (linked 40) 1).state = 3 ∧ seenAt (linked 40) 50 = some seen5 ∧ seenAt (linked 40) 51 = none ∧
    (let s := linked 40
     let t := { s with fol := { s.fol with live := [(0x301, 1)] }, pel := { s.pel with assigned := false } }
     autoNumbering t = true ∧ t.pel.assigned = false) ∧ autoNumbering (linked 40) = false ∧
    (linked 40).lib.state = 0 ∧ (∀ x, x ∈ (linked 40).pel.seen → (linked 40).cdx.serial ≤ x.serial) ∧
    (linked 60).pel.seen.any (fun x => decide (x.serial < 60)) = true := by decide +kernel

theorem witness_FlitsAndPacketsAreTakenOnce :
    fabricOn (linked 40) = true ∧ 2 ≤ (portAt (linked 40) 1).state ∧ (portAt (linked 40) 1).masked = false ∧
    ((portAt (linked 40) 1).rxSeq + 1) % 4096 = 1 ∧ (portAt (linked 40) 0).state < 2 ∧
    (linked 40).pel.ports.length = 4 ∧ (linked 40).pel.assigned = true ∧ portMember (linked 40) 1 = true ∧
    (hdr 3).dst = (linked 40).pel.self ∧
    duplicate { linked 40 with pel := { (linked 40).pel with rxWin := [(5, [10])] } } (hdr 3) = true := by decide +kernel

/-- A descriptor of card 0 of stripe 0 of echelon 0. -/
def cardDesc : EcDesc :=
  { echelon := 0, stripe := 0, viewNum := 0, role := 0, cardFirst := 0, cardsM1 := 0, full := false, fua := false,
    dealloc := false, dataIndex := 0 }

/-- A request to member 5 with index 7 and generation 1. -/
def out7 : OutReq :=
  { dst := 5, index := 7, gen := 1, hdr := hdr 3, body := .empty, op := 1, owner := .none,
    desc := cardDesc,
    payload := [], data := [], refused := 1, retryUs := 0, sentUs := 0 }

/-- The linked part with that request out. -/
def requesting : State := { linked 40 with pel := { (linked 40).pel with out := [out7] } }

theorem witness_TransactionPacketsAreServed :
    (accept 3 (hdr 3) (linked 40)).1 = true ∧ (accept 4 (hdr 4) (linked 40)).1 = true ∧
    requestOf (leaveIdle (accept 4 (hdr 4) (linked 40)).2) (hdr 4) = none ∧
    requestOf (leaveIdle (accept 4 (hdr 4) requesting).2) (hdr 4) = some out7 ∧ out7.payload = [] ∧
    (accept 6 (hdr 6) requesting).1 = true ∧ (accept 7 (hdr 7) (linked 40)).1 = true ∧
    keeperOf (leaveIdle (accept 7 (hdr 7) (linked 40)).2) 0 0 ≠ (linked 40).pel.self ∧
    (accept 8 (hdr 8) (linked 40)).1 = true ∧ (linked 40).ech.intents = [] ∧
    requestOf (leaveIdle (accept 9 (hdr 9) requesting).2) (hdr 9) = some out7 ∧ out7.refused ≠ 0 ∧
    requesting.pel.out.find? (fun x => x.dst = 5 && x.index = 7) = some out7 ∧
    (accept 0xA (hdr 0xA) (linked 40)).1 = true ∧ relayBusy (leaveIdle (accept 0xA (hdr 0xA) (linked 40)).2) 5 = false ∧
    (accept 0xB (hdr 0xB) (linked 40)).1 = true ∧
    (let t := { newTxn (hdr 5) cardDesc (linked 40) with op := 1 }
     let s := { linked 40 with pel := { (linked 40).pel with txns := [t] } }
     txnAt (leaveIdle (accept 5 (hdr 5) s).2) (hdr 5) = some t ∧ (accept 5 (hdr 5) s).1 = true) := by decide +kernel

/-- The part with DRAM at a rate. -/
def dramLive : State := { live with dram := { live.dram with rate := 4400 } }

theorem witness_DramWordsAreCountedAndScrubbed : dramOn dramLive = true ∧ dramLive.dram.corr[7]? = some 0 ∧
    dramLive.dram.uncorr[0]? = some 0 ∧ waitingReqs dramLive 7 = [] ∧ dramLive.ech.stewards = [] ∧ dramLive.cat.misses = [] ∧ dramLive.dram.repeats = [] ∧ dramOn live = false ∧ dramLive.dram.log.length < rowLogSize := by decide

theorem witness_DramRefreshBrakeAndRetirement : dramOn dramLive = true ∧ dramLive.dram.selfRef = false ∧
    dramLive.dram.postponed[7]? = some 0 ∧ dramLive.dram.refreshes[7]? = some 0 ∧ 0 < dramRanks dramLive ∧
    dramLive.dram.brake.length = 2 ∧ dramLive.dram.hold.length = 2 := by decide

/-- For either value of the open limit some count of postponed refreshes lies below it or at it. -/
theorem witness_DramRefreshBrakeAndRetirement_limit : Config.postponeLimit ≤ Config.postponeLimit ∧
    (Config.postponeLimit ≠ 0 → 0 < Config.postponeLimit) := by
  constructor <;> omega

/-- A row with an uncorrectable word. -/
def badRow : State :=
  { built with dram := { dramLive.dram with log := [
      { addr := { u := 3, rank := 0, bg := 1, bank := 2, row := 77 }, single := 0, double := 0, uncorr := 1,
        lastMs := 5, retired := false }] } }

theorem witness_DramRefreshBrakeAndRetirement_row : dramOn badRow = true ∧ badRow.lib.state = 0 ∧ rtRoom badRow = true ∧
    mapRoom badRow false = true ∧
    retireDue badRow { u := 3, rank := 0, bg := 1, bank := 2, row := 77 } false = true ∧
    retireDue badRow { u := 3, rank := 0, bg := 1, bank := 2, row := 78 } false = false := by decide

theorem witness_DramRefreshBrakeAndRetirement_spare : rowSpare badRow 3 = some 3 := by decide

/-- A part without spare rows: no Folio is in force. -/
def spareless : State := { dramLive with dram := badRow.dram }

theorem witness_DramRefreshBrakeAndRetirement_none : dramOn spareless = true ∧ spareless.lib.state = 0 ∧ rtRoom spareless = true ∧
    retireDue spareless { u := 3, rank := 0, bg := 1, bank := 2, row := 77 } false = true ∧
    rowSpare spareless 3 = none := by decide

/-- The part with an erase of sector 40 running. -/
def erasingLive : State := { live with cdx := { live.cdx with erasing := some 40, flags := [40] } }

/-- A request to program one byte at 0x300005. -/
def codexReq : CodexReq := { rank := 6, erase := false, addr := 0x300005, bytes := [0x5A], who := 0, spell := none }

theorem witness_CodexProgramsAndErases : whoServed live 0 = true ∧ live.cdx.cont = none ∧
    programLegal 0x3FFFFFE [1, 2] = true ∧ dieBusy live = false ∧ live.cdx.requests = [] ∧
    live.cdx.erasing ≠ some 1023 ∧ protectedFrom live 0 1023 = false ∧ protectedFrom live 0 0 = true ∧
    programLegal 0 [1] = true := by decide

theorem witness_CodexProgramsAndErases_done :
    ({ live.cdx with progging := some codexReq }).progging = some codexReq ∧
    mapAt 0 (codexReq.addr / 256) live.cdx.pageProgs < 8 ∧ live.fol.rtWait = [] ∧
    programLegal codexReq.addr codexReq.bytes = true ∧
    8 ≤ mapAt 0 (codexReq.addr / 256) ({ live.cdx with pageProgs := [(0x3000, 8)] }).pageProgs := by decide

theorem witness_CodexProgramsAndErases_erase : whoServed live 1 = true ∧ live.cdx.erasing = none ∧
    protectedFrom live 1 0 = false ∧ erasingLive.cdx.arrayErase = false ∧ erasingLive.cdx.erasing = some 40 ∧
    erasingLive.cdx.erSusp = false ∧ awake erasingLive = true ∧ erasingLive.cdx.progging = none ∧
    live.mode.mode ≠ .coast ∧
    ({ erasingLive with cdx := { erasingLive.cdx with requests := [codexReq] } }).cdx.requests = [codexReq] ∧
    codexReq.erase = false := by decide

theorem witness_CodexProgramsAndErases_suspended :
    let s : State := { erasingLive with cdx := { erasingLive.cdx with erSusp := true } }
    awake s = true ∧ s.cdx.requests = [] ∧ s.cdx.erSusp = true ∧ s.cdx.progging = none ∧ s.cdx.arrayErase = false ∧
      s.mode.mode ≠ .coast := by decide

theorem witness_CodexSequencesAndColophon : whoServed live 0 = true ∧ live.cdx.cont = none ∧
    ({ live.cdx with cont := some 7 }).cont = some 7 ∧
    ({ live.mode with manufacturing := true }).manufacturing = true ∧
    whoServed { live with mode := { live.mode with manufacturing := true } } 3 = true := by decide

theorem witness_CodexSequencesAndColophon_locked :
    (∃ g, live.cdx.colophon[7]? = some g ∧ g.locked = true) ∧
    (0x4000FFF + ([9] : List Byte).length - 1) / 256 = 0x4000FFF / 256 ∧ (0x4000FFF - 0x4000000) / 512 = 7 ∧
    ({ live.cdx with swap1 := some 65535 }).swap1 = some 65535 := by
  refine ⟨⟨_, rfl, ?_⟩, ?_⟩ <;> decide

theorem witness_CodexSequencesAndColophon_open :
    ∃ g, ({ live.cdx with colophon := [{ locked := false, crcOk := false, bytes := [] }] }).colophon[0]? = some g ∧
      g.locked = false := ⟨_, rfl, rfl⟩

/-- A Folio with echelon 0 of k = 2 on members 1, 2, 5 and 6. -/
def echFolio : FolioImage :=
  { smallFolio with echelons := [
      { echelon := 0, k := 2, positions := [1, 2, 5, 6], spares := [], nsid := 4, capacity := 1048576, lbaf := 1 }] }

/-- Its view: position 0 lags, position 3 rebuilds. -/
def view7 : ViewRec := { viewNum := 7, echelon := 0, holder := 1, places := [(1, 2), (2, 1), (5, 1), (6, 3)] }

/-- Member `m` of that echelon, with view `v`. -/
def echMember (m : Nat) (v : ViewRec) : State :=
  let s := linked 40
  { s with
    fol := { s.fol with bankA := .image echFolio, inForce := some false }
    pel := { s.pel with self := m }
    nv := { s.nv with nss := [
      { nsid := 4, shelves := 8, nsze := 65536, lbaf := 1, pi := 0, extents := [(0, 8)], attached := true,
        spanned := some 0 }] }
    key := { s.key with loaded := [(keySlot 4 0, 1)] }
    ech := { s.ech with ech := [
      { echelon := 0, view := v, storing := false, waiting := true, unreach := false, dropped := false, ana := 15,
        pointer := 2, stored := 0, reports := [], refDigest := 0 }] } }

/-- A CMD header of member 5 for operation `op` to member 2. -/
def opHdr (op : Nat) : PacketHdr := { hdr 3 with arg1 := 2 ^ 24 * op }

/-- Member 2 with the transaction of operation `op` accepted and a card of data here. -/
def withTxn2 (op view : Nat) : State :=
  let s := echMember 2 view7
  { s with pel := { s.pel with txns := [
    { newTxn (opHdr op) { cardDesc with viewNum := view } s with
      op := op, nsid := 4, cards := 1, data := [(0, [1, 2, 3, 4, 5, 6, 7, 8])] }] } }

/-- The one transaction of a state. -/
def txn2 (op view : Nat) : InTxn := (withTxn2 op view).pel.txns.getD 0 (newTxn (hdr 3) cardDesc live)

theorem witness_FormatAndSanitize_FormatRenewsKeySlots_spanned :
    (let s := withCmd 3 0 (entry 0x80 4 (2 * 512 + 1) 0) (echMember 2 view7)
     formatStatus s (entry 0x80 4 (2 * 512 + 1) 0) = none ∧ (nsAt s 4).any (fun n => decide (n.spanned = some 0)) = true ∧
       viewOf s 0 = some view7 ∧ serving s = true ∧ s.lib.state = 0 ∧ behindLibrarian s 3 = false ∧
       formatStatus s (entry 0x80 9 (2 * 512 + 1) 0) = some (0, 0x0B)) := by decide +kernel

theorem witness_ShareOperations :
    (∀ op ∈ [1, 2, 3, 4, 5, 6, 7], fabricOn (withTxn2 op 6) = true ∧ txnAt (withTxn2 op 6) (opHdr op) = some (txn2 op 6) ∧
      (txn2 op 6).op = op ∧ (txn2 op 6).started = false ∧ txnReady (withTxn2 op 6) (txn2 op 6) = true ∧
      (txn2 op 6).data.length = (txn2 op 6).cards ∧
      shareRefusal (withTxn2 op 6) (txn2 op 6) = some (3, 3) ∧
      staleView (withTxn2 op 6) (txn2 op 6).desc = true) := by decide +kernel

theorem witness_ShareOperations_served :
    (∀ op ∈ [1, 2, 3, 4, 5, 6, 7], fabricOn (withTxn2 op 7) = true ∧ txnAt (withTxn2 op 7) (opHdr op) = some (txn2 op 7) ∧
      (txn2 op 7).op = op ∧ (txn2 op 7).started = false ∧ txnReady (withTxn2 op 7) (txn2 op 7) = true ∧
      (txn2 op 7).data.length = (txn2 op 7).cards ∧
      shareRefusal (withTxn2 op 7) (txn2 op 7) = none ∧ (txn2 op 7).desc.dealloc = false ∧
      (txn2 op 7).want = [] ∧ (txn2 op 7).got = [] ∧ (txn2 op 7).desc.cardsM1 = 0 ∧
      shareUnderWay (opHdr op) (txn2 op 7).desc.cardFirst (withTxn2 op 7) = false ∧
      (match shareCard (withTxn2 op 7) 4 0 (txn2 op 7).desc.cardFirst with
        | some x => (match oldContents (withTxn2 op 7) 4 x.2.2.2 x.2.1 x.2.2.1 with | .here _ => true | _ => false)
        | none => false) = true ∧
      staleView (withTxn2 op 7) (txn2 op 7).desc = false ∧ (txn2 op 7).desc.full = false) := by decide +kernel

/-- The same member with card 0 of its share on flash, read by the dies that `built` has. -/
def shareOnFlash (op : Nat) : State :=
  let s := withTxn2 op 7
  { s with
    fl := built.fl
    cat := { s.cat with shelves := [(0, { form := 1, age := 1, ppa := mkPpa 2 0 0 9 0 0, presence := 1, prevForm := 0, relSeq := 0 })] } }

theorem witness_ShareOperations_flash :
    (∀ op ∈ [2, 4], txnAt (shareOnFlash op) (opHdr op) = some (txn2 op 7) ∧ fabricOn (shareOnFlash op) = true ∧
      txnReady (shareOnFlash op) (txn2 op 7) = true ∧ shareRefusal (shareOnFlash op) (txn2 op 7) = none ∧
      shareUnderWay (opHdr op) (txn2 op 7).desc.cardFirst (shareOnFlash op) = false ∧
      (match shareCard (shareOnFlash op) 4 0 (txn2 op 7).desc.cardFirst with
        | some x => (match oldContents (shareOnFlash op) 4 x.2.2.2 x.2.1 x.2.2.1 with
          | .flash p _ => dieServes (shareOnFlash op) (ppaChannel p) (ppaTarget p) && ! excludedSince (shareOnFlash op) p &&
              (dieAt (shareOnFlash op) (ppaChannel p) (ppaTarget p)).isSome
          | _ => false)
        | none => false) = true) := by decide +kernel

/-- A DELTA whose old card has been read, fox-marked when `fox`. -/
def deltaRead (fox : Bool) : InTxn := { txn2 4 7 with got := [(0, [1, 2, 3, 4, 5, 6, 7, 8], fox)] }

theorem witness_ShareOperations_delta :
    ∀ fox : Bool, let u := { withTxn2 4 7 with pel := { (withTxn2 4 7).pel with txns := [deltaRead fox] } }
      fabricOn u = true ∧ txnAt u (opHdr 4) = some (deltaRead fox) ∧ txnReady u (deltaRead fox) = true ∧
      shareRefusal u (deltaRead fox) = none ∧ (deltaRead fox).want = [] ∧ (deltaRead fox).started = false ∧
      (deltaRead fox).data.length = (deltaRead fox).cards ∧ (∀ g ∈ (deltaRead fox).got, g.2.2 = fox) ∧
      (∀ x ∈ txnCards (deltaRead fox), (deltaRead fox).got.find? (fun g => g.1 = x.1) =
        some (x.1, [1, 2, 3, 4, 5, 6, 7, 8], fox)) := by decide +kernel

theorem witness_ShareOperations_dealloc :
    let s := withTxn2 3 7
    let t := { txn2 3 7 with desc := { cardDesc with viewNum := 7, dealloc := true } }
    let u := { s with pel := { s.pel with txns := [t] } }
    txnAt u (opHdr 3) = some t ∧ txnReady u t = true ∧ shareRefusal u t = none ∧ t.desc.dealloc = true := by
  decide +kernel

theorem witness_ShareOperations_steward :
    ([0, 1, 2, 3].any fun n => stewardOf (withTxn2 1 7) 0 n 0 = 2) = true ∧
    (accept 3 (opHdr 11) (echMember 2 view7)).1 = true ∧ opKnown (cmdOp (opHdr 11)) = false ∧
    opKnown (cmdOp (opHdr 8)) = true ∧ txnAt (echMember 2 view7) (opHdr 8) = none ∧ cmdOp (opHdr 8) = 8 ∧
    (accept 3 (opHdr 8) (echMember 2 view7)).1 = true ∧
    (nsAt (accept 3 (opHdr 8) (echMember 2 view7)).2 4).any (fun n => n.spanned.isSome) = true := by decide +kernel

theorem witness_ViewsIntentsAndRebuilds :
    (accept 3 (opHdr 9) (echMember 2 view7)).1 = true ∧ cmdOp (opHdr 9) = 9 ∧ (echMember 2 view7).lib.state = 0 ∧
    (echAt (echMember 2 view7) 0).any (fun x => decide (x.view.viewNum = 7 ∧ x.waiting = true)) = true ∧
    holderOf view7 ≠ (echMember 2 view7).pel.self ∧ cmdOp (opHdr 10) = 10 ∧
    (accept 3 (opHdr 10) (echMember 2 view7)).1 = true ∧ echAt (echMember 2 view7) 1 = none := by decide +kernel

/-- An intent record of stripe 1. -/
def intent1 (kind pos : Nat) : IntentRec :=
  { slotNo := 0, echelon := 0, stripe := 1, kind := kind, position := pos, dataMask := 1, steward := 5, cardFirst := 0,
    cardsM1 := 0, viewNum := 7, timeMs := 0, settling := true }

/-- Member 2, keeper of stripe 1, with an intent to settle and a lagging entry of position 0. -/
def keeper2 : State :=
  let s := echMember 2 view7
  { s with ech := { s.ech with intents := [intent1 0 0, { intent1 2 0 with slotNo := 8192, settling := false }] } }

/-- The same keeper with the lagging entry alone. -/
def keeperLag : State :=
  { keeper2 with ech := { keeper2.ech with intents := [{ intent1 2 0 with slotNo := 8192, settling := false }] } }

/-- The same keeper in the last phase of a sequence of a kind, waiting for an answer when `busy`. -/
def keeperEnds (kind : Nat) (failed : List Nat) (busy : Bool) : State :=
  { keeper2 with
    ech := { keeper2.ech with stewards := [{ jobRun kind 0 1 0 0 1 7 with id := 5, failed := failed }] }
    pel := { keeper2.pel with out := if busy then [{ out7 with owner := .run 5 }] else [] } }

theorem witness_ViewsIntentsAndRebuilds_intents :
    fabricOn keeper2 = true ∧ runOf keeper2 4 0 1 = none ∧ keeperOf keeper2 0 1 = keeper2.pel.self ∧
    lockHolder keeper2 0 1 = none ∧ keeper2.pel.locks.length < 8192 ∧
    keeper2.ech.intents.find? (fun x => x.echelon = 0 && x.stripe = 1 && x.kind < 2 && x.settling) = some (intent1 0 0) ∧
    keeperOf keeper2 0 0 ≠ keeper2.pel.self ∧ fabricOn { keeper2 with mode := { keeper2.mode with mode := .coast } } = false := by
  decide +kernel

theorem witness_ViewsIntentsAndRebuilds_lag :
    fabricOn keeperLag = true ∧ runOf keeperLag 5 0 1 = none ∧ keeperOf keeperLag 0 1 = keeperLag.pel.self ∧
    (freeIntentSlot keeperLag 0 true).isSome = true ∧ lockRefusal keeperLag 0 1 = 0 ∧
    (lagEntry keeperLag 0 1 0).isSome = true := by decide +kernel

theorem witness_ViewsIntentsAndRebuilds_ends :
    (∀ kind ∈ [4, 5], ∀ failed ∈ [[], [1]],
      (runOf (keeperEnds kind failed false) kind 0 1).map (fun r => (r.phase, r.failed)) = some (7, failed) ∧
      fabricOn (keeperEnds kind failed false) = true ∧ runBusy (keeperEnds kind failed false) 5 = false ∧
      runBusy (keeperEnds kind failed true) 5 = true) := by decide +kernel

/-- The keeper with a READ_CHECKED of stripe 1, for data index 0, accepted. -/
def checkedTxn (view : Nat) : InTxn :=
  { newTxn (opHdr 6) { cardDesc with viewNum := view, stripe := 1, role := 0x41 } keeperLag with op := 6, nsid := 4, cards := 1 }

def keeperChecked (view : Nat) : State :=
  { keeperLag with pel := { keeperLag.pel with txns := [checkedTxn view] } }

theorem witness_ShareOperations_checked :
    (∀ view ∈ [6, 7], let s := keeperChecked view
      let t := checkedTxn view
      fabricOn s = true ∧ txnAt s (opHdr 6) = some t ∧ t.op = 6 ∧ t.started = false ∧ txnReady s t = true ∧
      opTakesData 6 t.desc = false ∧ waitingChecked (opHdr 6) s = none ∧ staleView s t.desc = decide (view = 6) ∧
      keeperOf s 0 1 = s.pel.self ∧ lagEntry s 0 1 (posOfRole s 0 1 0x41) = none ∧
      posKnown s 0 1 (posOfRole s 0 1 0x41) = true) ∧
    (let s := { keeperEnds 3 [] true with ech := { keeper2.ech with
        stewards := [{ jobRun 3 0 1 0 0 1 1 with id := 5, entries := [(5, 4103, 2)] }] } }
     (waitingChecked (opHdr 6) s).any (fun r => decide (r.id = 5)) = true ∧ runBusy s 5 = true) := by decide +kernel

/-- Every lagging slot of echelon 0 in use. -/
def fullLag : List IntentRec := (List.range 16384).map fun i => { intent1 2 0 with slotNo := 8192 + i }

theorem firstNat_none (p : Nat → Bool) (fuel n : Nat) (h : ∀ i, n ≤ i → i < n + fuel → p i = false) :
    firstNat p fuel n = none := by
  induction fuel generalizing n with
  | zero => rfl
  | succ k ih =>
    rw [firstNat, h n (Nat.le_refl n) (by omega)]
    exact ih (n + 1) fun i h1 h2 => h i (by omega) (by omega)

theorem witness_ViewsIntentsAndRebuilds_full :
    freeIntentSlot { keeper2 with ech := { keeper2.ech with intents := fullLag } } 0 true = none := by
  rw [freeIntentSlot, if_pos rfl]
  refine firstNat_none _ _ _ fun i h1 h2 => ?_
  have : i ∈ slotsUsed { keeper2 with ech := { keeper2.ech with intents := fullLag } } 0 true := by
    simp only [slotsUsed, fullLag, List.mem_map, List.mem_filter, List.mem_range]
    exact ⟨{ intent1 2 0 with slotNo := 8192 + (i - 8192) }, ⟨⟨i - 8192, by omega, rfl⟩, rfl⟩, by
      show 8192 + (i - 8192) = i
      omega⟩
  simp [this]

theorem witness_ViewsIntentsAndRebuilds_rebuild :
    (let s := echMember 6 view7
     positionOf view7 6 = some 3 ∧ (placeAt view7 3).2 = 3 ∧ serving s = true ∧ s.mode.mode ≠ .preserve ∧
     2 < ecStripes s 0 ∧ (echAt s 0).any (fun x => decide (x.pointer = 2)) = true ∧ awake s = true ∧
     s.ech.stewards = [] ∧ (rtActive s).length < 512) ∧ 2 + 1 < ecStripes (echMember 6 view7) 0 ∧
    (placeAt view7 1).2 ≠ 3 := by decide +kernel

/-- The rebuilding member with stripe 2's cards read, and an open row. -/
def rebuildRead : State :=
  let s := echMember 6 view7
  { s with
    wr := { rowOpen.wr with rows := [{ openRow7 with stream := 1 }] }
    blk := rowOpen.blk
    fl := rowOpen.fl
    ech := { s.ech with stewards := [{ jobRun 6 0 2 3 0 16 5 with
      id := 5, others := (List.range 16).flatMap fun i => [(1, i, zeroCard), (2, i, zeroCard)] }] } }

theorem witness_ViewsIntentsAndRebuilds_write :
    (let s := rebuildRead
     (s.ech.stewards.find? (fun r => r.kind = 6 && r.echelon = 0)).any (fun r =>
       ! runBusy s r.id && decide (r.stripe = 2 ∧ r.dataIdx = 3 ∧ r.phase = 5) && jobSolved s r && serving s &&
         decide (2 + 1 < ecStripes s 0) &&
         (writeOwn 0 2 ((List.range 16).map fun i => (i, (rebuiltCard s 0 2 3 (jobGot r i)).1)) [] s).isSome) = true) := by
  decide +kernel

theorem witness_TransactionPacketsAreServed_lock :
    (let s := { keeper2 with ech := { keeper2.ech with intents := [] } }
     let h := { hdr 7 with arg0 := 1 }
     (accept 7 h s).1 = true ∧ keeperOf (leaveIdle (accept 7 h s).2) (argEchelon h) (argStripe h) = s.pel.self ∧
     (echAt (leaveIdle (accept 7 h s).2) (argEchelon h)).isSome = true ∧
     lockRefusal (leaveIdle (accept 7 h s).2) (argEchelon h) (argStripe h) = 0) := by decide +kernel

/-- The linked part sending a relay to member 5. -/
def sending (w : Bool) : State :=
  let s := linked 40
  { s with upd := { s.upd with relay := { s.upd.relay with state := 2, next := 5, waitRound := w } } }

/-- The linked part whose partner on port 1 recovers. -/
def recoverer : State :=
  let s := linked 40
  { s with pel := { s.pel with seen := [{ seen5 with mode := 7, partners := [2] }] } }

/-- The part with a whole stream received. -/
def received : State :=
  { live with upd := { live.upd with
      staged := List.range 768
      relay := { live.upd.relay with rx := true, got := streamBytes, rxAction := 1 } } }

theorem witness_RelaysAndRecoveryDownloads :
    (fabricOn (sending false) = true ∧ (sending false).upd.relay.state = 2 ∧ (sending false).upd.relay.sent < streamBytes ∧
      relayOut (sending false) < 1 ∧ (sending true).upd.relay.waitRound = true ∧
      (sending false).upd.relay.waitRound = false) ∧
    (serving recoverer = true ∧ recoverer.pel.assigned = true ∧ recoverer.upd.relay.state = 0 ∧
      recoversOn recoverer 1 = true ∧ recoversOn recoverer 0 = false) ∧
    (serving received = true ∧ received.lib.state = 0 ∧ received.upd.relay.got = streamBytes ∧
      stageWhole received = true ∧ received.upd.writing = none ∧ blockErased received = true ∧ live.upd.relay.rx = false) := by decide +kernel

theorem witness_RelaysAndRecoveryDownloads_download :
    (let e := { entry 0x11 0 1023 0 with dw11 := 0 }
     let s := withCmd 1 0 e (inMode .recovery)
     s.mode.mode = .recovery ∧ (cmdAt s 1).any (fun c => decide (c.qid = 0 ∧ c.phase = .fetched ∧ c.e.opcode = 0x11)) = true ∧
       portionAt e = s.upd.recBytes ∧ portionAt e + portionLen e ≤ bundleBytes ∧
       portionAt { e with dw11 := 1024 } ≠ s.upd.recBytes) := by decide +kernel

theorem witness_FrontCommandRuns : ({ live with pending := [Instr.lockstepMismatch] } : State).pending = [Instr.lockstepMismatch] ∧
    live.pending = [] ∧ live.mode.mode ≠ .unpowered ∧ State.reset.pending = [] ∧
    State.reset.mode.mode = .unpowered := by decide

/-- A step of a state whose queue holds one command answers a next state. -/
theorem witness_QueueIsTakenInOrder : (∃ t, step { State.reset with pending := [Instr.lossOfPower] } = .next t) ∧
    ({ State.reset with pending := [Instr.lossOfPower] } : State).memWf := ⟨⟨_, rfl⟩, rfl⟩
/-- A state whose step is a command's and whose Codex array is canonical and not empty. -/
theorem witness_CodexArrayStaysCanonical :
    ({ live with pending := [Instr.lockstepMismatch], cdx := { live.cdx with mem := [(5, 0)] } } : State).memWf ∧
    ∃ t, step { live with pending := [Instr.lockstepMismatch], cdx := { live.cdx with mem := [(5, 0)] } } = .next t :=
  ⟨by decide, ⟨_, rfl⟩⟩

/-- A locked segment stands in a state a step answers from. -/
theorem witness_LockedColophonIsKept :
    (∃ t, step { live with pending := [Instr.lockstepMismatch] } = .next t) ∧
    (live.cdx.colophon[0]?).any (fun g => g.locked) = true := ⟨⟨_, rfl⟩, by decide⟩

end Sys2Proof.Tests
end

section
/-! PROOFS. The pool manager (R13 to R20): what pushing, popping, serving and stalling leave of the pools and of the
lines of stalled requests, and the two statements about POOL_FREE, POOL_REQUEST, POOL_STALL_SERVED and KS_POOL_CLEAR. -/

namespace Sys2Proof.Machine

/-! ## The free lists (R13) -/

/-- A freed buffer points at the old head; every other pointer of the list is as it was. -/
theorem nextOf_pushPool (n a b : Nat) (p : Pool) :
    nextOf n (pushPool n a p) b = if b = a then p.head else nextOf n p b := by
  have hread : nextOf n (pushPool n a p) b =
      mapAt (bootNext n p b) b (mapPut (bootNext n p a) a p.head p.next) := rfl
  rw [hread]
  by_cases hb : b = a
  · subst hb
    rw [mapAt_mapPut_eq, if_pos rfl, if_pos rfl]
  · rw [mapAt_mapPut, if_neg hb, if_neg hb, nextOf]

theorem freeBuffer_pool_getElem (n a m : Nat) (s : State) :
    (freeBuffer n a s).pools.pool[m]? =
      if m = n then s.pools.pool[m]?.map (pushPool n a) else s.pools.pool[m]? :=
  modAt_getElem n (pushPool n a) s.pools.pool m

/-! ## Which pool serves (R14, R20) -/

/-- The smallest fitting pool of a legal size, told by the sizes of Table 1.6. -/
theorem fitPool_le_iff {kib k : Nat} (hkib : kib ≤ 256) (hk : k ≤ 3) : fitPool kib ≤ k ↔ kib ≤ 4 * 4 ^ k := by
  unfold fitPool
  interval_cases k <;> split_ifs <;> omega

theorem hasBuffer_of_head {ps : List Pool} {n : Nat} {p : Pool} (hp : ps[n]? = some p) (hhead : p.head ≠ 0) :
    hasBuffer ps n = true := by
  simp [hasBuffer, hp, hhead]

theorem hasBuffer_eq_false {ps : List Pool} {n : Nat} (h : ∀ p, ps[n]? = some p → p.head = 0) :
    hasBuffer ps n = false := by
  unfold hasBuffer
  cases hp : ps[n]? with
  | none => rfl
  | some p => simp [h p hp]

/-- The first fitting pool that holds a buffer serves. -/
theorem servePool_eq_some {ps : List Pool} {set kib k : Nat} (hk : k ≤ 3) (hfit : fitPool kib ≤ k)
    (hbuf : hasBuffer ps (4 * set + k) = true)
    (hfirst : ∀ j, j < k → fitPool kib ≤ j → hasBuffer ps (4 * set + j) = false) :
    servePool ps set kib = some (4 * set + k) := by
  have hfind : (List.range 4).find? (fun j => decide (fitPool kib ≤ j) && hasBuffer ps (4 * set + j)) = some k := by
    rw [List.find?_range_eq_some]
    refine ⟨by simp [hfit, hbuf], List.mem_range.mpr (by omega), fun j hj => ?_⟩
    by_cases hfj : fitPool kib ≤ j
    · simp [hfirst j hj hfj]
    · simp [hfj]
  have hrange : ([0, 1, 2, 3] : List Nat) = List.range 4 := rfl
  rw [servePool, hrange, List.head?_filter, hfind]
  rfl

/-- A request for one buffer takes the head of the pool that serves it. -/
theorem takeAll_singleton {ps : List Pool} {set kib n : Nat} {p : Pool} (hserve : servePool ps set kib = some n)
    (hp : ps[n]? = some p) :
    takeAll set [kib] ps = some ([(n, p.head)], ps.set n (countFall set n kib (popPool n p))) := by
  simp [takeAll, takeBuffer, hserve, hp]

theorem countFall_head (set n kib : Nat) (p : Pool) : (countFall set n kib p).head = p.head := by
  unfold countFall; split <;> rfl

theorem countFall_free (set n kib : Nat) (p : Pool) : (countFall set n kib p).free = p.free := by
  unfold countFall; split <;> rfl

/-- A pool counts a fall-through unless no smaller pool holds the size. -/
theorem countFall_fall {set kib k : Nat} (p : Pool) (hkib : kib ≤ 256) (hk : k ≤ 3) (hfit : fitPool kib ≤ k) :
    (countFall set (4 * set + k) kib p).fall =
      if k = 0 ∨ 4 * 4 ^ (k - 1) < kib then p.fall else min (p.fall + 1) 4294967295 := by
  have hsmallest : 4 * set + k = 4 * set + fitPool kib ↔ k = 0 ∨ 4 * 4 ^ (k - 1) < kib := by
    have hbelow := fitPool_le_iff hkib (show k - 1 ≤ 3 by omega)
    omega
  by_cases h : k = 0 ∨ 4 * 4 ^ (k - 1) < kib
  · rw [countFall, if_pos (hsmallest.mpr h), if_pos h]
  · rw [countFall, if_neg (mt hsmallest.mp h), if_neg h]
    rfl

/-! ## The lines of stalled requests (R15) -/

@[simp] theorem waitList_setWait (set : Nat) (l : List PoolReq) (p : Pools) : waitList set (setWait set l p) = l := by
  by_cases h : set = 0 <;> simp [waitList, setWait, h]

theorem waitList_setWait_other {set : Nat} (hset : set ≤ 1) (l : List PoolReq) (p : Pools) :
    waitList (1 - set) (setWait set l p) = waitList (1 - set) p := by
  interval_cases set <;> rfl

@[simp] theorem setWait_pool (set : Nat) (l : List PoolReq) (p : Pools) : (setWait set l p).pool = p.pool := by
  unfold setWait; split <;> rfl

@[simp] theorem setWait_held (set : Nat) (l : List PoolReq) (p : Pools) : (setWait set l p).held = p.held := by
  unfold setWait; split <;> rfl

@[simp] theorem waitList_countStall (set x : Nat) (sizes : List Nat) (p : Pools) :
    waitList x (countStall set sizes p) = waitList x p := rfl

@[simp] theorem countStall_held (set : Nat) (sizes : List Nat) (p : Pools) :
    (countStall set sizes p).held = p.held := rfl

@[simp] theorem waitList_handOut (set : Nat) (who : Requester) (got : List (Nat × Nat)) (p : Pools) :
    waitList set (handOut who got p) = waitList set p := rfl

@[simp] theorem handOut_pool (who : Requester) (got : List (Nat × Nat)) (p : Pools) :
    (handOut who got p).pool = p.pool := rfl

@[simp] theorem handOut_held (who : Requester) (got : List (Nat × Nat)) (p : Pools) :
    (handOut who got p).held = p.held ++ got.map fun b => (who, b.1, b.2) := rfl

@[simp] theorem waitList_with_pool (set : Nat) (p : Pools) (ps : List Pool) :
    waitList set { p with pool := ps } = waitList set p := rfl

/-- A stall moves one counter: every pool keeps its free list and its free count (R20). -/
theorem countStall_pool {set m : Nat} {sizes : List Nat} {p : Pools} {q : Pool} (hq : p.pool[m]? = some q) :
    ∃ r, (countStall set sizes p).pool[m]? = some r ∧ r.head = q.head ∧ r.next = q.next ∧ r.free = q.free ∧
      r.stall = if m = 4 * set + fitPool (largest sizes) then min (q.stall + 1) 4294967295 else q.stall := by
  simp only [countStall, modAt_getElem, hq]
  split_ifs with hm
  · exact ⟨_, rfl, rfl, rfl, rfl, rfl⟩
  · exact ⟨q, rfl, rfl, rfl, rfl, rfl⟩

/-! ## Requests (R14, R15, R17) -/

@[simp] theorem slotPhase_engine (e : Nat) (ph : CmdPhase) (s : State) : slotPhase (.engine e) ph s = s := rfl

theorem requestBuffers_served {set : Nat} {who : Requester} {sizes : List Nat} {s : State} {got : List (Nat × Nat)}
    {ps : List Pool} (hline : waitList set s.pools = []) (htake : takeAll set sizes s.pools.pool = some (got, ps)) :
    requestBuffers set who sizes s =
      slotPhase who .buffered { s with pools := handOut who got { s.pools with pool := ps } } := by
  simp [requestBuffers, hline, htake]

theorem requestBuffers_stalled {set : Nat} {who : Requester} {sizes : List Nat} {s : State}
    (h : waitList set s.pools ≠ [] ∨ takeAll set sizes s.pools.pool = none) :
    requestBuffers set who sizes s =
      slotPhase who .stalled { s with
        pools := setWait set (waitList set s.pools ++ [{ who := who, sizes := sizes }])
          (countStall set sizes s.pools) } := by
  have hnone : (if (waitList set s.pools).isEmpty then takeAll set sizes s.pools.pool else none) = none := by
    rcases h with hline | htake
    · simp [hline]
    · simp [htake]
  rw [requestBuffers, hnone]

theorem serveStalled_served {set : Nat} {s : State} {r : PoolReq} {rest : List PoolReq} {got : List (Nat × Nat)}
    {ps : List Pool} (hline : waitList set s.pools = r :: rest)
    (htake : takeAll set r.sizes s.pools.pool = some (got, ps)) :
    serveStalled set s = slotPhase r.who .buffered
      { s with pools := handOut r.who got (setWait set rest { s.pools with pool := ps }) } := by
  simp [serveStalled, hline, htake]

theorem requestLegal_engine_single {set e kib : Nat} (s : State) (hset : set ≤ 1) (hlow : 1 ≤ kib) (hhigh : kib ≤ 256) :
    requestLegal set (.engine e) [kib] s = true := by
  simp [requestLegal, hset, hlow, hhigh]

theorem requestLegal_set_le {set : Nat} {who : Requester} {sizes : List Nat} {s : State}
    (h : requestLegal set who sizes s = true) : set ≤ 1 := by
  simp only [requestLegal, Bool.and_eq_true, decide_eq_true_eq] at h
  exact h.1.1.1

/-- A legal request outside Coast is served or stalls. -/
theorem exec_poolRequest {set : Nat} {who : Requester} {sizes : List Nat} {s : State}
    (hlegal : requestLegal set who sizes s = true) (hcoast : s.mode.mode ≠ .coast) :
    exec (.poolRequest set who sizes) s = .next (requestBuffers set who sizes s) := by
  change execPoolRequest set who sizes s = _
  simp [execPoolRequest, hlegal, hcoast]

/-- Outside Coast, when serving shortens the line, what waited for the buffers goes on. -/
theorem exec_poolStallServed {set : Nat} {s : State} (hcoast : s.mode.mode ≠ .coast) (hset : set ≤ 1)
    (hshorter : (waitList set (serveStalled set s).pools).length ≠ (waitList set s.pools).length) :
    exec (.poolStallServed set) s = .next (resumeAll (serveStalled set s)) := by
  change execPoolStallServed set s = _
  simp [execPoolStallServed, hcoast, Nat.not_lt.mpr hset, hshorter]

/-- KS_POOL_CLEAR with bit 0 clears the counters of every pool and no more (R20). -/
theorem exec_ksPoolClear {s : State} {v : Word32} (hbar : barOn s = true) (hbit : v.getLsbD 0 = true) :
    exec (.ksPoolClear v) s =
      .next { s with pools := { s.pools with pool := s.pools.pool.map clearPool } } := by
  change execKsPoolClear v s = _
  rw [execKsPoolClear, if_pos hbar, clearPools, if_pos hbit]

/-! ## The statements -/

/-- Settles O1: POOL_FREE is `freeBuffer`, which pushes the buffer on its pool's list. -/
theorem freedBufferBecomesListHead : Obligations.FreedBufferBecomesListHead := by
  intro s n a p hp
  refine ⟨freeBuffer n a s, pushPool n a p, rfl, freeBuffer_rest n a s, ?_, rfl, ?_, fun b hb => ?_, rfl, rfl, rfl,
    fun m hm => ?_, rfl, rfl⟩
  · rw [freeBuffer_pool_getElem, if_pos rfl, hp]
    rfl
  · rw [nextOf_pushPool, if_pos rfl]
  · rw [nextOf_pushPool, if_neg hb]
  · rw [freeBuffer_pool_getElem, if_neg hm]

/-- Settles O2: a request is served, stalls, or is served from the head of the line; the clear is a map over the
pools. -/
theorem poolsServeRequestsInOrder : Obligations.PoolsServeRequestsInOrder := by
  refine ⟨?served, ?stalled, ?oldest, ?clear⟩
  case served =>
    intro s set e kib k p hset hlow hhigh hcoast hline hk hkib hp hhead hfirst
    have hfit : fitPool kib ≤ k := (fitPool_le_iff hhigh hk).mpr hkib
    have hserve : servePool s.pools.pool set kib = some (4 * set + k) :=
      servePool_eq_some hk hfit (hasBuffer_of_head hp hhead) fun j hj hfj =>
        hasBuffer_eq_false (hfirst j hj ((fitPool_le_iff hhigh (by omega)).mp hfj))
    have hlen : 4 * set + k < s.pools.pool.length := (List.getElem?_eq_some_iff.mp hp).1
    refine ⟨_, countFall set (4 * set + k) kib (popPool (4 * set + k) p),
      exec_poolRequest (requestLegal_engine_single s hset hlow hhigh) hcoast, ?_⟩
    rw [requestBuffers_served hline (takeAll_singleton hserve hp), slotPhase_engine]
    refine ⟨rfl, ?_, countFall_head .., countFall_free .., countFall_fall _ hhigh hk hfit, fun m hm => ?_, rfl, hline⟩
    · exact List.getElem?_set_self hlen
    · exact List.getElem?_set_ne (Ne.symm hm)
  case stalled =>
    intro s set e sizes hlegal hcoast hstall
    refine ⟨_, exec_poolRequest hlegal hcoast, ?_⟩
    rw [requestBuffers_stalled hstall, slotPhase_engine]
    refine ⟨rfl, waitList_setWait .., ?_, setWait_held .., fun m p hp => ?_⟩
    · exact waitList_setWait_other (requestLegal_set_le hlegal) _ _
    · simpa only [setWait_pool] using countStall_pool hp
  case oldest =>
    intro s set e sizes rest got ps hcoast hset hline htake
    have hserved := serveStalled_served hline htake
    rw [slotPhase_engine] at hserved
    have hrest : waitList set (serveStalled set s).pools = rest := by simp [hserved]
    refine ⟨serveStalled set s, exec_poolStallServed hcoast hset (by simp [hrest, hline]), ?_, hrest, ?_, ?_⟩ <;>
      simp [hserved]
  case clear =>
    intro s v hbar hbit
    refine ⟨_, exec_ksPoolClear hbar hbit, rfl, fun m p hp => ?_⟩
    simp only [List.getElem?_map, hp]
    rfl

end Sys2Proof.Machine
end

section
/-! PROOFS. What several operations of the Catalogue family leave unchanged: a fold of small steps, a command that is
changed in its slot or ends, buffers that go back, and a change of mode. -/

namespace Sys2Proof.Machine

/-- A fold of steps that each keep a part of the state keeps it. -/
theorem foldl_keeps {α β : Type} (part : State → β) (f : State → α → State) (h : ∀ s a, part (f s a) = part s)
    (l : List α) (s : State) : part (l.foldl f s) = part s := by
  induction l generalizing s with
  | nil => rfl
  | cons a l ih => rw [List.foldl_cons, ih, h]

/-! ## A command in its slot -/

theorem cmdAt_modCmd {slot : Nat} {f : Cmd → Cmd} {s : State} {c : Cmd} (hf : ∀ x, (f x).slot = x.slot)
    (hc : cmdAt s slot = some c) : cmdAt (modCmd slot f s) slot = some (f c) := by
  have hslot : ∀ x : Cmd, decide ((if decide (x.slot = slot) then f x else x).slot = slot) = decide (x.slot = slot) := by
    intro x; split <;> simp [hf]
  have hfind := find?_modWhere (fun c : Cmd => decide (c.slot = slot)) f (fun c : Cmd => decide (c.slot = slot))
    s.nv.cmds hslot
  have hlook : s.nv.cmds.find? (fun c => decide (c.slot = slot)) = some c := hc
  rw [cmdAt, modCmd, hfind, hlook]
  simp [cmdAt_slot hc]

theorem cmdAt_freeAllOf (who : Requester) (slot : Nat) (s : State) :
    cmdAt (freeAllOf who s) slot = cmdAt s slot := by
  obtain ⟨p, hp⟩ := freeAllOf_rest who s
  rw [hp, cmdAt, cmdAt]

theorem freeAllOf_nv (who : Requester) (s : State) : (freeAllOf who s).nv = s.nv := by
  obtain ⟨p, hp⟩ := freeAllOf_rest who s
  rw [hp]

theorem addError_readOut (c : Cmd) (st : Nat × Nat) (lba : Nat) (s : State) :
    (addError c st lba s).nv.readOut = s.nv.readOut := by
  unfold addError; split <;> rfl

/-- A command that ends adds the completion with its status and DNR, leaves its slot, and sends no data. -/
theorem finishAt_of_cmdAt {slot : Nat} {c : Cmd} {s : State} (st : Nat × Nat) (lba : Nat) (dnr : Bool) (dw0 : Nat)
    (hc : cmdAt s slot = some c) :
    (finishAt slot st lba dnr dw0 s).nv.waiting = s.nv.waiting ++ [{ entryOf slot c st dw0 with dnr := dnr }] ∧
      cmdAt (finishAt slot st lba dnr dw0 s) slot = none ∧
      (finishAt slot st lba dnr dw0 s).nv.readOut = s.nv.readOut := by
  rw [finishAt, hc]
  refine ⟨?_, ?_, addError_readOut ..⟩
  · simp [addError_waiting, entryOf]
  · simp [cmdAt]

theorem finish_readOut (slot : Nat) (st : Nat × Nat) (dw0 : Nat) (s : State) :
    (finish slot st dw0 s).nv.readOut = s.nv.readOut := by
  unfold finish
  cases hc : cmdAt s slot with
  | none => rfl
  | some c => exact (finishAt_of_cmdAt _ _ _ _ hc).2.2

theorem finishAt_rest (slot : Nat) (st : Nat × Nat) (lba : Nat) (dnr : Bool) (dw0 : Nat) (s : State) :
    finishAt slot st lba dnr dw0 s = { s with nv := (finishAt slot st lba dnr dw0 s).nv } := by
  unfold finishAt
  split
  · rfl
  · rw [addError_rest]

/-- A command that completes with its cards' status touches the controller and the fox count only. -/
theorem finishCmd_rest (slot : Nat) (s : State) :
    finishCmd slot s = { s with nv := (finishCmd slot s).nv, esc := (finishCmd slot s).esc } := by
  unfold finishCmd
  split
  · rfl
  · split
    · rw [finishOk, finish_rest]
    · split <;> rw [finishAt_rest]
      rfl

end Sys2Proof.Machine
end

section
/-! PROOFS. The data commands (R26, R58, R232, R242, R263): what a command that starts meets, in order, and a Read or
Compare of one card that maps nothing. -/

namespace Sys2Proof.Machine

/-! ## The checks at the start -/

theorem startIo_ready {slot : Nat} {c : Cmd} {s : State} {pick : SqEntry → Bool} (hready : IoReady slot c s)
    (hpick : pick c.e = true) (f : Cmd → State → State) : startIo slot .fetched pick f s = f c s := by
  obtain ⟨hc, hqid, hphase, hserve⟩ := hready
  simp [startIo, hc, hqid, hphase, hserve, hpick]

theorem exec_write_ready {slot : Nat} {c : Cmd} {s : State} (hready : IoReady slot c s) (hop : c.e.opcode = 0x01) :
    exec (.write slot) s = .next (withRange slot true true c (fun n u => startWrite slot c n u) s) :=
  congrArg _ (startIo_ready hready (decide_eq_true hop) _)

theorem exec_read_ready {slot : Nat} {c : Cmd} {s : State} (hready : IoReady slot c s) (hop : c.e.opcode = 0x02) :
    exec (.read slot) s = .next (withRange slot false true c (fun n u => readCards slot c n [] u) s) :=
  congrArg _ (startIo_ready hready (decide_eq_true hop) _)

theorem exec_compare_ready {slot : Nat} {c : Cmd} {s : State} (hready : IoReady slot c s) (hop : c.e.opcode = 0x05)
    (data : List Nat) : exec (.compare slot data) s =
      .next (withRange slot false true c (fun n u => readCards slot c n data u) s) :=
  congrArg _ (startIo_ready hready (decide_eq_true hop) _)

theorem exec_writeZeroes_ready {slot : Nat} {c : Cmd} {s : State} (hready : IoReady slot c s)
    (hop : c.e.opcode = 0x08) : exec (.writeZeroes slot) s = .next (withRange slot true false c (fun n u =>
      if ! deacOf c.e && allFenced u then finishErr slot scDenied u else startZeroes slot c n u) s) :=
  congrArg _ (startIo_ready hready (decide_eq_true hop) _)

section
variable {slot : Nat} {c : Cmd} {n : Namespace} {s : State} {writing moves : Bool} {f : Namespace → State → State}

/-- More than 2 MiB that the command moves is Invalid Field. -/
theorem withRange_tooLong (hns : nsAt s c.e.nsid = some n) (hlong : 2097152 < nlbOf c.e * lbaBytes n) :
    withRange slot writing true c f s = finishErr slot scField s := by
  simp [withRange, hns, hlong]

theorem withRange_pastEnd (hns : nsAt s c.e.nsid = some n) (hshort : nlbOf c.e * lbaBytes n ≤ 2097152)
    (hpast : n.nsze < slbaOf c.e + nlbOf c.e) : withRange slot writing moves c f s = finishErr slot scRange s := by
  simp [withRange, hns, Nat.not_lt.mpr hshort, rangeOk, hpast]

theorem withRange_denied {st : Nat × Nat} {dnr : Bool} (hns : nsAt s c.e.nsid = some n)
    (hshort : nlbOf c.e * lbaBytes n ≤ 2097152) (hrange : slbaOf c.e + nlbOf c.e ≤ n.nsze)
    (haccess : accessStatus s slot n (cardsOf (firstSector n c.e) (sectorCount n c.e)) writing moves = some (st, dnr)) :
    withRange slot writing moves c f s = finishAt slot st (lbaField c) dnr 0 s := by
  simp [withRange, hns, Nat.not_lt.mpr hshort, rangeOk, hrange, haccess]

theorem withRange_starts (hns : nsAt s c.e.nsid = some n) (hshort : nlbOf c.e * lbaBytes n ≤ 2097152)
    (hrange : slbaOf c.e + nlbOf c.e ≤ n.nsze)
    (haccess : accessStatus s slot n (cardsOf (firstSector n c.e) (sectorCount n c.e)) writing moves = none) :
    withRange slot writing moves c f s = f n s := by
  simp [withRange, hns, Nat.not_lt.mpr hshort, rangeOk, hrange, haccess]

/-- A command whose step is to end with status `st` has ended so, and only the controller has changed. -/
theorem ended_of_next {i : Instr} {st : Nat × Nat} {t : State} (hc : cmdAt s slot = some c)
    (hexec : exec i s = .next t) (hend : t = finishErr slot st s) :
    ∃ t, exec i s = .next t ∧ Ended slot c st 0 s t ∧ t = { s with nv := t.nv } :=
  ⟨t, hexec, hend ▸ finish_ended st 0 hc, hend ▸ finish_rest slot st 0 s⟩

end

/-! ## One card that maps nothing -/

/-- The command as it reads the one card `i`, with `data` to compare. -/
def readingCard (i : Nat) (data : List Nat) (c : Cmd) : Cmd :=
  { c with phase := .running, want := [(i, 0)], data := data }

/-- The command once card `i` is delivered as `sectors`. -/
def deliveredCard (i : Nat) (sectors : List Nat) (c : Cmd) : Cmd :=
  { c with want := c.want.filter fun w => w != (i, 0), got := c.got ++ [(i, sectors)] }

/-- A command that reads one card of a local namespace, where the map names none, is given zeros. -/
theorem readCards_unmapped {s : State} {slot i sh k : Nat} {c : Cmd} {n : Namespace} (data : List Nat)
    (hc : cmdAt s slot = some c) (hns : nsAt s c.e.nsid = some n) (hlocal : n.spanned = none)
    (hcards : cardsOf (firstSector n c.e) (sectorCount n c.e) = [i]) (hplace : cardPlace n i = some (sh, k))
    (hlook : lookup s sh k = .zeros) :
    readCards slot c n data s = deliver slot i zeroCard (modCmd slot (readingCard i data) s) := by
  have hcmd : cmdAt (modCmd slot (readingCard i data) s) slot = some (readingCard i data c) :=
    cmdAt_modCmd (fun _ => rfl) hc
  have hns' : nsAt (modCmd slot (readingCard i data) s) (readingCard i data c).e.nsid = some n := hns
  have hlook' : lookup (modCmd slot (readingCard i data) s) sh k = .zeros := hlook
  have hread : readCards slot c n data s = readCard slot i (modCmd slot (readingCard i data) s) := by
    rw [readCards, hlocal, hcards]; rfl
  rw [hread, readCard]
  simp only [hcmd, hns', hplace, hlook']

/-- What the delivery of a good card leaves: the command with the card, the completions that wait, and the data sent. -/
theorem deliverCard_facts {s : State} {slot i : Nat} {c : Cmd} {n : Namespace} (sectors : List Nat)
    (hc : cmdAt s slot = some c) (hns : nsAt s c.e.nsid = some n) :
    cmdAt (deliverCard slot i sectors false s) slot = some (deliveredCard i sectors c) ∧
      (deliverCard slot i sectors false s).nv.waiting = s.nv.waiting ∧
      (deliverCard slot i sectors false s).nv.nss = s.nv.nss ∧
      (deliverCard slot i sectors false s).nv.readOut = (if c.e.opcode = 0x02 then s.nv.readOut ++
        [(c.e.cid, i, rangePart (firstSector n c.e) (sectorCount n c.e) i sectors, false)] else s.nv.readOut) ∧
      deliverCard slot i sectors false s = { s with nv := (deliverCard slot i sectors false s).nv } := by
  have hcmd : cmdAt (modCmd slot (deliveredCard i sectors) s) slot = some (deliveredCard i sectors c) :=
    cmdAt_modCmd (fun _ => rfl) hc
  by_cases hop : c.e.opcode = 0x02
  · simp only [deliverCard, hc, hns, if_pos hop]
    exact ⟨hcmd, rfl, rfl, rfl, rfl⟩
  · simp only [deliverCard, hc, hns, if_neg hop]
    exact ⟨hcmd, rfl, rfl, rfl, rfl⟩

section
variable {s : State} {slot : Nat} {c : Cmd} {n : Namespace}

/-- With every card delivered and none failed, a Read, or a Compare of equal data, succeeds. -/
theorem finishReads_success (hc : cmdAt s slot = some c) (hns : nsAt s c.e.nsid = some n) (hwant : c.want = [])
    (hphase : c.phase = .running) (hfails : c.fails = [])
    (hop : c.e.opcode = 0x02 ∨ c.e.opcode = 0x05 ∧ comparesEqual n c = true) :
    finishReads slot s = finishOk slot 0 (freeAllOf (.slot slot) s) := by
  have hcmd : cmdAt (freeAllOf (.slot slot) s) slot = some c := (cmdAt_freeAllOf ..).trans hc
  have hend : finishCmd slot (freeAllOf (.slot slot) s) = finishOk slot 0 (freeAllOf (.slot slot) s) := by
    rw [finishCmd, hcmd]; simp only [hfails, worstCard]
  rw [← hend]
  rcases hop with hop | ⟨hop, hequal⟩
  · simp [finishReads, hc, hns, hwant, hphase, hop]
  · simp [finishReads, hc, hns, hwant, hphase, hop, hequal]

/-- A Compare of other data fails. -/
theorem finishReads_differs (hc : cmdAt s slot = some c) (hns : nsAt s c.e.nsid = some n) (hwant : c.want = [])
    (hphase : c.phase = .running) (hfails : c.fails = []) (hop : c.e.opcode = 0x05)
    (hdiffers : comparesEqual n c = false) :
    finishReads slot s = finishErr slot scCompare (freeAllOf (.slot slot) s) := by
  simp [finishReads, hc, hns, hwant, hphase, hop, hfails, hdiffers]

end

theorem natAt_replicate_zero (m i : Nat) : natAt (List.replicate m 0) i = 0 := by
  simp only [natAt, List.getD_eq_getElem?_getD, List.getElem?_replicate]
  split <;> rfl

theorem deliveredAt_zeroCard {c : Cmd} {i : Nat} (hgot : c.got = [(i, zeroCard)]) (sector : Nat) :
    deliveredAt c sector = 0 := by
  have hzero : ∀ j, natAt zeroCard j = 0 := natAt_replicate_zero 8
  unfold deliveredAt
  split
  · rename_i g hfound
    have hg : g = (i, zeroCard) := by simpa [hgot] using List.mem_of_find?_eq_some hfound
    rw [hg]
    exact hzero _
  · rfl

theorem sectorCount_pos (n : Namespace) (e : SqEntry) : 0 < sectorCount n e := by
  have hsectors : 0 < lbaSectors n := by unfold lbaSectors; split <;> decide
  exact Nat.mul_pos (Nat.succ_pos _) hsectors

theorem comparesEqual_zeros {n : Namespace} {c : Cmd} {i : Nat} (hgot : c.got = [(i, zeroCard)])
    (hdata : c.data = List.replicate (sectorCount n c.e) 0) : comparesEqual n c = true := by
  simp [comparesEqual, deliveredAt_zeroCard hgot, hdata, natAt_replicate_zero]

theorem comparesEqual_one_first {n : Namespace} {c : Cmd} {i : Nat} {rest : List Nat} (hgot : c.got = [(i, zeroCard)])
    (hdata : c.data = 1 :: rest) : comparesEqual n c = false := by
  have hfirst : deliveredAt c (firstSector n c.e + 0) ≠ natAt c.data 0 := by
    rw [deliveredAt_zeroCard hgot, hdata]; exact zero_ne_one
  rw [comparesEqual, List.all_eq_false]
  exact ⟨0, List.mem_range.mpr (sectorCount_pos n c.e), by simpa using hfirst⟩

/-- A command that ends where its buffers have gone back, with the queue, CID and slot it had before. -/
theorem ended_after_freeAllOf {s u : State} {slot : Nat} {c x : Cmd} (who : Requester) (st : Nat × Nat)
    (hwaiting : u.nv.waiting = s.nv.waiting) (hx : cmdAt u slot = some x)
    (hentry : entryOf slot x st 0 = entryOf slot c st 0) :
    Ended slot c st 0 s (finish slot st 0 (freeAllOf who u)) := by
  obtain ⟨hnew, hgone⟩ := finish_ended st 0 ((cmdAt_freeAllOf who slot u).trans hx)
  rw [freeAllOf_nv, hwaiting, hentry] at hnew
  exact ⟨hnew, hgone⟩

theorem finish_freeAllOf_rest (slot : Nat) (st : Nat × Nat) (dw0 : Nat) (who : Requester) (s : State) :
    finish slot st dw0 (freeAllOf who s) = { s with
      nv := (finish slot st dw0 (freeAllOf who s)).nv, pools := (finish slot st dw0 (freeAllOf who s)).pools } := by
  obtain ⟨p, hp⟩ := freeAllOf_rest who s
  rw [hp, finish_rest]

section
variable {s : State} {slot i sh k : Nat} {c : Cmd} {n : Namespace} (hc : cmdAt s slot = some c)
  (hns : nsAt s c.e.nsid = some n) (hlocal : n.spanned = none)
  (hcards : cardsOf (firstSector n c.e) (sectorCount n c.e) = [i]) (hplace : cardPlace n i = some (sh, k))
  (hlook : lookup s sh k = .zeros) (hgot : c.got = []) (hfails : c.fails = [])
include hc hns hlocal hcards hplace hlook hgot hfails

/-- The state once the zeros of the one card are delivered, and its command: nothing wanted, zeros here. -/
theorem readCards_delivers_zeros (data : List Nat) : ∃ u x,
    readCards slot c n data s = finishReads slot u ∧ cmdAt u slot = some x ∧ nsAt u x.e.nsid = some n ∧
      x = { c with phase := .running, want := [], data := data, got := [(i, zeroCard)] } ∧
      u.nv.waiting = s.nv.waiting ∧ u = { s with nv := u.nv } ∧
      u.nv.readOut = (if c.e.opcode = 0x02 then s.nv.readOut ++
        [(c.e.cid, i, rangePart (firstSector n c.e) (sectorCount n c.e) i zeroCard, false)] else s.nv.readOut) := by
  have hcmd : cmdAt (modCmd slot (readingCard i data) s) slot = some (readingCard i data c) :=
    cmdAt_modCmd (fun _ => rfl) hc
  obtain ⟨hx, hwaiting, hnss, hout, hrest⟩ :=
    deliverCard_facts (n := n) zeroCard hcmd (show nsAt _ c.e.nsid = some n from hns)
  refine ⟨_, _, readCards_unmapped data hc hns hlocal hcards hplace hlook, hx, ?_, ?_, hwaiting, ?_, hout⟩
  · rw [nsAt, hnss]; exact hns
  · simp [deliveredCard, readingCard, hgot, hfails]
  · rw [hrest]; rfl

/-- A Read of the card sends zeros and succeeds. -/
theorem readCards_sends_zeros (hop : c.e.opcode = 0x02) :
    Ended slot c (0, 0) 0 s (readCards slot c n [] s) ∧
      (readCards slot c n [] s).nv.readOut = s.nv.readOut ++
        [(c.e.cid, i, rangePart (firstSector n c.e) (sectorCount n c.e) i zeroCard, false)] ∧
      readCards slot c n [] s = { s with
        nv := (readCards slot c n [] s).nv, pools := (readCards slot c n [] s).pools } := by
  obtain ⟨u, x, hread, hx, hnsx, rfl, hwaiting, hrest, hout⟩ :=
    readCards_delivers_zeros hc hns hlocal hcards hplace hlook hgot hfails []
  rw [hread, finishReads_success hx hnsx rfl rfl hfails (.inl hop), finishOk]
  refine ⟨ended_after_freeAllOf _ _ hwaiting hx rfl, ?_, ?_⟩
  · rw [finish_readOut, freeAllOf_nv, hout, if_pos hop]
  · rw [finish_freeAllOf_rest, hrest]

/-- A Compare of the card succeeds with zeros, fails when its first sector differs, and sends nothing. -/
theorem readCards_compares_zeros (hop : c.e.opcode = 0x05) (data : List Nat) (st : Nat × Nat)
    (hst : data = List.replicate (sectorCount n c.e) 0 ∧ st = scSuccess ∨
      (∃ rest, data = 1 :: rest) ∧ st = scCompare) :
    Ended slot c st 0 s (readCards slot c n data s) ∧
      (readCards slot c n data s).nv.readOut = s.nv.readOut := by
  obtain ⟨u, x, hread, hx, hnsx, rfl, hwaiting, -, hout⟩ :=
    readCards_delivers_zeros hc hns hlocal hcards hplace hlook hgot hfails data
  have hend : finishReads slot u = finish slot st 0 (freeAllOf (.slot slot) u) := by
    rcases hst with ⟨rfl, rfl⟩ | ⟨⟨rest, rfl⟩, rfl⟩
    · exact finishReads_success hx hnsx rfl rfl hfails (.inr ⟨hop, comparesEqual_zeros rfl rfl⟩)
    · exact finishReads_differs hx hnsx rfl rfl hfails hop (comparesEqual_one_first rfl rfl)
  rw [hread, hend]
  refine ⟨ended_after_freeAllOf _ _ hwaiting hx rfl, ?_⟩
  rw [finish_readOut, freeAllOf_nv, hout, if_neg (by rw [hop]; decide)]

end

/-- Settles O27: each data command is `withRange` once it is ready; a denied, long or late one ends there, and a card
that maps nothing is delivered as zeros. -/
theorem dataCommandsReadAndCheck : Obligations.DataCommandsReadAndCheck := by
  refine ⟨?unmapped, ?pastEnd, ?tooLong, ?starts⟩
  case unmapped =>
    intro s slot i sh k c n hready hns hshort hrange hlocal hcards hplace hlook haccess hgot hfails
    have hc := hready.1
    have hstart {f : Namespace → State → State} : withRange slot false true c f s = f n s :=
      withRange_starts hns hshort hrange (hcards ▸ haccess)
    refine ⟨fun hop => ⟨_, (exec_read_ready hready hop).trans (congrArg _ hstart), ?_⟩, fun hop =>
      ⟨⟨_, (exec_compare_ready hready hop _).trans (congrArg _ hstart), ?_⟩,
        ⟨_, (exec_compare_ready hready hop _).trans (congrArg _ hstart), ?_⟩⟩⟩
    · exact readCards_sends_zeros hc hns hlocal hcards hplace hlook hgot hfails hop
    · exact readCards_compares_zeros hc hns hlocal hcards hplace hlook hgot hfails hop _ _ (.inl ⟨rfl, rfl⟩)
    · exact readCards_compares_zeros hc hns hlocal hcards hplace hlook hgot hfails hop _ _ (.inr ⟨⟨_, rfl⟩, rfl⟩)
  case pastEnd =>
    intro s slot c n data hready hns hshort hpast
    refine ⟨fun hop => ?_, fun hop => ?_, fun hop => ?_, fun hop => ?_⟩
    · exact ended_of_next hready.1 (exec_write_ready hready hop) (withRange_pastEnd hns hshort hpast)
    · exact ended_of_next hready.1 (exec_read_ready hready hop) (withRange_pastEnd hns hshort hpast)
    · exact ended_of_next hready.1 (exec_compare_ready hready hop data) (withRange_pastEnd hns hshort hpast)
    · exact ended_of_next hready.1 (exec_writeZeroes_ready hready hop) (withRange_pastEnd hns hshort hpast)
  case tooLong =>
    intro s slot c n data hready hns hlong
    refine ⟨fun hop => ?_, fun hop => ?_, fun hop => ?_⟩
    · exact ended_of_next hready.1 (exec_write_ready hready hop) (withRange_tooLong hns hlong)
    · exact ended_of_next hready.1 (exec_read_ready hready hop) (withRange_tooLong hns hlong)
    · exact ended_of_next hready.1 (exec_compare_ready hready hop data) (withRange_tooLong hns hlong)
  case starts =>
    intro s slot c n data hready hns hshort hrange
    refine ⟨fun hop haccess => ?_, fun haccess => ⟨fun hop => ?_, fun hop => ?_⟩, fun hop haccess hmoves => ?_,
      fun hop st haccess _ => ?_⟩
    · rw [exec_write_ready hready hop, withRange_starts hns hshort hrange haccess]
    · rw [exec_read_ready hready hop, withRange_starts hns hshort hrange haccess]
    · rw [exec_compare_ready hready hop, withRange_starts hns hshort hrange haccess]
    · rw [exec_writeZeroes_ready hready hop, withRange_starts hns hshort hrange haccess, if_neg]
      rcases hmoves with h | h <;> simp [h]
    · have hdenied := withRange_denied (f := fun n u => readCards slot c n [] u) hns hshort hrange haccess
      obtain ⟨hwaiting, hgone, hout⟩ := finishAt_of_cmdAt st (lbaField c) false 0 hready.1
      exact ⟨_, (exec_read_ready hready hop).trans (congrArg _ hdenied), hout, hgone, hwaiting⟩

end Sys2Proof.Machine
end

section
/-! PROOFS. The Ledger's own events (R45, R46): PAD records, a card that ends its program, and what waited. -/

namespace Sys2Proof.Machine

/-! ## PAD records (R45) -/

theorem pushRec_pad (s : State) : pushRec (plainRec 0xB 0) s = { s with led := (pushRec (plainRec 0xB 0) s).led } ∧
    (pushRec (plainRec 0xB 0) s).led.nextSeq = s.led.nextSeq + 1 ∧
    (pushRec (plainRec 0xB 0) s).led.region = s.led.region ++ [{ plainRec 0xB 0 with seq := s.led.nextSeq }] :=
  ⟨rfl, rfl, rfl⟩

/-- `n` PAD records take the next `n` numbers and places of the region, and change the Ledger alone. -/
theorem padRecs_appends (n : Nat) (s : State) : ∃ pads, padRecs n s = { s with led := (padRecs n s).led } ∧
    (padRecs n s).led.nextSeq = s.led.nextSeq + n ∧ (padRecs n s).led.region = s.led.region ++ pads ∧
    pads.length = n ∧ ∀ r ∈ pads, r.typ = 0xB := by
  induction n generalizing s with
  | zero => exact ⟨[], rfl, rfl, by simp [padRecs], rfl, by simp⟩
  | succ n ih =>
    obtain ⟨hrest, hnext, hregion⟩ := pushRec_pad s
    obtain ⟨pads, hpads, hcount, hplaces, hlen, htyp⟩ := ih (pushRec (plainRec 0xB 0) s)
    refine ⟨{ plainRec 0xB 0 with seq := s.led.nextSeq } :: pads, ?_, ?_, ?_, ?_, ?_⟩
    · rw [padRecs, hpads, hrest]
    · rw [padRecs, hcount, hnext]; omega
    · rw [padRecs, hplaces, hregion, List.append_assoc]; rfl
    · rw [List.length_cons, hlen]
    · exact List.forall_mem_cons.mpr ⟨rfl, htyp⟩

/-! ## A card that ends its program (R46, R48) -/

theorem mem_insertBy {α : Type} (before : α → α → Bool) (a x : α) (l : List α) :
    x ∈ insertBy before a l ↔ x = a ∨ x ∈ l := by
  induction l with
  | nil => simp [insertBy]
  | cons y l ih =>
    unfold insertBy
    split
    · exact List.mem_cons
    · rw [List.mem_cons, ih, List.mem_cons, or_left_comm]

theorem mem_foldl_insertBy {α : Type} (before : α → α → Bool) (x : α) (rs l : List α) :
    x ∈ rs.foldl (fun l r => insertBy before r l) l ↔ x ∈ rs ∨ x ∈ l := by
  induction rs generalizing l with
  | nil => simp
  | cons r rs ih => rw [List.foldl_cons, ih, mem_insertBy, List.mem_cons, or_assoc, or_left_comm]

theorem parityPage_rest (n stream : Nat) (q : Bool) (page : Nat) (s : State) :
    parityPage n stream q page s = { s with wr := (parityPage n stream q page s).wr } := by
  unfold parityPage; split <;> rfl

theorem systemParity_rest (p : Ppa) (s : State) :
    systemParity p s = { s with wr := (systemParity p s).wr } := by
  unfold systemParity
  split
  · rfl
  · dsimp only
    split
    · rw [parityPage_rest, parityPage_rest]
    · rfl

/-- Commands that complete change neither the Ledger nor the map nor the mode. -/
theorem settleReady_keeps (s : State) :
    ((settleReady s).led, (settleReady s).cat, (settleReady s).mode) = (s.led, s.cat, s.mode) :=
  foldl_keeps (fun t : State => (t.led, t.cat, t.mode)) _ (fun t n => by rw [finishCmd_rest]) _ s

/-- Coast closes no Ledger page for those that wait. -/
theorem settleWrites_coast {s : State} (hcoast : s.mode.mode = .coast) : settleWrites s = settleReady s := by
  have hmode : (settleReady s).mode = s.mode := congrArg (fun x => x.2.2) (settleReady_keeps s)
  simp [settleWrites, closeWaiting, serving, hmode, hcoast]

/-- The Ledger once the records of the card of `first` are on flash. -/
def landCard (first : Nat) (l : Ledger) : Ledger :=
  let inCard := fun (r : LedgerRec) => decide (first ≤ r.seq) && decide (r.seq < first + 128)
  { l with
    placed := l.placed.filter fun n => n != first
    region := l.region.filter fun r => ! inCard r
    onFlash := (l.region.filter inCard).foldl
      (fun l r => insertBy (fun a b => decide (a.seq < b.seq)) r l) l.onFlash }

theorem mem_landCard_region (first : Nat) (l : Ledger) (r : LedgerRec) :
    r ∈ (landCard first l).region ↔ r ∈ l.region ∧ (r.seq < first ∨ first + 128 ≤ r.seq) := by
  simp only [landCard, List.mem_filter, Bool.not_and, Bool.or_eq_true, Bool.not_eq_true', decide_eq_false_iff_not,
    Nat.not_le, Nat.not_lt]

theorem notMem_landCard_placed (first : Nat) (l : Ledger) : first ∉ (landCard first l).placed := by
  simp [landCard]

theorem mem_landCard_onFlash {first : Nat} {l : Ledger} {r : LedgerRec} (hr : r ∈ l.region) (hlow : first ≤ r.seq)
    (hhigh : r.seq < first + 128) : r ∈ (landCard first l).onFlash :=
  (mem_foldl_insertBy ..).mpr (.inl (List.mem_filter.mpr ⟨hr, by simp [hlow, hhigh]⟩))

/-- The state with the card of `first` on flash and its records out of the region. -/
def storeLedgerCard (first : Nat) (s : State) : State :=
  let inCard := fun (r : LedgerRec) => decide (first ≤ r.seq) && decide (r.seq < first + 128)
  { s with
    wr := { s.wr with
      flash := mapSet (ledgerCard s first).toNat
        (systemCard (ledgerCard s first) (ledgerData (s.led.region.filter inCard))) s.wr.flash }
    led := landCard first s.led }

/-- The programmed sequence follows the region, then the durable sequence and the published passes follow it. -/
def publishProgrammed (first : Nat) (s : State) : State :=
  countPublications first (publishDurable
    { s with led := { s.led with progSeq := max s.led.progSeq (programmedSeq s) } })

/-- What a programmed card does, in order. -/
theorem cardProgrammed_eq (first : Nat) (s : State) : cardProgrammed first s =
    settleWrites (publishProgrammed first (systemParity (ledgerCard s first) (storeLedgerCard first s))) := rfl

/-- Publishing moves the programmed and the durable sequence of the Ledger, neither of them back. -/
theorem publishProgrammed_led (first : Nat) (s : State) : ∃ prog dur, s.led.progSeq ≤ prog ∧ s.led.durable ≤ dur ∧
    (publishProgrammed first s).led = { s.led with progSeq := prog, durable := dur } :=
  ⟨max s.led.progSeq (programmedSeq s), (publishProgrammed first s).led.durable, le_max_left .., le_max_left .., rfl⟩

/-- In Coast the Ledger and the map are then as they stay: the completions touch neither. -/
theorem cardProgrammed_coast {s : State} (first : Nat) (hcoast : s.mode.mode = .coast) :
    (cardProgrammed first s).cat = s.cat ∧ ∃ prog dur, s.led.progSeq ≤ prog ∧ s.led.durable ≤ dur ∧
      (cardProgrammed first s).led = { landCard first s.led with progSeq := prog, durable := dur } := by
  have hpar := systemParity_rest (ledgerCard s first) (storeLedgerCard first s)
  generalize hu : systemParity (ledgerCard s first) (storeLedgerCard first s) = u at hpar
  have hmode : (publishProgrammed first u).mode = s.mode := (congrArg State.mode hpar :)
  have hcat : (publishProgrammed first u).cat = s.cat := (congrArg State.cat hpar :)
  have hled : u.led = landCard first s.led := congrArg State.led hpar
  have hkeep := settleReady_keeps (publishProgrammed first u)
  simp only [Prod.mk.injEq] at hkeep
  obtain ⟨hkeepLed, hkeepCat, -⟩ := hkeep
  rw [cardProgrammed_eq, hu, settleWrites_coast (hmode ▸ hcoast), hkeepLed, hkeepCat, hcat]
  obtain ⟨prog, dur, hprog, hdur, hpub⟩ := publishProgrammed_led first u
  rw [hled] at hprog hdur hpub
  exact ⟨rfl, prog, dur, hprog, hdur, hpub⟩

/-! ## The events -/

theorem exec_ledgerCardProgrammed {s : State} {first : Nat} (hawake : awake s = true) (hplaced : first ∈ s.led.placed) :
    exec (.ledgerCardProgrammed first) s = .next (if s.mode.mode = .coast then cardProgrammed first s
      else resumeAll (cardProgrammed first s)) := by
  change execLedgerCardProgrammed first s = _
  simp [execLedgerCardProgrammed, hawake, hplaced]

theorem exec_ledgerIdleClose {s : State} (hserve : serving s = true) (hroom : regionRoom s (512 - openRecords s) = true) :
    exec .ledgerIdleClose s = .next (closeCard s) := by
  change execLedgerIdleClose s = _
  simp [execLedgerIdleClose, mapRuns, hserve, hroom]

/-- Settles O30: outside the completions, which touch neither Ledger nor map in Coast, each event is a filter of the
region, a run of PAD records, or the admission of what stalled. -/
theorem ledgerCardsAndDurability : Obligations.LedgerCardsAndDurability := by
  refine ⟨?inCoast, ?outside, ?notPlaced, ?close, ?nothingOpen, ?noRoom, ?space, ?noneStalled, ?room, ?noneWaits⟩
  case inCoast =>
    intro s first hcoast hplaced
    have hawake : awake s = true := by simp [awake, hcoast]
    obtain ⟨hcat, prog, dur, hprog, hdur, hled⟩ := cardProgrammed_coast first hcoast
    refine ⟨cardProgrammed first s, ?_, ?_⟩
    · rw [exec_ledgerCardProgrammed hawake hplaced, if_pos hcoast]
    · rw [hled]
      exact ⟨mem_landCard_region first s.led, notMem_landCard_placed first s.led,
        fun r hr hlow hhigh => mem_landCard_onFlash hr hlow hhigh, hprog, hdur, rfl, hcat⟩
  case outside =>
    intro s first hawake hcoast hplaced
    rw [exec_ledgerCardProgrammed hawake hplaced, if_neg hcoast]
  case notPlaced =>
    intro s first hplaced
    change execLedgerCardProgrammed first s = _
    simp [execLedgerCardProgrammed, hplaced]
  case close =>
    intro s hserve hopen hroom
    obtain ⟨pads, hrest, hnext, hregion, hlen, htyp⟩ := padRecs_appends (512 - openRecords s) s
    refine ⟨_, pads, exec_ledgerIdleClose hserve hroom, ?_⟩
    rw [closeCard, if_neg hopen]
    exact ⟨hrest, hnext, hregion, hlen, htyp⟩
  case nothingOpen =>
    intro s _ hopen
    change execLedgerIdleClose s = _
    simp [execLedgerIdleClose, closeCard, hopen]
  case noRoom =>
    intro s hroom
    change execLedgerIdleClose s = _
    simp [execLedgerIdleClose, hroom]
  case space =>
    intro s hserve hstalled
    change execLedgerSpaceFreed s = _
    simp [execLedgerSpaceFreed, mapRuns, hserve, hstalled]
  case noneStalled =>
    intro s hstalled
    change execLedgerSpaceFreed s = _
    simp [execLedgerSpaceFreed, hstalled]
  case room =>
    intro s hserve hstalled
    change execPendingUpdateRoom s = _
    simp [execPendingUpdateRoom, mapRuns, hserve, hstalled]
  case noneWaits =>
    intro s hstalled
    change execPendingUpdateRoom s = _
    simp [execPendingUpdateRoom, hstalled]

end Sys2Proof.Machine
end

section
/-! PROOFS. Loads, releases and modes of the map (R28, R38, R56, R105, R188): a shelf that is unmapped, and the mode
changes at the end of Warming and at the entry to Preserve. -/

namespace Sys2Proof.Machine

/-! ## The release of a shelf (R28, R95, R96) -/

theorem gainValid_rest (s : State) (p : Ppa) : gainValid s p = { s with blk := (gainValid s p).blk } := by
  unfold gainValid; split <;> rfl

theorem loseValid_rest (seq : Nat) (s : State) (p : Ppa) :
    loseValid seq s p = { s with blk := (loseValid seq s p).blk } := by
  unfold loseValid; split <;> rfl

/-- A fold of steps that change the block table alone changes it alone. -/
theorem foldl_blk_rest {α : Type} (f : State → α → State) (h : ∀ s a, f s a = { s with blk := (f s a).blk })
    (l : List α) (s : State) : l.foldl f s = { s with blk := (l.foldl f s).blk } := by
  induction l generalizing s with
  | nil => rfl
  | cons a l ih => rw [List.foldl_cons, ih, h]

theorem shiftValid_rest (seq : Nat) (before after : List Ppa) (s : State) :
    shiftValid seq before after s = { s with blk := (shiftValid seq before after s).blk } := by
  unfold shiftValid
  dsimp only
  rw [foldl_blk_rest gainValid gainValid_rest, foldl_blk_rest (loseValid seq) (loseValid_rest seq)]

theorem supersede_rest (p : Ppa) (s : State) :
    supersede p s = { s with inv := { s.inv with superseded := (supersede p s).inv.superseded } } := by
  unfold supersede; split <;> rfl

/-- A shelf without a segment needs no slot. -/
theorem seatSegment_of_none {shelf : Nat} {s : State} (h : (s.cat.segs.find? fun g => g.shelf = shelf) = none) :
    seatSegment shelf s = s := by
  rw [seatSegment, h]

theorem find?_filter_shelf_ne (shelf : Nat) (l : List Segment) :
    ((l.filter fun g => g.shelf != shelf).find? fun g => g.shelf = shelf) = none := by
  simp [List.find?_eq_none]

/-- The map with the entry and the segment of a shelf gone. -/
def withoutShelf (shelf : Nat) (s : State) : State :=
  { s with cat := { s.cat with
      shelves := mapPut freeShelf shelf freeShelf s.cat.shelves
      segs := s.cat.segs.filter fun g => g.shelf != shelf } }

/-- An unmapped shelf takes no slot: its entry and segment go, its page is dirty, and the card of its segment, if it
has one on flash, is superseded. -/
theorem putShelf_unmapped (shelf : Nat) (s : State) : ∃ p, putShelf shelf unmapped s =
    modIndex (pageOfShelf shelf) (fun e => { e with dirty := true }) (supersede p (withoutShelf shelf s)) := by
  have hseat : ∀ p, seatSegment shelf (modIndex (pageOfShelf shelf) (fun e => { e with dirty := true })
      (supersede p (withoutShelf shelf s))) =
      modIndex (pageOfShelf shelf) (fun e => { e with dirty := true }) (supersede p (withoutShelf shelf s)) := by
    intro p
    refine seatSegment_of_none ?_
    rw [supersede_rest]
    exact find?_filter_shelf_ne shelf s.cat.segs
  cases hfind : s.cat.segs.find? fun g => g.shelf = shelf with
  | none =>
    refine ⟨0, ?_⟩
    rw [← hseat, putShelf, hfind]
    rfl
  | some g =>
    cases hflashed : g.flashed with
    | false =>
      refine ⟨0, ?_⟩
      rw [← hseat, putShelf, hfind]
      simp only [hflashed]
      rfl
    | true =>
      refine ⟨g.locator, ?_⟩
      rw [← hseat, putShelf, hfind]
      simp only [hflashed]
      rfl

/-- A released shelf is unmapped: no other shelf entry changes, and of the rest only the block table's counts and the
superseded cards. -/
theorem releaseShelf_unmaps {shelf : Nat} {s : State} (hform : (shelfBase s shelf).e.form = 3) :
    (releaseShelf shelf s).cat.shelves = mapDel shelf s.cat.shelves ∧
    releaseShelf shelf s = { s with
      cat := (releaseShelf shelf s).cat
      blk := (releaseShelf shelf s).blk
      inv := { s.inv with superseded := (releaseShelf shelf s).inv.superseded } } := by
  obtain ⟨p, hput⟩ := putShelf_unmapped shelf s
  obtain ⟨x, hsup⟩ : ∃ x, supersede p (withoutShelf shelf s) =
      { withoutShelf shelf s with inv := { s.inv with superseded := x } } := ⟨_, supersede_rest ..⟩
  obtain ⟨b, hshift⟩ : ∃ b, releaseShelf shelf s = { putShelf shelf unmapped s with blk := b } := by
    rw [releaseShelf]
    simp only [if_pos hform]
    exact ⟨_, shiftValid_rest ..⟩
  rw [hshift, hput, hsup]
  exact ⟨show mapPut freeShelf shelf freeShelf s.cat.shelves = _ from if_pos rfl, rfl⟩

/-! ## Mode changes (R105, R187, R188) -/

/-- A mode change sets the mode; of the rest of the mode state Warming and the Preserve latch stay, and neither map,
write path nor controller is touched. -/
theorem setMode_facts (m : Mode) (s : State) : (setMode m s).mode.mode = m ∧ (setMode m s).mode.warm = s.mode.warm ∧
    (setMode m s).cat = s.cat ∧ (setMode m s).wr = s.wr ∧ (setMode m s).nv = s.nv := by
  unfold setMode
  split
  · exact ⟨‹_›, rfl, rfl, rfl, rfl⟩
  · dsimp only
    rw [record_rest]
    exact ⟨rfl, rfl, rfl, rfl, rfl⟩

theorem askErase_rest (n : Nat) (s : State) :
    askErase n s = { s with cdx := { s.cdx with requests := (askErase n s).cdx.requests } } := by
  unfold askErase; split <;> rfl

theorem rtRotate_keeps (s : State) : ((rtRotate s).cat, (rtRotate s).wr) = (s.cat, s.wr) := by
  rw [rtRotate, askErase_rest]
  exact foldl_keeps (fun t : State => (t.cat, t.wr)) (fun t r => rtAppend r.key r.binding r.value t)
    (fun _ _ => rfl) (rtAll s) { s with fol := { s.fol with rtActive := 1 - s.fol.rtActive } }

/-- A stored runtime setting leaves map and write path as they are. -/
theorem storeRt_keeps (key value : Nat) (s : State) :
    ((storeRt key value s).cat, (storeRt key value s).wr) = (s.cat, s.wr) := by
  unfold storeRt
  split
  · rfl
  · split
    · simpa only [rtAppend] using rtRotate_keeps s
    · rfl

/-- Writes that are refused end; the mode, the map and the write path stay. -/
theorem refuse_keeps (l : List Nat) (s : State) :
    let t := l.foldl (fun t n => finishErr n scProtected (dropBuffers n t)) s
    (t.mode, t.cat, t.wr) = (s.mode, s.cat, s.wr) := by
  refine foldl_keeps (fun t : State => (t.mode, t.cat, t.wr)) _ (fun t n => ?_) l s
  obtain ⟨p, hp⟩ := dropBuffers_rest n t
  rw [hp, finishErr, finish_rest]

/-- The state as Preserve is entered, before the writes without buffers are refused. -/
def latchPreserve (s : State) : State :=
  let s1 := record 0x0106 [(8, s.blk.headroom), (4, preserveFloor s)] s
  let s2 := setMode .preserve (storeRt latchKey 1 s1)
  { s2 with
    mode := { s2.mode with preservePend := true }
    wr := { s2.wr with folding := false, idleFold := false, foldSource := none }
    blk := { s2.blk with rotating := [] } }

/-- The writes that hold no transit buffers as Preserve is entered. -/
def refusedWrites (s : State) : List Nat :=
  (s.nv.cmds.filter fun c => c.qid != 0 && writesCards c.e.opcode
    && (c.phase = .fetched || c.phase = .waiting || c.phase = .stalled) && ! asksNone s c).map fun c => c.slot

theorem enterPreserve_eq (s : State) : enterPreserve s = inSlotOrder (fun u => (refusedWrites (latchPreserve s)).foldl
    (fun t n => finishErr n scProtected (dropBuffers n t)) u) (latchPreserve s) := rfl

theorem latchPreserve_facts (s : State) : (latchPreserve s).mode.mode = .preserve ∧
    (latchPreserve s).wr.flash = s.wr.flash ∧ (latchPreserve s).cat = s.cat := by
  obtain ⟨-, -, -, hwr, hcat, -⟩ := record_keep 0x0106 [(8, s.blk.headroom), (4, preserveFloor s)] s
  have hstore := storeRt_keeps latchKey 1 (record 0x0106 [(8, s.blk.headroom), (4, preserveFloor s)] s)
  simp only [Prod.mk.injEq] at hstore
  obtain ⟨hstoreCat, hstoreWr⟩ := hstore
  obtain ⟨hmode, -, hsetCat, hsetWr, -⟩ := setMode_facts .preserve
    (storeRt latchKey 1 (record 0x0106 [(8, s.blk.headroom), (4, preserveFloor s)] s))
  simp only [latchPreserve]
  rw [hsetWr, hstoreWr, hwr, hsetCat, hstoreCat, hcat]
  exact ⟨hmode, rfl, rfl⟩

/-- Preserve is entered with its latch set and the fold stopped; flash and map are as they were. -/
theorem enterPreserve_facts (s : State) : (enterPreserve s).mode.mode = .preserve ∧
    (enterPreserve s).mode.preservePend = true ∧ (enterPreserve s).wr.folding = false ∧
    (enterPreserve s).wr.flash = s.wr.flash ∧ (enterPreserve s).cat = s.cat := by
  obtain ⟨hmode, hflash, hcat⟩ := latchPreserve_facts s
  have hkeep := refuse_keeps (refusedWrites (latchPreserve s)) (latchPreserve s)
  simp only [Prod.mk.injEq] at hkeep
  obtain ⟨hkeepMode, hkeepCat, hkeepWr⟩ := hkeep
  simp only [enterPreserve_eq, inSlotOrder, hkeepMode, hkeepCat, hkeepWr]
  exact ⟨hmode, rfl, rfl, hflash, hcat⟩

/-! ## The events -/

theorem exec_mapMissReadDone (page : Bool) (n : Nat) (s : State) : exec (.mapMissReadDone page n) s =
    .next (if loadHere s page n then settleWrites (retryLookups (takeLoad page n s)) else s) := rfl

theorem exec_shelfPageLoad (page : Nat) (s : State) : exec (.shelfPageLoad page) s =
    .next (if mapRuns s && s.mode.warm && nextPage s = some page then startLoadAt true true page s else s) := rfl

theorem exec_shelfRelease_loads {s : State} {shelf : Nat} (hserve : serving s = true)
    (hmiss : pageResident s shelf = false ∨ segResident s shelf = false ∧ (shelfBase s shelf).e.form = 3) :
    exec (.shelfRelease shelf) s = .next (loadFor shelf s) := by
  change execShelfRelease shelf s = _
  rcases hmiss with hpage | ⟨hseg, hform⟩
  · simp [execShelfRelease, mapRuns, hserve, hpage]
  · simp [execShelfRelease, mapRuns, hserve, hseg, hform]

theorem exec_shelfRelease_resident {s : State} {shelf : Nat} (hserve : serving s = true)
    (hpage : pageResident s shelf = true) (hseg : segResident s shelf = true) :
    exec (.shelfRelease shelf) s = .next (releaseShelf shelf s) := by
  change execShelfRelease shelf s = _
  simp [execShelfRelease, mapRuns, hserve, hpage, hseg]

/-- Settles O31: each event is one case of its meaning; a release deletes one entry of the map, and the two mode changes
leave map and flash alone. -/
theorem mapLoadsAndModes : Obligations.MapLoadsAndModes := by
  refine ⟨?loaded, ?notLoaded, ?nextPage, ?notWarm, ?pageMissing, ?segmentMissing, ?released, ?warmed, ?stillWarming,
    ?preserve, ?aboveFloor⟩
  case loaded => intro s page n hhere; rw [exec_mapMissReadDone, if_pos hhere]
  case notLoaded => intro s page n hhere; simp [exec_mapMissReadDone, hhere]
  case nextPage => intro s page hserve hwarm hnext; simp [exec_shelfPageLoad, mapRuns, hserve, hwarm, hnext]
  case notWarm => intro s page hwarm; simp [exec_shelfPageLoad, hwarm]
  case pageMissing =>
    intro s shelf hserve hpage
    rw [exec_shelfRelease_loads hserve (.inl hpage)]
    simp [loadFor, hpage]
  case segmentMissing =>
    intro s shelf hserve hpage hseg hform
    rw [exec_shelfRelease_loads hserve (.inr ⟨hseg, hform⟩)]
    simp [loadFor, hpage, hseg]
  case released =>
    intro s shelf hserve hpage hseg hform
    obtain ⟨hshelves, hrest⟩ := releaseShelf_unmaps hform
    refine ⟨_, exec_shelfRelease_resident hserve hpage hseg, ?_, hrest, fun n hn => ?_⟩
    · simp [shelfBase, mapAt, hshelves, mapGet_mapDel, freeShelf]
    · rw [hshelves, mapGet_mapDel, if_neg hn]
  case warmed =>
    intro s hmode _ hpages hpend
    have hserve : serving s = true := by simp [serving, hmode]
    have hexec : exec .warmingEnd s = .next (afterWarming { s with mode := { s.mode with warm := false } }) := by
      change execWarmingEnd s = _
      simp [execWarmingEnd, mapRuns, hserve, hpages, hmode]
    have hafter : afterWarming { s with mode := { s.mode with warm := false } } =
        setMode (if s.mode.degraded then .degraded else .service) { s with mode := { s.mode with warm := false } } := by
      cases hdeg : s.mode.degraded <;> simp [afterWarming, hpend, hdeg]
    obtain ⟨hnew, hwarm, hcat, -, hnv⟩ := setMode_facts (if s.mode.degraded then .degraded else .service)
      { s with mode := { s.mode with warm := false } }
    exact ⟨_, hexec.trans (congrArg _ hafter), hwarm, hnew, hcat, hnv⟩
  case stillWarming =>
    intro s _ _ hpages
    change execWarmingEnd s = _
    simp [execWarmingEnd, hpages]
  case preserve =>
    intro s hmode hbelow
    have hexec : exec .preserveEntry s = .next (enterPreserve s) := by
      change execPreserveEntry s = _
      simp [execPreserveEntry, atBoundary, hmode, hbelow]
    exact ⟨_, hexec, enterPreserve_facts s⟩
  case aboveFloor =>
    intro s hmode hfloor
    change execPreserveEntry s = _
    simp [execPreserveEntry, atBoundary, hmode, Nat.not_lt.mpr hfloor]

end Sys2Proof.Machine
end

section
/-! PROOFS. Passes and spine records (R47 to R53): what a completed pass and a record that is programmed or read back
leave of the Inventory. -/

namespace Sys2Proof.Machine

/-! ## Spine records (R51, R52) -/

/-- With room left in the active sector the next record goes there. -/
theorem spinePlace_active {s : State} (hroom : (spineOf s s.inv.activeSpine).length < 1024) :
    spinePlace s = some s.inv.activeSpine := if_pos hroom

/-- The record `r` is programmed into sector `n`, the erase of the other sector left aside. -/
def recordSpine (n : Nat) (r : SpineRec) (s : State) : State :=
  { s with inv := { s.inv with
    otherErased := s.inv.otherErased && n = s.inv.activeSpine
    activeSpine := n, nextSpine := s.inv.nextSpine + 1, writing := some r, spineMs := s.clock.opMs
    spine0 := if n = 0 then s.inv.spine0 ++ [r] else s.inv.spine0
    spine1 := if n = 0 then s.inv.spine1 else s.inv.spine1 ++ [r] } }

/-- The erase of the other sector is asked for, or not. -/
theorem putSpine_cases (n : Nat) (r : SpineRec) (s : State) :
    putSpine n r s = askErase (129 - n) { recordSpine n r s with
      inv := { (recordSpine n r s).inv with otherErased := false, erasingOther := true } } ∨
    putSpine n r s = recordSpine n r s := ite_eq_or_eq ..

/-- A programmed record is the one being read back and takes a number; the passes stay. -/
theorem putSpine_inv (n : Nat) (r : SpineRec) (s : State) : (putSpine n r s).inv.running = s.inv.running ∧
    (putSpine n r s).inv.completed = s.inv.completed ∧ (putSpine n r s).inv.writing = some r ∧
    (putSpine n r s).inv.nextSpine = s.inv.nextSpine + 1 := by
  rcases putSpine_cases n r s with h | h
  · rw [h, askErase_rest]
    exact ⟨rfl, rfl, rfl, rfl⟩
  · rw [h]
    exact ⟨rfl, rfl, rfl, rfl⟩

/-! ## Passes (R47, R48) -/

/-- A pass that completes: its buffer goes back and the checkpoint interval is taken anew. -/
def completePass (m : MapSnap) (s : State) : State :=
  freeAllOf passReq { s with inv := { s.inv with running := none, completed := some m, interval := fld s 0x600 } }

theorem completePass_rest (m : MapSnap) (s : State) : ∃ p, completePass m s = { s with
    pools := p, inv := { s.inv with running := none, completed := some m, interval := fld s 0x600 } } :=
  freeAllOf_rest _ _

section
variable {s : State} {m : MapSnap} (hserve : serving s = true) (hrun : s.inv.running = some m)
  (hwritten : passWritten s m = true)
include hserve hrun hwritten

/-- A written pass that is no checkpoint completes. -/
theorem exec_inventoryPassComplete_pass (hdue : checkpointDue s = false) :
    exec .inventoryPassComplete s = .next (completePass m s) := by
  change execInventoryPassComplete s = _
  simp [execInventoryPassComplete, mapRuns, hserve, hrun, hwritten, hdue, completePass]

/-- As a checkpoint, with no record being written, it ends with a spine record of KIND 0 and saves the counts. -/
theorem exec_inventoryPassComplete_checkpoint {t : State} (hdue : checkpointDue s = true)
    (hfree : s.inv.writing = none) (hspine : appendSpine 0 m (completePass m s) = some t) :
    exec .inventoryPassComplete s = .next (saveLogs t) := by
  change execInventoryPassComplete s = _
  have hidle : s.inv.writing.isSome = false := by rw [hfree]; rfl
  rw [completePass] at hspine
  simp [execInventoryPassComplete, mapRuns, hserve, hrun, hwritten, hdue, hidle, hspine]

end

/-- A spine record of a completed pass: the pass, the record and its number. -/
theorem appendSpine_completePass {s : State} (m : MapSnap) (hroom : (spineOf s s.inv.activeSpine).length < 896) :
    ∃ t r, appendSpine 0 m (completePass m s) = some t ∧ t.inv.running = none ∧ t.inv.completed = some m ∧
      t.inv.writing = some r ∧ r.kind = 0 ∧ r.redoSeq = m.redo ∧ t.inv.nextSpine = s.inv.nextSpine + 1 := by
  obtain ⟨p, hp⟩ := completePass_rest m s
  generalize completePass m s = u at hp
  subst hp
  have hplace := spinePlace_active (s := { s with
    pools := p, inv := { s.inv with running := none, completed := some m, interval := fld s 0x600 } })
    (hroom.trans (by decide))
  rw [appendSpine, hplace]
  obtain ⟨hrunning, hcompleted, hwriting, hnumber⟩ := putSpine_inv s.inv.activeSpine _ _
  exact ⟨_, _, rfl, hrunning, hcompleted, hwriting, rfl, rfl, hnumber⟩

/-- Settles O32: a pass starts and completes by the branches of its two commands, and what a spine record does to the
Inventory is `putSpine` and `spineRead`. -/
theorem passesAndSpineRecords : Obligations.PassesAndSpineRecords := by
  refine ⟨?interval, ?runs, ?asks, ?oneAtATime, ?completes, ?checkpoint, ?unwritten, ?readBack, ?noneWritten⟩
  case interval =>
    intro s hserve
    have hexec : exec .checkpointIntervalExpiry s = .next (leaveIdle { s with inv := { s.inv with
        ckptDue := s.inv.ckptDue || intervalOver s s.inv.spineMs
        passDue := s.inv.passDue || intervalOver s s.inv.passMs } }) := congrArg _ (if_pos hserve)
    exact ⟨_, hexec, rfl, rfl, rfl, rfl⟩
  case runs =>
    intro s t u hserve hrun hdue hu hheld hpass
    change execInventoryPassStart s = _
    simp [execInventoryPassStart, passStarts, mapRuns, hserve, hrun, hdue, ← hu, hheld, hpass]
  case asks =>
    intro s u hserve hrun hdue hu hheld
    change execInventoryPassStart s = _
    simp [execInventoryPassStart, passStarts, mapRuns, hserve, hrun, hdue, ← hu, hheld]
  case oneAtATime =>
    intro s m hrun
    change execInventoryPassStart s = _
    simp [execInventoryPassStart, passStarts, hrun]
  case completes =>
    intro s m hserve hrun hwritten hdue
    obtain ⟨p, hp⟩ := completePass_rest m s
    exact ⟨_, exec_inventoryPassComplete_pass hserve hrun hwritten hdue, by rw [hp]⟩
  case checkpoint =>
    intro s m hserve hrun hwritten hdue hfree hroom
    obtain ⟨t, r, hspine, hfacts⟩ := appendSpine_completePass m hroom
    exact ⟨_, r, exec_inventoryPassComplete_checkpoint hserve hrun hwritten hdue hfree hspine, hfacts⟩
  case unwritten =>
    intro s m hrun hwritten
    change execInventoryPassComplete s = _
    simp [execInventoryPassComplete, hrun, hwritten]
  case readBack =>
    intro s r hwriting hcoast
    refine ⟨?_, rfl, rfl, rfl, fun n hplace => ?_⟩
    · change execSpineRecordReadback true s = _
      simp [execSpineRecordReadback, hwriting, hcoast]
    · change execSpineRecordReadback false s = _
      have hnumber : (tearSpine r s).inv.nextSpine = s.inv.nextSpine := rfl
      simp [execSpineRecordReadback, hwriting, hcoast, hplace, hnumber]
  case noneWritten =>
    intro s ok hwriting
    change execSpineRecordReadback ok s = _
    simp [execSpineRecordReadback, hwriting]

end Sys2Proof.Machine
end

section
/-! PROOFS. A Flush during a drain (R69, R70): only one that was fetched while the drain ran waits for its end. -/

namespace Sys2Proof.Machine

theorem exec_flush_ready {slot : Nat} {c : Cmd} {s : State} (hready : IoReady slot c s) (hop : c.e.opcode = 0x00) :
    exec (.flush slot) s = .next (if c.inDrain && s.coast.draining then
      modCmd slot (fun x => { x with phase := .running }) s else finishOk slot 0 s) :=
  congrArg _ (startIo_ready hready (decide_eq_true hop) _)

/-- A Flush of NSID 1 on queue 1, as slot 64 holds it when the part after reset has fetched it. -/
def flushCmd : Cmd :=
  newCmd 64 1 1 { cid := 7, opcode := 0x00, nsid := 1, dw10 := 0, dw11 := 0, dw12 := 0, dw13 := 0, dw14 := 0
                  dw15 := 0 } State.reset

/-- The part in Service with the Flush fetched before the drain that now runs. -/
def drainAfterFetch : State :=
  { State.reset with
    mode := { State.reset.mode with mode := .service }
    nv := { State.reset.nv with cmds := [flushCmd] }
    coast := { State.reset.coast with draining := true } }

theorem drainAfterFetch_ready : IoReady 64 flushCmd drainAfterFetch :=
  ⟨by simp [cmdAt, drainAfterFetch, flushCmd, newCmd], by simp [flushCmd, newCmd], rfl, rfl⟩

/-- Refutes O26: the second clause has every Flush wait in a drain, but the model, as R69, lets only one wait that was
fetched while the drain ran. A Flush fetched before it completes at once, and its slot is free. -/
theorem not_flushAndOrderedWrite : ¬ Obligations.FlushAndOrderedWrite := by
  rintro ⟨-, hwaits, -⟩
  obtain ⟨t, hexec, hcmd, -⟩ := hwaits drainAfterFetch 64 flushCmd drainAfterFetch_ready rfl rfl
  have hends : exec (.flush 64) drainAfterFetch = .next (finishOk 64 0 drainAfterFetch) :=
    exec_flush_ready drainAfterFetch_ready rfl
  obtain rfl : finishOk 64 0 drainAfterFetch = t := by injection hends.symm.trans hexec
  have hfree : cmdAt (finishOk 64 0 drainAfterFetch) 64 = none :=
    (finish_ended scSuccess 0 drainAfterFetch_ready.1).2
  simp [hfree] at hcmd

end Sys2Proof.Machine
end

section
/-! PROOFS. The fold engine's commands (R75, R76, R78, R106): where it starts, and what one event of it does. -/

namespace Sys2Proof.Machine

section
variable {s : State} (hserve : serving s = true) (hidle : s.wr.folding = false) (hmode : s.mode.mode ≠ .preserve)
include hserve hidle hmode

theorem foldWanted_at_startMark (hmark : fillAtLeast s (profileParam s 1) = true) :
    foldWanted s = startFold false s := by
  simp [foldWanted, moversRun, hserve, hidle, hmode, hmark]

theorem foldWanted_between_marks (hbelow : fillAtLeast s (profileParam s 1) = false)
    (habove : fillAtMost s (profileParam s 2) = false) (hseen : s.wr.idleSeen = true) :
    foldWanted s = startFold true s := by
  simp [foldWanted, moversRun, hserve, hidle, hmode, hbelow, habove, hseen]

end

theorem foldWanted_of_running_or_preserve {s : State} (h : s.wr.folding = true ∨ s.mode.mode = .preserve) :
    foldWanted s = s := by
  rcases h with h | h <;> simp [foldWanted, h]

/-- A start of the fold sets the fold's own marks and ends Idle Service. -/
theorem startFold_facts (idle : Bool) (s : State) :
    (startFold idle s).wr = { s.wr with folding := true, idleFold := idle } ∧ (startFold idle s).mode.idle = false ∧
      startFold idle s = { s with
        wr := (startFold idle s).wr, mode := (startFold idle s).mode, dram := (startFold idle s).dram
        link := { s.link with ltrSent := (startFold idle s).link.ltrSent } } :=
  ⟨rfl, rfl, rfl⟩

theorem exec_foldStart (s : State) : exec .foldStart s = .next (foldWanted s) := rfl

theorem exec_idleFoldDelayExpiry {s : State} (hserve : serving s = true) :
    exec .idleFoldDelayExpiry s = .next (foldWanted { s with wr := { s.wr with idleSeen := true } }) :=
  congrArg _ (if_pos hserve)

theorem exec_foldUnit_running {s : State} (fresh : Bool) (picks : List Nat) (hfold : s.wr.folding = true)
    (hreads : moverReads s = true) (hmode : s.mode.mode ≠ .preserve) :
    exec (.foldUnit fresh picks) s = .next (if fillAtMost s (profileParam s 2) then stopFold s
      else foldOne (choices fresh picks s) s) := by
  change execFoldUnit fresh picks s = _
  simp [execFoldUnit, hfold, hreads, hmode]

/-- Settles O33: each command is a branch of `foldWanted` or of the fold unit, and what a start writes is
`startFold_facts`. -/
theorem foldStartsAndStops : Obligations.FoldStartsAndStops := by
  refine ⟨?start, ?noStart, ?idle, ?stops, ?folds, ?noFold, ?row⟩
  case start =>
    intro s hserve hidle hmode hmark
    obtain ⟨hwr, hleft, hrest⟩ := startFold_facts false s
    have hstart := foldWanted_at_startMark hserve hidle hmode hmark
    exact ⟨_, (exec_foldStart s).trans (congrArg _ hstart), hwr, hleft, hrest⟩
  case noStart =>
    intro s h
    rw [exec_foldStart, foldWanted_of_running_or_preserve h]
  case idle =>
    intro s hserve hidle hmode hbelow habove
    have hstart : foldWanted { s with wr := { s.wr with idleSeen := true } } = startFold true _ :=
      foldWanted_between_marks hserve hidle hmode hbelow habove rfl
    obtain ⟨hwr, -, hrest⟩ := startFold_facts true { s with wr := { s.wr with idleSeen := true } }
    exact ⟨_, (exec_idleFoldDelayExpiry hserve).trans (congrArg _ hstart), hwr, hrest⟩
  case stops =>
    intro s fresh picks hfold hreads hmode hstop
    rw [exec_foldUnit_running fresh picks hfold hreads hmode, if_pos hstop]
    rfl
  case folds =>
    intro s fresh picks hfold hreads hmode habove
    rw [exec_foldUnit_running fresh picks hfold hreads hmode, if_neg (ne_true_of_eq_false habove)]
  case noFold =>
    intro s fresh picks hfold
    change execFoldUnit fresh picks s = _
    simp [execFoldUnit, hfold]
  case row =>
    intro s row hserve
    change execFoldRowProgrammed row s = _
    rw [execFoldRowProgrammed, moversRun, if_pos hserve]

end Sys2Proof.Machine
end

section
/-! PROOFS. Rows that are filled and sealed (R63 to R65): what leaves for the dies changes the open rows, the dies'
queues and the count of stacks programs, and nothing else. -/

namespace Sys2Proof.Machine

/-- The state without what the filling of a row writes. -/
def withoutRowWork (s : State) : State :=
  { s with wr := { s.wr with rows := [] }, fl := { s.fl with dies := [] }, blk := { s.blk with credits := [] } }

@[simp] theorem modRow_withoutRowWork (id : Nat) (f : OpenRow → OpenRow) (s : State) :
    withoutRowWork (modRow id f s) = withoutRowWork s := rfl

@[simp] theorem modDie_withoutRowWork (ch tg : Nat) (f : Die → Die) (s : State) :
    withoutRowWork (modDie ch tg f s) = withoutRowWork s := rfl

@[simp] theorem countProgram_withoutRowWork (r : OpenRow) (s : State) :
    withoutRowWork (countProgram r s) = withoutRowWork s := by
  unfold countProgram; split <;> rfl

@[simp] theorem queueUnit_withoutRowWork (r : OpenRow) (u : Nat) (s : State) :
    withoutRowWork (queueUnit r u s) = withoutRowWork s := by
  unfold queueUnit
  split
  · rfl
  · simp

@[simp] theorem queueReady_withoutRowWork (id : Nat) (s : State) :
    withoutRowWork (queueReady id s) = withoutRowWork s := by
  have hdata (r : OpenRow) (l : List Nat) (t : State) :
      withoutRowWork (l.foldl (fun t u => queueUnit r u t) t) = withoutRowWork t :=
    foldl_keeps withoutRowWork _ (fun t u => queueUnit_withoutRowWork r u t) l t
  have hparity (r : OpenRow) (l : List Nat) (t : State) :
      withoutRowWork (l.foldl (fun t b => queueUnit r (b + 65) (queueUnit r (b + 64) t)) t) = withoutRowWork t :=
    foldl_keeps withoutRowWork _ (fun t b => by simp) l t
  unfold queueReady
  split
  · rfl
  · dsimp only
    split
    · exact hdata ..
    · exact (hparity ..).trans (hdata ..)

@[simp] theorem padCells_withoutRowWork (id : Nat) (cells : List Nat) (s : State) :
    withoutRowWork (padCells id cells s) = withoutRowWork s := by
  unfold padCells
  split
  · rfl
  · simp [fillCells]

@[simp] theorem sealRow_withoutRowWork (id : Nat) (s : State) : withoutRowWork (sealRow id s) = withoutRowWork s := by
  unfold sealRow
  split
  · rfl
  · simp

theorem sealRows_withoutRowWork (s : State) : withoutRowWork (sealRows s) = withoutRowWork s :=
  foldl_keeps withoutRowWork _ (fun t id => sealRow_withoutRowWork id t) _ s

/-- States that differ in the work of the rows alone, written out. -/
theorem rest_of_withoutRowWork {s t : State} (h : withoutRowWork t = withoutRowWork s) :
    t = { s with wr := t.wr, fl := t.fl, blk := { s.blk with credits := t.blk.credits } } :=
  congrArg (fun u : State => { u with wr := t.wr, fl := t.fl, blk := { u.blk with credits := t.blk.credits } }) h

theorem rowAt_modRow {id : Nat} {f : OpenRow → OpenRow} (hf : ∀ r, (f r).id = r.id) (s : State) :
    rowAt (modRow id f s) id = (rowAt s id).map f := by
  have hid (r : OpenRow) : decide ((if decide (r.id = id) then f r else r).id = id) = decide (r.id = id) := by
    split <;> simp [hf]
  rw [rowAt, modRow, find?_modWhere _ _ _ _ hid]
  exact Option.map_congr fun r hr => if_pos (List.find?_some (p := fun x : OpenRow => decide (x.id = id)) hr)

/-- A sealed row is marked so. -/
theorem sealRow_sealed {id : Nat} {s : State} {x : OpenRow} (hx : rowAt (sealRow id s) id = some x) :
    x.sealed = true := by
  unfold sealRow at hx
  split at hx
  · simp_all
  · rw [rowAt_modRow, Option.map_eq_some_iff] at hx
    · obtain ⟨y, -, rfl⟩ := hx
      rfl
    · exact fun _ => rfl

end Sys2Proof.Machine
end

section
/-! PROOFS. Sealing and the end of a program (R64, R65, R149). -/

namespace Sys2Proof.Machine

theorem exec_rowIdleSeal {s : State} (row : Nat) (hcoast : s.mode.mode ≠ .coast) :
    exec (.rowIdleSeal row) s = .next (sealRow row s) :=
  congrArg _ (if_neg hcoast)

theorem exec_sealDelayExpiry_waits {s : State} {row page j : Nat} {r : OpenRow} (hrow : rowAt s row = some r)
    (hcoast : s.mode.mode ≠ .coast) (hcarrel : inCarrel s r.entry = true) (hpage : page ≤ 3)
    (hwaits : pageWaits s r page j = true) : exec (.sealDelayExpiry row page j) s =
      .next (padCells row (unitCells true (dataWidth s r.entry) (66 * page + j)) s) := by
  change execSealDelayExpiry row page j s = _
  simp [execSealDelayExpiry, hrow, hcoast, hcarrel, hpage, hwaits]

theorem exec_sealDelayExpiry_stacks {s : State} {row : Nat} {r : OpenRow} (page j : Nat)
    (hrow : rowAt s row = some r) (hstacks : inCarrel s r.entry = false) :
    exec (.sealDelayExpiry row page j) s = .next s := by
  change execSealDelayExpiry row page j s = _
  simp [execSealDelayExpiry, hrow, hstacks]

section
variable {s : State} {ch tg : Nat} {d : Die} (hdie : dieAt s ch tg = some d)
include hdie

theorem exec_pageProgramDone_programming {p : ProgReq} (hop : d.op = some (.program p)) (hreset : d.resetting = false)
    (hcoast : s.mode.mode ≠ .coast) :
    exec (.pageProgramDone ch tg) s = .next (programOk p (modDie ch tg nextPlane s)) := by
  change execPageProgramDone ch tg s = _
  simp [execPageProgramDone, hdie, hop, hreset, hcoast]

theorem exec_programFail_programming {p : ProgReq} (picks : List Nat) (hop : d.op = some (.program p))
    (hreset : d.resetting = false) (hcoast : s.mode.mode ≠ .coast) : exec (.programFail ch tg picks) s =
      .next (shutdownAdvance (resumeAll (failUnit ch tg p picks (modDie ch tg nextPlane s)))) := by
  change execProgramFail ch tg picks s = _
  simp [execProgramFail, hdie, hop, hreset, hcoast]

theorem exec_pageProgramDone_idle (hop : d.op = none) : exec (.pageProgramDone ch tg) s = .next s := by
  change execPageProgramDone ch tg s = _
  simp [execPageProgramDone, hdie, hop]

theorem exec_programFail_idle (picks : List Nat) (hop : d.op = none) :
    exec (.programFail ch tg picks) s = .next s := by
  change execProgramFail ch tg picks s = _
  simp [execProgramFail, hdie, hop]

end

/-- With no plane left to follow, the die is free. -/
theorem nextPlane_op_none {d : Die} (hjoined : d.joined = []) : (nextPlane d).op = none := by
  simp [nextPlane, hjoined]

/-- Settles O29: a seal writes what `withoutRowWork` leaves out, and each end of a program is one branch of its
command. -/
theorem rowsAreSealedAndProgrammed : Obligations.RowsAreSealedAndProgrammed := by
  refine ⟨?idle, ?delay, ?stacksRow, ?ends, ?noProgram⟩
  case idle =>
    intro s row r hcoast _
    have hkeep := sealRow_withoutRowWork row s
    exact ⟨_, exec_rowIdleSeal row hcoast, rest_of_withoutRowWork hkeep, congrArg (fun u => u.wr.flash) hkeep,
      congrArg (fun u => u.wr.transit) hkeep, fun x hx => sealRow_sealed hx⟩
  case delay =>
    intro s row page j r hcoast hrow hcarrel hpage hwaits
    exact exec_sealDelayExpiry_waits hrow hcoast hcarrel hpage hwaits
  case stacksRow =>
    intro s row page j r hrow hstacks
    exact exec_sealDelayExpiry_stacks page j hrow hstacks
  case ends =>
    intro s ch tg d p picks hdie hop hreset hcoast
    exact ⟨exec_pageProgramDone_programming hdie hop hreset hcoast,
      exec_programFail_programming hdie picks hop hreset hcoast, nextPlane_op_none⟩
  case noProgram =>
    intro s ch tg d picks hdie hop
    exact ⟨exec_pageProgramDone_idle hdie hop, exec_programFail_idle hdie picks hop⟩

end Sys2Proof.Machine
end

section
/-! PROOFS. Data of a write that has arrived (R204, R230): it fails its protection information, or its cards are
placed. -/

namespace Sys2Proof.Machine

/-! ## The check of protection information (R230) -/

theorem blockCheck_badGuard {n : Namespace} {e : SqEntry} {block : List Nat} {x : Nat × Nat × Nat} (i : Nat)
    (hguard : checksGuard e = true) (hdiffers : x.1 ≠ guardOf n block) (hescape : piEscape n x = false) :
    blockCheck n e i block x = some (2, 0x82) := by
  simp [blockCheck, hescape, hguard, hdiffers]

/-- A block that fails its check fails the data, whichever block the report names. -/
theorem piFailed_isSome_of_block {n : Namespace} {e : SqEntry} {data : List Nat} {info : List (Nat × Nat × Nat)}
    {i : Nat} {st : Nat × Nat} (hcomes : infoComes n e = true) (hi : i < info.length)
    (hblock : blockCheck n e i (blockAt n data i) (info.getD i (0, 0, 0)) = some st) :
    (piFailed n e data info).isSome = true := by
  rw [piFailed, hcomes]
  exact List.findSome?_isSome_iff.mpr ⟨i, List.mem_range.mpr hi, by rw [hblock]; rfl⟩

/-! ## What arrived data does -/

theorem failPi_ended {slot : Nat} {c : Cmd} {s : State} (i : Nat) (st : Nat × Nat) (n : Namespace)
    (hc : cmdAt s slot = some c) : Ended slot c st 0 s (failPi slot i st n s) ∧
      failPi slot i st n s = { s with nv := (failPi slot i st n s).nv, pools := (failPi slot i st n s).pools } := by
  rw [failPi, hc]
  obtain ⟨hwaiting, hgone, -⟩ := finishAt_of_cmdAt st (cardLba n ((firstSector n c.e + lbaSectors n * i) / 8))
    (dnrOf st false) 0 ((cmdAt_freeAllOf (.slot slot) slot s).trans hc)
  refine ⟨⟨?_, hgone⟩, ?_⟩
  · rw [hwaiting, freeAllOf_nv]; rfl
  · obtain ⟨p, hp⟩ := freeAllOf_rest (.slot slot) s
    dsimp only
    rw [finishAt_rest, hp]

section
variable {s : State} {slot : Nat} {data picks : List Nat} {info : List (Nat × Nat × Nat)} {c : Cmd} {n : Namespace}

theorem exec_writeDataArrived_notBuffered (hc : cmdAt s slot = some c) (hphase : c.phase ≠ .buffered) :
    exec (.writeDataArrived slot data picks info) s = .next s := by
  change execWriteDataArrived slot data picks info s = _
  cases hns : nsAt s c.e.nsid with
  | none => simp [execWriteDataArrived, hc, hns]
  | some n => cases hspan : n.spanned with
    | none => simp [execWriteDataArrived, dataArrived, hc, hns, hspan, hphase]
    | some e => simp [execWriteDataArrived, hc, hns, hspan, hphase]

variable (hcoast : s.mode.mode ≠ .coast) (hc : cmdAt s slot = some c) (hns : nsAt s c.e.nsid = some n)
  (hlocal : n.spanned = none)
include hcoast hc hns hlocal

theorem exec_writeDataArrived_local :
    exec (.writeDataArrived slot data picks info) s = .next (dataArrived slot data picks info s) := by
  change execWriteDataArrived slot data picks info s = _
  simp [execWriteDataArrived, hcoast, hc, hns, hlocal]

variable (hop : c.e.opcode = 0x01 ∨ c.e.opcode = 0x81) (hphase : c.phase = .buffered)
  (hlen : data.length = sectorCount n c.e) (hwhole : infoWhole n c.e info = true)
include hop hphase hlen hwhole

theorem exec_writeDataArrived_fails {i : Nat} {st : Nat × Nat} (hpi : piFailed n c.e data info = some (i, st)) :
    exec (.writeDataArrived slot data picks info) s = .next (failPi slot i st n s) := by
  have hdata : arrivedData n c data = data := if_neg (by rcases hop with h | h <;> simp [h])
  rw [exec_writeDataArrived_local hcoast hc hns hlocal]
  rcases hop with h | h <;> simp [dataArrived, hc, hns, hlocal, hphase, hlen, hwhole, hdata, hpi, h]

theorem exec_writeDataArrived_places (hpi : piFailed n c.e data info = none) (hpartial : partialPlaces n c.e = []) :
    exec (.writeDataArrived slot data picks info) s = .next (placeWrite slot picks
      (modCmd slot (fun x => { x with data := data, want := [] })
        { s with nv := { s.nv with unitsWr := s.nv.unitsWr + data.length } })) := by
  have hdata : arrivedData n c data = data := if_neg (by rcases hop with h | h <;> simp [h])
  rw [exec_writeDataArrived_local hcoast hc hns hlocal]
  rcases hop with h | h <;> simp [dataArrived, hc, hns, hlocal, hphase, hlen, hwhole, hdata, hpi, hpartial, h]

end

end Sys2Proof.Machine
end

section
/-! PROOFS. The lock of a partly covered card (R73, R74): its grant, and what the old contents then bring. -/

namespace Sys2Proof.Machine

/-- The state once the holder of the card's lock has been granted it. -/
def grantedLock (slot sh k : Nat) (s : State) : State :=
  { s with wr := { s.wr with
      locks := modWhere (fun l => l.shelf = sh && l.card = k && l.holder = slot)
        (fun l => { l with granted := true }) s.wr.locks } }

/-- Who holds a lock does not depend on its grant. -/
theorem partialOf_grantedLock (slot sh k : Nat) (s : State) :
    partialOf (grantedLock slot sh k s) slot sh k = partialOf s slot sh k := by
  have hholds : holdsLock (grantedLock slot sh k s) slot sh k = holdsLock s slot sh k := by
    simp only [holdsLock, grantedLock, modWhere, List.any_map]
    congr 1
    funext l
    simp only [Function.comp]
    split <;> rfl
  simp only [partialOf, hholds]
  rfl

section
variable {s : State} {slot sh k lba : Nat} {c : Cmd} {n : Namespace}

theorem exec_cardLockGrant_local (fresh : Bool) (picks : List Nat) (hcoast : s.mode.mode ≠ .coast)
    (hc : cmdAt s slot = some c) (hns : nsAt s c.e.nsid = some n) (hlocal : n.spanned = none)
    (hpart : partialOf s slot sh k = some (c, n, lba)) : exec (.cardLockGrant slot sh k fresh picks) s =
      .next (obtainOld slot sh k (natAt (choices fresh picks s) 0) (grantedLock slot sh k s)) := by
  change execCardLockGrant slot sh k fresh picks s = _
  simp [execCardLockGrant, grantLock, hcoast, hc, hns, hlocal, hpart, grantedLock]

/-! What the holder does with no old contents of the card here or under way, by where they are. -/

variable {u : State} (hpart : partialOf u slot sh k = some (c, n, lba))
  (hgot : (c.got.find? fun g => g.1 = lba) = none) (hway : mergeUnderWay slot sh k u = false)
include hpart hgot hway

theorem obtainOld_marked (pick : Nat) (hold : oldContents u n.nsid lba sh k = .marked) :
    obtainOld slot sh k pick u =
      donePartial slot sh k lba (failCard slot (cardLba n lba) scUnrecovered (touchSegment sh u)) := by
  have htouched : partialOf (touchSegment sh u) slot sh k = some (c, n, lba) := hpart
  simp [obtainOld, hpart, hgot, hway, hold, failPartial, htouched]

theorem obtainOld_here {pick : Nat} {sectors : List Nat} {t : State}
    (hold : oldContents u n.nsid lba sh k = .here sectors)
    (hplace : placeCard slot { c with group := cardGroup n c lba } n false sh k lba
      (mergeCard (firstSector n c.e) c.data lba sectors) pick (setOverflow (touchSegment sh u)) = some t) :
    obtainOld slot sh k pick u = donePartial slot sh k lba t := by
  have htouched : partialOf (touchSegment sh u) slot sh k = some (c, n, lba) := hpart
  simp [obtainOld, hpart, hgot, hway, hold, mergeOld, htouched, hplace]

theorem obtainOld_flash (pick : Nat) {p : Ppa} {age : Nat} (hold : oldContents u n.nsid lba sh k = .flash p age) :
    obtainOld slot sh k pick u =
      queueRead { ppa := p, cls := 0, why := .merge slot sh k lba age } (touchSegment sh u) := by
  simp [obtainOld, hpart, hgot, hway, hold]

theorem obtainOld_miss (pick : Nat) {page : Bool} {i : Nat} (hold : oldContents u n.nsid lba sh k = .miss page i) :
    obtainOld slot sh k pick u = startLoad page i u := by
  simp [obtainOld, hpart, hgot, hway, hold]

end

end Sys2Proof.Machine
end

section
/-! PROOFS. Dataset Management (R234), and the statement of arrived data, card locks and detectors (R73, R74, R80). -/

namespace Sys2Proof.Machine

section
variable {s : State} {slot : Nat} {c : Cmd} {n : Namespace} {ranges : List (Nat × Nat)}

theorem exec_datasetManagement_ready (hready : IoReady slot c s) (hop : c.e.opcode = 0x09) :
    exec (.datasetManagement slot ranges) s = .next (startDsm slot c ranges s) :=
  congrArg _ (startIo_ready hready (decide_eq_true hop) _)

variable (hns : nsAt s c.e.nsid = some n)
include hns

theorem startDsm_noDeallocate (hbit : c.e.dw11.testBit 2 = false) :
    startDsm slot c ranges s = finishErr slot scSuccess s := by
  simp only [startDsm, hns, hbit]
  rfl

theorem startDsm_pastEnd (hbit : c.e.dw11.testBit 2 = true)
    (hpast : ((ranges.take (bitsOf c.e.dw10 7 0 + 1)).any fun r => decide (n.nsze < r.1 + r.2)) = true) :
    startDsm slot c ranges s = finishErr slot scRange s := by
  simp only [startDsm, hns, hbit, hpast]
  rfl

theorem startDsm_releases (hbit : c.e.dw11.testBit 2 = true)
    (hrange : ((ranges.take (bitsOf c.e.dw10 7 0 + 1)).any fun r => decide (n.nsze < r.1 + r.2)) = false)
    (haccess : accessStatus s slot n ((ranges.take (bitsOf c.e.dw10 7 0 + 1)).flatMap fun r =>
      cardsOf (r.1 * lbaSectors n) (r.2 * lbaSectors n)) true false = none) :
    startDsm slot c ranges s = settlePlaced slot n
      (releaseWhole slot c n (unionCards n (ranges.take (bitsOf c.e.dw10 7 0 + 1)))
        (modCmd slot (fun x => { x with armed := s.coast.armed }) s)) := by
  simp only [startDsm, hns, hbit, hrange, haccess]
  rfl

end

theorem exec_seqDetectorExpiry (s : State) (i : Nat) : exec (.seqDetectorExpiry i) s =
    .next { s with wr := { s.wr with detectors := s.wr.detectors.eraseIdx i } } := by
  rw [List.eraseIdx_eq_take_drop_succ]
  rfl

/-- Settles O28: each clause is one branch of its command, the grant's by where the old contents are. -/
theorem writeDataAndLocks : Obligations.WriteDataAndLocks := by
  refine ⟨?fails, ?places, ?guard, ?notBuffered, ?grant, ?noDeallocate, ?pastEnd, ?releases, exec_seqDetectorExpiry⟩
  case fails =>
    intro s slot i data picks info c n st hcoast hc hns hlocal hop hphase hlen hwhole hpi
    obtain ⟨hended, hrest⟩ := failPi_ended i st n hc
    exact ⟨_, exec_writeDataArrived_fails hcoast hc hns hlocal hop hphase hlen hwhole hpi, hended, hrest⟩
  case places =>
    intro s slot data picks info c n hcoast hc hns hlocal hop hphase hlen hwhole hpi hpartial
    exact exec_writeDataArrived_places hcoast hc hns hlocal hop hphase hlen hwhole hpi hpartial
  case guard =>
    rintro n e data info hprot hop hpract hguard ⟨i, hi, hdiffers, hescape⟩
    have hcomes : infoComes n e = true := by simp [infoComes, hprot, hpract, hop]
    exact piFailed_isSome_of_block hcomes hi (blockCheck_badGuard i hguard hdiffers hescape)
  case notBuffered =>
    intro s slot data picks info c hc hphase
    exact exec_writeDataArrived_notBuffered hc hphase
  case grant =>
    rintro s u slot sh k lba fresh picks c n hcoast hc hns hlocal hpart hgot hway rfl
    have hgranted : partialOf (grantedLock slot sh k s) slot sh k = some (c, n, lba) :=
      (partialOf_grantedLock slot sh k s).trans hpart
    have hold : oldContents (grantedLock slot sh k s) n.nsid lba sh k = oldContents s n.nsid lba sh k := rfl
    rw [exec_cardLockGrant_local fresh picks hcoast hc hns hlocal hpart]
    refine ⟨fun hmarked => ?_, fun sectors t hhere hplace => ?_, fun p age hflash => ?_, fun page i hmiss => ?_⟩
    · exact congrArg _ (obtainOld_marked hgranted hgot hway _ (hold.trans hmarked))
    · exact congrArg _ (obtainOld_here hgranted hgot hway (hold.trans hhere) hplace)
    · exact congrArg _ (obtainOld_flash hgranted hgot hway _ (hold.trans hflash))
    · exact congrArg _ (obtainOld_miss hgranted hgot hway _ (hold.trans hmiss))
  case noDeallocate =>
    intro s slot c n ranges hready hop hns hbit
    exact ended_of_next hready.1 (exec_datasetManagement_ready hready hop) (startDsm_noDeallocate hns hbit)
  case pastEnd =>
    intro s slot c n ranges hready hop hns hbit hpast
    obtain ⟨t, hexec, ⟨-, hgone⟩, hrest⟩ :=
      ended_of_next hready.1 (exec_datasetManagement_ready hready hop) (startDsm_pastEnd hns hbit hpast)
    exact ⟨t, hexec, hgone, hrest⟩
  case releases =>
    rintro s slot c n ranges _ hready hop hns hbit rfl hrange haccess
    exact (exec_datasetManagement_ready hready hop).trans (congrArg _ (startDsm_releases hns hbit hrange haccess))

end Sys2Proof.Machine
end

section
/-! PROOFS. Coast's own state and the pins: completions, Daybook records, sealed rows and newly opened block stripes
leave them as they are. -/

namespace Sys2Proof.Machine

/-- Coast's state and the pins. -/
def coastAndPins (s : State) : Coast × Pins := (s.coast, s.pins)

@[simp] theorem record_coastAndPins (event : Nat) (payload : List (Nat × Nat)) (s : State) :
    coastAndPins (record event payload s) = coastAndPins s := by
  rw [coastAndPins, record_rest]; rfl

@[simp] theorem sealRows_coastAndPins (s : State) : coastAndPins (sealRows s) = coastAndPins s :=
  (congrArg coastAndPins (sealRows_withoutRowWork s) :)

/-! ## What waits for durability goes on (R67, R311) -/

@[simp] theorem settleReady_coastAndPins (s : State) : coastAndPins (settleReady s) = coastAndPins s :=
  foldl_keeps coastAndPins _ (fun t n => by rw [finishCmd_rest]; rfl) _ s

@[simp] theorem closeWaiting_coastAndPins (s : State) : coastAndPins (closeWaiting s) = coastAndPins s := by
  unfold closeWaiting closeCard
  split
  · split
    · rfl
    · obtain ⟨-, hrest, -⟩ := padRecs_appends (512 - openRecords s) s
      rw [hrest]; rfl
  · rfl

@[simp] theorem sendDone_coastAndPins (h : PacketHdr) (st : Nat × Nat) (s : State) :
    coastAndPins (sendDone h st s) = coastAndPins s := by
  unfold sendDone answer sendPacket
  dsimp only
  split <;> rfl

@[simp] theorem dropTxn_coastAndPins (h : PacketHdr) (s : State) : coastAndPins (dropTxn h s) = coastAndPins s := by
  obtain ⟨p, hp⟩ := freeAllOf_rest (txnReq h.src h.tag)
    { s with pel := { s.pel with txns := s.pel.txns.filter fun t => ! (t.src = h.src && t.tag = h.tag) } }
  rw [dropTxn, hp]; rfl

@[simp] theorem settleTxns_coastAndPins (s : State) : coastAndPins (settleTxns s) = coastAndPins s :=
  foldl_keeps coastAndPins _ (fun u t => by simp only [endTxn, sendDone_coastAndPins, dropTxn_coastAndPins]; rfl) _ s

@[simp] theorem settleAll_coastAndPins (s : State) : coastAndPins (settleAll s) = coastAndPins s := by
  simp only [settleAll, settleWrites, settleTxns_coastAndPins, closeWaiting_coastAndPins, settleReady_coastAndPins]

/-! ## A block stripe opens (R86, R90) -/

@[simp] theorem requestBuffers_engine_coastAndPins (set e : Nat) (sizes : List Nat) (s : State) :
    coastAndPins (requestBuffers set (.engine e) sizes s) = coastAndPins s := by
  unfold requestBuffers
  split <;> rfl

@[simp] theorem openStripe_coastAndPins (n stream : Nat) (s : State) :
    coastAndPins (openStripe n stream s) = coastAndPins s := by
  unfold openStripe
  dsimp only
  split
  · rfl
  · unfold askOnce
    split
    · rfl
    · exact (requestBuffers_engine_coastAndPins ..).trans rfl

end Sys2Proof.Machine
end

section
/-! PROOFS. Arming and disarming (R70, R170, R177): what each leaves of Coast's state. -/

namespace Sys2Proof.Machine

/-- Coast's state but for the block stripes it holds, and the pins. -/
def coastButStripes (s : State) : Coast × Pins := ({ (coastAndPins s).1 with stripes := [] }, (coastAndPins s).2)

theorem coastButStripes_congr {s t : State} (h : coastAndPins t = coastAndPins s) :
    coastButStripes t = coastButStripes s := by
  rw [coastButStripes, h, coastButStripes]

theorem takeCoastStripes_coastButStripes (s : State) : coastButStripes (takeCoastStripes s) = coastButStripes s := by
  have hstep (g : Nat) (u : State) : coastButStripes (takeCoastStripe g u) = coastButStripes u := by
    unfold takeCoastStripe
    split
    · rfl
    · split
      · rfl
      · exact coastButStripes_congr (t := openStripe _ 1 u) (openStripe_coastAndPins ..)
  exact foldl_keeps coastButStripes _ (fun u g => hstep g u) _ s

/-- Arming sets the mark and takes the Coast block stripes, and leaves the rest of Coast's state and the pins. -/
theorem arm_facts (s : State) : (arm s).coast = { s.coast with armed := true, stripes := (arm s).coast.stripes } ∧
    (arm s).pins = s.pins := by
  have hkeep : coastButStripes (arm s) = coastButStripes { s with coast := { s.coast with armed := true } } := by
    unfold arm
    rw [coastButStripes_congr (settleAll_coastAndPins _)]
    exact (takeCoastStripes_coastButStripes _).trans (coastButStripes_congr (record_coastAndPins ..))
  generalize arm s = t at hkeep ⊢
  obtain ⟨hcoast, hpins⟩ := Prod.mk.inj hkeep
  exact ⟨congrArg (fun x : Coast => { x with stripes := t.coast.stripes }) hcoast, hpins⟩

/-- The drain of the acknowledged cards that are not programmed begins (R70). -/
def beginDrain (s : State) : State :=
  { s with coast := { s.coast with draining := true, drainLeft := ackedLeft s } }

theorem disarm_armed {s : State} (cause : Nat) (harmed : s.coast.armed = true) : disarm cause s =
    beginDrain (sealRows (record 0x0004 [(1, 0), (1, cause)] { s with coast := { s.coast with armed := false } })) := by
  rw [disarm, harmed]
  rfl

theorem disarm_disarmed {s : State} (cause : Nat) (harmed : s.coast.armed = false) : disarm cause s = s := by
  simp [disarm, harmed]

/-- Disarming clears the mark and begins the drain, and leaves the rest of Coast's state and the pins. -/
theorem disarm_armed_facts {s : State} (cause : Nat) (harmed : s.coast.armed = true) :
    (disarm cause s).coast = { s.coast with
      armed := false, draining := true, drainLeft := ackedLeft (disarm cause s) } ∧
      (disarm cause s).pins = s.pins := by
  have hkeep := (sealRows_coastAndPins (record 0x0004 [(1, 0), (1, cause)]
    { s with coast := { s.coast with armed := false } })).trans (record_coastAndPins ..)
  rw [disarm_armed cause harmed]
  generalize sealRows _ = u at hkeep ⊢
  obtain ⟨hcoast, hpins⟩ := Prod.mk.inj hkeep
  exact ⟨congrArg (fun x : Coast => { x with draining := true, drainLeft := ackedLeft u }) hcoast, hpins⟩

/-- Whether Coast was armed or not, afterwards it is not, and tests, counts and pins are as before. -/
theorem disarm_facts (cause : Nat) (s : State) : (disarm cause s).coast.armed = false ∧
    (disarm cause s).coast.test = s.coast.test ∧ (disarm cause s).coast.fails = s.coast.fails ∧
    (disarm cause s).coast.history = s.coast.history ∧ (disarm cause s).pins = s.pins := by
  cases harmed : s.coast.armed with
  | false => rw [disarm_disarmed cause harmed]; exact ⟨harmed, rfl, rfl, rfl, rfl⟩
  | true =>
    obtain ⟨hcoast, hpins⟩ := disarm_armed_facts cause harmed
    rw [hcoast]
    exact ⟨rfl, rfl, rfl, rfl, hpins⟩

theorem mem_ackedLeft {s : State} {p : Ppa} : p ∈ ackedLeft s ↔
    ∃ x, x ∈ s.wr.transit ∧ x.isAcked = true ∧ x.pageDone = false ∧ x.ppa = p := by
  simp [ackedLeft, and_assoc]

end Sys2Proof.Machine
end

section
/-! PROOFS. The hold-up test (R175 to R177, R386): how a result is noted, what a failure and a pass do, and the end of
the drain (R70). -/

namespace Sys2Proof.Machine

/-- The entry of a result in HISTORY. -/
def resultEntry (result td : Nat) (s : State) : HoldupResult :=
  { cycles := s.cdx.powerCycles, tdUs := td, result := result, timeMs := s.clock.opMs }

theorem noteResult_coastAndPins (result td : Nat) (s : State) : coastAndPins (noteResult result td s) =
    ({ s.coast with test := .none, history := (resultEntry result td s :: s.coast.history).take 56 }, s.pins) :=
  record_coastAndPins ..

/-- A failure as it is counted, before Coast is disarmed. -/
def countFailure (s : State) : State :=
  { s with coast := { s.coast with
      fails := sat32 (s.coast.fails + 1), failCount := min 255 (s.coast.failCount + 1)
      sticky := s.coast.sticky ||| 0x2 } }

theorem failTest_eq (result td : Nat) (s : State) :
    failTest result td s = disarm 1 (countFailure (noteResult result td s)) := rfl

/-- What a failed test leaves: Coast disarmed, no test under way, one more failure, and the result first in HISTORY. -/
theorem failTest_facts (result td : Nat) (s : State) : (failTest result td s).coast.armed = false ∧
    (failTest result td s).coast.test = .none ∧ (failTest result td s).coast.fails = sat32 (s.coast.fails + 1) ∧
    (failTest result td s).coast.history.head? = some (resultEntry result td s) ∧
    (failTest result td s).pins = s.pins := by
  obtain ⟨hnoted, hpins⟩ := Prod.mk.inj (noteResult_coastAndPins result td s)
  rw [failTest_eq]
  generalize noteResult result td s = u at hnoted hpins ⊢
  obtain ⟨harmed, htest, hfails, hhistory, hkeep⟩ := disarm_facts 1 (countFailure u)
  rw [htest, hfails, hhistory, hkeep]
  exact ⟨harmed, congrArg Coast.test hnoted, (congrArg (fun x : Coast => sat32 (x.fails + 1)) hnoted :),
    congrArg (fun x : Coast => x.history.head?) hnoted, hpins⟩

/-- A pass as it is counted, before Coast is armed. -/
def countPass (td : Nat) (s : State) : State :=
  { s with coast := { s.coast with
      passes := sat32 (s.coast.passes + 1), failCount := 0
      tdMin := if s.coast.passes = 0 then td else min s.coast.tdMin td
      tdMax := max s.coast.tdMax td } }

/-- Coast is armed where it is not and the policy is. -/
def armIfNot (s : State) : State := if s.coast.armed || ! policyArmed s then s else arm s

theorem passTest_eq (td : Nat) (s : State) :
    passTest td s = armIfNot (countPass td (noteResult 0 td (setLast td s))) := rfl

theorem armIfNot_facts {s : State} (hpolicy : policyArmed s = true) : (armIfNot s).coast = { s.coast with
    armed := true, stripes := (armIfNot s).coast.stripes } ∧ (armIfNot s).pins = s.pins := by
  unfold armIfNot
  cases harmed : s.coast.armed with
  | true => exact ⟨congrArg (fun b => { s.coast with armed := b }) harmed, rfl⟩
  | false =>
    rw [if_neg (by simp [hpolicy])]
    exact arm_facts s

theorem policyArmed_noteResult (result td : Nat) (s : State) :
    policyArmed (noteResult result td s) = policyArmed s := by
  rw [noteResult, record_rest]
  rfl

/-- What a passed test leaves: Coast armed, no test under way, no failures in a row, and the result first in HISTORY. -/
theorem passTest_facts {s : State} (td : Nat) (hpolicy : policyArmed s = true) : (passTest td s).coast.armed = true ∧
    (passTest td s).coast.test = .none ∧ (passTest td s).coast.failCount = 0 ∧
    (passTest td s).coast.holdupLast = td ∧
    (passTest td s).coast.history.head? = some (resultEntry 0 td s) ∧ (passTest td s).pins = s.pins := by
  obtain ⟨hnoted, hpins⟩ := Prod.mk.inj (noteResult_coastAndPins 0 td (setLast td s))
  have hcounted : policyArmed (countPass td (noteResult 0 td (setLast td s))) = true :=
    (policyArmed_noteResult 0 td (setLast td s)).trans hpolicy
  rw [passTest_eq]
  generalize noteResult 0 td (setLast td s) = u at hnoted hpins hcounted ⊢
  obtain ⟨hcoast, hkeep⟩ := armIfNot_facts hcounted
  rw [hcoast, hkeep]
  exact ⟨rfl, congrArg Coast.test hnoted, rfl, congrArg Coast.holdupLast hnoted,
    congrArg (fun x : Coast => x.history.head?) hnoted, hpins⟩

/-! ## The events -/

theorem exec_holdupTestIntervalExpiry_test {s : State} (hfree : testFree s = true) :
    exec (.holdupTestIntervalExpiry false) s =
      .next (leaveIdle { s with coast := { s.coast with test := .requested } }) :=
  congrArg _ (if_pos hfree)

theorem exec_holdupTestIntervalExpiry_noRetest {s : State} (h : s.coast.armed = true ∨ holdupLow s = true) :
    exec (.holdupTestIntervalExpiry true) s = .next s := by
  change execHoldupTestIntervalExpiry true s = _
  rcases h with h | h <;> simp [execHoldupTestIntervalExpiry, h]

section
variable {s : State} (hrequested : s.coast.test = .requested) (hserve : serving s = true)
include hrequested hserve

theorem exec_holdupTestStart_notArmed (hpolicy : policyArmed s = false) :
    exec .holdupTestStart s = .next { s with coast := { s.coast with test := .none } } := by
  change execHoldupTestStart s = _
  simp [execHoldupTestStart, hrequested, hserve, hpolicy]

theorem exec_holdupTestStart_high (hpolicy : policyArmed s = true) (hhigh : holdupLow s = false) :
    exec .holdupTestStart s = .next { s with coast := { s.coast with test := .discharging } } := by
  change execHoldupTestStart s = _
  simp [execHoldupTestStart, hrequested, hserve, hpolicy, hhigh]

end

theorem exec_holdupTestStart_notRequested {s : State} (htest : s.coast.test ≠ .requested) :
    exec .holdupTestStart s = .next s := by
  change execHoldupTestStart s = _
  simp [execHoldupTestStart, htest]

section
variable {s : State} (hdischarging : s.coast.test = .discharging)
include hdischarging

theorem exec_holdupDischargeEnd_within {td : Nat} (hlow : 1000 * fld s 0x6CC ≤ td)
    (hhigh : td ≤ 1000 * fld s 0x6D0) : exec (.holdupDischargeEnd td) s = .next { s with
      pins := { s.pins with holdupSupLow := true }, coast := { s.coast with test := .recharging td } } := by
  change execHoldupDischargeEnd td s = _
  simp [execHoldupDischargeEnd, hdischarging, Nat.not_lt.mpr hlow, Nat.not_lt.mpr hhigh]

theorem exec_holdupDischargeEnd_short {td : Nat} (hshort : td < 1000 * fld s 0x6CC) :
    exec (.holdupDischargeEnd td) s =
      .next (failTest 1 td (setLast td { s with pins := { s.pins with holdupSupLow := true } })) := by
  change execHoldupDischargeEnd td s = _
  simp [execHoldupDischargeEnd, hdischarging, hshort]

theorem exec_holdupMaxDischargeExpiry_discharging :
    exec .holdupMaxDischargeExpiry s = .next (failTest 2 tdNone (setLast tdNone s)) :=
  congrArg _ (if_pos hdischarging)

end

section
variable {s : State} {td : Nat} (hrecharging : s.coast.test = .recharging td)
include hrecharging

theorem exec_holdupRecharged_recharging :
    exec .holdupRecharged s = .next (passTest td { s with pins := { s.pins with holdupSupLow := false } }) := by
  change execHoldupRecharged s = _
  simp [execHoldupRecharged, hrecharging]

theorem exec_holdupRechargeExpiry_recharging :
    exec .holdupRechargeExpiry s = .next (failTest 3 td (setLast td s)) := by
  change execHoldupRechargeExpiry s = _
  simp [execHoldupRechargeExpiry, hrecharging]

end

theorem exec_holdupLowOutsideTest_noTest {s : State} (hserve : serving s = true) (htest : s.coast.test = .none) :
    exec .holdupLowOutsideTest s =
      .next (failTest 5 0 { s with pins := { s.pins with holdupSupLow := true } }) := by
  change execHoldupLowOutsideTest s = _
  simp [execHoldupLowOutsideTest, hserve, htest]

theorem exec_coastDisarm_serving {s : State} {cause : Nat} (hserve : serving s = true) (hcause : cause ≤ 1) :
    exec (.coastDisarm cause) s = .next (disarm cause s) := by
  change execCoastDisarm cause s = _
  simp [execCoastDisarm, hserve, hcause]

theorem exec_coastDisarm_disarmed {s : State} (cause : Nat) (harmed : s.coast.armed = false) :
    exec (.coastDisarm cause) s = .next s := by
  change execCoastDisarm cause s = _
  simp [execCoastDisarm, disarm_disarmed cause harmed]

/-- The state at the end of the drain, before the Flushes that waited for it complete. -/
def endDrain (s : State) : State :=
  record 0x0005 [(6, s.clock.opMs)] { s with coast := { s.coast with draining := false, drainLeft := [] } }

/-- The Flushes that waited for the drain complete. -/
def finishFlushes (s : State) : State :=
  (slotsWhere (fun c => c.qid != 0 && c.e.opcode = 0x00 && c.phase = .running) s).foldl (fun t n => finishOk n 0 t) s

theorem exec_ackDrainDone_ends {s : State} (hdrain : s.coast.draining = true) (hserve : serving s = true)
    (hleft : drainOpen s = false) (hopen : armedOpen s = false) :
    exec .ackDrainDone s = .next (finishFlushes (endDrain s)) := by
  change execAckDrainDone s = _
  simp [execAckDrainDone, hdrain, hserve, hleft, hopen, finishFlushes, endDrain]

theorem exec_ackDrainDone_noDrain {s : State} (hdrain : s.coast.draining = false) :
    exec .ackDrainDone s = .next s := by
  change execAckDrainDone s = _
  simp [execAckDrainDone, hdrain]

/-- The end of the drain clears its marks and touches neither cards nor map. -/
theorem finishFlushes_endDrain_facts (s : State) :
    (finishFlushes (endDrain s)).coast = { s.coast with draining := false, drainLeft := [] } ∧
      (finishFlushes (endDrain s)).wr = s.wr ∧ (finishFlushes (endDrain s)).cat = s.cat := by
  have hflushes : (fun t : State => (t.coast, t.wr, t.cat)) (finishFlushes (endDrain s)) =
      (fun t : State => (t.coast, t.wr, t.cat)) (endDrain s) :=
    foldl_keeps (fun t : State => (t.coast, t.wr, t.cat)) _ (fun t n => by rw [finishOk, finish_rest]) _ _
  simp only [Prod.mk.injEq] at hflushes
  obtain ⟨hcoast, hwr, hcat⟩ := hflushes
  rw [hcoast, hwr, hcat]
  obtain ⟨hcoast, -, -, hwr, hcat, -⟩ := record_keep 0x0005 [(6, s.clock.opMs)]
    { s with coast := { s.coast with draining := false, drainLeft := [] } }
  exact ⟨hcoast, hwr, hcat⟩

/-- Settles O42: each event is one branch of its command, and what a result leaves is `failTest_facts` or
`passTest_facts`. -/
theorem holdupTestsArmAndDisarm : Obligations.HoldupTestsArmAndDisarm := by
  refine ⟨fun s => exec_holdupTestIntervalExpiry_test, fun s => exec_holdupTestIntervalExpiry_noRetest,
    fun s => exec_holdupTestStart_notArmed, fun s => exec_holdupTestStart_high,
    fun s => exec_holdupTestStart_notRequested, fun s td h => exec_holdupDischargeEnd_within h, ?short, ?late, ?passes,
    ?noRecharge, ?low, ?disarms, fun s cause => exec_coastDisarm_disarmed cause, ?drained,
    fun s => exec_ackDrainDone_noDrain⟩
  case short =>
    intro s td hdischarging hshort
    obtain ⟨harmed, htest, hfails, hfirst, -⟩ :=
      failTest_facts 1 td (setLast td { s with pins := { s.pins with holdupSupLow := true } })
    exact ⟨_, _, exec_holdupDischargeEnd_short hdischarging hshort, harmed, htest, hfails, hfirst, rfl, rfl⟩
  case late =>
    intro s hdischarging
    obtain ⟨harmed, htest, -, hfirst, -⟩ := failTest_facts 2 tdNone (setLast tdNone s)
    exact ⟨_, _, exec_holdupMaxDischargeExpiry_discharging hdischarging, harmed, htest, hfirst, rfl, rfl⟩
  case passes =>
    intro s td hrecharging hpolicy
    obtain ⟨harmed, htest, hcount, hlast, hfirst, hpins⟩ := passTest_facts td
      (show policyArmed { s with pins := { s.pins with holdupSupLow := false } } = true from hpolicy)
    exact ⟨_, _, exec_holdupRecharged_recharging hrecharging, harmed, htest, hcount, hlast, hfirst, rfl,
      congrArg Pins.holdupSupLow hpins⟩
  case noRecharge =>
    intro s td hrecharging
    obtain ⟨harmed, -, -, hfirst, -⟩ := failTest_facts 3 td (setLast td s)
    exact ⟨_, _, exec_holdupRechargeExpiry_recharging hrecharging, harmed, hfirst, rfl, rfl⟩
  case low =>
    intro s hserve htest
    obtain ⟨harmed, -, -, hfirst, hpins⟩ :=
      failTest_facts 5 0 { s with pins := { s.pins with holdupSupLow := true } }
    exact ⟨_, _, exec_holdupLowOutsideTest_noTest hserve htest, harmed, congrArg Pins.holdupSupLow hpins, hfirst,
      rfl⟩
  case disarms =>
    intro s cause hserve hcause harmed
    obtain ⟨hcoast, -⟩ := disarm_armed_facts cause harmed
    refine ⟨_, exec_coastDisarm_serving hserve hcause, ?_⟩
    rw [hcoast]
    exact ⟨rfl, rfl, fun p => mem_ackedLeft⟩
  case drained =>
    intro s hdrain hserve hleft hopen
    obtain ⟨hcoast, hwr, hcat⟩ := finishFlushes_endDrain_facts s
    refine ⟨_, exec_ackDrainDone_ends hdrain hserve hleft hopen, ?_⟩
    rw [hcoast]
    exact ⟨rfl, rfl, hwr, hcat⟩

end Sys2Proof.Machine
end

section
/-! PROOFS. Block-table entries (Tables 4.2, 4.4): what an entry reads after one of them is written. -/

namespace Sys2Proof.Machine

/-- A table entry of block stripe `n` as it counts: retired dies are excluded, and a free one with fewer than 8 lane
slots is retired. -/
def entryInForce (s : State) (n : Nat) (b : BlockEntry) : BlockEntry :=
  let x := b.excluded ||| retiredMask s (entryLane s n)
  { b with
    excluded := x
    state := if b.state = 0 && decide (slotsLeft s (entryLane s n) x < 8) then 5 else b.state }

theorem blkAt_eq_entryInForce (s : State) (n : Nat) :
    blkAt s n = entryInForce s n (mapAt (freeEntry (inCarrel s n)) n s.blk.table) := rfl

@[simp] theorem entryInForce_forced (s : State) (n : Nat) (b : BlockEntry) :
    (entryInForce s n b).forced = b.forced := rfl

@[simp] theorem entryInForce_examined (s : State) (n : Nat) (b : BlockEntry) :
    (entryInForce s n b).examined = b.examined := rfl

theorem entryInForce_state {s : State} {n : Nat} {b : BlockEntry} (hused : b.state ≠ 0) :
    (entryInForce s n b).state = b.state := by
  simp [entryInForce, hused]

/-- An entry that is written reads as it counts, and every other entry as before. -/
theorem blkAt_modBlk (n m : Nat) (f : BlockEntry → BlockEntry) (s : State) :
    blkAt (modBlk n f s) m = if m = n then entryInForce s n (f (blkAt s n)) else blkAt s m := by
  have hread : blkAt (modBlk n f s) m = entryInForce s m (mapAt (freeEntry (inCarrel s m)) m
      (mapPut (freeEntry (inCarrel s n)) n (f (blkAt s n)) s.blk.table)) := rfl
  rw [hread]
  by_cases hm : m = n
  · subst hm
    rw [mapAt_mapPut_eq, if_pos rfl, if_pos rfl]
  · rw [mapAt_mapPut, if_neg hm, if_neg hm, blkAt_eq_entryInForce]

theorem modBlk_entryChanged (n : Nat) (f : BlockEntry → BlockEntry) (s : State) : EntryChanged n s (modBlk n f s) :=
  ⟨rfl, fun m hm => by rw [blkAt_modBlk, if_neg hm]⟩

end Sys2Proof.Machine
end

section
/-! PROOFS. Victims of weeding and rotation (R92, R93, R95, R98, R101): which one is taken, and what its copy event
does. -/

namespace Sys2Proof.Machine

/-- A block stripe that is taken becomes VICTIM with its list unread and joins the victims; cards, map and Ledger
stay. -/
theorem takeVictim_facts (g n : Nat) (forced : Bool) (s : State) :
    (blkAt (takeVictim g n forced s) n).state = 3 ∧ (blkAt (takeVictim g n forced s) n).examined = 0 ∧
      (takeVictim g n forced s).blk.victims = s.blk.victims ++
        [{ planeGroup := g, entry := n, rotation := false, forced := forced, dest := none }] ∧
      (takeVictim g n forced s).wr = s.wr ∧ (takeVictim g n forced s).cat = s.cat ∧
      (takeVictim g n forced s).led = s.led := by
  have hentry : blkAt (takeVictim g n forced s) n =
      entryInForce s n { blkAt s n with state := 3, examined := 0 } :=
    (blkAt_modBlk n n (fun b => { b with state := 3, examined := 0 }) s).trans (if_pos rfl)
  rw [hentry]
  exact ⟨entryInForce_state (show 3 ≠ 0 by decide), rfl, rfl, rfl, rfl, rfl⟩

section
variable {s : State} {g : Nat} (hserve : serving s = true) (hmode : s.mode.mode ≠ .preserve)
include hserve hmode

theorem exec_weedingVictimSelect_forced {n : Nat} {l : List Nat} (hfree : victimBusy s g false = false)
    (hforced : forcedFull s g = n :: l) : exec (.weedingVictimSelect g) s = .next (takeVictim g n true s) := by
  change execWeedingVictimSelect g s = _
  simp [execWeedingVictimSelect, moversRun, hserve, hmode, hfree, hforced]

theorem exec_weedingVictimSelect_scored {n : Nat} (hfree : victimBusy s g false = false)
    (hforced : forcedFull s g = []) (hon : weedingOn s g = true) (hmost : mostBy (score s) (scored s g) = some n) :
    exec (.weedingVictimSelect g) s = .next (takeVictim g n false s) := by
  change execWeedingVictimSelect g s = _
  simp [execWeedingVictimSelect, moversRun, hserve, hmode, hfree, hforced, hon, hmost]

end

theorem exec_weedingVictimSelect_none {s : State} {g : Nat}
    (h : victimBusy s g false = true ∨ (forcedFull s g = [] ∧ weedingOn s g = false)) :
    exec (.weedingVictimSelect g) s = .next s := by
  change execWeedingVictimSelect g s = _
  rcases h with hbusy | ⟨hforced, hoff⟩
  · simp [execWeedingVictimSelect, hbusy]
  · simp [execWeedingVictimSelect, hforced, hoff]

theorem exec_weedingCopy_reads {s : State} (g : Nat) (fresh : Bool) (picks : List Nat) (hreads : moverReads s = true) :
    exec (.weedingCopy g fresh picks) s = .next (match victimNow s g with
      | none => recountVictims s
      | some v => recountVictims (copyVictim v (choices fresh picks s) s)) := by
  change execWeedingCopy g fresh picks s = _
  rw [execWeedingCopy, hreads]
  rfl

/-- The state once the plane groups in rotation are looked at for group `g`. -/
def lookedAt (g : Nat) (s : State) : State := { s with blk := { s.blk with rotating := rotatingNow s g } }

/-- Which groups are in rotation tells nothing of the victims that still have cards. -/
theorem victimBusy_lookedAt (s : State) (g h : Nat) (rotation : Bool) :
    victimBusy (lookedAt g s) h rotation = victimBusy s h rotation := rfl

section
variable {s : State} {g : Nat} (hserve : serving s = true) (hmode : s.mode.mode ≠ .preserve)
  (hwarm : s.mode.mode ≠ .warming) (hgroup : g < groupCount s)
include hserve hmode hwarm hgroup

/-- In Service or Degraded the group is looked at; it takes a victim when it is in rotation and has none. -/
theorem exec_rotationStart_looks : exec (.rotationStart g) s =
    .next (if ! (rotatingNow s g).contains g || victimBusy s g true then lookedAt g s
      else match rotationVictim (lookedAt g s) g with
        | some n => takeRotation g n (lookedAt g s)
        | none => lookedAt g s) := by
  change execRotationStart g s = _
  have hruns : (! moversRun s || s.mode.mode = .preserve || s.mode.mode = .warming ||
      decide (groupCount s ≤ g)) = false := by
    simp [moversRun, hserve, hmode, hwarm, hgroup]
  rw [execRotationStart, if_neg (ne_true_of_eq_false hruns)]
  rfl

theorem exec_rotationStart_takes {n : Nat} (hin : (rotatingNow s g).contains g = true)
    (hfree : victimBusy s g true = false) (hvictim : rotationVictim (lookedAt g s) g = some n) :
    exec (.rotationStart g) s = .next (takeRotation g n (lookedAt g s)) := by
  rw [exec_rotationStart_looks hserve hmode hwarm hgroup, hin, hfree, hvictim]
  rfl

theorem exec_rotationStart_out (hout : (rotatingNow s g).contains g = false) :
    exec (.rotationStart g) s = .next (lookedAt g s) := by
  rw [exec_rotationStart_looks hserve hmode hwarm hgroup, hout]
  rfl

end

/-- Settles O34: each command is one branch of its choice of a victim, and what a forced victim changes is
`takeVictim_facts`. -/
theorem victimsAreTakenInOrder : Obligations.VictimsAreTakenInOrder := by
  refine ⟨?forced, ?scored, fun s g => exec_weedingVictimSelect_none, ?copies, ?noVictim, ?rotates, ?out⟩
  case forced =>
    intro s g n l hserve hmode hfree hforced
    exact ⟨_, exec_weedingVictimSelect_forced hserve hmode hfree hforced, takeVictim_facts g n true s⟩
  case scored =>
    intro s g n hserve hmode hfree hforced hon hmost
    exact exec_weedingVictimSelect_scored hserve hmode hfree hforced hon hmost
  case copies =>
    intro s g v fresh picks hreads hvictim
    rw [exec_weedingCopy_reads g fresh picks hreads, hvictim]
  case noVictim =>
    intro s g fresh picks hreads hvictim
    rw [exec_weedingCopy_reads g fresh picks hreads, hvictim]
  case rotates =>
    intro s g n hserve hmode hwarm hgroup hin hfree hvictim
    exact exec_rotationStart_takes hserve hmode hwarm hgroup hin hfree hvictim
  case out =>
    intro s g hserve hmode hwarm hgroup hout
    exact exec_rotationStart_out hserve hmode hwarm hgroup hout

end Sys2Proof.Machine
end

section
/-! PROOFS. Erases that join their dies' queues (R86, R97, R120): what queuing does to each die, and the job it is
for. -/

namespace Sys2Proof.Machine

/-- The erase of block stripe `n` at the end of a die's queue. -/
def queueErase (n : Nat) (s : State) (d : Die) : State :=
  modDie d.channel d.target (fun x => { x with eraseQ := x.eraseQ ++ [n] }) s

/-- The erase of block stripe `n` at the end of the queue of each of the dies. -/
def queueErases (n : Nat) (dies : List Die) (s : State) : State := dies.foldl (queueErase n) s

theorem queueErases_rest (n : Nat) (dies : List Die) (s : State) :
    queueErases n dies s = { s with fl := (queueErases n dies s).fl } := by
  have hkeep := foldl_keeps (fun t : State => { t with fl := s.fl }) (queueErase n) (fun _ _ => rfl) dies s
  exact congrArg (fun t : State => { t with fl := (queueErases n dies s).fl }) hkeep

/-- A die's queue grows by one erase for each time the die is among those of the erase. -/
theorem dieAt_queueErases (n : Nat) (dies : List Die) (s : State) (a b : Nat) :
    dieAt (queueErases n dies s) a b = (dieAt s a b).map fun x => { x with
      eraseQ := x.eraseQ ++ List.replicate (dies.countP fun d => d.channel = a && d.target = b) n } := by
  induction dies generalizing s with
  | nil => simp [queueErases]
  | cons d dies ih =>
    obtain ⟨-, hdie⟩ : DieChanged d.channel d.target _ s (queueErase n s d) :=
      modDie_changed _ _ _ s fun _ => ⟨rfl, rfl⟩
    have hstep : queueErases n (d :: dies) s = queueErases n dies (queueErase n s d) := rfl
    rw [hstep, ih, hdie]
    by_cases h : d.channel = a ∧ d.target = b
    · obtain ⟨rfl, rfl⟩ := h
      simp [Function.comp_def, List.replicate_succ]
    · have hother : ¬ (a = d.channel ∧ b = d.target) := fun ⟨ha, hb⟩ => h ⟨ha.symm, hb.symm⟩
      simp [h, hother]

/-- Every die of the erase has it in its queue. -/
theorem mem_eraseQ_of_queueErases {n : Nat} {dies : List Die} {s : State} {d : Die} (hd : d ∈ dies)
    (hdie : ∃ x, dieAt s d.channel d.target = some x) :
    ∃ x, dieAt (queueErases n dies s) d.channel d.target = some x ∧ n ∈ x.eraseQ := by
  obtain ⟨x, hx⟩ := hdie
  have hcount : dies.countP (fun y => y.channel = d.channel && y.target = d.target) ≠ 0 :=
    (List.countP_pos_iff.mpr ⟨d, hd, by simp⟩).ne'
  refine ⟨_, by rw [dieAt_queueErases, hx]; rfl, ?_⟩
  exact List.mem_append_right _ (List.mem_replicate.mpr ⟨hcount, rfl⟩)

/-- A die that is read under a number carries it. -/
theorem dieAt_numbers {s : State} {a b : Nat} {d : Die} (hd : dieAt s a b = some d) :
    dieAt s d.channel d.target = some d := by
  have hnumbers : d.channel = a ∧ d.target = b := by simpa using List.find?_some hd
  rw [hnumbers.1, hnumbers.2, hd]

theorem dieAt_of_mem_eraseDies {s : State} {n : Nat} {d : Die} (hd : d ∈ eraseDies s n) :
    dieAt s d.channel d.target = some d := by
  obtain ⟨e, -, he⟩ := List.mem_filterMap.mp hd
  exact dieAt_numbers he

theorem dieAt_of_mem_reeraseDies {s : State} {j : EraseJob} {d : Die} (hd : d ∈ reeraseDies s j) :
    dieAt s d.channel d.target = some d := by
  obtain ⟨e, -, he⟩ := List.mem_filterMap.mp hd
  split at he
  · exact dieAt_numbers he
  · contradiction

/-! ## The job of an erase -/

theorem jobOf_modJob {n : Nat} {f : EraseJob → EraseJob} (hf : ∀ j, (f j).entry = j.entry) (s : State) :
    jobOf (modJob n f s) n = (jobOf s n).map f := by
  have hentry (j : EraseJob) : decide ((if decide (j.entry = n) then f j else j).entry = n) = decide (j.entry = n) := by
    split <;> simp [hf]
  rw [jobOf, modJob, find?_modWhere _ _ _ _ hentry]
  exact Option.map_congr fun j hj => if_pos (List.find?_some (p := fun x : EraseJob => decide (x.entry = n)) hj)

/-- The job of an erase that has joined its dies' queues is the job as it is changed then. -/
theorem jobOf_modJob_queueErases {n : Nat} {f : EraseJob → EraseJob} {s : State} {j : EraseJob} (dies : List Die)
    (hf : ∀ j, (f j).entry = j.entry) (hjob : jobOf s n = some j) :
    jobOf (modJob n f (queueErases n dies s)) n = some (f j) := by
  have hsame : jobOf (queueErases n dies s) n = jobOf s n := by rw [queueErases_rest]; rfl
  rw [jobOf_modJob hf, hsame, hjob]
  rfl

end Sys2Proof.Machine
end

section
/-! PROOFS. The erase of a block stripe (R50, R86, R88, R96, R97): its gate, its intent, its end, and the re-erase at
start-up. -/

namespace Sys2Proof.Machine

/-! ## The gate (R50, R96) -/

section
variable {s : State} {n : Nat} (hfull : systemFull s n = false) (hwants : sanitizeWants s n = false)
include hfull hwants

theorem exec_eraseGateOpen_closed (hgate : gateHolds s n = false) : exec (.eraseGateOpen n) s = .next s := by
  change execEraseGateOpen n s = _
  simp [execEraseGateOpen, hfull, hwants, hgate]

variable (hserve : serving s = true) (hgate : gateHolds s n = true) (hapart : keptApart s n = false)
include hserve hgate hapart

/-- Behind an open gate only a system block stripe with cards that must stay is not erased; it is chosen for reclaim. -/
theorem exec_eraseGateOpen_open : exec (.eraseGateOpen n) s =
    .next (if (blkAt s n).stream = 3 ∧ mustStay s n = true then modBlk n (fun b => { b with forced := true }) s
      else eraseIntent n s) := by
  change execEraseGateOpen n s = _
  by_cases hstream : (blkAt s n).stream = 3
  · simp [execEraseGateOpen, moversRun, hfull, hwants, hserve, hgate, hapart, hstream]
  · simp [execEraseGateOpen, moversRun, hfull, hwants, hserve, hgate, hapart, hstream]

end

/-! ## The intent and the end (R97) -/

section
variable {s : State} {n : Nat} {j : EraseJob} (hjob : jobOf s n = some j)
include hjob

theorem exec_eraseIntentDurable_starts (hserve : serving s = true) (hissued : j.issued = false)
    (hrestart : j.restart = false) (hprog : j.intent ≤ s.led.progSeq)
    (hroom : ((eraseDies s n).any fun d => decide (4 ≤ d.eraseQ.length)) = false) :
    exec (.eraseIntentDurable n) s = .next (modJob n (fun x => { x with issued := true, atUs := s.clock.us })
      (queueErases n (eraseDies s n) s)) := by
  change execEraseIntentDurable n s = _
  simp only [execEraseIntentDurable, hjob, moversRun, hserve, hissued, hrestart, hroom, Nat.not_lt.mpr hprog]
  rfl

theorem exec_eraseIntentDurable_waits (hprog : s.led.progSeq < j.intent) :
    exec (.eraseIntentDurable n) s = .next s := by
  change execEraseIntentDurable n s = _
  simp [execEraseIntentDurable, hjob, hprog]

theorem exec_blockEraseDone_ended (bad : List Nat) (hserve : serving s = true) (hissued : j.issued = true)
    (hended : s.fl.dies.any (eraseWaits n) = false) :
    exec (.blockEraseDone n bad) s = .next (if j.restart then
      reeraseEnded j ((bad ++ j.failed).eraseDups) (clearErase n s)
      else eraseEnds n ((bad ++ j.failed).eraseDups) (clearErase n s)) := by
  change execBlockEraseDone n bad s = _
  simp only [execBlockEraseDone, hjob, moversRun, hserve, hissued, hended]
  rfl

end

/-! ## The re-erase (R88) -/

section
variable {s : State} {n : Nat} {j : EraseJob} (bad : List Nat) (hjob : jobOf s n = some j) (hserve : serving s = true)
  (hrestart : j.restart = true) (hissued : j.issued = false)
include hjob hserve hrestart hissued

/-- A round of the re-erase begins: the first, or the second once its check has failed. -/
theorem exec_startupReerase_round (hphase : j.phase = 0 ∨ j.phase = 3) :
    exec (.startupReerase n bad) s = .next (startReerase j s) := by
  change execStartupReerase n bad s = _
  rcases hphase with h | h <;> simp [execStartupReerase, hjob, moversRun, hserve, hrestart, hissued, h]

theorem exec_startupReerase_goodCheck (hphase : j.phase = 2) (hgood : bad ++ j.failed = []) :
    exec (.startupReerase n bad) s = .next (eraseEnds n [] s) := by
  change execStartupReerase n bad s = _
  simp [execStartupReerase, hjob, moversRun, hserve, hrestart, hissued, hphase, hgood]

theorem exec_startupReerase_secondCheck (hphase : 3 < j.phase) :
    exec (.startupReerase n bad) s = .next (eraseEnds n ((bad ++ j.failed).eraseDups) s) := by
  change execStartupReerase n bad s = _
  have h0 : j.phase ≠ 0 := by omega
  have h2 : j.phase ≠ 2 := by omega
  have h3 : j.phase ≠ 3 := by omega
  simp [execStartupReerase, hjob, moversRun, hserve, hrestart, hissued, h0, h2, h3]

end

theorem startReerase_room {s : State} {j : EraseJob}
    (hroom : ((reeraseDies s j).any fun d => decide (4 ≤ d.eraseQ.length)) = false) :
    startReerase j s = modJob j.entry (fun x => { x with issued := true, phase := x.phase + 1, atUs := s.clock.us })
      (queueErases j.entry (reeraseDies s j) s) := by
  rw [startReerase, hroom]
  rfl

theorem exec_erase_noJob {s : State} {n : Nat} (bad : List Nat) (hjob : jobOf s n = none) :
    exec (.eraseIntentDurable n) s = .next s ∧ exec (.blockEraseDone n bad) s = .next s ∧
      exec (.startupReerase n bad) s = .next s := by
  refine ⟨?_, ?_, ?_⟩
  · change execEraseIntentDurable n s = _
    rw [execEraseIntentDurable, hjob]
  · change execBlockEraseDone n bad s = _
    rw [execBlockEraseDone, hjob]
  · change execStartupReerase n bad s = _
    rw [execStartupReerase, hjob]

/-- Settles O35: the gate decides between reclaim and intent, the erases of a programmed intent are `queueErases`, and
each step of the re-erase is one phase of its job. -/
theorem erasesPassTheirGate : Obligations.ErasesPassTheirGate := by
  refine ⟨fun s n => exec_eraseGateOpen_closed, ?intent, ?reclaim, ?starts, fun s n j => exec_eraseIntentDurable_waits,
    ?ends, ?reerase, ?rounds, fun s n bad => exec_erase_noJob bad⟩
  case intent =>
    intro s n hfull hwants hserve hgate hapart hstream
    rw [exec_eraseGateOpen_open hfull hwants hserve hgate hapart, if_neg fun h => hstream h.1]
  case reclaim =>
    intro s n hfull hwants hserve hgate hapart hstream hstays
    refine ⟨modBlk n (fun b => { b with forced := true }) s, ?_, modBlk_entryChanged .., ?_, rfl⟩
    · rw [exec_eraseGateOpen_open hfull hwants hserve hgate hapart, if_pos ⟨hstream, hstays⟩]
    · rw [blkAt_modBlk, if_pos rfl, entryInForce_forced]
  case starts =>
    intro s n j hserve hjob hissued hrestart hprog hroom
    have hrest := queueErases_rest n (eraseDies s n) s
    refine ⟨_, exec_eraseIntentDurable_starts hjob hserve hissued hrestart hprog hroom, ?_, ?_, ?_, fun d hd => ?_⟩
    · rw [hrest]; rfl
    · exact jobOf_modJob_queueErases _ (fun _ => rfl) hjob
    · rw [hrest]; rfl
    · exact mem_eraseQ_of_queueErases hd ⟨d, dieAt_of_mem_eraseDies hd⟩
  case ends =>
    intro s n j bad hserve hjob hissued hended
    exact exec_blockEraseDone_ended hjob bad hserve hissued hended
  case reerase =>
    intro s n j bad hserve hjob hrestart hissued
    exact ⟨fun h => exec_startupReerase_round bad hjob hserve hrestart hissued (.inl h),
      fun h hbad hfailed => exec_startupReerase_goodCheck bad hjob hserve hrestart hissued h (by simp [hbad, hfailed]),
      fun h => exec_startupReerase_round bad hjob hserve hrestart hissued (.inr h),
      exec_startupReerase_secondCheck bad hjob hserve hrestart hissued⟩
  case rounds =>
    intro s j hjob hroom
    rw [startReerase_room hroom]
    exact ⟨jobOf_modJob_queueErases _ (fun _ => rfl) hjob,
      fun d hd => mem_eraseQ_of_queueErases hd ⟨d, dieAt_of_mem_reeraseDies hd⟩⟩

end Sys2Proof.Machine
end

section
/-! PROOFS. The end of a lane rebuild (R102, R188): Degraded outlasts it while a lost echelon member waits for its
rebuild. -/

namespace Sys2Proof.Machine

/-- The lane's rebuild leaves the list of rebuilds. -/
def dropRebuild (lane : Nat) (s : State) : State :=
  { s with blk := { s.blk with rebuilds := s.blk.rebuilds.filter fun r => r.lane != lane } }

/-- A lane rebuild in step 2 with no wide block stripe left ends, and Service and Degraded follow the rebuilds. -/
theorem exec_laneRebuildEnd_ends {s : State} {lane : Nat} (hserve : serving s = true) (hmode : s.mode.mode ≠ .preserve)
    (hstep : s.blk.rebuilds.any (fun r => r.lane = lane && decide (r.step = 2)) = true)
    (hwide : wideStripes s lane = []) :
    exec (.laneRebuildEnd lane) s = .next (settleDegraded (dropRebuild lane s)) := by
  change execLaneRebuildEnd lane s = _
  simp only [execLaneRebuildEnd, moversRun, hserve, hmode, hstep, hwide]
  rfl

/-- Degraded stays the mode while an echelon member of this part is out and its rebuild has not begun. -/
theorem settleDegraded_mode_of_memberLost {s : State} (hmode : s.mode.mode = .degraded) (hlost : memberLost s = true) :
    (settleDegraded s).mode.mode = .degraded := by
  simp [settleDegraded, hmode, hlost]

/-- An echelon of this part and of member 5, which is out. -/
def echelonWithLost : EchelonSt :=
  { echelon := 0
    view := { viewNum := 1, echelon := 0, holder := 0, places := [(0, 1), (5, 4)] }
    storing := false, waiting := false, unreach := false, dropped := false, ana := 2, pointer := 0, stored := 0
    reports := [], refDigest := 0 }

/-- The last lane rebuild, at step 2. -/
def lastRebuild : LaneRebuild := { lane := 0, step := 2, dies := [(3, 0)] }

/-- The part, member 0, in Degraded with that rebuild under way while member 5 of its echelon is out. -/
def rebuildWithMemberLost : State :=
  { State.reset with
    mode := { State.reset.mode with mode := .degraded, degraded := true }
    blk := { State.reset.blk with rebuilds := [lastRebuild] }
    pel := { State.reset.pel with self := 0 }
    ech := { State.reset.ech with ech := [echelonWithLost] } }

/-- Refutes O36 (R188, log entry 118): the fifth clause has the end of the last lane rebuild return Degraded to Service,
but the model keeps Degraded while an echelon member is out whose rebuild has not begun, and the clause does not rule
that out. -/
theorem not_laneRebuildsAndRetirement : ¬ Obligations.LaneRebuildsAndRetirement := by
  rintro ⟨-, -, -, -, hends, -⟩
  obtain ⟨t, hexec, -, hservice, -⟩ := hends rebuildWithMemberLost 0 lastRebuild rfl rfl rfl rfl rfl rfl
  have hresult : exec (.laneRebuildEnd 0) rebuildWithMemberLost =
      .next (settleDegraded (dropRebuild 0 rebuildWithMemberLost)) :=
    exec_laneRebuildEnd_ends rfl (by decide) rfl rfl
  obtain rfl : settleDegraded (dropRebuild 0 rebuildWithMemberLost) = t := by injection hresult.symm.trans hexec
  have hdegraded := settleDegraded_mode_of_memberLost (s := dropRebuild 0 rebuildWithMemberLost) rfl rfl
  exact absurd (hdegraded.symm.trans hservice) (by decide)

end Sys2Proof.Machine
end

section
/-! PROOFS. Dies and channels after a change (R116, R120): what `modDie` and `modChan` leave, and the operations on one die
that keep its numbers. -/

namespace Sys2Proof.Machine

/-! ## A channel that changes -/

theorem chanAt_modChan (ch : Nat) (f : Channel → Channel) (s : State) (k : Nat) :
    chanAt (modChan ch f s) k = if k = ch then (chanAt s k).map f else chanAt s k := by
  unfold modChan
  split
  · next hchan => by_cases hk : k = ch <;> simp [hk, hchan]
  · next c hchan =>
    have hget : chanAt { s with fl := { s.fl with chans := mapSet ch (f c) s.fl.chans } } k =
        if k = ch then some (f c) else chanAt s k := mapGet_mapSet ch (f c) k s.fl.chans
    rw [hget]
    by_cases hk : k = ch <;> simp [hk, hchan]

theorem chanAt_modChan_same {s : State} {ch : Nat} {c : Channel} (f : Channel → Channel) (hchan : chanAt s ch = some c) :
    chanAt (modChan ch f s) ch = some (f c) := by
  rw [chanAt_modChan, if_pos rfl, hchan]
  rfl

theorem modChan_rest (ch : Nat) (f : Channel → Channel) (s : State) :
    modChan ch f s = { s with fl := { s.fl with chans := (modChan ch f s).fl.chans } } := by
  unfold modChan
  split <;> rfl

@[simp] theorem modChan_dies (ch : Nat) (f : Channel → Channel) (s : State) : (modChan ch f s).fl.dies = s.fl.dies := by
  rw [modChan_rest]

@[simp] theorem modChan_nv (ch : Nat) (f : Channel → Channel) (s : State) : (modChan ch f s).nv = s.nv := by
  rw [modChan_rest]

@[simp] theorem modChan_cat (ch : Nat) (f : Channel → Channel) (s : State) : (modChan ch f s).cat = s.cat := by
  rw [modChan_rest]

@[simp] theorem modChan_lib (ch : Nat) (f : Channel → Channel) (s : State) : (modChan ch f s).lib = s.lib := by
  rw [modChan_rest]

/-- A Daybook record leaves the channels and dies. -/
@[simp] theorem record_fl (event : Nat) (payload : List (Nat × Nat)) (s : State) : (record event payload s).fl = s.fl := by
  rw [record_rest]

theorem chanAt_congr {s t : State} (hfl : t.fl = s.fl) (ch : Nat) : chanAt t ch = chanAt s ch :=
  congrArg (fun fl : Flash => mapGet ch fl.chans) hfl

theorem dieAt_congr {s t : State} (hdies : t.fl.dies = s.fl.dies) (ch tg : Nat) : dieAt t ch tg = dieAt s ch tg := by
  rw [dieAt, hdies, dieAt]

/-! ## A die that changes -/

/-- The die that changed, read again. -/
theorem DieChanged.dieAt_same {ch tg : Nat} {f : Die → Die} {s t : State} {d : Die} (h : DieChanged ch tg f s t)
    (hdie : dieAt s ch tg = some d) : dieAt t ch tg = some (f d) := by
  obtain ⟨-, hdies⟩ := h
  rw [hdies, if_pos ⟨rfl, rfl⟩, hdie]
  rfl

theorem dieAt_modDie_same {s : State} {ch tg : Nat} {f : Die → Die} {d : Die}
    (hf : ∀ x, (f x).channel = x.channel ∧ (f x).target = x.target) (hdie : dieAt s ch tg = some d) :
    dieAt (modDie ch tg f s) ch tg = some (f d) :=
  (modDie_changed ch tg f s hf).dieAt_same hdie

/-- A fold of changes that keep a die's numbers keeps them. -/
theorem foldl_numbers {α : Type} {f : Die → α → Die}
    (hf : ∀ d a, (f d a).channel = d.channel ∧ (f d a).target = d.target) (l : List α) (d : Die) :
    (l.foldl f d).channel = d.channel ∧ (l.foldl f d).target = d.target := by
  induction l generalizing d with
  | nil => exact ⟨rfl, rfl⟩
  | cons a l ih =>
    obtain ⟨hch, htg⟩ := ih (f d a)
    exact ⟨hch.trans (hf d a).1, htg.trans (hf d a).2⟩

theorem takeRead1_numbers {s : State} {fresh : Bool} {d x : Die} (h : takeRead1 s fresh d = some x) :
    x.channel = d.channel ∧ x.target = d.target := by
  unfold takeRead1 at h
  dsimp only at h
  split at h
  · contradiction
  · injection h with h
    subst h
    exact ⟨rfl, rfl⟩

theorem groupReads_numbers (s : State) (fuel : Nat) (fresh : Bool) (d : Die) :
    (groupReads s fuel fresh d).channel = d.channel ∧ (groupReads s fuel fresh d).target = d.target := by
  induction fuel generalizing fresh d with
  | zero => exact ⟨rfl, rfl⟩
  | succ fuel ih =>
    unfold groupReads
    split
    · exact ⟨rfl, rfl⟩
    · next x hx =>
      obtain ⟨hch, htg⟩ := takeRead1_numbers hx
      obtain ⟨hch', htg'⟩ := ih true x
      exact ⟨hch'.trans hch, htg'.trans htg⟩

theorem unqueue_numbers (d : Die) (o : ArrayOp) : (unqueue d o).channel = d.channel ∧ (unqueue d o).target = d.target := by
  cases o <;> exact ⟨rfl, rfl⟩

theorem beginOp_numbers (o : ArrayOp) (more : List ArrayOp) (cap : Nat) (cycles : List Nat) (d : Die) :
    (beginOp o more cap cycles d).channel = d.channel ∧ (beginOp o more cap cycles d).target = d.target :=
  foldl_numbers unqueue_numbers (o :: more) d

theorem issueSuspended_numbers (s : State) (d : Die) (r : ReadReq) :
    (issueSuspended s d r).channel = d.channel ∧ (issueSuspended s d r).target = d.target := ⟨rfl, rfl⟩

end Sys2Proof.Machine
end

section
/-! PROOFS. What a die starts, waits for and suspends (R119, R120, R122 to R125). Log entries 133 and 134 are the model's
choices here: the reads a suspension takes, and an issue that waits for a calibration of its target. -/

namespace Sys2Proof.Machine

/-! ## Issue (R120 to R122, R126) -/

theorem calibrateFirst_notWaiting {s : State} {ch tg : Nat} (hzq : zqWaits s ch tg = false) :
    calibrateFirst ch tg s = s := by
  simp [calibrateFirst, hzq]

theorem calibrateFirst_busy {s : State} {ch tg : Nat} (hbusy : ceIdle s ch (ceOf tg) = false) :
    calibrateFirst ch tg s = s := by
  simp [calibrateFirst, hbusy]

section
variable {s : State} {ch tg : Nat} {d : Die} (hdie : dieAt s ch tg = some d)
include hdie

theorem exec_flashReadIssue_issues (htakes : dieTakes s d = true) (htime : readTime d = true)
    (hcoast : s.mode.mode ≠ .coast) (hgate : ch ∉ s.mode.gates.tiles) (hzq : zqWaits s ch tg = false) :
    exec (.flashReadIssue ch tg) s = .next (modDie ch tg (groupReads s (4 * planesOf s) false) s) := by
  change execFlashReadIssue ch tg s = _
  simp [execFlashReadIssue, hdie, htakes, htime, hcoast, hgate, calibrateFirst_notWaiting hzq, hzq]

/-- While a calibration waits for its busy target no read of the target is issued. -/
theorem exec_flashReadIssue_calibrationWaits (hzq : zqWaits s ch tg = true) (hbusy : ceIdle s ch (ceOf tg) = false) :
    exec (.flashReadIssue ch tg) s = .next s := by
  change execFlashReadIssue ch tg s = _
  simp [execFlashReadIssue, hdie, calibrateFirst_busy hbusy, hzq]

/-- While a calibration waits for its busy target no program or erase of the target is issued. -/
theorem exec_arrayOpIssue_calibrationWaits (hzq : zqWaits s ch tg = true) (hbusy : ceIdle s ch (ceOf tg) = false)
    (hserve : dieServes s ch tg = true) : exec (.arrayOpIssue ch tg) s = .next s := by
  change execArrayOpIssue ch tg s = _
  simp [execArrayOpIssue, hdie, calibrateFirst_busy hbusy, hzq, hserve]

theorem exec_arrayOpIssue_issues {o : ArrayOp} (hrun : tilesRun s = true) (hserve : dieServes s ch tg = true)
    (hgate : ch ∉ s.mode.gates.tiles) (htakes : dieTakes s d = true) (hfree : d.op = none)
    (hturn : d.readQ = [] ∨ limited1 d ≠ none) (hzq : zqWaits s ch tg = false) (hnext : nextArrayOp s d = some o) :
    exec (.arrayOpIssue ch tg) s = .next (modDie ch tg
      (beginOp o (joinedWith s d o) (capOf s o) (opCycles s ch (o :: joinedWith s d o))) s) := by
  change execArrayOpIssue ch tg s = _
  have hcan : (! dieTakes s d || d.op.isSome || (! d.readQ.isEmpty && (limited1 d).isNone)) = false := by
    rcases hturn with hreads | hlimit
    · simp [htakes, hfree, hreads]
    · simp [htakes, hfree, Option.isSome_iff_ne_none.mpr hlimit]
  simp [execArrayOpIssue, hdie, hrun, hserve, hgate, hcan, calibrateFirst_notWaiting hzq, hzq, hnext]

/-- A die that is busy, or has reads first, starts no program and no erase. -/
theorem exec_arrayOpIssue_notNow (hserve : dieServes s ch tg = true)
    (hbusy : d.op ≠ none ∨ (d.readQ ≠ [] ∧ limited1 d = none)) : exec (.arrayOpIssue ch tg) s = .next s := by
  change execArrayOpIssue ch tg s = _
  have hcannot : (! dieTakes s d || d.op.isSome || (! d.readQ.isEmpty && (limited1 d).isNone)) = true := by
    rcases hbusy with hop | ⟨hreads, hlimit⟩
    · simp [Option.isSome_iff_ne_none.mpr hop]
    · simp [hreads, hlimit]
  simp [execArrayOpIssue, hdie, hserve, hcannot]

/-! ## The issue and erase limits (R122) -/

theorem exec_issueLimitExpiry_notes (hqueued : d.progQ ≠ [] ∨ d.eraseQ ≠ []) (hcoast : s.mode.mode ≠ .coast)
    (hlimit : limited1 d = none) :
    exec (.issueLimitExpiry ch tg) s = .next (modDie ch tg (fun x => { x with limitNext := longestWait s d }) s) := by
  change execIssueLimitExpiry ch tg s = _
  have hwaits : (longestWait s d).isNone = false := by
    unfold longestWait
    cases hprog : d.progQ <;> cases herase : d.eraseQ
    case nil.nil => simp [hprog, herase] at hqueued
    all_goals rfl
  simp [execIssueLimitExpiry, hdie, hwaits, hlimit, hcoast]

theorem exec_issueLimitExpiry_noted (hlimit : limited1 d ≠ none) : exec (.issueLimitExpiry ch tg) s = .next s := by
  change execIssueLimitExpiry ch tg s = _
  simp [execIssueLimitExpiry, hdie, Option.isSome_iff_ne_none.mpr hlimit]

theorem exec_eraseWaitExpiry_notes (hqueued : d.eraseQ ≠ []) (hcoast : s.mode.mode ≠ .coast) :
    exec (.eraseWaitExpiry ch tg) s = .next (modDie ch tg (fun x => { x with eraseNext := true }) s) := by
  change execEraseWaitExpiry ch tg s = _
  simp [execEraseWaitExpiry, hdie, hqueued, hcoast]

/-! ## Suspension (R123 to R125) -/

/-- A class 0 read that has waited its limit suspends a program or erase past its minimum run, up to the cap; at the cap
the wait is counted. -/
theorem exec_readWaitLimitExpiry_eq {cap run : Nat} (ran : Nat) (htakes : dieTakes s d = true)
    (hreads : class0 (readsSeen d) ≠ []) (hcoast : s.mode.mode ≠ .coast) (hrule : suspendRule s d = some (cap, run)) :
    exec (.readWaitLimitExpiry ch tg ran) s = .next (if d.suspends < cap then
      if run ≤ ran then bumpSusp ch (modDie ch tg suspendDie s) else s
      else bumpCapped ch s) := by
  change execReadWaitLimitExpiry ch tg ran s = _
  simp [execReadWaitLimitExpiry, hdie, htakes, hreads, hcoast, hrule]

theorem exec_suspendReady_issues (hsuspending : d.suspending = true) (hreset : d.resetting = false) :
    exec (.suspendReady ch tg) s = .next (modDie ch tg (fun x =>
      { x.suspReads.foldl (issueSuspended s) { x with cycles := [] } with
        suspending := false, suspended := x.op, op := some (.reads x.suspReads), suspReads := [] }) s) := by
  change execSuspendReady ch tg s = _
  simp [execSuspendReady, hdie, hsuspending, hreset]

theorem exec_suspendedReadsDone_resumes {o : ArrayOp} (hsuspended : d.suspended = some o) (hreads : readsOn d = [])
    (hreset : d.resetting = false) :
    exec (.suspendedReadsDone ch tg) s = .next (modDie ch tg (fun x => { x with
      cycles := resumeCycles x.suspended, op := x.suspended, suspended := none }) s) := by
  change execSuspendedReadsDone ch tg s = _
  simp [execSuspendedReadsDone, hdie, hsuspended, hreads, hreset]

end

/-- Settles O37: each command is `modDie` of its one die by an operation that keeps the die's numbers, and the wait for a
suspension also counts in the channel. -/
theorem dieOperationsChangeTheirDieAlone : Obligations.DieOperationsChangeTheirDieAlone := by
  refine ⟨?reads, ?calibration, ?starts, ?notNow, ?limit, fun s ch tg d => exec_issueLimitExpiry_noted, ?eraseWait,
    ?suspend, ?ready, ?resume⟩
  case reads =>
    intro s ch tg d hdie htakes htime hcoast hgate hzq
    exact ⟨_, exec_flashReadIssue_issues hdie htakes htime hcoast hgate hzq,
      modDie_changed _ _ _ _ fun x => groupReads_numbers s _ false x⟩
  case calibration =>
    intro s ch tg d hdie hzq hbusy
    exact ⟨exec_flashReadIssue_calibrationWaits hdie hzq hbusy, exec_arrayOpIssue_calibrationWaits hdie hzq hbusy⟩
  case starts =>
    intro s ch tg d o hdie hrun hserve hgate htakes hfree hturn hzq hnext
    have hchanged := modDie_changed ch tg _ s
      (beginOp_numbers o (joinedWith s d o) (capOf s o) (opCycles s ch (o :: joinedWith s d o)))
    exact ⟨_, exec_arrayOpIssue_issues hdie hrun hserve hgate htakes hfree hturn hzq hnext, hchanged,
      _, hchanged.dieAt_same hdie, rfl, rfl, rfl, rfl⟩
  case notNow =>
    intro s ch tg d hdie _ hserve hbusy
    exact exec_arrayOpIssue_notNow hdie hserve hbusy
  case limit =>
    intro s ch tg d hdie hqueued hcoast hlimit
    exact ⟨_, exec_issueLimitExpiry_notes hdie hqueued hcoast hlimit, modDie_changed _ _ _ _ fun _ => ⟨rfl, rfl⟩⟩
  case eraseWait =>
    intro s ch tg d hdie hqueued hcoast
    exact ⟨_, exec_eraseWaitExpiry_notes hdie hqueued hcoast, modDie_changed _ _ _ _ fun _ => ⟨rfl, rfl⟩⟩
  case suspend =>
    intro s ch tg ran cap run d c hdie htakes hreads hcoast hrule hchan
    have hexec := exec_readWaitLimitExpiry_eq hdie ran htakes hreads hcoast hrule
    refine ⟨fun hcap hran => ?issued, fun hcap hran => ?tooSoon, fun hcap => ?capped⟩
    case issued =>
      rw [if_pos hcap, if_pos hran] at hexec
      refine ⟨_, hexec, ⟨suspendDie d, ?_, rfl, rfl, rfl, rfl⟩, chanAt_modChan_same _ hchan⟩
      rw [bumpSusp, dieAt_congr (modChan_dies ..)]
      exact dieAt_modDie_same (fun _ => ⟨rfl, rfl⟩) hdie
    case tooSoon => rw [hexec, if_pos hcap, if_neg (Nat.not_le.mpr hran)]
    case capped =>
      rw [if_neg (Nat.not_lt.mpr hcap)] at hexec
      exact ⟨_, hexec, modChan_dies .., chanAt_modChan_same _ hchan⟩
  case ready =>
    intro s ch tg d hdie hsuspending hreset
    have hchanged := modDie_changed ch tg (fun x =>
      { x.suspReads.foldl (issueSuspended s) { x with cycles := [] } with
        suspending := false, suspended := x.op, op := some (.reads x.suspReads), suspReads := [] }) s
      fun x => foldl_numbers (issueSuspended_numbers s) x.suspReads { x with cycles := [] }
    exact ⟨_, exec_suspendReady_issues hdie hsuspending hreset, hchanged, _, hchanged.dieAt_same hdie, rfl, rfl, rfl⟩
  case resume =>
    intro s ch tg d o hdie hsuspended hreads hreset
    exact ⟨_, exec_suspendedReadsDone_resumes hdie hsuspended hreads hreset, modDie_changed _ _ _ _ fun _ => ⟨rfl, rfl⟩⟩

end Sys2Proof.Machine
end

section
/-! PROOFS. Timeouts of dies and channel faults (R99, R131, R132, R134). Log entry 60 is the model's choice here: a channel
fault holds every die of its channel as a reset does. -/

namespace Sys2Proof.Machine

/-! ## The timeout of a die (R131) -/

/-- What a timeout does before any request is returned: the die is held and reset, and its channel, log page C1h and the
Daybook count it. -/
def noteTimeout (ch tg : Nat) (o : ArrayOp) (s : State) : State :=
  record 0x0103 [(1, ch), (1, tg), (1, opCode o)] (countC1 14 (modChan ch (fun x => { x with
    tout := sat32 (x.tout + 1)
    toutAt := (x.toutAt.filter fun y => decide (s.clock.us ≤ 100000 + y.2)) ++ [(tg, s.clock.us)] })
    (modDie ch tg (holdDie s.clock.us) s)))

theorem dieAt_noteTimeout {s : State} {ch tg : Nat} {d : Die} (o : ArrayOp) (hdie : dieAt s ch tg = some d) :
    dieAt (noteTimeout ch tg o s) ch tg = some (holdDie s.clock.us d) := by
  have hdies : (noteTimeout ch tg o s).fl.dies = (modDie ch tg (holdDie s.clock.us) s).fl.dies := by
    simp [noteTimeout, countC1]
  rw [dieAt_congr hdies]
  exact dieAt_modDie_same (fun _ => ⟨rfl, rfl⟩) hdie

theorem noteTimeout_counts {s : State} {ch : Nat} {c : Channel} (tg : Nat) (o : ArrayOp) (hchan : chanAt s ch = some c) :
    ∃ y, chanAt (noteTimeout ch tg o s) ch = some y ∧ y.tout = sat32 (c.tout + 1) := by
  have hheld : chanAt (modDie ch tg (holdDie s.clock.us) s) ch = some c := hchan
  exact ⟨_, (chanAt_congr (record_fl ..) ch).trans (chanAt_modChan_same _ hheld), rfl⟩

section
variable {s : State} {ch tg : Nat} {d : Die} (hdie : dieAt s ch tg = some d)
include hdie

theorem exec_dieTimeout_coast {o : ArrayOp} (hop : d.op = some o) (hreset : d.resetting = false)
    (hrun : tilesRun s = true) (hcoast : s.mode.mode = .coast) :
    exec (.dieTimeout ch tg) s =
      .next ((programsOf (begun d) ++ d.progQ).foldl (fun t p => coastFail p t) (noteTimeout ch tg o s)) := by
  change execDieTimeout ch tg s = _
  simp [execDieTimeout, hdie, hop, hreset, hrun, hcoast, noteTimeout]

theorem exec_dieTimeout_awake {o : ArrayOp} (hop : d.op = some o) (hreset : d.resetting = false)
    (hrun : tilesRun s = true) (hcoast : s.mode.mode ≠ .coast) :
    exec (.dieTimeout ch tg) s = .next (resumeAll ((programsOf (begun d) ++ d.progQ).foldl
      (fun t p => failUnit ch tg p [] t) (unavailable (d.readQ ++ d.suspReads) (noteTimeout ch tg o s)))) := by
  change execDieTimeout ch tg s = _
  simp [execDieTimeout, hdie, hop, hreset, hrun, hcoast, noteTimeout]

theorem exec_dieTimeout_idle (hop : d.op = none) : exec (.dieTimeout ch tg) s = .next s := by
  change execDieTimeout ch tg s = _
  simp [execDieTimeout, hdie, hop]

/-! ## The end of the reset (R131, R132) -/

theorem exec_resetLunDone_ends {c : Channel} (hchan : chanAt s ch = some c) (hreset : d.resetting = true) :
    exec (.resetLunDone ch tg) s = .next (settleTimeout d (modDie ch tg (fun x => { x with
      resetting := false, timedOut := none, joined := [], held := tooMany s d || c.held }) s)) := by
  change execResetLunDone ch tg s = _
  simp [execResetLunDone, hdie, hchan, hreset]

theorem exec_resetLunDone_noReset (hreset : d.resetting = false) : exec (.resetLunDone ch tg) s = .next s := by
  change execResetLunDone ch tg s = _
  cases hchan : chanAt s ch <;> simp [execResetLunDone, hdie, hchan, hreset]

theorem exec_dieNotAnswering_held {cause : Nat} (hheld : d.held = true) (hcause : cause ≤ 1)
    (hcoast : s.mode.mode ≠ .coast) (hrun : tilesRun s = true) :
    exec (.dieNotAnswering ch tg cause) s = .next (resumeAll (settleChannel ch (askRetire ch tg 2
      (settleTimeout d (modDie ch tg (fun x => { x with resetting := false, timedOut := none, joined := [] }) s))))) := by
  change execDieNotAnswering ch tg cause s = _
  have hle : ¬ 2 < cause := by omega
  have hne : cause ≠ 2 := by omega
  simp [execDieNotAnswering, hdie, hheld, hle, hne, hcoast, hrun]

theorem exec_dieNotAnswering_notHeld (cause : Nat) (hheld : d.held = false) :
    exec (.dieNotAnswering ch tg cause) s = .next s := by
  change execDieNotAnswering ch tg cause s = _
  simp [execDieNotAnswering, hdie, hheld]

end

/-- A program that timed out has been returned as failed already, so the end of the reset settles nothing more. -/
theorem settleTimeout_nothing {d : Die} (h : d.timedOut = none ∨ ∃ p, d.timedOut = some (.program p)) (s : State) :
    settleTimeout d s = s := by
  rcases h with hnone | ⟨p, hprog⟩
  · simp [settleTimeout, hnone]
  · simp [settleTimeout, hprog]

/-! ## Channel faults (R134) -/

/-- The channel of a fault before its retraining ends: its dies are held, it is reset and opened for training. -/
def retrainChannel (ch : Nat) (s : State) : State :=
  openChannel ch true (modChan ch (fun x => { x with held := true, iface := [] }) (holdChannel ch s))

section
variable {s : State} {ch : Nat} {c : Channel} (hchan : chanAt s ch = some c)
include hchan

theorem exec_channelFault_notSeen (r : TrainResult) (hfault : faultSeen c = false) :
    exec (.channelFault ch r) s = .next s := by
  change execChannelFault ch r s = _
  simp [execChannelFault, hchan, hfault]

variable {r : TrainResult} (hfault : faultSeen c = true) (hcoast : s.mode.mode ≠ .coast) (hrun : tilesRun s = true)
  (hnumber : r.channel = ch)
include hfault hcoast hrun hnumber

theorem exec_channelFault_retires (hset : trainedSet s r c.inForce.timingSet = 0) :
    exec (.channelFault ch r) s = .next (resumeAll (retireChannelDies ch 3 (retrainChannel ch s))) := by
  change execChannelFault ch r s = _
  simp [execChannelFault, hchan, hfault, hcoast, hrun, hnumber, hset, retrainChannel]

/-- Retraining that passes at the set in force releases the channel; the dies that do not answer are retired. -/
theorem exec_channelFault_goesOn (hset : trainedSet s r c.inForce.timingSet = c.inForce.timingSet)
    (hpasses : c.inForce.timingSet ≠ 0) :
    exec (.channelFault ch r) s = .next (resumeAll (settleChannel ch (r.missing.foldl (fun t x => askRetire ch x 2 t)
      (releaseChannel ch (takeTraining r c.inForce.timingSet (retrainChannel ch s)))))) := by
  change execChannelFault ch r s = _
  simp [execChannelFault, hchan, hfault, hcoast, hrun, hnumber, hset, hpasses, retrainChannel]

end

/-- Settles O38: a timeout is `noteTimeout` and then the return of what the die had, the end of a reset is `settleTimeout`,
and a channel fault is `retrainChannel` and then what its training showed. -/
theorem timedOutDiesAreHeldAndRetired : Obligations.TimedOutDiesAreHeldAndRetired := by
  refine ⟨?timeout, fun s ch tg d => exec_dieTimeout_idle, ?frees, fun s ch tg d c hdie => exec_resetLunDone_ends hdie,
    fun s ch tg d => exec_resetLunDone_noReset, fun s ch tg cause d hdie => exec_dieNotAnswering_held hdie,
    fun s ch tg cause d hdie => exec_dieNotAnswering_notHeld hdie cause, ?retires, ?goesOn,
    fun s ch r c hchan => exec_channelFault_notSeen hchan r⟩
  case timeout =>
    intro s u ch tg d o c hdie hop hreset hrun hchan hu
    obtain rfl : u = noteTimeout ch tg o s := hu
    exact ⟨dieAt_noteTimeout o hdie, noteTimeout_counts tg o hchan, exec_dieTimeout_coast hdie hop hreset hrun,
      exec_dieTimeout_awake hdie hop hreset hrun⟩
  case frees =>
    intro s ch tg d c hdie hchan hreset hsettled
    have hexec := exec_resetLunDone_ends hdie hchan hreset
    rw [settleTimeout_nothing hsettled] at hexec
    exact ⟨_, hexec, modDie_changed _ _ _ _ fun _ => ⟨rfl, rfl⟩⟩
  case retires =>
    intro s u ch r c hchan hfault hcoast hrun hnumber hu hset
    obtain rfl : u = retrainChannel ch s := hu
    exact exec_channelFault_retires hchan hfault hcoast hrun hnumber hset
  case goesOn =>
    intro s u ch r c hchan hfault hcoast hrun hnumber hu hset hpasses
    obtain rfl : u = retrainChannel ch s := hu
    exact exec_channelFault_goesOn hchan hfault hcoast hrun hnumber hset hpasses

end Sys2Proof.Machine
end

section
/-! PROOFS. Roster syncs (R117, R118, R239), ZQ calibration (R126) and re-centring (R130). Log entry 134 is the model's
choice here: a calibration is noted due until its target is idle. -/

namespace Sys2Proof.Machine

/-! ## A Roster change and its sync (R117, R118) -/

theorem chanAt_askSync {s : State} {ch : Nat} {c : Channel} (hchan : chanAt s ch = some c) :
    chanAt (askSync ch s) ch = some { c with sync := decide (s.lib.state = 0) || c.sync } := by
  unfold askSync
  split
  · next hlib => rw [chanAt_modChan_same _ hchan, hlib]; rfl
  · next hlib => simpa [chanAt, hlib] using hchan

/-- The copy in DRAM changes and its generation rises; the entry in force stays. -/
theorem chanAt_changeRoster {s : State} {ch : Nat} {c : Channel} (f : Roster → Roster) (hchan : chanAt s ch = some c) :
    chanAt (changeRoster ch f s) ch = some { c with
      copy := { f c.copy with generation := (c.copy.generation + 1) % 65536, zqInterval := fld s 0x650 }
      sync := decide (s.lib.state = 0) || c.sync } := by
  rw [changeRoster, chanAt_askSync (chanAt_modChan_same _ hchan), modChan_lib]

/-- With the Librarian running the change and its sync are two changes of the channel. -/
theorem changeRoster_running {s : State} (ch : Nat) (f : Roster → Roster) (hlib : s.lib.state = 0) :
    changeRoster ch f s = modChan ch (fun c => { c with sync := true }) (modChan ch (fun c => { c with
      copy := { f c.copy with generation := (c.copy.generation + 1) % 65536, zqInterval := fld s 0x650 } }) s) := by
  rw [changeRoster, askSync, modChan_lib, if_pos hlib]

theorem exec_rosterSync_running {s : State} (ch : Nat) (hrun : tilesRun s = true) (hlib : s.lib.state = 0) :
    exec (.rosterSync ch) s = .next (changeRoster ch (fun r => r) s) := by
  change execRosterSync ch s = _
  simp [execRosterSync, hrun, hlib]

section
variable {s : State} {ch : Nat} {c : Channel} (hchan : chanAt s ch = some c) (hsync : c.sync = true)
  (hrun : tilesRun s = true)
include hchan hsync hrun

theorem exec_rosterLoad_good : exec (.rosterLoad ch true) s = .next (retireDone ch (modChan ch loadRoster s)) := by
  change execRosterLoad ch true s = _
  simp [execRosterLoad, hchan, hsync, hrun]

theorem exec_rosterLoad_bad : exec (.rosterLoad ch false) s = .next (record 0x0105
    [(1, ch), (2, c.copy.generation), (1, 0)] (modChan ch (fun x => { x with sync := false }) s)) := by
  change execRosterLoad ch false s = _
  simp [execRosterLoad, hchan, hsync, hrun]

end

theorem exec_rosterLoad_noSync {s : State} {ch : Nat} {c : Channel} (ok : Bool) (hchan : chanAt s ch = some c)
    (hsync : c.sync = false) : exec (.rosterLoad ch ok) s = .next s := by
  change execRosterLoad ch ok s = _
  simp [execRosterLoad, hchan, hsync]

/-! ## The Retire command that waits for a load (R239) -/

theorem retireDone_none {s : State} (ch : Nat)
    (hnone : (s.nv.cmds.filter fun x => x.qid = 0 && x.phase = .running && x.e.opcode = 0xC4) = []) :
    retireDone ch s = s := by
  have hmine : (s.nv.cmds.filter fun x => x.qid = 0 && x.phase = .running && x.e.opcode = 0xC4 &&
      bitsOf x.e.dw10 13 8 = ch) = [] := by
    rw [List.filter_eq_nil_iff] at hnone ⊢
    intro x hx hpick
    exact hnone x hx (Bool.and_eq_true_iff.mp hpick).1
  simp only [retireDone, slotsWhere, hmine]
  rfl

/-- The one Retire command of a channel completes with the generation that is in force there. -/
theorem retireDone_one {s : State} {ch slot : Nat} {c : Channel} {x : Cmd} (hchan : chanAt s ch = some c)
    (hcmd : cmdAt s slot = some x)
    (hone : (s.nv.cmds.filter fun y => y.qid = 0 && y.phase = .running && y.e.opcode = 0xC4 &&
      bitsOf y.e.dw10 13 8 = ch) = [x]) :
    retireDone ch s = finishOk slot c.inForce.generation s := by
  simp only [retireDone, slotsWhere, hone, hchan]
  rw [← cmdAt_slot hcmd]
  rfl

/-! ## ZQ calibration (R126) -/

theorem exec_zqIntervalExpiry_asks {s : State} {ch ce : Nat} (hrun : tilesRun s = true) (hdies : ceDies s ch ce ≠ []) :
    exec (.zqIntervalExpiry ch ce) s = .next (askCalibrate ch ce s) := by
  change execZqIntervalExpiry ch ce s = _
  simp [execZqIntervalExpiry, hrun, hdies]

theorem askCalibrate_idle {s : State} {ch ce : Nat} (hidle : ceIdle s ch ce = true) :
    askCalibrate ch ce s = calibrate ch ce s := if_pos hidle

theorem askCalibrate_busy {s : State} {ch ce : Nat} (hbusy : ceIdle s ch ce = false) :
    askCalibrate ch ce s =
      modChan ch (fun c => { c with zqDue := if c.zqDue.contains ce then c.zqDue else c.zqDue ++ [ce] }) s :=
  if_neg (ne_true_of_eq_false hbusy)

theorem calibrate_rest (ch ce : Nat) (s : State) : calibrate ch ce s = { s with fl := (calibrate ch ce s).fl } := by
  unfold calibrate
  rw [modChan_rest]

theorem calibrate_dies (ch ce : Nat) (s : State) : (calibrate ch ce s).fl.dies = s.fl.dies.map fun x =>
    if x.channel = ch ∧ ceOf x.target = ce then
      { x with cycles := (if x.caching then [0x3F] else []) ++ [0xD9], caching := false, lastPage := none } else x := by
  simp [calibrate]

/-- A calibration is counted, is due no longer, and its mean temperature is kept. -/
theorem chanAt_calibrate {s : State} {ch : Nat} {c : Channel} (ce : Nat) (hchan : chanAt s ch = some c) :
    chanAt (calibrate ch ce s) ch = some { c with
      zqDone := c.zqDone + 1, zqDue := c.zqDue.filter (fun x => x != ce)
      zqTemp := match meanTemp (ceDies s ch ce) with
        | some m => mapSet ce m c.zqTemp
        | none => c.zqTemp } :=
  chanAt_modChan_same _ hchan

theorem mem_zqDue_noted (ce : Nat) (l : List Nat) : ce ∈ if l.contains ce then l else l ++ [ce] := by
  split
  · next hin => exact List.contains_iff_mem.mp hin
  · exact List.mem_append_right l (List.mem_singleton_self ce)

theorem exec_dieTempRead_still {s : State} {ch tg : Nat} {temp : Int} (hrun : tilesRun s = true)
    (hstill : zqMoved (modDie ch tg (readTemp s ch temp) s) ch (ceOf tg) = false) :
    exec (.dieTempRead ch tg temp) s = .next (modDie ch tg (readTemp s ch temp) s) := by
  have hread : exec (.dieTempRead ch tg temp) s = .next (if ! tilesRun s then s
      else if zqMoved (modDie ch tg (readTemp s ch temp) s) ch (ceOf tg) then
        askCalibrate ch (ceOf tg) (modDie ch tg (readTemp s ch temp) s)
      else modDie ch tg (readTemp s ch temp) s) := rfl
  rw [hread, hrun, hstill]
  rfl

/-! ## Re-centring (R130) -/

theorem exec_recentreSweep_due {s : State} {ch : Nat} {c : Channel} (l : List CeTrain) (temp : Int)
    (hchan : chanAt s ch = some c) (hserve : serving s = true) (hdue : recentreDue s ch c = true) :
    exec (.recentreSweep ch l temp) s = .next (if sweepPasses s ch [] l then
      changeRoster ch (fun x => { x with trainTemp := temp, training := mergeCentres l x.training }) s
      else modChan ch (fun x => { x with retrainNext := true })
        (record 0x0105 [(1, ch), (2, c.inForce.generation), (1, 1)] s)) := by
  change execRecentreSweep ch l temp s = _
  simp [execRecentreSweep, hchan, hserve, hdue]

/-- Settles O39: syncs and re-centring are `changeRoster`, a load is `loadRoster` with the Retire command that waited, and
calibration is `askCalibrate`. -/
theorem rosterSyncsAndCalibration : Obligations.RosterSyncsAndCalibration := by
  refine ⟨?sync, ?load, ?retire, ?badLoad, fun s ch ok c => exec_rosterLoad_noSync ok, ?calibrates, ?noted, ?temp,
    ?recentres, ?retrains⟩
  case sync =>
    intro s ch c hrun hlib hchan
    refine ⟨_, _, exec_rosterSync_running ch hrun hlib, chanAt_changeRoster _ hchan, by simp [hlib], rfl, rfl,
      fun k hk => ?_, ?_, ?_⟩
    · rw [changeRoster_running ch _ hlib, chanAt_modChan, if_neg hk, chanAt_modChan, if_neg hk]
    · rw [changeRoster_running ch _ hlib, modChan_cat, modChan_cat]
    · rw [changeRoster_running ch _ hlib, modChan_nv, modChan_nv]
  case load =>
    intro s ch c hchan hsync hrun hnone
    have hexec := exec_rosterLoad_good hchan hsync hrun
    rw [retireDone_none ch (by rw [modChan_nv]; exact hnone)] at hexec
    exact ⟨_, hexec, by rw [modChan_rest], chanAt_modChan_same loadRoster hchan⟩
  case retire =>
    intro s ch slot c x hchan hsync hrun hcmd hone
    have hnv : (modChan ch loadRoster s).nv = s.nv := modChan_nv ..
    have hcmd' : cmdAt (modChan ch loadRoster s) slot = some x := by rw [cmdAt, hnv]; exact hcmd
    have hexec := exec_rosterLoad_good hchan hsync hrun
    rw [retireDone_one (chanAt_modChan_same loadRoster hchan) hcmd' (by rw [hnv]; exact hone), finishOk] at hexec
    obtain ⟨hwaiting, hfree⟩ := finish_ended scSuccess c.copy.generation hcmd'
    refine ⟨_, hexec, ?_, by rw [hnv] at hwaiting; exact hwaiting, hfree⟩
    rw [finish_rest, modChan_rest]
  case badLoad =>
    intro s ch c hchan hsync hrun
    refine ⟨_, exec_rosterLoad_bad hchan hsync hrun, ?_, ?_⟩
    · rw [chanAt_congr (record_fl ..)]
      exact chanAt_modChan_same _ hchan
    · rw [record_rest, modChan_rest]
  case calibrates =>
    intro s ch ce c hrun hchan hdies hidle
    have hexec := exec_zqIntervalExpiry_asks hrun hdies
    rw [askCalibrate_idle hidle] at hexec
    exact ⟨_, hexec, calibrate_rest ch ce s, calibrate_dies ch ce s, chanAt_calibrate ce hchan⟩
  case noted =>
    intro s ch ce c hrun hchan hdies hbusy
    have hexec := exec_zqIntervalExpiry_asks hrun hdies
    rw [askCalibrate_busy hbusy] at hexec
    exact ⟨_, _, hexec, by rw [modChan_rest], modChan_dies .., chanAt_modChan_same _ hchan, rfl, mem_zqDue_noted ce c.zqDue⟩
  case temp =>
    intro s ch tg temp hrun hstill
    exact ⟨_, exec_dieTempRead_still hrun hstill, modDie_changed _ _ _ _ fun _ => ⟨rfl, rfl⟩⟩
  case recentres =>
    intro s ch l temp c hchan hserve hdue hpasses
    have hexec := exec_recentreSweep_due l temp hchan hserve hdue
    rw [if_pos hpasses] at hexec
    exact ⟨_, _, hexec, chanAt_changeRoster _ hchan, rfl, rfl, rfl⟩
  case retrains =>
    intro s ch l temp c hchan hserve hdue hfails
    have hexec := exec_recentreSweep_due l temp hchan hserve hdue
    rw [if_neg (ne_true_of_eq_false hfails)] at hexec
    exact ⟨_, _, hexec, chanAt_modChan_same _ ((chanAt_congr (record_fl ..) ch).trans hchan), rfl, rfl⟩

end Sys2Proof.Machine
end

section
/-! PROOFS. The end of a read, the escalation contexts, the ladder's steps and the cipher units (R142, R147, R150, R151,
R245, R249). Log entry 36 is the model's choice here: a codeword handed over at step 3 or 6 is entered afresh, at any other
step not at all. -/

namespace Sys2Proof.Machine

/-! ## The end of a read (R140, R151) -/

theorem exec_flashReadDone_ends {s : State} {ch tg : Nat} {d : Die} {r : ReadReq} {rest : List ReadReq}
    {o : DecodeOutcome} (w : Bool) (hdie : dieAt s ch tg = some d) (hop : d.op = some (.reads (r :: rest)))
    (hreset : d.resetting = false) (hunit : o = .unavailable ∨ unitFree s r = true) :
    exec (.flashReadDone ch tg o w) s = .next (endRead r o w (useDecoder s r
      (modDie ch tg (fun x => { x with op := afterRead d rest, cycles := dataCycles }) s))) := by
  change execFlashReadDone ch tg o w s = _
  have hdecodes : (o != .unavailable && ! unitFree s r) = false := by
    rcases hunit with rfl | hfree
    · rfl
    · simp [hfree]
  simp [execFlashReadDone, hdie, hop, hreset, hdecodes]

/-! ## A codeword enters a context (R150, R151) -/

theorem enterWord_takesContext {w : LadderWord} {s : State} (hctx : ctxOf s w.ppa = none)
    (hfree : s.esc.contexts.length < 256) (hqueue : s.esc.queue = []) : enterWord w s = newCtx w s := by
  simp [enterWord, hctx, hfree, hqueue]

/-- The context that a codeword opens. -/
def ownContext (w : LadderWord) (s : State) : EscContext :=
  let k := stripeKey s w.ppa
  { lane := k.1, block := k.2.1, plane := k.2.2.1, page := k.2.2.2, words := [{ w with places := 0 }], budget := false }

theorem newCtx_eq (w : LadderWord) (s : State) : newCtx w s = ladderRead w.ppa (leaveIdle
    { s with esc := { s.esc with contexts := s.esc.contexts ++ [ownContext w s] } }) := rfl

theorem ctxKey_ownContext (w : LadderWord) (s : State) : ctxKey (ownContext w s) = stripeKey s w.ppa := rfl

theorem wordOf_ownContext {w : LadderWord} {s t : State} (hctx : ctxOf s w.ppa = none)
    (hcontexts : t.esc.contexts = s.esc.contexts ++ [ownContext w s]) (hkey : stripeKey t w.ppa = stripeKey s w.ppa) :
    wordOf t w.ppa = some { w with places := 0 } := by
  have hown : ctxOf t w.ppa = some (ownContext w s) := by
    rw [ctxOf] at hctx
    rw [ctxOf, hcontexts, hkey, List.find?_append, hctx]
    simp [ctxKey_ownContext]
  simp [wordOf, hown, ownContext]

/-- At step 6 and later a codeword has no read of its own to issue. -/
theorem ladderRead_pastReads {s : State} {ppa : Ppa} {w : LadderWord} (hword : wordOf s ppa = some w) (hstep : 5 < w.step) :
    ladderRead ppa s = s := by
  simp [ladderRead, hword, hstep]

theorem newCtx_pastReads {w : LadderWord} {s : State} (hctx : ctxOf s w.ppa = none) (hstep : 5 < w.step) :
    newCtx w s = leaveIdle { s with esc := { s.esc with contexts := s.esc.contexts ++ [ownContext w s] } } := by
  rw [newCtx_eq]
  exact ladderRead_pastReads (wordOf_ownContext hctx rfl rfl) hstep

/-- The decoder that gave up on the codeword hands it over. -/
def takeFailed (w : LadderWord) (s : State) : State :=
  { s with esc := { s.esc with failed := dropFirst (fun x => x = w) s.esc.failed } }

theorem ctxOf_takeFailed (w : LadderWord) (s : State) (p : Ppa) : ctxOf (takeFailed w s) p = ctxOf s p := rfl

section
variable {s : State} {ppa : Ppa} (hawake : awake s = true) (hcoast : s.mode.mode ≠ .coast)
include hawake hcoast

theorem exec_escalationEntry_failed {w : LadderWord} (cls step : Nat)
    (hfailed : s.esc.failed.find? (fun x => x.ppa = ppa) = some w) :
    exec (.escalationEntry ppa cls step) s = .next (enterWord w (takeFailed w s)) := by
  change execEscalationEntry ppa cls step s = _
  simp [execEscalationEntry, hawake, hcoast, hfailed, takeFailed]

variable (hfailed : s.esc.failed.find? (fun x => x.ppa = ppa) = none)
include hfailed

theorem exec_escalationEntry_handedOver {step : Nat} (cls : Nat) (hstep : step = 3 ∨ step = 6) :
    exec (.escalationEntry ppa cls step) s = .next (enterWord
      { ppa := ppa, step := step, cls := min cls 1, why := [.nobody], decoded := decide (step = 3), places := 0 } s) := by
  change execEscalationEntry ppa cls step s = _
  simp [execEscalationEntry, hawake, hcoast, hfailed, hstep]

theorem exec_escalationEntry_otherStep {step : Nat} (cls : Nat) (hnot3 : step ≠ 3) (hnot6 : step ≠ 6) :
    exec (.escalationEntry ppa cls step) s = .next s := by
  change execEscalationEntry ppa cls step s = _
  simp [execEscalationEntry, hawake, hcoast, hfailed, hnot3, hnot6]

end

/-! ## A context frees, and its budget elapses (R143, R150) -/

theorem serveQueue_nothing (fuel : Nat) {s : State} (hqueue : s.esc.queue = []) : serveQueue fuel s = s := by
  cases fuel <;> simp [serveQueue, hqueue]

theorem admitStalled_nothing (fuel : Nat) {s : State} (hstalled : s.esc.stalled = []) : admitStalled fuel s = s := by
  cases fuel <;> simp [admitStalled, hstalled]

theorem find?_emptyContext {l : List EscContext} {c : EscContext} (hmem : c ∈ l) (hempty : c.words = [])
    (honly : ∀ x, x ∈ l → x.lane = c.lane → x.block = c.block → x.page = c.page → x = c) :
    l.find? (fun x => x.lane = c.lane && x.block = c.block && x.page = c.page && x.words.isEmpty) = some c := by
  cases hfind : l.find? _ with
  | none => exact absurd (List.find?_eq_none.mp hfind c hmem) (by simp [hempty])
  | some x =>
    have hplace := List.find?_some hfind
    simp only [Bool.and_eq_true, decide_eq_true_eq] at hplace
    obtain ⟨⟨⟨hlane, hblock⟩, hpage⟩, -⟩ := hplace
    rw [honly x (List.mem_of_find?_eq_some hfind) hlane hblock hpage]

theorem exec_contextFree_alone {s : State} {c : EscContext} {lane block page : Nat} (hqueue : s.esc.queue = [])
    (hstalled : s.esc.stalled = []) (hfind : s.esc.contexts.find? (fun x => x.lane = lane && x.block = block &&
      x.page = page && x.words.isEmpty) = some c) :
    exec (.contextFree lane block page) s =
      .next { s with esc := { s.esc with contexts := dropFirst (fun x => x = c) s.esc.contexts } } := by
  change execContextFree lane block page s = _
  simp [execContextFree, hfind, serveQueue_nothing, admitStalled_nothing, hqueue, hstalled]

theorem expireFirst_append {p : EscContext → Bool} {a : List EscContext} {c : EscContext} (b : List EscContext)
    (hbefore : ∀ x, x ∈ a → p x = false) (hfirst : p c = true) :
    expireFirst p (a ++ c :: b) = a ++ { c with budget := true } :: b := by
  induction a with
  | nil => simp [expireFirst, hfirst]
  | cons x a ih =>
    have hrest := ih fun y hy => hbefore y (List.mem_cons_of_mem x hy)
    simp [expireFirst, hbefore x List.mem_cons_self, hrest]

theorem exec_escalationBudgetExpiry (lane block page : Nat) (s : State) :
    exec (.escalationBudgetExpiry lane block page) s = .next { s with esc := { s.esc with
      contexts := expireFirst (fun c => c.lane = lane && c.block = block && c.page = page && ! c.budget)
        s.esc.contexts } } := rfl

/-! ## The end of a step (R142, R147) -/

theorem exec_ladderStepDone_word {s : State} {ppa : Ppa} {w : LadderWord} (fresh : Bool) (picks : List Nat)
    (hrun : tilesRun s = true) (hcoast : s.mode.mode ≠ .coast) (hword : wordOf s ppa = some w) :
    exec (.ladderStepDone ppa fresh picks) s =
      .next (resumeAll (ladderStep w (natAt (choices fresh picks s) 0) s)) := by
  change execLadderStepDone ppa fresh picks s = _
  simp [execLadderStepDone, hrun, hcoast, hword]

theorem exec_ladderStepDone_noWord {s : State} {ppa : Ppa} (fresh : Bool) (picks : List Nat) (hword : wordOf s ppa = none) :
    exec (.ladderStepDone ppa fresh picks) s = .next s := by
  change execLadderStepDone ppa fresh picks s = _
  simp [execLadderStepDone, hword]

theorem ladderStep_retries {w : LadderWord} (pick : Nat) (s : State) (hstep : w.step ≤ 5) :
    ladderStep w pick s = retryStep w s := if_pos hstep

theorem ladderStep_rebuilds {w : LadderWord} (pick : Nat) (s : State) (hstep : w.step = 6) :
    ladderStep w pick s = rebuildStep w pick s := by
  simp [ladderStep, hstep]

theorem ladderStep_marks {w : LadderWord} (pick : Nat) (s : State) (hstep : 7 ≤ w.step) :
    ladderStep w pick s = foxStep w pick s := by
  rw [ladderStep, if_neg (by omega), if_neg (by omega)]

/-! ## The cipher units (R245 to R247, R249) -/

section
variable {s : State} {core slot kind : Nat} (hawake : awake s = true) (hcore : core ≤ 23) (hslot : slot ≤ 1023)
  (hkind : kind ≤ 2) (hfence : core ∉ s.key.fenced)
include hawake hcore hslot hkind hfence

theorem exec_cipherUnit_wrongLength {len : Nat} (hlen : len ≠ 4096) : exec (.cipherUnit core slot len kind) s =
    .next { s with key := { s.key with sticky := s.key.sticky ||| 0x8 } } := by
  change execCipherUnit core slot len kind s = _
  simp [execCipherUnit, hawake, hcore, hslot, hkind, hfence, hlen]

theorem exec_cipherUnit_runs {k : Nat} (hnotTest : slot ≠ 1023) (hkey : keyLoaded s slot = some k) :
    exec (.cipherUnit core slot 4096 kind) s =
      .next (useUnit 3 core { s with key := { s.key with unitsRun := mapSet core k s.key.unitsRun } }) := by
  change execCipherUnit core slot 4096 kind s = _
  simp [execCipherUnit, hawake, hcore, hslot, hkind, hfence, hnotTest, hkey]

end

theorem core_ungated_useUnit (core : Nat) (s : State) : core ∉ (useUnit 3 core s).mode.gates.cores := by
  simp [useUnit, ungate]

theorem exec_cipherUnitDone_some {s : State} {ppa : Ppa} {x : Ppa × ReadFor} (intact : Bool)
    (hunit : s.esc.cipherIn.find? (fun y => y.1 = ppa) = some x) :
    exec (.cipherUnitDone ppa intact) s = .next (endUnit1 ppa x.2 intact
      { s with esc := { s.esc with cipherIn := dropFirst (fun y => y = x) s.esc.cipherIn } }) := by
  change execCipherUnitDone ppa intact s = _
  simp [execCipherUnitDone, hunit]

theorem exec_cipherUnitDone_none {s : State} {ppa : Ppa} (intact : Bool)
    (hunit : s.esc.cipherIn.find? (fun y => y.1 = ppa) = none) : exec (.cipherUnitDone ppa intact) s = .next s := by
  change execCipherUnitDone ppa intact s = _
  simp [execCipherUnitDone, hunit]

/-- Settles O40: a failed codeword opens its context by `newCtx`, which at step 6 issues no read; an empty context is
dropped; a step's end is `ladderStep`; a cipher unit of 4,096 bytes with a loaded key is `useUnit` of its core. -/
theorem ladderAndCipherUnits : Obligations.LadderAndCipherUnits := by
  refine ⟨fun s ch tg d r rest o w => exec_flashReadDone_ends w, ?opens,
    fun s ppa cls step hawake hcoast hfailed => exec_escalationEntry_handedOver hawake hcoast hfailed cls,
    fun s ppa cls step hawake hcoast hfailed => exec_escalationEntry_otherStep hawake hcoast hfailed cls, ?frees,
    fun s lane block page => ⟨_, exec_escalationBudgetExpiry lane block page s, rfl, rfl⟩, ?expires, ?steps,
    fun s ppa fresh picks => exec_ladderStepDone_noWord fresh picks, ?runs,
    fun s core slot len kind hawake hcore hslot hkind hfence => exec_cipherUnit_wrongLength hawake hcore hslot hkind hfence,
    fun s ppa intact x => exec_cipherUnitDone_some intact, fun s ppa intact => exec_cipherUnitDone_none intact⟩
  case opens =>
    intro s ppa cls step w hawake hcoast hfailed hctx hfree hqueue
    obtain rfl : w.ppa = ppa := by simpa using List.find?_some hfailed
    have hexec := exec_escalationEntry_failed hawake hcoast cls step hfailed
    rw [← ctxOf_takeFailed w] at hctx
    rw [enterWord_takesContext hctx hfree hqueue] at hexec
    refine ⟨hexec, fun hstep => ?_⟩
    rw [newCtx_pastReads hctx (by omega)] at hexec
    exact ⟨_, _, hexec, rfl, rfl, rfl, rfl, rfl, hqueue⟩
  case frees =>
    intro s c hmem hempty hqueue hstalled honly
    exact ⟨_, exec_contextFree_alone hqueue hstalled (find?_emptyContext hmem hempty honly), rfl⟩
  case expires =>
    intro s a b c hcontexts hbudget hbefore
    refine ⟨_, exec_escalationBudgetExpiry c.lane c.block c.page s, ?_⟩
    rw [hcontexts]
    refine expireFirst_append b (fun x hx => ?_) (by simp [hbudget])
    have hmarked := hbefore x hx
    simpa using hmarked
  case steps =>
    intro s ppa fresh picks w hrun hcoast hword
    have hexec := exec_ladderStepDone_word fresh picks hrun hcoast hword
    exact ⟨fun hstep => by rw [hexec, ladderStep_retries _ s hstep],
      fun hstep => by rw [hexec, ladderStep_rebuilds _ s hstep], fun hstep => by rw [hexec, ladderStep_marks _ s hstep]⟩
  case runs =>
    intro s core slot kind k hawake hcore hslot hkind hfence hkey
    exact ⟨_, exec_cipherUnit_runs hawake hcore (by omega) hkind hfence (by omega) hkey, rfl, rfl,
      core_ungated_useUnit core _⟩

end Sys2Proof.Machine
end

section
/-! PROOFS. What the placement of cards and the records of the Ledger leave unchanged (R28, R45, R64, R87, R168): the
mode, Coast's own state and the keys. -/

namespace Sys2Proof.Machine

/-- The mode, Coast's own state and the keys. -/
def modeCoastKeys (s : State) : ModeSt × Coast × Keys := (s.mode, s.coast, s.key)

theorem mode_of_modeCoastKeys {s t : State} (h : modeCoastKeys t = modeCoastKeys s) : t.mode = s.mode :=
  congrArg Prod.fst h

theorem key_of_modeCoastKeys {s t : State} (h : modeCoastKeys t = modeCoastKeys s) : t.key = s.key :=
  congrArg (fun x => x.2.2) h

/-! ## Buffers (R14, R15) -/

@[simp] theorem requestBuffers_engine_modeCoastKeys (set e : Nat) (sizes : List Nat) (s : State) :
    modeCoastKeys (requestBuffers set (.engine e) sizes s) = modeCoastKeys s := by
  unfold requestBuffers
  split <;> rfl

@[simp] theorem askOnce_engine_modeCoastKeys (set e : Nat) (sizes : List Nat) (s : State) :
    modeCoastKeys (askOnce set (.engine e) sizes s) = modeCoastKeys s := by
  unfold askOnce
  split
  · rfl
  · exact requestBuffers_engine_modeCoastKeys ..

@[simp] theorem freeAllOf_modeCoastKeys (who : Requester) (s : State) :
    modeCoastKeys (freeAllOf who s) = modeCoastKeys s := by
  obtain ⟨p, hp⟩ := freeAllOf_rest who s
  rw [hp]; rfl

@[simp] theorem stallRow_modeCoastKeys (n : Nat) (ok : State → Bool) (s : State) :
    modeCoastKeys (stallRow n ok s) = modeCoastKeys s := by
  unfold stallRow
  split
  · rfl
  · dsimp only
    split
    · exact (requestBuffers_engine_modeCoastKeys ..).trans (freeAllOf_modeCoastKeys ..)
    · rfl

/-! ## Rows (R64, R87, R169) -/

@[simp] theorem padCells_modeCoastKeys (id : Nat) (cells : List Nat) (s : State) :
    modeCoastKeys (padCells id cells s) = modeCoastKeys s :=
  (congrArg modeCoastKeys (padCells_withoutRowWork id cells s) :)

@[simp] theorem fillCells_modeCoastKeys (id : Nat) (cells : List Nat) (s : State) :
    modeCoastKeys (fillCells id cells s) = modeCoastKeys s :=
  (congrArg modeCoastKeys (queueReady_withoutRowWork id _) :)

@[simp] theorem openStripe_modeCoastKeys (n stream : Nat) (s : State) :
    modeCoastKeys (openStripe n stream s) = modeCoastKeys s := by
  unfold openStripe
  dsimp only
  split
  · rfl
  · exact (askOnce_engine_modeCoastKeys ..).trans rfl

theorem easeDie_modeCoastKeys {e : LaneEntry} {s t : State} (h : easeDie e s = some t) :
    modeCoastKeys t = modeCoastKeys s := by
  unfold easeDie at h
  split at h
  · cases h
  · dsimp only at h
    split at h
    · cases h
    · obtain rfl := Option.some.inj h
      exact padCells_modeCoastKeys ..

theorem openRowIn_modeCoastKeys {n stream engine : Nat} {s t : State} (h : openRowIn n stream engine s = some t) :
    modeCoastKeys t = modeCoastKeys s := by
  unfold openRowIn at h
  split at h
  · cases h
  · split at h
    · cases h
    · obtain rfl := Option.some.inj h
      rfl

theorem openRowIn_openStripe_modeCoastKeys {n stream engine : Nat} {s t : State}
    (h : openRowIn n stream engine (openStripe n stream s) = some t) : modeCoastKeys t = modeCoastKeys s :=
  (openRowIn_modeCoastKeys h).trans (openStripe_modeCoastKeys ..)

theorem openRowFor_modeCoastKeys {stream engine : Nat} {carrel : Bool} {group : Option Nat} {s t : State}
    (h : openRowFor stream carrel engine group s = some t) : modeCoastKeys t = modeCoastKeys s := by
  unfold openRowFor at h
  dsimp only at h
  split at h
  · exact openRowIn_modeCoastKeys h
  · split at h
    · split at h
      · exact openRowIn_openStripe_modeCoastKeys h
      · cases h
    · split at h
      · cases h
      · split at h
        · cases h
        · exact openRowIn_openStripe_modeCoastKeys h

/-- The row chosen for a card is one of the open ones, or one that `openRowFor` opens. -/
theorem chooseCells_state {stream engine pick : Nat} {carrel run : Bool} {group : Option Nat} {s t : State}
    {r : OpenRow} {cells : List Nat} (h : chooseCells stream carrel engine group run pick s = some (r, cells, t)) :
    t = s ∨ openRowFor stream carrel engine group s = some t := by
  unfold chooseCells at h
  extract_lets rows opened chosen at h
  have hopened (x : OpenRow × State) (hx : opened = some x) : openRowFor stream carrel engine group s = some x.2 := by
    unfold opened at hx
    split at hx
    · cases hx
    · split at hx <;> cases hx
      assumption
  clear_value rows opened
  have hchosen (x : OpenRow × State) (hx : chosen = some x) :
      x.2 = s ∨ openRowFor stream carrel engine group s = some x.2 := by
    unfold chosen at hx
    split at hx
    · cases hx; exact .inl rfl
    · split at hx
      · cases hx; exact .inr (hopened _ rfl)
      · split at hx <;> cases hx
        exact .inl rfl
  clear_value chosen
  split at h
  · cases h
  · cases h
    exact hchosen _ rfl

theorem takeWithin_modeCoastKeys {stream engine pick : Nat} {carrel run : Bool} {group : Option Nat} {r : OpenRow}
    {cells : List Nat} {t : State} (fuel : Nat) : ∀ {s : State},
    takeWithin stream carrel engine group run pick fuel s = some (r, cells, t) → modeCoastKeys t = modeCoastKeys s := by
  induction fuel with
  | zero => intro s h; cases h
  | succ fuel ih =>
    intro s h
    unfold takeWithin at h
    split at h
    · cases h
    · rename_i r' cells' u hchosen
      have hu : modeCoastKeys u = modeCoastKeys s := by
        rcases chooseCells_state hchosen with rfl | hopened
        · rfl
        · exact openRowFor_modeCoastKeys hopened
      dsimp only at h
      split at h
      · obtain ⟨-, -, rfl⟩ : r' = r ∧ cells' = cells ∧ u = t := by simpa using h
        exact hu
      · split at h
        · cases h
        · rename_i heased
          exact (ih h).trans ((easeDie_modeCoastKeys heased).trans hu)

theorem placeSystem_modeCoastKeys {pick : Nat} {data : List Nat} {s t : State} {ppa : Ppa}
    (h : placeSystem pick data s = some (ppa, t)) : modeCoastKeys t = modeCoastKeys s := by
  unfold placeSystem at h
  split at h
  · cases h
  · rename_i htaken
    split at h
    · cases h
    · obtain ⟨-, rfl⟩ := Prod.mk.inj (Option.some.inj h)
      have htake := takeWithin_modeCoastKeys _ htaken
      exact (fillCells_modeCoastKeys ..).trans htake

/-! ## Shelves and their loads (R28, R35, R37, R39) -/

@[simp] theorem dropSegment_modeCoastKeys (g : Segment) (s : State) :
    modeCoastKeys (dropSegment g s) = modeCoastKeys s := by
  unfold dropSegment
  split
  · split
    · exact stallRow_modeCoastKeys ..
    · rename_i hplaced
      have hplace := placeSystem_modeCoastKeys hplaced
      rw [supersede_rest]
      exact hplace
  · rfl

@[simp] theorem evictOne_modeCoastKeys (s : State) : modeCoastKeys (evictOne s) = modeCoastKeys s := by
  have hpassed (l : List Segment) (t : State) : modeCoastKeys (l.foldl
      (fun t g => modSeg g.shelf (fun x => { x with ref := false }) t) t) = modeCoastKeys t := by
    refine foldl_keeps modeCoastKeys _ (fun u g => ?_) l t
    rfl
  unfold evictOne
  dsimp only
  split
  · exact hpassed ..
  · exact (dropSegment_modeCoastKeys ..).trans (hpassed ..)

@[simp] theorem seatSegment_modeCoastKeys (shelf : Nat) (s : State) :
    modeCoastKeys (seatSegment shelf s) = modeCoastKeys s := by
  have hslot : modeCoastKeys (takeSlot s).2 = modeCoastKeys s := by
    unfold takeSlot
    split
    · rfl
    · exact evictOne_modeCoastKeys s
  unfold seatSegment
  split
  · rfl
  · split
    · rfl
    · exact hslot

@[simp] theorem putShelf_modeCoastKeys (shelf : Nat) (st : ShelfSt) (s : State) :
    modeCoastKeys (putShelf shelf st s) = modeCoastKeys s := by
  unfold putShelf
  refine (seatSegment_modeCoastKeys ..).trans ?_
  unfold modIndex
  split
  · split
    · rw [supersede_rest]; rfl
    · rfl
  · rfl

@[simp] theorem applyNow_modeCoastKeys (r : LedgerRec) (s : State) :
    modeCoastKeys (applyNow r s) = modeCoastKeys s := by
  unfold applyNow
  dsimp only
  split
  · rfl
  · rw [shiftValid_rest]
    exact putShelf_modeCoastKeys ..

@[simp] theorem queueRead_modeCoastKeys (r : ReadReq) (s : State) :
    modeCoastKeys (queueRead r s) = modeCoastKeys s := by
  unfold queueRead failWord
  split
  · dsimp only
    split <;> rfl
  · rfl

@[simp] theorem issueLoad_modeCoastKeys (page : Bool) (index : Nat) (s : State) :
    modeCoastKeys (issueLoad page index s) = modeCoastKeys s := by
  unfold issueLoad
  split
  · rfl
  · refine foldl_keeps modeCoastKeys _ (fun t p => ?_) _ s
    split
    · rfl
    · split
      · unfold cardArrived
        split <;> rfl
      · exact queueRead_modeCoastKeys ..

@[simp] theorem startLoadAt_modeCoastKeys (warm page : Bool) (index : Nat) (s : State) :
    modeCoastKeys (startLoadAt warm page index s) = modeCoastKeys s := by
  unfold startLoadAt
  split
  · rfl
  · exact (issueLoad_modeCoastKeys ..).trans ((askOnce_engine_modeCoastKeys ..).trans rfl)

@[simp] theorem loadFor_modeCoastKeys (shelf : Nat) (s : State) :
    modeCoastKeys (loadFor shelf s) = modeCoastKeys s := by
  unfold loadFor startLoad
  split
  · simp
  · split <;> simp

@[simp] theorem enterUpdate_modeCoastKeys (r : LedgerRec) (s : State) :
    modeCoastKeys (enterUpdate r s) = modeCoastKeys s := by
  unfold enterUpdate
  split
  · split
    · exact (loadFor_modeCoastKeys ..).trans rfl
    · rfl
  · simp

/-! ## Records of the Ledger (R45, R66, R169) -/

@[simp] theorem pushRec_modeCoastKeys (r : LedgerRec) (s : State) :
    modeCoastKeys (pushRec r s) = modeCoastKeys s := by
  unfold pushRec publishDurable
  dsimp only
  split
  · exact (enterUpdate_modeCoastKeys ..).trans rfl
  · rfl

@[simp] theorem allocExtent_modeCoastKeys (s : State) : modeCoastKeys (allocExtent s) = modeCoastKeys s := by
  unfold allocExtent
  dsimp only
  split
  · rfl
  · split
    · rfl
    · exact openStripe_modeCoastKeys ..

@[simp] theorem startExtent_modeCoastKeys (first : Bool) (s : State) :
    modeCoastKeys (startExtent first s) = modeCoastKeys s :=
  (pushRec_modeCoastKeys ..).trans ((allocExtent_modeCoastKeys ..).trans rfl)

theorem easeLedger_modeCoastKeys (fuel : Nat) : ∀ {s t : State}, easeLedger fuel s = some t →
    modeCoastKeys t = modeCoastKeys s := by
  induction fuel with
  | zero => intro s t h; cases h
  | succ fuel ih =>
    intro s t h
    unfold easeLedger at h
    dsimp only at h
    split at h
    · rw [Option.some.inj h]
    · split at h
      · rw [Option.some.inj h]
      · split at h
        · cases h
        · rename_i heased
          exact (ih h).trans (easeDie_modeCoastKeys heased)

@[simp] theorem append_modeCoastKeys (r : LedgerRec) (s : State) :
    modeCoastKeys (append r s) = modeCoastKeys s := by
  have hroom : modeCoastKeys (if extentFull s then startExtent false s else s) = modeCoastKeys s := by
    split <;> simp
  unfold append
  split
  · rfl
  · dsimp only
    generalize (if extentFull s then startExtent false s else s) = u at hroom ⊢
    split
    · split
      · exact hroom
      · rename_i heased
        exact (pushRec_modeCoastKeys ..).trans ((easeLedger_modeCoastKeys _ heased).trans hroom)
    · exact (pushRec_modeCoastKeys ..).trans hroom

end Sys2Proof.Machine
end

section
/-! PROOFS. Coast's sequence (R168, R172 to R174): what its entry leaves of the mode, Coast's own state and the keys, and
that the ends of its programs leave all three. Log entry 56 is the model's choice here: steps 1 and 2 are one
step, and the programs of step 3 end together. -/

namespace Sys2Proof.Machine

@[simp] theorem record_modeCoastKeys (event : Nat) (payload : List (Nat × Nat)) (s : State) :
    modeCoastKeys (record event payload s) = modeCoastKeys s := by
  rw [record_rest]; rfl

/-! ## Steps 1 and 2 (R135, R168, R170) -/

@[simp] theorem portsCoast_modeCoastKeys (s : State) : modeCoastKeys (portsCoast s) = modeCoastKeys s := by
  refine foldl_keeps modeCoastKeys _ (fun t p => ?_) _ s
  unfold loseLink
  split
  · rfl
  · dsimp only
    split <;> rfl

@[simp] theorem coastMove_modeCoastKeys (x : TransitCard × Nat × Nat) (s : State) :
    modeCoastKeys (coastMove x s) = modeCoastKeys s := (append_modeCoastKeys ..).trans rfl

@[simp] theorem coastLane_modeCoastKeys (lane : Nat) (s : State) :
    modeCoastKeys (coastLane lane s) = modeCoastKeys s :=
  foldl_keeps modeCoastKeys _ (fun t x => coastMove_modeCoastKeys x t) _ s

@[simp] theorem leaveStacks_modeCoastKeys (s : State) : modeCoastKeys (leaveStacks s) = modeCoastKeys s := by
  unfold leaveStacks
  dsimp only
  refine (foldl_keeps modeCoastKeys _ (fun t r => ?buffer) _ _).trans ?stripes
  case buffer => split <;> rfl
  case stripes => exact foldl_keeps modeCoastKeys _ (fun t n => by rfl) _ s

@[simp] theorem placementEnds_modeCoastKeys (s : State) : modeCoastKeys (placementEnds s) = modeCoastKeys s :=
  (leaveStacks_modeCoastKeys _).trans
    ((foldl_keeps modeCoastKeys _ (fun t l => coastLane_modeCoastKeys l t) _ (dropStalled s)).trans rfl)

@[simp] theorem sealStripes_modeCoastKeys (s : State) : modeCoastKeys (sealStripes s) = modeCoastKeys s := by
  refine foldl_keeps modeCoastKeys _ (fun t r => ?_) _ s
  refine foldl_keeps modeCoastKeys _ (fun u p => ?_) _ t
  dsimp only
  split
  · exact padCells_modeCoastKeys ..
  · rfl

/-! ## Entry (R166, R168, R172) -/

/-- A mode change sets the mode, and leaves Coast's own state and the keys. -/
theorem setMode_coast_key (m : Mode) (s : State) : (setMode m s).coast = s.coast ∧ (setMode m s).key = s.key := by
  unfold setMode
  split
  · exact ⟨rfl, rfl⟩
  · dsimp only
    rw [record_rest]
    exact ⟨rfl, rfl⟩

/-- The device with step 1 done: tiles, ports and Codex die stopped and a hold-up test abandoned. -/
def coastStops (s : State) : State := codexCoast (portsCoast (tilesCoast (abandonTest s)))

/-- From `stopped`, in which the units of `s` have stopped: the mode is Coast, and the entry is noted. -/
def coastNoted (cause : CoastCause) (s stopped : State) : State :=
  setMode .coast { wakeAll stopped with coast := { stopped.coast with
    phase := .none, cause := cause, modeAt := s.mode.mode, entryUs := s.clock.us, perstFacts := none } }

/-- The programs of step 3 are under way. -/
def coastPrograms (s : State) : State := { s with coast := { s.coast with phase := .programs } }

theorem coastRuns_eq (cause : CoastCause) (s : State) : coastRuns cause s =
    sealStripes (coastPrograms (record 0x0003 [(1, causeCode cause)] (placementEnds (coastNoted cause s (coastStops s))))) := by
  unfold coastRuns coastPrograms coastNoted coastStops
  rfl

theorem coastStops_key (s : State) : (coastStops s).key = s.key := by
  have htest : (abandonTest s).key = s.key := by
    unfold abandonTest
    split <;> rfl
  have htiles (t : State) : (tilesCoast t).key = t.key := by rw [tilesCoast]
  have hports (t : State) : (portsCoast t).key = t.key := key_of_modeCoastKeys (portsCoast_modeCoastKeys t)
  have hcodex (t : State) : (codexCoast t).key = t.key := by
    unfold codexCoast
    split <;> rfl
  rw [coastStops, hcodex, hports, htiles, htest]

theorem coastNoted_facts (cause : CoastCause) (s stopped : State) :
    (coastNoted cause s stopped).mode.mode = .coast ∧
    (coastNoted cause s stopped).coast = { stopped.coast with
      phase := .none, cause := cause, modeAt := s.mode.mode, entryUs := s.clock.us, perstFacts := none } ∧
    (coastNoted cause s stopped).key = stopped.key := by
  obtain ⟨hcoast, hkey⟩ := setMode_coast_key .coast { wakeAll stopped with coast := { stopped.coast with
    phase := .none, cause := cause, modeAt := s.mode.mode, entryUs := s.clock.us, perstFacts := none } }
  exact ⟨(setMode_facts ..).1, hcoast, hkey⟩

theorem coastPrograms_modeCoastKeys {s t : State} (h : modeCoastKeys t = modeCoastKeys s) :
    modeCoastKeys (coastPrograms t) = (s.mode, { s.coast with phase := .programs }, s.key) :=
  congrArg (fun x : ModeSt × Coast × Keys => (x.1, { x.2.1 with phase := .programs }, x.2.2)) h

/-- What a whole Coast's entry leaves: the mode is Coast, its programs run, cause, mode left and time of entry are
noted, and the keys stay. -/
theorem coastRuns_facts (cause : CoastCause) (s : State) : (coastRuns cause s).mode.mode = .coast ∧
    (coastRuns cause s).coast.phase = .programs ∧ (coastRuns cause s).coast.cause = cause ∧
    (coastRuns cause s).coast.modeAt = s.mode.mode ∧ (coastRuns cause s).coast.entryUs = s.clock.us ∧
    (coastRuns cause s).key = s.key := by
  obtain ⟨hmode, hcoast, hkey⟩ := coastNoted_facts cause s (coastStops s)
  have hplaced : modeCoastKeys (record 0x0003 [(1, causeCode cause)]
      (placementEnds (coastNoted cause s (coastStops s)))) = modeCoastKeys (coastNoted cause s (coastStops s)) := by
    simp
  have hruns := (sealStripes_modeCoastKeys _).trans (coastPrograms_modeCoastKeys hplaced)
  rw [← coastRuns_eq, hcoast, hkey, coastStops_key] at hruns
  obtain ⟨hrunsMode, hrunsCoast, hrunsKey⟩ := Prod.mk.inj hruns |>.imp_right Prod.mk.inj
  rw [hrunsMode, hrunsCoast, hrunsKey]
  exact ⟨hmode, rfl, rfl, rfl, rfl, rfl⟩

/-! ## Steps 3 and 4 (R53, R168) -/

@[simp] theorem programEnds_modeCoastKeys (p : ProgReq) (s : State) :
    modeCoastKeys (programEnds p s) = modeCoastKeys s := by
  have hstore (r : OpenRow) (u : Nat) (t : State) : modeCoastKeys (storeUnit r u t) = modeCoastKeys t := by
    unfold storeUnit
    dsimp only
    split
    · refine foldl_keeps modeCoastKeys _ (fun t p => ?_) _ t
      rw [storeParity, parityPage_rest]; rfl
    · exact foldl_keeps modeCoastKeys _ (fun t p => by rfl) _ t
  have hend (r : OpenRow) (u : Nat) (t : State) : modeCoastKeys (endUnit r u true t) = modeCoastKeys t := by
    unfold endUnit
    dsimp only
    split <;> rfl
  unfold programEnds
  split
  · rfl
  · rw [hend, hstore]

@[simp] theorem endRow_modeCoastKeys (r : OpenRow) (s : State) : modeCoastKeys (endRow r s) = modeCoastKeys s := by
  have hbuffer : modeCoastKeys (dropRowBuffer r s) = modeCoastKeys s := by
    unfold dropRowBuffer
    split <;> rfl
  unfold endRow
  dsimp only
  split <;> exact hbuffer

@[simp] theorem allProgramsEnd_modeCoastKeys (s : State) :
    modeCoastKeys (allProgramsEnd s) = modeCoastKeys s :=
  (foldl_keeps modeCoastKeys _ (fun t r => endRow_modeCoastKeys r t) _ _).trans
    (foldl_keeps modeCoastKeys _ (fun t p => programEnds_modeCoastKeys p t) _ s :)

@[simp] theorem freeTransit_modeCoastKeys (s : State) : modeCoastKeys (freeTransit s) = modeCoastKeys s := by
  unfold freeTransit
  dsimp only
  refine (foldl_keeps modeCoastKeys _ (fun t g => ?_) _ _).trans rfl
  split
  · rfl
  · exact freeAllOf_modeCoastKeys ..

@[simp] theorem parityPage_modeCoastKeys (n stream : Nat) (q : Bool) (page : Nat) (s : State) :
    modeCoastKeys (parityPage n stream q page s) = modeCoastKeys s := by
  rw [parityPage_rest]; rfl

@[simp] theorem systemParity_modeCoastKeys (p : Ppa) (s : State) :
    modeCoastKeys (systemParity p s) = modeCoastKeys s := by
  rw [systemParity_rest]; rfl

@[simp] theorem sealSystem_modeCoastKeys (p : Ppa) (s : State) :
    modeCoastKeys (sealSystem p s) = modeCoastKeys s := by
  unfold sealSystem
  split <;> simp

@[simp] theorem coastStored_modeCoastKeys (s : State) : modeCoastKeys (coastStored s) = modeCoastKeys s := by
  unfold coastStored
  dsimp only
  exact (freeTransit_modeCoastKeys _).trans
    ((foldl_keeps modeCoastKeys _ (fun t x => by simp) _ _).trans rfl)

@[simp] theorem closeCard_modeCoastKeys (s : State) : modeCoastKeys (closeCard s) = modeCoastKeys s := by
  unfold closeCard
  split
  · rfl
  · obtain ⟨-, hrest, -⟩ := padRecs_appends (512 - openRecords s) s
    rw [hrest]; rfl

@[simp] theorem settleWrites_modeCoastKeys (s : State) : modeCoastKeys (settleWrites s) = modeCoastKeys s := by
  have hready : modeCoastKeys (settleReady s) = modeCoastKeys s :=
    foldl_keeps modeCoastKeys _ (fun t n => by rw [finishCmd_rest]; rfl) _ s
  unfold settleWrites closeWaiting
  split
  · exact (closeCard_modeCoastKeys _).trans hready
  · exact hready

@[simp] theorem cardProgrammed_modeCoastKeys (first : Nat) (s : State) :
    modeCoastKeys (cardProgrammed first s) = modeCoastKeys s := by
  rw [cardProgrammed_eq, settleWrites_modeCoastKeys]
  exact (systemParity_modeCoastKeys ..).trans rfl

@[simp] theorem ledgerStored_modeCoastKeys (s : State) : modeCoastKeys (ledgerStored s) = modeCoastKeys s :=
  (foldl_keeps modeCoastKeys _ (fun t n => by simp) _ (closeCard s)).trans (closeCard_modeCoastKeys s)

/-- The cards of a flush are on flash. -/
def storeDayCards (n first : Nat) (rs : List DayRec) (s : State) : State :=
  ((List.range (flushCards rs.length)).map fun i => (posPpa s n (first + i), dayData rs i)).foldl
    (fun t c => systemParity c.1 { t with wr := { t.wr with
      flash := mapSet c.1.toNat (systemCard c.1 c.2) t.wr.flash } }) s

theorem storeDay_rest (n first : Nat) (rs : List DayRec) (s : State) :
    ∃ d, storeDay n first rs s = { storeDayCards n first rs s with day := d } := by
  unfold storeDay storeDayCards
  exact ⟨_, rfl⟩

@[simp] theorem storeDay_modeCoastKeys (n first : Nat) (rs : List DayRec) (s : State) :
    modeCoastKeys (storeDay n first rs s) = modeCoastKeys s := by
  have hcards : modeCoastKeys (storeDayCards n first rs s) = modeCoastKeys s := by
    refine foldl_keeps modeCoastKeys _ (fun t c => ?_) _ s
    exact (systemParity_modeCoastKeys ..).trans rfl
  obtain ⟨d, hd⟩ := storeDay_rest n first rs s
  rw [hd]
  exact hcards

@[simp] theorem dayStored_modeCoastKeys (s : State) : modeCoastKeys (dayStored s) = modeCoastKeys s := by
  unfold dayStored
  extract_lets first day flushed
  have hflushed : modeCoastKeys flushed = modeCoastKeys s := by
    unfold flushed
    split
    · rfl
    · exact (sealSystem_modeCoastKeys ..).trans ((storeDay_modeCoastKeys ..).trans rfl)
  clear_value flushed
  split
  · exact (sealSystem_modeCoastKeys ..).trans ((storeDay_modeCoastKeys ..).trans hflushed)
  · exact hflushed

end Sys2Proof.Machine
end

section
/-! PROOFS. The commands of a Coast (R166, R168, R172 to R174): the signals that begin one, the end of its programs, and
its end. Log entry 54 is the model's choice here: a pulse of PWRFAIL_N between 0.5 and 1 µs is an open value. -/

namespace Sys2Proof.Machine

/-! ## The signals (R166, R172) -/

theorem coastEntry_serving {s : State} (cause : CoastCause) (hserve : serving s = true) :
    coastEntry cause s = coastRuns cause s := by
  unfold serving at hserve
  unfold coastEntry
  cases hmode : s.mode.mode <;> simp_all

theorem exec_pwrfailNLow_long {s : State} {ns : Nat} (hserve : serving s = true) (hlong : 1000 ≤ ns) :
    exec (.pwrfailNLow ns) s = .next (coastRuns .pwrfail { s with pins := { s.pins with pwrfailN := false } }) := by
  obtain ⟨hawake, -⟩ := serving_facts hserve
  have hentry := coastEntry_serving .pwrfail
    (show serving { s with pins := { s.pins with pwrfailN := false } } = true from hserve)
  change execPwrfailNLow ns s = _
  simp [execPwrfailNLow, pwrfailSeen, hlong, Nat.not_lt.mpr hlong, hawake, hentry]

theorem exec_pwrfailNLow_short {ns : Nat} (s : State) (hshort : ns < 500) : exec (.pwrfailNLow ns) s = .next s := by
  have hnotLong : ¬ 1000 ≤ ns := by omega
  change execPwrfailNLow ns s = _
  simp [execPwrfailNLow, pwrfailSeen, hshort, hnotLong, Nat.not_le.mpr hshort]

theorem exec_pwrfailNLow_between {ns : Nat} (s : State) (hlow : 500 ≤ ns) (hhigh : ns < 1000) :
    exec (.pwrfailNLow ns) s = .next (if Config.freeBit s.free then
      coastEntry .pwrfail { drawFree s with pins := { s.pins with pwrfailN := s.pins.pwrfailN && ! awake s } }
      else drawFree s) := by
  change execPwrfailNLow ns s = _
  simp [execPwrfailNLow, pwrfailSeen, hlow, hhigh, Nat.not_le.mpr hhigh, Nat.not_lt.mpr hlow]

theorem exec_v12BelowThreshold_low {s : State} {mv us : Nat} (hserve : serving s = true)
    (hlow : mv < 100 * fld s 0x6C4) (hlong : 4 ≤ us) : exec (.v12BelowThreshold mv us) s = .next (coastRuns .v12 s) := by
  obtain ⟨hawake, -⟩ := serving_facts hserve
  change execV12BelowThreshold mv us s = _
  simp [execV12BelowThreshold, hawake, hlow, hlong, coastEntry_serving .v12 hserve]

theorem exec_v12BelowThreshold_not {s : State} {mv us : Nat} (h : 100 * fld s 0x6C4 ≤ mv ∨ us < 4) :
    exec (.v12BelowThreshold mv us) s = .next s := by
  change execV12BelowThreshold mv us s = _
  rcases h with hhigh | hshort
  · simp [execV12BelowThreshold, Nat.not_lt.mpr hhigh]
  · simp [execV12BelowThreshold, Nat.not_le.mpr hshort]

/-! ## The end of the programs (R53, R168) -/

/-- The state with every program of step 3 on flash and the counts saved, before the Coast record. -/
def programsOnFlash (s : State) : State := saveLogs (dayStored (ledgerStored (coastStored (allProgramsEnd s))))

theorem programsOnFlash_mode (s : State) : (programsOnFlash s).mode = s.mode := by
  have hkeep : modeCoastKeys (dayStored (ledgerStored (coastStored (allProgramsEnd s)))) = modeCoastKeys s := by simp
  rw [programsOnFlash, saveLogs_mode]
  exact mode_of_modeCoastKeys hkeep

theorem putSpine_mode (n : Nat) (r : SpineRec) (s : State) : (putSpine n r s).mode = s.mode := by
  rcases putSpine_cases n r s with h | h
  · rw [h, askErase_rest]; rfl
  · rw [h]; rfl

/-- A record that finds a place is the one being written, of the kind it was made with, and the mode stays. -/
theorem appendSpine_facts {kind : Nat} {m : MapSnap} {s t : State} (h : appendSpine kind m s = some t) :
    t.mode = s.mode ∧ ∀ r, t.inv.writing = some r → r.kind = kind := by
  obtain ⟨n, -, rfl⟩ := Option.map_eq_some_iff.mp h
  obtain ⟨-, -, hwriting, -⟩ := putSpine_inv n (makeSpine kind m s) s
  refine ⟨putSpine_mode .., fun r hr => ?_⟩
  obtain rfl : makeSpine kind m s = r := Option.some.inj (hwriting.symm.trans hr)
  rfl

theorem exec_coastProgramsDone_record {s t : State} (hphase : s.coast.phase = .programs)
    (hplace : appendSpine 2 (passToName (programsOnFlash s)) (programsOnFlash s) = some t) :
    exec .coastProgramsDone s = .next { t with coast := { t.coast with phase := .record, recordDue := true } } := by
  change execCoastProgramsDone s = _
  rw [programsOnFlash] at hplace
  simp [execCoastProgramsDone, hphase, hplace]

theorem exec_coastProgramsDone_noPlace {s : State} (hphase : s.coast.phase = .programs)
    (hplace : appendSpine 2 (passToName (programsOnFlash s)) (programsOnFlash s) = none) :
    exec .coastProgramsDone s = .next { programsOnFlash s with
      coast := { (programsOnFlash s).coast with phase := .record, recordDue := false } } := by
  change execCoastProgramsDone s = _
  unfold programsOnFlash at hplace ⊢
  simp [execCoastProgramsDone, hphase, hplace]

theorem exec_coastProgramsDone_notPrograms {s : State} (hphase : s.coast.phase ≠ .programs) :
    exec .coastProgramsDone s = .next s := by
  change execCoastProgramsDone s = _
  simp [execCoastProgramsDone, hphase]

/-! ## The end of the Coast (R168, R173, R174) -/

/-- The record being read back touches Inventory and Ledger alone, and none is then being written. -/
theorem coastRecord_rest (ok : Bool) (s : State) :
    coastRecord ok s = { s with inv := (coastRecord ok s).inv, led := (coastRecord ok s).led } ∧
      (coastRecord ok s).inv.writing = none := by
  unfold coastRecord
  split
  · exact ⟨rfl, ‹_›⟩
  · split <;> exact ⟨rfl, rfl⟩

/-- What the held Coast shows, and what it keeps of the state in which its record was read back. -/
theorem coastHold_coastRecord_facts (ok : Bool) (s : State) :
    (coastHold (coastRecord ok s)).coast.phase = .hold ∧ (coastHold (coastRecord ok s)).nv.shst = 2 ∧
    (coastHold (coastRecord ok s)).inv.writing = none ∧ (coastHold (coastRecord ok s)).mode = s.mode ∧
    (coastHold (coastRecord ok s)).wr = s.wr ∧ (coastHold (coastRecord ok s)).cat = s.cat ∧
    (coastHold (coastRecord ok s)).cdx = s.cdx ∧ (coastHold (coastRecord ok s)).clock = s.clock := by
  obtain ⟨hrest, hwriting⟩ := coastRecord_rest ok s
  refine ⟨rfl, rfl, hwriting, ?_⟩
  rw [hrest]
  exact ⟨rfl, rfl, rfl, rfl, rfl⟩

/-- Dormant keeps the clocks, the sticky registers, flash and Codex die (R165, R174). -/
theorem dormant_facts (s : State) : (dormant s).mode.mode = .dormant ∧ (dormant s).pins.perstN = false ∧
    (dormant s).clock = s.clock ∧ (dormant s).wr.flash = s.wr.flash ∧ (dormant s).cdx = codexKept s.cdx ∧
    (dormant s).pending = s.pending := ⟨rfl, rfl, rfl, rfl, rfl, rfl⟩

theorem exec_coastComplete_notRecord {s : State} (ok : Bool) (hphase : s.coast.phase ≠ .record) :
    exec (.coastComplete ok) s = .next s := by
  change execCoastComplete ok s = _
  simp [execCoastComplete, hphase]

section
variable {s : State} (ok : Bool) (hphase : s.coast.phase = .record) (hfacts : s.coast.perstFacts = none)
include hphase hfacts

theorem exec_coastComplete_holds (hperst : s.pins.perstN = true) :
    exec (.coastComplete ok) s = .next (coastHold (coastRecord ok s)) := by
  change execCoastComplete ok s = _
  simp [execCoastComplete, hphase, hfacts, hperst]

theorem exec_coastComplete_dormant (hperst : s.pins.perstN = false) :
    exec (.coastComplete ok) s = .next (dormant (coastHold (coastRecord ok s))) := by
  change execCoastComplete ok s = _
  simp [execCoastComplete, hphase, hfacts, hperst]

end

/-- Settles O41: the signals run `coastRuns`, whose entry is `coastRuns_facts`; the ends of the programs keep the mode and
put the record of KIND 2 behind them; and the end holds, or is Dormant, with map, flash and Codex kept. -/
theorem coastIsEnteredAndHolds : Obligations.CoastIsEnteredAndHolds := by
  refine ⟨?pwrfail, fun s ns => exec_pwrfailNLow_short s, fun s ns => exec_pwrfailNLow_between s,
    fun s ns => exec_pwrfailNLow_long, fun s mv us => exec_v12BelowThreshold_low, ?v12,
    fun s mv us => exec_v12BelowThreshold_not, ?programs, fun s => exec_coastProgramsDone_notPrograms, ?holds, ?dormant,
    fun s ok => exec_coastComplete_notRecord ok⟩
  case pwrfail =>
    intro s ns hserve hlong
    obtain ⟨hmode, hphase, hcause, hleft, hentry, hkey⟩ :=
      coastRuns_facts .pwrfail { s with pins := { s.pins with pwrfailN := false } }
    refine ⟨_, exec_pwrfailNLow_long hserve hlong, ?_⟩
    generalize coastRuns .pwrfail { s with pins := { s.pins with pwrfailN := false } } = t at *
    exact ⟨hmode, hphase, hcause, hleft, hentry, congrArg Keys.ring hkey⟩
  case v12 =>
    intro s mv us hserve hlow hlong
    obtain ⟨hmode, -, hcause, hleft, -⟩ := coastRuns_facts .v12 s
    exact ⟨_, exec_v12BelowThreshold_low hserve hlow hlong, hmode, hcause, hleft⟩
  case programs =>
    intro s hphase
    cases hplace : appendSpine 2 (passToName (programsOnFlash s)) (programsOnFlash s) with
    | some t =>
      obtain ⟨hmode, hkind⟩ := appendSpine_facts hplace
      exact ⟨_, exec_coastProgramsDone_record hphase hplace, rfl, hmode.trans (programsOnFlash_mode s),
        fun r hr _ => hkind r hr⟩
    | none =>
      have hexec := exec_coastProgramsDone_noPlace hphase hplace
      have hmode := programsOnFlash_mode s
      generalize programsOnFlash s = u at hexec hmode
      exact ⟨_, hexec, rfl, hmode, fun r _ hdue => nomatch hdue⟩
  case holds =>
    intro s ok hphase hfacts hperst
    obtain ⟨hhold, hshst, hwriting, hmode, hwr, hcat, hcdx, -⟩ := coastHold_coastRecord_facts ok s
    exact ⟨_, exec_coastComplete_holds ok hphase hfacts hperst, hhold, hshst, hwriting, hmode, hwr, hcat, hcdx⟩
  case dormant =>
    intro s ok hphase hfacts hperst
    obtain ⟨-, -, -, -, hwr, -, hcdx, hclock⟩ := coastHold_coastRecord_facts ok s
    obtain ⟨hmode, -, hkeptClock, hflash, hkeptCdx, -⟩ := dormant_facts (coastHold (coastRecord ok s))
    refine ⟨_, exec_coastComplete_dormant ok hphase hfacts hperst, hmode, ?_⟩
    rw [hflash, hkeptCdx, hkeptClock, hwr, hcdx, hclock]
    exact ⟨rfl, rfl, rfl, rfl⟩

end Sys2Proof.Machine
end

section
/-! PROOFS. PERST# and the start (R174, R190, R193, R445). Log entry 53 is the model's choice here: the effects of a step of
the start stand at its end. -/

namespace Sys2Proof.Machine

/-! ## The assertion (R174, R445) -/

/-- PERST# is low and the link down. -/
def perstLow (s : State) : State :=
  { s with pins := { s.pins with perstN := false }, link := { s.link with up := false } }

theorem exec_perstAssert_recovery {s : State} {ns : Nat} (hlong : 10000 ≤ ns) (hmode : s.mode.mode = .recovery)
    (hprog : s.cdx.progging = none) : exec (.perstAssert ns) s = .next (dormant (perstLow s)) := by
  change execPerstAssert ns s = _
  simp [execPerstAssert, perstSeen, hlong, Nat.not_lt.mpr hlong, assertPerst, hmode, finishCodex, hprog, perstLow]

theorem exec_perstAssert_short {ns : Nat} (s : State) (hshort : ns ≤ 1000) : exec (.perstAssert ns) s = .next s := by
  have hnotLong : ¬ 10000 ≤ ns := by omega
  change execPerstAssert ns s = _
  simp [execPerstAssert, perstSeen, hshort, hnotLong, Nat.not_lt.mpr hshort]

/-- Dormant keeps every sticky register (R174). -/
theorem dormant_sticky (s : State) : (dormant s).coast.sticky = s.coast.sticky ∧
    (dormant s).esc.sticky = s.esc.sticky ∧ (dormant s).key.sticky = s.key.sticky ∧
    (dormant s).dram.sticky = s.dram.sticky ∧ (dormant s).day.sticky = s.day.sticky := ⟨rfl, rfl, rfl, rfl, rfl⟩

/-! ## The release (R174, R190) -/

/-- Outside Recovery a record goes to the Daybook alone. -/
theorem record_day_rest {s : State} (event : Nat) (payload : List (Nat × Nat)) (hmode : s.mode.mode ≠ .recovery) :
    record event payload s = { s with day := (record event payload s).day } := by
  unfold record
  simp only [if_neg hmode]
  split
  · rfl
  · split
    · rfl
    · split <;> rfl

/-- A change to a mode other than Recovery leaves all but the mode, DRAM's self-refresh, the link's report and the
Daybook. -/
theorem setMode_rest {m : Mode} (s : State) (hm : m ≠ .recovery) : setMode m s = { s with
    mode := (setMode m s).mode, dram := (setMode m s).dram, link := (setMode m s).link, day := (setMode m s).day } := by
  unfold setMode
  split
  · rfl
  · dsimp only
    rw [record_day_rest _ _ hm]
    rfl

/-- The start begins: Rising, with its first step open, and of flash, map, controller and Codex die nothing changed. -/
theorem beginStart_facts (f : StartFacts) (s : State) : (beginStart f s).mode.mode = .rising ∧
    (beginStart f s).pins.perstN = true ∧
    (beginStart f s).mode.startRun = some { facts := f, ended := 0, us := s.clock.us } ∧
    (beginStart f s).clock = s.clock ∧ (beginStart f s).cdx = s.cdx ∧ (beginStart f s).wr = s.wr ∧
    (beginStart f s).fl = s.fl ∧ (beginStart f s).cat = s.cat ∧ (beginStart f s).nv = s.nv := by
  have hrest := setMode_rest (m := .rising) { s with
    pins := { s.pins with perstN := true, pwrfailN := true, railOk := List.replicate 10 true }
    mode := { s.mode with manufacturing := manufacturingNow s } } (by decide)
  obtain ⟨hmode, -⟩ := setMode_facts .rising { s with
    pins := { s.pins with perstN := true, pwrfailN := true, railOk := List.replicate 10 true }
    mode := { s.mode with manufacturing := manufacturingNow s } }
  unfold beginStart
  dsimp only
  generalize setMode .rising _ = t at hrest hmode ⊢
  rw [hrest]
  exact ⟨hmode, rfl, rfl, rfl, rfl, rfl, rfl, rfl, rfl⟩

theorem exec_perstDeassert_dormant {s : State} (f : StartFacts) (hmode : s.mode.mode = .dormant) :
    exec (.perstDeassert f) s = .next (beginStart f s) := by
  change execPerstDeassert f s = _
  simp [execPerstDeassert, hmode]

theorem exec_perstDeassert_coast {s : State} (f : StartFacts) (hmode : s.mode.mode = .coast)
    (hperst : s.pins.perstN = false) : exec (.perstDeassert f) s = .next { s with
      pins := { s.pins with perstN := true }, coast := { s.coast with perstFacts := some f } } := by
  change execPerstDeassert f s = _
  simp [execPerstDeassert, hmode, hperst]

/-! ## A step of the start (R190, R193) -/

/-- The mode, the reason of a Recovery, and the write path. -/
def modeReasonWrites (s : State) : Mode × Nat × WritePath := (s.mode.mode, s.mode.reason, s.wr)

theorem raiseAlive_modeReasonWrites (pick : Nat → Bool) (s : State) :
    modeReasonWrites (raiseAlive pick s) = modeReasonWrites s := by
  refine foldl_keeps modeReasonWrites _ (fun t p => ?_) _ s
  dsimp only
  split <;> rfl

theorem portsUp_modeReasonWrites (s : State) : modeReasonWrites (portsUp s) = modeReasonWrites s := by
  unfold portsUp
  dsimp only
  refine (foldl_keeps modeReasonWrites _ (fun t p => ?_) _ _).trans rfl
  split
  · split <;> rfl
  · rfl

/-- The ports that Recovery brings up leave its mode and reason, and the write path. -/
theorem recoveryPorts_modeReasonWrites (s : State) : modeReasonWrites (recoveryPorts s) = modeReasonWrites s := by
  unfold recoveryPorts
  split
  · rfl
  · refine (raiseAlive_modeReasonWrites ..).trans ?_
    split
    · rfl
    · split
      · rfl
      · refine (portsUp_modeReasonWrites _).trans ?_
        split <;> rfl

section
variable {s : State} {r : StartRun} (hrun : s.mode.startRun = some r)
include hrun

theorem stepDue_ended (hmode : s.mode.mode = .rising)
    (hended : r.us + 1000 * natAt r.facts.stepMs r.ended ≤ s.clock.us) : stepDue s = some r := by
  simp [stepDue, hrun, hmode, hended]

theorem startAdvance_before (hopen : s.clock.us < r.us + 1000 * natAt r.facts.stepMs r.ended) :
    startAdvance s = s := by
  have hdue : stepDue s = none := by simp [stepDue, hrun, hopen]
  simp [startAdvance, hdue]

/-- The first step ends with a Colophon segment that fails: Recovery with REASON 1, and the write path as it was. -/
theorem startAdvance_badColophon (hmode : s.mode.mode = .rising) (hfirst : r.ended = 0)
    (hended : r.us + 1000 * natAt r.facts.stepMs 0 ≤ s.clock.us) (hbad : colophonOk s = false) :
    (startAdvance s).mode.mode = .recovery ∧ (startAdvance s).mode.reason = 1 ∧
      (startAdvance s).mode.startRun = none ∧ (startAdvance s).wr = s.wr := by
  have hdue : stepDue s = some r := stepDue_ended hrun hmode (hfirst ▸ hended)
  have hstep : startStep r.facts r.ended s = enterRecovery 1 s := by
    rw [hfirst, startStep, stepColophon, hbad]
    rfl
  have hports : modeReasonWrites (recoveryPorts (enterRecovery 1 s)) = (.recovery, 1, s.wr) :=
    recoveryPorts_modeReasonWrites _
  simp only [modeReasonWrites, Prod.mk.injEq] at hports
  obtain ⟨hrecovery, hreason, hwr⟩ := hports
  simp [startAdvance, hdue, hstep, hrecovery, hreason, hwr]

end

end Sys2Proof.Machine
end

section
/-! PROOFS. Idle Service and the units (R196, R197, R339, R444). Log entry 97 is the model's choice here: the duty of
CORE_VSET in thousandths, reached in one command. -/

namespace Sys2Proof.Machine

theorem exec_idleServiceEntry_quiet {s : State} (hmode : s.mode.mode = .service) (hidle : s.mode.idle = false)
    (hquiet : quiet s = true) : exec .idleServiceEntry s = .next (gateAll s) := by
  change execIdleServiceEntry s = _
  simp [execIdleServiceEntry, hmode, hidle, hquiet]

/-- Of the units the ports alone keep their gates, and of the rest of the device the link's report alone changes. -/
theorem gateAll_facts (s : State) :
    gateAll s = { s with mode := (gateAll s).mode, link := { s.link with ltrSent := (gateAll s).link.ltrSent } } ∧
    (gateAll s).mode.mode = s.mode.mode ∧ (gateAll s).mode.idle = true ∧ (gateAll s).mode.gates = { s.mode.gates with
      tiles := List.range 64, hardDec := List.range 128, softDec := List.range 24, cores := List.range 24
      engines := true } := ⟨rfl, rfl, rfl, rfl⟩

theorem exec_idleServiceExit_idle {s : State} (hidle : s.mode.idle = true) :
    exec .idleServiceExit s = .next (leaveIdle s) := congrArg _ (if_pos hidle)

theorem leaveIdle_ltrSent {s : State} (hidle : s.mode.idle = true) : (leaveIdle s).link.ltrSent =
    if s.link.cfg.ltr then s.link.ltrSent + 1 else s.link.ltrSent := by
  simp [leaveIdle, hidle]

theorem exec_unitWake_tile {s : State} (i : Nat) (hawake : awake s = true) :
    exec (.unitWake 0 i) s = .next (useUnit 0 i s) := by
  change execUnitWake 0 i s = _
  simp [execUnitWake, hawake]

theorem mem_tiles_useUnit (i j : Nat) (s : State) :
    j ∈ (useUnit 0 i s).mode.gates.tiles ↔ j ∈ s.mode.gates.tiles ∧ j ≠ i := by
  simp [useUnit, ungate]

theorem exec_dramSelfRefreshEntry_idle {s : State} (hidle : s.mode.idle = true) :
    exec .dramSelfRefreshEntry s = .next { s with
      dram := { s.dram with selfRef := true }
      mode := { s.mode with gates := { s.mode.gates with dram := true } } } := congrArg _ (if_pos hidle)

theorem exec_coreVsetUpdate_runs {s : State} {duty : Nat} (hawake : awake s = true) (hcoast : s.mode.mode ≠ .coast)
    (hrising : s.mode.mode ≠ .rising) (hduty : duty ≤ 1000) :
    exec (.coreVsetUpdate duty) s = .next { s with pins := { s.pins with coreVset := duty } } := by
  change execCoreVsetUpdate duty s = _
  simp [execCoreVsetUpdate, hawake, hcoast, hrising, hduty]

/-- Settles O4: PERST# resets by `dormant` and starts by `beginStart`, the end of a step is `startAdvance`, and Idle Service
is `gateAll` and `leaveIdle`. -/
theorem perstAndIdleService : Obligations.PerstAndIdleService := by
  refine ⟨⟨?reset, fun s ns => exec_perstAssert_short s, ?release, ?badColophon,
    fun s r _ hrun => startAdvance_before hrun, fun s f => exec_perstDeassert_coast f⟩,
    ?gates, ?wakes, ?tile, fun s => exec_dramSelfRefreshEntry_idle, fun s duty => exec_coreVsetUpdate_runs⟩
  case reset =>
    intro s ns hlong hmode hprog
    obtain ⟨hdormant, hperst, hclock, hflash, hcdx, hpending⟩ := dormant_facts (perstLow s)
    obtain ⟨hcoast, hesc, hkey, hdram, hday⟩ := dormant_sticky (perstLow s)
    refine ⟨_, exec_perstAssert_recovery hlong hmode hprog, hdormant, hperst, hclock, hcoast, hesc, hkey, hdram, hday, ?_⟩
    rw [hcdx]
    exact ⟨rfl, rfl, hflash, hpending⟩
  case release =>
    intro s f hmode
    exact ⟨_, exec_perstDeassert_dormant f hmode, beginStart_facts f s⟩
  case badColophon =>
    intro s r hmode hrun hfirst hended hbad
    exact startAdvance_badColophon hrun hmode hfirst hended hbad
  case gates =>
    intro s hmode hidle hquiet
    obtain ⟨hrest, hkeep, hentered, hgates⟩ := gateAll_facts s
    refine ⟨_, exec_idleServiceEntry_quiet hmode hidle hquiet, hrest, rfl, hkeep.trans hmode, hentered, ?_⟩
    rw [hgates]
    exact ⟨rfl, rfl, fun _ => List.mem_range, fun _ => List.mem_range, fun _ => List.mem_range, fun _ => List.mem_range⟩
  case wakes =>
    intro s hidle
    exact ⟨_, exec_idleServiceExit_idle hidle, rfl, leaveIdle_ltrSent hidle, rfl, rfl, rfl, rfl, rfl⟩
  case tile =>
    intro s i hawake
    exact ⟨_, exec_unitWake_tile i hawake, rfl, rfl, fun j => mem_tiles_useUnit i j s⟩

end Sys2Proof.Machine
end

section
/-! PROOFS. Supply of the always-on domain and loss of power (R165, R183, R188, R251): what the loss cuts short lies in the
spine's and the Codex die's own state, and what flash and that die hold stays. -/

namespace Sys2Proof.Machine

/-! ## Programs that the loss cuts short (Table 7.3) -/

/-- A raw program reads anew as the Folio bank or the endpaper block of its sector, and as nothing else. -/
theorem spellSector_rest (n : Nat) (spell : Option CodexSpell) (s : State) :
    ∃ f u, spellSector n spell s = { s with fol := f, upd := u } := by
  unfold spellSector
  split
  · exact ⟨_, _, rfl⟩
  · split
    · exact ⟨_, _, rfl⟩
    · split
      · exact ⟨_, _, rfl⟩
      · exact ⟨s.fol, s.upd, rfl⟩

/-- Without a Codex program in progress nothing of the die is cut. -/
theorem cutCodex_idle {s : State} (hidle : s.cdx.progging = none) : cutCodex s = s := by
  unfold cutCodex
  rw [hidle]

/-- A cut Codex program leaves one page undefined, and flag cells and Colophon row as they were. -/
theorem cutCodex_rest (s : State) : ∃ p m f u n, cutCodex s = { s with
    cdx := { s.cdx with progging := p, mem := m }, fol := f, upd := u, free := n } := by
  unfold cutCodex
  split
  next r _ =>
    obtain ⟨f, u, hspell⟩ := spellSector_rest (sectorOf r.addr) none
      (undefPage (r.addr / 256) { s with cdx := { s.cdx with progging := none } })
    exact ⟨none, _, f, u, _, hspell⟩
  next => exact ⟨s.cdx.progging, s.cdx.mem, s.fol, s.upd, s.free, rfl⟩

/-- A cut spine record is torn, in its sector alone. -/
theorem cutSpine_rest (s : State) : cutSpine s = { s with inv := (cutSpine s).inv } := by
  unfold cutSpine
  split <;> rfl

/-! ## The supplies (R165, R188) -/

theorem exec_powerOnAon_unpowered {s : State} (hmode : s.mode.mode = .unpowered) : exec .powerOnAon s = .next { s with
    pins := { s.pins with aonOk := true, perstN := false }, mode := { s.mode with mode := .dormant } } :=
  congrArg _ (if_pos hmode)

/-- The part with every rail down: what was cut and what lasts, and the pins that the surroundings drive. -/
def powerLost (s : State) : State :=
  { kept (cutSpine (cutCodex s)) with
    pins := { State.reset.pins with testMode := s.pins.testMode, holdupSupLow := s.pins.holdupSupLow } }

theorem exec_lossOfPower (s : State) : exec .lossOfPower s = .next (powerLost s) := rfl

/-- What has no power is as at reset. -/
theorem powerLost_volatile (s : State) :
    (powerLost s).mode = State.reset.mode ∧ (powerLost s).clock = State.reset.clock ∧
    (powerLost s).pools = State.reset.pools ∧ (powerLost s).cat = State.reset.cat ∧
    (powerLost s).dram = State.reset.dram ∧ (powerLost s).esc = State.reset.esc ∧
    (powerLost s).pel = State.reset.pel ∧ (powerLost s).link = State.reset.link ∧
    (powerLost s).nv.cmds = [] ∧ (powerLost s).nv.sqs = [] ∧ (powerLost s).nv.cqs = [] ∧
    (powerLost s).key.loaded = [] ∧ (powerLost s).wr.transit = [] ∧ (powerLost s).day.buffer = [] :=
  ⟨rfl, rfl, rfl, rfl, rfl, rfl, rfl, rfl, rfl, rfl, rfl, rfl, rfl, rfl⟩

/-- What flash holds, the flag cells and the Colophon row last, also where programs were cut. -/
theorem powerLost_lasting (s : State) :
    (powerLost s).wr.flash = s.wr.flash ∧ (powerLost s).led.onFlash = s.led.onFlash ∧
    (powerLost s).day.ring = s.day.ring ∧ (powerLost s).key.ring = s.key.ring ∧
    (powerLost s).cdx.flags = s.cdx.flags ∧ (powerLost s).cdx.colophon = s.cdx.colophon := by
  obtain ⟨p, m, f, u, n, hcut⟩ := cutCodex_rest s
  rw [powerLost, cutSpine_rest, hcut]
  exact ⟨rfl, rfl, rfl, rfl, rfl, rfl⟩

/-- The Codex array and the Folio banks last where no program was cut. -/
theorem powerLost_codex {s : State} (hidle : s.cdx.progging = none) :
    (powerLost s).cdx.mem = s.cdx.mem ∧ (powerLost s).fol.bankA = s.fol.bankA ∧
      (powerLost s).fol.bankB = s.fol.bankB := by
  rw [powerLost, cutCodex_idle hidle, cutSpine_rest]
  exact ⟨rfl, rfl, rfl⟩

/-- Settles O3: the loss is `powerLost`, whose volatile part is that of reset, and what it cuts short lies outside flash,
flag cells and Colophon row. -/
theorem powerKeepsFlashAndCodexOnly : Obligations.PowerKeepsFlashAndCodexOnly := by
  refine ⟨fun s => exec_powerOnAon_unpowered, fun s => ⟨powerLost s, exec_lossOfPower s, ?_⟩⟩
  obtain ⟨hmode, hclock, hpools, hcat, hdram, hesc, hpel, hlink, hcmds, hsqs, hcqs, hloaded, htransit, hbuffer⟩ :=
    powerLost_volatile s
  obtain ⟨hflash, honFlash, hday, hkey, hflags, hcolophon⟩ := powerLost_lasting s
  exact ⟨hmode, hclock, hpools, hcat, hdram, hesc, hpel, hlink, hcmds, hsqs, hcqs, hloaded, htransit, hbuffer,
    hflash, honFlash, hday, hkey, hflags, hcolophon, powerLost_codex⟩

end Sys2Proof.Machine
end

section
/-! PROOFS. The part as made, without power (R188, R395, R398). Log entry 5 is the model's choice here: an erased Codex die
reads 0xFF everywhere. -/

namespace Sys2Proof.Machine

/-- Every port of the part as made is Down. -/
theorem reset_ports : State.reset.pel.ports = List.replicate 4 downPort := rfl

/-- A Codex array with no entry is in canonical form. -/
theorem memWf_of_erased {s : State} (herased : s.cdx.mem = []) : s.memWf := by
  rw [State.memWf, herased]
  rfl

/-- A Codex array with no entry reads as erased everywhere. -/
theorem codexByte_of_erased {s : State} (herased : s.cdx.mem = []) (a : Nat) : codexByte s a = 0xFF := by
  rw [codexByte, herased]
  rfl

/-- Settles O57: the Codex array of reset holds no entry, and its ports are four copies of a port that is Down. -/
theorem resetState : Obligations.ResetState := by
  refine ⟨rfl, rfl, memWf_of_erased rfl, codexByte_of_erased rfl, rfl, rfl, fun i p hport => ?_⟩
  have hdown : p = downPort := List.eq_of_mem_replicate (reset_ports ▸ List.mem_of_getElem? hport)
  rw [hdown]
  rfl

end Sys2Proof.Machine
end

section
/-! PROOFS. The link's events and errors (R191, R198, R203, R204, R206, R447). Log entries 121, 126 and 170 are the model's
choices here: a D-state or ASPM change moves the link and its gate alone, a malformed TLP stops the fetch until the next
LINK_UP, and the error messages follow the severities of the AER registers. -/

namespace Sys2Proof.Machine

/-! ## Training, power states and error messages -/

section
variable {s : State} (hawake : awake s = true)
include hawake

theorem exec_linkUp_legal {ms rate width : Nat} {flit : Bool} (hlegal : linkLegal rate width flit = true) :
    exec (.linkUp ms rate width flit) s = .next { s with
      link := { s.link with
        up := true, seenL0 := true, rate := rate, width := width, flit := flit, fatal := false, aspm := 0 }
      mode := if s.link.seenL0 then s.mode else { s.mode with startLink := sat32 ms } } :=
  congrArg _ (if_pos (Bool.and_eq_true_iff.mpr ⟨hawake, hlegal⟩))

theorem exec_dStateChange_awake (d3 : Bool) :
    exec (.dStateChange d3) s = .next { s with link := { s.link with d3hot := d3 } } := by
  change execDStateChange d3 s = _
  simp [execDStateChange, hawake]

theorem exec_unexpectedCompletion_awake : exec .unexpectedCompletion s =
    .next (logAer 3 { s with link := { s.link with dropped := s.link.dropped + 1 } }) := congrArg _ (if_pos hawake)

theorem exec_unsupportedRequest_awake (nonPosted : Bool) : exec (.unsupportedRequest nonPosted) s =
    .next (logAer 4 { s with link := { s.link with
      urSent := if nonPosted then s.link.urSent + 1 else s.link.urSent } }) := congrArg _ (if_pos hawake)

theorem exec_malformedTlp_awake (kind : Nat) : exec (.malformedTlp kind) s =
    .next (logAer 5 { s with link := { s.link with fatal := true } }) := congrArg _ (if_pos hawake)

theorem exec_correctableLinkError_awake (kind : Nat) : exec (.correctableLinkError kind) s =
    .next (countC1 19 { s with link := { s.link with
      corrErrs := sat32 (s.link.corrErrs + 1)
      flitErrs := if kind = 1 then sat32 (s.link.flitErrs + 1) else s.link.flitErrs } }) := congrArg _ (if_pos hawake)

theorem exec_aspmL1_up (enter : Bool) {sub : Nat} (hup : s.link.up = true) (hsub : sub ≤ 2) :
    exec (.aspmL1 enter sub) s = .next { s with
      link := { s.link with aspm := if enter then sub + 1 else 0 }
      mode := { s.mode with gates := { s.mode.gates with pcie := enter && sub = 2 } } } := by
  change execAspmL1 enter sub s = _
  simp [execAspmL1, hawake, hup, hsub]

end

/-- A counter of log page C1h counts, saturating, and no other moves. -/
theorem countC1_getElem (n m : Nat) (s : State) :
    (countC1 n s).nv.c1[m]? = if m = n then s.nv.c1[m]?.map (fun c => sat64 (c + 1)) else s.nv.c1[m]? := by
  rw [countC1_nv, modAt_getElem]

/-! ## Data that arrives poisoned or not at all (R203, R204) -/

section
variable {s : State} {n : Nat} {c : Cmd} (hc : cmdAt s n = some c) (hphase : c.phase ≠ .placed)
include hc hphase

/-- A command whose cards are not placed ends, its buffers go back, and only controller and pools change. -/
theorem failData_facts : Ended n c scTransfer 0 s (failData n s) ∧
    failData n s = { s with nv := (failData n s).nv, pools := (failData n s).pools } := by
  have hfail : failData n s = finish n scTransfer 0 (dropBuffers n s) := by
    simp [failData, hc, hphase, finishErr]
  obtain ⟨p, hdrop⟩ := dropBuffers_rest n s
  rw [hfail, hdrop]
  refine ⟨finish_ended (s := { s with pools := p }) scTransfer 0 hc, ?_⟩
  rw [finish_rest]

/-- The same once its error is logged: map, Ledger and write path stay. -/
theorem logAer_failData_facts (row : Nat) :
    Ended n c scTransfer 0 s (logAer row (failData n s)) ∧
    (logAer row (failData n s)).link.uncorr = s.link.uncorr ++ [row] ∧ (logAer row (failData n s)).cat = s.cat ∧
    (logAer row (failData n s)).led = s.led ∧ (logAer row (failData n s)).wr = s.wr := by
  obtain ⟨hended, hrest⟩ := failData_facts hc hphase
  refine ⟨hended, ?_⟩
  rw [hrest]
  exact ⟨rfl, rfl, rfl, rfl⟩

end

theorem exec_poisonedTlp_dataOf {s : State} (n : Nat) (hawake : awake s = true) :
    exec (.poisonedTlp (.dataOf n) false) s = .next (logAer 0 (failData n s)) := by
  change execPoisonedTlp (.dataOf n) false s = _
  simp [execPoisonedTlp, hawake, failTlp]

theorem exec_completionTimeout_dataOf {s : State} (n : Nat) (hawake : awake s = true) :
    exec (.completionTimeout (.dataOf n)) s = .next (logAer 2 (failData n s)) := by
  change execCompletionTimeout (.dataOf n) s = _
  simp [execCompletionTimeout, hawake, failTlp]

theorem exec_poisonedTlp_barWrite {s : State} (hawake : awake s = true) :
    exec (.poisonedTlp .barWrite false) s = .next (logAer 1 s) := by
  change execPoisonedTlp .barWrite false s = _
  simp [execPoisonedTlp, hawake, failTlp]

theorem exec_poisonedTlp_ecrcUnchecked {s : State} (k : TlpKind) (hunchecked : s.link.ecrcCheck = false) :
    exec (.poisonedTlp k true) s = .next s := by
  change execPoisonedTlp k true s = _
  simp [execPoisonedTlp, hunchecked]

/-- Settles O6: a link event writes the link's own fields, an error adds `logAer`, and failed data end their command by
`failData`, which writes no card. -/
theorem linkEventsAndErrors : Obligations.LinkEventsAndErrors := by
  refine ⟨⟨?firstL0, ?laterL0, fun s d3 hawake => exec_dStateChange_awake hawake d3,
    fun s => exec_unexpectedCompletion_awake, fun s hawake => exec_unsupportedRequest_awake hawake true,
    fun s hawake => exec_unsupportedRequest_awake hawake false, fun s k hawake => exec_malformedTlp_awake hawake k,
    ?correctable, ?entersL1, fun s sub hawake => exec_aspmL1_up hawake false⟩, ?poisoned, ?timedOut,
    fun s => exec_poisonedTlp_barWrite, fun s => exec_poisonedTlp_ecrcUnchecked⟩
  case firstL0 =>
    intro s ms rate width flit hawake hlegal hseen
    rw [exec_linkUp_legal hawake hlegal, hseen]
    rfl
  case laterL0 =>
    intro s ms rate width flit hawake hlegal hseen
    simp [exec_linkUp_legal hawake hlegal, hseen]
  case correctable =>
    intro s k hawake
    refine ⟨_, exec_correctableLinkError_awake hawake k, rfl, rfl, rfl, fun n hn => ?_, fun v hv => ?_⟩
    · rw [countC1_getElem, if_neg hn]
    · rw [countC1_getElem, if_pos rfl, hv]
      rfl
  case entersL1 =>
    intro s sub hawake hup hsub
    simp [exec_aspmL1_up hawake true hup hsub]
  case poisoned =>
    intro s n c hawake hc hphase
    exact ⟨_, exec_poisonedTlp_dataOf n hawake, logAer_failData_facts hc hphase 0⟩
  case timedOut =>
    intro s n c hawake hc hphase
    exact ⟨_, exec_completionTimeout_dataOf n hawake, logAer_failData_facts hc hphase 2⟩

end Sys2Proof.Machine
end

section
/-! PROOFS. The controller resets (R205, R220, R263). Log entries 94, 127 and 170 are the model's choices here: CC keeps
its other fields when EN is cleared, a Function Level Reset leaves the function in D0, and the configuration registers
reset, and the sticky ones stand, as in the PCI Express base specification. -/

namespace Sys2Proof.Machine

/-! ## What a reset leaves -/

/-- The controller after a reset: no queue, command, completion or event, and the features of Table 10.4. -/
def freshController (s : State) : Nvme :=
  { s.nv with
    cc := 0, rdy := false, shst := 0, cfs := false, intms := 0, sqs := [], cqs := [], cmds := [], waiting := []
    vectors := [], aers := [], events := [], exclusive := [], rrLast := [0, 0, 0, 0], rrCount := [0, 0, 0, 0]
    wrrUsed := [0, 0, 0], feat := resetFeatures s }

/-- A reset clears the controller, gives the buffers of its commands back, and leaves their reads with nobody waiting;
map, Ledger, block table, flash, link and mode stay (R220). -/
theorem controllerReset_rest (s : State) : controllerReset s = { s with
    nv := freshController s
    pools := (controllerReset s).pools, fl := (controllerReset s).fl, esc := (controllerReset s).esc
    wr := { s.wr with locks := [], transit := (controllerReset s).wr.transit }
    key := { s.key with renewals := (controllerReset s).key.renewals }
    lib := (controllerReset s).lib, upd := (controllerReset s).upd
    fol := { s.fol with committing := none } } := by
  obtain ⟨p, hdrop⟩ := dropAll_rest s
  rw [controllerReset, hdrop]
  rfl

/-- The Daybook's record of a reset adds its own parts to that. -/
theorem hostReset_rest (kind : Nat) (s : State) : hostReset kind s = { s with
    nv := freshController s
    pools := (hostReset kind s).pools, fl := (hostReset kind s).fl, esc := (hostReset kind s).esc
    wr := { s.wr with locks := [], transit := (hostReset kind s).wr.transit }
    key := { s.key with renewals := (hostReset kind s).key.renewals }
    lib := (hostReset kind s).lib, upd := (hostReset kind s).upd
    fol := { s.fol with committing := none }
    day := (hostReset kind s).day, cdx := (hostReset kind s).cdx } := by
  rw [hostReset, record_rest, controllerReset_rest]

/-! ## The commands -/

section
variable {s : State} (hawake : awake s = true) (hmode : s.mode.mode ≠ .coast)
include hawake hmode

theorem exec_functionLevelReset_outsideCoast :
    exec .functionLevelReset s = .next (hostReset 1 { s with link := { s.link with d3hot := false } }) := by
  change execFunctionLevelReset s = _
  simp [execFunctionLevelReset, hawake, hmode]

theorem exec_hotReset_outsideCoast : exec .hotReset s = .next (hostReset 2 (lockOnHot (resetConfig s))) := by
  change execHotReset s = _
  simp [execHotReset, hawake, hmode]

theorem exec_linkDown_outsideCoast : exec .linkDown s =
    .next (hostReset 3 (resetConfig { s with link := { s.link with up := false, aspm := 0 } })) := by
  change execLinkDown s = _
  simp [execLinkDown, hawake, hmode]

/-- CC reads its old value with EN and SHN cleared (log entry 94). -/
theorem exec_ccEnClear_outsideCoast (hd0 : s.link.d3hot = false) (hen : s.nv.cc.getLsbD 0 = true) :
    exec .ccEnClear s = .next { hostReset 0 s with
      nv := { (hostReset 0 s).nv with cc := s.nv.cc &&& 0xFFFF3FFE#32 } } := by
  change execCcEnClear s = _
  simp [execCcEnClear, hawake, hd0, hen, hmode]

end

theorem awake_of_coast {s : State} (hcoast : s.mode.mode = .coast) : awake s = true := by
  simp [awake, hcoast]

theorem exec_functionLevelReset_inCoast {s : State} (hcoast : s.mode.mode = .coast) :
    exec .functionLevelReset s = .next { s with link := { s.link with d3hot := false } } := by
  change execFunctionLevelReset s = _
  simp [execFunctionLevelReset, awake_of_coast hcoast, hcoast]

theorem exec_hotReset_inCoast {s : State} (hcoast : s.mode.mode = .coast) :
    exec .hotReset s = .next (resetConfig s) := by
  change execHotReset s = _
  simp [execHotReset, awake_of_coast hcoast, hcoast]

/-- Settles O5: each reset is `hostReset` of its state with the link's part changed, and what that leaves is
`hostReset_rest`; in Coast the configuration alone is reset. -/
theorem controllerResetsKeepTheMap : Obligations.ControllerResetsKeepTheMap := by
  refine ⟨?functionLevel, ?hot, ?down, ?disable, ?inCoast⟩
  case functionLevel =>
    intro s hawake hmode
    refine ⟨_, exec_functionLevelReset_outsideCoast hawake hmode, ?_⟩
    rw [hostReset_rest]
    exact ⟨rfl, rfl, rfl, rfl, rfl, rfl, rfl, rfl, rfl, rfl, rfl, rfl, rfl, rfl, rfl, rfl, rfl, rfl⟩
  case hot =>
    intro s hawake hmode
    refine ⟨_, exec_hotReset_outsideCoast hawake hmode, ?_⟩
    rw [hostReset_rest]
    exact ⟨rfl, rfl, rfl, rfl, rfl, rfl, rfl, rfl, rfl, rfl, rfl, rfl, rfl, rfl, rfl, rfl, rfl⟩
  case down =>
    intro s hawake hmode
    refine ⟨_, exec_linkDown_outsideCoast hawake hmode, ?_⟩
    rw [hostReset_rest]
    exact ⟨rfl, rfl, rfl, rfl, rfl, rfl, rfl, rfl, rfl⟩
  case disable =>
    intro s hawake hd0 hen hmode
    refine ⟨_, exec_ccEnClear_outsideCoast hawake hmode hd0 hen, ?_⟩
    rw [hostReset_rest]
    exact ⟨rfl, rfl, rfl, rfl, rfl, rfl, rfl, rfl, rfl⟩
  case inCoast =>
    intro s hcoast
    exact ⟨exec_functionLevelReset_inCoast hcoast, _, exec_hotReset_inCoast hcoast, rfl, rfl, rfl, rfl, rfl, rfl⟩

end Sys2Proof.Machine
end

section
/-! PROOFS. NVMe-MI over the sideband (R211, R212). Log entry 103 is the model's choice here: the bodies of the data
structures follow the NVMe-MI specification, and a VPD Write is refused with Access Denied. -/

namespace Sys2Proof.Machine

/-! ## How a request arrives -/

section
variable {s : State} (hserve : serving s = true)
include hserve

/-- In a serving mode a request is answered at once while the Librarian runs. -/
theorem miArrives_running (i : Instr) (hlib : s.lib.state = 0) : miArrives i s = miRun i s := by
  obtain ⟨hawake, hcoast, hrecovery⟩ := serving_facts hserve
  simp [miArrives, hawake, hcoast, hrecovery, hlib]

/-- While the Librarian restarts every request is held, but the one that hardware answers. -/
theorem miArrives_restarting {i : Instr} (hother : i ≠ .nvmeMiBasicManagement) (hlib : s.lib.state = 1) :
    miArrives i s = { s with lib := { s.lib with heldMi := s.lib.heldMi ++ [i] } } := by
  obtain ⟨hawake, hcoast, hrecovery⟩ := serving_facts hserve
  simp [miArrives, hawake, hcoast, hrecovery, hother, hlib]

end

theorem miArrives_basicManagement {s : State} (hawake : awake s = true) (hmode : s.mode.mode ≠ .coast) :
    miArrives .nvmeMiBasicManagement s = miSend 0x100 0 (basicBody s) s := by
  simp [miArrives, hawake, hmode, miRun, miCode]

/-! ## What a request is answered with -/

theorem miRun_readDataStructure {s : State} {kind : Nat} {b : Blob} (hbody : structureBody s kind = some b) :
    miRun (.nvmeMiReadDataStructure kind) s = miSend 0 0 b s := by
  simp [miRun, miCode, hbody]

theorem miRun_configurationSet_frequency {v : Nat} (s : State) (hlow : 1 ≤ v) (hhigh : v ≤ 3) :
    miRun (.nvmeMiConfigurationSet 1 v) s =
      miSend 3 0 { len := 0, fields := [] } { s with upd := { s.upd with miFreq := v - 1 } } := by
  simp [miRun, miCode, configSet, hlow, hhigh, miRefuse]

theorem miRun_vpdRead {off len : Nat} (s : State) (hfit : off + len ≤ 256) : miRun (.nvmeMiVpdRead off len) s =
    miSend 5 0 { len := len, fields := [(0, len, fruData s / 256 ^ off % 256 ^ len)] } s :=
  if_neg (Nat.not_lt.mpr hfit)

/-- A tunnelled command other than Get Log Page draws no open value. -/
theorem miRun_tunnelledAdmin {s : State} {e : SqEntry} {b : Blob} (hop : e.opcode ≠ 0x02)
    (hbody : tunnelBody s e = some b) : miRun (.nvmeMiTunnelledAdmin e) s = miSend (0x200 + e.opcode) 0 b s := by
  simp [miRun, miCode, hbody, hop]

/-- Settles O18: with the Librarian running a request is `miRun`, whose branch of the request queues the one answer. -/
theorem nvmeMiRequestsAreAnswered : Obligations.NvmeMiRequestsAreAnswered := by
  refine ⟨?basic, ?polls, ?structureRead, ?configGet, ?configSet, ?vpdRead, ?vpdWrite, ?tunnelled, ?invalid, ?held⟩
  case basic =>
    intro s hawake hmode
    exact congrArg _ (miArrives_basicManagement hawake hmode)
  case polls =>
    intro s hserve hlib
    exact ⟨congrArg _ (miArrives_running hserve .nvmeMiSubsystemHealthPoll hlib),
      congrArg _ (miArrives_running hserve .nvmeMiControllerHealthPoll hlib)⟩
  case structureRead =>
    intro s kind b hserve hlib hbody
    exact congrArg _ ((miArrives_running hserve _ hlib).trans (miRun_readDataStructure hbody))
  case configGet =>
    intro s hserve hlib
    exact congrArg _ (miArrives_running hserve (.nvmeMiConfigurationGet 1) hlib)
  case configSet =>
    intro s v hserve hlib hlow hhigh
    exact congrArg _ ((miArrives_running hserve _ hlib).trans (miRun_configurationSet_frequency s hlow hhigh))
  case vpdRead =>
    intro s off len hserve hlib hfit
    exact congrArg _ ((miArrives_running hserve _ hlib).trans (miRun_vpdRead s hfit))
  case vpdWrite =>
    intro s off len hserve hlib
    exact congrArg _ (miArrives_running hserve (.nvmeMiVpdWrite off len) hlib)
  case tunnelled =>
    intro s e b hserve hlib hop hbody
    exact congrArg _ ((miArrives_running hserve _ hlib).trans (miRun_tunnelledAdmin hop hbody))
  case invalid =>
    intro s op hserve hlib
    exact congrArg _ (miArrives_running hserve (.nvmeMiInvalidCommand op) hlib)
  case held =>
    intro s hserve hlib
    exact congrArg _ (miArrives_restarting hserve (by decide) hlib)

end Sys2Proof.Machine
end

section
/-! PROOFS. The sticky and the clearing registers of BAR2 (R8, R163, R207, R208, R345, R381) and the request of a
hold-up test (R183). -/

namespace Sys2Proof.Machine

/-! ## A sticky register takes a value -/

/-- Only the sticky registers of `t` may differ from those of `s`. -/
def StickyAlone (s t : State) : Prop :=
  t = { s with
    esc := { s.esc with sticky := t.esc.sticky }, coast := { s.coast with sticky := t.coast.sticky }
    key := { s.key with sticky := t.key.sticky }, dram := { s.dram with sticky := t.dram.sticky }
    day := { s.day with sticky := t.day.sticky } }

/-- The five sticky registers in the order of INDEX (Table 16.5). -/
def stickies (s : State) : List Word32 :=
  [s.esc.sticky, s.coast.sticky, s.key.sticky, s.dram.sticky, s.day.sticky]

theorem stickyAt_eq (s : State) (idx : Nat) : stickyAt s idx = (stickies s)[idx]? := by
  rcases idx with _ | _ | _ | _ | _ | n <;> rfl

theorem stickies_setSticky (idx : Nat) (v : Word32) (s : State) :
    stickies (setSticky idx v s) = (stickies s).set idx v := by
  rcases idx with _ | _ | _ | _ | _ | n <;> rfl

theorem setSticky_alone (idx : Nat) (v : Word32) (s : State) : StickyAlone s (setSticky idx v s) := by
  rcases idx with _ | _ | _ | _ | _ | n <;> rfl

theorem stickyAt_setSticky_same {s : State} {idx : Nat} {v : Word32} (w : Word32) (hv : stickyAt s idx = some v) :
    stickyAt (setSticky idx w s) idx = some w := by
  rw [stickyAt_eq] at hv ⊢
  rw [stickies_setSticky, List.getElem?_set_self (List.getElem?_eq_some_iff.mp hv).1]

theorem stickyAt_setSticky_other {idx j : Nat} (w : Word32) (s : State) (hj : j ≠ idx) :
    stickyAt (setSticky idx w s) j = stickyAt s j := by
  rw [stickyAt_eq, stickyAt_eq, stickies_setSticky, List.getElem?_set_ne hj.symm]

/-! ## The writes -/

theorem clearSticky_eq {s : State} {idx : Nat} {v : Word32} (mask : Word32) (hv : stickyAt s idx = some v) :
    clearSticky idx mask s = setSticky idx (v &&& ~~~ mask) s := by
  simp [clearSticky, hv]

section
variable {s : State} (hbar : barOn s = true)
include hbar

theorem exec_stickyRw1cWrite_barOn (idx : Nat) (mask : Word32) :
    exec (.stickyRw1cWrite idx mask) s = .next (clearSticky idx mask s) := congrArg _ (if_pos hbar)

theorem exec_ksEscClear_barOn (v : Word32) : exec (.ksEscClear v) s = .next (clearEsc v s) := congrArg _ (if_pos hbar)

theorem exec_ksDramClear_barOn (v : Word32) : exec (.ksDramClear v) s = .next (clearLate v s) :=
  congrArg _ (if_pos hbar)

theorem exec_ksPoolClear_barOn (v : Word32) : exec (.ksPoolClear v) s = .next (clearPools v s) :=
  congrArg _ (if_pos hbar)

theorem exec_ksHoldupRun_test {v : Word32} (hbit : v.getLsbD 0 = true) (hfree : testFree s = true) :
    exec (.ksHoldupRun v) s = .next (leaveIdle { s with coast := { s.coast with test := .requested } }) := by
  change execKsHoldupRun v s = _
  rw [execKsHoldupRun, hbar, hbit, requestTest, if_pos hfree]
  rfl

end

/-- Settles O19: an RW1C write is `setSticky` of the value without the mask, and each clearing register acts on bit 0
alone. -/
theorem clearingWritesClearTheirBits : Obligations.ClearingWritesClearTheirBits := by
  refine ⟨?sticky, ?one, ?zero⟩
  case sticky =>
    intro s idx v mask hbar hv
    refine ⟨_, (exec_stickyRw1cWrite_barOn hbar idx mask).trans (congrArg _ (clearSticky_eq mask hv)), ?_⟩
    exact ⟨stickyAt_setSticky_same _ hv, fun j hj => stickyAt_setSticky_other _ s hj,
      setSticky_alone idx _ s⟩
  case one =>
    intro s v hbar hbit
    exact ⟨(exec_ksEscClear_barOn hbar v).trans (congrArg _ (if_pos hbit)),
      (exec_ksDramClear_barOn hbar v).trans (congrArg _ (if_pos hbit)), exec_ksHoldupRun_test hbar hbit⟩
  case zero =>
    intro s v hbit
    have hclear : ¬ v.getLsbD 0 = true := by rw [hbit]; decide
    refine ⟨?_, ?_, ?_⟩
    · change execKsEscClear v s = _
      rw [execKsEscClear, clearEsc, if_neg hclear, ite_self]
    · change execKsDramClear v s = _
      rw [execKsDramClear, clearLate, if_neg hclear, ite_self]
    · change execKsHoldupRun v s = _
      rw [execKsHoldupRun, hbit, Bool.and_false]
      rfl

end Sys2Proof.Machine
end

section
/-! PROOFS. Register writes, CC.EN and the shutdown notifications (R174, R191, R192, R201, R207, R208, R213). Log
entries 24, 94 and 170 are the model's choices here: the MSI-X table follows the PCIe base specification, CC_EN_SET
makes the admin queues from AQA, and a write with BAR 255 is a configuration write. -/

namespace Sys2Proof.Machine

/-! ## What reaches a register -/

theorem exec_registerWrite_config (off value : Nat) (s : State) : exec (.registerWrite 255 off 4 value) s =
    .next (if configOn s then configWrite off value s else s) := by
  change execRegisterWrite 255 off 4 value s = _
  simp [execRegisterWrite]

/-- A memory write to a part in Dormant or D3hot, or outside the three BARs, reaches nothing. -/
theorem exec_registerWrite_unheard {s : State} {bar : Nat} (off size value : Nat) (hbar : bar ≠ 255)
    (h : awake s = false ∨ s.link.d3hot = true ∨ bar ∉ [0, 2, 4]) :
    exec (.registerWrite bar off size value) s = .next s := by
  change execRegisterWrite bar off size value s = _
  rcases h with h | h | h
  · simp [execRegisterWrite, hbar, h]
  · simp [execRegisterWrite, hbar, h]
  · simp only [List.mem_cons, List.not_mem_nil, or_false, not_or] at h
    obtain ⟨h0, h2, h4⟩ := h
    simp [execRegisterWrite, hbar, h0, h2, h4]

/-- A memory write that changes nothing where it is heard changes nothing at all. -/
theorem exec_registerWrite_ignored {bar off size value : Nat} {s : State} (hbar : bar ≠ 255)
    (h : awake s = true → s.link.d3hot = false → exec (.registerWrite bar off size value) s = .next s) :
    exec (.registerWrite bar off size value) s = .next s := by
  cases hawake : awake s with
  | false => exact exec_registerWrite_unheard off size value hbar (.inl hawake)
  | true => cases hd : s.link.d3hot with
    | true => exact exec_registerWrite_unheard off size value hbar (.inr (.inl hd))
    | false => exact h hawake hd

section
variable {s : State} (hawake : awake s = true) (hd0 : s.link.d3hot = false)
include hawake hd0

theorem exec_registerWrite_bar0 (off size value : Nat) :
    exec (.registerWrite 0 off size value) s = .next (writeBar0 off size value s) := by
  change execRegisterWrite 0 off size value s = _
  simp [execRegisterWrite, hawake, hd0]

theorem exec_registerWrite_bar2 (off size value : Nat) :
    exec (.registerWrite 2 off size value) s = .next (writeBar2 off size (BitVec.ofNat 32 value) s) := by
  change execRegisterWrite 2 off size value s = _
  simp [execRegisterWrite, hawake, hd0]

theorem exec_registerWrite_bar4 (off size value : Nat) : exec (.registerWrite 4 off size value) s =
    .next (if off % 4 = 0 ∧ size = 4 ∧ off < 0x8000 then writeMsix (off / 4) value s else s) := by
  change execRegisterWrite 4 off size value s = _
  simp [execRegisterWrite, hawake, hd0, and_assoc]

end

theorem barOn_of_d0 {s : State} (hawake : awake s = true) (hd0 : s.link.d3hot = false) : barOn s = true := by
  simp [barOn, hawake, hd0]

/-! ## BAR0 (R213) -/

/-- The registers of BAR0 that have no command of their own, by offset and size. -/
def bar0Registers : List (Nat × Nat) :=
  [(0x0C, 4), (0x10, 4), (0x14, 4), (0x24, 4), (0x28, 8), (0x28, 4), (0x2C, 4), (0x30, 8), (0x30, 4), (0x34, 4)]

theorem writeBar0_other {off size : Nat} (value : Nat) (s : State) (h : (off, size) ∉ bar0Registers) :
    writeBar0 off size value s = s := by
  unfold writeBar0
  split <;> simp_all [bar0Registers]

/-! ## BAR2 (R207, R208) -/

theorem writeBar2_sticky {i : Nat} (value : Word32) (s : State) (hi : i < 5) :
    writeBar2 (0x200 + 4 * i) 4 value s = clearSticky i value s := by
  have hmod : (0x200 + 4 * i) % 4 = 0 := by omega
  have hend : 0x200 + 4 * i < 0x214 := by omega
  have hidx : (0x200 + 4 * i - 0x200) / 4 = i := by omega
  simp [writeBar2, hmod, hend]

/-- Below 0x130 BAR2 has no register that a write reaches, and a write of another size or alignment reaches none. -/
theorem writeBar2_ignored {off size : Nat} (value : Word32) (s : State)
    (h : size ≠ 4 ∨ off % 4 ≠ 0 ∨ off < 0x130) : writeBar2 off size value s = s := by
  unfold writeBar2
  split
  · rfl
  · rename_i hword
    have hlow : off < 0x130 := by simp at hword; omega
    rw [if_neg (by simp; omega)]
    split <;> simp_all

/-! ## The MSI-X table (R201) -/

/-- The value of an unlisted dword of the MSI-X table: of vector control the mask bit is set. -/
def msixDefault (i : Nat) : Nat := if i % 4 = 3 then 1 else 0

/-- A message or its pending bit leaves the table. -/
theorem emitMsix_rest (v : Nat) (s : State) : emitMsix v s =
    { s with nv := { s.nv with pba := (emitMsix v s).nv.pba, msix := (emitMsix v s).nv.msix } } := by
  unfold emitMsix
  split <;> rfl

/-- A dword of the table takes its value. -/
def storeMsix (i value : Nat) (s : State) : State :=
  { s with nv := { s.nv with msixTab := mapPut (msixDefault i) i (value % 2 ^ 32) s.nv.msixTab } }

/-- A vector is no longer pending. -/
def clearPending (v : Nat) (s : State) : State :=
  { s with nv := { s.nv with pba := s.nv.pba.filter fun x => x != v } }

theorem writeMsix_eq (i value : Nat) (s : State) : writeMsix i value s =
    let t := storeMsix i value s
    if t.nv.pba.contains (i / 4) && ! vectorMasked t (i / 4) then emitMsix (i / 4) (clearPending (i / 4) t) else t :=
  rfl

theorem writeMsix_rest (i value : Nat) (s : State) : writeMsix i value s = { storeMsix i value s with
    nv := { (storeMsix i value s).nv with
      pba := (writeMsix i value s).nv.pba, msix := (writeMsix i value s).nv.msix } } := by
  rw [writeMsix_eq]
  dsimp only
  split
  · rw [emitMsix_rest]
    rfl
  · rfl

theorem mapAt_msixDefault_mapPut (i j v : Nat) (l : List (Nat × Nat)) :
    mapAt (msixDefault j) j (mapPut (msixDefault i) i v l) = if j = i then v else mapAt (msixDefault j) j l := by
  by_cases hj : j = i
  · subst hj
    rw [mapAt_mapPut_eq]
  · rw [mapAt_mapPut, if_neg hj, if_neg hj]

/-! ## Configuration writes (R191) -/

theorem configWrite_command (value : Nat) (s : State) : configWrite 0x04 value s =
    { s with link := { s.link with cfg := { s.link.cfg with
      memory := value.testBit 1, master := value.testBit 2 } } } := by
  simp only [configWrite, Nat.testBit_mod_two_pow]
  rfl

/-! ## CC.EN and CC.SHN (R174, R192) -/

theorem exec_ccEnSet_outsideCoast {s : State} (hawake : awake s = true) (hd0 : s.link.d3hot = false)
    (hen : s.nv.cc.getLsbD 0 = false) (hmode : s.mode.mode ≠ .coast) : exec .ccEnSet s = .next (enable s) := by
  change execCcEnSet s = _
  rw [execCcEnSet, hawake, hd0, hen]
  simp [shutdownHold, hmode]

section
variable {s : State} (hawake : awake s = true) (hd0 : s.link.d3hot = false) (hmode : s.mode.mode = .recovery)
include hawake hd0 hmode

theorem exec_shutdownNormal_inRecovery : exec .shutdownNormal s = .next (shutdownPlain (noteShn 1 s)) := by
  change execShutdownNormal s = _
  simp [execShutdownNormal, hawake, hd0, hmode]

theorem exec_shutdownAbrupt_inRecovery : exec .shutdownAbrupt s = .next (shutdownPlain (noteShn 2 s)) := by
  change execShutdownAbrupt s = _
  simp [execShutdownAbrupt, hawake, hd0, hmode]

end

/-- A notification shows SHST 1h before anything else of it happens. -/
def shutdownBegins (kind : Nat) (s : State) : State :=
  { noteShn kind s with nv := { (noteShn kind s).nv with shst := 1 } }

theorem shutdownAdvance_outstanding {s : State} (hopen : commandsDone s = false) : shutdownAdvance s = s := by
  simp [shutdownAdvance, hopen]

section
variable {s : State} (hserve : serving s = true) (hd0 : s.link.d3hot = false)
include hserve hd0

theorem exec_shutdownNormal_serving (hfirst : s.nv.shst = 0) :
    exec .shutdownNormal s = .next (shutdownAdvance (shutdownBegins 1 s)) := by
  obtain ⟨hawake, -⟩ := serving_facts hserve
  change execShutdownNormal s = _
  unfold serving at hserve
  cases hmode : s.mode.mode <;> simp_all [execShutdownNormal, shutdownBegins]

theorem exec_shutdownAbrupt_serving : exec .shutdownAbrupt s = .next (coastEntry .abrupt (shutdownBegins 2 s)) := by
  obtain ⟨hawake, -⟩ := serving_facts hserve
  change execShutdownAbrupt s = _
  unfold serving at hserve
  cases hmode : s.mode.mode <;> simp_all [execShutdownAbrupt, shutdownBegins]

end

/-! ## The statement -/

/-- Settles O10: a memory write that is heard is the write of its BAR, `enable` makes the admin queues, and a shutdown
notification is `noteShn` and what its mode runs. -/
theorem registersEnableAndShutdown : Obligations.RegistersEnableAndShutdown := by
  refine ⟨⟨fun s v hawake hd0 => exec_registerWrite_bar0 hawake hd0 0x0C 4 v,
    fun s v hawake hd0 => exec_registerWrite_bar0 hawake hd0 0x10 4 v,
    fun s v hawake hd0 => exec_registerWrite_bar0 hawake hd0 0x24 4 v,
    fun s v hawake hd0 => exec_registerWrite_bar0 hawake hd0 0x28 8 v,
    fun s v hawake hd0 => ⟨exec_registerWrite_bar0 hawake hd0 0x30 8 v, exec_registerWrite_bar0 hawake hd0 0x14 4 v,
      exec_registerWrite_bar0 hawake hd0 0x28 4 v, exec_registerWrite_bar0 hawake hd0 0x2C 4 v,
      exec_registerWrite_bar0 hawake hd0 0x30 4 v, exec_registerWrite_bar0 hawake hd0 0x34 4 v⟩,
    ?bar0Other, ?msixWord, ?msixOther, ?bar2, ?bar2Other, ?command, ?configOff, ?unheard⟩,
    ?enabled, ?normalRecovery, ?abruptRecovery, ?normalServing, ?abruptServing⟩
  case bar0Other =>
    intro s off size v hother
    exact exec_registerWrite_ignored (by decide) fun hawake hd0 =>
      (exec_registerWrite_bar0 hawake hd0 off size v).trans (congrArg _ (writeBar0_other v s hother))
  case msixWord =>
    intro s i v hawake hd0 hi
    have hwrite : exec (.registerWrite 4 (4 * i) 4 v) s = .next (writeMsix i v s) := by
      rw [exec_registerWrite_bar4 hawake hd0, if_pos (by omega), Nat.mul_div_cancel_left i (by decide)]
    refine ⟨_, hwrite, ?_⟩
    rw [writeMsix_rest]
    exact ⟨rfl, fun j => mapAt_msixDefault_mapPut i j (v % 2 ^ 32) s.nv.msixTab⟩
  case msixOther =>
    intro s off size v hother
    refine exec_registerWrite_ignored (by decide) fun hawake hd0 => ?_
    rw [exec_registerWrite_bar4 hawake hd0, if_neg (by omega)]
  case bar2 =>
    intro s v hawake hd0
    have hbar := barOn_of_d0 hawake hd0
    refine ⟨?_, ?_, ?_, fun i hi => ?_⟩
    · exact (exec_registerWrite_bar2 hawake hd0 0x134 4 v).trans (exec_ksPoolClear_barOn hbar _).symm
    · exact (exec_registerWrite_bar2 hawake hd0 0x58C 4 v).trans (exec_ksDramClear_barOn hbar _).symm
    · exact (exec_registerWrite_bar2 hawake hd0 0x200C 4 v).trans (exec_ksEscClear_barOn hbar _).symm
    · rw [exec_registerWrite_bar2 hawake hd0, writeBar2_sticky _ s hi, exec_stickyRw1cWrite_barOn hbar]
  case bar2Other =>
    intro s off size v hother
    exact exec_registerWrite_ignored (by decide) fun hawake hd0 =>
      (exec_registerWrite_bar2 hawake hd0 off size v).trans (congrArg _ (writeBar2_ignored _ s hother))
  case command =>
    intro s v hon
    rw [exec_registerWrite_config, if_pos hon, configWrite_command]
  case configOff =>
    intro s off v hoff
    rw [exec_registerWrite_config, if_neg (by simp [hoff])]
  case unheard =>
    intro s bar off size v
    exact exec_registerWrite_unheard off size v
  case enabled =>
    intro s hawake hd0 hen hmode
    exact ⟨_, exec_ccEnSet_outsideCoast hawake hd0 hen hmode, rfl, rfl, rfl, rfl, rfl⟩
  case normalRecovery =>
    intro s
    exact exec_shutdownNormal_inRecovery
  case abruptRecovery =>
    intro s
    exact exec_shutdownAbrupt_inRecovery
  case normalServing =>
    intro s hserve hd0 hfirst hopen
    have hwaits : shutdownAdvance (shutdownBegins 1 s) = shutdownBegins 1 s := shutdownAdvance_outstanding hopen
    exact (exec_shutdownNormal_serving hserve hd0 hfirst).trans (congrArg _ hwaits)
  case abruptServing =>
    intro s hserve hd0
    exact (exec_shutdownAbrupt_serving hserve hd0).trans
      (congrArg _ (coastEntry_serving .abrupt (s := shutdownBegins 2 s) hserve))

end Sys2Proof.Machine
end

section
/-! PROOFS. The queues (R71, R197, R201, R214 to R219): what a doorbell, a fetch, a posting and an interrupt vector's
message each change of the controller. Vector masking and the pending bit are presumed from PCI Express (log entry 24). -/

namespace Sys2Proof.Machine

/-! ## Queues, slots and vectors read after a change -/

theorem sqAt_qid {s : State} {n : Nat} {q : Sq} (hq : sqAt s n = some q) : q.qid = n := by
  simpa using List.find?_some (p := fun x : Sq => decide (x.qid = n)) hq

theorem cqAt_qid {s : State} {n : Nat} {q : Cq} (hq : cqAt s n = some q) : q.qid = n := by
  simpa using List.find?_some (p := fun x : Cq => decide (x.qid = n)) hq

theorem sqAt_modSq {n m : Nat} {f : Sq → Sq} (hf : ∀ x, (f x).qid = x.qid) (s : State) :
    sqAt (modSq n f s) m = (sqAt s m).map fun x => if x.qid = n then f x else x := by
  have hsame : ∀ x : Sq, decide ((if decide (x.qid = n) then f x else x).qid = m) = decide (x.qid = m) := by
    intro x; split <;> simp [hf]
  simpa [sqAt, modSq] using
    find?_modWhere (fun x : Sq => decide (x.qid = n)) f (fun x => decide (x.qid = m)) s.nv.sqs hsame

theorem sqAt_modSq_same {n : Nat} {f : Sq → Sq} {s : State} {q : Sq} (hf : ∀ x, (f x).qid = x.qid)
    (hq : sqAt s n = some q) : sqAt (modSq n f s) n = some (f q) := by
  simp [sqAt_modSq hf, hq, sqAt_qid hq]

theorem sqAt_modSq_other {n m : Nat} {f : Sq → Sq} (hf : ∀ x, (f x).qid = x.qid) (s : State) (hm : m ≠ n) :
    sqAt (modSq n f s) m = sqAt s m := by
  rw [sqAt_modSq hf]
  cases hq : sqAt s m with
  | none => rfl
  | some q => simp [sqAt_qid hq, hm]

theorem cqAt_modCq {n m : Nat} {f : Cq → Cq} (hf : ∀ x, (f x).qid = x.qid) (s : State) :
    cqAt (modCq n f s) m = (cqAt s m).map fun x => if x.qid = n then f x else x := by
  have hsame : ∀ x : Cq, decide ((if decide (x.qid = n) then f x else x).qid = m) = decide (x.qid = m) := by
    intro x; split <;> simp [hf]
  simpa [cqAt, modCq] using
    find?_modWhere (fun x : Cq => decide (x.qid = n)) f (fun x => decide (x.qid = m)) s.nv.cqs hsame

theorem cqAt_modCq_same {n : Nat} {f : Cq → Cq} {s : State} {q : Cq} (hf : ∀ x, (f x).qid = x.qid)
    (hq : cqAt s n = some q) : cqAt (modCq n f s) n = some (f q) := by
  simp [cqAt_modCq hf, hq, cqAt_qid hq]

theorem cqAt_modCq_other {n m : Nat} {f : Cq → Cq} (hf : ∀ x, (f x).qid = x.qid) (s : State) (hm : m ≠ n) :
    cqAt (modCq n f s) m = cqAt s m := by
  rw [cqAt_modCq hf]
  cases hq : cqAt s m with
  | none => rfl
  | some q => simp [cqAt_qid hq, hm]

theorem vectorAt_setVector_same (v : VectorSt) (s : State) : vectorAt (setVector v s) v.vector = v := by
  simp [vectorAt, setVector]

theorem vectorAt_setVector_other {v : VectorSt} {w : Nat} (s : State) (hw : w ≠ v.vector) :
    vectorAt (setVector v s) w = vectorAt s w := by
  have hcut : ((s.nv.vectors.filter fun x => x.vector != v.vector).find? fun x => decide (x.vector = w)) =
      s.nv.vectors.find? fun x => decide (x.vector = w) := by
    rw [List.find?_filter]
    congr 1
    funext x
    by_cases hx : x.vector = w <;> simp [hx, hw]
  rw [vectorAt, setVector, List.find?_cons_of_neg (by simpa using hw.symm), hcut, vectorAt]

theorem vectorAt_vector (s : State) (v : Nat) : (vectorAt s v).vector = v := by
  unfold vectorAt
  cases h : s.nv.vectors.find? fun x => decide (x.vector = v) with
  | none => rfl
  | some x => simpa using List.find?_some h

/-! ## Doorbells (R215) -/

theorem badDoorbell_of_no_aers {s : State} (info : Nat) (haers : s.nv.aers = []) : badDoorbell info s = s := by
  simp [badDoorbell, haers]

section
variable {s : State} (hlive : doorbellsLive s = true)
include hlive

theorem exec_sqTailDoorbell_live {n : Nat} {q : Sq} (hq : sqAt s n = some q) (tail : Nat) :
    exec (.sqTailDoorbell n tail) s = .next (if tail ≥ q.size then badDoorbell 1 s
      else leaveIdle (modSq n (fun x => { x with tail := tail }) s)) := by
  change execSqTailDoorbell n tail s = _
  simp [execSqTailDoorbell, hlive, hq]

theorem exec_cqHeadDoorbell_live {n : Nat} {q : Cq} (hq : cqAt s n = some q) (head : Nat) :
    exec (.cqHeadDoorbell n head) s = .next (if q.size ≤ head ∨ cqUsed q < (head + q.size - q.head) % q.size then
      badDoorbell 1 s else leaveIdle (modCq n (fun x => { x with head := head }) s)) := by
  change execCqHeadDoorbell n head s = _
  simp [execCqHeadDoorbell, hlive, hq]

end

/-- Settles O7: a valid doorbell is the change of its one queue and the end of Idle Service; an invalid one is
`badDoorbell`, which reports to an event request alone. -/
theorem doorbellsMoveTheirQueueAlone : Obligations.DoorbellsMoveTheirQueueAlone := by
  refine ⟨?tail, ?tailOutside, ?head, ?headOutside⟩
  case tail =>
    intro s q n tail hlive hq hin
    have hexec := exec_sqTailDoorbell_live hlive hq tail
    rw [if_neg (Nat.not_le.mpr hin)] at hexec
    exact ⟨_, hexec, rfl, rfl, rfl, sqAt_modSq_same (fun _ => rfl) hq,
      fun m hm => sqAt_modSq_other (f := fun x => { x with tail := tail }) (fun _ => rfl) s hm, rfl, rfl⟩
  case tailOutside =>
    intro s q n tail hlive hq hout haers
    rw [exec_sqTailDoorbell_live hlive hq, if_pos hout, badDoorbell_of_no_aers 1 haers]
  case head =>
    intro s q n head hlive hq hin hposted
    have hexec := exec_cqHeadDoorbell_live hlive hq head
    rw [if_neg (by omega)] at hexec
    exact ⟨_, hexec, rfl, rfl, rfl, rfl, cqAt_modCq_same (fun _ => rfl) hq,
      fun m hm => cqAt_modCq_other (f := fun x => { x with head := head }) (fun _ => rfl) s hm⟩
  case headOutside =>
    intro s q n head hlive hq hout haers
    rw [exec_cqHeadDoorbell_live hlive hq, if_pos hout, badDoorbell_of_no_aers 1 haers]

/-! ## Fetch (R215, R217, R71) -/

theorem cmdAt_of_slotFree {s : State} {slot : Nat} (hfree : slotFree s slot = true) : cmdAt s slot = none := by
  simp only [slotFree, Bool.and_eq_true, Bool.not_eq_true', List.any_eq_false] at hfree
  obtain ⟨hcmds, -⟩ := hfree
  exact List.find?_eq_none.mpr hcmds

theorem slotFree_of_fetchLegal {slot qid : Nat} {s : State} (hlegal : fetchLegal slot qid s = true) :
    slotFree s slot = true := by
  simp only [fetchLegal, Bool.and_eq_true] at hlegal
  obtain ⟨⟨⟨-, hfree⟩, -⟩, -⟩ := hlegal
  exact hfree

theorem takeEntry_cmds (slot : Nat) (q : Sq) (e : SqEntry) (s : State) :
    (takeEntry slot q e s).nv.cmds = s.nv.cmds ++ [newCmd slot q.qid q.cqid e s] := rfl

/-- An entry whose pointers are legal and that no check ends is taken, and nothing more. -/
theorem fetchEntry_kept {slot n : Nat} {q : Sq} {e : SqEntry} {s : State} (hq : sqAt s n = some q)
    (hpointer : pointerOk n e = true) (hkept : n = 0 ∨ fetchStatus s e = none) :
    fetchEntry slot n e s = leaveIdle (takeEntry slot q e s) := by
  rcases hkept with rfl | hstatus
  · simp [fetchEntry, hq, hpointer]
  · simp [fetchEntry, hq, hpointer, hstatus]

/-- Settles O8: outside the checks that end it at once, a fetch is `takeEntry`, which appends the command and moves its
queue. -/
theorem fetchTakesTheHeadEntry : Obligations.FetchTakesTheHeadEntry := by
  intro s slot n q e hlegal hq hboundary hpointer hkept
  have hexec : exec (.commandFetch slot n e) s = .next (leaveIdle (takeEntry slot q e s)) := by
    change execCommandFetch slot n e s = _
    rw [execCommandFetch, if_pos hlegal, hboundary, fetchEntry_kept hq hpointer hkept]
  have hempty := cmdAt_of_slotFree (slotFree_of_fetchLegal hlegal)
  obtain rfl := sqAt_qid hq
  have hqid : ∀ x : Sq, ({ x with
      head := (x.head + 1) % x.size
      fence := if q.qid != 0 && e.opcode = 0x81 then some slot else x.fence } : Sq).qid = x.qid := fun _ => rfl
  refine ⟨_, hexec, ?_, ?_, fun m hm => sqAt_modSq_other hqid s hm, fun m hm => ?_, rfl, rfl, rfl, rfl, rfl⟩
  · rw [cmdAt] at hempty ⊢
    change List.find? _ (takeEntry slot q e s).nv.cmds = _
    rw [takeEntry_cmds, List.find?_append, hempty]
    simp [newCmd]
  · refine (sqAt_modSq_same hqid hq).trans ?_
    simp
  · rw [cmdAt, cmdAt]
    change List.find? _ (takeEntry slot q e s).nv.cmds = _
    rw [takeEntry_cmds, List.find?_append]
    simp [newCmd, hm.symm]

/-! ## Posting and messages (R201, R218, R219) -/

theorem sendMsix_rest (v : Nat) (s : State) : sendMsix v s = { s with nv := { s.nv with
    pba := (sendMsix v s).nv.pba, msix := (sendMsix v s).nv.msix, vectors := (sendMsix v s).nv.vectors } } := by
  rw [sendMsix, emitMsix_rest]
  rfl

theorem notify_rest (v : Nat) (s : State) : notify v s = { s with nv := { s.nv with
    pba := (notify v s).nv.pba, msix := (notify v s).nv.msix, vectors := (notify v s).nv.vectors } } := by
  unfold notify
  split
  · rfl
  · exact sendMsix_rest v s

/-- The state of a posting before its interrupt: the entry written, the fence fallen, the tail moved. -/
def entryWritten (c : Completion) (q : Cq) (s : State) : State :=
  modCq q.qid (fun x => { x with tail := (x.tail + 1) % x.size }) { s with nv := { s.nv with
    waiting := s.nv.waiting.filter fun x => x.slot != c.slot
    posted := s.nv.posted ++ [c]
    sqs := modWhere (fun x => x.fence = some c.slot) (fun x => { x with fence := none }) s.nv.sqs } }

theorem postEntry_eq (c : Completion) (q : Cq) (s : State) :
    postEntry c q s = if q.ien then notify q.vector (entryWritten c q s) else entryWritten c q s := by
  unfold postEntry
  split <;> rfl

/-- An interrupt touches only the message part of the controller. -/
theorem postEntry_rest (c : Completion) (q : Cq) (s : State) : ∃ p m v, postEntry c q s = { entryWritten c q s with
    nv := { (entryWritten c q s).nv with pba := p, msix := m, vectors := v } } := by
  rw [postEntry_eq]
  split
  · exact ⟨_, _, _, notify_rest q.vector (entryWritten c q s)⟩
  · exact ⟨_, _, _, rfl⟩

theorem exec_completionPost_oldest {s : State} {c : Completion} {q : Cq} (hcoast : s.mode.mode ≠ .coast)
    (hen : s.nv.cc.getLsbD 0 = true) (hd0 : s.link.d3hot = false) (hnext : nextToPost s = some c)
    (hq : cqAt s c.cq = some q) : exec .completionPost s = .next (postEntry c q s) := by
  change execCompletionPost s = _
  simp only [execCompletionPost, hcoast, hen, hd0, hnext, hq]
  rfl

theorem exec_interruptCoalesceExpiry_waiting {s : State} {v : Nat} (hcoast : s.mode.mode ≠ .coast)
    (hd0 : s.link.d3hot = false) (hwait : (vectorAt s v).waiting ≠ 0) :
    exec (.interruptCoalesceExpiry v) s = .next (sendMsix v s) := by
  change execInterruptCoalesceExpiry v s = _
  simp [execInterruptCoalesceExpiry, hcoast, hd0, hwait]

/-- A vector's count falls to zero with its message, and no other vector changes. -/
theorem vectorAt_sendMsix (v : Nat) (s : State) : (vectorAt (sendMsix v s) v).waiting = 0 ∧
    ∀ w, w ≠ v → vectorAt (sendMsix v s) w = vectorAt s w := by
  have hvec : ({ vectorAt s v with waiting := 0 } : VectorSt).vector = v := vectorAt_vector s v
  refine ⟨?_, fun w hw => ?_⟩
  · have hsame := vectorAt_setVector_same { vectorAt s v with waiting := 0 } (emitMsix v s)
    rw [hvec] at hsame
    rw [sendMsix, hsame]
  · have hother := vectorAt_setVector_other (v := { vectorAt s v with waiting := 0 }) (emitMsix v s) (hvec.symm ▸ hw)
    rw [sendMsix, hother, emitMsix_rest]
    rfl

/-- Settles O9: a posting is `entryWritten` and the interrupt, which touches messages alone; the end of an aggregation
time is `sendMsix`. -/
theorem completionsAndTheirMessages : Obligations.CompletionsAndTheirMessages := by
  refine ⟨?post, ?message, ?masked⟩
  case post =>
    intro s c q hcoast hen hd0 hnext hq
    obtain ⟨p, m, v, hpost⟩ := postEntry_rest c q s
    refine ⟨_, exec_completionPost_oldest hcoast hen hd0 hnext hq, ?_⟩
    have hsilent : q.ien = false → (postEntry c q s).nv.msix = s.nv.msix := by
      intro hien
      rw [postEntry_eq, if_neg (by simp [hien])]
      rfl
    obtain hcq := cqAt_qid hq
    rw [hpost] at hsilent ⊢
    refine ⟨rfl, rfl, rfl, ?_, fun n hn => ?_, ?_, rfl, hsilent⟩
    · exact hcq ▸ cqAt_modCq_same (s := s) (fun _ => rfl) (hcq ▸ hq)
    · exact cqAt_modCq_other (f := fun x => { x with tail := (x.tail + 1) % x.size }) (fun _ => rfl) s (hcq ▸ hn)
    · simp [entryWritten, modCq, modWhere]
  case message =>
    intro s v hcoast hd0 hwait hmask
    obtain ⟨hzero, hother⟩ := vectorAt_sendMsix v s
    refine ⟨_, exec_interruptCoalesceExpiry_waiting hcoast hd0 hwait, ?_, hzero, hother⟩
    simp [sendMsix, emitMsix, hmask, setVector]
  case masked =>
    intro s v hcoast hd0 hwait hmask
    refine ⟨_, exec_interruptCoalesceExpiry_waiting hcoast hd0 hwait, ?_⟩
    have hemit : emitMsix v s = { s with nv := { s.nv with
        pba := if s.nv.pba.contains v then s.nv.pba else s.nv.pba ++ [v] } } := if_pos hmask
    rw [sendMsix, hemit]
    refine ⟨?_, rfl, rfl⟩
    by_cases hv : v ∈ s.nv.pba <;> simp [setVector, hv]

end Sys2Proof.Machine
end

section
/-! PROOFS. Admin commands in their turn (R217, R221): what running one means, and what its end changes of the
controller. -/

namespace Sys2Proof.Machine

/-! ## An admin command runs -/

theorem AdminReady.cmdAt_eq {slot : Nat} {c : Cmd} {s : State} (h : AdminReady slot c s) : cmdAt s slot = some c := h.1

theorem AdminReady.librarian_eq {slot : Nat} {c : Cmd} {s : State} (h : AdminReady slot c s) : s.lib.state = 0 := by
  obtain ⟨-, -, -, -, hlib, -⟩ := h
  exact hlib

/-- An admin instruction whose frame picks the command runs its body. -/
theorem AdminReady.runs {i : Instr} {slot : Nat} {c : Cmd} {s : State} {pick : SqEntry → Bool}
    {f : Cmd → State → State} (hready : AdminReady slot c s) (hframe : exec i s = .next (runAdmin slot pick f s))
    (hpick : pick c.e = true) : exec i s = .next (f c s) :=
  hframe.trans (congrArg _ (runAdmin_ready hready pick f hpick))

/-! ## The end of a command -/

/-- Of the controller the end of a command changes its counts, the running commands, their exclusive namespaces and the
waiting completions. -/
theorem finish_nv (slot : Nat) (st : Nat × Nat) (dw0 : Nat) (s : State) : (finish slot st dw0 s).nv = { s.nv with
    errCount := (finish slot st dw0 s).nv.errCount, errLog := (finish slot st dw0 s).nv.errLog
    mediaErr := (finish slot st dw0 s).nv.mediaErr, cmdsRd := (finish slot st dw0 s).nv.cmdsRd
    cmdsWr := (finish slot st dw0 s).nv.cmdsWr, cmds := (finish slot st dw0 s).nv.cmds
    exclusive := (finish slot st dw0 s).nv.exclusive, waiting := (finish slot st dw0 s).nv.waiting } := by
  unfold finish
  split
  · rfl
  · unfold finishAt addError
    split
    · rfl
    · split <;> rfl

@[simp] theorem finish_feat (slot : Nat) (st : Nat × Nat) (dw0 : Nat) (s : State) :
    (finish slot st dw0 s).nv.feat = s.nv.feat := by rw [finish_nv]

@[simp] theorem finish_vectors (slot : Nat) (st : Nat × Nat) (dw0 : Nat) (s : State) :
    (finish slot st dw0 s).nv.vectors = s.nv.vectors := by rw [finish_nv]

@[simp] theorem finish_sqs (slot : Nat) (st : Nat × Nat) (dw0 : Nat) (s : State) :
    (finish slot st dw0 s).nv.sqs = s.nv.sqs := by rw [finish_nv]

@[simp] theorem finish_cqs (slot : Nat) (st : Nat × Nat) (dw0 : Nat) (s : State) :
    (finish slot st dw0 s).nv.cqs = s.nv.cqs := by rw [finish_nv]

@[simp] theorem finish_nss (slot : Nat) (st : Nat × Nat) (dw0 : Nat) (s : State) :
    (finish slot st dw0 s).nv.nss = s.nv.nss := by rw [finish_nv]

@[simp] theorem finish_events (slot : Nat) (st : Nat × Nat) (dw0 : Nat) (s : State) :
    (finish slot st dw0 s).nv.events = s.nv.events := by rw [finish_nv]

@[simp] theorem finish_dataOut (slot : Nat) (st : Nat × Nat) (dw0 : Nat) (s : State) :
    (finish slot st dw0 s).nv.dataOut = s.nv.dataOut := by rw [finish_nv]

theorem vectorAt_finish (slot : Nat) (st : Nat × Nat) (dw0 : Nat) (s : State) (v : Nat) :
    vectorAt (finish slot st dw0 s) v = vectorAt s v := by
  rw [vectorAt, finish_vectors, vectorAt]

/-- A command that ends leaves its slot; every other slot keeps its command. -/
theorem cmdAt_finish_other {slot n : Nat} (st : Nat × Nat) (dw0 : Nat) (s : State) (hn : n ≠ slot) :
    cmdAt (finish slot st dw0 s) n = cmdAt s n := by
  cases hc : cmdAt s slot with
  | none => simp [finish, hc]
  | some c =>
    have hcmds : (finish slot st dw0 s).nv.cmds = s.nv.cmds.filter fun x => x.slot != slot := by
      simp only [finish, hc, finishAt, addError]
      split <;> rfl
    rw [cmdAt, hcmds, cmdAt, List.find?_filter]
    congr 1
    funext x
    by_cases hx : x.slot = n <;> simp [hx, hn]

/-- A command ends as it does where the controller is the same. -/
theorem finish_ended_of_nv {slot : Nat} {c : Cmd} {s u : State} (st : Nat × Nat) (dw0 : Nat) (hnv : u.nv = s.nv)
    (hc : cmdAt s slot = some c) : Ended slot c st dw0 s (finish slot st dw0 u) := by
  have hcu : cmdAt u slot = some c := by
    rw [cmdAt, hnv]
    exact hc
  obtain ⟨hnew, hgone⟩ := finish_ended st dw0 hcu
  exact ⟨by rw [hnew, hnv], hgone⟩

/-- Data goes to the host, and the command goes on. -/
theorem sendData_of_cmdAt {slot : Nat} {c : Cmd} {s : State} (b : Blob) (hc : cmdAt s slot = some c) :
    sendData slot b s = { s with nv := { s.nv with dataOut := s.nv.dataOut ++ [(c.e.cid, b)] } } := by
  rw [sendData, hc]

section
variable {i : Instr} {slot : Nat} {c : Cmd} {s : State} (hready : AdminReady slot c s) {st : Nat × Nat}
include hready

/-- An admin command that is refused ends, and only the controller changes. -/
theorem AdminReady.refused (hexec : exec i s = .next (finishErr slot st s)) :
    ∃ t, exec i s = .next t ∧ t = { s with nv := t.nv } ∧ Ended slot c st 0 s t :=
  ⟨_, hexec, finish_rest slot st 0 s, finish_ended st 0 hready.cmdAt_eq⟩

/-- An admin command that ends in a state that differs in the controller alone, with the same commands. -/
theorem AdminReady.ends {u : State} {dw0 : Nat} {P : State → Prop}
    (hexec : exec i s = .next (finish slot st dw0 u)) (hrest : u = { s with nv := u.nv })
    (hcmds : u.nv.cmds = s.nv.cmds) (hwaiting : u.nv.waiting = s.nv.waiting) (hP : P (finish slot st dw0 u)) :
    ∃ t, exec i s = .next t ∧ t = { s with nv := t.nv } ∧ Ended slot c st dw0 s t ∧ P t := by
  have hc : cmdAt u slot = some c := by
    rw [cmdAt, hcmds]
    exact hready.cmdAt_eq
  obtain ⟨hnew, hgone⟩ := finish_ended st dw0 hc
  refine ⟨_, hexec, ?_, ⟨by rw [hnew, hwaiting], hgone⟩, hP⟩
  rw [finish_rest, hrest]

end

end Sys2Proof.Machine
end

section
/-! PROOFS. Creating and deleting I/O queues, Abort, event requests and unknown opcodes (R214, R215, R221, R223, R232,
R236). -/

namespace Sys2Proof.Machine

/-! ## Queues that are made and deleted (R214, R221) -/

section
variable {slot : Nat} {c : Cmd} {s : State}

theorem createCq_legal (hnew : cqAt s (createQid c.e) = none) (hlow : 1 ≤ createQid c.e) (hhigh : createQid c.e ≤ 4096)
    (hsize : 2 ≤ createSize c.e) (hvector : bitsOf c.e.dw11 31 16 ≤ 2047) (hcontiguous : c.e.dw11 % 2 = 1) :
    createCq slot c s = finishOk slot 0 { s with nv := { s.nv with cqs := s.nv.cqs ++ [{
      qid := createQid c.e, size := createSize c.e, vector := bitsOf c.e.dw11 31 16, ien := c.e.dw11.testBit 1
      head := 0, tail := 0 }] } } := by
  have hq : createQid c.e ≠ 0 := by omega
  have hs : ¬ createSize c.e < 2 := by omega
  simp [createCq, hq, hnew, hs, Nat.not_lt.mpr hhigh, Nat.not_lt.mpr hvector, hcontiguous]

theorem createSq_legal {x : Cq} (hnew : sqAt s (createQid c.e) = none) (hlow : 1 ≤ createQid c.e)
    (hhigh : createQid c.e ≤ 4096) (hsize : 2 ≤ createSize c.e) (hcqLow : 1 ≤ bitsOf c.e.dw11 31 16)
    (hcqHigh : bitsOf c.e.dw11 31 16 ≤ 4096) (hcq : cqAt s (bitsOf c.e.dw11 31 16) = some x)
    (hcontiguous : c.e.dw11 % 2 = 1) :
    createSq slot c s = finishOk slot 0 { s with nv := { s.nv with sqs := s.nv.sqs ++ [{
      qid := createQid c.e, size := createSize c.e, cqid := bitsOf c.e.dw11 31 16, prio := bitsOf c.e.dw11 2 1
      tail := 0, head := 0, fence := none }] } } := by
  have hq : createQid c.e ≠ 0 := by omega
  have hs : ¬ createSize c.e < 2 := by omega
  have hn : bitsOf c.e.dw11 31 16 ≠ 0 := by omega
  simp [createSq, hq, hnew, hs, hn, Nat.not_lt.mpr hhigh, Nat.not_lt.mpr hcqHigh, hcq, hcontiguous]

theorem deleteCq_unused {x : Cq} (hadmin : bitsOf c.e.dw10 15 0 ≠ 0) (hcq : cqAt s (bitsOf c.e.dw10 15 0) = some x)
    (hsqs : ∀ q ∈ s.nv.sqs, q.cqid ≠ bitsOf c.e.dw10 15 0) (hwait : ∀ y ∈ s.nv.waiting, y.cq ≠ bitsOf c.e.dw10 15 0) :
    deleteCq slot c s = finishOk slot 0 { s with nv := { s.nv with
      cqs := s.nv.cqs.filter fun y => y.qid != bitsOf c.e.dw10 15 0 } } := by
  have hnamed : s.nv.sqs.any (fun q => decide (q.cqid = bitsOf c.e.dw10 15 0)) = false := by simpa using hsqs
  have hposted : s.nv.waiting.any (fun y => decide (y.cq = bitsOf c.e.dw10 15 0)) = false := by simpa using hwait
  simp [deleteCq, hadmin, hcq, hnamed, hposted]

/-- A queue with no command outstanding has none to abort. -/
theorem abortQueue_empty {q : Nat} (hcmds : ∀ y ∈ s.nv.cmds, y.qid ≠ q) : abortQueue q s = s := by
  have hnone : (s.nv.cmds.filter fun y => decide (y.qid = q) && notStarted y) = [] := by
    refine List.filter_eq_nil_iff.mpr fun y hy => ?_
    simp [hcmds y hy]
  rw [abortQueue, slotsWhere, hnone]
  rfl

theorem deleteSq_idle {x : Sq} (hadmin : bitsOf c.e.dw10 15 0 ≠ 0) (hsq : sqAt s (bitsOf c.e.dw10 15 0) = some x)
    (hcmds : ∀ y ∈ s.nv.cmds, y.qid ≠ bitsOf c.e.dw10 15 0) (hwait : ∀ y ∈ s.nv.waiting, y.sq ≠ bitsOf c.e.dw10 15 0) :
    deleteSq slot c s = finishOk slot 0 { s with nv := { s.nv with
      sqs := s.nv.sqs.filter fun y => y.qid != bitsOf c.e.dw10 15 0 } } := by
  have houtstanding : s.nv.cmds.any (fun y => decide (y.qid = bitsOf c.e.dw10 15 0)) = false := by simpa using hcmds
  have hposted : s.nv.waiting.any (fun y => decide (y.sq = bitsOf c.e.dw10 15 0)) = false := by simpa using hwait
  simp [deleteSq, hadmin, hsq, abortQueue_empty hcmds, houtstanding, hposted]

/-! ## Abort (R223) -/

/-- An Abort that names no command it could stop ends with bit 0 of dword 0 set. -/
theorem abortCmd_none (hnone : ∀ x ∈ s.nv.cmds, x.slot ≠ slot →
      ¬ (x.qid = bitsOf c.e.dw10 15 0 ∧ x.e.cid = bitsOf c.e.dw10 31 16 ∧ abortable x = true)) :
    abortCmd slot c s = finishOk slot 1 s := by
  unfold abortCmd
  split
  · rfl
  · rename_i x hfound
    have hmem := List.mem_of_find?_eq_some hfound
    have hnamed := List.find?_some hfound
    simp only [Bool.and_eq_true, decide_eq_true_eq, bne_iff_ne] at hnamed
    obtain ⟨⟨hqid, hcid⟩, hslot⟩ := hnamed
    rw [if_neg fun habort => hnone x hmem hslot ⟨hqid, hcid, habort⟩]

end

/-- An Abort that names a command it can stop ends both, the other one first. -/
theorem abortCmd_stops {slot : Nat} {c x : Cmd} {s : State} (hc : cmdAt s slot = some c)
    (hx : cmdAt s x.slot = some x) (hslot : x.slot ≠ slot)
    (hfound : (s.nv.cmds.find? fun y => y.qid = bitsOf c.e.dw10 15 0 && y.e.cid = bitsOf c.e.dw10 31 16 &&
      y.slot != slot) = some x) (habort : abortable x = true) :
    abortCmd slot c s = { s with nv := (abortCmd slot c s).nv, pools := (abortCmd slot c s).pools } ∧
      (abortCmd slot c s).nv.waiting = s.nv.waiting ++ [entryOf x.slot x (0, 7) 0, entryOf slot c (0, 0) 0] ∧
      cmdAt (abortCmd slot c s) slot = none ∧ cmdAt (abortCmd slot c s) x.slot = none ∧
      ∀ n, n ≠ slot → n ≠ x.slot → cmdAt (abortCmd slot c s) n = cmdAt s n := by
  obtain ⟨p, hdrop⟩ := dropBuffers_rest x.slot s
  have hends : abortCmd slot c s = finish slot (0, 0) 0 (finish x.slot (0, 7) 0 { s with pools := p }) := by
    rw [abortCmd, hfound]
    simp only [habort, if_true, hdrop]
    rfl
  obtain ⟨hfirst, hgone⟩ := finish_ended (s := { s with pools := p }) (0, 7) 0 hx
  have hkept : cmdAt (finish x.slot (0, 7) 0 { s with pools := p }) slot = some c :=
    (cmdAt_finish_other (0, 7) 0 _ hslot.symm).trans hc
  obtain ⟨hsecond, hgone'⟩ := finish_ended (0, 0) 0 hkept
  rw [hends]
  refine ⟨?_, ?_, hgone', ?_, fun n hn hnx => ?_⟩
  · rw [finish_rest, finish_rest x.slot]
  · rw [hsecond, hfirst, List.append_assoc]
    rfl
  · rw [cmdAt_finish_other _ _ _ hslot, hgone]
  · rw [cmdAt_finish_other _ _ _ hn, cmdAt_finish_other _ _ _ hnx]
    rfl

/-- Settles O11: each command is its branch that ends it, and a queue leaves or joins its list before that. -/
theorem queuesAbortsAndEvents : Obligations.QueuesAbortsAndEvents := by
  refine ⟨⟨?createCq, ?createSq, ?deleteCq, ?deleteSq⟩, ?abortNone, ?abortStops, ?eventWaits, ?eventReported,
    ?badAdmin, ?badIo⟩
  case createCq =>
    intro s slot c hready hop hnew hlow hhigh hsize hvector hcontiguous
    have hexec := hready.runs (i := .createIoCompletionQueue slot) rfl (decide_eq_true hop)
    rw [createCq_legal hnew hlow hhigh hsize hvector hcontiguous] at hexec
    exact hready.ends hexec rfl rfl rfl ⟨finish_sqs .., finish_cqs ..⟩
  case createSq =>
    intro s slot c x hready hop hnew hlow hhigh hsize hcqLow hcqHigh hcq hcontiguous
    have hexec := hready.runs (i := .createIoSubmissionQueue slot) rfl (decide_eq_true hop)
    rw [createSq_legal hnew hlow hhigh hsize hcqLow hcqHigh hcq hcontiguous] at hexec
    exact hready.ends hexec rfl rfl rfl ⟨finish_cqs .., finish_sqs ..⟩
  case deleteCq =>
    intro s slot c x hready hop hadmin hcq hsqs hwait
    have hexec := hready.runs (i := .deleteIoCompletionQueue slot) rfl (decide_eq_true hop)
    rw [deleteCq_unused hadmin hcq hsqs hwait] at hexec
    exact hready.ends hexec rfl rfl rfl ⟨finish_cqs .., finish_sqs ..⟩
  case deleteSq =>
    intro s slot c x hready hop hadmin hsq hcmds hwait
    have hexec := hready.runs (i := .deleteIoSubmissionQueue slot) rfl (decide_eq_true hop)
    rw [deleteSq_idle hadmin hsq hcmds hwait] at hexec
    exact hready.ends hexec rfl rfl rfl ⟨finish_sqs .., finish_cqs ..⟩
  case abortNone =>
    intro s slot c hready hop hnone
    have hexec := hready.runs (i := .abort slot) rfl (decide_eq_true hop)
    rw [abortCmd_none hnone] at hexec
    exact ⟨_, hexec, finish_rest .., finish_ended _ _ hready.cmdAt_eq, fun n hn => cmdAt_finish_other _ _ _ hn⟩
  case abortStops =>
    intro s slot c x hready hop hfound hx habort
    have hslot : x.slot ≠ slot := by
      have hnamed := List.find?_some hfound
      simp only [Bool.and_eq_true, bne_iff_ne] at hnamed
      obtain ⟨-, hother⟩ := hnamed
      exact hother
    exact ⟨_, hready.runs (i := .abort slot) rfl (decide_eq_true hop),
      abortCmd_stops hready.cmdAt_eq hx hslot hfound habort⟩
  case eventWaits =>
    intro s slot c hready hop hevents hroom
    have hexec := hready.runs (i := .asynchronousEventRequest slot) rfl (decide_eq_true hop)
    have hwaits : takeAer slot c s = modCmd slot (fun c => { c with phase := .running })
        { s with nv := { s.nv with aers := s.nv.aers ++ [slot] } } := by
      rw [takeAer, hevents]
      exact if_neg (by omega)
    rw [hwaits] at hexec
    exact ⟨_, hexec, rfl, rfl, rfl, cmdAt_modCmd (fun _ => rfl) hready.cmdAt_eq⟩
  case eventReported =>
    intro s slot c ev rest hready hop hevents
    have hexec := hready.runs (i := .asynchronousEventRequest slot) rfl (decide_eq_true hop)
    rw [takeAer, hevents] at hexec
    obtain ⟨t, ht, hrest, hended, hrecent⟩ := hready.ends (P := fun t => t.nv.events = rest) hexec rfl rfl rfl
      (finish_events ..)
    exact ⟨t, ht, hrest, hrecent, hended⟩
  case badAdmin =>
    intro s slot c hready hop
    exact hready.refused (hready.runs (i := .invalidAdminOpcode slot) rfl (by simpa using hop))
  case badIo =>
    intro s slot c hready hop
    have hexec : exec (.invalidIoOpcode slot) s = .next (finishErr slot scOpcode s) :=
      congrArg _ (startIo_ready hready (by simp [hop]) _)
    obtain ⟨hc, -⟩ := hready
    exact ⟨_, hexec, finish_rest .., finish_ended _ _ hc⟩

end Sys2Proof.Machine
end

section
/-! PROOFS. Features (R214, R219, R224, R229, R394, Table 10.4). -/

namespace Sys2Proof.Machine

section
variable {slot : Nat} {c : Cmd} {s : State}

/-! ## What Get Features answers (R224) -/

theorem featureAnswer_unknown (hid : lowByte c.e ∉ featureIds) : featureAnswer s c.e = (scField, 0, none) := by
  simp [featureAnswer, hid]

theorem featureAnswer_coalescing (hid : lowByte c.e = 0x08) (hpresent : bitsOf c.e.dw10 10 8 = 0) :
    featureAnswer s c.e = (scSuccess, s.nv.feat.coalThr + 256 * s.nv.feat.coalTime, none) := by
  simp [featureAnswer, featureValue, hid, hpresent, featureIds]

theorem getFeature_unknown (hid : lowByte c.e ∉ featureIds) : getFeature slot c s = finishErr slot scField s := by
  rw [getFeature, featureAnswer_unknown hid]
  rfl

/-- A feature that is shown leaves the controller with its data, if it has any, on the way to the host. -/
theorem getFeature_shown {v : Nat} {b : Option Blob} (hc : cmdAt s slot = some c)
    (hanswer : featureAnswer s c.e = (scSuccess, v, b)) :
    getFeature slot c s = finish slot (0, 0) v { s with nv := { s.nv with
      dataOut := s.nv.dataOut ++ b.toList.map fun x => (c.e.cid, x) } } := by
  rw [getFeature, hanswer]
  cases b with
  | none => simp [scSuccess, finishOk]
  | some x => simp [scSuccess, finishOk, sendData_of_cmdAt x hc]

end

/-- Settles O12: each Set Features command is a change of the features, or of one vector, before its end. -/
theorem featuresAreSetAndShown : Obligations.FeaturesAreSetAndShown := by
  refine ⟨⟨?arbitration, ?power, ?powerAbove, ?threshold, ?thresholdAll, ?thresholdBad, ?queues, ?coalescing, ?vector,
    ?vectorAbove⟩, ?atomicity, ?events, ?timestamp, ?saved, ?unknown, ?shownCoalescing, ?shown, ?shownUnknown⟩
  case arbitration =>
    intro s slot c hready hset
    exact hready.ends (hready.runs (i := .setFeaturesArbitration slot) rfl hset) rfl rfl rfl (finish_feat ..)
  case power =>
    intro s slot c hready hset hlow
    have hexec := hready.runs (i := .setFeaturesPowerManagement slot) rfl hset
    rw [if_neg (by omega)] at hexec
    exact hready.ends hexec rfl rfl rfl (finish_feat ..)
  case powerAbove =>
    intro s slot c hready hset hhigh
    have hexec := hready.runs (i := .setFeaturesPowerManagement slot) rfl hset
    rw [if_pos hhigh] at hexec
    exact hready.ends hexec rfl rfl rfl (finish_feat ..)
  case threshold =>
    intro s slot c hready hset hsel hside
    have hexec := hready.runs (i := .setFeaturesTemperatureThreshold slot) rfl hset
    dsimp only at hexec
    rw [if_neg (by simp; omega)] at hexec
    refine hready.ends hexec rfl rfl rfl ((finish_feat ..).trans ?_)
    have hone : bitsOf c.e.dw11 19 16 ≠ 15 := by omega
    simp [setFeat, setThreshold, hone]
  case thresholdAll =>
    intro s slot c hready hset hsel hside
    have hexec := hready.runs (i := .setFeaturesTemperatureThreshold slot) rfl hset
    dsimp only at hexec
    rw [if_neg (by simp [hsel]; omega)] at hexec
    refine hready.ends hexec rfl rfl rfl ((finish_feat ..).trans ?_)
    simp [setFeat, setThreshold, hsel]
  case thresholdBad =>
    intro s slot c hready hset hbad
    have hexec := hready.runs (i := .setFeaturesTemperatureThreshold slot) rfl hset
    dsimp only at hexec
    rw [if_pos (by simpa using hbad)] at hexec
    exact hready.ends hexec rfl rfl rfl (finish_feat ..)
  case queues =>
    intro s slot c hready hset
    exact hready.ends (hready.runs (i := .setFeaturesNumberOfQueues slot) rfl hset) rfl rfl rfl (finish_feat ..)
  case coalescing =>
    intro s slot c hready hset
    exact hready.ends (hready.runs (i := .setFeaturesInterruptCoalescing slot) rfl hset) rfl rfl rfl (finish_feat ..)
  case vector =>
    intro s slot c hready hset hlow
    have hexec := hready.runs (i := .setFeaturesIntVectorConfig slot) rfl hset
    dsimp only at hexec
    rw [if_neg (by omega)] at hexec
    have hvec : ({ vectorAt s (bitsOf c.e.dw11 15 0) with noCoal := c.e.dw11.testBit 16 } : VectorSt).vector =
        bitsOf c.e.dw11 15 0 := vectorAt_vector s _
    refine hready.ends hexec rfl rfl rfl ⟨?_, fun w hw => ?_⟩
    · have hsame := vectorAt_setVector_same
        { vectorAt s (bitsOf c.e.dw11 15 0) with noCoal := c.e.dw11.testBit 16 } s
      rw [hvec] at hsame
      rw [vectorAt_finish, hsame]
    · rw [vectorAt_finish, vectorAt_setVector_other s (by rw [hvec]; exact hw)]
  case vectorAbove =>
    intro s slot c hready hset hhigh
    have hexec := hready.runs (i := .setFeaturesIntVectorConfig slot) rfl hset
    dsimp only at hexec
    rw [if_pos hhigh] at hexec
    exact hready.ends hexec rfl rfl rfl ⟨finish_feat .., finish_vectors ..⟩
  case atomicity =>
    intro s slot c hready hset
    have hbit : bitsOf c.e.dw11 0 0 = c.e.dw11 % 2 := by simp [bitsOf]
    exact hready.ends (hready.runs (i := .setFeaturesWriteAtomicity slot) rfl hset) rfl rfl rfl
      (by rw [finish_feat, ← hbit]; rfl)
  case events =>
    intro s slot c hready hset
    exact hready.ends (hready.runs (i := .setFeaturesAsyncEventConfig slot) rfl hset) rfl rfl rfl (finish_feat ..)
  case timestamp =>
    intro s slot ms c hready hset hms
    have hexec := hready.runs (i := .setFeaturesTimestamp slot ms) rfl hset
    have hwhole : ms % 2 ^ 48 = ms := Nat.mod_eq_of_lt hms
    rw [hwhole, record_rest] at hexec
    refine ⟨_, hexec, finish_ended _ _ hready.cmdAt_eq, finish_feat .., ?_⟩
    rw [finishOk, finish_rest]
    exact ⟨rfl, rfl, rfl⟩
  case saved =>
    intro s slot c hready hop hsave
    have hexec := hready.runs (i := .setFeaturesUnsupported slot) rfl (by simp [hop, hsave])
    rw [if_pos hsave] at hexec
    exact hready.ends hexec rfl rfl rfl (finish_feat ..)
  case unknown =>
    intro s slot c hready hop hsave hid
    have hexec := hready.runs (i := .setFeaturesUnsupported slot) rfl (by simp [hop, hid])
    rw [if_neg (by simp [hsave])] at hexec
    exact hready.ends hexec rfl rfl rfl (finish_feat ..)
  case shownCoalescing =>
    intro s slot c hready hop hid hpresent
    have hexec := hready.runs (i := .getFeatures slot) rfl (decide_eq_true hop)
    rw [getFeature_shown hready.cmdAt_eq (featureAnswer_coalescing hid hpresent)] at hexec
    obtain ⟨t, ht, hrest, hended, hfeat⟩ := hready.ends (P := fun t => t.nv.feat = s.nv.feat) hexec rfl rfl rfl
      (finish_feat ..)
    exact ⟨t, ht, hrest, hfeat, hended⟩
  case shown =>
    intro s slot v b c hready hop hanswer
    have hexec := hready.runs (i := .getFeatures slot) rfl (decide_eq_true hop)
    rw [getFeature_shown hready.cmdAt_eq hanswer] at hexec
    obtain ⟨t, ht, hrest, hended, hfeat, hdata⟩ := hready.ends
      (P := fun t => t.nv.feat = s.nv.feat ∧ t.nv.dataOut = s.nv.dataOut ++ b.toList.map fun x => (c.e.cid, x))
      hexec rfl rfl rfl ⟨finish_feat .., finish_dataOut ..⟩
    exact ⟨t, ht, hrest, hfeat, hended, hdata⟩
  case shownUnknown =>
    intro s slot c hready hop hid
    have hexec := hready.runs (i := .getFeatures slot) rfl (decide_eq_true hop)
    rw [getFeature_unknown hid] at hexec
    exact hready.refused hexec

end Sys2Proof.Machine
end

section
/-! PROOFS. Identify, Get Log Page and Sticky Clear (R221, R225, R226, R237). Log entry 23 presumes Invalid Log Page
from the NVMe base specification. -/

namespace Sys2Proof.Machine

theorem identAnswer_unknown {s : State} {e : SqEntry} (hcns : lowByte e ∉ cnsValues) :
    identAnswer s e = (scField, { len := 0, fields := [] }) := by
  simp [identAnswer, hcns]

theorem logAnswer_unknown {s : State} {e : SqEntry} (hpage : logPage s e = none) :
    logAnswer s e = (scLogPage, { len := 0, fields := [] }) := by
  rw [logAnswer, hpage]

/-- A page draws at most one free value. -/
theorem logDraws_rest (s : State) (e : SqEntry) : logDraws s e = { s with free := (logDraws s e).free } := by
  unfold logDraws
  split <;> rfl

/-- Settles O13: an answer with success is sent and ends the command; any other status ends it alone. -/
theorem identifyAndLogPagesAnswer : Obligations.IdentifyAndLogPagesAnswer := by
  refine ⟨?identified, ?unknownCns, ?page, ?unknownPage⟩
  case identified =>
    intro s slot c b hready hop hanswer
    have hexec := hready.runs (i := .identify slot) rfl (decide_eq_true hop)
    dsimp only at hexec
    rw [hanswer] at hexec
    dsimp only at hexec
    rw [if_pos rfl, sendData_of_cmdAt b hready.cmdAt_eq] at hexec
    exact hready.ends hexec rfl rfl rfl (finish_dataOut ..)
  case unknownCns =>
    intro s slot c hready hop hcns
    have hexec := hready.runs (i := .identify slot) rfl (decide_eq_true hop)
    dsimp only at hexec
    rw [identAnswer_unknown hcns] at hexec
    exact hready.ends hexec rfl rfl rfl (finish_dataOut ..)
  case page =>
    intro s slot c b hready hop hanswer
    have hexec := hready.runs (i := .getLogPage slot) rfl (decide_eq_true hop)
    have hc : cmdAt (logDraws s c.e) slot = some c := by
      rw [logDraws_rest]
      exact hready.cmdAt_eq
    dsimp only at hexec
    rw [hanswer] at hexec
    dsimp only at hexec
    rw [if_pos rfl, sendData_of_cmdAt b hc, logDraws_rest] at hexec
    refine ⟨_, hexec, ?_, finish_ended _ _ hready.cmdAt_eq, finish_dataOut ..⟩
    rw [finishOk, finish_rest]
  case unknownPage =>
    intro s slot c hready hop hpage
    have hexec := hready.runs (i := .getLogPage slot) rfl (decide_eq_true hop)
    dsimp only at hexec
    rw [logAnswer_unknown hpage] at hexec
    exact hready.refused hexec

theorem stickyAt_finish (slot : Nat) (st : Nat × Nat) (dw0 : Nat) (s : State) (idx : Nat) :
    stickyAt (finish slot st dw0 s) idx = stickyAt s idx := by
  rw [stickyAt_eq, finish_rest, stickyAt_eq]
  rfl

/-- Settles O20: a Sticky Clear is `clearSticky`, as the register write is, and the end with the value before. -/
theorem stickyClearClearsItsMask : Obligations.StickyClearClearsItsMask := by
  refine ⟨?clears, ?refused⟩
  case clears =>
    intro s slot c v hready hop hv
    have hexec := hready.runs (i := .stickyClear slot) rfl (decide_eq_true hop)
    dsimp only at hexec
    rw [hv] at hexec
    dsimp only at hexec
    rw [clearSticky_eq _ hv, setSticky_alone] at hexec
    refine ⟨_, hexec, finish_ended _ _ hready.cmdAt_eq, ?_, fun j hj => ?_⟩
    · rw [finishOk, stickyAt_finish, ← setSticky_alone]
      exact stickyAt_setSticky_same _ hv
    · rw [finishOk, stickyAt_finish, ← setSticky_alone]
      exact stickyAt_setSticky_other _ s hj
  case refused =>
    intro s slot c hready hop hnone
    have hexec := hready.runs (i := .stickyClear slot) rfl (decide_eq_true hop)
    dsimp only at hexec
    rw [hnone] at hexec
    obtain ⟨t, ht, hrest, hended⟩ := hready.refused hexec
    exact ⟨t, ht, hended, hrest⟩

end Sys2Proof.Machine
end

section
/-! PROOFS. Namespaces (R222, R227, R228, R260). The key drawn at creation, the delete by renewals, that of all local
namespaces under FFFFFFFFh and the refusal of NSZE unequal to NCAP are the model's choices (log entries 65, 66, 67,
157). -/

namespace Sys2Proof.Machine

theorem setAttached_nss (nsid : Nat) (v : Bool) (s : State) : (setAttached nsid v s).nv.nss =
    s.nv.nss.map fun x => if x.nsid = nsid then { x with attached := v } else x := by
  simp [setAttached, modWhere]

section
variable {s : State} {slot nsze lbaf pi : Nat}

/-- A legal create whose NSID, shelves and key are to be had makes the namespace. -/
theorem createNs_legal {nsid : Nat} {ext : Bool} {l : List (Nat × Nat)} (hlbaf : lbaf ≤ 4) (hsize : nsze ≠ 0)
    (hpi : pi ≤ 3) (hplain : lbaf = 0 ∨ lbaf = 2 → pi = 0) (hnsid : freeNsid s = some nsid)
    (hshelves : takeExtents s (localNs nsid nsze lbaf pi [] false).shelves = some l) (hdrbg : drbgReady s = true)
    (hroom : keyRoom s = true) :
    createNs slot nsze nsze (lbaf + if ext then 16 else 0) pi s = finishOk slot nsid (makeNamespace
      { localNs nsid nsze lbaf pi [] false with extents := l, extended := ext } s) := by
  obtain ⟨hformat, hmset, hhigh⟩ : (lbaf + if ext then 16 else 0) % 16 = lbaf ∧
      (lbaf + if ext then 16 else 0).testBit 4 = ext ∧ ¬ 31 < lbaf + if ext then 16 else 0 := by
    interval_cases lbaf <;> cases ext <;> decide
  simp only [createNs, hformat, hmset, hnsid]
  rw [if_neg (by simp; omega), if_neg (by simp; omega), hshelves]
  simp [hdrbg, hroom]

/-- A create whose capacity is not its size is refused (log entry 157). -/
theorem createNs_thin {ncap : Nat} (hlbaf : lbaf ≤ 4) (hthin : nsze ≠ ncap) :
    createNs slot nsze ncap lbaf pi s = finishErr slot scField s := by
  rw [createNs, if_neg (by simp; omega), if_pos (by simp [hthin])]

/-- A delete of one namespace asks for its renewals and takes it from other commands. -/
theorem deleteNs_one {c : Cmd} {nsid : Nat} (hone : deleteNames s c.e.nsid = [nsid]) :
    deleteNs slot c s = takeNamespace slot nsid (addRenewals (deleteRenewals s slot nsid) s) := by
  simp [deleteNs, hone]

end

/-- A command that takes a namespace runs on, and of the state only the commands and the taken namespaces change. -/
theorem takeNamespace_facts {slot : Nat} {c : Cmd} {s : State} (nsid : Nat) (hc : cmdAt s slot = some c) :
    takeNamespace slot nsid s = { s with nv := { s.nv with
      exclusive := s.nv.exclusive ++ [(slot, nsid)], cmds := (takeNamespace slot nsid s).nv.cmds } } ∧
    cmdAt (takeNamespace slot nsid s) slot = some { c with phase := .running } :=
  ⟨rfl, cmdAt_modCmd (fun _ => rfl) hc⟩

/-- Settles O14: attachment is `setAttached`, a create is `makeNamespace` or a refusal, and a delete is the renewals of
its slots. -/
theorem namespaceManagement : Obligations.NamespaceManagement := by
  refine ⟨?attach, ?detach, ?create, ?thin, ?delete⟩
  case attach =>
    intro s slot c n hready hop hsel hn hfree
    have hexec := hready.runs (i := .namespaceAttach slot) rfl (by simp [hop, hsel])
    rw [hn] at hexec
    dsimp only at hexec
    rw [if_neg (by simp [hfree])] at hexec
    exact hready.ends hexec rfl rfl rfl ((finish_nss ..).trans (setAttached_nss ..))
  case detach =>
    intro s slot c n hready hop hsel hn hheld
    have hexec := hready.runs (i := .namespaceDetach slot) rfl (by simp [hop, hsel])
    rw [hn, if_neg (by simp [hsel])] at hexec
    dsimp only at hexec
    rw [if_pos hheld] at hexec
    exact hready.ends hexec rfl rfl rfl ((finish_nss ..).trans (setAttached_nss ..))
  case create =>
    intro s slot nsze lbaf pi nsid ext l c hready hop hsel hlbaf hsize hpi hplain hnsid hshelves hdrbg hroom
    rw [hready.runs (i := .namespaceCreate slot nsze nsze _ pi) rfl (by simp [hop, hsel]),
      createNs_legal hlbaf hsize hpi hplain hnsid hshelves hdrbg hroom]
  case thin =>
    intro s slot nsze ncap lbaf pi c hready hop hsel hlbaf hthin
    have hexec := hready.runs (i := .namespaceCreate slot nsze ncap lbaf pi) rfl (by simp [hop, hsel])
    rw [createNs_thin hlbaf hthin] at hexec
    exact hready.ends hexec rfl rfl rfl (finish_nss ..)
  case delete =>
    intro s slot c n hready hop hsel hone
    have hexec := hready.runs (i := .namespaceDelete slot) rfl (by simp [hop, hsel])
    rw [if_pos hsel, deleteNs_one hone] at hexec
    obtain ⟨htaken, hruns⟩ := takeNamespace_facts (s := addRenewals (deleteRenewals s slot n.nsid) s) n.nsid
      hready.cmdAt_eq
    exact ⟨_, hexec, htaken, rfl, rfl, hruns, rfl⟩

end Sys2Proof.Machine
end

section
/-! PROOFS. Format NVM (R222, R242, R260, R265, R321). The fields of a Format and the FORMAT packet to the members of a
view are the model's choices (log entries 69, 70). -/

namespace Sys2Proof.Machine

/-! ## Requests to other members (R284) -/

theorem sendPacket_rest (h : PacketHdr) (b : PktBody) (s : State) :
    sendPacket h b s = { s with pel := (sendPacket h b s).pel } := by
  unfold sendPacket
  dsimp only
  split <;> rfl

theorem sendPacket_out (h : PacketHdr) (b : PktBody) (s : State) : (sendPacket h b s).pel.out = s.pel.out := by
  unfold sendPacket
  dsimp only
  split <;> rfl

theorem startRequest_rest (r : OutReq) (s : State) : startRequest r s = { s with pel := (startRequest r s).pel } := by
  unfold startRequest
  split
  · unfold sendRequest
    dsimp only
    rw [sendPacket_rest]
  · rfl

/-- A request that starts joins the outstanding ones, whether it is sent or waits for a tag. -/
theorem startRequest_out (r : OutReq) (s : State) : ∃ x, (startRequest r s).pel.out = s.pel.out ++ [x] ∧
    x.dst = r.dst ∧ x.op = r.op ∧ x.owner = r.owner := by
  unfold startRequest
  split
  · unfold sendRequest
    exact ⟨_, sendPacket_out .., rfl, rfl, rfl⟩
  · exact ⟨_, rfl, rfl, rfl, rfl⟩

/-- A fold of steps that change the Peloton part alone changes it alone. -/
theorem foldl_pel_rest {α : Type} (f : State → α → State) (h : ∀ s a, f s a = { s with pel := (f s a).pel })
    (l : List α) (s : State) : l.foldl f s = { s with pel := (l.foldl f s).pel } := by
  induction l generalizing s with
  | nil => rfl
  | cons a l ih => rw [List.foldl_cons, ih, h]

/-- Of a fold of steps that each add an outstanding request, every request is outstanding at the end. -/
theorem foldl_out {α : Type} (f : State → α → State) (good : α → OutReq → Prop)
    (h : ∀ s a, ∃ x, (f s a).pel.out = s.pel.out ++ [x] ∧ good a x) (l : List α) (s : State) :
    (∀ r ∈ s.pel.out, r ∈ (l.foldl f s).pel.out) ∧ ∀ a ∈ l, ∃ r ∈ (l.foldl f s).pel.out, good a r := by
  induction l generalizing s with
  | nil => simp
  | cons a l ih =>
    obtain ⟨x, hout, hgood⟩ := h s a
    obtain ⟨hkept, hadded⟩ := ih (f s a)
    rw [List.foldl_cons]
    refine ⟨fun r hr => hkept r (by simp [hout, hr]), fun b hb => ?_⟩
    rcases List.mem_cons.mp hb with rfl | hb
    · exact ⟨x, hkept x (by simp [hout]), hgood⟩
    · exact hadded b hb

theorem sendFormat_rest (slot e ses : Nat) (s : State) :
    sendFormat slot e ses s = { s with pel := (sendFormat slot e ses s).pel } := by
  unfold sendFormat
  split
  · rfl
  · exact foldl_pel_rest _ (fun _ _ => startRequest_rest ..) _ s

/-- FORMAT goes to every position of the view that is in service, lagging or rebuilding (R321). -/
theorem sendFormat_out {slot e ses : Nat} {s : State} {v : ViewRec} (hv : viewOf s e = some v) (p : Nat × Nat)
    (hp : p ∈ v.places) (hlow : 1 ≤ p.2) (hhigh : p.2 ≤ 3) :
    ∃ r, r ∈ (sendFormat slot e ses s).pel.out ∧ r.dst = p.1 ∧ r.op = 8 ∧ r.owner = .host slot := by
  rw [sendFormat, hv]
  refine (foldl_out _ (fun p r => r.dst = p.1 ∧ r.op = 8 ∧ r.owner = .host slot) (fun t p => ?_) _ s).2 p ?_
  · exact startRequest_out ..
  · simp [hp, hlow, hhigh]

/-! ## Format NVM -/

section
variable {s : State} {slot : Nat} {own : Namespace → State → State} {c : Cmd} {n : Namespace}

theorem formatNvm_illegal {st : Nat × Nat} (hstatus : formatStatus s c.e = some st) :
    formatNvm slot own c s = finishErr slot st s := by
  simp [formatNvm, hstatus]

theorem formatNvm_local (hstatus : formatStatus s c.e = none) (hn : nsAt s c.e.nsid = some n)
    (hlocal : n.spanned = none) : formatNvm slot own c s = own n (takeNamespace slot n.nsid s) := by
  simp [formatNvm, hstatus, hn, hlocal]

theorem formatNvm_spanned {e : Nat} (hstatus : formatStatus s c.e = none) (hn : nsAt s c.e.nsid = some n)
    (hspanned : n.spanned = some e) :
    formatNvm slot own c s = sendFormat slot e (fmtSes c.e) (takeNamespace slot n.nsid s) := by
  simp [formatNvm, hstatus, hn, hspanned]

end

theorem formatStatus_unattached {s : State} {e : SqEntry} (hn : nsAttached s e.nsid = none) :
    formatStatus s e = some scNsFormat := by
  rw [formatStatus, hn]

/-- What SES 2 asks of a local namespace (R265). -/
def askCryptoErase (slot : Nat) (n : Namespace) (s : State) : State :=
  addRenewals ([0, 1, 2, 3].map fun r => newRenewal s (keySlot n.nsid r) (some slot) none true true) s

/-- What SES 0 and 1 ask of a local namespace (R265). -/
def askRelease (slot : Nat) (n : Namespace) (s : State) : State :=
  clearRanges n.nsid (addRenewals (newRenewal s (keySlot n.nsid 0) (some slot) none false true ::
    (rangesOf s n.nsid).map fun r => newRenewal s (keySlot n.nsid r) (some slot) none true false) s)

section
variable {slot : Nat} {c : Cmd} {s : State} (hready : AdminReady slot c s) (hop : c.e.opcode = 0x80)
include hready hop

theorem exec_formatNvmCryptoErase_ready (hses : fmtSes c.e = 2) :
    exec (.formatNvmCryptoErase slot) s = .next (formatNvm slot (askCryptoErase slot) c s) :=
  hready.runs (i := .formatNvmCryptoErase slot) rfl (by simp [hop, hses])

theorem exec_formatNvmRelease_ready (hses : fmtSes c.e ≠ 2) :
    exec (.formatNvmRelease slot) s = .next (formatNvm slot (askRelease slot) c s) :=
  hready.runs (i := .formatNvmRelease slot) rfl (by simp [hop, hses])

end

end Sys2Proof.Machine
end

section
/-! PROOFS. Sanitize (R266). Completion at the start, the refusal of a second Sanitize and the block stripes that a
block erase takes are the model's choices (log entries 73, 74). -/

namespace Sys2Proof.Machine

/-- Block stripes that hold host cards. -/
def hostStripes (s : State) : List Nat :=
  (s.blk.table.filter fun x => x.2.stream != 3 && decide (1 ≤ x.2.state) && decide (x.2.state ≤ 4)).map fun x => x.1

/-- The key part as a Sanitize of kind `kind` begins. -/
def sanitizeKeys (kind : Nat) (c : Cmd) (s : State) : Keys :=
  { s.key with
    sanitize := kind, sanStatus := 2, sanDw := c.e.dw10
    renewals := s.key.renewals ++ (localSlots s).map fun k => newRenewal s k none none true false }

/-- The state as a Sanitize has begun and its command has completed. -/
def sanitizeBegun (slot kind : Nat) (c : Cmd) (s : State) : State :=
  { s with nv := (finishOk slot 0 s).nv, key := sanitizeKeys kind c s }

/-- The state once a Sanitize has nothing left to do. -/
def sanitizeOver (slot : Nat) (c : Cmd) (s : State) : State :=
  { s with nv := (finishOk slot 0 s).nv, key := { s.key with sanitize := 0, sanStatus := 1, sanDw := c.e.dw10 } }

/-- The end of a command reads nothing of the keys. -/
theorem finish_withKey (slot : Nat) (st : Nat × Nat) (dw0 : Nat) (s : State) (k : Keys) :
    finish slot st dw0 { s with key := k } = { s with nv := (finish slot st dw0 s).nv, key := k } := by
  rw [finish_rest]
  cases hc : cmdAt s slot with
  | none =>
    have hc' : cmdAt { s with key := k } slot = none := hc
    simp [finish, hc, hc']
  | some c =>
    have hc' : cmdAt { s with key := k } slot = some c := hc
    simp only [finish, hc, hc', finishAt, addError]
    split <;> rfl

section
variable {slot kind : Nat} {c : Cmd} {s : State}

theorem startSanitize_second (hrun : s.key.sanitize ≠ 0) : startSanitize slot kind s = finishErr slot (0, 0x1D) s := by
  simp [startSanitize, hrun]

theorem startSanitize_first (hc : cmdAt s slot = some c) (hidle : s.key.sanitize = 0) :
    startSanitize slot kind s = sanitizeAdvance (sanitizeBegun slot kind c s) := by
  have hdw : slotDw10 s slot = c.e.dw10 := by rw [slotDw10, hc]
  simp only [startSanitize, hidle, hdw]
  exact congrArg sanitizeAdvance (finish_withKey slot (0, 0) 0 s (sanitizeKeys kind c s))

end

section
variable {s : State}

theorem sanitizeAdvance_waits (hwait : s.key.renewals ≠ [] ∨ s.key.sanForced ≠ []) : sanitizeAdvance s = s := by
  rcases hwait with h | h <;> simp [sanitizeAdvance, h]

section
variable (hopen : s.key.sanitize ≠ 0) (hrenewals : s.key.renewals = []) (hforced : s.key.sanForced = [])
include hopen hrenewals hforced

/-- With nothing to wait for a crypto erase is over, and a block erase of a part without host cards too. -/
theorem sanitizeAdvance_over (hlast : s.key.sanitize = 1 ∨ hostStripes s = []) :
    sanitizeAdvance s = { s with key := { s.key with sanitize := 0, sanStatus := 1 } } := by
  have hdone : (s.key.sanitize = 1 || (hostStripes s).isEmpty) = true := by
    rcases hlast with h | h <;> simp [h]
  rw [sanitizeAdvance, if_neg (by simp [hopen, hrenewals, hforced])]
  exact if_pos hdone

/-- With nothing to wait for a block erase goes on to the block stripes that hold host cards. -/
theorem sanitizeAdvance_erases (hblock : s.key.sanitize ≠ 1) (hused : hostStripes s ≠ []) :
    (sanitizeAdvance s).key = { s.key with sanForced := hostStripes s } := by
  have hmore : ¬ (s.key.sanitize = 1 || (hostStripes s).isEmpty) = true := by simp [hblock, hused]
  have hsealed := congrArg (fun t : State => t.key) (sealRows_withoutRowWork s)
  have hforces : ((hostStripes s).foldl (fun v n => forceVictim n none v) (sealRows s)).key = s.key :=
    (foldl_keeps (fun t : State => t.key) (fun v n => forceVictim n none v) (fun _ _ => rfl) _ _).trans hsealed
  rw [sanitizeAdvance, if_neg (by simp [hopen, hrenewals, hforced])]
  refine (congrArg (fun t : State => t.key) (if_neg hmore)).trans ?_
  exact congrArg (fun k : Keys => { k with sanForced := hostStripes s }) hforces

end
end

section
variable {slot kind : Nat} {c : Cmd} {s : State}

theorem sanitizeBegun_waits (hwait : localSlots s ++ s.key.sanForced ≠ [] ∨ s.key.renewals ≠ []) :
    sanitizeAdvance (sanitizeBegun slot kind c s) = sanitizeBegun slot kind c s := by
  refine sanitizeAdvance_waits ?_
  simp only [ne_eq, List.append_eq_nil_iff] at hwait
  simp only [sanitizeBegun, sanitizeKeys, ne_eq, List.append_eq_nil_iff, List.map_eq_nil_iff]
  tauto

theorem sanitizeKeys_free (hslots : localSlots s = []) : sanitizeKeys kind c s =
    { s.key with sanitize := kind, sanStatus := 2, sanDw := c.e.dw10 } := by
  simp [sanitizeKeys, hslots]

section
variable (hslots : localSlots s = []) (hforced : s.key.sanForced = []) (hrenewals : s.key.renewals = [])
include hslots hforced hrenewals

theorem sanitizeBegun_over (hopen : kind ≠ 0) (hlast : kind = 1 ∨ hostStripes s = []) :
    sanitizeAdvance (sanitizeBegun slot kind c s) = sanitizeOver slot c s := by
  rw [sanitizeBegun, sanitizeKeys_free hslots]
  exact sanitizeAdvance_over hopen hrenewals hforced hlast

theorem sanitizeBegun_erases (hused : hostStripes s ≠ []) :
    (sanitizeAdvance (sanitizeBegun slot 2 c s)).key =
      { s.key with sanitize := 2, sanStatus := 2, sanDw := c.e.dw10, sanForced := hostStripes s } := by
  rw [sanitizeBegun, sanitizeKeys_free hslots]
  exact sanitizeAdvance_erases (s := { s with nv := _, key := { s.key with
    sanitize := 2, sanStatus := 2, sanDw := c.e.dw10 } }) two_ne_zero hrenewals hforced
      (by decide : (2 : Nat) ≠ 1) hused

end
end

/-- What a Sanitize changes as it begins: the controller by the end of its command, and the keys. -/
theorem sanitizeBegun_facts {slot : Nat} {c : Cmd} {s : State} (kind : Nat) (hc : cmdAt s slot = some c) :
    sanitizeBegun slot kind c s =
      { s with nv := (sanitizeBegun slot kind c s).nv, key := (sanitizeBegun slot kind c s).key } ∧
    Ended slot c (0, 0) 0 s (sanitizeBegun slot kind c s) :=
  ⟨rfl, finish_ended (0, 0) 0 hc⟩

theorem sanitizeOver_facts {slot : Nat} {c : Cmd} {s : State} (hc : cmdAt s slot = some c) :
    sanitizeOver slot c s = { s with nv := (sanitizeOver slot c s).nv, key := (sanitizeOver slot c s).key } ∧
    Ended slot c (0, 0) 0 s (sanitizeOver slot c s) :=
  ⟨rfl, finish_ended (0, 0) 0 hc⟩

section
variable {slot : Nat} {c : Cmd} {s : State} (hready : AdminReady slot c s) (hop : c.e.opcode = 0x84)
  (hdealloc : sanNoDealloc c.e = false)
include hready hop hdealloc

theorem exec_sanitizeCryptoErase_ready (hact : sanAct c.e = 4) :
    exec (.sanitizeCryptoErase slot) s = .next (startSanitize slot 1 s) :=
  hready.runs (i := .sanitizeCryptoErase slot) rfl (by simp [hop, hact, hdealloc])

theorem exec_sanitizeBlockErase_ready (hact : sanAct c.e = 2) :
    exec (.sanitizeBlockErase slot) s = .next (startSanitize slot 2 s) :=
  hready.runs (i := .sanitizeBlockErase slot) rfl (by simp [hop, hact, hdealloc])

end

/-- Settles O15: a Format takes its namespace and asks for renewals or sends packets; a Sanitize is `sanitizeBegun` and
what `sanitizeAdvance` finds left to do. -/
theorem formatAndSanitize : Obligations.FormatAndSanitize := by
  refine ⟨⟨?cryptoErase, ?release, ?spanned, ?illegal, ?unattached⟩, ?cryptoWaits, ?blockWaits, ?free, ?stripes,
    ?cryptoSecond, ?blockSecond, ?invalid⟩
  case cryptoErase =>
    intro s slot c n hready hop hses hstatus hn hlocal
    have hexec := exec_formatNvmCryptoErase_ready hready hop hses
    rw [formatNvm_local hstatus hn hlocal] at hexec
    obtain ⟨-, hruns⟩ := takeNamespace_facts n.nsid hready.cmdAt_eq
    exact ⟨_, hexec, rfl, rfl, hruns, _, rfl, rfl⟩
  case release =>
    intro s slot c n hready hop hses hstatus hn hlocal
    have hexec := exec_formatNvmRelease_ready hready hop hses
    rw [formatNvm_local hstatus hn hlocal] at hexec
    obtain ⟨-, hruns⟩ := takeNamespace_facts n.nsid hready.cmdAt_eq
    exact ⟨_, hexec, rfl, rfl, hruns, rfl, _, rfl, rfl⟩
  case spanned =>
    intro s slot e c n v hready hop hstatus hn hspanned hv
    obtain ⟨-, hruns⟩ := takeNamespace_facts n.nsid hready.cmdAt_eq
    refine ⟨sendFormat slot e (fmtSes c.e) (takeNamespace slot n.nsid s), fun hses => ?_, fun hses => ?_, ?_, ?_, ?_,
      sendFormat_out hv⟩
    · rw [exec_formatNvmCryptoErase_ready hready hop hses, formatNvm_spanned hstatus hn hspanned]
    · rw [exec_formatNvmRelease_ready hready hop hses, formatNvm_spanned hstatus hn hspanned]
    · rw [sendFormat_rest]
      rfl
    · rw [sendFormat_rest]
      rfl
    · rw [sendFormat_rest]
      exact hruns
  case illegal =>
    intro s slot c st hready hop hstatus
    refine ⟨finishErr slot st s, fun hses => ?_, fun hses => ?_, finish_rest .., finish_ended _ _ hready.cmdAt_eq⟩
    · rw [exec_formatNvmCryptoErase_ready hready hop hses, formatNvm_illegal hstatus]
    · rw [exec_formatNvmRelease_ready hready hop hses, formatNvm_illegal hstatus]
  case unattached =>
    intro s slot c hready hop hses hn
    have hexec := exec_formatNvmCryptoErase_ready hready hop hses
    rw [formatNvm_illegal (formatStatus_unattached hn)] at hexec
    exact hready.refused hexec
  case cryptoWaits =>
    intro s slot c hready hop hact hdealloc hidle hwait
    have hexec := exec_sanitizeCryptoErase_ready hready hop hdealloc hact
    rw [startSanitize_first hready.cmdAt_eq hidle, sanitizeBegun_waits hwait] at hexec
    obtain ⟨hrest, hended⟩ := sanitizeBegun_facts 1 hready.cmdAt_eq
    exact ⟨_, hexec, hrest, hended, rfl, rfl, rfl⟩
  case blockWaits =>
    intro s slot c hready hop hact hdealloc hidle hwait
    have hexec := exec_sanitizeBlockErase_ready hready hop hdealloc hact
    rw [startSanitize_first hready.cmdAt_eq hidle, sanitizeBegun_waits hwait] at hexec
    obtain ⟨hrest, hended⟩ := sanitizeBegun_facts 2 hready.cmdAt_eq
    exact ⟨_, hexec, hrest, hended, rfl, rfl, rfl⟩
  case free =>
    intro s slot c hready hop hdealloc hidle hslots hforced hrenewals hempty
    have hnone : hostStripes s = [] := by
      refine List.map_eq_nil_iff.mpr (List.filter_eq_nil_iff.mpr fun x hx => ?_)
      simp [hempty x hx]
    obtain ⟨hrest, hended⟩ := sanitizeOver_facts hready.cmdAt_eq
    refine ⟨sanitizeOver slot c s, hrest, hended, rfl, rfl, hrenewals, fun hact => ?_, fun hact => ?_⟩
    · rw [exec_sanitizeCryptoErase_ready hready hop hdealloc hact, startSanitize_first hready.cmdAt_eq hidle,
        sanitizeBegun_over hslots hforced hrenewals (by decide) (.inl rfl)]
    · rw [exec_sanitizeBlockErase_ready hready hop hdealloc hact, startSanitize_first hready.cmdAt_eq hidle,
        sanitizeBegun_over hslots hforced hrenewals (by decide) (.inr hnone)]
  case stripes =>
    intro s slot c hready hop hdealloc hidle hslots hforced hrenewals hused
    refine ⟨fun hact => ?_, fun hact => ?_⟩
    · have hexec := exec_sanitizeCryptoErase_ready hready hop hdealloc hact
      rw [startSanitize_first hready.cmdAt_eq hidle,
        sanitizeBegun_over hslots hforced hrenewals (by decide) (.inl rfl)] at hexec
      obtain ⟨hrest, hended⟩ := sanitizeOver_facts hready.cmdAt_eq
      exact ⟨_, hexec, hrest, hended, rfl, rfl⟩
    · have hsome : hostStripes s ≠ [] := by
        obtain ⟨x, hx, hstream, hlow, hhigh⟩ := hused
        refine List.ne_nil_of_mem (List.mem_map_of_mem (List.mem_filter.mpr ⟨hx, ?_⟩))
        simp [hstream, hlow, hhigh]
      have hexec := exec_sanitizeBlockErase_ready hready hop hdealloc hact
      rw [startSanitize_first hready.cmdAt_eq hidle] at hexec
      have hkey := sanitizeBegun_erases (slot := slot) (c := c) hslots hforced hrenewals hsome
      refine ⟨_, hexec, ?_⟩
      rw [hkey]
      exact ⟨rfl, rfl, rfl⟩
  case cryptoSecond =>
    intro s slot c hready hop hact hdealloc hrun
    have hexec := exec_sanitizeCryptoErase_ready hready hop hdealloc hact
    rw [startSanitize_second hrun] at hexec
    exact hready.refused hexec
  case blockSecond =>
    intro s slot c hready hop hact hdealloc hrun
    have hexec := exec_sanitizeBlockErase_ready hready hop hdealloc hact
    rw [startSanitize_second hrun] at hexec
    exact hready.refused hexec
  case invalid =>
    intro s slot c hready hop hdealloc
    exact hready.refused (hready.runs (i := .sanitizeInvalid slot) rfl (by simp [hop, hdealloc]))

end Sys2Proof.Machine
end

section
/-! PROOFS. The Folio (R240, R366 to R368): staging, a commit's erases and its end, and training records. The commit as
two events with code 3 and Invalid Field after a failed read-back is the model's choice (log entry 77). -/

namespace Sys2Proof.Machine

/-! ## Erases that are asked for (R406, R421) -/

/-- The sector is being erased or waits for its erase. -/
def EraseAsked (n : Nat) (s : State) : Prop :=
  s.cdx.erasing = some n ∨ ∃ r, r ∈ s.cdx.requests ∧ r.erase = true ∧ sectorOf r.addr = n

theorem askErase_asked (n : Nat) (s : State) : EraseAsked n (askErase n s) := by
  unfold askErase
  split
  · next h =>
    simp only [Bool.or_eq_true, List.any_eq_true, Bool.and_eq_true, decide_eq_true_eq] at h
    rcases h with ⟨r, hr, herase, hsector⟩ | herasing
    · exact .inr ⟨r, hr, herase, hsector⟩
    · exact .inl herasing
  · exact .inr ⟨_, List.mem_append_right _ (List.mem_singleton.mpr rfl), rfl, by simp [sectorOf]⟩

theorem askErase_keeps_asked {n : Nat} (m : Nat) {s : State} (h : EraseAsked n s) : EraseAsked n (askErase m s) := by
  unfold askErase
  split
  · exact h
  · exact h.imp_right fun ⟨r, hr, hasked⟩ => ⟨r, List.mem_append_left _ hr, hasked⟩

/-- From `s` to `t` the erases of the Codex die stay as they were asked for. -/
def SameErases (s t : State) : Prop := t.cdx.erasing = s.cdx.erasing ∧ t.cdx.requests = s.cdx.requests

theorem SameErases.ite {p : Prop} [Decidable p] {s t u : State} (ht : SameErases s t) (hu : SameErases s u) :
    SameErases s (if p then t else u) := by
  split
  · exact ht
  · exact hu

/-- Which structure a sector holds is no matter of the Codex die's own queue. -/
theorem dropSector_erases (n : Nat) (s : State) : SameErases s (dropSector n s) := by
  unfold dropSector
  repeat' apply SameErases.ite
  all_goals exact ⟨rfl, rfl⟩

theorem dropSector_keeps_asked {n : Nat} (m : Nat) {s : State} (h : EraseAsked n s) :
    EraseAsked n (dropSector m s) := by
  obtain ⟨herasing, hrequests⟩ := dropSector_erases m s
  rw [EraseAsked, herasing, hrequests]
  exact h

theorem eraseSectors_asked (l : List Nat) (s : State) :
    (∀ n, EraseAsked n s → EraseAsked n (eraseSectors l s)) ∧ ErasesAsked l (eraseSectors l s) := by
  induction l generalizing s with
  | nil => exact ⟨fun _ h => h, fun _ h => absurd h List.not_mem_nil⟩
  | cons a l ih =>
    obtain ⟨hkept, hasked⟩ := ih (askErase a (dropSector a s))
    refine ⟨fun n h => hkept n (askErase_keeps_asked a (dropSector_keeps_asked a h)), fun n hn => ?_⟩
    rcases List.mem_cons.mp hn with rfl | hn
    · exact hkept n (askErase_asked n _)
    · exact hasked n hn

/-! ## The banks (R368) -/

/-- What the erases of a target bank must leave: the controller, the commit under way, the bank in force and the image
of the other bank. -/
def besideBank (isB : Bool) (s : State) : Nvme × Option (Nat × FolioImage) × Option Bool × Bank :=
  (s.nv, s.fol.committing, s.fol.inForce, if isB then s.fol.bankA else s.fol.bankB)

theorem mem_bankSectors {isB : Bool} {n : Nat} :
    n ∈ bankSectors isB ↔ bankSector isB ≤ n ∧ n < bankSector isB + 16 := by
  simp only [bankSectors, List.mem_map, List.mem_range]
  constructor
  · rintro ⟨i, hi, rfl⟩
    omega
  · rintro ⟨hlow, hhigh⟩
    exact ⟨n - bankSector isB, by omega, by omega⟩

theorem dropSector_folioA {n : Nat} (s : State) (hlow : 96 ≤ n) (hhigh : n < 112) :
    ∃ b l, dropSector n s = { s with fol := { s.fol with bankA := b, trainA := l } } := by
  rw [dropSector, if_neg (by omega), if_neg (by omega)]
  rcases Nat.lt_or_ge n 108 with himage | htraining
  · rw [if_pos himage]
    exact ⟨_, _, rfl⟩
  · rw [if_neg (Nat.not_lt.mpr htraining), if_pos hhigh]
    exact ⟨_, _, rfl⟩

theorem dropSector_folioB {n : Nat} (s : State) (hlow : 112 ≤ n) (hhigh : n < 128) :
    ∃ b l, dropSector n s = { s with fol := { s.fol with bankB := b, trainB := l } } := by
  rw [dropSector, if_neg (by omega), if_neg (by omega), if_neg (by omega), if_neg (by omega)]
  rcases Nat.lt_or_ge n 124 with himage | htraining
  · rw [if_pos himage]
    exact ⟨_, _, rfl⟩
  · rw [if_neg (Nat.not_lt.mpr htraining), if_pos hhigh]
    exact ⟨_, _, rfl⟩

theorem dropSector_besideBank {isB : Bool} {n : Nat} (hn : n ∈ bankSectors isB) (s : State) :
    besideBank isB (dropSector n s) = besideBank isB s := by
  obtain ⟨hlow, hhigh⟩ := mem_bankSectors.mp hn
  cases isB with
  | false =>
    obtain ⟨b, l, hdrop⟩ := dropSector_folioA s hlow hhigh
    rw [hdrop]
    rfl
  | true =>
    obtain ⟨b, l, hdrop⟩ := dropSector_folioB s hlow hhigh
    rw [hdrop]
    rfl

theorem eraseSectors_besideBank {isB : Bool} (l : List Nat) (s : State) (hl : ∀ n ∈ l, n ∈ bankSectors isB) :
    besideBank isB (eraseSectors l s) = besideBank isB s := by
  induction l generalizing s with
  | nil => rfl
  | cons a l ih =>
    obtain ⟨ha, hl⟩ := List.forall_mem_cons.mp hl
    refine (ih (askErase a (dropSector a s)) hl).trans ?_
    rw [askErase_rest]
    exact dropSector_besideBank ha s

/-! ## A commit (R240, R368) -/

/-- The state of a commit once its erases are asked for. -/
def commitAsked (slot : Nat) (c : Cmd) (img : FolioImage) (s : State) : State :=
  let t := stageUnit (bitsOf c.e.dw10 7 0) s
  eraseSectors (bankSectors (targetBank s)) (modCmd slot (fun c => { c with phase := .running }) { t with
    fol := { t.fol with committing := some (slot, { img with sequence := topSequence s + 1 }) } })

section
variable {slot : Nat} {c : Cmd} {img : FolioImage} {s : State} (hlegal : c.e.dw11 ≤ 1023)
include hlegal

theorem commitBegin_valid (hvalid : stageCode (stageUnit (bitsOf c.e.dw10 7 0) s) img = 0) :
    commitBegin slot img c.e s = commitAsked slot c img s := by
  simp only [commitBegin, stageLegal, hlegal, hvalid]
  rfl

theorem commitBegin_invalid (hinvalid : stageCode (stageUnit (bitsOf c.e.dw10 7 0) s) img ≠ 0) :
    commitBegin slot img c.e s = finishErr slot scField (noteCommit (stageUnit (bitsOf c.e.dw10 7 0) s)
      (stageCode (stageUnit (bitsOf c.e.dw10 7 0) s) img) img.sequence) := by
  simp [commitBegin, stageLegal, hlegal, hinvalid]

end

theorem commitAsked_besideBank (slot : Nat) (c : Cmd) (img : FolioImage) (s : State) :
    besideBank (targetBank s) (commitAsked slot c img s) =
      ((modCmd slot (fun c => { c with phase := .running }) s).nv,
        some (slot, { img with sequence := topSequence s + 1 }), s.fol.inForce,
        if targetBank s then s.fol.bankA else s.fol.bankB) :=
  eraseSectors_besideBank (bankSectors (targetBank s)) _ fun _ h => h

theorem noteCommit_rest (s : State) (code sequence : Nat) : noteCommit s code sequence = { s with
    day := (noteCommit s code sequence).day
    cdx := { s.cdx with recRecords := (noteCommit s code sequence).cdx.recRecords } } := record_rest ..

theorem noteCommit_keeps (s : State) (code sequence : Nat) :
    (noteCommit s code sequence).fol = s.fol ∧ (noteCommit s code sequence).nv = s.nv := by
  rw [noteCommit_rest]
  exact ⟨rfl, rfl⟩

/-- The program of the target bank changes the Folio alone: the image goes there, and the other bank and the bank in
force stay. -/
theorem writeBank_facts (img : FolioImage) (good : Bool) (s : State) :
    writeBank img good s = { s with fol := (writeBank img good s).fol } ∧
    (writeBank img good s).fol.staged = [] ∧ (writeBank img good s).fol.committing = none ∧
    (writeBank img good s).fol.inForce = s.fol.inForce ∧ (writeBank img good s).fol.commit = true ∧
    (if targetBank s then (writeBank img good s).fol.bankB else (writeBank img good s).fol.bankA) =
      .image { img with crcOk := good } ∧
    (if targetBank s then (writeBank img good s).fol.bankA else (writeBank img good s).fol.bankB) =
      (if targetBank s then s.fol.bankA else s.fol.bankB) := by
  unfold writeBank setTraining
  cases targetBank s <;> exact ⟨rfl, rfl, rfl, rfl, rfl, rfl, rfl⟩

/-- The end of a commit whose programs and erases are good or not: the record, the program, and the status. -/
def commitStored (slot : Nat) (x : FolioImage) (good : Bool) (s : State) : State :=
  finish slot (if good then (0, 0) else (0, 2)) 0 (writeBank x good (noteCommit s (if good then 0 else 3) x.sequence))

theorem commitEnd_eq (slot : Nat) (x : FolioImage) (ok : Bool) (s : State) : commitEnd slot x ok s =
    commitStored slot x (ok && ! anyFlagged (bankSectors (targetBank s)) s) s := by
  unfold commitEnd commitStored
  dsimp only
  split <;> rfl

theorem commitStored_facts {slot : Nat} {c : Cmd} {s : State} (x : FolioImage) (good : Bool)
    (hc : cmdAt s slot = some c) :
    (commitStored slot x good s).fol.staged = [] ∧ (commitStored slot x good s).fol.committing = none ∧
    (commitStored slot x good s).fol.inForce = s.fol.inForce ∧ (commitStored slot x good s).fol.commit = true ∧
    Ended slot c (if good then (0, 0) else (0, 2)) 0 s (commitStored slot x good s) ∧
    (if targetBank s then (commitStored slot x good s).fol.bankB else (commitStored slot x good s).fol.bankA) =
      .image { x with crcOk := good } ∧
    (if targetBank s then (commitStored slot x good s).fol.bankA else (commitStored slot x good s).fol.bankB) =
      (if targetBank s then s.fol.bankA else s.fol.bankB) := by
  obtain ⟨hfol, hnv⟩ := noteCommit_keeps s (if good then 0 else 3) x.sequence
  unfold commitStored
  generalize noteCommit s (if good then 0 else 3) x.sequence = v at hfol hnv ⊢
  have hsame : targetBank v = targetBank s := congrArg (fun f : Folio => f.inForce != some true) hfol
  obtain ⟨hrest, hstaged, hdone, hforce, hcommitted, htarget, hother⟩ := writeBank_facts x good v
  rw [hsame, hfol] at hother
  rw [hsame] at htarget
  rw [hfol] at hforce
  have hkept : (writeBank x good v).nv = s.nv := by rw [hrest]; exact hnv
  have hended := finish_ended_of_nv (if good then (0, 0) else (0, 2)) 0 hkept hc
  rw [finish_rest] at hended ⊢
  exact ⟨hstaged, hdone, hforce, hcommitted, hended, htarget, hother⟩

section
variable {slot : Nat} {img : FolioImage} {ok : Bool} {s : State}

theorem exec_folioCommit_begins {c : Cmd} (hready : AdminReady slot c s) (hop : c.e.opcode = 0xC5)
    (hcommit : c.e.dw10.testBit 31 = true) (hfree : s.fol.committing = none) :
    exec (.folioCommit slot img ok) s = .next (commitBegin slot img c.e s) := by
  change execFolioCommit slot img ok s = _
  rw [execFolioCommit, hfree]
  exact congrArg _ (runAdmin_ready hready _ _ (by simp [hop, hcommit]))

theorem exec_folioCommit_goesOn {n : Nat} {x : FolioImage} (hrun : s.fol.committing = some (n, x)) :
    exec (.folioCommit slot img ok) s =
      .next (if n = slot && serving s && erasesOver (bankSectors (targetBank s)) s then commitEnd slot x ok s
        else s) := by
  change execFolioCommit slot img ok s = _
  rw [execFolioCommit, hrun]

end

/-! ## Training records (R366, R367) -/

theorem trainingOf_setTraining (isB : Bool) (l : List TrainRec) (s : State) :
    trainingOf (setTraining isB l s) isB = l ∧ trainingOf (setTraining isB l s) (! isB) = trainingOf s (! isB) ∧
      setTraining isB l s = { s with fol := (setTraining isB l s).fol } ∧
      (setTraining isB l s).fol.trSeq = s.fol.trSeq ∧ (setTraining isB l s).fol.commit = s.fol.commit := by
  cases isB <;> exact ⟨rfl, rfl, rfl, rfl, rfl⟩

/-- The record of a training result, with the next number. -/
def nextTraining (kind unit rate m : Nat) (s : State) : TrainRec :=
  trainPayload s { kind := kind, unit := unit, seq := s.fol.trSeq + 1, rate := rate, mtch := m, timeMs := s.clock.opMs }

/-- The state once the next record number is taken. -/
def trainingNumbered (s : State) : State := { s with fol := { s.fol with trSeq := s.fol.trSeq + 1 } }

/-- With room in its half and no commit since the start, a record joins those of the bank in force. -/
theorem exec_trainingRecordAppend_room {s : State} {kind unit rate m : Nat} {isB : Bool} (hawake : awake s = true)
    (hforce : s.fol.inForce = some isB) (hkind : kind = 1 ∧ unit ≤ 63 ∨ kind = 2 ∧ unit ≤ 7)
    (hroom : (trainingOf s isB).length ≤ 184) (hcommit : s.fol.commit = false) :
    exec (.trainingRecordAppend kind unit rate m) s = .next (setTraining isB
      (trainingOf s isB ++ [nextTraining kind unit rate m s]) (trainingNumbered s)) := by
  have happend : appendTraining isB (nextTraining kind unit rate m s) (trainingNumbered s) =
      setTraining isB (trainingOf s isB ++ [nextTraining kind unit rate m s]) (trainingNumbered s) :=
    if_neg (Nat.not_lt.mpr hroom)
  obtain ⟨-, -, -, -, hsame⟩ := trainingOf_setTraining isB (trainingOf s isB ++ [nextTraining kind unit rate m s])
    (trainingNumbered s)
  have hopen : ¬ (appendTraining isB (nextTraining kind unit rate m s) (trainingNumbered s)).fol.commit = true := by
    rw [happend, hsame]
    simp [trainingNumbered, hcommit]
  change execTrainingRecordAppend kind unit rate m s = _
  rw [execTrainingRecordAppend, hforce, ← happend]
  refine congrArg _ ((if_neg ?_).trans (if_neg hopen))
  simp [hawake]
  omega

/-- Settles O24: a commit is `commitAsked`, then `commitEnd`; a stage marks one unit, and a training record joins one
list. -/
theorem folioImagesGoToTheOtherBank : Obligations.FolioImagesGoToTheOtherBank := by
  refine ⟨?stages, ?begins, ?ends, ?waits, ?invalid, ?training⟩
  case stages =>
    intro s slot c hready hop hstage hlegal
    have hexec := hready.runs (i := .folioStage slot) rfl (by simp [hop, hstage])
    rw [if_neg (by simp [stageLegal, hlegal])] at hexec
    refine ⟨_, hexec, finish_ended _ _ hready.cmdAt_eq, ?_, ?_, ?_⟩
    · rw [finishOk, finish_rest]
      by_cases hin : bitsOf c.e.dw10 7 0 ∈ s.fol.staged <;> simp [stageUnit, hin]
    · rw [finishOk, finish_rest]
      rfl
    · intro u hu
      rw [finishOk, finish_rest]
      by_cases hin : bitsOf c.e.dw10 7 0 ∈ s.fol.staged <;> simp [stageUnit, hin, hu]
  case begins =>
    intro s slot c img hready hop hcommit hlegal hvalid hfree
    have hbeside := commitAsked_besideBank slot c img s
    simp only [besideBank, Prod.mk.injEq] at hbeside
    obtain ⟨hnv, hcommitting, hforce, hbank⟩ := hbeside
    refine ⟨commitAsked slot c img s, fun ok => ?_, hcommitting, ?_, hforce, ?_, ?_, hbank⟩
    · rw [exec_folioCommit_begins hready hop hcommit hfree, commitBegin_valid hlegal hvalid]
    · rw [cmdAt, hnv]
      exact cmdAt_modCmd (fun _ => rfl) hready.cmdAt_eq
    · obtain ⟨-, hasked⟩ := eraseSectors_asked (bankSectors (targetBank s)) _
      exact hasked
    · rw [hnv]
      rfl
  case ends =>
    intro s slot c img x ok hc hserve hrun hover
    have hexec := exec_folioCommit_goesOn (slot := slot) (img := img) (ok := ok) hrun
    rw [if_pos (by simp [hserve, hover]), commitEnd_eq] at hexec
    exact ⟨_, hexec, commitStored_facts x _ hc⟩
  case waits =>
    intro s slot n img x ok hrun hnot
    rw [exec_folioCommit_goesOn hrun, if_neg]
    rcases hnot with h | h <;> simp [h]
  case invalid =>
    intro s slot c img ok hready hop hcommit hlegal hinvalid hfree
    have hexec := exec_folioCommit_begins (img := img) (ok := ok) hready hop hcommit hfree
    rw [commitBegin_invalid hlegal hinvalid, noteCommit_rest] at hexec
    refine ⟨_, hexec, finish_ended _ _ hready.cmdAt_eq, ?_⟩
    rw [finishErr, finish_rest]
    exact ⟨rfl, rfl, rfl⟩
  case training =>
    intro s kind unit rate m isB hawake hforce hkind hroom hcommit
    obtain ⟨hjoined, hother, hrest, hseq, -⟩ := trainingOf_setTraining isB
      (trainingOf s isB ++ [nextTraining kind unit rate m s]) (trainingNumbered s)
    exact ⟨_, exec_trainingRecordAppend_room hawake hforce hkind hroom hcommit, hrest, hjoined, hother, hseq⟩

end Sys2Proof.Machine
end

section
/-! PROOFS. Retire and Fox Report (R239, R241). That the Retire command waits for ROSTER_LOAD and that a Fox Report past
its end answers in its step and starts loads are the model's choices (log entries 79, 142). -/

namespace Sys2Proof.Machine

/-! ## A die that is retired (R99, R117) -/

/-- The Roster entry with a die retired for a reason. -/
def rosterRetired (d reason : Nat) (r : Roster) : Roster :=
  { r with retired := r.retired ||| BitVec.ofNat 32 (2 ^ d), reasons := mapSet d reason r.reasons }

theorem rosterRetired_getLsbD {d : Nat} (reason : Nat) (r : Roster) (hd : d < 32) :
    (rosterRetired d reason r).retired.getLsbD d = true := by
  simp only [rosterRetired, BitVec.getLsbD_or, BitVec.getLsbD_ofNat, Nat.testBit_two_pow_self, hd, decide_true,
    Bool.and_self, Bool.or_true]

/-- Of the channels a retirement changes what its Roster change does. -/
theorem chanAt_markRetired (ch d reason : Nat) (s : State) (k : Nat) :
    chanAt (markRetired ch d reason s) k = chanAt (changeRoster ch (rosterRetired d reason) s) k := by
  unfold markRetired
  exact chanAt_congr (s := changeRoster ch (rosterRetired d reason) s) (record_fl ..) k

theorem changeRoster_keeps {s : State} (ch : Nat) (f : Roster → Roster) (hlib : s.lib.state = 0) :
    (changeRoster ch f s).nv = s.nv ∧ (changeRoster ch f s).cat = s.cat ∧ (changeRoster ch f s).led = s.led ∧
    (changeRoster ch f s).wr = s.wr := by
  rw [changeRoster_running ch f hlib, modChan_rest, modChan_rest ch _ s]
  exact ⟨rfl, rfl, rfl, rfl⟩

theorem record_led (event : Nat) (payload : List (Nat × Nat)) (s : State) : (record event payload s).led = s.led := by
  rw [record_rest]

theorem markRetired_keeps {s : State} (ch d reason : Nat) (hlib : s.lib.state = 0) :
    (markRetired ch d reason s).nv = s.nv ∧ (markRetired ch d reason s).cat = s.cat ∧
    (markRetired ch d reason s).led = s.led ∧ (markRetired ch d reason s).wr = s.wr := by
  obtain ⟨hnv, hcat, hled, hwr⟩ := changeRoster_keeps ch (rosterRetired d reason) hlib
  obtain ⟨-, -, -, hrecWr, hrecCat, hrecNv⟩ := record_keep 0x0101 [(1, 1), (1, ch), (1, d), (1, 0), (2, 0), (1, reason)]
    (changeRoster ch (rosterRetired d reason) s)
  exact ⟨hrecNv.trans hnv, hrecCat.trans hcat, (record_led ..).trans hled, hrecWr.trans hwr⟩

theorem mem_servingDies {s : State} {ch d : Nat} {c : Channel} (hchan : chanAt s ch = some c)
    (hd : (servingDies s ch).contains d = true) : d < 32 ∧ c.copy.retired.getLsbD d = false := by
  simp only [servingDies, hchan, List.contains_eq_mem, List.mem_filter, List.mem_range, Bool.and_eq_true,
    Bool.not_eq_true', decide_eq_true_eq] at hd
  obtain ⟨hlow, -, hserves⟩ := hd
  exact ⟨hlow, hserves⟩

theorem dieRetired_eq {s : State} {ch : Nat} {c : Channel} (hchan : chanAt s ch = some c) (d : Nat) :
    dieRetired s ch d = c.copy.retired.getLsbD d := by
  rw [chanAt] at hchan
  rw [dieRetired, hchan]

/-- A serving die that is retired: its Roster copy says so, with the reason and the next generation, and its sync is
asked for. -/
theorem retireDie_serving {s : State} {ch d : Nat} {c : Channel} (reason : Nat) (hlib : s.lib.state = 0)
    (hchan : chanAt s ch = some c) (hd : (servingDies s ch).contains d = true) :
    retireDie ch d reason s = leaveLane ch d (markRetired ch d reason s) ∧
    dieRetired (markRetired ch d reason s) ch d = true ∧
    chanAt (markRetired ch d reason s) ch = some { c with
      copy := { rosterRetired d reason c.copy with
        generation := (c.copy.generation + 1) % 65536, zqInterval := fld s 0x650 }
      sync := true } := by
  obtain ⟨hlow, hserves⟩ := mem_servingDies hchan hd
  have hafter := (chanAt_markRetired ch d reason s ch).trans (chanAt_changeRoster (rosterRetired d reason) hchan)
  rw [hlib] at hafter
  refine ⟨?_, ?_, hafter⟩
  · rw [retireDie, dieRetired_eq hchan, hserves]
    rfl
  · rw [dieRetired_eq hafter]
    exact rosterRetired_getLsbD reason c.copy hlow

/-! ## The commands -/

section
variable {slot : Nat} {c : Cmd} {s : State} (hready : AdminReady slot c s) (hop : c.e.opcode = 0xC4)
include hready hop

theorem exec_retireDie_ready (hpart : retWhole c.e = false) : exec (.retireDie slot) s = .next
    (if ! (servingDies s (retChannel c.e)).contains (retTarget c.e) ||
        ! lanesKeep s [(retChannel c.e, retTarget c.e)] then finishErr slot scField s
      else resumeAll (settleChannel (retChannel c.e)
        (retireDie (retChannel c.e) (retTarget c.e) 5 (waitSync slot s)))) := by
  have hexec := hready.runs (i := .retireDie slot) rfl (by simp [hop, hpart])
  exact hexec

theorem exec_retireChannel_ready (hwhole : retWhole c.e = true) : exec (.retireChannel slot) s = .next
    (if (servingDies s (retChannel c.e)).isEmpty ||
        ! lanesKeep s ((servingDies s (retChannel c.e)).map fun d => (retChannel c.e, d)) then finishErr slot scField s
      else resumeAll (retireChannelDies (retChannel c.e) 5 (waitSync slot s))) := by
  have hexec := hready.runs (i := .retireChannel slot) rfl (by simp [hop, hwhole])
  exact hexec

end

/-- With the Librarian running a channel's dies are retired one by one, then its CH_STATE changes. -/
theorem retireChannelDies_running {s : State} (ch reason : Nat) (hlib : s.lib.state = 0) :
    retireChannelDies ch reason s = record 0x0101 [(1, 2), (1, ch), (1, 0), (1, 0), (2, 0), (1, reason)]
      (changeRoster ch (fun r => { r with chState := 1 })
        ((servingDies s ch).foldl (fun t d => retireDie ch d reason t) s)) := by
  simp [retireChannelDies, hlib]

theorem chState_after_changeRoster {s : State} {ch : Nat} {y : Channel}
    (hy : chanAt (changeRoster ch (fun r => { r with chState := 1 }) s) ch = some y) : y.copy.chState = 1 := by
  cases hchan : chanAt s ch with
  | some c =>
    rw [chanAt_changeRoster _ hchan] at hy
    exact Option.some.inj hy ▸ rfl
  | none =>
    have hsame : changeRoster ch (fun r => { r with chState := 1 }) s = askSync ch s := by
      rw [changeRoster, modChan, hchan]
    have hnone : chanAt (askSync ch s) ch = none := by
      unfold askSync
      split
      · rw [modChan, hchan, hchan]
      · exact hchan
    rw [hsame, hnone] at hy
    exact absurd hy.symm (Option.some_ne_none y)

/-! ## Fox Report (R241) -/

theorem foxScan_bounds (s : State) (ns : Namespace) (n c room : Nat) :
    (foxScan s ns n c room).1.length ≤ n ∧ (foxScan s ns n c room).2 ≤ c + n := by
  induction n generalizing c room with
  | zero => simp [foxScan]
  | succ n ih =>
    unfold foxScan
    split
    · simp
    · split
      · obtain ⟨hlen, hstop⟩ := ih (c + 1) (room - 1)
        simp only [List.length_cons]
        omega
      · obtain ⟨hlen, hstop⟩ := ih (c + 1) room
        omega

/-- The buffer of a Fox Report: the count, where the scan stopped, and the marked cards. -/
def foxBlob (n : Namespace) (marked : List Nat) (stop : Nat) : Blob :=
  { len := 16 + 8 * marked.length
    fields := [(0, 4, marked.length), (8, 8, cardLba n stop)] ++
      (List.range marked.length).map fun i => (16 + 8 * i, 8, cardLba n (natAt marked i)) }

/-- What a Fox Report scans: the marked cards and the first card not scanned. -/
def foxMarked (c : Cmd) (n : Namespace) (s : State) : List Nat × Nat :=
  foxScan s n (min (c.e.dw12 + 1) (ceilDiv (n.nsze * lbaSectors n) 8 - firstSector n c.e / 8))
    (firstSector n c.e / 8) ((4 * (c.e.dw13 + 1) - 16) / 8)

theorem foxReport_scans {slot : Nat} {c : Cmd} {s : State} {n : Namespace} (hc : cmdAt s slot = some c)
    (hn : nsAttached s c.e.nsid = some n) (hlocal : n.spanned = none) (hcards : c.e.dw12 ≤ 16777215)
    (hbuffer : 4 * (c.e.dw13 + 1) ≤ 1048576) (hin : slbaOf c.e < n.nsze) :
    foxReport slot c s = foxLookups n (firstSector n c.e / 8) (foxMarked c n s).2
      (finish slot (0, 0) (foxMarked c n s).1.length { s with nv := { s.nv with
        dataOut := s.nv.dataOut ++ [(c.e.cid, foxBlob n (foxMarked c n s).1 (foxMarked c n s).2)] } }) := by
  simp only [foxReport, hn]
  rw [if_neg (by simp [hlocal]; omega), if_neg (Nat.not_le.mpr hin)]
  simp only [sendData_of_cmdAt _ hc]
  rfl

theorem foxReport_unattached {slot : Nat} {c : Cmd} {s : State} (hn : nsAttached s c.e.nsid = none) :
    foxReport slot c s = finishErr slot scNsFormat s := by
  rw [foxReport, hn]

/-- Settles O25: a retirement is `markRetired` and the leave of its lane, and a Fox Report is one scan. -/
theorem retireAndFoxReportCommands : Obligations.RetireAndFoxReportCommands := by
  refine ⟨?die, ?dieRefused, ?channel, ?channelRefused, ?fox, ?foxRefused⟩
  case die =>
    rintro s slot _ _ c x hready hop hpart rfl rfl hchan hserves hkeep
    have hlib := hready.librarian_eq
    have hexec := exec_retireDie_ready hready hop hpart
    obtain ⟨hleave, hretired, hafter⟩ := retireDie_serving (s := waitSync slot s) 5 hlib hchan hserves
    obtain ⟨hnv, hcat, hled, hwr⟩ := markRetired_keeps (s := waitSync slot s) (retChannel c.e) (retTarget c.e) 5 hlib
    rw [if_neg (by simp [hkeep]; simpa using hserves), hleave] at hexec
    refine ⟨_, _, hexec, hretired, hafter, rfl, rfl, rfl, ?_, ?_, hcat, hled, hwr, ?_⟩
    · simp [rosterRetired, mapGet_mapSet]
    · rw [cmdAt, hnv]
      exact cmdAt_modCmd (fun _ => rfl) hready.cmdAt_eq
    · rw [hnv]
      rfl
  case dieRefused =>
    intro s slot c hready hop hpart hrefused
    have hexec := exec_retireDie_ready hready hop hpart
    rw [if_pos (by rcases hrefused with h | h <;> rw [h] <;> simp)] at hexec
    obtain ⟨t, ht, hrest, hended⟩ := hready.refused hexec
    exact ⟨t, ht, hended, hrest⟩
  case channel =>
    rintro s slot _ c hready hop hwhole rfl hserves hkeep
    have hlib := hready.librarian_eq
    have hexec := exec_retireChannel_ready hready hop hwhole
    rw [if_neg (by simp [hserves, hkeep]), retireChannelDies_running (s := waitSync slot s) _ 5 hlib] at hexec
    exact ⟨_, _, rfl, hexec, rfl, fun y hy =>
      chState_after_changeRoster ((chanAt_congr (record_fl ..) _).symm.trans hy)⟩
  case channelRefused =>
    intro s slot c hready hop hwhole hrefused
    have hexec := exec_retireChannel_ready hready hop hwhole
    rw [if_pos (by rcases hrefused with h | h <;> simp [h])] at hexec
    obtain ⟨t, ht, hrest, hended⟩ := hready.refused hexec
    exact ⟨t, ht, hended, hrest⟩
  case fox =>
    intro s slot c n hready hop hn hlocal hcards hbuffer hin
    have hexec := hready.runs (i := .foxReport slot) rfl (decide_eq_true hop)
    rw [foxReport_scans hready.cmdAt_eq hn hlocal hcards hbuffer hin] at hexec
    obtain ⟨hlen, hstop⟩ := foxScan_bounds s n (min (c.e.dw12 + 1) (ceilDiv (n.nsze * lbaSectors n) 8 -
      firstSector n c.e / 8)) (firstSector n c.e / 8) ((4 * (c.e.dw13 + 1) - 16) / 8)
    refine ⟨_, _, _, _, hexec, finish_ended _ _ hready.cmdAt_eq, ?_, finish_dataOut .., rfl, ?_, ?_⟩
    · rw [finish_rest]
    · exact hlen.trans (Nat.min_le_left ..)
    · exact hstop.trans (Nat.add_le_add_left (Nat.min_le_left ..) _)
  case foxRefused =>
    intro s slot c hready hop hn
    have hexec := hready.runs (i := .foxReport slot) rfl (decide_eq_true hop)
    rw [foxReport_unattached hn] at hexec
    obtain ⟨t, ht, hrest, hended⟩ := hready.refused hexec
    exact ⟨t, ht, hended, hrest⟩

end Sys2Proof.Machine
end

section
/-! PROOFS. Keys (R251, R259 to R261, R264, R265, R450): test access, the noise source, and how a renewal runs, ends and
fails. That the last renewal of a delete drops its namespaces is the model's choice (log entry 66). -/

namespace Sys2Proof.Machine

/-! ## A notice while a command runs -/

theorem asyncEvent_rest (typ info : Nat) (s : State) :
    asyncEvent typ info s = { s with nv := (asyncEvent typ info s).nv } := by
  unfold asyncEvent
  split
  · rfl
  · split
    · rfl
    · rw [finishOk, finish_rest]

@[simp] theorem asyncEvent_nss (typ info : Nat) (s : State) : (asyncEvent typ info s).nv.nss = s.nv.nss := by
  unfold asyncEvent
  split
  · rfl
  · split
    · rfl
    · exact finish_nss ..

/-- An event ends no command but an event request. -/
theorem cmdAt_asyncEvent {slot : Nat} {s : State} (typ info : Nat) (hslot : slot ∉ s.nv.aers) :
    cmdAt (asyncEvent typ info s) slot = cmdAt s slot := by
  unfold asyncEvent
  split
  · rfl
  · split
    · rfl
    · next a rest haers =>
      have hother : slot ≠ a := by
        rintro rfl
        exact hslot (by simp [haers])
      exact cmdAt_finish_other _ _ _ hother

/-! ## The end of a renewal -/

section
variable {slot : Nat} {c : Cmd} {s : State}

theorem renewalCommandDone_delete (hc : cmdAt s slot = some c) (hop : c.e.opcode = 0x0D) :
    renewalCommandDone slot s =
      finishOk slot 0 (asyncEvent 2 0 (dropNamespaces (deleteNames s c.e.nsid) s)) := by
  simp [renewalCommandDone, hc, hop]

theorem renewalCommandDone_other (hc : cmdAt s slot = some c) (hop : c.e.opcode ≠ 0x0D) :
    renewalCommandDone slot s = finishOk slot 0 s := by
  simp [renewalCommandDone, hc, hop]

/-- Of the keys the end of a delete drops locking ranges; no other command that asked for renewals changes them. -/
theorem renewalCommandDone_rest (slot : Nat) (s : State) : renewalCommandDone slot s = { s with
    nv := (renewalCommandDone slot s).nv
    key := { s.key with ranges := (renewalCommandDone slot s).key.ranges } } := by
  cases hc : cmdAt s slot with
  | none => simp [renewalCommandDone, hc]
  | some c =>
    by_cases hop : c.e.opcode = 0x0D
    · rw [renewalCommandDone_delete hc hop, finishOk, finish_rest, asyncEvent_rest]
      rfl
    · rw [renewalCommandDone_other hc hop, finishOk, finish_rest]

/-- A delete ends last, after the notice of the namespaces that it drops. -/
theorem renewalCommandDone_delete_ended (hc : cmdAt s slot = some c) (hop : c.e.opcode = 0x0D)
    (haers : slot ∉ s.nv.aers) :
    cmdAt (renewalCommandDone slot s) slot = none ∧
      (renewalCommandDone slot s).nv.waiting.getLast? = some (entryOf slot c (0, 0) 0) ∧
      (renewalCommandDone slot s).nv.nss =
        s.nv.nss.filter fun n => ! (deleteNames s c.e.nsid).contains n.nsid := by
  rw [renewalCommandDone_delete hc hop]
  have hkept : cmdAt (asyncEvent 2 0 (dropNamespaces (deleteNames s c.e.nsid) s)) slot = some c :=
    (cmdAt_asyncEvent 2 0 (s := dropNamespaces (deleteNames s c.e.nsid) s) haers).trans hc
  obtain ⟨hnew, hgone⟩ := finish_ended (0, 0) 0 hkept
  refine ⟨hgone, ?_, (finish_nss ..).trans (asyncEvent_nss ..)⟩
  exact (congrArg List.getLast? hnew).trans List.getLast?_concat

theorem renewalCommandDone_other_ended (hc : cmdAt s slot = some c) (hop : c.e.opcode ≠ 0x0D) :
    Ended slot c (0, 0) 0 s (renewalCommandDone slot s) ∧ (renewalCommandDone slot s).nv.nss = s.nv.nss := by
  rw [renewalCommandDone_other hc hop]
  exact ⟨finish_ended _ _ hc, finish_nss ..⟩

end

theorem sanitizeAdvance_idle {s : State} (hidle : s.key.sanitize = 0) : sanitizeAdvance s = s := by
  simp [sanitizeAdvance, hidle]

section
variable {r : Renewal} {s : State} (hidle : s.key.sanitize = 0) (hsession : r.session = none) (hreply : r.reply = none)
include hidle hsession hreply

/-- Nobody hears the end of a renewal that nothing asked for. -/
theorem renewalHeard_unasked (hcmd : r.cmd = none) : renewalHeard r s = s := by
  simp [renewalHeard, hcmd, hsession, hreply, sanitizeAdvance_idle hidle]

/-- The command whose last renewal ends is done. -/
theorem renewalHeard_last {slot : Nat} (hcmd : r.cmd = some slot) (hlast : ∀ x ∈ s.key.renewals, x.cmd ≠ some slot) :
    renewalHeard r s = renewalCommandDone slot s := by
  have hnone : s.key.renewals.any (fun x => decide (x.cmd = some slot)) = false := by simpa using hlast
  have hstill : (renewalCommandDone slot s).key.sanitize = 0 := by rw [renewalCommandDone_rest, hidle]
  simp [renewalHeard, hcmd, hsession, hreply, hnone, sanitizeAdvance_idle hstill]

end

/-- A renewal has ended: its record in force is marked as swept if it made a new key, and it leaves the list. -/
def sweepEnded (k : Nat) (r : Renewal) (s : State) : State :=
  { s with key := { (if r.rekey then markSwept k s else s).key with
    renewals := dropFirst (fun x => x = r) s.key.renewals } }

section
variable {k : Nat} {r : Renewal} {s : State}

theorem sweepEnded_rekey (hrekey : r.rekey = true) : sweepEnded k r s = { s with key := { (markSwept k s).key with
    renewals := dropFirst (fun x => x = r) s.key.renewals } } := by
  simp [sweepEnded, hrekey]

theorem sweepEnded_release (hrekey : r.rekey = false) : sweepEnded k r s = { s with key := { s.key with
    renewals := dropFirst (fun x => x = r) s.key.renewals } } := by
  simp [sweepEnded, hrekey]

theorem sweepEnded_sanitize : (sweepEnded k r s).key.sanitize = s.key.sanitize := by
  unfold sweepEnded
  split <;> rfl

end

/-! ## The commands of the renewal -/

section
variable {k : Nat} {r : Renewal} {s : State} (hr : renewalAt s k = some r) (hserve : serving s = true)
  (hlib : s.lib.state = 0)
include hr hserve hlib

theorem exec_renewSlot_runs (hload : r.loaded = false) (hfree : renewalWaits s r = false) (hdrbg : drbgReady s = true)
    (hroom : keyRoom s = true) : exec (.renewSlot k) s = .next (runRenewal r s) := by
  change execRenewSlot k s = _
  simp [execRenewSlot, hr, hserve, hlib, hload, hfree, hdrbg, hroom]

/-- A renewal that is loaded ends once its sweep is programmed, a release once it is durable (R265). -/
theorem exec_sweepDurable_ends (hload : r.loaded = true) (hseq : r.lastSeq ≠ 0)
    (hupTo : r.lastSeq ≤ if r.rekey then s.led.progSeq else s.led.durable) :
    exec (.sweepDurable k) s = .next (renewalHeard r (sweepEnded k r s)) := by
  change execSweepDurable k s = _
  have hdone : ¬ (if r.rekey then s.led.progSeq else s.led.durable) < r.lastSeq := Nat.not_lt.mpr hupTo
  simp only [execSweepDurable, hr]
  rw [if_neg (by simp [hserve, hlib, hload, hseq, hdone])]
  cases hrekey : r.rekey with
  | false => rw [sweepEnded_release hrekey, if_neg Bool.false_ne_true]
  | true => rw [sweepEnded_rekey hrekey, if_pos rfl]; rfl

end

/-- The renewals that fail together with `r`, all those of the command in `slot` without a key, have left the list. -/
def renewalsFailed (slot : Nat) (r : Renewal) (s : State) : State :=
  { s with key := { s.key with
    renewals := s.key.renewals.filter fun x => x.loaded || ! (decide (x.cmd = some slot) || decide (x = r)) } }

section
variable {k slot : Nat} {r : Renewal} {s : State}

/-- A command whose renewal finds no key hears of it (R259). -/
theorem renewalFails_command (hcmd : r.cmd = some slot) (hsession : r.session = none) (hreply : r.reply = none) :
    renewalFails r s = finishErr slot scInternal (renewalsFailed slot r s) := by
  simp [renewalFails, renewalsFailed, hcmd, hsession, hreply]

theorem not_mem_renewalsFailed (hload : r.loaded = false) : r ∉ (renewalsFailed slot r s).key.renewals := by
  simp [renewalsFailed, hload]

theorem exec_keygenTimeout_fails (hdry : drbgReady s = false) (hserve : serving s = true)
    (hr : (s.key.renewals.find? fun x => x.slot = k && x.rekey && ! x.loaded) = some r) :
    exec (.keygenTimeout k) s = .next (renewalFails r s) := by
  change execKeygenTimeout k s = _
  simp [execKeygenTimeout, hdry, hserve, hr]

end

/-! ## Test access (R251, R450) -/

theorem exec_jtagInstructionLoad {k : Nat} {s : State} (hawake : awake s = true) :
    exec (.jtagInstructionLoad k) s = .next (if k ≤ 2 then
      { s with pins := { s.pins with jtagBoundary := decide (k = 2) } }
      else clearSlots { s with pins := { s.pins with jtagBoundary := decide (k = 2) } }) := by
  change execJtagInstructionLoad k s = _
  simp [execJtagInstructionLoad, hawake]

/-- Settles O16: test access is `clearSlots`, a renewal that ends is `sweepEnded` and what hears of it, and one without a
key is `renewalsFailed` and the end of its command. -/
theorem keySlotsAreRenewedAndCleared : Obligations.KeySlotsAreRenewedAndCleared := by
  refine ⟨⟨fun _ => rfl, ?clears, ?keeps⟩, ⟨?runs, ?rekeyed, ?released, ?last, ?dry⟩, ?noise, ?reseed⟩
  case clears =>
    intro s k hawake hk
    rw [exec_jtagInstructionLoad hawake, if_neg (by omega), decide_eq_false (by omega)]
    rfl
  case keeps =>
    intro s k hawake hk
    rw [exec_jtagInstructionLoad hawake, if_pos hk]
  case runs =>
    intro s k r hr hserve hlib hload hfree hdrbg hroom
    exact exec_renewSlot_runs hr hserve hlib hload hfree hdrbg hroom
  case rekeyed =>
    intro s k r hr hserve hlib hload hseq hupTo hrekey hidle hcmd hsession hreply
    rw [exec_sweepDurable_ends hr hserve hlib hload hseq (by rwa [if_pos hrekey]),
      renewalHeard_unasked (sweepEnded_sanitize.trans hidle) hsession hreply hcmd, sweepEnded_rekey hrekey]
    exact ⟨_, rfl, rfl, rfl, rfl, rfl⟩
  case released =>
    intro s k r hr hserve hlib hload hseq hupTo hrekey hidle hcmd hsession hreply
    rw [exec_sweepDurable_ends hr hserve hlib hload hseq (by simpa [hrekey] using hupTo),
      renewalHeard_unasked (sweepEnded_sanitize.trans hidle) hsession hreply hcmd, sweepEnded_release hrekey]
  case last =>
    intro s k slot c r hr hserve hlib hload hseq hupTo hidle hcmd hsession hreply hlast hc haers
    have hexec := exec_sweepDurable_ends hr hserve hlib hload hseq hupTo
    rw [renewalHeard_last (sweepEnded_sanitize.trans hidle) hsession hreply hcmd hlast] at hexec
    refine ⟨_, hexec, ?_, ?_⟩
    · rw [renewalCommandDone_rest]
      rfl
    by_cases hop : c.e.opcode = 0x0D
    · obtain ⟨hgone, hnew, hnss⟩ := renewalCommandDone_delete_ended (s := sweepEnded k r s) hc hop haers
      exact ⟨hgone, hnew, fun h => absurd hop h, fun _ => hnss⟩
    · obtain ⟨hended, hnss⟩ := renewalCommandDone_other_ended (s := sweepEnded k r s) hc hop
      obtain ⟨hnew, hgone⟩ := hended
      exact ⟨hgone, (congrArg List.getLast? hnew).trans List.getLast?_concat, fun _ => ⟨⟨hnew, hgone⟩, hnss⟩,
        fun h => absurd h hop⟩
  case dry =>
    intro s k slot c r hdry hserve hr hcmd hc hsession hreply
    have hexec := exec_keygenTimeout_fails hdry hserve hr
    rw [renewalFails_command hcmd hsession hreply] at hexec
    have hload : r.loaded = false := by
      have hpicked := List.find?_some hr
      simp only [Bool.and_eq_true, Bool.not_eq_true'] at hpicked
      exact hpicked.2
    refine ⟨_, hexec, ?_, finish_ended (s := renewalsFailed slot r s) _ _ hc, ?_, ?_⟩
    · rw [finishErr, finish_rest]
      rfl
    · rw [finishErr, finish_rest]
      exact not_mem_renewalsFailed hload
    · rw [finishErr, finish_rest]
      rfl
  case noise =>
    intro s hawake
    exact congrArg _ (if_pos hawake)
  case reseed =>
    intro s hawake
    exact congrArg _ (if_pos hawake)

end Sys2Proof.Machine
end

section
/-! PROOFS. TCG Opal (R242, R262 to R264, Table 11.9). The status codes, the denial without an authenticated session and
the Security Send that completes at once are presumed (log entry 75), and so are the bytes of Level 0 Discovery (log
entry 176). -/

namespace Sys2Proof.Machine

/-! ## A method that changes the keys -/

/-- The state as the Security Send in `slot` has completed and its method has left the keys as `k`. -/
def methodDone (slot : Nat) (k : Keys) (s : State) : State := { s with nv := (finishOk slot 0 s).nv, key := k }

theorem methodDone_ended {slot : Nat} {c : Cmd} {s : State} (k : Keys) (hc : cmdAt s slot = some c) :
    Ended slot c (0, 0) 0 s (methodDone slot k s) :=
  finish_ended (0, 0) 0 hc

section
variable {i : Instr} {slot : Nat} {c : Cmd} {s : State}

/-- A Security Send of protocol 01h runs its method and completes. -/
theorem AdminReady.method {f : State → State} (hready : AdminReady slot c s) (hop : c.e.opcode = 0x81)
    (hproto : secProtocol c.e = 1) (hframe : exec i s = opalMethod slot f s) :
    exec i s = .next (finishOk slot 0 (f s)) := by
  have hexec := hready.runs hframe (decide_eq_true hop)
  rwa [if_neg (by simp [hproto])] at hexec

theorem exec_methodDone {u : State} (hexec : exec i s = .next (finishOk slot 0 u)) (hrest : u = { s with key := u.key }) :
    exec i s = .next (methodDone slot u.key s) := by
  rw [hexec, hrest, finishOk, finish_withKey]
  rfl

end

/-! ## Sessions and ranges -/

section
variable {ses a : Nat} {n : Namespace} {s : State}

theorem opalOn_authenticated (hauth : authorityOf s ses = some a) (ha : a ≠ 0) (hn : nsAt s n.nsid = some n)
    (hlocal : n.spanned = none) (f : Namespace → State → State) : opalOn ses n.nsid f s = f n s := by
  cases a with
  | zero => exact absurd rfl ha
  | succ a => simp [opalOn, hauth, hn, hlocal]

theorem opalOn_unauthenticated (hauth : authorityOf s ses = none ∨ authorityOf s ses = some 0) (nsid : Nat)
    (f : Namespace → State → State) : opalOn ses nsid f s = opalAnswer ses opDenied [] s := by
  rcases hauth with h | h <;> simp [opalOn, h]

/-- StartSession of Anybody needs no authentication (log entry 75). -/
theorem opalSession_start (hnew : authorityOf s ses = none) (hroom : s.key.sessions.length < 4) (authOk : Bool) :
    opalSession ses 0 0 authOk s = opalAnswer ses opSuccess []
      { s with key := { s.key with sessions := mapSet ses 0 s.key.sessions } } := by
  simp [opalSession, hnew, hroom]

/-- Revert of an authenticated session is `opalRevertAll` (Table 11.9). -/
theorem exec_opalRevert_authenticated {slot : Nat} {c : Cmd} (hready : AdminReady slot c s) (hop : c.e.opcode = 0x81)
    (hproto : secProtocol c.e = 1) (hauth : authorityOf s ses = some a) (ha : a ≠ 0) :
    exec (.opalRevert slot ses) s = .next (finishOk slot 0 (opalRevertAll ses s)) := by
  have hexec := hready.method (i := .opalRevert slot ses) hop hproto rfl
  cases a with
  | zero => exact absurd rfl ha
  | succ a => simpa only [hauth] using hexec

end

section
variable (s : State) (nsid r : Nat)

/-- What is read of a range names that range, listed or not. -/
theorem rangeAt_names : (rangeAt s nsid r).nsid = nsid ∧ (rangeAt s nsid r).r = r := by
  unfold rangeAt
  cases hfound : s.key.ranges.find? fun x => decide (x.nsid = nsid) && decide (x.r = r) with
  | none => exact ⟨rfl, rfl⟩
  | some x => simpa using List.find?_some hfound

/-- A range written with the names of the range that was read replaces that range. -/
theorem setRange_ranges {x : LockRange} (hnsid : x.nsid = (rangeAt s nsid r).nsid) (hr : x.r = (rangeAt s nsid r).r) :
    (setRange x s).key.ranges = s.key.ranges.filter (fun y => ! (y.nsid = nsid && y.r = r)) ++ [x] := by
  obtain ⟨hnsid', hr'⟩ := rangeAt_names s nsid r
  rw [setRange_key, hnsid, hr, hnsid', hr']

end

/-- The renewals that Revert asks for, one of every local slot (Table 11.9). -/
def revertRenewals (ses : Nat) (s : State) : List Renewal :=
  (localSlots s).map fun k =>
    newRenewal { s with key := { s.key with ranges := [] } } k none (some ses) true false

theorem revertRenewals_slots (ses : Nat) (s : State) :
    (revertRenewals ses s).map (fun x => (x.slot, x.rekey)) = (localSlots s).map fun k => (k, true) := by
  rw [revertRenewals, List.map_map]
  rfl

/-- The answer to a Revert, if no renewal is to come before it. -/
def revertAnswer (ses : Nat) (s : State) : List (Nat × Nat × List Nat) :=
  if (localSlots s).isEmpty then [(ses, opSuccess, [])] else []

theorem opalRevertAll_key (ses : Nat) (s : State) : opalRevertAll ses s = { s with key := { s.key with
    ranges := [], renewals := s.key.renewals ++ revertRenewals ses s
    opalOut := s.key.opalOut ++ revertAnswer ses s } } := by
  cases hslots : localSlots s with
  | nil => simp [opalRevertAll, opalAnswer, revertRenewals, revertAnswer, hslots]
  | cons k l => simp [opalRevertAll, addRenewals, revertRenewals, revertAnswer, hslots]

/-! ## Security Receive (R262) -/

section
variable {slot : Nat} {c : Cmd} {s : State}

theorem securityReceive_discovery (hasks : asksDiscovery c.e = true) :
    securityReceive slot c s = finishOk slot 0 (sendData slot (discoveryBlob s) s) := by
  have hproto : secProtocol c.e = 1 := by
    simp only [asksDiscovery, Bool.and_eq_true, decide_eq_true_eq] at hasks
    exact hasks.1
  simp [securityReceive, hproto, hasks]

theorem securityReceive_oldest {x : Nat × Nat × List Nat} {rest : List (Nat × Nat × List Nat)}
    (hproto : secProtocol c.e = 1) (hasks : asksDiscovery c.e = false) (hout : s.key.opalOut = x :: rest) :
    securityReceive slot c s = finishOk slot 0 (sendData slot (opalBlob x)
      { s with key := { s.key with opalOut := rest } }) := by
  simp [securityReceive, hproto, hasks, hout]

/-- Data that is sent before a command ends goes to its host memory; the end changes neither data nor keys. -/
theorem sendData_finishOk {b : Blob} {k : Keys} (hc : cmdAt s slot = some c) :
    let t := finishOk slot 0 (sendData slot b { s with key := k })
    Ended slot c (0, 0) 0 s t ∧ t.key = k ∧ t.nv.dataOut = s.nv.dataOut ++ [(c.e.cid, b)] := by
  rw [sendData_of_cmdAt (s := { s with key := k }) b hc]
  refine ⟨finish_ended _ _ hc, ?_, finish_dataOut ..⟩
  rw [finishOk, finish_rest]

end

/-- Settles O17: a method that changes the keys ends in `methodDone`, and what it writes is a range, a renewal or a
session; Security Receive sends one answer. -/
theorem opalMethodsChangeLockingRanges : Obligations.OpalMethodsChangeLockingRanges := by
  refine ⟨?locking, ?range, ?genkey, ?revert, ?start, ?denied, ?oldest, ?discovery⟩
  case locking =>
    intro s slot ses r a rl wl c n hready hop hproto hauth ha hn hlocal hr
    have hexec := hready.method (i := .opalSetLocking slot ses n.nsid r rl wl) hop hproto rfl
    rw [opalOn_authenticated hauth ha hn hlocal, if_neg (by omega)] at hexec
    exact ⟨_, exec_methodDone hexec rfl, rfl, methodDone_ended _ hready.cmdAt_eq, rfl,
      setRange_ranges s n.nsid r rfl rfl⟩
  case range =>
    intro s slot ses r start len a c n hready hop hproto hauth ha hn hlocal hr1 hr hempty hlegal hlen
    have hexec := hready.method (i := .opalSetRange slot ses n.nsid r start len) hop hproto rfl
    rw [opalOn_authenticated hauth ha hn hlocal] at hexec
    dsimp only at hexec
    rw [if_neg (by simp [hempty, hlegal]; omega), if_neg hlen] at hexec
    exact ⟨_, exec_methodDone hexec rfl, methodDone_ended _ hready.cmdAt_eq, rfl,
      setRange_ranges s n.nsid r rfl rfl, _, rfl, rfl, rfl⟩
  case genkey =>
    intro s slot ses r a c n hready hop hproto hauth ha hn hlocal hr hlive
    have hexec := hready.method (i := .opalGenkey slot ses n.nsid r) hop hproto rfl
    rw [opalOn_authenticated hauth ha hn hlocal, if_neg (by simp [hlive]; omega)] at hexec
    exact ⟨_, exec_methodDone hexec rfl, methodDone_ended _ hready.cmdAt_eq, rfl, _, rfl, rfl, rfl, rfl⟩
  case revert =>
    intro s slot ses a c hready hop hproto hauth ha
    have hexec := exec_opalRevert_authenticated hready hop hproto hauth ha
    rw [opalRevertAll_key] at hexec
    exact ⟨_, exec_methodDone hexec rfl, methodDone_ended _ hready.cmdAt_eq, rfl, _, rfl, revertRenewals_slots ..⟩
  case start =>
    intro s slot ses nsid r arg c hready hop hproto hnew hroom
    have hexec := hready.method (i := .opalSessionMethod slot ses 0 0 nsid r arg false) hop hproto rfl
    rw [if_pos (by omega), opalSession_start hnew hroom] at hexec
    exact ⟨_, exec_methodDone hexec rfl, methodDone_ended _ hready.cmdAt_eq, rfl, rfl, rfl⟩
  case denied =>
    intro s slot ses r rl wl nsid c hready hop hproto hauth
    have hexec := hready.method (i := .opalSetLocking slot ses nsid r rl wl) hop hproto rfl
    rw [opalOn_unauthenticated hauth] at hexec
    exact ⟨_, exec_methodDone hexec rfl, methodDone_ended _ hready.cmdAt_eq, rfl, rfl⟩
  case oldest =>
    intro s slot c x rest hready hop hproto hasks hout
    have hexec := hready.runs (i := .securityReceive slot) rfl (decide_eq_true hop)
    rw [securityReceive_oldest hproto hasks hout] at hexec
    obtain ⟨hended, hkey, hdata⟩ :=
      sendData_finishOk (b := opalBlob x) (k := { s.key with opalOut := rest }) hready.cmdAt_eq
    exact ⟨_, hexec, hended, congrArg Keys.opalOut hkey, hdata⟩
  case discovery =>
    intro s slot c hready hop hasks
    have hexec := hready.runs (i := .securityReceive slot) rfl (decide_eq_true hop)
    rw [securityReceive_discovery hasks] at hexec
    exact ⟨_, hexec, sendData_finishOk (k := s.key) hready.cmdAt_eq⟩

end Sys2Proof.Machine
end

section
/-! PROOFS. The dispatch and the step: every command answers a next state and keeps the core (`CoreKept`), by the frame lemma of its meaning;
so does every step. -/

namespace Sys2Proof.Machine

theorem exec_next (i : Instr) (s : State) : ∃ t, exec i s = .next t := by
  cases i <;> exact ⟨_, rfl⟩

/-- One arm per command: the frame lemma of its meaning. -/
theorem exec_core (i : Instr) (s t : State) (h : exec i s = .next t) : CoreKept s t := by
  cases i with
  | perstDeassert => exact execPerstDeassert_core _ s t h
  | perstAssert => exact execPerstAssert_core _ s t h
  | linkUp => exact .of_eq (execLinkUp_core _ _ _ _ s t h)
  | dStateChange => exact .of_eq (execDStateChange_core _ s t h)
  | poisonedTlp => exact .of_eq (execPoisonedTlp_core _ _ s t h)
  | completionTimeout => exact .of_eq (execCompletionTimeout_core _ s t h)
  | unsupportedRequest => exact .of_eq (execUnsupportedRequest_core _ s t h)
  | malformedTlp kind => exact .of_eq (execMalformedTlp_core kind s t h)
  | correctableLinkError => exact .of_eq (execCorrectableLinkError_core _ s t h)
  | sqTailDoorbell => exact .of_eq (execSqTailDoorbell_core _ _ s t h)
  | cqHeadDoorbell => exact .of_eq (execCqHeadDoorbell_core _ _ s t h)
  | commandFetch => exact .of_eq (execCommandFetch_core _ _ _ s t h)
  | interruptCoalesceExpiry => exact .of_eq (execInterruptCoalesceExpiry_core _ s t h)
  | registerWrite => exact execRegisterWrite_core _ _ _ _ s t h
  | stickyRw1cWrite => exact .of_eq (execStickyRw1cWrite_core _ _ s t h)
  | ksPoolClear => exact .of_eq (execKsPoolClear_core _ s t h)
  | ksEscClear => exact .of_eq (execKsEscClear_core _ s t h)
  | ksDramClear => exact .of_eq (execKsDramClear_core _ s t h)
  | ksHoldupRun => exact .of_eq (execKsHoldupRun_core _ s t h)
  | ksCxPageWrite => exact .of_eq (execKsCxPageWrite_core _ s t h)
  | ksCxAddrWrite => exact .of_eq (execKsCxAddrWrite_core _ s t h)
  | ksCxDataWrite => exact execKsCxDataWrite_core _ _ _ s t h
  | deleteIoSubmissionQueue => exact .of_eq (execDeleteIoSubmissionQueue_core _ s t h)
  | createIoSubmissionQueue => exact .of_eq (execCreateIoSubmissionQueue_core _ s t h)
  | getLogPage => exact .of_eq (execGetLogPage_core _ s t h)
  | deleteIoCompletionQueue => exact .of_eq (execDeleteIoCompletionQueue_core _ s t h)
  | createIoCompletionQueue => exact .of_eq (execCreateIoCompletionQueue_core _ s t h)
  | identify => exact .of_eq (execIdentify_core _ s t h)
  | abort => exact .of_eq (execAbort_core _ s t h)
  | setFeaturesArbitration => exact .of_eq (execSetFeaturesArbitration_core _ s t h)
  | setFeaturesPowerManagement => exact .of_eq (execSetFeaturesPowerManagement_core _ s t h)
  | setFeaturesTemperatureThreshold => exact .of_eq (execSetFeaturesTemperatureThreshold_core _ s t h)
  | setFeaturesNumberOfQueues => exact .of_eq (execSetFeaturesNumberOfQueues_core _ s t h)
  | setFeaturesInterruptCoalescing => exact .of_eq (execSetFeaturesInterruptCoalescing_core _ s t h)
  | setFeaturesIntVectorConfig => exact .of_eq (execSetFeaturesIntVectorConfig_core _ s t h)
  | setFeaturesWriteAtomicity => exact .of_eq (execSetFeaturesWriteAtomicity_core _ s t h)
  | setFeaturesAsyncEventConfig => exact .of_eq (execSetFeaturesAsyncEventConfig_core _ s t h)
  | setFeaturesTimestamp => exact .of_eq (execSetFeaturesTimestamp_core _ _ s t h)
  | setFeaturesUnsupported => exact .of_eq (execSetFeaturesUnsupported_core _ s t h)
  | getFeatures => exact .of_eq (execGetFeatures_core _ s t h)
  | asynchronousEventRequest => exact .of_eq (execAsynchronousEventRequest_core _ s t h)
  | namespaceCreate => exact .of_eq (execNamespaceCreate_core _ _ _ _ _ s t h)
  | namespaceDelete => exact .of_eq (execNamespaceDelete_core _ s t h)
  | namespaceAttach => exact .of_eq (execNamespaceAttach_core _ s t h)
  | namespaceDetach => exact .of_eq (execNamespaceDetach_core _ s t h)
  | firmwareImageDownload => exact .of_eq (execFirmwareImageDownload_core _ _ s t h)
  | firmwareCommitWrite => exact .of_eq (execFirmwareCommitWrite_core _ _ s t h)
  | firmwareCommitWriteArm => exact .of_eq (execFirmwareCommitWriteArm_core _ _ s t h)
  | firmwareCommitArm => exact .of_eq (execFirmwareCommitArm_core _ s t h)
  | firmwareCommitActivate => exact .of_eq (execFirmwareCommitActivate_core _ _ s t h)
  | firmwareCommitInvalid => exact .of_eq (execFirmwareCommitInvalid_core _ s t h)
  | formatNvmRelease => exact .of_eq (execFormatNvmRelease_core _ s t h)
  | formatNvmCryptoErase => exact .of_eq (execFormatNvmCryptoErase_core _ s t h)
  | securityReceive => exact .of_eq (execSecurityReceive_core _ s t h)
  | opalGenkey => exact .of_eq (execOpalGenkey_core _ _ _ _ s t h)
  | opalSetRange => exact .of_eq (execOpalSetRange_core _ _ _ _ _ _ s t h)
  | opalSetLocking => exact .of_eq (execOpalSetLocking_core _ _ _ _ _ _ s t h)
  | opalRevert => exact .of_eq (execOpalRevert_core _ _ s t h)
  | opalSessionMethod => exact .of_eq (execOpalSessionMethod_core _ _ _ _ _ _ _ _ s t h)
  | sanitizeCryptoErase => exact .of_eq (execSanitizeCryptoErase_core _ s t h)
  | sanitizeBlockErase => exact .of_eq (execSanitizeBlockErase_core _ s t h)
  | sanitizeInvalid => exact .of_eq (execSanitizeInvalid_core _ s t h)
  | stickyClear => exact .of_eq (execStickyClear_core _ s t h)
  | liveFieldSet => exact .of_eq (execLiveFieldSet_core _ _ s t h)
  | liveFieldGet => exact .of_eq (execLiveFieldGet_core _ s t h)
  | retireDie => exact .of_eq (execRetireDie_core _ s t h)
  | retireChannel => exact .of_eq (execRetireChannel_core _ s t h)
  | folioStage => exact .of_eq (execFolioStage_core _ s t h)
  | folioCommit => exact .of_eq (execFolioCommit_core _ _ _ s t h)
  | foxReport => exact .of_eq (execFoxReport_core _ s t h)
  | invalidAdminOpcode => exact .of_eq (execInvalidAdminOpcode_core _ s t h)
  | flush => exact .of_eq (execFlush_core _ s t h)
  | write => exact .of_eq (execWrite_core _ s t h)
  | read => exact .of_eq (execRead_core _ s t h)
  | compare => exact .of_eq (execCompare_core _ _ s t h)
  | writeZeroes => exact .of_eq (execWriteZeroes_core _ s t h)
  | datasetManagement => exact .of_eq (execDatasetManagement_core _ _ s t h)
  | orderedWrite => exact .of_eq (execOrderedWrite_core _ s t h)
  | orderedWriteStart => exact .of_eq (execOrderedWriteStart_core _ s t h)
  | invalidIoOpcode => exact .of_eq (execInvalidIoOpcode_core _ s t h)
  | poolRequest => exact .of_eq (execPoolRequest_core _ _ _ s t h)
  | poolFree => exact .of_eq (execPoolFree_core _ _ s t h)
  | poolStallServed => exact .of_eq (execPoolStallServed_core _ s t h)
  | writeDataArrived => exact .of_eq (execWriteDataArrived_core _ _ _ _ s t h)
  | cardLockGrant => exact .of_eq (execCardLockGrant_core _ _ _ _ _ s t h)
  | seqDetectorExpiry => exact .of_eq (execSeqDetectorExpiry_core _ s t h)
  | sealDelayExpiry => exact .of_eq (execSealDelayExpiry_core _ _ _ s t h)
  | rowIdleSeal => exact .of_eq (execRowIdleSeal_core _ s t h)
  | pageProgramDone => exact .of_eq (execPageProgramDone_core _ _ s t h)
  | programFail => exact .of_eq (execProgramFail_core _ _ _ s t h)
  | ledgerCardProgrammed => exact .of_eq (execLedgerCardProgrammed_core _ s t h)
  | mapMissReadDone => exact .of_eq (execMapMissReadDone_core _ _ s t h)
  | shelfRelease => exact .of_eq (execShelfRelease_core _ s t h)
  | spineRecordReadback => exact .of_eq (execSpineRecordReadback_core _ s t h)
  | shelfPageLoad => exact .of_eq (execShelfPageLoad_core _ s t h)
  | foldUnit => exact .of_eq (execFoldUnit_core _ _ s t h)
  | foldRowProgrammed => exact .of_eq (execFoldRowProgrammed_core _ s t h)
  | weedingVictimSelect => exact .of_eq (execWeedingVictimSelect_core _ s t h)
  | weedingCopy => exact .of_eq (execWeedingCopy_core _ _ _ s t h)
  | rotationStart => exact .of_eq (execRotationStart_core _ s t h)
  | eraseGateOpen => exact .of_eq (execEraseGateOpen_core _ s t h)
  | eraseIntentDurable => exact .of_eq (execEraseIntentDurable_core _ s t h)
  | blockEraseDone => exact .of_eq (execBlockEraseDone_core _ _ s t h)
  | startupReerase => exact .of_eq (execStartupReerase_core _ _ s t h)
  | laneRebuildStep => exact .of_eq (execLaneRebuildStep_core _ _ s t h)
  | laneRebuildEnd => exact .of_eq (execLaneRebuildEnd_core _ s t h)
  | rosterSync => exact .of_eq (execRosterSync_core _ s t h)
  | rosterLoad => exact .of_eq (execRosterLoad_core _ _ s t h)
  | flashReadIssue => exact .of_eq (execFlashReadIssue_core _ _ s t h)
  | flashReadDone => exact .of_eq (execFlashReadDone_core _ _ _ _ s t h)
  | arrayOpIssue => exact .of_eq (execArrayOpIssue_core _ _ s t h)
  | issueLimitExpiry => exact .of_eq (execIssueLimitExpiry_core _ _ s t h)
  | eraseWaitExpiry => exact .of_eq (execEraseWaitExpiry_core _ _ s t h)
  | readWaitLimitExpiry => exact .of_eq (execReadWaitLimitExpiry_core _ _ _ s t h)
  | suspendReady => exact .of_eq (execSuspendReady_core _ _ s t h)
  | suspendedReadsDone => exact .of_eq (execSuspendedReadsDone_core _ _ s t h)
  | zqIntervalExpiry => exact .of_eq (execZqIntervalExpiry_core _ _ s t h)
  | dieTempRead => exact .of_eq (execDieTempRead_core _ _ _ s t h)
  | recentreSweep => exact .of_eq (execRecentreSweep_core _ _ _ s t h)
  | dieTimeout => exact .of_eq (execDieTimeout_core _ _ s t h)
  | resetLunDone => exact .of_eq (execResetLunDone_core _ _ s t h)
  | dieNotAnswering => exact .of_eq (execDieNotAnswering_core _ _ _ s t h)
  | channelFault => exact .of_eq (execChannelFault_core _ _ s t h)
  | escalationEntry => exact .of_eq (execEscalationEntry_core _ _ _ s t h)
  | contextFree => exact .of_eq (execContextFree_core _ _ _ s t h)
  | ladderStepDone => exact .of_eq (execLadderStepDone_core _ _ _ s t h)
  | escalationBudgetExpiry => exact .of_eq (execEscalationBudgetExpiry_core _ _ _ s t h)
  | cipherUnit => exact .of_eq (execCipherUnit_core _ _ _ _ s t h)
  | cipherUnitDone => exact .of_eq (execCipherUnitDone_core _ _ s t h)
  | pwrfailNLow => exact .of_eq (execPwrfailNLow_core _ s t h)
  | v12BelowThreshold => exact .of_eq (execV12BelowThreshold_core _ _ s t h)
  | coastComplete => exact execCoastComplete_core _ s t h
  | coastDisarm => exact .of_eq (execCoastDisarm_core _ s t h)
  | holdupTestIntervalExpiry => exact .of_eq (execHoldupTestIntervalExpiry_core _ s t h)
  | holdupDischargeEnd => exact .of_eq (execHoldupDischargeEnd_core _ s t h)
  | unitWake => exact .of_eq (execUnitWake_core _ _ s t h)
  | sensorSample => exact .of_eq (execSensorSample_core _ s t h)
  | railOutOfRange => exact .of_eq (execRailOutOfRange_core _ _ s t h)
  | coreVsetUpdate => exact .of_eq (execCoreVsetUpdate_core _ s t h)
  | daybookRecordEntry source event payload => exact .of_eq (execDaybookRecordEntry_core source event payload s t h)
  | renewSlot => exact .of_eq (execRenewSlot_core _ s t h)
  | sweepDurable => exact .of_eq (execSweepDurable_core _ s t h)
  | keygenTimeout => exact .of_eq (execKeygenTimeout_core _ s t h)
  | jtagInstructionLoad => exact .of_eq (execJtagInstructionLoad_core _ s t h)
  | partnerAliveRise => exact .of_eq (execPartnerAliveRise_core _ s t h)
  | partnerAliveLow => exact .of_eq (execPartnerAliveLow_core _ _ s t h)
  | portFecLock => exact .of_eq (execPortFecLock_core _ _ s t h)
  | trainingRetryExpiry => exact .of_eq (execTrainingRetryExpiry_core _ s t h)
  | hello => exact .of_eq (execHello_core _ _ _ _ s t h)
  | helloAssign => exact .of_eq (execHelloAssign_core _ _ _ _ s t h)
  | pulse => exact .of_eq (execPulse_core _ _ s t h)
  | pulseTimeout => exact .of_eq (execPulseTimeout_core _ s t h)
  | flitReceive => exact .of_eq (execFlitReceive_core _ _ s t h)
  | flitNak => exact .of_eq (execFlitNak_core _ _ s t h)
  | fecLockLoss => exact .of_eq (execFecLockLoss_core _ s t h)
  | routingTableWrite => exact .of_eq (execRoutingTableWrite_core _ s t h)
  | cmd => exact .of_eq (execCmd_core _ _ s t h)
  | go => exact .of_eq (execGo_core _ s t h)
  | data => exact .of_eq (execData_core _ _ s t h)
  | done => exact .of_eq (execDone_core _ s t h)
  | lock => exact .of_eq (execLock_core _ s t h)
  | unlock => exact .of_eq (execUnlock_core _ s t h)
  | backoff => exact .of_eq (execBackoff_core _ s t h)
  | backoffRetryExpiry => exact .of_eq (execBackoffRetryExpiry_core _ _ s t h)
  | relay => exact execRelay_core _ _ _ _ _ s t h
  | intent => exact .of_eq (execIntent_core _ _ _ _ _ s t h)
  | reservedPacket => exact .of_eq (execReservedPacket_core _ s t h)
  | packetCrcFail => exact .of_eq (execPacketCrcFail_core _ s t h)
  | memberTimeout => exact .of_eq (execMemberTimeout_core _ _ s t h)
  | forwardWrite hdr d => exact .of_eq (execForwardWrite_core hdr d s t h)
  | ecRead hdr d => exact .of_eq (execEcRead_core hdr d s t h)
  | ecWrite hdr d picks => exact .of_eq (execEcWrite_core hdr d picks s t h)
  | delta hdr d fresh picks => exact .of_eq (execDelta_core hdr d fresh picks s t h)
  | parity hdr d picks => exact .of_eq (execParity_core hdr d picks s t h)
  | readChecked hdr d order => exact .of_eq (execReadChecked_core hdr d order s t h)
  | repair hdr d picks => exact .of_eq (execRepair_core hdr d picks s t h)
  | ecFormat => exact .of_eq (execEcFormat_core _ _ _ s t h)
  | view => exact .of_eq (execView_core _ _ _ s t h)
  | timeoutReport => exact .of_eq (execTimeoutReport_core _ _ _ _ s t h)
  | ecReservedOperation => exact .of_eq (execEcReservedOperation_core _ s t h)
  | intentSettle => exact .of_eq (execIntentSettle_core _ _ _ _ s t h)
  | intentAgeExpiry => exact .of_eq (execIntentAgeExpiry_core _ _ s t h)
  | lagRepair => exact .of_eq (execLagRepair_core _ _ _ _ s t h)
  | rebuildStripe => exact .of_eq (execRebuildStripe_core _ _ _ s t h)
  | rebuildPointerStore => exact .of_eq (execRebuildPointerStore_core _ s t h)
  | relayCommit => exact .of_eq (execRelayCommit_core _ s t h)
  | dramReadDecode => exact .of_eq (execDramReadDecode_core _ _ _ _ _ _ _ _ _ s t h)
  | patrolScrub u rank bg bank row errors writeIntervened => exact .of_eq (execPatrolScrub_core u rank bg bank row errors writeIntervened s t h)
  | refreshTick => exact .of_eq (execRefreshTick_core _ _ s t h)
  | mr4Read => exact .of_eq (execMr4Read_core _ _ _ _ s t h)
  | dqsOscillatorRead => exact .of_eq (execDqsOscillatorRead_core _ _ s t h)
  | brakeRaise => exact .of_eq (execBrakeRaise_core _ _ s t h)
  | brakeLower => exact .of_eq (execBrakeLower_core _ s t h)
  | rowRetire => exact .of_eq (execRowRetire_core _ _ _ _ _ _ s t h)
  | trainingRecordAppend => exact .of_eq (execTrainingRecordAppend_core _ _ _ _ s t h)
  | liveFieldBoundary => exact .of_eq (execLiveFieldBoundary_core _ s t h)
  | codexArrayErase => exact .of_eq (execCodexArrayErase_core _ s t h)
  | codexContinuousReadEnter => exact .of_eq (execCodexContinuousReadEnter_core _ s t h)
  | codexSectorErase => exact .of_eq (execCodexSectorErase_core _ _ s t h)
  | codexProgram => exact .of_eq (execCodexProgram_core _ _ _ _ s t h)
  | codexFlagCellQuery => exact .of_eq (execCodexFlagCellQuery_core _ s t h)
  | colophonProgram => exact execColophonProgram_core _ _ s t h
  | colophonLock => exact execColophonLock_core _ s t h
  | endpaperSwap => exact .of_eq (execEndpaperSwap_core _ _ s t h)
  | codexProgramDone => exact execCodexProgramDone_core _ s t h
  | codexEraseDone => exact execCodexEraseDone_core _ s t h
  | codexRequestServe => exact .of_eq (execCodexRequestServe_core _ s t h)
  | nvmeMiReadDataStructure => exact .of_eq (execNvmeMiReadDataStructure_core _ s t h)
  | nvmeMiConfigurationGet => exact .of_eq (execNvmeMiConfigurationGet_core _ s t h)
  | nvmeMiConfigurationSet => exact .of_eq (execNvmeMiConfigurationSet_core _ _ s t h)
  | nvmeMiVpdRead => exact .of_eq (execNvmeMiVpdRead_core _ _ s t h)
  | nvmeMiVpdWrite => exact .of_eq (execNvmeMiVpdWrite_core _ _ s t h)
  | nvmeMiTunnelledAdmin => exact .of_eq (execNvmeMiTunnelledAdmin_core _ s t h)
  | nvmeMiInvalidCommand => exact .of_eq (execNvmeMiInvalidCommand_core _ s t h)
  | recoveryFirmwareDownload => exact execRecoveryFirmwareDownload_core _ _ s t h
  | recoveryRelaySend => exact .of_eq (execRecoveryRelaySend_core _ s t h)
  | failedTrainingAttempt => exact .of_eq (execFailedTrainingAttempt_core _ s t h)
  | noViewHolderReachable => exact .of_eq (execNoViewHolderReachable_core _ s t h)
  | aspmL1 => exact .of_eq (execAspmL1_core _ _ s t h)
  | powerOnAon => exact .of_eq (execPowerOnAon_core s t h)
  | linkDown => exact .of_eq (execLinkDown_core s t h)
  | hotReset => exact .of_eq (execHotReset_core s t h)
  | functionLevelReset => exact .of_eq (execFunctionLevelReset_core s t h)
  | unexpectedCompletion => exact .of_eq (execUnexpectedCompletion_core s t h)
  | ccEnSet => exact .of_eq (execCcEnSet_core s t h)
  | ccEnClear => exact .of_eq (execCcEnClear_core s t h)
  | shutdownNormal => exact .of_eq (execShutdownNormal_core s t h)
  | shutdownAbrupt => exact .of_eq (execShutdownAbrupt_core s t h)
  | completionPost => exact .of_eq (execCompletionPost_core s t h)
  | ledgerIdleClose => exact .of_eq (execLedgerIdleClose_core s t h)
  | ledgerSpaceFreed => exact .of_eq (execLedgerSpaceFreed_core s t h)
  | pendingUpdateRoom => exact .of_eq (execPendingUpdateRoom_core s t h)
  | inventoryPassStart => exact .of_eq (execInventoryPassStart_core s t h)
  | checkpointIntervalExpiry => exact .of_eq (execCheckpointIntervalExpiry_core s t h)
  | inventoryPassComplete => exact .of_eq (execInventoryPassComplete_core s t h)
  | warmingEnd => exact .of_eq (execWarmingEnd_core s t h)
  | foldStart => exact .of_eq (execFoldStart_core s t h)
  | idleFoldDelayExpiry => exact .of_eq (execIdleFoldDelayExpiry_core s t h)
  | retireEvaluate => exact .of_eq (execRetireEvaluate_core s t h)
  | preserveEntry => exact .of_eq (execPreserveEntry_core s t h)
  | coastProgramsDone => exact .of_eq (execCoastProgramsDone_core s t h)
  | ackDrainDone => exact .of_eq (execAckDrainDone_core s t h)
  | holdupTestStart => exact .of_eq (execHoldupTestStart_core s t h)
  | holdupMaxDischargeExpiry => exact .of_eq (execHoldupMaxDischargeExpiry_core s t h)
  | holdupRecharged => exact .of_eq (execHoldupRecharged_core s t h)
  | holdupRechargeExpiry => exact .of_eq (execHoldupRechargeExpiry_core s t h)
  | holdupLowOutsideTest => exact .of_eq (execHoldupLowOutsideTest_core s t h)
  | idleServiceEntry => exact .of_eq (execIdleServiceEntry_core s t h)
  | idleServiceExit => exact .of_eq (execIdleServiceExit_core s t h)
  | dramSelfRefreshEntry => exact .of_eq (execDramSelfRefreshEntry_core s t h)
  | lockstepMismatch => exact .of_eq (execLockstepMismatch_core s t h)
  | watchdogExpiry => exact .of_eq (execWatchdogExpiry_core s t h)
  | librarianRestartEnd => exact .of_eq (execLibrarianRestartEnd_core s t h)
  | heldPauseEnd => exact .of_eq (execHeldPauseEnd_core s t h)
  | daybookFlush => exact .of_eq (execDaybookFlush_core s t h)
  | daybookFlushDone => exact .of_eq (execDaybookFlushDone_core s t h)
  | noiseHealthFail => exact .of_eq (execNoiseHealthFail_core s t h)
  | drbgReseed => exact .of_eq (execDrbgReseed_core s t h)
  | testModeAssert => exact .of_eq (execTestModeAssert_core s t h)
  | pulseSend => exact .of_eq (execPulseSend_core s t h)
  | roadCaptainStable => exact .of_eq (execRoadCaptainStable_core s t h)
  | relaySend => exact .of_eq (execRelaySend_core s t h)
  | relayRoundRestart => exact .of_eq (execRelayRoundRestart_core s t h)
  | rowErrorLogHalve => exact .of_eq (execRowErrorLogHalve_core s t h)
  | codexContinuousReadExit => exact .of_eq (execCodexContinuousReadExit_core s t h)
  | codexEraseSuspend => exact .of_eq (execCodexEraseSuspend_core s t h)
  | codexEraseResume => exact .of_eq (execCodexEraseResume_core s t h)
  | codexStatus => exact .of_eq (execCodexStatus_core s t h)
  | codexSequenceError => exact .of_eq (execCodexSequenceError_core s t h)
  | nvmeMiBasicManagement => exact .of_eq (execNvmeMiBasicManagement_core s t h)
  | nvmeMiSubsystemHealthPoll => exact .of_eq (execNvmeMiSubsystemHealthPoll_core s t h)
  | nvmeMiControllerHealthPoll => exact .of_eq (execNvmeMiControllerHealthPoll_core s t h)
  | lossOfPower => exact execLossOfPower_core s t h

theorem step_nil {s : State} (h : s.pending = []) : step s = .next (tick s) := by
  rw [step, h]

theorem step_cons {s : State} {c : Instr} {rest : List Instr} (h : s.pending = c :: rest) :
    step s = exec c { s with pending := rest } := by
  rw [step, h]

theorem step_next (s : State) : ∃ t, step s = .next t := by
  cases h : s.pending with
  | nil => exact ⟨_, step_nil h⟩
  | cons c rest => exact step_cons h ▸ exec_next c _

/-- What a step that answers next keeps: the queue but its front, the locked Colophon segments, and the canonical form of
the Codex array. -/
theorem step_core {s t : State} (h : step s = .next t) :
    t.pending = s.pending.tail ∧ ColophonKept s t ∧ (s.memWf → t.memWf) := by
  cases hp : s.pending with
  | nil =>
    rw [step_nil hp] at h
    injection h with h
    obtain ⟨hq, hcol, hmem⟩ := tick_core s
    exact h ▸ ⟨hq.trans hp, hcol, hmem⟩
  | cons c rest =>
    rw [step_cons hp] at h
    exact exec_core c _ t h

/-- Settles O58: every arm of the dispatch answers next and keeps the queue, and a step takes its front off. -/
theorem queueIsTakenInOrder : Obligations.QueueIsTakenInOrder := by
  refine ⟨fun i s => ?exec, fun s => ?step⟩
  case exec =>
    obtain ⟨t, ht⟩ := exec_next i s
    exact ⟨t, ht, (exec_core i s t ht).1⟩
  case step =>
    obtain ⟨t, ht⟩ := step_next s
    exact ⟨t, ht, (step_core ht).1⟩

/-- Settles O59: what a step keeps (`step_core`). -/
theorem lockedColophonIsKept : Obligations.LockedColophonIsKept := by
  intro s t h
  exact (step_core h).2.1

/-- Settles O60: what a step keeps (`step_core`). -/
theorem codexArrayStaysCanonical : Obligations.CodexArrayStaysCanonical := by
  intro s t hs h
  exact (step_core h).2.2 hs

end Sys2Proof.Machine
end

section
/-! PROOFS. The pass-through of the Codex die (R400, R414): what each of its three registers does in manufacturing mode, and
that it is ignored outside it. -/

namespace Sys2Proof.Machine

theorem toNat_extractLsb'_zero (v : Word32) (n : Nat) : (v.extractLsb' 0 n).toNat = v.toNat % 2 ^ n := by
  rw [BitVec.extractLsb'_toNat, Nat.shiftRight_zero]

/-- The cycle that a write of KS_CX_DATA stands for. -/
def cycleOf (v : Word32) (s : State) : Nat × Nat := (s.cdx.cxAddr, v.toNat % 256)

/-- The address of the next cycle. -/
def nextCycle (addr : Nat) (s : State) : State := { s with cdx := { s.cdx with cxAddr := (addr + 1) % 2 ^ 27 } }

theorem exec_ksCxDataWrite_ignored {s : State} {v : Word32} {gap : Nat} {spell : Option CodexSpell}
    (hoff : passThroughOn s = false) : exec (.ksCxDataWrite v gap spell) s = .next s :=
  congrArg Host.Outcome.next (if_pos (by rw [hoff]; rfl))

/-- A cycle joins the sequence so far. -/
theorem exec_ksCxDataWrite_cycle {s : State} {v : Word32} {gap : Nat} {spell : Option CodexSpell}
    (hon : passThroughOn s = true) (hgap : s.cdx.cycles = [] ∨ gap ≤ 10000) :
    exec (.ksCxDataWrite v gap spell) s =
      .next (nextCycle s.cdx.cxAddr (runCycles (s.cdx.cycles ++ [cycleOf v s]) spell s)) := by
  have hjoins : (! s.cdx.cycles.isEmpty && decide (gap > 10000)) = false := by
    rcases hgap with h | h <;> simp [h]
  show Host.Outcome.next (writeCxData v gap spell s) = _
  rw [writeCxData, hon, hjoins, toNat_extractLsb'_zero]
  rfl

/-- A cycle too late ends the sequence (R400). -/
theorem exec_ksCxDataWrite_late {s : State} {v : Word32} {gap : Nat} {spell : Option CodexSpell}
    (hon : passThroughOn s = true) (hopen : s.cdx.cycles ≠ []) (hgap : 10000 < gap) :
    exec (.ksCxDataWrite v gap spell) s = .next (nextCycle s.cdx.cxAddr (sequenceError s)) := by
  have hlate : (! s.cdx.cycles.isEmpty && decide (gap > 10000)) = true := by simp [hopen, hgap]
  show Host.Outcome.next (writeCxData v gap spell s) = _
  rw [writeCxData, hon, hlate]
  rfl

theorem runCycles_first {c : Nat × Nat} {spell : Option CodexSpell} {s : State} :
    runCycles [c] spell s = if c = (0xD5A, 0x5A) then keepCycles [c] s else sequenceError s := rfl

/-- Settles O21: the two base registers keep their bits, and a cycle of KS_CX_DATA is late, or joins the sequence, of which
only `0x5A` at `0xD5A` is a first cycle. -/
theorem passThroughCycles : Obligations.PassThroughCycles := by
  refine ⟨?bases, ?off, ?first, ?late, ?other⟩
  case bases =>
    intro s v hon
    exact ⟨by rw [← toNat_extractLsb'_zero]; exact congrArg Host.Outcome.next (if_pos hon),
      by rw [← toNat_extractLsb'_zero]; exact congrArg Host.Outcome.next (if_pos hon)⟩
  case off =>
    intro s v gap spell hoff
    have hno : ¬ passThroughOn s = true := by simp [hoff]
    exact ⟨congrArg Host.Outcome.next (if_neg hno), congrArg Host.Outcome.next (if_neg hno),
      exec_ksCxDataWrite_ignored hoff⟩
  case first =>
    intro s v gap spell hon haddr hv hnone
    rw [exec_ksCxDataWrite_cycle hon (.inl hnone), hnone, List.nil_append, runCycles_first, cycleOf, haddr, hv, if_pos rfl]
    rfl
  case late =>
    intro s v gap spell hon hopen hgap
    exact exec_ksCxDataWrite_late hon hopen hgap
  case other =>
    intro s v gap spell hon hnone hcycle
    have hnot : cycleOf v s ≠ (0xD5A, 0x5A) := by
      rw [cycleOf, Ne, Prod.mk.injEq, not_and_or]
      exact hcycle
    rw [exec_ksCxDataWrite_cycle hon (.inl hnone), hnone, List.nil_append, runCycles_first, if_neg hnot]
    rfl

end Sys2Proof.Machine
end

section
/-! PROOFS. Programs and erases of the Codex die (R398, R401, R402, R404, R406): what a program and an erase that the die
takes, ends or refuses leave of its bytes, its flag cells and the structures of its sectors. -/

namespace Sys2Proof.Machine

/-! ## Bytes of the array (R395, R398) -/

theorem mapGet_filter_key {α : Type} (p : Nat → Bool) (k : Nat) (l : List (Nat × α)) :
    mapGet k (l.filter fun c => p c.1) = if p k then mapGet k l else none := by
  induction l with
  | nil => simp [mapGet]
  | cons x l ih =>
    obtain ⟨a, w⟩ := x
    rw [List.filter_cons]
    by_cases ha : p a = true
    · rw [if_pos ha, mapGet, ih, mapGet]
      by_cases hk : k = a
      · subst hk; simp [ha]
      · grind
    · rw [if_neg ha, ih, mapGet]
      grind

theorem mapAt_foldl_mapPut {α : Type} [DecidableEq α] (d : α) (base n a : Nat) (f : Nat → α) (m : List (Nat × α)) :
    mapAt d a ((List.range n).foldl (fun m i => mapPut d (base + i) (f i) m) m) =
      if base ≤ a ∧ a < base + n then f (a - base) else mapAt d a m := by
  induction n with
  | zero => rw [if_neg (by omega)]; rfl
  | succ n ih =>
    rw [List.range_succ, List.foldl_append, List.foldl_cons, List.foldl_nil, mapAt_mapPut_eq, ih]
    by_cases ha : a = base + n
    · rw [if_pos ha, if_pos (by omega), ha, Nat.add_sub_cancel_left]
    · rw [if_neg ha]
      exact if_congr (by omega) rfl rfl

theorem codexByte_clearBytes (n a : Nat) (s : State) :
    codexByte (clearBytes n s) a = if a / 65536 = n then 0xFF else codexByte s a := by
  have hread : codexByte (clearBytes n s) a = mapAt 0xFF a (s.cdx.mem.filter fun c => sectorOf c.1 != n) := rfl
  rw [hread, mapAt, mapGet_filter_key (fun k => sectorOf k != n)]
  by_cases ha : a / 65536 = n
  · simp [sectorOf, ha]
  · simp [sectorOf, ha, codexByte, mapAt]

theorem codexByte_undefPage (page a : Nat) (s : State) :
    codexByte (undefPage page s) a =
      if 256 * page ≤ a ∧ a < 256 * page + 256 then Config.freeByte (256 * s.free + (a - 256 * page)) else codexByte s a := by
  rw [codexByte, undefPage, drawFree, mapAt_foldl_mapPut 0xFF _ _ _ fun i => Config.freeByte (256 * s.free + i)]
  rfl

/-! ## A program (R398, R399, R401, R402) -/

/-- The request that a Program of a requester stands for. -/
def programReq (s : State) (who a : Nat) (b : List Byte) (sp : Option CodexSpell) : CodexReq :=
  { rank := requestRank s who a, erase := false, addr := a, bytes := b, who := who, spell := sp }

theorem exec_codexProgram_served {s : State} {who : Nat} (a : Nat) (b : List Byte) (sp : Option CodexSpell)
    (hserved : whoServed s who = true) : exec (.codexProgram who a b sp) s = .next (programSeq who a b sp s) :=
  congrArg Host.Outcome.next (if_pos hserved)

theorem programSeq_free {s : State} {who a : Nat} {b : List Byte} {sp : Option CodexSpell} (hcont : s.cdx.cont = none)
    (hlegal : programLegal a b = true) (hidle : dieBusy s = false) (hnone : s.cdx.requests = []) :
    programSeq who a b sp s = startProgram (programReq s who a b sp) s := by
  simp [programSeq, hcont, hlegal, codexRequest, hidle, hnone, programReq]

theorem programSeq_pastArray {s : State} {who a : Nat} {b : List Byte} {sp : Option CodexSpell} (ha : 0x4000000 ≤ a) :
    programSeq who a b sp s = sequenceError s := by
  have hlegal : programLegal a b = false := by
    cases b with
    | nil => rfl
    | cons x b =>
      have hend : decide (a + (x :: b).length ≤ 0x4000000) = false := by rw [List.length_cons]; simp; omega
      rw [programLegal, hend, Bool.and_false]
  simp [programSeq, hlegal]

theorem startProgram_takes {s : State} {r : CodexReq} (herase : s.cdx.erasing ≠ some (r.addr / 65536))
    (hopen : protectedFrom s r.who (r.addr / 65536) = false) :
    startProgram r s = { clearStatus s with cdx := { (clearStatus s).cdx with progging := some r } } := by
  simp [startProgram, sectorOf, herase, hopen]

theorem startProgram_guarded {s : State} {r : CodexReq} (herase : s.cdx.erasing ≠ some (r.addr / 65536))
    (hguard : protectedFrom s r.who (r.addr / 65536) = true) : startProgram r s = refuse true s := by
  simp [startProgram, sectorOf, herase, hguard]

/-- The die after the last cell of a program, its page counted (R398). -/
def programOver (r : CodexReq) (s : State) : State :=
  { s with cdx := { s.cdx with
      progging := none
      pageProgs := mapSet (r.addr / 256) (mapAt 0 (r.addr / 256) s.cdx.pageProgs + 1) s.cdx.pageProgs } }

theorem endProgram_holds {s : State} {r : CodexReq} (hcount : mapAt 0 (r.addr / 256) s.cdx.pageProgs < 8) :
    endProgram r true s = spellSector (sectorOf r.addr) r.spell (andBytes r.addr r.bytes (programOver r s)) := by
  have hk : ¬ 8 < mapAt 0 (r.addr / 256) s.cdx.pageProgs + 1 := by omega
  simp [endProgram, hk, programOver]

theorem endProgram_ninth {s : State} {r : CodexReq} (hcount : 8 ≤ mapAt 0 (r.addr / 256) s.cdx.pageProgs) :
    endProgram r true s = spellSector (sectorOf r.addr) none
      (undefPage (r.addr / 256) (andBytes r.addr r.bytes (programOver r s))) := by
  have hk : 8 < mapAt 0 (r.addr / 256) s.cdx.pageProgs + 1 := by omega
  simp [endProgram, hk, programOver]

/-! ## Settings that waited for an erase (R408) -/

theorem rtAppends_rest {α : Type} (key binding value : α → Nat) (l : List α) (s : State) :
    ∃ f, l.foldl (fun t x => rtAppend (key x) (binding x) (value x) t) s = { s with fol := f } := by
  induction l generalizing s with
  | nil => exact ⟨s.fol, rfl⟩
  | cons x l ih => exact ih (rtAppend (key x) (binding x) (value x) s)

theorem rtRotate_rest (s : State) : ∃ f r, rtRotate s = { s with fol := f, cdx := { s.cdx with requests := r } } := by
  obtain ⟨f, hf⟩ := rtAppends_rest RtRec.key RtRec.binding RtRec.value (rtAll s)
    { s with fol := { s.fol with rtActive := 1 - s.fol.rtActive } }
  rw [rtRotate, askErase_rest, hf]
  exact ⟨_, _, rfl⟩

theorem drainRt_rest (s : State) : ∃ f r, drainRt s = { s with fol := f, cdx := { s.cdx with requests := r } } := by
  unfold drainRt
  split
  · exact ⟨_, _, rfl⟩
  · obtain ⟨g, r, hrot⟩ := rtRotate_rest { s with fol := { s.fol with rtWait := [] } }
    obtain ⟨f, hf⟩ := rtAppends_rest (fun x : Nat × Nat × Nat => x.1) (fun x => x.2.1) (fun x => x.2.2) s.fol.rtWait
      (rtRotate { s with fol := { s.fol with rtWait := [] } })
    exact ⟨f, r, by rw [hf, hrot]⟩

theorem drainRt_nothing {s : State} (h : s.fol.rtWait = []) : drainRt s = s := by
  simp [drainRt, h]

theorem exec_codexProgramDone_noWait {s : State} {r : CodexReq} (hrun : s.cdx.progging = some r) (hwait : s.fol.rtWait = []) :
    exec (.codexProgramDone true) s = .next (endProgram r true s) := by
  have hnone : (endProgram r true s).fol.rtWait = [] := by
    rcases Nat.lt_or_ge (mapAt 0 (r.addr / 256) s.cdx.pageProgs) 8 with hk | hk
    · rw [endProgram_holds hk, (spellSector_keeps ..).2.2, (andBytes_byte ..).2.2]
      exact hwait
    · rw [endProgram_ninth hk, (spellSector_keeps ..).2.2, undefPage, (andBytes_byte ..).2.2]
      exact hwait
  show Host.Outcome.next (match s.cdx.progging with | none => s | some r => drainRt (endProgram r true s)) = _
  rw [hrun]
  exact congrArg _ (drainRt_nothing hnone)

/-! ## An erase (R401, R404, R406) -/

/-- From `s` to `t` nothing changed but the parts that the structures of sectors belong to. -/
def StructuresOnly (s t : State) : Prop :=
  ∃ u f i k l, t = { s with upd := u, fol := f, inv := i, key := k, cdx := { s.cdx with recRecords := l } }

theorem StructuresOnly.ite {p : Prop} [Decidable p] {s t u : State} (ht : StructuresOnly s t)
    (hu : StructuresOnly s u) : StructuresOnly s (if p then t else u) := by
  split
  · exact ht
  · exact hu

theorem dropSector_structures (n : Nat) (s : State) : StructuresOnly s (dropSector n s) := by
  unfold dropSector
  repeat' apply StructuresOnly.ite
  all_goals exact ⟨_, _, _, _, _, rfl⟩

theorem exec_codexSectorErase_served {s : State} {who : Nat} (a : Nat) (hserved : whoServed s who = true) :
    exec (.codexSectorErase who a) s = .next (eraseSeq who a s) :=
  congrArg Host.Outcome.next (if_pos hserved)

theorem eraseSeq_free {s : State} {who a : Nat} (hcont : s.cdx.cont = none) (ha : a < 0x4000000)
    (hidle : dieBusy s = false) (hnone : s.cdx.requests = []) (herase : s.cdx.erasing = none) :
    eraseSeq who a s = startErase who a s := by
  have hpast : ¬ 0x4000000 ≤ a := by omega
  simp [eraseSeq, hcont, hpast, herase, codexRequest, hidle, hnone]

theorem startErase_takes {s : State} {who a : Nat} (herase : s.cdx.erasing = none)
    (hopen : protectedFrom s who (a / 65536) = false) :
    ∃ t, startErase who a s = t ∧ t.cdx.erasing = some (a / 65536) ∧ t.cdx.erSusp = false ∧
      (∀ n, n ∈ t.cdx.flags ↔ n = a / 65536 ∨ n ∈ s.cdx.flags) ∧ t.cdx.mem = s.cdx.mem ∧
      t.cdx.colophon = s.cdx.colophon ∧ t.cdx.progging = s.cdx.progging ∧ t.wr = s.wr ∧ t.cat = s.cat := by
  obtain ⟨u, f, i, k, l, hdrop⟩ := dropSector_structures (a / 65536) (clearStatus s)
  refine ⟨_, rfl, ?_⟩
  simp only [startErase, sectorOf, herase, hopen, hdrop, Option.isSome_none, Bool.false_eq_true, if_false]
  refine ⟨trivial, trivial, fun n => ?_, rfl, rfl, rfl, rfl, rfl⟩
  split
  · next hset =>
    have hset : a / 65536 ∈ s.cdx.flags := List.contains_iff_mem.mp hset
    exact ⟨.inr, fun h => h.elim (fun h => h ▸ hset) id⟩
  · exact mem_insertBy ..

theorem eraseSeq_pastArray {s : State} {who a : Nat} (ha : 0x4000000 ≤ a) : eraseSeq who a s = sequenceError s := by
  simp [eraseSeq, ha]

/-- A verified erase: the sector reads 0xFF and its flag cell is clear (R404). -/
def eraseVerified (n : Nat) (s : State) : State :=
  let t := clearBytes n { s with cdx := { s.cdx with erasing := none, erSusp := false } }
  { t with cdx := { t.cdx with eFail := false, flags := t.cdx.flags.filter fun x => x != n } }

theorem sectorErased_rest (n : Nat) (s : State) :
    ∃ f i r, sectorErased n s = { s with fol := f, inv := i, cdx := { s.cdx with requests := r } } := by
  unfold sectorErased
  split
  · exact ⟨_, _, _, rfl⟩
  · obtain ⟨f, r, h⟩ := drainRt_rest s
    exact ⟨f, s.inv, r, h⟩

theorem exec_codexEraseDone_verified {s : State} {n : Nat} (harray : s.cdx.arrayErase = false)
    (herase : s.cdx.erasing = some n) (hruns : s.cdx.erSusp = false) :
    exec (.codexEraseDone true) s = .next (sectorErased n (eraseVerified n s)) := by
  show execCodexEraseDone true s = _
  rw [execCodexEraseDone, if_neg (by simp [harray]), herase]
  exact congrArg Host.Outcome.next ((if_neg (by simp [hruns])).trans (if_pos rfl))

theorem exec_codexEraseDone_failed {s : State} {n : Nat} (harray : s.cdx.arrayErase = false)
    (herase : s.cdx.erasing = some n) (hruns : s.cdx.erSusp = false) :
    exec (.codexEraseDone false) s = .next { s with cdx := { s.cdx with
      erasing := none, erSusp := false, eFail := true, eFails := sat32 (s.cdx.eFails + 1) } } := by
  show execCodexEraseDone false s = _
  rw [execCodexEraseDone, if_neg (by simp [harray]), herase]
  exact congrArg Host.Outcome.next ((if_neg (by simp [hruns])).trans (if_neg Bool.false_ne_true))

theorem eraseArray_erased (s : State) :
    (eraseArray s).cdx.arrayErase = false ∧ (eraseArray s).cdx.flags = [] ∧
      (eraseArray s).cdx.colophon = s.cdx.colophon ∧ (eraseArray s).cdx.mem = [] :=
  ⟨rfl, rfl, (foldl_core _ (fun t n => dropSector_core n t) (List.range 144) s).2.2, rfl⟩

/-! ## The interface (R406) -/

theorem exec_codexRequestServe_awake {s : State} (ok : Bool) (hawake : awake s = true) :
    exec (.codexRequestServe ok) s = .next (serveCodex ok s) :=
  congrArg Host.Outcome.next (if_pos hawake)

theorem serveCodex_suspends {s : State} {r : CodexReq} {e : Nat} (ok : Bool) (hprog : s.cdx.progging = none)
    (harray : s.cdx.arrayErase = false) (hreq : s.cdx.requests = [r]) (hr : r.erase = false)
    (herase : s.cdx.erasing = some e) (hruns : s.cdx.erSusp = false) :
    serveCodex ok s = if ok then { s with cdx := { s.cdx with erSusp := true } } else s := by
  simp [serveCodex, hprog, harray, hreq, servable, hr, nextRequest, herase, hruns]

theorem serveCodex_resumes {s : State} (ok : Bool) (hnone : s.cdx.requests = []) (hsusp : s.cdx.erSusp = true)
    (hprog : s.cdx.progging = none) (harray : s.cdx.arrayErase = false) (hmode : s.mode.mode ≠ .coast) :
    serveCodex ok s = { s with cdx := { s.cdx with erSusp := false } } := by
  simp [serveCodex, hprog, harray, hnone, nextRequest, hsusp, hmode]

/-- Settles O51: a program starts or is refused by `startProgram` and ends by `endProgram`, an erase starts by
`startErase` and ends by `clearBytes`, and the interface suspends and resumes it by `serveCodex`. -/
theorem codexProgramsAndErases : Obligations.CodexProgramsAndErases := by
  refine ⟨?taken, ?guarded, ?past, ?ends, ?ninth, ?idle, ?erase, ?verified, ?failed, ?array, ?suspends, ?resumes⟩
  case taken =>
    intro s who a b sp hserved hcont hlegal hidle hnone herase hopen
    refine ⟨_, programReq s who a b sp, exec_codexProgram_served a b sp hserved, ?_⟩
    rw [programSeq_free hcont hlegal hidle hnone, startProgram_takes herase hopen]
    exact ⟨rfl, rfl, rfl, rfl, rfl, rfl, rfl, rfl, rfl, rfl⟩
  case guarded =>
    intro s who a b sp hserved hcont hlegal hidle hnone herase hguard
    refine ⟨_, exec_codexProgram_served a b sp hserved, ?_⟩
    rw [programSeq_free hcont hlegal hidle hnone, startProgram_guarded herase hguard]
    exact ⟨rfl, rfl, rfl, rfl, rfl, rfl⟩
  case past =>
    intro s who a b sp hserved ha
    exact ⟨by rw [exec_codexProgram_served a b sp hserved, programSeq_pastArray ha],
      by rw [exec_codexSectorErase_served a hserved, eraseSeq_pastArray ha]⟩
  case ends =>
    intro s r hrun hcount hwait
    obtain ⟨hin, hout, hrest⟩ := andBytes_byte r.bytes r.addr (programOver r s)
    have hcdx : (endProgram r true s).cdx = (andBytes r.addr r.bytes (programOver r s)).cdx := by
      rw [endProgram_holds hcount, (spellSector_keeps ..).1]
    refine ⟨_, exec_codexProgramDone_noWait hrun hwait, ?_, ?_, ?_, ?_, ?_⟩
    · rw [hcdx, hrest]; rfl
    · rw [hcdx, hrest]; rfl
    · rw [hcdx, hrest]; rfl
    · intro i v hv
      rw [codexByte_congr hcdx]
      exact hin i v hv
    · intro x hx
      rw [codexByte_congr hcdx]
      exact hout x hx
  case ninth =>
    intro s r hrun hlegal hcount hwait
    obtain ⟨-, hout, hrest⟩ := andBytes_byte r.bytes r.addr (programOver r s)
    have hcdx : (endProgram r true s).cdx =
        (undefPage (r.addr / 256) (andBytes r.addr r.bytes (programOver r s))).cdx := by
      rw [endProgram_ninth hcount, (spellSector_keeps ..).1]
    have hfree : (andBytes r.addr r.bytes (programOver r s)).free = s.free := by rw [hrest]; rfl
    have hpage : r.addr / 256 = (r.addr + r.bytes.length - 1) / 256 ∧ r.bytes.length ≠ 0 := by
      simp only [programLegal, Bool.and_eq_true, decide_eq_true_eq, Bool.not_eq_true', List.isEmpty_eq_false_iff] at hlegal
      exact ⟨hlegal.1.2, fun h => hlegal.1.1.1 (List.length_eq_zero_iff.mp h)⟩
    refine ⟨_, exec_codexProgramDone_noWait hrun hwait, ?_, ?_, ?_⟩
    · rw [hcdx, undefPage, hrest]; rfl
    · intro i hi
      rw [codexByte_congr hcdx, codexByte_undefPage, if_pos (by omega), hfree, Nat.add_sub_cancel_left]
    · intro x hx
      rw [codexByte_congr hcdx, codexByte_undefPage, if_neg (by omega)]
      exact hout x (by omega)
  case idle =>
    intro s ok hnone
    show Host.Outcome.next (match s.cdx.progging with | none => s | some r => drainRt (endProgram r ok s)) = _
    rw [hnone]
  case erase =>
    intro s who a hserved hcont ha hidle hnone herase hopen
    obtain ⟨t, ht, hfacts⟩ := startErase_takes herase hopen
    exact ⟨t, by rw [exec_codexSectorErase_served a hserved, eraseSeq_free hcont ha hidle hnone herase, ht], hfacts⟩
  case verified =>
    intro s n harray herase hruns
    obtain ⟨f, i, r, hrest⟩ := sectorErased_rest n (eraseVerified n s)
    refine ⟨_, exec_codexEraseDone_verified harray herase hruns, ?_⟩
    rw [hrest]
    refine ⟨rfl, rfl, fun m hm => ?_, fun a => codexByte_clearBytes n a s⟩
    obtain ⟨hset, hne⟩ := List.mem_filter.mp hm
    exact ⟨hset, by simpa using hne⟩
  case failed =>
    intro s n harray herase hruns
    exact exec_codexEraseDone_failed harray herase hruns
  case array =>
    intro s harray
    obtain ⟨hover, hflags, hcol, hmem⟩ := eraseArray_erased s
    exact ⟨_, congrArg Host.Outcome.next (if_pos harray), hover, hflags, hcol, fun a => by rw [codexByte, hmem]; rfl⟩
  case suspends =>
    intro s r e hawake hprog harray hreq hr herase hruns
    exact ⟨by rw [exec_codexRequestServe_awake _ hawake, serveCodex_suspends _ hprog harray hreq hr herase hruns]; rfl,
      by rw [exec_codexRequestServe_awake _ hawake, serveCodex_suspends _ hprog harray hreq hr herase hruns]; rfl⟩
  case resumes =>
    intro s ok hawake hnone hsusp hprog harray hmode
    rw [exec_codexRequestServe_awake _ hawake, serveCodex_resumes _ hnone hsusp hprog harray hmode]

end Sys2Proof.Machine
end

section
/-! PROOFS. The other sequences of the Codex die and the Colophon row (R399, R400, R409, R412): what each leaves when it is
taken, and which of them are sequence errors. Continuous read and a flag-cell query beyond the die as sequence errors are
log entry 150 (DEDUCED). -/

namespace Sys2Proof.Machine

/-! ## What a served sequence runs -/

section
variable {s : State} (hserved : whoServed s 0 = true)
include hserved

theorem exec_codexSequenceError_served : exec .codexSequenceError s = .next (sequenceError s) :=
  congrArg Host.Outcome.next (if_pos hserved)

theorem exec_codexArrayErase_served (p : Bool) : exec (.codexArrayErase p) s = .next (arrayErase p s) :=
  congrArg Host.Outcome.next (if_pos hserved)

theorem exec_codexContinuousReadEnter_served (a : Nat) :
    exec (.codexContinuousReadEnter a) s = .next (enterContinuous a s) :=
  congrArg Host.Outcome.next (if_pos hserved)

theorem exec_codexFlagCellQuery_served (a : Nat) : exec (.codexFlagCellQuery a) s = .next (flagQuery a s) :=
  congrArg Host.Outcome.next (if_pos hserved)

theorem exec_colophonLock_served (m : Nat) : exec (.colophonLock m) s = .next (colLock m s) :=
  congrArg Host.Outcome.next (if_pos hserved)

theorem exec_codexEraseSuspend_inContinuousRead (hcont : s.cdx.cont.isSome = true) :
    exec .codexEraseSuspend s = .next (sequenceError s) :=
  congrArg Host.Outcome.next ((if_neg (by simp [hserved])).trans (if_pos hcont))

theorem exec_codexEraseSuspend_outside (hcont : s.cdx.cont = none) :
    exec .codexEraseSuspend s =
      .next { clearStatus s with cdx := { (clearStatus s).cdx with erSusp := s.cdx.erasing.isSome } } :=
  congrArg Host.Outcome.next ((if_neg (by simp [hserved])).trans (if_neg (by simp [hcont])))

theorem exec_codexEraseResume_outside (hmode : s.mode.mode ≠ .coast) (hcont : s.cdx.cont = none) :
    exec .codexEraseResume s = .next { clearStatus s with cdx := { (clearStatus s).cdx with erSusp := false } } :=
  congrArg Host.Outcome.next ((if_neg (by simp [hserved, hmode])).trans (if_neg (by simp [hcont])))

theorem exec_colophonProgram_served {a : Nat} (b : List Byte) (hlow : 0x4000000 ≤ a) (hhigh : a ≤ 0x4000FFF) :
    exec (.colophonProgram a b) s = .next (colProgram a b s) := by
  refine congrArg Host.Outcome.next ((if_neg (by simp [hserved])).trans (if_neg ?_))
  simp only [Bool.or_eq_true, decide_eq_true_eq]
  omega

end

theorem enterContinuous_refused {s : State} {a : Nat} (h : s.cdx.cont.isSome = true ∨ 0x400100C ≤ a) :
    enterContinuous a s = sequenceError s := if_pos (by simpa using h)

theorem enterContinuous_taken {s : State} {a : Nat} (hcont : s.cdx.cont = none) (ha : a < 0x400100C) :
    enterContinuous a s = { clearStatus s with cdx := { (clearStatus s).cdx with cont := some a } } :=
  if_neg (by simp [hcont]; omega)

theorem flagQuery_refused {s : State} {a : Nat} (h : s.cdx.cont.isSome = true ∨ 0x4000000 ≤ a) :
    flagQuery a s = sequenceError s := if_pos (by simpa using h)

theorem flagQuery_taken {s : State} {a : Nat} (hcont : s.cdx.cont = none) (ha : a < 0x4000000) :
    flagQuery a s = { clearStatus s with cdx := { (clearStatus s).cdx with flagNext := some (a / 65536) } } :=
  if_neg (by simp [hcont]; omega)

theorem arrayErase_taken {s : State} (hman : s.mode.manufacturing = true) (hcont : s.cdx.cont = none)
    (hidle : dieBusy s = false) : arrayErase true s =
      { clearStatus s with cdx := { (clearStatus s).cdx with arrayErase := true, flags := List.range 1024 } } :=
  (if_neg (by simp [hman, hcont])).trans (if_neg (by simp [hidle]))

/-! ## The Colophon row (R409) -/

theorem colLock_taken {s : State} (m : Nat) (hcont : s.cdx.cont = none) : colLock m s =
      { clearStatus s with cdx := { (clearStatus s).cdx with
        colophon := s.cdx.colophon.mapIdx fun i g => if m.testBit i then { g with locked := true } else g } } :=
  if_neg (by simp [hcont])

/-- A mask bit sets the lock bit of its segment, and a clear one leaves it. -/
theorem lockedBy_mask (m i : Nat) (g : ColSegment) :
    (if m.testBit i then { g with locked := true } else g) = { g with locked := m.testBit i || g.locked } := by
  cases m.testBit i <;> rfl

/-- A Colophon program whose cycles are legal: bytes of one page (R399). -/
def ColophonCycles (a : Nat) (b : List Byte) : Prop :=
  b ≠ [] ∧ b.length ≤ 256 ∧ a / 256 = (a + b.length - 1) / 256

theorem colProgram_legal {s : State} {a : Nat} {b : List Byte} {g : ColSegment} (hcont : s.cdx.cont = none)
    (hcycles : ColophonCycles a b) (hseg : s.cdx.colophon[(a - 0x4000000) / 512]? = some g) :
    colProgram a b s = if g.locked then refuse true s
      else { clearStatus s with cdx := { (clearStatus s).cdx with
        colophon := s.cdx.colophon.set ((a - 0x4000000) / 512)
          (if (a - 0x4000000) / 512 = 2 then { g with crcOk := true } else segProgram (a % 512) b g) } } := by
  obtain ⟨hbytes, hlen, hpage⟩ := hcycles
  have hlegal : (b.isEmpty || decide (b.length > 256) || s.cdx.cont.isSome
      || decide (a / 256 != (a + b.length - 1) / 256)) = false := by
    simpa [hcont, hbytes, hlen] using hpage
  rw [colProgram, hseg]
  exact if_neg (by rw [hlegal]; exact Bool.false_ne_true)

theorem segByte_congr {g q : ColSegment} (h : g.bytes = q.bytes) (i : Nat) : segByte g i = segByte q i := by
  rw [segByte, segByte, h]

/-- Bytes programmed into a segment are the AND of old and new; every other byte and the lock bit stay. -/
theorem segProgram_facts (i : Nat) (b : List Byte) (g : ColSegment) :
    (segProgram i b g).locked = g.locked ∧
      (∀ k v, b[k]? = some v → segByte (segProgram i b g) (i + k) = segByte g (i + k) &&& v) ∧
      ∀ j, j < i ∨ i + b.length ≤ j → segByte (segProgram i b g) j = segByte g j := by
  induction b generalizing i g with
  | nil => exact ⟨by rw [segProgram], fun k v h => by simp at h,
      fun j _ => segByte_congr (by rw [segProgram]) j⟩
  | cons x b ih =>
    obtain ⟨hlocked, hin, hout⟩ := ih (i + 1) { g with bytes := mapPut 0xFF i (segByte g i &&& x) g.bytes }
    have hone : ∀ j, segByte { g with bytes := mapPut 0xFF i (segByte g i &&& x) g.bytes } j =
        if j = i then segByte g i &&& x else segByte g j := fun j => mapAt_mapPut_eq ..
    refine ⟨by rw [segProgram, hlocked], fun k v hv => ?_, fun j hj => ?_⟩
    · cases k with
      | zero =>
        obtain rfl : x = v := by simpa using hv
        rw [segProgram]
        exact (hout i (by omega)).trans ((hone i).trans (if_pos rfl))
      | succ k =>
        have hnext := hin k v (by simpa using hv)
        rw [segProgram, show i + (k + 1) = i + 1 + k by omega, hnext, hone, if_neg (by omega)]
    · rw [List.length_cons] at hj
      rw [segProgram, hout j (by omega), hone, if_neg (by omega)]

/-! ## The swap cells (R411, R412) -/

theorem exec_endpaperSwap_taken {s : State} {who target : Nat} (hserved : whoServed s who = true)
    (hwho : who = 1 ∨ who = 2) (htarget : target ≤ 1) (hcont : s.cdx.cont = none) (hsusp : s.cdx.erSusp = false) :
    exec (.endpaperSwap who target) s = .next (swapTo target (clearStatus s)) := by
  refine congrArg Host.Outcome.next ((if_neg (by simp [hserved])).trans
    ((if_neg ?_).trans (if_neg (by simp [hsusp]))))
  have hwho' : (! (decide (who = 1) || decide (who = 2))) = false := by
    rcases hwho with rfl | rfl <;> rfl
  simpa [hcont, hwho'] using htarget

theorem exec_endpaperSwap_refused {s : State} {who : Nat} (target : Nat) (hserved : whoServed s who = true)
    (hwho : who = 0 ∨ who = 3) : exec (.endpaperSwap who target) s = .next (sequenceError s) := by
  refine congrArg Host.Outcome.next ((if_neg (by simp [hserved])).trans (if_pos ?_))
  rcases hwho with rfl | rfl <;> rfl

theorem swapTo_zero {s : State} {x : Nat} (hother : s.cdx.swap1 = some x) :
    swapTo 0 s = { s with cdx := { s.cdx with swap0 := some ((x + 1) % 65536) } } := by
  simp only [swapTo, hother, if_true]

theorem swapTo_one {s : State} {x : Nat} (hother : s.cdx.swap0 = some x) :
    swapTo 1 s = { s with cdx := { s.cdx with swap1 := some ((x + 1) % 65536) } } := by
  simp only [swapTo, hother, one_ne_zero, if_false]

/-- Settles O52: each sequence is its definition once it is served; a Colophon program is `segProgram` of an open segment, a
lock sets the bits of its mask, and a swap writes one cell. -/
theorem codexSequencesAndColophon : Obligations.CodexSequencesAndColophon := by
  refine ⟨?error, ?arrayRefused, ?array, ?enter, ?leave, ?continuous, ?beyond, ?query, ?status, ?suspend, ?resume,
    ?lock, ?locked, ?opened, ?swap0, ?swap1, ?swapRefused⟩
  case error =>
    intro s hserved
    exact ⟨_, exec_codexSequenceError_served hserved, rfl⟩
  case arrayRefused =>
    intro s hserved
    exact exec_codexArrayErase_served hserved false
  case array =>
    intro s hserved hman hcont hidle
    refine ⟨_, exec_codexArrayErase_served hserved true, ?_⟩
    rw [arrayErase_taken hman hcont hidle]
    exact ⟨rfl, rfl, fun n => by simp, rfl, rfl⟩
  case enter =>
    intro s a hserved ha hcont
    refine ⟨_, exec_codexContinuousReadEnter_served hserved a, ?_⟩
    rw [enterContinuous_taken hcont ha]
    exact ⟨rfl, rfl, rfl⟩
  case leave =>
    intro s hserved
    exact ⟨_, congrArg Host.Outcome.next (if_pos hserved), rfl, rfl, rfl, rfl⟩
  case continuous =>
    intro s a c hserved hcont
    have hin : s.cdx.cont.isSome = true := by rw [hcont]; rfl
    exact ⟨by rw [exec_codexContinuousReadEnter_served hserved, enterContinuous_refused (.inl hin)],
      by rw [exec_codexFlagCellQuery_served hserved, flagQuery_refused (.inl hin)],
      exec_codexEraseSuspend_inContinuousRead hserved hin⟩
  case beyond =>
    intro s a hserved
    exact ⟨fun ha => by rw [exec_codexContinuousReadEnter_served hserved, enterContinuous_refused (.inr ha)],
      fun ha => by rw [exec_codexFlagCellQuery_served hserved, flagQuery_refused (.inr ha)]⟩
  case query =>
    intro s a hserved ha hcont
    refine ⟨_, exec_codexFlagCellQuery_served hserved a, ?_⟩
    rw [flagQuery_taken hcont ha]
    exact ⟨rfl, rfl, rfl, rfl⟩
  case status =>
    intro s hserved
    exact congrArg Host.Outcome.next (if_pos hserved)
  case suspend =>
    intro s n hserved hcont herase
    exact ⟨_, exec_codexEraseSuspend_outside hserved hcont, rfl, by rw [herase]; rfl, herase, rfl, rfl⟩
  case resume =>
    intro s hserved hmode hcont
    exact ⟨_, exec_codexEraseResume_outside hserved hmode hcont, rfl, rfl, rfl, rfl⟩
  case lock =>
    intro s m hserved hcont
    refine ⟨_, exec_colophonLock_served hserved m, ?_⟩
    rw [colLock_taken m hcont]
    refine ⟨rfl, rfl, fun i g hg => ?_⟩
    rw [← lockedBy_mask, List.getElem?_mapIdx, hg]
    rfl
  case locked =>
    intro s a b g hserved hcont hlow hhigh hbytes hlen hpage hseg hlocked
    refine ⟨_, exec_colophonProgram_served hserved b hlow hhigh, ?_⟩
    rw [colProgram_legal hcont ⟨hbytes, hlen, hpage⟩ hseg, if_pos hlocked]
    exact ⟨rfl, rfl, rfl, rfl, rfl⟩
  case opened =>
    intro s a b g hserved hcont hlow hhigh hbytes hlen hpage hseg hopen hkey
    obtain ⟨hlocked, hin, hout⟩ := segProgram_facts (a % 512) b g
    refine ⟨_, segProgram (a % 512) b g, exec_colophonProgram_served hserved b hlow hhigh, ?_⟩
    rw [colProgram_legal hcont ⟨hbytes, hlen, hpage⟩ hseg, if_neg (by simp [hopen]), if_neg hkey]
    obtain ⟨hbound, -⟩ := List.getElem?_eq_some_iff.mp hseg
    exact ⟨rfl, rfl, List.getElem?_set_self hbound, hlocked.trans hopen,
      fun n hn => List.getElem?_set_ne (Ne.symm hn), hin, hout⟩
  case swap0 =>
    intro s who x hserved hwho hcont hsusp hother
    refine ⟨_, exec_endpaperSwap_taken hserved hwho (by omega) hcont hsusp, ?_⟩
    rw [swapTo_zero (s := clearStatus s) hother]
    exact ⟨rfl, rfl, rfl, rfl⟩
  case swap1 =>
    intro s who x hserved hwho hcont hsusp hother
    refine ⟨_, exec_endpaperSwap_taken hserved hwho (by omega) hcont hsusp, ?_⟩
    rw [swapTo_one (s := clearStatus s) hother]
    exact ⟨rfl, rfl, rfl⟩
  case swapRefused =>
    intro s who b hserved hwho
    exact exec_endpaperSwap_refused b hserved hwho

end Sys2Proof.Machine
end

section
/-! PROOFS. The endpaper blocks and the relay's own state (R411, R419, R421, R426): what the erases of a block, its filling
and the start of a relay leave as they were. -/

namespace Sys2Proof.Machine

/-! ## The two blocks (R411) -/

theorem activeBlock_le (s : State) : activeBlock s ≤ 1 := by
  unfold activeBlock
  split
  · split <;> omega
  · omega
  · omega

theorem blockOf_modBlock_same (n : Nat) (f : SetBlock → SetBlock) (s : State) :
    blockOf (modBlock n f s) n = f (blockOf s n) := by
  unfold blockOf modBlock
  split <;> rfl

theorem blockOf_modBlock_other {n m : Nat} (f : SetBlock → SetBlock) (s : State) (hn : n ≤ 1) (hm : m ≤ 1) (h : m ≠ n) :
    blockOf (modBlock n f s) m = blockOf s m := by
  obtain ⟨rfl, rfl⟩ | ⟨rfl, rfl⟩ : (n = 0 ∧ m = 1) ∨ (n = 1 ∧ m = 0) := by omega
  · rfl
  · rfl

theorem mem_blockSectors {n m : Nat} (h : m ∈ blockSectors n) : sectorBlock m = some n := by
  simpa using (List.mem_filter.mp h).2

/-- A sector of a block holds a part of that block alone. -/
theorem dropSector_block {n m : Nat} (h : m ∈ blockSectors n) (s : State) : ∃ f, dropSector m s = modBlock n f s := by
  have hblock := mem_blockSectors h
  have hm : m < 96 := List.mem_range.mp (List.mem_filter.mp h).1
  unfold dropSector
  rcases Nat.lt_or_ge m 32 with hlow | hhigh
  · have hn : m / 16 = n := by
      simp only [sectorBlock] at hblock
      grind
    rw [if_pos hlow, hn]
    exact ⟨_, rfl⟩
  · have hn : (if m < 64 then 0 else 1) = n := by
      simp only [sectorBlock] at hblock
      grind
    rw [if_neg (Nat.not_lt.mpr hhigh), if_pos hm, hn]
    exact ⟨_, rfl⟩

/-- What the erases of block `n` must leave: the controller, the stage, the commit under way, the relay and the other
block. -/
def besideBlock (n : Nat) (s : State) : Nvme × List Nat × BundleFacts × Option Writer × Relay × SetBlock :=
  (s.nv, s.upd.staged, s.upd.stFacts, s.upd.writing, s.upd.relay, blockOf s (1 - n))

theorem modBlock_besideBlock {n : Nat} (hn : n ≤ 1) (f : SetBlock → SetBlock) (s : State) :
    besideBlock n (modBlock n f s) = besideBlock n s := by
  obtain rfl | rfl : n = 0 ∨ n = 1 := by omega
  · rfl
  · rfl

theorem eraseSectors_besideBlock {n : Nat} (hn : n ≤ 1) (l : List Nat) (s : State) (hl : ∀ m ∈ l, m ∈ blockSectors n) :
    besideBlock n (eraseSectors l s) = besideBlock n s := by
  induction l generalizing s with
  | nil => rfl
  | cons a l ih =>
    obtain ⟨ha, hl⟩ := List.forall_mem_cons.mp hl
    obtain ⟨f, hdrop⟩ := dropSector_block ha s
    refine (ih (askErase a (dropSector a s)) hl).trans ?_
    rw [askErase_rest, hdrop]
    exact modBlock_besideBlock hn f s

/-- A commit begins: every sector of the inactive block is asked to be erased, and the rest is as it was. -/
theorem startWriting_facts (w : Writer) (s : State) :
    (startWriting w s).nv = s.nv ∧ (startWriting w s).upd.staged = s.upd.staged ∧
      (startWriting w s).upd.stFacts = s.upd.stFacts ∧ (startWriting w s).upd.writing = some w ∧
      (startWriting w s).upd.relay = s.upd.relay ∧
      blockOf (startWriting w s) (activeBlock s) = blockOf s (activeBlock s) ∧
      ErasesAsked (blockSectors (1 - activeBlock s)) (startWriting w s) := by
  have hactive := activeBlock_le s
  have hbeside := eraseSectors_besideBlock (n := 1 - activeBlock s) (by omega) (blockSectors (1 - activeBlock s))
    { s with upd := { s.upd with writing := some w } } fun _ h => h
  have hother : 1 - (1 - activeBlock s) = activeBlock s := by omega
  simp only [besideBlock, hother, Prod.mk.injEq] at hbeside
  obtain ⟨hnv, hstaged, hfacts, hwriting, hrelay, hblock⟩ := hbeside
  exact ⟨hnv, hstaged, hfacts, hwriting, hrelay, hblock, (eraseSectors_asked _ _).2⟩

/-! ## The start of a relay (R425, R426) -/

/-- From `s` to `t` Peloton's requests and the sender's side of the relay changed alone. -/
def RelaySends (s t : State) : Prop :=
  ∃ p r, t = { s with pel := p, upd := { s.upd with relay := r } } ∧ r.rx = s.upd.relay.rx

theorem RelaySends.refl (s : State) : RelaySends s s := ⟨s.pel, s.upd.relay, rfl, rfl⟩

theorem RelaySends.trans {s t u : State} (h : RelaySends s t) (k : RelaySends t u) : RelaySends s u := by
  obtain ⟨p, r, rfl, hrx⟩ := h
  obtain ⟨q, x, rfl, hrx'⟩ := k
  exact ⟨q, x, rfl, hrx'.trans hrx⟩

theorem dropRequest_rest (r : OutReq) (s : State) : dropRequest r s = { s with pel := (dropRequest r s).pel } := by
  unfold dropRequest
  dsimp only
  split
  · rw [startRequest_rest]
  · rfl

theorem dropRelay_sends (s : State) : RelaySends s (dropRelay s) :=
  ⟨_, s.upd.relay, foldl_pel_rest _ (fun t r => dropRequest_rest r t) _ s, rfl⟩

theorem modRelay_sends (f : Relay → Relay) (s : State) (hf : ∀ r, (f r).rx = r.rx := by exact fun _ => rfl) :
    RelaySends s (modRelay f s) :=
  ⟨s.pel, _, rfl, hf _⟩

theorem relayTo_sends (m : Nat) (s : State) : RelaySends s (relayTo m s) := by
  unfold relayTo
  split
  · exact (modRelay_sends _ s).trans (dropRelay_sends _)
  · exact (dropRelay_sends s).trans (modRelay_sends _ _)

theorem startRelay_sends (origin action : Nat) (facts : BundleFacts) (wait : Bool) (s : State) :
    RelaySends s (startRelay origin action facts wait s) := by
  unfold startRelay
  split
  · exact .refl s
  · have hbegun := (dropRelay_sends s).trans (modRelay_sends (fun r => { r with
      state := 3, origin := origin, next := 0, skipped := 0, bytes := 0, sent := 0, action := action, rounds := 0
      waitRound := false, single := false, facts := facts }) _)
    dsimp only
    split
    · exact hbegun
    · exact hbegun.trans (relayTo_sends ..)

/-! ## A block that is filled (R421) -/

/-- From `s` to `t` the inactive block became `b`, the stage was emptied and its commit is over. -/
def BlockFilled (b : SetBlock) (s t : State) : Prop :=
  t.nv = s.nv ∧ t.lib = s.lib ∧ t.wr = s.wr ∧ t.cat = s.cat ∧ t.upd.staged = [] ∧ t.upd.writing = none ∧
    blockOf t (1 - activeBlock s) = b ∧ blockOf t (activeBlock s) = blockOf s (activeBlock s)

/-- The inactive block as a commit fills it from bytes that read back, or do not. -/
def filledBlock (facts : BundleFacts) (good : Bool) : SetBlock :=
  { emptyBlock with written := true, facts := if good then facts else noFacts }

/-- The state as a commit has filled the inactive block. -/
def blockWritten (facts : BundleFacts) (good : Bool) (s : State) : State :=
  emptyStage (fillBlock (1 - activeBlock s) facts good { s with upd := { s.upd with writing := none } })

theorem blockWritten_filled (facts : BundleFacts) (good : Bool) (s : State) :
    BlockFilled (filledBlock facts good) s (blockWritten facts good s) := by
  have hactive := activeBlock_le s
  refine ⟨rfl, rfl, rfl, rfl, rfl, ?_, ?_, ?_⟩
  · unfold blockWritten emptyStage fillBlock modBlock
    split <;> rfl
  · exact blockOf_modBlock_same (1 - activeBlock s) _ { s with upd := { s.upd with writing := none } }
  · exact blockOf_modBlock_other _ { s with upd := { s.upd with writing := none } } (by omega) hactive (by omega)

theorem BlockFilled.armed {b : SetBlock} {s t : State} (h : BlockFilled b s t) :
    BlockFilled { b with arm := true } s (armBlock (1 - activeBlock s) t) := by
  obtain ⟨hnv, hlib, hwr, hcat, hstaged, hwriting, hblock, hother⟩ := h
  have hactive := activeBlock_le s
  refine ⟨hnv, hlib, hwr, hcat, ?_, ?_, ?_, ?_⟩
  · rw [armBlock, modBlock]
    dsimp only
    split <;> exact hstaged
  · rw [armBlock, modBlock]
    dsimp only
    split <;> exact hwriting
  · rw [armBlock, blockOf_modBlock_same, hblock]
  · rw [armBlock, blockOf_modBlock_other _ _ (by omega) hactive (by omega), hother]

theorem BlockFilled.relayed {b : SetBlock} {s t u : State} (h : BlockFilled b s t) (k : RelaySends t u) :
    BlockFilled b s u := by
  obtain ⟨p, r, rfl, -⟩ := k
  exact h

end Sys2Proof.Machine
end

section
/-! PROOFS. Firmware Image Download and Firmware Commit (R417, R419 to R421, Table 18.6): a commit as two events (log entry
105), with what each leaves of the two blocks. The hitless rule is log entry 99, the units that a portion touches log
entry 106. -/

namespace Sys2Proof.Machine

/-! ## The stage image (R419) -/

/-- The units that a portion touches, by the address of their first byte. -/
theorem mem_stageBytes {off len : Nat} (hlen : 0 < len) (facts : BundleFacts) (s : State) (u : Nat) :
    u ∈ (stageBytes off len facts s).upd.staged ↔ u ∈ s.upd.staged ∨ off / 4096 ≤ u ∧ u * 4096 < off + len := by
  have htouched : (∃ i < ceilDiv (off % 4096 + len) 4096, off / 4096 + i = u) ↔
      off / 4096 ≤ u ∧ u * 4096 < off + len := by
    unfold ceilDiv
    constructor
    · rintro ⟨i, hi, rfl⟩
      omega
    · rintro ⟨hlow, hhigh⟩
      exact ⟨u - off / 4096, by omega, by omega⟩
  rw [← htouched]
  simp only [stageBytes, List.mem_append, List.mem_filterMap, List.mem_range]
  constructor
  · rintro (h | ⟨i, hi, hfresh⟩)
    · exact .inl h
    · split at hfresh
      · simp at hfresh
      · exact .inr ⟨i, hi, by simpa using hfresh⟩
  · rintro (h | ⟨i, hi, rfl⟩)
    · exact .inl h
    · by_cases hin : off / 4096 + i ∈ s.upd.staged
      · exact .inl hin
      · exact .inr ⟨i, hi, by simp [hin]⟩

/-! ## The end of a commit (R421) -/

/-- The state as the stage image is in the inactive block and goes on along the chain. -/
def commitFilled (act : Nat) (arm wait : Bool) (s : State) : State :=
  startRelay s.pel.self act s.upd.stFacts wait
    (if arm then armBlock (1 - activeBlock s) (blockWritten s.upd.stFacts true s) else blockWritten s.upd.stFacts true s)

theorem commitFilled_filled (act : Nat) (arm wait : Bool) (s : State) :
    BlockFilled { filledBlock s.upd.stFacts true with arm := arm } s (commitFilled act arm wait s) := by
  have hwritten := blockWritten_filled s.upd.stFacts true s
  cases arm with
  | false => exact hwritten.relayed (startRelay_sends ..)
  | true => exact hwritten.armed.relayed (startRelay_sends ..)

/-- The command of a hitless commit runs on, and waits for the restart of the Librarian pair (R424). -/
def activating (slot : Nat) (s : State) : State :=
  modCmd slot (fun c => { c with phase := .running }) { s with upd := { s.upd with commitCmd := some slot } }

theorem activateCommit_eq (slot : Nat) (s : State) : activateCommit slot s = startRestart 3 (activating slot s) := rfl

theorem activating_facts {slot : Nat} {c : Cmd} {s : State} (hc : cmdAt s slot = some c) :
    (activating slot s).upd.commitCmd = some slot ∧
      cmdAt (activating slot s) slot = some { c with phase := .running } ∧ (activating slot s).lib = s.lib ∧
      (activating slot s).nv.waiting = s.nv.waiting ∧ ∀ n, blockOf (activating slot s) n = blockOf s n :=
  ⟨rfl, cmdAt_modCmd (fun _ => rfl) hc, rfl, rfl, fun _ => rfl⟩

/-! ## The frames of a commit (R420, R428) -/

theorem AdminReady.notInRecovery {slot : Nat} {c : Cmd} {s : State} (h : AdminReady slot c s) :
    s.mode.mode ≠ .recovery := by
  obtain ⟨-, -, -, hserving, -⟩ := h
  exact (serving_facts hserving).2.2

section
variable {slot : Nat} {c : Cmd} {s : State} {pick : SqEntry → Bool}

theorem firmwareAdmin_ready {f : Cmd → State → State} (hready : AdminReady slot c s) (hrx : s.upd.relay.rx = false)
    (hpick : pick c.e = true) : firmwareAdmin slot pick f s = f c s := by
  rw [firmwareAdmin, if_neg (by simp [hrx])]
  exact runAdmin_ready hready pick f hpick

theorem commitEvent_begins {start finish : State → State} (hready : AdminReady slot c s)
    (hrx : s.upd.relay.rx = false) (hop : c.e.opcode = 0x10) (hpick : pick c.e = true)
    (hfirst : s.upd.writing ≠ some (.command slot)) : commitEvent slot pick start finish s = start s := by
  rw [commitEvent, if_neg hfirst]
  exact firmwareAdmin_ready hready hrx (by simp [hop, hpick])

theorem commitEvent_waits {start finish : State → State} (hrun : s.upd.writing = some (.command slot))
    (hwait : blockErased s = false) : commitEvent slot pick start finish s = s := by
  rw [commitEvent, if_pos hrun]
  split
  · rfl
  · simp [hwait]

theorem commitEvent_erased {start finish : State → State} {act : Nat} (h : CommitErased slot c act s)
    (hpick : pick c.e = true) : commitEvent slot pick start finish s = finish s := by
  obtain ⟨hrun, hc, hserving, herased, -⟩ := h
  rw [commitEvent, if_pos hrun, hc]
  simp [hpick, hserving, herased]

theorem commitErased_facts {act : Nat} (h : CommitErased slot c act s) :
    cmdAt s slot = some c ∧ commitAct c.e = act ∧ writeLegal s c.e = true := by
  obtain ⟨-, hc, -, -, hact, hlegal⟩ := h
  exact ⟨hc, hact, hlegal⟩

theorem commitStage_whole (hwhole : stageWhole s = true) :
    commitStage slot s = startWriting (.command slot) (modCmd slot (fun c => { c with phase := .running }) s) := by
  simp [commitStage, hwhole]

theorem commitStage_incomplete (hpart : stageWhole s = false) : commitStage slot s = finishErr slot scFwImage s := by
  simp [commitStage, hpart]

theorem commitStage_inService {recover : State → State} (hready : AdminReady slot c s) :
    (if s.mode.mode = .recovery then recover s else commitStage slot s) = commitStage slot s :=
  if_neg hready.notInRecovery

theorem commitWritten_good {act : Nat} {arm good : Bool} {wait : BundleFacts → Bool} {f : State → State}
    (hreads : blockReads good s = true) :
    commitWritten slot act arm good wait f s = f (commitFilled act arm (wait s.upd.stFacts) s) := by
  simp only [commitWritten, hreads]
  rfl

theorem commitWritten_bad {act : Nat} {arm good : Bool} {wait : BundleFacts → Bool} {f : State → State}
    (hreads : blockReads good s = false) :
    commitWritten slot act arm good wait f s = finishErr slot scInternal (blockWritten s.upd.stFacts false s) := by
  simp only [commitWritten, hreads]
  rfl

end

/-- A commit that began: its command runs, and every sector of the inactive block is asked to be erased. -/
def commitBegun (slot : Nat) (s : State) : State :=
  startWriting (.command slot) (modCmd slot (fun c => { c with phase := .running }) s)

theorem commitBegun_facts {slot : Nat} {c : Cmd} {s : State} (hc : cmdAt s slot = some c) :
    (commitBegun slot s).upd.writing = some (.command slot) ∧ (commitBegun slot s).upd.staged = s.upd.staged ∧
      (commitBegun slot s).upd.stFacts = s.upd.stFacts ∧
      cmdAt (commitBegun slot s) slot = some { c with phase := .running } ∧
      ErasesAsked (blockSectors (1 - activeBlock s)) (commitBegun slot s) ∧
      blockOf (commitBegun slot s) (activeBlock s) = blockOf s (activeBlock s) ∧
      (commitBegun slot s).nv.waiting = s.nv.waiting := by
  obtain ⟨hnv, hstaged, hfacts, hwriting, -, hblock, hasked⟩ :=
    startWriting_facts (.command slot) (modCmd slot (fun c => { c with phase := .running }) s)
  refine ⟨hwriting, hstaged, hfacts, ?_, hasked, hblock, (congrArg Nvme.waiting hnv).trans rfl⟩
  rw [cmdAt, commitBegun, hnv]
  exact cmdAt_modCmd (fun _ => rfl) hc

theorem blockOf_finish (slot : Nat) (st : Nat × Nat) (dw0 : Nat) (s : State) (n : Nat) :
    blockOf (finish slot st dw0 s) n = blockOf s n := by
  rw [finish_rest]
  rfl

/-- A command that ends once the block is filled. -/
theorem finish_of_blockFilled {slot : Nat} {c : Cmd} {b : SetBlock} {s t : State} (st : Nat × Nat)
    (hc : cmdAt s slot = some c) (h : BlockFilled b s t) :
    Ended slot c st 0 s (finish slot st 0 t) ∧ (finish slot st 0 t).upd.staged = [] ∧
      (finish slot st 0 t).upd.writing = none ∧ blockOf (finish slot st 0 t) (1 - activeBlock s) = b ∧
      blockOf (finish slot st 0 t) (activeBlock s) = blockOf s (activeBlock s) := by
  obtain ⟨hnv, -, -, -, hstaged, hwriting, hblock, hother⟩ := h
  refine ⟨finish_ended_of_nv st 0 hnv hc, ?_⟩
  rw [finish_rest]
  exact ⟨hstaged, hwriting, hblock, hother⟩

/-- Settles O22: a portion is `stageBytes`, a commit begins by `startWriting` and ends by `blockWritten` with the relay and
its status, and arming writes one bit of one block. -/
theorem firmwareDownloadAndCommit : Obligations.FirmwareDownloadAndCommit := by
  refine ⟨?download, ?begins, ?waits, ?write, ?arm, ?activate, ?hitless, ?bad, ?armOnly, ?incomplete, ?invalid⟩
  case download =>
    intro s slot c f hready hrx hop hfits
    have hruns : exec (.firmwareImageDownload slot f) s =
        .next (finishOk slot 0 (stageBytes (portionAt c.e) (portionLen c.e) f s)) := by
      refine congrArg Host.Outcome.next ((if_neg hready.notInRecovery).trans
        ((firmwareAdmin_ready hready hrx (by simp [hop])).trans (if_neg (by omega))))
    refine ⟨_, hruns, finish_ended_of_nv _ _ rfl hready.cmdAt_eq, ?_, fun u => ?_⟩
    · rw [finishOk, finish_rest]
      rfl
    · rw [finishOk, finish_rest]
      exact mem_stageBytes (by rw [portionLen]; omega) f s u
  case begins =>
    intro s slot c hready hrx hop hlegal hwhole hfirst
    refine ⟨commitBegun slot s, fun ok hact => ?_, fun ok hact => ?_, fun ok hact => ?_,
      commitBegun_facts hready.cmdAt_eq⟩
    all_goals
      exact congrArg Host.Outcome.next ((commitEvent_begins hready hrx hop (by simp [hact, hlegal]) hfirst).trans
        ((commitStage_inService hready).trans (commitStage_whole hwhole)))
  case waits =>
    intro s slot ok hrun hwait
    exact ⟨congrArg _ (commitEvent_waits hrun hwait), congrArg _ (commitEvent_waits hrun hwait),
      congrArg _ (commitEvent_waits hrun hwait)⟩
  case write =>
    intro s slot c h hreads
    obtain ⟨hc, hact, hlegal⟩ := commitErased_facts h
    exact ⟨_, congrArg Host.Outcome.next ((commitEvent_erased h (by simp [hact, hlegal])).trans
      (commitWritten_good hreads)), finish_of_blockFilled (0, 0) hc (commitFilled_filled 0 false false s)⟩
  case arm =>
    intro s slot c h hreads
    obtain ⟨hc, hact, hlegal⟩ := commitErased_facts h
    obtain ⟨hended, hstaged, -, hblock, hother⟩ := finish_of_blockFilled (0, 0) hc (commitFilled_filled 1 true false s)
    exact ⟨_, congrArg Host.Outcome.next ((commitEvent_erased h (by simp [hact, hlegal])).trans
      (commitWritten_good hreads)), hended, hstaged, hblock, hother⟩
  case activate =>
    intro s slot c h hreads hnot
    obtain ⟨hc, hact, hlegal⟩ := commitErased_facts h
    obtain ⟨hended, -, -, hblock, hother⟩ :=
      finish_of_blockFilled (1, 0x0B) hc (commitFilled_filled 3 true (hitlessSet s.upd.stFacts) s)
    have hruns : exec (.firmwareCommitActivate slot true) s =
        .next (finishErr slot scFwReset (commitFilled 3 true (hitlessSet s.upd.stFacts) s)) :=
      congrArg Host.Outcome.next ((commitEvent_erased h (by simp [hact, hlegal])).trans
        ((commitWritten_good hreads).trans (by rw [if_neg (by simp [hnot])])))
    exact ⟨_, hruns, hended, congrArg SetBlock.arm hblock, hother⟩
  case hitless =>
    intro s slot c h hreads hset
    obtain ⟨hc, hact, hlegal⟩ := commitErased_facts h
    obtain ⟨hnv, hlib, -, -, -, -, hblock, hother⟩ := commitFilled_filled 3 true (hitlessSet s.upd.stFacts) s
    have hcmd : cmdAt (commitFilled 3 true (hitlessSet s.upd.stFacts) s) slot = some c := by
      rw [cmdAt, hnv]
      exact hc
    obtain ⟨hcommit, hrunning, hlib', hwaiting, hblocks⟩ := activating_facts hcmd
    have hruns : exec (.firmwareCommitActivate slot true) s =
        .next (startRestart 3 (activating slot (commitFilled 3 true (hitlessSet s.upd.stFacts) s))) :=
      congrArg Host.Outcome.next ((commitEvent_erased h (by simp [hact, hlegal])).trans
        ((commitWritten_good hreads).trans (by rw [if_pos hset, activateCommit_eq])))
    exact ⟨_, hruns, hcommit, hrunning, hlib'.trans hlib, by rw [hwaiting, hnv], by rw [hblocks, hblock],
      (hblocks _).trans hother⟩
  case bad =>
    intro s slot c ok h hreads
    obtain ⟨hc, -, hlegal⟩ := commitErased_facts h
    obtain ⟨hended, hstaged, -, hblock, hother⟩ :=
      finish_of_blockFilled (0, 6) hc (blockWritten_filled s.upd.stFacts false s)
    refine ⟨finishErr slot scInternal (blockWritten s.upd.stFacts false s), fun hact => ?_, fun hact => ?_,
      fun hact => ?_, hended, hstaged, congrArg SetBlock.facts hblock, congrArg SetBlock.arm hblock, hother⟩
    all_goals
      exact congrArg Host.Outcome.next ((commitEvent_erased h (by simp [hact, hlegal])).trans (commitWritten_bad hreads))
  case armOnly =>
    intro s slot n c hready hrx hop hact hslot htarget hinactive hwritten hheader hnot
    have hactive := activeBlock_le s
    have hn : n ≤ 1 := by
      rw [htarget, commitTarget]
      split <;> omega
    have hruns : exec (.firmwareCommitArm slot) s = .next (finishOk slot 0 (armBlock n s)) := by
      refine congrArg Host.Outcome.next ((firmwareAdmin_ready hready hrx (by simp [hop, hact, hslot])).trans ?_)
      simp only [← htarget]
      rw [if_neg hinactive, if_neg (by simp [hwritten, hheader, hnot])]
    refine ⟨_, hruns, finish_ended_of_nv _ _ rfl hready.cmdAt_eq, ?_, ?_, ?_⟩
    · rw [finishOk, finish_rest]
      rfl
    · exact (blockOf_finish ..).trans (blockOf_modBlock_same n (fun b => { b with arm := true }) s)
    · exact (blockOf_finish ..).trans (blockOf_modBlock_other _ s hn hactive (Ne.symm hinactive))
  case incomplete =>
    intro s slot c ok hready hrx hop hact hlegal hpart hfirst
    refine ended_of_next hready.cmdAt_eq rfl ?_
    exact (commitEvent_begins hready hrx hop (by simp [hact, hlegal]) hfirst).trans
      ((commitStage_inService hready).trans (commitStage_incomplete hpart))
  case invalid =>
    intro s slot c hready hrx hop hact
    refine ended_of_next hready.cmdAt_eq rfl ?_
    exact (firmwareAdmin_ready hready hrx (by simp [hop, hact])).trans (by rw [if_pos hact]; rfl)

end Sys2Proof.Machine
end

section
/-! PROOFS. The chain relay and the downloads of Recovery (R425 to R430): what the sender's packets and rounds change, and
what the receiver's commit and a portion in Recovery leave of the two blocks. One packet for each RELAY_SEND is log entry
107, the commit as two events log entry 105, the refusals of Recovery log entry 106. -/

namespace Sys2Proof.Machine

/-! ## The sender (R425, R427, R430) -/

theorem fabricOn_of_serving {s : State} (h : serving s = true) : fabricOn s = true := by
  obtain ⟨hawake, hcoast, -⟩ := serving_facts h
  simp [fabricOn, hawake, hcoast]

theorem sendChunk_facts (s : State) : ∃ p r, sendChunk s = { s with pel := p, upd := { s.upd with relay := r } } ∧
    r = { s.upd.relay with sent := s.upd.relay.sent + packetBytes s.upd.relay.sent } ∧
    relayOut (sendChunk s) = relayOut s + 1 := by
  refine ⟨_, _, startRequest_rest .., rfl, ?_⟩
  obtain ⟨x, hout, -, -, howner⟩ := startRequest_out
    (mkReq (mkHdr s.upd.relay.next 0xA 0 false 0 s.upd.relay.sent streamBytes)
      (.bundle (packetBytes s.upd.relay.sent)) 0 .relay noDesc [])
    (modRelay (fun x => { x with sent := x.sent + packetBytes x.sent }) s)
  have hrelay : x.owner = .relay := howner
  rw [relayOut, sendChunk, hout, List.filter_append, List.length_append]
  simp [hrelay, relayOut, modRelay]

section
variable {s : State}

theorem exec_relaySend_stays (h : fabricOn s = false ∨ s.upd.relay.state ≠ 2 ∨ s.upd.relay.waitRound = true ∨
    streamBytes ≤ s.upd.relay.sent ∨ 64 ≤ relayOut s) : exec .relaySend s = .next s := by
  have hwindow : 64 ≤ relayOut s → (if s.upd.relay.single then 1 else 64) ≤ relayOut s := by
    split <;> omega
  refine congrArg Host.Outcome.next (if_pos ?_)
  simp only [Bool.or_eq_true, Bool.not_eq_true', bne_iff_ne, decide_eq_true_eq]
  tauto

theorem exec_relaySend_sends (hon : fabricOn s = true) (hstream : s.upd.relay.state = 2)
    (hround : s.upd.relay.waitRound = false) (hleft : s.upd.relay.sent < streamBytes)
    (hwindow : relayOut s < (if s.upd.relay.single then 1 else 64)) : exec .relaySend s = .next (sendChunk s) := by
  refine congrArg Host.Outcome.next (if_neg ?_)
  rw [hon, hstream, hround, decide_eq_false (Nat.not_le.mpr hleft), decide_eq_false (Nat.not_le.mpr hwindow)]
  decide

theorem exec_relayRoundRestart_waits (hon : fabricOn s = true) (hstream : s.upd.relay.state = 2)
    (hround : s.upd.relay.waitRound = true) : exec .relayRoundRestart s = .next (modRelay (fun r => { r with
      waitRound := false, sent := 0, bytes := 0, rounds := r.rounds + 1 }) s) :=
  congrArg Host.Outcome.next (if_neg (by simp [hon, hstream, hround]))

theorem exec_relayRoundRestart_noWait (hround : s.upd.relay.waitRound = false) : exec .relayRoundRestart s = .next s :=
  congrArg Host.Outcome.next (if_pos (by simp [hround]))

end

/-! ## The receiver (R427, R428) -/

section
variable {s : State} (hserving : serving s = true) (hlib : s.lib.state = 0) (hrx : s.upd.relay.rx = true)
  (hgot : s.upd.relay.got = streamBytes) (hwhole : stageWhole s = true)
include hserving hlib hrx hgot hwhole

theorem relayCommit_whole : ¬ (! serving s || s.lib.state != 0 || ! s.upd.relay.rx || s.upd.relay.got != streamBytes
    || ! stageWhole s) = true := by
  simp [hserving, hlib, hrx, hgot, hwhole]

theorem exec_relayCommit_begins (ok : Bool) (hfirst : s.upd.writing = none) :
    exec (.relayCommit ok) s = .next (relayBegin s) :=
  congrArg Host.Outcome.next ((if_neg (relayCommit_whole hserving hlib hrx hgot hwhole)).trans
    ((if_neg (by simp [hfirst])).trans (if_pos (by simp [hfirst]))))

theorem exec_relayCommit_ends (ok : Bool) (hrun : s.upd.writing = some .relay) (herased : blockErased s = true) :
    exec (.relayCommit ok) s = .next (relayWritten ok s) :=
  congrArg Host.Outcome.next ((if_neg (relayCommit_whole hserving hlib hrx hgot hwhole)).trans
    ((if_pos hrun).trans (if_pos herased)))

end

theorem exec_relayCommit_notWhole {s : State} (ok : Bool)
    (h : s.upd.relay.rx = false ∨ s.upd.relay.got ≠ streamBytes ∨ stageWhole s = false) :
    exec (.relayCommit ok) s = .next s := by
  refine congrArg Host.Outcome.next (if_pos ?_)
  simp only [Bool.or_eq_true, Bool.not_eq_true', bne_iff_ne]
  tauto

theorem exec_relayCommit_waits {s : State} (ok : Bool) (hrun : s.upd.writing = some .relay)
    (hwait : blockErased s = false) : exec (.relayCommit ok) s = .next s := by
  show execRelayCommit ok s = .next s
  rw [execRelayCommit]
  refine congrArg Host.Outcome.next ?_
  rw [if_pos hrun]
  split
  · rfl
  · exact if_neg (by simp [hwait])

/-- For actions 0 and 1 the stream goes on along the chain, and the erases are asked for. -/
theorem relayBegin_writeOnly {s : State} (hact : s.upd.relay.rxAction ≤ 1) : relayBegin s = startWriting .relay
    (startRelay s.upd.relay.rxOrigin s.upd.relay.rxAction s.upd.relay.rxFacts false s) := by
  rw [relayBegin, if_neg (by omega)]

/-- For actions 0 and 1 the block is filled, armed for 1 when it reads back. -/
theorem relayWritten_writeOnly {s : State} (ok : Bool) (hact : s.upd.relay.rxAction ≤ 1) :
    relayWritten ok s =
      let t := modRelay (fun x => { x with rx := false, got := 0 })
        (blockWritten s.upd.relay.rxFacts (blockReads ok s) s)
      if blockReads ok s && s.upd.relay.rxAction = 1 then armBlock (1 - activeBlock s) t else t := by
  have hnot : s.upd.relay.rxAction ≠ 3 := by omega
  have harm : (s.upd.relay.rxAction != 0) = decide (s.upd.relay.rxAction = 1) := by
    rw [Bool.eq_iff_iff, bne_iff_ne, decide_eq_true_eq]
    omega
  simp only [relayWritten, harm, hnot, decide_false, Bool.false_and, if_false, Bool.false_eq_true]
  rfl

/-- The relay received is over, and its block is filled. -/
theorem relayWritten_facts {s : State} (ok : Bool) (hact : s.upd.relay.rxAction ≤ 1) :
    BlockFilled { filledBlock s.upd.relay.rxFacts (blockReads ok s) with
        arm := blockReads ok s && s.upd.relay.rxAction = 1 } s (relayWritten ok s) ∧
      (relayWritten ok s).upd.relay.rx = false := by
  have hfilled : BlockFilled _ s (modRelay (fun x => { x with rx := false, got := 0 })
    (blockWritten s.upd.relay.rxFacts (blockReads ok s) s)) := blockWritten_filled s.upd.relay.rxFacts (blockReads ok s) s
  rw [relayWritten_writeOnly ok hact]
  cases blockReads ok s && decide (s.upd.relay.rxAction = 1) with
  | false => exact ⟨hfilled, rfl⟩
  | true =>
    refine ⟨hfilled.armed, ?_⟩
    rw [if_pos rfl, armBlock, modBlock]
    dsimp only
    split <;> rfl

/-! ## Recovery (R429) -/

/-- An admin command that the boot ROM's controller supports runs. -/
theorem runAdmin_inRecovery {slot : Nat} {c : Cmd} {s : State} {pick : SqEntry → Bool} {f : Cmd → State → State}
    (hmode : s.mode.mode = .recovery) (hc : cmdAt s slot = some c) (hq : c.qid = 0) (hphase : c.phase = .fetched)
    (hpick : pick c.e = true) (hrec : recoveryAdmin c.e = true) : runAdmin slot pick f s = f c s := by
  simp [runAdmin, hc, hq, hphase, hpick, hmode, hrec]

theorem clearSectors_keeps (l : List Nat) (s : State) :
    ((l.foldl (fun u i => clearBytes i u) s).nv, (l.foldl (fun u i => clearBytes i u) s).upd) = (s.nv, s.upd) :=
  foldl_keeps (fun t : State => (t.nv, t.upd)) (fun u i => clearBytes i u) (fun _ _ => rfl) l s

/-- An erase of a block leaves the controller and the other block. -/
theorem eraseBlock_keeps {n m : Nat} (s : State) (hn : n ≤ 1) (hm : m ≤ 1) (h : m ≠ n) :
    (eraseBlock n s).nv = s.nv ∧ blockOf (eraseBlock n s) m = blockOf s m := by
  obtain ⟨hnv, hupd⟩ := Prod.mk.injEq .. ▸ clearSectors_keeps (blockSectors n) s
  refine ⟨hnv, (blockOf_modBlock_other _ _ hn hm h).trans ?_⟩
  simp only [blockOf, hupd]

/-- The bytes of a portion are in the inactive block. -/
theorem recoveryBytes_facts (off len : Nat) (facts : BundleFacts) (s : State) :
    (recoveryBytes off len facts s).nv = s.nv ∧ (recoveryBytes off len facts s).upd.recBytes = off + len ∧
      (blockOf (recoveryBytes off len facts s) (1 - activeBlock s)).facts = facts ∧
      (blockOf (recoveryBytes off len facts s) (1 - activeBlock s)).written = true ∧
      blockOf (recoveryBytes off len facts s) (activeBlock s) = blockOf s (activeBlock s) := by
  have hactive := activeBlock_le s
  have herased : ∀ t, t = (if off = 0 then eraseBlock (1 - activeBlock s) s else s) →
      t.nv = s.nv ∧ blockOf t (activeBlock s) = blockOf s (activeBlock s) := by
    rintro t rfl
    split
    · exact eraseBlock_keeps s (by omega) hactive (by omega)
    · exact ⟨rfl, rfl⟩
  unfold recoveryBytes
  dsimp only
  generalize ht : (if off = 0 then eraseBlock (1 - activeBlock s) s else s) = t
  obtain ⟨hnv, hother⟩ := herased t ht.symm
  refine ⟨hnv, ?_, ?_, ?_, (blockOf_modBlock_other _ _ (by omega) hactive (by omega)).trans hother⟩
  · rw [modBlock]
    dsimp only
    split <;> rfl
  · rw [blockOf_modBlock_same]
  · rw [blockOf_modBlock_same]

/-- Settles O55: the sender's packet is `sendChunk`, a received stream is committed by `startWriting` and `blockWritten`,
and a portion in Recovery is `recoveryBytes`. -/
theorem relaysAndRecoveryDownloads : Obligations.RelaysAndRecoveryDownloads := by
  refine ⟨?stays, ?sends, ?restart, ?noRestart, ?recovering, ?notRecovering, ?begins, ?ends, ?waits, ?notWhole,
    ?portion, ?refused, ?outside⟩
  case stays =>
    intro s h
    exact exec_relaySend_stays h
  case sends =>
    intro s hon hstream hround hleft hwindow
    obtain ⟨p, r, hrest, hr, hout⟩ := sendChunk_facts s
    exact ⟨_, exec_relaySend_sends hon hstream hround hleft hwindow, by rw [hrest], by rw [hrest, hr], hout⟩
  case restart =>
    intro s hon hstream hround
    exact exec_relayRoundRestart_waits hon hstream hround
  case noRestart =>
    intro s hround
    exact exec_relayRoundRestart_noWait hround
  case recovering =>
    intro s p hserving hassigned hidle hrecovers
    have hon := fabricOn_of_serving hserving
    exact ⟨_, congrArg Host.Outcome.next (if_neg (by simp [hon, hserving, hassigned, hidle, hrecovers])), rfl, rfl, rfl,
      rfl, rfl, rfl, rfl⟩
  case notRecovering =>
    intro s p hnot
    exact congrArg Host.Outcome.next (if_pos (by simp [hnot]))
  case begins =>
    intro s hserving hlib hrx hgot hwhole hact hfirst
    obtain ⟨p, r, hsends, hr⟩ :=
      startRelay_sends s.upd.relay.rxOrigin s.upd.relay.rxAction s.upd.relay.rxFacts false s
    obtain ⟨-, hstaged, -, hwriting, hrelay, hblock, hasked⟩ := startWriting_facts .relay
      (startRelay s.upd.relay.rxOrigin s.upd.relay.rxAction s.upd.relay.rxFacts false s)
    refine ⟨relayBegin s, fun ok => exec_relayCommit_begins hserving hlib hrx hgot hwhole ok hfirst, ?_⟩
    rw [relayBegin_writeOnly hact]
    rw [hsends] at hstaged hwriting hrelay hblock hasked ⊢
    exact ⟨hwriting, hstaged, by rw [hrelay]; exact hr.trans hrx, hasked, hblock⟩
  case ends =>
    intro s ok hserving hlib hrx hgot hwhole hact hrun herased
    obtain ⟨⟨-, hlib', hwr, hcat, hstaged, hwriting, hblock, hother⟩, hover⟩ := relayWritten_facts ok hact
    exact ⟨_, exec_relayCommit_ends hserving hlib hrx hgot hwhole ok hrun herased, hover, hstaged, hwriting, hblock, hother,
      hlib', hwr, hcat⟩
  case waits =>
    intro s ok hrun hwait
    exact exec_relayCommit_waits ok hrun hwait
  case notWhole =>
    intro s ok h
    exact exec_relayCommit_notWhole ok h
  case portion =>
    intro s slot c f hmode hc hq hphase hop horder hfits
    obtain ⟨hnv, hbytes, hfacts, hwritten, hother⟩ := recoveryBytes_facts (portionAt c.e) (portionLen c.e) f s
    have hruns : exec (.recoveryFirmwareDownload slot f) s =
        .next (finishOk slot 0 (recoveryBytes (portionAt c.e) (portionLen c.e) f s)) := by
      refine congrArg Host.Outcome.next ((if_neg (by simp [hmode])).trans
        ((runAdmin_inRecovery hmode hc hq hphase (by simp [hop]) (by simp [recoveryAdmin, hop])).trans (if_neg ?_)))
      simp [horder]
      omega
    refine ⟨_, hruns, finish_ended_of_nv _ _ hnv hc, ?_, ?_, ?_, ?_⟩
    · rw [finishOk, finish_rest]
      exact hbytes
    · exact (congrArg SetBlock.facts (blockOf_finish ..)).trans hfacts
    · exact (congrArg SetBlock.written (blockOf_finish ..)).trans hwritten
    · exact (blockOf_finish ..).trans hother
  case refused =>
    intro s slot c f hmode hc hq hphase hop h
    have hruns : exec (.recoveryFirmwareDownload slot f) s = .next (finishErr slot scField s) := by
      refine congrArg Host.Outcome.next ((if_neg (by simp [hmode])).trans
        ((runAdmin_inRecovery hmode hc hq hphase (by simp [hop]) (by simp [recoveryAdmin, hop])).trans (if_pos ?_)))
      simpa using h
    refine ⟨_, hruns, finish_ended _ _ hc, ?_, ?_⟩
    · rw [finishErr, finish_rest]
    · rw [finishErr, finish_rest]
  case outside =>
    intro s slot f hmode
    exact congrArg Host.Outcome.next (if_pos (by simp [hmode]))

end Sys2Proof.Machine
end

section
/-! PROOFS. The ports of the Peloton: training, the HELLO, the loss of a link (R271 to R275). -/

namespace Sys2Proof.Machine

theorem modAt_length {α : Type} (n : Nat) (f : α → α) (l : List α) : (modAt n f l).length = l.length := by
  induction l generalizing n with
  | nil => cases n <;> rfl
  | cons x l ih => cases n <;> simp [modAt, ih]

theorem portAt_congr {s t : State} (h : t.pel.ports = s.pel.ports) (p : Nat) : portAt t p = portAt s p := by
  simp [portAt, h]

theorem portAt_modPort_same {s : State} {p : Nat} (hp : p < s.pel.ports.length) (f : Port → Port) :
    portAt (modPort p f s) p = f (portAt s p) := by
  simp [portAt, modPort, List.getD_eq_getElem?_getD, modAt_getElem, hp]

theorem portAt_modPort_other {p q : Nat} (hq : q ≠ p) (f : Port → Port) (s : State) :
    portAt (modPort p f s) q = portAt s q := by
  simp [portAt, modPort, List.getD_eq_getElem?_getD, modAt_getElem, hq]

theorem modPort_ports_length (p : Nat) (f : Port → Port) (s : State) :
    (modPort p f s).pel.ports.length = s.pel.ports.length := by
  simp [modPort, modAt_length]

/-- Ports changed one after the other on the same place: the last change reads the one before. -/
theorem portAt_modPort_modPort {s t : State} {p : Nat} {f : Port → Port} (g : Port → Port)
    (hp : p < s.pel.ports.length) (ht : t.pel.ports = modAt p f s.pel.ports) :
    portAt (modPort p g t) p = g (f (portAt s p)) := by
  rw [portAt_congr (s := modPort p g (modPort p f s)) (by simp only [modPort, ht]),
    portAt_modPort_same ((modPort_ports_length ..).symm ▸ hp), portAt_modPort_same hp]

/-! ## A link that is lost (R272, R280) -/

/-- The port whose link is lost. -/
def lostPort (x : Port) : Port :=
  { x with
    state := 0, width := 0, member := 0, serial := 0, rate := 0, fence := 0, attempt := 0, retryWait := false,
    txSeq := 0, replay := [], rxSeq := 0, nakOut := false, inRow := 0, credits := [64, 64, 64, 64, 64] }

/-- A Member port that loses its link takes its routes to their alternates and counts a failover. -/
theorem loseLink_member {s : State} {p : Nat} (h : (portAt s p).state = 3) :
    loseLink p s = { s with pel := { s.pel with
      ports := modAt p lostPort s.pel.ports
      routes := s.pel.routes.map fun e => (e.1, failoverEntry p e.2)
      failover := sat32 (s.pel.failover + 1)
      send := (loseLink p s).pel.send
      egress := (loseLink p s).pel.egress
      unroute := (loseLink p s).pel.unroute } } := by
  unfold loseLink
  rw [if_neg (by omega)]
  simp only [h, bne_self_eq_false, Bool.false_eq_true, if_false]
  rfl

/-! ## PARTNER_ALIVE (R271, R272) -/

theorem exec_partnerAliveRise_down {s : State} {p : Nat} (hawake : awake s = true) (hp : p < 4)
    (htx : (portAt s p).aliveTx = true) (hdown : (portAt s p).state = 0) :
    exec (.partnerAliveRise p) s = .next
      (startTraining p (gatePort p (! portUsed s p) (modPort p (fun x => { x with partner := true }) s))) :=
  congrArg Host.Outcome.next ((if_neg (by simp [hawake, hp])).trans (if_pos (by simp [htx, hdown])))

/-- PARTNER_ALIVE_LOW as the port's gate sees it, before the time of the low is judged. -/
def partnerLow (p : Nat) (s : State) : State :=
  gatePort p true (modPort p (fun x => { x with partner := false }) s)

theorem exec_partnerAliveLow_short {s : State} {p ns : Nat} (hawake : awake s = true) (hp : p < 4) (hns : ns < 500) :
    exec (.partnerAliveLow p ns) s = .next (partnerLow p s) :=
  congrArg Host.Outcome.next ((if_neg (by simp [hawake, hp])).trans (if_pos hns))

theorem exec_partnerAliveLow_long {s : State} {p ns : Nat} (hawake : awake s = true) (hp : p < 4) (hns : 500 ≤ ns) :
    exec (.partnerAliveLow p ns) s = .next (modPort p (fun x => { x with masked := true })
      (loseLink p (dropPartial p (partnerLow p s)))) :=
  congrArg Host.Outcome.next ((if_neg (by simp [hawake, hp])).trans (if_neg (by omega)))

/-! ## Training and HELLO (R271, R273, R274) -/

theorem exec_portFecLock_tried {s : State} {p w : Nat} (hawake : awake s = true) (htrain : (portAt s p).state = 1)
    (hwait : (portAt s p).retryWait = false) (hw : w = attemptWidth (portAt s p).attempt)
    (hlevel : (portAt s p).level1 = false) :
    exec (.portFecLock p w) s = .next
      (sendControl p 0x1 0 (256 * p + if (portAt s p).level1 then 1 else 2) 0 (ownBody s 0)
        (modPort p (fun x => { x with state := 2, width := w, rate := if x.level1 then 0x38 else 0x70 }) s)) :=
  congrArg Host.Outcome.next (if_neg (by simp [hawake, htrain, hwait, hw, hlevel]))

theorem exec_failedTrainingAttempt_training {s : State} {p : Nat} (hawake : awake s = true)
    (htrain : (portAt s p).state = 1) (hwait : (portAt s p).retryWait = false) :
    exec (.failedTrainingAttempt p) s = .next (modPort p
      (if (portAt s p).attempt = 2 ∨ (portAt s p).level1 = true
        then fun x => { x with retryWait := true } else fun x => { x with attempt := x.attempt + 1 })
      (record 0x0501 [(1, p), (1, 0), (1, 0), (8, 0)] s)) := by
  refine congrArg Host.Outcome.next ((if_neg (by simp [hawake, htrain, hwait])).trans ?_)
  by_cases hlast : (portAt s p).attempt = 2 ∨ (portAt s p).level1 = true
  · rw [if_pos hlast]
    exact if_pos (by simpa using hlast)
  · rw [if_neg hlast]
    exact if_neg (by simpa using hlast)

theorem record_ports (event : Nat) (payload : List (Nat × Nat)) (s : State) :
    (record event payload s).pel = s.pel := by
  rw [record_rest]

theorem exec_hello_taken {s : State} {h : PacketHdr} {b : PulseBody} {l a : Bool} (hawake : awake s = true)
    (hlink : (portAt s h.port).state = 2) (hok : helloRefusal s h.port b l a = 0) :
    exec (.hello h b l a) s = .next (modPort h.port (fun x => { x with
      state := 3, masked := false, member := b.member, serial := b.serial })
      { s with pel := { s.pel with recSent := s.pel.recSent.filter fun p => p != h.port } }) := by
  refine congrArg Host.Outcome.next ((if_neg (by simp [hawake, hlink])).trans ?_)
  rw [hok]
  rfl

theorem exec_hello_fenced {s : State} {h : PacketHdr} {b : PulseBody} {l a : Bool} (hawake : awake s = true)
    (hlink : (portAt s h.port).state = 2) (hbad : helloRefusal s h.port b l a ≠ 0) :
    exec (.hello h b l a) s = .next (fencePort h.port (helloRefusal s h.port b l a) b.serial s) := by
  refine congrArg Host.Outcome.next ((if_neg (by simp [hawake, hlink])).trans ?_)
  split
  · exact absurd ‹_› hbad
  · rfl

/-- Settles O45: what each port event answers, read at the port and at the routes. -/
theorem portsTrainFenceAndFail : Obligations.PortsTrainFenceAndFail := by
  refine ⟨?rise, ?shortLow, ?longLow, ?fecLock, ?otherWidth, ?failed, ?retry, ?hello, ?fence, ?loss, ?noLink⟩
  case rise =>
    intro s p hawake hp hlen htx hdown
    have hin : p < s.pel.ports.length := hlen ▸ hp
    refine ⟨_, exec_partnerAliveRise_down hawake hp htx hdown, ?_⟩
    have hport := portAt_modPort_modPort (s := s) (f := fun x => { x with partner := true })
      (t := gatePort p (! portUsed s p) (modPort p (fun x => { x with partner := true }) s))
      (fun x => { x with
        state := 1, attempt := 0, retryWait := false, fence := 0, level1 := portLevel1 s p
        credits := [64, 64, 64, 64, 64] }) hin rfl
    refine ⟨congrArg Port.partner hport, congrArg Port.state hport, congrArg Port.attempt hport, fun q hq => ?_, rfl⟩
    exact (portAt_modPort_other hq _ _).trans (portAt_modPort_other hq _ s)
  case shortLow =>
    intro s p ns hawake hp hlen hns
    exact ⟨_, exec_partnerAliveLow_short hawake hp hns, portAt_modPort_same (hlen ▸ hp) _,
      by simp [partnerLow, gatePort], rfl⟩
  case longLow =>
    intro s p ns hawake hp hlen hns hmember
    have hin : p < s.pel.ports.length := hlen ▸ hp
    have hport : portAt (dropPartial p (partnerLow p s)) p = { portAt s p with partner := false } :=
      portAt_modPort_same hin _
    have hlost := loseLink_member (s := dropPartial p (partnerLow p s)) (p := p) (by rw [hport]; exact hmember)
    refine ⟨_, exec_partnerAliveLow_long hawake hp hns, ?_⟩
    have hmask := portAt_modPort_modPort (s := dropPartial p (partnerLow p s)) (f := lostPort) (p := p)
      (t := loseLink p (dropPartial p (partnerLow p s))) (fun x => { x with masked := true })
      ((modPort_ports_length p (fun x => { x with partner := false }) s).symm ▸ hin) (by rw [hlost])
    exact ⟨congrArg Port.masked hmask, congrArg Port.state hmask, by rw [modPort_pel, hlost]; rfl⟩
  case fecLock =>
    intro s p w hawake hp hlen htrain hwait hw hlevel
    refine ⟨_, exec_portFecLock_tried hawake htrain hwait hw hlevel, ?_, ?_⟩
    · refine (portAt_modPort_same (hlen ▸ hp) _).trans ?_
      simp [hlevel]
    · exact ⟨_, List.getLast?_concat, rfl, rfl⟩
  case otherWidth =>
    intro s p w hother
    exact congrArg Host.Outcome.next (if_pos (by rcases hother with h | h <;> simp [h]))
  case failed =>
    intro s p hawake hp hlen htrain hwait
    refine ⟨_, exec_failedTrainingAttempt_training hawake htrain hwait, ?_⟩
    rw [portAt_modPort_same (by rw [record_ports]; omega), portAt_congr (t := record _ _ s) (s := s) (by rw [record_ports])]
    split <;> rfl
  case retry =>
    intro s p hawake hp hlen htrain hwait
    have hport : portAt (startTraining p s) p = _ := portAt_modPort_same (hlen ▸ hp) _
    exact ⟨_, congrArg Host.Outcome.next (if_pos (by simp [hawake, htrain, hwait])), congrArg Port.attempt hport,
      congrArg Port.retryWait hport, congrArg Port.state hport, rfl⟩
  case hello =>
    intro s h b l a hawake hp hlen hlink hok
    exact ⟨_, exec_hello_taken hawake hlink hok, portAt_modPort_same (hlen ▸ hp) _, rfl⟩
  case fence =>
    intro s h b l a hawake hp hlen hlink hbad
    refine ⟨_, exec_hello_fenced hawake hlink hbad, ?_⟩
    unfold fencePort
    exact (portAt_congr (congrArg Peloton.ports (record_ports _ _ _)) _).trans (portAt_modPort_same (hlen ▸ hp) _)
  case loss =>
    intro s p hawake hp hlen hmember
    have hlost := loseLink_member hmember
    have hport : portAt (loseLink p s) p = lostPort (portAt s p) := by
      rw [portAt_congr (t := loseLink p s) (s := modPort p lostPort s) (by rw [hlost]; rfl)]
      exact portAt_modPort_same (hlen ▸ hp) _
    refine ⟨_, congrArg Host.Outcome.next (if_pos hawake), ?_⟩
    exact ⟨congrArg Port.state hport, congrArg Port.replay hport, by rw [hlost], by rw [hlost]⟩
  case noLink =>
    intro s p hdown
    change Host.Outcome.next (if awake s then loseLink p s else s) = _
    rw [loseLink, if_pos hdown, ite_self]

end Sys2Proof.Machine
end

section
/-! PROOFS. Flits and packets are taken once (R268, R270, R281 to R283). -/

namespace Sys2Proof.Machine

/-- A linked port whose flits are not masked judges each flit by its check and its number. -/
theorem exec_flitReceive_linked {s : State} {p : Nat} {f : FlitIn} (hon : fabricOn s = true) (hp : p < 4)
    (hlink : 2 ≤ (portAt s p).state) (hopen : (portAt s p).masked = false) :
    exec (.flitReceive p f) s = .next
      (if f.fcrcOk && f.fseq = ((portAt s p).rxSeq + 1) % 4096 then goodFlit p f s
        else grantSlot p (modPort p (fun x => { x with nakOut := true }) s)) :=
  congrArg Host.Outcome.next (if_neg (by simp [hon, hp, hopen]; omega))

theorem accept_duplicate {s : State} {t : Nat} {h : PacketHdr} (hon : fabricOn s = true) (htype : h.ptype = t)
    (hdst : h.dst = s.pel.self) (hassigned : s.pel.assigned = true) (hmode : s.mode.mode ≠ .recovery) (ht : t ≠ 0xA)
    (hmember : portMember s h.port = true) (hdup : duplicate s h = true) :
    accept t h s = (false, { s with pel := { s.pel with dups := sat32 (s.pel.dups + 1) } }) := by
  simp [accept, hon, htype, hdst, hassigned, hmode, ht, hmember, hdup]

theorem accept_misdirected {s : State} {t : Nat} {h : PacketHdr} (hdst : h.dst ≠ s.pel.self) :
    accept t h s = (false, s) := by
  simp [accept, hdst]

theorem onPacket_discarded {s u : State} {t : Nat} {h : PacketHdr} {f : State → State}
    (haccept : accept t h s = (false, u)) : onPacket t h f s = u := by
  simp [onPacket, haccept]

theorem onPacket_accepted {s u : State} {t : Nat} {h : PacketHdr} {f : State → State}
    (haccept : accept t h s = (true, u)) : onPacket t h f s = f (leaveIdle u) := by
  simp [onPacket, haccept]

/-- Settles O47: each check of a flit or packet as its own condition reads. -/
theorem flitsAndPacketsAreTakenOnce : Obligations.FlitsAndPacketsAreTakenOnce := by
  refine ⟨?badFlit, ?goodFlit, ?noLinkFlit, ?nak, ?noLinkNak, ?badCrc, ?reserved, ?duplicate, ?misdirected⟩
  case badFlit =>
    intro s p f hon hp hlink hopen hbad
    refine (exec_flitReceive_linked hon hp hlink hopen).trans (congrArg _ (if_neg ?_))
    rcases hbad with hbad | hbad <;> simp [hbad]
  case goodFlit =>
    intro s p f hon hp hlink hopen hok hseq
    exact (exec_flitReceive_linked hon hp hlink hopen).trans (congrArg _ (if_pos (by simp [hok, hseq])))
  case noLinkFlit =>
    intro s p f hdown
    exact congrArg Host.Outcome.next (if_pos (by simp [hdown]))
  case nak =>
    intro s p a hon hlink
    exact congrArg Host.Outcome.next (if_pos (by simp [hon, hlink]))
  case noLinkNak =>
    intro s p a hdown
    exact congrArg Host.Outcome.next (if_neg (by simp [hdown]))
  case badCrc =>
    intro s p hon hp hlen
    refine ⟨_, congrArg Host.Outcome.next (if_neg (by simp [hon, hp])), ?_, ?_, rfl, rfl⟩
    · exact portAt_modPort_same (hlen ▸ hp) _
    · exact fun q hq => portAt_modPort_other hq _ s
  case reserved =>
    intro s h hon hbad
    refine congrArg Host.Outcome.next ((if_neg (by simp [hon])).trans (if_pos ?_))
    rcases hbad with hbad | hbad | hbad <;> simp [hbad]
  case duplicate =>
    intro s h d hon htype hdst hassigned hmode hport hmember hdup
    exact congrArg Host.Outcome.next
      (onPacket_discarded (accept_duplicate hon htype hdst hassigned hmode (by decide) hmember hdup))
  case misdirected =>
    intro s h d hdst
    exact congrArg Host.Outcome.next (onPacket_discarded (accept_misdirected hdst))

end Sys2Proof.Machine
end

section
/-! PROOFS. Numbers, PULSEs and routes (R275 to R279). -/

namespace Sys2Proof.Machine

/-! ## PULSE_SEND (R277) -/

/-- Control flits sent on the ports of a list: one packet each, and the ports as they were. -/
theorem foldl_sendControl (ptype num arg0 arg1 : Nat) (b : PulseBody) (l : List Nat) (s : State) :
    ∃ n q, l.foldl (fun t p => sendControl p ptype num arg0 arg1 b t) s =
      { s with pel := { s.pel with nextPkt := n, send := q } } ∧ q.length = s.pel.send.length + l.length := by
  induction l generalizing s with
  | nil => exact ⟨_, _, rfl, rfl⟩
  | cons p l ih =>
    obtain ⟨n, q, hfold, hlen⟩ := ih (sendControl p ptype num arg0 arg1 b s)
    refine ⟨n, q, hfold, hlen.trans ?_⟩
    simp only [sendControl, enqueue, List.length_append, List.length_cons, List.length_nil]
    omega

theorem exec_pulseSend_on {s : State} (hon : fabricOn s = true) :
    exec .pulseSend s = .next
      (([0, 1, 2, 3].filter fun p => (portAt s p).state = 3 || (portAt s p).state = 4).foldl
        (fun t p => sendControl p 0x2 (s.pel.pulseNum + 1) 0 0 (ownBody s (s.pel.pulseNum + 1)) t)
        { s with pel := { s.pel with pulseNum := s.pel.pulseNum + 1 } }) :=
  congrArg Host.Outcome.next (if_neg (by simp [hon]))

/-! ## The mode settled (R188) -/

theorem setMode_pel (m : Mode) (s : State) : (setMode m s).pel = s.pel := by
  unfold setMode
  split
  · rfl
  · dsimp only
    rw [record_rest]
    rfl

theorem setMode_idle {s : State} (m : Mode) (h : s.mode.idle = false) : (setMode m s).mode.idle = false := by
  unfold setMode
  split
  · exact h
  · dsimp only
    rw [record_rest]
    rfl

theorem settleDegraded_pel (s : State) : (settleDegraded s).pel = s.pel := by
  unfold settleDegraded
  dsimp only
  repeat' split
  all_goals first | rfl | exact setMode_pel _ _

theorem settleDegraded_idle {s : State} (h : s.mode.idle = false) : (settleDegraded s).mode.idle = false := by
  unfold settleDegraded
  dsimp only
  repeat' split
  all_goals first | exact h | exact setMode_idle _ h

theorem settleAna_noEchelon {s : State} (h : s.ech.ech = []) : settleAna s = s := by
  simp [settleAna, h]

theorem takeBack_noEchelon {s : State} (m : Nat) (h : s.ech.ech = []) : takeBack m s = s := by
  simp [takeBack, h]

/-! ## PULSE (R275, R277) -/

/-- What the router's part of a PULSE leaves after the link state has taken it. -/
def linkView (s : State) : Echelons × List Seen × ModeSt := (s.ech, s.pel.seen, s.mode)

theorem linkView_record (event : Nat) (payload : List (Nat × Nat)) (s : State) :
    linkView (record event payload s) = linkView s := by
  unfold linkView
  rw [record_rest]

theorem linkView_fenceDuplicates (s : State) : linkView (fenceDuplicates s) = linkView s := by
  unfold fenceDuplicates
  refine foldl_keeps linkView _ (fun t p => ?_) _ s
  exact linkView_record ..

theorem linkView_flood (h : PacketHdr) (b : PulseBody) (s : State) : linkView (flood h b s) = linkView s := by
  unfold flood
  refine foldl_keeps linkView _ (fun t p => ?_) _ s
  rfl

theorem linkView_recordMismatch (b : PulseBody) (before : Option Seen) (s : State) :
    linkView (recordMismatch b before s) = linkView s := by
  unfold recordMismatch
  split
  · rfl
  · exact foldl_keeps linkView _ (fun _ _ => linkView_record _ _ _) _ s

theorem linkView_pulseIn {s : State} {h : PacketHdr} {b : PulseBody} (hon : fabricOn s = true)
    (hfresh : freshPulse s b = true) (hport : (portAt s h.port).state = 3) :
    linkView (pulseIn h b s) = linkView (takePulse b s) := by
  unfold pulseIn
  rw [if_neg (by simp [hon, hfresh, hport]), if_pos hport]
  exact (linkView_flood ..).trans (linkView_fenceDuplicates _)

/-- The link state holds what the PULSE shows. -/
theorem takePulse_seen (b : PulseBody) (s : State) : ∃ x, x ∈ (takePulse b s).pel.seen ∧ x.serial = b.serial ∧
    x.pulseNum = b.pulseNum ∧ x.member = b.member ∧ x.assigned = b.assigned ∧ x.digest = b.digest :=
  ⟨_, (mem_insertBy ..).mpr (.inl rfl), rfl, rfl, rfl, rfl, rfl⟩

theorem exec_pulse_stale {s : State} {h : PacketHdr} {b : PulseBody} (hstale : freshPulse s b = false) :
    exec (.pulse h b) s = .next s :=
  congrArg Host.Outcome.next (if_pos (by simp [hstale]))

/-- Without an echelon a fresh PULSE is the router's part alone, and the mode is settled. -/
theorem exec_pulse_noEchelon {s u : State} {h : PacketHdr} {b : PulseBody} (hon : fabricOn s = true)
    (hfresh : freshPulse s b = true)
    (hu : recordMismatch b (seenAt s b.serial) (pulseIn h b (leaveIdle s)) = u) (hech : u.ech.ech = []) :
    exec (.pulse h b) s = .next (settleDegraded u) := by
  refine congrArg Host.Outcome.next ((if_neg (by simp [hon, hfresh])).trans ?_)
  dsimp only
  rw [hu, hech, List.foldl_nil, takeBack_noEchelon _ hech, ite_self, settleAna_noEchelon hech]

/-! ## PULSE_TIMEOUT (R277) -/

/-- A member of no echelon that is not seen any more leaves the link state with its locks. -/
theorem exec_pulseTimeout_noEchelon {s : State} {serial : Nat} {x : Seen} (hon : fabricOn s = true)
    (hseen : seenAt s serial = some x) (hassigned : x.assigned = true) (hech : s.ech.ech = []) :
    exec (.pulseTimeout serial) s = .next (settleDegraded (freeLocksOf x.member
      { s with pel := { s.pel with seen := s.pel.seen.filter fun y => y.serial != serial } })) := by
  change execPulseTimeout serial s = _
  have hech' : (freeLocksOf x.member { s with pel := { s.pel with
      seen := s.pel.seen.filter fun y => y.serial != serial } }).ech.ech = [] := hech
  simp only [execPulseTimeout, hseen, hon, hassigned, Bool.not_true, Bool.false_eq_true, if_false]
  rw [hech', List.foldl_nil, takeBack_noEchelon _ hech', settleAna_noEchelon hech']

/-! ## Numbers (R276) -/

theorem storeRt_rest (key value : Nat) (s : State) :
    ∃ f r, storeRt key value s = { s with fol := f, cdx := { s.cdx with requests := r } } := by
  unfold storeRt
  split
  · exact ⟨_, _, rfl⟩
  · split
    · obtain ⟨f, r, hrot⟩ := rtRotate_rest s
      rw [hrot]
      exact ⟨_, _, rfl⟩
    · exact ⟨_, _, rfl⟩

theorem takeNumber_pel (n : Nat) (s : State) :
    (takeNumber n s).pel = { s.pel with assigned := true, self := n } := by
  obtain ⟨f, r, hstore⟩ := storeRt_rest 0x20000 n { s with pel := { s.pel with assigned := true, self := n } }
  rw [takeNumber, hstore]

theorem exec_helloAssign_own {s : State} {h : PacketHdr} {b : PulseBody} {n : Nat} (hon : fabricOn s = true)
    (hauto : autoNumbering s = true) (hport : (portAt s h.port).state = 3) (hnew : s.pel.assigned = false) :
    exec (.helloAssign h b n s.cdx.serial) s = .next (takeNumber n s) :=
  congrArg Host.Outcome.next ((if_neg (by simp [hon, hauto, hport])).trans
    ((if_pos rfl).trans (if_neg (by simp [hnew]))))

/-- Settles O46: the link state as each event of PULSE, numbering and routing leaves it. -/
theorem numbersPulsesAndRoutes : Obligations.NumbersPulsesAndRoutes := by
  refine ⟨?send, ?stale, ?fresh, ?timeout, ?unknown, ?number, ?static, ?captain, ?notCaptain, ?routes, ?noLibrarian⟩
  case send =>
    intro s hon
    obtain ⟨n, q, hfold, hlen⟩ := foldl_sendControl 0x2 (s.pel.pulseNum + 1) 0 0 (ownBody s (s.pel.pulseNum + 1))
      ([0, 1, 2, 3].filter fun p => (portAt s p).state = 3 || (portAt s p).state = 4)
      { s with pel := { s.pel with pulseNum := s.pel.pulseNum + 1 } }
    exact ⟨_, (exec_pulseSend_on hon).trans (congrArg _ hfold), rfl, rfl, hlen⟩
  case stale => exact fun s h b hstale => exec_pulse_stale hstale
  case fresh =>
    intro s h b hon hfresh hech hport
    obtain ⟨u, hu⟩ : ∃ u, recordMismatch b (seenAt s b.serial) (pulseIn h b (leaveIdle s)) = u := ⟨_, rfl⟩
    have hview : linkView u = linkView (takePulse b (leaveIdle s)) := by
      rw [← hu, linkView_recordMismatch]
      exact linkView_pulseIn hon hfresh hport
    simp only [linkView, Prod.mk.injEq] at hview
    obtain ⟨huech, huseen, humode⟩ := hview
    obtain ⟨x, hx, hserial, hnum, hmember, hassigned, hdigest⟩ := takePulse_seen b (leaveIdle s)
    refine ⟨_, x, exec_pulse_noEchelon hon hfresh hu (huech ▸ hech), ?_, hserial, hnum, hmember, hassigned, hdigest,
      settleDegraded_idle (humode ▸ rfl)⟩
    rw [settleDegraded_pel, huseen]
    exact hx
  case timeout =>
    intro s serial x hon hseen hassigned hech
    refine ⟨_, exec_pulseTimeout_noEchelon hon hseen hassigned hech, ?_, ?_⟩
    · rw [seenAt, settleDegraded_pel, List.find?_eq_none]
      intro y hy
      simpa [freeLocksOf] using (List.mem_filter.mp hy).2
    · rw [settleDegraded_pel]
      rfl
  case unknown =>
    intro s serial hseen
    change execPulseTimeout serial s = _
    simp [execPulseTimeout, hseen]
  case number =>
    intro s h b n hon hauto hport hnew
    exact ⟨_, exec_helloAssign_own hon hauto hport hnew, by rw [takeNumber_pel], by rw [takeNumber_pel]⟩
  case static =>
    exact fun s h b n serial hauto => congrArg Host.Outcome.next (if_pos (by simp [hauto]))
  case captain =>
    intro s hon hlib hlowest hauto
    refine congrArg Host.Outcome.next ((if_neg ?_).trans (if_pos (by simpa [autoNumbering, fld] using hauto)))
    simpa [hon, hlib] using hlowest
  case notCaptain =>
    intro s x hx hlower
    refine congrArg Host.Outcome.next (if_pos ?_)
    have hany : s.pel.seen.any (fun x => decide (x.serial < s.cdx.serial)) = true :=
      List.any_eq_true.mpr ⟨x, hx, by simpa using hlower⟩
    simp [hany]
  case routes =>
    exact fun s prefer hon hlib => congrArg Host.Outcome.next (if_neg (by simp [hon, hlib]))
  case noLibrarian =>
    exact fun s prefer hlib => congrArg Host.Outcome.next (if_pos (by simp [hlib]))

end Sys2Proof.Machine
end

section
/-! PROOFS. What an accepted packet of each type does to its transaction, its request or its stripe lock (R284 to R287,
R292, R305, R306, R313, R427). -/

namespace Sys2Proof.Machine

/-- The fields of the router that the sending of a packet writes. -/
theorem sendPacket_queues (h : PacketHdr) (b : PktBody) (s : State) : ∃ seqs n q l, sendPacket h b s =
    { s with pel := { s.pel with txSeq := seqs, nextPkt := n, send := q, unroute := l } } := by
  unfold sendPacket
  dsimp only
  split
  · exact ⟨_, _, _, _, rfl⟩
  · exact ⟨_, _, _, _, rfl⟩

theorem accept_taken {s u : State} {t : Nat} {h : PacketHdr} (haccept : accept t h s = (true, u)) :
    u = windowTake h s := by
  unfold accept at haccept
  repeat' split at haccept
  all_goals simp_all

theorem txnAt_modTxn {s : State} {h : PacketHdr} {x : InTxn} {f : InTxn → InTxn}
    (hf : ∀ y, (f y).src = y.src ∧ (f y).tag = y.tag) (hx : txnAt s h = some x) : txnAt (modTxn h f s) h = some (f x) := by
  have hfind := find?_modWhere (fun t => decide (t.src = h.src) && decide (t.tag = h.tag)) f
    (fun t => decide (t.src = h.src) && decide (t.tag = h.tag)) s.pel.txns (fun y => by split <;> simp [hf y])
  refine hfind.trans ?_
  rw [show s.pel.txns.find? _ = some x from hx, Option.map_some, if_pos (by simpa using txnAt_header hx)]

theorem clearIntents_none {s : State} (pick : IntentRec → Bool) (h : s.ech.intents = []) : clearIntents pick s = s := by
  simp [clearIntents, h]

/-! ## GO, DATA, DONE (R285) -/

theorem exec_go_accepted {s u : State} {h : PacketHdr} (haccept : accept 4 h s = (true, u)) :
    exec (.go h) s = .next (goIn h (leaveIdle u)) :=
  congrArg Host.Outcome.next (onPacket_accepted haccept)

theorem goIn_stale {s : State} {h : PacketHdr} (hr : requestOf s h = none) : goIn h s = countStale s := by
  simp [goIn, hr]

theorem goIn_noPayload {s : State} {h : PacketHdr} {r : OutReq} (hr : requestOf s h = some r) (htype : r.hdr.ptype ≠ 7)
    (hpayload : r.payload = []) : goIn h s = s := by
  simp [goIn, hr, htype, hpayload]

theorem dataIn_ofTxn {s : State} {h : PacketHdr} {x : InTxn} {sectors : List Nat} (hr : requestOf s h = none)
    (hx : txnAt s h = some x) :
    dataIn h sectors s = modTxn h (fun t => { t with data := mapSet (h.arg0 / 4096) sectors t.data }) s := by
  simp [dataIn, hr, hx]

theorem doneIn_stale {s : State} {h : PacketHdr} (hr : requestOf s h = none) : doneIn h s = countStale s := by
  simp [doneIn, hr]

theorem doneIn_ofRequest {s : State} {h : PacketHdr} {r : OutReq} (hr : requestOf s h = some r) :
    doneIn h s = requestOver r (some (doneStatus h)) (dropRequest r s) := by
  simp [doneIn, hr]

/-! ## LOCK and UNLOCK (R287) -/

theorem lockIn_granted {s : State} {h : PacketHdr} (hkeeper : keeperOf s (argEchelon h) (argStripe h) = s.pel.self)
    (hech : (echAt s (argEchelon h)).isSome = true) (hfree : lockRefusal s (argEchelon h) (argStripe h) = 0) :
    lockIn h s = sendPacket (mkHdr h.src 0x4 4 true h.tag 1 0) .empty
      (takeLock (argEchelon h) (argStripe h) h.src s) := by
  have hsome : (echAt s (argEchelon h)).isNone = false := by simpa using hech
  unfold lockIn
  dsimp only
  rw [if_neg (by simp [hkeeper, hsome]), hfree]
  rfl

theorem lockIn_elsewhere {s : State} {h : PacketHdr}
    (hkeeper : keeperOf s (argEchelon h) (argStripe h) ≠ s.pel.self) : lockIn h s = sendDone h (3, 0x03) s :=
  if_pos (by simp [hkeeper])

theorem unlockIn_noIntents {s : State} {h : PacketHdr} (hnone : s.ech.intents = []) :
    unlockIn h s = freeLock (argEchelon h) (argStripe h) h.src s := by
  have hfreed : (freeLock (argEchelon h) (argStripe h) h.src s).ech.intents = [] := hnone
  unfold unlockIn
  dsimp only
  rw [clearIntents_none _ hfreed, clearIntents_none _ hfreed, ite_self]

/-! ## BACKOFF and the timers of a request (R292, R313) -/

theorem backoffIn_ofRequest {s : State} {h : PacketHdr} {r : OutReq} (hr : requestOf s h = some r) :
    backoffIn h s = modRequest r (fun x => { x with
        refused := x.refused + 1, retryUs := max s.clock.us (x.sentUs + 2 * 2 ^ min x.refused 10) })
      { s with pel := { s.pel with backoffs := sat32 (s.pel.backoffs + 1) } } := by
  simp [backoffIn, hr]

theorem exec_backoffRetryExpiry_known {s : State} {dst i : Nat} {r : OutReq} (hon : fabricOn s = true)
    (hr : s.pel.out.find? (fun x => x.dst = dst && x.index = i) = some r) (hrefused : r.refused ≠ 0) :
    exec (.backoffRetryExpiry dst i) s = .next (sendPacket r.hdr r.body (modRequest r (fun x => { x with
      retryUs := 0, sentUs := s.clock.us }) s)) := by
  change execBackoffRetryExpiry dst i s = _
  rw [execBackoffRetryExpiry, hr]
  exact congrArg Host.Outcome.next (if_neg (by simp [hon, hrefused]))

theorem exec_memberTimeout_known {s : State} {dst i : Nat} {r : OutReq} (hon : fabricOn s = true)
    (hr : s.pel.out.find? (fun x => x.dst = dst && x.index = i) = some r) :
    exec (.memberTimeout dst i) s = .next (requestOver r none (reportTimeout r (dropRequest r s))) := by
  change execMemberTimeout dst i s = _
  rw [execMemberTimeout, hr]
  exact congrArg Host.Outcome.next (if_neg (by simp [hon]))

theorem exec_requestTimers_unknown {s : State} {dst i : Nat}
    (hr : s.pel.out.find? (fun x => x.dst = dst && x.index = i) = none) :
    exec (.backoffRetryExpiry dst i) s = .next s ∧ exec (.memberTimeout dst i) s = .next s := by
  change execBackoffRetryExpiry dst i s = _ ∧ execMemberTimeout dst i s = _
  rw [execBackoffRetryExpiry, execMemberTimeout, hr]
  exact ⟨rfl, rfl⟩

/-! ## RELAY (R427) -/

theorem relayIn_begins {s : State} {h : PacketHdr} {len origin action : Nat} {facts : BundleFacts}
    (hmode : s.mode.mode ≠ .recovery) (hbusy : relayBusy s origin = false) (hfirst : h.arg0 = 0) :
    relayIn h len origin action facts s = sendDone h scSuccess (relayBytes 0 len origin action facts s) := by
  unfold relayIn
  rw [if_neg hmode, if_neg (by simp [hbusy]), if_neg (by simp [hfirst]), hfirst]

/-- Offset 0 begins a stream of its origin. -/
theorem relayBytes_begins (len origin action : Nat) (facts : BundleFacts) (s : State) :
    let t := relayBytes 0 len origin action facts s
    t.upd.relay.rx = true ∧ t.upd.relay.rxOrigin = origin ∧ t.upd.relay.got = len ∧ t.upd.stFacts = facts := by
  rw [relayBytes, if_pos rfl, if_pos (by decide)]
  exact ⟨rfl, rfl, Nat.zero_add len, rfl⟩

/-- Settles O48: each accepted packet by what its own handler does. -/
theorem transactionPacketsAreServed : Obligations.TransactionPacketsAreServed := by
  refine ⟨?cmd, ?staleGo, ?emptyGo, ?data, ?staleDone, ?done, ?lock, ?lockElsewhere, ?unlock, ?backoff, ?retry,
    ?unknown, ?timeout, ?intent, ?relay⟩
  case cmd => exact fun s u h d haccept => congrArg Host.Outcome.next (onPacket_accepted haccept)
  case staleGo =>
    intro s u h haccept hr
    exact ⟨_, (exec_go_accepted haccept).trans (congrArg _ (goIn_stale hr)), rfl, rfl, rfl⟩
  case emptyGo =>
    intro s u h r haccept hr htype hpayload
    exact (exec_go_accepted haccept).trans (congrArg _ (goIn_noPayload hr htype hpayload))
  case data =>
    intro s u h sectors x haccept hr hx
    exact ⟨_, congrArg Host.Outcome.next ((onPacket_accepted haccept).trans (dataIn_ofTxn hr hx)),
      txnAt_modTxn (fun _ => ⟨rfl, rfl⟩) hx, rfl⟩
  case staleDone =>
    intro s u h haccept hr
    exact ⟨_, congrArg Host.Outcome.next ((onPacket_accepted haccept).trans (doneIn_stale hr)), rfl, rfl⟩
  case done =>
    intro s u h r haccept hr
    exact congrArg Host.Outcome.next ((onPacket_accepted haccept).trans (doneIn_ofRequest hr))
  case lock =>
    intro s u h haccept hkeeper hech hfree
    obtain ⟨seqs, n, q, l, hsent⟩ := sendPacket_queues (mkHdr h.src 0x4 4 true h.tag 1 0) .empty
      (takeLock (argEchelon h) (argStripe h) h.src (leaveIdle u))
    refine ⟨_, congrArg Host.Outcome.next ((onPacket_accepted haccept).trans
      ((lockIn_granted hkeeper hech hfree).trans hsent)), rfl, rfl⟩
  case lockElsewhere =>
    intro s u h haccept hkeeper
    obtain ⟨seqs, n, q, l, hsent⟩ := sendPacket_queues (mkHdr h.src 0x6 (if h.locked then 4 else h.rank) h.locked h.tag
      (256 * 3 + 0x03) 0) .empty (leaveIdle u)
    exact ⟨_, congrArg Host.Outcome.next ((onPacket_accepted haccept).trans ((lockIn_elsewhere hkeeper).trans hsent)),
      rfl, rfl⟩
  case unlock =>
    intro s u h haccept hnone
    exact ⟨_, congrArg Host.Outcome.next ((onPacket_accepted haccept).trans (unlockIn_noIntents hnone)), rfl, rfl⟩
  case backoff =>
    intro s u h r haccept hr
    exact ⟨_, congrArg Host.Outcome.next ((onPacket_accepted haccept).trans (backoffIn_ofRequest hr)), rfl, rfl⟩
  case retry => exact fun s dst i r hon hr hrefused => exec_backoffRetryExpiry_known hon hr hrefused
  case unknown => exact fun s dst i hr => exec_requestTimers_unknown hr
  case timeout => exact fun s dst i r hon hr => exec_memberTimeout_known hon hr
  case intent => exact fun s u h d k m p haccept => congrArg Host.Outcome.next (onPacket_accepted haccept)
  case relay =>
    intro s u h l o a f haccept hmode hbusy hfirst
    have hu : (leaveIdle u).mode.mode ≠ .recovery := by rw [accept_taken haccept]; exact hmode
    obtain ⟨hrx, horigin, hgot, hfacts⟩ := relayBytes_begins l o a f (leaveIdle u)
    obtain ⟨seqs, n, q, p, hsent⟩ := sendPacket_queues (mkHdr h.src 0x6 (if h.locked then 4 else h.rank) h.locked h.tag
      0 0) .empty (relayBytes 0 l o a f (leaveIdle u))
    exact ⟨_, congrArg Host.Outcome.next ((onPacket_accepted haccept).trans
      ((relayIn_begins hu hbusy hfirst).trans hsent)), hrx, horigin, hgot, hfacts⟩

end Sys2Proof.Machine
end

section
/-! PROOFS. Restarts of the Librarian and the held pause (R370 to R374, R424). -/

namespace Sys2Proof.Machine

theorem relayResume_sends (s : State) : RelaySends s (relayResume s) := by
  unfold relayResume
  split
  · exact relayTo_sends ..
  · exact .refl s

/-! ## The pair is held in reset (R370, R371, R373) -/

theorem freeHoldTable_rest (s : State) : ∃ p, freeHoldTable s = { s with pools := p } := by
  unfold freeHoldTable
  generalize s.pools.holdTab = l
  induction l generalizing s with
  | nil => exact ⟨s.pools, rfl⟩
  | cons h l ih => exact ih (freeBuffer h.1 h.2 s)

/-- What a restart shows of itself, and what it must not touch. -/
def restartView (s : State) : (Nat × Nat × Nat) × (List Nat × List Nat) × WritePath × Catalogue × Ledger × Mode :=
  ((s.lib.cause, s.lib.restarts, s.lib.state), (s.upd.staged, s.fol.staged), s.wr, s.cat, s.led, s.mode.mode)

theorem restartView_holdPair (cause : Nat) (s : State) : restartView (holdPair cause s) =
    ((cause, min 255 (s.lib.restarts + 1), if (recentRestarts s).length < 3 then 1 else 2), ([], []), s.wr, s.cat,
      s.led, s.mode.mode) := by
  obtain ⟨p, hp⟩ := freeHoldTable_rest s
  have hstate : (if 3 ≤ (recentRestarts s).length then 2 else 1) = if (recentRestarts s).length < 3 then 1 else 2 := by
    split_ifs <;> omega
  rw [holdPair, hp, ← hstate]
  rfl

theorem restartView_record (event : Nat) (payload : List (Nat × Nat)) (s : State) :
    restartView (record event payload s) = restartView s := by
  unfold restartView
  rw [record_rest]

theorem restartView_failAdmin (s : State) : restartView (failAdmin s) = restartView s := by
  unfold failAdmin
  refine (foldl_keeps restartView _ (fun t n => ?_) _ _).trans rfl
  unfold finishErr
  rw [finish_rest]
  rfl

theorem RelaySends.restartView_eq {s t : State} (h : RelaySends s t) : restartView t = restartView s := by
  obtain ⟨p, r, rfl, -⟩ := h
  rfl

theorem restartView_modBlock (n : Nat) (f : SetBlock → SetBlock) (s : State) :
    restartView (modBlock n f s) = restartView s := by
  unfold modBlock
  split <;> rfl

theorem swapTo_rest (n : Nat) (s : State) : ∃ c k, swapTo n s = { s with cdx := c, free := k } := by
  unfold swapTo
  dsimp only
  repeat' split
  all_goals exact ⟨_, _, rfl⟩

theorem restartView_activateHitless (s : State) : restartView (activateHitless s) = restartView s := by
  unfold activateHitless
  dsimp only
  split
  · obtain ⟨c, k, hswap⟩ := swapTo_rest (1 - activeBlock s) (noteCheck (setCheck s (1 - activeBlock s)) s)
    rw [hswap]
    rfl
  · exact (restartView_record ..).trans ((restartView_modBlock ..).trans rfl)

theorem restartView_dropMi (s : State) : restartView { s with lib := { s.lib with heldMi := [] } } = restartView s := rfl

/-- Nothing that follows the hold of the pair in the same step changes the view of the restart. -/
theorem restartView_startRestart {s : State} (cause : Nat) (hmode : serving s = true ∨ s.mode.mode = .coast)
    (hstate : s.lib.state ≠ 2) : restartView (startRestart cause s) = restartView (holdPair cause s) := by
  unfold startRestart
  rw [if_neg (by rcases hmode with h | h <;> simp [h, hstate])]
  dsimp only
  split
  · refine (foldl_keeps restartView _ (fun v i => ?_) _ _).trans ((restartView_dropMi _).trans ?_)
    · rfl
    exact (relayResume_sends _).restartView_eq.trans ((restartView_failAdmin _).trans (restartView_record ..))
  · split
    · split
      · exact restartView_activateHitless _
      · exact (restartView_record ..).trans (restartView_activateHitless _)
    · exact restartView_record ..

theorem startRestart_stays {s : State} (cause : Nat)
    (h : (serving s = false ∧ s.mode.mode ≠ .coast) ∨ s.lib.state = 2) : startRestart cause s = s :=
  if_pos (by rcases h with ⟨hserving, hcoast⟩ | hstate <;> simp [*])

/-! ## The end of a restart (R372, R373) -/

/-- What the end of a restart puts back and what it leaves. -/
def runningView (s : State) : Nat × WritePath × Catalogue := (s.lib.state, s.wr, s.cat)

theorem runningView_writeRoutes (prefer : List Nat) (s : State) :
    runningView (writeRoutes prefer s) = runningView s := by
  unfold writeRoutes
  refine (foldl_keeps runningView _ (fun t e => ?_) _ _).trans rfl
  unfold runningView
  rw [record_rest]

theorem runningView_finish (slot : Nat) (st : Nat × Nat) (dw0 : Nat) (s : State) :
    runningView (finish slot st dw0 s) = runningView s := by
  rw [finish_rest]
  rfl

theorem runningView_endCommit (s : State) : runningView (endCommit s) = runningView s := by
  unfold endCommit
  split
  · rfl
  · dsimp only
    split
    · exact runningView_finish ..
    · exact runningView_finish ..

theorem runningView_endCut (s : State) : runningView (endCut s) = runningView s := by
  unfold endCut inSlotOrder
  exact (foldl_keeps runningView _ (fun t n => runningView_finish ..) _ _).trans rfl

theorem RelaySends.runningView_eq {s t : State} (h : RelaySends s t) : runningView t = runningView s := by
  obtain ⟨p, r, rfl, -⟩ := h
  rfl

theorem runningView_resumeAdmin (s : State) : runningView (resumeAdmin s) = runningView s := by
  unfold resumeAdmin
  refine (foldl_keeps runningView _ (fun t n => ?_) _ _).trans rfl
  rfl

theorem resumeAdmin_heldAdmin (s : State) : (resumeAdmin s).lib.heldAdmin = [] := by
  unfold resumeAdmin
  refine (foldl_keeps (fun t => t.lib.heldAdmin) _ (fun t n => ?_) _ _).trans rfl
  rfl

/-- The state with which the Librarian starts to run when nothing waited for it. -/
def librarianBack (s : State) : State :=
  { s with lib := { s.lib with state := 0, waitingRet := [], waitingSync := [], viewJobs := [], heldMi := [] } }

theorem librarianRuns_nothingWaits {s : State} (hmi : s.lib.heldMi = []) (hjobs : s.lib.viewJobs = [])
    (hret : s.lib.waitingRet = []) (hsync : s.lib.waitingSync = []) :
    librarianRuns s = resumeAdmin (relayResume (endCut (endCommit (writeRoutes [] (librarianBack s))))) := by
  rw [librarianRuns, hmi, hjobs, hret, hsync]
  rfl

theorem exec_librarianRestartEnd_runs {s : State} (hserving : serving s = true) (hstate : s.lib.state = 1)
    (hheld : s.upd.held = false) : exec .librarianRestartEnd s = .next (librarianRuns s) :=
  congrArg Host.Outcome.next (if_neg (by simp [hserving, hstate, hheld]))

/-! ## The end of a held pause (R424) -/

theorem eq_confirmed {b : SetBlock} (h : b.confirmed = true) : b = { b with confirmed := true } := by
  cases b
  cases h
  rfl

theorem confirmSet_facts (s : State) : (confirmSet s).upd.loaded = true ∧ (confirmSet s).upd.held = s.upd.held ∧
    (confirmSet s).lib = s.lib ∧ activeBlock (confirmSet s) = activeBlock s ∧
    blockOf (confirmSet s) (activeBlock s) = { blockOf s (activeBlock s) with confirmed := true } := by
  obtain ⟨t, ht⟩ : ∃ t : State, { s with upd := { s.upd with loaded := true } } = t := ⟨_, rfl⟩
  have hactive : activeBlock s = activeBlock t := by rw [← ht]; rfl
  have hblock : blockOf s (activeBlock t) = blockOf t (activeBlock t) := by rw [← ht]; rfl
  unfold confirmSet
  simp only [ht]
  rw [hactive, hblock]
  split
  case isTrue hdone =>
    subst ht
    exact ⟨rfl, rfl, rfl, rfl, eq_confirmed hdone⟩
  case isFalse =>
    rw [noteSet, record_rest]
    have hmod : ∀ f, ∃ a b, modBlock (activeBlock t) f t = { t with upd := { t.upd with block0 := a, block1 := b } } := by
      intro f
      unfold modBlock
      split
      · exact ⟨_, _, rfl⟩
      · exact ⟨_, _, rfl⟩
    obtain ⟨a, b, hab⟩ := hmod fun b => { b with confirmed := true }
    have hsame := blockOf_modBlock_same (activeBlock t) (fun b => { b with confirmed := true }) t
    refine ⟨?_, ?_, ?_, ?_, ?_⟩
    · rw [hab, ← ht]
    · rw [hab, ← ht]
    · rw [hab, ← ht]
    · rw [hab]; rfl
    · exact hsame

/-- What the pause's record leaves as it was. -/
theorem noteRestart_rest (cause : Nat) (s : State) : ∃ d r, noteRestart cause s =
    { s with day := d, cdx := { s.cdx with recRecords := r } } :=
  ⟨_, _, record_rest ..⟩

theorem exec_heldPauseEnd_held {s : State} (hserving : serving s = true) (hheld : s.upd.held = true) :
    exec .heldPauseEnd s = .next
      (showSet (confirmSet (noteRestart 3 { s with upd := { s.upd with held := false } }))) :=
  congrArg Host.Outcome.next (if_neg (by simp [hserving, hheld]))

theorem heldPause_ends (s : State) (u : State) (hu : noteRestart 3 { s with upd := { s.upd with held := false } } = u) :
    let t := showSet (confirmSet u)
    t.upd.held = false ∧ t.upd.loaded = true ∧ (blockOf t (activeBlock s)).confirmed = true ∧
      t.upd.identLo = (blockOf s (activeBlock s)).facts.version ∧ t.lib.state = s.lib.state := by
  obtain ⟨d, r, hnote⟩ := noteRestart_rest 3 { s with upd := { s.upd with held := false } }
  obtain rfl : { s with upd := { s.upd with held := false }, day := d, cdx := { s.cdx with recRecords := r } } = u :=
    hnote.symm.trans hu
  obtain ⟨hloaded, hheld, hlib, hactive, hblock⟩ := confirmSet_facts
    { s with upd := { s.upd with held := false }, day := d, cdx := { s.cdx with recRecords := r } }
  refine ⟨hheld, hloaded, congrArg SetBlock.confirmed hblock, ?_, congrArg Librarian.state hlib⟩
  change (blockOf _ (activeBlock _)).facts.version = _
  rw [hactive, hblock]
  rfl

/-- Settles O43: a restart by its view of the hold of the pair, its end by what the Librarian takes up. -/
theorem librarianRestarts : Obligations.LibrarianRestarts := by
  refine ⟨?lockstep, ?watchdog, ?stays, ?runs, ?runsEmpty, ?notRestarting, ?pauseEnds, ?noPause⟩
  case lockstep =>
    intro s hmode hstate
    have hview := (restartView_startRestart 0 hmode hstate).trans (restartView_holdPair 0 s)
    simp only [restartView, Prod.mk.injEq] at hview
    obtain ⟨⟨hcause, hcount, hstate'⟩, ⟨hstaged, hfol⟩, hwr, hcat, hled, hmode'⟩ := hview
    exact ⟨_, rfl, hcause, hcount, hstate', hstaged, hfol, hwr, hcat, hled, hmode'⟩
  case watchdog =>
    intro s hmode hstate
    have hview := (restartView_startRestart 1 hmode hstate).trans (restartView_holdPair 1 s)
    simp only [restartView, Prod.mk.injEq] at hview
    obtain ⟨⟨hcause, hcount, hstate'⟩, -, hwr, hcat, hled, -⟩ := hview
    exact ⟨_, rfl, hcause, hcount, hstate', hwr, hcat, hled⟩
  case stays =>
    exact fun s h => ⟨congrArg Host.Outcome.next (startRestart_stays 0 h),
      congrArg Host.Outcome.next (startRestart_stays 1 h)⟩
  case runs => exact fun s hserving hstate hheld => exec_librarianRestartEnd_runs hserving hstate hheld
  case runsEmpty =>
    intro s hserving hstate hheld hmi hjobs hret hsync _
    have hview := runningView_resumeAdmin (relayResume (endCut (endCommit (writeRoutes [] (librarianBack s)))))
    rw [(relayResume_sends _).runningView_eq, runningView_endCut, runningView_endCommit, runningView_writeRoutes] at hview
    simp only [runningView, Prod.mk.injEq] at hview
    obtain ⟨hstate', hwr, hcat⟩ := hview
    exact ⟨_, (exec_librarianRestartEnd_runs hserving hstate hheld).trans
      (congrArg _ (librarianRuns_nothingWaits hmi hjobs hret hsync)), hstate', resumeAdmin_heldAdmin _, hwr, hcat⟩
  case notRestarting =>
    intro s h
    exact congrArg Host.Outcome.next (if_pos (by rcases h with h | h <;> simp [h]))
  case pauseEnds =>
    exact fun s hserving hheld => ⟨_, exec_heldPauseEnd_held hserving hheld, heldPause_ends s _ rfl⟩
  case noPause => exact fun s hheld => congrArg Host.Outcome.next (if_pos (by simp [hheld]))

end Sys2Proof.Machine
end

section
/-! PROOFS. Samples of the sensors and the Daybook's records (R377, R379, R388 to R392). -/

namespace Sys2Proof.Machine

/-! ## SENSOR_SAMPLE (R377, R379) -/

/-- The readings a sample leaves in the registers, the throttle, and what a sample must not touch. -/
def sampleView (s : State) : (List Int × List Nat × Nat) × Bool × WritePath × Catalogue × ModeSt :=
  ((s.sens.ts, s.sens.rails, s.sens.v12), s.sens.throttle, s.wr, s.cat, s.mode)

theorem sampleView_thermal (kind : Nat) (s : State) : sampleView (thermal kind s) = sampleView s := by
  unfold sampleView thermal
  rw [record_rest]

theorem sampleView_setAlert (s : State) : sampleView (setAlert s) = sampleView s := by
  unfold setAlert
  dsimp only
  split
  · exact sampleView_thermal ..
  · split <;> rfl

theorem sampleView_setCap (s : State) : sampleView (setCap s) = sampleView s := by
  unfold setCap
  split
  · exact sampleView_thermal ..
  · split <;> rfl

theorem sampleView_reportWarnings (s : State) : sampleView (reportWarnings s) = sampleView s := by
  unfold reportWarnings
  refine (foldl_keeps sampleView _ (fun t n => ?_) _ _).trans rfl
  split
  · rw [asyncEvent_rest]
    rfl
  · rfl

theorem sampleView_setThrottle (s : State) : sampleView (setThrottle s) =
    ((s.sens.ts, s.sens.rails, s.sens.v12), decide (8 * (fld s 0x700 : Int) ≤ hottest s.sens.ts), s.wr, s.cat,
      s.mode) := by
  unfold setThrottle
  dsimp only
  split
  case isTrue heq => exact congrArg (fun b => ((s.sens.ts, s.sens.rails, s.sens.v12), b, s.wr, s.cat, s.mode)) heq.symm
  case isFalse => exact sampleView_thermal ..

/-- A list of full length is its own reading. -/
theorem map_range_getD {α : Type} (l : List α) (n : Nat) (hlen : l.length = n) (f : Nat → α) :
    ((List.range n).map fun i => l.getD i (f i)) = l := by
  refine List.ext_getElem (by simp [hlen]) fun i hi _ => ?_
  simp only [List.length_map, List.length_range] at hi
  simp [List.getD_eq_getElem?_getD, List.getElem?_eq_getElem (hlen ▸ hi)]

theorem sampleView_sample {s : State} {r : SensorReadings} (hts : r.ts.length = 12) (hrails : r.rails.length = 10) :
    sampleView (reportWarnings (noteExtremes (setCap (setAlert (setThrottle (takeReadings r s)))))) =
      ((r.ts, r.rails, r.v12), decide (8 * (fld s 0x700 : Int) ≤ hottest r.ts), s.wr, s.cat, s.mode) := by
  have hextremes (u : State) : sampleView (noteExtremes u) = sampleView u := rfl
  rw [sampleView_reportWarnings, hextremes, sampleView_setCap, sampleView_setAlert, sampleView_setThrottle]
  have htaken : (takeReadings r s).sens.ts = r.ts := map_range_getD _ _ hts fun i => s.sens.ts.getD i 0
  have hrailsTaken : (takeReadings r s).sens.rails = r.rails := map_range_getD _ _ hrails fun i => natAt s.sens.rails i
  rw [htaken, hrailsTaken]
  rfl

/-! ## Records (R388 to R390, R392) -/

/-- The sticky bits of the Daybook only rise at a record. -/
theorem record_sticky {event : Nat} {payload : List (Nat × Nat)} {s : State} {n : Nat}
    (h : s.day.sticky.getLsbD n = true) : (record event payload s).day.sticky.getLsbD n = true := by
  unfold record
  repeat' split
  all_goals simp [placeRecord, stallRecord, h]

theorem record_unwanted {event : Nat} {payload : List (Nat × Nat)} {s : State}
    (h : recordWanted s event payload = false) : record event payload s = s := by
  simp [record, h]

section
variable {s : State} {event : Nat} {payload : List (Nat × Nat)} (hserving : serving s = true)
  (hwanted : recordWanted s event payload = true)
include hserving hwanted

theorem record_serving : record event payload s = if bufferUse s < 4096 && s.day.stalled.isEmpty
    then placeRecord (makeRecord s event payload) s else stallRecord (makeRecord s event payload) s := by
  obtain ⟨hawake, hcoast, hrecovery⟩ := serving_facts hserving
  simp only [record, hawake, hcoast, hrecovery, hwanted, Bool.not_true, decide_false, Bool.false_and, Bool.or_self,
    Bool.false_eq_true, if_false]

theorem record_placed (hroom : bufferUse s < 4096) (hnone : s.day.stalled = []) :
    record event payload s = placeRecord (makeRecord s event payload) s :=
  (record_serving hserving hwanted).trans (if_pos (by simp [hroom, hnone]))

theorem record_stalled (hfull : 4096 ≤ bufferUse s) :
    record event payload s = stallRecord (makeRecord s event payload) s :=
  (record_serving hserving hwanted).trans (if_neg (by simp; omega))

end

theorem tailPush_getLast? (r : DayRec) (l : List DayRec) : (tailPush r l).getLast? = some r := by
  unfold tailPush
  split <;> exact List.getLast?_concat

theorem tailPush_length (r : DayRec) (l : List DayRec) : (tailPush r l).length ≤ max 64 l.length := by
  unfold tailPush
  split <;> simp <;> omega

theorem exec_daybookRecordEntry_known {src event : Nat} {payload : List (Nat × Nat)} {s : State}
    (hknown : event ∈ dayEvents) : exec (.daybookRecordEntry src event payload) s = .next (record event payload s) :=
  congrArg Host.Outcome.next (if_pos (by simpa using hknown))

/-! ## Flushes (R390, R391) -/

/-- Between `s` and `t` cards and their parity have come on flash. -/
def CardsStored (s t : State) : Prop :=
  ∃ fl pa, t = { s with wr := { s.wr with flash := fl, parity := pa } }

theorem CardsStored.trans {s t u : State} (h : CardsStored s t) (k : CardsStored t u) : CardsStored s u := by
  obtain ⟨fl, pa, rfl⟩ := h
  obtain ⟨fl', pa', rfl⟩ := k
  exact ⟨fl', pa', rfl⟩

theorem parityPage_stored (n stream : Nat) (q : Bool) (page : Nat) (s : State) :
    CardsStored s (parityPage n stream q page s) := by
  unfold parityPage
  split
  · exact ⟨_, _, rfl⟩
  · exact ⟨_, _, rfl⟩

theorem systemParity_stored (p : Ppa) (s : State) : CardsStored s (systemParity p s) := by
  unfold systemParity
  split
  · exact ⟨_, _, rfl⟩
  · dsimp only
    split
    · exact (parityPage_stored ..).trans (parityPage_stored ..)
    · exact ⟨_, _, rfl⟩

theorem foldl_cardsStored {α : Type} (f : State → α → State) (h : ∀ s a, CardsStored s (f s a)) (l : List α)
    (s : State) : CardsStored s (l.foldl f s) := by
  induction l generalizing s with
  | nil => exact ⟨_, _, rfl⟩
  | cons a l ih => exact (h s a).trans (ih (f s a))

theorem storeDayCards_stored (n first : Nat) (rs : List DayRec) (s : State) :
    CardsStored s (storeDayCards n first rs s) := by
  unfold storeDayCards
  refine foldl_cardsStored _ (fun t c => ?_) _ s
  exact CardsStored.trans ⟨_, t.wr.parity, rfl⟩ (systemParity_stored ..)

/-- The number of a flush's newest record. -/
def lastFlushed (rs : List DayRec) (s : State) : Nat := match rs.getLast? with | some r => r.seq | none => s.day.flushed

/-- The newest 1,048,576 records of a list, which the ring keeps. -/
def newestRecords (l : List DayRec) : List DayRec := l.drop (l.length - 1048576)

theorem newestRecords_all {l : List DayRec} (h : l.length ≤ 1048576) : newestRecords l = l := by
  rw [newestRecords, Nat.sub_eq_zero_of_le h, List.drop_zero]

theorem storeDay_eq (n first : Nat) (rs : List DayRec) (s u : State) (hu : storeDayCards n first rs s = u) :
    storeDay n first rs s = { u with day := { u.day with
      ring := newestRecords (u.day.ring ++ rs)
      flushed := lastFlushed rs u
      stripes := modWhere (fun x => x.1 = n) (fun x => (x.1, lastFlushed rs u)) u.day.stripes } } := by
  subst hu
  unfold storeDay storeDayCards lastFlushed newestRecords
  rfl

/-- The records of a flush join the ring, whose oldest go past the ring's length. -/
theorem storeDay_facts (n first : Nat) (rs : List DayRec) (s : State) :
    ∃ w d, storeDay n first rs s = { s with wr := w, day := d } ∧ w.transit = s.wr.transit ∧
      d.ring = newestRecords (s.day.ring ++ rs) ∧ d.flushing = s.day.flushing ∧
      d.stalled = s.day.stalled := by
  obtain ⟨fl, pa, hcards⟩ := storeDayCards_stored n first rs s
  have hstore := storeDay_eq n first rs s { s with wr := { s.wr with flash := fl, parity := pa } } hcards
  exact ⟨_, _, hstore, rfl, by dsimp only, rfl, rfl⟩

theorem exec_daybookFlushDone_flushing {s : State} (hserving : serving s = true) (hflushing : s.day.flushing ≠ []) :
    exec .daybookFlushDone s = .next (admitRecords (pageProgrammed s).day.stalled.length (pageProgrammed s)) :=
  congrArg Host.Outcome.next (if_neg (by simp [hserving, hflushing]))

/-- Settles O44: a sample by its view, a record by the place it takes, a page by the ring it joins. -/
theorem sensorsAndDaybook : Obligations.SensorsAndDaybook := by
  refine ⟨?sample, ?rail, ?placed, ?stalled, ?unwanted, ?flush, ?noFlush, ?page, ?noPage⟩
  case sample =>
    intro s r hawake hts hrails
    have hview := sampleView_sample (s := s) hts hrails
    simp only [sampleView, Prod.mk.injEq] at hview
    obtain ⟨⟨hts', hrails', hv12⟩, hthrottle, hwr, hcat, hmode⟩ := hview
    exact ⟨_, congrArg Host.Outcome.next (if_neg (by simp [hawake])), hts', hrails', hv12, hthrottle, hwr, hcat, hmode⟩
  case rail =>
    intro s rail mv hawake hrail
    refine ⟨_, congrArg Host.Outcome.next (if_neg (by simp [hawake]; omega)), ?_, ?_, record_sticky (by simp)⟩
    · rw [record_rest]
    · rw [record_rest]
  case placed =>
    intro s src event payload hserving hknown hwanted hroom hnone
    refine ⟨_, (exec_daybookRecordEntry_known hknown).trans (congrArg _ (record_placed hserving hwanted hroom hnone)),
      rfl, rfl, tailPush_getLast? .., tailPush_length .., fun hfault => ?_⟩
    simp [placeRecord, makeRecord, hfault]
  case stalled =>
    intro s src event payload hserving hknown hwanted hfull
    exact ⟨_, (exec_daybookRecordEntry_known hknown).trans (congrArg _ (record_stalled hserving hwanted hfull)), rfl, rfl,
      by simp [stallRecord]⟩
  case unwanted =>
    intro s src event payload h
    by_cases hknown : event ∈ dayEvents
    · exact (exec_daybookRecordEntry_known hknown).trans (congrArg _ (record_unwanted (h.resolve_left (not_not_intro hknown))))
    · exact congrArg Host.Outcome.next (if_neg (by simpa using hknown))
  case flush =>
    intro s hruns hdue hroom
    refine ⟨_, congrArg Host.Outcome.next (if_pos (by simp [hruns, hdue])), ?_⟩
    rw [buildCards, if_pos hroom]
    exact ⟨rfl, rfl, rfl, rfl⟩
  case noFlush => exact fun s hdue => congrArg Host.Outcome.next (if_neg (by simp [hdue]))
  case page =>
    intro s hserving hflushing hnone
    obtain ⟨w, d, hstore, htransit, hring, hrest, hstalled⟩ := storeDay_facts s.day.stripe
      (s.day.cards - flushCards s.day.flushing.length) (s.day.flushing.take (4 * dayPerCard))
      { s with day := { s.day with flushing := s.day.flushing.drop (4 * dayPerCard) } }
    have hpage : pageProgrammed s = { s with wr := w, day := d } := hstore
    have hempty : d.stalled = [] := hstalled.trans hnone
    refine ⟨{ s with wr := w, day := d }, ?_, rfl, htransit, hrest, fun hroom => ?_⟩
    · rw [exec_daybookFlushDone_flushing hserving hflushing, hpage]
      simp only [hempty, List.length_nil, admitRecords]
    · rw [hring, newestRecords_all]
      · rfl
      · rw [List.length_append, List.length_take]
        exact (Nat.add_le_add_left (Nat.min_le_left ..) _).trans hroom
  case noPage => exact fun s hflushing => congrArg Host.Outcome.next (if_pos (by simp [hflushing]))

end Sys2Proof.Machine
end

section
/-! PROOFS. Words of DRAM: requests served, decodes counted, copies discarded, patrol and halving (R328, R331, R336,
R339, R340). -/

namespace Sys2Proof.Machine

/-! ## Requests (R336) -/

theorem takeReqs_rest (u : Nat) (l : List DramReq) (now : Nat) (s : State) : ∃ reqs rows run late,
    takeReqs u l now s = { s with dram := { s.dram with
      reqs := reqs, openRows := rows, rtRun := run, late := late } } := by
  unfold takeReqs
  dsimp only
  split
  · exact ⟨_, _, _, _, rfl⟩
  · exact ⟨_, _, _, _, rfl⟩

theorem nextReq_noneWaiting {s : State} {u : Nat} (now : Nat) (h : waitingReqs s u = []) : nextReq s u now = none := by
  simp [nextReq, h]

/-- The requests that have arrived stand in the queue. -/
def withArrived (u : Nat) (l : List DramReq) (s : State) : State :=
  { s with dram := { s.dram with reqs := s.dram.reqs ++ l.map fun r => (u, r) } }

theorem takeReqs_none {s : State} {u now : Nat} {l : List DramReq} (h : nextReq (withArrived u l s) u now = none) :
    takeReqs u l now s = withArrived u l s := by
  unfold withArrived at h
  simp only [takeReqs, h, withArrived]

theorem takeReqs_some {s : State} {u now : Nat} {l : List DramReq} {r : DramReq}
    (h : nextReq (withArrived u l s) u now = some r) : takeReqs u l now s = serveReq u now r (withArrived u l s) := by
  unfold withArrived at h
  simp only [takeReqs, h, withArrived]

theorem withArrived_nil (u : Nat) (s : State) : withArrived u [] s = s := by
  rw [withArrived, List.map_nil, List.append_nil]

theorem takeReqs_nothing {s : State} {u : Nat} (now : Nat) (h : waitingReqs s u = []) : takeReqs u [] now s = s := by
  have hsame := withArrived_nil u s
  rw [takeReqs_none (hsame.symm ▸ nextReq_noneWaiting now h), hsame]

theorem urgencyOf_cases (now : Nat) (r : DramReq) : urgencyOf now r = 2 ∨ urgencyOf now r = 1 ∨ urgencyOf now r = 0 := by
  unfold urgencyOf
  split_ifs <;> simp

theorem byUrgency_single (s : State) (u now : Nat) (r : DramReq) : byUrgency s u now [r] = some r := by
  rcases urgencyOf_cases now r with h | h | h
  · simp [byUrgency, h, earliest]
  · simp [byUrgency, h, earliest]
  · by_cases hopen : reqRow u r ∈ s.dram.openRows
    · simp [byUrgency, h, earliest, hopen]
    · simp [byUrgency, h, earliest, hopen]

/-- The only request that waits is the next one. -/
theorem nextReq_single {s : State} {u : Nat} {r : DramReq} (now : Nat) (h : waitingReqs s u = [r]) :
    nextReq s u now = some r := by
  by_cases hscrub : isScrub r = true
  · simp [nextReq, h, hscrub]
  · by_cases hreal : isRealTime r = true
    · by_cases hbrake : brakeUp s = true
      · simp [nextReq, h, hscrub, hreal, hbrake, overdue]
      · simp [nextReq, h, hscrub, hreal, hbrake, byUrgency_single]
    · simp [nextReq, h, hscrub, hreal, byUrgency_single]

theorem dropFirst_last {α : Type} {p : α → Bool} {l : List α} {y : α} (hl : ∀ x ∈ l, p x = false) (hy : p y = true) :
    dropFirst p (l ++ [y]) = l := by
  induction l with
  | nil => simp [dropFirst, hy]
  | cons x l ih =>
    rw [List.cons_append, dropFirst, hl x List.mem_cons_self, ih fun z hz => hl z (List.mem_cons_of_mem _ hz)]
    rfl

theorem not_mem_of_noneWaiting {s : State} {u : Nat} (h : waitingReqs s u = []) : ∀ x ∈ s.dram.reqs, x.1 ≠ u := by
  simpa [waitingReqs] using h

/-- A request that finds none waiting is served at once: its row is open and the queue is as before. -/
theorem takeReqs_single {s : State} {u : Nat} (now : Nat) (r : DramReq) (h : waitingReqs s u = []) :
    ∃ rows run late, takeReqs u [r] now s = { s with dram := { s.dram with
      openRows := rows, rtRun := run, late := late } } ∧ reqRow u r ∈ rows := by
  have harrived : waitingReqs (withArrived u [r] s) u = [r] := by
    have hnone := h
    simp only [waitingReqs, List.map_eq_nil_iff] at hnone
    simp [waitingReqs, withArrived, hnone]
  obtain ⟨t, ht⟩ : ∃ t, serveReq u now r (withArrived u [r] s) = t := ⟨_, rfl⟩
  have hqueue : t.dram.reqs = s.dram.reqs := ht ▸ dropFirst_last (fun x hx => by
      have := not_mem_of_noneWaiting h x hx
      rw [decide_eq_false_iff_not]
      rintro rfl
      exact this rfl) (by simp)
  have hserved : t = { s with dram := { s.dram with
      reqs := t.dram.reqs, openRows := t.dram.openRows, rtRun := t.dram.rtRun, late := t.dram.late } } := by
    rw [← ht]
    rfl
  rw [hqueue] at hserved
  exact ⟨_, _, _, (takeReqs_some (nextReq_single now harrived)).trans (ht.trans hserved), ht ▸ List.mem_cons_self⟩

/-! ## What a decode records (R328, R340) -/

/-- The log's entries of other rows are kept while it has room. -/
theorem logRow_facts (a : RowAddr) (f : RowErr → RowErr) (s : State) :
    ∃ g, logRow a f s = { s with dram := { s.dram with log := g } } ∧
      ∀ r, r ∈ s.dram.log → r.addr ≠ a → s.dram.log.length < rowLogSize → r ∈ g := by
  refine ⟨_, rfl, fun r hr haddr hroom => ?_⟩
  by_cases hany : s.dram.log.any (fun r => decide (r.addr = a)) = true
  · rw [if_pos hany]
    exact List.mem_map.mpr ⟨r, hr, by simp [haddr]⟩
  · rw [if_neg hany, if_pos hroom]
    exact List.mem_append_left _ hr

theorem bumpAt_getElem_same {l : List Nat} {u n : Nat} (h : l[u]? = some n) :
    (bumpAt u l)[u]? = some (min (n + 1) 4294967295) := by
  rw [bumpAt, modAt_getElem, if_pos rfl, h]
  rfl

theorem noteCorrected_facts (a : RowAddr) (two : Bool) (s : State) :
    ∃ g c, noteCorrected a two s = { s with
        dram := { s.dram with corr := bumpAt a.u s.dram.corr, log := g }, nv := { s.nv with c1 := c } } ∧
      ∀ r, r ∈ s.dram.log → r.addr ≠ a → s.dram.log.length < rowLogSize → r ∈ g := by
  obtain ⟨g, hlog, hkept⟩ := logRow_facts a (fun r => if two then { r with double := min 255 (r.double + 1) }
      else { r with single := min 65535 (r.single + 1) })
    (countC1 15 { s with dram := { s.dram with corr := bumpAt a.u s.dram.corr } })
  exact ⟨g, _, hlog, hkept⟩

theorem noteUncorrectable_facts (a : RowAddr) (s : State) : ∃ g c d r, noteUncorrectable a s = { s with
    dram := { s.dram with uncorr := bumpAt a.u s.dram.uncorr, sticky := s.dram.sticky ||| 0x1, log := g }
    nv := { s.nv with c1 := c }
    day := d
    cdx := { s.cdx with recRecords := r } } := by
  obtain ⟨g, hlog, -⟩ := logRow_facts a (fun r => { r with uncorr := min 255 (r.uncorr + 1) })
    (stickDram 0x1 (countC1 16 { s with dram := { s.dram with uncorr := bumpAt a.u s.dram.uncorr } }))
  unfold noteUncorrectable
  rw [hlog, noteDram, record_rest]
  exact ⟨_, _, _, _, rfl⟩

/-! ## DRAM_READ_DECODE and PATROL_SCRUB -/

section
variable {s : State} {u rank bg bank row : Nat} (hon : dramOn s = true) (hu : u ≤ 7)
include hon hu

theorem exec_dramReadDecode_on (errors : Nat) (m : Bool) (lost : DramLoss) (turn : DramTurn) :
    exec (.dramReadDecode u rank bg bank row errors m lost turn) s = .next
      (if wordLost errors m then lostWord lost.region lost.owner
        (noteDecode { u := u, rank := rank, bg := bg, bank := bank, row := row } errors m
          (takeReqs u turn.arrived turn.nowNs (wakeDram s)))
      else noteDecode { u := u, rank := rank, bg := bg, bank := bank, row := row } errors m
          (takeReqs u turn.arrived turn.nowNs (wakeDram s))) :=
  congrArg Host.Outcome.next (if_neg (by simp [hon]; omega))

theorem exec_dramReadDecode_clean (m : Bool) (lost : DramLoss) (turn : DramTurn) :
    exec (.dramReadDecode u rank bg bank row 0 m lost turn) s = .next
      (takeReqs u turn.arrived turn.nowNs (wakeDram s)) :=
  (exec_dramReadDecode_on hon hu 0 m lost turn).trans (congrArg _ (if_neg (by simp [wordLost])))

theorem exec_dramReadDecode_oneBit (m : Bool) (lost : DramLoss) (turn : DramTurn) :
    exec (.dramReadDecode u rank bg bank row 1 m lost turn) s = .next
      (noteCorrected { u := u, rank := rank, bg := bg, bank := bank, row := row } false
        (takeReqs u turn.arrived turn.nowNs (wakeDram s))) :=
  (exec_dramReadDecode_on hon hu 1 m lost turn).trans (congrArg _ (if_neg (by simp [wordLost])))

theorem exec_dramReadDecode_threeBits (lost : DramLoss) (turn : DramTurn) :
    exec (.dramReadDecode u rank bg bank row 3 false lost turn) s = .next
      (lostWord lost.region lost.owner
        (noteUncorrectable { u := u, rank := rank, bg := bg, bank := bank, row := row }
          (takeReqs u turn.arrived turn.nowNs (wakeDram s)))) :=
  (exec_dramReadDecode_on hon hu 3 false lost turn).trans (congrArg _ (if_pos (by simp [wordLost])))

end

/-- An uncorrectable word counted after the requests of its turn. -/
theorem uncorrectableRead_facts (a : RowAddr) (l : List DramReq) (now : Nat) (s : State) :
    ∃ reqs rows run late g c d r, noteUncorrectable a (takeReqs a.u l now (wakeDram s)) = { s with
      dram := { s.dram with
        selfRef := false, reqs := reqs, openRows := rows, rtRun := run, late := late
        uncorr := bumpAt a.u s.dram.uncorr, sticky := s.dram.sticky ||| 0x1, log := g }
      mode := { s.mode with gates := { s.mode.gates with dram := false } }
      nv := { s.nv with c1 := c }
      day := d
      cdx := { s.cdx with recRecords := r } } := by
  obtain ⟨reqs, rows, run, late, htaken⟩ := takeReqs_rest a.u l now (wakeDram s)
  obtain ⟨g, c, d, r, hnoted⟩ := noteUncorrectable_facts a (takeReqs a.u l now (wakeDram s))
  rw [hnoted, htaken]
  exact ⟨_, _, _, _, _, _, _, _, rfl⟩

/-! ## Copies that are discarded (R328, R329) -/

theorem lostRebuild_noRun {s : State} {e i pos : Nat} (h : ∀ r, r ∈ s.ech.stewards → r.kind ≠ 6) :
    lostRebuild e i pos s = { s with dram := { s.dram with discards := sat32 (s.dram.discards + 1) } } := by
  have hnone : s.ech.stewards.find? (fun r => r.kind = 6 && r.echelon = e) = none :=
    List.find?_eq_none.mpr fun r hr => by simp [h r hr]
  simp [lostRebuild, hnone]

theorem retryLoads_none {s : State} (h : s.cat.misses = []) : retryLoads s = s := by
  simp [retryLoads, h]

theorem lostCopy_first {s : State} {p : Ppa} (hmisses : s.cat.misses = []) (hfirst : p ∉ s.dram.repeats) :
    lostCopy p s = { s with
      dram := { s.dram with discards := sat32 (s.dram.discards + 1), repeats := s.dram.repeats ++ [p] }
      wr := { s.wr with fetched := s.wr.fetched.filter fun x => x.2.1 != p }
      cat := { s.cat with arrived := s.cat.arrived.filter fun x => x.2.2 != p } } := by
  have hkeep : s.dram.repeats.filter (fun x => x != p) = s.dram.repeats :=
    List.filter_eq_self.mpr fun x hx => by
      rw [bne_iff_ne]
      rintro rfl
      exact hfirst hx
  unfold lostCopy
  dsimp only
  rw [if_neg (by simpa using hfirst), hkeep, retryLoads_none]
  exact hmisses

/-- Settles O49: every decode as its turn of requests, what it counts, and what its owner gives up. -/
theorem dramWordsAreCountedAndScrubbed : Obligations.DramWordsAreCountedAndScrubbed := by
  refine ⟨?clean, ?served, ?oneBit, ?rebuildCopy, ?engineCopy, ?scrub, ?off, ?halve⟩
  case clean => exact fun s u rank bg bank row region owner now m l hon hu => exec_dramReadDecode_clean hon hu m _ _
  case served =>
    intro s u rank bg bank row region owner now m hon hu hnone
    have hwoken : waitingReqs (wakeDram s) u = [] := hnone
    refine ⟨(exec_dramReadDecode_clean hon hu m _ _).trans (congrArg _ (takeReqs_nothing now hwoken)), fun r => ?_⟩
    obtain ⟨rows, run, late, htaken, hrow⟩ := takeReqs_single now r hwoken
    exact ⟨_, (exec_dramReadDecode_clean hon hu m _ _).trans (congrArg _ htaken), rfl, hrow, rfl⟩
  case oneBit =>
    intro s u rank bg bank row region owner now m l n hon hu hcount
    obtain ⟨reqs, rows, run, late, htaken⟩ := takeReqs_rest u l now (wakeDram s)
    obtain ⟨g, c, hnoted, hkept⟩ := noteCorrected_facts
      { u := u, rank := rank, bg := bg, bank := bank, row := row } false (takeReqs u l now (wakeDram s))
    rw [htaken] at hnoted hkept
    exact ⟨_, (exec_dramReadDecode_oneBit hon hu m _ _).trans (congrArg _ ((congrArg _ htaken).trans hnoted)), rfl,
      bumpAt_getElem_same hcount, rfl, rfl, rfl, rfl, hkept⟩
  case rebuildCopy =>
    intro s u rank bg bank row owner now l n hon hu hcount hnoRun
    obtain ⟨reqs, rows, run, late, g, c, d, r, hnoted⟩ := uncorrectableRead_facts
      { u := u, rank := rank, bg := bg, bank := bank, row := row } l now s
    refine ⟨_, (exec_dramReadDecode_threeBits hon hu _ _).trans (congrArg _ ((congrArg _ hnoted).trans
      (lostRebuild_noRun hnoRun))), bumpAt_getElem_same hcount, rfl, rfl, by simp, rfl, rfl, rfl, rfl⟩
  case engineCopy =>
    intro s u rank bg bank row now l n p hon hu hcount hmisses hfirst
    obtain ⟨reqs, rows, run, late, g, c, d, r, hnoted⟩ := uncorrectableRead_facts
      { u := u, rank := rank, bg := bg, bank := bank, row := row } l now s
    have hp : BitVec.ofNat 40 p.toNat = p := by simp
    refine ⟨_, (exec_dramReadDecode_threeBits hon hu _ _).trans (congrArg _ ((congrArg _ hnoted).trans
      ((congrArg (lostCopy · _) hp).trans (lostCopy_first hmisses hfirst)))), bumpAt_getElem_same hcount, rfl, rfl, rfl,
      rfl, rfl, rfl⟩
  case scrub =>
    intro s u rank bg bank row w hon hu
    refine ⟨_, congrArg Host.Outcome.next (if_neg (by simp [hon]; omega)), rfl, ?_⟩
    dsimp only
    split
    · exact .inr rfl
    · exact .inl rfl
  case off =>
    intro s u rank bg bank row region owner k now m w l h
    have hoff : (! dramOn s || decide (7 < u)) = true := by simpa using h
    exact ⟨congrArg Host.Outcome.next (if_pos hoff), congrArg Host.Outcome.next (if_pos hoff)⟩
  case halve =>
    intro s hon
    refine ⟨_, congrArg Host.Outcome.next (if_neg (by simp [hon])), rfl, List.length_map _, fun i r hr => ?_⟩
    exact ⟨{ r with single := r.single / 2, double := r.double / 2, uncorr := r.uncorr / 2 }, by simp [hr], rfl, rfl,
      rfl, rfl, rfl, rfl⟩

end Sys2Proof.Machine
end

section
/-! PROOFS. Refresh, MR4, the oscillator, Brake, and rows that are retired (R334, R337, R338, R341 to R343). -/

namespace Sys2Proof.Machine

theorem natAt_of_getElem? {l : List Nat} {u k : Nat} (h : l[u]? = some k) : natAt l u = k := by
  simp [natAt, List.getD_eq_getElem?_getD, h]

theorem getElem?_set_same {α : Type} {l : List α} {u : Nat} {k v : α} (h : l[u]? = some k) : (l.set u v)[u]? = some v := by
  obtain ⟨hu, -⟩ := List.getElem?_eq_some_iff.mp h
  simp [hu]

/-! ## Refresh (R334) -/

section
variable {s : State} {u : Nat} (hon : dramOn s = true) (hawake : s.dram.selfRef = false) (hu : u ≤ 7)
include hon hawake hu

theorem exec_refreshTick_postponed (hroom : natAt s.dram.postponed u < Config.postponeLimit) :
    exec (.refreshTick u true) s = .next { s with dram := { s.dram with
      postponed := s.dram.postponed.set u (natAt s.dram.postponed u + 1) } } :=
  congrArg Host.Outcome.next ((if_neg (by simp [hon, hawake]; omega)).trans (if_pos (by simpa using hroom)))

theorem exec_refreshTick_issued (urgent : Bool)
    (hissue : urgent = false ∨ Config.postponeLimit ≤ natAt s.dram.postponed u) :
    exec (.refreshTick u urgent) s = .next { s with dram := { s.dram with
      postponed := s.dram.postponed.set u
        (natAt s.dram.postponed u + 1 - if urgent then 1 else natAt s.dram.postponed u + 1)
      refreshes := s.dram.refreshes.set u
        (natAt s.dram.refreshes u + if urgent then 1 else natAt s.dram.postponed u + 1) } } :=
  congrArg Host.Outcome.next ((if_neg (by simp [hon, hawake]; omega)).trans
    (if_neg (by rcases hissue with h | h <;> simp [h])))

end

/-! ## MR4 and the oscillator (R338) -/

/-- A rank's refresh rate and temperature as MR4 shows them. -/
def mr4Taken (rank : Nat) (doubled : Bool) (c : Int) (s : State) : State :=
  let l := s.dram.doubled.filter fun r => r != rank
  { s with dram := { s.dram with
    doubled := if doubled then insertBy (fun a b => decide (a < b)) rank l else l
    rankTemp := mapSet rank c s.dram.rankTemp } }

theorem mem_mr4Taken (rank r : Nat) (doubled : Bool) (c : Int) (s : State) :
    r ∈ (mr4Taken rank doubled c s).dram.doubled ↔ if r = rank then doubled = true else r ∈ s.dram.doubled := by
  unfold mr4Taken
  dsimp only
  split
  case isTrue hdoubled =>
    rw [mem_insertBy, List.mem_filter]
    by_cases hr : r = rank <;> simp [hr, hdoubled]
  case isFalse hdoubled =>
    rw [List.mem_filter]
    by_cases hr : r = rank <;> simp [hr, hdoubled]

theorem exec_mr4Read_ofRank {s : State} {rank : Nat} (hon : dramOn s = true) (hrank : rank < dramRanks s)
    (doubled beyond : Bool) (c : Int) : exec (.mr4Read rank doubled beyond c) s = .next
      (if beyond then noteDram 4 { u := 0, rank := rank, bg := 0, bank := 0, row := 0 } 0
        (stickDram 0x8 (mr4Taken rank doubled c s)) else mr4Taken rank doubled c s) :=
  congrArg Host.Outcome.next (if_neg (by simp [hon, hrank]))

theorem recentreDram_rest (s : State) : ∃ c, recentreDram s = { s with dram := { s.dram with centreTemp := c } } := by
  unfold recentreDram
  dsimp only
  split
  · exact ⟨_, rfl⟩
  · exact ⟨_, rfl⟩

theorem exec_dqsOscillatorRead_ofRank {s : State} {rank : Nat} (hon : dramOn s = true) (hawake : s.dram.selfRef = false)
    (hrank : rank < dramRanks s) (d : Int) : exec (.dqsOscillatorRead rank d) s = .next
      (recentreDram { s with dram := { s.dram with
        writeDly := mapPut 0 rank (mapAt 0 rank s.dram.writeDly + d) s.dram.writeDly } }) :=
  congrArg Host.Outcome.next (if_neg (by simp [hon, hawake, hrank]))

/-! ## Brake (R337) -/

/-- Brake as a raise of `port` at `fill` percent leaves it. -/
def brakeRaised (port fill : Nat) (s : State) : State :=
  { s with dram := { s.dram with
    brake := s.dram.brake.set port true
    brakes := if s.dram.brake.getD port false then s.dram.brakes else sat32 (s.dram.brakes + 1)
    hold := s.dram.hold.set port (decide (90 ≤ fill)) } }

theorem exec_brakeRaise_full {s : State} {port fill : Nat} (hon : dramOn s = true) (hport : port ≤ 1) (hfill : 50 ≤ fill) :
    exec (.brakeRaise port fill) s = .next
      (if 90 ≤ fill then stickDram 0x4 (brakeRaised port fill s) else brakeRaised port fill s) :=
  congrArg Host.Outcome.next (if_neg (by simp [hon]; omega))

/-! ## Retirement (R341 to R343) -/

section
variable {s : State} {u rank bg bank row : Nat} (hon : dramOn s = true) (hlib : s.lib.state = 0) (hu : u ≤ 7)
  (hroom : rtRoom s = true)
  (hdue : retireDue s { u := u, rank := rank, bg := bg, bank := bank, row := row } false = true)
include hon hlib hu hroom hdue

theorem exec_rowRetire_spare {i : Nat} (hplace : mapRoom s false = true) (hspare : rowSpare s u = some i) :
    exec (.rowRetire u rank bg bank row false) s = .next (remap
      { addr := { u := u, rank := rank, bg := bg, bank := bank, row := row }, whole := false, spare := i } s) := by
  refine congrArg Host.Outcome.next ((if_neg ?_).trans ?_)
  · simp [hon, hlib, hroom, hdue]
    omega
  · simp only [hplace, hspare, Bool.false_eq_true, if_false, if_true]

theorem exec_rowRetire_exhausted (hnone : rowSpare s u = none) :
    exec (.rowRetire u rank bg bank row false) s = .next
      (noteDram 3 { u := u, rank := rank, bg := bg, bank := bank, row := row } 0 (stickDram 0x10 s)) := by
  refine congrArg Host.Outcome.next ((if_neg ?_).trans ?_)
  · simp [hon, hlib, hroom, hdue]
    omega
  · simp only [hnone, Bool.false_eq_true, if_false, ite_self]

end

/-- A new entry of the spare map changes the map, the log, the sticky bits and its setting. -/
theorem remap_facts (e : SpareEntry) (s : State) :
    (remap e s).dram.map = s.dram.map ++ [e] ∧ (remap e s).dram.sticky = s.dram.sticky ||| 0x2 ∧
      (remap e s).dram.corr = s.dram.corr ∧ (remap e s).wr = s.wr ∧ (remap e s).cat = s.cat ∧
      (remap e s).led = s.led := by
  obtain ⟨f, r, hstored⟩ := storeRt_rest (sparePart s) (partValue (s.dram.map ++ [e]) (s.dram.map.length / 12))
    { s with dram := { s.dram with
      map := s.dram.map ++ [e]
      log := modWhere (fun r => if e.whole then sameBank r.addr e.addr else r.addr = e.addr)
        (fun r => { r with retired := true }) s.dram.log } }
  rw [remap, hstored, noteDram, record_rest]
  exact ⟨rfl, rfl, rfl, rfl, rfl, rfl⟩

/-- Settles O50: refresh, MR4, the oscillator, Brake and retirement, each by the state its command leaves. -/
theorem dramRefreshBrakeAndRetirement : Obligations.DramRefreshBrakeAndRetirement := by
  refine ⟨?postponed, ?atLimit, ?caughtUp, ?mr4, ?mr4Beyond, ?oscillator, ?raise, ?raiseHold, ?lower, ?retire, ?exhausted,
    ?notDue⟩
  case postponed =>
    intro s u n k hon hawake hu hpost _ hroom
    refine ⟨_, exec_refreshTick_postponed hon hawake hu (by rwa [natAt_of_getElem? hpost]), rfl, ?_, fun v hv => ?_⟩
    · rw [natAt_of_getElem? hpost]
      exact getElem?_set_same hpost
    · exact List.getElem?_set_ne hv.symm
  case atLimit =>
    intro s u n k hon hawake hu hpost hissued hlimit
    refine ⟨_, exec_refreshTick_issued hon hawake hu true (.inr (by rwa [natAt_of_getElem? hpost])), ?_, ?_⟩
    · rw [natAt_of_getElem? hpost]
      exact getElem?_set_same hpost
    · rw [natAt_of_getElem? hissued]
      exact getElem?_set_same hissued
  case caughtUp =>
    intro s u n k hon hawake hu hpost hissued
    refine ⟨_, exec_refreshTick_issued hon hawake hu false (.inl rfl), rfl, ?_, ?_⟩
    · rw [natAt_of_getElem? hpost, if_neg Bool.false_ne_true, Nat.sub_self]
      exact getElem?_set_same hpost
    · rw [natAt_of_getElem? hpost, natAt_of_getElem? hissued, if_neg Bool.false_ne_true]
      exact getElem?_set_same hissued
  case mr4 =>
    intro s rank doubled c hon hrank
    refine ⟨_, (exec_mr4Read_ofRank hon hrank doubled false c).trans (congrArg _ (if_neg Bool.false_ne_true)), rfl, ?_,
      fun r hr => ?_⟩
    · rw [mem_mr4Taken, if_pos rfl]
    · rw [mem_mr4Taken, if_neg hr]
  case mr4Beyond =>
    intro s rank doubled c hon hrank
    refine ⟨_, (exec_mr4Read_ofRank hon hrank doubled true c).trans (congrArg _ (if_pos rfl)), ?_⟩
    rw [noteDram, record_rest]
    exact ⟨by simp [stickDram], rfl, rfl, rfl⟩
  case oscillator =>
    intro s rank d hon hawake hrank
    obtain ⟨c, hcentred⟩ := recentreDram_rest { s with dram := { s.dram with
      writeDly := mapPut 0 rank (mapAt 0 rank s.dram.writeDly + d) s.dram.writeDly } }
    refine ⟨_, (exec_dqsOscillatorRead_ofRank hon hawake hrank d).trans (congrArg _ hcentred), rfl, ?_⟩
    exact (mapAt_mapPut_eq ..).trans (if_pos rfl)
  case raise =>
    intro s port fill hon hport hlen hfill hlow
    refine ⟨_, (exec_brakeRaise_full hon hport hfill).trans (congrArg _ (if_neg (by omega))), rfl, ?_, ?_⟩
    · have hin : port < s.dram.brake.length := by omega
      simp [brakeRaised, hin]
    · have hin : port < s.dram.brake.length := by omega
      simp [brakeRaised, List.getD_eq_getElem?_getD, hin]
  case raiseHold =>
    intro s port fill hon hport hlen hfill
    have hin : port < s.dram.hold.length := by omega
    refine ⟨_, (exec_brakeRaise_full hon hport (by omega)).trans (congrArg _ (if_pos hfill)), ?_, by simp [stickDram]⟩
    simp [stickDram, brakeRaised, hin, hfill]
  case lower => exact fun s port hon hport => congrArg Host.Outcome.next (if_neg (by simp [hon]; omega))
  case retire =>
    intro s u rank bg bank row i hon hlib hu hroom hdue hplace hspare
    obtain ⟨hmap, hsticky, hcorr, hwr, hcat, hled⟩ := remap_facts
      { addr := { u := u, rank := rank, bg := bg, bank := bank, row := row }, whole := false, spare := i } s
    exact ⟨_, exec_rowRetire_spare hon hlib hu hroom hdue hplace hspare, hmap, by simp [hsticky], hcorr, hwr, hcat, hled⟩
  case exhausted =>
    intro s u rank bg bank row hon hlib hu hroom hdue hnone
    refine ⟨_, exec_rowRetire_exhausted hon hlib hu hroom hdue hnone, ?_⟩
    rw [noteDram, record_rest]
    exact ⟨rfl, by simp [stickDram], rfl⟩
  case notDue => exact fun s u rank bg bank row w hdue => congrArg Host.Outcome.next (if_pos (by simp [hdue]))

end Sys2Proof.Machine
end

section
/-! PROOFS. Reads of a share leave the map as it is (R37, R300, R305). -/

namespace Sys2Proof.Machine

/-! ## The map and the REF bits (R37) -/

/-- Two states of a shelf that differ in the REF bit of its segment alone. -/
inductive SameCards : ShelfSt → ShelfSt → Prop
  | noSegment (e : ShelfEntry) : SameCards { e := e, seg := none } { e := e, seg := none }
  | segment (e : ShelfEntry) (g : Segment) (b : Bool) :
      SameCards { e := e, seg := some g } { e := e, seg := some { g with ref := b } }

theorem SameCards.refl (st : ShelfSt) : SameCards st st := by
  obtain ⟨e, g⟩ := st
  cases g with
  | none => exact .noSegment e
  | some g => exact .segment e g g.ref

theorem SameCards.trans {a b c : ShelfSt} (h : SameCards a b) (k : SameCards b c) : SameCards a c := by
  cases h with
  | noSegment e => exact k
  | segment e g b => cases k with
    | segment _ _ b' => exact .segment e g b'

theorem SameCards.entry {a b : ShelfSt} (h : SameCards a b) : b.e = a.e := by
  cases h <;> rfl

theorem SameCards.withEntry {a b : ShelfSt} (h : SameCards a b) (e : ShelfEntry) :
    SameCards { a with e := e } { b with e := e } := by
  cases h with
  | noSegment _ => exact .noSegment e
  | segment _ g b => exact .segment e g b

theorem SameCards.shelfCard {a b : ShelfSt} (h : SameCards a b) (i : Nat) : shelfCard b i = shelfCard a i := by
  cases h <;> rfl

theorem SameCards.released {a b : ShelfSt} (h : SameCards a b) : SameCards (released a) (released b) := by
  unfold Machine.released
  rw [h.entry]
  split
  · exact .refl _
  · exact h

theorem withSegment_sameCards (g : Segment) (b : Bool) :
    SameCards (withSegment g) (withSegment { g with ref := b }) := by
  unfold withSegment
  dsimp only
  split
  · exact .segment _ _ b
  · exact .noSegment _

theorem toFine_new {st : ShelfSt} (shelf nsid : Nat) (h1 : st.e.form ≠ 1) (h2 : st.e.form ≠ 2) :
    toFine shelf nsid st = newSegment shelf nsid := by
  unfold toFine
  split <;> simp_all

/-- The segment that a shelf turns into keeps all but its REF bit. -/
theorem SameCards.toFine {a b : ShelfSt} (h : SameCards a b) (shelf nsid : Nat) :
    ∃ r, toFine shelf nsid b = { toFine shelf nsid a with ref := r } := by
  cases h with
  | noSegment e => exact ⟨_, rfl⟩
  | segment e g r =>
    by_cases h1 : e.form = 1
    · exact ⟨true, by simp only [Machine.toFine, h1]; rfl⟩
    · by_cases h2 : e.form = 2
      · exact ⟨r, by simp only [Machine.toFine, h2]⟩
      · exact ⟨true, by rw [toFine_new _ _ h1 h2, toFine_new _ _ h1 h2]; rfl⟩

theorem SameCards.setCard {a b : ShelfSt} (h : SameCards a b) (shelf nsid i : Nat) (c : CardEntry) :
    SameCards (setCard shelf nsid i c a) (setCard shelf nsid i c b) := by
  obtain ⟨r, hr⟩ := h.toFine shelf nsid
  unfold Machine.setCard
  dsimp only
  rw [hr]
  exact withSegment_sameCards ..

/-- A Ledger record makes the same of both. -/
theorem SameCards.applyTo {a b : ShelfSt} (h : SameCards a b) (nsid : Nat) (r : LedgerRec) :
    SameCards (applyTo nsid r a) (applyTo nsid r b) := by
  unfold Machine.applyTo
  split
  · exact h.released.setCard ..
  · exact .refl _
  · rw [h.shelfCard]
    split
    · split
      · exact h.setCard ..
      · exact h
    · exact h
  · rw [h.entry]
    split
    · exact h.withEntry _
    · exact h
  · rw [h.entry]
    split
    · dsimp only
      split
      · exact .refl _
      · exact h.withEntry _
    · exact h.setCard ..
    · exact h
  · rw [h.entry]
    split
    · exact h.withEntry _
    · exact h
  · rw [h.shelfCard]
    split
    · split
      · exact h.setCard ..
      · exact h
    · exact h
  · exact h

theorem SameCards.applyAll {a b : ShelfSt} (h : SameCards a b) (nsid : Nat) (l : List LedgerRec) :
    SameCards (l.foldl (fun st r => Machine.applyTo nsid r st) a) (l.foldl (fun st r => Machine.applyTo nsid r st) b) := by
  induction l generalizing a b with
  | nil => exact h
  | cons r l ih => exact ih (h.applyTo nsid r)

theorem shelfBase_touchSegment (sh shelf : Nat) (s : State) :
    SameCards (shelfBase s shelf) (shelfBase (touchSegment sh s) shelf) := by
  unfold shelfBase touchSegment modSeg
  dsimp only
  rw [find?_modWhere _ _ _ _ (fun g => by split <;> rfl)]
  cases s.cat.segs.find? fun g => decide (g.shelf = shelf) with
  | none => exact .noSegment _
  | some g =>
    rw [Option.map_some]
    split
    · exact .segment _ g true
    · exact .segment _ g g.ref

/-! ## What a read of a share may change -/

/-- From `s` to `u` a read has changed the router, the pools, loads and REF bits, the dies' queues and the ladder, and
no card of the map. -/
def OnlyReads (s u : State) : Prop :=
  u = { s with pel := u.pel, pools := u.pools, cat := u.cat, fl := u.fl, esc := u.esc } ∧
    ∀ shelf, SameCards (shelfNow s shelf) (shelfNow u shelf)

theorem OnlyReads.refl (s : State) : OnlyReads s s := ⟨rfl, fun _ => .refl _⟩

theorem OnlyReads.trans {s t u : State} (h : OnlyReads s t) (k : OnlyReads t u) : OnlyReads s u := by
  refine ⟨?_, fun shelf => (h.2 shelf).trans (k.2 shelf)⟩
  rw [k.1, h.1]

theorem OnlyReads.mapped {s u : State} (h : OnlyReads s u) (shelf i : Nat) : mapped u shelf i = mapped s shelf i :=
  (h.2 shelf).shelfCard i

/-- A change that leaves the catalogue's entries, segments and pending updates alone reads no other map. -/
theorem onlyReads_of_cat {s u : State}
    (h : u = { s with pel := u.pel, pools := u.pools, cat := u.cat, fl := u.fl, esc := u.esc })
    (hcat : u.cat.shelves = s.cat.shelves ∧ u.cat.segs = s.cat.segs ∧ u.cat.pend = s.cat.pend) : OnlyReads s u := by
  obtain ⟨hshelves, hsegs, hpend⟩ := hcat
  refine ⟨h, fun shelf => ?_⟩
  have hnsid : shelfNsid u shelf = shelfNsid s shelf := by rw [h]; rfl
  have hsame : shelfNow u shelf = shelfNow s shelf := by
    simp only [shelfNow, shelfBase, hshelves, hsegs, hpend, hnsid]
  rw [hsame]
  exact .refl _

/-- Such a change that leaves the router alone. -/
def QueuesReads (s u : State) : Prop := OnlyReads s u ∧ u.pel = s.pel

theorem QueuesReads.refl (s : State) : QueuesReads s s := ⟨.refl s, rfl⟩

theorem QueuesReads.trans {s t u : State} (h : QueuesReads s t) (k : QueuesReads t u) : QueuesReads s u :=
  ⟨h.1.trans k.1, k.2.trans h.2⟩

theorem touchSegment_reads (sh : Nat) (s : State) : QueuesReads s (touchSegment sh s) :=
  ⟨⟨rfl, fun shelf => (shelfBase_touchSegment sh shelf s).applyAll (shelfNsid s shelf) (s.cat.pend.filter _)⟩, rfl⟩

theorem foldl_queuesReads {α : Type} (f : State → α → State) (h : ∀ s a, QueuesReads s (f s a)) (l : List α)
    (s : State) : QueuesReads s (l.foldl f s) := by
  induction l generalizing s with
  | nil => exact .refl s
  | cons a l ih => exact (h s a).trans (ih (f s a))

/-- A read that no move engine asks for. -/
theorem queueRead_rest (r : ReadReq) (s : State) (hmove : isMove r.why = false) :
    ∃ f e, queueRead r s = { s with fl := f, esc := e } := by
  unfold queueRead
  split
  · unfold failWord
    simp only [List.any_cons, List.any_nil, hmove, Bool.or_false, Bool.false_and, Bool.false_eq_true, if_false]
    exact ⟨s.fl, _, rfl⟩
  · exact ⟨_, s.esc, rfl⟩

theorem queueRead_reads (r : ReadReq) (s : State) (hmove : isMove r.why = false) : QueuesReads s (queueRead r s) := by
  obtain ⟨f, e, hread⟩ := queueRead_rest r s hmove
  rw [hread]
  exact ⟨onlyReads_of_cat rfl ⟨rfl, rfl, rfl⟩, rfl⟩

theorem cardArrived_reads (page : Bool) (index : Nat) (p : Ppa) (s : State) :
    QueuesReads s (cardArrived page index p s) := by
  unfold cardArrived
  split
  · exact ⟨onlyReads_of_cat rfl ⟨rfl, rfl, rfl⟩, rfl⟩
  · exact .refl s

theorem issueLoad_reads (page : Bool) (index : Nat) (s : State) : QueuesReads s (issueLoad page index s) := by
  unfold issueLoad
  split
  · exact .refl s
  · refine foldl_queuesReads _ (fun t p => ?_) _ s
    split
    · exact .refl t
    · split
      · exact cardArrived_reads ..
      · exact queueRead_reads _ t rfl

theorem askOnce_engine_rest (set e : Nat) (sizes : List Nat) (s : State) :
    ∃ p, askOnce set (.engine e) sizes s = { s with pools := p } := by
  unfold askOnce
  split
  · exact ⟨_, rfl⟩
  · unfold requestBuffers
    split
    · exact ⟨_, rfl⟩
    · exact ⟨_, rfl⟩

theorem startLoad_reads (page : Bool) (index : Nat) (s : State) : QueuesReads s (startLoad page index s) := by
  unfold startLoad startLoadAt
  split
  · exact .refl s
  · obtain ⟨p, hasked⟩ := askOnce_engine_rest 1 (19 + 4 * (2 * (2 * index + if page then 1 else 0)))
      [if page then 16 else 4] { s with cat := { s.cat with
        misses := s.cat.misses ++ [(page, index)]
        warmLoads := if false then s.cat.warmLoads ++ [index] else s.cat.warmLoads } }
    unfold mapReq
    rw [hasked]
    have hnoted : QueuesReads s { s with pools := p, cat := { s.cat with
      misses := s.cat.misses ++ [(page, index)]
      warmLoads := if false then s.cat.warmLoads ++ [index] else s.cat.warmLoads } } :=
      ⟨onlyReads_of_cat rfl ⟨rfl, rfl, rfl⟩, rfl⟩
    exact hnoted.trans (issueLoad_reads ..)

/-! ## The end of a transaction (R285) -/

theorem txnAt_congr {s t : State} (h : t.pel.txns = s.pel.txns) (hd : PacketHdr) : txnAt t hd = txnAt s hd := by
  simp only [txnAt, h]

theorem txnAt_hdr {h k : PacketHdr} (hsrc : k.src = h.src) (htag : k.tag = h.tag) (s : State) : txnAt s k = txnAt s h := by
  simp only [txnAt, hsrc, htag]

/-- A transaction that ends leaves the router and the pools changed, and is gone. -/
theorem endTxn_facts (t : InTxn) (st : Nat × Nat) (s : State) :
    (∃ p q, endTxn t st s = { s with pel := p, pools := q }) ∧ txnAt (endTxn t st s) (txnHdr t) = none := by
  obtain ⟨q, hfreed⟩ := freeAllOf_rest (txnReq (txnHdr t).src (txnHdr t).tag) { s with pel := { s.pel with
    txns := s.pel.txns.filter fun x => ! (x.src = (txnHdr t).src && x.tag = (txnHdr t).tag) } }
  obtain ⟨seqs, n, l, c, hsent⟩ := sendPacket_queues (mkHdr (txnHdr t).src 0x6
    (if (txnHdr t).locked then 4 else (txnHdr t).rank) (txnHdr t).locked (txnHdr t).tag (256 * st.1 + st.2) 0) .empty
    { s with pel := { s.pel with
      txns := s.pel.txns.filter fun x => ! (x.src = (txnHdr t).src && x.tag = (txnHdr t).tag) }, pools := q }
  have hended : endTxn t st s = _ := (congrArg (sendDone (txnHdr t) st) hfreed).trans hsent
  rw [hended]
  refine ⟨⟨_, _, rfl⟩, List.find?_eq_none.mpr fun x hx => ?_⟩
  have hother := (List.mem_filter.mp hx).2
  simpa [Decidable.imp_iff_not_or] using hother

theorem sendPackets_rest {α : Type} (hdr : α → PacketHdr) (body : α → PktBody) (l : List α) (s : State) :
    ∃ p, l.foldl (fun u a => sendPacket (hdr a) (body a) u) s = { s with pel := p } :=
  ⟨_, foldl_pel_rest _ (fun _ _ => sendPacket_rest ..) l s⟩

/-! ## READ (R300, R305) -/

/-- The transaction of the header, where there is one, is a READ. -/
def ReadTxn (h : PacketHdr) (s : State) : Prop := ∀ t, txnAt s h = some t → t.op = 2

theorem ReadTxn.congr {h : PacketHdr} {s u : State} (hs : ReadTxn h s) (hpel : u.pel.txns = s.pel.txns) : ReadTxn h u :=
  fun t ht => hs t ((txnAt_congr hpel h).symm.trans ht)

theorem finishShare_read {h : PacketHdr} {s : State} (picks : List Nat) (hread : ReadTxn h s) :
    OnlyReads s (finishShare h picks s) ∧ ReadTxn h (finishShare h picks s) := by
  unfold finishShare
  split
  · exact ⟨.refl s, hread⟩
  case h_2 t ht =>
    obtain ⟨hsrc, htag⟩ := txnAt_header ht
    split
    · exact ⟨.refl s, hread⟩
    · rw [if_pos (hread t ht)]
      dsimp only
      obtain ⟨p, hsent⟩ := sendPackets_rest
        (fun g : Nat × List Nat × Bool => ({ mkHdr (txnHdr t).src 0x5
          (if (txnHdr t).locked then 4 else (txnHdr t).rank) (txnHdr t).locked (txnHdr t).tag
          (4096 * (g.1 - t.desc.cardFirst)) 0 with fox := g.2.2 } : PacketHdr))
        (fun g => .card g.2.1) (sortBy (fun a b => decide (a.1 < b.1)) t.got) s
      rw [hsent]
      obtain ⟨⟨p', q, hended⟩, hgone⟩ := endTxn_facts t scSuccess { s with pel := p }
      refine ⟨?_, fun x hx => ?_⟩
      · rw [hended]
        exact onlyReads_of_cat rfl ⟨rfl, rfl, rfl⟩
      · rw [txnAt_hdr (h := txnHdr t) hsrc.symm htag.symm, hgone] at hx
        exact absurd hx (by simp)

theorem modTxn_read {h : PacketHdr} {s : State} {f : InTxn → InTxn} (hread : ReadTxn h s)
    (hf : ∀ x, (f x).src = x.src ∧ (f x).tag = x.tag ∧ (f x).op = x.op) :
    OnlyReads s (modTxn h f s) ∧ ReadTxn h (modTxn h f s) := by
  refine ⟨onlyReads_of_cat rfl ⟨rfl, rfl, rfl⟩, fun t ht => ?_⟩
  cases hs : txnAt s h with
  | none =>
    have hnone : txnAt (modTxn h f s) h = none := by
      refine (find?_modWhere (fun t => decide (t.src = h.src) && decide (t.tag = h.tag)) f
        (fun t => decide (t.src = h.src) && decide (t.tag = h.tag)) s.pel.txns
        (fun y => by obtain ⟨hsrc, htag, -⟩ := hf y; split <;> simp [hsrc, htag])).trans ?_
      rw [show s.pel.txns.find? _ = none from hs, Option.map_none]
    exact absurd (hnone.symm.trans ht) (by simp)
  | some x =>
    obtain rfl : f x = t := Option.some.inj
      ((txnAt_modTxn (fun y => ⟨(hf y).1, (hf y).2.1⟩) hs).symm.trans ht)
    exact (hf x).2.2.trans (hread x hs)

theorem gotShare_read {h : PacketHdr} {s : State} (x : Nat) (sectors : List Nat) (fox : Bool) (hread : ReadTxn h s) :
    OnlyReads s (gotShare h x sectors fox s) ∧ ReadTxn h (gotShare h x sectors fox s) := by
  have hmod := modTxn_read (f := fun t => if t.want.contains x then { t with
    want := t.want.filter fun y => y != x, got := t.got ++ [(x, sectors, fox)] } else t) hread
    (fun y => by split <;> exact ⟨rfl, rfl, rfl⟩)
  obtain ⟨hdone, hreadDone⟩ := finishShare_read [] hmod.2
  exact ⟨hmod.1.trans hdone, hreadDone⟩

theorem QueuesReads.ofReadTxn {h : PacketHdr} {s u : State} (k : QueuesReads s u) (hread : ReadTxn h s) :
    OnlyReads s u ∧ ReadTxn h u :=
  ⟨k.1, hread.congr (congrArg Peloton.txns k.2)⟩

theorem readShareCard_read {h : PacketHdr} {s : State} (x : Nat) (hread : ReadTxn h s) :
    OnlyReads s (readShareCard h x s) ∧ ReadTxn h (readShareCard h x s) := by
  have touched (sh : Nat) (sectors : List Nat) (fox : Bool) :
      OnlyReads s (gotShare h x sectors fox (touchSegment sh s)) ∧
        ReadTxn h (gotShare h x sectors fox (touchSegment sh s)) := by
    obtain ⟨htouched, hreadTouched⟩ := (touchSegment_reads sh s).ofReadTxn hread
    obtain ⟨hgot, hreadGot⟩ := gotShare_read x sectors fox hreadTouched
    exact ⟨htouched.trans hgot, hreadGot⟩
  unfold readShareCard
  split
  · exact ⟨.refl s, hread⟩
  · split
    · exact ⟨.refl s, hread⟩
    · split
      · exact gotShare_read _ _ _ hread
      · split
        · exact touched ..
        · exact touched ..
        · exact (startLoad_reads ..).ofReadTxn hread
        · exact ((touchSegment_reads _ s).trans (queueRead_reads _ _ rfl)).ofReadTxn hread

/-- Card `x` of the chunk is wanted by the transaction of the header. -/
def wantsCard (h : PacketHdr) (x : Nat) (s : State) : Bool :=
  match txnAt s h with | some y => y.want.contains x | none => false

/-- The wanted cards of a list are read, one after the other. -/
def readWanted (h : PacketHdr) (l : List Nat) (s : State) : State :=
  l.foldl (fun u x => if wantsCard h x u then readShareCard h x u else u) s

theorem readWanted_read {h : PacketHdr} (l : List Nat) (s : State) (hread : ReadTxn h s) :
    OnlyReads s (readWanted h l s) := by
  induction l generalizing s with
  | nil => exact .refl s
  | cons x l ih =>
    rw [readWanted, List.foldl_cons]
    split
    · obtain ⟨hcard, hcardRead⟩ := readShareCard_read x hread
      exact hcard.trans (ih _ hcardRead)
    · exact ih s hread

/-- The cards of the chunk that a transaction names. -/
def chunkCards (t : InTxn) : List Nat := (List.range (t.desc.cardsM1 + 1)).map fun i => t.desc.cardFirst + i

theorem readIn_started {t : InTxn} {s : State} (picks : List Nat) (hshare : shareRefusal s t = none)
    (hwant : t.want = []) (hgot : t.got ≠ []) : readIn picks t s = finishShare (txnHdr t) picks s := by
  unfold readIn onShare
  rw [hshare]
  exact if_pos (by simp [hwant, hgot])

theorem readIn_begins {t : InTxn} {s : State} (picks : List Nat) (hshare : shareRefusal s t = none)
    (hwant : t.want = []) (hgot : t.got = []) : readIn picks t s = readWanted (txnHdr t) (chunkCards t)
      (modTxn (txnHdr t) (fun x => { x with want := chunkCards t }) s) := by
  unfold readIn onShare
  rw [hshare]
  simp only [hwant, hgot, List.isEmpty_nil, Bool.not_true, Bool.and_false, Bool.false_eq_true, if_false, Bool.and_self,
    if_true]
  rfl

theorem readIn_goesOn {t : InTxn} {s : State} (picks : List Nat) (hshare : shareRefusal s t = none)
    (hwant : t.want ≠ []) : readIn picks t s = readWanted (txnHdr t) (chunkCards t) s := by
  have hsome : t.want.isEmpty = false := by simpa using hwant
  unfold readIn onShare
  rw [hshare]
  simp only [hsome, Bool.false_and, Bool.false_eq_true, if_false]
  rfl

/-- A READ on the share of a member whose view and key are right changes no card. -/
theorem readIn_read {t : InTxn} {s : State} (picks : List Nat) (hread : ReadTxn (txnHdr t) s)
    (hshare : shareRefusal s t = none) : OnlyReads s (readIn picks t s) := by
  by_cases hwant : t.want = []
  · by_cases hgot : t.got = []
    · obtain ⟨hmod, hmodRead⟩ := modTxn_read (f := fun x => { x with want := chunkCards t }) hread
        (fun _ => ⟨rfl, rfl, rfl⟩)
      rw [readIn_begins picks hshare hwant hgot]
      exact hmod.trans (readWanted_read _ _ hmodRead)
    · rw [readIn_started picks hshare hwant hgot]
      exact (finishShare_read picks hread).1
  · rw [readIn_goesOn picks hshare hwant]
    exact readWanted_read _ s hread

end Sys2Proof.Machine
end

section
/-! PROOFS. Operations on a member's share, and the sequences they start (R286, R300, R303, R305, R308, R309, R314,
R321). -/

namespace Sys2Proof.Machine

/-! ## The transaction of an operation (R286) -/

section
variable {h : PacketHdr} {op : Nat} {t : InTxn} {s : State} (hserved : Served h op t s)
include hserved

theorem withTxn_served (f : InTxn → State → State) : withTxn h op f s = f t s := by
  obtain ⟨hon, ht, hop, hstarted, hready, hdata⟩ := hserved
  by_cases htakes : opTakesData op t.desc = true
  · simp [withTxn, hon, ht, hop, hstarted, hready, htakes, hdata htakes]
  · simp [withTxn, hon, ht, hop, hstarted, hready, htakes]

theorem served_header : (txnHdr t).src = h.src ∧ (txnHdr t).tag = h.tag := by
  obtain ⟨-, ht, -⟩ := hserved
  exact txnAt_header ht

theorem served_txnAt : txnAt s (txnHdr t) = some t := by
  obtain ⟨hsrc, htag⟩ := served_header hserved
  obtain ⟨-, ht, -⟩ := hserved
  rw [txnAt_hdr hsrc htag, ht]

end

theorem withTxn_none {h : PacketHdr} {op : Nat} {s : State} (f : InTxn → State → State) (ht : txnAt s h = none) :
    withTxn h op f s = s := by
  simp [withTxn, ht]

theorem onShare_refused {t : InTxn} {s : State} {st : Nat × Nat} (f : State → State)
    (hrefused : shareRefusal s t = some st) : onShare t f s = endTxn t st s := by
  simp [onShare, hrefused]

theorem onShare_taken {t : InTxn} {s : State} (f : State → State) (hshare : shareRefusal s t = none) :
    onShare t f s = f s := by
  simp [onShare, hshare]

theorem readIn_refused {t : InTxn} {s : State} {st : Nat × Nat} (picks : List Nat)
    (hrefused : shareRefusal s t = some st) : readIn picks t s = endTxn t st s :=
  by rw [readIn, onShare_refused _ hrefused]

theorem writeIn_refused {t : InTxn} {s : State} {st : Nat × Nat} (picks : List Nat)
    (hrefused : shareRefusal s t = some st) : writeIn picks t s = endTxn t st s := by
  rw [writeIn, onShare_refused _ hrefused]

theorem wholeIn_refused {t : InTxn} {s : State} {st : Nat × Nat} (picks : List Nat)
    (hrefused : shareRefusal s t = some st) : wholeIn picks t s = endTxn t st s := by
  rw [wholeIn, onShare_refused _ hrefused]

theorem writeIn_kept {t : InTxn} {s : State} (picks : List Nat) (hshare : shareRefusal s t = none)
    (hkeep : t.desc.dealloc = false) : writeIn picks t s = txnWrite t t.desc.stripe (txnCards t) picks s := by
  rw [writeIn, onShare_taken _ hshare]
  exact if_neg (by simp [hkeep])

theorem writeIn_released {t : InTxn} {s : State} (picks : List Nat) (hshare : shareRefusal s t = none)
    (hdealloc : t.desc.dealloc = true) : writeIn picks t s =
      settleAll (modTxn (txnHdr t) (fun x => { x with
          started := true, needSeq := seqMark (releaseShare t.nsid t.desc.stripe t.desc.cardFirst (t.desc.cardsM1 + 1) s) })
        (releaseShare t.nsid t.desc.stripe t.desc.cardFirst (t.desc.cardsM1 + 1) s)) := by
  rw [writeIn, onShare_taken _ hshare]
  exact if_pos hdealloc

theorem wholeIn_taken {t : InTxn} {s : State} (picks : List Nat) (hshare : shareRefusal s t = none) :
    wholeIn picks t s = txnWrite t t.desc.stripe (txnCards t) picks s := by
  rw [wholeIn, onShare_taken _ hshare]

/-! ## A card of the share (R300) -/

theorem shareUnderWay_hdr {h k : PacketHdr} (hsrc : k.src = h.src) (htag : k.tag = h.tag) (x : Nat) (s : State) :
    shareUnderWay k x s = shareUnderWay h x s := by
  simp only [shareUnderWay, hsrc, htag]

theorem chunkCards_one {t : InTxn} (h : t.desc.cardsM1 = 0) : chunkCards t = [t.desc.cardFirst] := by
  simp [chunkCards, h]

theorem readWanted_one {h : PacketHdr} {x : Nat} {s : State} (hwants : wantsCard h x s = true) :
    readWanted h [x] s = readShareCard h x s := by
  simp [readWanted, hwants]

section
variable {h : PacketHdr} {x : Nat} {s : State} {t : InTxn} {n : Namespace} {sh c lba : Nat}
  (ht : txnAt s h = some t) (hnew : shareUnderWay h x s = false)
  (hcard : shareCard s t.nsid t.desc.stripe x = some (n, sh, c, lba))
include ht hnew hcard

theorem readShareCard_here {sectors : List Nat} (hold : oldContents s t.nsid lba sh c = .here sectors) :
    readShareCard h x s = gotShare h x sectors false (touchSegment sh s) := by
  simp [readShareCard, ht, hnew, hcard, hold]

theorem readShareCard_flash {p : Ppa} {age : Nat} (hold : oldContents s t.nsid lba sh c = .flash p age) :
    readShareCard h x s =
      queueRead { ppa := p, cls := shareClass s t, why := .share h.src h.tag x lba age } (touchSegment sh s) := by
  simp [readShareCard, ht, hnew, hcard, hold]

end

theorem queueRead_served {r : ReadReq} {s : State} (hserves : dieServes s (ppaChannel r.ppa) (ppaTarget r.ppa) = true)
    (hin : excludedSince s r.ppa = false) : queueRead r s =
      modDie (ppaChannel r.ppa) (ppaTarget r.ppa) (fun d => { d with readQ := d.readQ ++ [r] }) s :=
  if_neg (by simp [unreadable, hserves, hin])

/-- The first card of a read that wants one: the transaction as it then stands. -/
theorem readIn_oneCard {t : InTxn} {s : State} (picks : List Nat) (hshare : shareRefusal s t = none)
    (hone : t.desc.cardsM1 = 0) (hwant : t.want = []) (hgot : t.got = []) (ht : txnAt s (txnHdr t) = some t) :
    readIn picks t s = readShareCard (txnHdr t) t.desc.cardFirst
      (modTxn (txnHdr t) (fun x => { x with want := [t.desc.cardFirst] }) s) ∧
    txnAt (modTxn (txnHdr t) (fun x => { x with want := [t.desc.cardFirst] }) s) (txnHdr t) =
      some { t with want := [t.desc.cardFirst] } := by
  have hv := txnAt_modTxn (f := fun x => { x with want := [t.desc.cardFirst] }) (fun _ => ⟨rfl, rfl⟩) ht
  refine ⟨?_, hv⟩
  rw [readIn_begins picks hshare hwant hgot, chunkCards_one hone]
  exact readWanted_one (by simp [wantsCard, hv])

/-- A READ whose cards have all come sends them and ends. -/
theorem finishShare_ends {h : PacketHdr} {s : State} {t : InTxn} (picks : List Nat) (ht : txnAt s h = some t)
    (hwant : t.want = []) (hgot : t.got ≠ []) (hstarted : t.started = false) (hop : t.op = 2) :
    ∃ p q, finishShare h picks s = { s with pel := p, pools := q } ∧
      txnAt { s with pel := p, pools := q } (txnHdr t) = none := by
  obtain ⟨p, hsent⟩ := sendPackets_rest
    (fun g : Nat × List Nat × Bool => ({ mkHdr (txnHdr t).src 0x5
      (if (txnHdr t).locked then 4 else (txnHdr t).rank) (txnHdr t).locked (txnHdr t).tag
      (4096 * (g.1 - t.desc.cardFirst)) 0 with fox := g.2.2 } : PacketHdr))
    (fun g => .card g.2.1) (sortBy (fun a b => decide (a.1 < b.1)) t.got) s
  obtain ⟨⟨p', q, hended⟩, hgone⟩ := endTxn_facts t scSuccess { s with pel := p }
  have hfinish : finishShare h picks s = endTxn t scSuccess { s with pel := p } := by
    unfold finishShare
    rw [ht]
    refine (if_neg (by simp [hwant, hgot, hstarted])).trans ((if_pos hop).trans ?_)
    exact congrArg (endTxn t scSuccess) hsent
  exact ⟨p', q, hfinish.trans hended, hended ▸ hgone⟩

/-- A card that is here at once ends a READ of that one card. -/
theorem readIn_cardHere {t : InTxn} {s : State} {n : Namespace} {sh c lba : Nat} {sectors : List Nat}
    (hshare : shareRefusal s t = none) (hone : t.desc.cardsM1 = 0) (hwant : t.want = []) (hgot : t.got = [])
    (ht : txnAt s (txnHdr t) = some t) (hop : t.op = 2) (hstarted : t.started = false)
    (hnew : shareUnderWay (txnHdr t) t.desc.cardFirst s = false)
    (hcard : shareCard s t.nsid t.desc.stripe t.desc.cardFirst = some (n, sh, c, lba))
    (hold : oldContents s t.nsid lba sh c = .here sectors) :
    ∃ u, readIn [] t s = u ∧ u = { s with pel := u.pel, pools := u.pools, cat := u.cat } ∧
      txnAt u (txnHdr t) = none := by
  obtain ⟨hread, hv⟩ := readIn_oneCard [] hshare hone hwant hgot ht
  obtain ⟨w, hw⟩ : ∃ w, modTxn (txnHdr t) (fun y => if y.want.contains t.desc.cardFirst then { y with
      want := y.want.filter fun z => z != t.desc.cardFirst, got := y.got ++ [(t.desc.cardFirst, sectors, false)] } else y)
      (touchSegment sh (modTxn (txnHdr t) (fun x => { x with want := [t.desc.cardFirst] }) s)) = w := ⟨_, rfl⟩
  have htw : txnAt w (txnHdr t) = some { t with want := [], got := [(t.desc.cardFirst, sectors, false)] } := by
    rw [← hw]
    refine (txnAt_modTxn (fun y => by split <;> exact ⟨rfl, rfl⟩) hv).trans ?_
    simp [hgot]
  obtain ⟨p, q, hfinish, hgone⟩ := finishShare_ends [] htw rfl (by simp) hstarted hop
  have hgotShare : readIn [] t s = finishShare (txnHdr t) [] w := by
    rw [hread, readShareCard_here hv hnew hcard hold, ← hw]
    rfl
  refine ⟨_, hgotShare.trans hfinish, ?_, hgone⟩
  rw [← hw]
  rfl

/-- A card on flash is queued as a read of its die. -/
def flashRead (h : PacketHdr) (t : InTxn) (sh lba age : Nat) (p : Ppa) (s : State) : State :=
  modDie (ppaChannel p) (ppaTarget p) (fun d => { d with readQ := d.readQ ++
      [{ ppa := p, cls := shareClass s t, why := .share h.src h.tag t.desc.cardFirst lba age }] })
    (touchSegment sh (modTxn (txnHdr t) (fun x => { x with want := [t.desc.cardFirst] }) s))

theorem readIn_cardOnFlash {h : PacketHdr} {t : InTxn} {s : State} {n : Namespace} {sh c lba age : Nat} {p : Ppa}
    (picks : List Nat) (hshare : shareRefusal s t = none) (hone : t.desc.cardsM1 = 0) (hwant : t.want = [])
    (hgot : t.got = []) (ht : txnAt s (txnHdr t) = some t) (hsrc : (txnHdr t).src = h.src)
    (htag : (txnHdr t).tag = h.tag) (hnew : shareUnderWay h t.desc.cardFirst s = false)
    (hcard : shareCard s t.nsid t.desc.stripe t.desc.cardFirst = some (n, sh, c, lba))
    (hold : oldContents s t.nsid lba sh c = .flash p age) (hserves : dieServes s (ppaChannel p) (ppaTarget p) = true)
    (hin : excludedSince s p = false) : readIn picks t s = flashRead h t sh lba age p s := by
  obtain ⟨hread, hv⟩ := readIn_oneCard picks hshare hone hwant hgot ht
  rw [hread, readShareCard_flash hv ((shareUnderWay_hdr hsrc htag _ _).trans hnew) hcard hold, hsrc, htag]
  exact queueRead_served (r := { ppa := p, cls := shareClass s t
                                 why := .share h.src h.tag t.desc.cardFirst lba age }) hserves hin

theorem flashRead_facts {h : PacketHdr} {t : InTxn} {s : State} {sh lba age : Nat} {p : Ppa} {x : Die}
    (ht : txnAt s (txnHdr t) = some t) (hsrc : (txnHdr t).src = h.src) (htag : (txnHdr t).tag = h.tag)
    (hx : dieAt s (ppaChannel p) (ppaTarget p) = some x) :
    flashRead h t sh lba age p s = { s with
      pel := (flashRead h t sh lba age p s).pel
      cat := (flashRead h t sh lba age p s).cat
      fl := (flashRead h t sh lba age p s).fl } ∧
    txnAt (flashRead h t sh lba age p s) h = some { t with want := [t.desc.cardFirst] } ∧
    dieAt (flashRead h t sh lba age p s) (ppaChannel p) (ppaTarget p) = some { x with readQ := x.readQ ++
      [{ ppa := p, cls := shareClass s t, why := .share h.src h.tag t.desc.cardFirst lba age }] } := by
  refine ⟨rfl, ?_, ?_⟩
  · rw [← txnAt_hdr hsrc htag]
    exact txnAt_modTxn (fun _ => ⟨rfl, rfl⟩) ht
  · obtain ⟨-, hdie⟩ := modDie_changed (ppaChannel p) (ppaTarget p) (fun d => { d with readQ := d.readQ ++
      [{ ppa := p, cls := shareClass s t, why := .share h.src h.tag t.desc.cardFirst lba age }] })
      (touchSegment sh (modTxn (txnHdr t) (fun x => { x with want := [t.desc.cardFirst] }) s)) (fun _ => ⟨rfl, rfl⟩)
    exact (hdie _ _).trans ((if_pos ⟨rfl, rfl⟩).trans (congrArg (Option.map _) hx))

/-! ## DELTA (R309) -/

theorem finishShare_delta {h : PacketHdr} {s : State} {t : InTxn} (picks : List Nat) (ht : txnAt s h = some t)
    (hwant : t.want = []) (hgot : t.got ≠ []) (hstarted : t.started = false) (hop : t.op = 4) :
    finishShare h picks s = if t.got.any fun g => g.2.2 then endTxn t scUnrecovered s
      else txnWrite t t.desc.stripe (deltaCards t) picks s := by
  unfold finishShare
  rw [ht]
  exact (if_neg (by simp [hwant, hgot, hstarted])).trans ((if_neg (by omega)).trans (if_pos hop))

theorem readIn_deltaRead {h : PacketHdr} {s : State} {t : InTxn} (picks : List Nat) (hserved : Served h 4 t s)
    (hshare : shareRefusal s t = none) (hwant : t.want = []) (hgot : t.got ≠ []) :
    readIn picks t s = if t.got.any fun g => g.2.2 then endTxn t scUnrecovered s
      else txnWrite t t.desc.stripe (deltaCards t) picks s := by
  have ht := served_txnAt hserved
  obtain ⟨-, -, hop, hstarted, -⟩ := hserved
  rw [readIn_started picks hshare hwant hgot, finishShare_delta picks ht hwant hgot hstarted hop]

theorem deltaCards_read {t : InTxn} {old : Nat → List Nat}
    (hold : ∀ x, x ∈ txnCards t → t.got.find? (fun g => g.1 = x.1) = some (x.1, old x.1, false)) :
    deltaCards t = (txnCards t).map fun x =>
      (x.1, xorCard (old x.1) (mulCard (if t.desc.role = 0x41 then gfPow t.desc.dataIndex else 1) x.2)) := by
  refine List.map_congr_left fun x hx => ?_
  rw [hold x hx]
  rfl

/-! ## Sequences that a member starts (R308, R314) -/

/-- A request that starts changes the router alone, and its locks not; it is outstanding. -/
theorem startRequest_facts (r : OutReq) (s : State) : ∃ p x, startRequest r s = { s with pel := p } ∧
    p.locks = s.pel.locks ∧ p.out = s.pel.out ++ [x] ∧ x.dst = r.dst ∧ x.op = r.op ∧ x.owner = r.owner := by
  unfold startRequest
  split
  · unfold sendRequest
    obtain ⟨seqs, n, q, l, hsent⟩ := sendPacket_queues _ _ _
    rw [hsent]
    exact ⟨_, _, rfl, rfl, rfl, rfl, rfl, rfl⟩
  · exact ⟨_, _, rfl, rfl, rfl, rfl, rfl, rfl⟩

theorem runBusy_of_mem {s : State} {id : Nat} {q : OutReq} (hq : q ∈ s.pel.out) (howner : q.owner = .run id) :
    runBusy s id = true :=
  List.any_eq_true.mpr ⟨q, hq, by simp [howner]⟩

/-- A command of a sequence to a position that is known. -/
theorem runCmd_facts {pos : Nat} {s : State} (r : Steward) (op rank : Nat) (locked : Bool) (payload : List (List Nat))
    (hknown : posKnown s r.echelon r.stripe pos = true) :
    ∃ p x, runCmd r pos op rank locked payload s = { s with pel := p } ∧ p.locks = s.pel.locks ∧
      p.out = s.pel.out ++ [x] ∧ x.dst = memberAt s r.echelon pos ∧ x.op = op ∧ x.owner = .run r.id := by
  rw [runCmd, if_pos hknown, sendCmd]
  exact startRequest_facts _ _

/-- The sequence of a READ_CHECKED whose position does not lag. -/
def checkedRun (t : InTxn) (s : State) : Steward :=
  { jobRun 3 t.desc.echelon t.desc.stripe t.desc.role t.desc.cardFirst (t.desc.cardsM1 + 1) 2 with
    id := s.ech.nextRun, entries := [(t.src, t.tag, t.rank)], lent := t.locked }

/-- The state with a new sequence in it, its transaction running. -/
def withRun (r : Steward) (t : InTxn) (s : State) : State :=
  { markRunning [t] s with ech := { s.ech with stewards := s.ech.stewards ++ [r], nextRun := s.ech.nextRun + 1 } }

theorem checkedIn_elsewhere {t : InTxn} {s : State} (order : List Nat)
    (h : staleView s t.desc = true ∨ keeperOf s t.desc.echelon t.desc.stripe ≠ s.pel.self) :
    checkedIn order t s = endTxn t (3, 3) s :=
  if_pos (by rcases h with h | h <;> simp [h])

/-- READ_CHECKED at the keeper first reads the card's holder. -/
theorem checkedIn_reads {t : InTxn} {s : State} (order : List Nat) (hview : staleView s t.desc = false)
    (hkeeper : keeperOf s t.desc.echelon t.desc.stripe = s.pel.self)
    (hlag : lagEntry s t.desc.echelon t.desc.stripe (posOfRole s t.desc.echelon t.desc.stripe t.desc.role) = none)
    (hknown : posKnown s t.desc.echelon t.desc.stripe (posOfRole s t.desc.echelon t.desc.stripe t.desc.role) = true) :
    ∃ p q, checkedIn order t s = { withRun (checkedRun t s) t s with pel := p } ∧ p.locks = s.pel.locks ∧ q ∈ p.out ∧
      q.op = 2 ∧ q.owner = .run (checkedRun t s).id ∧
      q.dst = memberAt s t.desc.echelon (posOfRole s t.desc.echelon t.desc.stripe t.desc.role) := by
  obtain ⟨u, hu⟩ : ∃ u, runCmd (checkedRun t s) (posOfRole s t.desc.echelon t.desc.stripe t.desc.role) 2
      (if t.locked then 4 else t.rank) t.locked [] (withRun (checkedRun t s) t s) = u := ⟨_, rfl⟩
  obtain ⟨p, q, hsent, hlocks, hout, hdst, hop, howner⟩ := runCmd_facts (checkedRun t s) 2
    (if t.locked then 4 else t.rank) t.locked [] (s := withRun (checkedRun t s) t s) hknown
  have hupel := hu.symm.trans hsent
  have hq : q ∈ p.out := by rw [hout]; exact List.mem_append_right _ List.mem_cons_self
  have hbusy : runBusy u (checkedRun t s).id = true := by
    rw [hupel]
    exact runBusy_of_mem hq howner
  refine ⟨p, q, ?_, hlocks, hq, hop, howner, hdst⟩
  rw [← hupel]
  unfold checkedIn
  simp only [hlag, Option.isSome_none, Bool.false_eq_true, if_false]
  refine (if_neg (by simp [hview, hkeeper])).trans ?_
  change (if runBusy (runCmd (checkedRun t s) (posOfRole s t.desc.echelon t.desc.stripe t.desc.role) 2
      (if t.locked then 4 else t.rank) t.locked [] (withRun (checkedRun t s) t s)) (checkedRun t s).id then _ else _) = _
  rw [hu, if_pos hbusy]
  exact hu

theorem forwardIn_stale {t : InTxn} {s : State} (hview : staleView s t.desc = true) :
    forwardIn t s = endTxn t (3, 3) s :=
  if_pos (by simp [hview])

/-- The sequence of a small write at its steward. -/
def smallRun (t : InTxn) (s : State) : Steward :=
  { id := s.ech.nextRun, kind := 0, echelon := t.desc.echelon, stripe := t.desc.stripe, dataIdx := t.desc.role,
    cardFirst := t.desc.cardFirst, cards := t.desc.cardsM1 + 1, fua := t.desc.fua, dealloc := t.desc.dealloc, phase := 1,
    new := partCards t, old := [], others := [], failed := [], entries := [(t.src, t.tag, t.rank)], slot := none }

theorem forwardIn_small {t : InTxn} {s : State} (hview : staleView s t.desc = false) (hsmall : t.desc.full = false)
    (hmine : stewardOf s t.desc.echelon t.desc.stripe t.desc.role = s.pel.self) :
    forwardIn t s = sendLock t.desc.echelon t.desc.stripe 2 (.run (smallRun t s).id) (withRun (smallRun t s) t s) := by
  unfold forwardIn
  refine (if_neg (by simp [hview, hmine])).trans ((if_neg (by simp [hsmall])).trans ((if_neg (by simp [hsmall])).trans ?_))
  rfl

/-! ## FORMAT (R321) -/

section
variable {s u : State} {h : PacketHdr} {nsid ses e : Nat} {n : Namespace} (htxn : txnAt s h = none)
  (haccept : accept 3 h s = (true, u)) (hop : cmdOp h = 8) (hns : nsAt u nsid = some n) (hspan : n.spanned = some e)
  (hses : ses ≤ 2)
include htxn haccept hop hns hspan hses

theorem exec_ecFormat_accepted : exec (.ecFormat h nsid ses) s = .next (addRenewals
    [{ newRenewal (leaveIdle u) (keySlot nsid 0) none none (decide (ses = 2)) true with
      reply := some (h.src, h.tag, h.rank) }] (endRebuild e (leaveIdle u))) := by
  have hnsIdle : nsAt (leaveIdle u) nsid = some n := hns
  have hagent : agentCmd h 8 (formatShare h nsid ses) s = formatShare h nsid ses (leaveIdle u) := by
    unfold agentCmd
    rw [htxn]
    exact (onPacket_accepted haccept).trans (if_pos hop)
  refine congrArg Host.Outcome.next (hagent.trans ?_)
  unfold formatShare
  rw [hnsIdle]
  refine (if_neg ?_).trans ?_
  · simp [hspan]
    omega
  · rw [hspan]

end

theorem endRebuild_notRebuilding {s : State} {e : Nat}
    (h : ∀ v p, viewOf s e = some v → positionOf v s.pel.self = some p → (placeAt v p).2 ≠ 3) : endRebuild e s = s := by
  unfold endRebuild
  split
  · rfl
  case h_2 v hv =>
    split
    · rfl
    case h_2 p hp => exact if_pos (by simpa using h v p hv hp)

/-- Settles O53: every operation by the part of its handler that its transaction reaches. -/
theorem shareOperations : Obligations.ShareOperations := by
  refine ⟨?noTxn, ?refused, ?read, ?readHere, ?readFlash, ?write, ?release, ?deltaMarked, ?delta, ?whole, ?checked,
    ?checkedBusy, ?forwardStale, ?forward, ?reserved, ?known, ?format, ?renewal⟩
  case noTxn =>
    intro s h d fresh picks order ht
    have hstays (op : Nat) (f : InTxn → State → State) := withTxn_none (op := op) f ht
    refine ⟨congrArg Host.Outcome.next (hstays ..), congrArg Host.Outcome.next (hstays ..), congrArg Host.Outcome.next (hstays ..), congrArg Host.Outcome.next (hstays ..),
      congrArg Host.Outcome.next (hstays ..), congrArg Host.Outcome.next (hstays ..), fun hwaiting => ?_⟩
    change execReadChecked h d order s = _
    rw [execReadChecked, hwaiting]
    exact congrArg Host.Outcome.next (hstays ..)
  case refused =>
    intro s h d t st hrefused
    refine ⟨fun hserved => congrArg Host.Outcome.next ((withTxn_served hserved _).trans (readIn_refused _ hrefused)),
      fun picks hserved => congrArg Host.Outcome.next ((withTxn_served hserved _).trans (writeIn_refused _ hrefused)),
      fun fresh picks hserved => congrArg Host.Outcome.next ((withTxn_served hserved _).trans (readIn_refused _ hrefused)),
      fun picks hserved => congrArg Host.Outcome.next ((withTxn_served hserved _).trans (wholeIn_refused _ hrefused)),
      fun picks hserved => congrArg Host.Outcome.next ((withTxn_served hserved _).trans (wholeIn_refused _ hrefused))⟩
  case read =>
    intro s h d t hserved hshare
    have ht := served_txnAt hserved
    have hread : ReadTxn (txnHdr t) s := fun x hx => by
      obtain rfl : t = x := Option.some.inj (ht.symm.trans hx)
      exact hserved.2.2.1
    have honly := readIn_read [] hread hshare
    exact ⟨_, congrArg Host.Outcome.next (withTxn_served hserved _), honly.1, fun sh c => honly.mapped sh c⟩
  case readHere =>
    intro s h d t n sh c lba sectors hserved hshare hone hwant hgot hnew hcard hold
    obtain ⟨hsrc, htag⟩ := served_header hserved
    obtain ⟨-, -, hop, hstarted, -⟩ := id hserved
    obtain ⟨u, hu, hrest, hgone⟩ := readIn_cardHere hshare hone hwant hgot (served_txnAt hserved) hop hstarted
      ((shareUnderWay_hdr hsrc htag _ _).trans hnew) hcard hold
    exact ⟨u, congrArg Host.Outcome.next ((withTxn_served hserved _).trans hu), hrest, (txnAt_hdr hsrc htag u).symm.trans hgone⟩
  case readFlash =>
    intro s h d t n sh c lba age p x hshare hone hwant hgot hnew hcard hold hserves hin hx
    have queued (op : Nat) (picks : List Nat) (hserved : Served h op t s) :
        readIn picks t s = flashRead h t sh lba age p s := by
      obtain ⟨hsrc, htag⟩ := served_header hserved
      exact readIn_cardOnFlash picks hshare hone hwant hgot (served_txnAt hserved) hsrc htag hnew hcard hold hserves hin
    have facts (op : Nat) (hserved : Served h op t s) := flashRead_facts (sh := sh) (lba := lba) (age := age)
      (served_txnAt hserved) (served_header hserved).1 (served_header hserved).2 hx
    exact ⟨flashRead h t sh lba age p s, fun hserved => congrArg Host.Outcome.next ((withTxn_served hserved _).trans (queued 2 _ hserved)),
      fun fresh picks hserved => congrArg Host.Outcome.next ((withTxn_served hserved _).trans (queued 4 _ hserved)),
      fun hserved => hserved.elim (facts 2) (facts 4)⟩
  case write =>
    intro s h d t picks hserved hshare hkeep
    exact congrArg Host.Outcome.next ((withTxn_served hserved _).trans (writeIn_kept _ hshare hkeep))
  case release =>
    intro s h d t picks hserved hshare hdealloc
    exact congrArg Host.Outcome.next ((withTxn_served hserved _).trans (writeIn_released _ hshare hdealloc))
  case deltaMarked =>
    intro s h d t fresh picks g hserved hshare hwant hg hmarked
    refine congrArg Host.Outcome.next ((withTxn_served hserved _).trans ((readIn_deltaRead _ hserved hshare hwant
      (List.ne_nil_of_mem hg)).trans (if_pos (List.any_eq_true.mpr ⟨g, hg, hmarked⟩))))
  case delta =>
    intro s h d t fresh picks old hserved hshare hwant hgot hclean hold
    rw [← deltaCards_read hold]
    refine congrArg Host.Outcome.next ((withTxn_served hserved _).trans ((readIn_deltaRead _ hserved hshare hwant hgot).trans
      (if_neg ?_)))
    simpa using hclean
  case whole =>
    intro s h d t picks hshare
    exact ⟨fun hserved => congrArg Host.Outcome.next ((withTxn_served hserved _).trans (wholeIn_taken _ hshare)),
      fun hserved => congrArg Host.Outcome.next ((withTxn_served hserved _).trans (wholeIn_taken _ hshare))⟩
  case checked =>
    intro s h d t order hserved hwaiting
    have hrun : exec (.readChecked h d order) s = .next (checkedIn order t s) := by
      change execReadChecked h d order s = _
      rw [execReadChecked, hwaiting]
      exact congrArg Host.Outcome.next (withTxn_served hserved _)
    refine ⟨fun h => hrun.trans (congrArg Host.Outcome.next (checkedIn_elsewhere order h)), fun hview hkeeper hlag hknown => ?_⟩
    obtain ⟨p, q, hcheck, hlocks, hq, hop, howner, hdst⟩ := checkedIn_reads order hview hkeeper hlag hknown
    exact ⟨_, checkedRun t s, q, hrun.trans (congrArg _ hcheck), rfl, rfl, rfl, hlocks,
      List.mem_append_right _ List.mem_cons_self, rfl, rfl, hq, hop, howner, hdst⟩
  case checkedBusy =>
    intro s h d order r hwaiting hstays
    change execReadChecked h d order s = _
    rw [execReadChecked, hwaiting]
    refine congrArg Host.Outcome.next ?_
    dsimp only
    rcases hstays with hoff | hbusy
    · rw [hoff]
      rfl
    · rw [checkedStep, if_pos hbusy, ite_self]
  case forwardStale =>
    exact fun s h d t hserved hview => congrArg Host.Outcome.next ((withTxn_served hserved _).trans (forwardIn_stale hview))
  case forward =>
    intro s h d t hserved hview hsmall hmine
    obtain ⟨p, q, hsent, -⟩ := startRequest_facts (mkReq (mkHdr (keeperOf s t.desc.echelon t.desc.stripe) 0x7 2 false 0
      (stripeArg t.desc.echelon t.desc.stripe) 0) .empty 0 (.run (smallRun t s).id)
      { noDesc with echelon := t.desc.echelon, stripe := t.desc.stripe } []) (withRun (smallRun t s) t s)
    exact ⟨_, smallRun t s, congrArg Host.Outcome.next ((withTxn_served hserved _).trans ((forwardIn_small hview hsmall hmine).trans
      hsent)), rfl, rfl, rfl, rfl, rfl, rfl, rfl, rfl, rfl, rfl⟩
  case reserved =>
    exact fun s u h haccept hop => congrArg Host.Outcome.next ((onPacket_accepted haccept).trans (if_neg (by simp [hop])))
  case known => exact fun s u h haccept hop => congrArg Host.Outcome.next ((onPacket_accepted haccept).trans (if_pos hop))
  case format =>
    exact fun s u h nsid ses e n htxn haccept hop hns hspan hses =>
      exec_ecFormat_accepted htxn haccept hop hns hspan hses
  case renewal =>
    intro s u h nsid ses e n htxn haccept hop hns hspan hses hnotRebuilding
    have hstays : endRebuild e (leaveIdle u) = leaveIdle u := endRebuild_notRebuilding hnotRebuilding
    have hrun := exec_ecFormat_accepted htxn haccept hop hns hspan hses
    rw [hstays] at hrun
    exact ⟨_, _, hrun, rfl, rfl, rfl, rfl, rfl, rfl⟩

end Sys2Proof.Machine
end

section
/-! PROOFS. What the map's work leaves alone: a Ledger record, the rows, cards, shelves and loads it moves, and a card
written to the member's own share change the stores of the local map only. Peloton and the echelons are never among them. -/

namespace Sys2Proof.Machine

/-- The state without the stores of the local map: buffers, writes under way, catalogue, Ledger, inventory, block
stripes, dies and escalation counts. -/
def beyondMap (s : State) : State :=
  { s with pools := State.reset.pools, wr := State.reset.wr, cat := State.reset.cat, led := State.reset.led,
           inv := State.reset.inv, blk := State.reset.blk, fl := State.reset.fl, esc := State.reset.esc }

theorem ech_of_beyondMap {s t : State} (h : beyondMap t = beyondMap s) : t.ech = s.ech :=
  (congrArg State.ech h :)

/-! ## Buffers (R14, R15) -/

@[simp] theorem requestBuffers_engine_beyondMap (set e : Nat) (sizes : List Nat) (s : State) :
    beyondMap (requestBuffers set (.engine e) sizes s) = beyondMap s := by
  unfold requestBuffers
  split <;> rfl

@[simp] theorem askOnce_engine_beyondMap (set e : Nat) (sizes : List Nat) (s : State) :
    beyondMap (askOnce set (.engine e) sizes s) = beyondMap s := by
  unfold askOnce
  split
  · rfl
  · exact requestBuffers_engine_beyondMap ..

@[simp] theorem freeAllOf_beyondMap (who : Requester) (s : State) :
    beyondMap (freeAllOf who s) = beyondMap s := by
  obtain ⟨p, hp⟩ := freeAllOf_rest who s
  rw [hp]; rfl

@[simp] theorem stallRow_beyondMap (n : Nat) (ok : State → Bool) (s : State) :
    beyondMap (stallRow n ok s) = beyondMap s := by
  unfold stallRow
  split
  · rfl
  · dsimp only
    split
    · exact (requestBuffers_engine_beyondMap ..).trans (freeAllOf_beyondMap ..)
    · rfl

/-! ## Rows (R64, R87, R169) -/

@[simp] theorem padCells_beyondMap (id : Nat) (cells : List Nat) (s : State) :
    beyondMap (padCells id cells s) = beyondMap s :=
  (congrArg beyondMap (padCells_withoutRowWork id cells s) :)

@[simp] theorem fillCells_beyondMap (id : Nat) (cells : List Nat) (s : State) :
    beyondMap (fillCells id cells s) = beyondMap s :=
  (congrArg beyondMap (queueReady_withoutRowWork id _) :)

@[simp] theorem openStripe_beyondMap (n stream : Nat) (s : State) :
    beyondMap (openStripe n stream s) = beyondMap s := by
  unfold openStripe
  dsimp only
  split
  · rfl
  · exact (askOnce_engine_beyondMap ..).trans rfl

theorem easeDie_beyondMap {e : LaneEntry} {s t : State} (h : easeDie e s = some t) :
    beyondMap t = beyondMap s := by
  unfold easeDie at h
  split at h
  · cases h
  · dsimp only at h
    split at h
    · cases h
    · obtain rfl := Option.some.inj h
      exact padCells_beyondMap ..

theorem openRowIn_beyondMap {n stream engine : Nat} {s t : State} (h : openRowIn n stream engine s = some t) :
    beyondMap t = beyondMap s := by
  unfold openRowIn at h
  split at h
  · cases h
  · split at h
    · cases h
    · obtain rfl := Option.some.inj h
      rfl

theorem openRowIn_openStripe_beyondMap {n stream engine : Nat} {s t : State}
    (h : openRowIn n stream engine (openStripe n stream s) = some t) : beyondMap t = beyondMap s :=
  (openRowIn_beyondMap h).trans (openStripe_beyondMap ..)

theorem openRowFor_beyondMap {stream engine : Nat} {carrel : Bool} {group : Option Nat} {s t : State}
    (h : openRowFor stream carrel engine group s = some t) : beyondMap t = beyondMap s := by
  unfold openRowFor at h
  dsimp only at h
  split at h
  · exact openRowIn_beyondMap h
  · split at h
    · split at h
      · exact openRowIn_openStripe_beyondMap h
      · cases h
    · split at h
      · cases h
      · split at h
        · cases h
        · exact openRowIn_openStripe_beyondMap h

theorem takeWithin_beyondMap {stream engine pick : Nat} {carrel run : Bool} {group : Option Nat} {r : OpenRow}
    {cells : List Nat} {t : State} (fuel : Nat) : ∀ {s : State},
    takeWithin stream carrel engine group run pick fuel s = some (r, cells, t) → beyondMap t = beyondMap s := by
  induction fuel with
  | zero => intro s h; cases h
  | succ fuel ih =>
    intro s h
    unfold takeWithin at h
    split at h
    · cases h
    · rename_i r' cells' u hchosen
      have hu : beyondMap u = beyondMap s := by
        rcases chooseCells_state hchosen with rfl | hopened
        · rfl
        · exact openRowFor_beyondMap hopened
      dsimp only at h
      split at h
      · obtain ⟨-, -, rfl⟩ : r' = r ∧ cells' = cells ∧ u = t := by simpa using h
        exact hu
      · split at h
        · cases h
        · rename_i heased
          exact (ih h).trans ((easeDie_beyondMap heased).trans hu)

theorem placeSystem_beyondMap {pick : Nat} {data : List Nat} {s t : State} {ppa : Ppa}
    (h : placeSystem pick data s = some (ppa, t)) : beyondMap t = beyondMap s := by
  unfold placeSystem at h
  split at h
  · cases h
  · rename_i htaken
    split at h
    · cases h
    · obtain ⟨-, rfl⟩ := Prod.mk.inj (Option.some.inj h)
      have htake := takeWithin_beyondMap _ htaken
      exact (fillCells_beyondMap ..).trans htake

/-! ## Shelves and their loads (R28, R35, R37, R39) -/

@[simp] theorem dropSegment_beyondMap (g : Segment) (s : State) :
    beyondMap (dropSegment g s) = beyondMap s := by
  unfold dropSegment
  split
  · split
    · exact stallRow_beyondMap ..
    · rename_i hplaced
      have hplace := placeSystem_beyondMap hplaced
      rw [supersede_rest]
      exact hplace
  · rfl

@[simp] theorem evictOne_beyondMap (s : State) : beyondMap (evictOne s) = beyondMap s := by
  have hpassed (l : List Segment) (t : State) : beyondMap (l.foldl
      (fun t g => modSeg g.shelf (fun x => { x with ref := false }) t) t) = beyondMap t := by
    refine foldl_keeps beyondMap _ (fun u g => ?_) l t
    rfl
  unfold evictOne
  dsimp only
  split
  · exact hpassed ..
  · exact (dropSegment_beyondMap ..).trans (hpassed ..)

@[simp] theorem seatSegment_beyondMap (shelf : Nat) (s : State) :
    beyondMap (seatSegment shelf s) = beyondMap s := by
  have hslot : beyondMap (takeSlot s).2 = beyondMap s := by
    unfold takeSlot
    split
    · rfl
    · exact evictOne_beyondMap s
  unfold seatSegment
  split
  · rfl
  · split
    · rfl
    · exact hslot

@[simp] theorem putShelf_beyondMap (shelf : Nat) (st : ShelfSt) (s : State) :
    beyondMap (putShelf shelf st s) = beyondMap s := by
  unfold putShelf
  refine (seatSegment_beyondMap ..).trans ?_
  unfold modIndex
  split
  · split
    · rw [supersede_rest]; rfl
    · rfl
  · rfl

@[simp] theorem applyNow_beyondMap (r : LedgerRec) (s : State) :
    beyondMap (applyNow r s) = beyondMap s := by
  unfold applyNow
  dsimp only
  split
  · rfl
  · rw [shiftValid_rest]
    exact putShelf_beyondMap ..

@[simp] theorem queueRead_beyondMap (r : ReadReq) (s : State) :
    beyondMap (queueRead r s) = beyondMap s := by
  unfold queueRead failWord
  split
  · dsimp only
    split <;> rfl
  · rfl

@[simp] theorem issueLoad_beyondMap (page : Bool) (index : Nat) (s : State) :
    beyondMap (issueLoad page index s) = beyondMap s := by
  unfold issueLoad
  split
  · rfl
  · refine foldl_keeps beyondMap _ (fun t p => ?_) _ s
    split
    · rfl
    · split
      · unfold cardArrived
        split <;> rfl
      · exact queueRead_beyondMap ..

@[simp] theorem startLoadAt_beyondMap (warm page : Bool) (index : Nat) (s : State) :
    beyondMap (startLoadAt warm page index s) = beyondMap s := by
  unfold startLoadAt
  split
  · rfl
  · exact (issueLoad_beyondMap ..).trans ((askOnce_engine_beyondMap ..).trans rfl)

@[simp] theorem loadFor_beyondMap (shelf : Nat) (s : State) :
    beyondMap (loadFor shelf s) = beyondMap s := by
  unfold loadFor startLoad
  split
  · simp
  · split <;> simp

@[simp] theorem enterUpdate_beyondMap (r : LedgerRec) (s : State) :
    beyondMap (enterUpdate r s) = beyondMap s := by
  unfold enterUpdate
  split
  · split
    · exact (loadFor_beyondMap ..).trans rfl
    · rfl
  · simp

/-! ## Records of the Ledger (R45, R66, R169) -/

@[simp] theorem pushRec_beyondMap (r : LedgerRec) (s : State) :
    beyondMap (pushRec r s) = beyondMap s := by
  unfold pushRec publishDurable
  dsimp only
  split
  · exact (enterUpdate_beyondMap ..).trans rfl
  · rfl

@[simp] theorem allocExtent_beyondMap (s : State) : beyondMap (allocExtent s) = beyondMap s := by
  unfold allocExtent
  dsimp only
  split
  · rfl
  · split
    · rfl
    · exact openStripe_beyondMap ..

@[simp] theorem startExtent_beyondMap (first : Bool) (s : State) :
    beyondMap (startExtent first s) = beyondMap s :=
  (pushRec_beyondMap ..).trans ((allocExtent_beyondMap ..).trans rfl)

theorem easeLedger_beyondMap (fuel : Nat) : ∀ {s t : State}, easeLedger fuel s = some t →
    beyondMap t = beyondMap s := by
  induction fuel with
  | zero => intro s t h; cases h
  | succ fuel ih =>
    intro s t h
    unfold easeLedger at h
    dsimp only at h
    split at h
    · rw [Option.some.inj h]
    · split at h
      · rw [Option.some.inj h]
      · split at h
        · cases h
        · rename_i heased
          exact (ih h).trans (easeDie_beyondMap heased)

@[simp] theorem append_beyondMap (r : LedgerRec) (s : State) :
    beyondMap (append r s) = beyondMap s := by
  have hroom : beyondMap (if extentFull s then startExtent false s else s) = beyondMap s := by
    split <;> simp
  unfold append
  split
  · rfl
  · dsimp only
    generalize (if extentFull s then startExtent false s else s) = u at hroom ⊢
    split
    · split
      · exact hroom
      · rename_i heased
        exact (pushRec_beyondMap ..).trans ((easeLedger_beyondMap _ heased).trans hroom)
    · exact (pushRec_beyondMap ..).trans hroom

/-! ## A card of the member's own share (R61, R65, R300) -/

theorem issueCard_beyondMap {s t : State} {acc : Nat} (h : issueCard s = some (acc, t)) : beyondMap t = beyondMap s := by
  unfold issueCard at h
  split at h
  · obtain ⟨-, rfl⟩ := Prod.mk.inj (Option.some.inj h)
    rfl
  · cases h

theorem appendNow_beyondMap {r : LedgerRec} {s t : State} (h : appendNow r s = some t) : beyondMap t = beyondMap s := by
  unfold appendNow at h
  dsimp only at h
  split at h
  · obtain rfl := Option.some.inj h
    exact append_beyondMap r s
  · cases h

/-- The Ledger's answer goes to the command, so a booking leaves the map's stores and the commands alone changed. -/
theorem bookCards_ech {slot : Nat} {r : OpenRow} {cells : List Nat} {list : List (Nat × Nat × Nat)} {ppas : List Ppa}
    {rec : LedgerRec} {s t : State} (h : bookCards slot r cells list ppas rec s = some t) : t.ech = s.ech := by
  unfold bookCards at h
  obtain ⟨u, hu, rfl⟩ := Option.map_eq_some_iff.mp h
  exact (ech_of_beyondMap (appendNow_beyondMap hu)).trans (ech_of_beyondMap (fillCells_beyondMap r.id cells _))

theorem placeCard_ech {slot : Nat} {c : Cmd} {n : Namespace} {bypass : Bool} {shelf i lba : Nat} {data : List Nat}
    {pick : Nat} {s t : State} (h : placeCard slot c n bypass shelf i lba data pick s = some t) : t.ech = s.ech := by
  unfold placeCard at h
  split at h
  · cases h
  · rename_i hissue
    dsimp only at h
    split at h
    · cases h
    · rename_i htaken
      split at h
      · cases h
      · have hplaces := (takeWithin_beyondMap _ htaken).trans (issueCard_beyondMap hissue)
        exact (bookCards_ech h).trans (ech_of_beyondMap hplaces)

theorem writeShare_ech {x : InTxn} {group stripe i : Nat} {sectors : List Nat} {pick : Nat} {s t : State}
    (h : writeShare x group stripe i sectors pick s = some t) : t.ech = s.ech := by
  unfold writeShare at h
  split at h
  · cases h
  · exact (placeCard_ech h).trans rfl

theorem writeCards_ech {x : InTxn} {group stripe : Nat} (cards : List (Nat × List Nat)) : ∀ {picks : List Nat}
    {s t : State}, writeCards x group stripe cards picks s = some t → t.ech = s.ech := by
  induction cards with
  | nil => intro picks s t h; rw [← Option.some.inj h]
  | cons c cards ih =>
    intro picks s t h
    unfold writeCards at h
    split at h
    · cases h
    · rename_i hwrite
      exact (ih h).trans (writeShare_ech hwrite)

theorem writeOwn_ech {e stripe : Nat} {cards : List (Nat × List Nat)} {picks : List Nat} {s t : State}
    (h : writeOwn e stripe cards picks s = some t) : t.ech = s.ech := by
  unfold writeOwn at h
  obtain ⟨u, hu, rfl⟩ := Option.map_eq_some_iff.mp h
  exact (writeCards_ech cards hu :)

theorem record_ech (event : Nat) (payload : List (Nat × Nat)) (s : State) : (record event payload s).ech = s.ech := by
  rw [record_rest]

theorem foxSet_ech (shelf card : Nat) (ppa : Ppa) (cause : Nat) (s : State) :
    (foxSet shelf card ppa cause s).ech = s.ech := by
  have happend (n lba : Nat) (t : State) : (countFox n lba cause t).ech = t.ech := record_ech ..
  exact (happend ..).trans (ech_of_beyondMap (append_beyondMap _ s))

theorem markRebuilt_ech (e stripe i : Nat) (s : State) : (markRebuilt e stripe i s).ech = s.ech := by
  unfold markRebuilt
  split
  · rfl
  · split
    · rfl
    · exact (record_ech ..).trans (foxSet_ech ..)

end Sys2Proof.Machine
end

section
/-! PROOFS. Views, intents and rebuilds (R301 to R318): what a view, a cleared intent and a sequence of the keeper or of
a rebuilding member leave of the echelons. -/

namespace Sys2Proof.Machine

/-! ## What leaves the echelons alone -/

theorem setMode_ech (m : Mode) (s : State) : (setMode m s).ech = s.ech := by
  unfold setMode
  split
  · rfl
  · exact record_ech ..

theorem settleDegraded_ech (s : State) : (settleDegraded s).ech = s.ech := by
  unfold settleDegraded
  dsimp only
  split
  · split
    · exact setMode_ech ..
    · rfl
  · split
    · rfl
    · exact setMode_ech ..
  · rfl

theorem settleDegraded_led (s : State) : (settleDegraded s).led = s.led := by
  have hmode (m : Mode) (t : State) : (setMode m t).led = t.led := by
    unfold setMode
    split
    · rfl
    · dsimp only
      rw [record_rest]
      rfl
  unfold settleDegraded
  dsimp only
  split
  · split
    · exact hmode ..
    · rfl
  · split
    · rfl
    · exact hmode ..
  · rfl

theorem loseMember_ech (s : State) : (loseMember s).ech = s.ech := by
  unfold loseMember
  split
  · split
    · exact setMode_ech ..
    · rfl
  · rfl

theorem storeRt_ech (key value : Nat) (s : State) : (storeRt key value s).ech = s.ech := by
  obtain ⟨f, r, hstored⟩ := storeRt_rest key value s
  rw [hstored]

theorem append_ech (r : LedgerRec) (s : State) : (append r s).ech = s.ech :=
  ech_of_beyondMap (append_beyondMap r s)

theorem sendPacket_ech (h : PacketHdr) (b : PktBody) (s : State) : (sendPacket h b s).ech = s.ech := by
  rw [sendPacket_rest]

theorem startRequest_ech (r : OutReq) (s : State) : (startRequest r s).ech = s.ech := by
  rw [startRequest_rest]

/-! ## Requests of a sequence: Peloton alone, with its locks -/

/-- `t` is `s` but for Peloton, whose stripe locks are as they were. -/
def OnlySends (s t : State) : Prop := t = { s with pel := t.pel } ∧ t.pel.locks = s.pel.locks

theorem OnlySends.refl (s : State) : OnlySends s s := ⟨rfl, rfl⟩

theorem OnlySends.trans {s t u : State} (h : OnlySends s t) (k : OnlySends t u) : OnlySends s u := by
  obtain ⟨ht, hlt⟩ := h
  obtain ⟨hu, hlu⟩ := k
  refine ⟨?_, hlu.trans hlt⟩
  rw [hu, ht]

theorem OnlySends.foldl {α : Type} {f : State → α → State} (hf : ∀ s a, OnlySends s (f s a)) (l : List α) (s : State) :
    OnlySends s (l.foldl f s) := by
  induction l generalizing s with
  | nil => exact .refl s
  | cons a l ih => exact (hf s a).trans (ih _)

theorem sendPacket_onlySends (h : PacketHdr) (b : PktBody) (s : State) : OnlySends s (sendPacket h b s) := by
  obtain ⟨seqs, n, q, l, hsent⟩ := sendPacket_queues h b s
  rw [hsent]
  exact ⟨rfl, rfl⟩

theorem startRequest_onlySends (r : OutReq) (s : State) : OnlySends s (startRequest r s) := by
  obtain ⟨p, x, hstart, hlocks, -⟩ := startRequest_facts r s
  rw [hstart]
  exact ⟨rfl, hlocks⟩

theorem runCmd_onlySends (r : Steward) (pos op rank : Nat) (locked : Bool) (payload : List (List Nat)) (s : State) :
    OnlySends s (runCmd r pos op rank locked payload s) := by
  unfold runCmd
  split
  · exact startRequest_onlySends ..
  · exact .refl s

theorem runRead_onlySends (r : Steward) (pos : Nat) (s : State) : OnlySends s (runRead r pos s) := by
  unfold runRead
  extract_lets lagging
  split
  · exact startRequest_onlySends ..
  · exact runCmd_onlySends ..

theorem readWave_onlySends (order l : List Nat) (r : Steward) (s : State) : OnlySends s (readWave order l r s) := by
  unfold readWave
  exact .foldl (fun t p => runRead_onlySends r p t) _ s

theorem OnlySends.ech {s t : State} (h : OnlySends s t) : t.ech = s.ech := by
  rw [h.1]

theorem OnlySends.led {s t : State} (h : OnlySends s t) : t.led = s.led := by
  rw [h.1]

/-- A request stands at the end of those outstanding, with its packet type and owner. -/
theorem startRequest_waits (r : OutReq) (s : State) : ∃ q, q ∈ (startRequest r s).pel.out ∧ q.owner = r.owner ∧
    q.hdr.ptype = r.hdr.ptype ∧ q.dst = r.dst := by
  unfold startRequest
  split
  · unfold sendRequest
    rw [sendPacket_out]
    exact ⟨_, List.mem_concat_self, rfl, rfl, rfl⟩
  · exact ⟨_, List.mem_concat_self, rfl, rfl, rfl⟩

/-! ## Echelons by number -/

theorem echAt_modEch {s : State} {e : Nat} {x : EchelonSt} {f : EchelonSt → EchelonSt} (hx : echAt s e = some x)
    (hf : ∀ y, (f y).echelon = y.echelon) : echAt (modEch e f s) e = some (f x) := by
  have hnum : x.echelon = e := by simpa using List.find?_some hx
  have hmod := find?_modWhere (fun y : EchelonSt => y.echelon = e) f (fun y => y.echelon = e) s.ech.ech
    (fun y => by split <;> simp [hf])
  change (modWhere _ f s.ech.ech).find? _ = _
  rw [hmod]
  change (echAt s e).map _ = _
  simp [hx, hnum]

theorem echAt_congr {s t : State} (e : Nat) (h : t.ech.ech = s.ech.ech) : echAt t e = echAt s e := by
  rw [echAt, h]; rfl

theorem echAt_settleDegraded {s t : State} (e : Nat) (h : t.ech.ech = s.ech.ech) :
    echAt (settleDegraded t) e = echAt s e :=
  echAt_congr e (by rw [settleDegraded_ech, h])

/-- The echelons without their ANA states. -/
def withoutAna (c : Echelons) : Echelons := { c with ech := c.ech.map fun x => { x with ana := 0 } }

theorem withoutAna_modEch_ana (e a : Nat) (s : State) :
    withoutAna (modEch e (fun y => { y with ana := a }) s).ech = withoutAna s.ech := by
  have hmap (l : List EchelonSt) : (modWhere (fun x => x.echelon = e) (fun y => { y with ana := a }) l).map
      (fun x => { x with ana := 0 }) = l.map fun x => { x with ana := 0 } := by
    rw [modWhere, List.map_map]
    refine List.map_congr_left fun x _ => ?_
    dsimp only [Function.comp]
    split <;> rfl
  rw [modEch_ech, withoutAna, hmap]
  rfl

theorem settleAna_withoutAna (s : State) : withoutAna (settleAna s).ech = withoutAna s.ech := by
  unfold settleAna
  refine foldl_keeps (fun t => withoutAna t.ech) _ (fun t x => ?_) _ s
  dsimp only
  split
  · rfl
  · rw [asyncEvent_rest]
    exact withoutAna_modEch_ana ..

theorem settleAna_intents (s : State) : (settleAna s).ech.intents = s.ech.intents :=
  (congrArg Echelons.intents (settleAna_withoutAna s) :)

theorem echAt_withoutAna (s : State) (e : Nat) :
    (withoutAna s.ech).ech.find? (fun x => x.echelon = e) = (echAt s e).map fun x => { x with ana := 0 } := by
  rw [withoutAna, List.find?_map]
  rfl

/-- `settleAna` changes nothing of an echelon but its ANA state. -/
theorem echAt_settleAna {s : State} {e : Nat} {x : EchelonSt} (hx : echAt s e = some x) :
    ∃ a, echAt (settleAna s) e = some { x with ana := a } := by
  have hsame : (echAt (settleAna s) e).map (fun y => { y with ana := 0 }) = some { x with ana := 0 } := by
    rw [← echAt_withoutAna, settleAna_withoutAna, echAt_withoutAna, hx]
    rfl
  obtain ⟨y, hy, heq⟩ := Option.map_eq_some_iff.mp hsame
  refine ⟨y.ana, hy.trans (congrArg some ?_)⟩
  cases x
  cases y
  simpa using heq

end Sys2Proof.Machine
end

section
/-! PROOFS. A view taken (R301, R315, R318): its number goes in force, and what follows from it neither changes a view
nor makes an intent record. -/

namespace Sys2Proof.Machine

/-! ## Intent records that are cleared -/

theorem clearIntent_ech (r : IntentRec) (s : State) :
    (clearIntent r s).ech = { s.ech with intents := s.ech.intents.filter fun x => x != r } := by
  unfold clearIntent
  extract_lets s1
  split
  · rfl
  · split
    · rfl
    · split
      · exact (append_ech ..).trans rfl
      · rfl

theorem foldl_clearIntent_ech (l : List IntentRec) (s : State) :
    (l.foldl (fun t r => clearIntent r t) s).ech = { s.ech with intents := s.ech.intents.filter fun x => ! l.contains x } := by
  induction l generalizing s with
  | nil => simp
  | cons r l ih =>
    rw [List.foldl_cons, ih, clearIntent_ech]
    simp only [List.filter_filter]
    congr 2
    funext x
    by_cases h : x = r <;> simp [h]

theorem clearIntents_ech (pick : IntentRec → Bool) (s : State) :
    (clearIntents pick s).ech = { s.ech with intents := s.ech.intents.filter fun x => ! pick x } := by
  have hsame : (s.ech.intents.filter fun x => ! (s.ech.intents.filter pick).contains x) =
      s.ech.intents.filter fun x => ! pick x := by
    refine List.filter_congr fun x hx => ?_
    simp [hx]
  rw [clearIntents, foldl_clearIntent_ech, hsame]

theorem mem_clearIntents {pick : IntentRec → Bool} {s : State} {x : IntentRec} :
    x ∈ (clearIntents pick s).ech.intents ↔ x ∈ s.ech.intents ∧ pick x = false := by
  rw [clearIntents_ech]
  simp

/-! ## Views kept, and no intent record made -/

/-- Echelon numbers with their views in force. -/
def viewList (c : Echelons) : List (Nat × ViewRec) := c.ech.map fun x => (x.echelon, x.view)

theorem viewOf_congr {s t : State} (e : Nat) (h : viewList t.ech = viewList s.ech) : viewOf t e = viewOf s e := by
  have hview (u : State) : viewOf u e = ((viewList u.ech).find? fun p => p.1 = e).map fun p => p.2 := by
    rw [viewList, List.find?_map, Option.map_map]
    rfl
  rw [hview, hview, h]

/-- The chunk of a stripe that an intent record speaks of, and its kind. -/
def intentPlace (x : IntentRec) : Nat × Nat × Nat × Nat := (x.echelon, x.stripe, x.kind, x.position)

/-- Every intent record of `t` speaks of the place of one of `s`. -/
def NoNewIntents (s t : State) : Prop :=
  ∀ x, x ∈ t.ech.intents → ∃ y, y ∈ s.ech.intents ∧ intentPlace y = intentPlace x

theorem NoNewIntents.of_eq {s t : State} (h : t.ech.intents = s.ech.intents) : NoNewIntents s t :=
  fun x hx => ⟨x, h ▸ hx, rfl⟩

theorem NoNewIntents.trans {s t u : State} (h : NoNewIntents s t) (k : NoNewIntents t u) : NoNewIntents s u := by
  intro x hx
  obtain ⟨y, hy, hyx⟩ := k x hx
  obtain ⟨z, hz, hzy⟩ := h y hy
  exact ⟨z, hz, hzy.trans hyx⟩

/-- Every view of `s` is in force in `t`, and no intent record is new. -/
def KeepsViews (s t : State) : Prop := viewList t.ech = viewList s.ech ∧ NoNewIntents s t

theorem KeepsViews.of_ech {s t : State} (h : t.ech = s.ech) : KeepsViews s t :=
  ⟨congrArg viewList h, .of_eq (congrArg Echelons.intents h)⟩

theorem KeepsViews.trans {s t u : State} (h : KeepsViews s t) (k : KeepsViews t u) : KeepsViews s u :=
  ⟨k.1.trans h.1, h.2.trans k.2⟩

theorem KeepsViews.foldl {α : Type} {f : State → α → State} (hf : ∀ s a, KeepsViews s (f s a)) (l : List α)
    (s : State) : KeepsViews s (l.foldl f s) := by
  induction l generalizing s with
  | nil => exact .of_ech rfl
  | cons a l ih => exact (hf s a).trans (ih _)

theorem modEch_keepsViews (e : Nat) {f : EchelonSt → EchelonSt} (s : State)
    (hf : ∀ x, (f x).echelon = x.echelon ∧ (f x).view = x.view) : KeepsViews s (modEch e f s) := by
  refine ⟨?_, .of_eq rfl⟩
  rw [modEch_ech, viewList, modWhere, List.map_map]
  refine List.map_congr_left fun x _ => ?_
  dsimp only [Function.comp]
  split
  · rw [(hf x).1, (hf x).2]
  · rfl

theorem clearIntents_keepsViews (pick : IntentRec → Bool) (s : State) : KeepsViews s (clearIntents pick s) := by
  refine ⟨?_, fun x hx => ⟨x, (mem_clearIntents.mp hx).1, rfl⟩⟩
  rw [clearIntents_ech]
  rfl

theorem settleAna_keepsViews (s : State) : KeepsViews s (settleAna s) := by
  have hviews (c : Echelons) : viewList (withoutAna c) = viewList c := by
    simp [viewList, withoutAna]
  refine ⟨?_, .of_eq (settleAna_intents s)⟩
  rw [← hviews, settleAna_withoutAna, hviews]

theorem releaseAllShare_ech (e : Nat) (s : State) : (releaseAllShare e s).ech = s.ech := by
  unfold releaseAllShare
  split
  · rfl
  · exact foldl_keeps State.ech _ (fun t sh => append_ech _ t) _ s

theorem beginRebuild_keepsViews (e : Nat) (old new : ViewRec) (s : State) :
    KeepsViews s (beginRebuild e old new s) := by
  unfold beginRebuild
  extract_lets st
  split
  · refine .trans (modEch_keepsViews e s (f := fun x => { x with pointer := 0, stored := 0 }) fun x => ⟨rfl, rfl⟩) ?_
    exact .of_ech (releaseAllShare_ech ..)
  · exact .of_ech rfl

theorem lapseLost_keepsViews (e : Nat) (old new : ViewRec) (s : State) :
    KeepsViews s (lapseLost e old new s) := by
  unfold lapseLost
  refine .foldl (fun t p => ?_) _ s
  split
  · exact (clearIntents_keepsViews _ t).trans (.of_ech rfl)
  · exact .of_ech rfl

theorem markSettling_keepsViews (e : Nat) (s : State) : KeepsViews s (markSettling e s) := by
  unfold markSettling
  split
  · exact .of_ech rfl
  · refine ⟨rfl, fun x hx => ?_⟩
    obtain ⟨y, hy, rfl⟩ := List.mem_map.mp hx
    refine ⟨y, hy, ?_⟩
    split <;> rfl

/-! ## A view is taken -/

/-- What a view that is taken changes in its echelon's own record. -/
def withView (v : ViewRec) (y : EchelonSt) : EchelonSt :=
  { y with view := v, storing := false, waiting := false, unreach := false, reports := [] }

/-- A view that is taken keeps what its own record then says. -/
theorem takeView_keepsViews {v : ViewRec} {s : State} {x : EchelonSt} (hx : echAt s v.echelon = some x) :
    KeepsViews (modEch v.echelon (withView v) s) (takeView v s) := by
  have hlost (out : Bool) (t : State) : (if out then loseMember t else t).ech = t.ech := by
    split
    · exact loseMember_ech t
    · rfl
  unfold takeView
  rw [hx]
  refine .trans ?_ (.of_ech (settleDegraded_ech _))
  refine .trans ?_ (settleAna_keepsViews _)
  refine .trans ?_ (.of_ech ((record_ech ..).trans (hlost _ _)))
  refine .trans ?_ (markSettling_keepsViews ..)
  refine .trans ?_ (lapseLost_keepsViews ..)
  refine .trans ?_ (beginRebuild_keepsViews ..)
  exact .of_ech (storeRt_ech ..)

theorem viewOf_takeView {v : ViewRec} {s : State} {x : EchelonSt} (hx : echAt s v.echelon = some x) :
    viewOf (takeView v s) v.echelon = some v := by
  rw [viewOf_congr _ (takeView_keepsViews hx).1, viewOf, echAt_modEch (f := withView v) hx (fun _ => rfl)]
  rfl

theorem takeView_noNewIntents (v : ViewRec) (s : State) : NoNewIntents s (takeView v s) := by
  cases hx : echAt s v.echelon with
  | none =>
    unfold takeView
    rw [hx]
    exact .of_eq rfl
  | some x => exact (takeView_keepsViews hx).2

theorem setPosition_noNewIntents (e p st : Nat) (s : State) : NoNewIntents s (setPosition e p st s) := by
  have hissue (v : ViewRec) : NoNewIntents s (issueView v s) := by
    unfold issueView
    refine .trans (.of_eq (congrArg Echelons.intents ?_)) (takeView_noNewIntents v _)
    exact foldl_keeps State.ech _ (fun t m => startRequest_ech _ t) _ s
  have hplace : NoNewIntents s (placeNow e p st s) := by
    unfold placeNow
    split
    · exact .of_eq rfl
    · split
      · exact .of_eq rfl
      · exact hissue _
  unfold setPosition
  split
  · exact hplace
  · unfold waitView
    split <;> exact .of_eq rfl

end Sys2Proof.Machine
end

section
/-! PROOFS. VIEW, TIMEOUT_REPORT, the intents and the sequences of settlement, lag repair and rebuild (R301 to R318). Where a
sequence stands between its events is the model's choice, log entry 115; the reports away from the holder rest on entry 114. -/

namespace Sys2Proof.Machine

/-! ## Sequences of the keeper (R312, R314) -/

/-- A sequence of the keeper holds the lock of its stripe, and has begun with nothing else changed but what it sent. -/
theorem keeperStart_facts (order : List Nat) (r : Steward) (s : State) : ∃ x,
    keeperStart order r s = { s with pel := (keeperStart order r s).pel, ech := (keeperStart order r s).ech } ∧
    (keeperStart order r s).ech = { s.ech with stewards := s.ech.stewards ++ [x], nextRun := s.ech.nextRun + 1 } ∧
    (r.echelon, r.stripe, s.pel.self) ∈ (keeperStart order r s).pel.locks ∧
    x = { r with own := true, id := s.ech.nextRun } := by
  unfold keeperStart
  dsimp only [newRun]
  obtain ⟨hsent, hlocks⟩ := readWave_onlySends order _ _ _
  refine ⟨_, ?_, congrArg State.ech hsent, ?_, rfl⟩
  · rw [hsent]
    rfl
  · rw [hlocks]
    exact List.mem_append_right _ (List.mem_singleton_self _)

theorem keeperLeave_intents (r : Steward) (s : State) : (keeperLeave r s).ech.intents = s.ech.intents := by
  unfold keeperLeave dropRun
  dsimp only
  split <;> rfl

theorem keeperUnlock_intents (r : Steward) (s : State) : (keeperUnlock r s).ech.intents = s.ech.intents := by
  have hsent : (keeperUnlock r s).ech = (keeperLeave r s).ech := by
    unfold keeperUnlock
    exact foldl_keeps State.ech _ (fun t m => sendPacket_ech _ _ t) _ _
  rw [hsent, keeperLeave_intents]

/-- After a settlement no open intent of its stripe is left. -/
theorem settleEnd_clears {r : Steward} {s : State} {x : IntentRec} (hx : x ∈ (settleEnd r s).ech.intents)
    (he : x.echelon = r.echelon) (hn : x.stripe = r.stripe) : 2 ≤ x.kind := by
  rw [settleEnd, keeperUnlock_intents, mem_clearIntents] at hx
  obtain ⟨-, hkept⟩ := hx
  simp [he, hn] at hkept
  omega

/-- After a lag repair whose writes succeeded the entry it repaired is gone, also where the position's return to service
issues a view. -/
theorem repairEnd_clears {r : Steward} {s : State} {x : IntentRec} (hgood : r.failed = [])
    (hx : x ∈ (repairEnd r s).ech.intents) (he : x.echelon = r.echelon) (hn : x.stripe = r.stripe) (hk : x.kind = 2) :
    x.position ≠ r.dataIdx := by
  have hcleared (y : IntentRec) (hy : y ∈ (keeperUnlock r (clearIntents (fun x => x.echelon = r.echelon &&
      x.stripe = r.stripe && x.kind = 2 && x.position = r.dataIdx) s)).ech.intents) (hplace : intentPlace y = intentPlace x) :
      x.position ≠ r.dataIdx := by
    rw [keeperUnlock_intents, mem_clearIntents] at hy
    obtain ⟨-, hkept⟩ := hy
    simp only [intentPlace, Prod.mk.injEq] at hplace
    obtain ⟨hye, hyn, hyk, hyp⟩ := hplace
    simpa [hye, hyn, hyk, hyp, he, hn, hk] using hkept
  unfold repairEnd at hx
  rw [if_neg (by simp [hgood])] at hx
  dsimp only at hx
  split at hx
  · exact hcleared x hx rfl
  · obtain ⟨y, hy, hplace⟩ := setPosition_noNewIntents _ _ _ _ x hx
    exact hcleared y hy hplace

theorem repairEnd_failed {r : Steward} {s : State} (hfailed : r.failed ≠ []) : (repairEnd r s).ech.intents = s.ech.intents := by
  rw [repairEnd, if_pos (by simpa using hfailed), keeperLeave_intents]

/-! ## The rebuild (R317, R318) -/

/-- The rebuild pointer of an echelon, one stripe on. -/
def pointerOn (y : EchelonSt) : EchelonSt := { y with pointer := y.pointer + 1 }

/-- `t` has the echelons and the Ledger of `s`, or the pointer of echelon `e` has advanced by one. -/
def RebuildKeeps (e : Nat) (s t : State) : Prop :=
  t.ech.ech = s.ech.ech ∧ t.led = s.led ∨ t.ech.ech = (modEch e pointerOn s).ech.ech

theorem rebuilderLeave_onlySends (r : Steward) (s : State) : OnlySends (dropRun r.id s) (rebuilderLeave r s) :=
  sendPacket_onlySends ..

theorem rebuilderLeave_ech (r : Steward) (s : State) : (rebuilderLeave r s).ech.ech = s.ech.ech :=
  (congrArg Echelons.ech (rebuilderLeave_onlySends r s).ech :)

/-- The cards of this member's chunk, as a rebuild writes them. -/
def rebuiltCards (s : State) (r : Steward) : List (Nat × List Nat) :=
  (List.range 16).map fun i => (i, (rebuiltCard s r.echelon r.stripe r.dataIdx (jobGot r i)).1)

/-- A chunk that is written below the last stripe advances the pointer and nothing else of the echelons. -/
theorem rebuildEnd_written {picks : List Nat} {r : Steward} {s u : State}
    (hsolved : jobSolved s r = true ∨ r.failed = []) (hbelow : r.stripe + 1 < ecStripes s r.echelon)
    (hwrite : writeOwn r.echelon r.stripe (rebuiltCards s r) picks s = some u) :
    (rebuildEnd picks r s).ech.ech = (modEch r.echelon pointerOn s).ech.ech := by
  have hgo : ¬ (! jobSolved s r && ! r.failed.isEmpty) = true := by
    rcases hsolved with h | h <;> simp [h]
  unfold rebuildEnd
  dsimp only
  rw [if_neg hgo, List.map_map]
  change (match writeOwn r.echelon r.stripe (rebuiltCards s r) picks s with | none => s | some t => _).ech.ech = _
  rw [hwrite]
  dsimp only
  rw [if_pos hbelow, rebuilderLeave_ech, modEch_ech, foldl_keeps State.ech _ (fun v c => markRebuilt_ech _ _ _ v),
    writeOwn_ech hwrite]
  rfl

theorem rebuildEnd_keeps {picks : List Nat} {r : Steward} {s : State} (hbelow : r.stripe + 1 < ecStripes s r.echelon) :
    RebuildKeeps r.echelon s (rebuildEnd picks r s) := by
  by_cases hgo : (! jobSolved s r && ! r.failed.isEmpty) = true
  · have hleave : rebuildEnd picks r s = rebuilderLeave r s := if_pos hgo
    rw [hleave]
    exact .inl ⟨rebuilderLeave_ech .., (rebuilderLeave_onlySends r s).led⟩
  · cases hwrite : writeOwn r.echelon r.stripe (rebuiltCards s r) picks s with
    | none =>
      refine .inl ?_
      have hsame : rebuildEnd picks r s = s := by
        unfold rebuildEnd
        dsimp only
        rw [if_neg hgo, List.map_map]
        change (match writeOwn r.echelon r.stripe (rebuiltCards s r) picks s with | none => s | some t => _) = _
        rw [hwrite]
      rw [hsame]
      exact ⟨rfl, rfl⟩
    | some u =>
      refine .inr (rebuildEnd_written ?_ hbelow hwrite)
      by_cases hsolved : jobSolved s r = true
      · exact .inl hsolved
      · exact .inr (by simpa [hsolved] using hgo)

/-- What comes after the reads of a sequence keeps what `f` keeps: the reads themselves only send. -/
theorem afterReads_keeps {order : List Nat} {enough : Bool} {f : State → State} {r : Steward} {e : Nat} {s : State}
    (hf : ∀ t : State, t.ech.ech = s.ech.ech → t.led = s.led → t.fol = s.fol → RebuildKeeps e s (f t)) :
    RebuildKeeps e s (afterReads order enough f r s) := by
  unfold afterReads
  split
  · dsimp only
    obtain ⟨hsent, -⟩ := readWave_onlySends order (lastWave s r) r (modRun r.id (fun x => { x with phase := 6 }) s)
    generalize readWave order (lastWave s r) r (modRun r.id (fun x => { x with phase := 6 }) s) = t at hsent ⊢
    have hech : t.ech.ech = s.ech.ech := by rw [hsent]; rfl
    have hled : t.led = s.led := by rw [hsent]; rfl
    split
    · exact .inl ⟨hech, hled⟩
    · exact hf t hech hled (by rw [hsent]; rfl)
  · exact hf s rfl rfl rfl

theorem ecStripes_congr {s t : State} (e : Nat) (h : t.fol = s.fol) : ecStripes t e = ecStripes s e := by
  unfold ecStripes ecConfig folioInForce
  rw [h]

theorem RebuildKeeps.of_congr {e : Nat} {s t u : State} (hech : t.ech.ech = s.ech.ech) (hled : t.led = s.led)
    (h : RebuildKeeps e t u) : RebuildKeeps e s u := by
  rcases h with ⟨hu, hul⟩ | hu
  · exact .inl ⟨hu.trans hech, hul.trans hled⟩
  · refine .inr (hu.trans ?_)
    rw [modEch_ech, modEch_ech, hech]

theorem rebuildNext_keeps {e pointer pos : Nat} {order picks : List Nat} {s : State}
    (hbelow : pointer + 1 < ecStripes s e) : RebuildKeeps e s (rebuildNext e order picks pointer pos s) := by
  unfold rebuildNext
  split
  · have hsent := startRequest_onlySends (mkReq (mkHdr (keeperOf s e pointer) 0x7 1 false 0 (stripeArg e pointer) 0)
      .empty 0 (.run s.ech.nextRun) { noDesc with echelon := e, stripe := pointer } [])
      (newRun (jobRun 6 e pointer pos 0 16 1) s).2
    exact .inl ⟨(congrArg Echelons.ech hsent.ech :), hsent.led⟩
  · rename_i r hfound
    have hr : r.echelon = e := by
      have hpick := List.find?_some hfound
      simp at hpick
      exact hpick.2
    split
    · exact .inl ⟨rfl, rfl⟩
    · split
      · exact .inl ⟨rebuilderLeave_ech .., (rebuilderLeave_onlySends r s).led⟩
      · rename_i hhere
        split
        · have hsent := readWave_onlySends order (firstWave s r) r (modRun r.id (fun x => { x with phase := 5 }) s)
          exact .inl ⟨(congrArg Echelons.ech hsent.ech :), hsent.led⟩
        · refine afterReads_keeps fun t hech hled hfol => .of_congr hech hled ?_
          obtain ⟨⟨hstripe, -⟩, -⟩ : (r.stripe = pointer ∧ r.dataIdx = pos) ∧ ¬ r.phase = 1 := by simpa using hhere
          rw [← hr]
          refine rebuildEnd_keeps ?_
          rw [hstripe, hr, ecStripes_congr e hfol]
          exact hbelow

/-- The LOCK that a new rebuild of a stripe asks its keeper for. -/
theorem rebuildNext_starts {e pointer pos : Nat} {order picks : List Nat} {s : State}
    (hnone : s.ech.stewards.find? (fun r => r.kind = 6 && r.echelon = e) = none) :
    ∃ r q, (rebuildNext e order picks pointer pos s).ech.ech = s.ech.ech ∧
      r ∈ (rebuildNext e order picks pointer pos s).ech.stewards ∧ r.kind = 6 ∧ r.echelon = e ∧ r.stripe = pointer ∧
      r.dataIdx = pos ∧ q ∈ (rebuildNext e order picks pointer pos s).pel.out ∧ q.owner = .run r.id ∧ q.hdr.ptype = 7 ∧
      q.dst = keeperOf s e pointer := by
  unfold rebuildNext
  rw [hnone]
  obtain ⟨q, hq, howner, hptype, hdst⟩ := startRequest_waits (mkReq (mkHdr (keeperOf s e pointer) 0x7 1 false 0
    (stripeArg e pointer) 0) .empty 0 (.run s.ech.nextRun) { noDesc with echelon := e, stripe := pointer } [])
    (newRun (jobRun 6 e pointer pos 0 16 1) s).2
  have hech := startRequest_ech (mkReq (mkHdr (keeperOf s e pointer) 0x7 1 false 0
    (stripeArg e pointer) 0) .empty 0 (.run s.ech.nextRun) { noDesc with echelon := e, stripe := pointer } [])
    (newRun (jobRun 6 e pointer pos 0 16 1) s).2
  refine ⟨{ jobRun 6 e pointer pos 0 16 1 with id := s.ech.nextRun }, q, (congrArg Echelons.ech hech :), ?_, rfl, rfl, rfl,
    rfl, hq, howner, hptype, hdst⟩
  exact (congrArg Echelons.stewards hech :).symm ▸ List.mem_append_right _ (List.mem_singleton_self _)

/-! ## The packets of views and reports, and the pointer's own store -/

theorem agentCmd_accepted {s u : State} {h : PacketHdr} {op : Nat} {f : State → State} (hnone : txnAt s h = none)
    (haccept : accept 3 h s = (true, u)) (hop : cmdOp h = op) : agentCmd h op f s = f (leaveIdle u) := by
  rw [agentCmd, hnone]
  exact (onPacket_accepted haccept).trans (if_pos hop)

theorem sendDone_rest (h : PacketHdr) (st : Nat × Nat) (s : State) :
    sendDone h st s = { s with pel := (sendDone h st s).pel } :=
  (sendPacket_onlySends ..).1

/-- An echelon with the reports that count now. -/
def withReports (l : List (Nat × Nat)) (y : EchelonSt) : EchelonSt := { y with reports := l }

/-- An echelon whose wait for a view holder has ended in vain. -/
def nowUnreachable (y : EchelonSt) : EchelonSt := { y with waiting := false, unreach := true }

/-- A pointer that is stored. -/
def pointerStored (y : EchelonSt) : EchelonSt := { y with stored := y.pointer }

theorem rtAppend_last (key binding value : Nat) (s : State) : ∃ r, (rtActive (rtAppend key binding value s)).getLast? = some r ∧
    r.key = key ∧ r.value = value := by
  unfold rtAppend rtActive
  dsimp only
  split <;> exact ⟨_, List.getLast?_concat .., rfl, rfl⟩

theorem settleAna_wr_cat (s : State) : (settleAna s).wr = s.wr ∧ (settleAna s).cat = s.cat := by
  have hsame : ((settleAna s).wr, (settleAna s).cat) = (s.wr, s.cat) := by
    unfold settleAna
    refine foldl_keeps (fun t => (t.wr, t.cat)) _ (fun t x => ?_) _ s
    dsimp only
    split
    · rfl
    · rw [asyncEvent_rest]
      rfl
  exact Prod.mk.inj hsame

/-- A member that rebuilds below the last stripe takes the next step of it. -/
theorem exec_rebuildStripe {s : State} {e p : Nat} {order picks : List Nat} {x : EchelonSt} (hx : echAt s e = some x)
    (hp : positionOf x.view s.pel.self = some p) (hstate : (placeAt x.view p).2 = 3) (hserving : serving s = true)
    (hmode : s.mode.mode ≠ .preserve) (hbelow : x.pointer < ecStripes s e) :
    exec (.rebuildStripe e order picks) s = .next (settleDegraded (rebuildNext e order picks x.pointer p s)) := by
  change execRebuildStripe e order picks s = _
  unfold execRebuildStripe
  simp only [hx, hp]
  exact congrArg Host.Outcome.next (if_pos (by simp [hstate, hserving, hmode, hbelow]))

/-- Settles O54: a view in force shows through all that its taking moves; the sequences of keeper and rebuilder send under
their lock, and leave only what their last step clears or advances. -/
theorem viewsIntentsAndRebuilds : Obligations.ViewsIntentsAndRebuilds := by
  refine ⟨?newView, ?oldView, ?badView, ?report, ?noWait, ?wait, ?age, ?noFabric, ?settleNot, ?settleStart, ?settleNext,
    ?lagNot, ?lagEject, ?lagStart, ?lagNext, ?rebuildNot, ?rebuild, ?rebuildWrite, ?pointerStore⟩
  case newView =>
    intro s u h v x hnone haccept hop hlib hx hnew
    refine ⟨congrArg Host.Outcome.next ((agentCmd_accepted hnone haccept hop).trans ?_), viewOf_takeView (s := leaveIdle u) hx⟩
    have hnum : viewNumOf (leaveIdle u) v.echelon = x.view.viewNum := by
      simp [viewNumOf, viewOf, show echAt (leaveIdle u) v.echelon = some x from hx]
    have hknown : (echAt (leaveIdle u) v.echelon).isNone = false := by
      simp [show echAt (leaveIdle u) v.echelon = some x from hx]
    rw [viewIn, hknown]
    exact (if_pos hlib).trans (if_pos (by rw [hnum]; exact hnew))
  case oldView =>
    intro s u h v x hnone haccept hop hlib hx hold
    refine congrArg Host.Outcome.next ((agentCmd_accepted hnone haccept hop).trans ?_)
    have hnum : viewNumOf (leaveIdle u) v.echelon = x.view.viewNum := by
      simp [viewNumOf, viewOf, show echAt (leaveIdle u) v.echelon = some x from hx]
    have hknown : (echAt (leaveIdle u) v.echelon).isNone = false := by
      simp [show echAt (leaveIdle u) v.echelon = some x from hx]
    rw [viewIn, hknown]
    refine (if_pos hlib).trans ?_
    rw [viewNow, hnum, if_neg (by omega), if_neg (by omega)]
  case badView =>
    intro s u h v hnone haccept
    refine congrArg Host.Outcome.next ?_
    rw [agentCmd, hnone]
    refine (onPacket_accepted haccept).trans ?_
    split <;> rfl
  case report =>
    intro s u h e m ms x hnone haccept hop hx haway
    have hmod := echAt_modEch (s := leaveIdle u) (e := e) (f := withReports ((x.reports.filter fun r =>
      decide (ms < 10000 + r.2)) ++ [(m, ms)])) hx (fun _ => rfl)
    have hrun : timeoutIn h e m ms (leaveIdle u) = sendDone h scSuccess (modEch e (withReports ((x.reports.filter fun r =>
        decide (ms < 10000 + r.2)) ++ [(m, ms)])) (leaveIdle u)) := by
      rw [timeoutIn, show echAt (leaveIdle u) e = some x from hx]
      refine if_pos ?_
      simpa [leaveIdle] using haway
    refine ⟨_, withReports ((x.reports.filter fun r => decide (ms < 10000 + r.2)) ++ [(m, ms)]) x,
      congrArg Host.Outcome.next (agentCmd_accepted hnone haccept hop), ?_, rfl, rfl, ?_⟩
    · rw [hrun, ← hmod]
      exact echAt_congr e (congrArg Echelons.ech (sendPacket_ech ..))
    · rw [hrun, sendDone_rest]
      rfl
  case noWait =>
    intro s e hnone
    refine congrArg Host.Outcome.next ?_
    cases hx : echAt s e with
    | none => rfl
    | some x => exact if_neg (by simp [hnone x hx])
  case wait =>
    intro s e x hx hwait
    obtain ⟨a, ha⟩ := echAt_settleAna (echAt_modEch (f := nowUnreachable) hx fun _ => rfl)
    obtain ⟨hwr, hcat⟩ := settleAna_wr_cat (modEch e nowUnreachable s)
    refine ⟨settleAna (modEch e nowUnreachable s), _, ?_, ha, rfl, rfl, rfl, hwr, hcat,
      settleAna_intents (modEch e nowUnreachable s)⟩
    change execNoViewHolderReachable e s = _
    rw [execNoViewHolderReachable, hx]
    exact congrArg Host.Outcome.next (if_pos hwait)
  case age =>
    intro s e n
    refine ⟨_, rfl, rfl, fun i r hi => ?_⟩
    simp [modWhere, hi, and_assoc]
  case noFabric =>
    intro s e n p order picks hoff
    exact ⟨congrArg Host.Outcome.next (if_pos (by simp [hoff])), congrArg Host.Outcome.next (if_pos (by simp [hoff]))⟩
  case settleNot =>
    intro s e n order picks hnone hnot
    change execIntentSettle e n order picks s = _
    rw [execIntentSettle, hnone]
    refine congrArg Host.Outcome.next (ite_eq_left_iff.mpr fun _ => ?_)
    dsimp only
    split
    · rfl
    · rename_i hgo
      simp at hgo
      have hfound : s.ech.intents.find? (fun x => x.echelon = e && x.stripe = n && x.kind < 2 && x.settling) = none := by
        rcases hnot with hkeeper | hlock | hnone
        · exact absurd hgo.1.1 hkeeper
        · simp [hgo.1.2] at hlock
        · refine List.find?_eq_none.mpr fun r hr hpick => ?_
          simp at hpick
          obtain ⟨⟨⟨he, hn⟩, hk⟩, hsettling⟩ := hpick
          simp [hnone r hr he hn (by omega)] at hsettling
      rw [hfound]
  case settleStart =>
    intro s e n order picks x hon hnone hkeeper hfree hroom hfound
    obtain ⟨r, hrest, hech, hlock, hr⟩ := keeperStart_facts order (jobRun 4 e n 0 x.cardFirst (x.cardsM1 + 1) 5) s
    refine ⟨_, r, ?_, hrest, by rw [hech], by rw [hech], hlock, by rw [hech]; simp, by rw [hr]; rfl, by rw [hr]; rfl,
      by rw [hr]; rfl, by rw [hr]⟩
    change execIntentSettle e n order picks s = _
    rw [execIntentSettle, hnone]
    refine congrArg Host.Outcome.next ((if_neg (by simp [hon])).trans ((if_neg ?_).trans ?_))
    · simp [hkeeper, hfree, hroom]
    · rw [hfound]
  case settleNext =>
    intro s e n order picks r hon hrun
    obtain ⟨⟨-, he⟩, hn⟩ : (r.kind = 4 ∧ r.echelon = e) ∧ r.stripe = n := by simpa using List.find?_some hrun
    have hexec : exec (.intentSettle e n order picks) s = .next (settleStep order picks r s) := by
      change execIntentSettle e n order picks s = _
      rw [execIntentSettle, hrun]
      exact congrArg Host.Outcome.next (if_neg (by simp [hon]))
    refine ⟨fun hbusy => hexec.trans (congrArg Host.Outcome.next (if_pos hbusy)), fun hidle hphase => ?_⟩
    refine ⟨settleEnd r s, ?_, fun x hx hxe hxn => settleEnd_clears hx (hxe.trans he.symm) (hxn.trans hn.symm)⟩
    exact hexec.trans (congrArg Host.Outcome.next ((if_neg (by simp [hidle])).trans (if_pos hphase)))
  case lagNot =>
    intro s e n p order hnone haway
    change execLagRepair e n p order s = _
    rw [execLagRepair, hnone]
    exact congrArg Host.Outcome.next (ite_eq_left_iff.mpr fun _ => if_pos (by simpa using haway))
  case lagEject =>
    intro s e n p order hon hnone hkeeper hslots
    change execLagRepair e n p order s = _
    rw [execLagRepair, hnone]
    exact congrArg Host.Outcome.next ((if_neg (by simp [hon])).trans ((if_neg (by simp [hkeeper])).trans
      (if_pos (by simp [hslots]))))
  case lagStart =>
    intro s e n p order x hon hnone hkeeper hslots hlockable hfound
    obtain ⟨r, hrest, hech, hlock, hr⟩ := keeperStart_facts order (jobRun 5 e n p x.cardFirst (x.cardsM1 + 1) 5) s
    refine ⟨_, r, ?_, hrest, by rw [hech], by rw [hech], hlock, by rw [hech]; simp, by rw [hr]; rfl, by rw [hr]; rfl,
      by rw [hr]; rfl, by rw [hr]; rfl⟩
    change execLagRepair e n p order s = _
    rw [execLagRepair, hnone]
    have hsome := Option.isSome_iff_ne_none.mp hslots
    refine congrArg Host.Outcome.next ((if_neg (by simp [hon])).trans ((if_neg (by simp [hkeeper])).trans
      ((if_neg (by simpa using hsome)).trans ((if_neg (by simp [hlockable])).trans ?_))))
    rw [hfound]
  case lagNext =>
    intro s e n p order r hon hrun
    obtain ⟨⟨-, he⟩, hn⟩ : (r.kind = 5 ∧ r.echelon = e) ∧ r.stripe = n := by simpa using List.find?_some hrun
    have hexec : exec (.lagRepair e n p order) s = .next (if runBusy s r.id then s
        else if r.phase = 7 then repairEnd r s else afterReads order (jobSolved s r) (repairWrite r) r s) := by
      change execLagRepair e n p order s = _
      rw [execLagRepair, hrun]
      exact congrArg Host.Outcome.next (if_neg (by simp [hon]))
    have hended (hidle : runBusy s r.id = false) (hphase : r.phase = 7) :
        exec (.lagRepair e n p order) s = .next (repairEnd r s) :=
      hexec.trans (congrArg Host.Outcome.next ((if_neg (by simp [hidle])).trans (if_pos hphase)))
    refine ⟨fun hbusy => hexec.trans (congrArg Host.Outcome.next (if_pos hbusy)),
      fun hidle hphase hgood => ⟨_, hended hidle hphase, fun x hx hxe hxn hk => ?_⟩,
      fun hidle hphase hfailed => ⟨_, hended hidle hphase, repairEnd_failed hfailed⟩⟩
    exact repairEnd_clears hgood hx (hxe.trans he.symm) (hxn.trans hn.symm) hk
  case rebuildNot =>
    intro s e order picks hnot
    change execRebuildStripe e order picks s = _
    unfold execRebuildStripe
    refine congrArg Host.Outcome.next ?_
    split
    · rfl
    · split
      · rfl
      · rename_i x hx _ p hp
        exact if_neg (by simp [hnot x p hx hp])
  case rebuild =>
    intro s e p order picks x hx hp hstate hserving hmode hbelow
    have hexec := exec_rebuildStripe (order := order) (picks := picks) hx hp hstate hserving hmode hbelow
    refine ⟨fun hnone => ?_, _, hexec, fun hlast => ?_⟩
    · have hfound : s.ech.stewards.find? (fun r => r.kind = 6 && r.echelon = e) = none := by
        refine List.find?_eq_none.mpr fun r hr hpick => ?_
        simp at hpick
        exact hnone r hr hpick.1 hpick.2
      obtain ⟨r, q, hech, hr, hkind, he, hstripe, hpos, hq, howner, hptype, hdst⟩ :=
        rebuildNext_starts (pointer := x.pointer) (pos := p) (order := order) (picks := picks) hfound
      refine ⟨_, r, q, hexec, ?_, ?_, hkind, he, hstripe, hpos, ?_, howner, hptype, hdst⟩
      · rw [echAt_settleDegraded e hech, hx]
      · rw [settleDegraded_ech]
        exact hr
      · rw [settleDegraded_pel]
        exact hq
    · rcases rebuildNext_keeps (pos := p) (order := order) (picks := picks) hlast with ⟨hech, hled⟩ | hech
      · refine ⟨x, ?_, rfl, .inr ⟨rfl, ?_⟩⟩
        · rw [echAt_settleDegraded e hech, hx]
        · rw [settleDegraded_led, hled]
      · refine ⟨pointerOn x, ?_, rfl, .inl rfl⟩
        rw [echAt_settleDegraded e hech, echAt_modEch (f := pointerOn) hx fun _ => rfl]
  case rebuildWrite =>
    intro s u e p order picks x r hx hp hstate hserving hmode hlast hfound hidle hstripe hpos hphase hsolved hwrite
    have hexec := exec_rebuildStripe (order := order) (picks := picks) hx hp hstate hserving hmode (by omega)
    obtain ⟨-, he⟩ : r.kind = 6 ∧ r.echelon = e := by simpa using List.find?_some hfound
    have hstep : rebuildNext e order picks x.pointer p s = rebuildEnd picks r s := by
      unfold rebuildNext
      rw [hfound]
      refine (if_neg (by simp [hidle])).trans ((if_neg (by simp [hstripe, hpos, hphase])).trans
        ((if_neg (by simp [hphase])).trans ?_))
      exact if_neg (by simp [hsolved])
    have hech := rebuildEnd_written (picks := picks) (r := r) (u := u) (.inl hsolved) (by rw [he, hstripe]; exact hlast)
      (by rw [rebuiltCards, he, hpos]; exact hwrite)
    refine ⟨_, pointerOn x, hexec, ?_, rfl, rfl⟩
    rw [hstep, echAt_settleDegraded e hech, he, echAt_modEch (f := pointerOn) hx fun _ => rfl]
  case pointerStore =>
    intro s e x hx hmode hawake hroom
    have hx' := echAt_modEch (f := pointerStored) hx fun _ => rfl
    have hexec : exec (.rebuildPointerStore e) s = .next (rtAppend (0x40000 + e) (rtBinding (modEch e pointerStored s)
        (0x40000 + e)) x.pointer (modEch e pointerStored s)) := by
      change execRebuildPointerStore e s = _
      rw [execRebuildPointerStore, hx]
      exact congrArg Host.Outcome.next ((if_neg (by simp [hmode, hawake])).trans (if_pos hroom))
    refine ⟨_, pointerStored x, hexec, hx', rfl, rfl, rfl, rfl, rfl, rtAppend_last ..⟩

end Sys2Proof.Machine
end

section
/-! PROOFS. The clock through the operations that a start and a Coast entry share: none of them writes it. -/

namespace Sys2Proof.Machine

theorem clock_of_beyondMap {s t : State} (h : beyondMap t = beyondMap s) : t.clock = s.clock :=
  (congrArg State.clock h :)

/-- A fold of steps that leave the clock alone leaves it alone. -/
theorem foldl_clock {α : Type} {f : State → α → State} (hf : ∀ s a, (f s a).clock = s.clock) (l : List α) (s : State) :
    (l.foldl f s).clock = s.clock :=
  foldl_keeps State.clock f hf l s

/-! ## Records, modes, commands -/

@[simp] theorem record_clock (event : Nat) (payload : List (Nat × Nat)) (s : State) :
    (record event payload s).clock = s.clock := by
  rw [record_rest]

@[simp] theorem setMode_clock (m : Mode) (s : State) : (setMode m s).clock = s.clock := by
  unfold setMode
  split
  · rfl
  · exact (record_clock ..).trans rfl

@[simp] theorem finish_clock (slot : Nat) (st : Nat × Nat) (dw0 : Nat) (s : State) :
    (finish slot st dw0 s).clock = s.clock := by
  rw [finish_rest]

@[simp] theorem finishErr_clock (slot : Nat) (st : Nat × Nat) (s : State) : (finishErr slot st s).clock = s.clock :=
  finish_clock ..

@[simp] theorem asyncEvent_clock (typ info : Nat) (s : State) : (asyncEvent typ info s).clock = s.clock := by
  rw [asyncEvent_rest]

@[simp] theorem freeAllOf_clock (who : Requester) (s : State) : (freeAllOf who s).clock = s.clock := by
  obtain ⟨p, hp⟩ := freeAllOf_rest who s
  rw [hp]

@[simp] theorem dropBuffers_clock (slot : Nat) (s : State) : (dropBuffers slot s).clock = s.clock := by
  obtain ⟨p, hp⟩ := dropBuffers_rest slot s
  rw [hp]

@[simp] theorem inSlotOrder_clock (f : State → State) (s : State) : (inSlotOrder f s).clock = (f s).clock := rfl

@[simp] theorem modChan_clock (ch : Nat) (f : Channel → Channel) (s : State) : (modChan ch f s).clock = s.clock := by
  rw [modChan_rest]

/-! ## The Codex die -/

@[simp] theorem askErase_clock (n : Nat) (s : State) : (askErase n s).clock = s.clock := by
  rw [askErase_rest]

@[simp] theorem storeRt_clock (key value : Nat) (s : State) : (storeRt key value s).clock = s.clock := by
  obtain ⟨f, r, hstored⟩ := storeRt_rest key value s
  rw [hstored]

@[simp] theorem sectorErased_clock (n : Nat) (s : State) : (sectorErased n s).clock = s.clock := by
  obtain ⟨f, i, r, herased⟩ := sectorErased_rest n s
  rw [herased]

@[simp] theorem swapTo_clock (n : Nat) (s : State) : (swapTo n s).clock = s.clock := by
  obtain ⟨c, k, hswap⟩ := swapTo_rest n s
  rw [hswap]

@[simp] theorem dropSector_clock (n : Nat) (s : State) : (dropSector n s).clock = s.clock := by
  simp only [dropSector, apply_ite State.clock, modBlock_clock, ite_self]

@[simp] theorem startErase_clock (who addr : Nat) (s : State) : (startErase who addr s).clock = s.clock := by
  unfold startErase
  dsimp only
  split
  · rfl
  · split
    · rfl
    · exact (dropSector_clock ..).trans rfl

@[simp] theorem putSpine_clock (n : Nat) (r : SpineRec) (s : State) : (putSpine n r s).clock = s.clock := by
  unfold putSpine
  extract_lets s1
  split
  · exact (askErase_clock ..).trans rfl
  · rfl

theorem appendSpine_clock {kind : Nat} {m : MapSnap} {s t : State} (h : appendSpine kind m s = some t) :
    t.clock = s.clock := by
  unfold appendSpine at h
  obtain ⟨n, -, rfl⟩ := Option.map_eq_some_iff.mp h
  exact putSpine_clock ..

@[simp] theorem appendKey_clock (r : KeyRec) (s : State) : (appendKey r s).clock = s.clock := by
  unfold appendKey compactKeys
  split
  · rfl
  · split
    · rfl
    · exact (askErase_clock ..).trans ((foldl_clock (fun t x => putKey_clock x t) _ _).trans rfl)

@[simp] theorem newKey_clock (k : Nat) (sweepDone : Bool) (s : State) : (newKey k sweepDone s).clock = s.clock := by
  unfold newKey
  exact (appendKey_clock ..).trans rfl

/-! ## Rows, cards and block stripes -/

@[simp] theorem append_clock (r : LedgerRec) (s : State) : (append r s).clock = s.clock :=
  clock_of_beyondMap (append_beyondMap r s)

@[simp] theorem openStripe_clock (n stream : Nat) (s : State) : (openStripe n stream s).clock = s.clock :=
  clock_of_beyondMap (openStripe_beyondMap n stream s)

@[simp] theorem startExtent_clock (first : Bool) (s : State) : (startExtent first s).clock = s.clock :=
  clock_of_beyondMap (startExtent_beyondMap first s)

@[simp] theorem padCells_clock (id : Nat) (cells : List Nat) (s : State) : (padCells id cells s).clock = s.clock :=
  clock_of_beyondMap (padCells_beyondMap id cells s)

@[simp] theorem sealRow_clock (id : Nat) (s : State) : (sealRow id s).clock = s.clock := by
  unfold sealRow
  split
  · rfl
  · exact (padCells_clock ..).trans rfl

@[simp] theorem sealRows_clock (s : State) : (sealRows s).clock = s.clock := by
  unfold sealRows
  exact foldl_clock (fun t id => sealRow_clock id t) _ s

theorem placeSystems_clock (cards : List (List Nat)) : ∀ {s t : State} {ppas : List Ppa},
    placeSystems cards s = some (ppas, t) → t.clock = s.clock := by
  induction cards with
  | nil => intro s t ppas h; cases h; rfl
  | cons data cards ih =>
    intro s t ppas h
    unfold placeSystems at h
    split at h
    · cases h
    · rename_i hplaced
      obtain ⟨x, hx, hpair⟩ := Option.map_eq_some_iff.mp h
      obtain ⟨-, rfl⟩ := Prod.mk.inj hpair
      exact (ih hx).trans (clock_of_beyondMap (placeSystem_beyondMap hplaced))

@[simp] theorem placeList_clock (n : Nat) (s : State) : (placeList n s).clock = s.clock := by
  unfold placeList
  dsimp only
  split
  · exact (clock_of_beyondMap (stallRow_beyondMap ..)).trans rfl
  · rename_i hplaced
    have hplace := placeSystems_clock _ hplaced
    exact (freeAllOf_clock ..).trans hplace

@[simp] theorem closeStripe_clock (n : Nat) (s : State) : (closeStripe n s).clock = s.clock := by
  unfold closeStripe
  dsimp only
  split
  · rfl
  · split
    · rfl
    · exact (placeList_clock ..).trans rfl

theorem rewriteCard_clock {shelf i : Nat} {old new : Ppa} {x : Stored} {pick : Nat} {s t : State}
    (h : rewriteCard shelf i old x pick s = some (new, t)) : t.clock = s.clock := by
  unfold rewriteCard at h
  split at h
  · rename_i htaken
    obtain ⟨-, rfl⟩ := Prod.mk.inj (Option.some.inj h)
    have htake := clock_of_beyondMap (takeWithin_beyondMap _ htaken)
    exact (append_clock ..).trans ((clock_of_beyondMap (fillCells_beyondMap ..)).trans htake)
  · cases h

@[simp] theorem foxSet_clock (shelf card : Nat) (ppa : Ppa) (cause : Nat) (s : State) :
    (foxSet shelf card ppa cause s).clock = s.clock :=
  (record_clock ..).trans (append_clock _ s)

@[simp] theorem storeDay_clock (n first : Nat) (rs : List DayRec) (s : State) :
    (storeDay n first rs s).clock = s.clock := by
  obtain ⟨d, hstored⟩ := storeDay_rest n first rs s
  have hcards : (storeDayCards n first rs s).clock = s.clock := by
    unfold storeDayCards
    refine foldl_clock (fun t c => ?_) _ s
    rw [systemParity_rest]
  rw [hstored]
  exact hcards

/-! ## Shelves and their loads -/

@[simp] theorem settleShelf_clock (shelf : Nat) (s : State) : (settleShelf shelf s).clock = s.clock := by
  unfold settleShelf
  exact (foldl_clock (fun t r => clock_of_beyondMap (applyNow_beyondMap r t)) _ _).trans rfl

@[simp] theorem settleOrLoad_clock (shelf : Nat) (s : State) : (settleOrLoad shelf s).clock = s.clock := by
  unfold settleOrLoad
  split
  · exact settleShelf_clock ..
  · exact clock_of_beyondMap (startLoadAt_beyondMap ..)

@[simp] theorem loadPage_clock (c : Nat) (s : State) : (loadPage c s).clock = s.clock := by
  unfold loadPage
  exact (foldl_clock (fun t shelf => settleOrLoad_clock shelf t) _ _).trans rfl

/-! ## Ports and echelons -/

@[simp] theorem loseLink_clock (p : Nat) (s : State) : (loseLink p s).clock = s.clock := by
  unfold loseLink
  dsimp only
  split
  · rfl
  · split <;> rfl

@[simp] theorem settleAna_clock (s : State) : (settleAna s).clock = s.clock := by
  unfold settleAna
  refine foldl_clock (fun t x => ?_) _ s
  dsimp only
  split
  · rfl
  · exact (asyncEvent_clock ..).trans rfl

/-! ## Coast's entry and Preserve's (R105, R174) -/

@[simp] theorem portsCoast_clock (s : State) : (portsCoast s).clock = s.clock := by
  have hport (t : State) (p : Nat) :
      (modPort p (fun x => { x with aliveTx := false }) (loseLink p t)).clock = t.clock :=
    (modPort_clock ..).trans (loseLink_clock p t)
  unfold portsCoast
  exact foldl_clock hport _ s

@[simp] theorem codexCoast_clock (s : State) : (codexCoast s).clock = s.clock := by
  unfold codexCoast
  split <;> rfl

@[simp] theorem abandonTest_clock (s : State) : (abandonTest s).clock = s.clock := by
  unfold abandonTest
  split <;> rfl

@[simp] theorem coastLane_clock (lane : Nat) (s : State) : (coastLane lane s).clock = s.clock := by
  unfold coastLane
  refine foldl_clock (fun t x => ?_) _ s
  exact (append_clock ..).trans rfl

@[simp] theorem leaveStacks_clock (s : State) : (leaveStacks s).clock = s.clock := by
  have hbuffers (l : List OpenRow) (t : State) : (l.foldl (fun t r => match r.buffer with
      | some (p, a) => freeBuffer p a t
      | none => t) t).clock = t.clock := by
    refine foldl_clock (fun t r => ?_) l t
    split <;> rfl
  unfold leaveStacks
  refine (hbuffers _ _).trans ?_
  change State.clock (List.foldl _ s _) = s.clock
  exact foldl_clock (fun t n => modBlk_clock n _ t) _ s

@[simp] theorem placementEnds_clock (s : State) : (placementEnds s).clock = s.clock := by
  unfold placementEnds
  exact (leaveStacks_clock _).trans ((foldl_clock (fun t lane => coastLane_clock lane t) _ _).trans rfl)

@[simp] theorem sealStripes_clock (s : State) : (sealStripes s).clock = s.clock := by
  unfold sealStripes
  refine foldl_clock (fun t r => foldl_clock (fun u p => ?_) _ t) _ s
  dsimp only
  split
  · exact padCells_clock ..
  · rfl

@[simp] theorem coastRuns_clock (cause : CoastCause) (s : State) : (coastRuns cause s).clock = s.clock := by
  have hports : (codexCoast (portsCoast (tilesCoast (abandonTest s)))).clock = s.clock :=
    (codexCoast_clock _).trans ((portsCoast_clock _).trans (abandonTest_clock s))
  unfold coastRuns
  generalize codexCoast (portsCoast (tilesCoast (abandonTest s))) = s1 at hports ⊢
  refine (sealStripes_clock _).trans ((record_clock ..).trans ((placementEnds_clock _).trans ?_))
  exact (setMode_clock ..).trans hports

@[simp] theorem coastEntry_clock (cause : CoastCause) (s : State) : (coastEntry cause s).clock = s.clock := by
  unfold coastEntry
  split
  · exact coastRuns_clock ..
  · exact coastRuns_clock ..
  · exact coastRuns_clock ..
  · exact coastRuns_clock ..
  · rfl
  · rfl

@[simp] theorem shutdownAdvance_clock (s : State) : (shutdownAdvance s).clock = s.clock := by
  unfold shutdownAdvance
  split
  · rfl
  · dsimp only
    split
    · exact sealRows_clock s
    · exact (coastEntry_clock ..).trans (sealRows_clock s)

@[simp] theorem enterPreserve_clock (s : State) : (enterPreserve s).clock = s.clock := by
  unfold enterPreserve
  dsimp only
  rw [inSlotOrder_clock]
  refine (foldl_clock (fun t n => (finishErr_clock ..).trans (dropBuffers_clock n t)) _ _).trans ?_
  exact (setMode_clock ..).trans ((storeRt_clock ..).trans (record_clock ..))

end Sys2Proof.Machine
end

section
/-! PROOFS. The clock through the start (R176 to R193): no step of it writes the microseconds, and the operating time is
written by `rebase` alone. -/

namespace Sys2Proof.Machine

/-! ## Image sets, folio and roster (R193, R410, R422) -/

@[simp] theorem enterRecovery_clock (reason : Nat) (s : State) : (enterRecovery reason s).clock = s.clock := by
  unfold enterRecovery
  dsimp only
  split
  · rfl
  · exact (record_clock ..).trans rfl

theorem chooseRunning_clock {s t : State} (h : chooseRunning s = some t) : t.clock = s.clock := by
  unfold chooseRunning at h
  dsimp only at h
  split at h
  · obtain rfl := Option.some.inj h
    split <;> rfl
  · split at h
    · obtain rfl := Option.some.inj h
      exact (swapTo_clock ..).trans rfl
    · cases h

theorem streamSet_clock {s t : State} (h : streamSet s = some t) : t.clock = s.clock := by
  unfold streamSet at h
  dsimp only at h
  split at h
  · rw [← Option.some.inj h]
  · exact chooseRunning_clock h

theorem firstCheck_clock {s t : State} (h : firstCheck s = some t) : t.clock = s.clock := by
  unfold firstCheck chooseSet at h
  dsimp only at h
  split at h
  · rw [← Option.some.inj h]
  · split at h
    · split at h
      · obtain rfl := Option.some.inj h
        exact (swapTo_clock ..).trans rfl
      · exact (chooseRunning_clock h).trans (record_clock ..)
    · exact chooseRunning_clock h

@[simp] theorem spineStart_clock (s : State) : (spineStart s).clock = s.clock := by
  unfold spineStart
  extract_lets a other s1
  split
  · exact (startErase_clock ..).trans rfl
  · rfl

@[simp] theorem loadIdentity_clock (s : State) : (loadIdentity s).clock = s.clock := rfl

@[simp] theorem noteBank_clock (isB : Bool) (s : State) : (noteBank isB s).clock = s.clock := by
  unfold noteBank
  split
  · rfl
  · rfl
  · exact record_clock ..

@[simp] theorem countPower_clock (s : State) : (countPower s).clock = s.clock := by
  unfold countPower
  dsimp only
  split
  · exact (askErase_clock ..).trans rfl
  · rfl

@[simp] theorem takeBank_clock (isB : Bool) (s : State) : (takeBank isB s).clock = s.clock := rfl

@[simp] theorem lockstepOnce_clock (s : State) : (lockstepOnce s).clock = s.clock :=
  (record_clock ..).trans rfl

/-- A port whose ALIVE is driven trains at once with a partner that is up. -/
theorem raisePort_clock (p : Nat) (f : Port → Port) (c : State → Bool) (s : State) :
    (if c (modPort p f s) then startTraining p (modPort p f s) else modPort p f s).clock = s.clock := by
  split <;> rfl

@[simp] theorem portsUp_clock (s : State) : (portsUp s).clock = s.clock := by
  unfold portsUp
  refine (foldl_clock (fun t p => ?_) _ _).trans rfl
  split
  · exact raisePort_clock p _ (fun u => (portAt u p).partner) t
  · rfl

@[simp] theorem raiseAlive_clock (pick : Nat → Bool) (s : State) : (raiseAlive pick s).clock = s.clock := by
  unfold raiseAlive
  refine foldl_clock (fun t p => ?_) _ s
  exact raisePort_clock p _ (fun u => (portAt u p).partner && (portAt u p).state = 0) t

@[simp] theorem recoveryPorts_clock (s : State) : (recoveryPorts s).clock = s.clock := by
  unfold recoveryPorts
  split
  · rfl
  · refine (raiseAlive_clock ..).trans ?_
    split
    · rfl
    · split
      · rfl
      · refine (portsUp_clock _).trans ?_
        split <;> rfl

/-! ## DRAM, flash channels and keys (R53, R185) -/

@[simp] theorem appendTraining_clock (isB : Bool) (r : TrainRec) (s : State) :
    (appendTraining isB r s).clock = s.clock := by
  unfold appendTraining
  dsimp only
  split <;> rfl

@[simp] theorem noteTraining_clock (kind unit rate m : Nat) (s : State) :
    (noteTraining kind unit rate m s).clock = s.clock := by
  unfold noteTraining
  split
  · rfl
  · exact (appendTraining_clock ..).trans rfl

theorem dramStart_clock {f : StartFacts} {s t : State} (h : dramStart f s = some t) : t.clock = s.clock := by
  unfold dramStart at h
  dsimp only at h
  split at h
  · cases h
  · obtain rfl := Option.some.inj h
    change State.clock (ite _ _ _) = s.clock
    split
    · exact (foldl_clock (fun t u => noteTraining_clock ..) _ _).trans rfl
    · rfl

@[simp] theorem bootChange_clock (ch : Nat) (f : Roster → Roster) (s : State) : (bootChange ch f s).clock = s.clock :=
  modChan_clock ..

@[simp] theorem bootRetire_clock (ch t reason : Nat) (s : State) : (bootRetire ch t reason s).clock = s.clock := by
  unfold bootRetire
  split
  · rfl
  · exact (record_clock ..).trans (bootChange_clock ..)

@[simp] theorem bootRetireChannel_clock (ch reason : Nat) (s : State) :
    (bootRetireChannel ch reason s).clock = s.clock := by
  unfold bootRetireChannel
  exact (record_clock ..).trans ((bootChange_clock ..).trans (foldl_clock (fun t d => bootRetire_clock ch d reason t) _ s))

@[simp] theorem openChannel_clock (ch : Nat) (train : Bool) (s : State) : (openChannel ch train s).clock = s.clock := rfl

@[simp] theorem trainChannel_clock (f : StartFacts) (ch : Nat) (s : State) : (trainChannel f ch s).clock = s.clock := by
  have hmissing (reason : Nat) (l : List Nat) (t : State) :
      (l.foldl (fun t d => bootRetire ch d reason t) t).clock = t.clock :=
    foldl_clock (fun t d => bootRetire_clock ch d reason t) l t
  unfold trainChannel
  split
  · rfl
  · simp only [apply_ite State.clock, noteTraining_clock, bootChange_clock, openChannel_clock, modChan_clock,
      bootRetireChannel_clock, record_clock, hmissing, ite_self]

@[simp] theorem trainAll_clock (f : StartFacts) (s : State) : (trainAll f s).clock = s.clock := by
  unfold trainAll
  exact foldl_clock (fun t ch => trainChannel_clock f ch t) _ s

@[simp] theorem unwrapSlot_clock (f : StartFacts) (k : Nat) (s : State) : (unwrapSlot f k s).clock = s.clock := by
  unfold unwrapSlot
  split
  · rfl
  · split
    · rfl
    · exact (record_clock ..).trans rfl

@[simp] theorem keyStart_clock (f : StartFacts) (s : State) : (keyStart f s).clock = s.clock := by
  unfold keyStart
  exact (foldl_clock (fun t k => unwrapSlot_clock f k t) _ _).trans rfl

/-! ## The map and the Ledger behind it (R178 to R182) -/

@[simp] theorem replayPlace_clock (p : Ppa) (shelf card : Nat) (s : State) :
    (replayPlace p shelf card s).clock = s.clock := by
  unfold replayPlace
  split
  · rfl
  · extract_lets t
    have ht : t.clock = s.clock := by
      unfold t
      split <;> simp
    clear_value t
    split
    · exact ht
    · split <;> exact ht

@[simp] theorem replayBlock_clock (r : LedgerRec) (s : State) : (replayBlock s r).clock = s.clock := by
  have hrun : ((List.range 16).foldl (fun t i => replayPlace (runCard r.newPpa i) r.shelf i t) s).clock = s.clock :=
    foldl_clock (fun t i => replayPlace_clock ..) _ s
  unfold replayBlock
  split
  · exact replayPlace_clock ..
  · exact replayPlace_clock ..
  · exact hrun
  · exact hrun
  · split <;> simp
  · split
    · split <;> simp
    · rfl
  · split <;> rfl
  · split <;> rfl
  · rfl

@[simp] theorem recountValid_clock (s : State) : (recountValid s).clock = s.clock := by
  unfold recountValid
  refine (foldl_clock (fun t p => ?_) _ _).trans rfl
  rw [gainValid_rest]

@[simp] theorem retiredBlocks_clock (s : State) : (retiredBlocks s).clock = s.clock := by
  unfold retiredBlocks
  refine foldl_clock (fun t r => ?_) _ s
  split <;> rfl

@[simp] theorem loadMap_clock (f : StartFacts) (w : SpineRec) (s : State) : (loadMap f w s).clock = s.clock := by
  unfold loadMap
  dsimp only
  refine (retiredBlocks_clock _).trans ((recountValid_clock _).trans ?_)
  exact (foldl_clock (fun t r => replayBlock_clock r t) _ _).trans rfl

@[simp] theorem accountLoss_clock (f : StartFacts) (r : SpineRec) (s : State) : (accountLoss f r s).clock = s.clock := by
  unfold accountLoss
  split
  · rfl
  · exact (record_clock ..).trans rfl

@[simp] theorem probe_clock (s : State) : (probe s).clock = s.clock := by
  unfold probe
  refine foldl_clock (fun t n => ?_) _ s
  unfold probeOpen
  split <;> simp

@[simp] theorem closeListed_clock (n : Nat) (s : State) : (closeListed n s).clock = s.clock := by
  unfold closeListed
  split <;> rfl

@[simp] theorem settleOpen_clock (f : StartFacts) (s : State) : (settleOpen f s).clock = s.clock := by
  unfold settleOpen
  exact (foldl_clock (fun t n => closeListed_clock n t) _ _).trans (probe_clock s)

@[simp] theorem enterOrphans_clock (n : Nat) (s : State) : (enterOrphans n s).clock = s.clock := by
  unfold enterOrphans
  split
  · rfl
  · exact (placeList_clock ..).trans rfl

@[simp] theorem settleTorn_clock (f : StartFacts) (x : Nat × Nat × Ppa) (s : State) :
    (settleTorn f x s).clock = s.clock := by
  obtain ⟨sh, i, p⟩ := x
  have hforced : (match ppaEntry s p with | some n => forceVictim n none s | none => s).clock = s.clock := by
    split <;> rfl
  unfold settleTorn
  dsimp only
  split
  · rfl
  · split
    · split
      · rename_i hrewritten
        exact (rewriteCard_clock hrewritten).trans hforced
      · exact hforced
    · split
      · rename_i hrewritten
        exact (foxSet_clock ..).trans ((rewriteCard_clock hrewritten).trans hforced)
      · exact hforced

@[simp] theorem settleCards_clock (f : StartFacts) (l : List Nat) (s : State) : (settleCards f l s).clock = s.clock := by
  unfold settleCards
  exact (foldl_clock (fun t n => enterOrphans_clock n t) _ _).trans (foldl_clock (fun t x => settleTorn_clock f x t) _ s)

@[simp] theorem firstExtent_clock (s : State) : (firstExtent s).clock = s.clock := by
  unfold firstExtent
  dsimp only
  split
  · exact (startExtent_clock ..).trans (clock_of_beyondMap (allocExtent_beyondMap s))
  · refine (startExtent_clock ..).trans ?_
    split
    · exact (openStripe_clock ..).trans rfl
    · rfl

/-! ## Daybook, reserves, spine and Preserve -/

@[simp] theorem openDay_clock (s : State) : (openDay s).clock = s.clock := by
  unfold openDay
  dsimp only
  split
  · rfl
  · exact (record_clock ..).trans ((openStripe_clock ..).trans rfl)

@[simp] theorem takeReserve_clock (n : Nat) : ∀ s : State, (takeReserve n s).clock = s.clock := by
  induction n with
  | zero => intro s; rfl
  | succ n ih =>
    intro s
    unfold takeReserve
    split
    · rfl
    · split
      · rfl
      · exact (ih _).trans rfl

@[simp] theorem takeReserves_clock (s : State) : (takeReserves s).clock = s.clock :=
  takeReserve_clock _ s

@[simp] theorem startRecords_clock (newest : Nat) (s : State) : (startRecords newest s).clock = s.clock := by
  unfold startRecords flushDay
  exact (storeDay_clock ..).trans ((record_clock ..).trans (record_clock ..))

@[simp] theorem startSpine_clock (s : State) : (startSpine s).clock = s.clock := by
  unfold startSpine
  extract_lets other _ s1
  have hs1 : s1.clock = s.clock := by
    unfold s1
    split
    · rfl
    · exact (sectorErased_clock ..).trans rfl
  clear_value s1
  split
  · rename_i happended
    have hspine := (appendSpine_clock happended).trans hs1
    split <;> exact hspine
  · exact hs1

@[simp] theorem weighPreserve_clock (s : State) : (weighPreserve s).clock = s.clock := by
  unfold weighPreserve
  dsimp only
  split
  · exact (storeRt_clock ..).trans rfl
  · rfl

@[simp] theorem numberDay_clock (unsafeStart : Bool) (s : State) : (numberDay unsafeStart s).clock = s.clock := rfl

@[simp] theorem resumeRebuilds_clock (s : State) : (resumeRebuilds s).clock = s.clock := rfl

@[simp] theorem finishRoot_clock (unsafeStart : Bool) (newest : Nat) (s : State) :
    (finishRoot unsafeStart newest s).clock = s.clock := by
  unfold finishRoot
  refine (weighPreserve_clock _).trans ((startSpine_clock _).trans ((startRecords_clock ..).trans ?_))
  refine (resumeRebuilds_clock _).trans ((takeReserves_clock _).trans ((openDay_clock _).trans ?_))
  exact (numberDay_clock ..).trans rfl

/-! ## Namespaces of the first start and of the echelons -/

@[simp] theorem makeNamespace_clock (n : Namespace) (s : State) : (makeNamespace n s).clock = s.clock :=
  (newKey_clock ..).trans rfl

@[simp] theorem makeDefault_clock (d : NsDefault) (s : State) : (makeDefault d s).clock = s.clock := by
  unfold makeDefault
  dsimp only
  split
  · exact makeNamespace_clock ..
  · rfl

@[simp] theorem takeShares_clock (s : State) : (takeShares s).clock = s.clock := by
  have hshare (t : State) (c : EchelonEntry) : (makeShare c t).clock = t.clock := by
    unfold makeShare
    dsimp only
    split
    · rfl
    · split
      · rfl
      · exact makeNamespace_clock ..
  unfold takeShares
  split
  · exact foldl_clock hshare _ s
  · rfl

@[simp] theorem firstStart_clock (s : State) : (firstStart s).clock = s.clock := by
  unfold firstStart
  dsimp only
  split
  · rfl
  · exact (storeRt_clock ..).trans ((foldl_clock (fun t d => makeDefault_clock d t) _ _).trans (takeShares_clock _))

/-! ## The root: the one place where the operating time is written (R375) -/

theorem rebase_us (s : State) : (rebase s).clock.us = s.clock.us := by
  unfold rebase
  dsimp only
  split <;> rfl

@[simp] theorem foundIntents_clock (s : State) : (foundIntents s).clock = s.clock := rfl

@[simp] theorem restoreCounts_clock (s : State) : (restoreCounts s).clock = s.clock := rfl

/-- What follows the loading of the map leaves the clock alone. -/
theorem recoverMap_us (f : StartFacts) (r : SpineRec) (s : State) : (recoverMap f r s).clock.us = s.clock.us := by
  have hloaded : (loadMap f r (restoreCounts (rebase s))).clock = (rebase s).clock :=
    (loadMap_clock ..).trans (restoreCounts_clock _)
  unfold recoverMap
  dsimp only
  generalize loadMap f r (restoreCounts (rebase s)) = s1 at hloaded ⊢
  refine (congrArg Clock.us ?_).trans (rebase_us s)
  refine (finishRoot_clock ..).trans ((foundIntents_clock _).trans ((takeShares_clock _).trans ((settleCards_clock ..).trans ?_)))
  exact (firstExtent_clock _).trans ((settleOpen_clock ..).trans ((accountLoss_clock ..).trans hloaded))

theorem rootStart_us (f : StartFacts) (s : State) : (rootStart f s).1.clock.us = s.clock.us := by
  have hfirst : (finishRoot false 0 (firstExtent (firstStart (restoreCounts (rebase s))))).clock = (rebase s).clock :=
    (finishRoot_clock ..).trans ((firstExtent_clock _).trans ((firstStart_clock _).trans (restoreCounts_clock _)))
  unfold rootStart
  split
  · split
    · rfl
    · dsimp only
      exact recoverMap_us ..
  · split
    · refine Eq.trans ?_ (rebase_us s)
      exact congrArg Clock.us hfirst
    · rfl

/-! ## The engines (R187) -/

@[simp] theorem echelonsStart_clock (s : State) : (echelonsStart s).clock = s.clock := by
  unfold echelonsStart
  split
  · rfl
  · exact (settleAna_clock _).trans rfl

@[simp] theorem slotsStart_clock (s : State) : (slotsStart s).clock = s.clock := by
  unfold slotsStart
  split <;> rfl

@[simp] theorem confirmSet_clock (s : State) : (confirmSet s).clock = s.clock := by
  unfold confirmSet
  dsimp only
  split
  · rfl
  · exact (record_clock ..).trans rfl

@[simp] theorem takeCoastStripes_clock (s : State) : (takeCoastStripes s).clock = s.clock := by
  unfold takeCoastStripes
  refine foldl_clock (fun t g => ?_) _ s
  unfold takeCoastStripe
  split
  · rfl
  · split
    · rfl
    · exact openStripe_clock ..

@[simp] theorem librarianStart_clock (s : State) : (librarianStart s).clock = s.clock := by
  have hzeroised (l : List Nat) : (l.foldl (fun t k => match recInForce t k with
      | some r => zeroiseBelow k r.gen t
      | none => t) s).clock = s.clock := by
    refine foldl_clock (fun t k => ?_) l s
    split <;> rfl
  have herases (l : List Nat) (t : State) : (l.foldl (fun t n => askErase n t) t).clock = t.clock :=
    foldl_clock (fun t n => askErase_clock n t) l t
  unfold librarianStart
  dsimp only
  split
  · exact (herases ..).trans (hzeroised _)
  · refine (askErase_clock ..).trans ((askErase_clock ..).trans ?_)
    dsimp only
    exact (foldl_clock (fun t r => placeRecord_clock _ t) _ _).trans ((herases ..).trans (hzeroised _))

@[simp] theorem createPages_clock (s : State) : (createPages s).clock = s.clock := by
  unfold createPages
  exact foldl_clock (fun t c => loadPage_clock c t) _ s

@[simp] theorem requestTest_clock (s : State) : (requestTest s).clock = s.clock := by
  unfold requestTest
  split <;> rfl

@[simp] theorem readyPoint_clock (s : State) : (readyPoint s).clock = s.clock := by
  unfold readyPoint
  dsimp only
  refine (requestTest_clock _).trans ((librarianStart_clock _).trans ?_)
  change (ite _ _ _ : State).clock = _
  split
  · exact (enterPreserve_clock _).trans (createPages_clock _)
  · exact (setMode_clock ..).trans (createPages_clock _)

@[simp] theorem engineStart_clock (s : State) : (engineStart s).clock = s.clock := by
  unfold engineStart
  refine (readyPoint_clock _).trans ((takeCoastStripes_clock _).trans ((confirmSet_clock _).trans ?_))
  exact (slotsStart_clock _).trans ((echelonsStart_clock _).trans rfl)

/-! ## The steps of the start, and a microsecond -/

@[simp] theorem logSteps_clock (f : StartFacts) (n : Nat) (s : State) : (logSteps f n s).clock = s.clock := rfl

@[simp] theorem wakeLink_clock (s : State) : (wakeLink s).clock = s.clock := rfl

theorem stepColophon_clock (f : StartFacts) (s : State) : (stepColophon f s).clock = s.clock := by
  unfold stepColophon
  split
  · exact enterRecovery_clock ..
  · split
    · exact enterRecovery_clock ..
    · rename_i hset
      exact (streamSet_clock hset).trans (spineStart_clock s)

theorem stepFolio_clock (f : StartFacts) (s : State) : (stepFolio f s).clock = s.clock := by
  unfold stepFolio
  split
  · exact enterRecovery_clock ..
  · rename_i s1 hset
    have hbanks : (noteBank true (noteBank false (loadIdentity s1))).clock = s.clock :=
      (noteBank_clock ..).trans ((noteBank_clock ..).trans ((loadIdentity_clock s1).trans (firstCheck_clock hset)))
    dsimp only
    generalize noteBank true (noteBank false (loadIdentity s1)) = t at hbanks ⊢
    split
    · exact (enterRecovery_clock ..).trans hbanks
    · rename_i b hbank
      have hcounted : (if f.lockstepBad = 0 then countPower (takeBank b t)
          else lockstepOnce (countPower (takeBank b t))).clock = s.clock := by
        split <;> simp [hbanks]
      generalize (if f.lockstepBad = 0 then countPower (takeBank b t)
        else lockstepOnce (countPower (takeBank b t))) = v at hcounted ⊢
      split
      · exact (enterRecovery_clock ..).trans hcounted
      · exact (logSteps_clock ..).trans ((wakeLink_clock _).trans ((portsUp_clock _).trans hcounted))

theorem stepDram_clock (f : StartFacts) (s : State) : (stepDram f s).clock = s.clock := by
  unfold stepDram
  dsimp only
  split
  · exact (enterRecovery_clock ..).trans rfl
  · rename_i hstarted
    have hclock := dramStart_clock hstarted
    exact (logSteps_clock ..).trans hclock

theorem stepFlash_clock (f : StartFacts) (s : State) : (stepFlash f s).clock = s.clock := by
  have htrained : (trainAll f (wakeTiles (buildRoster s))).clock = s.clock :=
    (trainAll_clock ..).trans rfl
  unfold stepFlash
  dsimp only
  split
  · exact (enterRecovery_clock ..).trans htrained
  · exact (logSteps_clock ..).trans ((keyStart_clock ..).trans htrained)

theorem stepRoot_us (f : StartFacts) (s : State) : (stepRoot f s).clock.us = s.clock.us := by
  have hroot : (rootStart f (wakeDecoders s)).1.clock.us = s.clock.us := rootStart_us f (wakeDecoders s)
  unfold stepRoot
  split
  · rename_i t hstarted
    rw [hstarted] at hroot
    exact hroot
  · rename_i t reason _ hstarted
    rw [hstarted] at hroot
    rw [enterRecovery_clock]
    exact hroot

theorem stepEngines_clock (f : StartFacts) (s : State) : (stepEngines f s).clock = s.clock := by
  unfold stepEngines
  split
  · exact enterRecovery_clock ..
  · exact (logSteps_clock ..).trans (engineStart_clock s)

theorem startStep_us (f : StartFacts) (n : Nat) (s : State) : (startStep f n s).clock.us = s.clock.us := by
  unfold startStep
  split
  · rw [stepColophon_clock]
  · rw [stepFolio_clock]
  · rw [stepDram_clock]
  · rw [stepFlash_clock]
  · exact stepRoot_us f s
  · rw [stepEngines_clock]

theorem startAdvance_us (s : State) : (startAdvance s).clock.us = s.clock.us := by
  unfold startAdvance
  split
  · rfl
  · exact (congrArg Clock.us (recoveryPorts_clock _)).trans (startStep_us ..)

theorem tickMs_us (s : State) : (tickMs s).clock.us = s.clock.us := by
  unfold tickMs tickMinute
  dsimp only
  split
  · split <;> rfl
  · rfl

/-- A powered part's clock has advanced by one microsecond. -/
theorem tick_us {s : State} (hpower : s.mode.mode ≠ .unpowered) : (tick s).clock.us = s.clock.us + 1 := by
  have hgates (t : State) : (tickGates t).clock = t.clock := by
    unfold tickGates
    split <;> rfl
  unfold tick
  rw [if_neg hpower]
  extract_lets _ t u
  have hu : u.clock.us = s.clock.us + 1 := by
    unfold u
    split
    · exact tickMs_us t
    · rfl
  rw [hgates, shutdownAdvance_clock, startAdvance_us, hu]

/-- Settles O56: `step` asks the queue alone which it does. The queue and the tick are the model's own, log entries 1
and 2. -/
theorem frontCommandRuns : Obligations.FrontCommandRuns := by
  refine ⟨fun s c rest hqueue => step_cons hqueue, fun s hqueue hpower => ?off, fun s hqueue hpower => ?on⟩
  case off => rw [step_nil hqueue, tick, if_pos hpower]
  case on => exact ⟨_, step_nil hqueue, tick_us hpower, (tick_core s).1.trans hqueue⟩

end Sys2Proof.Machine
end
